-- ==== Sys2Proof/Word.lean ====
section
/-! DEFINITION. The word types of the ZNC1024: 32-bit registers (R5), bytes, and the wider
quantities that software sees as words. Plain arithmetic only; every bit-field and byte-order
helper stands in Sys2Proof/Machine/Bits.lean. -/

namespace Sys2Proof

/-- A 32-bit register value (R5). -/
abbrev Word := BitVec 32

/-- One byte of a memory, a frame or a message. -/
abbrev Byte := BitVec 8

/-- A 16-bit status code (R9). -/
abbrev Status := Nat

end Sys2Proof
end

