-- ==== Sys2Proof/Syntax.lean ====
section
/-! DEFINITION. The commands of the ZNC1024 block: one constructor of `Instr` for each row of
spec/opcode_table.json, with the operands that the outside world, or the block's own engine at that
instant, supplies. Analog outcomes (a detection, an energy, a rail level, a lock) and what arrives on a
link are operands; everything the device computes is the command's effect on `State`. -/

namespace Sys2Proof

/-- Who makes a register or memory access (R24, R431). -/
inductive Initiator where
  /-- Doldon core Cn; its security state is the core's own. -/
  | core (n : Nat)
  /-- The host through BAR0 or BAR2, or the serial-port host, whose accesses act exactly alike (R330). -/
  | host
  /-- A Tempo pair. -/
  | tempo
  /-- The debug port (client V19). -/
  | debug
  /-- Any other initiator of R12. -/
  | other
  deriving DecidableEq, Repr

/-- What one preamble detector measured (R122, R123). Levels are 0.5 dB steps above −128 dBm. -/
structure Detection where
  /-- Sub-GHz band. -/
  sub : Bool
  /-- Channel 11–26, or band-plan index. -/
  chan : Nat
  /-- 0 O-QPSK; 1 Blitz; 2 SUN-FSK. -/
  phy : Nat
  ant : Nat
  /-- Highest per-antenna preamble level on the channel, 0.5 dB steps above −128 dBm. -/
  level : Nat
  /-- Preamble level on the detector's own antenna. -/
  own : Nat
  /-- Lowest normalized correlation over the span, × 256. -/
  corr : Nat
  /-- Consecutive symbols over which the correlation held. -/
  run : Nat
  /-- Bit errors of the Blitz sync word. -/
  errors : Nat
  /-- Symbol timing within the self-match bound of the lane decoding on the channel. -/
  selfTiming : Bool
  /-- Normalized correlation with that lane's phase vector, × 1000. -/
  phaseCorr : Nat
  deriving DecidableEq, Repr

/-- A complex number, as the channel estimates of R129 are. -/
structure Cplx where
  re : Rat
  im : Rat
  deriving DecidableEq, Repr

/-- Lane B's measurement of a forked frame (R134): the channel estimate of each antenna, and the TMB of the first sample of
the frame's preamble. -/
structure ForkEstimate where
  h : List Cplx
  start : Nat
  deriving DecidableEq, Repr

/-- An engine at a block boundary (R405, R421): its number, and the octets that the copy of its hold buffer has written, 0
where it has not begun. -/
structure BlockBoundary where
  engine : Nat
  copied : Nat
  deriving DecidableEq, Repr

/-- What a lane measured up to its freeze point (R129, R130, R138). -/
structure FreezeInfo where
  agcGain : Nat
  /-- Channel estimate of each antenna. -/
  h : List Cplx
  /-- RSSI of each antenna, 0.5 dB steps above −128 dBm. -/
  rssi : List Nat
  phase : List Nat
  /-- Carrier offset, 16 bits two's complement, 8 Hz units. -/
  freqOff : Nat
  /-- Fraction of TIMESTAMP in 1/8 tick. -/
  tsFrac : Nat
  deriving DecidableEq, Repr


/-- Powers that the mask monitor measured in a window on one side of the carrier, in hundredths of a dBm at the ball: the
reference segment and the two outer segments of Table 08.4 (R169). -/
structure MaskPowers where
  s0 : Int
  s1 : Int
  s2 : Int
  deriving DecidableEq, Repr

/-- The operation whose OTP bit finishes programming (R179, R380, R391). -/
inductive OtpUser where
  /-- REG_PROG or SEAL; `good`: the bit reads back as programmed. -/
  | region (good : Bool)
  /-- PROG_KR. -/
  | keyRows
  /-- A life-cycle transition. -/
  | lifeCycle
  deriving DecidableEq, Repr

/-- A parity fault that a running cipher request meets (R408, R421). -/
inductive CipherFault where
  | none
  /-- The input word at an address failed that many fetches. -/
  | source (addr fails : Nat)
  /-- A word at an offset in the engine's two buffers failed that many fetches. -/
  | hold (off fails : Nat)
  deriving DecidableEq, Repr

/-- A frame on the CSPS pins (R326, R327): the bits of the command byte received, the rising edges while the
select was low, the octets that the host drove after the command, and the edge at which CSPS_RDY was low. -/
structure CspsFrame where
  cmd : Nat
  edges : Nat
  body : List Byte
  viol : Option Nat
  fails : Nat := 0
  deriving DecidableEq, Repr

/-- What raises a client coexistence request: the frame committed to a TX chain, or the coming receive window of a
node, by its slot (R109). -/
inductive CoexClient where
  | chain (n : Nat)
  | window (slot : Nat)
  deriving DecidableEq, Repr


/-- A parity fault that a work item of a receive pair meets (R421): the node-context read failed that many fetches,
or another read at an address. -/
inductive PairFault where
  | none
  | context (fails : Nat)
  | other (addr fails : Nat)
  deriving DecidableEq, Repr

/-- The work item in which a pair's comparator finds a mismatch (R200): none, the head completion of its FIFO, the
verify with a cipher request number, or an acknowledgement that TP3 has not committed, by its frame number. -/
inductive LockItem where
  | boundary
  | fifo
  | verify (req : Nat)
  | ack (id : Nat)
  deriving DecidableEq, Repr

/-- What a vote lead belongs to: the window of a node, by its slot, or a slot-program entry (R207, R217). -/
inductive WinRef where
  | node (slot : Nat)
  | entry (m : Nat)
  deriving DecidableEq, Repr

/-- What a received Bamium message carries before its payload, and how it arrived (Table 12.1, R260–R262). -/
structure BmHdr where
  /-- Ports on which the message arrived: bit 0 port 0, bit 1 port 1. -/
  ports : Nat
  etherType : Nat
  /-- VID of the 802.1Q tag, if the frame has one. -/
  vlan : Option Nat
  version : Nat
  /-- LENGTH. -/
  len : Nat
  /-- The SRC and DST fields, 16 bits each. -/
  src : Nat
  dst : Nat
  bootId : Nat
  seq : Nat
  epoch : Nat
  /-- The reserved word at 0x14. -/
  rsvd : Nat
  /-- TX_TIME of a Bm3 message, 1/8 tick. -/
  txTime : Nat
  /-- Source MAC address. -/
  mac : Nat
  /-- The payload octets and, in a control message, the TAG. -/
  body : List Byte
  tag : List Byte
  /-- The payload obeys its format and its reserved fields are 0. -/
  formatOk : Bool
  deriving DecidableEq, Repr

/-- Why a target refuses a migration (R280, step 2). -/
inductive MigrateCause where
  | noSlot
  | bm2
  | resident
  /-- The target cannot store the context now. -/
  | notNow
  deriving DecidableEq, Repr

/-- Payload of a Bamium message (Tables 12.2 and 12.3). -/
inductive BmPayload where
  | hello (eui version prio ports : Nat) (digest : List Byte)
  | candidate (group best bitmap : Nat)
  | groupReport (group coord present aligned attested : Nat)
  | leader (leader groups : Nat)
  | syncReq (index : Nat) (t1 : Option Nat)
  | syncResp (t2 : Nat) (t3 : Option Nat)
  | digest (epoch : Nat) (digest : List Byte) (nextEpoch : Nat) (nextDigest : List Byte)
  | recordReq (epoch : Nat) (ids : List (Nat × Nat))
  | manifest (entries : List (Nat × Nat × List Byte))
  | record (type id total offset : Nat) (data : List Byte)
  | propose (base : Nat) (digest : List Byte) (proposer : Nat)
  | prepare (epoch : Nat) (digest : List Byte) (roster : List Nat) (proposer : Nat)
  | prepared (epoch status bitmap : Nat)
  | commit (epoch : Nat) (digest : List Byte) (t : Nat)
  | abort (epoch status : Nat)
  | replica (entries : List (Nat × List Byte))
  | replicaAck (applied : List (Nat × Nat))
  | replicaReq (first count : Nat)
  | migrateOffer (node offer : Nat) (ctx : List Byte)
  | migrateAnswer (offer : Nat) (refused : Option MigrateCause)
  | migrateDone (node offer owner : Nat)
  | migrateActive (offer : Nat)
  | attestChallenge (nonce : List Byte)
  | attestResponse (eui member svn : Nat) (pub sig : List Byte)
  | visitor (node : Nat) (octets : List Byte)
  | transmit (node start : Nat) (q : Int) (profile phy : Nat) (sub : Bool) (chan mode : Nat) (psdu : List Byte)
  | redirect (node : Nat) (octets : List Byte)
  | result (node start status : Nat)
  | bootReq (eui offset : Nat)
  | bootData (offset : Nat) (data : List Byte)
  deriving DecidableEq, Repr

/-- How one bundle of a Doldon core runs: core clocks it takes, iterations of a repeated bundle beyond the first before
its next boundary, whether its fetch still sees what a recent store replaced (R347), and how often the fetch of the
bundle, its L access and its X and Y fetches failed their parity check (R420). -/
structure BundleRun where
  cycles : Nat := 1
  more : Nat := 0
  old : Bool := false
  fetchFails : Nat := 0
  dataFails : Nat := 0
  xFails : Nat := 0
  yFails : Nat := 0
  deriving DecidableEq, Repr

/-- A command that the host submits (R297, R300): the submission queue, the words of the entry it writes into the
ring, and the content of the data buffer. -/
structure HostCmd where
  sq : Nat
  w : List Nat
  data : List Byte
  /-- A word at an address that fails its parity that many times while the command is served (R421). -/
  fault : Option (Nat × Nat) := none
  deriving DecidableEq, Repr

/-- The commands, one constructor for each row of the opcode table. -/
inductive Instr where
  /-- VDD_AON reaches its good level; D0 is held in power-on reset and FEMC0-FEMC15 are driven low. (R31) -/
  | vddAonGood
  /-- PORST_N low or VDD_AON below its good level resets everything in D0 and above except OTP. (R44) -/
  | powerOnReset
  /-- The rising edge of PORST_N captures the straps, disables their buffers and releases the device to boot. (R35) `straps`: levels in the layout of SYS_STRAP. -/
  | porstNRise (straps : Nat)
  /-- SYSRST_N low returns every pad outside D0 to its reset state and starts a system reset. (R32) -/
  | sysrstNAssert
  /-- A keyed write with SYS = 1 from a secure core or the host starts a system reset. (R47) `w`: the word written; its bit 8 is 1. -/
  | sysResetCtrlSys (who : Initiator) (w : Word)
  /-- A keyed secure write to CORE_HOLD holds or releases core Cn; release starts Cn at address 0x0000. (R47) `w`: the word written; its bit 8 is 0. -/
  | sysResetCtrlCoreHold (who : Initiator) (w : Word)
  /-- PE_PERST_N low, hot reset or link down resets the endpoint and causes an HCI reset. (R44) -/
  | pciExpressReset
  /-- A rail below its good level for 2 µs causes a power-on reset (VDD_AON) or a system reset with BROWNOUT. (R427) `r`: bit of SYS_SUPPLY_STATUS.GOOD. -/
  | railBrownOut (r : Nat)
  /-- A rail falls below NV_WRITE_MIN; NV_OK clears within 1 µs, BROWNOUT_WARN counts and OTP programming stops at the next bit. (R427) -/
  | nvOkFall
  /-- Every rail is back above NV_WRITE_MIN and NV_OK sets again. (R427) -/
  | nvOkRise
  /-- A rail becomes good and a domain holding a pending UP request starts to power up. (R62) `r`: rail, the bit of SYS_SUPPLY_STATUS.GOOD. -/
  | railGood (r : Nat)
  /-- A rail not good within 10 ms of step 2 halts the boot with BOOT_SUPPLY_MISSING. (R48) -/
  | bootSupplyTimeout
  /-- While NV_OK is 0 the ROM rechecks every 10 ms and halts after 1 s. (R55) -/
  | bootLowSupplyRecheck
  /-- The packet buffer self-test and parity initialization ends; failure halts with BOOT_MEM_FAIL. (R48) `failing`: rows that failed. -/
  | packetBufferSelfTestDone (failing : List Nat)
  /-- A slot header has been read; a bad header makes the ROM try slot B. (R52) `hdr`: the 352 bytes read. -/
  | bootHeaderReadDone (hdr : List Byte)
  /-- The image has been read and hashed; the ROM checks header, key hash, SVN, signature and sections in order. (R50) `image`: the bytes read. -/
  | bootImageReadDone (image : List Byte)
  /-- The image sections have been copied to their destinations. (R48) -/
  | bootSectionsCopied
  /-- The background SRAM self-test ends; failing rows are remapped or memories retired with DEGRADED. (R48) `failing`: resources of the rows that failed. -/
  | bootSelfTestDone (failing : List Nat)
  /-- After the later of the section copy and self-test, C0 enters firmware at ENTRY and CODE becomes BOOT_OK. (R48) -/
  | bootFirmwareEntry
  /-- A host writes IMAGE_LENGTH to SYS_BOOT_DOORBELL and the ROM checks the image in the packet buffer. (R52) `w`: IMAGE_LENGTH. -/
  | sysBootDoorbell (who : Initiator) (w : Word)
  /-- No peer answers BOOT_REQ within 30 s; BOOT_SOURCE_TIMEOUT is shown and the request is repeated. (R52) -/
  | bootPeerTimeout
  /-- The 10 µs INT_N pulse after a failed host image ends. (R52) -/
  | intNPulseEnd
  /-- A stage of the start-up calibration ends and the next one starts. (R54) -/
  | startupCalibrationStageDone (g14 : List Nat)
  /-- A write casts the writer's client votes for the domains whose bits are 1. (R59) -/
  | pwrVoteSet (who : Initiator) (w : Word)
  /-- A write withdraws the writer's client votes; a domain losing its last vote enters DRAINING. (R60) -/
  | pwrVoteClr (who : Initiator) (w : Word)
  /-- A secure core write replaces client Vn's vote bits. (R61) `n`: client. -/
  | pwrVoteVnWrite (who : Initiator) (n : Nat) (w : Word)
  /-- A waiting domain of D11-D21, D26 or D27 starts its switch-on when the 10 µs inrush window allows. (R57) `n`: domain. -/
  | domainSwitchOnStart (n : Nat)
  /-- A domain finishes powering up and enters ON, or DRAINING if DOWN is held. (R62) `n`: domain. -/
  | domainPowerUpDone (n : Nat)
  /-- A domain's drain condition is met and it enters ISOLATING. (R62) `n`: domain. -/
  | domainDrainDone (n : Nat)
  /-- PWR_DRAIN_MAX is exceeded; the domain returns to ON with DOWN held and LAST_REFUSER 0x20. (R64) `n`: domain. -/
  | domainDrainTimeout (n : Nat)
  /-- 1 ms after a drain timeout the domain re-enters DRAINING if its tally is still 0. (R62) `n`: domain. -/
  | domainDrainRetry (n : Nat)
  /-- Isolation completes; the domain switches off, or returns to ON if UP is held. (R62) `n`: domain. -/
  | domainIsolationDone (n : Nat)
  /-- Switch-off completes; the domain goes to RET or OFF, or straight to POWERING_UP if UP is held. (R62) `n`: domain. -/
  | domainSwitchOffDone (n : Nat)
  /-- Writing 1 releases a held pad bank whose domain is up, and the owning block's settings take effect. (R69) -/
  | pwrPadRelease (who : Initiator) (w : Word)
  /-- A write of TARGET starts the operating-point sequencer, replacing any unfinished request. (R71) -/
  | clkOpCtrlWrite (who : Initiator) (w : Word)
  /-- The cluster rail ramp and settling complete and the sequencer takes its next step. (R70) -/
  | opVoltageRampDone
  /-- The cluster PLL relocks and the cores leave the bypass clock. (R70) -/
  | opPllRelockDone
  /-- The cluster rail falls 25 mV below the current point; the cores switch to the bypass clock within 50 ns. (R70) -/
  | coreRailDrop
  /-- An enabled WAKEn level or edge sets its cause bit and starts the wake action. (R73) `n`: pin; `level`: its new filtered level. -/
  | wakePin (n : Nat) (level : Bool)
  /-- A write to PWR_WAKE_TIME_HI arms the TMB compare. (R77) -/
  | pwrWakeTimeHiWrite (w : Word)
  /-- TMB reaches PWR_WAKE_TIME with TIMER_EN = 1 and sets WAKE_CAUSE.TIMER. (R77) -/
  | wakeTimerCompare
  /-- A write with EN = 1 restarts the watch sequencer at STATE 1. (R80) -/
  | pwrWatchCtrlWrite (who : Initiator) (w : Word)
  /-- A watch period tick votes the watch chain's domain and enters STATE 2. (R79) -/
  | watchPeriodTick
  /-- The watch-tap gain settles and the dwell begins in STATE 3. (R79) -/
  | watchGainSettled
  /-- The dwell ends; entries are compared, the hit count updated and the chain vote withdrawn. (R83) `energy`, `corr`: of each entry over the dwell. -/
  | watchDwellEnd (energy corr : List Nat)
  /-- After a trigger V14 withdraws the chain vote when D17 reaches ON or 10 ms after the trigger. (R83) -/
  | watchVoteRelease
  /-- RFS_CAL_CMD OP 1 calibrates one entry of one LO. (R93) -/
  | calibrateOneEntry (who : Initiator) (lo c : Nat)
  /-- RFS_CAL_CMD OP 2 calibrates every allowed channel of one LO. (R93) -/
  | calibrateEveryAllowedChannel (who : Initiator) (lo : Nat)
  /-- RFS_CAL_CMD OP 3 invalidates one calibration entry at once. (R93) -/
  | invalidateOneEntry (who : Initiator) (lo c : Nat)
  /-- RFS_CAL_CMD OP 4 invalidates every calibration entry at once. (R93) -/
  | invalidateEveryEntry (who : Initiator)
  /-- RFS_CAL_CMD OP 5 runs stages 2-6 of the start-up calibration. (R93) -/
  | runStages2To6 (who : Initiator)
  /-- A calibration command ends, sets RESULT, withdraws its V18 votes and starts any pending command. (R93) -/
  | calCommandEnd
  /-- A full calibration locks and writes its entry with VALID = 1 and the current TCAL. (R90) -/
  | fullCalibrationLock (lo band trim : Nat)
  /-- A full calibration fails to lock; LOCK_FAILS rises and it retries, marking FAILED at the third failure. (R91) -/
  | fullCalibrationFail (lo : Nat)
  /-- The sequencer starts a background recalibration of a drifted TX LO entry when its conditions hold. (R96) -/
  | backgroundRecalibrationStart (n : Nat)
  /-- The tuning voltage of LO_A or LO_B leaves its window; RETUNE is set and the retune event raised. (R97) -/
  | retune (lo : Nat)
  /-- An LO loses lock; RX detectors are blanked or a frame in LEAD or ON_AIR ends with SYNTH_FAIL. (R103) -/
  | loLockLoss (lo : Nat)
  /-- At each 1 ms TMB multiple the die temperature sensor updates RFS_TEMP. (R99) -/
  | tempSensorUpdate (t : Int)
  /-- TP3 commits a frame to a free TX chain and plans its hop and start. (R448) -/
  | tp3Commit (id : Nat)
  /-- At its planned instant a TX LO starts its hop from a usable entry or a full calibration. (R103) -/
  | txHopStart (n mv : Nat)
  /-- The TX LO locks on the frame's channel. (R101) -/
  | txLock (n : Nat)
  /-- The LO is not locked by start - TX_LEAD; the frame completes with TX_LATE_LOCK. (R103) -/
  | txLockDeadline (id : Nat)
  /-- At start - TX_LEAD the chain enters LEAD, applies the FEMC transmit pattern and samples the coexistence grant. (R101) -/
  | txLeadStart (n : Nat) (gnt : Bool) (mv : Nat)
  /-- The PA ramp ends and the first chip leaves; the chain enters ON_AIR. (R101) -/
  | txFirstChip (n : Nat)
  /-- The last chip is sent and the chain enters RAMP_DOWN. (R101) -/
  | txLastChip (n : Nat)
  /-- RAMP_DOWN ends; the PA is off, the FEMC idle pattern applies and duty is charged. (R101) -/
  | txRampDownEnd (n used : Nat) (err : Int)
  /-- Stage 6 for one TX chain, started when its domain came ON with invalid entries, completes. (R105) -/
  | txStage6Done (n : Nat) (g14 : List Nat)
  /-- A write to COEX_CFG; a ROLE change waits until no taking-part chain is outside IDLE or OFF. (R108) -/
  | coexCfgWrite (who : Initiator) (w : Word)
  /-- A pending ROLE change takes effect once the chains taking part are idle. (R108) -/
  | coexRoleChange
  /-- In the client role COEX_REQ rises at the later of commit and start - TX_LEAD - REQ_LEAD. (R109) -/
  | coexRequestAssert (c : CoexClient)
  /-- The grant falls while a client frame is on air; it is counted in REVOKED and stopped if ABORT_ON_REVOKE = 1. (R109) -/
  | coexGntFall
  /-- In the arbiter role an edge of COEX_REQ or COEX_PRI is decided under Table 05.12. (R110) -/
  | coexReqEdge (req pri act : Bool)
  /-- A 64-sample window ends and the band gain controller decides a step down. (R117) `m`: chain 0-5; `full`: full-scale samples; `peak`: hundredths of a dBFS. -/
  | gainWindowEnd (m full : Nat) (peak : Int)
  /-- A quiet interval of UP_QUIET ends and the controller decides a step up. (R118) `m`: chain 0-5; `peak`: highest window peak, hundredths of a dBFS. -/
  | gainQuietIntervalEnd (m : Nat) (peak : Int)
  /-- At sample N the analog gain changes by n steps and the compensator shifts by n bits. (R119) `m`: chain 0-5; `frac`: eighths of a tick. -/
  | castling (m frac : Nat)
  /-- A write sets the gain mode; MANUAL performs one castling to MANUAL_STEP on each chain of the band. (R120) `b`: 0 for 2.4 GHz, 1 for sub-GHz. -/
  | rxwGainCfgWrite (who : Initiator) (b : Nat) (w : Word)
  /-- A detector meets its criterion on a channel; the detection is merged, screened and allocated or forked. (R122) `xs`: the detections of one fabric cycle. -/
  | preambleDetection (xs : List Detection)
  /-- The SFD or sync word is not found in time; the lane abandons the frame counted in FALSE_DETECT. (R127) `i`: lane. -/
  | laneSyncTimeout (i : Nat)
  /-- The lane freezes gain and weights at the first SFD or sync bit and takes a staging buffer. (R130) `i`: lane. -/
  | freezePoint (i : Nat) (f : FreezeInfo)
  /-- The lane decodes the PHR and abandons the frame if it is invalid. (R127) `i`: lane; `coded`: a coded SFD came before. -/
  | phrCheck (i phr : Nat) (coded : Bool)
  /-- The lane checks the FCS, writes record and frame, and posts a completion to its Tempo FIFO. (R14) `i`: lane; `snr`: SNR after combining, hundredths of a dB; `fails`: parity failures of the write. -/
  | laneFrameEnd (i : Nat) (psdu : List Byte) (snr : Int) (fails : Nat)
  /-- A stalled lane posts its completion when a FIFO entry frees and returns to the pool. (R14) `i`: lane. -/
  | lanePostResume (i : Nat)
  /-- 8 µs after a fork lane A tests separability and may take projected weights and rewind. (R134) `i`: lane A; `x`: lane B's measurement. -/
  | forkChannelEstimate (i : Nat) (x : ForkEstimate)
  /-- A qualifying noise window ends and the noise-floor estimate is updated. (R136) `p`: mean power in mW. -/
  | idleSample (sub : Bool) (c ant : Nat) (p : Rat)
  /-- A change to EN, a PHY enable, DET_TH or MIN_LEVEL takes effect at the channel's next symbol boundary. (R124) `a`: register address. -/
  | channelConfigEffect (a : Nat)
  /-- A pending RXW_SUB_CFG.MODE takes effect when the last sub-GHz lane returns; detectors and estimates restart. (R125) -/
  | subModeEffect
  /-- The wake-up receiver accepts a Check pattern for its address and sets WURX or FALLBACK. (R159) `chips`: the chips received, oldest first. -/
  | wurxTelegramMatch (chips : List Bool)
  /-- TXP_SHAPE_CTRL.RESTORE loads the default of a pulse table into its shadow. (R162) `n`: chain; `t`: table. -/
  | restore (who : Initiator) (n t : Nat)
  /-- TXP_SHAPE_CTRL.COMMIT validates a shadow table and sets INVALID or PENDING. (R163) `n`: chain; `t`: table. -/
  | commitPulseTable (who : Initiator) (n t : Nat)
  /-- A pending table becomes active when the chain is outside LEAD, ON_AIR and RAMP_DOWN. (R163) `n`: chain; `t`: table. -/
  | pulseTableActivate (n t : Nat)
  /-- A mask window ends; near misses are counted, two in a row stop the frame with MASK_VIOLATION. (R170) `n`: chain; `lower`, `upper`: the powers measured below and above the carrier. -/
  | maskWindowEnd (n : Nat) (lower upper : MaskPowers)
  /-- Every 1 ms REG compares every mirror pair and reloads a damaged word. (R175) `flips`: mirror words and the bit masks that damage reached. -/
  | regMirrorCheck (flips : List (Nat × Nat))
  /-- A mirror reload ends; a still invalid or missing mandatory word locks its band. (R175) `w`: the word. -/
  | regMirrorReloadDone (w : Nat)
  /-- REG_PROG_CMD OP 1 programs a staged region word into its lowest free position. (R177) -/
  | prog (who : Initiator) (w : Nat)
  /-- REG_PROG_CMD OP 2 checks the seal rules and programs W0 with the seal value. (R177) -/
  | sealRegion (who : Initiator)
  /-- An OTP bit finishes programming; the next bit starts if NV_OK is still 1, else the operation ends with LOW_SUPPLY. (R179) -/
  | otpBitProgrammed (u : OtpUser)
  /-- A staged band or grid change takes effect once sub-GHz lanes and TX chains are free. (R176) -/
  | regStageW1Effect
  /-- At each second the oldest bucket leaves each sum and cold-start preloads age by one 3,600th. (R181) -/
  | dutyBucketAdvance
  /-- A listen ends; a busy channel moves the frame later or ends it with LBT_BUSY. (R183) -/
  | lbtListenEnd (n : Nat) (p : Int)
  /-- A receive pair takes a lane completion: parse, lookup, verdict, verify submission and delivery. (R187) -/
  | tempoWorkItem (p : Nat) (fault : PairFault)
  /-- The S3 cipher result arrives; the context is updated and the frame delivered or dropped. (R194) -/
  | verifyResult (req : Nat)
  /-- S5 is not reached by the deadline; the acknowledgement is not committed and ACK_LATE counts. (R189) -/
  | ackDeadlineMissed (req : Nat)
  /-- The comparator finds a mismatch; the pair reloads its checkpoint and resumes in late mode. (R200) -/
  | lockstepMismatch (p : Nat) (item : LockItem)
  /-- Every 1 s a standby TP4 runs a comparator self-test item. (R202) -/
  | tp4SelfTest (good : Bool)
  /-- A slot-program occurrence opens a receive window or sends the head frame of QUEUE. (R207) -/
  | slotOccurrence (m : Nat)
  /-- WINDOW µs after an occurrence the receive votes are released. (R207) -/
  | slotWindowClose (m : Nat)
  /-- A TSCH timeslot starts and its receive and transmit cells are served. (R210) -/
  | tschTimeslot
  /-- A write to T0_HI schedules ASN0 and T0 to apply together at the next timeslot boundary. (R208) -/
  | lnkTschT0HiWrite (who : Initiator) (w : Word)
  /-- A write setting EN is checked against the template and hopping sequence and starts TSCH. (R208) -/
  | lnkTschCtrlWrite (who : Initiator) (w : Word)
  /-- An attempt's acknowledgement wait ends without an acknowledgement. (R306) -/
  | ackWaitEnd (id : Nat)
  /-- RETRY_GAP after a failed wait the next attempt is submitted to the commit checks. (R306) -/
  | retryAttempt (id : Nat)
  /-- At E - 32 × (h + LEAD_US) the window's receive and transmit votes start. (R217) -/
  | windowVoteLead (w : WinRef)
  /-- A window closes; a window without contact counts WINDOW_MISS and the next window is planned. (R216) -/
  | windowClose (slot : Nat)
  /-- PEND_DELAY after a pending acknowledgement, TP3 sends the next held frame for the sleepy node. (R218) -/
  | heldFrameSend (slot : Nat)
  /-- In CHECK TP3 sends a Check pattern to the node and COUNT rises. (R220) -/
  | checkTelegramSend (slot : Nat)
  /-- CHECK_WAIT after a telegram ends; the next telegram is due or the node is reported. (R220) -/
  | checkWaitEnd (slot : Nat)
  /-- Writes a new context, its resident route entry and keys. (R242) -/
  | nodeAdd (c : HostCmd)
  /-- Applies stamped group updates and may set or clear COUNTER_UNKNOWN. (R242) -/
  | nodeUpdate (c : HostCmd)
  /-- Clears a context, its route entry and keys and releases its key slot. (R242) -/
  | nodeRemove (c : HostCmd)
  /-- Returns the 128-byte context of a node. (R242) -/
  | nodeRead (c : HostCmd)
  /-- Writes or rewrites a remote route entry with its keys. (R242) -/
  | routeSet (c : HostCmd)
  /-- Clears a remote entry's VALID within 1 µs and starts clearing its index entries. (R242) -/
  | routeDel (c : HostCmd)
  /-- The index entries of a deleted route are cleared and ROUTE_DEL completes. (R242) `r`: index of the route entry. -/
  | routeDelIndexCleared (r : Nat)
  /-- Writes a stream of context or counter records for a slot range, ending with END. (R249) -/
  | snapshot (c : HostCmd)
  /-- The RESTORE command applies a snapshot stream record by record. (R250) -/
  | restoreStream (c : HostCmd)
  /-- An unacknowledged relay is sent again after 1,000 µs, or dropped after the last attempt. (R247) -/
  | relayRetry (id : Nat)
  /-- NDT_CTRL OP 1 starts reading the held node table for adoption. (R256) NDT_CTRL with the right KEY and OP 1. -/
  | adopt (who : Initiator)
  /-- NDT_CTRL OP 2 starts zeroing CTX, RTE and IDX. (R256) NDT_CTRL with the right KEY and OP 2. -/
  | clear (who : Initiator)
  /-- ADOPT finishes and the table is served as it stands, ending the hold. (R251) -/
  | adoptDone
  /-- CLEAR finishes and the empty table ends the hold. (R251) -/
  | clearDone
  /-- No replica within 1 s; a REBUILDING notice goes to Q1. (R252) `node`: node address. -/
  | buddyReplicaTimeout (node : Nat)
  /-- START begins federation start-up, locks RWL fields and copies MEMBER to NDT_MEMBER. (R286) `w`: the word written to FED_CTRL. -/
  | fedCtrlStart (who : Initiator) (w : Word)
  /-- A FED_CFG write; STANDALONE opens or closes the transmit gate. (R268) `w`: the word written. -/
  | fedCfgWrite (who : Initiator) (w : Word)
  /-- A 10GBASE-R port link comes up. (R267) `p`: port. -/
  | portLinkUp (p : Nat)
  /-- A port link goes down and messages use the other port. (R260) `p`: port. -/
  | portLinkDown (p : Nat)
  /-- After the backoff and then every 250 ms the member sends HELLO. (R267) -/
  | helloTimer
  /-- No new member heard for 500 ms closes discovery. (R267) -/
  | discoveryClose
  /-- A received Bamium HELLO updates the member table. (R263) `version`: highest version of the sender. -/
  | hello (h : BmHdr) (eui version prio ports : Nat) (digest : List Byte)
  /-- A received CANDIDATE merges the group view for the coordinator election. (R269) -/
  | candidate (h : BmHdr) (group best bitmap : Nat)
  /-- A 50 ms election round ends and a coordinator or leader is decided or the round repeats. (R269) -/
  | electionRound
  /-- A received GROUP_REPORT feeds the leader election and the aligned and attested views. (R269) -/
  | groupReport (h : BmHdr) (group coord present aligned attested : Nat)
  /-- A received LEADER names the leader and serves as its heartbeat. (R269) -/
  | leader (h : BmHdr) (leader groups : Nat)
  /-- A coordinator silent for 1 s is replaced by a new group election. (R269) -/
  | coordinatorLoss
  /-- A missing LEADER heartbeat for 1 s starts a new leader election. (R269) -/
  | leaderLoss
  /-- A member silent for ABSENT_MS becomes ABSENT. (R266) `m`: member. -/
  | memberAbsent (m : Nat)
  /-- A child starts a burst of 8 SYNC_REQ exchanges with its parent. (R272) -/
  | syncBurst
  /-- A parent receives SYNC_REQ and answers with SYNC_RESP. (R272) `t2`: arrival in 1/8 tick. -/
  | syncReq (h : BmHdr) (index t2 : Nat)
  /-- A child receives SYNC_RESP; after the burst it steps or slews TMB. (R272) `t1`, `t4`: departure of the request and arrival of the answer, 1/8 tick; `t3` counts in Bm2. -/
  | syncResp (h : BmHdr) (t1 t2 t3 t4 : Nat)
  /-- 10 s without a parent clears ALIGNED and raises the FED time event. (R272) -/
  | parentHoldoverTimeout
  /-- Every 250 ms the member sends DIGEST to its coordinator and one random member. (R274) `other`: the member drawn at random. -/
  | digestTimer (other : Nat)
  /-- A received DIGEST starts fetching of records when the proposal differs. (R274) -/
  | digest (h : BmHdr) (epoch : Nat) (digest : List Byte) (nextEpoch : Nat) (nextDigest : List Byte)
  /-- A received RECORD_REQ is answered with a MANIFEST or RECORD fragments. (R274) -/
  | recordReq (h : BmHdr) (epoch : Nat) (ids : List (Nat × Nat))
  /-- A received MANIFEST is compared and missing records requested, extra ones deleted. (R274) -/
  | manifest (h : BmHdr) (entries : List (Nat × Nat × List Byte))
  /-- A received RECORD fragment is reassembled and the record applied when complete and verified. (R275) `data`: without its padding. -/
  | record (h : BmHdr) (type id total offset : Nat) (data : List Byte)
  /-- An incomplete record is discarded after PREPARE_TIMEOUT and requested again. (R275) -/
  | recordReassemblyTimeout (type id : Nat)
  /-- The leader receives PROPOSE and accepts one per base epoch, else ABORT. (R276) -/
  | propose (h : BmHdr) (base : Nat) (digest : List Byte) (proposer : Nat)
  /-- A member receives PREPARE and reports PREPARED once it holds the digest. (R276) `roster`: bitmap, bit m for member m. -/
  | prepare (h : BmHdr) (epoch : Nat) (digest : List Byte) (roster proposer : Nat)
  /-- A coordinator or the leader aggregates PREPARED; all OK makes the leader send COMMIT. (R276) -/
  | prepared (h : BmHdr) (epoch status bitmap : Nat)
  /-- Without the digest after PREPARE_TIMEOUT the member reports DIGEST_MISMATCH. (R276) -/
  | prepareTimeout
  /-- A member receives COMMIT and waits for TMB = T, or applies at once if late. (R276) -/
  | commit (h : BmHdr) (epoch : Nat) (digest : List Byte) (t : Nat)
  /-- TMB reaches T; the proposed set becomes current and FED_EPOCH rises. (R276) -/
  | commitTime
  /-- A received ABORT discards the proposal or, with QUARANTINED, sets REPLACED. (R276) -/
  | abort (h : BmHdr) (epoch status : Nat)
  /-- RUN not reached within FED_JOIN_TIMEOUT sets TIMEOUT and raises the join event. (R267) -/
  | joinTimeout
  /-- Within 10 ms of a context change the owner sends REPLICA messages to its buddy. (R279) -/
  | replicationSend
  /-- A buddy receives REPLICA, applies newer entries and answers REPLICA_ACK. (R279) `entries`: slot and context. -/
  | replica (h : BmHdr) (entries : List (Nat × List Byte))
  /-- An owner receives REPLICA_ACK and retires acknowledged entries. (R279) `applied`: slot and SEQ. -/
  | replicaAck (h : BmHdr) (applied : List (Nat × Nat))
  /-- Entries unacknowledged for 50 ms are sent again and counted in REPL_RETX. (R279) -/
  | replicationRetx
  /-- A buddy receives REPLICA_REQ and answers with the slot range within 1 s. (R279) -/
  | replicaReq (h : BmHdr) (first count : Nat)
  /-- The owner takes the node lock, holds frames and sends MIGRATE_OFFER. (R280) `node`: node address. -/
  | migrationStart (node : Nat)
  /-- The target stores the context as pending and answers, or refuses. (R280) -/
  | migrateOffer (h : BmHdr) (node offer : Nat) (ctx : List Byte)
  /-- The owner receives the answer and sends MIGRATE_DONE or releases the lock. (R280) -/
  | migrateAnswer (h : BmHdr) (offer status : Nat)
  /-- An unanswered offer is repeated after 20 ms, at most 3 times. (R280) -/
  | offerRetry (offer : Nat)
  /-- Members rewrite the node's remote entry and the target serves the node and sends MIGRATE_ACTIVE. (R280) -/
  | migrateDone (h : BmHdr) (node offer owner : Nat)
  /-- The owner repeats MIGRATE_DONE every 20 ms until MIGRATE_ACTIVE arrives. (R280) -/
  | doneRepeat (offer : Nat)
  /-- The old owner removes the context and sends its held frames as REDIRECT. (R280) -/
  | migrateActive (h : BmHdr) (offer : Nat)
  /-- No MIGRATE_ACTIVE within 1 s freezes the node and reports MIGRATE_UNRESOLVED. (R280) -/
  | activeTimeout (offer : Nat)
  /-- A pending migrated context without DONE for 2 s is discarded. (R280) `m`: the member that offered. -/
  | pendingDiscard (m offer : Nat)
  /-- A member receives a challenge and answers with a signed ATTEST_RESPONSE. (R281) -/
  | attestChallenge (h : BmHdr) (nonce : List Byte)
  /-- A challenger verifies the response; failure marks the member REPLACED. (R281) `key`: the public key; `good`: the signature verifies. -/
  | attestResponse (h : BmHdr) (eui member svn : Nat) (key : List Byte) (good : Bool)
  /-- No response within 500 ms counts as a failed attestation. (R281) `m`: the challenged member. -/
  | attestTimeout (m : Nat)
  /-- The owner receives a VISITOR DATA frame, verifies it and applies duplicate rules without acknowledgement. (R20) `octets`: receive record and PSDU. -/
  | visitor (h : BmHdr) (node : Nat) (octets : List Byte)
  /-- A hearing member receives a TRANSMIT DATA frame and schedules it at START or answers TX_LATE_LOCK. (R264) -/
  | transmit (h : BmHdr) (node start : Nat) (q : Int) (profile phy : Nat) (sub : Bool) (chan mode : Nat) (psdu : List Byte)
  /-- A new owner receives REDIRECT and handles it as VISITOR. (R264) -/
  | redirect (h : BmHdr) (node : Nat) (octets : List Byte)
  /-- The owner receives RESULT and completes its held frame. (R264) -/
  | result (h : BmHdr) (node start status : Nat)
  /-- A member with BOOT_SERVE answers BOOT_REQ with BOOT_DATA. (R283) `image`: octets of CSPM slot A from the offset on, at most 2,048; none without an image. -/
  | bootReq (h : BmHdr) (eui offset : Nat) (image : List Byte)
  /-- The booting ROM receives BOOT_DATA and requests the next offset. (R283) -/
  | bootData (h : BmHdr) (offset : Nat) (data : List Byte)
  /-- ENABLE 0 to 1 starts the admin queue; 1 to 0 causes an HCI reset. (R293) `w`: the word written to HCI_CTRL. -/
  | hciEnable (who : Initiator) (w : Word)
  /-- An HCI reset disables host queues, cancels uncommitted frames and restores the default version. (R317) `w`: the other bits of the word written to HCI_CTRL. -/
  | hciReset (who : Initiator) (w : Word)
  /-- A secure core sets FW_READY and waiting firmware opcodes proceed. (R293) `w`: the other bits of the word written to HCI_CTRL. -/
  | fwReadyWrite (who : Initiator) (w : Word)
  /-- A firmware opcode waiting 1 s with FW_READY = 0 completes with INTERNAL. (R293) `id`: number of the command in the sequencer. -/
  | fwReadyTimeout (id : Nat)
  /-- A doorbell write moves a submission tail or completion head, or is dropped with its cause. (R298) `q`: queue; `w`: the word written; `entries`: what the host wrote into the ring before. -/
  | doorbell (q w : Nat) (entries : List HostCmd)
  /-- All domains a command needs reach ON and the command starts with WOKE = 1. (R304) `id`: number of the command in the sequencer. -/
  | commandWakeDone (id : Nat)
  /-- A domain not ON within 10 ms completes the command with DOMAIN_OFF. (R304) `id`: number of the command in the sequencer. -/
  | commandWakeTimeout (id : Nat)
  /-- A firmware command running 10 ms posts one PENDING completion. (R301) `id`: number of the command in the sequencer. -/
  | firmwareInterimCompletion (id : Nat)
  /-- A pending MSI-X message is sent once D26 is ON and MSI-X and bus mastering are enabled. (R291) -/
  | msiXPendingSend
  /-- A DMA error stops the queue, counts DMA_ERR and posts an INTERNAL notice, or sets FATAL for Q1. (R290) `q`: queue. -/
  | dmaFault (q : Nat)
  /-- Submits a frame for transmission through TP3 with retries. (R306) -/
  | txFrame (c : HostCmd)
  /-- Reads up to four control registers as a host access would. (R309) -/
  | regRead (c : HostCmd)
  /-- Writes a control register under a mask as a host write would. (R309) -/
  | regWrite (c : HostCmd)
  /-- Changes client V8 votes and optionally waits for the domains. (R310) -/
  | powerVote (c : HostCmd)
  /-- Selects the command protocol version within the host's range. (R314) -/
  | helloCommand (c : HostCmd)
  /-- Returns SYS_ID, SYS_STRAP and the device EUI-64. (R305) -/
  | identify (c : HostCmd)
  /-- Creates a host queue with its ring, role, partner and vector. (R311) -/
  | queueCreate (c : HostCmd)
  /-- Deletes a queue, stopping fetches and returning reclaimed queues to their role. (R312) -/
  | queueDelete (c : HostCmd)
  /-- Cancels an uncommitted frame, which completes with CANCELLED. (R306) -/
  | txCancel (c : HostCmd)
  /-- Puts a record into the proposed set. (R275) -/
  | fedRecordPut (c : HostCmd)
  /-- Deletes a record from the proposed set. (R305) -/
  | fedRecordDel (c : HostCmd)
  /-- Triggers a PROPOSE and completes when the epoch commits or aborts. (R305) -/
  | fedPropose (c : HostCmd)
  /-- Returns one 32-byte member-table entry. (R305) -/
  | fedMemberRead (c : HostCmd)
  /-- Starts, resolves or adopts a migration of a node. (R280) -/
  | fedMigrate (c : HostCmd)
  /-- Runs a REG_PROG_CMD operation for the host and maps its RESULT. (R178) -/
  | regProg (c : HostCmd)
  /-- Reads a status, mirror or counter register of KEY, OTP or REG. (R305) -/
  | secureRead (c : HostCmd)
  /-- Loads a clear key into a slot in BLANK or MANUFACTURE. (R393) -/
  | keyLoad (c : HostCmd)
  /-- Zeroizes a key slot. (R393) -/
  | keyClear (c : HostCmd)
  /-- Wraps a slot's key and returns the blob. (R393) -/
  | keyWrap (c : HostCmd)
  /-- Writes a blob entry used at the node's next unwrap. (R393) -/
  | blobPut (c : HostCmd)
  /-- Returns KEY_SLOTn_ATTR of a slot. (R393) -/
  | keyAttrRead (c : HostCmd)
  /-- Returns OTP_LC_STATUS and LC_NONCE. (R393) -/
  | lcStatus (c : HostCmd)
  /-- Requests a life-cycle transition, verifying the return token for RETURN. (R393) -/
  | lcTransition (c : HostCmd)
  /-- Opcodes 0xC0-0xFF are passed unchanged to the mailbox of C4. (R305) `op`: the opcode is 0xC0 + `op`; `opened`: application firmware has opened Q116. -/
  | applicationCommand (op : Nat) (opened : Bool) (c : HostCmd)
  /-- CSP_M_CMD.START runs a CSPM request or refuses it with BAD_REQ. (R323) `w`: CSP_M_CMD with START; `rdy`: level of CSPM_RDY. -/
  | start (who : Initiator) (w : Word) (rdy : Bool)
  /-- CSP_M_CMD.ABORT stops the running frame at the next byte with ABORTED. (R323) CSP_M_CMD with ABORT. -/
  | cspmAbort (who : Initiator)
  /-- CSPM_RDY low for TIMEOUT stops the frame with RDY_TIMEOUT. (R324) -/
  | cspmRdyTimeout
  /-- A CSPM request ends, sets RESULT and raises CSP_M_DONE. (R325) `data`: octets read from flash; `n`: octets sent. -/
  | cspmRequestDone (data : List Byte) (n : Nat)
  /-- A CSPS WRITE frame fills the write buffer, committed when the select rises without error. (R330) -/
  | cspsWrite (f : CspsFrame)
  /-- A CSPS READ frame reads BAR0 or BAR2 words and returns them. (R330) -/
  | cspsRead (f : CspsFrame)
  /-- A CSPS FSTAT frame returns the fast status window. (R329) -/
  | fstat (f : CspsFrame)
  /-- A committed CSPS write finishes its word writes and COMMIT_PENDING clears. (R330) -/
  | cspsCommitDone
  /-- A Doldon core executes one bundle as one step, or refuses it at decode. (R341) Core `n` executes the bundle at its PC; `r` says what the interconnect and parity did meanwhile. -/
  | bundle (n : Nat) (r : BundleRun)
  /-- A pending interrupt with IE = 1 is taken at a bundle boundary. (R353) Core `n` takes the interrupt pending at its input. -/
  | interruptTaken (n : Nat)
  /-- A pending interrupt ends WAIT and the core resumes or takes it. (R351) A pending interrupt ends the WAIT of core `n`. -/
  | waitEnd (n : Nat)
  /-- A synchronized GPIO or WAKE edge raises its event. (R357) `p`: pin; `level`: its new synchronized level. -/
  | gpioEdge (p : Nat) (level : Bool)
  /-- A write of START to EVR_TMRn_CTRL starts or restarts the timer. (R360) `n`: timer; `w`: the word written. -/
  | tmrCtrlStart (who : Initiator) (n : Nat) (w : Word)
  /-- A write of STOP to EVR_TMRn_CTRL stops the timer. (R360) `n`: timer; `w`: the word written. -/
  | tmrCtrlStop (who : Initiator) (n : Nat) (w : Word)
  /-- An event timer expires, raises TMRn and restarts if PERIODIC. (R360) `n`: timer. -/
  | eventTimerExpiry (n : Nat)
  /-- A PULSE on a GPIO or FEMC bit ends after WIDTH ticks. (R359) `line`: 0-31 GPIO, 32-47 FEMC. -/
  | pulseEnd (line : Nat)
  /-- A HOLDOFF cell's hold-off of N ticks runs out. (R367) `k`: cell. -/
  | holdoffEnd (k : Nat)
  /-- A busy task consumer frees and takes a pending event. (R370) `t`: task input. -/
  | taskPendingServe (t : Nat)
  /-- A Tempo owner re-arms a storm-disarmed channel at its first work-item boundary 1 ms after the disarm. (R369) `p`: pair; `n`: channel. -/
  | stormRearm (p n : Nat)
  /-- A permitted channel configuration write, checked for reserved values, security, FEMC ownership and cycles. (R364) `n`: channel. -/
  | evrEcnCfgWrite (who : Initiator) (n : Nat) (w : Word)
  /-- A logic cell configuration write changes its mode and clears Q and count. (R366) `k`: cell. -/
  | evrLunCfgWrite (who : Initiator) (k : Nat) (w : Word)
  /-- A write configures an interrupt's enable, security, priority and target. (R373) `n`: interrupt. -/
  | irqCfgWrite (who : Initiator) (n : Nat) (w : Word)
  /-- A permitted W1C write clears pending interrupt bits. (R374) `i`: register 0-7. -/
  | irqPendWrite (who : Initiator) (i : Nat) (w : Word)
  /-- Core n reads its claim register and clears the highest pending interrupt. (R375) `n`: core whose claim register is read. -/
  | irqClaim (who : Initiator) (n : Nat)
  /-- A write sets software interrupts 200 + k. (R376) -/
  | irqSgi (who : Initiator) (w : Word)
  /-- KEY_CMD LOAD puts a clear key into a slot. (R380) KEY_CMD with OP 1; KEY_ARG and KEY_DATA hold the rest. -/
  | load (who : Initiator) (slot : Nat)
  /-- KEY_CMD CLEAR zeroizes a slot. (R380) KEY_CMD with OP 2. -/
  | keyCmdClear (who : Initiator) (slot : Nat)
  /-- KEY_CMD UNWRAP unwraps a blob from KEY_DATA into a slot. (R380) KEY_CMD with OP 3; `kek`: KEK_SEL. -/
  | unwrap (who : Initiator) (slot : Nat) (kek : Bool)
  /-- KEY_CMD WRAP wraps a LOAD-origin slot into a blob in KEY_DATA. (R380) KEY_CMD with OP 4; `kek`: KEK_SEL. -/
  | wrap (who : Initiator) (slot : Nat) (kek : Bool)
  /-- KEY_CMD DERIVE runs the KDF from a KDF slot into a target slot. (R385) KEY_CMD with OP 5. -/
  | derive (who : Initiator) (slot : Nat)
  /-- KEY_CMD LOCK sets LOCK of a slot. (R380) KEY_CMD with OP 6. -/
  | lock (who : Initiator) (slot : Nat)
  /-- KEY_CMD LOAD_KR loads a key from the current state's OTP key rows. (R380) KEY_CMD with OP 7. -/
  | loadKr (who : Initiator) (slot : Nat)
  /-- KEY_CMD PROG_KR programs KEY_DATA into the key rows. (R380) KEY_CMD with OP 8. -/
  | progKr (who : Initiator) (slot : Nat)
  /-- A KEY_CMD operation ends, writes RESULT, zeroes KEY_DATA and raises KEY_EVT. (R380) -/
  | keyOperationDone
  /-- A write sets LOCK or clears ENGINES bits of a slot. (R379) `n`: slot; `w`: the word written. -/
  | keySlotAttrWrite (who : Initiator) (n : Nat) (w : Word)
  /-- A write selects and may lock the blob key source. (R382) -/
  | keyBlobCfgWrite (who : Initiator) (w : Word)
  /-- A write moves the node pool while no pool slot is valid. (R383) -/
  | keyPoolWrite (who : Initiator) (w : Word)
  /-- Once per MASK_PERIOD the key store re-masks every valid slot. (R377) -/
  | remaskSweep
  /-- A node unwrap ends; the key is stored or BLOB_INVALID is reported. (R384) `slot`: slot of the node. -/
  | nodeUnwrapDone (slot : Nat)
  /-- A keyed write starts a permitted life-cycle transition. (R389) -/
  | otpLcCmdStart (who : Initiator) (w : Word)
  /-- A transition step completes; journal, destruction, state row and close follow and end in a system reset. (R391) -/
  | lcTransitionStep
  /-- A core submits a cipher descriptor, which is checked and queued or refused. (R400) `a`: descriptor address. -/
  | cphSubmit (who : Initiator) (a : Nat)
  /-- A free engine takes the next request by class and checks its key. (R404) -/
  | cipherDispatch
  /-- The chosen engine suspends at its next block boundary and starts the urgent request. (R405) `b`: the engine and how far it is. -/
  | cipherSuspend (b : BlockBoundary)
  /-- A request completes; output, status and DONE are written and the hold buffer released or zeroized. (R402) `n`: engine. -/
  | cipherRequestDone (n : Nat) (fault : CipherFault)
  /-- A BULK request waiting BULK_AGE µs dispatches as NORMAL. (R404) `id`: request. -/
  | bulkAge (id : Nat)
  /-- A request whose domains are not ON within 10 ms completes with DOMAIN_OFF. (R409) `id`: request. -/
  | cipherDomainTimeout (id : Nat)
  /-- A permanently faulty SRAM row has been remapped to a spare. (R424) `res`: resource identifier; `entry`: calibration entry or Tempo pair at fault; `bucket`: duty entry and second at fault. -/
  | rowRemapDone (res : Nat) (entry : Option Nat) (bucket : Option (Nat × Nat))
  /-- A retired queue's context moves to a spare of Q120-Q127 and a notice is posted. (R424) `q`: queue. -/
  | queueRetireMove (q : Nat)
  /-- Every 1 ms the sparing map and Tempo retirement record are checked against their complements. (R426) `bad`: resources whose pair is invalid. -/
  | sparingMapCheck (bad : List Nat)
  /-- A host TLP to BAR0 or BAR2 reaches its target or is handled as reserved or ghost. (R27) `bar2`: BAR2, else BAR0; `off`: byte offset; `data`: the word written, none for a read; `fails`: fetches of the word that failed their parity check. -/
  | hostBarAccess (bar2 : Bool) (off : Nat) (data : Option Word) (fails : Nat)
  /-- A core access stalled on the auto-vote alias completes once the domain is up and the temporary vote is withdrawn. (R25) The alias access that stalls core `n` completes. -/
  | aliasAccessComplete (n : Nat) (r : BundleRun)
  /-- A read of an RC field returns its value and clears it. (R6) `a`: device address of the register. -/
  | rcFieldRead (who : Initiator) (a : Nat)
  /-- A read of the low word of a 64-bit value latches the high word. (R429) `a`: device address of the register. -/
  | loWordRead (who : Initiator) (a : Nat)
  /-- A write to a register without a row of its own acts per access codes and reserved-content rules. (R6) `a`: device address of the register; `w`: the word written. -/
  | registerWrite (who : Initiator) (a : Nat) (w : Word)
  /-- LO_A or LO_B locks from its calibration entry and the band's RX chains pass from LOCKING to RECEIVE with detectors armed. (R101) -/
  | bandLoLock (lo : Nat)
  /-- A restored entry does not lock within 12 µs of the hop start; it counts as a lock failure and the hop continues as a full calibration. (R90) -/
  | hopLockFailure (n : Nat)
  /-- 8 µs after the last chip of a transmission the detectors of the blanked channel are armed again. (R17) -/
  | detectorBlankingEnd (n : Nat)
  /-- A sleepy-node receive window reaches its lower bound E - 32h and raises LNK_WIN_OPEN. (R356) -/
  | windowOpen (slot : Nat)
  /-- Every 250 ms the leader sends LEADER as its heartbeat. (R269) -/
  | leaderHeartbeat
  /-- The PCI Express link finishes training and comes up, so the host can reach BAR0 and BAR2. (R52) MSI-X enable and Bus Master Enable that the host's configuration writes set. -/
  | pcieLinkUp (msix master : Bool)
  /-- CSPM_RDY is sampled high while the master holds CSPM_CLK low, and the frame resumes one clock period later. (R324) -/
  | cspmRdyRise
  /-- SYSRST_N returns high, the system reset ends and the boot ROM starts at step 1 of Table 03.8. (R45) -/
  | sysrstNRelease
  /-- The rebuild of resident route entries and index keys of a remapped row completes within 5 ms and NDT BUSY clears. (R252) -/
  | rteIdxRebuildDone
  deriving DecidableEq, Repr

end Sys2Proof
end

