-- ==== Sys2Proof/WellFormed.lean ====
section
/-! DEFINITION. Which commands are well formed: every operand lies in the range that its field, index or buffer has in the
hardware. A command outside is no command of the table; the machine does not ask for this check. -/

namespace Sys2Proof

/-- C0–C7 or an initiator that is no core. -/
def Initiator.wf : Initiator → Bool
  | .core n => decide (n < 8)
  | _ => true

/-- A detection: channel 11–26 or a band-plan index, PHY 0–2, antenna 0–3, 8-bit levels (R122). -/
def Detection.wf (x : Detection) : Bool :=
  (if x.sub then decide (x.chan < 64) else decide (11 ≤ x.chan) && decide (x.chan ≤ 26)) &&
    decide (x.phy < 3) && decide (x.ant < 4) && decide (x.level < 256) && decide (x.own ≤ x.level) &&
    decide (x.corr ≤ 256) &&
    decide (x.phaseCorr ≤ 1000)

/-- What a lane measured: one value for each antenna, 16-bit carrier offset, eighths of a tick (R138). -/
def FreezeInfo.wf (f : FreezeInfo) : Bool :=
  decide (f.agcGain < 256) && decide (f.h.length ≤ 4) && decide (f.rssi.length ≤ 4) && f.rssi.all (fun r => decide (r < 256)) &&
    decide (f.phase.length ≤ 4) && decide (f.freqOff < 2 ^ 16) && decide (f.tsFrac < 8)

/-- One value for each antenna; a TMB value. -/
def ForkEstimate.wf (x : ForkEstimate) : Bool := decide (x.h.length ≤ 4) && decide (x.start < 2 ^ 64)

/-- CE0–CE23. -/
def BlockBoundary.wf (b : BlockBoundary) : Bool := decide (b.engine < 24) && decide (b.copied < 2 ^ 16)

/-- At most four fetches of a word fail (R420). -/
def CipherFault.wf : CipherFault → Bool
  | .none => true
  | .source a n => decide (a < 2 ^ 32) && decide (n ≤ 4)
  | .hold off n => decide (off < 4096) && decide (n ≤ 4)

def PairFault.wf : PairFault → Bool
  | .none => true
  | .context n => decide (n ≤ 4)
  | .other a n => decide (a < 2 ^ 32) && decide (n ≤ 4)

/-- A frame on the serial port: one command octet (R326). -/
def CspsFrame.wf (f : CspsFrame) : Bool := decide (f.cmd < 256) && decide (f.fails < 5)

/-- A TX chain 0–3 or the window of a node slot. -/
def CoexClient.wf : CoexClient → Bool
  | .chain n => decide (n < 4)
  | .window s => decide (s < 32768)

/-- A node slot or one of the 512 slot-program entries. -/
def WinRef.wf : WinRef → Bool
  | .node s => decide (s < 32768)
  | .entry m => decide (m < 512)

/-- The header fields in the widths of Table 12.1. -/
def BmHdr.wf (h : BmHdr) : Bool :=
  decide (h.ports < 4) && decide (h.etherType < 2 ^ 16) && decide (h.version < 256) && decide (h.len < 2 ^ 16) &&
    decide (h.src < 2 ^ 16) && decide (h.dst < 2 ^ 16) && decide (h.bootId < 2 ^ 32) && decide (h.seq < 2 ^ 32) &&
    decide (h.body.length = h.len) && decide (h.epoch < 2 ^ 32) && decide (h.rsvd < 2 ^ 32) && decide (h.txTime < 2 ^ 64) && decide (h.mac < 2 ^ 48) &&
    (match h.vlan with
    | some v => decide (v < 4096)
    | none => true)

/-- A bundle takes at least one core clock; at most four fetches of a word fail (R341, R420). -/
def BundleRun.wf (r : BundleRun) : Bool :=
  decide (1 ≤ r.cycles) && decide (r.fetchFails ≤ 4) && decide (r.dataFails ≤ 4) && decide (r.xFails ≤ 4) &&
    decide (r.yFails ≤ 4)

/-- A host command: one of the 128 queues, an entry of at most 16 words of 32 bits (R297). -/
def HostCmd.wf (c : HostCmd) : Bool :=
  decide (c.sq < 128) && decide (c.w.length ≤ 16) && c.w.all (fun v => decide (v < 2 ^ 32)) &&
    decide (c.data.length < 2 ^ 16) && (match c.fault with
    | some f => decide (f.1 < 2 ^ 32) && decide (f.2 ≤ 4)
    | none => true)

/-- Well-formed commands. -/
def Instr.wf : Instr → Bool
  | .vddAonGood => true
  | .powerOnReset => true
  | .porstNRise straps => decide (straps < 2 ^ 32)
  | .sysrstNAssert => true
  | .sysResetCtrlSys who _ => who.wf
  | .sysResetCtrlCoreHold who _ => who.wf
  | .pciExpressReset => true
  | .railBrownOut r => decide (r < 32)
  | .nvOkFall => true
  | .nvOkRise => true
  | .railGood r => decide (r < 32)
  | .bootSupplyTimeout => true
  | .bootLowSupplyRecheck => true
  | .packetBufferSelfTestDone _ => true
  | .bootHeaderReadDone hdr => decide (hdr.length = 352)
  | .bootImageReadDone _ => true
  | .bootSectionsCopied => true
  | .bootSelfTestDone _ => true
  | .bootFirmwareEntry => true
  | .sysBootDoorbell who _ => who.wf
  | .bootPeerTimeout => true
  | .intNPulseEnd => true
  | .startupCalibrationStageDone g14 => (g14.all fun g => decide (g < 256))
  | .pwrVoteSet who _ => who.wf
  | .pwrVoteClr who _ => who.wf
  | .pwrVoteVnWrite who n _ => who.wf && decide (n < 20)
  | .domainSwitchOnStart n => decide (n < 32)
  | .domainPowerUpDone n => decide (n < 32)
  | .domainDrainDone n => decide (n < 32)
  | .domainDrainTimeout n => decide (n < 32)
  | .domainDrainRetry n => decide (n < 32)
  | .domainIsolationDone n => decide (n < 32)
  | .domainSwitchOffDone n => decide (n < 32)
  | .pwrPadRelease who _ => who.wf
  | .clkOpCtrlWrite who _ => who.wf
  | .opVoltageRampDone => true
  | .opPllRelockDone => true
  | .coreRailDrop => true
  | .wakePin n _ => decide (n < 4)
  | .pwrWakeTimeHiWrite _ => true
  | .wakeTimerCompare => true
  | .pwrWatchCtrlWrite who _ => who.wf
  | .watchPeriodTick => true
  | .watchGainSettled => true
  | .watchDwellEnd _ _ => true
  | .watchVoteRelease => true
  | .calibrateOneEntry who lo c => who.wf && decide (lo < 6) && decide (c < 256)
  | .calibrateEveryAllowedChannel who lo => who.wf && decide (lo < 6)
  | .invalidateOneEntry who lo c => who.wf && decide (lo < 6) && decide (c < 256)
  | .invalidateEveryEntry who => who.wf
  | .runStages2To6 who => who.wf
  | .calCommandEnd => true
  | .fullCalibrationLock lo band trim => decide (lo < 6) && decide (band < 2 ^ 16) && decide (trim < 2 ^ 16)
  | .fullCalibrationFail lo => decide (lo < 6)
  | .backgroundRecalibrationStart n => decide (n < 162)
  | .retune lo => decide (lo < 2)
  | .loLockLoss lo => decide (lo < 6)
  | .tempSensorUpdate _ => true
  | .tp3Commit _ => true
  | .txHopStart n _ => decide (n < 4)
  | .txLock n => decide (n < 4)
  | .txLockDeadline _ => true
  | .txLeadStart n _ _ => decide (n < 4)
  | .txFirstChip n => decide (n < 4)
  | .txLastChip n => decide (n < 4)
  | .txRampDownEnd n _ _ => decide (n < 4)
  | .txStage6Done n g14 => decide (n < 4) && (g14.all fun g => decide (g < 256))
  | .coexCfgWrite who _ => who.wf
  | .coexRoleChange => true
  | .coexRequestAssert c => c.wf
  | .coexGntFall => true
  | .coexReqEdge _ _ _ => true
  | .gainWindowEnd m _ _ => decide (m < 6)
  | .gainQuietIntervalEnd m _ => decide (m < 6)
  | .castling m frac => decide (m < 6) && decide (frac < 8)
  | .rxwGainCfgWrite who b _ => who.wf && decide (b < 2)
  | .preambleDetection xs => (xs.all Detection.wf)
  | .laneSyncTimeout i => decide (i < 96)
  | .freezePoint i f => decide (i < 96) && f.wf
  | .phrCheck i phr _ => decide (i < 96) && decide (phr < 2 ^ 16)
  | .laneFrameEnd i psdu _ fails => decide (i < 96) && decide (psdu.length ≤ 2047) && decide (fails ≤ 4)
  | .lanePostResume i => decide (i < 96)
  | .forkChannelEstimate i x => decide (i < 96) && x.wf
  | .idleSample _ _ ant _ => decide (ant < 4)
  | .channelConfigEffect a => decide (a < 2 ^ 32)
  | .subModeEffect => true
  | .wurxTelegramMatch _ => true
  | .restore who n t => who.wf && decide (n < 4) && decide (t < 3)
  | .commitPulseTable who n t => who.wf && decide (n < 4) && decide (t < 3)
  | .pulseTableActivate n t => decide (n < 4) && decide (t < 3)
  | .maskWindowEnd n _ _ => decide (n < 4)
  | .regMirrorCheck flips => (flips.all fun e => decide (e.1 < 2 ^ 16) && decide (e.2 < 2 ^ 32))
  | .regMirrorReloadDone w => decide (w < 2 ^ 16)
  | .prog who w => who.wf && decide (w < 2 ^ 32)
  | .sealRegion who => who.wf
  | .otpBitProgrammed _ => true
  | .regStageW1Effect => true
  | .dutyBucketAdvance => true
  | .lbtListenEnd n _ => decide (n < 4)
  | .tempoWorkItem p fault => decide (p < 5) && fault.wf
  | .verifyResult _ => true
  | .ackDeadlineMissed _ => true
  | .lockstepMismatch p _ => decide (p < 5)
  | .tp4SelfTest _ => true
  | .slotOccurrence m => decide (m < 512)
  | .slotWindowClose m => decide (m < 512)
  | .tschTimeslot => true
  | .lnkTschT0HiWrite who _ => who.wf
  | .lnkTschCtrlWrite who _ => who.wf
  | .ackWaitEnd _ => true
  | .retryAttempt _ => true
  | .windowVoteLead w => w.wf
  | .windowClose slot => decide (slot < 32768)
  | .heldFrameSend slot => decide (slot < 32768)
  | .checkTelegramSend slot => decide (slot < 32768)
  | .checkWaitEnd slot => decide (slot < 32768)
  | .nodeAdd c => c.wf
  | .nodeUpdate c => c.wf
  | .nodeRemove c => c.wf
  | .nodeRead c => c.wf
  | .routeSet c => c.wf
  | .routeDel c => c.wf
  | .routeDelIndexCleared r => decide (r < 65536)
  | .snapshot c => c.wf
  | .restoreStream c => c.wf
  | .relayRetry _ => true
  | .adopt who => who.wf
  | .clear who => who.wf
  | .adoptDone => true
  | .clearDone => true
  | .buddyReplicaTimeout node => decide (node < 2 ^ 25)
  | .fedCtrlStart who _ => who.wf
  | .fedCfgWrite who _ => who.wf
  | .portLinkUp p => decide (p < 2)
  | .portLinkDown p => decide (p < 2)
  | .helloTimer => true
  | .discoveryClose => true
  | .hello h eui version prio ports dg =>
    h.wf && decide (eui < 2 ^ 64) && decide (version < 256) && decide (prio < 256) && decide (ports < 4) &&
    decide (dg.length = 32)
  | .candidate h group best bitmap =>
    h.wf && decide (group < 32) && decide (best < 2 ^ 16) && decide (bitmap < 2 ^ 32)
  | .electionRound => true
  | .groupReport h group coord present aligned attested =>
    h.wf && decide (group < 32) && decide (coord < 1024) && decide (present < 2 ^ 32) &&
    decide (aligned < 2 ^ 32) && decide (attested < 2 ^ 32)
  | .leader h lead groups => h.wf && decide (lead < 1024) && decide (groups < 2 ^ 32)
  | .coordinatorLoss => true
  | .leaderLoss => true
  | .memberAbsent m => decide (m < 1024)
  | .syncBurst => true
  | .syncReq h index t2 => h.wf && decide (index < 256) && decide (t2 < 2 ^ 67)
  | .syncResp h t1 t2 t3 t4 =>
    h.wf && decide (t1 < 2 ^ 67) && decide (t2 < 2 ^ 67) && decide (t3 < 2 ^ 67) && decide (t4 < 2 ^ 67)
  | .parentHoldoverTimeout => true
  | .digestTimer other => decide (other < 1024)
  | .digest h epoch dg nextEpoch nextDigest =>
    h.wf && decide (epoch < 2 ^ 32) && decide (dg.length = 32) && decide (nextEpoch < 2 ^ 32) &&
    decide (nextDigest.length = 32)
  | .recordReq h epoch _ => h.wf && decide (epoch < 2 ^ 32)
  | .manifest h _ => h.wf
  | .record h type id total offset data =>
    h.wf && decide (type < 2 ^ 16) && decide (id < 2 ^ 32) && decide (total < 2 ^ 32) &&
    decide (offset < 2 ^ 32) && decide (data.length ≤ 1408)
  | .recordReassemblyTimeout type id => decide (type < 2 ^ 16) && decide (id < 2 ^ 32)
  | .propose h base dg proposer =>
    h.wf && decide (base < 2 ^ 32) && decide (dg.length = 32) && decide (proposer < 1024)
  | .prepare h epoch dg roster proposer =>
    h.wf && decide (epoch < 2 ^ 32) && decide (dg.length = 32) && decide (roster < 2 ^ 1024) &&
    decide (proposer < 1024)
  | .prepared h epoch st bitmap =>
    h.wf && decide (epoch < 2 ^ 32) && decide (st < 2 ^ 16) && decide (bitmap < 2 ^ 32)
  | .prepareTimeout => true
  | .commit h epoch dg t => h.wf && decide (epoch < 2 ^ 32) && decide (dg.length = 32) && decide (t < 2 ^ 64)
  | .commitTime => true
  | .abort h epoch st => h.wf && decide (epoch < 2 ^ 32) && decide (st < 2 ^ 16)
  | .joinTimeout => true
  | .replicationSend => true
  | .replica h entries => h.wf && (entries.all fun e => decide (e.1 < 32768) && decide (e.2.length = 128))
  | .replicaAck h _ => h.wf
  | .replicationRetx => true
  | .replicaReq h first count => h.wf && decide (first < 32768) && decide (count < 2 ^ 16)
  | .migrationStart node => decide (node < 2 ^ 25)
  | .migrateOffer h node offer ctx =>
    h.wf && decide (node < 2 ^ 25) && decide (offer < 2 ^ 32) && decide (ctx.length = 128)
  | .migrateAnswer h offer st => h.wf && decide (offer < 2 ^ 32) && decide (st < 2 ^ 16)
  | .offerRetry offer => decide (offer < 2 ^ 32)
  | .migrateDone h node offer owner =>
    h.wf && decide (node < 2 ^ 25) && decide (offer < 2 ^ 32) && decide (owner < 1024)
  | .doneRepeat offer => decide (offer < 2 ^ 32)
  | .migrateActive h offer => h.wf && decide (offer < 2 ^ 32)
  | .activeTimeout offer => decide (offer < 2 ^ 32)
  | .pendingDiscard m offer => decide (m < 1024) && decide (offer < 2 ^ 32)
  | .attestChallenge h nonce => h.wf && decide (nonce.length = 16)
  | .attestResponse h eui member svn key _ =>
    h.wf && decide (eui < 2 ^ 64) && decide (member < 1024) && decide (svn < 2 ^ 32) && decide (key.length = 64)
  | .attestTimeout m => decide (m < 1024)
  | .visitor h node octets => h.wf && decide (node < 2 ^ 25) && decide (octets.length ≤ 2304)
  | .transmit h node at0 _ _ phy _ _ _ psdu =>
    h.wf && decide (node < 2 ^ 25) && decide (at0 < 2 ^ 64) && decide (phy < 8) && decide (psdu.length ≤ 2047)
  | .redirect h node octets => h.wf && decide (node < 2 ^ 25) && decide (octets.length ≤ 2304)
  | .result h node at0 st => h.wf && decide (node < 2 ^ 25) && decide (at0 < 2 ^ 64) && decide (st < 2 ^ 16)
  | .bootReq h eui offset image =>
    h.wf && decide (eui < 2 ^ 64) && decide (offset < 2 ^ 32) && decide (image.length ≤ 2048)
  | .bootData h offset data => h.wf && decide (offset < 2 ^ 32) && decide (data.length ≤ 2048)
  | .hciEnable who _ => who.wf
  | .hciReset who _ => who.wf
  | .fwReadyWrite who _ => who.wf
  | .fwReadyTimeout _ => true
  | .doorbell q w entries => decide (q < 128) && decide (w < 2 ^ 32) && (entries.all HostCmd.wf)
  | .commandWakeDone _ => true
  | .commandWakeTimeout _ => true
  | .firmwareInterimCompletion _ => true
  | .msiXPendingSend => true
  | .dmaFault q => decide (q < 128)
  | .txFrame c => c.wf
  | .regRead c => c.wf
  | .regWrite c => c.wf
  | .powerVote c => c.wf
  | .helloCommand c => c.wf
  | .identify c => c.wf
  | .queueCreate c => c.wf
  | .queueDelete c => c.wf
  | .txCancel c => c.wf
  | .fedRecordPut c => c.wf
  | .fedRecordDel c => c.wf
  | .fedPropose c => c.wf
  | .fedMemberRead c => c.wf
  | .fedMigrate c => c.wf
  | .regProg c => c.wf
  | .secureRead c => c.wf
  | .keyLoad c => c.wf
  | .keyClear c => c.wf
  | .keyWrap c => c.wf
  | .blobPut c => c.wf
  | .keyAttrRead c => c.wf
  | .lcStatus c => c.wf
  | .lcTransition c => c.wf
  | .applicationCommand op _ c => decide (op < 64) && c.wf
  | .start who _ _ => who.wf
  | .cspmAbort who => who.wf
  | .cspmRdyTimeout => true
  | .cspmRequestDone _ _ => true
  | .cspsWrite f => f.wf
  | .cspsRead f => f.wf
  | .fstat f => f.wf
  | .cspsCommitDone => true
  | .bundle n r => decide (n < 8) && r.wf
  | .interruptTaken n => decide (n < 8)
  | .waitEnd n => decide (n < 8)
  | .gpioEdge p _ => decide (p < 32)
  | .tmrCtrlStart who n _ => who.wf && decide (n < 8)
  | .tmrCtrlStop who n _ => who.wf && decide (n < 8)
  | .eventTimerExpiry n => decide (n < 8)
  | .pulseEnd line => decide (line < 48)
  | .holdoffEnd k => decide (k < 32)
  | .taskPendingServe t => decide (t < 256)
  | .stormRearm p n => decide (p < 5) && decide (n < 64)
  | .evrEcnCfgWrite who n _ => who.wf && decide (n < 64)
  | .evrLunCfgWrite who k _ => who.wf && decide (k < 32)
  | .irqCfgWrite who n _ => who.wf && decide (n < 256)
  | .irqPendWrite who i _ => who.wf && decide (i < 8)
  | .irqClaim who n => who.wf && decide (n < 8)
  | .irqSgi who _ => who.wf
  | .load who slot => who.wf && decide (slot < 512)
  | .keyCmdClear who slot => who.wf && decide (slot < 512)
  | .unwrap who slot _ => who.wf && decide (slot < 512)
  | .wrap who slot _ => who.wf && decide (slot < 512)
  | .derive who slot => who.wf && decide (slot < 512)
  | .lock who slot => who.wf && decide (slot < 512)
  | .loadKr who slot => who.wf && decide (slot < 512)
  | .progKr who slot => who.wf && decide (slot < 512)
  | .keyOperationDone => true
  | .keySlotAttrWrite who n _ => who.wf && decide (n < 512)
  | .keyBlobCfgWrite who _ => who.wf
  | .keyPoolWrite who _ => who.wf
  | .remaskSweep => true
  | .nodeUnwrapDone slot => decide (slot < 32768)
  | .otpLcCmdStart who _ => who.wf
  | .lcTransitionStep => true
  | .cphSubmit who a => who.wf && decide (a < 2 ^ 32)
  | .cipherDispatch => true
  | .cipherSuspend b => b.wf
  | .cipherRequestDone n fault => decide (n < 24) && fault.wf
  | .bulkAge _ => true
  | .cipherDomainTimeout _ => true
  | .rowRemapDone res _ _ => decide (res < 2 ^ 32)
  | .queueRetireMove q => decide (q < 128)
  | .sparingMapCheck _ => true
  | .hostBarAccess _ off _ fails => decide (off < 2 ^ 25) && decide (fails ≤ 4)
  | .aliasAccessComplete n r => decide (n < 8) && r.wf
  | .rcFieldRead who a => who.wf && decide (a < 2 ^ 32)
  | .loWordRead who a => who.wf && decide (a < 2 ^ 32)
  | .registerWrite who a _ => who.wf && decide (a < 2 ^ 32)
  | .bandLoLock lo => decide (lo < 2)
  | .hopLockFailure n => decide (n < 4)
  | .detectorBlankingEnd n => decide (n < 4)
  | .windowOpen slot => decide (slot < 32768)
  | .leaderHeartbeat => true
  | .pcieLinkUp _ _ => true
  | .cspmRdyRise => true
  | .sysrstNRelease => true
  | .rteIdxRebuildDone => true

end Sys2Proof
end

