-- ==== Sys2Proof/Decode.lean ====
section
/-! DEFINITION. The words of the commands. No row of spec/opcode_table.json gives bits: a command is an access or an event,
not an instruction word, so no word spells one. -/

namespace Sys2Proof

/-- The command that a word of `nbits` bits spells: none, since the table gives no row any bits. -/
def decodeTableWord (_nbits _w : Nat) : Option Instr := none

end Sys2Proof
end

