-- ==== Sys2Proof/Config.lean ====
section
/-! DEFINITION. What the model leaves open: the free values, and what the manual fixes without giving it. -/

namespace Sys2Proof.Config

/-- The free values of the model: the n-th value that the manual leaves open, in the order in which they are taken. -/
opaque freeValue : Nat → Nat

/-- The provisioning key hash fixed in the boot ROM, a 256-bit number whose value the manual does not give (R50). -/
opaque provisioningHash : Nat

/-- Vendor ID and Subsystem IDs of the PCI Express endpoint, which OTP holds at places the manual does not give (R289). -/
opaque pcieVendor : Nat
opaque pcieSubsystem : Nat → Nat

/-- The MAC address of Ethernet port `p`, which OTP holds at a place the manual does not give (R259). -/
opaque portMac : Nat → Nat

/-- The words, each with how often, that fail their parity during the n-th read of a whole memory: nothing in the manual says
which (R251). -/
opaque failedWords : Nat → List (Nat × Nat)

/-- The octets of a Bamium payload whose layout the manual does not give (Table 12.2). -/
opaque bmLayout : BmPayload → List Byte

end Sys2Proof.Config
end

