-- ==== Sys2Proof/Machine/Bits.lean ====
section
/-! DEFINITION. Bit fields of 32-bit registers (R5, R6), little-endian byte order (R5), and the
checksums the chapters name. -/

namespace Sys2Proof.Machine

/-- The mask of the field of `n` bits whose lowest bit is `lo`. -/
def fieldMask (lo n : Nat) : Word :=
  ((BitVec.allOnes 32) >>> (32 - n)) <<< lo

/-- Reads the field of `n` bits at `lo`. -/
def getBits (w : Word) (lo n : Nat) : Nat :=
  ((w >>> lo) &&& ((BitVec.allOnes 32) >>> (32 - n))).toNat

/-- Replaces the field of `n` bits at `lo` by `v`; higher bits of `v` are dropped. -/
def putBits (w : Word) (lo n v : Nat) : Word :=
  (w &&& ~~~ fieldMask lo n) ||| ((BitVec.ofNat 32 v <<< lo) &&& fieldMask lo n)

/-- Bit `i` of a number. -/
def bitOf (v i : Nat) : Bool := v.testBit i

/-- `v` with bit `i` set. -/
def setBitN (v i : Nat) : Nat := v ||| (1 <<< i)

/-- `v` with bit `i` cleared. -/
def clrBitN (v i : Nat) : Nat := if v.testBit i then v - (1 <<< i) else v

/-- `v` with bit `i` made `b`. -/
def putBitN (v i : Nat) (b : Bool) : Nat := if b then setBitN v i else clrBitN v i

/-- 1 for true, 0 for false: the value of a one-bit field. -/
def b2n (b : Bool) : Nat := if b then 1 else 0

/-- The low `n` bits of `v`. -/
def lowBits (v n : Nat) : Nat := v % 2 ^ n

/-- Bits `[hi:lo]` of a number. -/
def bitsOf (v hi lo : Nat) : Nat := (v >>> lo) % 2 ^ (hi + 1 - lo)

/-- The two's-complement value of the low `n` bits of `v`. -/
def signedOf (v n : Nat) : Int :=
  let u := v % 2 ^ n
  if u < 2 ^ (n - 1) then (u : Int) else (u : Int) - (2 ^ n : Nat)

/-- The low `n` bits of an integer in two's complement. -/
def unsignedOf (i : Int) (n : Nat) : Nat := (i % ((2 ^ n : Nat) : Int)).toNat

/-- A value limited to the range `lo` to `hi`. -/
def clampInt (i lo hi : Int) : Int := if i < lo then lo else if hi < i then hi else i

/-- A counter that stops at `max` (R139 and the counter rules of every chapter). -/
def satAdd (v k max : Nat) : Nat := if v + k ≤ max then v + k else max

/-- The number a little-endian byte list holds. -/
def leNat : List Byte → Nat
  | [] => 0
  | b :: bs => b.toNat + 256 * leNat bs

/-- `n` little-endian bytes of `v`. -/
def natLe : Nat → Nat → List Byte
  | 0, _ => []
  | n + 1, v => BitVec.ofNat 8 v :: natLe n (v / 256)

/-- The number a big-endian byte list holds. -/
def beNat (bs : List Byte) : Nat := leNat bs.reverse

/-- `n` big-endian bytes of `v`. -/
def natBe (n v : Nat) : List Byte := (natLe n v).reverse

/-- `n` bytes from position `i` of a list; missing bytes are absent. -/
def slice (bs : List Byte) (i n : Nat) : List Byte := (bs.drop i).take n

/-- Little-endian field of `n` bytes at position `i`. -/
def leAt (bs : List Byte) (i n : Nat) : Nat := leNat (slice bs i n)

/-- Big-endian field of `n` bytes at position `i`. -/
def beAt (bs : List Byte) (i n : Nat) : Nat := beNat (slice bs i n)

/-- A list padded with zero bytes, or cut, to `n` bytes. -/
def padTo (n : Nat) (bs : List Byte) : List Byte :=
  (bs ++ List.replicate (n - bs.length) 0#8).take n

/-- Exclusive-or of two byte lists, as long as the shorter. -/
def xorBytes (a b : List Byte) : List Byte := List.zipWith (fun x y => x ^^^ y) a b

/-- A list with element `i` replaced by `f` of it; unchanged past its end. -/
def modifyAt {α : Type} (f : α → α) : Nat → List α → List α
  | _, [] => []
  | 0, x :: xs => f x :: xs
  | i + 1, x :: xs => x :: modifyAt f i xs

/-- A list with element `i` replaced. -/
def putAt {α : Type} (i : Nat) (a : α) (l : List α) : List α := modifyAt (fun _ => a) i l

/-- One step of a reflected checksum over a register of arbitrary width: eight shifts. -/
def crcBits (poly : Nat) : Nat → Nat → Nat
  | 0, c => c
  | k + 1, c => crcBits poly k (if c.testBit 0 then (c >>> 1) ^^^ poly else c >>> 1)

/-- Reflected CRC over bytes with polynomial `poly` (bit-reversed form), running value `c`. -/
def crcRef (poly : Nat) (bs : List Byte) (c : Nat) : Nat :=
  bs.foldl (fun c b => crcBits poly 8 (c ^^^ b.toNat)) c

/-- CRC-32 (polynomial 0x04C1_1DB7, reflected, initial and final 0xFFFF_FFFF). -/
def crc32 (bs : List Byte) : Nat := (crcRef 0xEDB88320 bs 0xFFFFFFFF) ^^^ 0xFFFFFFFF

/-- CRC-32C (polynomial 0x1EDC_6F41, reflected, initial and final 0xFFFF_FFFF). -/
def crc32c (bs : List Byte) : Nat := (crcRef 0x82F63B78 bs 0xFFFFFFFF) ^^^ 0xFFFFFFFF

end Sys2Proof.Machine
end

