-- ==== Sys2Proof/Machine/RegMap.lean ====
section
/-! DEFINITION. The register map (R5, R21, Table 01.7): every register of the control blocks with its
offset, count, stride, power domain, reset value and the access code of each field (Table 00.2), and
the name of each register and field as the chapters give them. -/

namespace Sys2Proof.Machine

/-- One register, or one array of like registers: `count` words, `stride` bytes apart. A mask gives the
bits of each access code of Table 00.2; bits in no mask are reserved (R5, R7). -/
structure RegRow where
  base : Nat
  count : Nat
  stride : Nat
  /-- Power domain that answers accesses (R10). -/
  dom : Nat
  /-- Reset value, where it is one value for every element. -/
  reset : Nat
  rw : Nat := 0
  ro : Nat := 0
  wo : Nat := 0
  w1c : Nat := 0
  w1s : Nat := 0
  rc : Nat := 0
  rwl : Nat := 0
  deriving DecidableEq, Repr

/-- A named field of a register, or of each element of a register array. -/
structure Field where
  base : Nat
  stride : Nat
  lo : Nat
  n : Nat
  deriving DecidableEq, Repr

/-! Register offsets. -/

/-- SYS_ID (R1). -/
abbrev Reg.sysId : Nat := 0x20000000
/-- SYS_REV (R1). -/
abbrev Reg.sysRev : Nat := 0x20000004
/-- SYS_STRAP (R36). -/
abbrev Reg.sysStrap : Nat := 0x20000010
/-- SYS_RESET_CAUSE (R46). -/
abbrev Reg.sysResetCause : Nat := 0x20000020
/-- SYS_RESET_CTRL (R47). -/
abbrev Reg.sysResetCtrl : Nat := 0x20000024
/-- SYS_BOOT_STATUS (R53). -/
abbrev Reg.sysBootStatus : Nat := 0x20000028
/-- SYS_SUPPLY_STATUS (R43). -/
abbrev Reg.sysSupplyStatus : Nat := 0x2000002C
/-- SYS_BOOT_DOORBELL (R52). -/
abbrev Reg.sysBootDoorbell : Nat := 0x20000030
/-- SYS_COMPAT (R316). -/
abbrev Reg.sysCompat : Nat := 0x20000040
/-- SYS_CORE_STATUS (R336). -/
abbrev Reg.sysCoreStatus : Nat := 0x20000080
/-- PWR_VOTE_SET (R59). -/
abbrev Reg.pwrVoteSet : Nat := 0x20010000
/-- PWR_VOTE_CLR (R60). -/
abbrev Reg.pwrVoteClr : Nat := 0x20010004
/-- PWR_VOTE_TALLY (R61). -/
abbrev Reg.pwrVoteTally : Nat := 0x20010008
/-- PWR_RET_CTRL (R67). -/
abbrev Reg.pwrRetCtrl : Nat := 0x20010010
/-- PWR_DRAIN_MAX (R64). -/
abbrev Reg.pwrDrainMax : Nat := 0x20010014
/-- PWR_PAD_RELEASE (R69). -/
abbrev Reg.pwrPadRelease : Nat := 0x20010018
/-- PWR_WAKE_CFG (R73). -/
abbrev Reg.pwrWakeCfg : Nat := 0x20010020
/-- PWR_WAKE_CAUSE (R74). -/
abbrev Reg.pwrWakeCause : Nat := 0x20010024
/-- PWR_WAKE_VOTE (R75). -/
abbrev Reg.pwrWakeVote : Nat := 0x20010028
/-- PWR_WURX_CFG (R76). -/
abbrev Reg.pwrWurxCfg : Nat := 0x2001002C
/-- PWR_WURX_ADDR (R76). -/
abbrev Reg.pwrWurxAddr : Nat := 0x20010030
/-- PWR_WAKE_TIME_LO (R77). -/
abbrev Reg.pwrWakeTimeLo : Nat := 0x20010038
/-- PWR_WAKE_TIME_HI (R77). -/
abbrev Reg.pwrWakeTimeHi : Nat := 0x2001003C
/-- PWR_WATCH_CTRL (R80). -/
abbrev Reg.pwrWatchCtrl : Nat := 0x20010040
/-- PWR_WATCH_PERIOD (R81). -/
abbrev Reg.pwrWatchPeriod : Nat := 0x20010044
/-- PWR_WATCH_DWELL (R81). -/
abbrev Reg.pwrWatchDwell : Nat := 0x20010048
/-- PWR_WATCH_STATUS (R84). -/
abbrev Reg.pwrWatchStatus : Nat := 0x2001004C
/-- PWR_WATCH_CH (R82). -/
abbrev Reg.pwrWatchCh : Nat := 0x20010050
/-- PWR_WATCH_COUNT (R84). -/
abbrev Reg.pwrWatchCount : Nat := 0x20010060
/-- PWR_VOTE_V (R61). -/
abbrev Reg.pwrVoteV : Nat := 0x20010100
/-- PWR_VOTE_VX (R61). -/
abbrev Reg.pwrVoteVx : Nat := 0x20010150
/-- PWR_DOM_STATUS (R65). -/
abbrev Reg.pwrDomStatus : Nat := 0x20010200
/-- PWR_DOM_ABORT (R66). -/
abbrev Reg.pwrDomAbort : Nat := 0x20010280
/-- CLK_OP_CTRL (R71). -/
abbrev Reg.clkOpCtrl : Nat := 0x20020040
/-- CLK_OP_STATUS (R72). -/
abbrev Reg.clkOpStatus : Nat := 0x20020044
/-- RFS_CAL_CMD (R93). -/
abbrev Reg.rfsCalCmd : Nat := 0x20030000
/-- RFS_CAL_STATUS (R94). -/
abbrev Reg.rfsCalStatus : Nat := 0x20030004
/-- RFS_CAL_CTRL (R95). -/
abbrev Reg.rfsCalCtrl : Nat := 0x20030008
/-- RFS_TX_LEAD (R102). -/
abbrev Reg.rfsTxLead : Nat := 0x2003000C
/-- RFS_TEMP (R99). -/
abbrev Reg.rfsTemp : Nat := 0x20030010
/-- RFS_CHAIN_STATE (R100). -/
abbrev Reg.rfsChainState : Nat := 0x20030014
/-- RFS_LO_STATUS (R98). -/
abbrev Reg.rfsLoStatus : Nat := 0x20030018
/-- RFS_PWR_COMP (R106). -/
abbrev Reg.rfsPwrComp : Nat := 0x20030020
/-- RFS_PWR_TRIM (R106). -/
abbrev Reg.rfsPwrTrim : Nat := 0x20030030
/-- RFS_CAL_ENTRY (R89). -/
abbrev Reg.rfsCalEntry : Nat := 0x20030400
/-- RFS_PWR_CAL (R106). -/
abbrev Reg.rfsPwrCal : Nat := 0x20030700
/-- RXW_LANE_CTRL (R128). -/
abbrev Reg.rxwLaneCtrl : Nat := 0x20040000
/-- RXW_LANE_BUSY (R128). -/
abbrev Reg.rxwLaneBusy : Nat := 0x20040004
/-- RXW_LANE_RETIRED (R128). -/
abbrev Reg.rxwLaneRetired : Nat := 0x20040010
/-- RXW_SUB_CFG (R125). -/
abbrev Reg.rxwSubCfg : Nat := 0x20040020
/-- RXW_BLITZ_SYNC (R125). -/
abbrev Reg.rxwBlitzSync : Nat := 0x20040024
/-- RXW_GAIN_CFG (R120). -/
abbrev Reg.rxwGainCfg : Nat := 0x20040030
/-- RXW_GAIN_STATUS (R121). -/
abbrev Reg.rxwGainStatus : Nat := 0x20040040
/-- RXW_GAIN_LAST (R121). -/
abbrev Reg.rxwGainLast : Nat := 0x20040044
/-- RXW_STAT_DET (R139). -/
abbrev Reg.rxwStatDet : Nat := 0x20040080
/-- RXW_STAT_FRAME (R139). -/
abbrev Reg.rxwStatFrame : Nat := 0x20040084
/-- RXW_STAT_ABANDON (R139). -/
abbrev Reg.rxwStatAbandon : Nat := 0x20040088
/-- RXW_FORK_STAT0 (R139). -/
abbrev Reg.rxwForkStat0 : Nat := 0x2004008C
/-- RXW_FORK_STAT1 (R139). -/
abbrev Reg.rxwForkStat1 : Nat := 0x20040090
/-- RXW_FORK_STAT2 (R139). -/
abbrev Reg.rxwForkStat2 : Nat := 0x20040094
/-- RXW_CH24 (R124). -/
abbrev Reg.rxwCh24 : Nat := 0x20040100
/-- RXW_CHS (R124). -/
abbrev Reg.rxwChs : Nat := 0x20040200
/-- RXW_NF24 (R137). -/
abbrev Reg.rxwNf24 : Nat := 0x20041000
/-- RXW_NFS (R137). -/
abbrev Reg.rxwNfs : Nat := 0x20041100
/-- TXP_FEMC_OWN (R165). -/
abbrev Reg.txpFemcOwn : Nat := 0x20050000
/-- TXP_FEMC_IDLE (R165). -/
abbrev Reg.txpFemcIdle : Nat := 0x20050010
/-- TXP_FEMC_STATIC (R165). -/
abbrev Reg.txpFemcStatic : Nat := 0x20050020
/-- TXP_FEMC_PAT (R165). -/
abbrev Reg.txpFemcPat : Nat := 0x20050040
/-- TXP_MASK_CTRL (R171). -/
abbrev Reg.txpMaskCtrl : Nat := 0x20050080
/-- TXP_MASK_STATUS (R172). -/
abbrev Reg.txpMaskStatus : Nat := 0x20050090
/-- TXP_SHAPE_CTRL0 (R162). -/
abbrev Reg.txpShapeCtrl0 : Nat := 0x20050800
/-- TXP_SHAPE_CTRL1 (R162). -/
abbrev Reg.txpShapeCtrl1 : Nat := 0x20050804
/-- TXP_SHAPE_CTRL2 (R162). -/
abbrev Reg.txpShapeCtrl2 : Nat := 0x20050808
/-- TXP_SHAPE_CTRL3 (R162). -/
abbrev Reg.txpShapeCtrl3 : Nat := 0x2005080C
/-- TXP_SUN_CFG0 (R147). -/
abbrev Reg.txpSunCfg0 : Nat := 0x20050810
/-- TXP_SUN_CFG1 (R147). -/
abbrev Reg.txpSunCfg1 : Nat := 0x20050814
/-- TXP_SHAPE0_T (R162). -/
abbrev Reg.txpShape0T : Nat := 0x20051000
/-- TXP_SHAPE1_T (R162). -/
abbrev Reg.txpShape1T : Nat := 0x20051200
/-- TXP_SHAPE2_T (R162). -/
abbrev Reg.txpShape2T : Nat := 0x20051400
/-- TXP_SHAPE3_T (R162). -/
abbrev Reg.txpShape3T : Nat := 0x20051600
/-- REG_STATUS (R176). -/
abbrev Reg.regStatus : Nat := 0x20060000
/-- REG_PROG_CMD (R177). -/
abbrev Reg.regProgCmd : Nat := 0x20060010
/-- REG_PROG_STATUS (R178). -/
abbrev Reg.regProgStatus : Nat := 0x20060014
/-- REG_STAT0 (R184). -/
abbrev Reg.regStat0 : Nat := 0x20060020
/-- REG_STAT1 (R184). -/
abbrev Reg.regStat1 : Nat := 0x20060024
/-- REG_STAT2 (R184). -/
abbrev Reg.regStat2 : Nat := 0x20060028
/-- REG_MIRROR_W (R175). -/
abbrev Reg.regMirrorW : Nat := 0x20060100
/-- REG_MIRROR_C (R175). -/
abbrev Reg.regMirrorC : Nat := 0x20060180
/-- REG_STAGE_W (R177). -/
abbrev Reg.regStageW : Nat := 0x20060200
/-- REG_DUTY_USED (R184). -/
abbrev Reg.regDutyUsed : Nat := 0x20060400
/-- REG_DUTY_PRELOAD (R184). -/
abbrev Reg.regDutyPreload : Nat := 0x20060404
/-- REG_DUTY_HELD (R184). -/
abbrev Reg.regDutyHeld : Nat := 0x20060408
/-- REG_DUTY_BUDGET (R184). -/
abbrev Reg.regDutyBudget : Nat := 0x2006040C
/-- LNK_CFG (R211). -/
abbrev Reg.lnkCfg : Nat := 0x20070000
/-- LNK_PAIR_STATUS (R203). -/
abbrev Reg.lnkPairStatus : Nat := 0x20070004
/-- LNK_ACK_PWR (R197). -/
abbrev Reg.lnkAckPwr : Nat := 0x20070008
/-- LNK_LOCK_STAT (R204). -/
abbrev Reg.lnkLockStat : Nat := 0x20070010
/-- LNK_EUI_LO (R191). -/
abbrev Reg.lnkEuiLo : Nat := 0x20070030
/-- LNK_EUI_HI (R191). -/
abbrev Reg.lnkEuiHi : Nat := 0x20070034
/-- LNK_STAT0 (R212). -/
abbrev Reg.lnkStat0 : Nat := 0x20070040
/-- LNK_STAT1 (R212). -/
abbrev Reg.lnkStat1 : Nat := 0x20070044
/-- LNK_STAT2 (R212). -/
abbrev Reg.lnkStat2 : Nat := 0x20070048
/-- LNK_STAT3 (R212). -/
abbrev Reg.lnkStat3 : Nat := 0x2007004C
/-- LNK_STAT4 (R212). -/
abbrev Reg.lnkStat4 : Nat := 0x20070050
/-- LNK_STAT5 (R212). -/
abbrev Reg.lnkStat5 : Nat := 0x20070054
/-- LNK_STAT6 (R212). -/
abbrev Reg.lnkStat6 : Nat := 0x20070058
/-- LNK_ID (R191). -/
abbrev Reg.lnkId : Nat := 0x20070060
/-- LNK_TSCH_CTRL (R208). -/
abbrev Reg.lnkTschCtrl : Nat := 0x20070100
/-- LNK_TSCH_ASN0_LO (R208). -/
abbrev Reg.lnkTschAsn0Lo : Nat := 0x20070104
/-- LNK_TSCH_ASN0_HI (R208). -/
abbrev Reg.lnkTschAsn0Hi : Nat := 0x20070108
/-- LNK_TSCH_T0_LO (R208). -/
abbrev Reg.lnkTschT0Lo : Nat := 0x2007010C
/-- LNK_TSCH_T0_HI (R208). -/
abbrev Reg.lnkTschT0Hi : Nat := 0x20070110
/-- LNK_TSCH_ASN_LO (R208). -/
abbrev Reg.lnkTschAsnLo : Nat := 0x20070114
/-- LNK_TSCH_ASN_HI (R208). -/
abbrev Reg.lnkTschAsnHi : Nat := 0x20070118
/-- LNK_TSCH_TMPL (R209). -/
abbrev Reg.lnkTschTmpl : Nat := 0x20070120
/-- LNK_TSCH_HOP (R208). -/
abbrev Reg.lnkTschHop : Nat := 0x20070140
/-- LNK_TSCH_SF (R209). -/
abbrev Reg.lnkTschSf : Nat := 0x20070180
/-- LNK_SLP_CFG (R223). -/
abbrev Reg.lnkSlpCfg : Nat := 0x20070200
/-- LNK_SLP_GUARD (R224). -/
abbrev Reg.lnkSlpGuard : Nat := 0x20070204
/-- LNK_SLP_DRIFT (R225). -/
abbrev Reg.lnkSlpDrift : Nat := 0x20070208
/-- LNK_SLP_LOST (R226). -/
abbrev Reg.lnkSlpLost : Nat := 0x2007020C
/-- LNK_SLP_WAKE (R227). -/
abbrev Reg.lnkSlpWake : Nat := 0x20070210
/-- LNK_SLP_PEND (R228). -/
abbrev Reg.lnkSlpPend : Nat := 0x20070214
/-- LNK_SLP_STAT0 (R229). -/
abbrev Reg.lnkSlpStat0 : Nat := 0x20070220
/-- LNK_SLP_STAT1 (R229). -/
abbrev Reg.lnkSlpStat1 : Nat := 0x20070224
/-- LNK_SLP_STAT2 (R229). -/
abbrev Reg.lnkSlpStat2 : Nat := 0x20070228
/-- LNK_SLP_STAT3 (R229). -/
abbrev Reg.lnkSlpStat3 : Nat := 0x2007022C
/-- LNK_SLP_STAT4 (R229). -/
abbrev Reg.lnkSlpStat4 : Nat := 0x20070230
/-- LNK_CELL_W0 (R209). -/
abbrev Reg.lnkCellW0 : Nat := 0x20072000
/-- LNK_CELL_W1 (R209). -/
abbrev Reg.lnkCellW1 : Nat := 0x20072004
/-- LNK_SLOT_W0 (R206). -/
abbrev Reg.lnkSlotW0 : Nat := 0x20074000
/-- LNK_SLOT_W1 (R206). -/
abbrev Reg.lnkSlotW1 : Nat := 0x20074004
/-- LNK_SLOT_W2 (R206). -/
abbrev Reg.lnkSlotW2 : Nat := 0x20074008
/-- LNK_SLOT_W3 (R206). -/
abbrev Reg.lnkSlotW3 : Nat := 0x2007400C
/-- NDT_CFG (R253). -/
abbrev Reg.ndtCfg : Nat := 0x20080000
/-- NDT_MEMBER (R254). -/
abbrev Reg.ndtMember : Nat := 0x20080004
/-- NDT_OUT_SKIP (R255). -/
abbrev Reg.ndtOutSkip : Nat := 0x20080008
/-- NDT_CTRL (R256). -/
abbrev Reg.ndtCtrl : Nat := 0x2008000C
/-- NDT_STATUS0 (R257). -/
abbrev Reg.ndtStatus0 : Nat := 0x20080010
/-- NDT_STATUS1 (R257). -/
abbrev Reg.ndtStatus1 : Nat := 0x20080014
/-- NDT_STATUS2 (R257). -/
abbrev Reg.ndtStatus2 : Nat := 0x20080018
/-- NDT_STAT0 (R258). -/
abbrev Reg.ndtStat0 : Nat := 0x20080040
/-- NDT_STAT1 (R258). -/
abbrev Reg.ndtStat1 : Nat := 0x20080044
/-- NDT_STAT2 (R258). -/
abbrev Reg.ndtStat2 : Nat := 0x20080048
/-- NDT_STAT3 (R258). -/
abbrev Reg.ndtStat3 : Nat := 0x2008004C
/-- FED_CFG (R284). -/
abbrev Reg.fedCfg : Nat := 0x20090000
/-- FED_NET (R285). -/
abbrev Reg.fedNet : Nat := 0x20090004
/-- FED_CTRL (R286). -/
abbrev Reg.fedCtrl : Nat := 0x20090008
/-- FED_TIMERS (R286). -/
abbrev Reg.fedTimers : Nat := 0x2009000C
/-- FED_STATUS (R287). -/
abbrev Reg.fedStatus : Nat := 0x20090010
/-- FED_EPOCH (R287). -/
abbrev Reg.fedEpoch : Nat := 0x20090014
/-- FED_LEADER (R287). -/
abbrev Reg.fedLeader : Nat := 0x20090018
/-- FED_TIME (R287). -/
abbrev Reg.fedTime : Nat := 0x2009001C
/-- FED_ASYM (R285). -/
abbrev Reg.fedAsym : Nat := 0x20090020
/-- FED_GROUP_MAC_LO (R285). -/
abbrev Reg.fedGroupMacLo : Nat := 0x20090030
/-- FED_GROUP_MAC_HI (R285). -/
abbrev Reg.fedGroupMacHi : Nat := 0x20090034
/-- FED_DIGEST (R287). -/
abbrev Reg.fedDigest : Nat := 0x20090040
/-- FED_STAT0 (R288). -/
abbrev Reg.fedStat0 : Nat := 0x20090080
/-- FED_STAT1 (R288). -/
abbrev Reg.fedStat1 : Nat := 0x20090084
/-- FED_STAT2 (R288). -/
abbrev Reg.fedStat2 : Nat := 0x20090088
/-- FED_STAT3 (R288). -/
abbrev Reg.fedStat3 : Nat := 0x2009008C
/-- FED_STAT4 (R288). -/
abbrev Reg.fedStat4 : Nat := 0x20090090
/-- FED_STAT5 (R288). -/
abbrev Reg.fedStat5 : Nat := 0x20090094
/-- FED_STAT6 (R288). -/
abbrev Reg.fedStat6 : Nat := 0x20090098
/-- HCI_CTRL (R293). -/
abbrev Reg.hciCtrl : Nat := 0x200A0000
/-- HCI_STATUS (R294). -/
abbrev Reg.hciStatus : Nat := 0x200A0004
/-- HCI_ADMIN_SQ_LO (R295). -/
abbrev Reg.hciAdminSqLo : Nat := 0x200A0010
/-- HCI_ADMIN_SQ_HI (R295). -/
abbrev Reg.hciAdminSqHi : Nat := 0x200A0014
/-- HCI_ADMIN_CQ_LO (R295). -/
abbrev Reg.hciAdminCqLo : Nat := 0x200A0018
/-- HCI_ADMIN_CQ_HI (R295). -/
abbrev Reg.hciAdminCqHi : Nat := 0x200A001C
/-- HCI_ADMIN_CFG (R295). -/
abbrev Reg.hciAdminCfg : Nat := 0x200A0020
/-- HCI_QERR (R298). -/
abbrev Reg.hciQerr : Nat := 0x200A0030
/-- HCI_STAT0 (R318). -/
abbrev Reg.hciStat0 : Nat := 0x200A0040
/-- HCI_STAT1 (R318). -/
abbrev Reg.hciStat1 : Nat := 0x200A0044
/-- HCI_STAT2 (R318). -/
abbrev Reg.hciStat2 : Nat := 0x200A0048
/-- HCI_Q_BASE_LO (R296). -/
abbrev Reg.hciQBaseLo : Nat := 0x200A1000
/-- HCI_Q_BASE_HI (R296). -/
abbrev Reg.hciQBaseHi : Nat := 0x200A1004
/-- HCI_Q_BUF_LO (R296). -/
abbrev Reg.hciQBufLo : Nat := 0x200A1008
/-- HCI_Q_BUF_HI (R296). -/
abbrev Reg.hciQBufHi : Nat := 0x200A100C
/-- HCI_Q_CFG (R296). -/
abbrev Reg.hciQCfg : Nat := 0x200A1010
/-- HCI_Q_HEAD (R296). -/
abbrev Reg.hciQHead : Nat := 0x200A1014
/-- HCI_Q_TAIL (R296). -/
abbrev Reg.hciQTail : Nat := 0x200A1018
/-- CSP_M_CLK (R320). -/
abbrev Reg.cspMClk : Nat := 0x200B0000
/-- CSP_M_SEL_TIM (R322). -/
abbrev Reg.cspMSelTim : Nat := 0x200B0004
/-- CSP_M_RDY (R324). -/
abbrev Reg.cspMRdy : Nat := 0x200B000C
/-- CSP_M_FMT (R321). -/
abbrev Reg.cspMFmt : Nat := 0x200B0010
/-- CSP_M_CMD (R323). -/
abbrev Reg.cspMCmd : Nat := 0x200B0040
/-- CSP_M_ADDR (R323). -/
abbrev Reg.cspMAddr : Nat := 0x200B0044
/-- CSP_M_ALT (R323). -/
abbrev Reg.cspMAlt : Nat := 0x200B0048
/-- CSP_M_MEM (R323). -/
abbrev Reg.cspMMem : Nat := 0x200B004C
/-- CSP_M_LEN (R323). -/
abbrev Reg.cspMLen : Nat := 0x200B0050
/-- CSP_M_STATUS (R325). -/
abbrev Reg.cspMStatus : Nat := 0x200B0054
/-- CSP_S_ERR (R333). -/
abbrev Reg.cspSErr : Nat := 0x200B0080
/-- CSP_S_STAT0 (R334). -/
abbrev Reg.cspSStat0 : Nat := 0x200B0090
/-- CSP_S_STAT1 (R334). -/
abbrev Reg.cspSStat1 : Nat := 0x200B0094
/-- CSP_M_STAT (R334). -/
abbrev Reg.cspMStat : Nat := 0x200B0098
/-- EVR_STORM (R368). -/
abbrev Reg.evrStorm : Nat := 0x200C0000
/-- EVR_ARM_RESULT (R364). -/
abbrev Reg.evrArmResult : Nat := 0x200C0004
/-- EVR_GPIO_OUT (R359). -/
abbrev Reg.evrGpioOut : Nat := 0x200C0010
/-- EVR_GPIO_OE (R359). -/
abbrev Reg.evrGpioOe : Nat := 0x200C0014
/-- EVR_GPIO_IN (R359). -/
abbrev Reg.evrGpioIn : Nat := 0x200C0018
/-- EVR_GPIO_PULLDIS (R359). -/
abbrev Reg.evrGpioPulldis : Nat := 0x200C001C
/-- EVR_GPIO_EVT (R359). -/
abbrev Reg.evrGpioEvt : Nat := 0x200C0020
/-- EVR_GPIO_ACT (R359). -/
abbrev Reg.evrGpioAct : Nat := 0x200C0028
/-- EVR_GPIO_PULSE (R359). -/
abbrev Reg.evrGpioPulse : Nat := 0x200C0030
/-- EVR_FEMC_ACT (R359). -/
abbrev Reg.evrFemcAct : Nat := 0x200C0034
/-- EVR_EC_CFG (R361). -/
abbrev Reg.evrEcCfg : Nat := 0x200C0100
/-- EVR_EC_STAT (R371). -/
abbrev Reg.evrEcStat : Nat := 0x200C0104
/-- EVR_LU_CFG (R366). -/
abbrev Reg.evrLuCfg : Nat := 0x200C0300
/-- EVR_LU_Q (R366). -/
abbrev Reg.evrLuQ : Nat := 0x200C0380
/-- EVR_TMR_DELAY (R360). -/
abbrev Reg.evrTmrDelay : Nat := 0x200C0400
/-- EVR_TMR_CTRL (R360). -/
abbrev Reg.evrTmrCtrl : Nat := 0x200C0404
/-- EVR_CAP_LO (R360). -/
abbrev Reg.evrCapLo : Nat := 0x200C0440
/-- EVR_CAP_HI (R360). -/
abbrev Reg.evrCapHi : Nat := 0x200C0444
/-- EVR_TASK_MODE (R370). -/
abbrev Reg.evrTaskMode : Nat := 0x200C0500
/-- EVR_TASK_MERGED (R370). -/
abbrev Reg.evrTaskMerged : Nat := 0x200C0520
/-- EVR_TASK_OVR (R370). -/
abbrev Reg.evrTaskOvr : Nat := 0x200C0540
/-- IRQ_CFG (R373). -/
abbrev Reg.irqCfg : Nat := 0x200D0000
/-- IRQ_PEND (R374). -/
abbrev Reg.irqPend : Nat := 0x200D0400
/-- IRQ_SGI (R376). -/
abbrev Reg.irqSgi : Nat := 0x200D0420
/-- IRQ_THRESH (R375). -/
abbrev Reg.irqThresh : Nat := 0x200D0440
/-- IRQ_CLAIM_R (R375). -/
abbrev Reg.irqClaimR : Nat := 0x200D0460
/-- KEY_CMD (R380). -/
abbrev Reg.keyCmd : Nat := 0x200E0000
/-- KEY_ARG (R380). -/
abbrev Reg.keyArg : Nat := 0x200E0004
/-- KEY_STATUS (R380). -/
abbrev Reg.keyStatus : Nat := 0x200E0008
/-- KEY_MASK (R378). -/
abbrev Reg.keyMask : Nat := 0x200E000C
/-- KEY_POOL (R383). -/
abbrev Reg.keyPool : Nat := 0x200E0010
/-- KEY_BLOB_CFG (R382). -/
abbrev Reg.keyBlobCfg : Nat := 0x200E0014
/-- KEY_DATA (R380). -/
abbrev Reg.keyData : Nat := 0x200E0040
/-- KEY_STAT0 (R395). -/
abbrev Reg.keyStat0 : Nat := 0x200E0080
/-- KEY_STAT1 (R395). -/
abbrev Reg.keyStat1 : Nat := 0x200E0084
/-- KEY_SLOT_ATTR (R379). -/
abbrev Reg.keySlotAttr : Nat := 0x200E1000
/-- CPH_CFG (R413). -/
abbrev Reg.cphCfg : Nat := 0x200F0000
/-- CPH_NS_WINDOW (R414). -/
abbrev Reg.cphNsWindow : Nat := 0x200F0004
/-- CPH_DONE (R416). -/
abbrev Reg.cphDone : Nat := 0x200F0008
/-- CPH_QSTAT (R417). -/
abbrev Reg.cphQstat : Nat := 0x200F000C
/-- CPH_SUBMIT_R (R415). -/
abbrev Reg.cphSubmitR : Nat := 0x200F0010
/-- CPH_ENG (R417). -/
abbrev Reg.cphEng : Nat := 0x200F0020
/-- CPH_STAT0 (R418). -/
abbrev Reg.cphStat0 : Nat := 0x200F0040
/-- CPH_STAT1 (R418). -/
abbrev Reg.cphStat1 : Nat := 0x200F0044
/-- CPH_STAT2 (R418). -/
abbrev Reg.cphStat2 : Nat := 0x200F0048
/-- ERR_THRESH (R423). -/
abbrev Reg.errThresh : Nat := 0x20100000
/-- ERR_LAST_TRANS (R431). -/
abbrev Reg.errLastTrans : Nat := 0x20100004
/-- ERR_LAST_PERM (R431). -/
abbrev Reg.errLastPerm : Nat := 0x20100008
/-- ERR_FAULT_ADDR (R431). -/
abbrev Reg.errFaultAddr : Nat := 0x2010000C
/-- ERR_SPARE (R425). -/
abbrev Reg.errSpare : Nat := 0x20100010
/-- ERR_GHOST (R431). -/
abbrev Reg.errGhost : Nat := 0x20100020
/-- ERR_GHOST_ADDR (R431). -/
abbrev Reg.errGhostAddr : Nat := 0x20100024
/-- ERR_DECODE (R431). -/
abbrev Reg.errDecode : Nat := 0x20100028
/-- ERR_DECODE_ADDR (R431). -/
abbrev Reg.errDecodeAddr : Nat := 0x2010002C
/-- ERR_RSVD_WRITE (R431). -/
abbrev Reg.errRsvdWrite : Nat := 0x20100030
/-- ERR_RSVD_ADDR (R431). -/
abbrev Reg.errRsvdAddr : Nat := 0x20100034
/-- ERR_STAT0 (R432). -/
abbrev Reg.errStat0 : Nat := 0x20100040
/-- ERR_STAT1 (R432). -/
abbrev Reg.errStat1 : Nat := 0x20100044
/-- ERR_STAT2 (R432). -/
abbrev Reg.errStat2 : Nat := 0x20100048
/-- ERR_STAT3 (R432). -/
abbrev Reg.errStat3 : Nat := 0x2010004C
/-- OTP_LC_STATUS (R388). -/
abbrev Reg.otpLcStatus : Nat := 0x20110000
/-- OTP_LC_CMD (R389). -/
abbrev Reg.otpLcCmd : Nat := 0x20110004
/-- COEX_CFG (R108). -/
abbrev Reg.coexCfg : Nat := 0x20120000
/-- COEX_STATUS (R113). -/
abbrev Reg.coexStatus : Nat := 0x20120004
/-- COEX_STAT0 (R113). -/
abbrev Reg.coexStat0 : Nat := 0x20120008
/-- COEX_STAT1 (R113). -/
abbrev Reg.coexStat1 : Nat := 0x2012000C
/-- TMB_LO (R429). -/
abbrev Reg.tmbLo : Nat := 0x20130000
/-- TMB_HI (R429). -/
abbrev Reg.tmbHi : Nat := 0x20130004

/-! Register fields. -/

abbrev Fld.sysId_id : Field := ⟨0x20000000, 4, 0, 32⟩
abbrev Fld.sysRev_major : Field := ⟨0x20000004, 4, 4, 4⟩
abbrev Fld.sysRev_minor : Field := ⟨0x20000004, 4, 0, 4⟩
abbrev Fld.sysStrap_testEn : Field := ⟨0x20000010, 4, 5, 1⟩
abbrev Fld.sysStrap_aonClkSel : Field := ⟨0x20000010, 4, 4, 1⟩
abbrev Fld.sysStrap_legacyV1 : Field := ⟨0x20000010, 4, 3, 1⟩
abbrev Fld.sysStrap_bootSel : Field := ⟨0x20000010, 4, 0, 3⟩
abbrev Fld.sysResetCause_perst : Field := ⟨0x20000020, 4, 5, 1⟩
abbrev Fld.sysResetCause_brownout : Field := ⟨0x20000020, 4, 4, 1⟩
abbrev Fld.sysResetCause_hostSys : Field := ⟨0x20000020, 4, 3, 1⟩
abbrev Fld.sysResetCause_swSys : Field := ⟨0x20000020, 4, 2, 1⟩
abbrev Fld.sysResetCause_sysrstPin : Field := ⟨0x20000020, 4, 1, 1⟩
abbrev Fld.sysResetCause_por : Field := ⟨0x20000020, 4, 0, 1⟩
abbrev Fld.sysResetCtrl_key : Field := ⟨0x20000024, 4, 16, 16⟩
abbrev Fld.sysResetCtrl_sys : Field := ⟨0x20000024, 4, 8, 1⟩
abbrev Fld.sysResetCtrl_coreHold : Field := ⟨0x20000024, 4, 1, 7⟩
abbrev Fld.sysBootStatus_codeA : Field := ⟨0x20000028, 4, 24, 8⟩
abbrev Fld.sysBootStatus_slot : Field := ⟨0x20000028, 4, 18, 2⟩
abbrev Fld.sysBootStatus_degraded : Field := ⟨0x20000028, 4, 17, 1⟩
abbrev Fld.sysBootStatus_lcResumed : Field := ⟨0x20000028, 4, 16, 1⟩
abbrev Fld.sysBootStatus_attempts : Field := ⟨0x20000028, 4, 8, 8⟩
abbrev Fld.sysBootStatus_code : Field := ⟨0x20000028, 4, 0, 8⟩
abbrev Fld.sysSupplyStatus_nvOk : Field := ⟨0x2000002C, 4, 8, 1⟩
abbrev Fld.sysSupplyStatus_good : Field := ⟨0x2000002C, 4, 0, 7⟩
abbrev Fld.sysBootDoorbell_imageLength : Field := ⟨0x20000030, 4, 0, 32⟩
abbrev Fld.sysCompat_v1Layout : Field := ⟨0x20000040, 4, 0, 1⟩
abbrev Fld.sysCoreStatus_pc : Field := ⟨0x20000080, 4, 16, 16⟩
abbrev Fld.sysCoreStatus_lastCause : Field := ⟨0x20000080, 4, 8, 4⟩
abbrev Fld.sysCoreStatus_priv : Field := ⟨0x20000080, 4, 5, 1⟩
abbrev Fld.sysCoreStatus_ns : Field := ⟨0x20000080, 4, 4, 1⟩
abbrev Fld.sysCoreStatus_state : Field := ⟨0x20000080, 4, 0, 3⟩
abbrev Fld.pwrVoteSet_vote : Field := ⟨0x20010000, 4, 1, 29⟩
abbrev Fld.pwrVoteClr_unvote : Field := ⟨0x20010004, 4, 1, 29⟩
abbrev Fld.pwrVoteTally_tally : Field := ⟨0x20010008, 4, 0, 30⟩
abbrev Fld.pwrRetCtrl_keyRet : Field := ⟨0x20010010, 4, 25, 1⟩
abbrev Fld.pwrRetCtrl_memnRet : Field := ⟨0x20010010, 4, 22, 1⟩
abbrev Fld.pwrDrainMax_limit : Field := ⟨0x20010014, 4, 0, 16⟩
abbrev Fld.pwrPadRelease_sysio : Field := ⟨0x20010018, 4, 6, 1⟩
abbrev Fld.pwrPadRelease_femc : Field := ⟨0x20010018, 4, 5, 1⟩
abbrev Fld.pwrPadRelease_coex : Field := ⟨0x20010018, 4, 4, 1⟩
abbrev Fld.pwrPadRelease_csps : Field := ⟨0x20010018, 4, 3, 1⟩
abbrev Fld.pwrPadRelease_cspm : Field := ⟨0x20010018, 4, 2, 1⟩
abbrev Fld.pwrPadRelease_gpioB : Field := ⟨0x20010018, 4, 1, 1⟩
abbrev Fld.pwrPadRelease_gpioA : Field := ⟨0x20010018, 4, 0, 1⟩
abbrev Fld.pwrWakeCfg_timerEn : Field := ⟨0x20010020, 4, 17, 1⟩
abbrev Fld.pwrWakeCfg_wurxEn : Field := ⟨0x20010020, 4, 16, 1⟩
abbrev Fld.pwrWakeCfg_pin : Field := ⟨0x20010020, 4, 0, 16⟩
abbrev Fld.pwrWakeCause_fallback : Field := ⟨0x20010024, 4, 7, 1⟩
abbrev Fld.pwrWakeCause_watch : Field := ⟨0x20010024, 4, 6, 1⟩
abbrev Fld.pwrWakeCause_timer : Field := ⟨0x20010024, 4, 5, 1⟩
abbrev Fld.pwrWakeCause_wurx : Field := ⟨0x20010024, 4, 4, 1⟩
abbrev Fld.pwrWakeCause_pin : Field := ⟨0x20010024, 4, 0, 4⟩
abbrev Fld.pwrWakeVote_votes : Field := ⟨0x20010028, 4, 1, 29⟩
abbrev Fld.pwrWurxCfg_channel : Field := ⟨0x2001002C, 4, 8, 6⟩
abbrev Fld.pwrWurxCfg_band : Field := ⟨0x2001002C, 4, 0, 1⟩
abbrev Fld.pwrWurxAddr_addr : Field := ⟨0x20010030, 4, 0, 32⟩
abbrev Fld.pwrWakeTimeLo_lo : Field := ⟨0x20010038, 4, 0, 32⟩
abbrev Fld.pwrWakeTimeHi_hi : Field := ⟨0x2001003C, 4, 0, 32⟩
abbrev Fld.pwrWatchCtrl_confirm : Field := ⟨0x20010040, 4, 2, 2⟩
abbrev Fld.pwrWatchCtrl_band : Field := ⟨0x20010040, 4, 1, 1⟩
abbrev Fld.pwrWatchCtrl_en : Field := ⟨0x20010040, 4, 0, 1⟩
abbrev Fld.pwrWatchPeriod_periodUs : Field := ⟨0x20010044, 4, 0, 24⟩
abbrev Fld.pwrWatchDwell_dwellUs : Field := ⟨0x20010048, 4, 0, 12⟩
abbrev Fld.pwrWatchStatus_hitCorr : Field := ⟨0x2001004C, 4, 16, 8⟩
abbrev Fld.pwrWatchStatus_hitEnergy : Field := ⟨0x2001004C, 4, 8, 8⟩
abbrev Fld.pwrWatchStatus_periodStretched : Field := ⟨0x2001004C, 4, 6, 1⟩
abbrev Fld.pwrWatchStatus_hitCh : Field := ⟨0x2001004C, 4, 4, 2⟩
abbrev Fld.pwrWatchStatus_state : Field := ⟨0x2001004C, 4, 0, 3⟩
abbrev Fld.pwrWatchCh_corrTh : Field := ⟨0x20010050, 4, 20, 8⟩
abbrev Fld.pwrWatchCh_energyTh : Field := ⟨0x20010050, 4, 12, 8⟩
abbrev Fld.pwrWatchCh_phy : Field := ⟨0x20010050, 4, 9, 2⟩
abbrev Fld.pwrWatchCh_channel : Field := ⟨0x20010050, 4, 3, 6⟩
abbrev Fld.pwrWatchCh_rule : Field := ⟨0x20010050, 4, 1, 2⟩
abbrev Fld.pwrWatchCh_en : Field := ⟨0x20010050, 4, 0, 1⟩
abbrev Fld.pwrWatchCount_count : Field := ⟨0x20010060, 4, 0, 32⟩
abbrev Fld.pwrVoteV_vote : Field := ⟨0x20010100, 4, 1, 29⟩
abbrev Fld.pwrDomStatus_supplyWait : Field := ⟨0x20010200, 4, 7, 1⟩
abbrev Fld.pwrDomStatus_implicit : Field := ⟨0x20010200, 4, 6, 1⟩
abbrev Fld.pwrDomStatus_pending : Field := ⟨0x20010200, 4, 4, 2⟩
abbrev Fld.pwrDomStatus_state : Field := ⟨0x20010200, 4, 0, 3⟩
abbrev Fld.pwrDomAbort_refusals : Field := ⟨0x20010280, 4, 24, 8⟩
abbrev Fld.pwrDomAbort_lastRefuser : Field := ⟨0x20010280, 4, 16, 6⟩
abbrev Fld.pwrDomAbort_aborts : Field := ⟨0x20010280, 4, 0, 16⟩
abbrev Fld.clkOpCtrl_target : Field := ⟨0x20020040, 4, 0, 2⟩
abbrev Fld.clkOpStatus_replaced : Field := ⟨0x20020044, 4, 8, 8⟩
abbrev Fld.clkOpStatus_step : Field := ⟨0x20020044, 4, 3, 2⟩
abbrev Fld.clkOpStatus_busy : Field := ⟨0x20020044, 4, 2, 1⟩
abbrev Fld.clkOpStatus_current : Field := ⟨0x20020044, 4, 0, 2⟩
abbrev Fld.rfsCalCmd_channel : Field := ⟨0x20030000, 4, 8, 8⟩
abbrev Fld.rfsCalCmd_lo : Field := ⟨0x20030000, 4, 4, 3⟩
abbrev Fld.rfsCalCmd_op : Field := ⟨0x20030000, 4, 0, 3⟩
abbrev Fld.rfsCalStatus_dropped : Field := ⟨0x20030004, 4, 16, 8⟩
abbrev Fld.rfsCalStatus_aborts : Field := ⟨0x20030004, 4, 8, 8⟩
abbrev Fld.rfsCalStatus_result : Field := ⟨0x20030004, 4, 2, 3⟩
abbrev Fld.rfsCalStatus_pending : Field := ⟨0x20030004, 4, 1, 1⟩
abbrev Fld.rfsCalStatus_busy : Field := ⟨0x20030004, 4, 0, 1⟩
abbrev Fld.rfsCalCtrl_calGuard : Field := ⟨0x20030008, 4, 16, 16⟩
abbrev Fld.rfsCalCtrl_recalDt : Field := ⟨0x20030008, 4, 8, 8⟩
abbrev Fld.rfsCalCtrl_bgEn : Field := ⟨0x20030008, 4, 0, 1⟩
abbrev Fld.rfsTxLead_leadUs : Field := ⟨0x2003000C, 4, 0, 6⟩
abbrev Fld.rfsTemp_valid : Field := ⟨0x20030010, 4, 31, 1⟩
abbrev Fld.rfsTemp_temp : Field := ⟨0x20030010, 4, 0, 16⟩
abbrev Fld.rfsChainState_chains : Field := ⟨0x20030014, 4, 0, 30⟩
abbrev Fld.rfsLoStatus_failed : Field := ⟨0x20030018, 4, 16, 6⟩
abbrev Fld.rfsLoStatus_retune : Field := ⟨0x20030018, 4, 8, 6⟩
abbrev Fld.rfsLoStatus_locked : Field := ⟨0x20030018, 4, 0, 6⟩
abbrev Fld.rfsPwrComp_kv : Field := ⟨0x20030020, 4, 16, 16⟩
abbrev Fld.rfsPwrComp_kt : Field := ⟨0x20030020, 4, 0, 16⟩
abbrev Fld.rfsPwrTrim_loopEn : Field := ⟨0x20030030, 4, 8, 1⟩
abbrev Fld.rfsPwrTrim_trim : Field := ⟨0x20030030, 4, 0, 5⟩
abbrev Fld.rfsCalEntry_valid : Field := ⟨0x20030400, 4, 31, 1⟩
abbrev Fld.rfsCalEntry_failed : Field := ⟨0x20030400, 4, 30, 1⟩
abbrev Fld.rfsCalEntry_lockFails : Field := ⟨0x20030400, 4, 28, 2⟩
abbrev Fld.rfsCalEntry_tcal : Field := ⟨0x20030400, 4, 20, 8⟩
abbrev Fld.rfsCalEntry_tag : Field := ⟨0x20030400, 4, 12, 8⟩
abbrev Fld.rfsCalEntry_vcoBand : Field := ⟨0x20030400, 4, 6, 6⟩
abbrev Fld.rfsCalEntry_loopTrim : Field := ⟨0x20030400, 4, 0, 6⟩
abbrev Fld.rfsPwrCal_valid : Field := ⟨0x20030700, 4, 31, 1⟩
abbrev Fld.rfsPwrCal_tcal : Field := ⟨0x20030700, 4, 8, 8⟩
abbrev Fld.rfsPwrCal_g14 : Field := ⟨0x20030700, 4, 0, 8⟩
abbrev Fld.rxwLaneCtrl_limits : Field := ⟨0x20040000, 4, 8, 6⟩
abbrev Fld.rxwLaneCtrl_limit24 : Field := ⟨0x20040000, 4, 0, 7⟩
abbrev Fld.rxwLaneBusy_busy : Field := ⟨0x20040004, 4, 0, 32⟩
abbrev Fld.rxwLaneRetired_retired : Field := ⟨0x20040010, 4, 0, 32⟩
abbrev Fld.rxwSubCfg_mode : Field := ⟨0x20040020, 4, 4, 3⟩
abbrev Fld.rxwSubCfg_band : Field := ⟨0x20040020, 4, 0, 1⟩
abbrev Fld.rxwBlitzSync_sync : Field := ⟨0x20040024, 4, 0, 32⟩
abbrev Fld.rxwGainCfg_manualStep : Field := ⟨0x20040030, 4, 28, 4⟩
abbrev Fld.rxwGainCfg_mode : Field := ⟨0x20040030, 4, 24, 2⟩
abbrev Fld.rxwGainCfg_upQuiet : Field := ⟨0x20040030, 4, 16, 8⟩
abbrev Fld.rxwGainCfg_lo : Field := ⟨0x20040030, 4, 8, 8⟩
abbrev Fld.rxwGainCfg_hi : Field := ⟨0x20040030, 4, 0, 8⟩
abbrev Fld.rxwGainStatus_castlings : Field := ⟨0x20040040, 8, 16, 16⟩
abbrev Fld.rxwGainStatus_lastFrac : Field := ⟨0x20040040, 8, 12, 3⟩
abbrev Fld.rxwGainStatus_lastUp : Field := ⟨0x20040040, 8, 8, 1⟩
abbrev Fld.rxwGainStatus_lastN : Field := ⟨0x20040040, 8, 4, 4⟩
abbrev Fld.rxwGainStatus_step : Field := ⟨0x20040040, 8, 0, 4⟩
abbrev Fld.rxwGainLast_last : Field := ⟨0x20040044, 8, 0, 32⟩
abbrev Fld.rxwStatDet_laneStarved : Field := ⟨0x20040080, 4, 16, 16⟩
abbrev Fld.rxwStatDet_falseDetect : Field := ⟨0x20040080, 4, 0, 16⟩
abbrev Fld.rxwStatFrame_phrInvalid : Field := ⟨0x20040084, 4, 16, 16⟩
abbrev Fld.rxwStatFrame_fcsFail : Field := ⟨0x20040084, 4, 0, 16⟩
abbrev Fld.rxwStatAbandon_adcClip : Field := ⟨0x20040088, 4, 16, 16⟩
abbrev Fld.rxwStatAbandon_abandoned : Field := ⟨0x20040088, 4, 0, 16⟩
abbrev Fld.rxwForkStat0_switches : Field := ⟨0x2004008C, 4, 16, 16⟩
abbrev Fld.rxwForkStat0_forks : Field := ⟨0x2004008C, 4, 0, 16⟩
abbrev Fld.rxwForkStat1_ackSuppressedCollision : Field := ⟨0x20040090, 4, 16, 16⟩
abbrev Fld.rxwForkStat1_kept : Field := ⟨0x20040090, 4, 0, 16⟩
abbrev Fld.rxwForkStat2_depthIgnored : Field := ⟨0x20040094, 4, 0, 16⟩
abbrev Fld.rxwCh24_minLevel : Field := ⟨0x20040100, 4, 24, 8⟩
abbrev Fld.rxwCh24_detTh : Field := ⟨0x20040100, 4, 16, 8⟩
abbrev Fld.rxwCh24_blitzEn : Field := ⟨0x20040100, 4, 12, 1⟩
abbrev Fld.rxwCh24_oqpskEn : Field := ⟨0x20040100, 4, 11, 1⟩
abbrev Fld.rxwCh24_en : Field := ⟨0x20040100, 4, 10, 1⟩
abbrev Fld.rxwCh24_policy : Field := ⟨0x20040100, 4, 8, 2⟩
abbrev Fld.rxwCh24_forkMargin : Field := ⟨0x20040100, 4, 0, 5⟩
abbrev Fld.rxwChs_minLevel : Field := ⟨0x20040200, 4, 24, 8⟩
abbrev Fld.rxwChs_detTh : Field := ⟨0x20040200, 4, 16, 8⟩
abbrev Fld.rxwChs_sunfskEn : Field := ⟨0x20040200, 4, 11, 1⟩
abbrev Fld.rxwChs_en : Field := ⟨0x20040200, 4, 10, 1⟩
abbrev Fld.rxwChs_policy : Field := ⟨0x20040200, 4, 8, 2⟩
abbrev Fld.rxwChs_forkMargin : Field := ⟨0x20040200, 4, 0, 5⟩
abbrev Fld.rxwNf24_invalid : Field := ⟨0x20041000, 4, 31, 1⟩
abbrev Fld.rxwNf24_samples : Field := ⟨0x20041000, 4, 16, 8⟩
abbrev Fld.rxwNf24_level : Field := ⟨0x20041000, 4, 0, 12⟩
abbrev Fld.rxwNfs_invalid : Field := ⟨0x20041100, 4, 31, 1⟩
abbrev Fld.rxwNfs_samples : Field := ⟨0x20041100, 4, 16, 8⟩
abbrev Fld.rxwNfs_level : Field := ⟨0x20041100, 4, 0, 12⟩
abbrev Fld.txpFemcOwn_txen : Field := ⟨0x20050000, 4, 16, 16⟩
abbrev Fld.txpFemcOwn_own : Field := ⟨0x20050000, 4, 0, 16⟩
abbrev Fld.txpFemcIdle_idle : Field := ⟨0x20050010, 4, 0, 16⟩
abbrev Fld.txpFemcStatic_static : Field := ⟨0x20050020, 4, 0, 16⟩
abbrev Fld.txpFemcPat_pat : Field := ⟨0x20050040, 4, 0, 16⟩
abbrev Fld.txpMaskCtrl_strikeLimit : Field := ⟨0x20050080, 4, 8, 4⟩
abbrev Fld.txpMaskCtrl_tighten : Field := ⟨0x20050080, 4, 0, 4⟩
abbrev Fld.txpMaskStatus_near : Field := ⟨0x20050090, 4, 24, 8⟩
abbrev Fld.txpMaskStatus_violations : Field := ⟨0x20050090, 4, 16, 8⟩
abbrev Fld.txpMaskStatus_excess : Field := ⟨0x20050090, 4, 4, 8⟩
abbrev Fld.txpMaskStatus_lastSeg : Field := ⟨0x20050090, 4, 1, 3⟩
abbrev Fld.txpMaskStatus_blocked : Field := ⟨0x20050090, 4, 0, 1⟩
abbrev Fld.txpShapeCtrl0_restore : Field := ⟨0x20050800, 4, 20, 3⟩
abbrev Fld.txpShapeCtrl0_custom : Field := ⟨0x20050800, 4, 16, 3⟩
abbrev Fld.txpShapeCtrl0_invalid : Field := ⟨0x20050800, 4, 8, 3⟩
abbrev Fld.txpShapeCtrl0_pending : Field := ⟨0x20050800, 4, 4, 3⟩
abbrev Fld.txpShapeCtrl0_commit : Field := ⟨0x20050800, 4, 0, 3⟩
abbrev Fld.txpShapeCtrl1_restore : Field := ⟨0x20050804, 4, 20, 3⟩
abbrev Fld.txpShapeCtrl1_custom : Field := ⟨0x20050804, 4, 16, 3⟩
abbrev Fld.txpShapeCtrl1_invalid : Field := ⟨0x20050804, 4, 8, 3⟩
abbrev Fld.txpShapeCtrl1_pending : Field := ⟨0x20050804, 4, 4, 3⟩
abbrev Fld.txpShapeCtrl1_commit : Field := ⟨0x20050804, 4, 0, 3⟩
abbrev Fld.txpShapeCtrl2_restore : Field := ⟨0x20050808, 4, 20, 3⟩
abbrev Fld.txpShapeCtrl2_custom : Field := ⟨0x20050808, 4, 16, 3⟩
abbrev Fld.txpShapeCtrl2_invalid : Field := ⟨0x20050808, 4, 8, 3⟩
abbrev Fld.txpShapeCtrl2_pending : Field := ⟨0x20050808, 4, 4, 3⟩
abbrev Fld.txpShapeCtrl2_commit : Field := ⟨0x20050808, 4, 0, 3⟩
abbrev Fld.txpShapeCtrl3_restore : Field := ⟨0x2005080C, 4, 20, 3⟩
abbrev Fld.txpShapeCtrl3_custom : Field := ⟨0x2005080C, 4, 16, 3⟩
abbrev Fld.txpShapeCtrl3_invalid : Field := ⟨0x2005080C, 4, 8, 3⟩
abbrev Fld.txpShapeCtrl3_pending : Field := ⟨0x2005080C, 4, 4, 3⟩
abbrev Fld.txpShapeCtrl3_commit : Field := ⟨0x2005080C, 4, 0, 3⟩
abbrev Fld.txpSunCfg0_preamble : Field := ⟨0x20050810, 4, 0, 6⟩
abbrev Fld.txpSunCfg1_preamble : Field := ⟨0x20050814, 4, 0, 6⟩
abbrev Fld.txpShape0T_c1 : Field := ⟨0x20051000, 4, 16, 16⟩
abbrev Fld.txpShape0T_c0 : Field := ⟨0x20051000, 4, 0, 16⟩
abbrev Fld.txpShape1T_c1 : Field := ⟨0x20051200, 4, 16, 16⟩
abbrev Fld.txpShape1T_c0 : Field := ⟨0x20051200, 4, 0, 16⟩
abbrev Fld.txpShape2T_c1 : Field := ⟨0x20051400, 4, 16, 16⟩
abbrev Fld.txpShape2T_c0 : Field := ⟨0x20051400, 4, 0, 16⟩
abbrev Fld.txpShape3T_c1 : Field := ⟨0x20051600, 4, 16, 16⟩
abbrev Fld.txpShape3T_c0 : Field := ⟨0x20051600, 4, 0, 16⟩
abbrev Fld.regStatus_badValid : Field := ⟨0x20060000, 4, 13, 1⟩
abbrev Fld.regStatus_badWord : Field := ⟨0x20060000, 4, 8, 5⟩
abbrev Fld.regStatus_preloadActive : Field := ⟨0x20060000, 4, 4, 1⟩
abbrev Fld.regStatus_locks : Field := ⟨0x20060000, 4, 3, 1⟩
abbrev Fld.regStatus_lock24 : Field := ⟨0x20060000, 4, 2, 1⟩
abbrev Fld.regStatus_mfgOpen : Field := ⟨0x20060000, 4, 1, 1⟩
abbrev Fld.regStatus_sealed : Field := ⟨0x20060000, 4, 0, 1⟩
abbrev Fld.regProgCmd_key : Field := ⟨0x20060010, 4, 16, 16⟩
abbrev Fld.regProgCmd_op : Field := ⟨0x20060010, 4, 8, 2⟩
abbrev Fld.regProgCmd_word : Field := ⟨0x20060010, 4, 0, 5⟩
abbrev Fld.regProgStatus_sealRule : Field := ⟨0x20060014, 4, 16, 3⟩
abbrev Fld.regProgStatus_failWord : Field := ⟨0x20060014, 4, 8, 5⟩
abbrev Fld.regProgStatus_result : Field := ⟨0x20060014, 4, 1, 3⟩
abbrev Fld.regProgStatus_busy : Field := ⟨0x20060014, 4, 0, 1⟩
abbrev Fld.regStat0_ackDuty : Field := ⟨0x20060020, 4, 16, 16⟩
abbrev Fld.regStat0_dutyRefused : Field := ⟨0x20060020, 4, 0, 16⟩
abbrev Fld.regStat1_ackLbt : Field := ⟨0x20060024, 4, 16, 16⟩
abbrev Fld.regStat1_lbtRefused : Field := ⟨0x20060024, 4, 0, 16⟩
abbrev Fld.regStat2_dwellRefused : Field := ⟨0x20060028, 4, 16, 16⟩
abbrev Fld.regStat2_lockRefused : Field := ⟨0x20060028, 4, 0, 16⟩
abbrev Fld.regMirrorW_value : Field := ⟨0x20060100, 4, 0, 32⟩
abbrev Fld.regMirrorC_complement : Field := ⟨0x20060180, 4, 0, 32⟩
abbrev Fld.regStageW_value : Field := ⟨0x20060200, 4, 0, 32⟩
abbrev Fld.regDutyUsed_used : Field := ⟨0x20060400, 16, 0, 32⟩
abbrev Fld.regDutyPreload_preload : Field := ⟨0x20060404, 16, 0, 32⟩
abbrev Fld.regDutyHeld_held : Field := ⟨0x20060408, 16, 0, 32⟩
abbrev Fld.regDutyBudget_budget : Field := ⟨0x2006040C, 16, 0, 32⟩
abbrev Fld.lnkCfg_spareEn : Field := ⟨0x20070000, 4, 1, 1⟩
abbrev Fld.lnkCfg_ackUnknown : Field := ⟨0x20070000, 4, 0, 1⟩
abbrev Fld.lnkPairStatus_replaces : Field := ⟨0x20070004, 4, 24, 3⟩
abbrev Fld.lnkPairStatus_state : Field := ⟨0x20070004, 4, 0, 20⟩
abbrev Fld.lnkAckPwr_psub : Field := ⟨0x20070008, 4, 28, 2⟩
abbrev Fld.lnkAckPwr_qsub : Field := ⟨0x20070008, 4, 16, 9⟩
abbrev Fld.lnkAckPwr_p24 : Field := ⟨0x20070008, 4, 12, 2⟩
abbrev Fld.lnkAckPwr_q24 : Field := ⟨0x20070008, 4, 0, 9⟩
abbrev Fld.lnkLockStat_window : Field := ⟨0x20070010, 4, 24, 2⟩
abbrev Fld.lnkLockStat_mismatches : Field := ⟨0x20070010, 4, 16, 8⟩
abbrev Fld.lnkLockStat_ackSuppressedLockstep : Field := ⟨0x20070010, 4, 0, 16⟩
abbrev Fld.lnkEuiLo_eui : Field := ⟨0x20070030, 4, 0, 32⟩
abbrev Fld.lnkEuiHi_eui : Field := ⟨0x20070034, 4, 0, 32⟩
abbrev Fld.lnkStat0_replayDrop : Field := ⟨0x20070040, 4, 16, 16⟩
abbrev Fld.lnkStat0_duplicates : Field := ⟨0x20070040, 4, 0, 16⟩
abbrev Fld.lnkStat1_counterUnknownDrop : Field := ⟨0x20070044, 4, 16, 16⟩
abbrev Fld.lnkStat1_authFailDrop : Field := ⟨0x20070044, 4, 0, 16⟩
abbrev Fld.lnkStat2_unsecuredDrop : Field := ⟨0x20070048, 4, 16, 16⟩
abbrev Fld.lnkStat2_versionDrop : Field := ⟨0x20070048, 4, 0, 16⟩
abbrev Fld.lnkStat3_ackCounter : Field := ⟨0x2007004C, 4, 16, 16⟩
abbrev Fld.lnkStat3_ackLate : Field := ⟨0x2007004C, 4, 0, 16⟩
abbrev Fld.lnkStat4_ackNoChain : Field := ⟨0x20070050, 4, 16, 16⟩
abbrev Fld.lnkStat4_txDeferred : Field := ⟨0x20070050, 4, 0, 16⟩
abbrev Fld.lnkStat5_slotMissed : Field := ⟨0x20070054, 4, 16, 16⟩
abbrev Fld.lnkStat5_unserved : Field := ⟨0x20070054, 4, 0, 16⟩
abbrev Fld.lnkStat6_txGated : Field := ⟨0x20070058, 4, 16, 16⟩
abbrev Fld.lnkStat6_unknownSender : Field := ⟨0x20070058, 4, 0, 16⟩
abbrev Fld.lnkId_short : Field := ⟨0x20070060, 4, 16, 16⟩
abbrev Fld.lnkId_panId : Field := ⟨0x20070060, 4, 0, 16⟩
abbrev Fld.lnkTschCtrl_maxBe : Field := ⟨0x20070100, 4, 20, 4⟩
abbrev Fld.lnkTschCtrl_minBe : Field := ⟨0x20070100, 4, 16, 4⟩
abbrev Fld.lnkTschCtrl_hopLen : Field := ⟨0x20070100, 4, 2, 7⟩
abbrev Fld.lnkTschCtrl_band : Field := ⟨0x20070100, 4, 1, 1⟩
abbrev Fld.lnkTschCtrl_en : Field := ⟨0x20070100, 4, 0, 1⟩
abbrev Fld.lnkTschAsn0Lo_asn : Field := ⟨0x20070104, 4, 0, 32⟩
abbrev Fld.lnkTschAsn0Hi_asn : Field := ⟨0x20070108, 4, 0, 8⟩
abbrev Fld.lnkTschT0Lo_t0 : Field := ⟨0x2007010C, 4, 0, 32⟩
abbrev Fld.lnkTschT0Hi_t0 : Field := ⟨0x20070110, 4, 0, 32⟩
abbrev Fld.lnkTschAsnLo_asn : Field := ⟨0x20070114, 4, 0, 32⟩
abbrev Fld.lnkTschAsnHi_asn : Field := ⟨0x20070118, 4, 0, 8⟩
abbrev Fld.lnkTschTmpl_hi : Field := ⟨0x20070120, 4, 16, 16⟩
abbrev Fld.lnkTschTmpl_lo : Field := ⟨0x20070120, 4, 0, 16⟩
abbrev Fld.lnkTschHop_hop : Field := ⟨0x20070140, 4, 0, 32⟩
abbrev Fld.lnkTschSf_handle : Field := ⟨0x20070180, 4, 16, 8⟩
abbrev Fld.lnkTschSf_length : Field := ⟨0x20070180, 4, 0, 16⟩
abbrev Fld.lnkSlpCfg_leadUs : Field := ⟨0x20070200, 4, 16, 16⟩
abbrev Fld.lnkSlpCfg_alpha : Field := ⟨0x20070200, 4, 8, 4⟩
abbrev Fld.lnkSlpCfg_uncShift : Field := ⟨0x20070200, 4, 4, 2⟩
abbrev Fld.lnkSlpCfg_en : Field := ⟨0x20070200, 4, 0, 1⟩
abbrev Fld.lnkSlpGuard_rateMin : Field := ⟨0x20070204, 4, 28, 4⟩
abbrev Fld.lnkSlpGuard_guardBase : Field := ⟨0x20070204, 4, 16, 12⟩
abbrev Fld.lnkSlpGuard_guardMax : Field := ⟨0x20070204, 4, 0, 16⟩
abbrev Fld.lnkSlpDrift_outlier : Field := ⟨0x20070208, 4, 8, 8⟩
abbrev Fld.lnkSlpDrift_driftDefault : Field := ⟨0x20070208, 4, 0, 8⟩
abbrev Fld.lnkSlpLost_checkWait : Field := ⟨0x2007020C, 4, 16, 16⟩
abbrev Fld.lnkSlpLost_checkTries : Field := ⟨0x2007020C, 4, 8, 4⟩
abbrev Fld.lnkSlpLost_searchWidth : Field := ⟨0x2007020C, 4, 4, 4⟩
abbrev Fld.lnkSlpLost_searchPeriods : Field := ⟨0x2007020C, 4, 0, 4⟩
abbrev Fld.lnkSlpWake_psub : Field := ⟨0x20070210, 4, 28, 2⟩
abbrev Fld.lnkSlpWake_qsub : Field := ⟨0x20070210, 4, 16, 9⟩
abbrev Fld.lnkSlpWake_p24 : Field := ⟨0x20070210, 4, 12, 2⟩
abbrev Fld.lnkSlpWake_q24 : Field := ⟨0x20070210, 4, 0, 9⟩
abbrev Fld.lnkSlpPend_pendMax : Field := ⟨0x20070214, 4, 16, 4⟩
abbrev Fld.lnkSlpPend_pendDelay : Field := ⟨0x20070214, 4, 0, 14⟩
abbrev Fld.lnkSlpStat0_windowMiss : Field := ⟨0x20070220, 4, 16, 16⟩
abbrev Fld.lnkSlpStat0_contacts : Field := ⟨0x20070220, 4, 0, 16⟩
abbrev Fld.lnkSlpStat1_reacquired : Field := ⟨0x20070224, 4, 16, 16⟩
abbrev Fld.lnkSlpStat1_lostEntry : Field := ⟨0x20070224, 4, 0, 16⟩
abbrev Fld.lnkSlpStat2_lostReported : Field := ⟨0x20070228, 4, 16, 16⟩
abbrev Fld.lnkSlpStat2_checkSent : Field := ⟨0x20070228, 4, 0, 16⟩
abbrev Fld.lnkSlpStat3_windowsSkipped : Field := ⟨0x2007022C, 4, 16, 16⟩
abbrev Fld.lnkSlpStat3_driftOutlier : Field := ⟨0x2007022C, 4, 0, 16⟩
abbrev Fld.lnkSlpStat4_offWindow : Field := ⟨0x20070230, 4, 16, 16⟩
abbrev Fld.lnkSlpStat4_checkRefused : Field := ⟨0x20070230, 4, 0, 16⟩
abbrev Fld.lnkCellW0_en : Field := ⟨0x20072000, 8, 31, 1⟩
abbrev Fld.lnkCellW0_timekeeping : Field := ⟨0x20072000, 8, 28, 1⟩
abbrev Fld.lnkCellW0_shared : Field := ⟨0x20072000, 8, 27, 1⟩
abbrev Fld.lnkCellW0_rx : Field := ⟨0x20072000, 8, 26, 1⟩
abbrev Fld.lnkCellW0_tx : Field := ⟨0x20072000, 8, 25, 1⟩
abbrev Fld.lnkCellW0_sf : Field := ⟨0x20072000, 8, 22, 3⟩
abbrev Fld.lnkCellW0_chOffset : Field := ⟨0x20072000, 8, 16, 6⟩
abbrev Fld.lnkCellW0_timeslot : Field := ⟨0x20072000, 8, 0, 16⟩
abbrev Fld.lnkCellW1_queue : Field := ⟨0x20072004, 8, 16, 7⟩
abbrev Fld.lnkCellW1_broadcast : Field := ⟨0x20072004, 8, 15, 1⟩
abbrev Fld.lnkCellW1_localIndex : Field := ⟨0x20072004, 8, 0, 15⟩
abbrev Fld.lnkSlotW0_queue : Field := ⟨0x20074000, 16, 16, 7⟩
abbrev Fld.lnkSlotW0_channel : Field := ⟨0x20074000, 16, 4, 6⟩
abbrev Fld.lnkSlotW0_band : Field := ⟨0x20074000, 16, 3, 1⟩
abbrev Fld.lnkSlotW0_kind : Field := ⟨0x20074000, 16, 1, 2⟩
abbrev Fld.lnkSlotW0_en : Field := ⟨0x20074000, 16, 0, 1⟩
abbrev Fld.lnkSlotW1_period : Field := ⟨0x20074004, 16, 0, 32⟩
abbrev Fld.lnkSlotW2_startLo : Field := ⟨0x20074008, 16, 0, 32⟩
abbrev Fld.lnkSlotW3_window : Field := ⟨0x2007400C, 16, 16, 16⟩
abbrev Fld.lnkSlotW3_startHi : Field := ⟨0x2007400C, 16, 0, 16⟩
abbrev Fld.ndtCfg_lqAlpha : Field := ⟨0x20080000, 4, 8, 3⟩
abbrev Fld.ndtCfg_relayRetries : Field := ⟨0x20080000, 4, 4, 3⟩
abbrev Fld.ndtCfg_learn : Field := ⟨0x20080000, 4, 1, 1⟩
abbrev Fld.ndtCfg_fwdEn : Field := ⟨0x20080000, 4, 0, 1⟩
abbrev Fld.ndtMember_member : Field := ⟨0x20080004, 4, 0, 10⟩
abbrev Fld.ndtOutSkip_outSkip : Field := ⟨0x20080008, 4, 0, 32⟩
abbrev Fld.ndtCtrl_key : Field := ⟨0x2008000C, 4, 16, 16⟩
abbrev Fld.ndtCtrl_op : Field := ⟨0x2008000C, 4, 0, 2⟩
abbrev Fld.ndtStatus0_remote : Field := ⟨0x20080010, 4, 16, 16⟩
abbrev Fld.ndtStatus0_resident : Field := ⟨0x20080010, 4, 0, 16⟩
abbrev Fld.ndtStatus1_damaged : Field := ⟨0x20080014, 4, 16, 16⟩
abbrev Fld.ndtStatus1_busy : Field := ⟨0x20080014, 4, 2, 1⟩
abbrev Fld.ndtStatus1_held : Field := ⟨0x20080014, 4, 1, 1⟩
abbrev Fld.ndtStatus1_warmValid : Field := ⟨0x20080014, 4, 0, 1⟩
abbrev Fld.ndtStatus2_indexUsed : Field := ⟨0x20080018, 4, 0, 18⟩
abbrev Fld.ndtStat0_relayFail : Field := ⟨0x20080040, 4, 16, 16⟩
abbrev Fld.ndtStat0_relayed : Field := ⟨0x20080040, 4, 0, 16⟩
abbrev Fld.ndtStat1_toHost : Field := ⟨0x20080044, 4, 16, 16⟩
abbrev Fld.ndtStat1_relayFull : Field := ⟨0x20080044, 4, 0, 16⟩
abbrev Fld.ndtStat2_rebuilt : Field := ⟨0x20080048, 4, 16, 16⟩
abbrev Fld.ndtStat2_rebuildDrop : Field := ⟨0x20080048, 4, 0, 16⟩
abbrev Fld.ndtStat3_insertFail : Field := ⟨0x2008004C, 4, 0, 16⟩
abbrev Fld.fedCfg_kslot : Field := ⟨0x20090000, 4, 20, 9⟩
abbrev Fld.fedCfg_prio : Field := ⟨0x20090000, 4, 16, 4⟩
abbrev Fld.fedCfg_bootServe : Field := ⟨0x20090000, 4, 15, 1⟩
abbrev Fld.fedCfg_allowBm2 : Field := ⟨0x20090000, 4, 14, 1⟩
abbrev Fld.fedCfg_autoAdmit : Field := ⟨0x20090000, 4, 13, 1⟩
abbrev Fld.fedCfg_standalone : Field := ⟨0x20090000, 4, 12, 1⟩
abbrev Fld.fedCfg_member : Field := ⟨0x20090000, 4, 0, 10⟩
abbrev Fld.fedNet_vlanEn : Field := ⟨0x20090004, 4, 31, 1⟩
abbrev Fld.fedNet_pcp : Field := ⟨0x20090004, 4, 28, 3⟩
abbrev Fld.fedNet_vid : Field := ⟨0x20090004, 4, 16, 12⟩
abbrev Fld.fedNet_ethertype : Field := ⟨0x20090004, 4, 0, 16⟩
abbrev Fld.fedCtrl_start : Field := ⟨0x20090008, 4, 0, 1⟩
abbrev Fld.fedTimers_commitLead : Field := ⟨0x2009000C, 4, 16, 16⟩
abbrev Fld.fedTimers_joinTimeout : Field := ⟨0x2009000C, 4, 0, 16⟩
abbrev Fld.fedStatus_timeout : Field := ⟨0x20090010, 4, 9, 1⟩
abbrev Fld.fedStatus_txEn : Field := ⟨0x20090010, 4, 8, 1⟩
abbrev Fld.fedStatus_role : Field := ⟨0x20090010, 4, 6, 2⟩
abbrev Fld.fedStatus_state : Field := ⟨0x20090010, 4, 0, 4⟩
abbrev Fld.fedEpoch_epoch : Field := ⟨0x20090014, 4, 0, 32⟩
abbrev Fld.fedLeader_valid : Field := ⟨0x20090018, 4, 31, 1⟩
abbrev Fld.fedLeader_coord : Field := ⟨0x20090018, 4, 16, 10⟩
abbrev Fld.fedLeader_leader : Field := ⟨0x20090018, 4, 0, 10⟩
abbrev Fld.fedTime_aligned : Field := ⟨0x2009001C, 4, 31, 1⟩
abbrev Fld.fedTime_parent : Field := ⟨0x2009001C, 4, 16, 10⟩
abbrev Fld.fedTime_theta : Field := ⟨0x2009001C, 4, 0, 16⟩
abbrev Fld.fedAsym_asym : Field := ⟨0x20090020, 4, 0, 16⟩
abbrev Fld.fedGroupMacLo_octets : Field := ⟨0x20090030, 4, 0, 32⟩
abbrev Fld.fedGroupMacHi_octets : Field := ⟨0x20090034, 4, 0, 16⟩
abbrev Fld.fedDigest_digest : Field := ⟨0x20090040, 4, 0, 32⟩
abbrev Fld.fedStat0_authDrop : Field := ⟨0x20090080, 4, 16, 16⟩
abbrev Fld.fedStat0_reservedDrop : Field := ⟨0x20090080, 4, 0, 16⟩
abbrev Fld.fedStat1_quarDrop : Field := ⟨0x20090084, 4, 16, 16⟩
abbrev Fld.fedStat1_replayDrop : Field := ⟨0x20090084, 4, 0, 16⟩
abbrev Fld.fedStat2_fwdDrop : Field := ⟨0x20090088, 4, 16, 16⟩
abbrev Fld.fedStat2_staleDrop : Field := ⟨0x20090088, 4, 0, 16⟩
abbrev Fld.fedStat3_lateCommit : Field := ⟨0x2009008C, 4, 16, 16⟩
abbrev Fld.fedStat3_dataLate : Field := ⟨0x2009008C, 4, 0, 16⟩
abbrev Fld.fedStat4_attestFail : Field := ⟨0x20090090, 4, 16, 16⟩
abbrev Fld.fedStat4_timeStep : Field := ⟨0x20090090, 4, 0, 16⟩
abbrev Fld.fedStat5_migratedIn : Field := ⟨0x20090094, 4, 16, 16⟩
abbrev Fld.fedStat5_migratedOut : Field := ⟨0x20090094, 4, 0, 16⟩
abbrev Fld.fedStat6_replRetx : Field := ⟨0x20090098, 4, 0, 16⟩
abbrev Fld.hciCtrl_fwReady : Field := ⟨0x200A0000, 4, 2, 1⟩
abbrev Fld.hciCtrl_reset : Field := ⟨0x200A0000, 4, 1, 1⟩
abbrev Fld.hciCtrl_enable : Field := ⟨0x200A0000, 4, 0, 1⟩
abbrev Fld.hciStatus_version : Field := ⟨0x200A0004, 4, 4, 4⟩
abbrev Fld.hciStatus_fwReady : Field := ⟨0x200A0004, 4, 3, 1⟩
abbrev Fld.hciStatus_v1Offered : Field := ⟨0x200A0004, 4, 2, 1⟩
abbrev Fld.hciStatus_fatal : Field := ⟨0x200A0004, 4, 1, 1⟩
abbrev Fld.hciStatus_ready : Field := ⟨0x200A0004, 4, 0, 1⟩
abbrev Fld.hciAdminSqLo_base : Field := ⟨0x200A0010, 4, 0, 32⟩
abbrev Fld.hciAdminSqHi_base : Field := ⟨0x200A0014, 4, 0, 32⟩
abbrev Fld.hciAdminCqLo_base : Field := ⟨0x200A0018, 4, 0, 32⟩
abbrev Fld.hciAdminCqHi_base : Field := ⟨0x200A001C, 4, 0, 32⟩
abbrev Fld.hciAdminCfg_cqLoc : Field := ⟨0x200A0020, 4, 9, 1⟩
abbrev Fld.hciAdminCfg_sqLoc : Field := ⟨0x200A0020, 4, 8, 1⟩
abbrev Fld.hciAdminCfg_cqSize : Field := ⟨0x200A0020, 4, 4, 4⟩
abbrev Fld.hciAdminCfg_sqSize : Field := ⟨0x200A0020, 4, 0, 4⟩
abbrev Fld.hciQerr_valid : Field := ⟨0x200A0030, 4, 31, 1⟩
abbrev Fld.hciQerr_cause : Field := ⟨0x200A0030, 4, 8, 3⟩
abbrev Fld.hciQerr_queue : Field := ⟨0x200A0030, 4, 0, 7⟩
abbrev Fld.hciStat0_rxDrop : Field := ⟨0x200A0040, 4, 16, 16⟩
abbrev Fld.hciStat0_stagingEmpty : Field := ⟨0x200A0040, 4, 0, 16⟩
abbrev Fld.hciStat1_dmaErr : Field := ⟨0x200A0044, 4, 16, 16⟩
abbrev Fld.hciStat1_doorbellErr : Field := ⟨0x200A0044, 4, 0, 16⟩
abbrev Fld.hciStat2_noRxq : Field := ⟨0x200A0048, 4, 16, 16⟩
abbrev Fld.hciStat2_noticeLost : Field := ⟨0x200A0048, 4, 0, 16⟩
abbrev Fld.hciQBaseLo_base : Field := ⟨0x200A1000, 32, 0, 32⟩
abbrev Fld.hciQBaseHi_base : Field := ⟨0x200A1004, 32, 0, 32⟩
abbrev Fld.hciQBufLo_buf : Field := ⟨0x200A1008, 32, 0, 32⟩
abbrev Fld.hciQBufHi_buf : Field := ⟨0x200A100C, 32, 0, 32⟩
abbrev Fld.hciQCfg_armed : Field := ⟨0x200A1010, 32, 31, 1⟩
abbrev Fld.hciQCfg_irqEn : Field := ⟨0x200A1010, 32, 30, 1⟩
abbrev Fld.hciQCfg_vector : Field := ⟨0x200A1010, 32, 24, 6⟩
abbrev Fld.hciQCfg_stopped : Field := ⟨0x200A1010, 32, 23, 1⟩
abbrev Fld.hciQCfg_partner : Field := ⟨0x200A1010, 32, 16, 7⟩
abbrev Fld.hciQCfg_size : Field := ⟨0x200A1010, 32, 12, 4⟩
abbrev Fld.hciQCfg_stride : Field := ⟨0x200A1010, 32, 11, 1⟩
abbrev Fld.hciQCfg_loc : Field := ⟨0x200A1010, 32, 10, 1⟩
abbrev Fld.hciQCfg_role : Field := ⟨0x200A1010, 32, 4, 4⟩
abbrev Fld.hciQCfg_en : Field := ⟨0x200A1010, 32, 0, 1⟩
abbrev Fld.hciQHead_head : Field := ⟨0x200A1014, 32, 0, 12⟩
abbrev Fld.hciQTail_tail : Field := ⟨0x200A1018, 32, 0, 12⟩
abbrev Fld.cspMClk_div : Field := ⟨0x200B0000, 4, 0, 8⟩
abbrev Fld.cspMSelTim_idle : Field := ⟨0x200B0004, 4, 16, 8⟩
abbrev Fld.cspMSelTim_lag : Field := ⟨0x200B0004, 4, 8, 8⟩
abbrev Fld.cspMSelTim_lead : Field := ⟨0x200B0004, 4, 0, 8⟩
abbrev Fld.cspMRdy_timeout : Field := ⟨0x200B000C, 4, 0, 16⟩
abbrev Fld.cspMFmt_rdyEn : Field := ⟨0x200B0010, 4, 25, 1⟩
abbrev Fld.cspMFmt_dataDdr : Field := ⟨0x200B0010, 4, 24, 1⟩
abbrev Fld.cspMFmt_dataLanes : Field := ⟨0x200B0010, 4, 22, 2⟩
abbrev Fld.cspMFmt_dummy : Field := ⟨0x200B0010, 4, 17, 5⟩
abbrev Fld.cspMFmt_altDdr : Field := ⟨0x200B0010, 4, 16, 1⟩
abbrev Fld.cspMFmt_altLanes : Field := ⟨0x200B0010, 4, 14, 2⟩
abbrev Fld.cspMFmt_altBytes : Field := ⟨0x200B0010, 4, 11, 3⟩
abbrev Fld.cspMFmt_addrDdr : Field := ⟨0x200B0010, 4, 10, 1⟩
abbrev Fld.cspMFmt_addrLanes : Field := ⟨0x200B0010, 4, 8, 2⟩
abbrev Fld.cspMFmt_addrBytes : Field := ⟨0x200B0010, 4, 5, 3⟩
abbrev Fld.cspMFmt_cmdDdr : Field := ⟨0x200B0010, 4, 4, 1⟩
abbrev Fld.cspMFmt_cmdLanes : Field := ⟨0x200B0010, 4, 2, 2⟩
abbrev Fld.cspMFmt_cmdBytes : Field := ⟨0x200B0010, 4, 0, 2⟩
abbrev Fld.cspMCmd_cmd1 : Field := ⟨0x200B0040, 4, 24, 8⟩
abbrev Fld.cspMCmd_cmd0 : Field := ⟨0x200B0040, 4, 16, 8⟩
abbrev Fld.cspMCmd_start : Field := ⟨0x200B0040, 4, 6, 1⟩
abbrev Fld.cspMCmd_abort : Field := ⟨0x200B0040, 4, 5, 1⟩
abbrev Fld.cspMCmd_dir : Field := ⟨0x200B0040, 4, 4, 1⟩
abbrev Fld.cspMCmd_sel : Field := ⟨0x200B0040, 4, 3, 1⟩
abbrev Fld.cspMCmd_fmt : Field := ⟨0x200B0040, 4, 0, 3⟩
abbrev Fld.cspMAddr_addr : Field := ⟨0x200B0044, 4, 0, 32⟩
abbrev Fld.cspMAlt_alt : Field := ⟨0x200B0048, 4, 0, 32⟩
abbrev Fld.cspMMem_mem : Field := ⟨0x200B004C, 4, 0, 32⟩
abbrev Fld.cspMLen_len : Field := ⟨0x200B0050, 4, 0, 21⟩
abbrev Fld.cspMStatus_bytes : Field := ⟨0x200B0054, 4, 8, 21⟩
abbrev Fld.cspMStatus_result : Field := ⟨0x200B0054, 4, 1, 3⟩
abbrev Fld.cspMStatus_busy : Field := ⟨0x200B0054, 4, 0, 1⟩
abbrev Fld.cspSErr_valid : Field := ⟨0x200B0080, 4, 31, 1⟩
abbrev Fld.cspSErr_edges : Field := ⟨0x200B0080, 4, 16, 14⟩
abbrev Fld.cspSErr_cmd : Field := ⟨0x200B0080, 4, 8, 8⟩
abbrev Fld.cspSErr_cause : Field := ⟨0x200B0080, 4, 0, 3⟩
abbrev Fld.cspSStat0_framesBad : Field := ⟨0x200B0090, 4, 16, 16⟩
abbrev Fld.cspSStat0_framesOk : Field := ⟨0x200B0090, 4, 0, 16⟩
abbrev Fld.cspSStat1_extraEdges : Field := ⟨0x200B0094, 4, 0, 16⟩
abbrev Fld.cspMStat_memFaults : Field := ⟨0x200B0098, 4, 16, 16⟩
abbrev Fld.cspMStat_rdyTimeouts : Field := ⟨0x200B0098, 4, 0, 16⟩
abbrev Fld.evrStorm_window : Field := ⟨0x200C0000, 4, 16, 16⟩
abbrev Fld.evrStorm_limit : Field := ⟨0x200C0000, 4, 0, 7⟩
abbrev Fld.evrArmResult_valid : Field := ⟨0x200C0004, 4, 31, 1⟩
abbrev Fld.evrArmResult_luWrite : Field := ⟨0x200C0004, 4, 21, 1⟩
abbrev Fld.evrArmResult_lu : Field := ⟨0x200C0004, 4, 16, 5⟩
abbrev Fld.evrArmResult_channel : Field := ⟨0x200C0004, 4, 8, 6⟩
abbrev Fld.evrArmResult_result : Field := ⟨0x200C0004, 4, 0, 3⟩
abbrev Fld.evrGpioOut_out : Field := ⟨0x200C0010, 4, 0, 32⟩
abbrev Fld.evrGpioOe_oe : Field := ⟨0x200C0014, 4, 0, 32⟩
abbrev Fld.evrGpioIn_in : Field := ⟨0x200C0018, 4, 0, 32⟩
abbrev Fld.evrGpioPulldis_pulldis : Field := ⟨0x200C001C, 4, 0, 32⟩
abbrev Fld.evrGpioEvt_evt : Field := ⟨0x200C0020, 4, 0, 32⟩
abbrev Fld.evrGpioAct_act : Field := ⟨0x200C0028, 4, 0, 32⟩
abbrev Fld.evrGpioPulse_width : Field := ⟨0x200C0030, 4, 0, 24⟩
abbrev Fld.evrFemcAct_act : Field := ⟨0x200C0034, 4, 0, 32⟩
abbrev Fld.evrEcCfg_arm : Field := ⟨0x200C0100, 8, 31, 1⟩
abbrev Fld.evrEcCfg_ns : Field := ⟨0x200C0100, 8, 30, 1⟩
abbrev Fld.evrEcCfg_owner : Field := ⟨0x200C0100, 8, 26, 4⟩
abbrev Fld.evrEcCfg_gateInv : Field := ⟨0x200C0100, 8, 25, 1⟩
abbrev Fld.evrEcCfg_gateEn : Field := ⟨0x200C0100, 8, 24, 1⟩
abbrev Fld.evrEcCfg_gate : Field := ⟨0x200C0100, 8, 16, 5⟩
abbrev Fld.evrEcCfg_task : Field := ⟨0x200C0100, 8, 8, 8⟩
abbrev Fld.evrEcCfg_src : Field := ⟨0x200C0100, 8, 0, 8⟩
abbrev Fld.evrEcStat_storm : Field := ⟨0x200C0104, 8, 16, 1⟩
abbrev Fld.evrEcStat_passed : Field := ⟨0x200C0104, 8, 0, 16⟩
abbrev Fld.evrLuCfg_n : Field := ⟨0x200C0300, 4, 16, 16⟩
abbrev Fld.evrLuCfg_edge : Field := ⟨0x200C0300, 4, 8, 2⟩
abbrev Fld.evrLuCfg_lut : Field := ⟨0x200C0300, 4, 4, 4⟩
abbrev Fld.evrLuCfg_reg : Field := ⟨0x200C0300, 4, 3, 1⟩
abbrev Fld.evrLuCfg_mode : Field := ⟨0x200C0300, 4, 0, 3⟩
abbrev Fld.evrLuQ_q : Field := ⟨0x200C0380, 4, 0, 32⟩
abbrev Fld.evrTmrDelay_delay : Field := ⟨0x200C0400, 8, 0, 32⟩
abbrev Fld.evrTmrCtrl_stop : Field := ⟨0x200C0404, 8, 3, 1⟩
abbrev Fld.evrTmrCtrl_start : Field := ⟨0x200C0404, 8, 2, 1⟩
abbrev Fld.evrTmrCtrl_periodic : Field := ⟨0x200C0404, 8, 1, 1⟩
abbrev Fld.evrTmrCtrl_run : Field := ⟨0x200C0404, 8, 0, 1⟩
abbrev Fld.evrCapLo_cap : Field := ⟨0x200C0440, 8, 0, 32⟩
abbrev Fld.evrCapHi_cap : Field := ⟨0x200C0444, 8, 0, 32⟩
abbrev Fld.evrTaskMode_mode : Field := ⟨0x200C0500, 4, 0, 32⟩
abbrev Fld.evrTaskMerged_merged : Field := ⟨0x200C0520, 4, 0, 32⟩
abbrev Fld.evrTaskOvr_ovr : Field := ⟨0x200C0540, 4, 0, 32⟩
abbrev Fld.irqCfg_en : Field := ⟨0x200D0000, 4, 31, 1⟩
abbrev Fld.irqCfg_sec : Field := ⟨0x200D0000, 4, 30, 1⟩
abbrev Fld.irqCfg_prio : Field := ⟨0x200D0000, 4, 16, 4⟩
abbrev Fld.irqCfg_vector : Field := ⟨0x200D0000, 4, 8, 6⟩
abbrev Fld.irqCfg_target : Field := ⟨0x200D0000, 4, 0, 4⟩
abbrev Fld.irqPend_pend : Field := ⟨0x200D0400, 4, 0, 32⟩
abbrev Fld.irqSgi_sgi : Field := ⟨0x200D0420, 4, 0, 32⟩
abbrev Fld.irqThresh_thresh : Field := ⟨0x200D0440, 4, 0, 4⟩
abbrev Fld.irqClaimR_valid : Field := ⟨0x200D0460, 4, 31, 1⟩
abbrev Fld.irqClaimR_number : Field := ⟨0x200D0460, 4, 0, 8⟩
abbrev Fld.keyCmd_slot : Field := ⟨0x200E0000, 4, 16, 9⟩
abbrev Fld.keyCmd_kekSel : Field := ⟨0x200E0000, 4, 12, 1⟩
abbrev Fld.keyCmd_op : Field := ⟨0x200E0000, 4, 0, 4⟩
abbrev Fld.keyArg_len : Field := ⟨0x200E0004, 4, 24, 6⟩
abbrev Fld.keyArg_src : Field := ⟨0x200E0004, 4, 8, 9⟩
abbrev Fld.keyArg_keylen : Field := ⟨0x200E0004, 4, 6, 1⟩
abbrev Fld.keyArg_engines : Field := ⟨0x200E0004, 4, 0, 6⟩
abbrev Fld.keyStatus_result : Field := ⟨0x200E0008, 4, 16, 16⟩
abbrev Fld.keyStatus_busy : Field := ⟨0x200E0008, 4, 0, 1⟩
abbrev Fld.keyMask_period : Field := ⟨0x200E000C, 4, 0, 7⟩
abbrev Fld.keyPool_count : Field := ⟨0x200E0010, 4, 16, 10⟩
abbrev Fld.keyPool_base : Field := ⟨0x200E0010, 4, 0, 9⟩
abbrev Fld.keyBlobCfg_lock : Field := ⟨0x200E0014, 4, 31, 1⟩
abbrev Fld.keyBlobCfg_kekSlot : Field := ⟨0x200E0014, 4, 16, 9⟩
abbrev Fld.keyBlobCfg_mode : Field := ⟨0x200E0014, 4, 0, 1⟩
abbrev Fld.keyData_data : Field := ⟨0x200E0040, 4, 0, 32⟩
abbrev Fld.keyStat0_evictions : Field := ⟨0x200E0080, 4, 16, 16⟩
abbrev Fld.keyStat0_unwraps : Field := ⟨0x200E0080, 4, 0, 16⟩
abbrev Fld.keyStat1_poolWait : Field := ⟨0x200E0084, 4, 16, 16⟩
abbrev Fld.keyStat1_blobFail : Field := ⟨0x200E0084, 4, 0, 16⟩
abbrev Fld.keySlotAttr_valid : Field := ⟨0x200E1000, 4, 31, 1⟩
abbrev Fld.keySlotAttr_lock : Field := ⟨0x200E1000, 4, 30, 1⟩
abbrev Fld.keySlotAttr_origin : Field := ⟨0x200E1000, 4, 28, 2⟩
abbrev Fld.keySlotAttr_pool : Field := ⟨0x200E1000, 4, 27, 1⟩
abbrev Fld.keySlotAttr_keylen : Field := ⟨0x200E1000, 4, 26, 1⟩
abbrev Fld.keySlotAttr_engines : Field := ⟨0x200E1000, 4, 16, 6⟩
abbrev Fld.keySlotAttr_ownerSlot : Field := ⟨0x200E1000, 4, 0, 15⟩
abbrev Fld.cphCfg_bulkAge : Field := ⟨0x200F0000, 4, 0, 16⟩
abbrev Fld.cphNsWindow_count : Field := ⟨0x200F0004, 4, 16, 10⟩
abbrev Fld.cphNsWindow_base : Field := ⟨0x200F0004, 4, 0, 9⟩
abbrev Fld.cphDone_done : Field := ⟨0x200F0008, 4, 0, 8⟩
abbrev Fld.cphQstat_suspended : Field := ⟨0x200F000C, 4, 24, 5⟩
abbrev Fld.cphQstat_busy : Field := ⟨0x200F000C, 4, 16, 5⟩
abbrev Fld.cphQstat_urgentQueued : Field := ⟨0x200F000C, 4, 10, 6⟩
abbrev Fld.cphQstat_queued : Field := ⟨0x200F000C, 4, 0, 9⟩
abbrev Fld.cphSubmitR_addr : Field := ⟨0x200F0010, 4, 5, 27⟩
abbrev Fld.cphEng_eng : Field := ⟨0x200F0020, 4, 0, 32⟩
abbrev Fld.cphStat0_authFails : Field := ⟨0x200F0040, 4, 16, 16⟩
abbrev Fld.cphStat0_preempts : Field := ⟨0x200F0040, 4, 0, 16⟩
abbrev Fld.cphStat1_keyRefused : Field := ⟨0x200F0044, 4, 16, 16⟩
abbrev Fld.cphStat1_holdRefused : Field := ⟨0x200F0044, 4, 0, 16⟩
abbrev Fld.cphStat2_urgentWait : Field := ⟨0x200F0048, 4, 16, 16⟩
abbrev Fld.cphStat2_bulkAged : Field := ⟨0x200F0048, 4, 0, 16⟩
abbrev Fld.errThresh_permWindow : Field := ⟨0x20100000, 4, 16, 16⟩
abbrev Fld.errThresh_permThreshold : Field := ⟨0x20100000, 4, 0, 8⟩
abbrev Fld.errLastTrans_resource : Field := ⟨0x20100004, 4, 0, 32⟩
abbrev Fld.errLastPerm_resource : Field := ⟨0x20100008, 4, 0, 32⟩
abbrev Fld.errFaultAddr_addr : Field := ⟨0x2010000C, 4, 0, 32⟩
abbrev Fld.errSpare_key : Field := ⟨0x20100010, 4, 24, 3⟩
abbrev Fld.errSpare_core : Field := ⟨0x20100010, 4, 16, 6⟩
abbrev Fld.errSpare_pkt : Field := ⟨0x20100010, 4, 8, 6⟩
abbrev Fld.errSpare_nm : Field := ⟨0x20100010, 4, 0, 8⟩
abbrev Fld.errGhost_valid : Field := ⟨0x20100020, 4, 31, 1⟩
abbrev Fld.errGhost_domain : Field := ⟨0x20100020, 4, 8, 5⟩
abbrev Fld.errGhost_bar : Field := ⟨0x20100020, 4, 1, 1⟩
abbrev Fld.errGhost_write : Field := ⟨0x20100020, 4, 0, 1⟩
abbrev Fld.errGhostAddr_offset : Field := ⟨0x20100024, 4, 0, 25⟩
abbrev Fld.errDecode_valid : Field := ⟨0x20100028, 4, 31, 1⟩
abbrev Fld.errDecode_initiator : Field := ⟨0x20100028, 4, 8, 4⟩
abbrev Fld.errDecode_bar : Field := ⟨0x20100028, 4, 1, 1⟩
abbrev Fld.errDecode_write : Field := ⟨0x20100028, 4, 0, 1⟩
abbrev Fld.errDecodeAddr_addr : Field := ⟨0x2010002C, 4, 0, 32⟩
abbrev Fld.errRsvdWrite_valid : Field := ⟨0x20100030, 4, 31, 1⟩
abbrev Fld.errRsvdWrite_initiator : Field := ⟨0x20100030, 4, 8, 4⟩
abbrev Fld.errRsvdWrite_rejected : Field := ⟨0x20100030, 4, 0, 1⟩
abbrev Fld.errRsvdAddr_addr : Field := ⟨0x20100034, 4, 0, 32⟩
abbrev Fld.errStat0_permanents : Field := ⟨0x20100040, 4, 16, 16⟩
abbrev Fld.errStat0_transients : Field := ⟨0x20100040, 4, 0, 16⟩
abbrev Fld.errStat1_trackOverflow : Field := ⟨0x20100044, 4, 16, 16⟩
abbrev Fld.errStat1_replays : Field := ⟨0x20100044, 4, 0, 16⟩
abbrev Fld.errStat2_clockBypass : Field := ⟨0x20100048, 4, 16, 16⟩
abbrev Fld.errStat2_retireFail : Field := ⟨0x20100048, 4, 0, 16⟩
abbrev Fld.errStat3_brownoutWarn : Field := ⟨0x2010004C, 4, 0, 16⟩
abbrev Fld.otpLcStatus_journalUsed : Field := ⟨0x20110000, 4, 20, 4⟩
abbrev Fld.otpLcStatus_rowsUsed : Field := ⟨0x20110000, 4, 16, 4⟩
abbrev Fld.otpLcStatus_destroyed : Field := ⟨0x20110000, 4, 9, 1⟩
abbrev Fld.otpLcStatus_open : Field := ⟨0x20110000, 4, 8, 1⟩
abbrev Fld.otpLcStatus_target : Field := ⟨0x20110000, 4, 4, 3⟩
abbrev Fld.otpLcStatus_state : Field := ⟨0x20110000, 4, 0, 3⟩
abbrev Fld.otpLcCmd_key : Field := ⟨0x20110004, 4, 16, 16⟩
abbrev Fld.otpLcCmd_start : Field := ⟨0x20110004, 4, 8, 1⟩
abbrev Fld.otpLcCmd_target : Field := ⟨0x20110004, 4, 0, 3⟩
abbrev Fld.coexCfg_reqLead : Field := ⟨0x20120000, 4, 8, 8⟩
abbrev Fld.coexCfg_subghz : Field := ⟨0x20120000, 4, 6, 1⟩
abbrev Fld.coexCfg_urgentWins : Field := ⟨0x20120000, 4, 5, 1⟩
abbrev Fld.coexCfg_abortOnRevoke : Field := ⟨0x20120000, 4, 4, 1⟩
abbrev Fld.coexCfg_rxReq : Field := ⟨0x20120000, 4, 2, 1⟩
abbrev Fld.coexCfg_role : Field := ⟨0x20120000, 4, 0, 2⟩
abbrev Fld.coexStatus_intReq : Field := ⟨0x20120004, 4, 4, 1⟩
abbrev Fld.coexStatus_act : Field := ⟨0x20120004, 4, 3, 1⟩
abbrev Fld.coexStatus_gnt : Field := ⟨0x20120004, 4, 2, 1⟩
abbrev Fld.coexStatus_pri : Field := ⟨0x20120004, 4, 1, 1⟩
abbrev Fld.coexStatus_req : Field := ⟨0x20120004, 4, 0, 1⟩
abbrev Fld.coexStat0_ackDenied : Field := ⟨0x20120008, 4, 16, 16⟩
abbrev Fld.coexStat0_denied : Field := ⟨0x20120008, 4, 0, 16⟩
abbrev Fld.coexStat1_revoked : Field := ⟨0x2012000C, 4, 16, 16⟩
abbrev Fld.coexStat1_extGrants : Field := ⟨0x2012000C, 4, 0, 16⟩
abbrev Fld.tmbLo_value : Field := ⟨0x20130000, 4, 0, 32⟩
abbrev Fld.tmbHi_value : Field := ⟨0x20130004, 4, 0, 32⟩

/-! The rows, one list per control block. -/

/-- Registers of the SYS block. -/
def rowsSys : List RegRow := [
  { base := Reg.sysId, count := 1, stride := 4, dom := 1, reset := 0x5A4E1024, ro := 0xFFFFFFFF },
  { base := Reg.sysRev, count := 1, stride := 4, dom := 1, reset := 0xA1, ro := 0xFF },
  { base := Reg.sysStrap, count := 1, stride := 4, dom := 1, reset := 0x0, ro := 0x3F },
  { base := Reg.sysResetCause, count := 1, stride := 4, dom := 1, reset := 0x1, w1c := 0x3F },
  { base := Reg.sysResetCtrl, count := 1, stride := 4, dom := 1, reset := 0x0, wo := 0xFFFF0100, rw := 0xFE },
  { base := Reg.sysBootStatus, count := 1, stride := 4, dom := 1, reset := 0x1, ro := 0xFF0FFFFF },
  { base := Reg.sysSupplyStatus, count := 1, stride := 4, dom := 0, reset := 0x17F, ro := 0x17F },
  { base := Reg.sysBootDoorbell, count := 1, stride := 4, dom := 1, reset := 0x0, wo := 0xFFFFFFFF },
  { base := Reg.sysCompat, count := 1, stride := 4, dom := 1, reset := 0x0, rw := 0x1 },
  { base := Reg.sysCoreStatus, count := 8, stride := 4, dom := 1, reset := 0x0, ro := 0xFFFF0F37 } ]

/-- Registers of the PWR block. -/
def rowsPwr : List RegRow := [
  { base := Reg.pwrVoteSet, count := 1, stride := 4, dom := 0, reset := 0x0, wo := 0x3FFFFFFE },
  { base := Reg.pwrVoteClr, count := 1, stride := 4, dom := 0, reset := 0x0, wo := 0x3FFFFFFE },
  { base := Reg.pwrVoteTally, count := 1, stride := 4, dom := 0, reset := 0x1, ro := 0x3FFFFFFF },
  { base := Reg.pwrRetCtrl, count := 1, stride := 4, dom := 0, reset := 0x400000, rw := 0x2400000 },
  { base := Reg.pwrDrainMax, count := 1, stride := 4, dom := 0, reset := 0x64, rw := 0xFFFF },
  { base := Reg.pwrPadRelease, count := 1, stride := 4, dom := 0, reset := 0x0, w1c := 0x7F },
  { base := Reg.pwrWakeCfg, count := 1, stride := 4, dom := 0, reset := 0x0, rw := 0x3FFFF },
  { base := Reg.pwrWakeCause, count := 1, stride := 4, dom := 0, reset := 0x0, w1c := 0xFF },
  { base := Reg.pwrWakeVote, count := 1, stride := 4, dom := 0, reset := 0x10C00006, rw := 0x3FFFFFFE },
  { base := Reg.pwrWurxCfg, count := 1, stride := 4, dom := 0, reset := 0x1A00, rw := 0x3F01 },
  { base := Reg.pwrWurxAddr, count := 1, stride := 4, dom := 0, reset := 0x0, rw := 0xFFFFFFFF },
  { base := Reg.pwrWakeTimeLo, count := 1, stride := 4, dom := 0, reset := 0x0, rw := 0xFFFFFFFF },
  { base := Reg.pwrWakeTimeHi, count := 1, stride := 4, dom := 0, reset := 0x0, rw := 0xFFFFFFFF },
  { base := Reg.pwrWatchCtrl, count := 1, stride := 4, dom := 0, reset := 0x0, rw := 0xF },
  { base := Reg.pwrWatchPeriod, count := 1, stride := 4, dom := 0, reset := 0x3E8, rw := 0xFFFFFF },
  { base := Reg.pwrWatchDwell, count := 1, stride := 4, dom := 0, reset := 0x80, rw := 0xFFF },
  { base := Reg.pwrWatchStatus, count := 1, stride := 4, dom := 0, reset := 0x0, ro := 0xFFFF77 },
  { base := Reg.pwrWatchCh, count := 4, stride := 4, dom := 0, reset := 0x0, rw := 0xFFFF7FF },
  { base := Reg.pwrWatchCount, count := 1, stride := 4, dom := 0, reset := 0x0, ro := 0xFFFFFFFF },
  { base := Reg.pwrVoteV, count := 20, stride := 4, dom := 0, reset := 0x0, rw := 0x3FFFFFFE },
  { base := Reg.pwrVoteVx, count := 12, stride := 4, dom := 0, reset := 0x0 },
  { base := Reg.pwrDomStatus, count := 32, stride := 4, dom := 0, reset := 0x0, ro := 0xF7 },
  { base := Reg.pwrDomAbort, count := 32, stride := 4, dom := 0, reset := 0x3F0000, rc := 0xFF00FFFF, ro := 0x3F0000 } ]

/-- Registers of the CLK block. -/
def rowsClk : List RegRow := [
  { base := Reg.clkOpCtrl, count := 1, stride := 4, dom := 1, reset := 0x1, rw := 0x3 },
  { base := Reg.clkOpStatus, count := 1, stride := 4, dom := 1, reset := 0x1, rc := 0xFF00, ro := 0x1F } ]

/-- Registers of the RFS block. -/
def rowsRfs : List RegRow := [
  { base := Reg.rfsCalCmd, count := 1, stride := 4, dom := 0, reset := 0x0, wo := 0xFF77 },
  { base := Reg.rfsCalStatus, count := 1, stride := 4, dom := 0, reset := 0x0, rc := 0xFFFF00, ro := 0x1F },
  { base := Reg.rfsCalCtrl, count := 1, stride := 4, dom := 0, reset := 0xFA0A01, rw := 0xFFFFFF01 },
  { base := Reg.rfsTxLead, count := 1, stride := 4, dom := 0, reset := 0x10, rw := 0x3F },
  { base := Reg.rfsTemp, count := 1, stride := 4, dom := 0, reset := 0x0, ro := 0x8000FFFF },
  { base := Reg.rfsChainState, count := 1, stride := 4, dom := 0, reset := 0x0, ro := 0x3FFFFFFF },
  { base := Reg.rfsLoStatus, count := 1, stride := 4, dom := 0, reset := 0x0, ro := 0x3F003F, w1c := 0x3F00 },
  { base := Reg.rfsPwrComp, count := 1, stride := 4, dom := 0, reset := 0x0, rw := 0xFFFFFFFF },
  { base := Reg.rfsPwrTrim, count := 4, stride := 4, dom := 0, reset := 0x100, rw := 0x100, ro := 0x1F },
  { base := Reg.rfsCalEntry, count := 162, stride := 4, dom := 0, reset := 0x0, rw := 0xFFFFFFFF },
  { base := Reg.rfsPwrCal, count := 16, stride := 4, dom := 0, reset := 0x0, rw := 0x8000FFFF } ]

/-- Registers of the RXW block. -/
def rowsRxw : List RegRow := [
  { base := Reg.rxwLaneCtrl, count := 1, stride := 4, dom := 17, reset := 0x2040, rw := 0x3F7F },
  { base := Reg.rxwLaneBusy, count := 3, stride := 4, dom := 17, reset := 0x0, ro := 0xFFFFFFFF },
  { base := Reg.rxwLaneRetired, count := 3, stride := 4, dom := 17, reset := 0x0, ro := 0xFFFFFFFF },
  { base := Reg.rxwSubCfg, count := 1, stride := 4, dom := 17, reset := 0x0, rw := 0x70, ro := 0x1 },
  { base := Reg.rxwBlitzSync, count := 1, stride := 4, dom := 17, reset := 0x0, rw := 0xFFFFFFFF },
  { base := Reg.rxwGainCfg, count := 2, stride := 4, dom := 17, reset := 0x14300C, rw := 0xF3FFFFFF },
  { base := Reg.rxwGainStatus, count := 6, stride := 8, dom := 17, reset := 0x0, rc := 0xFFFF0000, ro := 0x71FF },
  { base := Reg.rxwGainLast, count := 6, stride := 8, dom := 17, reset := 0x0, ro := 0xFFFFFFFF },
  { base := Reg.rxwStatDet, count := 1, stride := 4, dom := 17, reset := 0x0, rc := 0xFFFFFFFF },
  { base := Reg.rxwStatFrame, count := 1, stride := 4, dom := 17, reset := 0x0, rc := 0xFFFFFFFF },
  { base := Reg.rxwStatAbandon, count := 1, stride := 4, dom := 17, reset := 0x0, rc := 0xFFFFFFFF },
  { base := Reg.rxwForkStat0, count := 1, stride := 4, dom := 17, reset := 0x0, rc := 0xFFFFFFFF },
  { base := Reg.rxwForkStat1, count := 1, stride := 4, dom := 17, reset := 0x0, rc := 0xFFFFFFFF },
  { base := Reg.rxwForkStat2, count := 1, stride := 4, dom := 17, reset := 0x0, rc := 0xFFFF },
  { base := Reg.rxwCh24, count := 16, stride := 4, dom := 17, reset := 0x600C06, rw := 0xFFFF1F1F },
  { base := Reg.rxwChs, count := 64, stride := 4, dom := 17, reset := 0x600806, rw := 0xFFFF0F1F },
  { base := Reg.rxwNf24, count := 64, stride := 4, dom := 17, reset := 0x80000000, ro := 0x80FF0FFF },
  { base := Reg.rxwNfs, count := 128, stride := 4, dom := 17, reset := 0x80000000, ro := 0x80FF0FFF } ]

/-- Registers of the TXP block. -/
def rowsTxp : List RegRow := [
  { base := Reg.txpFemcOwn, count := 4, stride := 4, dom := 1, reset := 0x0, rw := 0xFFFFFFFF },
  { base := Reg.txpFemcIdle, count := 4, stride := 4, dom := 1, reset := 0x0, rw := 0xFFFF },
  { base := Reg.txpFemcStatic, count := 1, stride := 4, dom := 1, reset := 0x0, rw := 0xFFFF },
  { base := Reg.txpFemcPat, count := 16, stride := 4, dom := 1, reset := 0x0, rw := 0xFFFF },
  { base := Reg.txpMaskCtrl, count := 4, stride := 4, dom := 1, reset := 0x300, rw := 0xF0F },
  { base := Reg.txpMaskStatus, count := 4, stride := 4, dom := 1, reset := 0x0, rc := 0xFFFF0000, ro := 0xFFE, w1c := 0x1 },
  { base := Reg.txpShapeCtrl0, count := 1, stride := 4, dom := 18, reset := 0x0, wo := 0x700007, ro := 0x70770 },
  { base := Reg.txpShapeCtrl1, count := 1, stride := 4, dom := 19, reset := 0x0, wo := 0x700007, ro := 0x70770 },
  { base := Reg.txpShapeCtrl2, count := 1, stride := 4, dom := 20, reset := 0x0, wo := 0x700007, ro := 0x70770 },
  { base := Reg.txpShapeCtrl3, count := 1, stride := 4, dom := 21, reset := 0x0, wo := 0x700007, ro := 0x70770 },
  { base := Reg.txpSunCfg0, count := 1, stride := 4, dom := 20, reset := 0x8, rw := 0x3F },
  { base := Reg.txpSunCfg1, count := 1, stride := 4, dom := 21, reset := 0x8, rw := 0x3F },
  { base := Reg.txpShape0T, count := 96, stride := 4, dom := 18, reset := 0x0, rw := 0xFFFFFFFF },
  { base := Reg.txpShape1T, count := 96, stride := 4, dom := 19, reset := 0x0, rw := 0xFFFFFFFF },
  { base := Reg.txpShape2T, count := 96, stride := 4, dom := 20, reset := 0x0, rw := 0xFFFFFFFF },
  { base := Reg.txpShape3T, count := 96, stride := 4, dom := 21, reset := 0x0, rw := 0xFFFFFFFF } ]

/-- Registers of the REG block. -/
def rowsReg : List RegRow := [
  { base := Reg.regStatus, count := 1, stride := 4, dom := 1, reset := 0x0, ro := 0x3F1F },
  { base := Reg.regProgCmd, count := 1, stride := 4, dom := 1, reset := 0x0, wo := 0xFFFF031F },
  { base := Reg.regProgStatus, count := 1, stride := 4, dom := 1, reset := 0x0, ro := 0x71F0F },
  { base := Reg.regStat0, count := 1, stride := 4, dom := 1, reset := 0x0, rc := 0xFFFFFFFF },
  { base := Reg.regStat1, count := 1, stride := 4, dom := 1, reset := 0x0, rc := 0xFFFFFFFF },
  { base := Reg.regStat2, count := 1, stride := 4, dom := 1, reset := 0x0, rc := 0xFFFFFFFF },
  { base := Reg.regMirrorW, count := 32, stride := 4, dom := 1, reset := 0x0, ro := 0xFFFFFFFF },
  { base := Reg.regMirrorC, count := 32, stride := 4, dom := 1, reset := 0x0, ro := 0xFFFFFFFF },
  { base := Reg.regStageW, count := 32, stride := 4, dom := 1, reset := 0x0, rw := 0xFFFFFFFF },
  { base := Reg.regDutyUsed, count := 8, stride := 16, dom := 0, reset := 0x0, ro := 0xFFFFFFFF },
  { base := Reg.regDutyPreload, count := 8, stride := 16, dom := 0, reset := 0x0, ro := 0xFFFFFFFF },
  { base := Reg.regDutyHeld, count := 8, stride := 16, dom := 0, reset := 0x0, ro := 0xFFFFFFFF },
  { base := Reg.regDutyBudget, count := 8, stride := 16, dom := 0, reset := 0x0, ro := 0xFFFFFFFF } ]

/-- Registers of the LNK block. -/
def rowsLnk : List RegRow := [
  { base := Reg.lnkCfg, count := 1, stride := 4, dom := 10, reset := 0x3, rw := 0x3 },
  { base := Reg.lnkPairStatus, count := 1, stride := 4, dom := 10, reset := 0x7001111, ro := 0x70FFFFF },
  { base := Reg.lnkAckPwr, count := 1, stride := 4, dom := 10, reset := 0x380038, rw := 0x31FF31FF },
  { base := Reg.lnkLockStat, count := 5, stride := 4, dom := 10, reset := 0x0, ro := 0x3000000, rc := 0xFFFFFF },
  { base := Reg.lnkEuiLo, count := 1, stride := 4, dom := 10, reset := 0x0, ro := 0xFFFFFFFF },
  { base := Reg.lnkEuiHi, count := 1, stride := 4, dom := 10, reset := 0x0, ro := 0xFFFFFFFF },
  { base := Reg.lnkStat0, count := 1, stride := 4, dom := 10, reset := 0x0, rc := 0xFFFFFFFF },
  { base := Reg.lnkStat1, count := 1, stride := 4, dom := 10, reset := 0x0, rc := 0xFFFFFFFF },
  { base := Reg.lnkStat2, count := 1, stride := 4, dom := 10, reset := 0x0, rc := 0xFFFFFFFF },
  { base := Reg.lnkStat3, count := 1, stride := 4, dom := 10, reset := 0x0, rc := 0xFFFFFFFF },
  { base := Reg.lnkStat4, count := 1, stride := 4, dom := 10, reset := 0x0, rc := 0xFFFFFFFF },
  { base := Reg.lnkStat5, count := 1, stride := 4, dom := 10, reset := 0x0, rc := 0xFFFFFFFF },
  { base := Reg.lnkStat6, count := 1, stride := 4, dom := 10, reset := 0x0, rc := 0xFFFFFFFF },
  { base := Reg.lnkId, count := 4, stride := 4, dom := 10, reset := 0xFFFFFFFF, rw := 0xFFFFFFFF },
  { base := Reg.lnkTschCtrl, count := 1, stride := 4, dom := 10, reset := 0x710040, rw := 0xFF01FF },
  { base := Reg.lnkTschAsn0Lo, count := 1, stride := 4, dom := 10, reset := 0x0, rw := 0xFFFFFFFF },
  { base := Reg.lnkTschAsn0Hi, count := 1, stride := 4, dom := 10, reset := 0x0, rw := 0xFF },
  { base := Reg.lnkTschT0Lo, count := 1, stride := 4, dom := 10, reset := 0x0, rw := 0xFFFFFFFF },
  { base := Reg.lnkTschT0Hi, count := 1, stride := 4, dom := 10, reset := 0x0, rw := 0xFFFFFFFF },
  { base := Reg.lnkTschAsnLo, count := 1, stride := 4, dom := 10, reset := 0x0, ro := 0xFFFFFFFF },
  { base := Reg.lnkTschAsnHi, count := 1, stride := 4, dom := 10, reset := 0x0, ro := 0xFF },
  { base := Reg.lnkTschTmpl, count := 4, stride := 4, dom := 10, reset := 0x0, rw := 0xFFFFFFFF },
  { base := Reg.lnkTschHop, count := 16, stride := 4, dom := 10, reset := 0x0, rw := 0xFFFFFFFF },
  { base := Reg.lnkTschSf, count := 8, stride := 4, dom := 10, reset := 0x0, rw := 0xFFFFFF },
  { base := Reg.lnkSlpCfg, count := 1, stride := 4, dom := 10, reset := 0x4EE80320, rw := 0xFFFF0F31 },
  { base := Reg.lnkSlpGuard, count := 1, stride := 4, dom := 10, reset := 0x50961F40, rw := 0xFFFFFFFF },
  { base := Reg.lnkSlpDrift, count := 1, stride := 4, dom := 10, reset := 0x6428, rw := 0xFFFF },
  { base := Reg.lnkSlpLost, count := 1, stride := 4, dom := 10, reset := 0x640443, rw := 0xFFFF0FFF },
  { base := Reg.lnkSlpWake, count := 1, stride := 4, dom := 10, reset := 0x380038, rw := 0x31FF31FF },
  { base := Reg.lnkSlpPend, count := 1, stride := 4, dom := 10, reset := 0x403E8, rw := 0xF3FFF },
  { base := Reg.lnkSlpStat0, count := 1, stride := 4, dom := 10, reset := 0x0, rc := 0xFFFFFFFF },
  { base := Reg.lnkSlpStat1, count := 1, stride := 4, dom := 10, reset := 0x0, rc := 0xFFFFFFFF },
  { base := Reg.lnkSlpStat2, count := 1, stride := 4, dom := 10, reset := 0x0, rc := 0xFFFFFFFF },
  { base := Reg.lnkSlpStat3, count := 1, stride := 4, dom := 10, reset := 0x0, rc := 0xFFFFFFFF },
  { base := Reg.lnkSlpStat4, count := 1, stride := 4, dom := 10, reset := 0x0, rc := 0xFFFFFFFF },
  { base := Reg.lnkCellW0, count := 1024, stride := 8, dom := 10, reset := 0x0, rw := 0x9FFFFFFF },
  { base := Reg.lnkCellW1, count := 1024, stride := 8, dom := 10, reset := 0x0, rw := 0x7FFFFF },
  { base := Reg.lnkSlotW0, count := 512, stride := 16, dom := 10, reset := 0x0, rw := 0x7F03FF },
  { base := Reg.lnkSlotW1, count := 512, stride := 16, dom := 10, reset := 0x0, rw := 0xFFFFFFFF },
  { base := Reg.lnkSlotW2, count := 512, stride := 16, dom := 10, reset := 0x0, rw := 0xFFFFFFFF },
  { base := Reg.lnkSlotW3, count := 512, stride := 16, dom := 10, reset := 0x0, rw := 0xFFFFFFFF } ]

/-- Registers of the NDT block. -/
def rowsNdt : List RegRow := [
  { base := Reg.ndtCfg, count := 1, stride := 4, dom := 22, reset := 0x333, rw := 0x773 },
  { base := Reg.ndtMember, count := 1, stride := 4, dom := 22, reset := 0x0, ro := 0x3FF },
  { base := Reg.ndtOutSkip, count := 1, stride := 4, dom := 22, reset := 0x10000, rw := 0xFFFFFFFF },
  { base := Reg.ndtCtrl, count := 1, stride := 4, dom := 22, reset := 0x0, wo := 0xFFFF0003 },
  { base := Reg.ndtStatus0, count := 1, stride := 4, dom := 22, reset := 0x0, ro := 0xFFFFFFFF },
  { base := Reg.ndtStatus1, count := 1, stride := 4, dom := 22, reset := 0x0, ro := 0xFFFF0007 },
  { base := Reg.ndtStatus2, count := 1, stride := 4, dom := 22, reset := 0x0, ro := 0x3FFFF },
  { base := Reg.ndtStat0, count := 1, stride := 4, dom := 22, reset := 0x0, rc := 0xFFFFFFFF },
  { base := Reg.ndtStat1, count := 1, stride := 4, dom := 22, reset := 0x0, rc := 0xFFFFFFFF },
  { base := Reg.ndtStat2, count := 1, stride := 4, dom := 22, reset := 0x0, rc := 0xFFFFFFFF },
  { base := Reg.ndtStat3, count := 1, stride := 4, dom := 22, reset := 0x0, rc := 0xFFFF } ]

/-- Registers of the FED block. -/
def rowsFed : List RegRow := [
  { base := Reg.fedCfg, count := 1, stride := 4, dom := 27, reset := 0x0, rwl := 0x1FF003FF, rw := 0xFF000 },
  { base := Reg.fedNet, count := 1, stride := 4, dom := 27, reset := 0x88B5, rw := 0xFFFFFFFF },
  { base := Reg.fedCtrl, count := 1, stride := 4, dom := 27, reset := 0x0, wo := 0x1 },
  { base := Reg.fedTimers, count := 1, stride := 4, dom := 27, reset := 0x1F4001E, rw := 0xFFFFFFFF },
  { base := Reg.fedStatus, count := 1, stride := 4, dom := 27, reset := 0x0, ro := 0x3CF },
  { base := Reg.fedEpoch, count := 1, stride := 4, dom := 27, reset := 0x0, ro := 0xFFFFFFFF },
  { base := Reg.fedLeader, count := 1, stride := 4, dom := 27, reset := 0x0, ro := 0x83FF03FF },
  { base := Reg.fedTime, count := 1, stride := 4, dom := 27, reset := 0x0, ro := 0x83FFFFFF },
  { base := Reg.fedAsym, count := 2, stride := 4, dom := 27, reset := 0x0, rw := 0xFFFF },
  { base := Reg.fedGroupMacLo, count := 1, stride := 4, dom := 27, reset := 0x424E5A01, rw := 0xFFFFFFFF },
  { base := Reg.fedGroupMacHi, count := 1, stride := 4, dom := 27, reset := 0x4D, rw := 0xFFFF },
  { base := Reg.fedDigest, count := 8, stride := 4, dom := 27, reset := 0x0, ro := 0xFFFFFFFF },
  { base := Reg.fedStat0, count := 1, stride := 4, dom := 27, reset := 0x0, rc := 0xFFFFFFFF },
  { base := Reg.fedStat1, count := 1, stride := 4, dom := 27, reset := 0x0, rc := 0xFFFFFFFF },
  { base := Reg.fedStat2, count := 1, stride := 4, dom := 27, reset := 0x0, rc := 0xFFFFFFFF },
  { base := Reg.fedStat3, count := 1, stride := 4, dom := 27, reset := 0x0, rc := 0xFFFFFFFF },
  { base := Reg.fedStat4, count := 1, stride := 4, dom := 27, reset := 0x0, rc := 0xFFFFFFFF },
  { base := Reg.fedStat5, count := 1, stride := 4, dom := 27, reset := 0x0, rc := 0xFFFFFFFF },
  { base := Reg.fedStat6, count := 1, stride := 4, dom := 27, reset := 0x0, rc := 0xFFFF } ]

/-- Registers of the HCI block. -/
def rowsHci : List RegRow := [
  { base := Reg.hciCtrl, count := 1, stride := 4, dom := 1, reset := 0x0, rw := 0x5, wo := 0x2 },
  { base := Reg.hciStatus, count := 1, stride := 4, dom := 1, reset := 0x20, ro := 0xFF },
  { base := Reg.hciAdminSqLo, count := 1, stride := 4, dom := 1, reset := 0x0, rw := 0xFFFFFFFF },
  { base := Reg.hciAdminSqHi, count := 1, stride := 4, dom := 1, reset := 0x0, rw := 0xFFFFFFFF },
  { base := Reg.hciAdminCqLo, count := 1, stride := 4, dom := 1, reset := 0x0, rw := 0xFFFFFFFF },
  { base := Reg.hciAdminCqHi, count := 1, stride := 4, dom := 1, reset := 0x0, rw := 0xFFFFFFFF },
  { base := Reg.hciAdminCfg, count := 1, stride := 4, dom := 1, reset := 0x0, rw := 0x3FF },
  { base := Reg.hciQerr, count := 1, stride := 4, dom := 1, reset := 0x0, w1c := 0x80000000, ro := 0x77F },
  { base := Reg.hciStat0, count := 1, stride := 4, dom := 1, reset := 0x0, rc := 0xFFFFFFFF },
  { base := Reg.hciStat1, count := 1, stride := 4, dom := 1, reset := 0x0, rc := 0xFFFFFFFF },
  { base := Reg.hciStat2, count := 1, stride := 4, dom := 1, reset := 0x0, rc := 0xFFFFFFFF },
  { base := Reg.hciQBaseLo, count := 128, stride := 32, dom := 1, reset := 0x0, ro := 0xFFFFFFFF },
  { base := Reg.hciQBaseHi, count := 128, stride := 32, dom := 1, reset := 0x0, ro := 0xFFFFFFFF },
  { base := Reg.hciQBufLo, count := 128, stride := 32, dom := 1, reset := 0x0, ro := 0xFFFFFFFF },
  { base := Reg.hciQBufHi, count := 128, stride := 32, dom := 1, reset := 0x0, ro := 0xFFFFFFFF },
  { base := Reg.hciQCfg, count := 128, stride := 32, dom := 1, reset := 0x0, ro := 0xFFFFFCF1 },
  { base := Reg.hciQHead, count := 128, stride := 32, dom := 1, reset := 0x0, ro := 0xFFF },
  { base := Reg.hciQTail, count := 128, stride := 32, dom := 1, reset := 0x0, ro := 0xFFF } ]

/-- Registers of the CSP block. -/
def rowsCsp : List RegRow := [
  { base := Reg.cspMClk, count := 1, stride := 4, dom := 28, reset := 0x10, rw := 0xFF },
  { base := Reg.cspMSelTim, count := 2, stride := 4, dom := 28, reset := 0x140404, rw := 0xFFFFFF },
  { base := Reg.cspMRdy, count := 1, stride := 4, dom := 28, reset := 0x3E8, rw := 0xFFFF },
  { base := Reg.cspMFmt, count := 8, stride := 4, dom := 28, reset := 0x0, rw := 0x3FFFFFF },
  { base := Reg.cspMCmd, count := 1, stride := 4, dom := 28, reset := 0x0, rw := 0xFFFF001F, wo := 0x60 },
  { base := Reg.cspMAddr, count := 1, stride := 4, dom := 28, reset := 0x0, rw := 0xFFFFFFFF },
  { base := Reg.cspMAlt, count := 1, stride := 4, dom := 28, reset := 0x0, rw := 0xFFFFFFFF },
  { base := Reg.cspMMem, count := 1, stride := 4, dom := 28, reset := 0x0, rw := 0xFFFFFFFF },
  { base := Reg.cspMLen, count := 1, stride := 4, dom := 28, reset := 0x0, rw := 0x1FFFFF },
  { base := Reg.cspMStatus, count := 1, stride := 4, dom := 28, reset := 0x0, ro := 0x1FFFFF0F },
  { base := Reg.cspSErr, count := 1, stride := 4, dom := 28, reset := 0x0, w1c := 0x80000000, ro := 0x3FFFFF07 },
  { base := Reg.cspSStat0, count := 1, stride := 4, dom := 28, reset := 0x0, rc := 0xFFFFFFFF },
  { base := Reg.cspSStat1, count := 1, stride := 4, dom := 28, reset := 0x0, rc := 0xFFFF },
  { base := Reg.cspMStat, count := 1, stride := 4, dom := 28, reset := 0x0, rc := 0xFFFFFFFF } ]

/-- Registers of the EVR block. -/
def rowsEvr : List RegRow := [
  { base := Reg.evrStorm, count := 1, stride := 4, dom := 1, reset := 0x6400040, rw := 0xFFFF007F },
  { base := Reg.evrArmResult, count := 1, stride := 4, dom := 1, reset := 0x0, w1c := 0x80000000, ro := 0x3F3F07 },
  { base := Reg.evrGpioOut, count := 1, stride := 4, dom := 1, reset := 0x0, rw := 0xFFFFFFFF },
  { base := Reg.evrGpioOe, count := 1, stride := 4, dom := 1, reset := 0x0, rw := 0xFFFFFFFF },
  { base := Reg.evrGpioIn, count := 1, stride := 4, dom := 1, reset := 0x0, ro := 0xFFFFFFFF },
  { base := Reg.evrGpioPulldis, count := 1, stride := 4, dom := 1, reset := 0x0, rw := 0xFFFFFFFF },
  { base := Reg.evrGpioEvt, count := 2, stride := 4, dom := 1, reset := 0x0, rw := 0xFFFFFFFF },
  { base := Reg.evrGpioAct, count := 2, stride := 4, dom := 1, reset := 0x0, rw := 0xFFFFFFFF },
  { base := Reg.evrGpioPulse, count := 1, stride := 4, dom := 1, reset := 0x0, rw := 0xFFFFFF },
  { base := Reg.evrFemcAct, count := 1, stride := 4, dom := 1, reset := 0x0, rw := 0xFFFFFFFF },
  { base := Reg.evrEcCfg, count := 64, stride := 8, dom := 1, reset := 0x0, rw := 0xFF1FFFFF },
  { base := Reg.evrEcStat, count := 64, stride := 8, dom := 1, reset := 0x0, w1c := 0x10000, rc := 0xFFFF },
  { base := Reg.evrLuCfg, count := 32, stride := 4, dom := 1, reset := 0x0, rw := 0xFFFF03FF },
  { base := Reg.evrLuQ, count := 1, stride := 4, dom := 1, reset := 0x0, ro := 0xFFFFFFFF },
  { base := Reg.evrTmrDelay, count := 8, stride := 8, dom := 1, reset := 0x1, rw := 0xFFFFFFFF },
  { base := Reg.evrTmrCtrl, count := 8, stride := 8, dom := 1, reset := 0x0, wo := 0xC, rw := 0x2, ro := 0x1 },
  { base := Reg.evrCapLo, count := 8, stride := 8, dom := 1, reset := 0x0, ro := 0xFFFFFFFF },
  { base := Reg.evrCapHi, count := 8, stride := 8, dom := 1, reset := 0x0, ro := 0xFFFFFFFF },
  { base := Reg.evrTaskMode, count := 8, stride := 4, dom := 1, reset := 0x0, rw := 0xFFFFFFFF },
  { base := Reg.evrTaskMerged, count := 8, stride := 4, dom := 1, reset := 0x0, w1c := 0xFFFFFFFF },
  { base := Reg.evrTaskOvr, count := 8, stride := 4, dom := 1, reset := 0x0, w1c := 0xFFFFFFFF } ]

/-- Registers of the IRQ block. -/
def rowsIrq : List RegRow := [
  { base := Reg.irqCfg, count := 256, stride := 4, dom := 1, reset := 0x0, rw := 0xC00F3F0F },
  { base := Reg.irqPend, count := 8, stride := 4, dom := 1, reset := 0x0, w1c := 0xFFFFFFFF },
  { base := Reg.irqSgi, count := 1, stride := 4, dom := 1, reset := 0x0, wo := 0xFFFFFFFF },
  { base := Reg.irqThresh, count := 8, stride := 4, dom := 1, reset := 0x0, rw := 0xF },
  { base := Reg.irqClaimR, count := 8, stride := 4, dom := 1, reset := 0x0, ro := 0x800000FF } ]

/-- Registers of the KEY block. -/
def rowsKey : List RegRow := [
  { base := Reg.keyCmd, count := 1, stride := 4, dom := 25, reset := 0x0, wo := 0x1FF100F },
  { base := Reg.keyArg, count := 1, stride := 4, dom := 25, reset := 0x0, rw := 0x3F01FF7F },
  { base := Reg.keyStatus, count := 1, stride := 4, dom := 25, reset := 0x0, ro := 0xFFFF0001 },
  { base := Reg.keyMask, count := 1, stride := 4, dom := 25, reset := 0x4, rw := 0x7F },
  { base := Reg.keyPool, count := 1, stride := 4, dom := 25, reset := 0x1000100, rw := 0x3FF01FF },
  { base := Reg.keyBlobCfg, count := 1, stride := 4, dom := 25, reset := 0x0, w1s := 0x80000000, rwl := 0x1FF0001 },
  { base := Reg.keyData, count := 12, stride := 4, dom := 25, reset := 0x0, rw := 0xFFFFFFFF },
  { base := Reg.keyStat0, count := 1, stride := 4, dom := 25, reset := 0x0, rc := 0xFFFFFFFF },
  { base := Reg.keyStat1, count := 1, stride := 4, dom := 25, reset := 0x0, rc := 0xFFFFFFFF },
  { base := Reg.keySlotAttr, count := 512, stride := 4, dom := 25, reset := 0x0, ro := 0xBC007FFF, w1s := 0x40000000, rw := 0x3F0000 } ]

/-- Registers of the CPH block. -/
def rowsCph : List RegRow := [
  { base := Reg.cphCfg, count := 1, stride := 4, dom := 24, reset := 0x3E8, rw := 0xFFFF },
  { base := Reg.cphNsWindow, count := 1, stride := 4, dom := 24, reset := 0x0, rw := 0x3FF01FF },
  { base := Reg.cphDone, count := 1, stride := 4, dom := 24, reset := 0x0, w1c := 0xFF },
  { base := Reg.cphQstat, count := 1, stride := 4, dom := 24, reset := 0x0, ro := 0x1F1FFDFF },
  { base := Reg.cphSubmitR, count := 1, stride := 4, dom := 24, reset := 0x0, wo := 0xFFFFFFE0 },
  { base := Reg.cphEng, count := 2, stride := 4, dom := 24, reset := 0x0, ro := 0xFFFFFFFF },
  { base := Reg.cphStat0, count := 1, stride := 4, dom := 24, reset := 0x0, rc := 0xFFFFFFFF },
  { base := Reg.cphStat1, count := 1, stride := 4, dom := 24, reset := 0x0, rc := 0xFFFFFFFF },
  { base := Reg.cphStat2, count := 1, stride := 4, dom := 24, reset := 0x0, rc := 0xFFFFFFFF } ]

/-- Registers of the ERR block. -/
def rowsErr : List RegRow := [
  { base := Reg.errThresh, count := 1, stride := 4, dom := 0, reset := 0x3E80008, rw := 0xFFFF00FF },
  { base := Reg.errLastTrans, count := 1, stride := 4, dom := 0, reset := 0x0, ro := 0xFFFFFFFF },
  { base := Reg.errLastPerm, count := 1, stride := 4, dom := 0, reset := 0x0, ro := 0xFFFFFFFF },
  { base := Reg.errFaultAddr, count := 1, stride := 4, dom := 0, reset := 0x0, ro := 0xFFFFFFFF },
  { base := Reg.errSpare, count := 1, stride := 4, dom := 0, reset := 0x0, ro := 0x73F3FFF },
  { base := Reg.errGhost, count := 1, stride := 4, dom := 0, reset := 0x0, w1c := 0x80000000, ro := 0x1F03 },
  { base := Reg.errGhostAddr, count := 1, stride := 4, dom := 0, reset := 0x0, ro := 0x1FFFFFF },
  { base := Reg.errDecode, count := 1, stride := 4, dom := 0, reset := 0x0, w1c := 0x80000000, ro := 0xF03 },
  { base := Reg.errDecodeAddr, count := 1, stride := 4, dom := 0, reset := 0x0, ro := 0xFFFFFFFF },
  { base := Reg.errRsvdWrite, count := 1, stride := 4, dom := 0, reset := 0x0, w1c := 0x80000000, ro := 0xF01 },
  { base := Reg.errRsvdAddr, count := 1, stride := 4, dom := 0, reset := 0x0, ro := 0xFFFFFFFF },
  { base := Reg.errStat0, count := 1, stride := 4, dom := 0, reset := 0x0, rc := 0xFFFFFFFF },
  { base := Reg.errStat1, count := 1, stride := 4, dom := 0, reset := 0x0, rc := 0xFFFFFFFF },
  { base := Reg.errStat2, count := 1, stride := 4, dom := 0, reset := 0x0, rc := 0xFFFFFFFF },
  { base := Reg.errStat3, count := 1, stride := 4, dom := 0, reset := 0x0, rc := 0xFFFF } ]

/-- Registers of the OTP block. -/
def rowsOtp : List RegRow := [
  { base := Reg.otpLcStatus, count := 1, stride := 4, dom := 1, reset := 0x10000, ro := 0xFF0377 },
  { base := Reg.otpLcCmd, count := 1, stride := 4, dom := 1, reset := 0x0, wo := 0xFFFF0107 } ]

/-- Registers of the COEX block. -/
def rowsCoex : List RegRow := [
  { base := Reg.coexCfg, count := 1, stride := 4, dom := 1, reset := 0x1420, rw := 0xFF77 },
  { base := Reg.coexStatus, count := 1, stride := 4, dom := 1, reset := 0x0, ro := 0x1F },
  { base := Reg.coexStat0, count := 1, stride := 4, dom := 1, reset := 0x0, rc := 0xFFFFFFFF },
  { base := Reg.coexStat1, count := 1, stride := 4, dom := 1, reset := 0x0, rc := 0xFFFFFFFF } ]

/-- Registers of the TMB block. -/
def rowsTmb : List RegRow := [
  { base := Reg.tmbLo, count := 1, stride := 4, dom := 0, reset := 0x0, ro := 0xFFFFFFFF },
  { base := Reg.tmbHi, count := 1, stride := 4, dom := 0, reset := 0x0, ro := 0xFFFFFFFF } ]

/-- The rows of control block number `b`, in the order of Table 01.7. -/
def blockRows : Nat → List RegRow
  | 0 => rowsSys
  | 1 => rowsPwr
  | 2 => rowsClk
  | 3 => rowsRfs
  | 4 => rowsRxw
  | 5 => rowsTxp
  | 6 => rowsReg
  | 7 => rowsLnk
  | 8 => rowsNdt
  | 9 => rowsFed
  | 10 => rowsHci
  | 11 => rowsCsp
  | 12 => rowsEvr
  | 13 => rowsIrq
  | 14 => rowsKey
  | 15 => rowsCph
  | 16 => rowsErr
  | 17 => rowsOtp
  | 18 => rowsCoex
  | 19 => rowsTmb
  | _ => []

/-- Default pulse tables 0 to 2 of Table 07.10, two signed coefficients a word (R161, R162). -/
def shapeDefault : List Nat := [
  0x09640324, 0x15900F8D, 0x20E71B5D, 0x2AFB2620, 0x33682F6C, 0x39DB36E5, 0x3E153C42, 0x3FEC3F4F,
  0x3F4F3FEC, 0x3C423E15, 0x36E539DB, 0x2F6C3368, 0x26202AFB, 0x1B5D20E7, 0x0F8D1590, 0x03240964,
  0x00000000, 0x00000000, 0x00000000, 0x00000000, 0x00000000, 0x00000000, 0x00000000, 0x00000000,
  0x00000000, 0x00000000, 0x00000000, 0x00000000, 0x00000000, 0x00000000, 0x00000000, 0x00000000,
  0x00000000, 0x00000000, 0x00000000, 0x00010000, 0x00040002, 0x0014000A, 0x00480027, 0x00CF007D,
  0x01DC0143, 0x036E0299, 0x05100448, 0x05F905A8, 0x05A805FB, 0x04480510, 0x0299036E, 0x014301DC,
  0x007D00CF, 0x00270048, 0x000A0014, 0x00020004, 0x00000001, 0x00000000, 0x00000000, 0x00000000,
  0x00000000, 0x00000000, 0x00000000, 0x00000000, 0x00000000, 0x00000000, 0x00000000, 0x00000000,
  0x0027000A, 0x009D0059, 0x016100F6, 0x027001DF, 0x03C70313, 0x0565048D, 0x0743064C, 0x095F084A,
  0x0BB30A83, 0x0E390CF0, 0x10EA0F8C, 0x13C11251, 0x16B61538, 0x19C2183A, 0x1CDD1B4E, 0x20001E6E,
  0x23232192, 0x263E24B2, 0x294A27C6, 0x2C3F2AC8, 0x2F162DAF, 0x31C73074, 0x344D3310, 0x36A1357D,
  0x38BD37B6, 0x3A9B39B4, 0x3C393B73, 0x3D903CED, 0x3E9F3E21, 0x3F633F0A, 0x3FD93FA7, 0x40003FF6 ]

/-- Reset values of LNK_TSCH_TMPL0–3 (R209). -/
def tmplReset : List Nat := [
  0x08980848, 0x03E80320, 0x09600190, 0x271010A0 ]

/-- Reset values of the first four words of LNK_TSCH_HOP (R208). -/
def hopReset : List Nat := [
  0x12171110, 0x16190F1A, 0x0D0C0B13, 0x15140E18 ]

/-- Element index of address `a` in row `r`, if `a` is one of its words. -/
def RegRow.index (r : RegRow) (a : Nat) : Option Nat :=
  if r.base ≤ a ∧ (a - r.base) % r.stride = 0 ∧ (a - r.base) / r.stride < r.count then
    some ((a - r.base) / r.stride)
  else none

/-- First row of a list that holds address `a`, with the element index. -/
def findRow (a : Nat) : List RegRow → Option (RegRow × Nat)
  | [] => none
  | r :: rs => match r.index a with
    | some i => some (r, i)
    | none => findRow a rs

/-- The register at device address `a`. -/
def regAt (a : Nat) : Option (RegRow × Nat) :=
  if 0x20000000 ≤ a ∧ a < 0x20140000 then findRow a (blockRows ((a - 0x20000000) / 0x10000)) else none

/-- Reset value of HCI_Qn_CFG: the roles of Table 01.3 (R13, R296). -/
def qcfgReset (n : Nat) : Nat :=
  if n = 0 then 0x10 else if n = 1 then 0x20
  else if n < 32 then 0x10 else if n < 64 then 0x20 else if n < 96 then 0x30
  else if n < 120 then 0x41 else 0

/-- Reset value of IRQ_CFGn (R373). -/
def irqCfgReset (n : Nat) : Nat :=
  if 64 ≤ n ∧ n < 128 then 0xC00F0001 else if 136 ≤ n ∧ n < 144 then 0x800F0009 else 0

/-- Reset value of element `i` of row `r`: the row's, or the table a rule gives for the array. -/
def rowReset (r : RegRow) (i : Nat) : Nat :=
  if r.base = Reg.hciQCfg then qcfgReset i
  else if r.base = Reg.irqCfg then irqCfgReset i
  else if r.base = Reg.cspMFmt then (if i = 0 then 0x02000061 else 0)
  else if r.base = Reg.lnkTschTmpl then tmplReset.getD i 0
  else if r.base = Reg.lnkTschHop then hopReset.getD i 0
  else if r.base = Reg.txpShape0T ∨ r.base = Reg.txpShape1T ∨ r.base = Reg.txpShape2T
      ∨ r.base = Reg.txpShape3T then shapeDefault.getD i 0
  else r.reset

/-- What register address `a` holds after its domain is reset; 0 where no register stands. -/
def regReset (a : Nat) : Word :=
  match regAt a with
  | some (r, i) => BitVec.ofNat 32 (rowReset r i)
  | none => 0

end Sys2Proof.Machine
end

