-- ==== Sys2Proof/Machine/State.lean ====
section
/-! DEFINITION. The state of the ZNC1024 as plain data: the queue of waiting commands, the register store,
the memories, and the state of each block that the manual gives and no register holds. Registers are
one sparse store over the reset values of Sys2Proof/Machine/RegMap.lean. -/

namespace Sys2Proof.Machine

open Sys2Proof

/-! Always-on controller: domains, watch sequencer, wake logic (Power domains, votes and watch mode). -/

/-- States of a power domain (R65). -/
inductive DomainState where
  | off
  | poweringUp
  | on
  | draining
  | isolating
  | switchingOff
  | ret
  deriving DecidableEq, Repr

/-- The pending slot of a domain (R63, R65). -/
inductive PendingSlot where
  | none
  | up
  | down
  deriving DecidableEq, Repr

/-- One power domain D0–D31 (R62, R63, R65, R66). -/
structure Domain where
  st : DomainState := .off
  pend : PendingSlot := .none
  /-- An UP request waits for a rail (R62). -/
  supplyWait : Bool := false
  /-- The tally of the domain when PWR last evaluated it. -/
  tally : Bool := false
  /-- In POWERING_UP: the switch-on has started (R57). -/
  started : Bool := false
  /-- In POWERING_UP: the domain comes up from RET and not from OFF. -/
  fromRet : Bool := false
  /-- The voter recorded for the pending UP (R62). -/
  upBy : Nat := 0x3F
  /-- Pad banks latched in the power-down that is under way (R33, R69). -/
  latched : List Nat := []
  deriving DecidableEq, Repr

/-- Always-on controller state beyond its registers (R56–R84). -/
structure Pwr where
  /-- D0 to D31. -/
  doms : List Domain
  /-- TMB of the last staggered switch-on (R57). -/
  inrush : Option Nat := none
  /-- V14 votes D29 for the fallback address (R76). -/
  fallback : Bool := false
  /-- The 64-bit wake compare is armed (R77). -/
  compareArmed : Bool := false
  /-- The chain domain that V14 votes for the watch sequencer, D11 or D15 (R79). -/
  watchVote : Option Nat := none
  /-- PWR_WATCH_CTRL and PWR_WATCH_CH0–3 as the current wake took them (R78). -/
  watchCfg : List Word := []
  /-- Consecutive watch wakes with a hit (R83). -/
  hits : Nat := 0
  /-- Levels of WAKE0–WAKE3 as last seen by D0 (R73). -/
  wakeLevels : List Bool := [false, false, false, false]
  /-- A wake cause brought D2 up from OFF: C0 makes a wake start (R75). -/
  wakeStart : Bool := false
  /-- TMB at which a TX chain last left LEAD, ON_AIR and RAMP_DOWN, by chain: the wake-up receiver has discarded what came
  before (R160). -/
  txEnd : List (Nat × Nat) := []
  /-- Votes of hardware clients that a write of PWR_VOTE_Vn has withdrawn although the block still asks for them: client
  and bits (R61). -/
  muted : List (Nat × Nat) := []
  deriving DecidableEq, Repr

/-- The step an operating-point move is in (R70, R72). -/
inductive OpStep where
  | idle
  | ramp (toMv : Nat)
  | relock (toOp : Nat)
  deriving DecidableEq, Repr

/-- Core-cluster rail and PLL (R70). -/
structure Cluster where
  /-- LDO output in mV; 0 while off. -/
  mv : Nat := 650
  /-- Operating point whose frequency the PLL gives. -/
  freq : Nat := 1
  /-- The cores run from the 200 MHz bypass clock. -/
  bypass : Bool := false
  step : OpStep := .idle
  deriving DecidableEq, Repr

/-! Pads (Package, ball map and strap pins). -/

/-- Output value, output enable and pull of a bank of at most 16 pads, one bit a pad (R33). -/
structure PadState where
  out : Nat
  oe : Nat
  pull : Nat
  deriving DecidableEq, Repr

/-- Pins and reset inputs that no register holds (R30–R35, R44). -/
structure Pins where
  /-- VDD_AON is at its good level (R31, R42). -/
  aonGood : Bool := true
  /-- PORST_N is low (R44). -/
  porstLow : Bool := true
  /-- SYSRST_N is low (R32). -/
  sysrstLow : Bool := false
  /-- PE_PERST_N is low, or the link is down (R44). -/
  pcieLinkUp : Bool := false
  /-- The strap input buffers are enabled (R35). -/
  strapBuffers : Bool := true
  /-- INT_N is driven low (R51). -/
  intN : Bool := false
  /-- Levels that the external radio gives the COEX balls: [0] REQ, [1] PRI, [2] GNT, [3] ACT (R113). -/
  coexIn : Nat := 0
  /-- INT_N is low for the 10 µs pulse of R52. -/
  intPulse : Bool := false
  /-- Held pad banks GPIO_A, GPIO_B, CSPM, CSPS, COEX, FEMC, SYSIO: the latched states (R33). -/
  held : List (Option PadState) := List.replicate 7 none
  /-- Link state of the two 10GBASE-R ports. -/
  ethUp : List Bool := [false, false]
  /-- Domains without a pad bank that have been on since the last reset: their balls have left the reset state (R30). -/
  used : List Nat := []
  /-- Levels of GPIO0–GPIO31 behind the synchronizer (R357, R359). -/
  gpioIn : Nat := 0
  deriving DecidableEq, Repr

/-! Boot (Supplies, reset and start-up). -/

/-- Where the boot ROM stands (Table 03.8). -/
inductive BootPhase where
  /-- No boot runs: reset is held, or the device is in production test mode (R38). -/
  | idle
  /-- Steps 1 and 2: D1 and D2 come up, the rails are checked. -/
  | supplies
  /-- Step 3: a life-cycle transition is resumed (R55). -/
  | lcResume
  /-- Step 3, while NV_OK is 0: rechecks made so far (R55). -/
  | lowSupply (checks : Nat)
  /-- Step 4: packet buffer self-test. -/
  | packetTest
  /-- Step 5: header of slot 1 (A) or 2 (B) is read. -/
  | header (slot : Nat)
  /-- Step 6: image of the slot is read. -/
  | image (slot : Nat)
  /-- BOOT_SEL 1 or 2: waiting for the host image. -/
  | waitHost
  /-- BOOT_SEL 3: waiting for a peer image. -/
  | waitPeer
  /-- Step 8: sections are copied. -/
  | copying
  /-- Steps 8 and 9: sections are in place, the self-test may still run. -/
  | copied
  /-- Step 10 passed: firmware runs. -/
  | entered
  /-- Halted with a code of Table 03.11; only a reset ends it (R51). -/
  | halted
  /-- Production test mode (R38). -/
  | testMode
  deriving DecidableEq, Repr

/-- Boot state beyond SYS_BOOT_STATUS (R48–R55). -/
structure Boot where
  phase : BootPhase := .idle
  /-- A boot after a power-on reset (R44). -/
  cold : Bool := true
  /-- A wake start (R75). -/
  wake : Bool := false
  /-- Background self-test complete (step 9). -/
  selfTested : Bool := false
  /-- Failed host or peer images (R52). -/
  failed : Nat := 0
  /-- ENTRY of the accepted image. -/
  entry : Nat := 0
  /-- Length of the accepted image. -/
  imageLength : Nat := 0
  /-- Image octets received from a peer (R283). -/
  peerImage : List Byte := []
  /-- Peer whose answers the ROM takes (R283). -/
  peerFrom : Option Nat := none
  /-- SVN of the accepted image. -/
  svn : Nat := 0
  /-- Stage of the start-up calibration that runs, 1–6; 0 none, 7 complete (R54). -/
  calStage : Nat := 0
  deriving DecidableEq, Repr

/-! Event router and interrupt controller. -/

/-- One logic cell LUn (R366, R367). -/
structure LogicCell where
  q : Bool := false
  count : Nat := 0
  /-- The hold-off runs (HOLDOFF mode). -/
  hold : Bool := false
  /-- TMB at which the hold-off runs out. -/
  holdEnd : Nat := 0
  deriving DecidableEq, Repr

/-- What the storm limiter keeps of one channel (R368, R369). -/
structure ChannelLog where
  /-- Cycles of the last passed events, newest first. -/
  passed : List Nat := []
  /-- TMB of the last disarm by the limiter. -/
  trippedAt : Option Nat := none
  /-- TMB of the last re-arm by a Tempo owner. -/
  rearmedAt : Option Nat := none
  /-- Stays disarmed until the secure monitor re-arms it (R369). -/
  barred : Bool := false
  deriving DecidableEq, Repr

/-- Event router state beyond its registers (R356–R371). -/
structure Evr where
  /-- Cycles of the 400 MHz fabric clock, as far as the router has advanced. -/
  cycle : Nat := 0
  /-- Events raised for the next cycle and not yet routed. -/
  inFlight : List Nat := []
  cells : List LogicCell := List.replicate 32 {}
  /-- Channel histories, by channel. -/
  logs : List (Nat × ChannelLog) := []
  /-- Pending events of busy task inputs: task and count (R370). -/
  taskPend : List (Nat × Nat) := []
  /-- Pulses that run: line (0–31 GPIO, 32–47 FEMC) and end TMB (R359). -/
  pulses : List (Nat × Nat) := []
  /-- Expiry TMB of running event timers (R360). -/
  expiry : List (Nat × Nat) := []
  /-- MSI-X messages of pending host interrupts that wait for D26 or MSI-X (R374). -/
  deferred : List Nat := []
  deriving DecidableEq, Repr

/-! Fault tracker and sparing map (Parity, replay, fault retirement and result guarantees). -/

/-- One entry of the transient tracker (R422). -/
structure Track where
  res : Nat
  count : Nat
  first : Nat
  deriving DecidableEq, Repr

/-- One entry of the sparing map (R425): a resource of Table 19.2 and the spare that serves it. -/
structure Spare where
  res : Nat
  /-- Spare row or spare queue number. -/
  spare : Nat
  /-- The remap has completed (R424). -/
  done : Bool
  deriving DecidableEq, Repr

/-- Error recorder state beyond its registers (R419–R432). -/
structure Err where
  tracker : List Track := []
  sparing : List Spare := []
  /-- Rows and queues judged permanent whose retirement has not been carried out (R424). -/
  waiting : List Nat := []
  deriving DecidableEq, Repr

/-! Records of D0 for blocks outside it. -/

/-- The transmit gate (R268). -/
structure TxGate where
  isOpen : Bool := false
  /-- An epoch that includes the member has been applied since the last system reset. -/
  byEpoch : Bool := false
  deriving DecidableEq, Repr

/-- Tempo retirement record (R201, R426). -/
structure PairRecord where
  /-- Retired pairs TP0–TP4. -/
  retired : List Nat := []
  /-- The pair that TP4 serves for; 7 none. -/
  replaces : Nat := 7
  deriving DecidableEq, Repr

/-! Doldon cores (Doldon cores and instruction set). -/

/-- Whether a core executes (R336); OFF follows from its domain. -/
inductive CoreRun where
  | held
  | run
  | wait
  | stopped
  deriving DecidableEq, Repr

/-- A core access through the auto-vote alias that waits for its domain (R25). -/
structure AliasWait where
  /-- Control-space address the alias names. -/
  addr : Nat
  dom : Nat
  deriving DecidableEq, Repr

/-- One Doldon core Cn (R337, R349, R352). -/
structure Core where
  d : List Word := List.replicate 32 0
  /-- Accumulators a0–a3: guard bits [71:64], value [63:0]. -/
  acc : List (BitVec 72) := List.replicate 4 0
  /-- Byte pointers px0–px3, 17 bits. -/
  px : List Nat := List.replicate 4 0
  py : List Nat := List.replicate 4 0
  /-- Predicates q0–q7; q0 always reads 1. -/
  q : List Bool := true :: List.replicate 7 false
  lcnt : List Nat := [0, 0]
  status : Word := 2
  trapStatus : Word := 0
  trapPc : Nat := 0
  trapCause : Nat := 0
  trapInst : Word := 0
  trapSlot : Word := 0
  trapAddr : Word := 0
  vbaseS : Nat := 0
  vbaseNS : Nat := 0
  /-- Return stack, newest first, at most 16 entries (R349). -/
  rs : List Nat := []
  /-- CYCLE_LO and CYCLE_HI: core clocks since core reset. -/
  cycle : Nat := 0
  /-- CYCLE_HI latched by a read of CYCLE_LO (R8). -/
  cycleLatch : Option Nat := none
  pc : Nat := 0
  run : CoreRun := .held
  /-- PC reported in SYS_CORE_STATUSn in STATE 4. -/
  stopPc : Nat := 0
  /-- TRAPCAUSE of the last trap taken, as SYS_CORE_STATUSn keeps it. -/
  lastCause : Nat := 0
  stalled : Option AliasWait := none
  /-- C0 runs the boot ROM and not firmware. -/
  rom : Bool := false
  /-- A repeated bundle stands between two of its iterations (R348). -/
  iter : Bool := false
  /-- Stores to the core's own instruction memory that its fetch may not see yet: address of the bundle, and the bytes as
  they were (R347). -/
  unseen : List (Nat × List (Nat × Byte)) := []
  deriving DecidableEq, Repr

/-! Wideband receiver (Full-band receive: channelizer, gain, detection, lanes and forks). -/

/-- Where a demodulation lane stands (R126–R130, R14). -/
inductive LanePhase where
  | free
  /-- Allocated, before its freeze point. -/
  | sync
  /-- Past its freeze point. -/
  | decode
  /-- Frame complete, the Tempo input FIFO is full (R14). -/
  | stalled
  deriving DecidableEq, Repr

/-- A lane completion, posted to a Tempo input FIFO (R14). -/
structure Completion where
  /-- Receive staging buffer that holds record and PSDU. -/
  buf : Nat
  lane : Nat
  rxseq : Nat
  sub : Bool
  chan : Nat
  phy : Nat
  /-- PSDU octets, FCS included. -/
  len : Nat
  /-- TMB of the end of the frame at the antenna port. -/
  endAt : Nat
  /-- RXSEQ of the other frame of a fork (R133). -/
  peer : Option Nat
  /-- Mode, coding, FCS type and whitening of the frame, for its acknowledgement (R146, R154). -/
  mode : Nat := 0
  fec : Bool := false
  fcs16 : Bool := false
  whiten : Bool := false
  deriving DecidableEq, Repr

/-- One demodulation lane L0–L95. -/
structure Lane where
  phase : LanePhase := .free
  chan : Nat := 0
  phy : Nat := 0
  rxseq : Nat := 0
  /-- TMB at which the detection claimed the lane. -/
  allocAt : Nat := 0
  /-- Highest per-antenna level of the frame, 0.5 dB steps above −128 dBm (L_A of R132). -/
  level : Nat := 0
  antMask : Nat := 0
  /-- Antennas dropped during the frame (R131). -/
  lost : Nat := 0
  forkOrigin : Bool := false
  forked : Bool := false
  switched : Bool := false
  castled : Bool := false
  castleCount : Nat := 0
  nfInvalid : Bool := false
  fec : Bool := false
  /-- RXSEQ of the other frame of a fork. -/
  peer : Nat := 0
  /-- Channel estimates and noise powers as the lane combines them, by antenna, and the weights (R129). -/
  h : List Cplx := []
  s2 : List Rat := []
  w : List Cplx := []
  /-- The weights were replaced by w' after a fork, and the lane decodes again from this TMB on (R134). -/
  rewound : Option Nat := none
  /-- TMB of the detection of the forking frame. -/
  forkAt : Nat := 0
  agcGain : Nat := 0
  rssi : List Nat := []
  phase0 : List Nat := []
  freqOff : Nat := 0
  /-- Receive staging buffer taken at the freeze point. -/
  buf : Nat := 0
  /-- TIMESTAMP and its fraction in 1/8 tick. -/
  ts : Nat := 0
  tsFrac : Nat := 0
  /-- PSDU octets given by the PHR; 0 before it. -/
  len : Nat := 0
  /-- FCS Type of the SUN-FSK PHR: true for the 16-bit FCS. -/
  fcs16 : Bool := false
  /-- Data Whitening of the SUN-FSK PHR. -/
  whiten : Bool := false
  deriving DecidableEq, Repr

/-- Noise-floor estimate of one channel and antenna, in mW (R136). -/
structure Noise where
  count : Nat
  sum : Rat
  e : Rat
  deriving DecidableEq, Repr

/-- Gain control of one RX chain beyond RXW_GAIN_STATUSn (R117–R119). -/
structure Gain where
  /-- A castling decided and not yet carried out: up, and n. -/
  castling : Option (Bool × Nat) := none
  /-- Step of a MANUAL castling that waits for it (R119, R120). -/
  manual : Option Nat := none
  /-- TMB of sample N of the last castling. -/
  lastN : Option Nat := none
  /-- TMB at which the chain last entered RECEIVE. -/
  since : Nat := 0
  deriving DecidableEq, Repr

/-- Wideband receiver state beyond its registers. -/
structure Rxw where
  lanes : List Lane := List.replicate 96 {}
  /-- Next RXSEQ (R126). -/
  rxseq : Nat := 0
  gains : List Gain := List.replicate 6 {}
  /-- Estimates by index m of RXW_NF24_m, and 64 + m of RXW_NFS_m. -/
  noise : List (Nat × Noise) := []
  /-- Channel settings still in force after a write, by register address (R124). -/
  oldCfg : List (Nat × Word) := []
  /-- SUN-FSK operating mode in force (R125). -/
  mode : Nat := 0
  /-- TMB at which a detection last claimed a lane, by channel key (R123). -/
  claims : List (Nat × Nat) := []
  /-- TMB until which a channel last had a lane, a declaration or a blanking, by channel key (R136). -/
  busyAt : List (Nat × Nat) := []
  /-- Channels blanked by the transmission of TX chain n (R17). -/
  txBlank : List (Nat × Nat) := []
  deriving DecidableEq, Repr

/-! Regulatory region and duty accounting (Transmit shaping, power control and regulatory locks). -/

/-- Regulatory lock state of D1 beyond the REG registers (R173–R177). -/
structure Region where
  /-- Sub-GHz band in effect: 0 for 863–876 MHz, 1 for 902–928 MHz (R125, R176). -/
  band : Nat := 0
  /-- Grid in effect on the 863–876 MHz band: 0 G200, 1 G400 (R144). -/
  grid : Nat := 0
  /-- Mirror words whose reload from OTP is under way (R175). -/
  reloading : List Nat := []
  /-- Words whose last reload left them invalid or missing (R175). -/
  bad : List Nat := []
  /-- A mirror load has run since the power-on reset. -/
  loaded : Bool := false
  deriving DecidableEq, Repr

/-- Duty history of one entry beyond its registers (R180, R181). -/
structure DutyEntry where
  /-- Buckets that hold units of 32 µs: second number and units. -/
  buckets : List (Nat × Nat) := []
  p0 : Nat := 0
  /-- Bucket advances since the preload, up to 3,600. -/
  k : Nat := 3600
  deriving DecidableEq, Repr

/-- Duty accountant of D0 (R180–R182). -/
structure Duty where
  entries : List DutyEntry := List.replicate 8 {}
  /-- Number of the current one-second bucket. -/
  second : Nat := 0
  /-- Dwell buckets: channel key (64 × band + channel), second number, units. -/
  dwell : List (Nat × Nat × Nat) := []
  /-- Held air time of each channel in µs, by channel key. -/
  dwellHeld : List (Nat × Nat) := []
  deriving DecidableEq, Repr

/-- One position of a REG region word: value row and complement row (R174). -/
structure Position where
  value : Nat
  compl : Nat
  deriving DecidableEq, Repr

/-- A REG_PROG operation in progress (R177). -/
structure ProgOp where
  /-- The operation is SEAL and not PROG. -/
  sealing : Bool
  word : Nat
  value : Nat
  /-- Position being programmed, 0 or 1. -/
  pos : Nat
  /-- Bits still to be programmed: 0–31 of the value row, 32–63 of the complement row. -/
  bits : List Nat
  deriving DecidableEq, Repr

/-! One-time programmable fuses, key store and life cycle (Key store, roots and life cycle). -/

/-- One key slot as two shares; the key is their exclusive-or (R377). -/
structure KeySlot where
  s0 : Nat
  s1 : Nat
  /-- Word 0 of the blob header of a node key: KIM and KEY_INDEX (Table 17.5). -/
  hdr : Nat := 0
  /-- Order of the last use, for the least recently used rule of R384. -/
  used : Nat := 0
  deriving DecidableEq, Repr

/-- A KEY_CMD operation that runs (R380). -/
structure KeyOp where
  op : Nat
  slot : Nat
  /-- RESULT at its end. -/
  result : Nat
  /-- What it leaves in KEY_DATA. -/
  out : List Byte
  /-- Fuse bits still to be programmed: fuse word and bit (PROG_KR). -/
  bits : List (Nat × Nat) := []
  deriving DecidableEq, Repr

/-- A node unwrap in progress (R384). -/
structure NodeUnwrap where
  node : Nat
  /-- Group 1 changed or the node was removed meanwhile: the result is discarded. -/
  stale : Bool := false
  deriving DecidableEq, Repr

/-- Key store state beyond its registers. -/
structure KeyStore where
  slots : List (Nat × KeySlot) := []
  /-- Counts uses, for the least recently used rule. -/
  clock : Nat := 0
  op : Option KeyOp := none
  unwraps : List NodeUnwrap := []
  /-- Unwraps that wait because every pool slot is named by a request (R384). -/
  pinned : List Nat := []
  /-- Pool slots whose zeroization waits until no request names them (R384). -/
  doomed : List Nat := []
  /-- MASK_PERIOD in force (R378). -/
  period : Nat := 4
  /-- TMB of the last blob notice of a node (R384). -/
  notices : List (Nat × Nat) := []
  /-- Hidden registers: the root of the current state, and the root blob key (R387). -/
  root : Option (List Byte) := none
  rootBlob : Option (List Byte) := none
  /-- LC_NONCE, 16 octets drawn at boot (R393). -/
  nonce : List Byte := List.replicate 16 0
  deriving DecidableEq, Repr

/-- A life-cycle transition that runs (R391). -/
structure LcRun where
  target : Nat
  source : Nat
  /-- Step of R391, 1 to 7. -/
  step : Nat
  /-- Journal entry. -/
  entry : Nat
  /-- Fuse bits of the step still to be programmed. -/
  bits : List (Nat × Nat) := []
  /-- The ROM resumes it at boot (R55). -/
  boot : Bool := false
  deriving DecidableEq, Repr

/-! Cipher engine array. -/

/-- Who makes a cipher request (R397). -/
inductive CipherFrom where
  | tempo (p : Nat)
  | forwarding
  | federation
  | core (n : Nat)
  deriving DecidableEq, Repr

/-- A cipher request (Table 18.1). -/
structure CipherReq where
  id : Nat
  origin : CipherFrom
  mode : Nat
  dec : Bool
  /-- 0 URGENT; 1 NORMAL; 2 BULK. -/
  cls : Nat
  notify : Bool := false
  byNode : Bool := false
  kslot : Nat := 0
  aLen : Nat := 0
  mLen : Nat := 0
  tagLen : Nat := 0
  nonceLen : Nat := 0
  src : Nat := 0
  dst : Nat := 0
  node : Nat := 0
  /-- Descriptor address; 0 for an internal requester. -/
  desc : Nat := 0
  /-- Fields an internal requester passes directly: nonce, a, m, tag. -/
  direct : Option (List Byte × List Byte × List Byte × List Byte) := none
  /-- TMB of the admission. -/
  admitted : Nat := 0
  /-- Waited BULK_AGE (R404). -/
  aged : Bool := false
  /-- Restarted after a retirement: ahead of its class (R410). -/
  restart : Bool := false
  /-- The slot it names was cleared, reloaded or evicted while it was queued (R381). -/
  keyGone : Bool := false
  deriving DecidableEq, Repr

/-- A request in an engine with the key it received (R381). -/
structure Running where
  req : CipherReq
  key : List Byte
  /-- The hold buffer of a suspended copy, and how many of its octets have reached DST (R407, R408). -/
  hold : List Byte := []
  copied : Nat := 0
  deriving DecidableEq, Repr

/-- One engine CEn: the running request and the suspended context (R396, R406). -/
structure Engine where
  run : Option Running := none
  susp : Option Running := none
  retired : Bool := false
  /-- Chosen for pre-emption: suspends at its next block boundary (R405). -/
  marked : Bool := false
  deriving DecidableEq, Repr

/-- Cipher array state beyond its registers. -/
structure Cipher where
  queue : List CipherReq := []
  engines : List Engine := List.replicate 24 {}
  nextId : Nat := 0
  /-- CPH_SUBMIT writes held on the interconnect: core and descriptor (R403). -/
  held : List CipherReq := []
  /-- Requests that wait at an internal requester, in order (R403, R409). -/
  waiting : List CipherReq := []
  /-- Results for internal requesters: request, status, output octets. -/
  results : List (Nat × Nat × List Byte) := []
  deriving DecidableEq, Repr

/-! Node table (Node table, neighbour state and mesh forwarding). -/

/-- A running NDT_CTRL operation (R251, R256). -/
inductive NdtOp where
  | adopt
  | clear
  deriving DecidableEq, Repr

/-- A ROUTE_DEL whose index entries are still to be cleared (R242): the remote entry, and the submission
queue and command identifier that its completion answers. -/
structure RouteDel where
  route : Nat
  sq : Nat
  cid : Nat
  deriving DecidableEq, Repr

/-- Node-table state beyond node memory and the NDT registers. -/
structure Ndt where
  /-- The 32-bit update counter of R240, in D22. -/
  seq : Nat := 0
  /-- D0's record that D22 has stayed ON or RET since it last came up from OFF (R251). -/
  warm : Bool := false
  /-- NDT_STATUS1.WARM_VALID: a system reset or wake start found the record set (R251). -/
  warmValid : Bool := false
  /-- The table is held (R251). -/
  held : Bool := false
  op : Option NdtOp := none
  dels : List RouteDel := []
  /-- Damaged slots that await rebuilding (R252). -/
  damaged : List Nat := []
  /-- Remote entries cleared by a row remap and not written again (R252). -/
  lostRoutes : List Nat := []
  /-- Rows of RTE or IDX whose rebuild runs (R252). -/
  rebuild : List Nat := []
  deriving DecidableEq, Repr

/-! Host interface (Host interface, queues and command packets). -/

/-- Where a fetched command stands (R301, R304). -/
inductive CmdStage where
  /-- Not started: earlier commands of its queue, a fence, or FW_READY hold it back. -/
  | queued
  /-- Waits for its domains to be ON. -/
  | waking
  /-- Started; a later event completes it. -/
  | running
  /-- Complete, with its status and results; its completion ring is full. -/
  | done (status : Nat) (results : List Nat)
  deriving DecidableEq, Repr

/-- A command that the sequencer has fetched and not completed. -/
structure HciCmd where
  id : Nat
  sq : Nat
  /-- The words of the submission entry, in the layout of Table 13.5. -/
  w : List Nat
  /-- Content of a data buffer in host memory. -/
  data : List Byte
  /-- SQ_HEAD of its completion. -/
  head : Nat
  /-- TMB of the fetch. -/
  fetched : Nat
  stage : CmdStage := .queued
  /-- Domains for which the sequencer holds a temporary V8 vote (R304). -/
  votes : List Nat := []
  /-- WAKE_US, once the command woke a domain. -/
  wakeUs : Option Nat := none
  /-- An interim completion has been posted (R301). -/
  interim : Bool := false
  /-- Fetched before an HCI reset, or its completion queue was deleted: no completion is written. -/
  mute : Bool := false
  /-- The parity fault that its reads meet: address and failing fetches (R421). -/
  fault : Option (Nat × Nat) := none
  deriving DecidableEq, Repr

/-- Host interface state beyond the HCI registers. -/
structure Hci where
  cmds : List HciCmd := []
  nextId : Nat := 0
  /-- Completion and receive queues on an odd pass through their ring: PHASE is 0 (R297). -/
  oddPass : List Nat := []
  /-- Queues of Q96–Q119 that the host has reclaimed (R311). -/
  reclaimed : List Nat := []
  /-- Submission queues being deleted, with the QUEUE_DELETE command that waits (R312). -/
  deleting : List (Nat × Nat) := []
  /-- Doorbells of LOC = 1 queues stored while D23 is off (R298). -/
  stored : List (Nat × Nat) := []
  /-- Host tag that the last HELLO carried (R314). -/
  hostTag : Nat := 0
  /-- Submission entries that lie in rings in host memory and have not been fetched: queue, words, data (R290). -/
  hostEntries : List (Nat × List Nat × List Byte) := []
  /-- Parity faults that submitted entries will meet: queue, ring index, address of the word, failing fetches. -/
  faults : List (Nat × Nat × Nat × Nat) := []
  /-- Submission queue that the sequencer fetched from last (R301). -/
  last : Nat := 0
  /-- Application firmware has opened Q116 (R305). -/
  appOpen : Bool := false
  deriving DecidableEq, Repr

/-! Clocked serial ports. -/

/-- A phase of a CSPM frame: its lanes, its edges, its octets in the order sent (R319). -/
structure CspmPhase where
  lanes : Nat := 1
  ddr : Bool := false
  octets : List Byte := []
  deriving DecidableEq, Repr

/-- A CSPM frame as its profile and its registers give it at START (R319–R323). -/
structure CspmFrame where
  /-- Select line that falls. -/
  sel : Nat := 0
  /-- Divider of the 400 MHz clock. -/
  div : Nat := 16
  /-- Fabric cycles from the select's fall to the first edge, from the last edge to its rise, and of select high. -/
  lead : Nat := 4
  lag : Nat := 4
  idle : Nat := 20
  cmd : CspmPhase := {}
  addr : CspmPhase := {}
  alt : CspmPhase := {}
  /-- Clock cycles without a driven data lane. -/
  dummy : Nat := 0
  data : CspmPhase := {}
  deriving DecidableEq, Repr

/-- A CSPM request that runs (R323). -/
structure CspmRun where
  /-- The frame, its data phase without octets yet. -/
  frame : CspmFrame := {}
  /-- Sent from memory; otherwise read from flash. -/
  send : Bool
  mem : Nat
  len : Nat
  rdyEn : Bool
  /-- The master holds CSPM_CLK low (R324). -/
  clkHeld : Bool
  /-- Why the frame stops early: 1 RDY_TIMEOUT, 4 ABORTED; 0 it does not. -/
  stop : Nat := 0
  deriving DecidableEq, Repr

/-- Serial port state beyond the CSP registers. -/
structure Csp where
  run : Option CspmRun := none
  /-- A CSPS WRITE that waits for its commit: ADDRESS and words (R330). -/
  commit : Option (Nat × List Nat) := none
  /-- How often the first word of the waiting WRITE fails its parity check on the way (R420). -/
  commitFails : Nat := 0
  /-- LAST_ERR of the next status byte (R332). -/
  lastErr : Nat := 0
  deriving DecidableEq, Repr
/-! Synthesizers, transmit chains and coexistence. -/

/-- Why a calibration runs on an LO (R90, R91, R93, R96, R97, R103). -/
inductive CalKind where
  /-- LO_A or LO_B locks without a usable entry. -/
  | band
  /-- RFS_CAL_CMD, OP 1, 2 or 5. -/
  | command
  /-- The start-up calibration (R54). -/
  | startup
  | background
  /-- The hop of a frame, or what is left of one after its frame missed its deadline. -/
  | hop
  deriving DecidableEq, Repr

/-- A full calibration that runs on an LO. -/
structure LoCal where
  /-- Channel; 0 for LO_A and LO_B. -/
  chan : Nat
  kind : CalKind
  deriving DecidableEq, Repr

/-- One local oscillator (R86): LO_A, LO_B, LO_T0–LO_T3. -/
structure Lo where
  /-- Channel on which it is locked; 0 for LO_A and LO_B. -/
  lock : Option Nat := none
  cal : Option LoCal := none
  /-- Calibrations that urgent frames stopped, oldest first: they restart when the chain is IDLE (R103). -/
  aborted : List LoCal := []
  /-- Channels that the running command still calibrates on it (R93). -/
  todo : List Nat := []
  /-- Channels that the running stage of the start-up calibration still calibrates on it (R54). -/
  startTodo : List Nat := []
  deriving DecidableEq, Repr

/-- A running RFS_CAL_CMD (R93). -/
structure CalCmd where
  op : Nat
  lo : Nat
  chan : Nat
  /-- RESULT at its end. -/
  result : Nat := 0
  /-- Stage of Table 03.13 that OP 5 runs; 0 for the other operations. -/
  stage : Nat := 0
  /-- Domains that V18 votes while it runs. -/
  doms : List Nat := []
  deriving DecidableEq, Repr

/-- Synthesizer and calibration state beyond the RFS registers. -/
structure Rfs where
  los : List Lo := List.replicate 6 {}
  cmd : Option CalCmd := none
  /-- The pending slot of RFS_CAL_CMD: OP, LO, CHANNEL. -/
  pend : Option (Nat × Nat × Nat) := none
  /-- TMB of the last use of the sub-GHz entries, by entry (R92). -/
  lastUse : List (Nat × Nat) := []
  /-- TX chains for which stage 6 runs alone (R105). -/
  stage6 : List Nat := []
  /-- TX chains that the running stage 6 measures. -/
  measured : List Nat := []
  deriving DecidableEq, Repr

/-- Where a transmit frame comes from (R186). -/
inductive TxOrigin where
  /-- A TX_FRAME command, by its number in the sequencer. -/
  | host (cmd : Nat)
  | relay
  /-- An acknowledgement of a receive pair. -/
  | ack (pair : Nat)
  /-- A Check pattern of R220. -/
  | check
  /-- A federation TRANSMIT, by the member that sent it. -/
  | transmit (src : Nat)
  deriving DecidableEq, Repr

/-- Where a transmit frame stands. -/
inductive TxStage where
  /-- Its MIC is requested: cipher request number. -/
  | cipher (req : Nat)
  /-- Held for a sleepy node (R218). -/
  | held
  /-- In a scheduled queue: sent in a slot or cell (R306). -/
  | slotted
  /-- Sent to the member that hears the node: waits for its RESULT (R20). -/
  | remote
  /-- In TP3's schedule, uncommitted. -/
  | scheduled
  | committed (chain : Nat)
  /-- Sent: the acknowledgement wait ends at a TMB. -/
  | ackWait (till : Nat)
  /-- Waits for its next attempt, not before a TMB. -/
  | retryWait (at' : Nat)
  deriving DecidableEq, Repr

/-- A frame that TP3 holds, schedules or has committed. -/
structure TxFrame where
  id : Nat
  origin : TxOrigin
  /-- Class of R186, 1 to 5. -/
  cls : Nat
  sub : Bool
  chan : Nat
  /-- 0 O-QPSK; 1 Blitz; 2 SUN-FSK; 3 Check pattern. -/
  phy : Nat
  mode : Nat := 0
  fec : Bool := false
  fcs16 : Bool := false
  whiten : Bool := false
  /-- The MAC frame without its FCS and MIC. -/
  mac : List Byte := []
  /-- The Blitz sync word taken at commit (R155). -/
  sync : Nat := 0
  /-- The MAC frame as secured, with its MIC. -/
  out : Option (List Byte) := none
  /-- The PSDU of a TRANSMIT, sent unchanged (R264). -/
  raw : Option (List Byte) := none
  /-- Address of a Check pattern. -/
  wake : Nat := 0
  /-- Fixed start, TMB of the first chip; 0 as soon as possible. -/
  start : Nat := 0
  /-- Planned first chip, once committed. -/
  plan : Nat := 0
  /-- Earliest first chip of a retry. -/
  earliest : Nat := 0
  queue : Nat := 0
  profile : Nat := 0
  /-- q_req in 0.25 dB units. -/
  power : Int := 0
  /-- CHAIN argument: 0 any; 1 chain 0; 2 chain 1 of the band. -/
  chainSel : Nat := 0
  ackReq : Bool := false
  /-- Slot of the node the frame is for: its key, held-frame rule and counters. -/
  node : Option Nat := none
  /-- NODE_ADDR of that slot when TP3 got the frame (R241). -/
  nodeAddr : Nat := 0
  retries : Nat := 0
  /-- RETRY_GAP in µs. -/
  gap : Nat := 0
  /-- Held for a node with SLEEPY = 1 (R218). -/
  sleepy : Bool := false
  /-- Attempts that failed, on air or refused. -/
  tries : Nat := 0
  /-- Attempts that reached the air. -/
  attempts : Nat := 0
  /-- The attempt under way has sent its first chip. -/
  onAir : Bool := false
  /-- TMB of the first chip of the last attempt. -/
  firstChip : Nat := 0
  /-- Frame counter used. -/
  fc : Option Nat := none
  /-- The frame is secured with its node's key before it is sent (R308, R246). -/
  secure : Bool := false
  /-- Source EUI-64 of the CCM* nonce (Table 18.3). -/
  nonceSrc : List Byte := []
  /-- ASN insertion offset (R210). -/
  asn : Option Nat := none
  /-- Reservation: duty entry and µs (R180). -/
  duty : Option (Option Nat × Nat) := none
  capped : Bool := false
  /-- Chain-ball target in 0.25 dB units (R168). -/
  q : Int := 0
  /-- Gain index G, once sampled (R105). -/
  g : Option Nat := none
  /-- Length in µs of the listen under way (R183). -/
  listen : Option Nat := none
  /-- Listens still permitted after a busy one. -/
  listens : Nat := 0
  /-- The PA was stopped early, with the status that follows. -/
  cut : Option Nat := none
  /-- An acknowledgement whose Frame Pending is 1 answers a contact (R218). -/
  pendingBit : Bool := false
  /-- Acknowledgement wait of a TSCH cell in µs, in place of T + D. -/
  cellWait : Option Nat := none
  /-- TMB before which an acknowledgement may not begin (RX_ACK_DELAY of R210). -/
  ackFrom : Nat := 0
  /-- Held back by a frame of an earlier class and counted in TX_DEFERRED (R186). -/
  deferred : Bool := false
  /-- Sent in a shared TSCH cell. -/
  cellShared : Bool := false
  /-- Chain domain for which V12 votes until the commit (R448). -/
  dom : Option Nat := none
  stage : TxStage
  deriving DecidableEq, Repr

/-- One TX chain beyond RFS_CHAIN_STATE. -/
structure TxChain where
  /-- The window before the current one of this frame was over limit (R170). -/
  near : Bool := false
  /-- TMB of the violations of the last second. -/
  strikes : List Nat := []
  /-- OWN, TXEN, IDLE and PAT in force while the chain is in LEAD, ON_AIR or RAMP_DOWN (R165). -/
  latch : Option (Nat × Nat × Nat × Nat) := none
  /-- SUN-FSK preamble octets of the frame in LEAD or later (R147). -/
  preamble : Nat := 8
  deriving DecidableEq, Repr

/-- TP3's schedule and the chains. -/
structure Tx where
  frames : List TxFrame := []
  nextId : Nat := 0
  /-- Input FIFO of TP3, oldest first: numbers of the frames handed to it that it has not taken. Beyond 64 entries they wait
  at their senders (R185). -/
  input : List Nat := []
  chains : List TxChain := List.replicate 4 {}
  deriving DecidableEq, Repr

/-- Coexistence unit beyond its registers (R108–R112). -/
structure Coex where
  /-- ROLE in force. -/
  role : Nat := 0
  /-- Client requests: frame number, or 2^32 + slot for a receive window, and whether COEX_PRI is high. -/
  reqs : List (Nat × Bool) := []
  /-- TMB and fabric cycle of the last rise of COEX_REQ as an input (R110). -/
  reqAt : Nat × Nat := (0, 0)
  deriving DecidableEq, Repr

/-! Tempo engines and sleepy nodes. -/

/-- A work item that waits for its S3 verify (R187, R190). -/
structure WorkItem where
  /-- Receive pair TP0–TP2 (TP4 acts in its place); 5 for the forwarding engine (R20). -/
  pair : Nat
  comp : Completion
  /-- Record and PSDU, for a visitor frame from another member. -/
  octets : List Byte := []
  /-- Member that sent a visitor frame. -/
  heardBy : Option Nat := none
  /-- Sender's slot and node address. -/
  slot : Nat
  node : Nat
  /-- Cipher request. -/
  req : Nat
  /-- An acknowledgement is planned (R189). -/
  ackPlanned : Bool
  /-- The item resumed in late mode (R200). -/
  late : Bool := false
  deriving DecidableEq, Repr

/-- The acknowledgement window that a forked frame keeps (R135). -/
structure AckWindow where
  rxseq : Nat
  /-- End of the frame and its lane. -/
  endAt : Nat
  lane : Nat
  start : Nat
  stop : Nat
  deriving DecidableEq, Repr

/-- What the comparator last wrote to the checkpoint of a pair (R199). -/
structure Checkpoint where
  /-- Head of the input FIFO. -/
  head : Option Completion := none
  /-- Last stage of Table 09.2 whose output was released; 0 at a work-item boundary. -/
  stage : Nat := 0
  /-- Slot-program cursors: entry and number of its next occurrence. -/
  slots : List (Nat × Nat) := []
  /-- TSCH cursor. -/
  asn : Nat := 0
  deriving DecidableEq, Repr

/-- Lockstep state of one pair beyond LNK_PAIR_STATUS (R199–R201). -/
structure Pair where
  check : Checkpoint := {}
  /-- TMB of the mismatches of the last 10 s, oldest first. -/
  mismatches : List Nat := []
  /-- The work item in progress resumes in late mode. -/
  late : Bool := false
  deriving DecidableEq, Repr

/-- Where a planned window of a node stands (R216, R217). -/
inductive WinPhase where
  | planned
  /-- Votes cast; not yet open. -/
  | lead
  | opened
  /-- Closed; votes held for lanes and pending transmissions (R217). -/
  | releasing
  deriving DecidableEq, Repr

/-- A receive window of a node (R216). -/
structure NodeWin where
  slot : Nat
  /-- Band and channel as the window was planned. -/
  sub : Bool
  chan : Nat
  /-- Centre E in ticks. -/
  e : Nat
  /-- Half-width in µs. -/
  h : Nat
  /-- Periods since the anchor. -/
  k : Nat
  /-- SCHED_PERIOD as the window was planned (R222). -/
  period : Nat
  /-- LNK_SLP_CFG to LNK_SLP_PEND as the window was planned (R228). -/
  cfg : List Word
  phase : WinPhase := .planned
  contacted : Bool := false
  /-- Held frames sent in this window. -/
  sent : Nat := 0
  /-- A schedule change waits for the close (R222). -/
  changed : Bool := false
  deriving DecidableEq, Repr

/-- The release of held frames after a contact acknowledgement (R218). -/
structure PendSend where
  slot : Nat
  /-- TMB of the first chip of the next held frame. -/
  at' : Nat
  /-- Frames sent in this window. -/
  sent : Nat
  sub : Bool
  chan : Nat
  phy : Nat
  mode : Nat
  deriving DecidableEq, Repr

/-- A node in CHECK (R220). -/
structure CheckRun where
  slot : Nat
  sub : Bool
  chan : Nat
  /-- Earliest start of the next telegram; none while a wait runs. -/
  due : Option Nat
  /-- End of the wait. -/
  wait : Option Nat := none
  /-- TMB from which the receive votes are cast. -/
  lead : Option Nat := none
  /-- LNK_SLP_CFG to LNK_SLP_PEND as its telegram was planned (R228). -/
  cfg : List Word
  deriving DecidableEq, Repr

/-- One slot-program entry in force (R207). -/
structure SlotRun where
  entry : Nat
  /-- W0–W3 as the next occurrence takes them. -/
  cfg : List Nat
  /-- Number of the next occurrence. -/
  k : Nat
  /-- The receive window of an occurrence is open until a TMB. -/
  openTill : Option Nat := none
  /-- Number of the coming occurrence whose votes are cast. -/
  lead : Option Nat := none
  /-- Frame of the transmit occurrence in progress. -/
  frame : Option Nat := none
  deriving DecidableEq, Repr

/-- TSCH state beyond its registers (R208–R210). -/
structure Tsch where
  asn0 : Nat := 0
  t0 : Nat := 0
  /-- ASN0 and T0 to be applied at the next timeslot boundary. -/
  next : Option (Nat × Nat) := none
  /-- Absolute slot number of the current timeslot. -/
  asn : Nat := 0
  /-- Shared-cell backoff by neighbour: exponent and cells left to skip (TSCH CSMA-CA). -/
  backoff : List (Nat × Nat × Nat) := []
  deriving DecidableEq, Repr

/-- Tempo state beyond the LNK registers. -/
structure Tempo where
  items : List WorkItem := []
  pairs : List Pair := List.replicate 5 {}
  /-- Kept acknowledgement windows of forked frames: (R135). -/
  windows : List AckWindow := []
  /-- TMB of the last COUNTER_UNKNOWN notice of a node (R195). -/
  notices : List (Nat × Nat) := []
  slots : List SlotRun := []
  tsch : Tsch := {}
  wins : List NodeWin := []
  sends : List PendSend := []
  checks : List CheckRun := []
  /-- The sleepy-node service runs (R222). -/
  service : Bool := false
  /-- Pending-bitmap store of TP3: local indexes whose bit is 1, rising (R196, R199). -/
  pendMap : List Nat := []
  deriving DecidableEq, Repr

/-! Federation (Federation of up to 1024 devices). -/

/-- What the agent keeps of a peer beyond its member-table entry. -/
structure Peer where
  /-- Highest version of its HELLO. -/
  version : Nat := 2
  /-- Ports on which its last HELLO came, bit p for port p. -/
  ports : Nat := 0
  /-- SEQs accepted in the 64-message window. -/
  window : List Nat := []
  /-- TMB of its last accepted message. -/
  heard : Nat := 0
  /-- Digest its last HELLO carried. -/
  digest : List Byte := []
  /-- Presence bitmap and candidate of its last CANDIDATE. -/
  bitmap : Nat := 0
  candidate : Nat := 0
  voted : Bool := false
  /-- Its last GROUP_REPORT, for a coordinator: presence, aligned and attested bitmaps. -/
  report : Option (Nat × Nat × Nat) := none
  /-- Nonce of an open challenge (R281). -/
  nonce : Option (List Byte) := none
  /-- Answer to PREPARE: 1 OK, 2 refused; 0 none (R276). -/
  prepared : Nat := 0
  /-- EUI-64s that claim the index, each with the TMB of its last HELLO (R266). -/
  claims : List (Nat × Nat) := []
  deriving DecidableEq, Repr

/-- One configuration record (R273). -/
structure Record where
  type : Nat
  id : Nat
  data : List Byte
  deriving DecidableEq, Repr

/-- A record being reassembled (R275). -/
structure Reassembly where
  type : Nat
  id : Nat
  total : Nat
  /-- Fragments by OFFSET. -/
  parts : List (Nat × List Byte)
  deriving DecidableEq, Repr

/-- A proposed epoch under two-phase commit (R276). -/
structure Proposal where
  epoch : Nat
  digest : List Byte
  roster : List Nat
  proposer : Nat
  /-- PREPARED OK was sent: the proposed set is frozen. -/
  preparedOk : Bool := false
  /-- Commit time, once a COMMIT is held. -/
  commitAt : Option Nat := none
  deriving DecidableEq, Repr

/-- A migration this member takes part in (R280). -/
structure Migration where
  offer : Nat
  node : Nat
  /-- Slot of the context here. -/
  slot : Nat
  /-- The other member. -/
  peer : Nat
  /-- This member is the old owner Y. -/
  source : Bool
  /-- Source: 0 offered; 1 DONE sent; 2 unresolved. Target: 0 pending; 1 served. -/
  step : Nat := 0
  /-- Offers or DONE messages sent. -/
  tries : Nat := 1
  started : Nat := 0
  /-- FED_MIGRATE command that waits for it. -/
  cmd : Option Nat := none
  /-- Target: the pending context. -/
  ctx : List Byte := []
  deriving DecidableEq, Repr

/-- Visitor frames of a node heard by another member (R280). -/
structure Visits where
  node : Nat
  member : Nat
  count : Nat
  /-- Highest RSSI of the last of them. -/
  rssi : Nat := 0
  deriving DecidableEq, Repr

/-- Replication of one slot to the buddy (R279). -/
structure ReplEntry where
  slot : Nat
  /-- SEQ of the REPLICA that carries it; none while it waits to be sent. -/
  sent : Option Nat := none
  sentAt : Nat := 0
  /-- The node was removed: its NODE_ADDR and the SEQ of its removal. -/
  gone : Option (Nat × Nat) := none
  deriving DecidableEq, Repr

/-- A received frame of a node from another member that waits for the node's verify to end (R20, R194). -/
structure Inbound where
  node : Nat
  member : Nat
  octets : List Byte
  deriving DecidableEq, Repr

/-- Federation agent state beyond the FED registers. -/
structure Fed where
  bootId : Nat := 0
  seq : Nat := 0
  peers : List (Nat × Peer) := []
  /-- Merged view of the group, one bit a member (R269). -/
  view : Nat := 0
  /-- Coordinator of the group and leader, once decided. -/
  coord : Option Nat := none
  leader : Option Nat := none
  /-- A new leader has a proposal of the old one to resolve (R276). -/
  resolve : Bool := false
  current : List Record := []
  proposed : List Record := []
  roster : List Nat := []
  proposal : Option Proposal := none
  /-- The COMMIT applied last: epoch, digest and T (R276). -/
  lastCommit : Option (Nat × List Byte × Nat) := none
  /-- Records that a MANIFEST lists and that are still to come: TYPE, ID, first 8 octets of SHA-256. -/
  wanted : List (Nat × Nat × List Byte) := []
  /-- Lowest TYPE and ID that the next MANIFEST message covers (R274). -/
  manifestFrom : Nat × Nat := (0, 0)
  parts : List Reassembly := []
  /-- Best exchange of the current burst: delay and theta in 1/8 tick; and exchanges seen. -/
  burst : Option (Int × Int) := none
  exchanges : Nat := 0
  /-- Consecutive bursts within 100 ns. -/
  good : Nat := 0
  alignedOnce : Bool := false
  /-- Slew still to be applied, in 1/8 tick. -/
  slew : Int := 0
  /-- Fraction of TMB in 1/8 tick. -/
  frac : Nat := 0
  migrations : List Migration := []
  nextOffer : Nat := 0
  visits : List Visits := []
  /-- Nodes refused by a target: node and TMB (R280). -/
  refused : List (Nat × Nat) := []
  repl : List ReplEntry := []
  inbox : List Inbound := []
  /-- Slots still to come from the buddy after an admission: first and count (R282). -/
  fetch : Option (Nat × Nat) := none
  /-- Nodes to be adopted from a buddy replica, with the command that waits (R280). -/
  adopts : List (Nat × Nat) := []
  /-- The FED_PROPOSE command that waits. -/
  proposeCmd : Option Nat := none
  deriving DecidableEq, Repr

/-- A Bamium message that leaves on a port, with its Ethernet frame (R259, R260, Table 12.1). -/
structure BmMsg where
  port : Nat
  /-- Destination and source address. -/
  dstMac : Nat
  srcMac : Nat
  etherType : Nat
  /-- The 802.1Q tag, if the frame has one: PCP and VID. -/
  vlan : Option (Nat × Nat)
  version : Nat
  type : Nat
  src : Nat
  /-- Target member; none for ALL. -/
  dst : Option Nat
  bootId : Nat
  seq : Nat
  epoch : Nat
  /-- TX_TIME of a Bm3 message, 1/8 tick. -/
  txTime : Option Nat
  payload : BmPayload
  /-- The payload octets; LENGTH is their number. -/
  body : List Byte
  /-- TAG of a control message. -/
  tag : Option (List Byte)
  deriving DecidableEq, Repr


/-- Envelope of one chip of 125 µs. -/
inductive ChipEdge where
  /-- First on chip of a run: the table-2 rise over its first 8 µs. -/
  | rise
  | on
  /-- First off chip after a run: the same table in reverse over its first 8 µs. -/
  | fall
  | off
  deriving DecidableEq, Repr

/-- What leaves the device: read data, messages and frames (the model's own record of its outputs). -/
inductive Output where
  /-- Data returned to a register or memory read. -/
  | readData (who : Initiator) (addr : Nat) (value : Nat)
  /-- An MSI-X message of a vector (R291, R374). -/
  | msix (vector : Nat)
  /-- Octets written to host memory by DMA (R290). -/ | dma (addr : Nat) (data : List Byte)
  /-- An application command passed to the mailbox of C4 (R305). -/ | mailbox (words : List Nat) (data : List Byte)
  /-- A CSPM frame; its data phase holds what the device sends, and nothing for a read (R319). -/ | cspm (frame : CspmFrame)
  /-- What CSPS drove during a frame: the status byte, then the data octets (R327). -/ | csps (status : Nat) (data : List Byte)
  /-- A frame that leaves a TX chain: chain, band, channel, PHY, gain index, PSDU, and its bits from the first of the SHR on (R142, R145, R151, R164). -/ | air (chain : Nat) (sub : Bool) (chan phy g : Nat) (psdu : List Byte) (bits : List Bool)
  /-- A Check pattern that leaves a TX chain: chain, band, channel, gain index, its 104 chips, their envelope and the words of the table that shapes its ramps (R156, R157). -/ | telegram (chain : Nat) (sub : Bool) (chan g : Nat) (chips : List Bool) (edges : List ChipEdge) (ramp : List Nat)
  /-- The link-down event that firmware receives after a PCI Express reset (R44). -/ | linkDown
  /-- A Bamium message. -/ | bamium (m : BmMsg)
  deriving DecidableEq, Repr

/-! The whole device. -/

/-- MSI-X state of the endpoint (R26, R291). -/
structure Msix where
  /-- MSI-X enabled in the endpoint's configuration space. -/
  enabled : Bool := false
  /-- Bus Master Enable of the configuration space. -/
  busMaster : Bool := false
  fnMask : Bool := false
  /-- Words of the MSI-X table, 64 entries of four; an unlisted control word has its mask bit set. -/
  table : List (Nat × Word) := []
  /-- Pending-bit array, one bit a vector. -/
  pba : Nat := 0
  deriving DecidableEq, Repr

/-- Everything but the queue. -/
structure Dev where
  /-- The 64-bit timebase in ticks of 31.25 ns (R4). -/
  tmb : Nat
  /-- Register store, canonical over the reset values (R5). -/
  regs : List (Nat × Word)
  /-- High words latched by a read of the low word, by address (R8, R429). -/
  latch : List (Nat × Word)
  /-- Node memory, packet buffer and core memories, canonical over zero-filled bytes (R21, R56). -/
  mem : List Host.Cell
  /-- Octets and messages that left the device, newest first (the model's own record). -/
  out : List Output
  /-- Count of the free values taken so far (the model's own). -/
  freeCount : Nat
  pins : Pins
  pwr : Pwr
  cluster : Cluster
  boot : Boot
  cores : List Core
  evr : Evr
  err : Err
  msix : Msix
  rxw : Rxw
  /-- Receive staging buffers in use (R292). -/
  staging : List Nat
  region : Region
  duty : Duty
  /-- OTP positions of the REG region, by 2 × word + position; an unlisted position is free. -/
  otpRegion : List (Nat × Position)
  prog : Option ProgOp
  /-- Active pulse tables that differ from their defaults, by 3 × chain + table (R163). -/
  activeTables : List (Nat × List Nat)
  /-- Input FIFOs of TP0–TP4, oldest first, at most 64 entries each; TP4 uses its own for the receive pair it replaces, TP3 `Tx.input` (R14, R185). -/
  fifos : List (List Completion)
  /-- Fuse words of the OTP outside the REG region, by the numbering of Fuse; an unlisted word is unprogrammed. -/
  fuses : List (Nat × Nat)
  keys : KeyStore
  /-- A life-cycle transition in progress (R391). -/
  lc : Option LcRun
  cph : Cipher
  ndt : Ndt
  gate : TxGate
  pairs : PairRecord
  hci : Hci
  csp : Csp
  rfs : Rfs
  tx : Tx
  coex : Coex
  tempo : Tempo
  fed : Fed
  deriving DecidableEq, Repr

/-- The machine state: the queue of commands that wait, first in first out, and the device. -/
structure State where
  pending : List Instr
  dev : Dev
  deriving DecidableEq, Repr

/-- Reasons to stop with a fault. -/
inductive Fault where
  /-- Raised by no command: every access the map does not place is answered under R24 to R27. Safe. -/
  | memoryHole (addr : Nat)
  deriving DecidableEq, Repr

/-- Reasons to refuse a command. -/
inductive Refusal where
  /-- A command whose meaning the model does not have yet, by its mnemonic. Safe. -/
  | notModelled (mnemonic : String)
  deriving DecidableEq, Repr

/-- A domain that is ON with nothing pending. -/
def Domain.onNow : Domain := { st := .on, tally := true }

/-- The device right after a power-on reset, PORST_N still low (R44, Table 03.5): every register at its
reset value, TMB 0, every domain but D0 OFF, the calibration store invalid, the duty history empty. -/
def Dev.reset : Dev where
  tmb := 0
  regs := []
  latch := []
  mem := []
  out := []
  freeCount := 0
  pins := {}
  pwr := { doms := Domain.onNow :: List.replicate 31 {} }
  cluster := { mv := 0 }
  boot := {}
  cores := (List.range 8).map fun n => { status := if n < 4 then 2 else 6 }
  evr := {}
  err := {}
  msix := {}
  rxw := {}
  staging := []
  region := {}
  duty := {}
  otpRegion := []
  prog := none
  activeTables := []
  fifos := List.replicate 5 []
  fuses := []
  keys := {}
  lc := none
  cph := {}
  ndt := {}
  gate := {}
  pairs := {}
  hci := {}
  csp := {}
  rfs := {}
  tx := {}
  coex := {}
  tempo := {}
  fed := {}

/-- The state after reset: no command waits. -/
def State.reset : State where
  pending := []
  dev := Dev.reset

end Sys2Proof.Machine
end

