-- ==== Sys2Proof/Machine/Ops.lean ====
section
/-! DEFINITION. The named operations over the state: registers (R5, R6), counters (R139), 64-bit pairs
(R8, R429), memory (R21, R56), association lists, outputs and free values. -/

namespace Sys2Proof.Machine

open Sys2Proof

/-! Association lists keyed by numbers: the sparse tables of the engines. -/

/-- The value stored under key `k`. -/
def alGet {α : Type} (k : Nat) : List (Nat × α) → Option α
  | [] => none
  | (j, v) :: l => if j = k then some v else alGet k l

/-- The list without key `k`. -/
def alDel {α : Type} (k : Nat) : List (Nat × α) → List (Nat × α)
  | [] => []
  | (j, v) :: l => if j = k then alDel k l else (j, v) :: alDel k l

/-- The list with `v` under key `k`. -/
def alSet {α : Type} (k : Nat) (v : α) : List (Nat × α) → List (Nat × α)
  | [] => [(k, v)]
  | (j, w) :: l => if j = k then (k, v) :: l else (j, w) :: alSet k v l

/-! Canonical sparse stores: keys strictly rising, no entry equal to what an unlisted key reads as. -/

/-- What the store lists under `a`. -/
def spGet {α : Type} (a : Nat) : List (Nat × α) → Option α
  | [] => none
  | (j, v) :: l => if j = a then some v else if a < j then none else spGet a l

/-- The store with `v` listed under `a`, in rising order. -/
def spPut {α : Type} (a : Nat) (v : α) : List (Nat × α) → List (Nat × α)
  | [] => [(a, v)]
  | (j, w) :: l =>
    if j = a then (a, v) :: l else if a < j then (a, v) :: (j, w) :: l else (j, w) :: spPut a v l

/-- The store with nothing listed under `a`. -/
def spDel {α : Type} (a : Nat) : List (Nat × α) → List (Nat × α)
  | [] => []
  | (j, w) :: l => if j = a then l else if a < j then (j, w) :: l else (j, w) :: spDel a l

/-- A write of `v` at `a` where an unlisted key reads as `dflt`. -/
def spWrite {α : Type} [DecidableEq α] (dflt : α) (a : Nat) (v : α) (l : List (Nat × α)) :
    List (Nat × α) :=
  if v = dflt then spDel a l else spPut a v l

/-- The canonical form: keys strictly rising from `lo` on, no entry equal to the default of its key. -/
def spWf {α : Type} [DecidableEq α] (dflt : Nat → α) : Nat → List (Nat × α) → Bool
  | _, [] => true
  | lo, (j, v) :: l => decide (lo ≤ j) && decide (v ≠ dflt j) && spWf dflt (j + 1) l

/-! Registers. -/

/-- The stored value of the register at device address `a`. -/
def Dev.reg (d : Dev) (a : Nat) : Word := (spGet a d.regs).getD (regReset a)

/-- The device with the register at `a` holding `w`. -/
def Dev.setReg (d : Dev) (a : Nat) (w : Word) : Dev :=
  { d with regs := spWrite (regReset a) a w d.regs }

/-- Address of element `i` of a field's register array. -/
def Field.at (f : Field) (i : Nat) : Nat := f.base + f.stride * i

/-- The value of field `f` of element `i`. -/
def Dev.rd (d : Dev) (f : Field) (i : Nat := 0) : Nat := getBits (d.reg (f.at i)) f.lo f.n

/-- The device with field `f` of element `i` holding `v`. -/
def Dev.wr (d : Dev) (f : Field) (v : Nat) (i : Nat := 0) : Dev :=
  d.setReg (f.at i) (putBits (d.reg (f.at i)) f.lo f.n v)

/-- A one-bit field read as a truth value. -/
def Dev.is (d : Dev) (f : Field) (i : Nat := 0) : Bool := d.rd f i = 1

/-- A counter field raised by `k`, stopping at its greatest value. -/
def Dev.bumpBy (d : Dev) (k : Nat) (f : Field) (i : Nat := 0) : Dev :=
  d.wr f (satAdd (d.rd f i) k (2 ^ f.n - 1)) i

/-- A counter field raised by one, stopping at its greatest value. -/
def Dev.bump (d : Dev) (f : Field) (i : Nat := 0) : Dev := d.bumpBy 1 f i

/-- Whether the canonical form of the register store holds. -/
def regsWf (l : List (Nat × Word)) : Bool := spWf regReset 0 l

/-- Every register for which `p` holds returned to its reset value. -/
def Dev.clearRegs (d : Dev) (p : Nat → Bool) : Dev :=
  { d with regs := d.regs.filter (fun e => !p e.1) }

/-! Memory (R21): bytes at device addresses. A byte that nothing has written reads 0 (R56). -/

/-- What a byte of memory reads as when nothing has written it: memories come up zero-filled (R56). -/
def memDefault : Byte := 0

/-- The byte at device address `a`. -/
def Dev.byte (d : Dev) (a : Nat) : Byte := (spGet a d.mem).getD memDefault

/-- The device with byte `b` at `a`. -/
def Dev.setByte (d : Dev) (a : Nat) (b : Byte) : Dev :=
  { d with mem := spWrite memDefault a b d.mem }

/-- `n` bytes from address `a` on. -/
def Dev.bytes (d : Dev) (a : Nat) : Nat → List Byte
  | 0 => []
  | n + 1 => d.byte a :: d.bytes (a + 1) n

/-- The device with the bytes `bs` stored from address `a` on. -/
def Dev.setBytes (d : Dev) (a : Nat) : List Byte → Dev
  | [] => d
  | b :: bs => (d.setByte a b).setBytes (a + 1) bs

/-- Little-endian number of `n` bytes at `a`. -/
def Dev.le (d : Dev) (a n : Nat) : Nat := leNat (d.bytes a n)

/-- The device with `v` stored as `n` little-endian bytes at `a`. -/
def Dev.setLe (d : Dev) (a n v : Nat) : Dev := d.setBytes a (natLe n v)

/-- Whether the canonical form of memory holds: addresses strictly rising, no listed byte equal to what
an unlisted address reads as. -/
def Memory.wf (m : List Host.Cell) : Bool := spWf (fun _ => memDefault) 0 m

/-- Memory without the bytes whose address satisfies `p`: they read as zero-filled (R56). -/
def Dev.clearMem (d : Dev) (p : Nat → Bool) : Dev :=
  { d with mem := d.mem.filter (fun c => !p c.1) }

/-! Outputs, free values, time. -/

/-- What leaves the device, newest first. -/
def Dev.emit (d : Dev) (o : Output) : Dev := { d with out := o :: d.out }

/-- A free value of `n` bits: the next one of the configuration's uninterpreted sequence. -/
def Dev.free (d : Dev) (n : Nat) : Nat × Dev :=
  (Config.freeValue d.freeCount % 2 ^ n, { d with freeCount := d.freeCount + 1 })

/-- The words that fail their parity while a whole memory is read. -/
def Dev.failedWords (d : Dev) : List (Nat × Nat) × Dev :=
  (Config.failedWords d.freeCount, { d with freeCount := d.freeCount + 1 })

/-- A free choice among the numbers of `l`. -/
def Dev.freeOf (d : Dev) (l : List Nat) : Nat × Dev :=
  let r := d.free 32
  (l.getD (r.1 % l.length) (l.headD 0), r.2)

/-- Ticks in one microsecond (R4). -/
def ticksPerUs : Nat := 32

/-- Ticks of `us` microseconds. -/
def usTicks (us : Nat) : Nat := us * ticksPerUs

/-- The Doldon core Cn; an absent index reads as a held core. -/
def Dev.core (d : Dev) (n : Nat) : Core := d.cores.getD n {}

/-- The device with core Cn replaced. -/
def Dev.setCore (d : Dev) (n : Nat) (c : Core) : Dev := { d with cores := putAt n c d.cores }

/-- A meaning as one step: the effect on everything but the queue. -/
def State.run (f : Dev → Dev) (s : State) : Host.Outcome State Fault Refusal :=
  .next { s with dev := f s.dev }

end Sys2Proof.Machine
end

