-- ==== Sys2Proof/Machine/Flags.lean ====
section
/-! DEFINITION. Events and flags: the event router (R356–R370), the interrupt controller's pending bits and
host messages (R372–R374, R291), the access records of the error recorder (R7, R27, R431) and the
fault tracker (R422). -/

namespace Sys2Proof.Machine

open Sys2Proof

/-- Whether domain `n` answers accesses and carries its signals: ON, or DRAINING (the clamps of R68 are set
from ISOLATING until ON). D0 always does. -/
def Dev.domUp (d : Dev) (n : Nat) : Bool :=
  if n = 0 then true else
    match (d.pwr.doms.getD n {}).st with
    | .on => true
    | .draining => true
    | _ => false

/-- State of domain `n`. -/
def Dev.domSt (d : Dev) (n : Nat) : DomainState := (d.pwr.doms.getD n {}).st

/-- The endpoint can send a message: D26 ON, link up, MSI-X and Bus Master enabled (R291). -/
def Dev.msixReady (d : Dev) : Bool :=
  d.domUp 26 && d.pins.pcieLinkUp && d.msix.enabled && d.msix.busMaster

/-- Vector `v` is masked, by function or by its table entry (R291). -/
def Dev.msixMasked (d : Dev) (v : Nat) : Bool :=
  d.msix.fnMask || ((spGet (4 * v + 3) d.msix.table).getD 1#32).toNat.testBit 0

/-- A message of vector `v` is due: sent, or left in the pending-bit array (R291). -/
def Dev.sendMsix (d : Dev) (v : Nat) : Dev :=
  if d.msixReady && !d.msixMasked v then d.emit (.msix v)
  else { d with msix := { d.msix with pba := setBitN d.msix.pba v } }

/-- Whether IRQ `n` is pending (R374). -/
def Dev.irqPending (d : Dev) (n : Nat) : Bool :=
  (d.reg (Reg.irqPend + 4 * (n / 32))).toNat.testBit (n % 32)

/-- Sets or clears the pending bit of IRQ `n`. -/
def Dev.putIrqPend (d : Dev) (n : Nat) (b : Bool) : Dev :=
  let a := Reg.irqPend + 4 * (n / 32)
  d.setReg a (BitVec.ofNat 32 (putBitN (d.reg a).toNat (n % 32) b))

/-- TARGET of IRQ `n`; storm interrupts follow the OWNER of their channel (R373). -/
def Dev.irqTarget (d : Dev) (n : Nat) : Nat :=
  if 64 ≤ n ∧ n < 128 then
    let o := d.rd Fld.evrEcCfg_owner (n - 64)
    if o = 1 then 9 else if 2 ≤ o ∧ o ≤ 9 then o - 1 else 1
  else d.rd Fld.irqCfg_target n

/-- SEC of IRQ `n`; storm interrupts follow the OWNER of their channel (R373). -/
def Dev.irqSec (d : Dev) (n : Nat) : Bool :=
  if 64 ≤ n ∧ n < 128 then
    let o := d.rd Fld.evrEcCfg_owner (n - 64)
    o = 0 || (10 ≤ o && o ≤ 14)
  else d.is Fld.irqCfg_sec n

/-- A source sets IRQ `n`: the pending bit goes to 1, and a host interrupt sends its message when it does
(R374). Nothing is set while D1 does not carry signals. -/
def Dev.setIrq (d : Dev) (n : Nat) : Dev :=
  if !d.domUp 1 || d.irqPending n then d
  else
    let d1 := d.putIrqPend n true
    if d1.is Fld.irqCfg_en n && d1.irqTarget n = 9 then
      if d1.msixReady then d1.sendMsix (d1.rd Fld.irqCfg_vector n)
      else { d1 with evr := { d1.evr with deferred := d1.evr.deferred ++ [n] } }
    else d1

/-- The interrupt that an event sets independently of any channel (Table 16.1). -/
def eventIrq (ev : Nat) : Option Nat :=
  match ev with
  | 0x2C => some 146 | 0x36 => some 144 | 0x37 => some 145 | 0x42 => some 131 | 0x43 => some 128
  | 0x44 => some 129 | 0x45 => some 130 | 0x50 => some 134 | 0x51 => some 132 | 0x52 => some 133
  | 0x53 => some 135 | 0x58 => some 147 | 0x59 => some 148 | 0x5A => some 149 | 0x5C => some 150
  | 0x5D => some 151 | 0x5E => some 152 | 0x5F => some 157 | 0x68 => some 153 | 0x69 => some 154
  | 0x6A => some 155 | 0x6B => some 156
  | _ => none

/-- Configured channels that are armed: number and EVR_ECn_CFG. A channel at its reset value is not. -/
def Dev.armed (d : Dev) : List (Nat × Word) :=
  d.regs.filterMap fun e =>
    if Reg.evrEcCfg ≤ e.1 ∧ e.1 < Reg.evrEcCfg + 512 ∧ (e.1 - Reg.evrEcCfg) % 8 = 0
        ∧ e.2.toNat.testBit 31 then
      some ((e.1 - Reg.evrEcCfg) / 8, e.2)
    else none

/-- The history of channel `n`. -/
def Dev.chanLog (d : Dev) (n : Nat) : ChannelLog := (alGet n d.evr.logs).getD {}

/-- The device with the history of channel `n` replaced. -/
def Dev.setChanLog (d : Dev) (n : Nat) (l : ChannelLog) : Dev :=
  { d with evr := { d.evr with logs := alSet n l d.evr.logs } }

/-- The cycle the router is in: never behind TMB, 25 cycles of 2.5 ns in two ticks. -/
def Dev.evCycle (d : Dev) : Nat := max d.evr.cycle (d.tmb * 25 / 2)

/-- The limiter lets channel `n` pass one more event: fewer than LIMIT events in its history, or the oldest
of the last LIMIT at least WINDOW cycles back (R368). -/
def Dev.limiterOk (d : Dev) (n : Nat) : Bool :=
  let past := (d.chanLog n).passed
  let limit := d.rd Fld.evrStorm_limit
  match past[limit - 1]? with
  | none => true
  | some c => decide (d.rd Fld.evrStorm_window ≤ d.evCycle - c)

/-- The gate of a channel with configuration `cfg` is open (R361, R362). -/
def Dev.gateOpen (d : Dev) (cfg : Word) : Bool :=
  if getBits cfg 24 1 = 1 then
    ((d.evr.cells.getD (getBits cfg 16 5) {}).q) != (getBits cfg 25 1 == 1)
  else true

/-- Cell `k` is purely combinational (R365). -/
def Dev.cellComb (d : Dev) (k : Nat) : Bool :=
  d.rd Fld.evrLuCfg_mode k = 1 && d.rd Fld.evrLuCfg_reg k = 0

/-- LUT output for inputs A and B (R367). -/
def Dev.lutOut (d : Dev) (k : Nat) (a b : Bool) : Bool :=
  (d.rd Fld.evrLuCfg_lut k).testBit (2 * b2n b + b2n a)

/-- Events that wait at task input `t` (R370). -/
def Dev.taskWait (d : Dev) (t : Nat) : Nat := (alGet t d.evr.taskPend).getD 0

/-- Event `ev` is raised in the cycle whose source events are `evs`: itself a source, or the output of a
combinational cell. `fuel` bounds the chain of cells; R365 keeps chains free of cycles. -/
def Dev.raisedIn (d : Dev) (chans : List (Nat × Word)) (evs : List Nat) : Nat → Nat → Bool
  | 0, ev => evs.contains ev
  | fuel + 1, ev =>
    evs.contains ev ||
      (decide (0xA0 ≤ ev) && decide (ev < 0xC0) && d.cellComb (ev - 0xA0) &&
        d.lutOut (ev - 0xA0)
          (d.taskWait (0x40 + (ev - 0xA0)) != 0 ||
            chans.any fun c => getBits c.2 8 8 = 0x40 + (ev - 0xA0) && d.gateOpen c.2 && d.limiterOk c.1
              && d.raisedIn chans evs fuel (getBits c.2 0 8))
          (d.taskWait (0x60 + (ev - 0xA0)) != 0 ||
            chans.any fun c => getBits c.2 8 8 = 0x60 + (ev - 0xA0) && d.gateOpen c.2 && d.limiterOk c.1
              && d.raisedIn chans evs fuel (getBits c.2 0 8)))

/-- A passed event of channel `n`: PASSED counts and the cycle joins the history (R362, R368). -/
def Dev.passEvent (d : Dev) (n : Nat) : Dev :=
  let l := d.chanLog n
  (d.bump Fld.evrEcStat_passed n).setChanLog n
    { l with passed := (d.evCycle :: l.passed).take (d.rd Fld.evrStorm_limit) }

/-- The limiter trips on channel `n`: ARM becomes 0 and STORM 1 (R368); a second trip within 10 s of a
Tempo re-arm bars further re-arms by the pair (R369). -/
def Dev.tripChannel (d : Dev) (n : Nat) : Dev :=
  let l := d.chanLog n
  let again := match l.rearmedAt with
    | some t => decide (d.tmb - t < usTicks 10000000)
    | none => false
  ((d.wr Fld.evrEcCfg_arm 0 n).wr Fld.evrEcStat_storm 1 n).setChanLog n
    { passed := [], trippedAt := some d.tmb, rearmedAt := l.rearmedAt, barred := l.barred || again }

/-- Task input `t` drives a line whose pulse runs, so its consumer is busy (Table 16.2). -/
def Dev.taskBusy (d : Dev) (t : Nat) : Bool :=
  if 0x20 ≤ t ∧ t < 0x40 then (alGet (t - 0x20) d.evr.pulses).isSome
  else if 0x80 ≤ t ∧ t < 0x90 then (alGet (t - 0x80 + 32) d.evr.pulses).isSome
  else false

/-- FEMC line `l` belongs to a chain (R165). -/
def Dev.femcOwned (d : Dev) (l : Nat) : Bool :=
  (List.range 4).any fun n => (d.rd Fld.txpFemcOwn_own n).testBit l

/-- Starts event timer `n`: expiry at TMB + DELAY, RUN := 1 (R360). -/
def Dev.timerStart (d : Dev) (n : Nat) : Dev :=
  let d := d.wr Fld.evrTmrCtrl_run 1 n
  { d with evr := { d.evr with expiry := alSet n (d.tmb + d.rd Fld.evrTmrDelay_delay n) d.evr.expiry } }

/-- Stops event timer `n` (R360). -/
def Dev.timerStop (d : Dev) (n : Nat) : Dev :=
  let d := d.wr Fld.evrTmrCtrl_run 0 n
  { d with evr := { d.evr with expiry := alDel n d.evr.expiry } }

/-- Action `act` (0 SET, 1 CLEAR, 2 TOGGLE, 3 PULSE) on bit `l` of field `f`; `line` names the pulse
(R359). -/
def Dev.pinAction (d : Dev) (act : Nat) (f : Field) (l line : Nat) : Dev :=
  let v := d.rd f
  match act with
  | 0 => d.wr f (setBitN v l)
  | 1 => d.wr f (clrBitN v l)
  | 2 => d.wr f (v ^^^ (1 <<< l))
  | _ => { d with evr := { d.evr with
             pulses := alSet line (d.tmb + d.rd Fld.evrGpioPulse_width) d.evr.pulses } }

/-- The action of a task input outside the logic cells (Table 16.2). `n` is the channel of the event, which
only the IRQ task uses. -/
def Dev.taskAct (d : Dev) (t n : Nat) : Dev :=
  if t = 0x01 then d.setIrq n
  else if 0x08 ≤ t ∧ t < 0x10 then d.timerStart (t - 0x08)
  else if 0x10 ≤ t ∧ t < 0x18 then d.timerStop (t - 0x10)
  else if 0x18 ≤ t ∧ t < 0x20 then
    (d.wr Fld.evrCapLo_cap (d.tmb % 2 ^ 32) (t - 0x18)).wr Fld.evrCapHi_cap (d.tmb / 2 ^ 32) (t - 0x18)
  else if 0x20 ≤ t ∧ t < 0x40 then
    let p := t - 0x20
    d.pinAction (bitsOf (d.rd Fld.evrGpioAct_act (p / 16)) (2 * (p % 16) + 1) (2 * (p % 16)))
      Fld.evrGpioOut_out p p
  else if 0x80 ≤ t ∧ t < 0x90 then
    let l := t - 0x80
    if d.femcOwned l then d
    else d.pinAction (bitsOf (d.rd Fld.evrFemcAct_act) (2 * l + 1) (2 * l)) Fld.txpFemcStatic_static l (32 + l)
  else d

/-- Serves `k` pending events of a count-mode or pending input while its consumer is free (R370). -/
def Dev.serveTask (d : Dev) (t n : Nat) : Nat → Dev
  | 0 => d
  | k + 1 =>
    match alGet t d.evr.taskPend with
    | some (c + 1) =>
      if d.taskBusy t then d
      else
        let d := { d with evr := { d.evr with
          taskPend := if c = 0 then alDel t d.evr.taskPend else alSet t c d.evr.taskPend } }
        (d.taskAct t n).serveTask t n k
    | _ => d

/-- Task input `t` is in count mode (R370). -/
def Dev.countMode (d : Dev) (t : Nat) : Bool := (d.rd Fld.evrTaskMode_mode (t / 32)).testBit (t % 32)

/-- OVERRUN of task input `t` is set where `b` holds. -/
def Dev.taskOverrun (d : Dev) (t : Nat) (b : Bool) : Dev :=
  if b then d.wr Fld.evrTaskOvr_ovr (setBitN (d.rd Fld.evrTaskOvr_ovr (t / 32)) (t % 32)) (t / 32) else d

/-- MERGED of task input `t` is set where `b` holds. -/
def Dev.taskMerged (d : Dev) (t : Nat) (b : Bool) : Dev :=
  if b then d.wr Fld.evrTaskMerged_merged (setBitN (d.rd Fld.evrTaskMerged_merged (t / 32)) (t % 32)) (t / 32)
  else d

/-- `k` events wait at task input `t`. -/
def Dev.setTaskWait (d : Dev) (t k : Nat) : Dev :=
  { d with evr := { d.evr with taskPend := if k = 0 then alDel t d.evr.taskPend else alSet t k d.evr.taskPend } }

/-- `c` events of one cycle reach task input `t` outside the logic cells (R370). -/
def Dev.taskInput (d : Dev) (t n c : Nat) : Dev :=
  let pend := d.taskWait t
  if d.countMode t then
    ((d.setTaskWait t (min 15 (pend + c))).taskOverrun t (decide (15 < pend + c))).serveTask t n 15
  else
    let d := d.taskMerged t (decide (2 ≤ c))
    if d.taskBusy t then (if pend = 0 then d.setTaskWait t 1 else d.taskOverrun t true) else d.taskAct t n

/-- `c` events of one cycle reach input `t` of a logic cell, which takes one in each cycle: whether it gets one now
(R370). -/
def Dev.cellInput (d : Dev) (t c : Nat) : Dev × Bool :=
  let n := d.taskWait t + c
  if n = 0 then (d, false)
  else if d.countMode t then ((d.setTaskWait t (min 15 n - 1)).taskOverrun t (decide (15 < n)), true)
  else ((d.setTaskWait t 0).taskMerged t (decide (2 ≤ c)), true)

/-- Replaces cell `k`. -/
def Dev.setCell (d : Dev) (k : Nat) (c : LogicCell) : Dev :=
  let d := { d with evr := { d.evr with cells := putAt k c d.evr.cells } }
  d.wr Fld.evrLuQ_q (putBitN (d.rd Fld.evrLuQ_q) k c.q)

/-- One cycle of registered cell `k` with inputs A and B: the new cell and whether its output is raised in
the next cycle (Table 16.5). -/
def Dev.cellStep (d : Dev) (k : Nat) (a b : Bool) : Dev × Bool :=
  let c := d.evr.cells.getD k {}
  match d.rd Fld.evrLuCfg_mode k with
  | 1 => (d, d.rd Fld.evrLuCfg_reg k = 1 && d.lutOut k a b)
  | 2 =>
    let q' := if a && b then !c.q else if a then true else if b then false else c.q
    let e := d.rd Fld.evrLuCfg_edge k
    (d.setCell k { c with q := q' },
      (q' && !c.q && (e = 0 || e = 2)) || (!q' && c.q && (e = 1 || e = 2)))
  | 3 =>
    if b then (d.setCell k { c with count := 0 }, false)
    else if a then
      if c.count + 1 = d.rd Fld.evrLuCfg_n k then (d.setCell k { c with count := 0 }, true)
      else (d.setCell k { c with count := c.count + 1 }, false)
    else (d, false)
  | 4 =>
    let inside := c.hold && decide (d.tmb < c.holdEnd)
    if a && !inside then
      (d.setCell k { c with hold := !b, holdEnd := d.tmb + d.rd Fld.evrLuCfg_n k }, true)
    else if b then (d.setCell k { c with hold := false }, false)
    else (d, false)
  | _ => (d, false)

/-- Events of the cycle at task input `t`. -/
def taskCount (tasks : List (Nat × Nat)) (t : Nat) : Nat := (tasks.filter fun e => e.1 = t).length

/-- Runs the cells that an event reached, collecting next-cycle events. -/
def Dev.cellsStep (d : Dev) (tasks : List (Nat × Nat)) : List Nat → Dev × List Nat
  | [] => (d, [])
  | k :: ks =>
    let a := d.cellInput (0x40 + k) (taskCount tasks (0x40 + k))
    let b := a.1.cellInput (0x60 + k) (taskCount tasks (0x60 + k))
    let r := if a.2 || b.2 then b.1.cellStep k a.2 b.2 else (b.1, false)
    let rest := r.1.cellsStep tasks ks
    (rest.1, if r.2 then (0xA0 + k) :: rest.2 else rest.2)

/-- Applies each task input that events of the cycle reached, in ascending input order. -/
def Dev.tasksStep (d : Dev) (tasks : List (Nat × Nat)) : List Nat → Dev
  | [] => d
  | t :: ts =>
    let here := tasks.filter fun e => e.1 = t
    let d := match here with
      | [] => d
      | e :: _ =>
        if t = 0x01 then here.foldl (fun d (e : Nat × Nat) => d.setIrq e.2) d
        else d.taskInput t e.2 here.length
    d.tasksStep tasks ts

/-- The task inputs outside the logic cells that have an action, ascending: a stop follows a start of the
same cycle, so the timer stops (R360). -/
def actTasks : List Nat :=
  0x01 :: (List.range 0x38).map (· + 0x08) ++ (List.range 0x10).map (· + 0x80)

/-- One cycle of the router: the source events of the cycle reach every armed channel (R362); passed
events reach their tasks and cells; tripped channels disarm (R368). Answers the events of the next cycle. -/
def Dev.routeCycle (d : Dev) (evs : List Nat) : Dev × List Nat :=
  let chans := d.armed
  let hit := chans.filter fun c => d.gateOpen c.2 && d.raisedIn chans evs 33 (getBits c.2 0 8)
  let pass := hit.filter fun c => d.limiterOk c.1
  let trip := hit.filter fun c => !d.limiterOk c.1
  let tasks := pass.map fun c => (getBits c.2 8 8, c.1)
  let d := pass.foldl (fun d c => d.passEvent c.1) d
  let d := trip.foldl (fun d c => d.tripChannel c.1) d
  let cells := d.cellsStep tasks (List.range 32)
  let d := cells.1.tasksStep tasks (actTasks.filter fun t => tasks.any fun e => e.1 = t)
  let d := trip.foldl (fun d c => d.setIrq (64 + c.1)) d
  let d := { d with evr := { d.evr with cycle := d.evCycle + 1 } }
  (d, cells.2 ++ trip.map fun c => 0xC0 + c.1)

/-- A logic cell in count mode has events waiting at an input (R370). -/
def Dev.cellsWait (d : Dev) : Bool := d.evr.taskPend.any fun e => decide (0x40 ≤ e.1) && decide (e.1 < 0x80)

/-- Cycles of the router until no event is left, at most `fuel`; what is left stays in flight. -/
def Dev.routeCycles (d : Dev) : Nat → List Nat → Dev
  | 0, evs => { d with evr := { d.evr with inFlight := evs } }
  | fuel + 1, evs =>
    if evs.isEmpty && !d.cellsWait then { d with evr := { d.evr with inFlight := [] } }
    else let r := d.routeCycle evs; r.1.routeCycles fuel r.2

/-- Cycles that one step routes before it leaves the rest in flight for the next one. -/
def routeFuel : Nat := 80

/-- Events raised in one cycle: each sets its own interrupt (Table 16.1) and enters the router, together
with what was in flight. While D1 is off no event is carried. -/
def Dev.raiseEvs (d : Dev) (evs : List Nat) : Dev :=
  if d.domUp 1 then
    let d := evs.foldl (fun d e => match eventIrq e with | some n => d.setIrq n | none => d) d
    if d.armed.isEmpty && !d.cellsWait then d else d.routeCycles routeFuel (d.evr.inFlight ++ evs)
  else d

/-- One event is raised. -/
def Dev.raise (d : Dev) (ev : Nat) : Dev := d.raiseEvs [ev]

/-! Access records (R431). -/

/-- INITIATOR code of Table 19.8. -/
def initiatorCode : Initiator → Nat
  | .core n => n
  | .host => 8
  | .tempo => 9
  | .debug => 10
  | .other => 11

/-- ERR_DECODE records a refused access: a later record overwrites every other field (R431). -/
def Dev.errDecode (d : Dev) (who : Initiator) (bar : Nat) (write : Bool) (addr : Nat) : Dev :=
  let w : Nat := 2 ^ 31 + initiatorCode who * 256 + bar * 2 + b2n write
  ((d.setReg Reg.errDecode (BitVec.ofNat 32 w)).setReg Reg.errDecodeAddr (BitVec.ofNat 32 addr)).raise 0x5E

/-- The address ERR_DECODE gives: the BAR0 offset for the host, the device address otherwise. -/
def recordAddr (who : Initiator) (a : Nat) : Nat :=
  if who = .host then a - 0x20000000 else a

/-- A write the writer may not make is ignored and recorded in ERR_DECODE. -/
def Dev.refuseWrite (d : Dev) (who : Initiator) (a : Nat) : Dev :=
  d.errDecode who 0 true (recordAddr who a)

/-- ERR_GHOST records a host access to a powered-off domain (R27). -/
def Dev.errGhost (d : Dev) (bar : Nat) (write : Bool) (offset dom : Nat) : Dev :=
  let w : Nat := 2 ^ 31 + dom * 256 + bar * 2 + b2n write
  ((d.setReg Reg.errGhost (BitVec.ofNat 32 w)).setReg Reg.errGhostAddr (BitVec.ofNat 32 offset)).raise 0x5E

/-- ERR_RSVD_WRITE records a write with reserved content (R7). -/
def Dev.errRsvd (d : Dev) (who : Initiator) (rejected : Bool) (a : Nat) : Dev :=
  let w : Nat := 2 ^ 31 + initiatorCode who * 256 + b2n rejected
  ((d.setReg Reg.errRsvdWrite (BitVec.ofNat 32 w)).setReg Reg.errRsvdAddr (BitVec.ofNat 32 a)).raise 0x5E

/-! Faults (R420–R422). -/

/-- PERM_WINDOW in ticks. -/
def Dev.permWindow (d : Dev) : Nat := usTicks (1000 * d.rd Fld.errThresh_permWindow)

/-- A permanent fault of resource `res`: recorded, counted and raised (R422). The retirement itself follows
by resource type; rows and queues wait for it (R424). -/
def Dev.permanent (d : Dev) (res : Nat) : Dev :=
  let waits := (decide (res < 2 ^ 28) || res / 2 ^ 28 = 2) && !d.err.waiting.contains res
  let d := if waits then { d with err := { d.err with waiting := d.err.waiting ++ [res] } } else d
  ((d.setReg Reg.errLastPerm (BitVec.ofNat 32 res)).bump Fld.errStat0_permanents).raise 0x5D

/-- The tracker entry that gives way when none is free: of the expired ones the one expired longest ago,
else the lowest count (R422). -/
def victim (now window : Nat) : List Track → Option Track
  | [] => none
  | t :: ts =>
    match victim now window ts with
    | none => some t
    | some u =>
      let te := decide (window ≤ now - t.first)
      let ue := decide (window ≤ now - u.first)
      if te && ue then if t.first ≤ u.first then some t else some u
      else if te then some t else if ue then some u
      else if t.count ≤ u.count then some t else some u

/-- One transient of resource `res` reaches the tracker: the device, and whether the count now exceeds
PERM_THRESHOLD within the window (R422). -/
def Dev.track (d : Dev) (res : Nat) : Dev × Bool :=
  let win := d.permWindow
  match d.err.tracker.find? fun t => t.res = res with
  | some t =>
    let t' : Track := if win ≤ d.tmb - t.first then { t with count := 1, first := d.tmb }
      else { t with count := t.count + 1 }
    ({ d with err := { d.err with
        tracker := d.err.tracker.map fun u => if u.res = res then t' else u } },
      decide (d.rd Fld.errThresh_permThreshold < t'.count))
  | none =>
    let fresh : Track := { res := res, count := 1, first := d.tmb }
    if d.err.tracker.length < 64 then
      ({ d with err := { d.err with tracker := d.err.tracker ++ [fresh] } }, false)
    else
      match victim d.tmb win d.err.tracker with
      | none => (d, false)
      | some v =>
        let d := if win ≤ d.tmb - v.first then d else d.bump Fld.errStat1_trackOverflow
        ({ d with err := { d.err with
            tracker := d.err.tracker.map fun u => if u.res = v.res then fresh else u } }, false)

/-- A transient fault of resource `res`: counted, recorded and raised; too many within the window are judged
permanent (R422). Answers whether the fault is now permanent. -/
def Dev.transient (d : Dev) (res : Nat) : Dev × Bool :=
  let r := d.track res
  if r.2 then (r.1.permanent res, true)
  else (((r.1.setReg Reg.errLastTrans (BitVec.ofNat 32 res)).bump Fld.errStat0_transients).raise 0x5C, false)

/-- Outcome of a fetch whose word failed `fails` times (R420, R421). -/
inductive FetchOutcome where
  /-- The word was delivered. -/
  | good
  /-- The fault was judged permanent, and the word was delivered. -/
  | permanent
  /-- The fourth fetch failed as well: the word is exhausted. -/
  | exhausted
  deriving DecidableEq, Repr

/-- A fetch at address `addr` of resource `res` whose word failed its parity check `fails` times: up to three
replays, each counted (R420); a fourth failure is exhausted and permanent at once (R421, R422). -/
def Dev.fetch (d : Dev) (res addr fails : Nat) : Dev × FetchOutcome :=
  if fails = 0 then (d, .good)
  else if fails ≤ 3 then
    let r := (d.bumpBy fails Fld.errStat1_replays).transient res
    (r.1, if r.2 then .permanent else .good)
  else
    ((d.setReg Reg.errFaultAddr (BitVec.ofNat 32 addr)).permanent res, .exhausted)

/-- Resource identifier of Table 19.2 for an SRAM row. -/
def rowRes (mem row : Nat) : Nat := mem * 2 ^ 22 + row

/-- Resource identifier of Table 19.2 for lanes (1), queues (2), pairs (3), engines (4). -/
def unitRes (type n : Nat) : Nat := type * 2 ^ 28 + n

/-- Resource of the memory word at device address `a` (Tables 19.1 and 19.2): node memory by bank, packet
buffer, core memories. -/
def memRes (a : Nat) : Nat :=
  if 0x10000000 ≤ a ∧ a < 0x10C00000 then
    rowRes (((a - 0x10000000) / 128) % 32) ((a - 0x10000000) / 4096 / 8)
  else if 0x11000000 ≤ a ∧ a < 0x11200000 then rowRes 32 ((a - 0x11000000) / 1024)
  else if 0x04000000 ≤ a ∧ a < 0x04800000 then
    let n := (a - 0x04000000) / 0x100000
    let o := a % 0x100000
    if o < 0x20000 then rowRes (33 + 3 * n) (o / 1024)
    else if o < 0x40000 then rowRes (34 + 3 * n) ((o - 0x20000) / 1024)
    else rowRes (35 + 3 * n) ((o - 0x40000) / 1024)
  else rowRes 57 (a / 1024)

end Sys2Proof.Machine
end

