-- ==== Sys2Proof/Machine/Areas.lean ====
section
/-! DEFINITION. The memories of the device map (Tables 01.6 and 01.8) and the ranges that a cipher request
spans in them (R399, R409). -/

namespace Sys2Proof.Machine

open Sys2Proof

/-! Memories. -/

/-- One memory of Table 01.6: first address, size, domain. Core windows hold three memories each
(Table 01.8). -/
structure MemArea where
  base : Nat
  size : Nat
  dom : Nat
  deriving DecidableEq, Repr

/-- The memories of the device map: the boot ROM, the core memories, node memory and the packet buffer. -/
def memAreas : List MemArea :=
  [⟨0, 0x40000, 1⟩, ⟨0x10000000, 0xC00000, 22⟩, ⟨0x11000000, 0x200000, 23⟩] ++
  (List.range 8).flatMap fun n =>
    let b := 0x04000000 + n * 0x100000
    [⟨b, 0x10000, 2 + n⟩, ⟨b + 0x20000, 0x20000, 2 + n⟩, ⟨b + 0x40000, 0x20000, 2 + n⟩]

/-- The memory that holds the whole range of `n` bytes at `a`. -/
def areaOf (a n : Nat) : Option MemArea :=
  memAreas.find? fun m => decide (m.base ≤ a) && decide (a + n ≤ m.base + m.size)

/-- Octets read at SRC and written at DST (Table 18.2). -/
def CipherReq.inLen (r : CipherReq) : Nat :=
  match r.mode with
  | 0 => r.mLen
  | 1 | 2 => 16 + r.mLen
  | 3 => r.mLen + (if r.dec then r.tagLen else 0)
  | _ => r.nonceLen + r.aLen + r.mLen + (if r.dec then r.tagLen else 0)

def CipherReq.outLen (r : CipherReq) : Nat :=
  match r.mode with
  | 3 => if r.dec then 0 else r.tagLen
  | 4 => r.mLen + (if r.dec then 0 else r.tagLen)
  | _ => r.mLen

/-- Domains that a request needs (R409). -/
def CipherReq.domains (r : CipherReq) : List Nat :=
  let of a n := match areaOf a n with | some m => [m.dom] | none => []
  (match r.direct with
    | some _ => []
    | none => of r.src r.inLen ++ (if r.outLen = 0 then [] else of r.dst r.outLen))
  ++ (if r.byNode then [22, 25] else [])

/-- The memory of the `n` octets at `a` answers: its domain is up (R24). -/
def Dev.memUp (d : Dev) (a n : Nat) : Bool :=
  match areaOf a n with
  | some m => d.domUp m.dom
  | none => false

/-- Octets of CTX, RTE, IDX or FTB, which only their own engines write (R231, R266). -/
def isNodeTable (a : Nat) : Bool :=
  (decide (0x10000000 ≤ a) && decide (a < 0x10400000)) || (decide (0x10980000 ≤ a) && decide (a < 0x10C00000))

end Sys2Proof.Machine
end

