-- ==== Sys2Proof/Machine/Votes.lean ====
section
/-! DEFINITION. The vote tally: which client votes for which domain (R58, R61, R11, R57). Hardware clients
vote by the state of their block, so their votes are computed from it. -/

namespace Sys2Proof.Machine

open Sys2Proof

/-- Bit of domain `n` in a vote word. -/
def voteBit (n : Nat) : Nat := 2 ^ n

/-- Bits [29:1], the domains that take votes (R59). -/
def voteMask : Nat := 0x3FFFFFFE

/-- The Tempo pair that serves a channel (R14). -/
def pairOf (sub : Bool) (c : Nat) : Nat := if sub then 2 else if c ≤ 18 then 0 else 1

/-- D10 holds the Tempo engines and their state. -/
def Dev.tempoUp (d : Dev) : Bool :=
  match d.domSt 10 with
  | .off | .ret | .poweringUp => false
  | _ => true

/-- The vote client that acts for pair `p`: its own, or V13 once TP4 has taken over (R185, R201). -/
def Dev.pairClient (d : Dev) (p : Nat) : Option Nat :=
  if !d.pairs.retired.contains p then some (9 + p)
  else if d.pairs.replaces = p && !d.pairs.retired.contains 4 then some 13
  else none

/-- RX domains of a band, with D17 (R217). -/
def rxVotes (sub : Bool) : Nat :=
  voteBit 17 ||| if sub then voteBit 15 ||| voteBit 16
    else voteBit 11 ||| voteBit 12 ||| voteBit 13 ||| voteBit 14

/-- TX domain of a band's chain 0 (R217). -/
def txVote0 (sub : Bool) : Nat := voteBit (if sub then 20 else 18)

/-- A window that holds its votes (R217). -/
def NodeWin.holds (w : NodeWin) : Bool := w.phase != .planned

/-- Votes are cast for the open window or for a coming occurrence of an entry in force (R207). -/
def Dev.slotVotes (d : Dev) (r : SlotRun) : Bool :=
  r.openTill.isSome || (r.lead.isSome && d.is Fld.lnkSlotW0_en r.entry && d.rd Fld.lnkSlotW0_kind r.entry = 0)

/-- Band and channel of a slot-program entry. -/
def SlotRun.sub (r : SlotRun) : Bool := (r.cfg.getD 0 0).testBit 3
def SlotRun.chan (r : SlotRun) : Nat := bitsOf (r.cfg.getD 0 0) 9 4

/-- Votes that pair `p` casts beyond D24: receive windows for TP0–TP2, chains and listens for TP3 (R183,
R207, R217, R220, R448). -/
def Dev.pairVotes (d : Dev) (p : Nat) : Nat :=
  let wins := d.tempo.wins.filter NodeWin.holds
  let checks := d.tempo.checks.filter fun c => c.lead.isSome
  if p = 3 then
    let m := wins.foldl (fun m w => m ||| txVote0 w.sub) 0
    d.tx.frames.foldl (fun m f =>
      m ||| (match f.dom with | some n => voteBit n | none => 0)
        ||| (match f.stage with | .committed n => voteBit (18 + n) | _ => 0)
        ||| (if f.listen.isSome then voteBit 17 ||| voteBit (if f.sub then 15 else 11) else 0)) m
  else
    let m := wins.foldl (fun m w => if pairOf w.sub w.chan = p then m ||| rxVotes w.sub else m) 0
    let m := checks.foldl (fun m c => if pairOf c.sub c.chan = p then m ||| rxVotes c.sub else m) m
    d.tempo.slots.foldl (fun m r => if d.slotVotes r && pairOf r.sub r.chan = p then m ||| rxVotes r.sub else m) m

/-- Votes of client V9–V13 (R185, R201, R409). -/
def Dev.tempoVotes (d : Dev) (v : Nat) : Nat :=
  if !d.tempoUp then 0
  else
    (List.range 4).foldl (fun m p =>
      if d.pairClient p = some v then m ||| voteBit 24 ||| d.pairVotes p else m) 0

/-- Votes of the calibration sequencer (R54, R93, R105). -/
def Dev.calVotes (d : Dev) : Nat :=
  let bits (l : List Nat) : Nat := l.foldl (fun m n => m ||| voteBit n) 0
  (match d.rfs.cmd with | some c => bits c.doms | none => 0) ||| bits (d.rfs.stage6.map (· + 18))
    ||| (if 1 ≤ d.boot.calStage ∧ d.boot.calStage ≤ 6 then bits [11, 12, 13, 14, 15, 16, 18, 19, 20, 21] else 0)

/-- Votes a client holds beyond its stored word, from the state of its block. -/
def Dev.derivedVotes (d : Dev) (v : Nat) : Nat :=
  if v < 8 then
    -- the temporary vote of an alias access (R25); V0 holds D1, D22 and D25 during a transition (R392)
    (match (d.core v).stalled with
    | some w => voteBit w.dom
    | none => 0) ||| (if v = 0 ∧ d.lc.isSome then voteBit 1 ||| voteBit 22 ||| voteBit 25 else 0)
  else if v = 8 then
    -- temporary votes of waking host commands (R304)
    d.hci.cmds.foldl (fun m c => c.votes.foldl (fun m n => m ||| voteBit n) m) 0
  else if v = 14 then
    -- the watch chain (R79) and an enabled wake-up receiver (R73)
    (match d.pwr.watchVote with | some n => voteBit n | none => 0)
      ||| (if d.is Fld.pwrWakeCfg_wurxEn then voteBit 29 else 0)
  else if v = 17 then
    -- the domains of queued and running cipher requests (R409)
    (d.cph.queue ++ d.cph.engines.flatMap fun e =>
        (match e.run with | some r => [r.req] | none => []) ++ (match e.susp with | some r => [r.req] | none => [])).foldl
      (fun m r => r.domains.foldl (fun m n => m ||| voteBit n) m) 0
  else if v = 15 then
    -- a running event timer or pulse holds D1 (R58)
    if d.evr.expiry.isEmpty && d.evr.pulses.isEmpty then 0 else voteBit 1
  else if 9 ≤ v ∧ v ≤ 13 then d.tempoVotes v
  else if v = 16 then
    -- D24 while the federation runs (R409)
    if d.domUp 27 && d.rd Fld.fedStatus_state != 0 then voteBit 24 else 0
  else if v = 18 then d.calVotes
  else 0

/-- Votes that the block of client Vn asks for and that a write of PWR_VOTE_Vn has withdrawn (R61). -/
def Dev.mutedVotes (d : Dev) (v : Nat) : Nat := (alGet v d.pwr.muted).getD 0

/-- The votes of client Vn that its block holds: what it asks for, less what a write has withdrawn (R61). -/
def Dev.blockVotes (d : Dev) (v : Nat) : Nat := d.derivedVotes v &&& (0xFFFFFFFF ^^^ d.mutedVotes v)

/-- Every vote of client Vn, stored and derived (R61). -/
def Dev.clientVotes (d : Dev) (v : Nat) : Nat :=
  (if v < 20 then (d.reg (Reg.pwrVoteV + 4 * v)).toNat else 0) ||| d.blockVotes v

/-- A withdrawn vote that the block no longer asks for may be cast again (R61). -/
def Dev.unmute (d : Dev) : Dev :=
  if d.pwr.muted.isEmpty then d
  else
    { d with pwr := { d.pwr with
        muted := (d.pwr.muted.map fun x => (x.1, x.2 &&& d.derivedVotes x.1)).filter fun x => x.2 != 0 } }

/-- Some client votes for domain `n`. -/
def Dev.voted (d : Dev) (n : Nat) : Bool :=
  (List.range 20).any fun v => (d.clientVotes v).testBit n

/-- The lowest client that votes for domain `n`; 0x22 where only an implicit vote holds it (R62). -/
def Dev.voter (d : Dev) (n : Nat) : Nat :=
  ((List.range 20).find? fun v => (d.clientVotes v).testBit n).getD 0x22

/-- Domain `n` is in a state other than OFF and RET. -/
def Dev.awake (d : Dev) (n : Nat) : Bool :=
  match d.domSt n with
  | .off => false
  | .ret => false
  | _ => true

/-- Domain `n` is held by an implicit vote: D11 by D12–D14, D15 by D16 (R11), D1 by D2–D28 (R57). -/
def Dev.implicit (d : Dev) (n : Nat) : Bool :=
  if n = 11 then d.awake 12 || d.awake 13 || d.awake 14
  else if n = 15 then d.awake 16
  else if n = 1 then (List.range 27).any fun k => d.awake (k + 2)
  else false

/-- The tally of domain `n`: at least one vote, explicit or implicit (R61). -/
def Dev.tally (d : Dev) (n : Nat) : Bool := d.voted n || d.implicit n

/-- GOOD bits of the rails that feed domain `n` (Tables 03.1 and 04.1). -/
def railMask (n : Nat) : Nat :=
  if n = 0 then 0x01
  else if 2 ≤ n ∧ n ≤ 9 then 0x08
  else if (11 ≤ n ∧ n ≤ 16) ∨ (18 ≤ n ∧ n ≤ 21) then 0x30
  else if n = 26 ∨ n = 27 then 0x44
  else 0x04

/-- Every rail of domain `n` is good. -/
def Dev.railGood (d : Dev) (n : Nat) : Bool :=
  d.rd Fld.sysSupplyStatus_good &&& railMask n = railMask n

/-- Every rail is good. -/
def Dev.allRailsGood (d : Dev) : Bool := d.rd Fld.sysSupplyStatus_good = 0x7F

/-- Domains whose switch-on is limited to one in 10 µs (R57). -/
def staggered (n : Nat) : Bool := (decide (11 ≤ n) && decide (n ≤ 21)) || n = 26 || n = 27

/-- Replaces the record of domain `n`. -/
def Dev.setDom (d : Dev) (n : Nat) (m : Domain) : Dev :=
  { d with pwr := { d.pwr with doms := putAt n m d.pwr.doms } }

/-- The record of domain `n`. -/
def Dev.dom (d : Dev) (n : Nat) : Domain := d.pwr.doms.getD n {}

/-- An aborted entry of domain `n`: ABORTS counts and the voter is recorded (R62, R66). -/
def Dev.abortEntry (d : Dev) (n voter : Nat) : Dev :=
  (d.bump Fld.pwrDomAbort_aborts n).wr Fld.pwrDomAbort_lastRefuser voter n

/-- A refusal of domain `n`: REFUSALS counts and the cause is recorded (R62, R66). -/
def Dev.refusal (d : Dev) (n cause : Nat) : Dev :=
  (d.bump Fld.pwrDomAbort_refusals n).wr Fld.pwrDomAbort_lastRefuser cause n

/-- Domain `n` gains its first vote (Table 04.4, rows "tally 1"). -/
def Dev.tallyUp (d : Dev) (n : Nat) : Dev :=
  let m := { d.dom n with tally := true }
  match m.st with
  | .off | .ret =>
    if d.railGood n then
      d.setDom n { m with st := .poweringUp, fromRet := m.st = .ret, started := !staggered n, pend := .none }
    else (d.setDom n { m with pend := .up, supplyWait := true }).refusal n 0x21
  | .poweringUp => d.setDom n { m with pend := .none }
  | .on => d.setDom n { m with pend := .none }
  | .draining => (d.setDom n { m with st := .on, pend := .none }).abortEntry n (d.voter n)
  | .isolating | .switchingOff => d.setDom n { m with pend := .up, upBy := d.voter n }

/-- The coexistence unit's sleep levels before D1 drains, by the role in effect: GNT high as arbiter, a rise counted and
raised as any other, and the client outputs low (R112, R113). -/
def Dev.coexSleep (d : Dev) : Dev :=
  match d.coex.role with
  | 1 => ((d.wr Fld.coexStatus_req 0).wr Fld.coexStatus_pri 0).wr Fld.coexStatus_act 0
  | 2 => if d.is Fld.coexStatus_gnt then d
    else ((d.wr Fld.coexStatus_gnt 1).bump Fld.coexStat1_extGrants).raise 0x2D
  | _ => d

/-- Domain `n` has entered DRAINING: D1 sets the coexistence levels, and the PCI Express link of D26 goes down
(R34, R112). -/
def Dev.drainStart (d : Dev) (n : Nat) : Dev :=
  if n = 1 then d.coexSleep
  else if n = 26 then { d with pins := { d.pins with pcieLinkUp := false } }
  else d

/-- Domain `n` loses its last vote (Table 04.4, rows "tally 0"). -/
def Dev.tallyDown (d : Dev) (n : Nat) : Dev :=
  let m := { d.dom n with tally := false }
  match m.st with
  | .off | .ret => d.setDom n { m with pend := .none, supplyWait := false }
  | .poweringUp => d.setDom n { m with pend := .down }
  | .on => (d.setDom n { m with st := .draining, pend := .none }).drainStart n
  | .draining => d.setDom n m
  | .isolating | .switchingOff => d.setDom n { m with pend := .none }

/-- PWR compares the tally of domain `n` with the last one it saw and follows Table 04.4. -/
def Dev.settleDom (d : Dev) (n : Nat) : Dev :=
  let t := d.tally n
  if t && !(d.dom n).tally then d.tallyUp n
  else if !t && (d.dom n).tally then d.tallyDown n
  else d

/-- Domains D29 down to D1: an implicit vote only ever flows to a lower index (R11, R57), so one pass in
this order reaches every domain. -/
def settleOrder : List Nat := (List.range 29).map fun k => 29 - k

/-- One pass over the domains. -/
def Dev.settlePass (d : Dev) : Dev := settleOrder.foldl Dev.settleDom d

/-- No wake source is enabled: no WAKEn pin, no wake-up receiver with an address, no timer, no watch
sequencer (R76). -/
def Dev.noWakeSource (d : Dev) : Bool :=
  ((List.range 4).all fun n => !(d.rd Fld.pwrWakeCfg_pin).testBit (4 * n + 3)) &&
    (!d.is Fld.pwrWakeCfg_wurxEn || d.rd Fld.pwrWurxAddr_addr = 0) &&
    !d.is Fld.pwrWakeCfg_timerEn && !d.is Fld.pwrWatchCtrl_en

/-- With no wake source left when the last domain other than D0 leaves ON, V14 votes D29 and the receiver
listens for OTP_WURX_FALLBACK (R76). -/
def Dev.fallbackArm (before d : Dev) : Dev :=
  let anyOn (x : Dev) : Bool := (List.range 29).any fun k => x.domSt (k + 1) = .on
  if anyOn before && !anyOn d && d.noWakeSource then
    let d := d.setReg (Reg.pwrVoteV + 4 * 14)
      (BitVec.ofNat 32 ((d.reg (Reg.pwrVoteV + 4 * 14)).toNat ||| voteBit 29))
    ({ d with pwr := { d.pwr with fallback := true } }).settlePass
  else d

/-- PWR evaluates every tally after votes or domain states have changed. -/
def Dev.settle (d : Dev) : Dev := Dev.fallbackArm d d.unmute.settlePass

end Sys2Proof.Machine
end

