-- ==== Sys2Proof/Machine/Phy.lean ====
section
/-! DEFINITION. PHY modes, channels, air times and checksums (PHY modes, framing and the Check pattern), and
the regulatory words that the PHY and the checks read (R173–R176). PHY codes: 0 O-QPSK, 1 Blitz,
2 SUN-FSK (R138), 3 the Check pattern. Times are ticks of 31.25 ns. -/

namespace Sys2Proof.Machine

open Sys2Proof

/-! Regulatory words. -/

/-- The value of mirror word `w` when its pair is valid (R175, R426). -/
def Dev.mirrorWord (d : Dev) (w : Nat) : Option Nat :=
  let v := d.reg (Reg.regMirrorW + 4 * w)
  if v ^^^ d.reg (Reg.regMirrorC + 4 * w) = BitVec.allOnes 32 then some v.toNat else none

/-- The value of region word `w` that commit checks use: REG_STAGE while MFG_OPEN is 1, else the mirror
(R176). -/
def Dev.regWord (d : Dev) (w : Nat) : Option Nat :=
  if d.is Fld.regStatus_mfgOpen then some (d.reg (Reg.regStageW + 4 * w)).toNat else d.mirrorWord w

/-- Field `[hi:lo]` of region word `w`; 0 where the word has no value. -/
def Dev.regField (d : Dev) (w hi lo : Nat) : Nat := bitsOf ((d.regWord w).getD 0) hi lo

/-- W1 obeys Table 08.7: reserved bits 0, GRID 1 only on the 863–876 MHz band. -/
def w1Valid (v : Nat) : Bool :=
  bitsOf v 3 3 = 0 && bitsOf v 31 10 = 0 && !(bitsOf v 0 0 = 1 && bitsOf v 1 1 = 1)

/-- SUB_BAND and GRID of the effective W1; 863–876 MHz with G200 without a valid one (R173, R176). -/
def Dev.w1Band (d : Dev) : Nat × Nat :=
  match d.regWord 1 with
  | some v => if w1Valid v then (bitsOf v 0 0, bitsOf v 1 1) else (0, 0)
  | none => (0, 0)

/-! Channels and modes. -/

/-- The grid in effect defines band-plan index `i` (Table 07.3). -/
def Dev.idxDefined (d : Dev) (i : Nat) : Bool :=
  if d.region.band = 0 ∧ d.region.grid = 1 then decide (i < 32) else decide (i < 64)

/-- Channel `c` exists on the 2.4 GHz band (`sub` false) or on the sub-GHz grid in effect. -/
def Dev.chanDefined (d : Dev) (sub : Bool) (c : Nat) : Bool :=
  if sub then d.idxDefined c else decide (11 ≤ c) && decide (c ≤ 26)

/-- Centre of a channel in kHz (R142, Table 07.3). -/
def Dev.centre (d : Dev) (sub : Bool) (c : Nat) : Nat :=
  if !sub then 2405000 + 5000 * (c - 11)
  else if d.region.band = 1 then 902400 + 400 * c
  else if d.region.grid = 1 then 863225 + 400 * c
  else 863125 + 200 * c

/-- The grid in effect carries SUN-FSK mode value `m` (Table 07.2). -/
def Dev.modeCarried (d : Dev) (m : Nat) : Bool :=
  if d.region.band = 1 then decide (m ≤ 2)
  else if d.region.grid = 1 then m = 1 || m = 2
  else m = 0

/-- Data rate in kb/s of SUN-FSK mode value `m` on the band in effect (Table 07.2). -/
def Dev.sunRate (d : Dev) (m : Nat) : Nat :=
  if d.region.band = 1 then (if m = 0 then 50 else if m = 1 then 150 else 200)
  else if m = 0 then 50 else 100

/-- Symbol rate in ksym/s of SUN-FSK mode value `m` (Table 07.2). -/
def Dev.sunSymbolRate (d : Dev) (m : Nat) : Nat :=
  if d.region.band = 1 then (if m = 0 then 50 else if m = 1 then 150 else 200)
  else if m = 1 then 100 else 50

/-- round(num / den), halves away from zero. -/
def roundDiv (num : Int) (den : Nat) : Int :=
  if 0 ≤ num then (2 * num + den) / (2 * den : Nat) else -((2 * (-num) + den) / (2 * den : Nat))

/-- Ticks of `n` bits at `r` kb/s, rounded up to a whole tick. -/
def bitTicks (n r : Nat) : Nat := (n * 32000 + r - 1) / r

/-- Tail bits of the RSC code (N_tail of R145), as IEEE 802.15.4-2020 gives. -/
def rscTail : Nat := 3

/-- Pad bits of the interleaved RSC code for an `l`-octet PSDU (N_pad of R145): PHR, PSDU, tail and pad fill whole blocks of
16 bits before coding. -/
def rscPad (l : Nat) : Nat := if l % 2 = 0 then 13 else 5

/-- Air time from the freeze point to the end of the frame: SFD or sync word, PHR and PSDU (R138, R142,
R145, R151). -/
def Dev.afterFreeze (d : Dev) (phy mode l : Nat) (fec : Bool) : Nat :=
  match phy with
  | 0 => usTicks (32 * (2 + l))
  | 1 => usTicks (38 + (if fec then 8 * l + 6 else 4 * l))
  | _ =>
    if fec then bitTicks (16 + 2 * (16 + 8 * l + rscTail + rscPad l)) (d.sunRate mode)
    else bitTicks (32 + 8 * l) (d.sunRate mode)

/-- Air time of a frame from its first chip to its last, with a `p`-octet SUN-FSK preamble (R142, R145,
R151, R157). -/
def Dev.airTicks (d : Dev) (phy mode l p : Nat) (fec : Bool) : Nat :=
  match phy with
  | 0 => usTicks (32 * (6 + l))
  | 1 => usTicks (54 + (if fec then 8 * l + 6 else 4 * l))
  | 2 =>
    if fec then bitTicks (8 * p + 16 + 2 * (16 + 8 * l + rscTail + rscPad l)) (d.sunRate mode)
    else bitTicks (8 * p + 32 + 8 * l) (d.sunRate mode)
  | _ => usTicks 13000

/-- Turnaround of a PHY (R142, R145, R154). -/
def turnaround (phy : Nat) : Nat :=
  match phy with
  | 0 => usTicks 192
  | 1 => usTicks 80
  | _ => usTicks 1000

/-- Largest PSDU of a PHY in octets (R142, R145, R153). -/
def maxPsdu (phy : Nat) : Nat := if phy = 0 then 127 else 2047

/-! Checksums of IEEE 802.15.4 frames. -/

/-- The 16-bit FCS (ITU-T CRC, polynomial 0x1021 reflected, initial 0). -/
def fcs16 (bs : List Byte) : Nat := crcRef 0x8408 bs 0

/-- The 32-bit FCS (CRC-32); frames shorter than 4 octets are extended with zero octets. -/
def fcs32 (bs : List Byte) : Nat := crc32 (if bs.length < 4 then padTo 4 bs else bs)

/-- Octets of the FCS. -/
def fcsLen (short : Bool) : Nat := if short then 2 else 4

/-- The FCS octets of a MAC frame. -/
def fcsBytes (short : Bool) (bs : List Byte) : List Byte :=
  if short then natLe 2 (fcs16 bs) else natLe 4 (fcs32 bs)

/-- The FCS at the end of a PSDU is the one of its MAC frame. -/
def fcsOk (short : Bool) (psdu : List Byte) : Bool :=
  let n := psdu.length - fcsLen short
  decide (fcsLen short ≤ psdu.length) && psdu.drop n = fcsBytes short (psdu.take n)

/-! Physical headers. -/

/-- What a PHR announces. -/
structure Phr where
  len : Nat
  fcs16 : Bool
  fec : Bool
  whiten : Bool
  deriving DecidableEq, Repr

/-- The octet PHR of O-QPSK: length in [6:0], bit 7 reserved; a length below the FCS is invalid (R142,
R127). -/
def phrOqpsk (v : Nat) : Option Phr :=
  let l := bitsOf v 6 0
  if bitsOf v 7 7 = 0 ∧ 2 ≤ l then some ⟨l, true, false, false⟩ else none

/-- The Blitz PHR (Table 07.8). -/
def phrBlitz (v : Nat) : Option Phr :=
  let l := bitsOf v 10 0
  let short := bitsOf v 12 12 = 1
  if bitsOf v 14 13 ≠ 0 ∨ bitsOf v 15 15 ≠ 0 ∨ l = 0 ∨ l < fcsLen short then none
  else some ⟨l, short, bitsOf v 11 11 = 1, true⟩

/-- The SUN-FSK PHR as a 16-bit number whose bit 15 is the first of Table 07.4; `coded` comes from the
SFD (R145). -/
def phrSun (v : Nat) (coded : Bool) : Option Phr :=
  let l := bitsOf v 10 0
  let short := bitsOf v 12 12 = 1
  if bitsOf v 15 13 ≠ 0 ∨ l = 0 ∨ l < fcsLen short then none
  else some ⟨l, short, coded, bitsOf v 11 11 = 1⟩

/-- The PHR of a PHY (R127, R142, R145, R152). -/
def phrOf (phy v : Nat) (coded : Bool) : Option Phr :=
  match phy with
  | 0 => phrOqpsk v
  | 1 => phrBlitz v
  | _ => phrSun v coded

/-! The Check pattern. -/

/-- One step of the telegram CRC (R158). -/
def checkCrcBit (crc : Nat) (b : Bool) : Nat :=
  let fb := b != crc.testBit 7
  let s := (crc <<< 1) % 256
  if fb then s ^^^ 0x07 else s

/-- The bits of a number, `n` of them, highest first. -/
def bitsHigh (v : Nat) : Nat → List Bool
  | 0 => []
  | n + 1 => v.testBit n :: bitsHigh v n

/-- The CRC over the 32 address bits, bit 31 first (R158). -/
def checkCrc (addr : Nat) : Nat := (bitsHigh addr 32).foldl checkCrcBit 0

/-- Two chips of a Manchester bit (R158). -/
def manchester (b : Bool) : List Bool := if b then [true, false] else [false, true]

/-- The 104 chips of a telegram (Table 07.9). -/
def telegram (addr : Nat) : List Bool :=
  ((List.range 16).map fun i => decide (i % 2 = 0)) ++ bitsHigh 0xF0 8
    ++ (bitsHigh addr 32).flatMap manchester ++ (bitsHigh (checkCrc addr) 8).flatMap manchester

/-- The bits of Manchester pairs, where every pair is valid. -/
def unManchester : List Bool → Option (List Bool)
  | [] => some []
  | [_] => none
  | a :: b :: l => if a = b then none else (unManchester l).map (a :: ·)

/-- The number that bits spell, highest first. -/
def bitsNat (l : List Bool) : Nat := l.foldl (fun n b => 2 * n + b2n b) 0

/-- The address of a received telegram whose chips from the preamble on are `chips`: 8 or more alternating
chips, the start field, 40 valid pairs and a matching CRC (R159). -/
def telegramAddr (chips : List Bool) : Option Nat :=
  let n := chips.length - 88
  let pre := chips.take n
  let alt := (List.range 7).all fun i => pre.getD (n - 8 + i) false != pre.getD (n - 7 + i) false
  if 8 ≤ n ∧ alt ∧ slice' chips n 8 = bitsHigh 0xF0 8 then
    match unManchester (slice' chips (n + 8) 80) with
    | some bits =>
      let a := bitsNat (bits.take 32)
      if bitsNat (bits.drop 32) = checkCrc a then some a else none
    | none => none
  else none
where
  slice' (l : List Bool) (i n : Nat) : List Bool := (l.drop i).take n

end Sys2Proof.Machine
end

