-- ==== Sys2Proof/Machine/Region.lean ====
section
/-! DEFINITION. The regulatory region, its mirror, programming and sealing, duty and dwell accounting
(R166–R184), and the commands of the REG block. -/

namespace Sys2Proof.Machine

open Sys2Proof

/-! OTP positions (R174). -/

/-- The position `p` (0 or 1) of region word `w`. -/
def Dev.position (d : Dev) (w p : Nat) : Option Position := alGet (2 * w + p) d.otpRegion

/-- A position is valid when value XOR complement is all ones (R174, R426). -/
def Position.valid (q : Position) : Bool := q.value ^^^ q.compl = 0xFFFFFFFF

/-- The effective value of region word `w`: that of its highest-numbered valid position (R174). -/
def Dev.otpWord (d : Dev) (w : Nat) : Option Nat :=
  match (d.position w 1).filter Position.valid with
  | some q => some q.value
  | none => ((d.position w 0).filter Position.valid).map (·.value)

/-- The lowest free position of word `w`: both rows all zeros (R174). -/
def Dev.freePosition (d : Dev) (w : Nat) : Option Nat :=
  [0, 1].find? fun p => match d.position w p with
    | none => true
    | some q => q.value = 0 && q.compl = 0

/-! Bands and locks (R173, R175, R176). -/

/-- Word `w` obeys Table 08.7 with value `v`, beside the band and grid of W1. The DUTY range depends on EN of the entry and is
checked apart (R173). -/
def wordRuleOk (band grid w v : Nat) : Bool :=
  if w = 1 then w1Valid v
  else if w = 2 then bitsOf v 31 8 = 0 && decide (bitsOf v 7 0 ≤ 100)
  else if w = 3 ∨ w = 4 then bitsOf v 15 9 = 0 && bitsOf v 31 23 = 0
  else if w = 5 then bitsOf v 31 16 = 0
  else if w = 7 then !(band = 0 && grid = 1 && v != 0)
  else if w = 12 ∨ w = 13 then
    bitsOf v 31 22 = 0 &&
      (bitsOf v 15 0 = 0 || (decide (1 ≤ bitsOf v 21 16) && decide (bitsOf v 21 16 ≤ 60)))
  else if 14 ≤ w ∧ w ≤ 29 then
    if w % 2 = 0 then bitsOf v 7 3 = 0 && bitsOf v 15 14 = 0 && bitsOf v 31 22 = 0
    else bitsOf v 23 17 = 0
  else if w = 30 ∨ w = 31 then false
  else true

/-- Word `w` alone obeys Table 08.7: PROG leaves the rules that depend on another word to SEAL and the commit checks
(R177). -/
def wordAloneOk (w v : Nat) : Bool := w = 7 || wordRuleOk 0 0 w v

/-- Some enabled duty entry of band `b` listens (R173). -/
def Dev.bandLbt (d : Dev) (b : Nat) : Bool :=
  (List.range 8).any fun e =>
    d.regField (14 + 2 * e) 0 0 = 1 && d.regField (14 + 2 * e) 1 1 = b && d.regField (14 + 2 * e) 2 2 = 1

/-- The mandatory words of band `b` (0 for 2.4 GHz, 1 for sub-GHz): W1, power, allow masks, FEM_GAIN, and
LBT where an enabled entry listens (R173). -/
def Dev.mandatory (d : Dev) (b : Nat) : List Nat :=
  (if b = 0 then [1, 3, 5, 8] else [1, 4, 6, 7, 9]) ++ (if d.bandLbt b then [10 + b] else [])

/-- Band `b` is enabled in the effective W1 (B24_EN, SUB_EN). -/
def Dev.bandEnabled (d : Dev) (b : Nat) : Bool := d.regField 1 (8 + b) (8 + b) = 1

/-- The words that band `b` cannot do without: W1, and its mandatory words where it is enabled (R173). -/
def Dev.neededWords (d : Dev) (b : Nat) : List Nat := 1 :: (if d.bandEnabled b then d.mandatory b else [])

/-- An enabled entry of band `b` has DUTY outside 1 to 100,000 (R173). -/
def Dev.dutyRangeBad (d : Dev) (b : Nat) : Bool :=
  (List.range 8).any fun e =>
    d.regField (14 + 2 * e) 0 0 = 1 && d.regField (14 + 2 * e) 1 1 = b &&
      !(decide (1 ≤ d.regField (15 + 2 * e) 16 0) && decide (d.regField (15 + 2 * e) 16 0 ≤ 100000))

/-- Band `b` is locked: a mandatory word has no value or, unsealed, breaks its rule; an enabled entry of it has a staged DUTY
out of range; or a duty-entry word is damaged (R175, R176, R177). -/
def Dev.bandBad (d : Dev) (b : Nat) : Bool :=
  ((d.neededWords b).any fun w =>
      match d.regWord w with
      | none => true
      | some v => d.is Fld.regStatus_mfgOpen && !wordRuleOk (d.regField 1 0 0) (d.regField 1 1 1) w v)
    || (d.is Fld.regStatus_mfgOpen && d.dutyRangeBad b)
    || d.region.bad.any fun w => 14 ≤ w && w ≤ 29

/-- Whether the region is sealed: the effective value of W0 (R176). -/
def Dev.isSealed (d : Dev) : Bool := d.otpWord 0 = some 0x5EA1ED5A

/-- Life-cycle state code of R388: 0 BLANK, 1 MANUFACTURE, 2 FIELD, 3 RETURN, 4 SCRAPPED. -/
def Dev.lcState (d : Dev) : Nat := d.rd Fld.otpLcStatus_state

/-- REG_STATUS brought up to date: SEALED, MFG_OPEN and the band locks (R175, R176). A lock that is newly set
raises REG_LOCK. -/
def Dev.regStatusUpdate (d : Dev) : Dev :=
  let old24 := d.is Fld.regStatus_lock24
  let oldS := d.is Fld.regStatus_locks
  let sealed := d.isSealed
  let d := d.wr Fld.regStatus_sealed (b2n sealed)
  let d := d.wr Fld.regStatus_mfgOpen (b2n (!sealed && d.lcState = 1))
  let open' := sealed || d.is Fld.regStatus_mfgOpen
  let lock24 := !open' || d.bandBad 0
  let lockS := !open' || d.bandBad 1
  let d := d.wr Fld.regStatus_lock24 (b2n lock24)
  let d := d.wr Fld.regStatus_locks (b2n lockS)
  if (lock24 && !old24) || (lockS && !oldS) then d.raise 0x5F else d

/-- Word `w` of the mirror loaded from OTP: value and complement, or zeros without an effective value
(R175). -/
def Dev.mirrorLoadWord (d : Dev) (w : Nat) : Dev :=
  match d.otpWord w with
  | some v => (d.setReg (Reg.regMirrorW + 4 * w) (BitVec.ofNat 32 v)).setReg (Reg.regMirrorC + 4 * w)
      (~~~ BitVec.ofNat 32 v)
  | none => (d.setReg (Reg.regMirrorW + 4 * w) 0).setReg (Reg.regMirrorC + 4 * w) 0

/-! Duty accounting (R180–R182). -/

/-- Duty entry `e` is in force. -/
def Dev.dutyEnabled (d : Dev) (e : Nat) : Bool := d.regField (14 + 2 * e) 0 0 = 1

/-- Budget of entry `e` in µs over the 3,600 s window (R180). -/
def Dev.dutyBudget (d : Dev) (e : Nat) : Nat :=
  if d.dutyEnabled e then d.regField (15 + 2 * e) 16 0 * 36000 else 0

/-- The enabled entry of the band whose range holds channel `c` (R180). -/
def Dev.dutyEntry (d : Dev) (sub : Bool) (c : Nat) : Option Nat :=
  (List.range 8).find? fun e =>
    d.dutyEnabled e && d.regField (14 + 2 * e) 1 1 = b2n sub
      && decide (d.regField (14 + 2 * e) 13 8 ≤ c) && decide (c ≤ d.regField (14 + 2 * e) 21 16)

/-- The history of duty entry `e`. -/
def Dev.dutyHist (d : Dev) (e : Nat) : DutyEntry := d.duty.entries.getD e {}

/-- Replaces the history of entry `e`. -/
def Dev.setDutyHist (d : Dev) (e : Nat) (h : DutyEntry) : Dev :=
  { d with duty := { d.duty with entries := putAt e h d.duty.entries } }

/-- Units held by a list of buckets. -/
def bucketSum (l : List (Nat × Nat)) : Nat := l.foldl (fun n b => n + b.2) 0

/-- REG_DUTY_USED and REG_DUTY_BUDGET of entry `e` brought up to date (R180, R184). -/
def Dev.dutyRegs (d : Dev) (e : Nat) : Dev :=
  (d.wr Fld.regDutyUsed_used (32 * bucketSum (d.dutyHist e).buckets) e).wr Fld.regDutyBudget_budget
    (d.dutyBudget e) e

/-- Charge of an air time in µs: 32 × ceil(t / 32), in µs (R180). -/
def dutyCharge (us : Nat) : Nat := 32 * ((us + 31) / 32)

/-- Dwell key of a channel. -/
def chanKey (sub : Bool) (c : Nat) : Nat := 64 * b2n sub + c

/-- Air time of a channel over the last PERIOD_S buckets, in µs (R182). -/
def Dev.dwellUsed (d : Dev) (sub : Bool) (c : Nat) : Nat :=
  let period := d.regField (12 + b2n sub) 21 16
  32 * (d.duty.dwell.foldl
    (fun n b => if b.1 = chanKey sub c ∧ d.duty.second < b.2.1 + period then n + b.2.2 else n) 0)

/-- Held air time of a channel in µs. -/
def Dev.dwellHeldOf (d : Dev) (sub : Bool) (c : Nat) : Nat :=
  (alGet (chanKey sub c) d.duty.dwellHeld).getD 0

/-- The dwell check of R182 passes for `a` more µs. -/
def Dev.dwellOk (d : Dev) (sub : Bool) (c a : Nat) : Bool :=
  let ms := d.regField (12 + b2n sub) 15 0
  ms = 0 || decide (d.dwellUsed sub c + d.dwellHeldOf sub c + a ≤ ms * 1000)

/-- The duty check of R180 passes for `a` more µs on entry `e`. -/
def Dev.dutyOk (d : Dev) (e a : Nat) (urgent : Bool) : Bool :=
  let budget := d.dutyBudget e
  let res := if urgent then 0 else budget * d.regField (15 + 2 * e) 31 24 / 256
  decide (d.rd Fld.regDutyUsed_used e + d.rd Fld.regDutyPreload_preload e + d.rd Fld.regDutyHeld_held e + a + res
    ≤ budget)

/-- Reserves `a` µs of entry and channel (R180, R182). -/
def Dev.dutyReserve (d : Dev) (e : Option Nat) (sub : Bool) (c a : Nat) : Dev :=
  let d := match e with
    | some e => d.wr Fld.regDutyHeld_held (d.rd Fld.regDutyHeld_held e + a) e
    | none => d
  { d with duty := { d.duty with
      dwellHeld := alSet (chanKey sub c) (d.dwellHeldOf sub c + a) d.duty.dwellHeld } }

/-- Releases a reservation of `a` µs (R180). -/
def Dev.dutyRelease (d : Dev) (e : Option Nat) (sub : Bool) (c a : Nat) : Dev :=
  let d := match e with
    | some e => d.wr Fld.regDutyHeld_held (d.rd Fld.regDutyHeld_held e - a) e
    | none => d
  let h := d.dwellHeldOf sub c - a
  { d with duty := { d.duty with
      dwellHeld := if h = 0 then alDel (chanKey sub c) d.duty.dwellHeld
        else alSet (chanKey sub c) h d.duty.dwellHeld } }

/-- `units` more in the bucket of second `s`, saturating at 65,535 (R180). -/
def bucketAdd (s units : Nat) (l : List (Nat × Nat)) : List (Nat × Nat) :=
  alSet s (satAdd ((alGet s l).getD 0) units 65535) l

/-- `units` more in the dwell bucket of a channel key and second. -/
def dwellAdd (key s units : Nat) : List (Nat × Nat × Nat) → List (Nat × Nat × Nat)
  | [] => [(key, s, units)]
  | b :: l => if b.1 = key ∧ b.2.1 = s then (key, s, satAdd b.2.2 units 65535) :: l
    else b :: dwellAdd key s units l

/-- `units` more in the bucket of the running second of entry `e` (R180). -/
def Dev.bucketCharge (d : Dev) (e : Option Nat) (units : Nat) : Dev :=
  match e with
  | some e =>
    let h := d.dutyHist e
    (d.setDutyHist e { h with buckets := bucketAdd d.duty.second units h.buckets }).dutyRegs e
  | none => d

/-- `units` more in the dwell bucket of channel `c` and the running second, where the band has a dwell rule (R182). -/
def Dev.dwellCharge (d : Dev) (sub : Bool) (c units : Nat) : Dev :=
  if d.regField (12 + b2n sub) 15 0 = 0 then d
  else { d with duty := { d.duty with dwell := dwellAdd (chanKey sub c) d.duty.second units d.duty.dwell } }

/-- A frame that ended: its reservation `a` falls and the current buckets gain the units of the air time used
(R180, R182). -/
def Dev.dutyChargeFrame (d : Dev) (e : Option Nat) (sub : Bool) (c a usedUs : Nat) : Dev :=
  let units := dutyCharge usedUs / 32
  ((d.dutyRelease e sub c a).bucketCharge e units).dwellCharge sub c units

/-- PRELOAD_ACTIVE follows the entries' preloads (R176). -/
def Dev.preloadStatus (d : Dev) : Dev :=
  d.wr Fld.regStatus_preloadActive
    (b2n ((List.range 8).any fun e => d.rd Fld.regDutyPreload_preload e != 0))

/-- The preload of entry `e` at the first mirror load after a power-on reset (R181). -/
def Dev.preloadEntry (d : Dev) (e : Nat) : Dev :=
  let percent := match d.regWord 2 with | some v => min 100 (bitsOf v 7 0) | none => 100
  let p0 := d.dutyBudget e * percent / 100
  if d.dutyEnabled e then
    (d.setDutyHist e { d.dutyHist e with p0 := p0, k := 0 }).wr Fld.regDutyPreload_preload p0 e
  else d

/-- The OTP controller loads every word into the mirror; the band in effect, the locks and the budgets
follow, a mandatory word without a value is recorded in BAD_WORD, and the first load after a power-on reset applies the
cold-start preload unless MFG_OPEN is 1 (R175, R176, R181). -/
def Dev.mirrorLoad (d : Dev) : Dev :=
  let d := (List.range 32).foldl Dev.mirrorLoadWord d
  let d := { d with region := { d.region with reloading := [], bad := [] } }
  let d := d.regStatusUpdate
  let bg := d.w1Band
  let first := !d.region.loaded
  let d := { d with region := { d.region with band := bg.1, grid := bg.2, loaded := true } }
  let d := if first && !d.is Fld.regStatus_mfgOpen then (List.range 8).foldl Dev.preloadEntry d else d
  let missing := (d.neededWords 0 ++ d.neededWords 1).filter fun w => (d.regWord w).isNone
  let d := missing.foldl (fun d w => (d.wr Fld.regStatus_badWord w).wr Fld.regStatus_badValid 1) d
  ((List.range 8).foldl Dev.dutyRegs d).preloadStatus

/-- Mirror words whose pair is damaged. Both registers zero is a word without a value and no damage
(R175). -/
def Dev.damaged (d : Dev) (w : Nat) : Bool :=
  let v := d.reg (Reg.regMirrorW + 4 * w)
  let c := d.reg (Reg.regMirrorC + 4 * w)
  v ^^^ c != BitVec.allOnes 32 && !(v = 0 && c = 0)

/-- Words a check finds damaged start their reload (R175). -/
def Dev.startReload (d : Dev) (ws : List Nat) : Dev :=
  { d with region := { d.region with
      reloading := d.region.reloading ++ ws.filter fun w => !d.region.reloading.contains w } }

/-- Region words that the commit checks of a band use (Table 08.1, R183). -/
def commitWords (sub : Bool) : List Nat :=
  [0, 1] ++ (if sub then [4, 6, 7, 9, 11, 13] else [3, 5, 8, 10, 12]) ++ (List.range 16).map (· + 14)

/-- A commit on a band waits: it uses the mirror, and one of the pairs it uses is damaged or under reload (R175). -/
def Dev.commitWaits (d : Dev) (sub : Bool) : Bool :=
  !d.is Fld.regStatus_mfgOpen && (commitWords sub).any fun w => d.damaged w || d.region.reloading.contains w

/-- REG_MIRROR_CHECK: every mirror pair is compared; `flips` are the bits that damage reached since the last
check, as word and mask of the value register (R175). -/
def regMirrorCheck (flips : List (Nat × Nat)) (d : Dev) : Dev :=
  if !d.domUp 1 then d else
  let d := flips.foldl (fun d f =>
    let a := Reg.regMirrorW + 4 * f.1
    if f.1 < 32 then d.setReg a (d.reg a ^^^ BitVec.ofNat 32 f.2) else d) d
  d.startReload ((List.range 32).filter d.damaged)

/-- REG_MIRROR_CHECK (R175). -/
def execRegMirrorCheck (flips : List (Nat × Nat)) (s : State) : Host.Outcome State Fault Refusal :=
  s.run (regMirrorCheck flips)

/-- REG_MIRROR_RELOAD_DONE of word `w`: a valid reload counts as a transient; one that is still invalid, or a
missing mandatory word, is recorded in BAD_WORD and locks its band (R175). Table 19.1 has no place for the
mirror, so the resource the transient is charged to is a free value. -/
def regMirrorReloadDone (w : Nat) (d : Dev) : Dev :=
  if !d.domUp 1 || !d.region.reloading.contains w then d else
  let d := d.mirrorLoadWord w
  let d := { d with region := { d.region with reloading := d.region.reloading.filter (· != w) } }
  let mand := d.mandatory 0 ++ d.mandatory 1
  if (d.mirrorWord w).isSome then
    let d := { d with region := { d.region with bad := d.region.bad.filter (· != w) } }
    let r := d.free 32
    (r.2.transient r.1).1.regStatusUpdate
  else if mand.contains w || (14 ≤ w && w ≤ 29 && (d.position w 0).isSome) then
    let d := { d with region := { d.region with bad := w :: d.region.bad.filter (· != w) } }
    ((d.wr Fld.regStatus_badWord w).wr Fld.regStatus_badValid 1).regStatusUpdate
  else d.regStatusUpdate

/-- REG_MIRROR_RELOAD_DONE (R175). -/
def execRegMirrorReloadDone (w : Nat) (s : State) : Host.Outcome State Fault Refusal :=
  s.run (regMirrorReloadDone w)

/-! Programming and sealing (R177–R179). -/

/-- Bits of a position still at 0 that `v` and its complement need: the value row first (R177). -/
def progBits (v : Nat) : List Nat :=
  ((List.range 32).filter fun i => v.testBit i)
    ++ ((List.range 32).filter fun i => !v.testBit i).map (· + 32)

/-- An operation ends with RESULT `r`; BUSY clears. -/
def Dev.progEnd (d : Dev) (r word : Nat) : Dev :=
  { ((d.wr Fld.regProgStatus_result r).wr Fld.regProgStatus_failWord word).wr Fld.regProgStatus_busy 0 with
    prog := none }

/-- Programming of word `w` with `v` starts in its lowest free position; without one RESULT 3 (R177), and
with NV_OK at 0 RESULT 1 (R179). -/
def Dev.progStart (d : Dev) (sealing : Bool) (w v : Nat) : Dev :=
  match d.freePosition w with
  | none => d.progEnd 3 w
  | some p =>
    if !d.is Fld.sysSupplyStatus_nvOk then d.progEnd 1 w
    else
      { (d.wr Fld.regProgStatus_busy 1) with
        prog := some { sealing := sealing, word := w, value := v, pos := p, bits := progBits v } }

/-- PROG of word `w` (R177): life cycle, sealing, the word's own rule, then the write. -/
def Dev.regProg (d : Dev) (w : Nat) : Dev :=
  let d := d.wr Fld.regProgStatus_sealRule 0
  let v := (d.reg (Reg.regStageW + 4 * w)).toNat
  if d.lcState ≠ 1 then d.progEnd 5 w
  else if d.isSealed then d.progEnd 2 w
  else if w = 0 ∨ !wordAloneOk w v then d.progEnd 6 w
  else if d.otpWord w = some v then d.progEnd 0 w
  else d.progStart false w v

/-- Field `[hi:lo]` of an effective OTP word. -/
def Dev.otpField (d : Dev) (w hi lo : Nat) : Nat := bitsOf ((d.otpWord w).getD 0) hi lo

/-- Two ranges share a channel. -/
def overlaps (f1 l1 f2 l2 : Nat) : Bool := decide (f1 ≤ l2) && decide (f2 ≤ l1)

/-- The first seal rule of R177 that the effective values break, with the word at which it does; `none` when
all seven pass. -/
def Dev.sealRule (d : Dev) : Option (Nat × Nat) :=
  let band := d.otpField 1 0 0
  let grid := d.otpField 1 1 1
  let lbt (b : Nat) := (List.range 8).any fun e =>
    d.otpField (14 + 2 * e) 0 0 = 1 && d.otpField (14 + 2 * e) 1 1 = b && d.otpField (14 + 2 * e) 2 2 = 1
  let mand (b : Nat) := if d.otpField 1 (8 + b) (8 + b) = 1 then
    (if b = 0 then [3, 5, 8] else [4, 6, 7, 9]) ++ (if lbt b then [10 + b] else []) else []
  let missing := (mand 0 ++ mand 1).find? fun w => match d.otpWord w with
    | none => true
    | some v => !wordRuleOk band grid w v
  let badPwr := (List.range 8).find? fun k =>
    d.otpField 1 (8 + k / 4) (8 + k / 4) = 1 &&
      decide (signedOf (d.otpField (3 + k / 4) 8 0) 9 - (d.otpField (3 + k / 4) 22 16 : Int)
        - signedOf (d.otpField (8 + k / 4) (8 * (k % 4) + 7) (8 * (k % 4))) 8 < -80)
  let inBand (e : Nat) :=
    let f := d.otpField (14 + 2 * e) 13 8
    let l := d.otpField (14 + 2 * e) 21 16
    decide (f ≤ l) && (if d.otpField (14 + 2 * e) 1 1 = 0 then decide (11 ≤ f) && decide (l ≤ 26)
      else decide (l < (if band = 0 ∧ grid = 1 then 32 else 64)))
      && decide (1 ≤ d.otpField (15 + 2 * e) 16 0) && decide (d.otpField (15 + 2 * e) 16 0 ≤ 100000)
  let clash (e f : Nat) := e != f && d.otpField (14 + 2 * f) 0 0 = 1
    && d.otpField (14 + 2 * e) 1 1 = d.otpField (14 + 2 * f) 1 1
    && overlaps (d.otpField (14 + 2 * e) 13 8) (d.otpField (14 + 2 * e) 21 16)
        (d.otpField (14 + 2 * f) 13 8) (d.otpField (14 + 2 * f) 21 16)
  let badDuty := (List.range 8).find? fun e => d.otpField (14 + 2 * e) 0 0 = 1 &&
    (!inBand e || (List.range 8).any (clash e))
  let badDwell := [12, 13].find? fun w => d.otpField w 15 0 != 0 &&
    !(decide (1 ≤ d.otpField w 21 16) && decide (d.otpField w 21 16 ≤ 60))
  match d.otpWord 1 with
  | none => some (1, 1)
  | some v =>
    if !w1Valid v then some (1, 1) else
    match missing with
    | some w => some (2, w)
    | none =>
      if (match d.otpWord 2 with | some v => !wordRuleOk band grid 2 v | none => false) then some (3, 2) else
      match badPwr with
      | some k => some (4, 3 + k / 4)
      | none => match badDuty with
        | some e => some (5, 14 + 2 * e)
        | none => match badDwell with
          | some w => some (6, w)
          | none =>
            if (d.otpWord 30).isSome then some (7, 30)
            else if (d.otpWord 31).isSome then some (7, 31) else none

/-- SEAL (R177): the seal rules over the effective values, then W0 is programmed. -/
def Dev.regSeal (d : Dev) : Dev :=
  let d := d.wr Fld.regProgStatus_sealRule 0
  if d.lcState ≠ 1 then d.progEnd 5 0
  else if d.isSealed then d.progEnd 2 0
  else match d.sealRule with
    | some (rule, w) => (d.wr Fld.regProgStatus_sealRule rule).progEnd 4 w
    | none => d.progStart true 0 0x5EA1ED5A

/-- A write of REG_PROG_CMD: KEY, secure-core writer and BUSY are checked, then OP acts (R177). `secure` says
that the writer is a core in the secure state or the command packet that stands for one. -/
def Dev.regProgCmd (d : Dev) (who : Initiator) (secure : Bool) (w : Word) : Dev :=
  if !secure || getBits w 16 16 ≠ 0x6B1D || d.is Fld.regProgStatus_busy then d.refuseWrite who Reg.regProgCmd
  else if getBits w 8 2 = 3 then d.errRsvd who true Reg.regProgCmd
  else
    let d := if getBits w 5 3 ≠ 0 ∨ getBits w 10 6 ≠ 0 then d.errRsvd who false Reg.regProgCmd else d
    match getBits w 8 2 with
    | 1 => d.regProg (getBits w 0 5)
    | 2 => d.regSeal
    | _ => d

/-- One row bit of a position set. -/
def Position.setBit (q : Position) (i : Nat) : Position :=
  if i < 32 then { q with value := setBitN q.value i } else { q with compl := setBitN q.compl (i - 32) }

/-- A region bit finishes programming (R177, R179). `good` is whether the bit reads back as programmed. The
next bit starts while NV_OK is 1; otherwise the operation ends with RESULT 1, also after the last bit. A complete position
is read back: a void one is followed by the next free position. -/
def Dev.regionBit (d : Dev) (good : Bool) : Dev :=
  match d.prog with
  | none => d
  | some op =>
    match op.bits with
    | [] => d
    | i :: rest =>
      let q := (d.position op.word op.pos).getD ⟨0, 0⟩
      let q := if good then q.setBit i else q
      let d := { d with otpRegion := alSet (2 * op.word + op.pos) q d.otpRegion }
      if rest.isEmpty then
        if q.valid && q.value = op.value then
          let d := d.mirrorLoadWord op.word
          (d.progEnd (if d.is Fld.sysSupplyStatus_nvOk then 0 else 1) op.word).regStatusUpdate
        else (d.progStart op.sealing op.word op.value)
      else if !d.is Fld.sysSupplyStatus_nvOk then d.progEnd 1 op.word
      else { d with prog := some { op with bits := rest } }

/-! Buckets (R181). -/

/-- One entry's bucket advance (R181). -/
def Dev.bucketEntry (d : Dev) (e : Nat) : Dev :=
  let h := d.dutyHist e
  let kept := h.buckets.filter fun b => decide (d.duty.second < b.1 + 3600)
  if h.k < 3600 then
    let k := h.k + 1
    ((d.setDutyHist e { h with buckets := kept, k := k }).wr Fld.regDutyPreload_preload
      (h.p0 - h.p0 * k / 3600) e).dutyRegs e
  else (d.setDutyHist e { h with buckets := kept }).dutyRegs e

/-- DUTY_BUCKET_ADVANCE (R181): at a TMB multiple of 32,000,000 ticks the oldest buckets leave the sums, and
the preloads age. -/
def dutyBucketAdvance (d : Dev) : Dev :=
  let d := { d with duty := { d.duty with second := d.duty.second + 1 } }
  let d := { d with duty := { d.duty with
    dwell := d.duty.dwell.filter fun b => decide (d.duty.second < b.2.1 + 60) } }
  let d := (List.range 8).foldl Dev.bucketEntry d
  if d.domUp 1 then d.preloadStatus else d

/-- DUTY_BUCKET_ADVANCE (R181). -/
def execDutyBucketAdvance (s : State) : Host.Outcome State Fault Refusal := s.run dutyBucketAdvance

end Sys2Proof.Machine
end

