-- ==== Sys2Proof/Machine/Crypto.lean ====
section
/-! DEFINITION. The cryptographic primitives that the manual names by their standards: AES (FIPS 197), the
modes of R399, AES-CMAC, the counter-mode KDF of R387, AES-KW of R382, CCM* of R399, SHA-256 and ECDSA
P-256 (R49). -/

namespace Sys2Proof.Machine

open Sys2Proof

/-! AES. The state is a list of 16 octets in column order. -/

/-- The AES S-box, octet 0 lowest. -/
def aesSboxTable : Nat :=
  0x16BB54B00F2D99416842E6BF0D89A18CDF2855CEE9871E9B948ED9691198F8E19E1DC186B95735610EF6034866B53E708A8BBD4B1F74DDE8C6B4A61C2E2578BA08AE7A65EAF4566CA94ED58D6D37C8E779E4959162ACD3C25C2406490A3A32E0DB0B5EDE14B8EE4688902A22DC4F816073195D643D7EA7C41744975FEC130CCDD2F3FF1021DAB6BCF5389D928F40A351A89F3C507F02F94585334D43FBAAEFD0CF584C4A39BECB6A5BB1FC20ED00D153842FE329B3D63B52A05A6E1B1A2C830975B227EBE28012079A059618C323C7041531D871F1E5A534CCF73F362693FDB7C072A49CAFA2D4ADF04759FA7DC982CA76ABD7FE2B670130C56F6BF27B777C63

/-- The inverse S-box. -/
def aesInvSboxTable : Nat :=
  0x7D0C2155631469E126D677BA7E042B17619953833CBBEBC8B0F52AAE4D3BE0A0EF9CC9939F7AE52D0D4AB519A97F51605FEC8027591012B131C7078833A8DD1FF45ACD78FEC0DB9A2079D2C64B3E56FC1BBE18AA0E62B76F89C5291D711AF1476EDF751CE837F9E28535ADE72274AC9673E6B4F0CECFF297EADC674F4111913A6B8A130103BDAFC1020F3FCA8F1E2CD00645B3B80558E4F70AD3BC8C00ABD890849D8DA75746155EDAB9EDFD5048706C92B6655DCC5CA4D41698688664F6F87225D18B6D49A25B76B224D92866A12E084EC3FA420B954CEE3D23C2A632947B54CBE9DEC444438E3487FF2F9B8239E37CFBD7F3819EA340BF38A53630D56A0952

def aesSub (x : Nat) : Nat := (aesSboxTable >>> (8 * x)) % 256
def aesInvSub (x : Nat) : Nat := (aesInvSboxTable >>> (8 * x)) % 256

/-- Multiplication by x in GF(2^8). -/
def xtime (a : Nat) : Nat := if a < 128 then 2 * a else (2 * a) ^^^ 0x11B

/-- Multiplication by a constant below 16 in GF(2^8). -/
def gmul (k a : Nat) : Nat :=
  let a2 := xtime a
  let a4 := xtime a2
  let a8 := xtime a4
  (if k.testBit 0 then a else 0) ^^^ (if k.testBit 1 then a2 else 0) ^^^ (if k.testBit 2 then a4 else 0)
    ^^^ (if k.testBit 3 then a8 else 0)

/-- One column through the matrix with first row `k0 k1 k2 k3`. -/
def mixCol (k0 k1 k2 k3 : Nat) : List Nat → List Nat
  | a :: b :: c :: e :: rest =>
    (gmul k0 a ^^^ gmul k1 b ^^^ gmul k2 c ^^^ gmul k3 e) ::
    (gmul k3 a ^^^ gmul k0 b ^^^ gmul k1 c ^^^ gmul k2 e) ::
    (gmul k2 a ^^^ gmul k3 b ^^^ gmul k0 c ^^^ gmul k1 e) ::
    (gmul k1 a ^^^ gmul k2 b ^^^ gmul k3 c ^^^ gmul k0 e) :: mixCol k0 k1 k2 k3 rest
  | l => l

/-- Octet order of ShiftRows and of its inverse. -/
def shiftOrder : List Nat := [0, 5, 10, 15, 4, 9, 14, 3, 8, 13, 2, 7, 12, 1, 6, 11]
def invShiftOrder : List Nat := [0, 13, 10, 7, 4, 1, 14, 11, 8, 5, 2, 15, 12, 9, 6, 3]

def permute (order l : List Nat) : List Nat := order.map fun i => l.getD i 0

def xorNats (a b : List Nat) : List Nat := List.zipWith (fun x y => x ^^^ y) a b

/-- Key expansion: the words so far, newest first; `i` is the number of the next word. -/
def expandWords (nk : Nat) : Nat → Nat → Nat → List (List Nat) → List (List Nat)
  | 0, _, _, ws => ws
  | k + 1, i, rcon, ws =>
    let prev := ws.headD []
    let old := ws.getD (nk - 1) []
    if i % nk = 0 then
      let t := (prev.drop 1 ++ prev.take 1).map aesSub
      let t := xorNats t [rcon, 0, 0, 0]
      expandWords nk k (i + 1) (xtime rcon) (xorNats old t :: ws)
    else if nk = 8 ∧ i % 8 = 4 then expandWords nk k (i + 1) rcon (xorNats old (prev.map aesSub) :: ws)
    else expandWords nk k (i + 1) rcon (xorNats old prev :: ws)

/-- A list cut into words of four octets. -/
def words4 : List Nat → List (List Nat)
  | a :: b :: c :: e :: rest => [a, b, c, e] :: words4 rest
  | _ => []

/-- Groups of four words as round keys of 16 octets. -/
def roundGroups : List (List Nat) → List (List Nat)
  | a :: b :: c :: e :: rest => (a ++ b ++ c ++ e) :: roundGroups rest
  | _ => []

/-- Round keys of a 16- or 32-octet key. -/
def roundKeys (key : List Nat) : List (List Nat) :=
  let nk := key.length / 4
  roundGroups (expandWords nk (4 * (nk + 7) - nk) nk 1 (words4 key).reverse).reverse

def encRounds (st : List Nat) : List (List Nat) → List Nat
  | [] => st
  | [k] => xorNats (permute shiftOrder (st.map aesSub)) k
  | k :: ks => encRounds (xorNats (mixCol 2 3 1 1 (permute shiftOrder (st.map aesSub))) k) ks

def decRounds (st : List Nat) : List (List Nat) → List Nat
  | [] => st
  | [k] => xorNats ((permute invShiftOrder st).map aesInvSub) k
  | k :: ks => decRounds (mixCol 14 11 13 9 (xorNats ((permute invShiftOrder st).map aesInvSub) k)) ks

def octets (bs : List Byte) : List Nat := bs.map BitVec.toNat
def ofOctets (ns : List Nat) : List Byte := ns.map (BitVec.ofNat 8)

/-- AES encryption of one block with given round keys. -/
def aesEncWith (rks : List (List Nat)) (block : List Byte) : List Byte :=
  match rks with
  | [] => block
  | k :: ks => ofOctets (encRounds (xorNats (octets (padTo 16 block)) k) ks)

/-- AES decryption of one block with given round keys. -/
def aesDecWith (rks : List (List Nat)) (block : List Byte) : List Byte :=
  match rks.reverse with
  | [] => block
  | k :: ks => ofOctets (decRounds (xorNats (octets (padTo 16 block)) k) ks)

/-- Round keys of a key given as octets. -/
def keySchedule (key : List Byte) : List (List Nat) := roundKeys (octets key)

def aesEncrypt (key block : List Byte) : List Byte := aesEncWith (keySchedule key) block
def aesDecrypt (key block : List Byte) : List Byte := aesDecWith (keySchedule key) block

/-! Modes (R399). `n` bounds the number of blocks. -/

def blocksOf (n len : Nat) : Nat := (len + n - 1) / n

def ecbLoop (f : List Byte → List Byte) : Nat → List Byte → List Byte
  | 0, _ => []
  | n + 1, m => f (m.take 16) ++ ecbLoop f n (m.drop 16)

/-- ECB, encrypting or decrypting. -/
def ecb (key : List Byte) (dec : Bool) (m : List Byte) : List Byte :=
  let rks := keySchedule key
  ecbLoop (if dec then aesDecWith rks else aesEncWith rks) (m.length / 16) m

def cbcEncLoop (rks : List (List Nat)) (prev : List Byte) : Nat → List Byte → List Byte
  | 0, _ => []
  | n + 1, m =>
    let c := aesEncWith rks (xorBytes prev (m.take 16))
    c ++ cbcEncLoop rks c n (m.drop 16)

def cbcDecLoop (rks : List (List Nat)) (prev : List Byte) : Nat → List Byte → List Byte
  | 0, _ => []
  | n + 1, m => xorBytes prev (aesDecWith rks (m.take 16)) ++ cbcDecLoop rks (m.take 16) n (m.drop 16)

/-- CBC, encrypting or decrypting. -/
def cbc (key : List Byte) (dec : Bool) (iv m : List Byte) : List Byte :=
  let rks := keySchedule key
  if dec then cbcDecLoop rks iv (m.length / 16) m else cbcEncLoop rks iv (m.length / 16) m

def ctrLoop (rks : List (List Nat)) (c : Nat) : Nat → List Byte → List Byte
  | 0, _ => []
  | n + 1, m =>
    xorBytes (aesEncWith rks (natBe 16 c)) (m.take 16) ++ ctrLoop rks ((c + 1) % 2 ^ 128) n (m.drop 16)

/-- CTR: the counter block is a 128-bit big-endian number that rises by 1 a block. -/
def ctr (key iv m : List Byte) : List Byte :=
  ctrLoop (keySchedule key) (beNat iv) (blocksOf 16 m.length) m

/-- CBC-MAC of whole blocks from a running value. -/
def cbcMac (rks : List (List Nat)) (x : List Byte) : Nat → List Byte → List Byte
  | 0, _ => x
  | n + 1, m => cbcMac rks (aesEncWith rks (xorBytes x (padTo 16 (m.take 16)))) n (m.drop 16)

/-- Doubling in GF(2^128), for the CMAC subkeys. -/
def dbl128 (v : Nat) : Nat := if v < 2 ^ 127 then 2 * v else (2 * v - 2 ^ 128) ^^^ 0x87

/-- AES-CMAC, 16 octets. -/
def cmac (key m : List Byte) : List Byte :=
  let rks := keySchedule key
  let k1 := dbl128 (beNat (aesEncWith rks (List.replicate 16 0#8)))
  let n := max 1 (blocksOf 16 m.length)
  let last := m.drop (16 * (n - 1))
  let x := cbcMac rks (List.replicate 16 0#8) (n - 1) m
  let tail := if last.length = 16 then xorBytes last (natBe 16 k1)
    else xorBytes (padTo 16 (last ++ [0x80#8])) (natBe 16 (dbl128 k1))
  aesEncWith rks (xorBytes x tail)

def kdfLoop (key : List Byte) (fixed : List Byte) : Nat → Nat → List Byte
  | 0, _ => []
  | n + 1, i => cmac key (natBe 4 i ++ fixed) ++ kdfLoop key fixed n (i + 1)

/-- The counter-mode KDF of R387 with the label and context as one string that holds the 0x00 between them. -/
def kdfRaw (key labelContext : List Byte) (bits : Nat) : List Byte :=
  (kdfLoop key (labelContext ++ natBe 4 bits) (blocksOf 128 bits) 1).take (bits / 8)

/-- ASCII octets. -/
def ascii (s : String) : List Byte := s.toList.map fun c => BitVec.ofNat 8 c.toNat

/-- KDF(K_I, Label, Context, L) of R387. -/
def kdf (key : List Byte) (label : String) (context : List Byte) (bits : Nat) : List Byte :=
  kdfRaw key (ascii label ++ 0#8 :: context) bits

/-! AES-KW (SP 800-38F): a running value A and the registers R, eight octets each. -/

def chunks8 : Nat → List Byte → List (List Byte)
  | 0, _ => []
  | n + 1, m => m.take 8 :: chunks8 n (m.drop 8)

def kwIcv : List Byte := List.replicate 8 0xA6#8

def kwWrapLoop (rks : List (List Nat)) : Nat → Nat → Nat → List Byte → List (List Byte) → List Byte
  | 0, _, _, a, rs => a ++ rs.flatten
  | k + 1, t, i, a, rs =>
    let b := aesEncWith rks (a ++ rs.getD i [])
    kwWrapLoop rks k (t + 1) (if i + 1 = rs.length then 0 else i + 1) (xorBytes (b.take 8) (natBe 8 t))
      (putAt i (b.drop 8) rs)

/-- AES-KW wrapping of a plaintext of whole 8-octet units. -/
def kwWrap (key p : List Byte) : List Byte :=
  let n := p.length / 8
  kwWrapLoop (keySchedule key) (6 * n) 1 0 kwIcv (chunks8 n p)

def kwUnwrapLoop (rks : List (List Nat)) : Nat → Nat → Nat → List Byte → List (List Byte) → List Byte × List Byte
  | 0, _, _, a, rs => (a, rs.flatten)
  | k + 1, t, i, a, rs =>
    let b := aesDecWith rks (xorBytes a (natBe 8 t) ++ rs.getD i [])
    kwUnwrapLoop rks k (t - 1) (if i = 0 then rs.length - 1 else i - 1) (b.take 8) (putAt i (b.drop 8) rs)

/-- AES-KW unwrapping; none where the integrity check fails. -/
def kwUnwrap (key c : List Byte) : Option (List Byte) :=
  let n := c.length / 8 - 1
  let r := kwUnwrapLoop (keySchedule key) (6 * n) (6 * n) (n - 1) (c.take 8) (chunks8 n (c.drop 8))
  if r.1 = kwIcv then some r.2 else none

/-! CCM* (IEEE 802.15.4-2020). -/

/-- Zeros that fill the last 16-octet block. -/
def pad16 (m : List Byte) : List Byte := m ++ List.replicate ((16 - m.length % 16) % 16) 0#8

/-- The authentication transform: the first `t` octets of the CBC-MAC over B0, a and m. -/
def ccmAuth (rks : List (List Nat)) (nonce a m : List Byte) (t : Nat) : List Byte :=
  let l := 15 - nonce.length
  let flags := (if a.isEmpty then 0 else 64) + 8 * ((t - 2) / 2) + (l - 1)
  let b0 := BitVec.ofNat 8 flags :: (nonce ++ natBe l m.length)
  let add := if a.isEmpty then [] else pad16 (natBe 2 a.length ++ a)
  let data := b0 ++ add ++ pad16 m
  (cbcMac rks (List.replicate 16 0#8) (data.length / 16) data).take t

/-- Counter block A_i. -/
def ccmBlock (nonce : List Byte) (i : Nat) : List Byte :=
  let l := 15 - nonce.length
  BitVec.ofNat 8 (l - 1) :: (nonce ++ natBe l i)

def ccmCrypt (rks : List (List Nat)) (nonce m : List Byte) : List Byte :=
  ctrLoop rks (beNat (ccmBlock nonce 1)) (blocksOf 16 m.length) m

def ccmTag (rks : List (List Nat)) (nonce tag : List Byte) : List Byte :=
  xorBytes tag (aesEncWith rks (ccmBlock nonce 0))

/-- CCM* generation: ciphertext, then tag of `t` octets. -/
def ccmSeal (key nonce a m : List Byte) (t : Nat) : List Byte :=
  let rks := keySchedule key
  ccmCrypt rks nonce m ++ (if t = 0 then [] else ccmTag rks nonce (ccmAuth rks nonce a m t))

/-- CCM* verification: the plaintext, and whether the tag passes. -/
def ccmOpen (key nonce a c tag : List Byte) : List Byte × Bool :=
  let rks := keySchedule key
  let m := ccmCrypt rks nonce c
  (m, tag.isEmpty || ccmTag rks nonce (ccmAuth rks nonce a m tag.length) = tag)

/-! SHA-256. -/

/-- Round constants, K0 lowest. -/
def sha256K : Nat :=
  0xC67178F2BEF9A3F7A4506CEB90BEFFFA8CC7020884C8781478A5636F748F82EE682E6FF35B9CCA4F4ED8AA4A391C0CB334B0BCB52748774C1E376C0819A4C116106AA070F40E3585D6990624D192E819C76C51A3C24B8B70A81A664BA2BFE8A192722C8581C2C92E766A0ABB650A735453380D134D2C6DFC2E1B213827B70A851429296706CA6351D5A79147C6E00BF3BF597FC7B00327C8A831C66D983E515276F988DA5CB0A9DC4A7484AA2DE92C6F240CA1CC0FC19DC6EFBE4786E49B69C1C19BF1749BDC06A780DEB1FE72BE5D74550C7DC3243185BE12835B01D807AA98AB1C5ED5923F82A459F111F13956C25BE9B5DBA5B5C0FBCF71374491428A2F98

def add32 (a b : Nat) : Nat := (a + b) % 2 ^ 32
def rotr32 (x n : Nat) : Nat := ((x >>> n) ||| (x <<< (32 - n))) % 2 ^ 32

/-- Message schedule: the last 16 words, newest first, extended by `n`. -/
def shaExtend : Nat → List Nat → List Nat
  | 0, ws => ws
  | n + 1, ws =>
    let w15 := ws.getD 14 0
    let w2 := ws.getD 1 0
    let s0 := rotr32 w15 7 ^^^ rotr32 w15 18 ^^^ (w15 >>> 3)
    let s1 := rotr32 w2 17 ^^^ rotr32 w2 19 ^^^ (w2 >>> 10)
    shaExtend n (add32 (add32 (ws.getD 15 0) s0) (add32 (ws.getD 6 0) s1) :: ws)

/-- One round on the eight working variables. -/
def shaRound (i w : Nat) : List Nat → List Nat
  | [a, b, c, e, f, g, h, k] =>
    let s1 := rotr32 f 6 ^^^ rotr32 f 11 ^^^ rotr32 f 25
    let ch := (f &&& g) ^^^ ((f ^^^ 0xFFFFFFFF) &&& h)
    let t1 := add32 (add32 k s1) (add32 ch (add32 ((sha256K >>> (32 * i)) % 2 ^ 32) w))
    let s0 := rotr32 a 2 ^^^ rotr32 a 13 ^^^ rotr32 a 22
    let maj := (a &&& b) ^^^ (a &&& c) ^^^ (b &&& c)
    [add32 t1 (add32 s0 maj), a, b, c, add32 e t1, f, g, h]
  | l => l

def shaRounds : Nat → List Nat → List Nat → List Nat
  | _, [], v => v
  | i, w :: ws, v => shaRounds (i + 1) ws (shaRound i w v)

def beWords : Nat → List Byte → List Nat
  | 0, _ => []
  | n + 1, bs => beNat (bs.take 4) :: beWords n (bs.drop 4)

def shaBlocks : Nat → List Byte → List Nat → List Nat
  | 0, _, h => h
  | n + 1, bs, h =>
    let ws := (shaExtend 48 (beWords 16 bs).reverse).reverse
    shaBlocks n (bs.drop 64) (List.zipWith add32 h (shaRounds 0 ws h))

/-- SHA-256, 32 octets. -/
def sha256 (m : List Byte) : List Byte :=
  let z := (119 - m.length % 64) % 64
  let bs := m ++ 0x80#8 :: (List.replicate z 0#8 ++ natBe 8 (8 * m.length))
  (shaBlocks (bs.length / 64) bs
    [0x6A09E667, 0xBB67AE85, 0x3C6EF372, 0xA54FF53A, 0x510E527F, 0x9B05688C, 0x1F83D9AB, 0x5BE0CD19]).flatMap (natBe 4)

/-! ECDSA on P-256. Points are Jacobian triples (X, Y, Z); Z = 0 is the point at infinity. -/

abbrev p256P : Nat := 0xFFFFFFFF00000001000000000000000000000000FFFFFFFFFFFFFFFFFFFFFFFF
abbrev p256B : Nat := 0x5AC635D8AA3A93E7B3EBBD55769886BC651D06B0CC53B0F63BCE3C3E27D2604B
/-- The order n of P-256. -/
abbrev p256N : Nat := 0xFFFFFFFF00000000FFFFFFFFFFFFFFFFBCE6FAADA7179E84F3B9CAC2FC632551
abbrev p256Gx : Nat := 0x6B17D1F2E12C4247F8BCE6E563A440F277037D812DEB33A0F4A13945D898C296
abbrev p256Gy : Nat := 0x4FE342E2FE1A7F9B8EE7EB4A7C0F9E162BCE33576B315ECECBB6406837BF51F5

def mulMod (m a b : Nat) : Nat := a * b % m
def subMod (m a b : Nat) : Nat := (a + m - b % m) % m

/-- Power by repeated squaring over `n` exponent bits. -/
def powMod (m b e : Nat) : Nat → Nat
  | 0 => 1
  | n + 1 =>
    let h := powMod m b (e / 2) n
    let s := mulMod m h h
    if e % 2 = 1 then mulMod m s b else s

/-- Inverse modulo a prime. -/
def invMod (m a : Nat) : Nat := powMod m (a % m) (m - 2) 256

def jacDouble (q : Nat × Nat × Nat) : Nat × Nat × Nat :=
  let m := mulMod p256P
  let (x, y, z) := q
  let y2 := m y y
  let s := m 4 (m x y2)
  let z2 := m z z
  let t := m 3 (m (subMod p256P x z2) ((x + z2) % p256P))
  let x3 := subMod p256P (m t t) (m 2 s)
  (x3, subMod p256P (m t (subMod p256P s x3)) (m 8 (m y2 y2)), m 2 (m y z))

def jacAdd (a b : Nat × Nat × Nat) : Nat × Nat × Nat :=
  let m := mulMod p256P
  let (x1, y1, z1) := a
  let (x2, y2, z2) := b
  if z1 = 0 then b
  else if z2 = 0 then a
  else
    let z11 := m z1 z1
    let z22 := m z2 z2
    let u1 := m x1 z22
    let u2 := m x2 z11
    let s1 := m y1 (m z2 z22)
    let s2 := m y2 (m z1 z11)
    if u1 = u2 then if s1 = s2 then jacDouble a else (1, 1, 0)
    else
      let h := subMod p256P u2 u1
      let r := subMod p256P s2 s1
      let h2 := m h h
      let h3 := m h h2
      let v := m u1 h2
      let x3 := subMod p256P (subMod p256P (m r r) h3) (m 2 v)
      (x3, subMod p256P (m r (subMod p256P v x3)) (m s1 h3), m h (m z1 z2))

/-- Scalar multiple over `n` bits of the scalar. -/
def jacMul (q : Nat × Nat × Nat) (k : Nat) : Nat → Nat × Nat × Nat
  | 0 => (1, 1, 0)
  | n + 1 =>
    let h := jacDouble (jacMul q (k / 2) n)
    if k % 2 = 1 then jacAdd h q else h

/-- Affine coordinates. -/
def jacAffine (q : Nat × Nat × Nat) : Nat × Nat :=
  let zi := invMod p256P q.2.2
  let z2 := mulMod p256P zi zi
  (mulMod p256P q.1 z2, mulMod p256P q.2.1 (mulMod p256P zi z2))

/-- The public key d·G, X then Y, 32 octets each (R387). -/
def p256Public (k : Nat) : List Byte :=
  let q := jacAffine (jacMul (p256Gx, p256Gy, 1) k 256)
  natBe 32 q.1 ++ natBe 32 q.2

/-- ECDSA P-256 verification: public key (X, Y), message hash, signature (r, s), all big-endian. -/
def ecdsaVerify (pub hash sig : List Byte) : Bool :=
  let x := beAt pub 0 32
  let y := beAt pub 32 32
  let r := beAt sig 0 32
  let s := beAt sig 32 32
  let onCurve := decide (x < p256P) && decide (y < p256P) &&
    mulMod p256P y y == (mulMod p256P x (mulMod p256P x x) + subMod p256P p256B (mulMod p256P 3 x)) % p256P
  if onCurve && decide (0 < r) && decide (r < p256N) && decide (0 < s) && decide (s < p256N) then
    let w := invMod p256N s
    let q := jacAdd (jacMul (p256Gx, p256Gy, 1) (mulMod p256N (beNat hash) w) 256)
      (jacMul (x, y, 1) (mulMod p256N r w) 256)
    q.2.2 != 0 && (jacAffine q).1 % p256N == r
  else false

end Sys2Proof.Machine
end

