-- ==== Sys2Proof/Machine/Regs.lean ====
section
/-! DEFINITION. The plain rules of register writes (R6, R7): access codes, reserved bits, and the writer rules
that several registers share. Registers with effects of their own use these and add to them. -/

namespace Sys2Proof.Machine

open Sys2Proof

/-- Whether `who` is a Doldon core in the secure state (STATUS.NS = 0). -/
def Dev.secure (d : Dev) : Initiator → Bool
  | .core n => !(d.core n).status.toNat.testBit 2
  | _ => false

/-- Whether `who` is a core in the normal state. -/
def Dev.normalCore (d : Dev) : Initiator → Bool
  | .core n => (d.core n).status.toNat.testBit 2
  | _ => false

/-- A secure-state core, or the host through BAR0. -/
def Dev.secureOrHost (d : Dev) (who : Initiator) : Bool := d.secure who || decide (who = .host)

/-- Bits of a row that are not reserved. -/
def RegRow.known (r : RegRow) : Nat := r.rw ||| r.ro ||| r.wo ||| r.w1c ||| r.w1s ||| r.rc ||| r.rwl

/-- The register word after a plain write of `w` over `old` by the access codes of R6. -/
def RegRow.merge (r : RegRow) (locked : Bool) (old w : Nat) : Nat :=
  let m := if locked then r.rw else r.rw ||| r.rwl
  let kept := old &&& (0xFFFFFFFF ^^^ m)
  let cleared := (kept ||| (w &&& m)) &&& (0xFFFFFFFF ^^^ (w &&& r.w1c))
  cleared ||| (w &&& r.w1s)

/-- A write of `w` sets a reserved bit of the row's register. -/
def RegRow.hitsReserved (r : RegRow) (w : Nat) : Bool := w &&& (0xFFFFFFFF ^^^ r.known) != 0

/-- ERR_RSVD_WRITE where the write sets a reserved bit of the register at `a` (R7). -/
def Dev.rsvd (d : Dev) (who : Initiator) (a : Nat) (w : Word) : Dev :=
  match regAt a with
  | some (r, _) => if r.hitsReserved w.toNat then d.errRsvd who false a else d
  | none => d

/-- What a plain write stores over `before`: the bits that the device has set meanwhile, in `now`, stay set (R8). A write
of ERR_RSVD_WRITE that is itself recorded there leaves the new record with VALID = 1 (R7, R430). -/
def RegRow.stored (r : RegRow) (locked : Bool) (a : Nat) (before now w : Word) : Word :=
  if a = Reg.errRsvdWrite && r.hitsReserved w.toNat then now
  else BitVec.ofNat 32 (r.merge locked now.toNat w.toNat ||| (now.toNat &&& (0xFFFFFFFF ^^^ before.toNat) &&& r.w1c))

/-- A plain write: stores by the access codes and records reserved bits (R6–R8). -/
def Dev.plainWrite (d : Dev) (who : Initiator) (a : Nat) (w : Word) (locked : Bool := false) : Dev :=
  match regAt a with
  | some (r, _) =>
    let e := d.rsvd who a w
    e.setReg a (r.stored locked a (d.reg a) (e.reg a) w)
  | none => d

/-- A write that a reserved value rejects as a whole (R7). -/
def Dev.rejectWrite (d : Dev) (who : Initiator) (a : Nat) : Dev := d.errRsvd who true a

/-- Field `[hi:lo]` of a written word. -/
def wBits (w : Word) (hi lo : Nat) : Nat := bitsOf w.toNat hi lo

end Sys2Proof.Machine
end

