-- ==== Sys2Proof/Machine/Status.lean ====
section
/-! DEFINITION. The 16-bit status codes that completions, cipher requests and Bamium replies share (R9,
Tables 00.3, 13.10 and the chapters' own tables). -/

namespace Sys2Proof.Machine

/-- OK. -/
abbrev Code.ok : Nat := 0x0000
/-- PENDING. -/
abbrev Code.pending : Nat := 0x0001
/-- BAD_OPCODE. -/
abbrev Code.badOpcode : Nat := 0x0100
/-- BAD_VERSION. -/
abbrev Code.badVersion : Nat := 0x0101
/-- RESERVED_FIELD. -/
abbrev Code.reservedField : Nat := 0x0102
/-- BAD_LENGTH. -/
abbrev Code.badLength : Nat := 0x0103
/-- BAD_QUEUE. -/
abbrev Code.badQueue : Nat := 0x0104
/-- NOT_PERMITTED. -/
abbrev Code.notPermitted : Nat := 0x0105
/-- CANCELLED. -/
abbrev Code.cancelled : Nat := 0x0106
/-- DOMAIN_OFF. -/
abbrev Code.domainOff : Nat := 0x0201
/-- LOW_SUPPLY. -/
abbrev Code.lowSupply : Nat := 0x0202
/-- LIFECYCLE. -/
abbrev Code.lifecycle : Nat := 0x0203
/-- HOLD_FULL. -/
abbrev Code.holdFull : Nat := 0x0204
/-- TX_LATE_LOCK. -/
abbrev Code.txLateLock : Nat := 0x0301
/-- DUTY_EXCEEDED. -/
abbrev Code.dutyExceeded : Nat := 0x0302
/-- CHANNEL_LOCKED. -/
abbrev Code.channelLocked : Nat := 0x0303
/-- MASK_VIOLATION. -/
abbrev Code.maskViolation : Nat := 0x0304
/-- POWER_CAPPED. -/
abbrev Code.powerCapped : Nat := 0x0305
/-- COEX_DENIED. -/
abbrev Code.coexDenied : Nat := 0x0306
/-- SYNTH_FAIL. -/
abbrev Code.synthFail : Nat := 0x0307
/-- PHY_UNAVAILABLE. -/
abbrev Code.phyUnavailable : Nat := 0x0308
/-- LBT_BUSY. -/
abbrev Code.lbtBusy : Nat := 0x0309
/-- REG_SEALED. -/
abbrev Code.regSealed : Nat := 0x030A
/-- DWELL_EXCEEDED. -/
abbrev Code.dwellExceeded : Nat := 0x030B
/-- NO_ACK. -/
abbrev Code.noAck : Nat := 0x030C
/-- AUTH_FAIL. -/
abbrev Code.authFail : Nat := 0x0401
/-- KEY_SLOT_EMPTY. -/
abbrev Code.keySlotEmpty : Nat := 0x0402
/-- ENGINE_NOT_ALLOWED. -/
abbrev Code.engineNotAllowed : Nat := 0x0403
/-- LENGTH_EXCEEDS_HOLD. -/
abbrev Code.lengthExceedsHold : Nat := 0x0404
/-- REPLAY. -/
abbrev Code.replay : Nat := 0x0405
/-- BLOB_INVALID. -/
abbrev Code.blobInvalid : Nat := 0x0406
/-- SLOT_LOCKED. -/
abbrev Code.slotLocked : Nat := 0x0407
/-- EPOCH_STALE. -/
abbrev Code.epochStale : Nat := 0x0501
/-- DIGEST_MISMATCH. -/
abbrev Code.digestMismatch : Nat := 0x0502
/-- NOT_MEMBER. -/
abbrev Code.notMember : Nat := 0x0503
/-- NOT_LEADER. -/
abbrev Code.notLeader : Nat := 0x0504
/-- QUARANTINED. -/
abbrev Code.quarantined : Nat := 0x0505
/-- ATTEST_FAIL. -/
abbrev Code.attestFail : Nat := 0x0506
/-- JOIN_TIMEOUT. -/
abbrev Code.joinTimeout : Nat := 0x0507
/-- MIGRATE_REFUSED. -/
abbrev Code.migrateRefused : Nat := 0x0508
/-- MIGRATE_UNRESOLVED. -/
abbrev Code.migrateUnresolved : Nat := 0x0509
/-- PEER_ABSENT. -/
abbrev Code.peerAbsent : Nat := 0x050A
/-- TX_GATED. -/
abbrev Code.txGated : Nat := 0x050B
/-- REPLAY_EXHAUSTED. -/
abbrev Code.replayExhausted : Nat := 0x0601
/-- RESOURCE_RETIRED. -/
abbrev Code.resourceRetired : Nat := 0x0602
/-- NODE_UNKNOWN. -/
abbrev Code.nodeUnknown : Nat := 0x0701
/-- TABLE_FULL. -/
abbrev Code.tableFull : Nat := 0x0702
/-- COUNTER_UNKNOWN. -/
abbrev Code.counterUnknown : Nat := 0x0703
/-- NODE_LOST. -/
abbrev Code.nodeLost : Nat := 0x0704
/-- NODE_EXISTS. -/
abbrev Code.nodeExists : Nat := 0x0705
/-- KEY_COLLISION. -/
abbrev Code.keyCollision : Nat := 0x0706
/-- REBUILDING. -/
abbrev Code.rebuilding : Nat := 0x0707
/-- TABLE_HELD. -/
abbrev Code.tableHeld : Nat := 0x0708
/-- RECORD_CHECK. -/
abbrev Code.recordCheck : Nat := 0x0709
/-- INTERNAL. -/
abbrev Code.internal : Nat := 0x0F00

/-- The codes of failed work that the manual assigns (Tables 00.3 and 13.10). -/
def failureCodes : List Nat :=
  [0x0100, 0x0101, 0x0102, 0x0103, 0x0104, 0x0105, 0x0106, 0x0201, 0x0202, 0x0203, 0x0204, 0x0301, 0x0302, 0x0303, 0x0304,
    0x0306, 0x0307, 0x0308, 0x0309, 0x030A, 0x030B, 0x030C] ++
  [0x0401, 0x0402, 0x0403, 0x0404, 0x0405, 0x0406, 0x0407, 0x0501, 0x0502, 0x0503, 0x0504, 0x0505, 0x0506, 0x0507, 0x0508,
    0x0509, 0x050A, 0x050B, 0x0601, 0x0602] ++
  [0x0701, 0x0702, 0x0703, 0x0704, 0x0705, 0x0706, 0x0707, 0x0708, 0x0709, 0x0F00]

/-- Every code that a completion may carry (R9). -/
def assignedCodes : List Nat := [Code.ok, Code.pending, Code.powerCapped] ++ failureCodes

end Sys2Proof.Machine
end

