-- ==== Sys2Proof/Machine/NdtMem.lean ====
section
/-! DEFINITION. Node memory: contexts (R232, Table 11.2), route entries (R237), the address index (R238) and
lookups (R239). -/

namespace Sys2Proof.Machine

open Sys2Proof

/-- Device address of the context in slot `s` (R230). -/
def ctxAddr (s : Nat) : Nat := 0x10000000 + 128 * s

/-- Device address of blob `b`. -/
def blobAddr (b : Nat) : Nat := 0x10800000 + 48 * b

/-- Device address of route entry `r`. -/
def rteAddr (r : Nat) : Nat := 0x10980000 + 8 * r

/-- Device address of entry `p` of bucket `j`. -/
def idxAddr (j p : Nat) : Nat := 0x10A00000 + 128 * j + 8 * p

/-- A field of a context: byte offset, lowest bit, width in bits (Table 11.2). -/
structure CtxField where
  off : Nat
  lo : Nat
  n : Nat
  deriving DecidableEq, Repr

abbrev Cx.nodeAddr : CtxField := ⟨0x00, 0, 25⟩
abbrev Cx.valid : CtxField := ⟨0x00, 31, 1⟩
abbrev Cx.flags : CtxField := ⟨0x04, 0, 32⟩
abbrev Cx.secureClass : CtxField := ⟨0x04, 0, 1⟩
abbrev Cx.sleepy : CtxField := ⟨0x04, 1, 1⟩
abbrev Cx.wurx : CtxField := ⟨0x04, 2, 1⟩
abbrev Cx.router : CtxField := ⟨0x04, 3, 1⟩
abbrev Cx.lost : CtxField := ⟨0x04, 4, 1⟩
abbrev Cx.counterUnknown : CtxField := ⟨0x04, 5, 1⟩
abbrev Cx.shortValid : CtxField := ⟨0x04, 6, 1⟩
abbrev Cx.history : CtxField := ⟨0x04, 7, 1⟩
abbrev Cx.lqKnown : CtxField := ⟨0x04, 8, 1⟩
abbrev Cx.rxq : CtxField := ⟨0x04, 9, 5⟩
abbrev Cx.relay : CtxField := ⟨0x04, 14, 1⟩
abbrev Cx.eui : CtxField := ⟨0x08, 0, 64⟩
abbrev Cx.short : CtxField := ⟨0x10, 0, 16⟩
abbrev Cx.panId : CtxField := ⟨0x12, 0, 16⟩
abbrev Cx.lastDsn : CtxField := ⟨0x14, 0, 8⟩
abbrev Cx.lq : CtxField := ⟨0x15, 0, 8⟩
abbrev Cx.lastCheck : CtxField := ⟨0x16, 0, 16⟩
abbrev Cx.fcIn : CtxField := ⟨0x18, 0, 32⟩
abbrev Cx.fcOut : CtxField := ⟨0x1C, 0, 32⟩
abbrev Cx.blob : CtxField := ⟨0x20, 0, 15⟩
abbrev Cx.blobValid : CtxField := ⟨0x20, 15, 1⟩
abbrev Cx.kslot : CtxField := ⟨0x20, 16, 9⟩
abbrev Cx.kslotValid : CtxField := ⟨0x20, 25, 1⟩
abbrev Cx.schedPeriod : CtxField := ⟨0x24, 0, 24⟩
abbrev Cx.schedBand : CtxField := ⟨0x24, 24, 1⟩
abbrev Cx.schedOffset : CtxField := ⟨0x28, 0, 24⟩
abbrev Cx.schedCh : CtxField := ⟨0x28, 24, 6⟩
abbrev Cx.drift : CtxField := ⟨0x2C, 0, 16⟩
abbrev Cx.guardState : CtxField := ⟨0x2E, 0, 16⟩
abbrev Cx.gContacts : CtxField := ⟨0x2E, 0, 2⟩
abbrev Cx.gPhase : CtxField := ⟨0x2E, 2, 3⟩
abbrev Cx.gCount : CtxField := ⟨0x2E, 5, 4⟩
abbrev Cx.gOutliers : CtxField := ⟨0x2E, 9, 2⟩
abbrev Cx.lastContact : CtxField := ⟨0x30, 0, 48⟩
abbrev Cx.nextHop : CtxField := ⟨0x38, 0, 15⟩
abbrev Cx.hops : CtxField := ⟨0x38, 16, 4⟩
abbrev Cx.buddy : CtxField := ⟨0x38, 20, 10⟩
abbrev Cx.epoch : CtxField := ⟨0x3C, 0, 32⟩
abbrev Cx.seq : CtxField := ⟨0x40, 0, 32⟩
abbrev Cx.lastRssi : CtxField := ⟨0x44, 0, 8⟩
abbrev Cx.lastCh : CtxField := ⟨0x44, 8, 6⟩
abbrev Cx.lastBand : CtxField := ⟨0x44, 14, 1⟩
abbrev Cx.lastPhy : CtxField := ⟨0x44, 15, 3⟩
abbrev Cx.rxFrames : CtxField := ⟨0x48, 0, 16⟩
abbrev Cx.txFails : CtxField := ⟨0x48, 16, 16⟩
/-- STAMPg: EPOCH, SEQ and MEMBER. -/
abbrev Cx.stampEpoch (g : Nat) : CtxField := ⟨0x50 + 12 * g, 0, 32⟩
abbrev Cx.stampSeq (g : Nat) : CtxField := ⟨0x54 + 12 * g, 0, 32⟩
abbrev Cx.stampMember (g : Nat) : CtxField := ⟨0x58 + 12 * g, 0, 10⟩

/-- Bytes that a field spans. -/
def CtxField.len (f : CtxField) : Nat := (f.lo + f.n + 7) / 8

/-- A number with bits `[lo + n − 1 : lo]` replaced by `v`. -/
def putField (old lo n v : Nat) : Nat :=
  old - (bitsOf old (lo + n - 1) lo <<< lo) + ((v % 2 ^ n) <<< lo)

/-- A field of the context in slot `s`. -/
def Dev.cx (d : Dev) (s : Nat) (f : CtxField) : Nat :=
  bitsOf (d.le (ctxAddr s + f.off) f.len) (f.lo + f.n - 1) f.lo

/-- A one-bit field of a context. -/
def Dev.cxIs (d : Dev) (s : Nat) (f : CtxField) : Bool := d.cx s f = 1

/-- The device with a context field replaced. -/
def Dev.setCx (d : Dev) (s : Nat) (f : CtxField) (v : Nat) : Dev :=
  d.setLe (ctxAddr s + f.off) f.len (putField (d.le (ctxAddr s + f.off) f.len) f.lo f.n v)

/-- A field of a context image held as bytes. -/
def imgField (img : List Byte) (f : CtxField) : Nat := bitsOf (leAt img f.off f.len) (f.lo + f.n - 1) f.lo

/-- An image with a field replaced. -/
def setImg (img : List Byte) (f : CtxField) (v : Nat) : List Byte :=
  img.take f.off ++ natLe f.len (putField (leAt img f.off f.len) f.lo f.n v) ++ img.drop (f.off + f.len)

/-- Slot `s` holds a node. -/
def Dev.slotValid (d : Dev) (s : Nat) : Bool := s < 32768 && d.cxIs s Cx.valid

/-- This device's member index (R254). -/
def Dev.member (d : Dev) : Nat := d.rd Fld.ndtMember_member

/-- The current federation epoch (R287). -/
def Dev.epoch (d : Dev) : Nat := (d.reg Reg.fedEpoch).toNat

/-- Context `s` changed: in RUN it is to be sent to the buddy (R279). -/
def Dev.replMark (d : Dev) (s : Nat) : Dev :=
  if d.domUp 27 && d.rd Fld.fedStatus_state = 8 then
    { d with fed := { d.fed with repl := d.fed.repl.filter (fun e => e.slot != s) ++ [{ slot := s }] } }
  else d

/-- The node of slot `s` was removed: its buddy is to hear of it, with the SEQ after its last (R279). -/
def Dev.replGone (d : Dev) (s node seq : Nat) : Dev :=
  let e := d.replMark s
  let note (x : ReplEntry) : ReplEntry := if x.slot = s then { x with gone := some (node, (seq + 1) % 2 ^ 32) } else x
  { e with fed := { e.fed with repl := e.fed.repl.map note } }

/-- A write of context `s`: EPOCH takes the current epoch and SEQ rises by 1 (Table 11.2). -/
def Dev.cxTouch (d : Dev) (s : Nat) : Dev :=
  ((d.setCx s Cx.epoch d.epoch).setCx s Cx.seq (d.cx s Cx.seq + 1)).replMark s

/-- A saturating 16-bit context counter raised by one. -/
def Dev.cxBump (d : Dev) (s : Nat) (f : CtxField) : Dev := d.setCx s f (satAdd (d.cx s f) 1 (2 ^ f.n - 1))

/-! Route entries. -/

def Dev.rteW0 (d : Dev) (r : Nat) : Nat := d.le (rteAddr r) 4
def Dev.rteW1 (d : Dev) (r : Nat) : Nat := d.le (rteAddr r + 4) 4
def Dev.rteValid (d : Dev) (r : Nat) : Bool := (d.rteW0 r).testBit 25
def Dev.rteResident (d : Dev) (r : Nat) : Bool := (d.rteW0 r).testBit 26
def Dev.rteNode (d : Dev) (r : Nat) : Nat := d.rteW0 r % 2 ^ 25
def Dev.rteTarget (d : Dev) (r : Nat) : Nat := d.rteW1 r % 2 ^ 15
def Dev.rteMember (d : Dev) (r : Nat) : Nat := bitsOf (d.rteW1 r) 24 15

/-- Writes route entry `r` (Table 11.4). -/
def Dev.setRte (d : Dev) (r node : Nat) (resident : Bool) (target member : Nat) : Dev :=
  let d := d.setLe (rteAddr r) 4 (node % 2 ^ 25 + 2 ^ 25 + (if resident then 2 ^ 26 else 0))
  d.setLe (rteAddr r + 4) 4 (target % 2 ^ 15 + (member % 1024) * 2 ^ 15)

/-- Clears route entry `r`. -/
def Dev.clearRte (d : Dev) (r : Nat) : Dev := d.setLe (rteAddr r) 8 0

/-- Sets MEMBER of route entry `r`. -/
def Dev.setRteMember (d : Dev) (r m : Nat) : Dev := d.setLe (rteAddr r + 4) 4 (putField (d.rteW1 r) 15 10 m)

/-! Address index. -/

/-- An index key: KIND and eight key bytes (R238). -/
structure IdxKey where
  kind : Nat
  bytes : List Byte
  deriving DecidableEq, Repr

def keyShort (short pan : Nat) : IdxKey := ⟨0, natLe 2 short ++ natLe 2 pan ++ List.replicate 4 0#8⟩
def keyEui (eui : Nat) : IdxKey := ⟨1, natLe 8 eui⟩
def keyNode (node : Nat) : IdxKey := ⟨2, natLe 4 node ++ List.replicate 4 0#8⟩

def IdxKey.record (k : IdxKey) : List Byte := BitVec.ofNat 8 k.kind :: k.bytes

/-- FP of a key: CRC-32C of its record. -/
def IdxKey.fp (k : IdxKey) : Nat := crc32c k.record

/-- The buckets b1 and b2 of a key. -/
def IdxKey.buckets (k : IdxKey) : Nat × Nat :=
  let b1 := crc32 k.record % 12288
  let b2 := k.fp % 12288
  (b1, if b2 = b1 then (b1 + 1) % 12288 else b2)

def Dev.idxFp (d : Dev) (a : Nat) : Nat := d.le a 4
def Dev.idxW1 (d : Dev) (a : Nat) : Nat := d.le (a + 4) 4
def Dev.idxValid (d : Dev) (a : Nat) : Bool := (d.idxW1 a).testBit 18
def Dev.idxRoute (d : Dev) (a : Nat) : Nat := d.idxW1 a % 65536
def Dev.idxKind (d : Dev) (a : Nat) : Nat := bitsOf (d.idxW1 a) 17 16

/-- Entry addresses of a bucket. -/
def bucketEntries (j : Nat) : List Nat := (List.range 16).map (idxAddr j)

/-- Entries of a key's buckets with its KIND and FP, b1 first (R239). -/
def Dev.candidates (d : Dev) (k : IdxKey) : List Nat :=
  (bucketEntries k.buckets.1 ++ bucketEntries k.buckets.2).filter fun a =>
    d.idxValid a && d.idxKind a = k.kind && d.idxFp a = k.fp

/-- The node in slot `s` is damaged and awaits rebuilding (R252). -/
def Dev.damagedSlot (d : Dev) (s : Nat) : Bool := d.ndt.damaged.contains s

/-- Slot `s` holds a node, or held one and awaits rebuilding: its resident route entry stands (R252). -/
def Dev.damagedNode (d : Dev) (s : Nat) : Bool := d.damagedSlot s && d.rteValid s && d.rteResident s

/-- A candidate's route entry confirms the key (R239, steps 3 and 5). A context that awaits rebuilding cannot, so its node is
found by the fingerprint (R252). -/
def Dev.confirms (d : Dev) (k : IdxKey) (r : Nat) : Bool :=
  d.rteValid r &&
    if k.kind = 2 then keyNode (d.rteNode r) = k
    else if d.rteResident r then
      let s := d.rteTarget r
      d.damagedSlot s || if k.kind = 0 then keyShort (d.cx s Cx.short) (d.cx s Cx.panId) = k else keyEui (d.cx s Cx.eui) = k
    else true

/-- The route entry that a key resolves to (R239). A held table finds nothing (R251). -/
def Dev.findKey (d : Dev) (k : IdxKey) : Option Nat :=
  if d.ndt.held then none
  else ((d.candidates k).map d.idxRoute).find? fun r => d.confirms k r

/-- The route entry of a node address (R239, step 1 first). -/
def Dev.findNode (d : Dev) (node : Nat) : Option Nat :=
  let s := node % 32768
  if d.ndt.held then none
  else if node / 32768 = d.member &&
      (if d.damagedSlot s then d.damagedNode s && d.rteNode s = node
        else d.slotValid s && d.cx s Cx.nodeAddr = node) then
    some s
  else d.findKey (keyNode node)

/-- The slot of a resident node address. -/
def Dev.findSlot (d : Dev) (node : Nat) : Option Nat :=
  match d.findNode node with
  | some r => if d.rteResident r || r < 32768 then some (if r < 32768 then r else d.rteTarget r) else none
  | none => none

/-- Free entries of a bucket, ascending. -/
def Dev.freeEntries (d : Dev) (j : Nat) : List Nat := (bucketEntries j).filter fun a => !d.idxValid a

/-- Inserts a key that names route `r`: the status code, OK on success (R238). -/
def Dev.insertKey (d : Dev) (k : IdxKey) (r : Nat) : Dev × Nat :=
  match d.candidates k with
  | a :: _ => if d.idxRoute a = r then (d, Code.ok) else (d.bump Fld.ndtStat3_insertFail, Code.keyCollision)
  | [] =>
    let f1 := d.freeEntries k.buckets.1
    let f2 := d.freeEntries k.buckets.2
    match (if f2.length ≤ f1.length then f1 else f2) with
    | [] => (d.bump Fld.ndtStat3_insertFail, Code.tableFull)
    | a :: _ =>
      ((d.setLe a 4 k.fp).setLe (a + 4) 4 (r + k.kind * 2 ^ 16 + 2 ^ 18), Code.ok)

/-- Inserts keys one after the other, stopping at the first refusal. -/
def Dev.insertKeys (d : Dev) (r : Nat) : List IdxKey → Dev × Nat
  | [] => (d, Code.ok)
  | k :: ks =>
    let x := d.insertKey k r
    if x.2 = Code.ok then x.1.insertKeys r ks else x

/-- Addresses of every valid index entry: those whose VALID bit is set in the stored bytes. -/
def Dev.idxUsed (d : Dev) : List Nat :=
  d.mem.filterMap fun c =>
    if 0x10A00000 ≤ c.1 ∧ c.1 < 0x10B80000 ∧ c.1 % 8 = 6 ∧ c.2.toNat.testBit 2 then some (c.1 - 6) else none

/-- Clears the index entries that name route `r` and whose KIND satisfies `p`. -/
def Dev.dropKeys (d : Dev) (r : Nat) (p : Nat → Bool) : Dev :=
  (d.idxUsed.filter fun a => d.idxRoute a = r && p (d.idxKind a)).foldl (fun d a => d.setLe a 8 0) d

/-- The keys of the resident node in slot `s` (R238). -/
def Dev.residentKeys (d : Dev) (s : Nat) : List IdxKey :=
  let node := d.cx s Cx.nodeAddr
  keyEui (d.cx s Cx.eui)
    :: (if d.cxIs s Cx.shortValid then [keyShort (d.cx s Cx.short) (d.cx s Cx.panId)] else [])
    ++ (if s ≠ node % 32768 ∨ node / 32768 ≠ d.member then [keyNode node] else [])

/-- Valid contexts (R257). -/
def Dev.residentCount (d : Dev) : Nat :=
  (d.mem.filter fun c => 0x10000000 ≤ c.1 && c.1 < 0x10400000 && c.1 % 128 = 3 && c.2.toNat.testBit 7).length

/-- Valid remote entries (R257). -/
def Dev.remoteRoutes (d : Dev) : List Nat :=
  d.mem.filterMap fun c =>
    if 0x109C0000 ≤ c.1 ∧ c.1 < 0x10A00000 ∧ c.1 % 8 = 3 ∧ c.2.toNat.testBit 1 then
      some ((c.1 - 0x10980000) / 8) else none

/-- Slots that hold a node. -/
def Dev.residentSlots (d : Dev) : List Nat :=
  d.mem.filterMap fun c =>
    if 0x10000000 ≤ c.1 ∧ c.1 < 0x10400000 ∧ c.1 % 128 = 3 ∧ c.2.toNat.testBit 7 then
      some ((c.1 - 0x10000000) / 128) else none

end Sys2Proof.Machine
end

