-- ==== Sys2Proof/Machine/Keys.lean ====
section
/-! DEFINITION. Fuses of the OTP, key slots, KEY_CMD operations and derived keys (R377–R387). -/

namespace Sys2Proof.Machine

open Sys2Proof

/-! Fuse words. The journal lies where R391 puts it; the other words have numbers of the model's own. -/

/-- Value and complement of life-cycle state row `r`. -/
abbrev Fuse.row (r : Nat) : Nat := r
abbrev Fuse.rowC (r : Nat) : Nat := 8 + r
/-- Key rows KR0 and KR1. -/
abbrev Fuse.kr (b i : Nat) : Nat := 0x100 + 64 * b + i
/-- DEVICE_SECRET, eight words. -/
abbrev Fuse.secret (i : Nat) : Nat := 0x180 + i
/-- EUI-64, low word and high word. -/
abbrev Fuse.eui (i : Nat) : Nat := 0x190 + i
/-- OTP_WURX_FALLBACK. -/
abbrev Fuse.wurx : Nat := 0x192
/-- Minimum security version and its complement. -/
abbrev Fuse.svn : Nat := 0x194
abbrev Fuse.svnC : Nat := 0x195
/-- Key-hash slot `k`: eight words, their complements, the revocation word and its complement. -/
abbrev Fuse.hash (k i : Nat) : Nat := 0x200 + 32 * k + i
/-- Journal entry `j`, word A, B or C (R391). -/
abbrev Fuse.journal (j w : Nat) : Nat := 0x3C0 + 3 * j + w

/-- What a fuse word holds from wafer test: row 0 holds BLANK, every other word is unprogrammed (R388). -/
def fuseDefault (w : Nat) : Nat := if w = Fuse.rowC 0 then 0xFFFFFFFF else 0

/-- The value of a fuse word. -/
def Dev.fuse (d : Dev) (w : Nat) : Nat := (alGet w d.fuses).getD (fuseDefault w)

/-- Programs bit `b` of fuse word `w` to 1. -/
def Dev.blow (d : Dev) (w b : Nat) : Dev := { d with fuses := alSet w (setBitN (d.fuse w) b) d.fuses }

/-- Bits of word `w` still to be programmed so that it holds every 1 of `v`. -/
def Dev.missing (d : Dev) (w v : Nat) : List (Nat × Nat) :=
  ((List.range 32).filter fun b => v.testBit b && !(d.fuse w).testBit b).map fun b => (w, b)

/-- A pair of words is valid: value XOR complement = 0xFFFF_FFFF (R426). -/
def Dev.pairValid (d : Dev) (w c : Nat) : Bool := d.fuse w ^^^ d.fuse c = 0xFFFFFFFF

/-- Device EUI-64, most significant octet first. -/
def Dev.euiBytes (d : Dev) : List Byte := natBe 4 (d.fuse (Fuse.eui 1)) ++ natBe 4 (d.fuse (Fuse.eui 0))

/-- Life-cycle state row `r` is valid. -/
def Dev.rowValid (d : Dev) (r : Nat) : Bool := d.pairValid (Fuse.row r) (Fuse.rowC r)

/-- Row `r` is free: no bit of it is programmed. -/
def Dev.rowFree (d : Dev) (r : Nat) : Bool := d.fuse (Fuse.row r) = 0 && d.fuse (Fuse.rowC r) = 0

/-- Row values of Table 17.7, by state. -/
def lcValues : List Nat := [0, 0x4D460001, 0x46490002, 0x52450003, 0x53430004]

/-- The value of the last valid row (R388). -/
def Dev.lcValue (d : Dev) : Option Nat :=
  (((List.range 8).filter d.rowValid).getLast?).map fun r => d.fuse (Fuse.row r)

/-- The life-cycle state, 0 to 4 in the order of Table 17.7; none where no row is valid or the last valid row
holds another value. -/
def Dev.lcOf (d : Dev) : Option Nat :=
  match d.lcValue with
  | some v => lcValues.findIdx? (· = v)
  | none => none

/-- Journal entry `j` is valid, free, closed (R391). -/
def Dev.journalValid (d : Dev) (j : Nat) : Bool := d.pairValid (Fuse.journal j 0) (Fuse.journal j 1)
def Dev.journalFree (d : Dev) (j : Nat) : Bool :=
  d.fuse (Fuse.journal j 0) = 0 && d.fuse (Fuse.journal j 1) = 0 && d.fuse (Fuse.journal j 2) = 0
/-- Flag `k` of word C: 0 STARTED, 1 DESTROYED, 2 CLOSED; set when both bits of its pair are 1. -/
def Dev.journalFlag (d : Dev) (j k : Nat) : Bool :=
  bitsOf (d.fuse (Fuse.journal j 2)) (2 * k + 1) (2 * k) = 3

/-- The open journal entry, if any. -/
def Dev.openJournal (d : Dev) : Option Nat :=
  (List.range 6).find? fun j => d.journalValid j && !d.journalFlag j 2

/-- TO and FROM of an entry. -/
def Dev.journalTo (d : Dev) (j : Nat) : Nat := bitsOf (d.fuse (Fuse.journal j 0)) 10 8
def Dev.journalFrom (d : Dev) (j : Nat) : Nat := bitsOf (d.fuse (Fuse.journal j 0)) 2 0

/-- OTP_LC_STATUS follows the fuses (R388). -/
def Dev.lcStatusLoad (d : Dev) : Dev :=
  let j := d.openJournal
  let rows := ((List.range 8).filter fun r => !d.rowFree r).length
  let used := ((List.range 6).filter fun j => !d.journalFree j).length
  let tgt := match j with | some k => d.journalTo k | none => 0
  let des := match j with | some k => b2n (d.journalFlag k 1) | none => 0
  d.setReg Reg.otpLcStatus (BitVec.ofNat 32 (d.lcOf.getD 0 + tgt * 2 ^ 4 + b2n j.isSome * 2 ^ 8
    + des * 2 ^ 9 + rows * 2 ^ 16 + used * 2 ^ 20))

/-- NV_OK (R43). -/
def Dev.nvOk (d : Dev) : Bool := d.is Fld.sysSupplyStatus_nvOk

/-! Slots. -/

/-- KEY_SLOTn_ATTR. -/
def Dev.attrValid (d : Dev) (n : Nat) : Bool := d.is Fld.keySlotAttr_valid n
def Dev.attrEngines (d : Dev) (n : Nat) : Nat := d.rd Fld.keySlotAttr_engines n

/-- Slot `n` lies in the node pool (R383). -/
def Dev.inPool (d : Dev) (n : Nat) : Bool :=
  decide (d.rd Fld.keyPool_base ≤ n) && decide (n < d.rd Fld.keyPool_base + d.rd Fld.keyPool_count)

/-- Slots of the node pool. -/
def Dev.poolSlots (d : Dev) : List Nat := (List.range 512).filter d.inPool

/-- The key in slot `n`: 16 or 32 octets (R377). -/
def Dev.keyBytes (d : Dev) (n : Nat) : List Byte :=
  match alGet n d.keys.slots with
  | some k => (natLe 32 (k.s0 ^^^ k.s1)).take (if d.is Fld.keySlotAttr_keylen n then 32 else 16)
  | none => []

/-- A queued request that names slot `n` loses its key (R381). -/
def CipherReq.loseKey (n : Nat) (r : CipherReq) : CipherReq :=
  if r.kslot = n then { r with keyGone := true } else r

/-- Queued requests that name a slot which changes complete with KEY_SLOT_EMPTY when they start (R381). -/
def Dev.slotChanged (d : Dev) (n : Nat) : Dev :=
  { d with cph := { d.cph with
      queue := d.cph.queue.map (CipherReq.loseKey n)
      waiting := d.cph.waiting.map (CipherReq.loseKey n)
      held := d.cph.held.map (CipherReq.loseKey n) } }

/-- Puts a key into slot `n` as two fresh shares, with its attributes (R377, R379). -/
def Dev.putKey (d : Dev) (n : Nat) (key : List Byte) (long : Bool) (engines origin hdr owner : Nat) : Dev :=
  let k := leNat (padTo 32 key)
  let r := d.free 256
  let d := r.2.slotChanged n
  let d := { d with keys := { d.keys with
    slots := alSet n { s0 := r.1, s1 := k ^^^ r.1, hdr := hdr, used := d.keys.clock } d.keys.slots
    clock := d.keys.clock + 1 } }
  d.setReg (Reg.keySlotAttr + 4 * n)
    (BitVec.ofNat 32 (2 ^ 31 + origin * 2 ^ 28 + b2n long * 2 ^ 26 + (engines % 64) * 2 ^ 16 + owner % 2 ^ 15))

/-- Zeroizes slot `n`. -/
def Dev.zeroSlot (d : Dev) (n : Nat) : Dev :=
  let d := d.slotChanged n
  ({ d with keys := { d.keys with slots := alDel n d.keys.slots } }).setReg (Reg.keySlotAttr + 4 * n) 0

/-- Zeroizes every slot (R377): the shares, the attributes, and every queued request's key. -/
def Dev.zeroAllSlots (d : Dev) : Dev :=
  let gone (r : CipherReq) : CipherReq := { r with keyGone := true }
  let d := { d with
    keys := { d.keys with slots := [], doomed := [], unwraps := [], pinned := [] }
    cph := { d.cph with queue := d.cph.queue.map gone, waiting := d.cph.waiting.map gone,
                        held := d.cph.held.map gone } }
  d.clearRegs fun a => decide (Reg.keySlotAttr ≤ a) && decide (a < Reg.keySlotAttr + 2048)

/-- A use of slot `n` makes it the most recently used one. -/
def Dev.touchKey (d : Dev) (n : Nat) : Dev :=
  match alGet n d.keys.slots with
  | some k => { d with keys := { d.keys with
      slots := alSet n { k with used := d.keys.clock } d.keys.slots, clock := d.keys.clock + 1 } }
  | none => d

/-- The ENGINES combinations that R386 permits, as the six bits [21:16] of an attribute. -/
def enginesOk (e : Nat) : Bool :=
  (!e.testBit 4 || e = 16) && (!e.testBit 3 || e = 8) && (!e.testBit 2 || (!e.testBit 0 && !e.testBit 1))

/-! KEY_CMD (R380). -/

/-- KEY_DATA as 48 octets. -/
def Dev.keyData (d : Dev) : List Byte :=
  (List.range 12).flatMap fun i => natLe 4 (d.reg (Reg.keyData + 4 * i)).toNat

/-- Leaves octets in KEY_DATA, the rest zero. -/
def Dev.setKeyData (d : Dev) (bs : List Byte) : Dev :=
  (List.range 12).foldl (fun d i => d.setReg (Reg.keyData + 4 * i) (BitVec.ofNat 32 (leAt bs (4 * i) 4))) d

/-- The blob key for UNWRAP and WRAP, or the result that refuses it (R380, R382). -/
def Dev.blobKey (d : Dev) (rootKey : Bool) : Except Nat (List Byte) :=
  if rootKey || !d.is Fld.keyBlobCfg_mode then
    match d.keys.rootBlob with
    | some k => .ok k
    | none => .error Code.lifecycle
  else
    let n := d.rd Fld.keyBlobCfg_kekSlot
    if !d.attrValid n then .error Code.keySlotEmpty
    else if !(d.attrEngines n).testBit 4 then .error Code.engineNotAllowed
    else .ok (d.keyBytes n)

/-- The header and key of an unwrapped blob, where FORMAT, the reserved bits and the key field obey Table 17.5. -/
def blobParts (p : List Byte) : Option (Nat × Nat × List Byte) :=
  let w0 := leAt p 0 4
  let w1 := leAt p 4 4
  if w0 % 256 = 1 ∧ bitsOf w0 9 9 = 0 ∧ bitsOf w0 15 12 = 0 ∧ bitsOf w0 23 22 = 0 ∧ bitsOf w1 31 25 = 0
      ∧ (w0.testBit 8 ∨ (p.drop 24).all (· = 0#8)) then
    some (w0, w1 % 2 ^ 25, p.drop 8)
  else none

/-- Key rows that the current state opens: 0 for KR0 in MANUFACTURE, 1 for KR1 in FIELD (R388, R390). -/
def Dev.keyRows (d : Dev) : Option Nat :=
  match d.lcOf with
  | some 1 => some 0
  | some 2 => some 1
  | _ => none

/-- Whether the state excludes operation `op` (Table 17.7): BLANK admits LOAD, CLEAR and LOCK only, SCRAPPED
none, and the key rows exist in MANUFACTURE and FIELD only. An open transition excludes every operation. -/
def Dev.lcExcludes (d : Dev) (op : Nat) : Bool :=
  d.openJournal.isSome || d.lc.isSome ||
    match d.lcOf with
    | some 0 => !(op = 1 || op = 2 || op = 6)
    | some 1 | some 2 => false
    | some 3 => op = 7 || op = 8
    | _ => true

/-- A key that a given result refuses. -/
def refusedAs (e : Except Nat (List Byte)) (c : Nat) : Bool :=
  match e with
  | .error k => k = c
  | .ok _ => false

/-- The refusals of R380 that depend on the operation, in their order; none where it is accepted. -/
def Dev.keyRefusal (d : Dev) (op slot : Nat) (kek : Bool) : Option Nat :=
  let eng := d.rd Fld.keyArg_engines
  let src := d.rd Fld.keyArg_src
  let target := op = 1 ∨ op = 2 ∨ op = 3 ∨ op = 5 ∨ op = 6 ∨ op = 7
  let krBad := (src % 64) % (if d.is Fld.keyArg_keylen then 8 else 4) ≠ 0
  if ((op = 1 ∨ op = 7) ∧ ¬ enginesOk eng) ∨ ((op = 7 ∨ op = 8) ∧ krBad)
      ∨ (op = 5 ∧ (48 < d.rd Fld.keyArg_len ∨ (¬ eng.testBit 3 ∧ (eng = 0 ∨ ¬ enginesOk eng)))) then
    some Code.reservedField
  else if target ∧ (d.is Fld.keySlotAttr_lock slot ∨ d.inPool slot) then some Code.slotLocked
  else if (op = 4 ∧ ¬ d.attrValid slot) ∨ (op = 5 ∧ ¬ d.attrValid src)
      ∨ ((op = 3 ∨ op = 4) ∧ refusedAs (d.blobKey kek) Code.keySlotEmpty) then some Code.keySlotEmpty
  else if (op = 5 ∧ (¬ (d.attrEngines src).testBit 3 ∨ eng.testBit 3))
      ∨ ((op = 3 ∨ op = 4) ∧ refusedAs (d.blobKey kek) Code.engineNotAllowed) then some Code.engineNotAllowed
  else if op = 4 ∧ d.rd Fld.keySlotAttr_origin slot ≠ 0 then some Code.notPermitted
  else if d.lcExcludes op ∨ ((op = 3 ∨ op = 4) ∧ refusedAs (d.blobKey kek) Code.lifecycle) then
    some Code.lifecycle
  else if op = 8 ∧ ¬ d.nvOk then some Code.lowSupply
  else none

/-- The effect of an accepted operation on the slots, with the RESULT, the output left in KEY_DATA and the
fuse bits it programs (Table 17.4). -/
def Dev.keyEffect (d : Dev) (op slot : Nat) (kek : Bool) : Dev × Nat × List Byte × List (Nat × Nat) :=
  let data := d.keyData
  let eng := d.rd Fld.keyArg_engines
  let long := d.is Fld.keyArg_keylen
  let src := d.rd Fld.keyArg_src
  match op with
  | 1 => (d.putKey slot (data.take (if long then 32 else 16)) long eng 0 0 0, Code.ok, [], [])
  | 2 => (d.zeroSlot slot, Code.ok, [], [])
  | 3 =>
    match d.blobKey kek with
    | .error c => (d, c, [], [])
    | .ok k =>
      match (kwUnwrap k data).bind blobParts with
      | none => (d, Code.blobInvalid, [], [])
      | some (w0, _, key) =>
        if enginesOk (bitsOf w0 21 16) then
          (d.putKey slot (key.take (if w0.testBit 8 then 32 else 16)) (w0.testBit 8) (bitsOf w0 21 16) 1 w0 0,
            Code.ok, [], [])
        else (d, Code.reservedField, [], [])
  | 4 =>
    match d.blobKey kek with
    | .error c => (d, c, [], [])
    | .ok k => (d, Code.ok, kwWrap k (data.take 8 ++ padTo 32 (d.keyBytes slot)), [])
  | 5 =>
    (d.putKey slot (kdfRaw (d.keyBytes src) (data.take (d.rd Fld.keyArg_len)) (if long then 256 else 128))
      long eng 2 0 0, Code.ok, [], [])
  | 6 => (d.wr Fld.keySlotAttr_lock 1 slot, Code.ok, [], [])
  | 7 =>
    let b := d.keyRows.getD 0
    (d.putKey slot ((List.range (if long then 8 else 4)).flatMap fun i => natLe 4 (d.fuse (Fuse.kr b (src % 64 + i))))
      long eng 3 0 0, Code.ok, [], [])
  | 8 =>
    let b := d.keyRows.getD 0
    (d, Code.ok, [], (List.range (min 8 (64 - src % 64))).flatMap fun i =>
      d.missing (Fuse.kr b (src % 64 + i)) (leAt data (4 * i) 4))
  | _ => (d, Code.ok, [], [])

/-- Operation `op` of KEY_CMD starts on `slot` (R380): BUSY until it ends. -/
def Dev.keyStart (d : Dev) (op slot : Nat) (kek : Bool) : Dev :=
  let slot := slot % 512
  let d := d.wr Fld.keyStatus_busy 1
  match d.keyRefusal op slot kek with
  | some c => { d with keys := { d.keys with op := some { op := op, slot := slot, result := c, out := [] } } }
  | none =>
    let r := d.keyEffect op slot kek
    { r.1 with keys := { r.1.keys with
        op := some { op := op, slot := slot, result := r.2.1, out := r.2.2.1, bits := r.2.2.2 } } }

/-- KEY_CMD starts operation `op` (R380): the writer and BUSY are checked. -/
def keyCmd (op : Nat) (who : Initiator) (slot : Nat) (kek : Bool) (d : Dev) : Dev :=
  if !d.domUp 25 then d
  else if !d.secure who || d.is Fld.keyStatus_busy then d.refuseWrite who Reg.keyCmd
  else d.keyStart op slot kek

def execLoad (who : Initiator) (slot : Nat) (s : State) : Host.Outcome State Fault Refusal :=
  s.run (keyCmd 1 who slot false)
def execKeyCmdClear (who : Initiator) (slot : Nat) (s : State) : Host.Outcome State Fault Refusal :=
  s.run (keyCmd 2 who slot false)
def execUnwrap (who : Initiator) (slot : Nat) (kek : Bool) (s : State) : Host.Outcome State Fault Refusal :=
  s.run (keyCmd 3 who slot kek)
def execWrap (who : Initiator) (slot : Nat) (kek : Bool) (s : State) : Host.Outcome State Fault Refusal :=
  s.run (keyCmd 4 who slot kek)
def execDerive (who : Initiator) (slot : Nat) (s : State) : Host.Outcome State Fault Refusal :=
  s.run (keyCmd 5 who slot false)
def execLock (who : Initiator) (slot : Nat) (s : State) : Host.Outcome State Fault Refusal :=
  s.run (keyCmd 6 who slot false)
def execLoadKr (who : Initiator) (slot : Nat) (s : State) : Host.Outcome State Fault Refusal :=
  s.run (keyCmd 7 who slot false)
def execProgKr (who : Initiator) (slot : Nat) (s : State) : Host.Outcome State Fault Refusal :=
  s.run (keyCmd 8 who slot false)

/-- KEY_CMD written as a register: reserved bits and the reserved operations of Table 17.3. -/
def Dev.keyCmdWrite (d : Dev) (who : Initiator) (w : Word) : Dev :=
  if !d.secure who || d.is Fld.keyStatus_busy then d.refuseWrite who Reg.keyCmd
  else
    let op := wBits w 3 0
    if 9 ≤ op then d.rejectWrite who Reg.keyCmd
    else
      let d := d.rsvd who Reg.keyCmd w
      if op = 0 then d else keyCmd op who (wBits w 24 16) (w.toNat.testBit 12) d

/-- The operation of KEY_CMD ends: RESULT, KEY_DATA zeroed but for its output, KEY_EVT (R380, R395). -/
def keyOperationDone (d : Dev) : Dev :=
  match d.keys.op with
  | some o =>
    if o.bits.isEmpty then
      let d := { d with keys := { d.keys with op := none } }
      (((d.wr Fld.keyStatus_busy 0).wr Fld.keyStatus_result o.result).setKeyData o.out).raise 0x68
    else d
  | none => d

/-- KEY_SLOTn_ATTR: ENGINES may only clear, LOCK sets (R379). -/
def keySlotAttrWrite (who : Initiator) (n : Nat) (w : Word) (d : Dev) : Dev :=
  let a := Reg.keySlotAttr + 4 * n
  if !d.domUp 25 || 512 ≤ n then d
  else if !d.secure who then d.refuseWrite who a
  else if d.is Fld.keySlotAttr_lock n || d.inPool n then d.refuseWrite who a
  else
    let old := d.attrEngines n
    let new := wBits w 21 16
    let d := d.rsvd who a w
    let d := d.wr Fld.keySlotAttr_engines (old &&& new) n
    let d := if w.toNat.testBit 30 then d.wr Fld.keySlotAttr_lock 1 n else d
    if new &&& old = new then d else d.refuseWrite who a

def execKeySlotAttrWrite (who : Initiator) (n : Nat) (w : Word) (s : State) : Host.Outcome State Fault Refusal :=
  s.run (keySlotAttrWrite who n w)

/-- KEY_BLOB_CFG (R382): MODE 1 needs a KEK_SLOT with LOCK = 1 and ENGINES bit [20]. -/
def keyBlobCfgWrite (who : Initiator) (w : Word) (d : Dev) : Dev :=
  if !d.domUp 25 then d
  else if !d.secure who then d.refuseWrite who Reg.keyBlobCfg
  else
    let locked := d.is Fld.keyBlobCfg_lock
    let n := wBits w 24 16
    if !locked && w.toNat.testBit 0 && !(d.is Fld.keySlotAttr_lock n && (d.attrEngines n).testBit 4) then
      d.rejectWrite who Reg.keyBlobCfg
    else d.plainWrite who Reg.keyBlobCfg w locked

def execKeyBlobCfgWrite (who : Initiator) (w : Word) (s : State) : Host.Outcome State Fault Refusal :=
  s.run (keyBlobCfgWrite who w)

/-- KEY_POOL (R383): moves the node pool while no slot of it, and none of the new range, is VALID. -/
def keyPoolWrite (who : Initiator) (w : Word) (d : Dev) : Dev :=
  if !d.domUp 25 then d
  else if !d.secure who then d.refuseWrite who Reg.keyPool
  else
    let b := wBits w 8 0
    let c := wBits w 25 16
    if 512 < b + c || c = 0 then d.rejectWrite who Reg.keyPool
    else if d.poolSlots.any d.attrValid || ((List.range c).any fun i => d.attrValid (b + i)) then
      d.refuseWrite who Reg.keyPool
    else d.plainWrite who Reg.keyPool w

def execKeyPoolWrite (who : Initiator) (w : Word) (s : State) : Host.Outcome State Fault Refusal :=
  s.run (keyPoolWrite who w)

/-- Re-masks the slots of a list, each with a fresh random value (R377). -/
def Dev.remask (d : Dev) : List Nat → Dev
  | [] => d
  | n :: ns =>
    match alGet n d.keys.slots with
    | some k =>
      let r := d.free 256
      ({ r.2 with keys := { r.2.keys with
          slots := alSet n { k with s0 := k.s0 ^^^ r.1, s1 := k.s1 ^^^ r.1 } r.2.keys.slots } }).remask ns
    | none => d.remask ns

/-- A sweep re-masks every valid slot; a new MASK_PERIOD takes effect (R377, R378). -/
def remaskSweep (d : Dev) : Dev :=
  if d.domUp 25 then
    let d := d.remask (d.keys.slots.map (·.1))
    { d with keys := { d.keys with period := d.rd Fld.keyMask_period } }
  else d

def execRemaskSweep (s : State) : Host.Outcome State Fault Refusal := s.run remaskSweep

/-! Roots (R387). -/

/-- Label of the root of a state. -/
def rootLabel : Nat → Option String
  | 1 => some "ZNC MFG ROOT"
  | 2 => some "ZNC FIELD ROOT"
  | 3 => some "ZNC RETURN ROOT"
  | _ => none

/-- C0 Y memory addresses of the attestation public key and scalar (Table 17.6). -/
def attestKeyAddr : Nat := 0x0405FFA0
def attestScalarAddr : Nat := 0x0405FFE0

/-- The ROM derives the root of the current state, the root blob key and the attestation key pair (R387). -/
def Dev.deriveRoots (d : Dev) : Dev :=
  match d.lcOf with
  | some st =>
    match rootLabel st with
    | some label =>
      let secret := (List.range 8).flatMap fun i => natLe 4 (d.fuse (Fuse.secret i))
      let root := kdf secret label (d.euiBytes ++ natLe 4 (lcValues.getD st 0)) 256
      let k := beNat (kdf root "ZNC ATTEST" d.euiBytes 384) % (p256N - 1) + 1
      let d := { d with keys := { d.keys with
        root := some root, rootBlob := some (kdf root "ZNC BLOB KEK" d.euiBytes 256) } }
      (d.setBytes attestScalarAddr (natBe 32 k)).setBytes attestKeyAddr (p256Public k)
    | none => { d with keys := { d.keys with root := none, rootBlob := none } }
  | none => d

/-- Zeroizes the volatile items of R390. -/
def Dev.zeroVolatile (d : Dev) : Dev :=
  let d := d.zeroAllSlots
  let d := { d with keys := { d.keys with root := none, rootBlob := none } }
  let d := d.setBytes attestKeyAddr (List.replicate 96 0#8)
  (d.setKeyData []).setReg Reg.keyBlobCfg 0

end Sys2Proof.Machine
end

