-- ==== Sys2Proof/Machine/Reset.lean ====
section
/-! DEFINITION. Resets of the whole device (R44–R46, R58): the power-on reset, the system reset, the votes that
follow, and the boot codes that the ROM shows (R51, R53). -/

namespace Sys2Proof.Machine

open Sys2Proof

/-- Whether the register at `a` keeps its value over a system reset: the registers of D0, and those of D1
whose value is kept in D0 (R36, R44, R46). -/
def keptRegister (a : Nat) : Bool :=
  a = Reg.sysStrap || a = Reg.sysResetCause ||
    match regAt a with
    | some (r, _) => r.dom = 0
    | none => false

/-- V0's votes after a reset: D2, D23 and the boot source's domain (R58). -/
def bootVotes (sel : Nat) : Nat :=
  voteBit 2 ||| voteBit 23 |||
    (if sel = 0 ∨ sel = 2 then voteBit 28 else if sel = 1 then voteBit 26 else if sel = 3 then voteBit 27 else 0)

/-- Replaces the stored votes of client Vn. -/
def Dev.setVotes (d : Dev) (v w : Nat) : Dev := d.setReg (Reg.pwrVoteV + 4 * v) (BitVec.ofNat 32 (w &&& voteMask))

/-- Boot code in SYS_BOOT_STATUS. -/
def Dev.bootCode (d : Dev) (c : Nat) : Dev := d.wr Fld.sysBootStatus_code c

/-- A halt (R51): C0 stops, INT_N is asserted, the code stays; V0 keeps its vote for D28 (ch. 14). -/
def Dev.bootHalt (d : Dev) (c : Nat) : Dev :=
  let d := { d.bootCode c with boot := { d.boot with phase := .halted }, pins := { d.pins with intN := true } }
  let d := d.setCore 0 { d.core 0 with run := .stopped, stopPc := (d.core 0).pc }
  (d.setVotes 0 ((d.reg Reg.pwrVoteV).toNat ||| voteBit 28)).settle

/-- How a system reset leaves a domain: D22 by the rule of R58 and Table 04.4, every other domain OFF. V0's vote brings a
D22 that drains back to ON at once, and one that isolates at the end of its isolation; a switch-off goes on. -/
def resetDomain (n : Nat) (m : Domain) : Domain :=
  if n = 0 then Domain.onNow
  else if n = 22 then
    match m.st with
    | .on => { st := .on, tally := true }
    | .poweringUp => { m with tally := true, pend := .none }
    | .draining => { st := .on, tally := true }
    | .isolating => { m with tally := true, pend := .up, upBy := 0 }
    | .ret => { st := .ret }
    | .switchingOff => { st := .switchingOff }
    | .off => {}
  else {}

/-- D22 is one of the states in which V0 votes for it after a system reset (R58). -/
def keepsD22 (st : DomainState) : Bool :=
  match st with
  | .on | .poweringUp | .draining | .isolating => true
  | _ => false

/-- Node memory keeps its contents at the reset: D22 is in any state but OFF; what a switch-off leaves of them is decided
at its end (R44, R58). -/
def keepsNodeMemory (m : Domain) : Bool :=
  match m.st with
  | .off => false
  | _ => true

/-- Device addresses of node memory. -/
def isNodeMemory (a : Nat) : Bool := decide (0x10000000 ≤ a) && decide (a < 0x10C00000)

/-- Step 1 of Table 03.8 after either reset: the boot votes are cast (R58) and the ROM waits for its supplies;
BOOT_SEL 4–7 halts (R37). TEST_EN in BLANK and MANUFACTURE enters production test mode (R38). The reset has ended a halt,
and INT_N, which the halt asserted, is released as the ROM restarts: DEDUCED, since R32 leaves D0 pads as they are while
SYSRST_N is asserted and R51 ends a halt by a reset. -/
def Dev.bootStart (d : Dev) : Dev :=
  let sel := d.rd Fld.sysStrap_bootSel
  let d := { d.setReg Reg.sysBootStatus 1 with
    boot := { cold := d.boot.cold, phase := .supplies }
    pins := { d.pins with intN := false } }
  let d := d.lcStatusLoad
  if d.is Fld.sysStrap_testEn && (d.lcOf = some 0 || d.lcOf = some 1) then
    { d with boot := { d.boot with phase := .testMode } }
  else
    let d := (d.setVotes 0 ((d.reg Reg.pwrVoteV).toNat ||| bootVotes sel)).settle
    if 4 ≤ sel then d.bootHalt 0x10 else d

/-- Bit `cause` of SYS_RESET_CAUSE sets (R45, R46). -/
def Dev.resetCause (d : Dev) (cause : Nat) : Dev :=
  d.setReg Reg.sysResetCause (BitVec.ofNat 32 (setBitN (d.reg Reg.sysResetCause).toNat cause))

/-- What a reset ends of a frame: its reservation is released, and one on air is charged for the time that it used
(R180, R182). -/
def Dev.stopFrame (d : Dev) (f : TxFrame) : Dev :=
  match f.duty with
  | some (e, a) =>
    if f.onAir then d.dutyChargeFrame e f.sub f.chan a (min a ((d.tmb - f.firstChip + 31) / ticksPerUs))
    else d.dutyRelease e f.sub f.chan a
  | none => d

/-- Every frame of TP3 ends with the engines that send it. -/
def Dev.stopFrames (d : Dev) : Dev := d.tx.frames.foldl Dev.stopFrame d

/-- RFS registers of D0 that show what a reset has ended: no calibration runs or waits, every chain is OFF, no LO is
locked, and TRIM is 0 (R94, R100, R107). -/
def Dev.rfsRestart (d : Dev) : Dev :=
  let d := ((d.wr Fld.rfsCalStatus_busy 0).wr Fld.rfsCalStatus_pending 0).wr Fld.rfsChainState_chains 0
  (List.range 4).foldl (fun d n => d.wr Fld.rfsPwrTrim_trim 0 n) (d.wr Fld.rfsLoStatus_locked 0)

/-- The device restarts (R44, R46): all of D0 is kept, with every vote cleared but the one R58 casts for D22; every key
slot is zeroized; D1–D31 restart. The cause is recorded as bit `cause` of SYS_RESET_CAUSE. While SYSRST_N is low the boot
ROM waits for its release (R45). -/
def Dev.restart (d : Dev) (cause : Nat) : Dev :=
  let m22 := d.dom 22
  let kept := keepsNodeMemory m22
  let fresh := Dev.reset
  let aborted : Bool := match m22.st with | .draining => true | _ => false
  let st := d.rd Fld.pwrWatchStatus_state
  let e : Dev :=
    { fresh with
      tmb := d.tmb
      regs := d.regs.filter fun x => keptRegister x.1 && !(decide (Reg.pwrVoteV ≤ x.1) && decide (x.1 < Reg.pwrVoteV + 128))
      mem := if kept then d.mem.filter fun c => isNodeMemory c.1 else []
      out := d.out
      freeCount := d.freeCount
      pins := { d.pins with
        pcieLinkUp := false, held := List.replicate 7 none, ethUp := [false, false], used := [] }
      pwr := { d.pwr with
        doms := (List.range 32).map fun n => resetDomain n (d.dom n)
        fallback := false
        watchVote := none
        wakeStart := false
        muted := [] }
      rfs := { lastUse := d.rfs.lastUse }
      boot := { cold := false }
      err := { d.err with sparing := d.err.sparing.filter fun x => x.res < 2 ^ 28 }
      duty := d.duty
      region := { loaded := d.region.loaded }
      otpRegion := d.otpRegion
      fuses := d.fuses
      fed := if kept then { current := d.fed.current, proposed := d.fed.proposed } else {}
      ndt := { seq := if kept then d.ndt.seq else 0, warm := d.ndt.warm && kept
               warmValid := d.ndt.warm && kept, held := d.ndt.warm && kept } }
  let e := e.rfsRestart
  let e := e.setReg Reg.sysResetCause (BitVec.ofNat 32 (setBitN (d.reg Reg.sysResetCause).toNat cause))
  let e := if st = 2 ∨ st = 3 ∨ st = 4 then e.wr Fld.pwrWatchStatus_state 1 else e
  let e := if keepsD22 m22.st then e.setVotes 0 (voteBit 22) else e
  let e := if aborted then e.abortEntry 22 0 else e
  if d.pins.sysrstLow then e else e.bootStart

/-- A system reset (R44): the frames of TP3 end, and the device restarts. -/
def Dev.systemReset (d : Dev) (cause : Nat) : Dev := d.stopFrames.restart cause

/-- A power-on reset (R44): everything in D0 and above but the OTP. The record of what left the device and the
count of free values are the model's own and stay. SYSRST_N low at the same time is recorded beside POR (R45). -/
def Dev.powerOnReset (d : Dev) : Dev :=
  let e : Dev := { Dev.reset with
    out := d.out
    freeCount := d.freeCount
    pins := { aonGood := d.pins.aonGood, porstLow := true, sysrstLow := d.pins.sysrstLow, gpioIn := d.pins.gpioIn }
    otpRegion := d.otpRegion
    fuses := d.fuses
    regs := spWrite (regReset Reg.sysSupplyStatus) Reg.sysSupplyStatus (d.reg Reg.sysSupplyStatus) [] }
  if d.pins.sysrstLow then e.resetCause 1 else e

end Sys2Proof.Machine
end

