-- ==== Sys2Proof/Machine/LifeCycle.lean ====
section
/-! DEFINITION. Life-cycle transitions (R388–R392), their resume at boot (R55), and the programming of OTP
bits that transitions, key rows and the region share (R179, R391, R428). -/

namespace Sys2Proof.Machine

open Sys2Proof

/-- Bits still to be programmed so that word `w` holds every 1 of 32. -/
def Dev.fillWord (d : Dev) (w : Nat) : List (Nat × Nat) := d.missing w 0xFFFFFFFF

/-- Bits of the two bits of flag `k` of entry `j` that are still 0. -/
def Dev.flagBits (d : Dev) (j k : Nat) : List (Nat × Nat) := d.missing (Fuse.journal j 2) (3 * 4 ^ k)

/-- The lowest free journal entry, with the entries before it that are void and neither valid nor free. -/
def Dev.freeJournal (d : Dev) : Option Nat := (List.range 6).find? d.journalFree

/-- Voiding of the entries that hold a void header, before entry `j` (R391). -/
def Dev.voidEntries (d : Dev) (j : Nat) : List (Nat × Nat) :=
  ((List.range j).filter fun k => !d.journalValid k && !d.journalFree k).flatMap fun k =>
    d.fillWord (Fuse.journal k 0) ++ d.fillWord (Fuse.journal k 1)

/-- The next free state row. -/
def Dev.freeRow (d : Dev) : Option Nat := (List.range 8).find? d.rowFree

/-- Voiding of half-written rows before row `r` (R55). -/
def Dev.voidRows (d : Dev) (r : Nat) : List (Nat × Nat) :=
  ((List.range r).filter fun k => !d.rowValid k && !d.rowFree k).flatMap fun k =>
    d.fillWord (Fuse.row k) ++ d.fillWord (Fuse.rowC k)

/-- Fuse words that a transition destroys (Table 17.8). -/
def destroyed (source target : Nat) : List Nat :=
  let kr0 := (List.range 64).map (Fuse.kr 0)
  let kr1 := (List.range 64).map (Fuse.kr 1)
  if target = 4 then kr0 ++ kr1 ++ (List.range 8).map Fuse.secret
  else if source = 1 ∧ target = 2 then kr0
  else if source = 2 ∧ target = 3 then kr1
  else []

/-- Word A of a journal entry. -/
def journalWord (source target : Nat) : Nat := 0x4C4A0000 + target * 2 ^ 8 + source

/-- The bits that a step of R391 programs. -/
def Dev.lcStepBits (d : Dev) (r : LcRun) : List (Nat × Nat) :=
  match r.step with
  | 2 =>
    let a := journalWord r.source r.target
    d.voidEntries r.entry ++ d.missing (Fuse.journal r.entry 0) a
      ++ d.missing (Fuse.journal r.entry 1) (0xFFFFFFFF - a) ++ d.flagBits r.entry 0
  | 3 => d.flagBits r.entry 0 ++ (destroyed r.source r.target).flatMap d.fillWord
  | 4 => d.flagBits r.entry 1
  | 5 =>
    match d.freeRow with
    | some k =>
      let v := lcValues.getD r.target 0
      d.voidRows k ++ d.missing (Fuse.row k) v ++ d.missing (Fuse.rowC k) (0xFFFFFFFF - v)
    | none => []
  | 6 => d.flagBits r.entry 2
  | _ => []

/-- Enters step `n` of the running transition. -/
def Dev.lcEnter (d : Dev) (r : LcRun) (n : Nat) : Dev :=
  let r := { r with step := n }
  { d with lc := some { r with bits := d.lcStepBits r } }

/-- A transition ends with a result in KEY_STATUS (R389). -/
def Dev.lcEnd (d : Dev) (c : Nat) : Dev :=
  (({ d with lc := none } : Dev).lcStatusLoad).wr Fld.keyStatus_result c

/-- The permitted transitions (R389). -/
def lcPermitted (source target : Nat) : Bool :=
  (source = 0 && target = 1) || (source = 1 && target = 2) || (source = 2 && target = 3)
    || (source != 4 && target = 4)

/-- The start of a transition to `target`, or the result that refuses it (R389–R391). -/
def Dev.lcStart (d : Dev) (target : Nat) : Dev :=
  let source := d.lcOf.getD 4
  if !lcPermitted source target || (source = 1 && target = 2 && !d.is Fld.regStatus_sealed) then
    d.wr Fld.keyStatus_result Code.lifecycle
  else if !d.nvOk then d.wr Fld.keyStatus_result Code.lowSupply
  else
    match d.freeJournal, d.freeRow with
    | some j, some _ => (d.zeroVolatile.lcEnter { target := target, source := source, step := 2, entry := j } 2).settle
    | _, _ => d.wr Fld.keyStatus_result Code.lifecycle

/-- The step at which an open journal entry is taken up again (Table 03.14, R391): a half-set flag repeats the
step that it marks. -/
def Dev.resumeStep (d : Dev) (j : Nat) : Nat :=
  if !d.journalFlag j 1 then 3 else if d.lcOf = some (d.journalTo j) then 6 else 5

/-- Takes up the open journal entry `j`. -/
def Dev.lcResume (d : Dev) (j : Nat) (boot : Bool) : Dev :=
  d.lcEnter { target := d.journalTo j, source := d.journalFrom j, step := 3, entry := j, boot := boot }
    (d.resumeStep j)

/-- A start of a transition to `target` with the right key: the device, and whether the write is taken and not
ignored (R389, R391). An open journal entry takes up only its own target. -/
def Dev.lcRequest (d : Dev) (start : Bool) (target : Nat) : Dev × Bool :=
  if d.lc.isSome then (d, false)
  else
    match d.openJournal with
    | some j =>
      if start ∧ target = d.journalTo j then
        (if d.nvOk then (d.lcResume j false).settle else d.wr Fld.keyStatus_result Code.lowSupply, true)
      else (d, false)
    | none => (if start then (d.lcStart target).lcStatusLoad else d, true)

/-- OTP_LC_CMD (R389): the writer, the key, then the request. -/
def otpLcCmdStart (who : Initiator) (w : Word) (d : Dev) : Dev :=
  if !d.domUp 1 then d
  else if !d.secure who ∨ wBits w 31 16 ≠ 0x1C5E then d.refuseWrite who Reg.otpLcCmd
  else
    let r := (d.rsvd who Reg.otpLcCmd w).lcRequest (w.toNat.testBit 8) (wBits w 2 0)
    if r.2 then r.1 else d.refuseWrite who Reg.otpLcCmd

def execOtpLcCmdStart (who : Initiator) (w : Word) (s : State) : Host.Outcome State Fault Refusal :=
  s.run (otpLcCmdStart who w)

/-- What the test access port gives (Table 17.7). -/
structure TapAccess where
  /-- Boundary scan on TCK, TMS, TDI, TDO and TRST_N; BYPASS and IDCODE always work. -/
  boundaryScan : Bool
  /-- Every other instruction of IEEE 1149.1. -/
  full : Bool
  /-- Cores that debug reaches. -/
  debug : List Nat
  deriving DecidableEq, Repr

/-- The test access port in the current life-cycle state; without a valid state row it is as in FIELD (R38, Table 17.7). -/
def Dev.tapAccess (d : Dev) : TapAccess :=
  match d.lcOf with
  | some 0 => { boundaryScan := true, full := true, debug := List.range 8 }
  | some 1 => { boundaryScan := true, full := true, debug := List.range 8 }
  | some 3 => { boundaryScan := true, full := false, debug := [4, 5, 6, 7] }
  | some 4 => { boundaryScan := true, full := false, debug := [] }
  | _ => { boundaryScan := false, full := false, debug := [] }

/-! Boot (Table 03.8, step 3). -/

/-- The ROM goes on to the packet buffer self-test: roots derived, LC_NONCE drawn (R387, R393). -/
def Dev.bootStep4 (d : Dev) : Dev :=
  if d.lcOf = some 4 then d.bootHalt 0x14
  else
    let r := d.deriveRoots.free 128
    let d := r.2
    ({ d with
      keys := { d.keys with nonce := natLe 16 r.1 }
      boot := { d.boot with phase := .packetTest } }).bootCode 0x01

/-- The ROM acts on the life cycle as Table 03.14 gives. A transition without a state row to write halts. -/
def Dev.bootStep3 (d : Dev) : Dev :=
  let d := d.lcStatusLoad
  match d.openJournal with
  | none => if d.lcOf.isNone then d.bootHalt 0x13 else d.bootStep4
  | some j =>
    if d.lcOf.isNone || (d.resumeStep j ≠ 6 && d.freeRow.isNone) then d.bootHalt 0x13
    else
      let d := { (d.lcResume j true).bootCode 0x03 with boot := { d.boot with phase := .lcResume } }
      if d.nvOk then d.settle
      else { (d.bootCode 0x12).settle with boot := { d.boot with phase := .lowSupply 0 } }

/-- Once D1 and D2 are up and every rail is good, the ROM leaves step 2 (Table 03.8). -/
def Dev.bootProgress (d : Dev) : Dev :=
  match d.boot.phase with
  | .supplies => if d.domSt 1 = .on && d.domSt 2 = .on && d.allRailsGood then d.bootStep3 else d
  | _ => d

/-- While NV_OK is 0 the ROM checks again every 10 ms, and halts after 1 s (R55). -/
def bootLowSupplyRecheck (d : Dev) : Dev :=
  match d.boot.phase with
  | .lowSupply n =>
    if d.nvOk then { d.bootCode 0x03 with boot := { d.boot with phase := .lcResume } }
    else if 100 ≤ n + 1 then d.bootHalt 0x12
    else { d with boot := { d.boot with phase := .lowSupply (n + 1) } }
  | _ => d

def execBootLowSupplyRecheck (s : State) : Host.Outcome State Fault Refusal := s.run bootLowSupplyRecheck

/-- The running transition makes no step: the ROM waits for NV_OK, or the boot has halted, which only a reset ends
(R51, R55). -/
def Dev.lcPaused (d : Dev) : Bool :=
  match d.boot.phase with
  | .lowSupply _ => true
  | .halted => true
  | _ => false

/-- A step of the transition is complete: the next step starts; after CLOSED a system reset follows, or the
boot goes on (R391, R55). -/
def lcTransitionStep (d : Dev) : Dev :=
  match d.lc with
  | some r =>
    if !r.bits.isEmpty || d.lcPaused then d
    else if r.step < 6 then (d.lcEnter r (r.step + 1)).lcStatusLoad
    else if r.boot then
      let d := (({ d with lc := none } : Dev).lcStatusLoad).wr Fld.sysBootStatus_lcResumed 1
      d.settle.bootStep4
    else (d.lcEnd Code.ok).systemReset 2
  | none => d

/-- One bit of a transition has been programmed. With NV_OK at 0 the transition ends with LOW_SUPPLY and its
journal stays open; in a resume the ROM waits, and programs nothing more until NV_OK is 1 again (R391, R55). -/
def Dev.lcBit (d : Dev) : Dev :=
  match d.lc with
  | some r =>
    match (if d.lcPaused then [] else r.bits) with
    | (w, b) :: rest =>
      let d := d.blow w b
      let d := { d with lc := some { r with bits := rest } }
      let d := d.lcStatusLoad
      if d.nvOk then d
      else if r.boot then { d.bootCode 0x12 with boot := { d.boot with phase := .lowSupply 0 } }
      else (d.lcEnd Code.lowSupply).settle
    | [] => d
  | none => d

/-- One bit of PROG_KR has been programmed (R179, R380). -/
def Dev.keyRowBit (d : Dev) : Dev :=
  match d.keys.op with
  | some o =>
    match o.bits with
    | (w, b) :: rest =>
      let d := d.blow w b
      let o := if d.nvOk then { o with bits := rest } else { o with bits := [], result := Code.lowSupply }
      { d with keys := { d.keys with op := some o } }
    | [] => d
  | none => d

/-- An OTP bit finishes programming (R179, R391). -/
def otpBitProgrammed (u : OtpUser) (d : Dev) : Dev :=
  match u with
  | .region good => d.regionBit good
  | .keyRows => d.keyRowBit
  | .lifeCycle => d.lcBit

end Sys2Proof.Machine
end

