-- ==== Sys2Proof/Machine/HciCore.lean ====
section
/-! DEFINITION. Queue rings of the host interface: entries the device writes to completion and receive rings,
notices, and the messages they send (R291, R296–R303). -/

namespace Sys2Proof.Machine

open Sys2Proof

/-- Device address of packet-buffer offset 0 (R292). -/
def pktBase : Nat := 0x11000000

/-- The host area of the packet buffer, as BAR2 offsets (Table 13.1). -/
def inHostArea (a n : Nat) : Bool := decide (0x100000 ≤ a) && decide (a + n ≤ 0x200000)

/-- Protocol 1 is offered (R1, R316). -/
def Dev.v1Offered (d : Dev) : Bool := d.is Fld.sysStrap_legacyV1 || d.is Fld.sysCompat_v1Layout

/-- The version returns to its default, and V1_OFFERED follows strap and SYS_COMPAT (R294, R314). -/
def Dev.versionDefault (d : Dev) : Dev :=
  (d.wr Fld.hciStatus_v1Offered (b2n d.v1Offered)).wr Fld.hciStatus_version (if d.v1Offered then 1 else 2)

/-- Command protocol version in effect (R294). -/
def Dev.version (d : Dev) : Nat := d.rd Fld.hciStatus_version

def Dev.qEn (d : Dev) (q : Nat) : Bool := d.is Fld.hciQCfg_en q
def Dev.qRole (d : Dev) (q : Nat) : Nat := d.rd Fld.hciQCfg_role q
def Dev.qStopped (d : Dev) (q : Nat) : Bool := d.is Fld.hciQCfg_stopped q
def Dev.qHost (d : Dev) (q : Nat) : Bool := d.is Fld.hciQCfg_loc q
/-- Entries of the ring of queue `q`. -/
def Dev.qLen (d : Dev) (q : Nat) : Nat := 2 ^ d.rd Fld.hciQCfg_size q
def Dev.qHead (d : Dev) (q : Nat) : Nat := d.rd Fld.hciQHead_head q
def Dev.qTail (d : Dev) (q : Nat) : Nat := d.rd Fld.hciQTail_tail q
def Dev.qBase (d : Dev) (q : Nat) : Nat := d.rd Fld.hciQBaseLo_base q + d.rd Fld.hciQBaseHi_base q * 2 ^ 32
def Dev.qBuf (d : Dev) (q : Nat) : Nat := d.rd Fld.hciQBufLo_buf q + d.rd Fld.hciQBufHi_buf q * 2 ^ 32

/-- The ring holds 2^SIZE − 1 entries, or the queue is STOPPED (R297, R298). -/
def Dev.qFull (d : Dev) (q : Nat) : Bool := d.qStopped q || (d.qTail q + 1) % d.qLen q = d.qHead q

/-- PHASE of the next entry that the device writes to ring `q`: 1 on the first pass (R297). -/
def Dev.qPhase (d : Dev) (q : Nat) : Nat := if d.hci.oddPass.contains q then 0 else 1

/-- The rings and buffers of queue `q` can be reached: D23 carries the packet buffer, or D26 and its link requests to host
memory, which are clamped otherwise (R68, R298). -/
def Dev.qReach (d : Dev) (q : Nat) : Bool :=
  if d.qHost q then d.domUp 26 && d.pins.pcieLinkUp else d.domUp 23

/-- A request of queue `q` to host memory is due while Bus Master Enable is 0 (R290). -/
def Dev.qBarred (d : Dev) (q : Nat) : Bool := d.qHost q && d.qReach q && !d.msix.busMaster

/-- HCI_QERR records a failure of queue `q`: 0 BAD_INDEX, 1 OVERRUN, 2 DISABLED, 3 DMA_FAULT, 4 BAD_PARAM (R298). -/
def Dev.qerr (d : Dev) (cause q : Nat) : Dev :=
  ((d.wr Fld.hciQerr_queue q).wr Fld.hciQerr_cause cause).wr Fld.hciQerr_valid 1

/-- A failure of host memory stops queue `q`: DMA_FAULT is recorded and counted; for Q1, FATAL (R290). -/
def Dev.dmaStop (d : Dev) (q : Nat) : Dev :=
  let d := ((d.wr Fld.hciQCfg_stopped 1 q).qerr 3 q).bump Fld.hciStat1_dmaErr
  if q = 1 then (d.wr Fld.hciStatus_fatal 1).raise 0x6B else d

/-- Writes octets to the rings and buffers of queue `q`: the packet buffer, or host memory by DMA (R290). -/
def Dev.qStore (d : Dev) (q a : Nat) (bs : List Byte) : Dev :=
  if d.qHost q then d.emit (.dma a bs) else d.setBytes (pktBase + a) bs

/-- An entry was written: the tail moves on, and an armed queue sends its message and disarms (R291, R297). -/
def Dev.qAdvance (d : Dev) (q : Nat) : Dev :=
  let t := (d.qTail q + 1) % d.qLen q
  let d := d.wr Fld.hciQTail_tail t q
  let d := if t = 0 then { d with hci := { d.hci with
      oddPass := if d.hci.oddPass.contains q then d.hci.oddPass.filter (· != q) else q :: d.hci.oddPass } } else d
  if d.is Fld.hciQCfg_armed q && d.is Fld.hciQCfg_irqEn q then
    (d.wr Fld.hciQCfg_armed 0 q).sendMsix (d.rd Fld.hciQCfg_vector q)
  else d

/-- Bytes of a completion entry: 32, or 16 in protocol 1 (R302, Table 13.11). -/
def Dev.cqEntry (d : Dev) (cid sq head status : Nat) (res : List Nat) (wakeUs : Option Nat) (phase : Nat) : List Byte :=
  let r i := res.getD i 0
  let us := wakeUs.getD 0
  let flags := phase + 2 * b2n wakeUs.isSome
  if d.version = 1 then
    natLe 4 (cid % 256 + (sq % 128) * 2 ^ 8 + status * 2 ^ 16) ++ natLe 4 (r 0) ++ natLe 4 (r 1)
      ++ natLe 4 (flags + us * 2 ^ 16)
  else
    natLe 4 (cid + status * 2 ^ 16) ++ natLe 4 (sq + head * 2 ^ 16) ++ natLe 4 (r 0) ++ natLe 4 (r 1)
      ++ natLe 4 (r 2) ++ natLe 4 (r 3) ++ natLe 4 (us * 2 ^ 16) ++ natLe 4 flags

/-- Writes one completion entry to ring `q`. -/
def Dev.cqPost (d : Dev) (q cid sq head status : Nat) (res : List Nat) (wakeUs : Option Nat) : Dev :=
  let e := d.cqEntry cid sq head status res wakeUs (d.qPhase q)
  (d.qStore q (d.qBase q + e.length * d.qTail q) e).qAdvance q

/-- A notice to Q1: status and subject (R299, R301, R302). -/
def Dev.notice (d : Dev) (status subject : Nat) : Dev :=
  if !d.qEn 1 then d
  else if d.qFull 1 || !d.qReach 1 then d.bump Fld.hciStat2_noticeLost
  else if d.qBarred 1 then (d.dmaStop 1).bump Fld.hciStat2_noticeLost
  else d.cqPost 1 (if d.version = 1 then 0xFF else 0xFFFF) 0x7F 0 status [subject] none

/-- A failure of host memory at queue `q`, with the notice to Q1 (R290). -/
def Dev.dmaFail (d : Dev) (q : Nat) : Dev := if q = 1 then d.dmaStop 1 else (d.dmaStop q).notice Code.internal q

/-- Completion queue of submission queue `sq`: its partner, and for Q0 Q1 (R301). -/
def Dev.partner (d : Dev) (sq : Nat) : Nat := if sq = 0 then 1 else d.rd Fld.hciQCfg_partner sq

/-- Stride of the buffers of receive queue `q` (Table 13.4). -/
def Dev.qStride (d : Dev) (q : Nat) : Nat := if d.is Fld.hciQCfg_stride q then 192 else 2112

/-- The receive queue that serves `q`: itself, else Q64 (R299). -/
def Dev.rxQueue (d : Dev) (q : Nat) : Option Nat :=
  if d.qEn q && d.qRole q = 3 then some q
  else if d.qEn 64 && d.qRole 64 = 3 then some 64
  else none

/-- Bytes of a receive entry (R303). -/
def rxEntry (len reason status node : Nat) (nodeValid : Bool) (rxseq phase : Nat) : List Byte :=
  natLe 4 (len + reason * 2 ^ 12 + status * 2 ^ 16) ++ natLe 4 (node % 2 ^ 25 + b2n nodeValid * 2 ^ 25)
    ++ natLe 4 rxseq ++ natLe 4 (phase * 2 ^ 31)

/-- Delivers record and PSDU `bs` (empty for a notice) to receive queue `q` (R299, R303). -/
def Dev.receivePost (d : Dev) (q : Nat) (bs : List Byte) (reason status node : Nat) (nodeValid : Bool)
    (rxseq : Nat) : Dev :=
  match d.rxQueue q with
  | none => d.bump Fld.hciStat2_noRxq
  | some r =>
    if d.qFull r || d.qStride r < bs.length || !d.qReach r then d.bump Fld.hciStat0_rxDrop
    else if d.qBarred r then (d.dmaFail r).bump Fld.hciStat0_rxDrop
    else
      let i := d.qTail r
      let e := rxEntry bs.length reason status node nodeValid rxseq (d.qPhase r)
      let d := if bs.isEmpty then d else d.qStore r (d.qBuf r + i * d.qStride r) bs
      (d.qStore r (d.qBase r + 16 * i) e).qAdvance r

/-- The receive queue of the node in slot `s`: Q64 + RXQ (Table 11.3). -/
def Dev.rxqOf (d : Dev) (s : Nat) : Nat := 64 + d.cx s Cx.rxq

/-- A status notice about the node in slot `s` in its receive queue (Table 11.10, reason 10). -/
def Dev.nodeNotice (d : Dev) (s status : Nat) : Dev :=
  d.receivePost (d.rxqOf s) [] 10 status (d.cx s Cx.nodeAddr) true 0

/-! Commands that the sequencer has fetched. -/

def Dev.cmd (d : Dev) (id : Nat) : Option HciCmd := d.hci.cmds.find? fun c => c.id = id

def Dev.setCmd (d : Dev) (c : HciCmd) : Dev :=
  { d with hci := { d.hci with cmds := d.hci.cmds.map fun x => if x.id = c.id then c else x } }

def Dev.dropCmd (d : Dev) (id : Nat) : Dev :=
  { d with hci := { d.hci with cmds := d.hci.cmds.filter fun x => x.id != id } }

/-- CID of a command. -/
def HciCmd.cid (c : HciCmd) : Nat := bitsOf (c.w.getD 0 0) 31 16
def HciCmd.opcode (c : HciCmd) : Nat := c.w.getD 0 0 % 256
def HciCmd.dataLen (c : HciCmd) : Nat := c.w.getD 1 0 % 65536
def HciCmd.fence (c : HciCmd) : Bool := (c.w.getD 1 0).testBit 16
def HciCmd.noWake (c : HciCmd) : Bool := (c.w.getD 1 0).testBit 17
def HciCmd.dataAddr (c : HciCmd) : Nat := c.w.getD 2 0 + c.w.getD 3 0 * 2 ^ 32
/-- Argument A`i`. -/
def HciCmd.a (c : HciCmd) (i : Nat) : Nat := c.w.getD (4 + i) 0

/-- Command `c` completes with a status and results: its entry is written, or it waits for room in its
completion ring (R299, R301, R302). Its temporary votes go (R304). -/
def Dev.finish (d : Dev) (c : HciCmd) (status : Nat) (res : List Nat) : Dev :=
  let q := d.partner c.sq
  let d :=
    if c.mute || !d.qEn q then d.dropCmd c.id
    else if d.qFull q || !d.qReach q then d.setCmd { c with stage := .done status res, votes := [] }
    else if d.qBarred q then (d.setCmd { c with stage := .done status res, votes := [] }).dmaFail q
    else (d.cqPost q c.cid c.sq c.head status res c.wakeUs).dropCmd c.id
  if c.votes.isEmpty then d else d.settle

/-- Completes the command with number `id`, if it is still outstanding. -/
def Dev.finishId (d : Dev) (id status : Nat) (res : List Nat) : Dev :=
  match d.cmd id with
  | some c => d.finish c status res
  | none => d

/-- A command starts and a later event completes it. -/
def Dev.runCmd (d : Dev) (c : HciCmd) : Dev := d.setCmd { c with stage := .running }

end Sys2Proof.Machine
end

