-- ==== Sys2Proof/Machine/Unwrap.lean ====
section
/-! DEFINITION. Node keys: unwrapping a node's blob into the node pool, eviction and release (R384). -/

namespace Sys2Proof.Machine

open Sys2Proof

/-- Requests anywhere in the cipher array. -/
def Cipher.all (c : Cipher) : List CipherReq :=
  c.queue ++ c.waiting ++ c.held ++ c.engines.flatMap fun e =>
    (match e.run with | some r => [r.req] | none => []) ++ (match e.susp with | some r => [r.req] | none => [])

/-- A queued or running request names slot `n`, by its number or by the node whose key it is (R384). -/
def Dev.slotNamed (d : Dev) (n : Nat) : Bool :=
  d.cph.all.any fun r =>
    if r.byNode then
      match d.findSlot r.node with
      | some s => d.cxIs s Cx.kslotValid && d.cx s Cx.kslot = n
      | none => false
    else r.kslot = n

/-- The least recently used slot of a list. -/
def Dev.leastUsed (d : Dev) : List Nat → Option Nat
  | [] => none
  | n :: ns =>
    let used k := match alGet k d.keys.slots with | some x => x.used | none => 0
    match d.leastUsed ns with
    | some m => if used m < used n then some m else some n
    | none => some n

/-- The pool slot that an unwrap takes, and whether its owner is evicted (R384, step 4). -/
def Dev.poolChoice (d : Dev) : Option (Nat × Bool) :=
  match d.poolSlots.find? fun n => !d.attrValid n && !d.keys.doomed.contains n with
  | some n => some (n, false)
  | none =>
    (d.leastUsed (d.poolSlots.filter fun n => !d.slotNamed n && !d.keys.doomed.contains n)).map fun n => (n, true)

/-- The owner of pool slot `n` loses its key (R384). -/
def Dev.evict (d : Dev) (n : Nat) : Dev :=
  let o := d.rd Fld.keySlotAttr_ownerSlot n
  let d := if d.cxIs o Cx.kslotValid && d.cx o Cx.kslot = n then (d.setCx o Cx.kslotValid 0).cxTouch o else d
  (d.zeroSlot n).bump Fld.keyStat0_evictions

/-- The key of the node in slot `s` is needed: an unwrap starts unless one runs (R384). -/
def Dev.requestUnwrap (d : Dev) (s : Nat) : Dev :=
  if d.keys.unwraps.any fun u => u.node = s && !u.stale then d
  else { d with keys := { d.keys with unwraps := d.keys.unwraps ++ [{ node := s }] } }

/-- The key that the blob of the node in slot `s` holds: header word, key, or the status that refuses it
(R384 steps 1–3, R387). -/
def Dev.openBlob (d : Dev) (s : Nat) : Except Nat (Nat × List Byte) :=
  if d.lcOf = some 0 then .error Code.lifecycle
  else
    let blob := d.bytes (blobAddr (d.cx s Cx.blob)) 48
    if !d.cxIs s Cx.blobValid || blob.all (· = 0#8) then .error Code.blobInvalid
    else
      match d.blobKey false with
      | .error _ => .error Code.blobInvalid
      | .ok k =>
        match (kwUnwrap k blob).bind blobParts with
        | none => .error Code.blobInvalid
        | some (w0, node, key) =>
          if bitsOf w0 21 18 = 0 ∧ node = d.cx s Cx.nodeAddr then .ok (w0, key) else .error Code.blobInvalid

/-- A missing or invalid blob (R384, R387): counted, KEY_EVT raised, and a notice at most once per node per
second. -/
def Dev.blobFail (d : Dev) (s status : Nat) : Dev :=
  let d := (d.bump Fld.keyStat1_blobFail).raise 0x68
  let due := match alGet s d.keys.notices with
    | some t => decide (usTicks 1000000 ≤ d.tmb - t)
    | none => true
  if due then
    ({ d with keys := { d.keys with notices := alSet s d.tmb d.keys.notices } }).nodeNotice s status
  else d

/-- How a node unwrap ends. -/
inductive UnwrapEnd where
  /-- Nothing ran, or the result was discarded. -/
  | nothing
  /-- Every pool slot is named by a request. -/
  | pinned
  | good
  | failed (status : Nat)
  deriving DecidableEq, Repr

/-- The unwrap for the node in slot `s` ends (R384, R241). -/
def Dev.nodeUnwrap (d : Dev) (s : Nat) : Dev × UnwrapEnd :=
  match d.keys.unwraps.find? fun u => u.node = s with
  | none => (d, .nothing)
  | some u =>
    let drop (d : Dev) : Dev := { d with keys := { d.keys with
      unwraps := d.keys.unwraps.filter (fun x => x.node != s), pinned := d.keys.pinned.filter (· != s) } }
    if u.stale || !d.slotValid s then (drop d, .nothing)
    else
      match d.openBlob s with
      | .error c => ((drop d).blobFail s c, .failed c)
      | .ok (w0, key) =>
        match d.poolChoice with
        | none =>
          if d.keys.pinned.contains s then (d, .pinned)
          else (({ d with keys := { d.keys with pinned := s :: d.keys.pinned } }).bump Fld.keyStat1_poolWait, .pinned)
        | some (n, evicting) =>
          let d := if evicting then d.evict n else d
          let d := (drop d).putKey n (key.take (if w0.testBit 8 then 32 else 16)) (w0.testBit 8)
            (bitsOf w0 21 16) 1 w0 s
          let d := ((d.setCx s Cx.kslot n).setCx s Cx.kslotValid 1).cxTouch s
          (d.bump Fld.keyStat0_unwraps, .good)

/-- The node in slot `s` loses its key: a group 1 update, removal or migration (R384). A slot that a request
still names is zeroized when none does. -/
def Dev.releaseKey (d : Dev) (s : Nat) : Dev :=
  let d := { d with keys := { d.keys with
    unwraps := d.keys.unwraps.map fun (u : NodeUnwrap) => if u.node = s then { u with stale := true } else u } }
  if d.cxIs s Cx.kslotValid then
    let n := d.cx s Cx.kslot
    let named := d.slotNamed n
    let d := d.setCx s Cx.kslotValid 0
    if named then { d with keys := { d.keys with doomed := n :: d.keys.doomed } } else d.zeroSlot n
  else d

/-- Zeroizes the released slots that no request names any more (R384). -/
def Dev.sweepDoomed (d : Dev) : Dev :=
  d.keys.doomed.foldl (fun d n =>
    if d.slotNamed n then d
    else ({ d with keys := { d.keys with doomed := d.keys.doomed.filter (· != n) } }).zeroSlot n) d

end Sys2Proof.Machine
end

