-- ==== Sys2Proof/Machine/Cipher.lean ====
section
/-! DEFINITION. The cipher engine array (R396–R410): descriptor checks, admission, dispatch, pre-emption and
completion. -/

namespace Sys2Proof.Machine

open Sys2Proof

/-- Secure-only addresses of the memory map: the boot ROM and the windows of C0–C3 (R24). -/
def secureOnlyMem (a : Nat) : Bool :=
  decide (a < 0x40000) || (decide (0x04000000 ≤ a) && decide (a < 0x04400000))

/-! Requests. -/

/-- Address of the message within the input. -/
def CipherReq.msgAddr (r : CipherReq) : Nat :=
  r.src + (match r.mode with | 1 | 2 => 16 | 4 => r.nonceLen + r.aLen | _ => 0)

/-- The request that a descriptor of core `n` holds (Table 18.1). -/
def descReq (n desc : Nat) (bs : List Byte) : CipherReq :=
  let w i := leAt bs (4 * i) 4
  { id := 0, origin := .core n, mode := w 0 % 16, dec := (w 0).testBit 4, cls := bitsOf (w 0) 6 5
    notify := (w 0).testBit 7, byNode := (w 0).testBit 8, kslot := bitsOf (w 0) 24 16
    aLen := w 1 % 65536, mLen := w 1 / 65536, tagLen := w 2 % 32, nonceLen := bitsOf (w 2) 11 8
    src := w 3, dst := w 4, node := w 5 % 2 ^ 25, desc := desc }

/-- Reserved bits of a descriptor are 0. -/
def descReservedOk (bs : List Byte) : Bool :=
  let w i := leAt bs (4 * i) 4
  bitsOf (w 0) 15 9 = 0 && bitsOf (w 0) 31 25 = 0 && bitsOf (w 2) 7 5 = 0 && bitsOf (w 2) 31 12 = 0
    && bitsOf (w 5) 31 25 = 0

/-- TAG_LEN and NONCE_LEN are allowed for MODE (check 1 of R400). -/
def CipherReq.formOk (r : CipherReq) : Bool :=
  decide (r.mode ≤ 4) && decide (r.cls ≤ 2) &&
    match r.mode with
    | 3 => decide (1 ≤ r.tagLen) && decide (r.tagLen ≤ 16) && r.nonceLen = 0
    | 4 => decide (7 ≤ r.nonceLen) && decide (r.nonceLen ≤ 13) && [0, 4, 6, 8, 10, 12, 14, 16].contains r.tagLen
    | _ => r.tagLen = 0 && r.nonceLen = 0

/-- The length rules of Table 18.2, apart from the 2,048 limit (check 3). -/
def CipherReq.lengthOk (r : CipherReq) : Bool :=
  match r.mode with
  | 0 | 1 => r.mLen % 16 = 0 && decide (16 ≤ r.mLen) && r.aLen = 0
  | 2 => decide (1 ≤ r.mLen) && r.aLen = 0
  | 3 => r.aLen = 0
  | _ => decide (r.aLen ≤ 65279) && decide (r.mLen < 2 ^ (8 * (15 - r.nonceLen))) && decide (1 ≤ r.aLen + r.mLen)

/-- CLASS allowed for the requester (R397). -/
def CipherReq.classOk (r : CipherReq) : Bool :=
  match r.origin with
  | .tempo _ => decide (r.cls ≤ 1)
  | .core _ => r.cls = 1 || r.cls = 2
  | _ => r.cls = 1

/-- Bit of the destination that the slot's ENGINES must hold (R397). -/
def CipherReq.engineBit (r : CipherReq) : Nat :=
  match r.origin with
  | .tempo _ => 0
  | .forwarding => 0
  | .core _ => 1
  | .federation => 2

/-- DST may equal the address of M; any other overlap with the input is refused (R399). -/
def CipherReq.overlapOk (r : CipherReq) : Bool :=
  r.outLen = 0 || r.dst = r.msgAddr || decide (r.dst + r.outLen ≤ r.src) || decide (r.src + r.inLen ≤ r.dst)

/-- The range checks of a core request (check 5 of R400); the boot ROM takes no output. -/
def CipherReq.rangeCheck (r : CipherReq) (ns : Bool) : Option Nat :=
  let out := r.outLen
  if (areaOf r.src r.inLen).isNone ∨ (out ≠ 0 ∧ ((areaOf r.dst out).isNone ∨ r.dst < 0x40000)) then some Code.internal
  else if ns ∧ (secureOnlyMem r.src ∨ (out ≠ 0 ∧ secureOnlyMem r.dst)) then some Code.notPermitted
  else if out ≠ 0 ∧ 0x10000000 ≤ r.dst ∧ r.dst < 0x10C00000
      ∧ ¬ (0x10800000 ≤ r.dst ∧ r.dst + out ≤ 0x10980000) then some Code.notPermitted
  else if ¬ r.overlapOk then some Code.reservedField
  else none

/-- The checks 1 to 6 of R400 in their order; none where the request is admitted. -/
def Dev.descCheck (d : Dev) (ns : Bool) (reservedOk : Bool) (r : CipherReq) : Option Nat :=
  if !reservedOk || !r.formOk then some Code.reservedField
  else if !r.classOk then some Code.notPermitted
  else if !r.lengthOk then some Code.badLength
  else if r.mode = 4 ∧ r.dec ∧ 0 < r.tagLen ∧ 2048 < r.mLen then some Code.lengthExceedsHold
  else
    match r.rangeCheck ns with
    | some c => some c
    | none =>
      let b := d.rd Fld.cphNsWindow_base
      if ns ∧ (r.byNode ∨ ¬ (b ≤ r.kslot ∧ r.kslot < b + d.rd Fld.cphNsWindow_count)) then some Code.notPermitted
      else none

/-! Completion of a request. -/

/-- The result words W6 and W7 of the descriptor at `a`. They reach no memory that does not answer (R24), and not the node table
(R231). -/
def Dev.descResult (d : Dev) (a w6 w7 : Nat) : Dev :=
  if d.memUp a 32 && !isNodeTable a then (d.setLe (a + 24) 4 w6).setLe (a + 28) 4 w7 else d

/-- The status, DONE and, with NOTIFY, CPH_DONE and CPH_EVT of a core request; the result of an internal one
goes to its requester (R402). Output octets were written before. The federation agent has used the CMAC of its message
already. -/
def Dev.cphComplete (d : Dev) (r : CipherReq) (status : Nat) (out : List Byte) : Dev :=
  let d := if status = Code.authFail then d.bump Fld.cphStat0_authFails else d
  match r.origin with
  | .core n =>
    let d := if out.isEmpty then d else d.setBytes r.dst out
    let d := d.descResult r.desc status (out.length + 2 ^ 31)
    if r.notify then (d.wr Fld.cphDone_done (setBitN (d.rd Fld.cphDone_done) n)).raise 0x69 else d
  | .federation => d
  | _ => { d with cph := { d.cph with results := d.cph.results ++ [(r.id, status, out)] } }

/-- A refusal by the key check of an engine (R401). -/
def Dev.keyRefused (d : Dev) (r : CipherReq) (status : Nat) : Dev :=
  (d.bump Fld.cphStat1_keyRefused).cphComplete r status []

/-! Queue. -/

def CipherReq.urgent (r : CipherReq) : Bool := r.cls = 0

def Dev.urgentQueued (d : Dev) : Nat := (d.cph.queue.filter CipherReq.urgent).length
def Dev.sharedQueued (d : Dev) : Nat := (d.cph.queue.filter fun r => !r.urgent).length

/-- Free engines: in service and running nothing. -/
def Dev.freeEngines (d : Dev) : List Nat :=
  (List.range 24).filter fun n =>
    match d.cph.engines[n]? with
    | some e => !e.retired && e.run.isNone && e.susp.isNone
    | none => false

def Dev.engine (d : Dev) (n : Nat) : Engine := d.cph.engines.getD n {}

def Dev.setEngine (d : Dev) (n : Nat) (e : Engine) : Dev :=
  { d with cph := { d.cph with engines := putAt n e d.cph.engines } }

/-- Engines that an URGENT request may pre-empt, of one class (R405). -/
def Dev.preemptable (d : Dev) (cls : Nat) : Option Nat :=
  (List.range 24).find? fun n =>
    let e := d.engine n
    !e.retired && !e.marked && e.susp.isNone &&
      match e.run with
      | some r => r.req.cls = cls
      | none => false

/-- An URGENT request that finds no free engine picks one to suspend: BULK before NORMAL, the lower index first
(R405). Where none can be pre-empted it waits and URGENT_WAIT counts. -/
def Dev.cipherPreempt (d : Dev) : Dev :=
  match (match d.preemptable 2 with | some n => some n | none => d.preemptable 1) with
  | some n => (d.setEngine n { d.engine n with marked := true }).bump Fld.cphStat0_preempts
  | none => d.bump Fld.cphStat2_urgentWait

/-- Engines marked for suspension. -/
def Dev.markedEngines (d : Dev) : Nat := (d.cph.engines.filter fun e => e.marked).length

/-- Admits a request to the queue (R403, R404). -/
def Dev.cphAdmit (d : Dev) (r : CipherReq) : Dev :=
  let d := { d with cph := { d.cph with queue := d.cph.queue ++ [{ r with admitted := d.tmb }] } }
  if r.urgent && decide (d.freeEngines.length + d.markedEngines < d.urgentQueued) then d.cipherPreempt else d

/-- The queue has an entry for a request of its class: 32 for URGENT, 224 for the others (R403). -/
def Dev.cphRoom (d : Dev) (r : CipherReq) : Bool :=
  if r.urgent then decide (d.urgentQueued < 32) else decide (d.sharedQueued < 224)

/-- An internal requester submits a request and learns its number (R398, R403, R409). Without room, or while
D24 is not ON, the request waits at its requester. -/
def Dev.cphRequest (d : Dev) (r : CipherReq) : Dev × Nat :=
  let id := d.cph.nextId
  let r := { r with id := id, admitted := d.tmb }
  let d := { d with cph := { d.cph with nextId := id + 1 } }
  if d.domSt 24 = .on then
    if d.cphRoom r then (d.cphAdmit r, id)
    else
      let d := if r.urgent then d.bump Fld.cphStat2_urgentWait else d
      ({ d with cph := { d.cph with waiting := d.cph.waiting ++ [r] } }, id)
  else ({ d with cph := { d.cph with waiting := d.cph.waiting ++ [r] } }, id)

/-- Requests that wait at their requesters enter in order while there is room, then the held core writes. -/
def Dev.cphRefill (d : Dev) : Nat → Dev
  | 0 => d
  | k + 1 =>
    if d.domSt 24 ≠ .on then d
    else
      match d.cph.waiting.find? d.cphRoom with
      | some r =>
        (({ d with cph := { d.cph with waiting := d.cph.waiting.filter fun x => x.id != r.id } }).cphAdmit r).cphRefill k
      | none =>
        match d.cph.held with
        | r :: rest =>
          if d.cphRoom r then (({ d with cph := { d.cph with held := rest } }).cphAdmit r).cphRefill k else d
        | [] => d

/-- Everything that waits for room is admitted as far as there is room. -/
def Dev.cphRefillAll (d : Dev) : Dev := d.cphRefill (d.cph.waiting.length + d.cph.held.length)

/-- CPH_SUBMIT (R400, R415): the address check, then the descriptor checks, then admission. A descriptor in a memory that does
not answer is not read, and its DOMAIN_OFF has no place (R24). -/
def cphSubmit (who : Initiator) (a : Nat) (d : Dev) : Dev :=
  match who with
  | .core n =>
    if !d.domUp 24 then d
    else
      let ns := d.normalCore who
      let own := decide (0x04000000 + n * 0x100000 + 0x20000 ≤ a) && decide (a + 32 ≤ 0x04000000 + n * 0x100000 + 0x60000)
      let shared := (decide (0x10000000 ≤ a) && decide (a + 32 ≤ 0x10C00000))
        || (decide (0x11000000 ≤ a) && decide (a + 32 ≤ 0x11200000))
      if a % 32 ≠ 0 ∨ ¬ (own ∨ shared) ∨ (ns ∧ secureOnlyMem a) then d.refuseWrite who Reg.cphSubmitR
      else if !d.memUp a 32 then d
      else
        let bs := d.bytes a 32
        let d := d.descResult a Code.pending 0
        let r := { descReq n a bs with id := d.cph.nextId, admitted := d.tmb }
        match d.descCheck ns (descReservedOk bs) r with
        | some c =>
          let d := if c = Code.lengthExceedsHold then d.bump Fld.cphStat1_holdRefused else d
          d.cphComplete r c []
        | none =>
          let d := { d with cph := { d.cph with nextId := d.cph.nextId + 1 } }
          if d.cphRoom r then (d.cphAdmit r).settle
          else ({ d with cph := { d.cph with held := d.cph.held ++ [r] } }).settle
  | _ => d.refuseWrite who Reg.cphSubmitR

def execCphSubmit (who : Initiator) (a : Nat) (s : State) : Host.Outcome State Fault Refusal := s.run (cphSubmit who a)

/-! Dispatch. -/

/-- Every domain of a request is ON. -/
def Dev.cphReady (d : Dev) (r : CipherReq) : Bool := r.domains.all d.domUp

/-- The class in which a request is dispatched now: 0, 1 or 2 (R404). -/
def CipherReq.rank (r : CipherReq) : Nat := if r.cls = 2 ∧ r.aged then 1 else r.cls

/-- What the dispatch of a request meets: its key, a wait for its node's key, or a refusal (R401, R384). -/
inductive KeyCheck where
  | ready (slot : Nat)
  | wait (node : Nat)
  | refused (status : Nat)
  deriving DecidableEq, Repr

/-- The key check of a request at its dispatch. -/
def Dev.keyCheck (d : Dev) (r : CipherReq) : KeyCheck :=
  let check (n : Nat) : KeyCheck :=
    if r.keyGone || !d.attrValid n then .refused Code.keySlotEmpty
    else if !(d.attrEngines n).testBit r.engineBit then .refused Code.engineNotAllowed
    else .ready n
  if r.byNode then
    match d.findSlot r.node with
    | none => .refused Code.blobInvalid
    | some s => if d.cxIs s Cx.kslotValid then check (d.cx s Cx.kslot) else .wait s
  else check r.kslot

/-- A request may be dispatched now: its domains are ON and its node's key, if it needs one, is unwrapped. -/
def Dev.dispatchable (d : Dev) (r : CipherReq) : Bool :=
  d.cphReady r && match d.keyCheck r with | .wait _ => false | _ => true

/-- The next request of rank `k`: a restarted one first, then in order of admission (R404, R410). -/
def Dev.nextOfRank (d : Dev) (k : Nat) : Option CipherReq :=
  let l := d.cph.queue.filter fun r => r.rank = k && d.dispatchable r
  match l.find? fun r => r.restart with
  | some r => some r
  | none => l.head?

/-- The next request to dispatch (R404). -/
def Dev.nextRequest (d : Dev) : Option CipherReq :=
  match d.nextOfRank 0 with
  | some r => some r
  | none => match d.nextOfRank 1 with | some r => some r | none => d.nextOfRank 2

/-- Requests of the queue that wait for a node key start its unwrap (R384). -/
def Dev.startUnwraps (d : Dev) : Dev :=
  d.cph.queue.foldl (fun d r =>
    if d.cphReady r then match d.keyCheck r with | .wait s => d.requestUnwrap s | _ => d else d) d

/-- Takes a request out of the queue. -/
def Dev.unqueue (d : Dev) (id : Nat) : Dev :=
  { d with cph := { d.cph with queue := d.cph.queue.filter fun x => x.id != id } }

/-- Engine `n` takes request `r`: the key check, then the transfer of the shares (R401, R377). -/
def Dev.engineTake (d : Dev) (n : Nat) (r : CipherReq) : Dev :=
  let d := d.unqueue r.id
  match d.keyCheck r with
  | .ready k =>
    let e := d.engine n
    (d.setEngine n { e with run := some { req := r, key := d.keyBytes k }, marked := false }).touchKey k
  | .refused c => d.keyRefused r c
  | .wait _ => d

/-- A free engine takes the next request (R404). Requests that need a node key start its unwrap. -/
def cipherDispatch (d : Dev) : Dev :=
  let d := d.startUnwraps
  match d.freeEngines, d.nextRequest with
  | n :: _, some r => ((d.engineTake n r).cphRefillAll).sweepDoomed.settle
  | _, _ => d

def execCipherDispatch (s : State) : Host.Outcome State Fault Refusal := s.run cipherDispatch

/-! What an engine computes (R399). -/

/-- The parts of the input octets `bs`: nonce or IV, associated data, message, tag (Table 18.2). -/
def CipherReq.parts (r : CipherReq) (bs : List Byte) : List Byte × List Byte × List Byte × List Byte :=
  let h := match r.mode with | 1 | 2 => 16 | 4 => r.nonceLen | _ => 0
  let m := bs.drop (h + r.aLen)
  (bs.take h, slice bs h r.aLen, m.take r.mLen, m.drop r.mLen)

/-- The input of a request. -/
def Dev.cipherInput (d : Dev) (r : CipherReq) : List Byte × List Byte × List Byte × List Byte :=
  match r.direct with
  | some x => x
  | none => r.parts (d.bytes r.src r.inLen)

/-- Input octets in the boot ROM, whose content the spec does not give, are free. -/
def Dev.romInput (d : Dev) (r : CipherReq) : Dev × CipherReq :=
  if r.direct.isNone && decide (r.src < 0x40000) then
    let x := d.free (8 * r.inLen)
    (x.2, { r with direct := some (r.parts (natLe r.inLen x.1)) })
  else (d, r)

/-- Status and output of a request under a key. -/
def Dev.cipherResult (d : Dev) (r : CipherReq) (key : List Byte) : Nat × List Byte :=
  let (iv, a, m, tag) := d.cipherInput r
  match r.mode with
  | 0 => (Code.ok, ecb key r.dec m)
  | 1 => (Code.ok, cbc key r.dec iv m)
  | 2 => (Code.ok, ctr key iv m)
  | 3 =>
    let t := (cmac key m).take r.tagLen
    if r.dec then (if t = tag then Code.ok else Code.authFail, []) else (Code.ok, t)
  | _ =>
    if r.dec then
      let x := ccmOpen key iv a m tag
      if x.2 then (Code.ok, x.1) else (Code.authFail, [])
    else (Code.ok, ccmSeal key iv a m r.tagLen)

/-- The request writes its plaintext through a hold buffer (R407). -/
def CipherReq.holds (r : CipherReq) : Bool := r.mode = 4 && r.dec && decide (0 < r.tagLen)

/-- The request of engine `n` at its block boundary, `copied` octets of its hold buffer copied: a copy that has begun
has passed its tag, and DST holds that part of the plaintext (R405, R408). -/
def Dev.atBoundary (d : Dev) (x : Running) (copied : Nat) : Dev × Running :=
  if copied = 0 || !x.req.holds then (d, x)
  else
    let v := d.cipherResult x.req x.key
    if v.1 ≠ Code.ok then (d, x)
    else
      let k := min copied v.2.length
      (match x.req.origin with
        | .core _ => d.setBytes x.req.dst (v.2.take k)
        | _ => d, { x with hold := v.2, copied := k })

/-- A chosen engine reaches its block boundary: it suspends its request and takes the first URGENT one; with
none left it goes on (R405, R406). -/
def cipherSuspend (x : BlockBoundary) (d : Dev) : Dev :=
  let n := x.engine
  let e := d.engine n
  match e.run, d.nextOfRank 0 with
  | some run, some r =>
    if e.marked && e.susp.isNone then
      let b := d.atBoundary run x.copied
      let d := (b.1.setEngine n { e with susp := some b.2, run := none, marked := false }).engineTake n r
      let e := d.engine n
      if e.run.isNone then d.setEngine n { e with run := e.susp, susp := none } else d
    else d
  | some _, none => d.setEngine n { e with marked := false }
  | none, _ => d

def execCipherSuspend (x : BlockBoundary) (s : State) : Host.Outcome State Fault Refusal := s.run (cipherSuspend x)

/-- A request whose copy had begun ends where it stands: REPLAY_EXHAUSTED with the octets that reached DST (R408). -/
def Dev.copyLost (d : Dev) (x : Running) : Dev := d.cphComplete x.req Code.replayExhausted (x.hold.take x.copied)

/-- Requests of a retired engine start afresh on other engines, ahead of their class; one whose copy had begun ends
(R408, R410). -/
def Dev.engineRetire (d : Dev) (n : Nat) : Dev :=
  let e := d.engine n
  let all := e.run.toList ++ e.susp.toList
  let again := (all.filter fun x => x.copied = 0).map fun x => { x.req with restart := true }
  let d := d.setEngine n { retired := true }
  let d := { d with
    cph := { d.cph with queue := again ++ d.cph.queue }
    err := { d.err with sparing := d.err.sparing ++ [{ res := unitRes 4 n, spare := 0, done := true }] } }
  (all.filter fun x => x.copied != 0).foldl Dev.copyLost d

/-- Engine `n` is free of its running request: a waiting URGENT request, else its suspended context (R406). -/
def Dev.engineNext (d : Dev) (n : Nat) : Dev :=
  let e := d.engine n
  if e.retired || e.run.isSome then d
  else
    match d.nextOfRank 0 with
    | some r =>
      let d := d.engineTake n r
      let e := d.engine n
      if e.run.isNone then d.setEngine n { e with run := e.susp, susp := none } else d
    | none => d.setEngine n { e with run := e.susp, susp := none }

/-- Row of the cipher buffers that holds offset `off` of engine `n`'s two buffers (Tables 19.1 and 19.2). -/
def bufferRow (n off : Nat) : Nat := rowRes 61 (4 * n + off % 4096 / 1024)

/-- The running request of an engine has been computed: a copy that was suspended goes on from its hold buffer (R402,
R406, R407). -/
def Dev.runningEnds (d : Dev) (x : Running) : Dev :=
  if x.copied ≠ 0 then d.cphComplete x.req Code.ok x.hold
  else
    let i := d.romInput x.req
    let v := i.1.cipherResult i.2 x.key
    i.1.cphComplete x.req v.1 v.2

/-- Engine `n` leaves service with its faulty buffer row, which has no spare (Table 19.4). -/
def Dev.bufferLost (d : Dev) (n res : Nat) : Dev :=
  let d := { d with err := { d.err with waiting := d.err.waiting.filter (· != res) } }
  if (d.engine n).retired then d else d.engineRetire n

/-- The running request of engine `n` completes (R402, R407). A word of its input or of its hold buffer may
fail its parity check (R421, R408). -/
def cipherRequestDone (n : Nat) (fault : CipherFault) (d : Dev) : Dev :=
  let e := d.engine n
  match e.run with
  | none => d
  | some x =>
    let d := d.setEngine n { e with run := none, marked := false }
    let d := match fault with
      | .none => d.runningEnds x
      | .source a k =>
        let f := d.fetch (memRes a) a k
        if f.2 = FetchOutcome.exhausted then f.1.cphComplete x.req Code.replayExhausted [] else f.1.runningEnds x
      | .hold off k =>
        let f := d.fetch (bufferRow n off) 0 k
        match f.2 with
        | .good => f.1.runningEnds x
        | .permanent => (f.1.runningEnds x).bufferLost n (bufferRow n off)
        | .exhausted => (f.1.copyLost x).bufferLost n (bufferRow n off)
    ((d.engineNext n).cphRefillAll).sweepDoomed.settle

def execCipherRequestDone (n : Nat) (fault : CipherFault) (s : State) : Host.Outcome State Fault Refusal :=
  s.run (cipherRequestDone n fault)

/-- A BULK request has waited BULK_AGE µs: it is dispatched as NORMAL, counted once (R404). -/
def bulkAge (id : Nat) (d : Dev) : Dev :=
  if d.cph.queue.any fun r => r.id = id && r.cls = 2 && !r.aged then
    ({ d with cph := { d.cph with
      queue := d.cph.queue.map fun (r : CipherReq) => if r.id = id then { r with aged := true } else r } }).bump Fld.cphStat2_bulkAged
  else d

def execBulkAge (id : Nat) (s : State) : Host.Outcome State Fault Refusal := s.run (bulkAge id)

/-- A request whose domains are not ON within 10 ms completes with DOMAIN_OFF; so does one that waits at its
requester for D24 (R409). -/
def cipherDomainTimeout (id : Nat) (d : Dev) : Dev :=
  match d.cph.queue.find? fun r => r.id = id && !d.cphReady r with
  | some r => ((d.unqueue id).cphComplete r Code.domainOff []).cphRefillAll.settle
  | none =>
    match d.cph.waiting.find? fun r => r.id = id && d.domSt 24 ≠ .on with
    | some r =>
      (({ d with cph := { d.cph with waiting := d.cph.waiting.filter fun x => x.id != id } }).cphComplete r
        Code.domainOff []).settle
    | none => d

def execCipherDomainTimeout (id : Nat) (s : State) : Host.Outcome State Fault Refusal := s.run (cipherDomainTimeout id)

/-- Takes the result of an internal request, if it has one. -/
def Dev.cphResult (d : Dev) (id : Nat) : Option (Nat × List Byte) :=
  (d.cph.results.find? fun x => x.1 = id).map (·.2)

def Dev.dropResult (d : Dev) (id : Nat) : Dev :=
  { d with cph := { d.cph with results := d.cph.results.filter fun x => x.1 != id } }

/-- CPH_QSTAT (R417). -/
def Dev.cphQstat (d : Dev) : Nat :=
  d.cph.queue.length + d.urgentQueued * 2 ^ 10
    + (d.cph.engines.filter fun e => e.run.isSome).length * 2 ^ 16
    + (d.cph.engines.filter fun e => e.susp.isSome).length * 2 ^ 24

/-- State of an engine in CPH_ENG (R417). -/
def Engine.state (e : Engine) : Nat :=
  if e.retired then 3 else if e.susp.isSome then 2 else if e.run.isSome then 1 else 0

/-- CPH_ENG0 and CPH_ENG1. -/
def Dev.cphEng (d : Dev) (i : Nat) : Nat :=
  ((List.range 16).map fun k => if 16 * i + k < 24 then (d.engine (16 * i + k)).state * 4 ^ k else 0).sum

/-- NODE_UNWRAP_DONE for the node in slot `s`: the key is stored, or every queued request that needed it completes with
the status that refuses it (R384, R387, R401). -/
def nodeUnwrapDone (s : Nat) (d : Dev) : Dev :=
  if !d.domUp 25 || !d.domUp 22 then d
  else
    let r := d.nodeUnwrap s
    match r.2 with
    | .failed c =>
      let waits := r.1.cph.queue.filter fun q => match r.1.keyCheck q with | .wait n => n = s | _ => false
      (waits.foldl (fun d q => (d.unqueue q.id).keyRefused q c) r.1).cphRefillAll.settle
    | _ => r.1

/-- NODE_UNWRAP_DONE (R384). -/
def execNodeUnwrapDone (slot : Nat) (s : State) : Host.Outcome State Fault Refusal := s.run (nodeUnwrapDone slot)

end Sys2Proof.Machine
end

