-- ==== Sys2Proof/Machine/Cspm.lean ====
section
/-! DEFINITION. The master serial port CSPM: requests and their ends (R319–R325). -/

namespace Sys2Proof.Machine

open Sys2Proof

/-- A profile has a DDR phase of non-zero width (R319, R323). -/
def ddrPhase (f : Word) (len : Nat) : Bool :=
  (f.toNat.testBit 4 && wBits f 1 0 != 0) || (f.toNat.testBit 10 && wBits f 7 5 != 0)
    || (f.toNat.testBit 16 && wBits f 13 11 != 0) || (f.toNat.testBit 24 && len != 0)

/-- MEM to MEM + LEN − 1 lies in one core memory, node memory or the packet buffer, and a read into node memory
stays inside BLB (R323, R231). -/
def cspmRangeOk (mem len : Nat) (send : Bool) : Bool :=
  len = 0 ||
    match areaOf mem len with
    | some m =>
      m.dom != 1 && (m.dom != 22 || send || (decide (0x10800000 ≤ mem) && decide (mem + len ≤ 0x10980000)))
    | none => false

/-- The frame of a request with profile `f` and the word `w` of CSP_M_CMD (R319–R323): ADDRESS and ALT are the low
bytes of their registers, most significant first; CMD0 precedes CMD1; the lane encoding counts powers of 2. -/
def Dev.cspmFrame (d : Dev) (f w : Word) : CspmFrame :=
  let sel := wBits w 3 3
  let tim := d.reg (Reg.cspMSelTim + 4 * sel)
  { sel := sel, div := d.rd Fld.cspMClk_div, lead := wBits tim 7 0, lag := wBits tim 15 8, idle := wBits tim 23 16,
    cmd := ⟨2 ^ wBits f 3 2, f.toNat.testBit 4,
      [BitVec.ofNat 8 (wBits w 23 16), BitVec.ofNat 8 (wBits w 31 24)].take (wBits f 1 0)⟩,
    addr := ⟨2 ^ wBits f 9 8, f.toNat.testBit 10, natBe (wBits f 7 5) (d.reg Reg.cspMAddr).toNat⟩,
    alt := ⟨2 ^ wBits f 15 14, f.toNat.testBit 16, natBe (wBits f 13 11) (d.reg Reg.cspMAlt).toNat⟩,
    dummy := wBits f 21 17,
    data := { lanes := 2 ^ wBits f 23 22, ddr := f.toNat.testBit 24 } }

/-- START (R323): the writer, BUSY, then the request checks. `rdy`: level of CSPM_RDY when it is sampled. The check for
a core of another partition never bites: only secure-state cores get here, and those are C0–C3 (R335). -/
def start (who : Initiator) (w : Word) (rdy : Bool) (d : Dev) : Dev :=
  if !d.domUp 28 then d
  else if !d.secure who || d.is Fld.cspMStatus_busy then d.refuseWrite who Reg.cspMCmd
  else
    let d := d.plainWrite who Reg.cspMCmd w
    let f := d.reg (Reg.cspMFmt + 4 * wBits w 2 0)
    let len := d.rd Fld.cspMLen_len
    let mem := (d.reg Reg.cspMMem).toNat
    let send := w.toNat.testBit 4
    if (ddrPhase f len ∧ d.rd Fld.cspMClk_div < 4) ∨ ¬ cspmRangeOk mem len send then
      (((d.wr Fld.cspMStatus_result 2).wr Fld.cspMStatus_bytes 0).wr Fld.cspMStatus_busy 0).raise 0x58
    else
      let en := f.toNat.testBit 25
      let d := { d with csp := { d.csp with
        run := some { frame := d.cspmFrame f w, send := send, mem := mem, len := len, rdyEn := en, clkHeld := en && !rdy } } }
      ((d.wr Fld.cspMStatus_busy 1).wr Fld.cspMStatus_result 0).wr Fld.cspMStatus_bytes 0

def execStart (who : Initiator) (w : Word) (rdy : Bool) (s : State) : Host.Outcome State Fault Refusal :=
  s.run (start who w rdy)

/-- ABORT stops the running frame at the next byte; without one it has no effect (R323). -/
def cspmAbort (who : Initiator) (d : Dev) : Dev :=
  if !d.domUp 28 then d
  else if !d.secure who then d.refuseWrite who Reg.cspMCmd
  else
    match d.csp.run with
    | some r => { d with csp := { d.csp with run := some { r with stop := if r.stop = 0 then 4 else r.stop } } }
    | none => d

def execCspmAbort (who : Initiator) (s : State) : Host.Outcome State Fault Refusal := s.run (cspmAbort who)

/-- CSPM_RDY is sampled high: the frame goes on (R324). -/
def cspmRdyRise (d : Dev) : Dev :=
  match d.csp.run with
  | some r => { d with csp := { d.csp with run := some { r with clkHeld := false } } }
  | none => d

def execCspmRdyRise (s : State) : Host.Outcome State Fault Refusal := s.run cspmRdyRise

/-- CSPM_RDY stays low for TIMEOUT: the running frame stops with RDY_TIMEOUT (R324). -/
def Dev.cspmTimeout (d : Dev) : Dev :=
  match d.csp.run with
  | some r =>
    if r.rdyEn && r.stop = 0 then
      ({ d with csp := { d.csp with run := some { r with stop := 1, clkHeld := false } } }).bump Fld.cspMStat_rdyTimeouts
    else d
  | none => d

/-- The running request ends (R323, R325). `data`: octets that the flash drove; `n`: octets transferred. A
memory whose domain is not ON stops it with MEM_FAULT; otherwise it ends early only where ABORT or a
timeout stopped it. While the CSPM bank is held nothing shows at its pads, and what the request reads is free (R33). -/
def cspmRequestDone (data : List Byte) (n : Nat) (d : Dev) : Dev :=
  match d.csp.run with
  | none => d
  | some r =>
    let off := r.len != 0 && !d.memUp r.mem r.len
    let count := if r.send then min n r.len else min data.length r.len
    if r.clkHeld || (r.stop = 0 && !off && count != r.len) then d
    else
      let d := { d with csp := { d.csp with run := none } }
      let held := (d.pins.held.getD 2 none).isSome
      let sent := if r.send then d.bytes r.mem count else []
      let d := if held then d else d.emit (.cspm { r.frame with data := { r.frame.data with octets := sent } })
      let d := if r.send then d
        else if held then let x := d.free (8 * count); x.2.setBytes r.mem (natLe count x.1)
        else d.setBytes r.mem (data.take count)
      let d := if off then d.bump Fld.cspMStat_memFaults else d
      let result := if off then 3 else r.stop
      (((d.wr Fld.cspMStatus_busy 0).wr Fld.cspMStatus_result result).wr Fld.cspMStatus_bytes count).raise 0x58

def execCspmRequestDone (data : List Byte) (n : Nat) (s : State) : Host.Outcome State Fault Refusal :=
  s.run (cspmRequestDone data n)

end Sys2Proof.Machine
end

