-- ==== Sys2Proof/Machine/Evr.lean ====
section
/-! DEFINITION. Commands of the event router and of the interrupt controller (Event router and interrupt
controller): pin edges, timers, pulses, channel and cell configuration, the storm limiter's re-arm, and
the interrupt registers. -/

namespace Sys2Proof.Machine

open Sys2Proof

/-- The secure monitor: a core in the secure state with PRIV = 1 (R361). -/
def Dev.monitor (d : Dev) (who : Initiator) : Bool :=
  d.secure who && match who with
    | .core n => (d.core n).status.toNat.testBit 1
    | _ => false

/-! Pins, timers and pulses. -/

/-- Two-bit selection of pin `p` in an EVR_GPIO_EVT or EVR_GPIO_ACT pair (R359). -/
def Dev.pinSelect (d : Dev) (f : Field) (p : Nat) : Nat :=
  bitsOf (d.rd f (p / 16)) (2 * (p % 16) + 1) (2 * (p % 16))

/-- GPIO_EDGE: the synchronized level of GPIO`p` becomes `level`; a selected edge raises its event (R357,
R359). -/
def gpioEdge (p : Nat) (level : Bool) (d : Dev) : Dev :=
  if 32 ≤ p || d.pins.gpioIn.testBit p == level then d
  else
    let d := { d with pins := { d.pins with gpioIn := putBitN d.pins.gpioIn p level } }
    let e := d.pinSelect Fld.evrGpioEvt_evt p
    if (level && (e = 1 || e = 3)) || (!level && (e = 2 || e = 3)) then d.raise (0x70 + p) else d

/-- GPIO_EDGE (R357). -/
def execGpioEdge (p : Nat) (level : Bool) (s : State) : Host.Outcome State Fault Refusal :=
  s.run (gpioEdge p level)

/-- Value that OUT or STATIC bit `v` drives on line `line`: inverted while a PULSE runs (R359). -/
def Dev.pulsed (d : Dev) (line : Nat) (v : Bool) : Bool := v != (alGet line d.evr.pulses).isSome

/-- Level that GPIO`p` drives, where its output is enabled and its bank is not held (R33, R359). -/
def Dev.gpioDrive (d : Dev) (p : Nat) : Option Bool :=
  if (d.rd Fld.evrGpioOe_oe).testBit p && (d.pins.held.getD (p / 16) none).isNone then
    some (d.pulsed p ((d.rd Fld.evrGpioOut_out).testBit p))
  else none

/-- A write of EVR_TMRn_CTRL: PERIODIC, then START and STOP; the timer stops where both come together
(R360). -/
def tmrCtrlWrite (who : Initiator) (n : Nat) (w : Word) (d : Dev) : Dev :=
  let a := Reg.evrTmrCtrl + 8 * n
  if !d.domUp 1 || 8 ≤ n then d
  else if !d.secureOrHost who then d.refuseWrite who a
  else
    let d := (d.rsvd who a w).wr Fld.evrTmrCtrl_periodic (wBits w 1 1) n
    let d := if wBits w 2 2 = 1 then d.timerStart n else d
    (if wBits w 3 3 = 1 then d.timerStop n else d).settle

/-- TMR_CTRL_START (R360). -/
def execTmrCtrlStart (who : Initiator) (n : Nat) (w : Word) (s : State) : Host.Outcome State Fault Refusal :=
  s.run (tmrCtrlWrite who n (w ||| 4#32))

/-- TMR_CTRL_STOP (R360). -/
def execTmrCtrlStop (who : Initiator) (n : Nat) (w : Word) (s : State) : Host.Outcome State Fault Refusal :=
  s.run (tmrCtrlWrite who n (w ||| 8#32))

/-- EVENT_TIMER_EXPIRY of timer `n`: a periodic timer expires DELAY later again, another one stops; TMRn is
raised, and a START that the event causes then applies (R360). -/
def eventTimerExpiry (n : Nat) (d : Dev) : Dev :=
  match alGet n d.evr.expiry with
  | none => d
  | some t =>
    let d := if d.is Fld.evrTmrCtrl_periodic n then
        { d with evr := { d.evr with expiry := alSet n (t + d.rd Fld.evrTmrDelay_delay n) d.evr.expiry } }
      else d.timerStop n
    (d.raise (0x60 + n)).settle

/-- EVENT_TIMER_EXPIRY (R360). -/
def execEventTimerExpiry (n : Nat) (s : State) : Host.Outcome State Fault Refusal := s.run (eventTimerExpiry n)

/-- PULSE_END of a line: 0–31 GPIO0–GPIO31, 32–47 FEMC0–FEMC15 (R359). -/
def pulseEnd (line : Nat) (d : Dev) : Dev :=
  ({ d with evr := { d.evr with pulses := alDel line d.evr.pulses } }).settle

/-- PULSE_END (R359). -/
def execPulseEnd (line : Nat) (s : State) : Host.Outcome State Fault Refusal := s.run (pulseEnd line)

/-- HOLDOFF_END of cell `k` (R367). -/
def holdoffEnd (k : Nat) (d : Dev) : Dev :=
  { d with evr := { d.evr with cells := modifyAt (fun (c : LogicCell) => { c with hold := false }) k d.evr.cells } }

/-- HOLDOFF_END (R367). -/
def execHoldoffEnd (k : Nat) (s : State) : Host.Outcome State Fault Refusal := s.run (holdoffEnd k)

/-- TASK_PENDING_SERVE of task input `t`: its consumer, free again, takes what waits (R370). -/
def taskPendingServe (t : Nat) (d : Dev) : Dev := d.serveTask t 0 15

/-- TASK_PENDING_SERVE (R370). -/
def execTaskPendingServe (t : Nat) (s : State) : Host.Outcome State Fault Refusal := s.run (taskPendingServe t)

/-! Channels and cells. -/

/-- Pair `p` acts for the owner of channel `n`: it owns it, or is TP4 in place of the owner (R369). -/
def Dev.pairOwns (d : Dev) (p n : Nat) : Bool :=
  let o := d.rd Fld.evrEcCfg_owner n
  o = 10 + p || (p = 4 && decide (d.pairs.replaces < 4) && o = 10 + d.pairs.replaces)

/-- STORM_REARM of channel `n` by pair `p` (R369). -/
def stormRearm (p n : Nat) (d : Dev) : Dev :=
  let l := d.chanLog n
  match l.trippedAt with
  | none => d
  | some t =>
    if !d.domUp 1 || !d.domUp 10 || d.is Fld.evrEcCfg_arm n || !d.pairOwns p n || d.pairs.retired.contains p || l.barred
        || d.tmb < t + usTicks 1000 then d
    else (d.wr Fld.evrEcCfg_arm 1 n).setChanLog n { rearmedAt := some d.tmb }

/-- STORM_REARM (R369). -/
def execStormRearm (p n : Nat) (s : State) : Host.Outcome State Fault Refusal := s.run (stormRearm p n)

/-- SRC is a value of Table 16.1. -/
def srcListed (e : Nat) : Bool :=
  decide (e ≤ 0x1B) || (decide (0x20 ≤ e) && decide (e ≤ 0x37)) || (decide (0x40 ≤ e) && decide (e ≤ 0x49))
    || (decide (0x50 ≤ e) && decide (e ≤ 0x53)) || (decide (0x58 ≤ e) && decide (e ≤ 0x6B))
    || (decide (0x70 ≤ e) && decide (e ≤ 0x93)) || (decide (0xA0 ≤ e) && decide (e ≤ 0xFF))

/-- TASK is a value of Table 16.2. -/
def taskListed (t : Nat) : Bool :=
  decide (t ≤ 1) || (decide (8 ≤ t) && decide (t < 0x90))

/-- SRC or TASK is marked S (Tables 16.1 and 16.2). -/
def secureOnlyChannel (src task : Nat) : Bool :=
  [0x43, 0x44, 0x50, 0x58, 0x5C, 0x5D, 0x5F, 0x68, 0x69].contains src || (decide (0x80 ≤ task) && decide (task < 0x90))

/-- Edges between combinational cells of a list of channel configurations (R365). -/
def combEdges (comb : Nat → Bool) (cfgs : List Nat) : List (Nat × Nat) :=
  cfgs.filterMap fun c =>
    let src := bitsOf c 7 0
    let task := bitsOf c 15 8
    if 0xA0 ≤ src ∧ src < 0xC0 ∧ 0x40 ≤ task ∧ task < 0x80 then
      if comb (src - 0xA0) && comb (task % 32) then some (src - 0xA0, task % 32) else none
    else none

/-- Edges that remain when those whose start no edge reaches are taken away `k` times: with as many rounds as
cells, some remain exactly where a cycle exists. -/
def cycleCore (es : List (Nat × Nat)) : Nat → List (Nat × Nat)
  | 0 => es
  | k + 1 => cycleCore (es.filter fun e => es.any fun f => f.2 = e.1) k

/-- The combinational cells and the channel configurations `cfgs` hold a cycle (R365). -/
def armCycle (comb : Nat → Bool) (cfgs : List Nat) : Bool := !(cycleCore (combEdges comb cfgs) 33).isEmpty

/-- EVR_ARM_RESULT records a refusal (R364). -/
def Dev.armRefused (d : Dev) (result channel lu : Nat) (luWrite : Bool) : Dev :=
  d.setReg Reg.evrArmResult (BitVec.ofNat 32 (2 ^ 31 + b2n luWrite * 2 ^ 21 + lu * 2 ^ 16 + channel * 2 ^ 8 + result))

/-- `who` owns channel `n` and may write it (R363). -/
def Dev.ownsChannel (d : Dev) (who : Initiator) (n : Nat) : Bool :=
  d.is Fld.evrEcCfg_ns n && match who with
    | .host => d.rd Fld.evrEcCfg_owner n = 1
    | .core m => d.rd Fld.evrEcCfg_owner n = 2 + m
    | _ => false

/-- EVR_ECN_CFG_WRITE: permission (R363), then reserved values, secure-only sources, FEMC ownership and
combinational cycles (R364, R365); a write that leaves ARM at 1 clears the channel's history (R368). -/
def evrEcnCfgWrite (who : Initiator) (n : Nat) (w : Word) (d : Dev) : Dev :=
  let a := Reg.evrEcCfg + 8 * n
  if !d.domUp 1 || 64 ≤ n then d
  else if !d.monitor who && !(d.ownsChannel who n && wBits w 30 26 = wBits (d.reg a) 30 26) then
    (d.refuseWrite who a).armRefused 2 n 0 false
  else
    let src := wBits w 7 0
    let task := wBits w 15 8
    let arm := wBits w 31 31 = 1
    if !srcListed src || !taskListed task || wBits w 29 26 = 15 then d.rejectWrite who a
    else if arm && wBits w 30 30 = 1 && secureOnlyChannel src task then d.armRefused 3 n 0 false
    else if arm && decide (0x80 ≤ task) && decide (task < 0x90) && d.femcOwned (task - 0x80) then
      d.armRefused 4 n 0 false
    else if arm && armCycle d.cellComb
        (w.toNat :: (d.armed.filter fun c => c.1 != n).map fun c => c.2.toNat) then d.armRefused 1 n 0 false
    else
      let d := d.plainWrite who a w
      if arm then d.setChanLog n {} else d

/-- EVR_ECN_CFG_WRITE (R364). -/
def execEvrEcnCfgWrite (who : Initiator) (n : Nat) (w : Word) (s : State) : Host.Outcome State Fault Refusal :=
  s.run (evrEcnCfgWrite who n w)

/-- The values of an EVR_LUn_CFG word are all defined (Table 16.4). -/
def luValid (w : Word) : Bool :=
  let mode := wBits w 2 0
  decide (mode ≤ 4) && wBits w 9 8 ≠ 3 && wBits w 4 4 = 0 && (wBits w 3 3 = 0 || mode = 1)
    && !((mode = 3 || mode = 4) && wBits w 31 16 = 0)

/-- EVR_LUN_CFG_WRITE: the mode changes at once, Q and the count clear; a write that would close a
combinational cycle among armed channels is refused (R365, R366). -/
def evrLunCfgWrite (who : Initiator) (k : Nat) (w : Word) (d : Dev) : Dev :=
  let a := Reg.evrLuCfg + 4 * k
  if !d.domUp 1 || 32 ≤ k then d
  else if !d.secureOrHost who then d.refuseWrite who a
  else if !luValid w then d.rejectWrite who a
  else if armCycle (fun j => if j = k then wBits w 2 0 = 1 && wBits w 3 3 = 0 else d.cellComb j)
      (d.armed.map fun c => c.2.toNat) then d.armRefused 1 0 k true
  else (d.plainWrite who a w).setCell k {}

/-- EVR_LUN_CFG_WRITE (R366). -/
def execEvrLunCfgWrite (who : Initiator) (k : Nat) (w : Word) (s : State) : Host.Outcome State Fault Refusal :=
  s.run (evrLunCfgWrite who k w)

/-! Interrupt controller. -/

/-- IRQ `n` has a source (Table 16.6). -/
def irqListed (n : Nat) : Bool :=
  decide (n ≤ 157) || (decide (192 ≤ n) && decide (n ≤ 199)) || (decide (200 ≤ n) && decide (n ≤ 231))

/-- Storm interrupts: TARGET and SEC follow the channel (R373). -/
def isStormIrq (n : Nat) : Bool := decide (64 ≤ n) && decide (n < 128)

/-- What a read of IRQ_CFGn gives (R372, R373). -/
def Dev.irqCfgRead (d : Dev) (n : Nat) : Word :=
  if !irqListed n then 0
  else if isStormIrq n then
    let w := putBits (d.reg (Reg.irqCfg + 4 * n)) 0 4 (d.irqTarget n)
    putBits w 30 1 (b2n (d.irqSec n))
  else d.reg (Reg.irqCfg + 4 * n)

/-- `who` may write IRQ_CFGn with `w` (R373). -/
def Dev.mayCfgIrq (d : Dev) (who : Initiator) (n : Nat) (w : Word) : Bool :=
  let t := d.irqTarget n
  let new := if isStormIrq n then t else wBits w 3 0
  if d.secure who then true
  else match who with
    | .host => (t = 0 || t = 9) && !d.irqSec n && (new = 0 || new = 9)
    | .core m => t = m + 1 && !d.irqSec n && (w &&& 0x40003F0F#32) = (d.irqCfgRead n &&& 0x40003F0F#32)
    | _ => false

/-- IRQ_CFG_WRITE: writers, then the values that may not stand together (R373). -/
def irqCfgWrite (who : Initiator) (n : Nat) (w : Word) (d : Dev) : Dev :=
  let a := Reg.irqCfg + 4 * n
  if !d.domUp 1 || !irqListed n then d
  else if !d.mayCfgIrq who n w then d.refuseWrite who a
  else
    let target := if isStormIrq n then d.irqTarget n else wBits w 3 0
    let sec := if isStormIrq n then d.irqSec n else wBits w 30 30 = 1
    if 10 ≤ target || (sec && decide (5 ≤ target)) then d.rejectWrite who a
    else if isStormIrq n then
      -- TARGET and SEC are RO there
      d.plainWrite who a ((w &&& 0xBFFFFFF0#32) ||| (d.reg a &&& 0x4000000F#32))
    else d.plainWrite who a w

/-- IRQ_CFG_WRITE (R373). -/
def execIrqCfgWrite (who : Initiator) (n : Nat) (w : Word) (s : State) : Host.Outcome State Fault Refusal :=
  s.run (irqCfgWrite who n w)

/-- `who` may clear the pending bit of IRQ `n` (R374). -/
def Dev.mayClearIrq (d : Dev) (who : Initiator) (n : Nat) : Bool :=
  d.secure who || match who with
    | .host => d.irqTarget n = 9
    | .core m => d.irqTarget n = m + 1
    | _ => false

/-- Clears the pending bit of IRQ `n`; a message that waits for it is no longer due (R374). -/
def Dev.clearIrq (d : Dev) (n : Nat) : Dev :=
  let d := d.putIrqPend n false
  { d with evr := { d.evr with deferred := d.evr.deferred.filter (· != n) } }

/-- IRQ_PEND_WRITE of word `i`: each bit written 1 clears where the writer may clear it (R374). -/
def irqPendWrite (who : Initiator) (i : Nat) (w : Word) (d : Dev) : Dev :=
  if !d.domUp 1 || 8 ≤ i then d
  else (List.range 32).foldl (fun d b =>
    if w.toNat.testBit b && d.mayClearIrq who (32 * i + b) then d.clearIrq (32 * i + b) else d) d

/-- IRQ_PEND_WRITE (R374). -/
def execIrqPendWrite (who : Initiator) (i : Nat) (w : Word) (s : State) : Host.Outcome State Fault Refusal :=
  s.run (irqPendWrite who i w)

/-- The interrupt that asserts the input of core `n`: enabled, pending, targeting it, PRIO above THRESH; the
highest PRIO, the lowest number on a tie (R375). -/
def Dev.irqInput (d : Dev) (n : Nat) : Option Nat :=
  ((List.range 256).filter fun i => d.irqPending i && d.is Fld.irqCfg_en i && d.irqTarget i = n + 1
      && decide (d.rd Fld.irqThresh_thresh n < d.rd Fld.irqCfg_prio i)).foldl
    (fun best i => match best with
      | none => some i
      | some b => if d.rd Fld.irqCfg_prio b < d.rd Fld.irqCfg_prio i then some i else some b) none

/-- A read of IRQ_CLAIMn by `who`: the value, and the claimed bit cleared (R375). -/
def Dev.irqClaim (d : Dev) (who : Initiator) (n : Nat) : Dev × Nat :=
  if who = .core n then
    match d.irqInput n with
    | some i => (d.clearIrq i, 2 ^ 31 + i)
    | none => (d, 0)
  else (d.errDecode who 0 false (recordAddr who (Reg.irqClaimR + 4 * n)), 0)

/-- IRQ_CLAIM: the read and the value it returns (R375). -/
def irqClaim (who : Initiator) (n : Nat) (d : Dev) : Dev :=
  if !d.domUp 1 || 8 ≤ n then d
  else
    let r := d.irqClaim who n
    r.1.emit (.readData who (Reg.irqClaimR + 4 * n) r.2)

/-- IRQ_CLAIM (R375). -/
def execIrqClaim (who : Initiator) (n : Nat) (s : State) : Host.Outcome State Fault Refusal := s.run (irqClaim who n)

/-- IRQ_SGI: bit k sets IRQ 200 + k; a bit whose entry is secure takes no effect from a normal-state core or the
host and is recorded (R376). -/
def irqSgi (who : Initiator) (w : Word) (d : Dev) : Dev :=
  let may := match who with
    | .core _ => true
    | .host => true
    | _ => false
  if !d.domUp 1 then d
  else if !may then d.refuseWrite who Reg.irqSgi
  else (List.range 32).foldl (fun d k =>
    if !w.toNat.testBit k then d
    else if d.irqSec (200 + k) && !d.secure who then d.refuseWrite who Reg.irqSgi
    else d.setIrq (200 + k)) d

/-- IRQ_SGI (R376). -/
def execIrqSgi (who : Initiator) (w : Word) (s : State) : Host.Outcome State Fault Refusal := s.run (irqSgi who w)

end Sys2Proof.Machine
end

