-- ==== Sys2Proof/Machine/Ndt.lean ====
section
/-! DEFINITION. Node-table operations (R234–R252): group updates, NODE_ADD to ROUTE_DEL, snapshot and restore,
adoption and clearing of a held table. -/

namespace Sys2Proof.Machine

open Sys2Proof

/-! Field groups (R240). -/

/-- Fields of group `g` (Table 11.6). -/
def groupFields (g : Nat) : List CtxField :=
  match g with
  | 0 => [Cx.eui, Cx.short, Cx.panId, Cx.shortValid, Cx.secureClass, Cx.router, Cx.relay, Cx.rxq]
  | 1 => [Cx.blob, Cx.blobValid]
  | 2 => [Cx.sleepy, Cx.wurx, Cx.schedPeriod, Cx.schedOffset, Cx.schedBand, Cx.schedCh]
  | _ => [Cx.nextHop, Cx.hops, Cx.buddy]

/-- Reserved fields beside the fields of group `g` (Tables 11.2 and 11.3). -/
def groupReserved (g : Nat) : List CtxField :=
  match g with
  | 0 => [⟨0x04, 15, 17⟩]
  | 1 => [⟨0x20, 26, 6⟩]
  | 2 => [⟨0x04, 15, 17⟩, ⟨0x24, 25, 7⟩, ⟨0x28, 30, 2⟩]
  | _ => [⟨0x38, 15, 1⟩, ⟨0x38, 30, 2⟩]

/-- The schedule values that R213 permits. -/
def schedOk (img : List Byte) : Bool :=
  let p := imgField img Cx.schedPeriod
  p = 0 || (decide (1000 ≤ p) && decide (imgField img Cx.schedOffset < p))

/-- Reserved bits and values of the groups that a command reads (R232, R242). -/
def groupsOk (img : List Byte) (groups : List Nat) : Bool :=
  groups.all fun g => (groupReserved g).all (fun f => imgField img f = 0) && (g != 2 || schedOk img)

/-- Every reserved field of a context (Table 11.2). -/
def ctxReserved : List CtxField :=
  [⟨0x00, 25, 6⟩, ⟨0x04, 15, 17⟩, ⟨0x20, 26, 6⟩, ⟨0x24, 25, 7⟩, ⟨0x28, 30, 2⟩, ⟨0x36, 0, 16⟩, ⟨0x38, 15, 1⟩,
   ⟨0x38, 30, 2⟩, ⟨0x44, 18, 14⟩, ⟨0x4C, 0, 32⟩, ⟨0x2E, 11, 5⟩] ++
  (List.range 4).map fun g => ⟨0x58 + 12 * g, 10, 22⟩

/-- A whole context image obeys R213 and R232 (R250). -/
def ctxImageOk (img : List Byte) : Bool :=
  ctxReserved.all (fun f => imgField img f = 0) && schedOk img
    && decide (imgField img Cx.gPhase ≤ 4) && decide (imgField img Cx.gContacts ≤ 2)

/-- An update stamp (R240). -/
structure Stamp where
  epoch : Nat
  member : Nat
  seq : Nat
  deriving DecidableEq, Repr

/-- The order of stamps: EPOCH, then MEMBER, then SEQ. -/
def Stamp.gt (a b : Stamp) : Bool :=
  decide (b.epoch < a.epoch) || (a.epoch = b.epoch &&
    (decide (b.member < a.member) || (a.member = b.member && decide (b.seq < a.seq))))

def Dev.stampOf (d : Dev) (s g : Nat) : Stamp :=
  ⟨d.cx s (Cx.stampEpoch g), d.cx s (Cx.stampMember g), d.cx s (Cx.stampSeq g)⟩

/-- The next local stamp (R240). -/
def Dev.nextStamp (d : Dev) : Dev × Stamp :=
  let n := (d.ndt.seq + 1) % 2 ^ 32
  ({ d with ndt := { d.ndt with seq := n } }, ⟨d.epoch, d.member, n⟩)

def Dev.putStamp (d : Dev) (s g : Nat) (t : Stamp) : Dev :=
  ((d.setCx s (Cx.stampEpoch g) t.epoch).setCx s (Cx.stampMember g) t.member).setCx s (Cx.stampSeq g) t.seq

/-- Writes the fields of group `g` from an image. -/
def Dev.putGroup (d : Dev) (s g : Nat) (img : List Byte) : Dev :=
  (groupFields g).foldl (fun d f => d.setCx s f (imgField img f)) d

/-- One group update to the context in slot `s`: applied when its stamp is greater, with the keys of group 0 and
the key release of group 1; the status refuses a failed key insertion (R240). -/
def Dev.groupUpdate (d : Dev) (s g : Nat) (img : List Byte) (t : Stamp) : Dev × Nat :=
  if !t.gt (d.stampOf s g) then (d, Code.ok)
  else
    let old := d
    let d := if g = 1 then d.releaseKey s else d
    let d := (d.putGroup s g img).putStamp s g t
    if g = 0 then
      let x := (d.dropKeys s (fun k => k ≤ 1)).insertKeys s (d.residentKeys s)
      if x.2 = Code.ok then x else (old.bump Fld.ndtStat3_insertFail, x.2)
    else (d, Code.ok)

/-- Group updates of a list, all or nothing. -/
def Dev.groupUpdates (d : Dev) (s : Nat) (img : List Byte) (t : Stamp) : List Nat → Dev × Nat
  | [] => (d, Code.ok)
  | g :: gs =>
    let x := d.groupUpdate s g img t
    if x.2 = Code.ok then x.1.groupUpdates s img t gs else x

/-- After a refusal the table is as before; the counted insertion failure stays (R240, R244). -/
def Dev.refusedUpdate (before after : Dev) : Dev :=
  before.setReg Reg.ndtStat3 (after.reg Reg.ndtStat3)

/-! Node-table operations (Table 11.7). Each answers the device and the status. -/

/-- A key of the new node already names a valid route (NODE_EXISTS). -/
def Dev.keysTaken (d : Dev) (img : List Byte) : Bool :=
  (d.findKey (keyEui (imgField img Cx.eui))).isSome ||
    (imgField img Cx.shortValid = 1 && (d.findKey (keyShort (imgField img Cx.short) (imgField img Cx.panId))).isSome)

/-- The fields of a new context that start at 0 (R234). -/
def startFields : List CtxField :=
  [Cx.lastDsn, Cx.lastCheck, Cx.history, Cx.lqKnown, Cx.fcIn, Cx.fcOut, Cx.kslotValid, Cx.drift, Cx.guardState
   , Cx.lastContact, Cx.rxFrames, Cx.txFails]

/-- The values of R234 for a new context. -/
def Dev.firstUse (d : Dev) (s : Nat) (fresh route : Bool) : Dev :=
  let d := (startFields.foldl (fun d f => d.setCx s f 0) d).setCx s Cx.lq 0x80
  let d := if route then d else d.setCx s Cx.hops 15
  d.setCx s Cx.counterUnknown (if fresh then 0 else d.cx s Cx.secureClass)

/-- A context was written to slot `s`: where it awaited rebuilding, it is rebuilt (R252). -/
def Dev.rebuilt (d : Dev) (s : Nat) : Dev :=
  if d.damagedSlot s then
    ({ d with ndt := { d.ndt with damaged := d.ndt.damaged.filter (· != s) } }).bump Fld.ndtStat2_rebuilt
  else d

/-- NODE_ADD. -/
def Dev.nodeAdd (d : Dev) (addr : Nat) (fresh route : Bool) (img : List Byte) : Dev × Nat :=
  let s := addr % 32768
  if d.ndt.held then (d, Code.tableHeld)
  else if !groupsOk img [0, 1, 2, 3] then (d, Code.reservedField)
  else if addr / 32768 ≠ d.member then (d, Code.notMember)
  else if d.damagedNode s then (d, Code.rebuilding)
  else if d.slotValid s || d.keysTaken img then (d, Code.nodeExists)
  else
    let old := d
    let x := d.nextStamp
    let d := x.1.setBytes (ctxAddr s) (List.replicate 128 0#8)
    let d := (d.setCx s Cx.nodeAddr addr).setCx s Cx.valid 1
    let d := [0, 1, 2, 3].foldl (fun d g => (d.putGroup s g img).putStamp s g x.2) d
    let d := ((d.firstUse s fresh route).cxTouch s).setRte s addr true s d.member
    let y := d.insertKeys s (d.residentKeys s)
    if y.2 = Code.ok then (y.1.rebuilt s, Code.ok) else (old.refusedUpdate y.1, y.2)

/-- NODE_UPDATE. Where every group update is discarded, nothing of the context changes (R240). -/
def Dev.nodeUpdate (d : Dev) (addr : Nat) (groups : List Nat) (setCu clrCu : Bool) (img : List Byte) : Dev × Nat :=
  if d.ndt.held then (d, Code.tableHeld)
  else if (setCu && clrCu) || !groupsOk img groups then (d, Code.reservedField)
  else
    match d.findSlot addr with
    | none => (d, Code.nodeUnknown)
    | some s =>
      if d.damagedSlot s then (d, Code.rebuilding)
      else
        let x := d.nextStamp
        let applied := groups.any fun g => x.2.gt (d.stampOf s g)
        let y := x.1.groupUpdates s img x.2 groups
        if y.2 = Code.ok then
          let d := if setCu then y.1.setCx s Cx.counterUnknown 1 else if clrCu then y.1.setCx s Cx.counterUnknown 0 else y.1
          (if applied || setCu || clrCu then d.cxTouch s else d, Code.ok)
        else (d.refusedUpdate y.1, y.2)

/-- Removes the node in slot `s`: route entry, keys, key slot, blob entry and context (R242, R384). -/
def Dev.dropNode (d : Dev) (s : Nat) : Dev :=
  let d := d.releaseKey s
  let d := if d.cxIs s Cx.blobValid then d.setBytes (blobAddr (d.cx s Cx.blob)) (List.replicate 48 0#8) else d
  let e := ((d.dropKeys s fun _ => true).clearRte s).setBytes (ctxAddr s) (List.replicate 128 0#8)
  e.replGone s (d.cx s Cx.nodeAddr) (d.cx s Cx.seq)

/-- NODE_REMOVE: also the slot, for the frames TP3 holds for the node. -/
def Dev.nodeRemove (d : Dev) (addr : Nat) : Dev × Nat × Option Nat :=
  if d.ndt.held then (d, Code.tableHeld, none)
  else
    match d.findSlot addr with
    | none => (d, Code.nodeUnknown, none)
    | some s => if d.damagedSlot s then (d, Code.rebuilding, none) else (d.dropNode s, Code.ok, some s)

/-- NODE_READ: the context. -/
def Dev.nodeRead (d : Dev) (addr : Nat) : Nat × List Byte :=
  if d.ndt.held then (Code.tableHeld, [])
  else
    match d.findSlot addr with
    | none => (Code.nodeUnknown, [])
    | some s => if d.damagedSlot s then (Code.rebuilding, []) else (Code.ok, d.bytes (ctxAddr s) 128)

/-- The valid remote entry that holds an address. -/
def Dev.remoteOf (d : Dev) (addr : Nat) : Option Nat := d.remoteRoutes.find? fun r => d.rteNode r = addr

/-- An ascending list with `r` in it. -/
def insertAsc (r : Nat) : List Nat → List Nat
  | [] => [r]
  | x :: l => if r < x then r :: x :: l else if r = x then x :: l else x :: insertAsc r l

/-- Remote entries that are valid, or whose index entries a ROUTE_DEL has still to clear, ascending (R242). -/
def Dev.remoteUsed (d : Dev) : List Nat := d.ndt.dels.foldl (fun l x => insertAsc x.route l) d.remoteRoutes

/-- The lowest index of 32,768–65,535 that no entry of `used` takes; `used` ascends. -/
def lowestFree : Nat → List Nat → Nat
  | n, [] => n
  | n, r :: rs => if r = n then lowestFree (n + 1) rs else n

/-- ROUTE_SET: a remote entry with its keys; answers the entry index (R237, R238). -/
def Dev.routeSet (d : Dev) (addr owner : Nat) (eui : Option Nat) (short : Option (Nat × Nat)) : Dev × Nat × Nat :=
  if d.ndt.held then (d, Code.tableHeld, 0)
  else if (d.findSlot addr).isSome then (d, Code.reservedField, 0)
  else
    let r := (d.remoteOf addr).getD (lowestFree 32768 d.remoteUsed)
    if 65536 ≤ r then (d.bump Fld.ndtStat3_insertFail, Code.tableFull, 0)
    else
      let keys := keyNode addr :: (match eui with | some e => [keyEui e] | none => [])
        ++ (match short with | some (x, p) => [keyShort x p] | none => [])
      let y := ((d.dropKeys r fun _ => true).setRte r addr false 0 owner).insertKeys r keys
      if y.2 = Code.ok then
        ({ y.1 with ndt := { y.1.ndt with lostRoutes := y.1.ndt.lostRoutes.filter (· != r) } }, Code.ok, r)
      else (d.refusedUpdate y.1, y.2, 0)

/-- ROUTE_DEL clears the entry's VALID at once; its index entries follow (R242). -/
def Dev.routeDel (d : Dev) (addr sq id : Nat) : Dev × Nat :=
  if d.ndt.held then (d, Code.tableHeld)
  else
    match d.remoteOf addr with
    | none => (d, Code.nodeUnknown)
    | some r =>
      ({ d.clearRte r with ndt := { d.ndt with dels := d.ndt.dels ++ [{ route := r, sq := sq, cid := id }] } },
        Code.pending)

/-! Snapshot (R249). -/

/-- A record with its header and CRC. -/
def snapRecord (type : Nat) (body : List Byte) : List Byte :=
  let n := body.length + 8
  let r := natLe 4 (type + 2 ^ 8 + n * 2 ^ 16) ++ body
  r ++ natLe 4 (crc32 (r ++ List.replicate 4 0#8))

/-- Two ascending lists merged without repeats; `fuel` bounds their lengths. -/
def mergeAsc : Nat → List Nat → List Nat → List Nat
  | 0, _, _ => []
  | _ + 1, [], ys => ys
  | _ + 1, xs, [] => xs
  | n + 1, x :: xs, y :: ys =>
    if x < y then x :: mergeAsc n xs (y :: ys)
    else if y < x then y :: mergeAsc n (x :: xs) ys
    else x :: mergeAsc n xs ys

/-- The records of slot `s`. -/
def Dev.snapSlot (d : Dev) (counters remote : Bool) (s : Nat) : List (List Byte) :=
  (if d.slotValid s then
    if counters then
      [snapRecord 2 (natLe 4 (d.cx s Cx.nodeAddr) ++ natLe 4 (d.cx s Cx.fcIn) ++ natLe 4 (d.cx s Cx.fcOut)
        ++ natLe 4 d.epoch ++ natLe 4 (d.cx s Cx.counterUnknown) ++ natLe 4 0)]
    else [snapRecord 1 (natLe 4 s ++ natLe 4 (d.cx s Cx.nodeAddr) ++ d.bytes (ctxAddr s) 128)]
  else []) ++
  (if remote && d.rteValid (32768 + s) then
    [snapRecord 3 (natLe 4 (d.rteW0 (32768 + s)) ++ natLe 4 (d.rteW1 (32768 + s)))] else [])

/-- The records of the slots that fit in `room` bytes beside the END record, with the first slot that does not. -/
def Dev.snapSlots (d : Dev) (counters remote : Bool) (room : Nat) : List Nat → List (List Byte) → List (List Byte) × Option Nat
  | [], acc => (acc, none)
  | s :: ss, acc =>
    let rs := d.snapSlot counters remote s
    if acc.flatten.length + rs.flatten.length + 16 ≤ room then d.snapSlots counters remote room ss (acc ++ rs)
    else (acc, some s)

/-- SNAPSHOT: the stream and the first slot not covered. -/
def Dev.snapshot (d : Dev) (first count : Nat) (counters remote : Bool) (room : Nat) : List Byte × Nat :=
  let inRange (s : Nat) : Bool := decide (first ≤ s) && decide (s < first + count)
  let slots := d.residentSlots.filter inRange
  let rem := if remote then (d.remoteRoutes.map (· - 32768)).filter inRange else []
  let x := d.snapSlots counters remote room (mergeAsc (slots.length + rem.length) slots rem) []
  (x.1.flatten ++ snapRecord 0xFF (natLe 4 x.1.length ++ natLe 4 0), x.2.getD (first + count))

/-! Restore (R250). -/

/-- Writes a context image that obeys R213 and R232 to slot `s` with its stamps, its route entry and its keys. A replica keeps its
COUNTER_UNKNOWN (R252); otherwise a SECURE_CLASS node gets OUT_SKIP and COUNTER_UNKNOWN. -/
def Dev.restoreCtx (d : Dev) (s : Nat) (img : List Byte) (replica : Bool) : Dev × Nat :=
  let addr := imgField img Cx.nodeAddr
  if !ctxImageOk img || imgField img Cx.valid ≠ 1 then (d, Code.reservedField)
  else if (d.slotValid s && d.cx s Cx.nodeAddr ≠ addr) || (d.damagedNode s && d.rteNode s ≠ addr) then (d, Code.nodeExists)
  else
    let old := d
    let d := if d.slotValid s then d.releaseKey s else d
    let d := if d.slotValid s || d.damagedNode s then d.dropKeys s (fun _ => true) else d
    let d := (d.setBytes (ctxAddr s) (padTo 128 img)).setCx s Cx.kslotValid 0
    let d :=
      if d.cxIs s Cx.secureClass then
        let d := d.setCx s Cx.fcOut (min (d.cx s Cx.fcOut + d.rd Fld.ndtOutSkip_outSkip) 0xFFFFFFFF)
        if replica then d else d.setCx s Cx.counterUnknown 1
      else d
    let d := (d.cxTouch s).setRte s addr true s d.member
    let y := d.insertKeys s (d.residentKeys s)
    if y.2 = Code.ok then (y.1.rebuilt s, Code.ok) else (old.refusedUpdate y.1, y.2)

/-- Applies one framed record whose header and CRC are right; answers the status and the slot written. -/
def Dev.restoreRecord (d : Dev) (type : Nat) (r : List Byte) : Dev × Nat × Option Nat :=
  match type with
  | 1 =>
    let s := leAt r 4 4
    let img := slice r 12 128
    if 32768 ≤ s ∨ leAt r 8 4 ≠ imgField img Cx.nodeAddr then (d, Code.reservedField, none)
    else let x := d.restoreCtx s img false; (x.1, x.2, some s)
  | 2 =>
    match d.findSlot (leAt r 4 4) with
    | none => (d, Code.nodeUnknown, none)
    | some s =>
      if d.damagedSlot s then (d, Code.rebuilding, none)
      else
        let out := min (leAt r 12 4 + d.rd Fld.ndtOutSkip_outSkip) 0xFFFFFFFF
        let d := ((d.setCx s Cx.fcIn (leAt r 8 4)).setCx s Cx.fcOut (max (d.cx s Cx.fcOut) out)).setCx s Cx.counterUnknown 0
        (d.cxTouch s, Code.ok, none)
  | _ =>
    let w0 := leAt r 4 4
    let w1 := leAt r 8 4
    if bitsOf w0 31 27 ≠ 0 ∨ bitsOf w1 31 25 ≠ 0 then (d, Code.reservedField, none)
    else let x := d.routeSet (w0 % 2 ^ 25) (bitsOf w1 24 15) none none; (x.1, x.2.1, none)

/-- LENGTH of a record type (Table 11.11). -/
def recordLength : Nat → Option Nat
  | 1 => some 144
  | 2 => some 32
  | 3 => some 16
  | 0xFF => some 16
  | _ => none

/-- What a RESTORE has done so far. -/
structure Restored where
  applied : Nat := 0
  refused : Nat := 0
  mismatch : Bool := false
  /-- Slots whose context was written. -/
  slots : List Nat := []
  deriving DecidableEq, Repr

/-- Applies the records of a stream one by one; `fuel` bounds their number (R250). A stream that ends with fewer octets than a
header has no further record. -/
def Dev.restoreLoop (d : Dev) : Nat → List Byte → Restored → Dev × Restored
  | 0, _, x => (d, x)
  | n + 1, bs, x =>
    if bs.length < 4 then (d, { x with mismatch := true })
    else
      let h := leAt bs 0 4
      let type := h % 256
      let len := h / 65536
      if len = 0 ∨ len % 16 ≠ 0 ∨ bs.length < len then
        (d, { x with refused := x.refused + 1, mismatch := true })
      else
        let r := bs.take len
        let crcOk := leAt r (len - 4) 4 = crc32 (r.take (len - 4) ++ List.replicate 4 0#8)
        let rest := bs.drop len
        if ¬ crcOk ∨ recordLength type ≠ some len ∨ bitsOf h 15 8 ≠ 1 then
          d.restoreLoop n rest { x with refused := x.refused + 1 }
        else if type = 0xFF then
          (d, { x with mismatch := leAt r 4 4 ≠ x.applied + x.refused })
        else
          let y := d.restoreRecord type r
          if y.2.1 = Code.ok then
            y.1.restoreLoop n rest { x with
              applied := x.applied + 1
              slots := match y.2.2 with | some s => x.slots ++ [s] | none => x.slots }
          else y.1.restoreLoop n rest { x with refused := x.refused + 1 }

/-- RESTORE of a stream. -/
def Dev.restoreStream (d : Dev) (bs : List Byte) : Dev × Restored := d.restoreLoop (bs.length / 16 + 1) bs {}

/-! Adoption and clearing (R251, R256). -/

/-- NDT_STATUS1.BUSY (R257). -/
def Dev.ndtBusy (d : Dev) : Bool :=
  d.ndt.op.isSome || !d.ndt.dels.isEmpty || !d.ndt.rebuild.isEmpty || d.ndt.damaged.any d.damagedNode

/-- NDT_CTRL with the right KEY and OP `op` (R256). -/
def Dev.ndtStart (d : Dev) (who : Initiator) (op : NdtOp) : Dev :=
  if !d.domUp 22 then d
  else if !d.secure who || d.ndtBusy then d.refuseWrite who Reg.ndtCtrl
  else { d with ndt := { d.ndt with op := some op } }

def adopt (who : Initiator) (d : Dev) : Dev := d.ndtStart who .adopt
def execAdopt (who : Initiator) (s : State) : Host.Outcome State Fault Refusal := s.run (adopt who)

def clear (who : Initiator) (d : Dev) : Dev := d.ndtStart who .clear
def execClear (who : Initiator) (s : State) : Host.Outcome State Fault Refusal := s.run (clear who)

/-- Addresses of the CTX, RTE and IDX regions. -/
def isTable (a : Nat) : Bool :=
  (decide (0x10000000 ≤ a) && decide (a < 0x10400000)) || (decide (0x10980000 ≤ a) && decide (a < 0x10B80000))

/-- ADOPT has read every word: the words that failed their parity, each with how often, are replayed, and a row judged permanent
goes the way of R252; the table is served as it stands (R251). -/
def adoptDone (d : Dev) : Dev :=
  match d.ndt.op with
  | some .adopt =>
    let r := d.failedWords
    let d := r.2
    let d := (r.1.filter fun x => isTable x.1).foldl (fun d x => (d.fetch (memRes x.1) x.1 x.2).1) d
    { d with ndt := { d.ndt with op := none, held := false } }
  | _ => d
def execAdoptDone (s : State) : Host.Outcome State Fault Refusal := s.run adoptDone

/-- CLEAR has zeroed CTX, RTE and IDX: the hold ends (R251). -/
def clearDone (d : Dev) : Dev :=
  match d.ndt.op with
  | some .clear =>
    let d := d.clearMem isTable
    { d with ndt := { d.ndt with op := none, held := false, damaged := [], lostRoutes := [] } }
  | _ => d
def execClearDone (s : State) : Host.Outcome State Fault Refusal := s.run clearDone

/-- NDT_STATUS0, 1 and 2 (R257). -/
def Dev.ndtStatus (d : Dev) (i : Nat) : Nat :=
  match i with
  | 0 => d.residentCount + d.remoteRoutes.length * 2 ^ 16
  | 1 => b2n d.ndt.warmValid + 2 * b2n d.ndt.held + 4 * b2n d.ndtBusy
      + (d.ndt.damaged.length + d.ndt.lostRoutes.length) * 2 ^ 16
  | _ => d.idxUsed.length

/-- Rebuilds the resident route entries and keys of a list of slots from their contexts (R252). -/
def Dev.rebuildSlots (d : Dev) : List Nat → Dev
  | [] => d
  | s :: ss =>
    let m := if d.rteValid s then d.rteMember s else d.member
    ((d.setRte s (d.cx s Cx.nodeAddr) true s m).insertKeys s (d.residentKeys s)).1.rebuildSlots ss

/-- The rebuild of a remapped row of RTE or IDX completes (R252). -/
def rteIdxRebuildDone (d : Dev) : Dev :=
  if d.ndt.rebuild.isEmpty then d
  else
    let d := d.rebuildSlots d.residentSlots
    { d with ndt := { d.ndt with rebuild := [] } }
def execRteIdxRebuildDone (s : State) : Host.Outcome State Fault Refusal := s.run rteIdxRebuildDone

end Sys2Proof.Machine
end

