-- ==== Sys2Proof/Machine/AirBits.lean ====
section
/-! DEFINITION. What a PHY sends, bit by bit: SHR, PHR, coding, interleaving and whitening (R142, R145, R151, R153), and the
envelope of a Check pattern (R156). What the rules leave to IEEE 802.15.4-2020 is taken from that standard. -/

namespace Sys2Proof.Machine

open Sys2Proof

/-- The low `n` bits of a number, bit 0 first. -/
def bitsLow (v n : Nat) : List Bool := (List.range n).map fun i => v.testBit i

/-- The bits of octets in the order of the air, bit 0 of each octet first. -/
def octetBits (bs : List Byte) : List Bool := bs.flatMap fun b => bitsLow b.toNat 8

/-! Whitening. -/

/-- `n` bits of the PN9 sequence of x^9 + x^5 + 1 whose next nine bits are `s`. -/
def pn9 (s : List Bool) : Nat → List Bool
  | 0 => []
  | n + 1 =>
    match s with
    | b :: rest => b :: pn9 (rest ++ [b != s.getD 5 false]) n
    | [] => []

/-- Blitz whitening: the sequence starts with its all-ones seed (R153). -/
def blitzPn9 (n : Nat) : List Bool := pn9 (List.replicate 9 true) n

/-- SUN-FSK whitening: the standard's sequence starts with the bits that follow its all-ones seed. -/
def sunPn9 (n : Nat) : List Bool := (blitzPn9 (n + 9)).drop 9

/-- Bitwise exclusive or. -/
def xorBits (x y : List Bool) : List Bool := List.zipWith (fun a b => a != b) x y

/-! The convolutional code of Blitz (R153). -/

/-- The encoder with the last six input bits `s`, newest first; six 0 tail bits end the part. -/
def blitzCode (s : List Bool) : List Bool → List Bool
  | [] => []
  | b :: bs =>
    let r := b :: s
    let tap (g : Nat) : Bool := ((List.range 7).map fun i => r.getD i false && g.testBit (6 - i)).foldl (fun x y => x != y) false
    tap 0o171 :: tap 0o133 :: blitzCode (r.take 6) bs

/-- A coded part: the encoder starts at zero. -/
def blitzCoded (bs : List Bool) : List Bool := blitzCode (List.replicate 6 false) (bs ++ List.replicate 6 false)

/-- The PHR of a Blitz frame (Table 07.8). -/
def blitzPhr (l : Nat) (fec short : Bool) : Nat := l % 2048 + 2 ^ 11 * b2n fec + 2 ^ 12 * b2n short

/-- The bits of a Blitz frame (Table 07.7). -/
def blitzBits (sync : Nat) (fec short : Bool) (psdu : List Byte) : List Bool :=
  let m := xorBits (octetBits psdu) (blitzPn9 (8 * psdu.length))
  octetBits (List.replicate 4 0x55#8) ++ bitsLow sync 32 ++ blitzCoded (bitsLow (blitzPhr psdu.length fec short) 16)
    ++ (if fec then blitzCoded m else m)

/-! O-QPSK (R142). -/

/-- SHR, PHR and PSDU. -/
def oqpskBits (psdu : List Byte) : List Bool :=
  octetBits (List.replicate 4 0x00#8 ++ [0xA7#8, BitVec.ofNat 8 (psdu.length % 128)] ++ psdu)

/-! SUN-FSK (R145). -/

/-- The PHR fields in the order of Table 07.4. -/
def sunPhr (l : Nat) (short whiten : Bool) : List Bool := [false, false, false, short, whiten] ++ bitsHigh (l % 2048) 11

/-- The RSC encoder with its memory, newest first: the input bit and its parity. -/
def rscCode (m : Bool × Bool × Bool) : List Bool → List Bool × (Bool × Bool × Bool)
  | [] => ([], m)
  | b :: bs =>
    let a := (b != m.1) != (m.2.1 != m.2.2)
    let p := a != (m.2.1 != m.2.2)
    let r := rscCode (a, m.1, m.2.1) bs
    (b :: p :: r.1, r.2)

/-- The tail bits that take the encoder back to zero. -/
def rscTailBits (m : Bool × Bool × Bool) : List Bool := [(m.1 != m.2.1) != m.2.2, m.1 != m.2.1, m.1]

/-- The pad bits for an `l`-octet PSDU. -/
def rscPadBits (l : Nat) : List Bool :=
  let p := bitsHigh 0x0B 5
  if rscPad l = 5 then p else p ++ bitsHigh 0x0B 8

/-- The interleaver takes code-bit pair k of a block of 16 pairs to place 15 − 4 (k mod 4) − ⌊k / 4⌋. -/
def interleaved (bs : List Bool) : List Bool :=
  (List.range (bs.length / 32)).flatMap fun i => (List.range 16).flatMap fun k =>
    let t := 15 - 4 * (k % 4) - k / 4
    [bs.getD (32 * i + 2 * t) false, bs.getD (32 * i + 2 * t + 1) false]

/-- PHR and PSDU coded and interleaved. -/
def sunCoded (bs : List Bool) (l : Nat) : List Bool :=
  let r := rscCode (false, false, false) bs
  let t := rscCode r.2 (rscTailBits r.2 ++ rscPadBits l)
  interleaved (r.1 ++ t.1)

/-- The bits of a SUN-FSK frame with a `p`-octet preamble: the SFD is the standard's for phyMrFskSfd = 0. -/
def sunBits (p : Nat) (fec short whiten : Bool) (psdu : List Byte) : List Bool :=
  let m := octetBits psdu
  let m := if whiten then xorBits m (sunPn9 m.length) else m
  let body := sunPhr psdu.length short whiten ++ m
  (List.range (8 * p)).map (fun i => decide (i % 2 = 1)) ++ bitsHigh (if fec then 0x6F4E else 0x904E) 16
    ++ (if fec then sunCoded body psdu.length else body)

/-! The envelope of a Check pattern (R156). -/

/-- The envelope of chips that follow an on chip (`prev`), and of what follows the last of them. -/
def chipEdges (prev : Bool) : List Bool → List ChipEdge
  | [] => [if prev then .fall else .off]
  | c :: cs => (if c then (if prev then .on else .rise) else if prev then .fall else .off) :: chipEdges c cs

end Sys2Proof.Machine
end

