-- ==== Sys2Proof/Machine/Mac.lean ====
section
/-! DEFINITION. IEEE 802.15.4 MAC frames as the Tempo engines read and build them (R148, R149, R193, R196,
R412). -/

namespace Sys2Proof.Machine

open Sys2Proof

/-- What the pair reads from a MAC header. Octets of addresses and PAN identifiers are as the frame carries them. -/
structure Mhr where
  type : Nat
  version : Nat
  secured : Bool
  pending : Bool
  ackReq : Bool
  /-- Sequence Number Suppression. -/
  noDsn : Bool
  dsn : Nat
  dstMode : Nat
  dstPan : Option Nat
  dst : Nat
  srcMode : Nat
  srcPan : Option Nat
  src : Nat
  /-- Security level, key identifier mode and its octets, frame counter, and where the counter lies. -/
  level : Nat
  kim : Nat
  kid : List Byte
  fc : Nat
  fcAt : Nat
  /-- Octets through the auxiliary security header. -/
  auxEnd : Nat
  /-- Octets of the MHR with its header IEs. -/
  len : Nat
  deriving DecidableEq, Repr

/-- Octets of an address by its mode. -/
def addrLen (mode : Nat) : Nat := if mode = 2 then 2 else if mode = 3 then 8 else 0

/-- MIC octets of a security level (R412). -/
def micLen (level : Nat) : Nat := [0, 4, 8, 16, 0, 4, 8, 16].getD level 0

/-- Octets of a key identifier by its mode. -/
def kidLen (kim : Nat) : Nat := [0, 1, 5, 9].getD kim 0

/-- Whether destination and source PAN identifiers are present, or none where the version does not permit the
combination (R193; the PAN ID compression of IEEE 802.15.4-2020). -/
def panFields (version dm sm : Nat) (comp : Bool) : Option (Bool × Bool) :=
  if version ≤ 1 then
    if comp then if dm ≠ 0 ∧ sm ≠ 0 then some (true, false) else none
    else some (dm != 0, sm != 0)
  else
    match dm, sm with
    | 0, 0 => some (comp, false)
    | _, 0 => some (!comp, false)
    | 0, _ => some (false, !comp)
    | 3, 3 => some (!comp, false)
    | _, _ => some (true, !comp)

/-- Octets of the header IEs at `i`, up to a header termination or the limit; none where one runs past it. -/
def headerIes (bs : List Byte) (limit : Nat) : Nat → Nat → Option Nat
  | 0, i => some i
  | fuel + 1, i =>
    if limit < i + 2 then if i = limit then some i else none
    else
      let w := leAt bs i 2
      let id := bitsOf w 14 7
      let j := i + 2 + w % 128
      if limit < j then none
      else if id = 0x7E ∨ id = 0x7F then some j
      else headerIes bs limit fuel j

/-- Reads the MHR of a MAC frame without its FCS, for the frame types 0b000 to 0b011; none where R148 or R193
drops it. `withMic`: the octets end with the MIC that the security level calls for. -/
def readMhrOf (withMic : Bool) (bs : List Byte) : Option Mhr :=
  let n := bs.length
  if n < 2 then none else
  let f := leAt bs 0 2
  let version := bitsOf f 13 12
  let secured := f.testBit 3
  let dm := bitsOf f 11 10
  let sm := bitsOf f 15 14
  let noDsn := version = 2 && f.testBit 8
  let ies := version = 2 && f.testBit 9
  if version = 3 ∨ (version = 0 ∧ secured) ∨ bitsOf f 2 0 = 4 ∨ dm = 1 ∨ sm = 1 then none else
  match panFields version dm sm (f.testBit 6) with
  | none => none
  | some (dp, sp) =>
    let i := 2 + (if noDsn then 0 else 1)
    let dstAt := i + (if dp then 2 else 0)
    let spAt := dstAt + addrLen dm
    let srcAt := spAt + (if sp then 2 else 0)
    let auxAt := srcAt + addrLen sm
    let sc := leAt bs auxAt 1
    let kim := bitsOf sc 4 3
    let auxEnd := if secured then auxAt + 5 + kidLen kim else auxAt
    let mic := if secured ∧ withMic then micLen (sc % 8) else 0
    if n < auxEnd + mic then none
    else if secured ∧ bitsOf sc 7 5 ≠ 0 then none
    else
      match (if ies then headerIes bs (n - mic) n auxEnd else some auxEnd) with
      | none => none
      | some len =>
        some {
          type := bitsOf f 2 0, version := version, secured := secured, pending := f.testBit 4
          ackReq := f.testBit 5, noDsn := noDsn, dsn := if noDsn then 0 else leAt bs 2 1
          dstMode := dm, dstPan := if dp then some (leAt bs i 2) else none, dst := leAt bs dstAt (addrLen dm)
          srcMode := sm, srcPan := if sp then some (leAt bs spAt 2) else none, src := leAt bs srcAt (addrLen sm)
          level := if secured then sc % 8 else 0, kim := if secured then kim else 0
          kid := if secured then slice bs (auxAt + 5) (kidLen kim) else []
          fc := if secured then leAt bs (auxAt + 1) 4 else 0, fcAt := auxAt + 1, auxEnd := auxEnd, len := len }

/-- The MHR of a received frame. -/
def readMhr (bs : List Byte) : Option Mhr := readMhrOf true bs

/-- The MHR of a frame to which the device adds the MIC. -/
def readMhrPlain (bs : List Byte) : Option Mhr := readMhrOf false bs

/-- Frame type of a MAC frame. -/
def macType (bs : List Byte) : Nat := leAt bs 0 1 % 8

/-- A frame with octets replaced from position `i` on. -/
def patch (bs : List Byte) (i : Nat) (x : List Byte) : List Byte := bs.take i ++ x ++ bs.drop (i + x.length)

/-- A frame with its Frame Pending bit made `b`. -/
def setPending (bs : List Byte) (b : Bool) : List Byte :=
  patch bs 0 (natLe 1 (putBitN (leAt bs 0 1) 4 b))

/-- The CCM* nonce of Table 18.3: source EUI-64, frame counter and security level, octets most significant
first. -/
def ccmNonce (src : List Byte) (fc level : Nat) : List Byte := src ++ natBe 4 fc ++ natBe 1 level

/-- Associated data and message of a secured MAC frame without MIC and FCS (R412). -/
def ccmSplit (h : Mhr) (bs : List Byte) : List Byte × List Byte :=
  if h.level ≤ 3 then (bs, []) else (bs.take h.len, bs.drop h.len)

/-- The first two octets of an acknowledgement (R196): type 0b010, its version, Frame Pending, and for an
Enh-Ack Security Enabled, Sequence Number Suppression and IE Present. -/
def ackFcf (h : Mhr) (pending ies : Bool) : Nat :=
  2 + (if h.version = 2 ∧ h.secured then 8 else 0) + (if pending then 16 else 0)
    + (if h.version = 2 ∧ h.noDsn then 256 else 0) + (if h.version = 2 ∧ ies then 512 else 0) + h.version * 4096

/-- The acknowledgement of a frame without FCS and MIC: Imm-Ack for versions 0 and 1, Enh-Ack for version 2
with frame counter `fc` and the header IE octets `ie` (R196). -/
def ackFrame (h : Mhr) (pending : Bool) (fc : Nat) (ie : List Byte) : List Byte :=
  if h.version ≤ 1 then natLe 2 (ackFcf h pending false) ++ natLe 1 h.dsn
  else
    natLe 2 (ackFcf h pending (!ie.isEmpty)) ++ (if h.noDsn then [] else natLe 1 h.dsn)
      ++ (if h.secured then natLe 1 (h.level + 8 * h.kim) ++ natLe 4 fc ++ h.kid else []) ++ ie

/-- PSDU octets of the acknowledgement that a frame calls for, with an FCS of `fcs` octets. -/
def ackLen (h : Mhr) (ie : List Byte) (fcs : Nat) : Nat :=
  (ackFrame h false 0 ie).length + (if h.version = 2 ∧ h.secured then micLen h.level else 0) + fcs

/-- The ACK/NACK Time Correction header IE: `us` microseconds (R210). -/
def timeCorrectionIe (us : Int) : List Byte :=
  natLe 2 (2 + 0x1E * 128) ++ natLe 2 (unsignedOf (clampInt us (-2047) 2047) 12)

end Sys2Proof.Machine
end

