-- ==== Sys2Proof/Machine/FedCore.lean ====
section
/-! DEFINITION. The member table, outgoing Bamium messages and the transmit gate (R260, R261, R265, R266, R268),
as transmit, Tempo and federation commands share them. -/

namespace Sys2Proof.Machine

open Sys2Proof

/-! Member table (Table 12.4). -/

/-- Device address of the entry of member `m`. -/
def memberAddr (m : Nat) : Nat := 0x10B80000 + 32 * m

def Dev.memberW0 (d : Dev) (m : Nat) : Nat := d.le (memberAddr m) 4

/-- STATE of member `m`: 0 ABSENT, 1 JOINING, 2 MEMBER, 3 REPLACED, 4 CONFLICT. -/
def Dev.memberState (d : Dev) (m : Nat) : Nat := d.memberW0 m % 8
def Dev.memberBm3 (d : Dev) (m : Nat) : Bool := (d.memberW0 m).testBit 3
def Dev.memberPorts (d : Dev) (m : Nat) : Nat := bitsOf (d.memberW0 m) 5 4
def Dev.memberAttested (d : Dev) (m : Nat) : Bool := (d.memberW0 m).testBit 6
def Dev.memberCoord (d : Dev) (m : Nat) : Bool := (d.memberW0 m).testBit 7
def Dev.memberPrio (d : Dev) (m : Nat) : Nat := bitsOf (d.memberW0 m) 11 8
def Dev.memberBootId (d : Dev) (m : Nat) : Nat := d.le (memberAddr m + 4) 4
def Dev.memberEui (d : Dev) (m : Nat) : Nat := d.le (memberAddr m + 8) 8
def Dev.memberHighSeq (d : Dev) (m : Nat) : Nat := d.le (memberAddr m + 28) 4

/-- Writes field `[lo + n − 1 : lo]` of word 0 of the entry of member `m`. -/
def Dev.setMember (d : Dev) (m lo n v : Nat) : Dev :=
  d.setLe (memberAddr m) 4 (putField (d.memberW0 m) lo n v)

/-- Sets STATE of member `m`. -/
def Dev.setMemberState (d : Dev) (m st : Nat) : Dev := d.setMember m 0 3 st

/-- Member `m` takes no frames under R20: absent, or quarantined (R266, R282). -/
def Dev.memberGone (d : Dev) (m : Nat) : Bool :=
  let s := d.memberState m
  s = 0 || s = 3 || s = 4

/-! Peers. -/

def Dev.peer (d : Dev) (m : Nat) : Peer := (alGet m d.fed.peers).getD {}
def Dev.setPeer (d : Dev) (m : Nat) (p : Peer) : Dev :=
  { d with fed := { d.fed with peers := alSet m p d.fed.peers } }

/-- FED_STATUS.STATE. -/
def Dev.fedState (d : Dev) : Nat := d.rd Fld.fedStatus_state
def Dev.setFedState (d : Dev) (s : Nat) : Dev := d.wr Fld.fedStatus_state s
/-- This member's index for the federation. -/
def Dev.fedMe (d : Dev) : Nat := d.rd Fld.fedCfg_member

/-- The agent runs: D27 carries it and START has been given. -/
def Dev.fedOn (d : Dev) : Bool := d.domUp 27 && d.fedState != 0

/-! Messages. -/

/-- TYPE is a Bm3 type of Table 12.2. -/
def bm3Only : BmPayload → Bool
  | .replica _ | .replicaAck _ | .replicaReq _ _ | .migrateOffer _ _ _ | .migrateAnswer _ _ | .migrateDone _ _ _
  | .migrateActive _ | .attestChallenge _ | .attestResponse _ _ _ _ _ => true
  | _ => false

/-- The version of a message: the lower of the two highest versions, and for ALL the lowest of the roster
(R265). -/
def Dev.bmVersion (d : Dev) (dst : Option Nat) : Nat :=
  match dst with
  | some m => min 3 (d.peer m).version
  | none => if d.fed.roster.any fun m => m != d.fedMe && (d.peer m).version = 2 then 2 else 3

/-- TYPE of a payload (Table 12.2). -/
def payloadType : BmPayload → Nat
  | .hello _ _ _ _ _ => 0x01
  | .candidate _ _ _ => 0x02
  | .groupReport _ _ _ _ _ => 0x03
  | .leader _ _ => 0x04
  | .syncReq _ _ => 0x05
  | .syncResp _ _ => 0x06
  | .digest _ _ _ _ => 0x07
  | .recordReq _ _ => 0x08
  | .manifest _ => 0x09
  | .record _ _ _ _ _ => 0x0A
  | .propose _ _ _ => 0x0B
  | .prepare _ _ _ _ => 0x0C
  | .prepared _ _ _ => 0x0D
  | .commit _ _ _ => 0x0E
  | .abort _ _ => 0x0F
  | .replica _ => 0x10
  | .replicaAck _ => 0x11
  | .replicaReq _ _ => 0x12
  | .migrateOffer _ _ _ => 0x13
  | .migrateAnswer _ _ => 0x14
  | .migrateDone _ _ _ => 0x15
  | .migrateActive _ => 0x16
  | .attestChallenge _ => 0x17
  | .attestResponse _ _ _ _ _ => 0x18
  | .visitor _ _ | .transmit _ _ _ _ _ _ _ _ _ | .redirect _ _ | .result _ _ _ => 0x20
  | .bootReq _ _ => 0x30
  | .bootData _ _ => 0x31

/-- Data padded with zeros to a multiple of 4 octets. -/
def padFour (bs : List Byte) : List Byte := bs ++ List.replicate ((4 - bs.length % 4) % 4) 0#8

/-- The subheader of a DATA payload (R264). -/
def dataHead (kind node : Nat) : List Byte := natLe 4 kind ++ natLe 4 node ++ natLe 4 0

/-- The octets of a payload: as R264, R275 and R281 lay them out, else a free layout of Config. -/
def payloadOctets (p : BmPayload) : List Byte :=
  padFour (match p with
    | .record t i total off data => natLe 2 t ++ natLe 2 0 ++ natLe 4 i ++ natLe 4 total ++ natLe 4 off ++ data
    | .attestChallenge nonce => nonce
    | .visitor node octets => dataHead 0 node ++ octets
    | .redirect node octets => dataHead 2 node ++ octets
    | p => Config.bmLayout p)

/-- The header of Table 12.1; its TX_TIME is Bm3's. -/
def bmHeader (version type len src dst bootId seq epoch rsvd txTime : Nat) : List Byte :=
  natLe 1 version ++ natLe 1 type ++ natLe 2 len ++ natLe 2 src ++ natLe 2 dst ++ natLe 4 bootId ++ natLe 4 seq
    ++ natLe 4 epoch ++ natLe 4 rsvd ++ (if version = 3 then natLe 8 txTime else [])

/-- TMB in 1/8 tick, modulo 2^64. -/
def Dev.now8 (d : Dev) : Nat := (d.tmb * 8 + d.fed.frac) % 2 ^ 64

/-- The federation authenticator may use its key: ENGINES bit [18] of a valid slot KSLOT (R262). -/
def Dev.fedKeyOk (d : Dev) : Bool :=
  d.attrValid (d.rd Fld.fedCfg_kslot) && (d.attrEngines (d.rd Fld.fedCfg_kslot)).testBit 2

/-- TAG over header and payload (R261). -/
def Dev.fedTag (d : Dev) (m : List Byte) : List Byte := (cmac (d.keyBytes (d.rd Fld.fedCfg_kslot)) m).take 8

/-- The CMAC request of a message at the cipher array: NORMAL class, key slot KSLOT (R262, R397). -/
def Dev.fedRequest (d : Dev) (verify : Bool) (m tag : List Byte) : Dev :=
  (d.cphRequest {
    id := 0, origin := .federation, mode := 3, dec := verify, cls := 1, kslot := d.rd Fld.fedCfg_kslot
    mLen := m.length, tagLen := 8, direct := some ([], [], m, tag) }).1

/-- Ports whose link is up. -/
def Dev.upPorts (d : Dev) : List Nat := [0, 1].filter fun p => d.pins.ethUp.getD p false

/-- The ports of a message: for a member that of its last HELLO, port (index mod 2) where both qualify, the other one while
its link is down; for ALL both (R260). A port whose link is down carries nothing. -/
def Dev.bmPorts (d : Dev) (dst : Option Nat) : List Nat :=
  match dst with
  | none => d.upPorts
  | some m =>
    let q := (d.peer m).ports
    let p := if q = 3 then m % 2 else if q = 2 then 1 else 0
    if d.upPorts.contains p then [p] else d.upPorts

/-- Destination address of a message: the group address for ALL, else that of the member's last HELLO (R259, R266). -/
def Dev.bmMac (d : Dev) (dst : Option Nat) : Nat :=
  match dst with
  | none => d.rd Fld.fedGroupMacLo_octets + d.rd Fld.fedGroupMacHi_octets * 2 ^ 32
  | some m => d.le (memberAddr m + 16) 6

/-- A message leaves on some ports: SEQ rises by 1, a control message carries its TAG (R260, R261). Without a port, or
without a key for the TAG, nothing is sent. -/
def Dev.fedSendOn (d : Dev) (ports : List Nat) (mac version : Nat) (dst : Option Nat) (p : BmPayload) : Dev :=
  if ports.isEmpty then d
  else
    let tagged := decide (payloadType p < 0x20)
    let seq := (d.fed.seq + 1) % 2 ^ 32
    let body := payloadOctets p
    let h := bmHeader version (payloadType p) body.length d.fedMe (dst.getD 0x8000) d.fed.bootId seq d.epoch 0 d.now8
    let d := if tagged then d.fedRequest false (h ++ body) [] else d
    if tagged && !d.fedKeyOk then d
    else
      let m (q : Nat) : BmMsg := {
        port := q, dstMac := mac, srcMac := Config.portMac q % 2 ^ 48, etherType := d.rd Fld.fedNet_ethertype
        vlan := if d.is Fld.fedNet_vlanEn then some (d.rd Fld.fedNet_pcp, d.rd Fld.fedNet_vid) else none
        version := version, type := payloadType p, src := d.fedMe, dst := dst, bootId := d.fed.bootId, seq := seq
        epoch := d.epoch, txTime := if version = 3 then some d.now8 else none, payload := p, body := body
        tag := if tagged then some (d.fedTag (h ++ body)) else none }
      ports.foldl (fun d q => d.emit (.bamium (m q))) { d with fed := { d.fed with seq := seq } }

/-- The agent sends a message. A Bm3 type never goes to a Bm2 member (R265). -/
def Dev.fedSend (d : Dev) (dst : Option Nat) (p : BmPayload) : Dev :=
  if !d.fedOn then d
  else if bm3Only p && (match dst with | some m => (d.peer m).version = 2 | none => false) then d
  else d.fedSendOn (d.bmPorts dst) (d.bmMac dst) (if bm3Only p then 3 else d.bmVersion dst) dst p

/-- A frame for another member is handed over, or dropped and counted where the member is gone or the agent has not been
started (R20). With D27 off there is no counter. -/
def Dev.fedForward (d : Dev) (m : Nat) (p : BmPayload) : Dev :=
  if !d.domUp 27 then d
  else if !d.fedOn || d.memberGone m then d.bump Fld.fedStat2_fwdDrop
  else d.fedSend (some m) p

/-! The transmit gate (R268). -/

/-- REPLACED and CONFLICT. -/
def Dev.fedQuarantined (d : Dev) : Bool := d.domUp 27 && (d.fedState = 9 || d.fedState = 10)

/-- Entry to REPLACED (9) or CONFLICT (10) closes the gate. -/
def Dev.quarantine (d : Dev) (st : Nat) : Dev :=
  { d.setFedState st with gate := { d.gate with isOpen := false } }

/-- An epoch that includes the member has been applied. -/
def Dev.gateByEpoch (d : Dev) : Dev := { d with gate := { isOpen := true, byEpoch := true } }

/-- A write of STANDALONE. -/
def Dev.gateStandalone (d : Dev) (b : Bool) : Dev :=
  if b then if d.fedQuarantined then d else { d with gate := { d.gate with isOpen := true } }
  else { d with gate := { d.gate with isOpen := d.gate.byEpoch && d.gate.isOpen } }

end Sys2Proof.Machine
end

