-- ==== Sys2Proof/Machine/Combine.lean ====
section
/-! DEFINITION. Maximal-ratio combining of a lane's antennas (R129, R131, R134). The rules divide channel values by the
noise's standard deviation; here each weight is held with that division, as it applies to the antenna's own stream, so that
every quantity is rational. -/

namespace Sys2Proof

def Cplx.zero : Cplx := ⟨0, 0⟩
def Cplx.add (x y : Cplx) : Cplx := ⟨x.re + y.re, x.im + y.im⟩
def Cplx.sub (x y : Cplx) : Cplx := ⟨x.re - y.re, x.im - y.im⟩
def Cplx.mul (x y : Cplx) : Cplx := ⟨x.re * y.re - x.im * y.im, x.re * y.im + x.im * y.re⟩
def Cplx.conj (x : Cplx) : Cplx := ⟨x.re, -x.im⟩
def Cplx.norm2 (x : Cplx) : Rat := x.re * x.re + x.im * x.im
def Cplx.scale (r : Rat) (x : Cplx) : Cplx := ⟨r * x.re, r * x.im⟩

/-- x / y for y ≠ 0. -/
def Cplx.div (x y : Cplx) : Cplx := (x.mul y.conj).scale (1 / y.norm2)

end Sys2Proof

namespace Sys2Proof.Machine

open Sys2Proof

/-- Entry of antenna `a`. -/
def antVal (l : List Cplx) (a : Nat) : Cplx := l.getD a Cplx.zero

/-- x^H y of two noise-normalized vectors over the antennas `ants`, from the channel values and the noise powers. -/
def innerOver (ants : List Nat) (s2 : List Rat) (x y : List Cplx) : Cplx :=
  ants.foldl (fun t a => t.add (((antVal x a).conj.mul (antVal y a)).scale (1 / s2.getD a 1))) Cplx.zero

/-- Combined gain of weights `w` toward a frame with channel values `h`. -/
def gainToward (ants : List Nat) (w h : List Cplx) : Cplx :=
  ants.foldl (fun t a => t.add ((antVal w a).conj.mul (antVal h a))) Cplx.zero

/-- Weights of the four antennas, 0 outside `ants`. -/
def weightsOver (ants : List Nat) (f : Nat → Cplx) : List Cplx :=
  (List.range 4).map fun a => if ants.contains a then f a else Cplx.zero

/-- The maximal-ratio weights w = h̃ / (h̃^H h̃); none where a noise power or the whole channel is 0 (R129). -/
def mrcWeights (ants : List Nat) (s2 : List Rat) (h : List Cplx) : Option (List Cplx) :=
  let n := (innerOver ants s2 h h).re
  if n = 0 || ants.any (fun a => s2.getD a 1 = 0) then none
  else some (weightsOver ants fun a => (antVal h a).scale (1 / (s2.getD a 1 * n)))

/-- Weights rescaled to unit gain over the antennas that are left; none where they have no gain (R131). -/
def rescaled (ants : List Nat) (h w : List Cplx) : Option (List Cplx) :=
  let g := gainToward ants w h
  if g.norm2 = 0 then none else some (weightsOver ants fun a => (antVal w a).div g.conj)

/-- ρ ≤ 0.95: the frames with channel values `x` and `y` are separable (R134). -/
def separable (ants : List Nat) (s2 : List Rat) (x y : List Cplx) : Bool :=
  decide ((innerOver ants s2 x y).norm2
    ≤ 9025 / 10000 * ((innerOver ants s2 x x).re * (innerOver ants s2 y y).re))

/-- w' = P h̃_A / (h̃_A^H P h̃_A), P = I − h̃_B h̃_B^H / ‖h̃_B‖², for separable frames (R134). -/
def projectedWeights (ants : List Nat) (s2 : List Rat) (x y : List Cplx) : List Cplx :=
  let k := (innerOver ants s2 y x).scale (1 / (innerOver ants s2 y y).re)
  let u (a : Nat) : Cplx := ((antVal x a).sub ((antVal y a).mul k)).scale (1 / s2.getD a 1)
  let g := gainToward ants (weightsOver ants u) x
  weightsOver ants fun a => (u a).div g.conj

/-- Weights that no rule states: free values. -/
def Dev.freeWeights (d : Dev) : List Nat → List Cplx × Dev
  | [] => ([], d)
  | _ :: as =>
    let r := d.free 32
    let i := r.2.free 32
    let rest := i.2.freeWeights as
    (⟨(r.1 : Rat), (i.1 : Rat)⟩ :: rest.1, rest.2)

/-- Weights where the rules give them, and free ones where they do not. -/
def Dev.weightsOr (d : Dev) (w : Option (List Cplx)) : List Cplx × Dev :=
  match w with
  | some w => (w, d)
  | none => d.freeWeights [0, 1, 2, 3]

end Sys2Proof.Machine
end

