-- ==== Sys2Proof/Machine/Pulse.lean ====
section
/-! DEFINITION. The transmit pulse tables of the TX chains and their commands (R161–R163). -/

namespace Sys2Proof.Machine

open Sys2Proof

/-- State of radio chain `i` in RFS_CHAIN_STATE: 0–3 RXA0–RXA3, 4–5 RXS0–RXS1, 6–9 TX0–TX3 (R100). -/
def Dev.chainState (d : Dev) (i : Nat) : Nat := bitsOf (d.rd Fld.rfsChainState_chains) (3 * i + 2) (3 * i)

/-- What RFS_CHAIN_STATE shows of chain `i`: one whose domain powers up reads POWERING, one whose domain is off or retained
reads OFF (R100, Table 05.8). -/
def Dev.chainShown (d : Dev) (i : Nat) : Nat :=
  match d.domSt (if i < 6 then 11 + i else 12 + i) with
  | .off => 0
  | .ret => 0
  | .poweringUp => 1
  | _ => d.chainState i

/-- LEAD, ON_AIR or RAMP_DOWN of a TX chain (Table 05.8). -/
def activeState (v : Nat) : Bool := v = 5 || v = 6 || v = 7

/-- Puts radio chain `i` into state `v` (Table 05.8). The end of a transmission is noted for the wake-up receiver (R160). -/
def Dev.setChainState (d : Dev) (i v : Nat) : Dev :=
  let d := if 6 ≤ i && activeState (d.chainState i) && !activeState v then
      { d with pwr := { d.pwr with txEnd := alSet (i - 6) d.tmb d.pwr.txEnd } }
    else d
  let w := d.rd Fld.rfsChainState_chains
  d.wr Fld.rfsChainState_chains (w - bitsOf w (3 * i + 2) (3 * i) * 2 ^ (3 * i) + v % 8 * 2 ^ (3 * i))

/-- TX chain `n` is in LEAD, ON_AIR or RAMP_DOWN. -/
def Dev.txActive (d : Dev) (n : Nat) : Bool := activeState (d.chainState (6 + n))

/-- Address of word 0 of shadow table `t` of chain `n` (R162). -/
def shapeAddr (n t : Nat) : Nat := 0x20051000 + 0x200 * n + 0x80 * t

/-- The 32 words of shadow table `t` of chain `n`. -/
def Dev.shadow (d : Dev) (n t : Nat) : List Nat :=
  (List.range 32).map fun w => (d.reg (shapeAddr n t + 4 * w)).toNat

/-- The default words of table `t` (Table 07.10). -/
def defaultTable (t : Nat) : List Nat := (shapeDefault.drop (32 * t)).take 32

/-- The active words of table `t` of chain `n`. -/
def Dev.activeTable (d : Dev) (n t : Nat) : List Nat :=
  (alGet (3 * n + t) d.activeTables).getD (defaultTable t)

/-- The 64 signed coefficients of a table (R162). -/
def coeffs (ws : List Nat) : List Int :=
  ws.flatMap fun w => [signedOf (w % 65536) 16, signedOf (w / 65536) 16]

/-- Every neighbour pair of a list rises or stays level. -/
def risingList : List Int → Bool
  | a :: b :: l => decide (a ≤ b) && risingList (b :: l)
  | _ => true

/-- The validity rule of table `t` (Table 07.10). -/
def tableValid (t : Nat) (ws : List Nat) : Bool :=
  let c := coeffs ws
  match t with
  | 0 => c.all (fun x => decide (-16384 ≤ x) && decide (x ≤ 16384)) && c.any (fun x => x != 0)
  | 1 => decide (16368 ≤ c.sum) && decide (c.sum ≤ 16400)
  | _ => decide (0 ≤ c.headD (-1)) && risingList c && c.getLastD 0 = 16384

/-- Bit `t` of a three-bit field of TXP_SHAPE_CTRLn. -/
def shapeCtrl (n lo : Nat) : Field := ⟨0x20050800 + 4 * n, 4, lo, 3⟩

/-- PENDING[t] of chain `n`. -/
def Dev.shapePending (d : Dev) (n t : Nat) : Bool := (d.rd (shapeCtrl n 4)).testBit t

/-- RESTORE: the default of table `t` is loaded into its shadow; refused while PENDING[t] = 1 (R163). -/
def Dev.shapeRestore (d : Dev) (who : Initiator) (n t : Nat) : Dev :=
  if d.shapePending n t then d.refuseWrite who (0x20050800 + 4 * n)
  else (List.range 32).foldl (fun d w =>
    d.setReg (shapeAddr n t + 4 * w) (BitVec.ofNat 32 ((defaultTable t).getD w 0))) d

/-- A pending table becomes active: PENDING clears and CUSTOM tells whether it differs from its default
(R163). -/
def Dev.shapeActivate (d : Dev) (n t : Nat) : Dev :=
  let ws := d.shadow n t
  let d := { d with activeTables := alSet (3 * n + t) ws d.activeTables }
  let d := d.wr (shapeCtrl n 4) (clrBitN (d.rd (shapeCtrl n 4)) t)
  d.wr (shapeCtrl n 16) (putBitN (d.rd (shapeCtrl n 16)) t (ws != defaultTable t))

/-- COMMIT: a failing shadow sets INVALID; a passing one becomes active at once, or waits in PENDING while the
chain is in LEAD, ON_AIR or RAMP_DOWN (R163). -/
def Dev.shapeCommit (d : Dev) (who : Initiator) (n t : Nat) : Dev :=
  if d.shapePending n t then d.refuseWrite who (0x20050800 + 4 * n)
  else if !tableValid t (d.shadow n t) then
    d.wr (shapeCtrl n 8) (setBitN (d.rd (shapeCtrl n 8)) t)
  else
    let d := d.wr (shapeCtrl n 8) (clrBitN (d.rd (shapeCtrl n 8)) t)
    let d := d.wr (shapeCtrl n 4) (setBitN (d.rd (shapeCtrl n 4)) t)
    if d.txActive n then d else d.shapeActivate n t

/-- Pending tables of chain `n` become active. -/
def Dev.shapeFlush (d : Dev) (n : Nat) : Dev :=
  (List.range 3).foldl (fun d t => if d.shapePending n t then d.shapeActivate n t else d) d

/-- A write of TXP_SHAPE_CTRLn: restores come before commits (R162, R163). -/
def Dev.shapeCtrlWrite (d : Dev) (who : Initiator) (n : Nat) (w : Word) : Dev :=
  let d := (List.range 3).foldl (fun d t =>
    if w.toNat.testBit (20 + t) then d.shapeRestore who n t else d) d
  (List.range 3).foldl (fun d t => if w.toNat.testBit t then d.shapeCommit who n t else d) d

/-- RESTORE of table `t` of chain `n` by `who` (R162). -/
def execRestore (who : Initiator) (n t : Nat) (s : State) : Host.Outcome State Fault Refusal :=
  s.run fun d => if n < 4 ∧ t < 3 ∧ d.domUp (18 + n) then d.shapeRestore who n t else d

/-- COMMIT_PULSE_TABLE of table `t` of chain `n` by `who` (R163). -/
def execCommitPulseTable (who : Initiator) (n t : Nat) (s : State) : Host.Outcome State Fault Refusal :=
  s.run fun d => if n < 4 ∧ t < 3 ∧ d.domUp (18 + n) then d.shapeCommit who n t else d

/-- PULSE_TABLE_ACTIVATE of table `t` of chain `n` (R163). -/
def execPulseTableActivate (n t : Nat) (s : State) : Host.Outcome State Fault Refusal :=
  s.run fun d => if n < 4 ∧ t < 3 ∧ d.shapePending n t ∧ !d.txActive n then d.shapeActivate n t else d

end Sys2Proof.Machine
end

