-- ==== Sys2Proof/Machine/Rxw.lean ====
section
/-! DEFINITION. The wideband receiver: band gain and castling, detection, lanes and forks, noise floor, and
their commands (R114–R139, R14). -/

namespace Sys2Proof.Machine

open Sys2Proof

/-! Band gain and castling (R116–R121). -/

/-- Band of RX chain `m`: 0 for RXA0–RXA3, 1 for RXS0–RXS1. -/
def bandOfChain (m : Nat) : Nat := if m < 4 then 0 else 1

/-- Gain step g of chain `m` (R121). -/
def Dev.gainStep (d : Dev) (m : Nat) : Nat := d.rd Fld.rxwGainStatus_step m

/-- The pending castling of chain `m`. -/
def Dev.castlingOf (d : Dev) (m : Nat) : Option (Bool × Nat) := (d.rxw.gains.getD m {}).castling

/-- Replaces the gain record of chain `m`. -/
def Dev.setGain (d : Dev) (m : Nat) (g : Gain) : Dev :=
  { d with rxw := { d.rxw with gains := putAt m g d.rxw.gains } }

/-- Announces a castling of chain `m`, or clears the announcement (R119). -/
def Dev.setCastling (d : Dev) (m : Nat) (c : Option (Bool × Nat)) : Dev :=
  d.setGain m { d.rxw.gains.getD m {} with castling := c }

/-- RX chain `m` is in RECEIVE (R100). -/
def Dev.receiving (d : Dev) (m : Nat) : Bool := d.chainState m = 3

/-- A 64-sample window of chain `m` ended: `full` samples reached full scale and the peak was `peak`
hundredths of a dBFS. In AUTO mode a step down is decided (R117). -/
def gainWindowEnd (m full : Nat) (peak : Int) (d : Dev) : Dev :=
  let b := bandOfChain m
  if 6 ≤ m || !d.domUp 17 || !d.receiving m || d.rd Fld.rxwGainCfg_mode b ≠ 0 || (d.castlingOf m).isSome then d
  else
    let g := d.gainStep m
    let hi : Int := -50 * (d.rd Fld.rxwGainCfg_hi b)
    if g = 0 then d.bumpBy full Fld.rxwStatAbandon_adcClip
    else if 0 < full then d.setCastling m (some (false, min 2 g))
    else if hi ≤ peak then d.setCastling m (some (false, 1))
    else d

/-- GAIN_WINDOW_END (R117). -/
def execGainWindowEnd (m full : Nat) (peak : Int) (s : State) : Host.Outcome State Fault Refusal :=
  s.run (gainWindowEnd m full peak)

/-- A quiet interval of chain `m` ended with highest window peak `peak` hundredths of a dBFS: in AUTO mode a
step up by min(10 − g, floor((HI_TH − P_q) / 6.02 dB) − 1) is decided (R118). -/
def gainQuietIntervalEnd (m : Nat) (peak : Int) (d : Dev) : Dev :=
  let b := bandOfChain m
  if 6 ≤ m || !d.domUp 17 || !d.receiving m || d.rd Fld.rxwGainCfg_mode b ≠ 0 || (d.castlingOf m).isSome then d
  else
    let hi : Int := -50 * (d.rd Fld.rxwGainCfg_hi b)
    let lo : Int := -50 * (d.rd Fld.rxwGainCfg_lo b)
    let up : Int := (hi - peak) / 602 - 1
    let n := min (10 - d.gainStep m) up.toNat
    if lo ≤ peak || n = 0 then d else d.setCastling m (some (true, n))

/-- GAIN_QUIET_INTERVAL_END (R118). -/
def execGainQuietIntervalEnd (m : Nat) (peak : Int) (s : State) : Host.Outcome State Fault Refusal :=
  s.run (gainQuietIntervalEnd m peak)

/-- A lane that decodes on chain `m` marks the castling in its record (R119). -/
def laneCastled (m : Nat) (i : Nat) (l : Lane) : Lane :=
  let ant := if m < 4 then m else m - 4
  if (l.phase = .sync ∨ l.phase = .decode) ∧ (decide (64 ≤ i)) = (decide (4 ≤ m)) ∧ l.antMask.testBit ant
      ∧ ¬ l.lost.testBit ant then
    { l with castled := true, castleCount := satAdd l.castleCount 1 255 }
  else l

/-- A castling of chain `m` to step `t` is announced, if it changes the step. While one is announced no second decision can
come, and this one waits for its sample N (R119, step 7). -/
def Dev.castleTo (d : Dev) (t m : Nat) : Dev :=
  let g := d.gainStep m
  if (d.castlingOf m).isSome then d.setGain m { d.rxw.gains.getD m {} with manual := some t }
  else if g < t then d.setCastling m (some (true, t - g))
  else if t < g then d.setCastling m (some (false, g - t))
  else d

/-- CASTLING of chain `m` at its sample N, `frac` eighths of a tick after TMB: the step changes by n, the
status registers record it and the lanes on the chain mark it; a MANUAL castling that waited is decided (R119, R121). -/
def castling (m frac : Nat) (d : Dev) : Dev :=
  match d.castlingOf m with
  | none => d
  | some (up, n) =>
    if 6 ≤ m || !d.domUp 17 then d else
    let g := d.gainStep m
    let wait := (d.rxw.gains.getD m {}).manual
    let d := d.setGain m { d.rxw.gains.getD m {} with castling := none, manual := none, lastN := some d.tmb }
    let d := d.wr Fld.rxwGainStatus_step (if up then g + n else g - n) m
    let d := d.wr Fld.rxwGainStatus_lastN n m
    let d := d.wr Fld.rxwGainStatus_lastUp (b2n up) m
    let d := d.wr Fld.rxwGainStatus_lastFrac frac m
    let d := d.bump Fld.rxwGainStatus_castlings m
    let d := d.wr Fld.rxwGainLast_last d.tmb m
    let d := { d with rxw := { d.rxw with lanes := d.rxw.lanes.mapIdx (laneCastled m) } }
    let d := match wait with | some t => d.castleTo t m | none => d
    d.raise (0x16 + m)

/-- CASTLING (R119). -/
def execCastling (m frac : Nat) (s : State) : Host.Outcome State Fault Refusal := s.run (castling m frac)

/-- A write of RXW_GAIN_CFG24 (band 0) or RXW_GAIN_CFGS (band 1): reserved values reject it; MANUAL makes each
chain of the band perform one castling to MANUAL_STEP (R120). -/
def rxwGainCfgWrite (who : Initiator) (b : Nat) (w : Word) (d : Dev) : Dev :=
  let a := Reg.rxwGainCfg + 4 * b
  if 2 ≤ b || !d.domUp 17 then d
  else if 10 < getBits w 28 4 || getBits w 24 2 = 3 || getBits w 16 8 = 0 || getBits w 8 8 < getBits w 0 8 + 25 then
    d.errRsvd who true a
  else
    let d := if getBits w 26 2 ≠ 0 then d.errRsvd who false a else d
    let d := d.setReg a (w &&& ~~~ fieldMask 26 2)
    let chains := if b = 0 then [0, 1, 2, 3] else [4, 5]
    if getBits w 24 2 = 2 then chains.foldl (fun d m => d.castleTo (getBits w 28 4) m) d
    else chains.foldl (fun d m => d.setGain m { d.rxw.gains.getD m {} with manual := none }) d

/-- RXW_GAIN_CFG_WRITE (R120). -/
def execRxwGainCfgWrite (who : Initiator) (b : Nat) (w : Word) (s : State) :
    Host.Outcome State Fault Refusal := s.run (rxwGainCfgWrite who b w)

/-! Lanes (R126–R131). -/

/-- Whether lane `i` is retired (R128). -/
def Dev.laneRetired (d : Dev) (i : Nat) : Bool := (d.rd Fld.rxwLaneRetired_retired (i / 32)).testBit (i % 32)

/-- Lane `i`. -/
def Dev.lane (d : Dev) (i : Nat) : Lane := d.rxw.lanes.getD i {}

/-- The channel has had a lane, a declaration or a blanking up to now: an idle window begins anew (R136). -/
def Dev.chanBusy (d : Dev) (sub : Bool) (c : Nat) : Dev :=
  { d with rxw := { d.rxw with busyAt := alSet (chanKey sub c) d.tmb d.rxw.busyAt } }

/-- Puts lane `i`; RXW_LANE_BUSY follows (R128). -/
def Dev.setLane (d : Dev) (i : Nat) (l : Lane) : Dev :=
  let old := d.lane i
  let d := if old.phase = .free then d else d.chanBusy (decide (64 ≤ i)) old.chan
  let d := { d with rxw := { d.rxw with lanes := putAt i l d.rxw.lanes } }
  d.wr Fld.rxwLaneBusy_busy (putBitN (d.rd Fld.rxwLaneBusy_busy (i / 32)) (i % 32) (l.phase != .free)) (i / 32)

/-- Frees a receive staging buffer (R292). -/
def Dev.freeStaging (d : Dev) (b : Nat) : Dev := { d with staging := d.staging.filter (· != b) }

/-- Lane `i` returns to the pool; a buffer it still owns is freed. -/
def Dev.laneFree (d : Dev) (i : Nat) : Dev :=
  let d := if (d.lane i).phase = .decode || (d.lane i).phase = .stalled then d.freeStaging (d.lane i).buf else d
  d.setLane i {}

/-- Lanes of a band: L0–L63 for 2.4 GHz, L64–L95 for sub-GHz (R126). -/
def laneRange (sub : Bool) : List Nat :=
  if sub then (List.range 32).map (· + 64) else List.range 64

/-- Lanes that decode on a channel: allocated and not yet complete. -/
def Dev.lanesOn (d : Dev) (sub : Bool) (c : Nat) : List Nat :=
  (laneRange sub).filter fun i =>
    let l := d.lane i
    (l.phase = .sync || l.phase = .decode) && l.chan = c

/-- The lane that R126 allocates next on a band. -/
def Dev.freeLane (d : Dev) (sub : Bool) : Option Nat :=
  let busy := ((laneRange sub).filter fun i => (d.lane i).phase != .free).length
  let limit := if sub then d.rd Fld.rxwLaneCtrl_limits else d.rd Fld.rxwLaneCtrl_limit24
  if limit < busy + 1 then none
  else (laneRange sub).find? fun i => (d.lane i).phase = .free && !d.laneRetired i

/-- Antennas of a band whose chains are in RECEIVE (R129). -/
def Dev.antennas (d : Dev) (sub : Bool) : Nat :=
  (if sub then [0, 1] else [0, 1, 2, 3]).foldl
    (fun n a => if d.receiving (if sub then 4 + a else a) then setBitN n a else n) 0

/-- Lane `i` is allocated to a detection and takes the next RXSEQ (R126); the detection event is raised
(Table 16.1). -/
def Dev.laneAlloc (d : Dev) (i : Nat) (x : Detection) (switched forked : Bool) (peer : Nat) : Dev :=
  let l : Lane := {
    phase := .sync, chan := x.chan, phy := x.phy, rxseq := d.rxw.rxseq, allocAt := d.tmb,
    level := x.level, antMask := d.antennas x.sub, switched := switched, forked := forked, peer := peer }
  let d := d.setLane i l
  let d := { d with rxw := { d.rxw with
    rxseq := (d.rxw.rxseq + 1) % 65536, claims := alSet (chanKey x.sub x.chan) d.tmb d.rxw.claims } }
  d.raise (if x.sub then 0x11 else 0x01 + (x.chan - 11))

/-- The settings of a channel in force: EN, PHY enables, DET_TH and MIN_LEVEL as of the last symbol boundary,
POLICY and FORK_MARGIN as written (R124). -/
def Dev.chanCfg (d : Dev) (sub : Bool) (c : Nat) : Word :=
  let a := if sub then Reg.rxwChs + 4 * c else Reg.rxwCh24 + 4 * (c - 11)
  let now := d.reg a
  match alGet a d.rxw.oldCfg with
  | some old => (old &&& ~~~ fieldMask 0 10) ||| (now &&& fieldMask 0 10)
  | none => now

/-- Channel `c` is blanked by a transmission (R17). -/
def Dev.blanked (d : Dev) (sub : Bool) (c : Nat) : Bool :=
  d.rxw.txBlank.any fun b => b.2 = chanKey sub c

/-- The criterion of Table 06.2, with or without a lane on the channel, and MIN_LEVEL (R122). -/
def Dev.criterion (d : Dev) (x : Detection) (cfg : Word) (onLane : Bool) : Bool :=
  let level := getBits cfg 24 8 = 0 || decide (getBits cfg 24 8 ≤ x.own)
  let corr := decide (getBits cfg 16 8 ≤ x.corr)
  level && getBits cfg 10 1 = 1 &&
    match x.phy with
    | 0 => !x.sub && getBits cfg 11 1 = 1 && corr && decide ((if onLane then 4 else 2) ≤ x.run)
    | 1 => !x.sub && getBits cfg 12 1 = 1 && d.rd Fld.rxwBlitzSync_sync != 0
        && decide (x.errors ≤ (if onLane then 1 else 3))
    | 2 => x.sub && getBits cfg 11 1 = 1 && corr && decide ((if onLane then 24 else 16) ≤ x.run)
    | _ => false

/-- The outcome of a stronger frame on a channel with one lane decoding (Table 06.4). -/
inductive ForkOutcome where
  | fork
  | switch
  | keep
  deriving DecidableEq, Repr

/-- Table 06.4, for one lane decoding: POLICY, whether lane A is past its freeze point, and a free lane. -/
def forkOutcome (policy : Nat) (frozen free : Bool) : ForkOutcome :=
  match policy with
  | 0 => if frozen then (if free then .fork else .keep) else .switch
  | 1 => .switch
  | 2 => .keep
  | _ => if frozen && free then .fork else .switch

/-- A stronger frame meets lane `a` on its channel (R132, R133). -/
def Dev.strongerFrame (d : Dev) (x : Detection) (a : Nat) (cfg : Word) : Dev :=
  let la := d.lane a
  let free := d.freeLane x.sub
  match forkOutcome (getBits cfg 8 2) (la.phase = .decode) free.isSome, free with
  | .fork, some b =>
    let seqB := d.rxw.rxseq
    let d := d.laneAlloc b x false true la.rxseq
    let d := d.setLane a { la with forkOrigin := true, peer := seqB, forkAt := d.tmb }
    (d.bump Fld.rxwForkStat0_forks).raise 0x14
  | .fork, none => d.bump Fld.rxwForkStat1_kept
  | .switch, _ =>
    let d := d.laneFree a
    (d.laneAlloc a x true false 0).bump Fld.rxwForkStat0_switches
  | .keep, _ => d.bump Fld.rxwForkStat1_kept

/-- A detection on c comes within 4 µs after one that claimed a lane: the same frame on another antenna (R123). -/
def Dev.merged (d : Dev) (x : Detection) : Bool :=
  match alGet (chanKey x.sub x.chan) d.rxw.claims with
  | some t => decide (d.tmb ≤ t + usTicks 4)
  | none => false

/-- A detection that is neither merged nor a self-match goes to lane allocation, or to the fork rules (R123, R126, R132).
With two lanes decoding on c, L_A is that of the lower one. -/
def Dev.detectionTake (d : Dev) (x : Detection) (cfg : Word) (on : List Nat) : Dev :=
  match on with
  | [] =>
    match d.freeLane x.sub with
    | some i => d.laneAlloc i x false false 0
    | none => (d.bump Fld.rxwStatDet_laneStarved).raise 0x15
  | [a] =>
    if x.level < (d.lane a).level + getBits cfg 0 5 then d else d.strongerFrame x a cfg
  | a :: _ =>
    if x.level < (d.lane a).level + getBits cfg 0 5 then d else d.bump Fld.rxwForkStat2_depthIgnored

/-- One detection: its detector exists, its chain receives and its channel is not blanked; the criterion, merging within
4 µs and self-match, then what R126 or R132 gives (R122, R123). -/
def Dev.detect (d : Dev) (x : Detection) : Dev :=
  let chain := if x.sub then 4 + x.ant else x.ant
  if !d.domUp 17 || !d.chanDefined x.sub x.chan || decide ((if x.sub then 2 else 4) ≤ x.ant) || !d.receiving chain
      || d.blanked x.sub x.chan then d
  else
    let cfg := d.chanCfg x.sub x.chan
    let on := d.lanesOn x.sub x.chan
    if !d.criterion x cfg (!on.isEmpty) then d
    else
      let d := d.chanBusy x.sub x.chan
      if d.merged x || (!on.isEmpty && x.selfTiming && decide (900 ≤ x.phaseCorr)) then d
      else d.detectionTake x cfg on

/-- Detections of one fabric cycle are served in ascending channel order, 2.4 GHz before sub-GHz (R126). -/
def detectionInsert (x : Detection) : List Detection → List Detection
  | [] => [x]
  | y :: ys => if chanKey y.sub y.chan ≤ chanKey x.sub x.chan then y :: detectionInsert x ys else x :: y :: ys

/-- PREAMBLE_DETECTION: the detections of one fabric cycle (R122, R123, R126, R132). -/
def preambleDetection (xs : List Detection) (d : Dev) : Dev :=
  (xs.foldl (fun l x => detectionInsert x l) []).foldl Dev.detect d

/-- PREAMBLE_DETECTION (R122). -/
def execPreambleDetection (xs : List Detection) (s : State) : Host.Outcome State Fault Refusal :=
  s.run (preambleDetection xs)

/-- LANE_SYNC_TIMEOUT of lane `i`: FALSE_DETECT (R127). -/
def laneSyncTimeout (i : Nat) (d : Dev) : Dev :=
  if (d.lane i).phase = .sync then (d.laneFree i).bump Fld.rxwStatDet_falseDetect else d

/-- LANE_SYNC_TIMEOUT (R127). -/
def execLaneSyncTimeout (i : Nat) (s : State) : Host.Outcome State Fault Refusal := s.run (laneSyncTimeout i)

/-- Register index of the noise estimate of a channel and antenna (R137): NF24 from 0, NFS from 64. -/
def noiseKey (sub : Bool) (c ant : Nat) : Nat := if sub then 64 + 2 * c + ant else 4 * (c - 11) + ant

/-- The register of a noise estimate. -/
def noiseReg (k : Nat) : Nat := if k < 64 then Reg.rxwNf24 + 4 * k else Reg.rxwNfs + 4 * (k - 64)

/-- The lowest free receive staging buffer of the 248, in an accessible packet buffer (R292). -/
def Dev.freeBuffer (d : Dev) : Option Nat :=
  if d.domUp 23 then (List.range 248).find? fun b => !d.staging.contains b else none

/-- Antennas of a mask. -/
def antsOf (m : Nat) : List Nat := (List.range 4).filter fun a => m.testBit a

/-- Noise powers by which a lane normalizes the antennas of its mask, and whether one of them is INVALID: then all count as
equal (R129). -/
def Dev.noisePowers (d : Dev) (sub : Bool) (c m : Nat) : List Rat × Bool :=
  let inv := (antsOf m).any fun a => getBits (d.reg (noiseReg (noiseKey sub c a))) 31 1 = 1
  ((List.range 4).map fun a => if inv then 1 else ((alGet (noiseKey sub c a) d.rxw.noise).getD ⟨0, 0, 0⟩).e, inv)

/-- FREEZE_POINT of lane `i`: gain and weights freeze, the record's measurements are taken, and the lane takes
a staging buffer; without one it abandons its frame, counted in STAGING_EMPTY (R129, R130, R292). ANT_MASK is what is
combined here. -/
def freezePoint (i : Nat) (f : FreezeInfo) (d : Dev) : Dev :=
  let l := d.lane i
  if l.phase ≠ .sync then d else
  match d.freeBuffer with
  | none => (d.laneFree i).bump Fld.hciStat0_stagingEmpty
  | some b =>
    let m := l.antMask - (l.antMask &&& l.lost)
    let n := d.noisePowers (decide (64 ≤ i)) l.chan m
    let x := d.weightsOr (mrcWeights (antsOf m) n.1 f.h)
    let d := { x.2 with staging := b :: x.2.staging }
    d.setLane i { l with
      phase := .decode, buf := b, agcGain := f.agcGain, rssi := f.rssi, phase0 := f.phase,
      freqOff := f.freqOff, ts := d.tmb, tsFrac := f.tsFrac, nfInvalid := n.2, antMask := m,
      level := ((antsOf m).map fun a => f.rssi.getD a 0).foldl max 0, h := f.h, s2 := n.1, w := x.1 }

/-- FREEZE_POINT (R130). -/
def execFreezePoint (i : Nat) (f : FreezeInfo) (s : State) : Host.Outcome State Fault Refusal :=
  s.run (freezePoint i f)

/-- PHR_CHECK of lane `i`: an invalid PHR abandons the frame, counted in PHR_INVALID (R127, R142, R143, R145,
R152). -/
def phrCheck (i phr : Nat) (coded : Bool) (d : Dev) : Dev :=
  let l := d.lane i
  if l.phase ≠ .decode then d else
  match phrOf l.phy phr coded with
  | none => (d.laneFree i).bump Fld.rxwStatFrame_phrInvalid
  | some p => d.setLane i { l with len := p.len, fcs16 := p.fcs16, fec := p.fec, whiten := p.whiten }

/-- PHR_CHECK (R127). -/
def execPhrCheck (i phr : Nat) (coded : Bool) (s : State) : Host.Outcome State Fault Refusal :=
  s.run (phrCheck i phr coded)

/-- LQI for an SNR after combining in hundredths of a dB (Table 06.6); halves away from zero. -/
def lqiOf (snr : Int) : Nat := (clampInt (roundDiv (4 * snr) 100 + 40) 0 255).toNat

/-- A record byte list: the eight words of Table 06.6 (R138). -/
def recordBytes (i : Nat) (l : Lane) (lqi check : Nat) : List Byte :=
  let sub := 64 ≤ i
  let ref := (antsOf l.antMask).headD 0
  let w0 := l.rxseq + i * 2 ^ 16 + l.chan * 2 ^ 24
  let w1 := l.phy + b2n sub * 8 + l.antMask * 16 + b2n l.forkOrigin * 256 + b2n l.forked * 512
    + b2n l.switched * 1024 + b2n l.castled * 2048 + b2n l.nfInvalid * 4096 + b2n l.fec * 8192
    + b2n (l.lost != 0) * 16384 + l.len * 65536 + l.tsFrac % 8 * 2 ^ 27
  let w3 := l.ts / 2 ^ 32 % 65536
    + (if l.forkOrigin || l.forked then l.peer else 0) * 65536
  let per (xs : List Nat) := (List.range 4).flatMap fun a =>
    natLe 1 (if l.antMask.testBit a then xs.getD a 0 else 0)
  natLe 4 w0 ++ natLe 4 w1 ++ natLe 4 (l.ts % 2 ^ 32) ++ natLe 4 w3 ++ per l.rssi ++ per (l.phase0.set ref 0)
    ++ natLe 4 (lqi % 256 + l.agcGain % 256 * 256 + l.freqOff % 65536 * 65536)
    ++ natLe 4 (check % 65536 + l.castleCount * 65536)

/-- Device address of receive staging buffer `b` (Table 13.1). -/
def stagingAddr (b : Nat) : Nat := 0x11000000 + 2112 * b

/-- The FIFO that serves the channels of pair `p`: its own, or that of TP4 in its place (R201). -/
def Dev.fifoOf (d : Dev) (p : Nat) : Nat := if d.pairs.replaces = p then 4 else p

/-- Input FIFO of pair `p`. -/
def Dev.fifo (d : Dev) (p : Nat) : List Completion := d.fifos.getD (d.fifoOf p) []
def Dev.setFifo (d : Dev) (p : Nat) (l : List Completion) : Dev := { d with fifos := putAt (d.fifoOf p) l d.fifos }

/-- The completion of lane `i`. -/
def Dev.completionOf (d : Dev) (i : Nat) : Completion :=
  let l := d.lane i
  {
    buf := l.buf, lane := i, rxseq := l.rxseq, sub := 64 ≤ i, chan := l.chan, phy := l.phy, len := l.len,
    endAt := l.ts + d.afterFreeze l.phy d.rxw.mode l.len l.fec,
    peer := if l.forkOrigin || l.forked then some l.peer else none
    mode := d.rxw.mode, fec := l.fec, fcs16 := l.phy = 0 || l.fcs16, whiten := l.whiten }

/-- Lane `i` posts its completion and returns to the pool, or stalls on a full FIFO (R14). -/
def Dev.lanePost (d : Dev) (i : Nat) : Dev :=
  let c := d.completionOf i
  let p := pairOf c.sub c.chan
  if (d.fifo p).length < 64 then
    ((d.setFifo p (d.fifo p ++ [c])).setLane i {}).raise 0x12
  else d.setLane i { d.lane i with phase := .stalled }

/-- LANE_FRAME_END of lane `i` with the PSDU it decoded: a failing FCS frees the buffer and counts; a good
frame is written as record and PSDU and posted (R14, R127, R133, R138). `fails` is how often a word of the
write failed its parity: an exhausted word abandons the frame (R421). -/
def laneFrameEnd (i : Nat) (psdu : List Byte) (snr : Int) (fails : Nat) (d : Dev) : Dev :=
  let l := d.lane i
  if l.phase ≠ .decode || l.len = 0 || psdu.length ≠ l.len then d
  else if !fcsOk (l.phy = 0 || l.fcs16) psdu then
    ((d.laneFree i).bump Fld.rxwStatFrame_fcsFail).raise 0x13
  else
    let r := d.fetch (memRes (stagingAddr l.buf)) (stagingAddr l.buf) fails
    if r.2 = .exhausted then (r.1.laneFree i).bump Fld.rxwStatAbandon_abandoned
    else
      let n := fcsLen (l.phy = 0 || l.fcs16)
      let check := leNat (psdu.drop (psdu.length - n)) % 65536
      (r.1.setBytes (stagingAddr l.buf) (recordBytes i l (lqiOf snr) check ++ psdu)).lanePost i

/-- LANE_FRAME_END (R14). -/
def execLaneFrameEnd (i : Nat) (psdu : List Byte) (snr : Int) (fails : Nat) (s : State) :
    Host.Outcome State Fault Refusal := s.run (laneFrameEnd i psdu snr fails)

/-- LANE_POST_RESUME: a stalled lane posts once an entry is free (R14). -/
def lanePostResume (i : Nat) (d : Dev) : Dev := if (d.lane i).phase = .stalled then d.lanePost i else d

/-- LANE_POST_RESUME (R14). -/
def execLanePostResume (i : Nat) (s : State) : Host.Outcome State Fault Refusal := s.run (lanePostResume i)

/-- TMB at which lane `l`'s frame ends, by its PHR. -/
def Dev.laneEnd (d : Dev) (l : Lane) : Nat := l.ts + d.afterFreeze l.phy d.rxw.mode l.len l.fec

/-- FORK_CHANNEL_ESTIMATE of lane `i` (lane A), with lane B's channel estimate: where the frames are separable, lane A
takes the projected weights and decodes again from the first sample of frame B's preamble, so a PHR that ended
after it is read anew. It keeps its weights where its PHR shows that its frame ends less than 40 µs after the detection
(R134). -/
def forkChannelEstimate (i : Nat) (x : ForkEstimate) (d : Dev) : Dev :=
  let l := d.lane i
  let ants := antsOf (l.antMask - (l.antMask &&& l.lost))
  let b := (innerOver ants l.s2 x.h x.h).re
  if l.phase = .decode && l.forkOrigin && decide (b ≠ 0) && separable ants l.s2 l.h x.h
      && (l.len = 0 || decide (l.forkAt + usTicks 40 ≤ d.laneEnd l)) then
    let phr := decide (x.start < l.ts + d.afterFreeze l.phy d.rxw.mode 0 false)
    d.setLane i { l with
      w := projectedWeights ants l.s2 l.h x.h, rewound := some x.start, len := if phr then 0 else l.len }
  else d

/-- FORK_CHANNEL_ESTIMATE (R134). -/
def execForkChannelEstimate (i : Nat) (x : ForkEstimate) (s : State) : Host.Outcome State Fault Refusal :=
  s.run (forkChannelEstimate i x)

/-- Lane `i` loses antenna `a`: its weight goes to 0, the others are rescaled to unit gain, and ANT_LOST is set; a frame
without antennas is abandoned (R131, R127). -/
def Dev.laneLoseAntenna (d : Dev) (i a : Nat) : Dev :=
  let l := d.lane i
  if (l.phase = .sync || l.phase = .decode) && l.antMask.testBit a && !l.lost.testBit a then
    let lost := setBitN l.lost a
    let left := l.antMask - (l.antMask &&& lost)
    if left = 0 then (d.laneFree i).bump Fld.rxwStatAbandon_abandoned
    else if l.phase = .sync then d.setLane i { l with lost := lost }
    else
      let x := d.weightsOr (rescaled (antsOf left) l.h l.w)
      x.2.setLane i { l with lost := lost, w := x.1 }
  else d

/-- RX chain `m` leaves RECEIVE: the lanes of its band lose the antenna (R131). -/
def Dev.antennaLost (d : Dev) (m : Nat) : Dev :=
  (laneRange (4 ≤ m)).foldl (fun d i => d.laneLoseAntenna i (if m < 4 then m else m - 4)) d

/-- Every lane of a band that decodes abandons its frame, counted in ABANDONED, and with `whole` every lane whose frame is
complete and not yet posted, too (R127, R97). -/
def Dev.abandonBand (d : Dev) (sub whole : Bool) : Dev :=
  (laneRange sub).foldl (fun d i =>
    let l := d.lane i
    if l.phase = .sync || l.phase = .decode || (whole && l.phase = .stalled) then
      (d.laneFree i).bump Fld.rxwStatAbandon_abandoned else d) d

/-! Noise floor (R136, R137). -/

/-- E ≥ 10^((n − 1/2)/40), that is E^80 ≥ 10^(2n − 1). -/
def levelAtLeast (e : Rat) (n : Int) : Bool :=
  let p := e.num.toNat ^ 80
  let q := e.den ^ 80
  if 1 ≤ 2 * n - 1 then decide (10 ^ (2 * n - 1).toNat * q ≤ p) else decide (q ≤ 10 ^ (1 - 2 * n).toNat * p)

/-- round(40 × log10(E)) within the 12-bit field, by halving: E > 0. -/
def levelSearch (e : Rat) : Nat → Int → Int
  | 0, n => n
  | k + 1, n => levelSearch e k (if levelAtLeast e (n + 2 ^ k) then n + 2 ^ k else n)

/-- LEVEL of an estimate (R136). -/
def noiseLevel (e : Rat) : Int := levelSearch e 12 (-2048)

/-- One idle sample enters an estimate (R136). -/
def noiseUpdate (n : Noise) (s : Rat) : Noise :=
  if n.count < 16 then
    { count := n.count + 1, sum := n.sum + s, e := (n.sum + s) / ((n.count + 1 : Nat) : Rat) }
  else { n with count := min (n.count + 1) 255, e := n.e + (s - n.e) / 16 }

/-- Ticks of an idle window: 64 µs, or 32 symbol periods of the mode at sub-GHz (R136). -/
def Dev.idleWindow (d : Dev) (sub : Bool) : Nat := if sub then bitTicks 32 (d.sunSymbolRate d.rxw.mode) else usTicks 64

/-- The window of a channel and antenna that ends now yields an idle sample: for its whole length no lane was allocated on
the channel, no detector of it declared, it was not blanked, the chain stayed in RECEIVE and no castling of it had its
sample N there; a sub-GHz channel's converter runs (R115, R136). -/
def Dev.idleWindowOk (d : Dev) (sub : Bool) (c ant : Nat) : Bool :=
  let chain := if sub then 4 + ant else ant
  let start := d.tmb - d.idleWindow sub
  let g := d.rxw.gains.getD chain {}
  d.domUp 17 && d.chanDefined sub c && decide (ant < if sub then 2 else 4) && d.receiving chain
    && !(sub && getBits (d.chanCfg true c) 10 1 = 0)
    && !((laneRange sub).any fun i => (d.lane i).phase != .free && (d.lane i).chan = c)
    && !d.blanked sub c && decide (g.since ≤ start)
    && (match g.lastN with | some t => decide (t < start) | none => true)
    && (match alGet (chanKey sub c) d.rxw.busyAt with | some t => decide (t ≤ start) | none => true)

/-- IDLE_SAMPLE of `p` mW on a channel and antenna: the estimate and its register follow (R136, R137). The
level of a power of 0 is stated nowhere: a free value. -/
def idleSample (sub : Bool) (c ant : Nat) (p : Rat) (d : Dev) : Dev :=
  if !d.idleWindowOk sub c ant then d
  else
    let k := noiseKey sub c ant
    let n := noiseUpdate ((alGet k d.rxw.noise).getD ⟨0, 0, 0⟩) p
    let d := { d with rxw := { d.rxw with noise := alSet k n d.rxw.noise } }
    let lv := if 0 < n.e then (unsignedOf (noiseLevel n.e) 12, d) else d.free 12
    lv.2.setReg (noiseReg k)
      (BitVec.ofNat 32 (b2n (decide (n.count < 16)) * 2 ^ 31 + n.count * 65536 + lv.1))

/-- IDLE_SAMPLE (R136). -/
def execIdleSample (sub : Bool) (c ant : Nat) (p : Rat) (s : State) : Host.Outcome State Fault Refusal :=
  s.run (idleSample sub c ant p)

/-- Every estimate whose key satisfies `q` returns to its first-use state (R136). -/
def Dev.noiseRestart (d : Dev) (q : Nat → Bool) : Dev :=
  let keys := (List.range 192).filter q
  let d := { d with rxw := { d.rxw with noise := d.rxw.noise.filter fun n => !q n.1 } }
  keys.foldl (fun d k => d.setReg (noiseReg k) 0x80000000#32) d

/-- Keys of the estimates of RX chain `m`. -/
def noiseOfChain (m k : Nat) : Bool :=
  if m < 4 then decide (k < 64) && k % 4 = m else decide (64 ≤ k) && (k - 64) % 2 = m - 4

/-- RX chain `m` enters RECEIVE: gain step 0 and fresh estimates (R118, R136). -/
def Dev.enterReceive (d : Dev) (m : Nat) : Dev :=
  let d := d.setChainState m 3
  if d.domUp 17 then ((d.wr Fld.rxwGainStatus_step 0 m).setGain m { since := d.tmb }).noiseRestart (noiseOfChain m) else d

/-- CHANNEL_CONFIG_EFFECT of the register at `a`: the written settings take effect (R124). -/
def channelConfigEffect (a : Nat) (d : Dev) : Dev :=
  { d with rxw := { d.rxw with oldCfg := alDel a d.rxw.oldCfg } }

/-- CHANNEL_CONFIG_EFFECT (R124). -/
def execChannelConfigEffect (a : Nat) (s : State) : Host.Outcome State Fault Refusal :=
  s.run (channelConfigEffect a)

/-- Some lane of L64–L95 is busy. -/
def Dev.subBusy (d : Dev) : Bool := (laneRange true).any fun i => (d.lane i).phase != .free

/-- SUB_MODE_EFFECT: a pending MODE takes effect once L64–L95 are free; every RXW_NFS estimate restarts
(R125). -/
def subModeEffect (d : Dev) : Dev :=
  let m := d.rd Fld.rxwSubCfg_mode
  if d.subBusy || m = d.rxw.mode then d
  else ({ d with rxw := { d.rxw with mode := m } }).noiseRestart (fun k => decide (64 ≤ k))

/-- SUB_MODE_EFFECT (R125). -/
def execSubModeEffect (s : State) : Host.Outcome State Fault Refusal := s.run subModeEffect

end Sys2Proof.Machine
end

