-- ==== Sys2Proof/Machine/Slots.lean ====
section
/-! DEFINITION. Times of slot-program entries and TSCH cells (R206–R210). -/

namespace Sys2Proof.Machine

open Sys2Proof

/-- W0–W3 of slot-program entry `m` (R206). -/
def Dev.slotCfg (d : Dev) (m : Nat) : List Nat :=
  (List.range 4).map fun k => (d.reg (Reg.lnkSlotW0 + 16 * m + 4 * k)).toNat

/-- START and PERIOD of an entry as its configuration words give them. -/
def slotStart (cfg : List Nat) : Nat := cfg.getD 2 0 + cfg.getD 3 0 % 65536 * 2 ^ 32
def slotPeriod (cfg : List Nat) : Nat := cfg.getD 1 0

/-- The number of the first occurrence not before TMB `t`. -/
def slotNext (cfg : List Nat) (t : Nat) : Nat :=
  let s := slotStart cfg
  let p := max 1 (slotPeriod cfg)
  if t ≤ s then 0 else (t - s + p - 1) / p

/-- Ticks of a timeslot. -/
def Dev.slotTicks (d : Dev) : Nat := usTicks (d.rd Fld.lnkTschTmpl_hi 3)

/-- Entry `j` of the hopping sequence. -/
def Dev.hopEntry (d : Dev) (j : Nat) : Nat := bitsOf (d.rd Fld.lnkTschHop_hop (j / 4)) (8 * (j % 4) + 7) (8 * (j % 4))

/-- Cell `c` occurs in timeslot `a`. -/
def Dev.cellOccurs (d : Dev) (c a : Nat) : Bool :=
  let n := d.rd Fld.lnkTschSf_length (d.rd Fld.lnkCellW0_sf c)
  d.is Fld.lnkCellW0_en c && n != 0 && a % n = d.rd Fld.lnkCellW0_timeslot c

/-- Channel of cell `c` in timeslot `a`. -/
def Dev.cellChan (d : Dev) (c a : Nat) : Nat :=
  d.hopEntry ((a + d.rd Fld.lnkCellW0_chOffset c) % max 1 (d.rd Fld.lnkTschCtrl_hopLen))

/-- The first chip of a frame sent in timeslot `a`: TX_OFFSET after its start. -/
def Dev.cellStart (d : Dev) (a : Nat) : Nat :=
  d.tempo.tsch.t0 + (a - d.tempo.tsch.asn0) * d.slotTicks + usTicks (d.rd Fld.lnkTschTmpl_lo 0)

/-- The next timeslot not before the current one in which cell `c` occurs. -/
def Dev.cellNext (d : Dev) (c : Nat) : Nat :=
  let n := max 1 (d.rd Fld.lnkTschSf_length (d.rd Fld.lnkCellW0_sf c))
  let a := d.tempo.tsch.asn
  a + (d.rd Fld.lnkCellW0_timeslot c + n - a % n) % n

/-- A frame in scheduled queue `q` has a planned start on the band `sub` by TMB `t`: the next occurrence of a transmit
slot or a transmit cell that serves the queue. -/
def Dev.slotPlanned (d : Dev) (q : Nat) (sub : Bool) (t : Nat) : Bool :=
  ((List.range 512).any fun m =>
    let cfg := d.slotCfg m
    d.is Fld.lnkSlotW0_en m && d.rd Fld.lnkSlotW0_kind m = 1 && d.rd Fld.lnkSlotW0_queue m = q
      && d.is Fld.lnkSlotW0_band m = sub && decide (slotStart cfg + slotNext cfg d.tmb * slotPeriod cfg ≤ t))
  || (d.is Fld.lnkTschCtrl_en && d.is Fld.lnkTschCtrl_band = sub &&
    (List.range 1024).any fun c =>
      d.is Fld.lnkCellW0_en c && d.is Fld.lnkCellW0_tx c && d.rd Fld.lnkCellW1_queue c = q
        && decide (d.cellStart (d.cellNext c) ≤ t))

end Sys2Proof.Machine
end

