-- ==== Sys2Proof/Machine/Rfs.lean ====
section
/-! DEFINITION. Local oscillators, the calibration store, calibration commands, background recalibration and
the power law (R86–R107). LO numbers are those of Table 05.4: 0 LO_A, 1 LO_B, 2–5 LO_T0–LO_T3. -/

namespace Sys2Proof.Machine

open Sys2Proof

/-- Domain of an LO (Table 05.1). -/
def loDomain (lo : Nat) : Nat := [11, 15, 18, 19, 20, 21].getD lo 0

/-- The record of an LO. -/
def Dev.lo (d : Dev) (lo : Nat) : Lo := d.rfs.los.getD lo {}

/-- Replaces the record of an LO; LOCKED follows its lock (R98). -/
def Dev.setLo (d : Dev) (lo : Nat) (l : Lo) : Dev :=
  let d := { d with rfs := { d.rfs with los := putAt lo l d.rfs.los } }
  d.wr Fld.rfsLoStatus_locked (putBitN (d.rd Fld.rfsLoStatus_locked) lo l.lock.isSome)

/-- The LO locks on channel `c`: LOCK_A, LOCK_B or LOCK_Tn is raised where it gains lock (Table 16.1). -/
def Dev.loLock (d : Dev) (lo c : Nat) : Dev :=
  let had := (d.lo lo).lock.isSome
  let d := d.setLo lo { d.lo lo with lock := some c }
  if had then d else d.raise (0x30 + lo)

/-- The LO is no longer locked. -/
def Dev.loUnlock (d : Dev) (lo : Nat) : Dev := d.setLo lo { d.lo lo with lock := none }

/-- The last temperature sample in °C, halves away from zero (R99). -/
def Dev.tempC (d : Dev) : Int :=
  let t := signedOf (d.rd Fld.rfsTemp_temp) 16
  if 0 ≤ t then (t + 8) / 16 else -((8 - t) / 16)

/-! Calibration entries (R88–R92). -/

/-- Entry indices of an LO (Table 05.2). -/
def loEntries (lo : Nat) : List Nat :=
  match lo with
  | 0 => [0]
  | 1 => [1]
  | 2 => (List.range 16).map (· + 2)
  | 3 => (List.range 16).map (· + 18)
  | 4 => (List.range 64).map (· + 34)
  | _ => (List.range 64).map (· + 98)

/-- LO of a calibration entry. -/
def loOfEntry (n : Nat) : Nat :=
  if n = 0 then 0 else if n = 1 then 1 else if n < 18 then 2 else if n < 34 then 3 else if n < 98 then 4 else 5

/-- An entry that holds a calibration or its failures. -/
def Dev.entryUsed (d : Dev) (n : Nat) : Bool :=
  d.is Fld.rfsCalEntry_valid n || d.is Fld.rfsCalEntry_failed n || d.rd Fld.rfsCalEntry_lockFails n != 0

/-- The entry of a channel on an LO (Table 05.2). -/
def Dev.calEntry (d : Dev) (lo c : Nat) : Option Nat :=
  match lo with
  | 0 => some 0
  | 1 => some 1
  | 2 => if 11 ≤ c ∧ c ≤ 26 then some (c - 9) else none
  | 3 => if 11 ≤ c ∧ c ≤ 26 then some (c + 7) else none
  | _ => (loEntries lo).find? fun n => d.entryUsed n && d.rd Fld.rfsCalEntry_tag n = c

/-- Distance of the die temperature from TCAL of entry `n`, in °C. -/
def Dev.tempDrift (d : Dev) (n : Nat) : Nat := (d.tempC - signedOf (d.rd Fld.rfsCalEntry_tcal n) 8).natAbs

/-- Entry `n` is usable (R90). -/
def Dev.entryUsable (d : Dev) (n : Nat) : Bool :=
  d.is Fld.rfsCalEntry_valid n && !d.is Fld.rfsCalEntry_failed n && decide (d.tempDrift n ≤ 20)

/-- A hop of the LO to channel `c` has a usable entry (R90). -/
def Dev.hopUsable (d : Dev) (lo c : Nat) : Bool :=
  match d.calEntry lo c with
  | some n => d.entryUsable n
  | none => false

/-- The least recently used of a list of entries (R92). -/
def Dev.oldestEntry (d : Dev) : List Nat → Option Nat
  | [] => none
  | n :: ns =>
    let use k := (alGet k d.rfs.lastUse).getD 0
    match d.oldestEntry ns with
    | some m => if use m < use n then some m else some n
    | none => some n

/-- The entry that a full calibration of channel `c` writes: its own, else a free one, else the least recently
used that is not FAILED (R92). -/
def Dev.entryFor (d : Dev) (lo c : Nat) : Option Nat :=
  match d.calEntry lo c with
  | some n => some n
  | none =>
    if lo < 4 then none else
    match (loEntries lo).find? fun n => !d.entryUsed n with
    | some n => some n
    | none => d.oldestEntry ((loEntries lo).filter fun n => !d.is Fld.rfsCalEntry_failed n)

/-- RFS_LO_STATUS.FAILED of an LO follows its entries (R98). -/
def Dev.loFailed (d : Dev) (lo : Nat) : Dev :=
  d.wr Fld.rfsLoStatus_failed (putBitN (d.rd Fld.rfsLoStatus_failed) lo
    ((loEntries lo).any fun n => d.is Fld.rfsCalEntry_failed n))

/-- A use of the entry of a channel (R92). -/
def Dev.entryTouch (d : Dev) (lo c : Nat) : Dev :=
  match d.calEntry lo c with
  | some n => { d with rfs := { d.rfs with lastUse := alSet n d.tmb d.rfs.lastUse } }
  | none => d

/-- The entry as a finished full calibration writes it (R90). -/
def Dev.entryWrite (d : Dev) (lo c band trim : Nat) : Dev :=
  match d.entryFor lo c with
  | none => d
  | some n =>
    let tag := if n < 34 then 0 else c
    let w := 2 ^ 31 + unsignedOf d.tempC 8 * 2 ^ 20 + (tag % 256) * 2 ^ 12 + (band % 64) * 2 ^ 6 + trim % 64
    ((d.setReg (Reg.rfsCalEntry + 4 * n) (BitVec.ofNat 32 w)).loFailed lo).entryTouch lo c

/-- One lock failure of channel `c` on an LO: LOCK_FAILS rises, and at the third FAILED is set (R90, R91). An
entry that was FAILED before stays so. Answers whether it is FAILED now. -/
def Dev.lockFailure (d : Dev) (lo c : Nat) : Dev × Bool :=
  match d.entryFor lo c with
  | none => (d, true)
  | some n =>
    let d := if d.entryUsed n then d else (d.wr Fld.rfsCalEntry_tag (if n < 34 then 0 else c) n)
    let d := if n < 34 ∨ d.rd Fld.rfsCalEntry_tag n = c then d else
      d.setReg (Reg.rfsCalEntry + 4 * n) (BitVec.ofNat 32 ((c % 256) * 2 ^ 12))
    let k := min 3 (d.rd Fld.rfsCalEntry_lockFails n + 1)
    let d := d.wr Fld.rfsCalEntry_lockFails k n
    let d := if k = 3 then d.wr Fld.rfsCalEntry_failed 1 n else d
    (d.loFailed lo, d.is Fld.rfsCalEntry_failed n)

/-! Chains and frames as RFS sees them. -/

/-- The frame committed to TX chain `n`. -/
def Dev.txOn (d : Dev) (n : Nat) : Option TxFrame := d.tx.frames.find? fun f => f.stage = .committed n

/-- TX chain `n` is IDLE and holds no committed frame. -/
def Dev.txIdle (d : Dev) (n : Nat) : Bool := d.chainState (6 + n) = 2 && (d.txOn n).isNone

/-- RX chains of a band: RXA0–RXA3 or RXS0–RXS1. -/
def bandChains (sub : Bool) : List Nat := if sub then [4, 5] else [0, 1, 2, 3]

/-- The RX chains of an LO's band that wait for it enter RECEIVE once D17 can arm their detectors (R101). -/
def Dev.bandReceive (d : Dev) (lo : Nat) : Dev :=
  if !d.domUp 17 then d
  else (bandChains (lo = 1)).foldl (fun d m =>
    if d.chainState m = 2 || d.chainState m = 4 then d.enterReceive m else d) d

/-- BUSY and PENDING of RFS_CAL_STATUS (R94). -/
def Dev.calStatus (d : Dev) : Dev :=
  let bg := d.rfs.los.any fun l => match l.cal with | some c => c.kind = .background | none => false
  (d.wr Fld.rfsCalStatus_busy (b2n (d.rfs.cmd.isSome || bg))).wr Fld.rfsCalStatus_pending (b2n d.rfs.pend.isSome)

/-! Running calibrations. -/

/-- A full calibration starts on an LO: the LO leaves its frequency, a TX chain shows CALIBRATING, and a
command calibration of LO_A or LO_B blanks the band and abandons its lanes' frames (R97, R101). -/
def Dev.calBegin (d : Dev) (lo : Nat) (c : LoCal) : Dev :=
  let d := d.setLo lo { d.lo lo with cal := some c, lock := none }
  let d := if 2 ≤ lo then d.setChainState (4 + lo) 3
    else
      let d := if (bandChains (lo = 1)).any d.receiving then d.abandonBand (lo = 1) false else d
      (bandChains (lo = 1)).foldl (fun d m => if d.receiving m then d.setChainState m 4 else d) d
  d.calStatus

/-- The next channel of the running command, and after these the next of the start-up stage, starts on an LO whose domain is
ON and whose chain is free of frames and calibrations (R54, R93). -/
def Dev.calNext (d : Dev) (lo : Nat) : Dev :=
  let l := d.lo lo
  if l.cal.isSome || !l.aborted.isEmpty || d.domSt (loDomain lo) != .on || (decide (2 ≤ lo) && !d.txIdle (lo - 2)) then d
  else
    match l.todo, l.startTodo with
    | c :: cs, _ => (d.setLo lo { l with todo := cs }).calBegin lo ⟨c, .command⟩
    | [], c :: cs => (d.setLo lo { l with startTodo := cs }).calBegin lo ⟨c, .startup⟩
    | [], [] => d

/-- Every LO goes on with what is left of the command or stage. -/
def Dev.calAdvance (d : Dev) : Dev := (List.range 6).foldl Dev.calNext d

/-- A stopped calibration restarts when its chain is IDLE; ABORTS rises (R103). -/
def Dev.calRestart (d : Dev) (n : Nat) : Dev :=
  match (d.lo (n + 2)).aborted with
  | [] => d.calNext (n + 2)
  | c :: cs =>
    if d.txIdle n && (d.lo (n + 2)).cal.isNone then
      ((d.setLo (n + 2) { d.lo (n + 2) with aborted := cs }).calBegin (n + 2) c).bump Fld.rfsCalStatus_aborts
    else d

/-- An urgent frame stops the calibration of its chain, which writes nothing (R103). -/
def Dev.calAbort (d : Dev) (n : Nat) : Dev :=
  let l := d.lo (n + 2)
  match l.cal with
  | none => d
  | some c =>
    ((d.setLo (n + 2) { l with cal := none, aborted := l.aborted ++ [c] }).setChainState (6 + n) 2).calStatus

/-- The LO still runs, or is to restart, a calibration of kind `k`. -/
def Lo.works (l : Lo) (k : CalKind) : Bool := (l.cal.toList ++ l.aborted).any fun c => c.kind = k

/-- Nothing of the running command is left on any LO (R93). -/
def Dev.calDone (d : Dev) : Bool := d.rfs.los.all fun l => l.todo.isEmpty && !l.works .command

/-- Nothing of the running start-up stage is left on any LO (R54). -/
def Dev.stageDone (d : Dev) : Bool := d.rfs.los.all fun l => l.startTodo.isEmpty && !l.works .startup

/-- After a calibration ended on an LO: its TX chain goes IDLE where no frame waits on its channel, RX chains that showed it
wait for the LO, and what was stopped or is still to be calibrated goes on (R93, R100, R103). -/
def Dev.calLeft (d : Dev) (lo : Nat) : Dev :=
  let d := d.calStatus
  if 2 ≤ lo then
    let waits := match d.txOn (lo - 2) with
      | some f => (d.lo lo).lock = some f.chan && f.g.isSome
      | none => false
    let d := if waits then d else if d.chainState (4 + lo) = 3 then d.setChainState (4 + lo) 2 else d
    d.calRestart (lo - 2)
  else
    let d := (bandChains (lo = 1)).foldl (fun d m => if d.chainState m = 4 then d.setChainState m 2 else d) d
    d.calNext lo

/-- FULL_CALIBRATION_LOCK of an LO with the band and trim it found: the entry is written and the LO is locked
(R90, R92, R101, R103). -/
def fullCalibrationLock (lo band trim : Nat) (d : Dev) : Dev :=
  match (d.lo lo).cal with
  | none => d
  | some c =>
    let d := d.setLo lo { d.lo lo with cal := none }
    let d := (d.entryWrite lo c.chan band trim).loLock lo c.chan
    let d := if lo < 2 then d.bandReceive lo else d
    d.calLeft lo

/-- FULL_CALIBRATION_LOCK (R90). -/
def execFullCalibrationLock (lo band trim : Nat) (s : State) : Host.Outcome State Fault Refusal :=
  s.run (fullCalibrationLock lo band trim)

/-- The REG allow mask in effect permits channel `c` (R173). -/
def Dev.allowed (d : Dev) (sub : Bool) (c : Nat) : Bool :=
  if sub then d.chanDefined true c && (d.regField (if c < 32 then 6 else 7) 31 0).testBit (c % 32)
  else d.chanDefined false c && (d.regField 5 15 0).testBit (c - 11)

/-- Channels that an operation over a whole LO calibrates, ascending (R54, R93). -/
def Dev.loChannels (d : Dev) (lo : Nat) : List Nat :=
  if lo < 2 then [0]
  else if lo < 4 then (List.range 16).map (· + 11)
  else (List.range 64).filter fun c => d.allowed true c

/-- Channels of an LO that OP 2 calibrates: the allowed ones (R93). -/
def Dev.loAllowed (d : Dev) (lo : Nat) : List Nat :=
  if lo < 2 then [0]
  else if lo < 4 then ((List.range 16).map (· + 11)).filter fun c => d.allowed false c
  else (List.range 64).filter fun c => d.allowed true c

/-! Stages of Table 03.13 and calibration commands (R54, R93, R105). -/

/-- A stage starts, of OP 5 (`cmd`) or of the start-up calibration: stage 2 takes LO_A and LO_B, stage 5 the TX LOs; stage 6
notes the chains that are ON. A warm start skips usable entries (R54, R93). -/
def Dev.stageBegin (d : Dev) (cmd : Bool) (stage : Nat) (skip : Bool) : Dev :=
  let load (d : Dev) (lo : Nat) : Dev :=
    let cs := (d.loChannels lo).filter fun c => !(skip && d.hopUsable lo c)
    d.setLo lo (if cmd then { d.lo lo with todo := cs } else { d.lo lo with startTodo := cs })
  let d := match stage with
    | 2 => [0, 1].foldl load d
    | 5 => [2, 3, 4, 5].foldl load d
    | 6 => { d with rfs := { d.rfs with measured := (List.range 4).filter fun n => decide (d.domSt (18 + n) = DomainState.on) } }
    | _ => d
  d.calAdvance

/-- Stage 6 writes the compensation entries of chain `n` with the measured indices (R105). -/
def Dev.stage6Write (d : Dev) (n : Nat) (g14 : List Nat) : Dev :=
  (List.range 4).foldl (fun d g =>
    d.setReg (Reg.rfsPwrCal + 4 * (4 * n + g))
      (BitVec.ofNat 32 (2 ^ 31 + unsignedOf d.tempC 8 * 256 + g14.getD (4 * n + g) 0 % 256))) d

/-- A command ends: RESULT, the votes of V18, RFS_CAL_DONE (R93, R94). -/
def Dev.calEnd (d : Dev) (result : Nat) : Dev :=
  let d := { d with rfs := { d.rfs with cmd := none } }
  ((d.wr Fld.rfsCalStatus_result result).calStatus.raise 0x37).settle

/-- A command starts (R93): an invalid channel ends it with RESULT 4, a rail that is not good with RESULT 3. -/
def Dev.calRun (d : Dev) (op lo c : Nat) : Dev :=
  let sub := decide (4 ≤ lo)
  if op = 1 && decide (2 ≤ lo) && !d.allowed sub c then d.calEnd 4
  else
    let los := if op = 5 then [0, 1, 2, 3, 4, 5] else [lo]
    let doms := los.map loDomain
    if !doms.all d.railGood then d.calEnd 3
    else
      let d := { d with rfs := { d.rfs with
        cmd := some { op := op, lo := lo, chan := c, doms := doms, stage := if op = 5 then 2 else 0 } } }
      let d := d.calStatus.settle
      if op = 5 then d.stageBegin true 2 false
      else (d.setLo lo { d.lo lo with todo := if op = 1 then [if lo < 2 then 0 else c] else d.loAllowed lo }).calAdvance

/-- OP 3 and OP 4 invalidate entries at once (R93). -/
def Dev.calInvalidate (d : Dev) (ns : List Nat) : Dev :=
  let d := ns.foldl (fun d n => d.wr Fld.rfsCalEntry_valid 0 n) d
  (d.wr Fld.rfsCalStatus_result 0).raise 0x37

/-- A write of RFS_CAL_CMD (R93). -/
def Dev.rfsCalCmd (d : Dev) (who : Initiator) (w : Word) : Dev :=
  let op := wBits w 2 0
  let lo := wBits w 6 4
  let c := wBits w 15 8
  if !d.secureOrHost who then d.refuseWrite who Reg.rfsCalCmd
  else if 6 ≤ op ∨ 6 ≤ lo then d.rejectWrite who Reg.rfsCalCmd
  else
    let d := d.rsvd who Reg.rfsCalCmd w
    match op with
    | 0 => d
    | 3 =>
      if 2 ≤ lo && !d.allowed (decide (4 ≤ lo)) c then (d.wr Fld.rfsCalStatus_result 4).raise 0x37
      else d.calInvalidate (match d.calEntry lo c with | some n => [n] | none => [])
    | 4 => d.calInvalidate (List.range 162)
    | _ =>
      if d.rfs.cmd.isNone then d.calRun op lo c
      else if d.rfs.pend.isNone then
        ({ d with rfs := { d.rfs with pend := some (op, lo, c) } }).calStatus
      else d.bump Fld.rfsCalStatus_dropped

/-- The RFS_CAL_CMD word of an operation. -/
def calWord (op lo c : Nat) : Word := BitVec.ofNat 32 ((c % 256) * 256 + (lo % 8) * 16 + op)

/-- CALIBRATE_ONE_ENTRY: OP 1 (R93). -/
def execCalibrateOneEntry (who : Initiator) (lo c : Nat) (s : State) : Host.Outcome State Fault Refusal :=
  s.run fun d => d.rfsCalCmd who (calWord 1 lo c)

/-- CALIBRATE_EVERY_ALLOWED_CHANNEL: OP 2 (R93). -/
def execCalibrateEveryAllowedChannel (who : Initiator) (lo : Nat) (s : State) : Host.Outcome State Fault Refusal :=
  s.run fun d => d.rfsCalCmd who (calWord 2 lo 0)

/-- INVALIDATE_ONE_ENTRY: OP 3 (R93). -/
def execInvalidateOneEntry (who : Initiator) (lo c : Nat) (s : State) : Host.Outcome State Fault Refusal :=
  s.run fun d => d.rfsCalCmd who (calWord 3 lo c)

/-- INVALIDATE_EVERY_ENTRY: OP 4 (R93). -/
def execInvalidateEveryEntry (who : Initiator) (s : State) : Host.Outcome State Fault Refusal :=
  s.run fun d => d.rfsCalCmd who (calWord 4 0 0)

/-- RUN_STAGES_2_TO_6: OP 5 (R93). -/
def execRunStages2To6 (who : Initiator) (s : State) : Host.Outcome State Fault Refusal :=
  s.run fun d => d.rfsCalCmd who (calWord 5 0 0)

/-- CAL_COMMAND_END: once nothing of the command is left, RESULT is set, V18's votes go and a pending command
starts (R93). -/
def calCommandEnd (d : Dev) : Dev :=
  match d.rfs.cmd with
  | none => d
  | some c =>
    if !d.calDone || (c.op = 5 && c.stage != 0) then d
    else
      match d.rfs.pend with
      | none => d.calEnd c.result
      | some (op, lo, ch) =>
        -- the pending command's votes stand before the old ones go
        let d := { d with rfs := { d.rfs with cmd := none, pend := none } }
        ((d.wr Fld.rfsCalStatus_result c.result).raise 0x37).calRun op lo ch

/-- CAL_COMMAND_END (R93). -/
def execCalCommandEnd (s : State) : Host.Outcome State Fault Refusal := s.run calCommandEnd

/-- STARTUP_CALIBRATION_STAGE_DONE with the indices that stage 6 measured, by 4 × chain + group: the stage that
runs, of the start-up calibration or of OP 5, ends and the next one starts (R54, R105). -/
def startupCalibrationStageDone (g14 : List Nat) (d : Dev) : Dev :=
  let measured (d : Dev) : Dev := d.rfs.measured.foldl (fun d n => d.stage6Write n g14) d
  let k := d.boot.calStage
  match d.rfs.cmd.filter (fun c => c.stage != 0 && d.calDone) with
  | some c =>
    if c.stage = 6 then
      { measured d with rfs := { (measured d).rfs with cmd := some { c with stage := 0 } } }
    else ({ d with rfs := { d.rfs with cmd := some { c with stage := c.stage + 1 } } }).stageBegin true (c.stage + 1) false
  | none =>
    if k = 0 ∨ 7 ≤ k ∨ !d.stageDone then d
    else if k = 6 then ({ measured d with boot := { d.boot with calStage := 7 } } : Dev).settle
    else ({ d with boot := { d.boot with calStage := k + 1 } }).stageBegin false (k + 1) (!d.boot.cold)

/-- STARTUP_CALIBRATION_STAGE_DONE (R54). -/
def execStartupCalibrationStageDone (g14 : List Nat) (s : State) : Host.Outcome State Fault Refusal :=
  s.run (startupCalibrationStageDone g14)

/-- TX_STAGE6_DONE: stage 6 for chain `n` alone completes (R105). -/
def txStage6Done (n : Nat) (g14 : List Nat) (d : Dev) : Dev :=
  if d.rfs.stage6.contains n then
    let d := d.stage6Write n g14
    ({ d with rfs := { d.rfs with stage6 := d.rfs.stage6.filter (· != n) } }).settle
  else d

/-- TX_STAGE6_DONE (R105). -/
def execTxStage6Done (n : Nat) (g14 : List Nat) (s : State) : Host.Outcome State Fault Refusal :=
  s.run (txStage6Done n g14)

/-! Background recalibration, band LOs and the sensor. -/

/-- TP3 holds a frame, committed or not, that it could commit to chain `n` and whose planned start lies within CAL_GUARD
(R96). A frame in a scheduled queue is planned at its slot or cell, a held one at its release. -/
def Dev.plannedNear (d : Dev) (n : Nat) : Bool :=
  let till := d.tmb + usTicks (d.rd Fld.rfsCalCtrl_calGuard)
  let sub := decide (2 ≤ n)
  d.tx.frames.any fun f =>
    (f.chainSel = 0 || f.chainSel = n % 2 + 1) && (match f.origin with | .ack _ => false | _ => true) &&
      (match f.stage with
        | .scheduled => f.sub = sub && decide (max f.start f.earliest ≤ till)
        | .cipher _ => f.sub = sub && decide (max f.start f.earliest ≤ till)
        | .committed _ => f.sub = sub && decide (f.plan ≤ till)
        | .retryWait t => f.sub = sub && decide (t ≤ till)
        | .slotted => d.slotPlanned f.queue sub till
        | .held => d.tempo.sends.any fun x => f.node = some x.slot && x.sub = sub && decide (x.at' ≤ till)
        | _ => false)

/-- The VALID entry of an LO that has drifted furthest, by RECAL_DT or more (R96). -/
def Dev.drifted (d : Dev) (lo : Nat) : Option Nat :=
  ((loEntries lo).filter fun n => d.is Fld.rfsCalEntry_valid n && decide (d.rd Fld.rfsCalCtrl_recalDt ≤ d.tempDrift n)).foldl
    (fun best n => match best with
      | some b => if d.tempDrift b < d.tempDrift n then some n else some b
      | none => some n) none

/-- Channel of an entry. -/
def Dev.entryChan (d : Dev) (n : Nat) : Nat :=
  if n < 2 then 0 else if n < 18 then n + 9 else if n < 34 then n - 7 else d.rd Fld.rfsCalEntry_tag n

/-- A client other than V18 votes for domain `n`. -/
def Dev.votedByOther (d : Dev) (n : Nat) : Bool :=
  (List.range 20).any fun v => v != 18 && (d.clientVotes v).testBit n

/-- BACKGROUND_RECALIBRATION_START on TX chain `n` (R96). -/
def backgroundRecalibrationStart (n : Nat) (d : Dev) : Dev :=
  let lo := n + 2
  let used := match d.rfs.cmd with | some c => c.doms.contains (loDomain lo) | none => false
  if 4 ≤ n || !d.is Fld.rfsCalCtrl_bgEn || d.chainState (6 + n) != 2 || (d.lo lo).cal.isSome || used || d.domSt (18 + n) != .on
      || !d.votedByOther (18 + n) || d.plannedNear n then d
  else
    match d.drifted lo with
    | some e => d.calBegin lo ⟨d.entryChan e, .background⟩
    | none => d

/-- BACKGROUND_RECALIBRATION_START (R96). -/
def execBackgroundRecalibrationStart (n : Nat) (s : State) : Host.Outcome State Fault Refusal :=
  s.run (backgroundRecalibrationStart n)

/-- RETUNE of LO_A (0) or LO_B (1): the flag is set and the event raised (R97). -/
def retune (lo : Nat) (d : Dev) : Dev :=
  if lo < 2 && (d.lo lo).lock.isSome then
    (d.wr Fld.rfsLoStatus_retune (setBitN (d.rd Fld.rfsLoStatus_retune) lo)).raise 0x36
  else d

/-- RETUNE (R97). -/
def execRetune (lo : Nat) (s : State) : Host.Outcome State Fault Refusal := s.run (retune lo)

/-- The band LO starts to lock when its domain is ON: from a usable entry, or by a full calibration unless its
entry is FAILED (R90, R91, R101). -/
def Dev.bandStart (d : Dev) (lo : Nat) : Dev :=
  if d.hopUsable lo 0 || d.is Fld.rfsCalEntry_failed lo || (d.lo lo).cal.isSome then d
  else d.calBegin lo ⟨0, .band⟩

/-- BAND_LO_LOCK: LO_A or LO_B locks from its entry and the band's RX chains enter RECEIVE (R97, R101). In a watch
wake the chain watches instead of receiving (R79). -/
def bandLoLock (lo : Nat) (d : Dev) : Dev :=
  let l := d.lo lo
  if 2 ≤ lo || d.domSt (loDomain lo) != .on || l.lock.isSome || l.cal.isSome || !d.is Fld.rfsCalEntry_valid lo
      || d.is Fld.rfsCalEntry_failed lo then d
  else (d.loLock lo 0).bandReceive lo

/-- BAND_LO_LOCK (R101). -/
def execBandLoLock (lo : Nat) (s : State) : Host.Outcome State Fault Refusal := s.run (bandLoLock lo)

/-- TEMP_SENSOR_UPDATE with a sample in 1/16 °C, while any of D11–D21 is on (R99). -/
def tempSensorUpdate (t : Int) (d : Dev) : Dev :=
  if (List.range 11).any fun k => d.domSt (11 + k) = .on then
    (d.wr Fld.rfsTemp_temp (unsignedOf t 16)).wr Fld.rfsTemp_valid 1
  else d

/-- TEMP_SENSOR_UPDATE (R99). -/
def execTempSensorUpdate (t : Int) (s : State) : Host.Outcome State Fault Refusal := s.run (tempSensorUpdate t)

/-! Power law (R105–R107). -/

/-- Channel group of R105. -/
def Dev.powerGroup (d : Dev) (sub : Bool) (c : Nat) : Nat :=
  if sub then min 3 (4 * (d.centre true c - (if d.region.band = 1 then 902000 else 863000)) / 26000)
  else (c - 11) / 4

/-- Compensation entry of a chain and channel. -/
def Dev.pwrEntry (d : Dev) (n : Nat) (sub : Bool) (c : Nat) : Nat := 4 * n + d.powerGroup sub c

/-- G before clamping, for target `q` and a VDD_RFHV of `mv` millivolts (R105). -/
def Dev.gainIndex (d : Dev) (n : Nat) (sub : Bool) (c : Nat) (q : Int) (mv : Nat) : Int :=
  let e := d.pwrEntry n sub c
  let kt := signedOf (d.rd Fld.rfsPwrComp_kt) 16
  let kv := signedOf (d.rd Fld.rfsPwrComp_kv) 16
  let dt := d.tempC - signedOf (d.rd Fld.rfsPwrCal_tcal e) 8
  (d.rd Fld.rfsPwrCal_g14 e : Int) + (q - 56) - roundDiv (4 * (100 * kt * dt + kv * ((mv : Int) - 1800))) 100000
    + signedOf (d.rd Fld.rfsPwrTrim_trim n) 5

/-- TRIM after a frame whose measured error is `err` hundredths of a dB: one step toward it when it exceeds
0.25 dB, within ±8 (R107). -/
def Dev.trimStep (d : Dev) (n : Nat) (err : Int) : Dev :=
  if d.is Fld.rfsPwrTrim_loopEn n then
    let t := signedOf (d.rd Fld.rfsPwrTrim_trim n) 5
    let t' := if 25 < err then t - 1 else if err < -25 then t + 1 else t
    d.wr Fld.rfsPwrTrim_trim (unsignedOf (clampInt t' (-8) 8) 5) n
  else d

end Sys2Proof.Machine
end

