-- ==== Sys2Proof/Machine/TxCore.lean ====
section
/-! DEFINITION. Transmit frames: outcomes, commit checks, power caps, coexistence decisions and security (R164,
R166–R168, R183, R218, R268, R306–R308, R109–R111, R412). -/

namespace Sys2Proof.Machine

open Sys2Proof

/-! Frames. -/

def Dev.frame (d : Dev) (id : Nat) : Option TxFrame := d.tx.frames.find? fun f => f.id = id

/-- An acknowledgement. -/
def TxFrame.isAck (f : TxFrame) : Bool := match f.origin with | .ack _ => true | _ => false

/-- A Check pattern of R220. -/
def TxFrame.isCheck (f : TxFrame) : Bool := match f.origin with | .check => true | _ => false

/-- TP3 holds the frame for its node: neither committed nor sent (R196, R218). -/
def TxFrame.waits (f : TxFrame) : Bool :=
  !f.isAck && !f.isCheck &&
    (match f.stage with
      | .committed _ => false
      | .ackWait _ => false
      | .remote => false
      | _ => true)

/-- A rising list with `n` in it. -/
def insertNat (n : Nat) : List Nat → List Nat
  | [] => [n]
  | x :: l => if n < x then n :: x :: l else if n = x then x :: l else x :: insertNat n l

/-- The pending bitmap over the frames of TP3 (R196). -/
def pendOf (fs : List TxFrame) : List Nat :=
  fs.foldl (fun l f => match f.node with | some s => if f.waits then insertNat s l else l | none => l) []

/-- TP3's frames change, and with them its pending-bitmap store (R199). -/
def Dev.setFrames (d : Dev) (fs : List TxFrame) : Dev :=
  { d with tx := { d.tx with frames := fs }, tempo := { d.tempo with pendMap := pendOf fs } }

def Dev.setFrame (d : Dev) (f : TxFrame) : Dev := d.setFrames (d.tx.frames.map fun x => if x.id = f.id then f else x)

def Dev.dropFrame (d : Dev) (id : Nat) : Dev := d.setFrames (d.tx.frames.filter fun x => x.id != id)

/-- A frame gets a number and is handed to TP3 through its input FIFO (R185). -/
def Dev.addFrame (d : Dev) (f : TxFrame) : Dev :=
  ({ d with tx := { d.tx with nextId := d.tx.nextId + 1, input := d.tx.input ++ [d.tx.nextId] } }).setFrames
    (d.tx.frames ++ [{ f with
      id := d.tx.nextId, nodeAddr := match f.node with | some s => d.cx s Cx.nodeAddr | none => 0 }])

/-- TP3 has taken its FIFO's entries up to frame `id`. -/
def Dev.takeInput (d : Dev) (id : Nat) : Dev :=
  if d.tx.input.contains id then
    { d with tx := { d.tx with input := (d.tx.input.dropWhile (· != id)).drop 1 } }
  else d

/-- TX chain `n`. -/
def Dev.txChain (d : Dev) (n : Nat) : TxChain := d.tx.chains.getD n {}
def Dev.setTxChain (d : Dev) (n : Nat) (c : TxChain) : Dev :=
  { d with tx := { d.tx with chains := putAt n c d.tx.chains } }

/-- Urgent: acknowledgements and frames into sleepy-node windows (R110, R166). -/
def TxFrame.urgent (f : TxFrame) : Bool := f.cls = 1 || (f.cls = 2 && f.phy != 3)

/-- The frame has a 16-bit FCS. -/
def TxFrame.shortFcs (f : TxFrame) : Bool := f.phy = 0 || f.fcs16

/-- The PSDU on air. -/
def TxFrame.psdu (f : TxFrame) : List Byte :=
  let m := f.out.getD f.mac
  if f.phy = 3 then [] else f.raw.getD (m ++ fcsBytes f.shortFcs m)

/-- PREAMBLE of TXP_SUN_CFG for chain `n`. -/
def Dev.sunPreamble (d : Dev) (n : Nat) : Nat :=
  if n = 2 then d.rd Fld.txpSunCfg0_preamble else if n = 3 then d.rd Fld.txpSunCfg1_preamble else 8

/-- Air time of a frame in ticks, from its first chip to its last, with a preamble of `p` octets. -/
def Dev.frameTicks (d : Dev) (f : TxFrame) (p : Nat) : Nat := d.airTicks f.phy f.mode f.psdu.length p f.fec

/-- Air time charged to duty accounting in µs: from the first chip to the end of RAMP_DOWN (R180). -/
def ticksUs (t : Nat) : Nat := (t + ticksPerUs - 1) / ticksPerUs + 4

/-- 64-byte units of the transmit hold pool that a frame takes (R292). -/
def TxFrame.units (f : TxFrame) : Nat :=
  if f.isAck || f.phy = 3 then 0 else (f.mac.length + 63) / 64

/-- Units of the hold pool in use, of 8,192. -/
def Dev.poolUsed (d : Dev) : Nat := (d.tx.frames.map TxFrame.units).sum

/-- A frame of `n` octets fits in the hold pool (R292). -/
def Dev.poolFits (d : Dev) (n : Nat) : Bool := decide (d.poolUsed + (n + 63) / 64 ≤ 8192)

/-- TP3 holds a frame for the node in slot `s`, other than frame `id` (R218). -/
def Dev.pendingFor (d : Dev) (s id : Nat) : Bool := d.tx.frames.any fun f => f.node = some s && f.id != id && f.waits

/-- TP3 works: its own pair, or TP4 in its place (R201, R202). -/
def Dev.tp3Ok (d : Dev) : Bool := (d.pairClient 3).isSome

/-! Coexistence (R108–R113). -/

/-- TX chain `n` takes part (Table 05.11). -/
def Dev.coexPart (d : Dev) (n : Nat) : Bool := decide (n < 2) || d.is Fld.coexCfg_subghz

/-- TX chains that take part. -/
def Dev.coexChains (d : Dev) : List Nat := (List.range 4).filter d.coexPart

/-- Committed frames on the chains that take part, with whether each is in LEAD or later. -/
def Dev.coexFrames (d : Dev) : List (TxFrame × Bool) :=
  d.coexChains.filterMap fun n => (d.txOn n).map fun f => (f, d.txActive n)

/-- COEX_GNT as Table 05.12 decides it, from its present level. A COEX_REQ rise with COEX_PRI low in the fabric cycle of a
normal commit counts as later than it; one with COEX_PRI high keeps the grant in either order (R110). -/
def Dev.coexDecide (d : Dev) : Bool :=
  let fs := d.coexFrames
  if !d.is Fld.coexStatus_req then false
  else if fs.isEmpty then true
  else if fs.any fun x => x.2 then false
  else if fs.any fun x => x.1.urgent then
    d.is Fld.coexStatus_pri && !d.is Fld.coexCfg_urgentWins
  else d.is Fld.coexStatus_pri || (d.is Fld.coexStatus_gnt && d.coex.reqAt != (d.tmb, d.evCycle))

/-- COEX_GNT takes a level: a rise and a fall raise their events, and the arbiter counts its grants (R113,
Table 16.1). -/
def Dev.setGnt (d : Dev) (g : Bool) : Dev :=
  let old := d.is Fld.coexStatus_gnt
  let d := d.wr Fld.coexStatus_gnt (b2n g)
  if g && !old then
    (if d.coex.role = 2 then d.bump Fld.coexStat1_extGrants else d).raise 0x2D
  else if !g && old then d.raise 0x2E
  else d

/-- COEX_REQ, COEX_PRI and COEX_ACT take levels at their balls; a rise of COEX_REQ raises its event (R113, Table 16.1). -/
def Dev.setReq (d : Dev) (req pri act : Bool) : Dev :=
  let old := d.is Fld.coexStatus_req
  let d := ((d.wr Fld.coexStatus_req (b2n req)).wr Fld.coexStatus_pri (b2n pri)).wr Fld.coexStatus_act (b2n act)
  if req && !old then
    ({ d with coex := { d.coex with reqAt := (d.tmb, d.evCycle) } } : Dev).raise 0x2F
  else d

/-- The external radio gives COEX ball `i` of COEX_STATUS a level. -/
def Dev.coexLevel (d : Dev) (i : Nat) (b : Bool) : Dev :=
  { d with pins := { d.pins with coexIn := putBitN d.pins.coexIn i b } }

/-- COEX_REQ, COEX_PRI and COEX_ACT show what the external radio drives. -/
def Dev.reqIn (d : Dev) : Dev := d.setReq (d.pins.coexIn.testBit 0) (d.pins.coexIn.testBit 1) (d.pins.coexIn.testBit 3)

/-- A client request still stands: its frame is committed, or its window has not closed (R109). -/
def Dev.reqLive (d : Dev) (r : Nat × Bool) : Bool :=
  d.tx.frames.any (fun f => f.id = r.1 && (match f.stage with | .committed _ => true | _ => false))
    || d.tempo.wins.any fun w => r.1 = 2 ^ 32 + w.slot && w.phase != .releasing

/-- The balls that the unit drives follow its role, its requests and the chains, those that it does not drive the external
radio (R109, R110, R113). Once D1 drains it leaves them as R112 sets them. -/
def Dev.coexUpdate (d : Dev) : Dev :=
  if d.domSt 1 != .on then d else
  let d := { d with coex := { d.coex with reqs := d.coex.reqs.filter d.reqLive } }
  match d.coex.role with
  | 1 =>
    let d := d.setReq (!d.coex.reqs.isEmpty) (d.coex.reqs.any fun r => r.2) (d.coexChains.any d.txActive)
    (d.wr Fld.coexStatus_intReq (b2n !d.coex.reqs.isEmpty)).setGnt (d.pins.coexIn.testBit 2)
  | 2 =>
    let d := d.reqIn
    (d.wr Fld.coexStatus_intReq (b2n !d.coexFrames.isEmpty)).setGnt d.coexDecide
  | _ => (d.reqIn.wr Fld.coexStatus_intReq 0).setGnt (d.pins.coexIn.testBit 2)

/-- A client request is raised; `pri` raises COEX_PRI with it (R109). -/
def Dev.coexAdd (d : Dev) (r : Nat) (pri : Bool) : Dev :=
  ({ d with coex := { d.coex with reqs := d.coex.reqs ++ [(r, pri)] } }).coexUpdate

/-- Request `r` ends (R109). -/
def Dev.coexDrop (d : Dev) (r : Nat) : Dev :=
  ({ d with coex := { d.coex with reqs := d.coex.reqs.filter fun x => x.1 != r } }).coexUpdate

/-! Sleepy-node registers (R223–R228). -/

/-- LNK_SLP_CFG to LNK_SLP_PEND as they stand. -/
def Dev.slpCfg (d : Dev) : List Word := (List.range 6).map fun k => d.reg (Reg.lnkSlpCfg + 4 * k)

/-- Field `f` of the registers R223–R228 as `cfg` keeps them. -/
def slpOf (cfg : List Word) (f : Field) : Nat :=
  (cfg.getD ((f.base - Reg.lnkSlpCfg) / 4) 0).toNat / 2 ^ f.lo % 2 ^ f.n

/-- Field `f` for the window of slot `s` that is open or has closed, as it was planned; without one, as it stands (R228). -/
def Dev.slpRd (d : Dev) (s : Nat) (f : Field) : Nat :=
  match d.tempo.wins.find? fun w => w.slot = s && (w.phase = .opened || w.phase = .releasing) with
  | some w => slpOf w.cfg f
  | none => d.rd f

/-! Outcomes. -/

/-- Slot `s` still holds node `a` (R241). -/
def Dev.nodeIn (d : Dev) (s a : Nat) : Bool := d.domUp 22 && d.slotValid s && d.cx s Cx.nodeAddr = a

/-- TX_FAILS of the node of a frame rises (R247, R307). -/
def Dev.nodeTxFailOf (d : Dev) (f : TxFrame) : Dev :=
  match f.node with
  | some s => if d.nodeIn s f.nodeAddr then (d.cxBump s Cx.txFails).cxTouch s else d
  | none => d

/-- FC_OUT of node `a` in slot `s` rises by 1 at the commit of a secured acknowledgement (R196, R198). -/
def Dev.ackCounter (d : Dev) (s a : Nat) : Dev :=
  if d.nodeIn s a && decide (d.cx s Cx.fcOut < 0xFFFFFFFF) then (d.setCx s Cx.fcOut (d.cx s Cx.fcOut + 1)).cxTouch s else d

/-- RESULT0–RESULT3 of TX_FRAME (R307). -/
def TxFrame.results (f : TxFrame) (acked : Bool) : List Nat :=
  [f.firstChip % 2 ^ 32, f.firstChip / 2 ^ 32, f.attempts + 32 * b2n acked, f.fc.getD 0]

/-- The wait after a Check pattern of the node in slot `s` starts; the attempt counts (R220). -/
def Dev.checkDone (d : Dev) (s : Nat) (sent : Bool) (last : Nat) : Dev :=
  let counter := if sent then Fld.lnkSlpStat2_checkSent else Fld.lnkSlpStat4_checkRefused
  let d := d.bump counter
  let d := if d.domUp 22 && d.slotValid s && d.cx s Cx.gPhase = 3 then
      (d.setCx s Cx.gCount (d.cx s Cx.gCount + 1)).cxTouch s
    else d
  { d with tempo := { d.tempo with checks := d.tempo.checks.map fun (c : CheckRun) =>
      if c.slot = s then
        { c with due := none, wait := some (last + usTicks (1000 * slpOf c.cfg Fld.lnkSlpLost_checkWait)) }
      else c } }

/-- A frame reaches its final outcome: a host command completes, a relay counts, a federation TRANSMIT is
answered, a telegram's wait starts (R247, R264, R307). Acknowledgements end without a completion. -/
def Dev.txEnd (d : Dev) (f : TxFrame) (status : Nat) (acked : Bool) : Dev :=
  let d := d.dropFrame f.id
  let ok := status = Code.ok
  let st := if ok && f.capped then Code.powerCapped else status
  match f.origin with
  | .host c =>
    let d := if ok then d else d.nodeTxFailOf f
    d.finishId c st (f.results acked)
  | .relay => if ok then d else (d.nodeTxFailOf f).bump Fld.ndtStat0_relayFail
  | .ack _ => d
  | .check =>
    match f.node with
    | some s =>
      d.checkDone s (ok || status = Code.maskViolation) (if f.attempts = 0 then d.tmb else f.firstChip + usTicks 13000)
    | none => d
  | .transmit m => d.fedForward m (.result f.wake f.start st)

/-- The reservation of a frame is released (R180). -/
def Dev.txRelease (d : Dev) (f : TxFrame) : Dev :=
  match f.duty with
  | some (e, a) => d.dutyRelease e f.sub f.chan a
  | none => d

/-- A frame leaves its chain before its first chip: the hop ends and the chain is IDLE; a full calibration that
served as its hop runs on (R103). Its coexistence request ends. -/
def Dev.txLeave (d : Dev) (f : TxFrame) : Dev :=
  let d := d.txRelease f
  let d := match f.stage with
    | .committed n => if d.chainState (6 + n) = 3 && (d.lo (n + 2)).cal.isSome then d else d.setChainState (6 + n) 2
    | _ => d
  { d with coex := { d.coex with reqs := d.coex.reqs.filter fun x => x.1 != f.id } }

/-- What a chain does once its frame is gone: coexistence, a stopped calibration, a waiting one (R103, R109). -/
def Dev.chainFreed (d : Dev) (f : TxFrame) : Dev :=
  match f.stage with
  | .committed n => (d.coexUpdate.calRestart n).settle
  | _ => d.coexUpdate.settle

/-- A frame for a sleepy node failed in its window: it stays held, or completes once its retries are used up
(R218). The remaining frames of the window are not sent. -/
def Dev.sleepyFail (d : Dev) (f : TxFrame) (status : Nat) : Dev :=
  let d := match f.node with
    | some s => { d with tempo := { d.tempo with sends := d.tempo.sends.filter fun x => x.slot != s } }
    | none => d
  if f.tries < f.retries then
    d.setFrame { f with stage := .held, tries := f.tries + 1, duty := none, listen := none, g := none, start := 0 }
  else d.txEnd f status false

/-- Held frames of slot `s` may be sent: its PHASE is TRACK, or it has no schedule and so no phase (R213, R218). -/
def Dev.releases (d : Dev) (s : Nat) : Bool := d.cx s Cx.gPhase = 1 || d.cx s Cx.schedPeriod = 0

/-- After a held frame was sent, the next one follows PEND_DELAY after `at'`, up to PEND_MAX in a window
(R218). -/
def Dev.pendNext (d : Dev) (s at' : Nat) : Dev :=
  let more := d.pendingFor s 0xFFFFFFFF
  let next (x : PendSend) : Option PendSend :=
    if x.slot = s then
      if more ∧ x.sent + 1 < d.slpRd s Fld.lnkSlpPend_pendMax then
        some { x with sent := x.sent + 1, at' := at' + usTicks (d.slpRd s Fld.lnkSlpPend_pendDelay) }
      else none
    else some x
  { d with tempo := { d.tempo with sends := d.tempo.sends.filterMap next } }

/-- A frame that was to be sent is refused: `keep` for a refusal under R166, which leaves a sleepy node's frame
held (R218). -/
def Dev.txRefuse (d : Dev) (f : TxFrame) (status : Nat) (keep : Bool) : Dev :=
  let d := d.txLeave f
  let d := if keep && f.sleepy then d.sleepyFail f status else d.txEnd f status false
  d.chainFreed f

/-- A frame that is too late for its start: TX_LATE_LOCK, or ACK_LATE for an acknowledgement (R103, R448). -/
def Dev.txLate (d : Dev) (f : TxFrame) : Dev :=
  let d := if f.isAck then d.bump Fld.lnkStat3_ackLate else d
  d.txRefuse f Code.txLateLock false

/-- An acknowledgement that gets no chain (R16). -/
def Dev.ackNoChain (d : Dev) (f : TxFrame) : Dev :=
  (d.bump Fld.lnkStat4_ackNoChain).txRefuse f Code.txLateLock false

/-- A frame stopped by coexistence before it is sent (R109). -/
def Dev.coexDeny (d : Dev) (f : TxFrame) : Dev :=
  let d := d.bump (if f.isAck then Fld.coexStat0_ackDenied else Fld.coexStat0_denied)
  d.txRefuse f Code.coexDenied false

/-- Urgent frames not yet in LEAD give way to a grant under URGENT_WINS = 0 (Table 05.12). -/
def Dev.coexYield (d : Dev) : Dev :=
  if d.domSt 1 = .on && d.coex.role = 2 && d.is Fld.coexStatus_gnt && d.is Fld.coexStatus_pri && !d.is Fld.coexCfg_urgentWins then
    d.coexFrames.foldl (fun d x => if x.1.urgent && !x.2 then d.coexDeny x.1 else d) d
  else d

/-! Power cap and commit checks (R166–R168). -/

/-- The chain-ball target and whether the power was limited (R168). -/
def Dev.powerCap (d : Dev) (f : TxFrame) : Int × Bool :=
  let w := 3 + b2n f.sub
  let cap := signedOf (d.regField w 8 0) 9 - (d.regField w 22 16 : Int)
  let gain := signedOf (d.regField (8 + b2n f.sub) (8 * f.profile + 7) (8 * f.profile)) 8
  let q := clampInt (min f.power cap - gain) (-80) 56
  (q, q + gain != f.power)

/-- Step 1 of Table 08.1. -/
def Dev.bandPermitted (d : Dev) (sub : Bool) : Bool :=
  (d.is Fld.regStatus_sealed || d.is Fld.regStatus_mfgOpen)
    && !d.is (if sub then Fld.regStatus_locks else Fld.regStatus_lock24) && d.bandEnabled (b2n sub)

/-- The first check of Table 08.1 that fails for a frame on chain `n` charged `a` µs: its status and counter. -/
def Dev.commitCheck (d : Dev) (f : TxFrame) (n a : Nat) : Option (Nat × Field) :=
  if !d.bandPermitted f.sub then some (Code.channelLocked, Fld.regStat2_lockRefused)
  else if d.is Fld.txpMaskStatus_blocked n then some (Code.maskViolation, Fld.regStat2_lockRefused)
  else if !d.allowed f.sub f.chan then some (Code.channelLocked, Fld.regStat2_lockRefused)
  else if !d.dwellOk f.sub f.chan a then some (Code.dwellExceeded, Fld.regStat2_dwellRefused)
  else
    match d.dutyEntry f.sub f.chan with
    | some e =>
      if d.dutyOk e a f.urgent then none
      else some (Code.dutyExceeded, if f.urgent then Fld.regStat0_ackDuty else Fld.regStat0_dutyRefused)
    | none => none

/-! Listen before transmit (R183). -/

/-- The frame listens before it is sent. -/
def Dev.listens (d : Dev) (f : TxFrame) : Bool :=
  match d.dutyEntry f.sub f.chan with
  | some e => d.regField (14 + 2 * e) 2 2 = 1 && !(f.isAck && d.regField 1 2 2 = 1)
  | none => false

/-- RAND_MAX and LISTEN_US of a band. -/
def Dev.randMax (d : Dev) (sub : Bool) : Nat := d.regField (10 + b2n sub) 31 20
def Dev.listenUs (d : Dev) (sub : Bool) : Nat := d.regField (10 + b2n sub) 19 8

/-- The longest listen in µs that RAND_MAX allows: L of R188. -/
def Dev.listenMax (d : Dev) (sub : Bool) : Nat := max 16 (d.listenUs sub + 16 * d.randMax sub)

/-- One listen in µs; its random part is a free value. -/
def Dev.drawListen (d : Dev) (sub : Bool) : Nat × Dev :=
  let r := d.free 12
  (max 16 (d.listenUs sub + 16 * (r.1 % (d.randMax sub + 1))), r.2)

/-- The domains of a listen are ON (R183). -/
def Dev.listenReady (d : Dev) (sub : Bool) : Bool := d.domUp 17 && d.domUp (if sub then 15 else 11)

/-! Security of outgoing frames (R308, R246, R412). -/

/-- The frame is submitted to the cipher array: FC_OUT of its node is written into it and rises by 1 on the first
submission; a counter of 0xFFFF_FFFF sends nothing (R308). Without an auxiliary security header the status is a
free value: the rule names none. -/
def Dev.secureFrame (d : Dev) (f : TxFrame) : Dev :=
  match f.node, readMhrPlain f.mac with
  | some s, some h =>
    if !h.secured then let r := d.freeOf failureCodes; r.2.txEnd f r.1 false
    else
      let fc := f.fc.getD (d.cx s Cx.fcOut)
      if f.fc.isNone && fc = 0xFFFFFFFF then d.txEnd f Code.counterUnknown false
      else
        let d := if f.fc.isNone then (d.setCx s Cx.fcOut (fc + 1)).cxTouch s else d
        let mac := patch f.mac h.fcAt (natLe 4 fc)
        let f := { f with fc := some fc, mac := mac, out := none }
        if h.level = 0 then d.setFrame { f with stage := .scheduled }
        else
          let x := ccmSplit h mac
          let r : CipherReq := {
            id := 0, origin := (match f.origin with | .relay => .forwarding | _ => .tempo 3), mode := 4, dec := false
            cls := 1, byNode := true, node := d.cx s Cx.nodeAddr, aLen := x.1.length, mLen := x.2.length
            tagLen := micLen h.level, nonceLen := 13, direct := some (ccmNonce f.nonceSrc fc h.level, x.1, x.2, []) }
          let q := d.cphRequest r
          (q.1.setFrame { f with stage := .cipher q.2 }).settle
  | _, _ => let r := d.freeOf failureCodes; r.2.txEnd f r.1 false

/-- The cipher request of a frame has ended: the frame carries its MIC, or ends with the status (R247, R401). -/
def Dev.cipherEnd (d : Dev) (f : TxFrame) (req status : Nat) (out : List Byte) : Dev :=
  let d := d.dropResult req
  if status = Code.ok then
    match readMhrPlain f.mac with
    | some h => d.setFrame { f with out := some ((ccmSplit h f.mac).1 ++ out), stage := .scheduled }
    | none => d.setFrame { f with stage := .scheduled }
  else d.txEnd f status false

end Sys2Proof.Machine
end

