-- ==== Sys2Proof/Machine/Tx.lean ====
section
/-! DEFINITION. TP3's commits, hops, LEAD, air and RAMP_DOWN, the mask monitor, listens, acknowledgement waits and
coexistence commands (R16, R17, R101–R113, R164–R172, R180–R186, R306, R448). -/

namespace Sys2Proof.Machine

open Sys2Proof

/-! Choice of a chain (R16, R186, R448). -/

/-- TX chains of a frame's band that its CHAIN argument permits, lower index first. -/
def TxFrame.chains (f : TxFrame) : List Nat :=
  let b := if f.sub then 2 else 0
  match f.chainSel with
  | 1 => [b]
  | 2 => [b + 1]
  | _ => [b, b + 1]

def Dev.chainOn (d : Dev) (n : Nat) : Bool := d.domSt (18 + n) = .on
def Dev.chainBlocked (d : Dev) (n : Nat) : Bool := d.is Fld.txpMaskStatus_blocked n

/-- A chain is free (R448). -/
def Dev.chainFree (d : Dev) (n : Nat) : Bool := d.chainOn n && !d.chainBlocked n && (d.txOn n).isNone

/-- A chain that a frame of class `cls` may take: its frame is of a later class and not yet in LEAD (R16,
R186). -/
def Dev.chainTakeable (d : Dev) (cls n : Nat) : Bool :=
  d.chainOn n && !d.chainBlocked n && !d.txActive n &&
    (match d.txOn n with
      | some g => decide (cls < g.cls)
      | none => false)

/-- TX_LEAD in ticks (R102). -/
def Dev.leadTicks (d : Dev) : Nat := usTicks (d.rd Fld.rfsTxLead_leadUs)

/-- Ticks of the hop that a frame on chain `n` needs (R103). -/
def Dev.hopTicks (d : Dev) (f : TxFrame) (n : Nat) : Nat :=
  if (d.lo (n + 2)).lock = some f.chan then 0
  else if d.hopUsable (n + 2) f.chan then usTicks 12 else usTicks 90

/-- From the start of a transition to the first chip, after a hop from a usable entry. -/
def Dev.txPre (d : Dev) : Nat := d.leadTicks + usTicks 12

/-- The planned start of a frame that is not committed: its fixed start, or the earliest that it can have (R186). -/
def Dev.txStart (d : Dev) (f : TxFrame) : Nat := if f.start = 0 then max (d.tmb + d.txPre) f.earliest else f.start

/-- When a frame would hold a chain: from its transition to the end of RAMP_DOWN. -/
def Dev.txSpan (d : Dev) (f : TxFrame) : Nat × Nat :=
  (d.txStart f - d.txPre, d.txStart f + d.frameTicks f 8 + usTicks 4)

/-- TP3 serves frame `g` before frame `f`: class, planned start, queue index (R186). -/
def Dev.servedBefore (d : Dev) (g f : TxFrame) : Bool :=
  decide (g.cls < f.cls) || (g.cls = f.cls &&
    (decide (d.txStart g < d.txStart f) || (d.txStart g = d.txStart f &&
      (decide (g.queue < f.queue) || (g.queue = f.queue && decide (g.id < f.id))))))

/-- Frames that wait for a chain of frame `f` at overlapping times and come before it. -/
def Dev.rivals (d : Dev) (f : TxFrame) : List TxFrame :=
  d.tx.frames.filter fun g =>
    g.stage = .scheduled && g.sub = f.sub && g.chains.any f.chains.contains && d.servedBefore g f
      && decide ((d.txSpan g).1 < (d.txSpan f).2) && decide ((d.txSpan f).1 < (d.txSpan g).2)

/-- Frame `f` waits on: where a frame of an earlier class comes before it, waiting or on a chain, it is deferred, and counted
once in TX_DEFERRED (R186). -/
def Dev.holdBack (d : Dev) (f : TxFrame) : Dev :=
  let earlier := (d.rivals f).any (fun g => decide (g.cls < f.cls)) || f.chains.any fun n =>
    match d.txOn n with
    | some g => decide (g.cls < f.cls)
    | none => false
  if earlier && !f.deferred then (d.setFrame { f with deferred := true }).bump Fld.lnkStat4_txDeferred else d

/-- The frame on a taken chain goes back to TP3's schedule; its reservation is released (R16, R186). -/
def Dev.txDefer (d : Dev) (n : Nat) : Dev :=
  match d.txOn n with
  | some g =>
    let d := d.txLeave g
    (d.setFrame { g with stage := .scheduled, duty := none, listen := none, g := none, deferred := true }).bump
      Fld.lnkStat4_txDeferred
  | none => d

/-! Commit. -/

/-- The plan of a frame on chain `n` with a listen of `l` ticks: first chip and whether it can be met (R103, R183,
R448). The transition of a frame with a fixed start may begin late; its LEAD may not, nor may its listen. -/
def Dev.txPlan (d : Dev) (f : TxFrame) (n : Nat) (l : Nat) : Nat × Bool :=
  let lead := d.leadTicks
  let hop := d.hopTicks f n
  let from' := if l ≠ 0 ∧ ¬ d.listenReady f.sub then d.tmb + usTicks 130 else d.tmb
  if f.start = 0 then
    (max (from' + l + hop + lead) f.earliest, true)
  else
    (f.start, decide (d.tmb + lead ≤ f.start) && (l = 0 || decide (from' + l + hop + lead ≤ f.start)))

/-- L of R188 in ticks for an acknowledgement; the Blitz deadline of Table 09.2 has no L. -/
def Dev.ackListen (d : Dev) (f : TxFrame) : Nat := if f.phy != 1 && d.listens f then usTicks (d.listenMax f.sub) else 0

/-- The latest commit of an acknowledgement (S5 deadline of Table 09.2) has not passed (R189). -/
def Dev.ackInTime (d : Dev) (f : TxFrame) : Bool := decide (d.tmb + d.txPre + d.ackListen f ≤ f.start)

/-- A frame that passed the checks is committed to chain `n` (R103, R180, R183, R196). An urgent frame stops a
calibration of the chain. -/
def Dev.commitTo (d : Dev) (f : TxFrame) (n a : Nat) : Dev :=
  let e := d.dutyEntry f.sub f.chan
  let x := if d.listens f then let r := d.drawListen f.sub; (some r.1, r.2) else (none, d)
  let d := x.2
  let plan := d.txPlan f n (match x.1 with | some us => usTicks us | none => 0)
  if !plan.2 then d.txLate f
  else
    let d := d.dutyReserve e f.sub f.chan a
    let p := d.powerCap f
    let d := if f.urgent then d.calAbort n else d
    let retries := if f.isAck then 0 else d.regField 1 7 4
    let d := d.setFrame { f with
      stage := .committed n, plan := plan.1, duty := some (e, a), listen := x.1, listens := retries
      q := p.1, capped := f.capped || p.2, dom := none, deferred := false
      sync := if f.phy = 1 then d.rd Fld.rxwBlitzSync_sync else 0 }
    let d := match f.node, f.fc with
      | some s, some _ => if f.isAck then d.ackCounter s f.nodeAddr else d
      | _, _ => d
    d.coexUpdate.coexYield.settle

/-- A beacon whose superframe order is below 15: it is never sent (R141). -/
def TxFrame.badBeacon (f : TxFrame) : Bool :=
  f.phy != 3 && macType f.mac = 0 && (match readMhrPlain f.mac with
    | some h => decide (h.version ≤ 1) && decide (h.len + 2 ≤ f.mac.length) && leAt f.mac h.len 1 / 16 < 15
    | none => false)

/-- The commit checks of Table 08.1, with the transmit gate and the Blitz rules before them (R155, R166, R184,
R268). -/
def Dev.commitChecks (d : Dev) (f : TxFrame) (n : Nat) : Dev :=
  let sync := d.rd Fld.rxwBlitzSync_sync
  if f.badBeacon then let r := d.freeOf failureCodes; r.2.txRefuse f r.1 false
  else if f.phy = 1 ∧ (¬ d.domUp 17 ∨ sync = 0) then d.txRefuse f Code.phyUnavailable false
  else
    let a := dutyCharge (ticksUs (d.frameTicks f (d.sunPreamble n)))
    match d.commitCheck f n a with
    | some (c, counter) => (d.bump counter).txRefuse f c true
    | none => d.commitTo f n a

/-- A frame takes chain `n` from the frame that holds it. If it is then refused, the chain is IDLE, and what waits for it goes
on (R16, R103). -/
def Dev.commitTaking (d : Dev) (f : TxFrame) (n : Nat) : Dev :=
  let d := (d.txDefer n).commitChecks f n
  if (d.txOn n).isNone then d.calRestart n else d

/-- The other member that hears the node in slot `s` (R20). -/
def Dev.heardBy (d : Dev) (s : Nat) : Option Nat :=
  if d.domUp 22 && d.slotValid s && d.rteValid s && d.rteMember s ≠ d.member then some (d.rteMember s) else none

/-- The member that hears the node of a host frame or relay, where that is another one (R20, R218). -/
def Dev.remoteFor (d : Dev) (f : TxFrame) : Option Nat :=
  let own := match f.origin with | .host _ => true | .relay => true | _ => false
  match f.node with
  | some s => if own then d.heardBy s else none
  | none => none

/-- A frame is sent to member `m`, which transmits it unchanged at START; for a frame without a fixed start the spec
gives no START: a free one within 10 s (R20, R264). It waits for its RESULT. -/
def Dev.sendRemote (d : Dev) (f : TxFrame) (m : Nat) : Dev :=
  if !d.fedOn then (d.bump Fld.fedStat2_fwdDrop).txEnd f Code.domainOff false
  else if d.memberGone m then (d.bump Fld.fedStat2_fwdDrop).txEnd f Code.peerAbsent false
  else
    let r := if f.start = 0 then let x := d.free 28; (d.tmb + 1 + x.1, x.2) else (f.start, d)
    let node := match f.node with | some s => d.cx s Cx.nodeAddr | none => 0
    let d := r.2.setFrame { f with stage := .remote, start := r.1 }
    d.fedForward m (.transmit node r.1 f.power f.profile f.phy f.sub f.chan f.mode f.psdu)

/-- TP3 holds back a frame of a node whose slot is damaged, or whose migration away is under way (R252, R280). -/
def Dev.nodeHeld (d : Dev) (f : TxFrame) : Bool :=
  match f.node with
  | some s => !f.isAck && (d.damagedSlot s || d.fed.migrations.any fun m => m.source && m.slot = s)
  | none => false

/-- TP3 takes up a scheduled frame (R16, R166, R186, R268, R448). -/
def Dev.commitFrame (d : Dev) (f : TxFrame) : Dev :=
  if d.nodeHeld f then d
  else if d.gate.isOpen && (d.remoteFor f).isSome then d.sendRemote f ((d.remoteFor f).getD 0)
  else if !d.tp3Ok then
    if f.isAck then d.ackNoChain f else d.txRefuse f Code.resourceRetired false
  else if !d.gate.isOpen then
    let d := if f.urgent || f.isCheck then d.bump Fld.lnkStat6_txGated else d
    d.txRefuse f Code.txGated false
  else if d.commitWaits f.sub then d.startReload ((commitWords f.sub).filter d.damaged)
  else if f.isAck && !d.ackInTime f then d.txLate f
  else if f.chains.all d.chainBlocked && !f.isAck then d.commitChecks f (f.chains.headD 0)
  else if !f.chains.any (fun n => d.chainOn n && !d.chainBlocked n) then
    let n := (f.chains.find? fun n => !d.chainOn n && !d.chainBlocked n).getD (f.chains.headD 0)
    (d.setFrame { f with dom := some (18 + n) }).settle
  else
    let free := f.chains.filter d.chainFree
    match free with
    | n :: _ => if free.length ≤ (d.rivals f).length then d.holdBack f else d.commitChecks f n
    | [] =>
      match f.chains.find? (d.chainTakeable f.cls) with
      | some n => d.commitTaking f n
      | none => if f.isAck then d.ackNoChain f else d.holdBack f

/-- TP3_COMMIT of frame `id`: a frame whose MIC is ready is scheduled first; a scheduled frame is committed, refused or
left waiting (R448). -/
def tp3Commit (id : Nat) (d : Dev) : Dev :=
  let d := d.takeInput id
  match d.frame id with
  | none => d
  | some f =>
    match f.stage with
    | .cipher req =>
      match d.cphResult req with
      | none => d
      | some (st, out) =>
        let d := d.cipherEnd f req st out
        match d.frame id with
        | some f => d.commitFrame f
        | none => d
    | .scheduled => d.commitFrame f
    | _ => d

/-- TP3_COMMIT (R448). -/
def execTp3Commit (id : Nat) (s : State) : Host.Outcome State Fault Refusal := s.run (tp3Commit id)

/-! Hop and lock. -/

/-- The frame's gain index is sampled at VDD_RFHV = `mv` mV (R105); a valid compensation entry is needed. -/
def Dev.powerSample (d : Dev) (f : TxFrame) (n mv : Nat) : TxFrame :=
  if d.is Fld.rfsPwrCal_valid (d.pwrEntry n f.sub f.chan) then
    let g := d.gainIndex n f.sub f.chan f.q mv
    { f with g := some (clampInt g 0 255).toNat, capped := f.capped || decide (g < 0) || decide (255 < g) }
  else f

/-- The RX-to-TX transition starts: the channel's detectors are blanked (R17). -/
def Dev.blankOn (d : Dev) (n : Nat) (f : TxFrame) : Dev :=
  let b := (n, chanKey f.sub f.chan)
  if d.rxw.txBlank.contains b then d else { d with rxw := { d.rxw with txBlank := b :: d.rxw.txBlank } }

/-- TX_HOP_START on chain `n`, VDD_RFHV at `mv` mV: the hop starts from a usable entry or as a full calibration; a
calibration of the frame's own channel is its hop, one of another channel runs on (R103, R105). -/
def txHopStart (n mv : Nat) (d : Dev) : Dev :=
  match d.txOn n with
  | none => d
  | some f =>
    let lo := n + 2
    let l := d.lo lo
    if f.listen.isSome || d.txActive n || d.chainState (6 + n) = 4 || l.lock = some f.chan then d
    else
      match l.cal with
      | some c =>
        if c.chan = f.chan then (d.setFrame (d.powerSample f n mv)).blankOn n f else d
      | none =>
        let d := (d.setFrame (d.powerSample f n mv)).blankOn n f
        if d.hopUsable lo f.chan then
          ((d.loUnlock lo).setChainState (6 + n) 4).entryTouch lo f.chan
        else d.calBegin lo ⟨f.chan, .hop⟩

/-- TX_HOP_START (R103). -/
def execTxHopStart (n mv : Nat) (s : State) : Host.Outcome State Fault Refusal := s.run (txHopStart n mv)

/-- TX_LOCK: the LO of chain `n` locks on its frame's channel in HOP (R101). -/
def txLock (n : Nat) (d : Dev) : Dev :=
  match d.txOn n with
  | some f => if d.chainState (6 + n) = 4 then d.loLock (n + 2) f.chan else d
  | none => d

/-- TX_LOCK (R101). -/
def execTxLock (n : Nat) (s : State) : Host.Outcome State Fault Refusal := s.run (txLock n)

/-- HOP_LOCK_FAILURE: a restored entry did not lock in 12 µs; it counts as a lock failure and the hop goes on as a
full calibration (R90). -/
def hopLockFailure (n : Nat) (d : Dev) : Dev :=
  match d.txOn n with
  | some f =>
    if d.chainState (6 + n) = 4 && (d.lo (n + 2)).lock.isNone then
      (d.lockFailure (n + 2) f.chan).1.calBegin (n + 2) ⟨f.chan, .hop⟩
    else d
  | none => d

/-- HOP_LOCK_FAILURE (R90). -/
def execHopLockFailure (n : Nat) (s : State) : Host.Outcome State Fault Refusal := s.run (hopLockFailure n)

/-- FULL_CALIBRATION_FAIL of an LO: LOCK_FAILS rises and the calibration is retried, until its entry is FAILED. Then
it ends: a command notes LOCK_FAIL, and the frame that hopped with it ends with SYNTH_FAIL (R91). -/
def fullCalibrationFail (lo : Nat) (d : Dev) : Dev :=
  match (d.lo lo).cal with
  | none => d
  | some c =>
    let x := d.lockFailure lo c.chan
    if !x.2 then x.1
    else
      let d := x.1.setLo lo { x.1.lo lo with cal := none }
      let d := match d.rfs.cmd with
        | some k => if c.kind = CalKind.command then { d with rfs := { d.rfs with cmd := some { k with result := 1 } } } else d
        | none => d
      let d := d.calLeft lo
      if 2 ≤ lo then
        match d.txOn (lo - 2) with
        | some f =>
          if c.chan = f.chan && !d.txActive (lo - 2) then
            (if f.isAck then d.bump Fld.lnkStat3_ackLate else d).txRefuse f Code.synthFail false
          else d
        | none => d
      else d

/-- FULL_CALIBRATION_FAIL (R91). -/
def execFullCalibrationFail (lo : Nat) (s : State) : Host.Outcome State Fault Refusal := s.run (fullCalibrationFail lo)

/-- The LO of the frame's chain is locked for it, its gain index is known and its listen has ended. -/
def Dev.txReady (d : Dev) (f : TxFrame) (n : Nat) : Bool :=
  (d.lo (n + 2)).lock = some f.chan && (d.lo (n + 2)).cal.isNone && f.listen.isNone &&
    (f.g.isSome || d.is Fld.rfsPwrCal_valid (d.pwrEntry n f.sub f.chan))

/-- TX_LOCK_DEADLINE of frame `id`: a committed frame that is not ready, or a scheduled frame with a fixed start, is too
late (R103, R105, R448). An acknowledgement that waited for a chain's domain is counted in ACK_NO_CHAIN. -/
def txLockDeadline (id : Nat) (d : Dev) : Dev :=
  match d.frame id with
  | none => d
  | some f =>
    match f.stage with
    | .committed n => if d.txActive n || d.txReady f n then d else d.txLate f
    | .scheduled =>
      if f.start = 0 then d
      else if f.isAck && f.dom.isSome then d.ackNoChain f
      else d.txLate f
    | _ => d

/-- TX_LOCK_DEADLINE (R103). -/
def execTxLockDeadline (id : Nat) (s : State) : Host.Outcome State Fault Refusal := s.run (txLockDeadline id)

/-! LEAD, air, RAMP_DOWN. -/

/-- The grant check at start − TX_LEAD (R109, R110): the frame may be sent. `gnt` is COEX_GNT in the client role. -/
def Dev.coexMay (d : Dev) (f : TxFrame) (n : Nat) (gnt : Bool) : Bool :=
  if !d.coexPart n then true
  else
    match d.coex.role with
    | 1 => gnt
    | 2 => f.urgent || !(d.is Fld.coexStatus_req && d.is Fld.coexStatus_gnt)
    | _ => true

/-- The chain enters LEAD: the FEMC transmit pattern applies, the SUN-FSK preamble is taken (R101, R147, R165). -/
def Dev.enterLead (d : Dev) (f : TxFrame) (n : Nat) : Dev :=
  let latch := (d.rd Fld.txpFemcOwn_own n, d.rd Fld.txpFemcOwn_txen n, d.rd Fld.txpFemcIdle_idle n,
    (d.reg (Reg.txpFemcPat + 16 * n + 4 * f.profile)).toNat % 65536)
  let d := d.setTxChain n { d.txChain n with latch := some latch, preamble := d.sunPreamble n, near := false }
  ((d.setChainState (6 + n) 5).entryTouch (n + 2) f.chan).coexUpdate.raise (0x20 + n)

/-- TX_LEAD_START on chain `n`, with COEX_GNT and VDD_RFHV at this instant: the frame enters LEAD, or is denied
(R101, R105, R109, R110). -/
def txLeadStart (n : Nat) (gnt : Bool) (mv : Nat) (d : Dev) : Dev :=
  match d.txOn n with
  | none => d
  | some f =>
    if d.txActive n || !d.txReady f n then d
    else
      let f := if f.g.isNone then d.powerSample f n mv else f
      let d := (d.setFrame f).blankOn n f
      let d := (d.coexLevel 2 gnt).coexUpdate
      if d.coexMay f n gnt then d.enterLead f n else d.coexDeny f

/-- TX_LEAD_START (R101). -/
def execTxLeadStart (n : Nat) (gnt : Bool) (mv : Nat) (s : State) : Host.Outcome State Fault Refusal :=
  s.run (txLeadStart n gnt mv)

/-- The bits of a frame in the order of the air, with a SUN-FSK preamble of `p` octets (R142, R145, R151). -/
def TxFrame.bits (f : TxFrame) (p : Nat) : List Bool :=
  match f.phy with
  | 0 => oqpskBits f.psdu
  | 1 => blitzBits f.sync f.fec f.fcs16 f.psdu
  | _ => sunBits p f.fec f.fcs16 f.whiten f.psdu

/-- What leaves chain `n`: a frame, or a telegram with its envelope (R156, R157, R164). -/
def Dev.output (d : Dev) (f : TxFrame) (n : Nat) : Output :=
  if f.phy = 3 then
    let cs := telegram f.wake
    .telegram n f.sub f.chan (f.g.getD 0) cs (chipEdges false cs) (d.activeTable n 2)
  else .air n f.sub f.chan f.phy (f.g.getD 0) f.psdu (f.bits (d.txChain n).preamble)

/-- TX_FIRST_CHIP: the chain is ON_AIR (R101). -/
def txFirstChip (n : Nat) (d : Dev) : Dev :=
  match d.txOn n with
  | none => d
  | some f =>
    if d.chainState (6 + n) ≠ 5 then d
    else
      let d := d.setFrame { f with onAir := true, firstChip := f.plan, attempts := f.attempts + 1 }
      let d := ((d.setChainState (6 + n) 6).emit (d.output f n)).raise (0x24 + n)
      if f.isAck then d.raise 0x40 else d

/-- TX_FIRST_CHIP (R101). -/
def execTxFirstChip (n : Nat) (s : State) : Host.Outcome State Fault Refusal := s.run (txFirstChip n)

/-- TX_LAST_CHIP: the chain enters RAMP_DOWN (R101). -/
def txLastChip (n : Nat) (d : Dev) : Dev :=
  if d.chainState (6 + n) = 6 then d.setChainState (6 + n) 7 else d

/-- TX_LAST_CHIP (R101). -/
def execTxLastChip (n : Nat) (s : State) : Host.Outcome State Fault Refusal := s.run (txLastChip n)

/-- D of R135 for the acknowledgement that a sent frame calls for, in ticks. -/
def Dev.ackTicks (d : Dev) (f : TxFrame) : Nat :=
  match (if f.secure then readMhrPlain f.mac else readMhr f.mac) with
  | some h => d.airTicks f.phy f.mode (ackLen h [] (fcsLen f.shortFcs)) 8 f.fec
  | none => 0

/-- A frame was sent to its end at TMB `last`: the acknowledgement wait starts, or the frame is done (R218, R306). -/
def Dev.txSent (d : Dev) (f : TxFrame) (last : Nat) : Dev :=
  let f := { f with onAir := false, duty := none, g := none }
  if f.isAck then
    let d := d.dropFrame f.id
    match f.node with
    | some s =>
      if f.pendingBit && d.releases s then
        let p : PendSend := {
          slot := s, at' := last + usTicks (d.slpRd s Fld.lnkSlpPend_pendDelay), sent := 0, sub := f.sub, chan := f.chan
          phy := f.phy, mode := f.mode }
        { d with tempo := { d.tempo with sends := d.tempo.sends.filter (fun x => x.slot != s) ++ [p] } }
      else d
    | none => d
  else if f.ackReq then
    let w := match f.cellWait with
      | some us => usTicks us
      | none => turnaround f.phy + d.ackTicks f
    let from' := if f.cellWait.isSome then last + usTicks (d.rd Fld.lnkTschTmpl_lo 1) else 0
    d.setFrame { f with stage := .ackWait (last + w), ackFrom := from' }
  else
    let d := d.txEnd f Code.ok false
    match f.node with
    | some s => if f.sleepy then d.pendNext s last else d
    | none => d

/-- A frame whose PA was stopped ends with the status of its stop; an acknowledgement is counted (R103, R109,
R170). -/
def Dev.txCut (d : Dev) (f : TxFrame) (st : Nat) : Dev :=
  let f := { f with onAir := false, duty := none, g := none }
  let d := if f.isAck && st != Code.coexDenied then d.bump Fld.lnkStat4_ackNoChain else d
  d.txEnd f st false

/-- TX_RAMP_DOWN_END on chain `n`: the PA is off and the idle pattern applies; duty is charged, with `used` µs for
a stopped frame; TRIM moves by the measured error `err` (hundredths of a dB); the frame's outcome follows (R101,
R103, R107, R163, R165, R180). -/
def txRampDownEnd (n used : Nat) (err : Int) (d : Dev) : Dev :=
  match d.txOn n with
  | none => d
  | some f =>
    if d.chainState (6 + n) ≠ 7 then d
    else
      let ticks := d.frameTicks f (d.txChain n).preamble
      let us := if f.cut.isSome then used else ticksUs ticks
      let d := d.setChainState (6 + n) 2
      let d := d.setTxChain n { d.txChain n with latch := none, near := false }
      let d := match f.duty with
        | some (e, a) =>
          if f.onAir then d.dutyChargeFrame e f.sub f.chan a us else d.dutyRelease e f.sub f.chan a
        | none => d
      let d := if f.onAir ∧ 260 ≤ us then d.trimStep n err else d
      let d := match f.cut with
        | some st => d.txCut f st
        | none => d.txSent f (f.firstChip + ticks)
      let d := (d.coexDrop f.id).raise (0x28 + n)
      (((d.shapeFlush n).calRestart n).coexUpdate).settle

/-- TX_RAMP_DOWN_END (R101). -/
def execTxRampDownEnd (n used : Nat) (err : Int) (s : State) : Host.Outcome State Fault Refusal :=
  s.run (txRampDownEnd n used err)

/-- The PA of chain `n` is stopped: RAMP_DOWN starts and the frame will end with status `st`. -/
def Dev.txStop (d : Dev) (n st : Nat) : Dev :=
  match d.txOn n with
  | some f => (d.setFrame { f with cut := some st }).setChainState (6 + n) 7
  | none => d

/-- LO_LOCK_LOSS of an LO: the detectors of its band are blanked until it relocks; a frame in LEAD or ON_AIR ends with
SYNTH_FAIL (R97, R103). -/
def loLockLoss (lo : Nat) (d : Dev) : Dev :=
  if (d.lo lo).lock.isNone then d
  else
    let d := d.loUnlock lo
    if lo < 2 then
      let d := if (bandChains (lo = 1)).any d.receiving then d.abandonBand (lo = 1) false else d
      (bandChains (lo = 1)).foldl (fun d m => if d.receiving m then d.setChainState m 2 else d) d
    else
      let n := lo - 2
      let st := d.chainState (6 + n)
      if st = 5 ∨ st = 6 then d.txStop n Code.synthFail else d

/-- LO_LOCK_LOSS (R103). -/
def execLoLockLoss (lo : Nat) (s : State) : Host.Outcome State Fault Refusal := s.run (loLockLoss lo)

/-- DETECTOR_BLANKING_END for chain `n`: the blanked channel's detectors are armed again, unless the chain blanks it
for a later frame (R17). -/
def detectorBlankingEnd (n : Nat) (d : Dev) : Dev :=
  let st := d.chainState (6 + n)
  let keep := match d.txOn n with
    | some f => if st = 4 ∨ st = 5 ∨ st = 6 ∨ (st = 3 ∧ f.g.isSome) then some (chanKey f.sub f.chan) else none
    | none => none
  let ends := d.rxw.txBlank.filter fun b => b.1 = n && some b.2 != keep
  let busy := ends.foldl (fun l b => alSet b.2 d.tmb l) d.rxw.busyAt
  { d with rxw := { d.rxw with
    txBlank := d.rxw.txBlank.filter (fun b => b.1 != n || some b.2 = keep), busyAt := busy } }

/-- DETECTOR_BLANKING_END (R17). -/
def execDetectorBlankingEnd (n : Nat) (s : State) : Host.Outcome State Fault Refusal :=
  s.run (detectorBlankingEnd n)

/-! Mask monitor (R169–R172). -/

/-- Limits of S1 and S2 against S0 in hundredths of a dB (Table 08.4). -/
def maskLimits (phy : Nat) : Int × Int :=
  match phy with
  | 0 => (-2000, -3000)
  | 1 => (-2000, -3000)
  | 2 => (-2500, -3500)
  | _ => (-3000, -4000)

/-- How far the higher side of a segment lies above S0 + limit − TIGHTEN, in hundredths of a dB; none where it does not, or
lies below the floor of −50 dBm (R169, R171). -/
def maskOver (s0 p limit : Int) (tighten : Nat) : Option Int :=
  let top := s0 + limit - 100 * tighten
  if p < -5000 ∨ p ≤ top then none else some (p - top)

/-- The segment over limit, 1 for S1 and 2 for S2, with its excess in 0.5 dB units: the one with the larger excess, S1 where
they are equal. -/
def maskVerdict (phy tighten : Nat) (lower upper : MaskPowers) : Option (Nat × Nat) :=
  let l := maskLimits phy
  let s0 := max lower.s0 upper.s0
  match maskOver s0 (max lower.s1 upper.s1) l.1 tighten, maskOver s0 (max lower.s2 upper.s2) l.2 tighten with
  | some x, some y => if x < y then some (2, (y / 50).toNat) else some (1, (x / 50).toNat)
  | some x, none => some (1, (x / 50).toNat)
  | none, some y => some (2, (y / 50).toNat)
  | none, none => none

/-- The second window over limit in a row on chain `n`, in segment `seg` by `excess`: the violation is counted, may block the
chain, and stops the frame (R170). -/
def Dev.maskViolation (d : Dev) (n seg excess : Nat) : Dev :=
  let c := d.txChain n
  let strikes := d.tmb :: c.strikes.filter fun t => decide (d.tmb < t + usTicks 1000000)
  let d := d.setTxChain n { c with near := false, strikes := strikes }
  let d := d.bump Fld.txpMaskStatus_violations n
  let d := (d.wr Fld.txpMaskStatus_lastSeg seg n).wr Fld.txpMaskStatus_excess (min excess 255) n
  let d := if d.rd Fld.txpMaskCtrl_strikeLimit n ≤ strikes.length then d.wr Fld.txpMaskStatus_blocked 1 n else d
  (d.txStop n Code.maskViolation).raise 0x2C

/-- MASK_WINDOW_END on chain `n` with the powers measured: a window over limit is a near miss, and two in a row of one frame
are a violation (R169, R170). -/
def maskWindowEnd (n : Nat) (lower upper : MaskPowers) (d : Dev) : Dev :=
  let st := d.chainState (6 + n)
  let c := d.txChain n
  match d.txOn n with
  | none => d
  | some f =>
    if 4 ≤ n ∨ (st ≠ 6 ∧ st ≠ 7) then d
    else
      match maskVerdict f.phy (d.rd Fld.txpMaskCtrl_tighten n) lower upper with
      | none => d.setTxChain n { c with near := false }
      | some (seg, excess) =>
        let d := d.bump Fld.txpMaskStatus_near n
        if c.near then d.maskViolation n seg excess else d.setTxChain n { c with near := true }

/-- MASK_WINDOW_END (R170). -/
def execMaskWindowEnd (n : Nat) (lower upper : MaskPowers) (s : State) : Host.Outcome State Fault Refusal :=
  s.run (maskWindowEnd n lower upper)

/-! Listen (R183). -/

/-- LBT_LISTEN_END on chain `n`, the highest mean power over a 16 µs interval being `p` hundredths of a dBm: a busy
channel moves the frame later by a new listen, or ends it (R183, R184). -/
def lbtListenEnd (n : Nat) (p : Int) (d : Dev) : Dev :=
  match d.txOn n with
  | none => d
  | some f =>
    if f.listen.isNone then d
    else
      let th : Int := -12800 + 50 * (d.regField (10 + b2n f.sub) 7 0)
      if p < th then (d.setFrame { f with listen := none }).settle
      else if f.isAck then (d.bump Fld.regStat1_ackLbt).txRefuse f Code.lbtBusy false
      else if f.listens = 0 then (d.bump Fld.regStat1_lbtRefused).txRefuse f Code.lbtBusy false
      else
        let x := d.drawListen f.sub
        x.2.setFrame { f with listen := some x.1, listens := f.listens - 1, plan := f.plan + usTicks x.1 }

/-- LBT_LISTEN_END (R183). -/
def execLbtListenEnd (n : Nat) (p : Int) (s : State) : Host.Outcome State Fault Refusal := s.run (lbtListenEnd n p)

/-! Acknowledgement waits and retries (R306). -/

/-- A cell's frame for the node in slot `s` was acknowledged: the backoff of its neighbour starts anew after a shared cell, and
after a dedicated one that leaves no frame waiting for it (TSCH CSMA-CA, R210). -/
def Dev.cellDone (d : Dev) (s : Nat) (shared : Bool) : Dev :=
  if shared || !(d.tx.frames.any fun g => g.node = some s && g.stage = .slotted) then
    { d with tempo := { d.tempo with tsch := { d.tempo.tsch with backoff := alDel s d.tempo.tsch.backoff } } }
  else d

/-- A frame in a wait got its acknowledgement, which ended at TMB `ackEnd`: a held frame's successor starts
PEND_DELAY after it (R218). -/
def Dev.txAcked (d : Dev) (f : TxFrame) (ackEnd : Nat) : Dev :=
  let d := d.txEnd f Code.ok true
  let d := match f.cellWait, f.node with
    | some _, some s => d.cellDone s f.cellShared
    | _, _ => d
  match f.node with
  | some s => if f.sleepy then d.pendNext s ackEnd else d
  | none => d

/-- The backoff of a shared cell doubles after a failed attempt: an exponent up to MAX_BE and a draw of cells to skip,
a free value (R210). -/
def Dev.cellFail (d : Dev) (f : TxFrame) : Dev :=
  match f.cellShared, f.node with
  | true, some s =>
    match alGet s d.tempo.tsch.backoff with
    | some (be, _) =>
      let be := min (be + 1) (d.rd Fld.lnkTschCtrl_maxBe)
      let r := d.free 16
      { r.2 with tempo := { r.2.tempo with tsch := { r.2.tempo.tsch with
          backoff := alSet s (be, r.1 % 2 ^ be) r.2.tempo.tsch.backoff } } }
    | none => d
  | _, _ => d

/-- ACK_WAIT_END of frame `id`: the attempt failed. The next one waits RETRY_GAP, its slot, or its node's window; after
the last one the frame ends with NO_ACK (R218, R306, R307). -/
def ackWaitEnd (id : Nat) (d : Dev) : Dev :=
  match d.frame id with
  | none => d
  | some f =>
    match f.stage with
    | .ackWait _ =>
      if f.sleepy then d.sleepyFail f Code.noAck
      else
        let d := d.cellFail f
        if f.retries ≤ f.tries then d.txEnd f Code.noAck false
        else
          let f := { f with tries := f.tries + 1, start := 0 }
          if f.cellWait.isSome then d.setFrame { f with stage := .slotted, cellWait := none, cellShared := false, ackFrom := 0 }
          else d.setFrame { f with stage := .retryWait (d.tmb + usTicks f.gap), earliest := d.tmb + usTicks f.gap }
    | _ => d

/-- ACK_WAIT_END (R306). -/
def execAckWaitEnd (id : Nat) (s : State) : Host.Outcome State Fault Refusal := s.run (ackWaitEnd id)

/-- RETRY_ATTEMPT of frame `id`: the next attempt goes to the commit checks with the same frame counter (R306). -/
def retryAttempt (id : Nat) (d : Dev) : Dev :=
  match d.frame id with
  | none => d
  | some f =>
    match f.stage with
    | .retryWait _ =>
      let f := { f with stage := .scheduled }
      (d.setFrame f).commitFrame f
    | _ => d

/-- RETRY_ATTEMPT (R306). -/
def execRetryAttempt (id : Nat) (s : State) : Host.Outcome State Fault Refusal := s.run (retryAttempt id)

/-! Coexistence commands (R108–R113). -/

/-- COEX_CFG_WRITE: a ROLE change waits in the register (R108). -/
def coexCfgWrite (who : Initiator) (w : Word) (d : Dev) : Dev :=
  if !d.domUp 1 then d
  else if !d.secureOrHost who then d.refuseWrite who Reg.coexCfg
  else if wBits w 1 0 = 3 then d.rejectWrite who Reg.coexCfg
  else d.plainWrite who Reg.coexCfg w

/-- COEX_CFG_WRITE (R108). -/
def execCoexCfgWrite (who : Initiator) (w : Word) (s : State) : Host.Outcome State Fault Refusal :=
  s.run (coexCfgWrite who w)

/-- COEX_ROLE_CHANGE: ROLE takes effect when no chain taking part is outside IDLE or OFF (R108). -/
def coexRoleChange (d : Dev) : Dev :=
  let quiet := d.coexChains.all fun n => d.chainShown (6 + n) = 0 || d.chainShown (6 + n) = 2
  if !d.domUp 1 || !quiet || d.coex.role = d.rd Fld.coexCfg_role then d
  else ({ d with coex := { d.coex with role := d.rd Fld.coexCfg_role } }).coexUpdate

/-- COEX_ROLE_CHANGE (R108). -/
def execCoexRoleChange (s : State) : Host.Outcome State Fault Refusal := s.run coexRoleChange

/-- A client request for the coming or open receive window of slot `s`, with RX_REQ = 1 (R109). -/
def Dev.coexWindow (d : Dev) (s : Nat) : Dev :=
  if d.coex.role = 1 && d.domUp 1 && d.is Fld.coexCfg_rxReq && !(d.coex.reqs.any fun r => r.1 = 2 ^ 32 + s) &&
      d.tempo.wins.any (fun w => w.slot = s && w.phase != .releasing && (!w.sub || d.is Fld.coexCfg_subghz)) then
    d.coexAdd (2 ^ 32 + s) true
  else d

/-- COEX_REQUEST_ASSERT: COEX_REQ rises for the frame committed to a chain, COEX_PRI with it for an urgent frame; for a
receive window both rise (R109). -/
def coexRequestAssert (c : CoexClient) (d : Dev) : Dev :=
  match c with
  | .window s => d.coexWindow s
  | .chain n =>
    match d.txOn n with
    | none => d
    | some f =>
      if d.coex.role ≠ 1 || !d.coexPart n || !d.domUp 1 || d.coex.reqs.any (fun r => r.1 = f.id) then d
      else d.coexAdd f.id f.urgent

/-- COEX_REQUEST_ASSERT (R109). -/
def execCoexRequestAssert (c : CoexClient) (s : State) : Host.Outcome State Fault Refusal :=
  s.run (coexRequestAssert c)

/-- COEX_GNT_FALL: the external radio drives COEX_GNT low. In the client role each frame on air is counted in REVOKED, and
stopped if ABORT_ON_REVOKE = 1 (R109); in the arbiter role the ball is an output. -/
def coexGntFall (d : Dev) : Dev :=
  let d := (d.coexLevel 2 false).coexUpdate
  if d.coex.role ≠ 1 || !d.domUp 1 then d
  else
    d.coexChains.foldl (fun d n =>
      if d.chainState (6 + n) = 6 then
        let d := d.bump Fld.coexStat1_revoked
        if d.is Fld.coexCfg_abortOnRevoke then d.txStop n Code.coexDenied else d
      else d) d

/-- COEX_GNT_FALL (R109). -/
def execCoexGntFall (s : State) : Host.Outcome State Fault Refusal := s.run coexGntFall

/-- COEX_REQ_EDGE: the external radio gives COEX_REQ, COEX_PRI and COEX_ACT levels. COEX_STATUS shows them where they are
inputs; in the arbiter role the grant follows Table 05.12 (R110, R113). -/
def coexReqEdge (req pri act : Bool) (d : Dev) : Dev :=
  (((d.coexLevel 0 req).coexLevel 1 pri).coexLevel 3 act).coexUpdate.coexYield

/-- COEX_REQ_EDGE (R110). -/
def execCoexReqEdge (req pri act : Bool) (s : State) : Host.Outcome State Fault Refusal :=
  s.run (coexReqEdge req pri act)

/-! Region commands that reach the radio (R176, R177). -/

/-- PROG of word `w` by a REG_PROG_CMD write with the value in REG_STAGE (R177). -/
def execProg (who : Initiator) (w : Nat) (s : State) : Host.Outcome State Fault Refusal :=
  s.run fun d => if d.domUp 1 then d.regProgCmd who (d.secure who) (BitVec.ofNat 32 (0x6B1D0100 + w % 32)) else d

/-- SEAL by a REG_PROG_CMD write (R177). -/
def execSealRegion (who : Initiator) (s : State) : Host.Outcome State Fault Refusal :=
  s.run fun d => if d.domUp 1 then d.regProgCmd who (d.secure who) 0x6B1D0200#32 else d

/-- The new sub-GHz band and grid show in RXW: BAND, the EN bits of undefined indices, MODE, the estimates (R176). -/
def Dev.rxwBand (d : Dev) : Dev :=
  if !d.domUp 17 then d else
  let d := d.wr Fld.rxwSubCfg_band d.region.band
  let d := ((List.range 64).filter fun i => !d.idxDefined i).foldl (fun d i => d.wr Fld.rxwChs_en 0 i) d
  let d := if d.modeCarried (d.rd Fld.rxwSubCfg_mode) then d else d.wr Fld.rxwSubCfg_mode 0
  let d := if d.modeCarried d.rxw.mode then d else { d with rxw := { d.rxw with mode := 0 } }
  d.noiseRestart fun k => decide (64 ≤ k)

/-- REG_STAGE_W1_EFFECT: a changed SUB_BAND or GRID takes effect once every sub-GHz lane is free and TXS_0 and TXS_1
are IDLE or OFF. Calibration entries 1 and 34–161 are invalidated and LO_B is calibrated anew (R176). -/
def regStageW1Effect (d : Dev) : Dev :=
  let bg := d.w1Band
  let quiet := [8, 9].all fun i => d.chainState i = 0 || d.chainState i = 2
  if !d.domUp 1 || d.subBusy || !quiet || bg = (d.region.band, d.region.grid) then d
  else
    let d := { d with region := { d.region with band := bg.1, grid := bg.2 } }
    let d : Dev := (1 :: (List.range 128).map (· + 34)).foldl (fun d n => d.wr Fld.rfsCalEntry_valid 0 n) d
    let d : Dev := d.rxwBand
    if d.domSt 15 = DomainState.on then d.calBegin 1 ⟨0, .band⟩ else d

/-- REG_STAGE_W1_EFFECT (R176). -/
def execRegStageW1Effect (s : State) : Host.Outcome State Fault Refusal := s.run regStageW1Effect

end Sys2Proof.Machine
end

