-- ==== Sys2Proof/Machine/Sleepy.lean ====
section
/-! DEFINITION. Sleepy nodes: contacts, drift, windows, LOST and recovery, held frames and Check patterns
(R213–R229). -/

namespace Sys2Proof.Machine

open Sys2Proof

/-! Numbers. -/

/-- The TMB, not after the present, whose low 48 bits are `ts`. -/
def Dev.fullTime (d : Dev) (ts : Nat) : Nat :=
  let hi := d.tmb / 2 ^ 48 * 2 ^ 48 + ts
  if hi ≤ d.tmb ∨ hi < 2 ^ 48 then hi else hi - 2 ^ 48

/-! The node's fields. -/

/-- SLEEPY = 1 and SCHED_PERIOD ≠ 0 (R213). -/
def Dev.scheduled (d : Dev) (s : Nat) : Bool := d.cxIs s Cx.sleepy && d.cx s Cx.schedPeriod != 0

/-- P in ticks. -/
def Dev.schedTicks (d : Dev) (s : Nat) : Nat := d.cx s Cx.schedPeriod * 1024

/-- h_s in µs (R216). -/
def Dev.searchWidth (d : Dev) (s : Nat) : Nat :=
  min (d.rd Fld.lnkSlpLost_searchWidth * d.rd Fld.lnkSlpGuard_guardMax) (d.cx s Cx.schedPeriod * 16)

def Dev.schedSub (d : Dev) (s : Nat) : Bool := d.cxIs s Cx.schedBand

/-- PHASE and COUNT, with LOST as R213 ties it to PHASE. -/
def Dev.setPhase (d : Dev) (s phase count : Nat) : Dev :=
  (((d.setCx s Cx.gPhase phase).setCx s Cx.gCount count).setCx s Cx.lost (b2n (decide (2 ≤ phase)))).cxTouch s

/-! Windows (R216). -/

/-- The open window of slot `s`. -/
def Dev.openWin (d : Dev) (s : Nat) : Option NodeWin :=
  d.tempo.wins.find? fun w => w.slot = s && w.phase = .opened

def Dev.setWins (d : Dev) (l : List NodeWin) : Dev := { d with tempo := { d.tempo with wins := l } }

/-- Windows of slot `s` that have not opened are dropped, with a request for them (R109). -/
def Dev.dropPlanned (d : Dev) (s : Nat) : Dev :=
  let d := d.setWins (d.tempo.wins.filter fun w => !(w.slot = s && (w.phase = .planned || w.phase = .lead)))
  if (d.openWin s).isSome then d else d.coexDrop (2 ^ 32 + s)

/-- E in ticks and g in µs of the window `k` periods after the anchor. -/
def Dev.winAt (d : Dev) (s k : Nat) : Nat × Nat :=
  let p := d.schedTicks s
  let drift := signedOf (d.cx s Cx.drift) 16
  let two := d.cx s Cx.gContacts = 2
  let c := if two then roundDiv ((k * p : Nat) * drift) 64000000 else 0
  let r := if two then 64 * d.rd Fld.lnkSlpGuard_rateMin + drift.natAbs >>> d.rd Fld.lnkSlpCfg_uncShift
    else 64 * d.rd Fld.lnkSlpDrift_driftDefault
  let e := ((d.fullTime (d.cx s Cx.lastContact) + k * p : Nat) : Int) - c
  (e.toNat, d.rd Fld.lnkSlpGuard_guardBase + (k * p / 32 * r + 63999999) / 64000000)

/-- The repeat of R216 from k = `k` on, at most `fuel` passes: the final k and the passes after the first. -/
def Dev.winSearch (d : Dev) (s : Nat) : Nat → Nat → Nat → Nat × Nat
  | 0, k, skipped => (k + 1, skipped)
  | fuel + 1, k, skipped =>
    let w := d.winAt s (k + 1)
    let phase := d.cx s Cx.gPhase
    let h := if phase = 2 then d.searchWidth s else w.2
    if d.tmb + usTicks (h + d.rd Fld.lnkSlpCfg_leadUs) ≤ w.1
        ∨ (phase = 1 ∧ d.rd Fld.lnkSlpGuard_guardMax < w.2) then (k + 1, skipped)
    else d.winSearch s fuel (k + 1) (skipped + 1)

/-- Passes after which every window lies ahead: the time since the anchor, twice, and the longest lead and
half-width, in periods. -/
def Dev.winFuel (d : Dev) (s : Nat) : Nat :=
  (2 * (d.tmb - d.fullTime (d.cx s Cx.lastContact)) + usTicks 4000000) / max 1 (d.schedTicks s) + 2

def Dev.addWin (d : Dev) (w : NodeWin) : Dev := d.setWins (d.tempo.wins ++ [w])

/-- The centre of the first window in ACQUIRE (R216). -/
def Dev.acquireCentre (d : Dev) (s : Nat) : Nat :=
  let t := d.tmb + usTicks (d.searchWidth s + d.rd Fld.lnkSlpCfg_leadUs)
  let p := d.cx s Cx.schedPeriod
  let o := d.cx s Cx.schedOffset % max 1 p
  if t / 1024 % max 1 p = o then t else (t / 1024 + (o + p - t / 1024 % max 1 p - 1) % max 1 p + 1) * 1024

/-- A node in CHECK whose next telegram may start at `due` (R220). -/
def Dev.enterCheck (d : Dev) (s due : Nat) : Dev :=
  let c : CheckRun := { slot := s, sub := d.schedSub s, chan := d.cx s Cx.schedCh, due := some due, cfg := d.slpCfg }
  { d with tempo := { d.tempo with checks := d.tempo.checks.filter (fun x => x.slot != s) ++ [c] } }

/-- A check run ends; a telegram that is not yet committed is not sent. -/
def Dev.dropCheck (d : Dev) (s : Nat) : Dev :=
  let stays (f : TxFrame) : Bool := !(f.isCheck && f.node = some s && f.stage = .scheduled)
  ({ d with tempo := { d.tempo with checks := d.tempo.checks.filter fun c => c.slot != s } }).setFrames
    (d.tx.frames.filter stays)

/-- Plans the next window of the node in slot `s` from k = `k`, or resumes its CHECK (R216, R219, R222). Nothing is
planned while the service does not run, nor in REPORTED. -/
def Dev.planWindow (d : Dev) (s k : Nat) : Dev :=
  let d := d.dropPlanned s
  if !d.tempo.service || !d.slotValid s || !d.scheduled s || d.damagedSlot s then d
  else
    let win (e h k : Nat) : NodeWin := {
      slot := s, sub := d.schedSub s, chan := d.cx s Cx.schedCh, e := e, h := h, k := k, period := d.cx s Cx.schedPeriod
      cfg := d.slpCfg }
    match d.cx s Cx.gPhase with
    | 0 => d.addWin (win (d.acquireCentre s) (d.searchWidth s) 0)
    | 1 =>
      let r := d.winSearch s (d.winFuel s) k 0
      let w := d.winAt s r.1
      let d := d.bumpBy r.2 Fld.lnkSlpStat3_windowsSkipped
      if d.rd Fld.lnkSlpGuard_guardMax < w.2 then
        let d := ((d.setPhase s 2 0).bump Fld.lnkSlpStat1_lostEntry).raise 0x45
        d.addWin (win w.1 (d.searchWidth s) r.1)
      else d.addWin (win w.1 w.2 r.1)
    | 2 =>
      let r := d.winSearch s (d.winFuel s) k 0
      (d.bumpBy r.2 Fld.lnkSlpStat3_windowsSkipped).addWin (win (d.winAt s r.1).1 (d.searchWidth s) r.1)
    | 3 => if d.tempo.checks.any (fun c => c.slot = s) then d else d.enterCheck s d.tmb
    | _ => d

/-! Contacts (R214, R215). -/

/-- The node in slot `s` is under a schedule: that of its open window, which a change of its context does not reach, else that
of its context (R213, R222). -/
def Dev.underSchedule (d : Dev) (s : Nat) : Bool := (d.openWin s).isSome || d.scheduled s

/-- SCHED_PERIOD in ticks and SCHED_BAND that a contact goes by (R222). -/
def Dev.contactSched (d : Dev) (s : Nat) : Nat × Bool :=
  match d.openWin s with
  | some w => (w.period * 1024, w.sub)
  | none => (d.schedTicks s, d.schedSub s)

/-- A drift observation over Δ ticks (R215). -/
def Dev.driftObserve (d : Dev) (s delta : Nat) : Dev :=
  let p := (d.contactSched s).1
  let k := max 1 (roundDiv delta p).toNat
  let obs := clampInt (roundDiv (64000000 * (((k * p : Nat) : Int) - delta)) (k * p)) (-32768) 32767
  let drift := signedOf (d.cx s Cx.drift) 16
  let out := d.slpRd s Fld.lnkSlpDrift_outlier
  if d.cx s Cx.gContacts = 1 then
    ((d.setCx s Cx.drift (unsignedOf obs 16)).setCx s Cx.gContacts 2).setCx s Cx.gOutliers 0
  else if out ≠ 0 ∧ 64 * out < (obs - drift).natAbs then
    let d := d.bump Fld.lnkSlpStat3_driftOutlier
    let n := d.cx s Cx.gOutliers + 1
    if n = 3 then (d.setCx s Cx.gContacts 1).setCx s Cx.gOutliers 0 else d.setCx s Cx.gOutliers n
  else
    (d.setCx s Cx.drift (unsignedOf (drift + (obs - drift) / (2 ^ d.slpRd s Fld.lnkSlpCfg_alpha : Nat)) 16)).setCx s Cx.gOutliers 0

/-- The freeze point `t` lies in a window, bounds included. -/
def NodeWin.has (w : NodeWin) (t : Nat) : Bool :=
  decide (w.e - usTicks w.h ≤ t) && decide (t ≤ w.e + usTicks w.h)

/-- The open window of slot `s` has its contact. -/
def Dev.markContact (d : Dev) (s : Nat) : Dev :=
  d.setWins (d.tempo.wins.map fun (w : NodeWin) =>
    if w.slot = s && w.phase = .opened then { w with contacted := true } else w)

/-- The effect of a contact whose TIMESTAMP is `ts` (R214). -/
def Dev.contactAct (d : Dev) (s ts : Nat) (isNew : Bool) : Dev :=
  let old := d.cx s Cx.lastContact
  let phase := d.cx s Cx.gPhase
  let changed := match d.openWin s with | some w => w.changed | none => false
  let d := (d.bump Fld.lnkSlpStat0_contacts).setCx s Cx.lastContact ts
  if !d.underSchedule s then d.cxTouch s
  else
    let d := match phase with
      | 0 => (d.setCx s Cx.gContacts 1).setPhase s 1 0
      | 1 => (if isNew then d.driftObserve s ((ts + 2 ^ 48 - old) % 2 ^ 48) else d).cxTouch s
      | _ => (((d.setPhase s 1 0).bump Fld.lnkSlpStat1_reacquired)).dropCheck s
    if changed then d.markContact s else (d.markContact s).planWindow s 0

/-- A NEW or DUPLICATE frame of the node in slot `s`, received on a band at TIMESTAMP `ts`: its contact, if it is
one, and whether it is (R214). -/
def Dev.contact (d : Dev) (s ts : Nat) (sub isNew : Bool) : Dev × Bool :=
  if !d.underSchedule s then (d.contactAct s ts isNew, true)
  else
    let phase := d.cx s Cx.gPhase
    let inWin := match d.openWin s with
      | some w => if w.has (d.fullTime ts) then some w.contacted else none
      | none => none
    if sub ≠ (d.contactSched s).2 then (d.bump Fld.lnkSlpStat4_offWindow, false)
    else if inWin = some true then (d, false)
    else if phase = 1 ∨ phase = 2 then
      if inWin = some false then (d.contactAct s ts isNew, true) else (d.bump Fld.lnkSlpStat4_offWindow, false)
    else (d.contactAct s ts isNew, true)

/-! LOST and recovery (R219–R221). -/

/-- Entry to REPORTED (R221). -/
def Dev.enterReported (d : Dev) (s : Nat) : Dev :=
  ((((d.setPhase s 4 0).dropCheck s).dropPlanned s).nodeNotice s Code.nodeLost).bump Fld.lnkSlpStat2_lostReported

/-- The wake address of the node in slot `s`. -/
def Dev.wakeAddr (d : Dev) (s : Nat) : Nat := d.cx s Cx.eui % 2 ^ 32

/-- A search window of slot `s` closed at TMB `close` without a contact; its window was number `k`, planned under `cfg` (R219). -/
def Dev.searchMiss (d : Dev) (s : Nat) (cfg : List Word) (k close : Nat) : Dev :=
  let n := d.cx s Cx.gCount + 1
  if n < slpOf cfg Fld.lnkSlpLost_searchPeriods then (d.setPhase s 2 n).planWindow s k
  else if d.cxIs s Cx.wurx && slpOf cfg Fld.lnkSlpLost_checkTries != 0 && d.wakeAddr s != 0 then
    (d.setPhase s 3 0).enterCheck s (close + usTicks 1000)
  else d.enterReported s

/-! Schedule changes (R222). -/

/-- The node in slot `s` starts anew after a change of its schedule. -/
def Dev.schedRestart (d : Dev) (s : Nat) : Dev :=
  (((d.setCx s Cx.gContacts 0).setPhase s 0 0).dropCheck s).planWindow s 0

/-- A node-table command changed the schedule of the node in slot `s`: at the close of an open window, else at
once. -/
def Dev.schedChanged (d : Dev) (s : Nat) : Dev :=
  match d.openWin s with
  | some _ =>
    (d.dropPlanned s).setWins ((d.dropPlanned s).tempo.wins.map fun (w : NodeWin) =>
      if w.slot = s && w.phase = .opened then { w with changed := true } else w)
  | none => d.schedRestart s

/-- Everything the service holds for slot `s` is dropped: its node was removed, or its context restored. An open
window closes with no miss counted. -/
def Dev.slpForget (d : Dev) (s : Nat) : Dev :=
  let d := d.dropCheck s
  let d := (d.setWins (d.tempo.wins.filter fun w => w.slot != s)).coexDrop (2 ^ 32 + s)
  { d with tempo := { d.tempo with sends := d.tempo.sends.filter fun x => x.slot != s } }

/-- The context of slot `s` was restored: its next window is planned from the restored fields. -/
def Dev.slpRestored (d : Dev) (s : Nat) : Dev := ((d.slpForget s).planWindow s 0).settle

/-- The service runs: EN = 1, D22 ON, D10 up. -/
def Dev.serviceWanted (d : Dev) : Bool :=
  d.tempoUp && d.domSt 10 = .on && d.domSt 22 = .on && d.is Fld.lnkSlpCfg_en && !d.ndt.held

/-- The service starts or stops as its conditions change: on a stop every window closes with no miss counted, on a
start every node is planned (R222). -/
def Dev.serviceUpdate (d : Dev) : Dev :=
  let w := d.serviceWanted
  if w = d.tempo.service then d
  else if w then
    let d := { d with tempo := { d.tempo with service := true } }
    (d.residentSlots.foldl (fun d s => d.planWindow s 0) d).settle
  else
    let d := d.tempo.checks.foldl (fun d c => d.dropCheck c.slot) d
    ({ d with tempo := { d.tempo with service := false, wins := [], sends := [] } }).coexUpdate.settle

/-! Window commands (R217). -/

/-- Held frames of a node that another member hears are released at TMB `t`; that member sends them there (R218). -/
def Dev.releaseRemote (d : Dev) (s t : Nat) (sub : Bool) (chan : Nat) : Dev :=
  if (d.heardBy s).isSome && d.releases s && d.tempo.pendMap.contains s then
    let p : PendSend := { slot := s, at' := t, sent := 0, sub := sub, chan := chan, phy := d.cx s Cx.lastPhy, mode := d.rxw.mode }
    { d with tempo := { d.tempo with sends := d.tempo.sends.filter (fun x => x.slot != s) ++ [p] } }
  else d

/-- The vote lead of a node's planned window, or of the wait after its telegram (R217, R220). A node that another member hears
gets its held frame at the centre of the window (R218). -/
def Dev.nodeLead (d : Dev) (s : Nat) : Dev :=
  if !d.tempo.service then d
  else
    match d.tempo.wins.find? fun w => w.slot = s && w.phase = .planned with
    | some w =>
      let d := d.setWins (d.tempo.wins.map fun (x : NodeWin) => if x = w then { x with phase := .lead } else x)
      d.releaseRemote s w.e w.sub w.chan
    | none =>
    let lead (c : CheckRun) : CheckRun :=
      if c.slot = s && c.lead.isNone then { c with lead := some d.tmb } else c
    { d with tempo := { d.tempo with checks := d.tempo.checks.map lead } }

/-- The record of slot-program entry `m`. -/
def Dev.slotRun (d : Dev) (m : Nat) : SlotRun :=
  (d.tempo.slots.find? fun r => r.entry = m).getD { entry := m, cfg := d.slotCfg m, k := 0 }

def Dev.setSlotRun (d : Dev) (r : SlotRun) : Dev :=
  { d with tempo := { d.tempo with slots := d.tempo.slots.filter (fun x => x.entry != r.entry) ++ [r] } }

/-- The vote lead of the coming receive occurrence of entry `m` (R207). -/
def Dev.entryLead (d : Dev) (m : Nat) : Dev :=
  if m < 512 && d.tempoUp && d.is Fld.lnkSlotW0_en m && d.rd Fld.lnkSlotW0_kind m = 0 then
    d.setSlotRun { d.slotRun m with lead := some (slotNext (d.slotCfg m) d.tmb), cfg := d.slotCfg m }
  else d

/-- WINDOW_VOTE_LEAD: the votes of a window start (R207, R217, R220). -/
def windowVoteLead (w : WinRef) (d : Dev) : Dev :=
  match w with
  | .node s => (d.nodeLead s).settle
  | .entry m => (d.entryLead m).settle

/-- WINDOW_VOTE_LEAD (R217). -/
def execWindowVoteLead (w : WinRef) (s : State) : Host.Outcome State Fault Refusal := s.run (windowVoteLead w)

/-- WINDOW_OPEN of the node in slot `s` (R356). In the client role the unit requests the bus for it (R109). -/
def windowOpen (s : Nat) (d : Dev) : Dev :=
  match d.tempo.wins.find? fun w => w.slot = s && (w.phase = .planned || w.phase = .lead) with
  | none => d
  | some w =>
    if !d.tempo.service then d
    else
      let d := d.setWins (d.tempo.wins.map fun (x : NodeWin) => if x = w then { x with phase := .opened } else x)
      ((d.coexWindow s).raise 0x46).settle

/-- WINDOW_OPEN (R356). -/
def execWindowOpen (slot : Nat) (s : State) : Host.Outcome State Fault Refusal := s.run (windowOpen slot)

/-- TIMESTAMP of a completion, from its record (R138). -/
def Dev.compTime (d : Dev) (c : Completion) : Nat := d.fullTime (d.le (stagingAddr c.buf + 8) 6)

/-- A frame whose freeze point lay inside the window is still in a lane, in a pair's FIFO or under its verify: the
window does not close before its handling (Table 10.2, first row). -/
def Dev.winBusy (d : Dev) (w : NodeWin) : Bool :=
  ((laneRange w.sub).any fun i =>
      let l := d.lane i
      (l.phase = .decode || l.phase = .stalled) && w.has (d.fullTime (l.ts % 2 ^ 48)))
    || (List.range 3).any (fun p => (d.fifo p).any fun c => c.sub = w.sub && w.has (d.compTime c))
    || d.tempo.items.any fun i => i.slot = w.slot && i.heardBy.isNone

/-- A closed window holds its votes while lanes of its frames or a transmission of it are outstanding (R217). -/
def Dev.winReleased (d : Dev) (w : NodeWin) : Bool :=
  let lanes := (laneRange w.sub).any fun i => (d.lane i).phase != .free && w.has (d.fullTime ((d.lane i).ts % 2 ^ 48))
  let sends := d.tempo.sends.any fun x => x.slot = w.slot
  let frames := d.tx.frames.any fun f => f.node = some w.slot &&
    ((f.isAck && f.stage != .held) || (f.sleepy && f.stage != .held))
  !lanes && !sends && !frames

/-- Closed windows that hold nothing any more release their votes (R217). -/
def Dev.winSweep (d : Dev) : Dev :=
  let keep := d.tempo.wins.filter fun w => w.phase != .releasing || !d.winReleased w
  if keep.length = d.tempo.wins.length then d else (d.setWins keep).settle

/-- WINDOW_CLOSE of the node in slot `s`: a miss is counted and the next window planned, or a schedule change takes
effect (R216, R219, R222). -/
def windowClose (s : Nat) (d : Dev) : Dev :=
  match d.openWin s with
  | none => d
  | some w =>
    if d.winBusy w then d
    else
      let d := d.setWins (d.tempo.wins.map fun (x : NodeWin) => if x = w then { x with phase := .releasing } else x)
      let d := (d.coexDrop (2 ^ 32 + s)).raise 0x47
      let d := if w.contacted then d else d.bump Fld.lnkSlpStat0_windowMiss
      let d := if w.changed then d.schedRestart s
        else if w.contacted then d
        else if d.cx s Cx.gPhase = 2 then d.searchMiss s w.cfg w.k (w.e + usTicks w.h)
        else d.planWindow s w.k
      d.winSweep.settle

/-- WINDOW_CLOSE (R216). -/
def execWindowClose (slot : Nat) (s : State) : Host.Outcome State Fault Refusal := s.run (windowClose slot)

/-! Held frames and Check patterns (R218, R220). -/

/-- The next held frame of slot `s`. -/
def Dev.nextHeld (d : Dev) (s : Nat) : Option TxFrame :=
  d.tx.frames.find? fun f => f.node = some s && f.stage = .held

/-- A held frame of slot `s` is on its way. -/
def Dev.heldInFlight (d : Dev) (s : Nat) : Bool :=
  d.tx.frames.any fun f => f.node = some s && f.sleepy && f.stage != .held

/-- HELD_FRAME_SEND for the node in slot `s`: TP3 takes its next held frame, on the channel and PHY of the contact,
with Frame Pending while more are held; a secured frame is secured now (R218). Held frames are sent only in
TRACK, or for a node without a schedule. One that another member hears gets one frame in a window. -/
def heldFrameSend (s : Nat) (d : Dev) : Dev :=
  match d.tempo.sends.find? fun x => x.slot = s with
  | none => d
  | some p =>
    if d.heldInFlight s then d
    else
      match d.nextHeld s with
      | none => ({ d with tempo := { d.tempo with sends := d.tempo.sends.filter fun x => x.slot != s } }).winSweep
      | some f =>
        if !d.releases s ∨ d.damagedSlot s then
          ({ d with tempo := { d.tempo with sends := d.tempo.sends.filter fun x => x.slot != s } }).winSweep
        else
          let d := if (d.heardBy s).isSome then
              { d with tempo := { d.tempo with sends := d.tempo.sends.filter fun x => x.slot != s } }
            else d
          let f := { f with
            stage := .scheduled, cls := 2, sub := p.sub, chan := p.chan, phy := p.phy, mode := p.mode, start := p.at'
            mac := setPending f.mac (d.pendingFor s f.id) }
          let d := (d.takeInput f.id).setFrame f
          if f.secure then d.secureFrame f else d

/-- HELD_FRAME_SEND (R218). -/
def execHeldFrameSend (slot : Nat) (s : State) : Host.Outcome State Fault Refusal := s.run (heldFrameSend slot)

/-- CHECK_TELEGRAM_SEND for the node in slot `s`: TP3 takes a Check pattern to its wake address (R220). -/
def checkTelegramSend (s : Nat) (d : Dev) : Dev :=
  match d.tempo.checks.find? fun c => c.slot = s with
  | none => d
  | some c =>
    match c.due with
    | none => d
    | some t =>
      if d.cx s Cx.gPhase ≠ 3 then d
      else
        let q := slpOf c.cfg (if c.sub then Fld.lnkSlpWake_qsub else Fld.lnkSlpWake_q24)
        let f : TxFrame := {
          id := 0, origin := .check, cls := 2, sub := c.sub, chan := c.chan, phy := 3, wake := d.wakeAddr s
          earliest := max t d.tmb, node := some s, power := signedOf q 9
          profile := slpOf c.cfg (if c.sub then Fld.lnkSlpWake_psub else Fld.lnkSlpWake_p24)
          stage := .scheduled }
        let spend (x : CheckRun) : CheckRun := if x.slot = s then { x with due := none } else x
        ({ d with tempo := { d.tempo with checks := d.tempo.checks.map spend } }).addFrame f

/-- CHECK_TELEGRAM_SEND (R220). -/
def execCheckTelegramSend (slot : Nat) (s : State) : Host.Outcome State Fault Refusal :=
  s.run (checkTelegramSend slot)

/-- CHECK_WAIT_END for the node in slot `s`: the next telegram is due, or the node is reported (R220, R221). -/
def checkWaitEnd (s : Nat) (d : Dev) : Dev :=
  match d.tempo.checks.find? fun c => c.slot = s && c.wait.isSome with
  | none => d
  | some c =>
    if slpOf c.cfg Fld.lnkSlpLost_checkTries ≤ d.cx s Cx.gCount then (d.enterReported s).settle
    else
      let next (x : CheckRun) : CheckRun :=
        if x.slot = s then { x with due := some d.tmb, wait := none, lead := none, cfg := d.slpCfg } else x
      ({ d with tempo := { d.tempo with checks := d.tempo.checks.map next } }).settle

/-- CHECK_WAIT_END (R220). -/
def execCheckWaitEnd (slot : Nat) (s : State) : Host.Outcome State Fault Refusal := s.run (checkWaitEnd slot)

end Sys2Proof.Machine
end

