-- ==== Sys2Proof/Machine/Tempo.lean ====
section
/-! DEFINITION. The receive pairs: senders, verdicts, write-backs, acknowledgements, forwarding and delivery
(R20, R135, R185–R198, R210, R234, R235, R245–R248). -/

namespace Sys2Proof.Machine

open Sys2Proof

/-! What a pair sees of a frame. -/

/-- A received frame: its record's fields, and its MAC frame without FCS. -/
structure RxFrame where
  sub : Bool
  chan : Nat
  phy : Nat
  mode : Nat
  fec : Bool
  fcs16 : Bool
  whiten : Bool
  len : Nat
  /-- TIMESTAMP, 48 bits, and the end of the frame, TMB. -/
  ts : Nat
  endAt : Nat
  rxseq : Nat
  lane : Nat
  peer : Option Nat
  lqi : Nat
  rssi : Nat
  check : Nat
  /-- Record and PSDU. -/
  octets : List Byte
  mac : List Byte
  deriving DecidableEq, Repr

/-- The frame of a completion whose record and PSDU are `bs`. -/
def rxFrame (c : Completion) (bs : List Byte) : RxFrame :=
  let psdu := bs.drop 32
  {
    sub := c.sub, chan := c.chan, phy := c.phy, mode := c.mode, fec := c.fec, fcs16 := c.fcs16, whiten := c.whiten
    len := c.len, ts := leAt bs 8 6, endAt := c.endAt, rxseq := c.rxseq, lane := c.lane, peer := c.peer
    lqi := leAt bs 24 1, rssi := ((slice bs 16 4).map fun b => b.toNat).foldl max 0, check := leAt bs 28 2
    octets := bs, mac := psdu.take (psdu.length - fcsLen c.fcs16) }

/-- The frame of a completion as staged. -/
def Dev.staged (d : Dev) (c : Completion) : RxFrame :=
  rxFrame c (d.bytes (stagingAddr c.buf) (32 + c.len))

/-- The frame whose MAC octets from `i` on are replaced by plaintext. -/
def RxFrame.withPlain (x : RxFrame) (i : Nat) (m : List Byte) : RxFrame :=
  { x with mac := patch x.mac i m, octets := patch x.octets (32 + i) m }

/-! Addresses (R191, R192). -/

/-- Enabled LNK_IDn: PAN_ID and SHORT. -/
def Dev.idEntries (d : Dev) : List (Nat × Nat) :=
  ((List.range 4).map fun n => (d.rd Fld.lnkId_panId n, d.rd Fld.lnkId_short n)).filter fun e => e.1 != 0xFFFF

/-- The device EUI-64. -/
def Dev.eui (d : Dev) : Nat := (d.reg Reg.lnkEuiLo).toNat + (d.reg Reg.lnkEuiHi).toNat * 2 ^ 32

/-- The address tests of R191. -/
def Dev.addressed (d : Dev) (h : Mhr) : Bool :=
  h.dstMode != 0 && !(h.dstMode = 2 && h.dst = 0xFFFF) &&
    d.idEntries.any fun e =>
      (match h.dstPan with | some p => p = e.1 | none => true) &&
        (if h.dstMode = 2 then h.dst = e.2 && decide (e.2 < 0xFFFE) else h.dst = d.eui)

/-- R191 holds. -/
def Dev.ackOk (d : Dev) (h : Mhr) : Bool := h.ackReq && d.addressed h

/-- A local frame (R245). -/
def Dev.localFrame (d : Dev) (h : Mhr) : Bool :=
  h.dstMode = 0 || (h.dstMode = 2 && h.dst = 0xFFFF) || d.addressed h

/-- The route entry of an address: mode, PAN identifier where the frame gives one, and value. A short address without a
PAN identifier is tried with that of each enabled LNK_IDn (R191, R239). -/
def Dev.findAddr (d : Dev) (mode : Nat) (pan : Option Nat) (addr : Nat) : Option Nat :=
  match mode with
  | 3 => d.findKey (keyEui addr)
  | 2 =>
    match pan with
    | some p => d.findKey (keyShort addr p)
    | none => (d.idEntries.filterMap fun e => d.findKey (keyShort addr e.1)).head?
  | _ => none

/-- Who sent a frame (R192). -/
inductive Sender where
  | resident (slot : Nat)
  /-- By its route entry. -/
  | visitor (route : Nat)
  | unknown
  deriving DecidableEq, Repr

/-- The sender of a frame. -/
def Dev.senderOf (d : Dev) (h : Mhr) : Sender :=
  match d.findAddr h.srcMode (match h.srcPan with | some p => some p | none => h.dstPan) h.src with
  | some r => if d.rteResident r then .resident (d.rteTarget r) else .visitor r
  | none => .unknown

/-! Verdicts (R194). -/

inductive Verdict where
  | new
  | duplicate
  | verify
  | dropReplay
  | dropCounterUnknown
  | dropUnsecured
  deriving DecidableEq, Repr

/-- f.mic16: the last two MIC octets, first octet in [7:0]. -/
def RxFrame.mic16 (x : RxFrame) : Nat := leNat (x.mac.drop (x.mac.length - 2))

/-- What LAST_CHECK takes of a frame from slot `s`. -/
def Dev.checkOf (d : Dev) (s : Nat) (h : Mhr) (x : RxFrame) : Nat :=
  if d.cxIs s Cx.secureClass && h.secured && micLen h.level != 0 then x.mic16 else x.check

/-- The frame repeats the last one by its DSN and check (R194, R234). -/
def Dev.sameFrame (d : Dev) (s : Nat) (h : Mhr) (x : RxFrame) : Bool :=
  d.cxIs s Cx.history && !h.noDsn && h.dsn = d.cx s Cx.lastDsn && x.check = d.cx s Cx.lastCheck

/-- The verdict at S2 on a frame from the resident node in slot `s` (R194). -/
def Dev.verdict (d : Dev) (s : Nat) (h : Mhr) (x : RxFrame) : Verdict :=
  if !h.secured then
    if d.cxIs s Cx.secureClass then .dropUnsecured
    else if d.sameFrame s h x then .duplicate else .new
  else if d.cxIs s Cx.counterUnknown then .dropCounterUnknown
  else if h.fc = 0xFFFFFFFF then .dropReplay
  else if d.cxIs s Cx.secureClass then
    if d.cx s Cx.fcIn ≤ h.fc then .verify
    else if h.fc + 1 = d.cx s Cx.fcIn && d.cxIs s Cx.history && d.checkOf s h x = d.cx s Cx.lastCheck then .duplicate
    else .dropReplay
  else if d.sameFrame s h x then .duplicate
  else if h.fc < d.cx s Cx.fcIn then .dropReplay
  else .verify

/-- The write-back of a NEW verdict: duplicate state and link quality (R194, R234, R235). -/
def Dev.newWriteBack (d : Dev) (s : Nat) (h : Mhr) (x : RxFrame) : Dev :=
  let check := d.checkOf s h x
  let lq : Int := if d.cxIs s Cx.lqKnown then
      (d.cx s Cx.lq : Int) + ((x.lqi : Int) - d.cx s Cx.lq) / (2 ^ d.rd Fld.ndtCfg_lqAlpha : Nat)
    else x.lqi
  let d := if h.secured then d.setCx s Cx.fcIn (h.fc + 1) else d
  let d := if h.noDsn then d else d.setCx s Cx.lastDsn h.dsn
  let d := ((d.setCx s Cx.lastCheck check).setCx s Cx.history 1)
  let d := (d.setCx s Cx.lq (clampInt lq 0 255).toNat).setCx s Cx.lqKnown 1
  let d := (((d.setCx s Cx.lastRssi x.rssi).setCx s Cx.lastCh x.chan).setCx s Cx.lastBand (b2n x.sub)).setCx s Cx.lastPhy x.phy
  (d.cxBump s Cx.rxFrames).cxTouch s

/-! TSCH receive cells (R210). -/

/-- TMB of the first SHR chip of a received frame, from its TIMESTAMP and the freeze-point offset of its PHY (R210). -/
def Dev.shrAt (d : Dev) (x : RxFrame) : Nat :=
  d.fullTime x.ts - (d.airTicks x.phy x.mode x.len 8 x.fec - d.afterFreeze x.phy x.mode x.len x.fec)

/-- Where the first SHR chip of a frame from slot `s` lies against TX_OFFSET of its timeslot, in ticks, if the frame is
in a receive cell. -/
def Dev.inCell (d : Dev) (s : Option Nat) (x : RxFrame) : Option Int :=
  if !d.is Fld.lnkTschCtrl_en || d.slotTicks = 0 || d.is Fld.lnkTschCtrl_band != x.sub then none
  else
    let t := d.shrAt x
    if t < d.tempo.tsch.t0 then none
    else
      let k := (t - d.tempo.tsch.t0) / d.slotTicks
      let a := d.tempo.tsch.asn0 + k
      let off : Int := (((t - d.tempo.tsch.t0) % d.slotTicks : Nat) : Int) - usTicks (d.rd Fld.lnkTschTmpl_lo 0)
      let hit := (List.range 1024).any fun c =>
        d.cellOccurs c a && d.is Fld.lnkCellW0_rx c && d.cellChan c a = x.chan &&
          (d.is Fld.lnkCellW1_broadcast c || s = some (d.rd Fld.lnkCellW1_localIndex c))
      if hit && decide (2 * off.natAbs ≤ usTicks (d.rd Fld.lnkTschTmpl_hi 0)) then some off else none

/-! Acknowledgements (R188, R189, R196–R198, R135). -/

/-- Turnaround T of a frame: that of its PHY, or TX_ACK_DELAY in a receive cell. -/
def Dev.ackT (d : Dev) (x : RxFrame) (cell : Option Int) : Nat :=
  if cell.isSome then usTicks (d.rd Fld.lnkTschTmpl_hi 1) else turnaround x.phy

/-- Header IEs of the acknowledgement: the Time Correction of a receive cell (R210). -/
def ackIes (h : Mhr) (cell : Option Int) : List Byte :=
  match cell with
  | some off => if h.version = 2 then timeCorrectionIe (roundDiv (-off) ticksPerUs) else []
  | none => []

/-- The S5 bound of Table 09.2 in ticks; `verify` where S3 runs, `unwrap` where the key must be unwrapped. -/
def s5Bound (x : RxFrame) (verify unwrap : Bool) : Nat :=
  let ub := usTicks ((if unwrap then 12 else 0) + (x.mac.length + 15) / 16)
  match x.phy with
  | 0 => usTicks 150
  | 1 => if verify then usTicks 15 + ub else usTicks 14 + 16
  | _ => if verify then usTicks 67 + ub else usTicks 66 + 16

/-- The acknowledgement of a frame before its octets are known. -/
def ackProto (x : RxFrame) (pair start : Nat) (slot : Option Nat) : TxFrame :=
  {
    id := 0, origin := .ack pair, cls := 1, sub := x.sub, chan := x.chan, phy := x.phy, mode := x.mode, fec := x.fec
    fcs16 := x.fcs16, whiten := x.whiten, start := start, node := slot, stage := .scheduled }

/-- The S5 deadline of Table 09.2 in ticks after the end of the frame. -/
def Dev.s5Deadline (d : Dev) (x : RxFrame) (t : Nat) : Int :=
  (t : Int) - d.txPre - d.ackListen (ackProto x 0 0 none)

/-- The plan of R189: the bound is within the deadline, and the deadline has not passed. -/
def Dev.ackPlan (d : Dev) (x : RxFrame) (t : Nat) (verify unwrap : Bool) : Bool :=
  decide ((s5Bound x verify unwrap : Int) ≤ d.s5Deadline x t) && decide ((d.tmb : Int) ≤ x.endAt + d.s5Deadline x t)

/-- The slot of a frame's sender, where its context is here. -/
def Dev.residentOf (d : Dev) (h : Mhr) : Option Nat :=
  match d.senderOf h with
  | .resident s => some s
  | _ => none

/-- The acknowledgement window of a forked frame that requests an acknowledgement (R135). -/
def Dev.ackWindow (d : Dev) (x : RxFrame) : Option AckWindow :=
  match x.peer, readMhr x.mac with
  | some _, some h =>
    if h.type = 2 || !h.ackReq then none
    else
      let n := d.airTicks x.phy x.mode (ackLen h (ackIes h (d.inCell (d.residentOf h) x)) (fcsLen x.fcs16)) 8 x.fec
      let t := x.endAt + turnaround x.phy
      some { rxseq := x.rxseq, endAt := x.endAt, lane := x.lane, start := t, stop := t + n }
  | _, _ => none

/-- A forked frame ended, with its FCS good: its window is kept for the frame that ends after it (R135). -/
def Dev.keepWindow (d : Dev) (x : RxFrame) : Dev :=
  match d.ackWindow x with
  | some w =>
    { d with tempo := { d.tempo with windows := (d.tempo.windows.filter fun v => decide (d.tmb ≤ v.stop)) ++ [w] } }
  | none => d

/-- Frame `v` of a fork ended before frame `w`; of two that end in one tick, the one on the lower lane did (R135). -/
def AckWindow.endsFirst (v w : AckWindow) : Bool :=
  decide (v.endAt < w.endAt) || (v.endAt = w.endAt && decide (v.lane < w.lane))

/-- The window of a forked frame overlaps that of its peer, which ended first; the peer has been taken up, or its completion
waits still (R135). -/
def Dev.collides (d : Dev) (x : RxFrame) : Bool :=
  match x.peer, d.ackWindow x with
  | some r, some w =>
    (d.tempo.windows ++ (d.fifo (pairOf x.sub x.chan)).filterMap fun c => d.ackWindow (d.staged c)).any fun v =>
      v.rxseq = r && v.endsFirst w && decide (v.start ≤ w.stop) && decide (w.start ≤ v.stop)
  | _, _ => false

/-- An acknowledgement suppressed by lockstep on pair `p` (R200). -/
def Dev.ackLockstep (d : Dev) (p : Nat) : Dev := (d.bump Fld.lnkLockStat_ackSuppressedLockstep p).raise 0x41

/-- The engine pair that does the work of pair `p`: TP4 once it has taken over. -/
def Dev.enginePair (d : Dev) (p : Nat) : Nat := if d.pairs.retired.contains p then 4 else p

/-- S4 and S5: the acknowledgement is built, its MIC requested, and it is handed to TP3 (R196, R197, R198). `secured`:
the frame is from a resident sender and secured. `contact`: the frame is a contact, so Frame Pending releases held
frames (R218). -/
def Dev.ackSend (d : Dev) (p : Nat) (x : RxFrame) (h : Mhr) (slot : Option Nat) (cell : Option Int)
    (contact late : Bool) : Dev :=
  if late then d.ackLockstep (d.enginePair p)
  else
    let h := if slot.isSome then h else { h with secured := false }
    let pending := match slot with | some s => d.tempo.pendMap.contains s | none => false
    let secured := h.version = 2 && h.secured
    let fc := match slot with | some s => d.cx s Cx.fcOut | none => 0
    if secured && fc = 0xFFFFFFFF then (d.bump Fld.lnkStat3_ackCounter).raise 0x42
    else
      let ie := ackIes h cell
      let mac := ackFrame h pending fc ie
      let q := if x.sub then d.rd Fld.lnkAckPwr_qsub else d.rd Fld.lnkAckPwr_q24
      let sleepy := match slot with | some s => d.cxIs s Cx.sleepy | none => false
      let f : TxFrame := { ackProto x p (x.endAt + d.ackT x cell) slot with
        mac := mac, power := signedOf q 9
        profile := if x.sub then d.rd Fld.lnkAckPwr_psub else d.rd Fld.lnkAckPwr_p24
        fc := if secured then some fc else none, secure := secured, nonceSrc := natBe 8 d.eui
        pendingBit := contact && pending && sleepy }
      match slot with
      | some s =>
        if secured && micLen h.level != 0 then
          match readMhrPlain mac with
          | some a =>
            let c := ccmSplit a mac
            let r : CipherReq := {
              id := 0, origin := .tempo p, mode := 4, dec := false, cls := 0, byNode := true, node := d.cx s Cx.nodeAddr
              aLen := c.1.length, mLen := c.2.length, tagLen := micLen h.level, nonceLen := 13
              direct := some (ccmNonce f.nonceSrc fc h.level, c.1, c.2, []) }
            let y := d.cphRequest r
            (y.1.addFrame { f with stage := .cipher y.2 }).settle
          | none => d.addFrame f
        else d.addFrame f
      | none => d.addFrame f

/-! Delivery and forwarding (R245–R248). -/

/-- A frame of the node in slot `s` goes to the host with a reason and a status. -/
def Dev.toHost (d : Dev) (s : Nat) (x : RxFrame) (reason status : Nat) : Dev :=
  let d := if reason = 0 ∨ reason = 9 then d else d.bump Fld.ndtStat1_toHost
  d.receivePost (d.rxqOf s) x.octets reason status (d.cx s Cx.nodeAddr) true x.rxseq

/-- KIM and key identifier octets that the key of slot `s` carries (R246, R382). -/
def Dev.keyIdent (d : Dev) (s : Nat) (h : Mhr) : Nat × List Byte :=
  let hdr := if d.cxIs s Cx.kslotValid then (alGet (d.cx s Cx.kslot) d.keys.slots).map (·.hdr)
    else match d.openBlob s with | .ok (w0, _) => some w0 | .error _ => none
  match hdr with
  | none => (h.kim, h.kid)
  | some w =>
    let kim := bitsOf w 11 10
    let source := match kim with
      | 2 => natLe 2 (d.rd Fld.lnkId_panId 0) ++ natLe 2 (d.rd Fld.lnkId_short 0)
      | 3 => natLe 8 d.eui
      | _ => []
    (kim, if kim = 0 then [] else source ++ natLe 1 (bitsOf w 31 24))

/-- The MAC frame of a relay to the next hop in slot `n`, without MIC: Frame Pending 0, and a secured frame's auxiliary
header rewritten for the next hop's key (R246). -/
def Dev.relayMac (d : Dev) (n : Nat) (x : RxFrame) (h : Mhr) : List Byte :=
  let m := setPending x.mac false
  if !h.secured then m
  else
    let k := d.keyIdent n h
    let body := (m.take (m.length - micLen h.level)).drop h.auxEnd
    m.take (h.fcAt - 1) ++ natLe 1 (h.level + 8 * k.1) ++ natLe 4 0 ++ k.2 ++ body

/-- A relay to the next hop in slot `n` through queue `queue`, heard from the node in slot `s` (R246, R247). -/
def Dev.relaySend (d : Dev) (s n queue : Nat) (x : RxFrame) (h : Mhr) : Dev :=
  let phy := d.cx n Cx.lastPhy
  let same := phy = x.phy
  let sub := d.cxIs n Cx.lastBand
  let q := if sub then d.rd Fld.lnkAckPwr_qsub else d.rd Fld.lnkAckPwr_q24
  let sleepy := d.cxIs n Cx.sleepy
  let f : TxFrame := {
    id := d.tx.nextId, origin := .relay, cls := 5, sub := sub, chan := d.cx n Cx.lastCh, phy := phy, mode := d.rxw.mode
    fec := same && x.fec, fcs16 := phy = 0 || (same && x.fcs16)
    whiten := if same then x.whiten else true
    mac := d.relayMac n x h, queue := queue
    profile := if sub then d.rd Fld.lnkAckPwr_psub else d.rd Fld.lnkAckPwr_p24, power := signedOf q 9
    ackReq := h.ackReq, node := some n, retries := d.rd Fld.ndtCfg_relayRetries, gap := 1000, sleepy := sleepy
    secure := h.secured, nonceSrc := natBe 8 (d.cx s Cx.eui)
    stage := if sleepy then .held else .scheduled }
  let d := d.addFrame f
  if !d.tp3Ok then d.txRefuse f Code.resourceRetired false
  else if sleepy || !h.secured then d else d.secureFrame { f with nodeAddr := d.cx n Cx.nodeAddr }

/-- The next hop toward the resident destination in slot `t` (Table 11.9, step 7). -/
def Dev.nextHop (d : Dev) (t : Nat) : Option Nat :=
  let n := if d.cx t Cx.hops = 0 then t else d.cx t Cx.nextHop
  if d.cx t Cx.hops = 15 then none
  else if d.cx t Cx.hops ≠ 0 ∧ ¬ (d.slotValid n ∧ d.cxIs n Cx.router) then none
  else if d.cx n Cx.rxFrames = 0 then none
  else some n

/-- A secured frame cannot be secured for the node in slot `n` (Table 11.9, step 9). -/
def Dev.noCounter (d : Dev) (n : Nat) (h : Mhr) : Bool :=
  h.secured && (d.cxIs n Cx.counterUnknown || d.cx n Cx.fcOut = 0xFFFFFFFF)

/-- The relay queue of next hop `n` is full: reclaimed, or the hold pool has no room (R292, R311). -/
def Dev.relayFull (d : Dev) (n : Nat) (m : List Byte) : Bool :=
  d.hci.reclaimed.contains (96 + n % 8) || !d.poolFits m.length

/-- The forwarding decision on a NEW frame from the resident node in slot `s` that is not local (Table 11.9). -/
def Dev.forwardFrame (d : Dev) (s : Nat) (x : RxFrame) (h : Mhr) : Dev :=
  if !d.is Fld.ndtCfg_fwdEn then d.toHost s x 6 Code.ok
  else if !d.cxIs s Cx.relay then d.toHost s x 5 Code.ok
  else
    match d.findAddr h.dstMode h.dstPan h.dst with
    | none => d.toHost s x 2 Code.nodeUnknown
    | some r =>
      let t := d.rteTarget r
      if d.rteResident r && d.damagedSlot t then d.toHost s x 3 Code.rebuilding
      else if !d.rteResident r then d.toHost s x 1 Code.ok
      else if d.rteMember r ≠ d.member then
        if d.memberGone (d.rteMember r) then d.bump Fld.fedStat2_fwdDrop
        else d.relaySend s t (104 + t % 8) x h
      else
        match d.nextHop t with
        | none => d.toHost s x 3 Code.ok
        | some n =>
          if n = s then d.toHost s x 7 Code.ok
          else if d.noCounter n h then d.toHost s x 8 Code.ok
          else if d.relayFull n x.mac then (d.bump Fld.ndtStat1_relayFull).toHost s x 4 Code.ok
          else (d.relaySend s n (96 + n % 8) x h).bump Fld.ndtStat0_relayed

/-- R248: a directly heard node gets HOPS 0 where it was 15, and MEMBER := NDT_MEMBER. -/
def Dev.learn (d : Dev) (s : Nat) : Dev :=
  if !d.is Fld.ndtCfg_learn then d
  else
    let d := if d.cx s Cx.hops = 15 then (d.setCx s Cx.hops 0).cxTouch s else d
    if d.rteMember s = d.member then d else d.setRteMember s d.member

/-- NEW visitor frames of a node by the member that heard them, in a row (R280). -/
def Dev.visitNote (d : Dev) (s : Nat) (by' : Option Nat) (x : RxFrame) : Dev :=
  let node := d.cx s Cx.nodeAddr
  let rest := d.fed.visits.filter fun v => v.node != node
  match by' with
  | none => { d with fed := { d.fed with visits := rest } }
  | some m =>
    let old := match d.fed.visits.find? fun v => v.node = node && v.member = m with | some v => v.count | none => 0
    let v : Visits := { node := node, member := m, count := old + 1, rssi := x.rssi }
    { d with fed := { d.fed with visits := rest ++ [v] } }

/-- A NEW frame of the node in slot `s`: write-back, contact, learning, acknowledgement and delivery (R195, R214,
R245, R248). `by'` is the member that heard a visitor frame. -/
def Dev.acceptNew (d : Dev) (p s : Nat) (x : RxFrame) (h : Mhr) (by' : Option Nat) (ack late : Bool)
    (cell : Option Int) : Dev :=
  let d := (d.visitNote s by' x).newWriteBack s h x
  let c := d.contact s x.ts x.sub true
  let d := if by'.isNone then c.1.learn s else c.1
  let d := if by'.isSome && c.2 && !d.scheduled s && d.cxIs s Cx.sleepy then d.releaseRemote s 0 x.sub x.chan else d
  let d := if ack then d.ackSend p x h (some s) cell c.2 late else d
  if d.localFrame h then d.toHost s x (if by'.isSome then 9 else 0) Code.ok else d.forwardFrame s x h

/-! S2. -/

/-- COUNTER_UNKNOWN notice of a node, at most once a second (R195). -/
def Dev.counterNotice (d : Dev) (s : Nat) : Dev :=
  let due := match alGet s d.tempo.notices with
    | some t => decide (usTicks 1000000 ≤ d.tmb - t)
    | none => true
  if due then
    ({ d with tempo := { d.tempo with notices := alSet s d.tmb d.tempo.notices } }).nodeNotice s Code.counterUnknown
  else d

/-- The node's migration away from here is under way: it is not served (R280). -/
def Dev.frozenSlot (d : Dev) (s : Nat) : Bool := d.fed.migrations.any fun m => m.source && m.slot = s

/-- S3 is submitted: urgent, or normal where no acknowledgement can be in time (R189, R190, R412). -/
def Dev.submitVerify (d : Dev) (i : WorkItem) (x : RxFrame) (h : Mhr) (cls : Nat) : Dev :=
  let n := x.mac.length - micLen h.level
  let c := ccmSplit h (x.mac.take n)
  let src := if h.srcMode = 3 then natBe 8 h.src else natBe 8 (d.cx i.slot Cx.eui)
  let r : CipherReq := {
    id := 0, origin := if i.pair = 5 then .forwarding else .tempo i.pair, mode := 4, dec := true, cls := cls
    byNode := true, node := i.node, aLen := c.1.length, mLen := c.2.length, tagLen := micLen h.level, nonceLen := 13
    direct := some (ccmNonce src h.fc h.level, c.1, c.2, x.mac.drop n) }
  let y := d.cphRequest r
  ({ y.1 with tempo := { y.1.tempo with items := y.1.tempo.items ++ [{ i with req := y.2 }] } }).settle

/-- The verdict of S3 on an item whose frame is `x`: NEW with its plaintext, or a drop (R194, R195, R384). -/
def Dev.verified (d : Dev) (i : WorkItem) (x : RxFrame) (h : Mhr) (status : Nat) (plain : List Byte) : Dev :=
  if !d.slotValid i.slot || d.cx i.slot Cx.nodeAddr ≠ i.node then d
  else if status = Code.ok then
    let cell := if i.heardBy.isSome then none else d.inCell (some i.slot) x
    let y := if h.level = 0 ∨ 4 ≤ h.level then x.withPlain h.len plain else x
    d.acceptNew i.pair i.slot y h i.heardBy i.ackPlanned i.late cell
  else if status = Code.authFail then d.bump Fld.lnkStat1_authFailDrop
  else d

/-- A frame from the resident node in slot `s` after the verdict of S2 (R189, R194, R195). -/
def Dev.residentFrame (d : Dev) (i : WorkItem) (x : RxFrame) (h : Mhr) : Dev :=
  let s := i.slot
  let cell := if i.heardBy.isSome then none else d.inCell (some s) x
  let t := d.ackT x cell
  let want := i.heardBy.isNone && d.ackOk h
  let fork := i.heardBy.isNone && d.collides x
  let plan (d : Dev) (verify : Bool) : Dev × Bool :=
    if !want then (d, false)
    else if fork then ((d.bump Fld.rxwForkStat1_ackSuppressedCollision).raise 0x41, false)
    else if d.ackPlan x t verify (verify && !d.cxIs s Cx.kslotValid) then (d, true)
    else (d.bump Fld.lnkStat3_ackLate, false)
  match d.verdict s h x with
  | .dropUnsecured => d.bump Fld.lnkStat2_unsecuredDrop
  | .dropReplay => d.bump Fld.lnkStat0_replayDrop
  | .dropCounterUnknown => (d.bump Fld.lnkStat1_counterUnknownDrop).counterNotice s
  | .new => let y := plan d false; y.1.acceptNew i.pair s x h i.heardBy y.2 i.late cell
  | .duplicate =>
    let y := plan (d.bump Fld.lnkStat0_duplicates) false
    let c := y.1.contact s x.ts x.sub false
    if y.2 then c.1.ackSend i.pair x h (some s) cell c.2 i.late else c.1
  | .verify =>
    let y := plan d true
    let i := { i with ackPlanned := y.2 }
    let cls := if i.pair = 5 then 1 else if want && !fork && !y.2 then 1 else 0
    if h.level = 0 then
      let f := y.1.free 1
      f.2.verified i x h (if f.1 = 1 then Code.ok else Code.authFail) (x.mac.drop h.len)
    else y.1.submitVerify i x h cls

/-- A frame from an unknown sender (R192). -/
def Dev.unknownFrame (d : Dev) (p : Nat) (x : RxFrame) (h : Mhr) (late : Bool) : Dev :=
  let d := d.bump Fld.lnkStat6_unknownSender
  let cell := d.inCell none x
  let t := d.ackT x cell
  let d := if !h.secured && d.is Fld.lnkCfg_ackUnknown && d.ackOk h then
      if d.collides x then (d.bump Fld.rxwForkStat1_ackSuppressedCollision).raise 0x41
      else if d.ackPlan x t false false then d.ackSend p x h none cell false late
      else d.bump Fld.lnkStat3_ackLate
    else d
  d.receivePost 64 x.octets 0 Code.nodeUnknown 0 false x.rxseq

/-- A frame whose sender's context lies on another member: an Imm-Ack, with the turnaround of a BROADCAST cell where it is in
one, and the frame as received goes to the owner (R20, R192, R210). -/
def Dev.visitorFrame (d : Dev) (p r : Nat) (x : RxFrame) (h : Mhr) (late : Bool) : Dev :=
  let cell := d.inCell none x
  let t := d.ackT x cell
  let d := if h.version ≤ 1 && d.ackOk h then
      if d.collides x then (d.bump Fld.rxwForkStat1_ackSuppressedCollision).raise 0x41
      else if d.ackPlan x t false false then d.ackSend p x h none cell false late
      else d.bump Fld.lnkStat3_ackLate
    else d
  d.fedForward (d.rteMember r) (.visitor (d.rteNode r) x.octets)

/-- A received acknowledgement is consumed by the frame that awaits it: on its band and channel, with its sequence
number, and in a cell not before RX_ACK_DELAY (R149, R210). -/
def Dev.ackReceived (d : Dev) (x : RxFrame) (h : Mhr) : Dev :=
  let match' (f : TxFrame) : Bool :=
    (match f.stage with | .ackWait _ => true | _ => false) && f.sub = x.sub && f.chan = x.chan &&
      decide (f.ackFrom ≤ d.shrAt x) &&
      (match (if f.secure then readMhrPlain f.mac else readMhr f.mac) with
        | some g => g.noDsn = h.noDsn && g.dsn = h.dsn
        | none => false)
  match d.tx.frames.find? match' with
  | some f => d.txAcked f x.endAt
  | none => d

/-- The pair's work on one frame, its buffer already released (R148, R149, R187, R192, R193). -/
def Dev.processFrame (d : Dev) (p : Nat) (c : Completion) (x : RxFrame) (late : Bool) : Dev :=
  if 5 ≤ macType x.mac then d.receivePost 64 x.octets 0 Code.ok 0 false x.rxseq
  else
    match readMhr x.mac with
    | none => d.bump Fld.lnkStat2_versionDrop
    | some h =>
      if h.type = 2 then d.ackReceived x h
      else
        match d.senderOf h with
        | .unknown => d.unknownFrame p x h late
        | .visitor r => d.visitorFrame p r x h late
        | .resident s =>
          if d.damagedSlot s then d.bump Fld.ndtStat2_rebuildDrop
          else if d.frozenSlot s then d
          else
            d.residentFrame {
              pair := p, comp := c, slot := s, node := d.cx s Cx.nodeAddr, req := 0, ackPlanned := false, late := late
              octets := x.octets } x h

/-- The slot of the resident sender of a frame that goes to the duplicate rules. -/
def Dev.ruledSlot (d : Dev) (x : RxFrame) : Option Nat :=
  if 5 ≤ macType x.mac then none
  else
    match readMhr x.mac with
    | some h => if h.type = 2 then none else d.residentOf h
    | none => none

/-- The sender of a completion is under a verify that has not ended: the pair waits (R194). -/
def Dev.senderBusy (d : Dev) (x : RxFrame) : Bool :=
  match d.ruledSlot x with
  | some s => d.tempo.items.any fun i => i.slot = s
  | none => false

/-- A completion of the same sender with an earlier TIMESTAMP waits in the FIFO of a pair in service (R194). -/
def Dev.outOfTurn (d : Dev) (c : Completion) : Bool :=
  let x := d.staged c
  match d.ruledSlot x with
  | none => false
  | some s =>
    (List.range 3).any fun q =>
      (d.pairClient q).isSome && (d.fifo q).any fun b =>
        let y := d.staged b
        decide (d.fullTime y.ts < d.fullTime x.ts) && d.ruledSlot y = some s

/-- The completion that pair `p` takes: the first of its FIFO that no earlier frame of its sender must precede (R194). -/
def Dev.nextCompletion (d : Dev) (p : Nat) : Option Completion := (d.fifo p).find? fun c => !d.outOfTurn c

/-- The pair takes a completion from its FIFO; its buffer is released once its octets have been used. A forked frame keeps its
window whatever becomes of it (R135). -/
def Dev.popFifo (d : Dev) (p : Nat) (c : Completion) : Dev :=
  ((d.keepWindow (d.staged c)).setFifo p ((d.fifo p).erase c)).freeStaging c.buf

/-- The comparator writes the checkpoint of the pair that works for pair `p`, at a released stage or a work-item boundary
(R199). -/
def Dev.checkpoint (d : Dev) (p : Nat) : Dev :=
  let c : Checkpoint := {
    head := (d.fifo p).head?, stage := if d.tempo.items.any (fun i => i.pair = p) then 2 else 0
    slots := d.tempo.slots.map fun r => (r.entry, r.k), asn := d.tempo.tsch.asn }
  let write (q : Pair) : Pair := { q with check := c }
  { d with tempo := { d.tempo with pairs := modifyAt write (d.enginePair p) d.tempo.pairs } }

/-- The work of pair `p` on completion `c`, with the parity faults that its reads met: of the context read, which damages the
node, or of another read, which drops the frame (R421). -/
def Dev.workItem (d : Dev) (p : Nat) (c : Completion) (fault : PairFault) : Dev :=
  let x := d.staged c
  let late := (d.tempo.pairs.getD p {}).late
  let clear (q : Pair) : Pair := { q with late := false }
  let d := { d with tempo := { d.tempo with pairs := modifyAt clear p d.tempo.pairs } }
  match fault with
  | .none => (d.popFifo p c).processFrame p c x late
  | .context k =>
    match (readMhr x.mac).bind d.residentOf with
    | some s =>
      let f := d.fetch (memRes (ctxAddr s)) (ctxAddr s) k
      let d := f.1
      let d := if f.2 = FetchOutcome.exhausted then
          { d with ndt := { d.ndt with damaged := s :: d.ndt.damaged.filter (· != s) } } else d
      (d.popFifo p c).processFrame p c x late
    | none => (d.popFifo p c).processFrame p c x late
  | .other a k =>
    let f := d.fetch (memRes a) a k
    if f.2 = FetchOutcome.exhausted then (f.1.popFifo p c).bump Fld.lnkStat5_unserved
    else (f.1.popFifo p c).processFrame p c x late

/-- TEMPO_WORK_ITEM of pair `p` (R187), TP4 for the pair that it replaces: the next completion of its FIFO. A pair without an engine discards it (R202). -/
def tempoWorkItem (p : Nat) (fault : PairFault) (d : Dev) : Dev :=
  let p := if p = 4 then d.pairs.replaces else p
  match d.nextCompletion p with
  | none => d
  | some c =>
    if !d.tempoUp then d
    else if (d.pairClient p).isNone then (d.popFifo p c).bump Fld.lnkStat5_unserved
    else if d.senderBusy (d.staged c) then d
    else ((d.workItem p c fault).checkpoint p).settle

/-- TEMPO_WORK_ITEM (R187). -/
def execTempoWorkItem (p : Nat) (fault : PairFault) (s : State) : Host.Outcome State Fault Refusal :=
  s.run (tempoWorkItem p fault)

/-! Frames of resident nodes that other members heard (R20). -/

/-- The completion that a record and its PSDU describe. -/
def Dev.compOf (d : Dev) (bs : List Byte) : Completion :=
  let w0 := leAt bs 0 4
  let w1 := leAt bs 4 4
  let phy := w1 % 8
  let len := bs.length - 32
  let fec := w1.testBit 13
  {
    buf := 0, lane := bitsOf w0 22 16, rxseq := w0 % 65536, sub := w1.testBit 3, chan := bitsOf w0 29 24, phy := phy
    len := len, endAt := d.fullTime (leAt bs 8 6) + d.afterFreeze phy d.rxw.mode len fec, peer := none, mode := d.rxw.mode
    fec := fec, fcs16 := phy = 0 || fcsBytes true ((bs.drop 32).take (len - 2)) = (bs.drop 32).drop (len - 2)
    whiten := true }

/-- A frame of the resident node in slot `s` that member `m` heard: the forwarding engine gives it to the duplicate and
replay rules, without an acknowledgement (R20). -/
def Dev.visitorAt (d : Dev) (s m : Nat) (bs : List Byte) : Dev :=
  let c := d.compOf bs
  let x := rxFrame c bs
  if d.damagedSlot s then d.bump Fld.ndtStat2_rebuildDrop
  else if d.frozenSlot s then d
  else
    match readMhr x.mac with
    | none => d.bump Fld.lnkStat2_versionDrop
    | some h =>
      if h.type = 2 || 5 ≤ h.type then d
      else
        d.residentFrame {
          pair := 5, comp := c, slot := s, node := d.cx s Cx.nodeAddr, req := 0, ackPlanned := false, octets := bs
          heardBy := some m } x h

/-- Frames of the node in slot `s` that waited for its verify are taken up, until one of them is verified in turn; at
most `n` of them. -/
def Dev.inboxNext (d : Dev) (s : Nat) : Nat → Dev
  | 0 => d
  | n + 1 =>
    if d.tempo.items.any fun i => i.slot = s then d
    else
      match d.fed.inbox.find? fun x => x.node = d.cx s Cx.nodeAddr with
      | some x =>
        (({ d with fed := { d.fed with inbox := d.fed.inbox.erase x } }).visitorAt s x.member x.octets).inboxNext s n
      | none => d

/-- VERIFY_RESULT of the cipher request `req` (R194). -/
def verifyResult (req : Nat) (d : Dev) : Dev :=
  match d.tempo.items.find? fun i => i.req = req, d.cphResult req with
  | some i, some (status, out) =>
    let d := d.dropResult req
    let d := { d with tempo := { d.tempo with items := d.tempo.items.filter fun j => j.req != req } }
    let x := rxFrame i.comp i.octets
    match readMhr x.mac with
    | some h => (((d.verified i x h status out).inboxNext i.slot d.fed.inbox.length).checkpoint i.pair).settle
    | none => d
  | _, _ => d

/-- VERIFY_RESULT (R194). -/
def execVerifyResult (req : Nat) (s : State) : Host.Outcome State Fault Refusal := s.run (verifyResult req)

/-- ACK_DEADLINE_MISSED: the acknowledgement that depends on cipher request `req`, of a verify or of its own MIC, is not
committed and ACK_LATE counts (R189). -/
def ackDeadlineMissed (req : Nat) (d : Dev) : Dev :=
  if d.tempo.items.any fun i => i.req = req && i.ackPlanned then
    let miss (i : WorkItem) : WorkItem := if i.req = req then { i with ackPlanned := false } else i
    ({ d with tempo := { d.tempo with items := d.tempo.items.map miss } }).bump Fld.lnkStat3_ackLate
  else
    match d.tx.frames.find? fun f => f.isAck && f.stage = .cipher req with
    | some f => d.txLate f
    | none => d

/-- ACK_DEADLINE_MISSED (R189). -/
def execAckDeadlineMissed (req : Nat) (s : State) : Host.Outcome State Fault Refusal := s.run (ackDeadlineMissed req)

/-! Lockstep (R200–R204). -/

/-- STATE of pair `n` in LNK_PAIR_STATUS and REPLACES follow the retirement record (R203). -/
def Dev.pairStatus (d : Dev) : Dev :=
  let st (n : Nat) : Nat :=
    if d.pairs.retired.contains n then 3 else if n = 4 then (if d.pairs.replaces = 7 then 0 else 1) else 1
  let v := (List.range 5).foldl (fun m n => m + st n * 16 ^ n) 0
  (d.wr Fld.lnkPairStatus_state v).wr Fld.lnkPairStatus_replaces d.pairs.replaces

/-- TP4 takes over from pair `p`: its checkpoint, its FIFO and the stored votes of its client (R201). -/
def Dev.takeOver (d : Dev) (p : Nat) : Dev :=
  let c := (d.tempo.pairs.getD p {}).check
  let load (q : Pair) : Pair := { q with check := c }
  let own := Reg.pwrVoteV + 4 * (9 + p)
  let spare := Reg.pwrVoteV + 4 * 13
  let d := { d with
    fifos := putAt p [] (putAt 4 (d.fifos.getD p []) d.fifos)
    tempo := { d.tempo with pairs := modifyAt load 4 d.tempo.pairs }
    pairs := { d.pairs with replaces := p }
    pwr := { d.pwr with muted := alDel (9 + p) d.pwr.muted } }
  (d.setReg spare (d.reg spare ||| d.reg own)).setReg own 0

/-- TP4 no longer serves for the pair that it replaced, whose FIFO stays with the completions that wait. -/
def Dev.handBack (d : Dev) : Dev :=
  { d with
    fifos := putAt 4 [] (putAt d.pairs.replaces (d.fifos.getD 4 []) d.fifos)
    pairs := { d.pairs with replaces := 7 } }

/-- No pair does TP3's work any more: every frame not committed to a chain completes with RESOURCE_RETIRED, and each
acknowledgement counts in ACK_NO_CHAIN (R202). -/
def Dev.transmitEnds (d : Dev) : Dev :=
  d.tx.frames.foldl (fun d f =>
    match f.stage with
    | .committed _ => d
    | .remote => d
    | .ackWait _ => d
    | _ => if f.isAck then d.ackNoChain f else d.txRefuse f Code.resourceRetired false) d

/-- Pair `p` is retired: TP4 takes over where it may, or the retirement event is raised (R201, R202, R422). -/
def Dev.retirePair (d : Dev) (p : Nat) : Dev :=
  if d.pairs.retired.contains p then d
  else
    let spare := d.pairs.replaces = 7 && !d.pairs.retired.contains 4 && p != 4 && d.is Fld.lnkCfg_spareEn
    let gone : Spare := { res := unitRes 3 p, spare := 0, done := true }
    let d := { d with
      pairs := { d.pairs with retired := p :: d.pairs.retired }
      err := { d.err with sparing := d.err.sparing ++ [gone] } }
    let d := if spare then d.takeOver p else if p = 4 ∧ d.pairs.replaces ≠ 7 then d.handBack else d
    let d := (d.permanent (unitRes 3 p)).pairStatus
    let d := if spare then d else d.raise 0x44
    (if d.tp3Ok then d else d.transmitEnds).settle

/-- Mismatches of pair `p` in the last 10 s. -/
def Dev.lockWindow (d : Dev) (p : Nat) : List Nat :=
  (d.tempo.pairs.getD p {}).mismatches.filter fun t => decide (d.tmb ≤ t + usTicks 10000000)

/-- A mismatch of pair `p` is counted; the third within 10 s retires the pair (R200, R201). -/
def Dev.mismatch (d : Dev) (p : Nat) : Dev :=
  let l := d.lockWindow p ++ [d.tmb]
  let note (q : Pair) : Pair := { q with mismatches := l }
  let d := { d with tempo := { d.tempo with pairs := modifyAt note p d.tempo.pairs } }
  let d := ((d.bump Fld.lnkLockStat_mismatches p).wr Fld.lnkLockStat_window (min 3 l.length) p).raise 0x43
  if 3 ≤ l.length then d.retirePair p else d

/-- LOCKSTEP_MISMATCH of pair `p` in a work item: it resumes in late mode (R200). -/
def lockstepMismatch (p : Nat) (item : LockItem) (d : Dev) : Dev :=
  let active := if p = 4 then decide (d.pairs.replaces < 4) else decide (p < 4)
  if !d.tempoUp || !active || d.pairs.retired.contains p then d
  else
    let own := if p = 4 then d.pairs.replaces else p
    let d := match item with
      | .boundary => d
      | .fifo =>
        let late (q : Pair) : Pair := { q with late := true }
        { d with tempo := { d.tempo with pairs := modifyAt late own d.tempo.pairs } }
      | .verify req =>
        let late (i : WorkItem) : WorkItem := if i.req = req && i.pair = own then { i with late := true } else i
        { d with tempo := { d.tempo with items := d.tempo.items.map late } }
      | .ack id =>
        match d.frame id with
        | some f =>
          if f.isAck && (match f.stage with | .committed _ => false | _ => true) then (d.dropFrame id).ackLockstep p else d
        | none => d
    d.mismatch p

/-- LOCKSTEP_MISMATCH (R200). -/
def execLockstepMismatch (p : Nat) (item : LockItem) (s : State) : Host.Outcome State Fault Refusal :=
  s.run (lockstepMismatch p item)

/-- TP4_SELF_TEST of a standby TP4: a mismatch retires it (R202). -/
def tp4SelfTest (good : Bool) (d : Dev) : Dev :=
  if !d.tempoUp || d.pairs.replaces ≠ 7 || d.pairs.retired.contains 4 || good then d
  else (d.mismatch 4).retirePair 4

/-- TP4_SELF_TEST (R202). -/
def execTp4SelfTest (good : Bool) (s : State) : Host.Outcome State Fault Refusal := s.run (tp4SelfTest good)

/-! Slot programs (R206, R207). -/

/-- The 5-octet ASN written into a frame that asks for it (R210). -/
def TxFrame.withAsn (f : TxFrame) (asn : Nat) : TxFrame :=
  match f.asn with
  | some o => { f with mac := patch f.mac o (natLe 5 asn) }
  | none => f

/-- The first frame of a scheduled queue, for a node where one is named. -/
def Dev.slotted (d : Dev) (q : Nat) (node : Option Nat) : Option TxFrame :=
  d.tx.frames.find? fun f => f.queue = q && f.stage = .slotted && (node.isNone || f.node = node)

/-- A frame goes to TP3 for its slot; a secured one is secured first. -/
def Dev.slotSend (d : Dev) (f : TxFrame) : Dev :=
  let f := { f with stage := .scheduled }
  let d := (d.takeInput f.id).setFrame f
  if f.secure then d.secureFrame f else d

/-- SLOT_OCCURRENCE of entry `m`: a receive window opens, or TP3 takes the head frame of QUEUE for the occurrence. An
occurrence whose predecessor is in progress is skipped (R207). -/
def slotOccurrence (m : Nat) (d : Dev) : Dev :=
  if 512 ≤ m || !d.tempoUp || !d.is Fld.lnkSlotW0_en m then d
  else
    let cfg := d.slotCfg m
    let r : SlotRun := { d.slotRun m with cfg := cfg, lead := none }
    let k := slotNext cfg d.tmb
    let d := d.raise 0x48
    let busy := r.openTill.isSome || (match r.frame with | some id => (d.frame id).isSome | none => false)
    let served := d.pairClient (if d.is Fld.lnkSlotW0_kind m then 3 else pairOf r.sub r.chan)
    if busy then (d.setSlotRun { r with k := k + 1 }).bump Fld.lnkStat5_slotMissed
    else if served.isNone then d.setSlotRun { r with k := k + 1 }
    else if d.rd Fld.lnkSlotW0_kind m = 0 then
      let r : SlotRun := { r with k := k + 1, openTill := some (d.tmb + usTicks (d.rd Fld.lnkSlotW3_window m)) }
      ((d.setSlotRun r).raise 0x46).settle
    else
      let d := d.setSlotRun { r with k := k + 1, frame := none }
      match d.slotted (d.rd Fld.lnkSlotW0_queue m) none with
      | none => d
      | some f =>
        let f := { f.withAsn d.tempo.tsch.asn with
          cls := 4, start := slotStart cfg + k * slotPeriod cfg, sub := r.sub, chan := r.chan }
        ((d.setSlotRun { r with k := k + 1, frame := some f.id }).slotSend f).settle

/-- SLOT_OCCURRENCE (R207). -/
def execSlotOccurrence (m : Nat) (s : State) : Host.Outcome State Fault Refusal := s.run (slotOccurrence m)

/-- SLOT_WINDOW_CLOSE of entry `m` (R207). -/
def slotWindowClose (m : Nat) (d : Dev) : Dev :=
  match d.tempo.slots.find? fun r => r.entry = m && r.openTill.isSome with
  | some r => ((d.setSlotRun { r with openTill := none }).raise 0x47).settle
  | none => d

/-- SLOT_WINDOW_CLOSE (R207). -/
def execSlotWindowClose (m : Nat) (s : State) : Host.Outcome State Fault Refusal := s.run (slotWindowClose m)

/-! TSCH (R208–R210). -/

/-- ASN0 and T0 as their registers stand. -/
def Dev.tschRegs (d : Dev) : Nat × Nat :=
  (d.rd Fld.lnkTschAsn0Lo_asn + d.rd Fld.lnkTschAsn0Hi_asn * 2 ^ 32,
    d.rd Fld.lnkTschT0Lo_t0 + d.rd Fld.lnkTschT0Hi_t0 * 2 ^ 32)

/-- Applies ASN0 and T0. -/
def Dev.tschApply (d : Dev) (x : Nat × Nat) : Dev :=
  { d with tempo := { d.tempo with tsch := { d.tempo.tsch with asn0 := x.1, t0 := x.2, next := none } } }

/-- The frame that transmit cell `c` would send, passing over a shared cell whose neighbour is in backoff. -/
def Dev.cellFrame (d : Dev) (c : Nat) : Option TxFrame :=
  let node := if d.is Fld.lnkCellW1_broadcast c then none else some (d.rd Fld.lnkCellW1_localIndex c)
  match d.slotted (d.rd Fld.lnkCellW1_queue c) node with
  | none => none
  | some f =>
    let wait := match f.node with
      | some s => (match alGet s d.tempo.tsch.backoff with | some (_, n) => decide (0 < n) | none => false)
      | none => false
    if d.is Fld.lnkCellW0_shared c && wait then none else some f

/-- A shared cell that its neighbour's backoff skips counts one of the cells down. -/
def Dev.cellSkip (d : Dev) (c : Nat) : Dev :=
  let node := if d.is Fld.lnkCellW1_broadcast c then none else some (d.rd Fld.lnkCellW1_localIndex c)
  if !d.is Fld.lnkCellW0_shared c then d
  else
    match d.slotted (d.rd Fld.lnkCellW1_queue c) node with
    | some f =>
      match f.node with
      | some s =>
        match alGet s d.tempo.tsch.backoff with
        | some (be, n + 1) => { d with tempo := { d.tempo with tsch := { d.tempo.tsch with
            backoff := alSet s (be, n) d.tempo.tsch.backoff } } }
        | _ => d
      | none => d
    | none => d

/-- Cell `c` of timeslot `a` sends a frame with its first chip at TX_OFFSET (R210). -/
def Dev.cellServe (d : Dev) (c a : Nat) (f : TxFrame) : Dev :=
  let shared := d.is Fld.lnkCellW0_shared c
  let sub := d.is Fld.lnkTschCtrl_band
  let f := { f.withAsn a with
    cls := 3, start := d.cellStart a, sub := sub, chan := d.cellChan c a, phy := if sub then 2 else 0
    cellWait := some (d.rd Fld.lnkTschTmpl_lo 1 + d.rd Fld.lnkTschTmpl_lo 2), cellShared := shared }
  let d := match shared, f.node with
    | true, some s =>
      if (alGet s d.tempo.tsch.backoff).isSome then d
      else { d with tempo := { d.tempo with tsch := { d.tempo.tsch with
        backoff := alSet s (d.rd Fld.lnkTschCtrl_minBe, 0) d.tempo.tsch.backoff } } }
    | _, _ => d
  d.slotSend f

/-- Transmit cells in their order, at most `k` of them, no two on one channel. -/
def Dev.cellsServe (d : Dev) (a : Nat) : List Nat → Nat → List Nat → Dev
  | [], _, _ => d
  | _ :: _, 0, _ => d
  | c :: cs, k + 1, used =>
    if used.contains (d.cellChan c a) then d.cellsServe a cs (k + 1) used
    else
      match d.cellFrame c with
      | some f => (d.cellServe c a f).cellsServe a cs k (d.cellChan c a :: used)
      | none => (d.cellSkip c).cellsServe a cs (k + 1) used

/-- TSCH_TIMESLOT: a timeslot starts; ASN0 and T0 written before take effect; up to two transmit cells are served,
lower slotframe first, then lower index (R208, R210). -/
def tschTimeslot (d : Dev) : Dev :=
  if !d.tempoUp || !d.is Fld.lnkTschCtrl_en || d.slotTicks = 0 then d
  else
    let d := match d.tempo.tsch.next with | some x => d.tschApply x | none => d
    if d.tmb < d.tempo.tsch.t0 then d
    else
      let a := (d.tempo.tsch.asn0 + (d.tmb - d.tempo.tsch.t0) / d.slotTicks) % 2 ^ 40
      let d := { d with tempo := { d.tempo with tsch := { d.tempo.tsch with asn := a } } }
      let d := ((d.wr Fld.lnkTschAsnLo_asn a).wr Fld.lnkTschAsnHi_asn (a / 2 ^ 32)).raise 0x49
      let cells := (List.range 8).flatMap fun sf =>
        (List.range 1024).filter fun c => d.rd Fld.lnkCellW0_sf c = sf && d.cellOccurs c a && d.is Fld.lnkCellW0_tx c
      if (d.pairClient 3).isNone then d else (d.cellsServe a cells 2 []).settle

/-- TSCH_TIMESLOT (R210). -/
def execTschTimeslot (s : State) : Host.Outcome State Fault Refusal := s.run tschTimeslot

/-- LNK_TSCH_T0_HI_WRITE: the four registers apply at the next timeslot boundary; while TSCH does not run, at once
(R208). -/
def lnkTschT0HiWrite (who : Initiator) (w : Word) (d : Dev) : Dev :=
  if !d.domUp 10 then d
  else
    let d := d.plainWrite who Reg.lnkTschT0Hi w
    let x := d.tschRegs
    if d.is Fld.lnkTschCtrl_en then
      { d with tempo := { d.tempo with tsch := { d.tempo.tsch with next := some x } } }
    else d.tschApply x

/-- LNK_TSCH_T0_HI_WRITE (R208). -/
def execLnkTschT0HiWrite (who : Initiator) (w : Word) (s : State) : Host.Outcome State Fault Refusal :=
  s.run (lnkTschT0HiWrite who w)

/-- The template obeys R209. -/
def Dev.templateOk (d : Dev) : Bool :=
  decide (d.rd Fld.lnkTschTmpl_lo 0 + d.rd Fld.lnkTschTmpl_lo 3 + d.rd Fld.lnkTschTmpl_hi 1 + d.rd Fld.lnkTschTmpl_hi 2
    ≤ d.rd Fld.lnkTschTmpl_hi 3) && decide (192 ≤ d.rd Fld.lnkTschTmpl_hi 1)

/-- LNK_TSCH_CTRL_WRITE: a write that sets EN is checked against the template, the hopping entries and the backoff
exponents (R208). -/
def lnkTschCtrlWrite (who : Initiator) (w : Word) (d : Dev) : Dev :=
  let n := wBits w 8 2
  let sub := wBits w 1 1 = 1
  let bad := (List.range n).any fun j => !d.chanDefined sub (d.hopEntry j)
  if !d.domUp 10 then d
  else if n = 0 ∨ 64 < n then d.rejectWrite who Reg.lnkTschCtrl
  else if wBits w 0 0 = 1 ∧ (¬ d.templateOk ∨ bad ∨ wBits w 23 20 < wBits w 19 16) then d.rejectWrite who Reg.lnkTschCtrl
  else d.plainWrite who Reg.lnkTschCtrl w

/-- LNK_TSCH_CTRL_WRITE (R208). -/
def execLnkTschCtrlWrite (who : Initiator) (w : Word) (s : State) : Host.Outcome State Fault Refusal :=
  s.run (lnkTschCtrlWrite who w)

/-- RELAY_RETRY of frame `id`: a relay that was not acknowledged is sent again 1,000 µs later (R247). -/
def relayRetry (id : Nat) (d : Dev) : Dev :=
  match d.frame id with
  | some f => if f.origin = .relay then retryAttempt id d else d
  | none => d

/-- RELAY_RETRY (R247). -/
def execRelayRetry (id : Nat) (s : State) : Host.Outcome State Fault Refusal := s.run (relayRetry id)

end Sys2Proof.Machine
end

