-- ==== Sys2Proof/Machine/FedRun.lean ====
section
/-! DEFINITION. The federation agent: received messages, discovery, elections, time alignment, records, digests and the
epoch commit (R259–R278, R281, R282, R284–R287). -/

namespace Sys2Proof.Machine

open Sys2Proof

/-- The agent's own state replaced. -/
def Dev.setFed (d : Dev) (f : Fed) : Dev := { d with fed := f }

/-- FED_CFG.PRIO and the other settings of R284. -/
def Dev.fedCfg (d : Dev) (f : Field) : Bool := d.is f

/-! Members. -/

/-- Members whose bit is 1 in a bitmap of `n` members that starts at member `base`. -/
def membersIn (base n bits : Nat) : List Nat := ((List.range n).filter fun i => bits.testBit i).map (base + ·)

/-- The bitmap of the members of group `g` for which `p` holds. -/
def groupBits (g : Nat) (p : Nat → Bool) : Nat :=
  (List.range 32).foldl (fun v i => if p (32 * g + i) then v + 2 ^ i else v) 0

/-- The bitmap of a roster. -/
def rosterBits (roster : List Nat) : Nat := roster.foldl (fun v m => v ||| 2 ^ m) 0

/-- Group of a member (R269). -/
def groupOf (m : Nat) : Nat := m / 32

/-- Member `m` is present: JOINING or MEMBER, or this device. -/
def Dev.memberHere (d : Dev) (m : Nat) : Bool :=
  m = d.fedMe || d.memberState m = 1 || d.memberState m = 2

/-- Rank of R269 as a number, higher first: Bm3, PRIO, lower index. -/
def Dev.memberRank (d : Dev) (m : Nat) : Nat :=
  if m = d.fedMe then 2 ^ 14 + d.rd Fld.fedCfg_prio * 2 ^ 10 + (1023 - m)
  else b2n (d.memberBm3 m) * 2 ^ 14 + d.memberPrio m * 2 ^ 10 + (1023 - m)

/-- The best-ranked member of a list; of an empty one, this device. -/
def Dev.bestOf (d : Dev) (l : List Nat) : Nat :=
  l.foldl (fun b m => if d.memberRank b < d.memberRank m then m else b) (l.headD d.fedMe)

/-- This member coordinates its group, or leads. -/
def Dev.iCoord (d : Dev) : Bool := d.fed.coord = some d.fedMe
def Dev.iLead (d : Dev) : Bool := d.fed.leader = some d.fedMe

/-- Present members that the table marks as coordinators, with this one where it is one. -/
def Dev.coords (d : Dev) : List Nat :=
  (List.range 1024).filter fun m =>
    if m = d.fedMe then d.iCoord else (d.memberState m = 1 || d.memberState m = 2) && d.memberCoord m

/-- The groups that have a coordinator, one bit each. -/
def Dev.coordGroups (d : Dev) : Nat := d.coords.foldl (fun v m => v ||| 2 ^ groupOf m) 0

/-- The time parent (R272): the leader for a coordinator, else the coordinator. -/
def Dev.parent (d : Dev) : Option Nat :=
  if d.iLead then none else if d.iCoord then d.fed.leader else d.fed.coord

/-- Device EUI-64, version and settings in this member's own table entry. -/
def Dev.ownEntry (d : Dev) (st : Nat) : Dev :=
  let m := d.fedMe
  let d := ((d.setMember m 0 3 st).setMember m 3 1 1).setMember m 8 4 (d.rd Fld.fedCfg_prio)
  (d.setLe (memberAddr m + 4) 4 d.fed.bootId).setLe (memberAddr m + 8) 8 d.eui

/-! Records and digests (R273, R274). -/

/-- Order of records. -/
def recBefore (t i u j : Nat) : Bool := decide (t < u) || (t = u && decide (i < j))

/-- A set with a record put in place, in ascending TYPE and ID. -/
def putRecord (r : Record) : List Record → List Record
  | [] => [r]
  | x :: l =>
    if x.type = r.type ∧ x.id = r.id then r :: l
    else if recBefore r.type r.id x.type x.id then r :: x :: l
    else x :: putRecord r l

def delRecord (t i : Nat) (l : List Record) : List Record := l.filter fun x => !(x.type = t && x.id = i)

def getRecord (t i : Nat) (l : List Record) : Option Record := l.find? fun x => x.type = t && x.id = i

/-- A record TYPE that a set may hold (Table 12.6). -/
def recordTypeOk (t : Nat) : Bool := t = 1 || t = 2 || (decide (0x8000 ≤ t) && decide (t ≤ 0xFFFE))

def Record.octets (r : Record) : List Byte :=
  natLe 2 r.type ++ natLe 2 0 ++ natLe 4 r.id ++ natLe 4 r.data.length ++ padFour r.data

/-- Octets of a record set. -/
def setOctets (l : List Record) : Nat := (l.map fun r => r.data.length).sum

/-- A set that R273 allows: 4,096 records and 192 KB. -/
def setFits (l : List Record) : Bool := decide (l.length ≤ 4096) && decide (setOctets l ≤ 196608)

/-- The digest of epoch `e` (R274). -/
def digestOf (e : Nat) (roster : List Nat) (recs : List Record) : List Byte :=
  sha256 (natLe 4 e ++ natLe 128 (rosterBits roster) ++ recs.flatMap Record.octets)

/-- The first 8 octets of a record's SHA-256. -/
def Record.hash8 (r : Record) : List Byte := (sha256 r.data).take 8

/-- FED_DIGEST0–FED_DIGEST7 as octets. -/
def Dev.digestRegs (d : Dev) : List Byte :=
  (List.range 8).flatMap fun n => natLe 4 (d.reg (Reg.fedDigest + 4 * n)).toNat

def Dev.setDigestRegs (d : Dev) (g : List Byte) : Dev :=
  (List.range 8).foldl (fun d n => d.setReg (Reg.fedDigest + 4 * n) (BitVec.ofNat 32 (leAt g (4 * n) 4))) d

/-- The digest of the proposed set for the next epoch, with the roster of the proposal, else the current one. -/
def Dev.nextDigest (d : Dev) : List Byte :=
  match d.fed.proposal with
  | some p => digestOf p.epoch p.roster d.fed.proposed
  | none => digestOf (d.epoch + 1) d.fed.roster d.fed.proposed

/-- The records in force: the committed set, and before epoch 1 the proposed one. -/
def Dev.liveSet (d : Dev) : List Record := if d.epoch = 0 then d.fed.proposed else d.fed.current

/-- The expected roster: indices with a ROSTER record (R270). -/
def Dev.rosterRecord (d : Dev) (m : Nat) : Option Record := getRecord 1 m d.liveSet
def Dev.noRosterRecords (d : Dev) : Bool := !d.liveSet.any fun r => r.type = 1

/-- The ROSTER record of index `m` names an EUI-64. -/
def Dev.recordNames (d : Dev) (m eui : Nat) : Bool :=
  match d.rosterRecord m with
  | some r => decide (leAt r.data 0 8 = eui)
  | none => false
def Dev.expected (d : Dev) (m : Nat) : Bool := d.noRosterRecords || (d.rosterRecord m).isSome

/-- A Bm2 member may be admitted without attestation (R265). -/
def Dev.bm2Admitted (d : Dev) (m : Nat) : Bool :=
  d.is Fld.fedCfg_allowBm2 && (match d.rosterRecord m with
    | some r => (slice r.data 8 16).all (· = 0#8)
    | none => false)

/-- A present member qualifies for the next roster (R270). -/
def Dev.qualifies (d : Dev) (m : Nat) : Bool :=
  (d.expected m || d.is Fld.fedCfg_autoAdmit) &&
    (m = d.fedMe || (if d.memberBm3 m then d.memberAttested m else d.bm2Admitted m))

/-- The roster of the next PREPARE: the present members that qualify, and from epoch 1 on the members of the current
roster whose STATE is still MEMBER; one that returns must qualify again (R270, R271, R282). -/
def Dev.wantedRoster (d : Dev) : List Nat :=
  (List.range 1024).filter fun m =>
    (d.memberHere m && !(m = d.fedMe && d.fedQuarantined) && d.qualifies m)
      || (d.epoch != 0 && d.fed.roster.contains m && d.memberState m = 2)

/-- The leader has reason to propose: epoch 1, a member that joins or returns and qualifies, or a quarantined one in the
roster (R271, R276, R282). -/
def Dev.mustPropose (d : Dev) (w : List Nat) : Bool :=
  d.epoch = 0 || (w.any fun m => !d.fed.roster.contains m || d.memberState m = 1) ||
    d.fed.roster.any fun m => d.memberState m = 3 || d.memberState m = 4

/-! Buddies (R278). -/

/-- Bm3 members of a roster, ascending. -/
def Dev.bm3Of (d : Dev) (roster : List Nat) : List Nat :=
  roster.filter fun m => m = d.fedMe || d.memberBm3 m

/-- The default buddy of a member. -/
def defaultBuddy (l : List Nat) (m : Nat) : Option Nat :=
  if l.length ≤ 1 then none
  else
    match l.findIdx? (· = m) with
    | some i => some (l.getD ((i + max 1 (l.length / 32)) % l.length) 0)
    | none => none

/-- The BUDDY_MAP entry of a member: 0xFFFF where no record gives one. -/
def buddyEntry (recs : List Record) (m : Nat) : Nat :=
  match getRecord 2 0 recs with
  | some r => leAt r.data (2 * m) 2
  | none => 0xFFFF

/-- b(m) under a roster and its records. -/
def Dev.buddyIn (d : Dev) (roster : List Nat) (recs : List Record) (m : Nat) : Option Nat :=
  let l := d.bm3Of roster
  if l.length ≤ 1 || !l.contains m then none
  else if buddyEntry recs m = 0xFFFF then defaultBuddy l m
  else some (buddyEntry recs m)

/-- b(m) of the current epoch. -/
def Dev.buddy (d : Dev) (m : Nat) : Option Nat := d.buddyIn d.fed.roster d.fed.current m

/-- The member whose buddy this one is. -/
def Dev.ward (d : Dev) : Option Nat := d.fed.roster.find? fun m => d.buddy m = some d.fedMe

/-- A BUDDY_MAP obeys R278 for a roster. -/
def Dev.buddyMapOk (d : Dev) (roster : List Nat) (recs : List Record) : Bool :=
  match getRecord 2 0 recs with
  | none => true
  | some r =>
    let l := d.bm3Of roster
    let bs := l.map fun m => (d.buddyIn roster recs m).getD m
    r.data.length = 2048 && (roster.all fun m => l.contains m || buddyEntry recs m = 0xFFFF) &&
      (decide (l.length ≤ 1) || (bs.all l.contains && decide bs.Nodup && (List.zipWith (fun m b => m != b) l bs).all id))

/-! Attestation challenges (R281). -/

/-- This member attests member `m`: its coordinator, or the leader for a coordinator. -/
def Dev.attests (d : Dev) (m : Nat) : Bool :=
  m != d.fedMe && ((d.iCoord && groupOf m = groupOf d.fedMe) || (d.iLead && d.memberCoord m))

/-- A challenge with a fresh random nonce; a Bm2 member cannot be attested (R265, R281). -/
def Dev.challenge (d : Dev) (m : Nat) : Dev :=
  if !d.memberBm3 m then d
  else
    let r := d.free 128
    let nonce := natLe 16 r.1
    (r.2.setPeer m { r.2.peer m with nonce := some nonce }).fedSend (some m) (.attestChallenge nonce)

/-- A challenge where this member attests `m` and attestation has begun. -/
def Dev.challengeDue (d : Dev) (m : Nat) : Dev :=
  if d.attests m && decide (5 ≤ d.fedState) && !d.fedQuarantined then d.challenge m else d

/-! Start-up steps (Table 12.5). -/

/-- GROUP_REPORT of a coordinator. What it knows of its members' alignment beside its own is not given: free. -/
def Dev.sendReport (d : Dev) : Dev :=
  let g := groupOf d.fedMe
  let own := 2 ^ (d.fedMe % 32)
  let present := groupBits g d.memberHere
  let r := d.free 32
  let aligned := (r.1 &&& present &&& (2 ^ 32 - 1 - own)) + (if d.is Fld.fedTime_aligned then own else 0)
  let attested := groupBits g fun m => m = d.fedMe || d.memberAttested m
  r.2.fedSend none (.groupReport g d.fedMe present aligned attested)

/-- Every report that the leader has shows its group aligned. -/
def Dev.allAligned (d : Dev) : Bool :=
  d.coords.all fun m => m = d.fedMe ||
    (match (d.peer m).report with
      | some (present, aligned, _) => present &&& aligned = present
      | none => false)

/-- Members that this one attests and that are still to be judged. -/
def Dev.unjudged (d : Dev) : List Nat :=
  (List.range 1024).filter fun m =>
    d.attests m && d.memberHere m && d.memberBm3 m && !d.memberAttested m && (d.peer m).nonce.isSome

/-- This member's coordinator reports it attested. -/
def Dev.iAttested (d : Dev) : Bool :=
  match d.fed.coord with
  | some c =>
    (match (d.peer c).report with
      | some (_, _, attested) => attested.testBit (d.fedMe % 32)
      | none => false)
  | none => false

/-- Steps 6 to 8 of Table 12.5, as far as their conditions hold. -/
def Dev.fedAdvance (d : Dev) : Dev :=
  let d :=
    if d.fedState = 4 && d.is Fld.fedTime_aligned && (!d.iLead || d.allAligned) then
      let d := d.setFedState 5
      ((List.range 1024).filter fun m => d.memberHere m && d.attests m).foldl (fun d m => d.challenge m) d
    else d
  if d.fedState = 5 && (if d.iCoord || d.iLead then d.unjudged.isEmpty else d.iAttested) then d.setFedState 6 else d

/-! Received messages (R260–R262, R265, R266). -/

/-- The MAC passes the frame to the agent: EtherType, VLAN tag and destination (R260). -/
def Dev.bmForMe (d : Dev) (h : BmHdr) : Bool :=
  d.fedOn && h.etherType = d.rd Fld.fedNet_ethertype &&
    (!d.is Fld.fedNet_vlanEn || h.vlan = some (d.rd Fld.fedNet_vid)) &&
    ((h.ports.testBit 0 && d.pins.ethUp.getD 0 false) || (h.ports.testBit 1 && d.pins.ethUp.getD 1 false)) &&
    (h.dst.testBit 15 || h.dst % 1024 = d.fedMe)

/-- Step 1 of R262 on the header: `bm3`: a type of Bm3 only; `most`: the greatest LENGTH. -/
def hdrOk (h : BmHdr) (bm3 : Bool) (most : Nat) : Bool :=
  (h.version = 3 || (h.version = 2 && !bm3)) && h.len % 4 = 0 && decide (h.len ≤ most) && h.src / 1024 = 0 &&
    bitsOf h.dst 14 10 = 0 && !(h.dst.testBit 15 && h.dst % 1024 != 0) && h.rsvd = 0 && h.formatOk

/-- SRC as a member index. -/
def bmFrom (h : BmHdr) : Nat := h.src % 1024

/-- The octets that the TAG of a received message covers. -/
def hdrOctets (h : BmHdr) (type : Nat) : List Byte :=
  bmHeader h.version type h.len h.src h.dst h.bootId h.seq h.epoch h.rsvd h.txTime ++ h.body

/-- SEQ has been seen, or lies more than 64 below the highest accepted (R262, step 3). -/
def Dev.replayed (d : Dev) (h : BmHdr) : Bool :=
  let m := (bmFrom h)
  h.bootId = d.memberBootId m && ((d.peer m).window.contains h.seq || decide (h.seq + 64 < d.memberHighSeq m))

/-- An accepted message is entered in the member table and the window; a new BOOT_ID clears the window (R262,
R266). -/
def Dev.bmNote (d : Dev) (h : BmHdr) : Dev :=
  let m := (bmFrom h)
  let p := d.peer m
  let fresh := h.bootId != d.memberBootId m || (p.window.isEmpty && d.memberHighSeq m = 0)
  let high := if fresh then h.seq else max h.seq (d.memberHighSeq m)
  let window := (h.seq :: (if fresh then [] else p.window)).filter fun s => decide (high ≤ s + 64)
  let d := d.setPeer m { p with window := window, heard := d.tmb }
  let d := ((d.setLe (memberAddr m + 4) 4 h.bootId).setLe (memberAddr m + 28) 4 high).setMember m 4 2 h.ports
  d.setLe (memberAddr m + 24) 4 (d.tmb / 2 ^ 16)

/-- A message type and the checks of R262 that it meets. -/
structure BmKind where
  /-- TYPE. -/
  type : Nat
  bm3 : Bool := false
  /-- A control type: it carries a TAG. -/
  tagged : Bool := true
  most : Nat := 1440
  /-- Accepted from a quarantined member. -/
  fromQuarantine : Bool := false
  /-- Checked for a stale EPOCH. -/
  epoch : Bool := false
  deriving DecidableEq, Repr

/-- The checks of R262 in their order; the device with the drop counted or the message noted, and whether it is
accepted. -/
def Dev.bmAccept (d : Dev) (h : BmHdr) (k : BmKind) (format : Bool) : Dev × Bool :=
  let m := (bmFrom h)
  if !d.bmForMe h then (d, false)
  else if !hdrOk h k.bm3 k.most || !format then (d.bump Fld.fedStat0_reservedDrop, false)
  else
    let good := !k.tagged || (d.fedKeyOk && decide (h.tag = d.fedTag (hdrOctets h k.type)))
    let known := !k.tagged || d.fedKeyOk
    let d := if k.tagged then d.fedRequest true (hdrOctets h k.type) h.tag else d
    if !known then ((d.bump Fld.fedStat0_authDrop).raise 0x50, false)
    else if !good then (d.bump Fld.fedStat0_authDrop, false)
    else if d.replayed h then (d.bump Fld.fedStat1_replayDrop, false)
    else if !k.fromQuarantine && (d.memberState m = 3 || d.memberState m = 4) then (d.bump Fld.fedStat1_quarDrop, false)
    else if k.epoch && decide (h.epoch < d.epoch) then
      ((d.bump Fld.fedStat2_staleDrop).fedSend (some m) (.abort h.epoch Code.epochStale), false)
    else
      let newBoot := h.bootId != d.memberBootId m
      let d := d.bmNote h
      (if newBoot && (d.memberState m = 1 || d.memberState m = 2) then (d.setMember m 6 1 0).challengeDue m else d, true)

/-- A received message with its effect, after the checks. -/
def Dev.bmRun (d : Dev) (h : BmHdr) (k : BmKind) (format : Bool) (f : Dev → Dev) : Dev :=
  let x := d.bmAccept h k format
  if x.2 then (f x.1).settle else x.1

/-! Commands of the agent's registers (R268, R284, R286). -/

/-- FED_CTRL_START: START in STATE OFF begins Table 12.5, locks the RWL fields and sets NDT_MEMBER (R254, R284,
R286). BOOT_ID is drawn at random (Table 12.1). -/
def fedCtrlStart (who : Initiator) (w : Word) (d : Dev) : Dev :=
  if !d.domUp 27 then d
  else
    let d := d.rsvd who Reg.fedCtrl w
    if wBits w 0 0 = 0 || d.fedState != 0 then d
    else
      let r := d.free 32
      let f := r.2.fed
      let d := r.2.setFed {
        bootId := r.1, current := f.current, proposed := f.proposed, migrations := f.migrations, nextOffer := f.nextOffer }
      let d := if d.domUp 22 then d.wr Fld.ndtMember_member d.fedMe else d
      ((d.ownEntry 1).setFedState 1).wr Fld.fedStatus_role 0

/-- FED_CTRL_START (R286). -/
def execFedCtrlStart (who : Initiator) (w : Word) (s : State) : Host.Outcome State Fault Refusal :=
  s.run (fedCtrlStart who w)

/-- FED_CFG_WRITE: the fields are stored, RWL ones while STATE is OFF, and STANDALONE moves the transmit gate (R268,
R284). -/
def fedCfgWrite (who : Initiator) (w : Word) (d : Dev) : Dev :=
  if !d.domUp 27 then d
  else if !d.secureOrHost who then d.refuseWrite who Reg.fedCfg
  else (d.plainWrite who Reg.fedCfg w (d.fedState != 0)).gateStandalone (wBits w 12 12 = 1)

/-- FED_CFG_WRITE (R268). -/
def execFedCfgWrite (who : Initiator) (w : Word) (s : State) : Host.Outcome State Fault Refusal :=
  s.run (fedCfgWrite who w)

/-! Ports and discovery (R260, R267). -/

/-- PORT_LINK_UP and PORT_LINK_DOWN of port `p`. -/
def portLink (p : Nat) (up : Bool) (d : Dev) : Dev := { d with pins := { d.pins with ethUp := putAt p up d.pins.ethUp } }

/-- PORT_LINK_UP (R267). -/
def execPortLinkUp (p : Nat) (s : State) : Host.Outcome State Fault Refusal := s.run (portLink p true)

/-- PORT_LINK_DOWN (R260): messages use the other port. -/
def execPortLinkDown (p : Nat) (s : State) : Host.Outcome State Fault Refusal := s.run (portLink p false)

/-- Ports that are up, bit p for port p. -/
def Dev.portsUp (d : Dev) : Nat := b2n (d.pins.ethUp.getD 0 false) + 2 * b2n (d.pins.ethUp.getD 1 false)

/-- HELLO_TIMER: HELLO goes to ALL while a link is up; the first one starts discovery (R263, R267). A coordinator
sends its GROUP_REPORT with it. -/
def helloTimer (d : Dev) : Dev :=
  if !d.fedOn || d.portsUp = 0 then d
  else
    let d := if d.fedState = 1 then d.setFedState 2 else d
    let d := d.fedSend none (.hello d.eui 3 (d.rd Fld.fedCfg_prio) d.portsUp d.digestRegs)
    if d.iCoord then d.sendReport else d

/-- HELLO_TIMER (R267). -/
def execHelloTimer (s : State) : Host.Outcome State Fault Refusal := s.run helloTimer

/-- The view of the group and the best candidate in it go to ALL (R269). -/
def Dev.sendCandidate (d : Dev) : Dev :=
  let g := groupOf d.fedMe
  d.fedSend none (.candidate g (d.bestOf (membersIn (32 * g) 32 d.fed.view)) d.fed.view)

/-- A group election starts with this member's own view. -/
def Dev.startElection (d : Dev) : Dev :=
  let view := groupBits (groupOf d.fedMe) d.memberHere
  let peers := d.fed.peers.map fun (x : Nat × Peer) => (x.1, { x.2 with voted := false })
  (d.setFed { d.fed with view := view, coord := none, peers := peers }).sendCandidate

/-- DISCOVERY_CLOSE: the group election begins (Table 12.5, R269). -/
def discoveryClose (d : Dev) : Dev :=
  if d.fedOn && d.fedState = 2 then (d.setFedState 3).startElection else d

/-- DISCOVERY_CLOSE (R267). -/
def execDiscoveryClose (s : State) : Host.Outcome State Fault Refusal := s.run discoveryClose

/-- This member is in CONFLICT or REPLACED: STATE shows it, the gate closes (R266, R268, R282). -/
def Dev.enterQuarantine (d : Dev) (st : Nat) : Dev :=
  (d.quarantine st).setMemberState d.fedMe (if st = 10 then 4 else 3)

/-- Two senders claim index `m` (R266). -/
def Dev.conflict (d : Dev) (m : Nat) : Dev :=
  let d := d.setMemberState m 4
  if m = d.fedMe then d.enterQuarantine 10 else d

/-- A HELLO of member `m` is entered in its table entry (Table 12.4). -/
def Dev.helloEntry (d : Dev) (m eui version prio ports mac digest : Nat) (bytes : List Byte) : Dev :=
  let d := (d.setMember m 3 1 (b2n (decide (3 ≤ version)))).setMember m 8 4 prio
  let d := (d.setLe (memberAddr m + 8) 8 eui).setLe (memberAddr m + 16) 6 mac
  d.setPeer m { d.peer m with
    version := max 2 (min 3 version), ports := ports, digest := if digest = 0 then [] else bytes }

/-- The leader tells its host of a present member outside the expected roster that it does not admit; the status of the
notice is free (R270). -/
def Dev.reportJoining (d : Dev) (m : Nat) : Dev :=
  if !d.expected m && !d.is Fld.fedCfg_autoAdmit then let r := d.freeOf failureCodes; r.2.notice r.1 m else d

/-- A HELLO from SRC `m` (R263, R265, R266, R271, R281). -/
def Dev.helloFrom (d : Dev) (h : BmHdr) (eui version prio : Nat) (digest : List Byte) : Dev :=
  let m := (bmFrom h)
  let st := d.memberState m
  let p := d.peer m
  if m = d.fedMe then
    if eui = d.eui then d
    else (d.setPeer m { p with claims := alSet eui d.tmb p.claims }).conflict m
  else
    let claims := alSet eui d.tmb p.claims
    let others := claims.filter fun c => c.1 != eui
    if st = 4 then d.setPeer m { p with claims := claims }
    else if (st = 1 || st = 2) && eui != d.memberEui m then
      (d.setPeer m { p with claims := alSet (d.memberEui m) p.heard claims }).conflict m
    else
      let d := d.setPeer m { p with claims := claims.filter fun c => !others.contains c }
      let d := d.helloEntry m eui version prio h.ports h.mac 1 digest
      if st = 0 then
        let d := ((d.setMemberState m 1).setMember m 6 1 0).challengeDue m
        if d.iLead then d.reportJoining m else d
      else d

/-- HELLO (R263). -/
def execHello (h : BmHdr) (eui version prio ports : Nat) (digest : List Byte) (s : State) :
    Host.Outcome State Fault Refusal :=
  s.run fun d => d.bmRun h { type := 0x01, fromQuarantine := true } (decide (2 ≤ version ∧ prio < 16 ∧ ports < 4 ∧ digest.length = 32))
    (·.helloFrom h eui version prio digest)

/-! Elections (R269). -/

/-- A CANDIDATE of this member's group: the views merge by OR, and a changed view is sent again. -/
def Dev.candidateFrom (d : Dev) (h : BmHdr) (group best bitmap : Nat) : Dev :=
  if group ≠ groupOf d.fedMe then d
  else
    let d := d.setPeer (bmFrom h) { d.peer (bmFrom h) with bitmap := bitmap, candidate := best, voted := true }
    let v := d.fed.view ||| bitmap
    if v = d.fed.view ∨ d.fed.coord.isSome then d else (d.setFed { d.fed with view := v }).sendCandidate

/-- CANDIDATE (R269). -/
def execCandidate (h : BmHdr) (group best bitmap : Nat) (s : State) : Host.Outcome State Fault Refusal :=
  s.run fun d => d.bmRun h { type := 0x02 } (decide (group < 32 ∧ best < 1024 ∧ bitmap < 2 ^ 32)) (·.candidateFrom h group best bitmap)

/-- FED_STATUS.ROLE, FED_LEADER and FED_TIME.PARENT follow the elections (R287). -/
def Dev.showRoles (d : Dev) : Dev :=
  let d := d.wr Fld.fedStatus_role (if d.iLead then 2 else if d.iCoord then 1 else 0)
  let d := match d.fed.leader with
    | some l => (d.wr Fld.fedLeader_leader l).wr Fld.fedLeader_valid 1
    | none => d.wr Fld.fedLeader_valid 0
  let d := match d.fed.coord with
    | some c => d.wr Fld.fedLeader_coord c
    | none => d
  match d.parent with
  | some p => d.wr Fld.fedTime_parent p
  | none => d

/-- Member `c` coordinates group `g`: no other member of it does. -/
def Dev.setCoord (d : Dev) (g c : Nat) : Dev :=
  let d := (membersIn (32 * g) 32 (2 ^ 32 - 1)).foldl
    (fun d m => if d.memberCoord m && m != c then d.setMember m 7 1 0 else d) d
  let d := d.setMember c 7 1 1
  (if g = groupOf d.fedMe then d.setFed { d.fed with coord := some c } else d).showRoles

/-- The COMMIT that this member holds, or the last one it has applied: epoch, digest and T. -/
def Dev.heldCommit (d : Dev) : Option (Nat × List Byte × Nat) :=
  match d.fed.proposal with
  | some p => match p.commitAt with | some t => some (p.epoch, p.digest, t) | none => d.fed.lastCommit
  | none => d.fed.lastCommit

/-- The leader is known: the start-up goes on, and a member that holds a COMMIT shows it to a new leader (R269,
R276). -/
def Dev.setLeader (d : Dev) (l : Nat) : Dev :=
  let new := d.fed.leader != some l
  let d := (d.setFed { d.fed with leader := some l }).showRoles
  let d := if d.fedState = 3 then d.setFedState 4 else d
  match d.heldCommit with
  | some c => if new && l != d.fedMe then d.fedSend (some l) (.commit c.1 c.2.1 c.2.2) else d
  | none => d

/-- LEADER of this member, to ALL. -/
def Dev.sendLeader (d : Dev) : Dev := d.fedSend none (.leader d.fedMe d.coordGroups)

/-- This member becomes leader: its TMB is the reference (R269, R272). -/
def Dev.becomeLeader (d : Dev) : Dev :=
  let d := (d.setLeader d.fedMe).wr Fld.fedTime_aligned 1
  let d := d.setFed { d.fed with alignedOnce := true, resolve := d.fed.proposal.isSome || d.fed.lastCommit.isSome }
  let d := ((List.range 1024).filter fun m => m != d.fedMe && d.memberState m = 1).foldl (fun d m => d.reportJoining m) d
  d.sendLeader.fedAdvance

/-- Every other member of the view has sent the same view and candidate in this round. -/
def Dev.groupAgrees (d : Dev) : Bool :=
  let g := groupOf d.fedMe
  let l := membersIn (32 * g) 32 d.fed.view
  l.all fun m => m = d.fedMe ||
    ((d.peer m).voted && (d.peer m).bitmap = d.fed.view && (d.peer m).candidate = d.bestOf l)

/-- A round of the group election ends (R269). -/
def Dev.groupRound (d : Dev) : Dev :=
  let g := groupOf d.fedMe
  if d.groupAgrees then
    let d := d.setCoord g (d.bestOf (membersIn (32 * g) 32 d.fed.view))
    if d.iCoord then d.sendReport else d
  else
    let peers := d.fed.peers.map fun (x : Nat × Peer) => (x.1, { x.2 with voted := false })
    (d.setFed { d.fed with peers := peers }).sendCandidate

/-! Epoch commit (R276, R277). -/

/-- The epoch ends: FED_PROPOSE completes, the proposal goes. -/
def Dev.proposalEnd (d : Dev) (status : Nat) (res : List Nat) : Dev :=
  let c := d.fed.proposeCmd
  let d := d.setFed { d.fed with proposal := none, wanted := [], parts := [], proposeCmd := none, resolve := false }
  let d := if d.fedState = 7 then d.setFedState 6 else d
  match c with
  | some id => d.finishId id status res
  | none => d

/-- The leader sends ABORT and discards the proposal. -/
def Dev.abortAll (d : Dev) (status : Nat) : Dev :=
  match d.fed.proposal with
  | some p => (d.fedSend none (.abort p.epoch status)).proposalEnd status []
  | none => d

/-- BUDDY of every context, stamped (R240, R278). -/
def Dev.setBuddies (d : Dev) (b : Nat) : Dev :=
  d.residentSlots.foldl (fun d s =>
    let x := d.nextStamp
    ((x.1.setCx s Cx.buddy b).putStamp s 3 x.2).cxTouch s) d

/-- Effects of a new roster on replication (R278, R279, R282): a new buddy gets every context, an old ward's replicas
go, a member admitted from quarantine fetches its own. -/
def Dev.rebuddy (d : Dev) (oldBuddy oldWard : Option Nat) (admitted : Bool) : Dev :=
  let b := d.buddy d.fedMe
  let d := if d.ward ≠ oldWard then d.clearMem (fun a => decide (0x10400000 ≤ a) && decide (a < 0x10800000)) else d
  let d := if b = oldBuddy && b.isSome then d else d.setBuddies (b.getD d.fedMe)
  let d := if b = none then d.setFed { d.fed with repl := [] }
    else if b ≠ oldBuddy then d.setFed { d.fed with repl := d.residentSlots.map fun s => { slot := s } } else d
  if admitted then
    match b with
    | some x => (d.setFed { d.fed with fetch := some (0, 32768) }).fedSend (some x) (.replicaReq 0 32768)
    | none => d
  else d

/-- The table after a commit: roster members are MEMBER; a REPLACED index whose ROSTER record changed and names the
EUI-64 heard returns to JOINING (R266, R270, R282). -/
def Dev.admitMember (d : Dev) (old : List Record) (m : Nat) : Dev :=
  let st := d.memberState m
  if d.fed.roster.contains m then (if st = 0 then d else d.setMemberState m 2)
  else if st = 3 && getRecord 1 m old != getRecord 1 m d.fed.current
      && (match getRecord 1 m d.fed.current with | some r => leAt r.data 0 8 = d.memberEui m | none => false) then
    ((d.setMemberState m 1).setMember m 6 1 0).challengeDue m
  else d

/-- The epoch is applied (R276). -/
def Dev.applyEpoch (d : Dev) (p : Proposal) : Dev :=
  let old := d.fed.current
  let oldBuddy := d.buddy d.fedMe
  let oldWard := d.ward
  let admitted := d.fedState = 9 && p.roster.contains d.fedMe
  let d := d.setFed { d.fed with current := d.fed.proposed, roster := p.roster }
  let d := (d.setReg Reg.fedEpoch (BitVec.ofNat 32 p.epoch)).setDigestRegs p.digest
  let d := d.raise 0x53
  let d := (List.range 1024).foldl (fun d m => d.admitMember old m) d
  let d := if p.roster.contains d.fedMe then ((d.setFedState 8).setMemberState d.fedMe 2).gateByEpoch else d
  let d := d.rebuddy oldBuddy oldWard admitted
  let d := match p.commitAt with
    | some t => d.setFed { d.fed with lastCommit := some (p.epoch, p.digest, t) }
    | none => d
  d.proposalEnd Code.ok [p.epoch]

/-- This member holds the digest that the proposal names (R274, R278). -/
def Dev.holdsProposal (d : Dev) (p : Proposal) : Bool :=
  digestOf p.epoch p.roster d.fed.proposed = p.digest && d.buddyMapOk p.roster d.fed.proposed

/-- Answers to PREPARE from every roster member are OK. -/
def Dev.allPrepared (d : Dev) (p : Proposal) : Bool :=
  p.roster.all fun m => if m = d.fedMe then p.preparedOk else (d.peer m).prepared = 1

/-- The leader decides once every roster member has answered OK: COMMIT with T = now + COMMIT_LEAD (R276). -/
def Dev.decideEpoch (d : Dev) : Dev :=
  match d.fed.proposal with
  | some p =>
    if d.iLead && p.commitAt.isNone && d.allPrepared p then
      let t := d.tmb + usTicks (1000 * d.rd Fld.fedTimers_commitLead)
      (d.setFed { d.fed with proposal := some { p with commitAt := some t } }).fedSend none (.commit p.epoch p.digest t)
    else d
  | none => d

/-- A coordinator sends its group's answer once every roster member of the group has given OK (R276). -/
def Dev.aggregate (d : Dev) : Dev :=
  match d.fed.proposal, d.fed.leader with
  | some p, some l =>
    let g := groupOf d.fedMe
    let mine := p.roster.filter fun m => groupOf m = g
    let ok (m : Nat) : Bool := if m = d.fedMe then p.preparedOk else (d.peer m).prepared = 1
    if d.iCoord && !d.iLead && !mine.isEmpty && mine.all ok then
      d.fedSend (some l) (.prepared p.epoch Code.ok (groupBits g fun m => mine.contains m))
    else d
  | _, _ => d

/-- This member's own answer to PREPARE: to its coordinator, as its group's, or to itself as leader. -/
def Dev.answerPrepare (d : Dev) (p : Proposal) (status : Nat) : Dev :=
  let ok := status = Code.ok
  let d := d.setFed { d.fed with proposal := some { p with preparedOk := ok } }
  if d.iLead then (if ok then d.decideEpoch else d.abortAll status)
  else if d.iCoord then
    if ok then d.aggregate
    else
      match d.fed.leader with
      | some l => d.fedSend (some l) (.prepared p.epoch status 0)
      | none => d
  else
    match d.fed.coord with
    | some c => d.fedSend (some c) (.prepared p.epoch status (if ok then 2 ^ (d.fedMe % 32) else 0))
    | none => d

/-- The proposed set is compared with the proposal: a roster member answers OK once it matches; a member whose set differs
asks for the MANIFEST (R274, R276). A BUDDY_MAP that breaks R278 is a mismatch at once. -/
def Dev.checkProposal (d : Dev) (ask : Bool) : Dev :=
  match d.fed.proposal with
  | some p =>
    if p.preparedOk then d
    else if digestOf p.epoch p.roster d.fed.proposed = p.digest then
      if p.roster.contains d.fedMe then
        d.answerPrepare p (if d.buddyMapOk p.roster d.fed.proposed then Code.ok else Code.digestMismatch)
      else d
    else if ask && p.proposer ≠ d.fedMe then
      (d.setFed { d.fed with wanted := [], parts := [], manifestFrom := (0, 0) }).fedSend (some p.proposer)
        (.recordReq p.epoch [])
    else d
  | none => d

/-- A proposal begins here, as its PREPARE gives it. -/
def Dev.takeProposal (d : Dev) (p : Proposal) : Dev :=
  let peers := d.fed.peers.map fun (x : Nat × Peer) => (x.1, { x.2 with prepared := 0 })
  let d := d.setFed { d.fed with proposal := some p, peers := peers, wanted := [], parts := [] }
  let d := if d.fedState = 4 ∨ d.fedState = 5 ∨ d.fedState = 6 then d.setFedState 7 else d
  d.checkProposal true

/-- The leader accepts a proposal: PREPARE goes to ALL (R276). -/
def Dev.accept (d : Dev) (digest : List Byte) (roster : List Nat) (proposer : Nat) : Dev :=
  let e := d.epoch + 1
  (d.fedSend none (.prepare e digest roster proposer)).takeProposal
    { epoch := e, digest := digest, roster := roster, proposer := proposer }

/-- The leader proposes by itself: epoch 1, joins and quarantine changes (R271, R276, R282). -/
def Dev.leaderPropose (d : Dev) : Dev :=
  let w := d.wantedRoster
  if d.iLead && decide (6 ≤ d.fedState) && !d.fedQuarantined && d.fed.proposal.isNone && !w.isEmpty
      && d.mustPropose w then
    d.accept (digestOf (d.epoch + 1) w d.fed.proposed) w d.fedMe
  else d

/-- A new leader resolves what the old one left: the COMMIT that a member holds goes out again with its original T, a proposal
without one is aborted (R276). -/
def Dev.resolveProposal (d : Dev) : Dev :=
  let d := d.setFed { d.fed with resolve := false }
  let undecided := match d.fed.proposal with | some p => p.commitAt.isNone | none => false
  match d.heldCommit with
  | some c => (if undecided then d.abortAll Code.epochStale else d).fedSend none (.commit c.1 c.2.1 c.2.2)
  | none => d.abortAll Code.epochStale

/-! Rounds and losses (R269). -/

/-- ELECTION_ROUND: the group's or the leader's round ends. -/
def electionRound (d : Dev) : Dev :=
  if !d.fedOn || d.fedState < 3 || d.fedQuarantined then d
  else
    match d.fed.coord with
    | none => d.groupRound
    | some c =>
      if c = d.fedMe && d.fed.leader.isNone then
        if d.bestOf d.coords = d.fedMe then d.becomeLeader else d.sendReport
      else if d.iLead && d.fed.resolve then d.resolveProposal
      else d

/-- ELECTION_ROUND (R269). -/
def execElectionRound (s : State) : Host.Outcome State Fault Refusal := s.run electionRound

/-- This member no longer leads. -/
def Dev.stepDown (d : Dev) : Dev := (d.setFed { d.fed with leader := none }).showRoles

/-- A GROUP_REPORT of the coordinator of a group (R269, R281). -/
def Dev.reportFrom (d : Dev) (h : BmHdr) (group coord present aligned attested : Nat) : Dev :=
  let m := (bmFrom h)
  if coord ≠ m ∨ groupOf m ≠ group then d
  else
    let d := d.setPeer m { d.peer m with report := some (present, aligned, attested) }
    let mine := group = groupOf d.fedMe
    let d := if mine && d.iCoord && decide (d.memberRank m < d.memberRank d.fedMe) then d else d.setCoord group m
    let d := if mine && d.iCoord then d
      else (membersIn (32 * group) 32 (2 ^ 32 - 1)).foldl
        (fun d k => if k != d.fedMe && !d.attests k then d.setMember k 6 1 (b2n (attested.testBit (k % 32))) else d) d
    let d := if d.iLead && decide (d.memberRank d.fedMe < d.memberRank m) then d.stepDown else d
    d.fedAdvance

/-- GROUP_REPORT (R269). -/
def execGroupReport (h : BmHdr) (group coord present aligned attested : Nat) (s : State) :
    Host.Outcome State Fault Refusal :=
  s.run fun d => d.bmRun h { type := 0x03 }
    (decide (group < 32 ∧ coord < 1024 ∧ present < 2 ^ 32 ∧ aligned < 2 ^ 32 ∧ attested < 2 ^ 32))
    (·.reportFrom h group coord present aligned attested)

/-- A LEADER message (R269): a coordinator whose view differs answers with its GROUP_REPORT. -/
def Dev.leaderFrom (d : Dev) (h : BmHdr) (leader groups : Nat) : Dev :=
  let m := (bmFrom h)
  if leader ≠ m ∨ m = d.fedMe then d
  else if d.iLead && decide (d.memberRank m < d.memberRank d.fedMe) then d.sendLeader
  else
    let d := if d.iLead then d.stepDown else d
    let differs := d.iCoord && (d.coordGroups != groups || d.bestOf (m :: d.coords) != m)
    let d := if differs then d.sendReport else d
    if differs && d.fed.leader != some m then d else (d.setLeader m).fedAdvance

/-- LEADER (R269). -/
def execLeader (h : BmHdr) (leader groups : Nat) (s : State) : Host.Outcome State Fault Refusal :=
  s.run fun d => d.bmRun h { type := 0x04 } (decide (leader < 1024 ∧ groups < 2 ^ 32)) (·.leaderFrom h leader groups)

/-- LEADER_HEARTBEAT (R269). -/
def leaderHeartbeat (d : Dev) : Dev := if d.fedOn && d.iLead then d.sendLeader else d

/-- LEADER_HEARTBEAT (R269). -/
def execLeaderHeartbeat (s : State) : Host.Outcome State Fault Refusal := s.run leaderHeartbeat

/-- COORDINATOR_LOSS: a silent coordinator is replaced by a new group election (R269). -/
def coordinatorLoss (d : Dev) : Dev :=
  match d.fed.coord with
  | some c => if !d.fedOn || c = d.fedMe then d else ((d.setMember c 7 1 0).startElection).showRoles
  | none => d

/-- COORDINATOR_LOSS (R269). -/
def execCoordinatorLoss (s : State) : Host.Outcome State Fault Refusal := s.run coordinatorLoss

/-- LEADER_LOSS: the coordinators elect a new leader (R269). -/
def leaderLoss (d : Dev) : Dev :=
  match d.fed.leader with
  | some l =>
    if !d.fedOn || l = d.fedMe then d
    else
      let d := (d.setMember l 7 1 0).stepDown
      if d.iCoord then d.sendReport else d
  | none => d

/-- LEADER_LOSS (R269). -/
def execLeaderLoss (s : State) : Host.Outcome State Fault Refusal := s.run leaderLoss

/-- The claims of an index in CONFLICT whose senders were heard within ABSENT_MS. -/
def Dev.liveClaims (d : Dev) (m : Nat) : List (Nat × Nat) :=
  (d.peer m).claims.filter fun c => decide (d.tmb < c.2 + usTicks 1000000)

/-- MEMBER_ABSENT of member `m`: it becomes ABSENT; in CONFLICT, the one sender left that matches the ROSTER record
returns to JOINING, this device itself too (R266). Frames that wait for it end with PEER_ABSENT. -/
def memberAbsent (m : Nat) (d : Dev) : Dev :=
  if !d.fedOn || 1024 ≤ m then d
  else if m = d.fedMe then
    if d.fedState = 10 && (d.liveClaims m).isEmpty && d.recordNames m d.eui then (d.setFedState 5).setMemberState m 1 else d
  else
    match d.memberState m with
    | 0 => d
    | 4 =>
      match d.liveClaims m with
      | [c] =>
        if d.recordNames m c.1 then
          let d := d.setPeer m { d.peer m with claims := [c] }
          (((d.setLe (memberAddr m + 8) 8 c.1).setMemberState m 1).setMember m 6 1 0).challengeDue m
        else d
      | _ => d
    | _ =>
      let d := (d.setMemberState m 0).setMember m 7 1 0
      let lost := d.tx.frames.filter fun f => f.stage = .remote &&
        (match f.node with | some s => d.rteMember s = m | none => false)
      (lost.foldl (fun d f => d.txEnd f Code.peerAbsent false) d).settle

/-- MEMBER_ABSENT (R266). -/
def execMemberAbsent (m : Nat) (s : State) : Host.Outcome State Fault Refusal := s.run (memberAbsent m)

/-! Time alignment (R272). -/

/-- The departure of a time message in its payload: in Bm2 only, TX_TIME carries it in Bm3 (R263, R265). -/
def Dev.bm2Time (d : Dev) (m : Nat) : Option Nat := if d.bmVersion (some m) = 2 then some d.now8 else none

/-- SYNC_BURST: a child starts a burst of 8 exchanges with its parent. -/
def syncBurst (d : Dev) : Dev :=
  match d.parent with
  | some p =>
    if !d.fedOn || p = d.fedMe then d
    else (d.setFed { d.fed with burst := none, exchanges := 0 }).fedSend (some p) (.syncReq 0 (d.bm2Time p))
  | none => d

/-- SYNC_BURST (R272). -/
def execSyncBurst (s : State) : Host.Outcome State Fault Refusal := s.run syncBurst

/-- SYNC_REQ: the parent answers with t2, its receive time, and t3 as the answer leaves (R272). -/
def execSyncReq (h : BmHdr) (index t2 : Nat) (s : State) : Host.Outcome State Fault Refusal :=
  s.run fun d => d.bmRun h { type := 0x05 } (decide (index < 8)) fun d =>
    d.fedSend (some (bmFrom h)) (.syncResp t2 (d.bm2Time (bmFrom h)))

/-- TMB steps by `theta` eighths of a tick (R272). -/
def Dev.timeStep (d : Dev) (theta : Int) : Dev :=
  let e := ((d.tmb * 8 + d.fed.frac : Nat) : Int) + theta
  let n := e.toNat
  { d with tmb := n / 8, fed := { d.fed with frac := n % 8 } }

/-- One eighth of a tick of the slew toward the parent, once in 12,500 ticks: 10 ppm (R272). -/
def Dev.slewTick (d : Dev) : Dev :=
  if d.fed.slew = 0 ∨ d.tmb % 12500 ≠ 0 then d
  else
    let one : Int := if 0 < d.fed.slew then 1 else -1
    (d.setFed { d.fed with slew := d.fed.slew - one }).timeStep one

/-- The parent is aligned: the leader is; of a coordinator its report shows it. -/
def Dev.parentAligned (d : Dev) (p : Nat) : Bool :=
  d.fed.leader = some p ||
    (match (d.peer p).report with
      | some (_, aligned, _) => aligned.testBit (p % 32)
      | none => false)

/-- A burst has ended with the offset `theta` of its best exchange: step or slew, and ALIGNED (R272). THETA shows the
offset; one beyond its 16 bits is a free value. -/
def Dev.burstEnd (d : Dev) (p : Nat) (theta : Int) : Dev :=
  let r := if -32768 ≤ theta ∧ theta < 32768 then (unsignedOf theta 16, d) else d.free 16
  let d := (r.2.wr Fld.fedTime_theta r.1).wr Fld.fedTime_parent p
  let once := d.fed.alignedOnce
  let d :=
    if !once || decide (25600 < theta.natAbs) then
      let d := ((d.setFed { d.fed with slew := 0 }).timeStep theta).bump Fld.fedStat4_timeStep
      if once then d.raise 0x52 else d
    else d.setFed { d.fed with slew := theta }
  let good := if theta.natAbs ≤ 25 then d.fed.good + 1 else 0
  let aligned := decide (3 ≤ good) && d.parentAligned p
  let d := d.setFed { d.fed with good := good, alignedOnce := d.fed.alignedOnce || aligned, burst := none }
  let d := d.wr Fld.fedTime_aligned (b2n aligned)
  (if d.iCoord then d.sendReport else d).fedAdvance

/-- An exchange with the parent has ended (R272). -/
def Dev.exchange (d : Dev) (h : BmHdr) (t1 t2 t3 t4 : Nat) : Dev :=
  let p := (bmFrom h)
  if d.parent ≠ some p ∨ 8 ≤ d.fed.exchanges then d
  else
    let t3 : Int := if h.version = 3 then h.txTime else t3
    let asym := signedOf (d.rd Fld.fedAsym_asym (if h.ports = 2 then 1 else 0)) 16
    let delay : Int := ((t4 - t1 : Int) - (t3 - t2)) / 2
    let theta : Int := ((t2 - t1 : Int) - (t4 - t3) - asym) / 2
    let best := match d.fed.burst with
      | some (y, z) => if delay < y then (delay, theta) else (y, z)
      | none => (delay, theta)
    let n := d.fed.exchanges + 1
    let d := d.setFed { d.fed with burst := some best, exchanges := n }
    if n < 8 then d.fedSend (some p) (.syncReq n (d.bm2Time p)) else d.burstEnd p best.2

/-- SYNC_RESP (R272). -/
def execSyncResp (h : BmHdr) (t1 t2 t3 t4 : Nat) (s : State) : Host.Outcome State Fault Refusal :=
  s.run fun d => d.bmRun h { type := 0x06 } true (·.exchange h t1 t2 t3 t4)

/-- PARENT_HOLDOVER_TIMEOUT: without a parent for 10 s, ALIGNED clears (R272). -/
def parentHoldoverTimeout (d : Dev) : Dev :=
  let gone := match d.parent with
    | some p => d.memberState p = 0
    | none => true
  if d.fedOn && !d.iLead && gone then
    ((d.wr Fld.fedTime_aligned 0).setFed { d.fed with good := 0 }).raise 0x52
  else d

/-- PARENT_HOLDOVER_TIMEOUT (R272). -/
def execParentHoldoverTimeout (s : State) : Host.Outcome State Fault Refusal := s.run parentHoldoverTimeout

/-! Digests and records (R274, R275). -/

/-- DIGEST_TIMER: DIGEST goes to the coordinator and to member `other`; the leader makes its own proposals (R271, R274,
R276). -/
def digestTimer (other : Nat) (d : Dev) : Dev :=
  if !d.fedOn || d.fedState < 3 then d
  else
    let p : BmPayload := .digest d.epoch d.digestRegs (d.epoch + 1) d.nextDigest
    let d := match d.fed.coord with
      | some c => if c = d.fedMe then d else d.fedSend (some c) p
      | none => d
    let d := if other ≠ d.fedMe ∧ other < 1024 ∧ d.memberHere other ∧ d.fed.coord ≠ some other then d.fedSend (some other) p
      else d
    d.fedAdvance.leaderPropose.settle

/-- DIGEST_TIMER (R274). -/
def execDigestTimer (other : Nat) (s : State) : Host.Outcome State Fault Refusal := s.run (digestTimer other)

/-- DIGEST: a member whose proposed digest differs from a proposal it has received fetches records (R274). -/
def execDigest (h : BmHdr) (epoch : Nat) (digest : List Byte) (nextEpoch : Nat) (nextDigest : List Byte) (s : State) :
    Host.Outcome State Fault Refusal :=
  s.run fun d => d.bmRun h { type := 0x07 }
    (decide (digest.length = 32 ∧ nextDigest.length = 32 ∧ epoch < 2 ^ 32 ∧ nextEpoch < 2 ^ 32))
    fun d => d.checkProposal (d.fed.wanted.isEmpty && d.fed.parts.isEmpty)

/-- The messages of a MANIFEST, 90 entries each; `n` bounds their number. -/
def manifests : Nat → List Record → List (List Record)
  | 0, l => [l]
  | n + 1, l => if l.length < 90 then [l] else l.take 90 :: manifests n (l.drop 90)

/-- The fragments of a record (R275). -/
def Record.fragments (r : Record) : List BmPayload :=
  (List.range (max 1 ((r.data.length + 1407) / 1408))).map fun k =>
    .record r.type r.id r.data.length (1408 * k) (slice r.data (1408 * k) (min 1408 (r.data.length - 1408 * k)))

/-- RECORD_REQ is answered with the MANIFEST of the set, or with the records (R263, R274, R275). -/
def Dev.recordsFor (d : Dev) (m epoch : Nat) (ids : List (Nat × Nat)) : Dev :=
  let set := if epoch = d.epoch then d.fed.current else d.fed.proposed
  if ids.isEmpty then
    (manifests (set.length / 90) set).foldl
      (fun d l => d.fedSend (some m) (.manifest (l.map fun r => (r.type, r.id, r.hash8)))) d
  else
    (ids.filterMap fun i => getRecord i.1 i.2 set).foldl
      (fun d r => r.fragments.foldl (fun d p => d.fedSend (some m) p) d) d

/-- RECORD_REQ (R274). -/
def execRecordReq (h : BmHdr) (epoch : Nat) (ids : List (Nat × Nat)) (s : State) : Host.Outcome State Fault Refusal :=
  s.run fun d => d.bmRun h { type := 0x08 } (decide (ids.length ≤ 180 ∧ epoch < 2 ^ 32)) (·.recordsFor (bmFrom h) epoch ids)

/-- Missing records are asked for, 180 in a message; `n` bounds the messages. -/
def Dev.askRecords (d : Dev) (p : Proposal) : Nat → List (Nat × Nat) → Dev
  | _, [] => d
  | 0, _ => d
  | n + 1, l => (d.fedSend (some p.proposer) (.recordReq p.epoch (l.take 180))).askRecords p n (l.drop 180)

/-- MANIFEST (R274): records that are missing or differ are requested, records that it lacks are deleted. A message of
90 entries covers the records up to its last one, a shorter one all that follow. -/
def Dev.manifestFrom (d : Dev) (m : Nat) (entries : List (Nat × Nat × List Byte)) : Dev :=
  match d.fed.proposal with
  | some p =>
    if p.proposer ≠ m ∨ p.preparedOk then d
    else
      let lo := d.fed.manifestFrom
      let hi := if entries.length < 90 then (0xFFFF, 0xFFFFFFFF)
        else match entries.getLast? with | some e => (e.1, e.2.1) | none => (0xFFFF, 0xFFFFFFFF)
      let covered (r : Record) : Bool :=
        !recBefore r.type r.id lo.1 lo.2 && !recBefore hi.1 hi.2 r.type r.id
      let listed (r : Record) : Bool := entries.any fun e => e.1 = r.type && e.2.1 = r.id
      let kept := d.fed.proposed.filter fun r => !covered r || listed r
      let need := entries.filter fun e =>
        recordTypeOk e.1 && (match getRecord e.1 e.2.1 kept with | some r => r.hash8 != e.2.2 | none => true)
      let d := d.setFed { d.fed with proposed := kept, wanted := d.fed.wanted ++ need, manifestFrom := (hi.1, hi.2 + 1) }
      let d := d.askRecords p (need.length + 1) (need.map fun e => (e.1, e.2.1))
      if d.fed.wanted.isEmpty then d.checkProposal false else d
  | none => d

/-- MANIFEST (R274). -/
def execManifest (h : BmHdr) (entries : List (Nat × Nat × List Byte)) (s : State) : Host.Outcome State Fault Refusal :=
  s.run fun d => d.bmRun h { type := 0x09 } (decide (entries.length ≤ 90)) (·.manifestFrom (bmFrom h) entries)

/-- A fragment that R275 does not drop. -/
def fragmentOk (total offset : Nat) (data : List Byte) : Bool :=
  decide (total ≤ 16384) && offset % 1408 = 0 && (decide (offset < total) || (total = 0 && offset = 0)) &&
    decide (data.length ≤ 1408) && decide (offset + data.length ≤ total)

/-- The whole record, once every fragment is present. -/
def Reassembly.whole (r : Reassembly) : Option (List Byte) :=
  let n := max 1 ((r.total + 1407) / 1408)
  let got := (List.range n).map fun k => alGet (1408 * k) r.parts
  if got.all (·.isSome) then
    let bs := got.flatMap fun x => x.getD []
    if bs.length = r.total then some bs else none
  else none

/-- A RECORD fragment (R275): the record is applied to the proposed set when it is whole and its hash is the one of the
MANIFEST; a TYPE that Table 12.6 reserves, and a record for which the set has no room, is dropped. -/
def Dev.recordFrom (d : Dev) (type id total offset : Nat) (data : List Byte) : Dev :=
  match d.fed.wanted.find? fun e => e.1 = type && e.2.1 = id with
  | none => d
  | some e =>
    let old := (d.fed.parts.find? fun r => r.type = type && r.id = id && r.total = total).getD
      { type := type, id := id, total := total, parts := [] }
    let r : Reassembly := { old with parts := alSet offset data old.parts }
    let rest := d.fed.parts.filter fun x => !(x.type = type && x.id = id && x.total = total)
    match r.whole with
    | none => d.setFed { d.fed with parts := rest ++ [r] }
    | some bs =>
      let d := d.setFed { d.fed with parts := rest }
      let l := putRecord { type := type, id := id, data := bs } d.fed.proposed
      if (sha256 bs).take 8 ≠ e.2.2 ∨ ¬ recordTypeOk type ∨ ¬ setFits l then d
      else
        let d := d.setFed { d.fed with
          proposed := l
          wanted := d.fed.wanted.filter fun x => x != e }
        d.checkProposal false

/-- RECORD (R275). -/
def execRecord (h : BmHdr) (type id total offset : Nat) (data : List Byte) (s : State) :
    Host.Outcome State Fault Refusal :=
  s.run fun d => d.bmRun h { type := 0x0A } (fragmentOk total offset data) (·.recordFrom type id total offset data)

/-- RECORD_REASSEMBLY_TIMEOUT: an incomplete record is discarded and requested again (R275). -/
def recordReassemblyTimeout (type id : Nat) (d : Dev) : Dev :=
  match d.fed.proposal with
  | some p =>
    if d.fedOn && d.fed.parts.any fun r => r.type = type && r.id = id then
      (d.setFed { d.fed with parts := d.fed.parts.filter fun r => !(r.type = type && r.id = id) }).fedSend
        (some p.proposer) (.recordReq p.epoch [(type, id)])
    else d
  | none => d

/-- RECORD_REASSEMBLY_TIMEOUT (R275). -/
def execRecordReassemblyTimeout (type id : Nat) (s : State) : Host.Outcome State Fault Refusal :=
  s.run (recordReassemblyTimeout type id)

/-! Epoch messages (R276). -/

/-- PROPOSE at a member: the leader accepts one proposal per base epoch (R276, R277). -/
def Dev.proposeFrom (d : Dev) (m base : Nat) (digest : List Byte) (proposer : Nat) : Dev :=
  if !d.iLead then d.fedSend (some m) (.abort base Code.notLeader)
  else if base ≠ d.epoch ∨ d.fed.proposal.isSome ∨ d.fedState < 6 then d.fedSend (some m) (.abort base Code.epochStale)
  else d.accept digest d.wantedRoster proposer

/-- PROPOSE (R276). -/
def execPropose (h : BmHdr) (base : Nat) (digest : List Byte) (proposer : Nat) (s : State) :
    Host.Outcome State Fault Refusal :=
  s.run fun d => d.bmRun h { type := 0x0B } (decide (digest.length = 32 ∧ proposer < 1024)) (·.proposeFrom (bmFrom h) base digest proposer)

/-- PREPARE from the leader (R276). -/
def Dev.prepareFrom (d : Dev) (m epoch : Nat) (digest : List Byte) (roster proposer : Nat) : Dev :=
  if d.fed.leader ≠ some m ∨ epoch ≤ d.epoch then d
  else d.takeProposal {
    epoch := epoch, digest := digest, roster := membersIn 0 1024 roster, proposer := proposer }

/-- PREPARE (R276). -/
def execPrepare (h : BmHdr) (epoch : Nat) (digest : List Byte) (roster proposer : Nat) (s : State) :
    Host.Outcome State Fault Refusal :=
  s.run fun d => d.bmRun h { type := 0x0C, epoch := true } (decide (digest.length = 32 ∧ proposer < 1024 ∧ roster < 2 ^ 1024))
    (·.prepareFrom (bmFrom h) epoch digest roster proposer)

/-- PREPARED from a group member or a coordinator (R276). -/
def Dev.preparedFrom (d : Dev) (m epoch status bitmap : Nat) : Dev :=
  match d.fed.proposal with
  | some p =>
    if p.epoch ≠ epoch ∨ ¬ (d.iCoord ∨ d.iLead) then d
    else if status ≠ Code.ok then
      if d.iLead then d.abortAll status
      else
        match d.fed.leader with
        | some l => d.fedSend (some l) (.prepared epoch status 0)
        | none => d
    else
      let d := (membersIn (32 * groupOf m) 32 bitmap).foldl (fun d k => d.setPeer k { d.peer k with prepared := 1 }) d
      if d.iLead then d.decideEpoch else d.aggregate
  | none => d

/-- PREPARED (R276). -/
def execPrepared (h : BmHdr) (epoch status bitmap : Nat) (s : State) : Host.Outcome State Fault Refusal :=
  s.run fun d => d.bmRun h { type := 0x0D, epoch := true } (decide (bitmap < 2 ^ 32 ∧ status < 2 ^ 16))
    (·.preparedFrom (bmFrom h) epoch status bitmap)

/-- PREPARE_TIMEOUT: a member without the digest reports DIGEST_MISMATCH; a leader without every OK aborts (R276). -/
def prepareTimeout (d : Dev) : Dev :=
  match d.fed.proposal with
  | some p =>
    if !d.fedOn || p.commitAt.isSome then d
    else if d.iLead then d.abortAll Code.digestMismatch
    else if p.preparedOk || !p.roster.contains d.fedMe then d
    else d.answerPrepare p Code.digestMismatch
  | none => d

/-- PREPARE_TIMEOUT (R276). -/
def execPrepareTimeout (s : State) : Host.Outcome State Fault Refusal := s.run fun d => (prepareTimeout d).settle

/-- COMMIT: it is held until TMB = T, or applied at once where T has passed (R276). -/
def Dev.commitFrom (d : Dev) (epoch : Nat) (digest : List Byte) (t : Nat) : Dev :=
  match d.fed.proposal with
  | some p =>
    if p.epoch ≠ epoch ∨ p.digest ≠ digest ∨ ¬ d.holdsProposal p ∨ p.commitAt.isSome then d
    else if t < d.tmb then (d.bump Fld.fedStat3_lateCommit).applyEpoch { p with commitAt := some t }
    else d.setFed { d.fed with proposal := some { p with commitAt := some t } }
  | none => d

/-- COMMIT (R276). -/
def execCommit (h : BmHdr) (epoch : Nat) (digest : List Byte) (t : Nat) (s : State) : Host.Outcome State Fault Refusal :=
  s.run fun d => d.bmRun h { type := 0x0E, epoch := true } (decide (digest.length = 32 ∧ t < 2 ^ 64)) (·.commitFrom epoch digest t)

/-- COMMIT_TIME: TMB has reached T of the COMMIT held (R276). -/
def commitTime (d : Dev) : Dev :=
  match d.fed.proposal with
  | some p =>
    match p.commitAt with
    | some t => if d.fedOn && decide (t ≤ d.tmb) then (d.applyEpoch p).settle else d
    | none => d
  | none => d

/-- COMMIT_TIME (R276). -/
def execCommitTime (s : State) : Host.Outcome State Fault Refusal := s.run commitTime

/-- ABORT (R276, R282): QUARANTINED quarantines this member; ATTEST_FAIL from a coordinator goes to the leader's host;
any other status discards the proposal and ends FED_PROPOSE with it. -/
def Dev.abortFrom (d : Dev) (m epoch status : Nat) : Dev :=
  if status = Code.quarantined then d.enterQuarantine 9
  else if status = Code.attestFail then (if d.iLead then d.notice Code.attestFail m else d)
  else
    match d.fed.proposal with
    | some p =>
      if p.epoch = epoch && p.commitAt.isNone then d.proposalEnd status []
      else if d.fed.proposeCmd.isSome && epoch ≤ d.epoch then d.proposalEnd status []
      else d
    | none => if d.fed.proposeCmd.isSome then d.proposalEnd status [] else d

/-- ABORT (R276). -/
def execAbort (h : BmHdr) (epoch status : Nat) (s : State) : Host.Outcome State Fault Refusal :=
  s.run fun d => d.bmRun h { type := 0x0F } (decide (status < 2 ^ 16)) (·.abortFrom (bmFrom h) epoch status)

/-- JOIN_TIMEOUT: RUN not reached within FED_JOIN_TIMEOUT (R267). -/
def joinTimeout (d : Dev) : Dev :=
  if d.fedOn && d.fedState != 8 then (d.wr Fld.fedStatus_timeout 1).raise 0x51 else d

/-- JOIN_TIMEOUT (R267). -/
def execJoinTimeout (s : State) : Host.Outcome State Fault Refusal := s.run joinTimeout

end Sys2Proof.Machine
end

