-- ==== Sys2Proof/Machine/FedData.lean ====
section
/-! DEFINITION. Federation traffic: attestation, replication, migration, DATA frames, serving a boot image and the host's
federation commands (R20, R252, R263, R264, R275, R276, R279–R283, R305). -/

namespace Sys2Proof.Machine

open Sys2Proof

/-! Attestation (R281, R282). -/

/-- ATTEST_CHALLENGE is answered with a signature over nonce, EUI-64, member index and SVN, whose value is free (R281,
R387). -/
def Dev.attest (d : Dev) (m : Nat) : Dev :=
  let r := d.free 512
  r.2.fedSend (some m) (.attestResponse d.eui d.fedMe d.boot.svn (d.bytes attestKeyAddr 64) (natBe 64 r.1))

/-- ATTEST_CHALLENGE (R281). -/
def execAttestChallenge (h : BmHdr) (nonce : List Byte) (s : State) : Host.Outcome State Fault Refusal :=
  s.run fun d => d.bmRun h { type := 0x17, bm3 := true } (decide (nonce.length = 16)) (·.attest (bmFrom h))

/-- Member `m` failed attestation: REPLACED, counted, told, and the leader's host notified (R282). -/
def Dev.attestFailed (d : Dev) (m : Nat) : Dev :=
  let d := (d.setPeer m { d.peer m with nonce := none }).setMember m 6 1 0
  let d := (d.setMemberState m 3).bump Fld.fedStat4_attestFail
  let d := d.fedSend (some m) (.abort d.epoch Code.quarantined)
  let d := if d.iLead then d.notice Code.attestFail m
    else match d.fed.leader with
      | some l => d.fedSend (some l) (.abort d.epoch Code.attestFail)
      | none => d
  d.fedAdvance

/-- ATTEST_RESPONSE to an open challenge passes when the signature verifies, and the ROSTER record of the index, where
there is one, names the key and the EUI-64 (R281). -/
def Dev.judge (d : Dev) (m eui : Nat) (key : List Byte) (good : Bool) : Dev :=
  if (d.peer m).nonce.isNone then d
  else
    let named := match d.rosterRecord m with
      | some r => decide ((sha256 key).take 16 = slice r.data 8 16) && decide (eui = leAt r.data 0 8)
      | none => true
    if good && named then
      let d := (d.setPeer m { d.peer m with nonce := none }).setMember m 6 1 1
      (if d.iCoord then d.sendReport else d).fedAdvance
    else d.attestFailed m

/-- ATTEST_RESPONSE (R281). -/
def execAttestResponse (h : BmHdr) (eui member svn : Nat) (key : List Byte) (good : Bool) (s : State) :
    Host.Outcome State Fault Refusal :=
  s.run fun d => d.bmRun h { type := 0x18, bm3 := true, fromQuarantine := true }
    (decide (key.length = 64 ∧ member = bmFrom h ∧ svn < 2 ^ 32)) (·.judge (bmFrom h) eui key good)

/-- ATTEST_TIMEOUT: no response within 500 ms counts as failed (R281). -/
def attestTimeout (m : Nat) (d : Dev) : Dev :=
  if d.fedOn && (d.peer m).nonce.isSome then (d.attestFailed m).settle else d

/-- ATTEST_TIMEOUT (R281). -/
def execAttestTimeout (m : Nat) (s : State) : Host.Outcome State Fault Refusal := s.run (attestTimeout m)

/-! Buddy replication (R279). -/

/-- Device address of the replica of slot `s` (BUD). -/
def budAddr (s : Nat) : Nat := 0x10400000 + 128 * s

/-- The context of slot `s` as its buddy is to have it: as it now stands, or of a removed node with VALID = 0. -/
def Dev.replicaImage (d : Dev) (s : Nat) : List Byte :=
  match (d.fed.repl.find? fun e => e.slot = s).bind (·.gone) with
  | some g => if d.slotValid s then d.bytes (ctxAddr s) 128
    else setImg (setImg (List.replicate 128 0#8) Cx.nodeAddr g.1) Cx.seq g.2
  | none => d.bytes (ctxAddr s) 128

/-- The replica message of some slots. -/
def Dev.replicaOf (d : Dev) (slots : List Nat) : BmPayload := .replica (slots.map fun s => (s, d.replicaImage s))

/-- REPLICA messages of up to 10 contexts; `n` bounds their number. -/
def Dev.sendReplicas (d : Dev) (b : Nat) : Nat → List Nat → Dev
  | _, [] => d
  | 0, _ => d
  | n + 1, l =>
    let now := l.take 10
    let note (e : ReplEntry) : ReplEntry :=
      if now.contains e.slot then { e with sent := some (imgField (d.replicaImage e.slot) Cx.seq), sentAt := d.tmb } else e
    let d := d.fedSend (some b) (d.replicaOf now)
    (d.setFed { d.fed with repl := d.fed.repl.map note }).sendReplicas b n (l.drop 10)

/-- REPLICATION_SEND: changed contexts go to the buddy (R279). -/
def replicationSend (d : Dev) : Dev :=
  match d.buddy d.fedMe with
  | some b =>
    if d.fedOn && d.fedState = 8 then
      let l := (d.fed.repl.filter fun e => e.sent.isNone).map (·.slot)
      d.sendReplicas b l.length l
    else d
  | none => d

/-- REPLICATION_SEND (R279). -/
def execReplicationSend (s : State) : Host.Outcome State Fault Refusal := s.run replicationSend

/-- REPLICATION_RETX: entries not acknowledged for 50 ms are sent again with their latest content (R279). -/
def replicationRetx (d : Dev) : Dev :=
  match d.buddy d.fedMe with
  | some b =>
    if d.fedOn && d.fedState = 8 then
      let l := (d.fed.repl.filter fun e => e.sent.isSome && decide (e.sentAt + usTicks 50000 ≤ d.tmb)).map (·.slot)
      (d.bumpBy l.length Fld.fedStat6_replRetx).sendReplicas b l.length l
    else d
  | none => d

/-- REPLICATION_RETX (R279). -/
def execReplicationRetx (s : State) : Host.Outcome State Fault Refusal := s.run replicationRetx

/-- SEQ `a` is newer than `b` under serial comparison modulo 2^32. -/
def seqNewer (a b : Nat) : Bool := let x := (a + 2 ^ 32 - b % 2 ^ 32) % 2 ^ 32; x != 0 && decide (x < 2 ^ 31)

/-- An entry for the BUD region is applied where its slot is empty, holds another node, or is older (R279). -/
def Dev.applyReplica (d : Dev) (s : Nat) (img : List Byte) : Dev :=
  let old := d.bytes (budAddr s) 128
  if imgField old Cx.valid = 0 || imgField old Cx.nodeAddr != imgField img Cx.nodeAddr
      || seqNewer (imgField img Cx.seq) (imgField old Cx.seq) then
    d.setBytes (budAddr s) (padTo 128 img)
  else d

/-- The lowest slot that holds no node, damaged and pending slots apart. -/
def Dev.freeSlot (d : Dev) : Option Nat :=
  let pending := (d.fed.migrations.filter fun m => !m.source && m.step = 0).map (·.slot)
  let taken := d.ndt.damaged ++ pending
  let used := d.residentSlots
  (List.range (used.length + taken.length + 1)).findSome? fun k =>
    let s := k
    if !used.contains s && !taken.contains s && decide (s < 32768) then some s else none

/-- A context from a replica is written for an adoption, a rebuild or an admission (R250, R252, R280, R282). -/
def Dev.takeReplica (d : Dev) (s : Nat) (img : List Byte) : Dev :=
  let node := imgField img Cx.nodeAddr
  if imgField img Cx.valid = 0 then d
  else
    match d.fed.adopts.find? fun a => a.1 = node with
    | some (_, c) =>
      let d := d.setFed { d.fed with adopts := d.fed.adopts.filter fun a => a.1 != node }
      match (if d.slotValid s then d.freeSlot else some s) with
      | none => d.finishId c Code.tableFull []
      | some t =>
        let x := d.restoreCtx t img false
        (if x.2 = Code.ok then x.1.slpRestored t else x.1).finishId c x.2 []
    | none =>
      let x := d.restoreCtx s img true
      if x.2 = Code.ok then x.1.slpRestored s else x.1

/-- The entry is one that this member asked its buddy for. -/
def Dev.asked (d : Dev) (s : Nat) (img : List Byte) : Bool :=
  d.damagedSlot s || (d.fed.adopts.any fun a => a.1 = imgField img Cx.nodeAddr) ||
    (match d.fed.fetch with | some (a, n) => decide (a ≤ s) && decide (s < a + n) | none => false)

/-- REPLICA from member `m`: contexts that this member asked for, or the replicas of the member whose buddy it is; the
latter are acknowledged with the SEQ now held (R279). -/
def Dev.replicaFrom (d : Dev) (m : Nat) (entries : List (Nat × List Byte)) : Dev :=
  let mine := entries.filter fun e => d.asked e.1 e.2
  let d := mine.foldl (fun d e => d.takeReplica e.1 e.2) d
  if d.buddy m = some d.fedMe then
    let rest := entries.filter fun e => !mine.contains e
    let d := rest.foldl (fun d e => d.applyReplica e.1 e.2) d
    if rest.isEmpty then d
    else d.fedSend (some m) (.replicaAck (rest.map fun e => (e.1, d.le (budAddr e.1 + 0x40) 4)))
  else d

/-- The payload of a REPLICA obeys its format: 1 to 10 entries, the reserved fields of their contexts 0 (R3, R263). -/
def replicaFormat (entries : List (Nat × List Byte)) : Bool :=
  decide (1 ≤ entries.length ∧ entries.length ≤ 10) &&
    entries.all fun e => decide (e.1 < 32768) && decide (e.2.length = 128) && ctxReserved.all fun f => imgField e.2 f = 0

/-- REPLICA (R279). -/
def execReplica (h : BmHdr) (entries : List (Nat × List Byte)) (s : State) : Host.Outcome State Fault Refusal :=
  s.run fun d => d.bmRun h { type := 0x10, bm3 := true }
    (replicaFormat entries)
    (·.replicaFrom (bmFrom h) entries)

/-- REPLICA_ACK from the buddy retires the entries whose sent SEQ it holds (R279). -/
def Dev.ackFrom (d : Dev) (m : Nat) (applied : List (Nat × Nat)) : Dev :=
  if d.buddy d.fedMe ≠ some m then d
  else
    let done (e : ReplEntry) : Bool :=
      match e.sent with
      | some q => applied.any fun a => a.1 = e.slot && !seqNewer q a.2
      | none => false
    d.setFed { d.fed with repl := d.fed.repl.filter fun e => !done e }

/-- REPLICA_ACK (R279). -/
def execReplicaAck (h : BmHdr) (applied : List (Nat × Nat)) (s : State) : Host.Outcome State Fault Refusal :=
  s.run fun d => d.bmRun h { type := 0x11, bm3 := true } (decide (applied.length ≤ 10)) (·.ackFrom (bmFrom h) applied)

/-- Slots of a range whose replica holds a node. -/
def Dev.budSlots (d : Dev) (first count : Nat) : List Nat :=
  d.mem.filterMap fun c =>
    if 0x10400000 ≤ c.1 ∧ c.1 < 0x10800000 ∧ c.1 % 128 = 3 ∧ c.2.toNat.testBit 7 then
      let s := (c.1 - 0x10400000) / 128
      if first ≤ s ∧ s < first + count then some s else none
    else none

/-- Replicas in messages of up to 10; `n` bounds their number. -/
def Dev.answerReplicas (d : Dev) (m : Nat) : Nat → List Nat → Dev
  | _, [] => d
  | 0, _ => d
  | n + 1, l =>
    (d.fedSend (some m) (.replica ((l.take 10).map fun s => (s, d.bytes (budAddr s) 128)))).answerReplicas m n (l.drop 10)

/-- REPLICA_REQ: the buddy answers with the replicas of the range (R279). -/
def Dev.replicasFor (d : Dev) (m first count : Nat) : Dev :=
  let l := d.budSlots first count
  d.answerReplicas m l.length l

/-- REPLICA_REQ (R279). -/
def execReplicaReq (h : BmHdr) (first count : Nat) (s : State) : Host.Outcome State Fault Refusal :=
  s.run fun d => d.bmRun h { type := 0x12, bm3 := true } (decide (1 ≤ count ∧ first + count ≤ 32768))
    (·.replicasFor (bmFrom h) first count)

/-- The damaged slots whose node, by the resident route entry, is `node`. -/
def Dev.damagedOf (d : Dev) (node : Nat) : List Nat :=
  d.ndt.damaged.filter fun s => (if d.rteValid s then d.rteNode s else d.member * 32768 + s) = node

/-- The rebuild of damaged slot `s` starts: its context is requested from the buddy; without one, or without RUN, the
host is asked at once (R252, R278). -/
def Dev.rebuildSlot (d : Dev) (s : Nat) : Dev :=
  let node := if d.rteValid s then d.rteNode s else d.member * 32768 + s
  match d.buddy d.fedMe with
  | some b => if d.fedOn && d.fedState = 8 then d.fedSend (some b) (.replicaReq s 1) else d.notice Code.rebuilding node
  | none => d.notice Code.rebuilding node

/-- BUDDY_REPLICA_TIMEOUT for a node: no replica came within 1 s; a REBUILDING notice goes to Q1, and an adoption that
waits ends with PEER_ABSENT (R252, R280). -/
def buddyReplicaTimeout (node : Nat) (d : Dev) : Dev :=
  match d.fed.adopts.find? fun a => a.1 = node with
  | some (_, c) =>
    (d.setFed { d.fed with adopts := d.fed.adopts.filter fun a => a.1 != node }).finishId c Code.peerAbsent []
  | none => if (d.damagedOf node).isEmpty then d else d.notice Code.rebuilding node

/-- BUDDY_REPLICA_TIMEOUT (R252). -/
def execBuddyReplicaTimeout (node : Nat) (s : State) : Host.Outcome State Fault Refusal :=
  s.run (buddyReplicaTimeout node)

/-! Migration (R280). -/

def Dev.setMigrations (d : Dev) (l : List Migration) : Dev := d.setFed { d.fed with migrations := l }

/-- The migration away from here with an offer number. -/
def Dev.outgoing (d : Dev) (offer : Nat) : Option Migration := d.fed.migrations.find? fun m => m.source && m.offer = offer

/-- A migration replaced, or dropped. -/
def Dev.putMigration (d : Dev) (m : Migration) : Dev :=
  d.setMigrations (d.fed.migrations.map fun x => if x.source = m.source && x.offer = m.offer && x.peer = m.peer then m else x)
def Dev.dropMigration (d : Dev) (m : Migration) : Dev :=
  d.setMigrations (d.fed.migrations.filter fun x => !(x.source = m.source && x.offer = m.offer && x.peer = m.peer))

/-- The command that waits for a migration completes. -/
def Dev.migrationCmd (d : Dev) (m : Migration) (status : Nat) : Dev :=
  match m.cmd with
  | some c => d.finishId c status []
  | none => d

/-- Why a migration of the node in slot `s` to member `x` may not start; OK where it may. -/
def Dev.migrationBar (d : Dev) (s x : Nat) : Nat :=
  let node := d.cx s Cx.nodeAddr
  let late := match alGet node d.fed.refused with
    | some t => decide (d.tmb < t + usTicks 10000000)
    | none => false
  if d.fedQuarantined then Code.quarantined
  else if d.memberState x = 3 || d.memberState x = 4 then Code.quarantined
  else if x = d.fedMe || 1024 ≤ x || d.memberState x = 0 then Code.peerAbsent
  else if !d.memberBm3 x || late || (d.fed.migrations.any fun m => m.source && m.slot = s) then Code.migrateRefused
  else Code.ok

/-- Y takes the lock, holds the node's frames and sends MIGRATE_OFFER (R280, step 1). -/
def Dev.migrate (d : Dev) (s x : Nat) (cmd : Option Nat) : Dev :=
  let o := d.fed.nextOffer
  let m : Migration := {
    offer := o, node := d.cx s Cx.nodeAddr, slot := s, peer := x, source := true, started := d.tmb, cmd := cmd }
  let d := d.setFed { d.fed with
    migrations := d.fed.migrations ++ [m], nextOffer := (o + 1) % 2 ^ 32
    visits := d.fed.visits.filter fun v => v.node != m.node }
  d.fedSend (some x) (.migrateOffer m.node o (d.bytes (ctxAddr s) 128))

/-- MIG_COUNT of R280. -/
def migCount : Nat := 4

/-- MIGRATION_START of a node: its last MIG_COUNT NEW frames came from one member (R280). -/
def migrationStart (node : Nat) (d : Dev) : Dev :=
  match d.findSlot node, d.fed.visits.find? fun v => v.node = node && decide (migCount ≤ v.count) with
  | some s, some v =>
    if d.fedOn && d.fedState = 8 && !d.damagedSlot s && d.migrationBar s v.member = Code.ok then d.migrate s v.member none
    else d
  | _, _ => d

/-- MIGRATION_START (R280). -/
def execMigrationStart (node : Nat) (s : State) : Host.Outcome State Fault Refusal := s.run (migrationStart node)

/-- Why member `y`'s offer of a node is refused, with the cause; none where it can be taken (R280, step 2). -/
def Dev.offerBar (d : Dev) (y node : Nat) (ctx : List Byte) : Option MigrateCause :=
  if !d.memberBm3 y then some .bm2
  else if (d.findSlot node).isSome then some .resident
  else if d.freeSlot = none then some .noSlot
  else if d.fedState ≠ 8 ∨ imgField ctx Cx.valid ≠ 1 ∨ imgField ctx Cx.nodeAddr ≠ node ∨ ¬ ctxImageOk ctx ∨ ¬ d.domUp 22
      ∨ d.ndt.held then some .notNow
  else none

/-- A target's answer to an offer (R280, steps 2 and 3). -/
def Dev.offerFrom (d : Dev) (y node offer : Nat) (ctx : List Byte) : Dev :=
  let known := d.fed.migrations.any fun m => !m.source && m.offer = offer && m.peer = y
  if known then d.fedSend (some y) (.migrateAnswer offer none)
  else
    match d.offerBar y node ctx with
    | some c => d.fedSend (some y) (.migrateAnswer offer (some c))
    | none =>
      let m : Migration := {
        offer := offer, node := node, slot := d.freeSlot.getD 0, peer := y, source := false, started := d.tmb, ctx := ctx }
      (d.setMigrations (d.fed.migrations ++ [m])).fedSend (some y) (.migrateAnswer offer none)

/-- MIGRATE_OFFER (R280). -/
def execMigrateOffer (h : BmHdr) (node offer : Nat) (ctx : List Byte) (s : State) : Host.Outcome State Fault Refusal :=
  s.run fun d => d.bmRun h { type := 0x13, bm3 := true, epoch := true } (decide (node < 2 ^ 25 ∧ ctx.length = 128) && ctxReserved.all fun f => imgField ctx f = 0)
    (·.offerFrom (bmFrom h) node offer ctx)

/-- The owner's use of an answer: MIGRATE_DONE to ALL, or the lock is released (R280, steps 2 and 4). -/
def Dev.answerFrom (d : Dev) (x offer status : Nat) : Dev :=
  match d.outgoing offer with
  | some m =>
    if m.peer ≠ x ∨ m.step ≠ 0 then d
    else if status = Code.ok then
      (d.putMigration { m with step := 1, tries := 1, started := d.tmb }).fedSend none (.migrateDone m.node offer x)
    else
      let d := d.dropMigration m
      (d.setFed { d.fed with refused := alSet m.node d.tmb d.fed.refused }).migrationCmd m Code.migrateRefused
  | none => d

/-- MIGRATE_ANSWER (R280). -/
def execMigrateAnswer (h : BmHdr) (offer status : Nat) (s : State) : Host.Outcome State Fault Refusal :=
  s.run fun d => d.bmRun h { type := 0x14, bm3 := true } (decide (status = Code.ok ∨ status = Code.migrateRefused))
    (·.answerFrom (bmFrom h) offer status)

/-- OFFER_RETRY: an unanswered offer is repeated, at most 3 times, then the lock is released; the command's status is
then free, as the spec gives none (R280). -/
def offerRetry (offer : Nat) (d : Dev) : Dev :=
  match d.outgoing offer with
  | some m =>
    if !d.fedOn || m.step ≠ 0 then d
    else if m.tries < 4 then
      (d.putMigration { m with tries := m.tries + 1 }).fedSend (some m.peer)
        (.migrateOffer m.node offer (d.bytes (ctxAddr m.slot) 128))
    else
      let r := d.freeOf failureCodes
      (r.2.dropMigration m).migrationCmd m r.1
  | none => d

/-- OFFER_RETRY (R280). -/
def execOfferRetry (offer : Nat) (s : State) : Host.Outcome State Fault Refusal := s.run (offerRetry offer)

/-- A migrated context is written with the first-use values of R234, its route entry and keys; BUDDY becomes b(X), stamped
(R240, R280, step 5). -/
def Dev.install (d : Dev) (s : Nat) (img : List Byte) : Dev × Bool :=
  let node := imgField img Cx.nodeAddr
  let old := d
  let d := match d.remoteOf node with
    | some r => (d.dropKeys r fun _ => true).clearRte r
    | none => d
  let d := (d.setBytes (ctxAddr s) (padTo 128 img)).firstUse s false false
  let x := d.nextStamp
  let d := (x.1.setCx s Cx.buddy ((x.1.buddy x.1.fedMe).getD x.1.fedMe)).putStamp s 3 x.2
  let y := ((d.cxTouch s).setRte s node true s d.member).insertKeys s (d.residentKeys s)
  if y.2 = Code.ok then (y.1, true) else (old.refusedUpdate y.1, false)

/-- MIGRATE_DONE: the target serves the node and answers MIGRATE_ACTIVE; every other member rewrites its remote entry
(R280, step 5). -/
def Dev.doneFrom (d : Dev) (y node offer owner : Nat) : Dev :=
  if owner = d.fedMe then
    match d.fed.migrations.find? fun m => !m.source && m.offer = offer && m.peer = y with
    | some m =>
      if m.step = 1 then d.fedSend (some y) (.migrateActive offer)
      else
        let s := if d.slotValid m.slot then (d.freeSlot).getD m.slot else m.slot
        let x := d.install s m.ctx
        if x.2 then
          ((x.1.putMigration { m with step := 1, slot := s }).bump Fld.fedStat5_migratedIn).slpRestored s
            |>.fedSend (some y) (.migrateActive offer)
        else x.1
    | none => d
  else
    match d.remoteOf node with
    | some r => if (d.findSlot node).isNone then d.setRteMember r owner else d
    | none => d

/-- MIGRATE_DONE (R280). -/
def execMigrateDone (h : BmHdr) (node offer owner : Nat) (s : State) : Host.Outcome State Fault Refusal :=
  s.run fun d => d.bmRun h { type := 0x15, bm3 := true } (decide (node < 2 ^ 25 ∧ owner < 1024)) (·.doneFrom (bmFrom h) node offer owner)

/-- DONE_REPEAT (R280, step 4). -/
def doneRepeat (offer : Nat) (d : Dev) : Dev :=
  match d.outgoing offer with
  | some m =>
    if d.fedOn && m.step = 1 then
      (d.putMigration { m with tries := m.tries + 1 }).fedSend none (.migrateDone m.node offer m.peer)
    else d
  | none => d

/-- DONE_REPEAT (R280). -/
def execDoneRepeat (offer : Nat) (s : State) : Host.Outcome State Fault Refusal := s.run (doneRepeat offer)

/-- The old owner removes the context, writes a remote entry naming the new owner and sends its held frames as REDIRECT,
with an empty receive record; their completion status is free, as the spec gives none (R280, step 6). -/
def Dev.handOver (d : Dev) (m : Migration) : Dev :=
  let s := m.slot
  let eui := d.cx s Cx.eui
  let short := if d.cxIs s Cx.shortValid then some (d.cx s Cx.short, d.cx s Cx.panId) else none
  let held := d.tx.frames.filter fun f => f.node = some s && !f.isAck && !f.isCheck &&
    (match f.stage with | .committed _ => false | _ => true)
  let d := ((d.slpForget s).dropNode s).routeSet m.node m.peer (some eui) short
  let send (d : Dev) (f : TxFrame) : Dev :=
    let r := d.freeOf failureCodes
    (r.2.fedSend (some m.peer) (.redirect m.node (List.replicate 32 0#8 ++ f.psdu))).txEnd { f with node := none } r.1 false
  let d := held.foldl send d.1
  ((d.dropMigration m).bump Fld.fedStat5_migratedOut).migrationCmd m Code.ok

/-- MIGRATE_ACTIVE (R280, step 6). -/
def execMigrateActive (h : BmHdr) (offer : Nat) (s : State) : Host.Outcome State Fault Refusal :=
  s.run fun d => d.bmRun h { type := 0x16, bm3 := true } true fun d =>
    match d.outgoing offer with
    | some m => if m.peer = bmFrom h && m.step = 1 then d.handOver m else d
    | none => d

/-- ACTIVE_TIMEOUT: the node stays frozen and the host hears MIGRATE_UNRESOLVED (R280). -/
def activeTimeout (offer : Nat) (d : Dev) : Dev :=
  match d.outgoing offer with
  | some m =>
    if d.fedOn && m.step = 1 then
      ((d.putMigration { m with step := 2, cmd := none }).notice Code.migrateUnresolved m.node).migrationCmd m
        Code.migrateUnresolved
    else d
  | none => d

/-- ACTIVE_TIMEOUT (R280). -/
def execActiveTimeout (offer : Nat) (s : State) : Host.Outcome State Fault Refusal := s.run (activeTimeout offer)

/-- PENDING_DISCARD: a pending context without DONE for 2 s goes; so does the record of one that is served (R280). -/
def pendingDiscard (m offer : Nat) (d : Dev) : Dev :=
  if !d.fedOn then d
  else d.setMigrations (d.fed.migrations.filter fun x => !(!x.source && x.peer = m && x.offer = offer))

/-- PENDING_DISCARD (R280). -/
def execPendingDiscard (m offer : Nat) (s : State) : Host.Outcome State Fault Refusal := s.run (pendingDiscard m offer)

/-! DATA (R20, R264). -/

/-- DATA frames: no TAG, LENGTH to 2,304. -/
def dataKind : BmKind := { type := 0x20, tagged := false, most := 2304 }

/-- DATA from a SRC that is absent from the member table is dropped and counted (R264). -/
def Dev.dataRun (d : Dev) (m : Nat) (f : Dev → Dev) : Dev :=
  if d.memberState m = 0 then d.bump Fld.fedStat2_fwdDrop else f d

/-- A frame of a node heard elsewhere: to its context here, else once more to its new owner, or dropped (R20, R280). -/
def Dev.visitorIn (d : Dev) (m node : Nat) (octets : List Byte) (onward : Bool) : Dev :=
  match d.findSlot node with
  | some s =>
    if d.tempo.items.any fun i => i.slot = s then
      d.setFed { d.fed with inbox := d.fed.inbox ++ [{ node := node, member := m, octets := octets }] }
    else d.visitorAt s m octets
  | none =>
    match d.findNode node with
    | some r =>
      if onward && d.rteMember r ≠ d.fedMe then d.fedForward (d.rteMember r) (.redirect node octets)
      else d.bump Fld.fedStat2_fwdDrop
    | none => d.bump Fld.fedStat2_fwdDrop

/-- VISITOR (R20). -/
def execVisitor (h : BmHdr) (node : Nat) (octets : List Byte) (s : State) : Host.Outcome State Fault Refusal :=
  s.run fun d => d.bmRun h dataKind (decide (node < 2 ^ 25 ∧ 32 ≤ octets.length))
    fun d => d.dataRun (bmFrom h) (·.visitorIn (bmFrom h) node octets true)

/-- REDIRECT: handled as VISITOR, forwarded no further (R264). -/
def execRedirect (h : BmHdr) (node : Nat) (octets : List Byte) (s : State) : Host.Outcome State Fault Refusal :=
  s.run fun d => d.bmRun h dataKind (decide (node < 2 ^ 25 ∧ 32 ≤ octets.length))
    fun d => d.dataRun (bmFrom h) (·.visitorIn (bmFrom h) node octets false)

/-- A TRANSMIT is scheduled at START in the second class, or answered with TX_LATE_LOCK (R264). -/
def Dev.transmitFrom (d : Dev) (m node start : Nat) (q : Int) (profile phy : Nat) (sub : Bool) (chan mode : Nat)
    (psdu : List Byte) : Dev :=
  if start ≤ d.tmb ∨ d.tmb + usTicks 10000000 < start then
    (d.bump Fld.fedStat3_dataLate).fedForward m (.result node start Code.txLateLock)
  else if !d.tempoUp then d.fedForward m (.result node start Code.domainOff)
  else
    let short := phy = 0 || fcsOk true psdu
    d.addFrame {
      id := 0, origin := .transmit m, cls := 2, sub := sub, chan := chan, phy := phy, mode := mode, fcs16 := short
      whiten := true, mac := psdu.take (psdu.length - fcsLen short), raw := some psdu, wake := node, start := start, profile := profile
      power := q, stage := .scheduled }

/-- TRANSMIT (R264). -/
def execTransmit (h : BmHdr) (node start : Nat) (q : Int) (profile phy : Nat) (sub : Bool) (chan mode : Nat)
    (psdu : List Byte) (s : State) : Host.Outcome State Fault Refusal :=
  s.run fun d => d.bmRun h dataKind
    (decide (node < 2 ^ 25 ∧ start < 2 ^ 64 ∧ -256 ≤ q ∧ q < 256 ∧ profile < 4 ∧ phy < 3 ∧ mode < 8))
    fun d => d.dataRun (bmFrom h) (·.transmitFrom (bmFrom h) node start q profile phy sub chan mode psdu)

/-- RESULT completes the frame that waits for it (R264). -/
def Dev.resultFrom (d : Dev) (node start status : Nat) : Dev :=
  let own (f : TxFrame) : Bool :=
    f.stage = .remote && f.start = start && (match f.node with | some s => d.cx s Cx.nodeAddr = node | none => false)
  match d.tx.frames.find? own with
  | some f =>
    let f := { f with firstChip := if status = Code.ok then start else f.firstChip }
    if f.sleepy && status != Code.ok then d.sleepyFail f status else d.txEnd f status false
  | none => d

/-- RESULT (R264). -/
def execResult (h : BmHdr) (node start status : Nat) (s : State) : Host.Outcome State Fault Refusal :=
  s.run fun d => d.bmRun h dataKind (decide (node < 2 ^ 25 ∧ start < 2 ^ 64 ∧ status < 2 ^ 16))
    fun d => d.dataRun (bmFrom h) (·.resultFrom node start status)

/-! Boot from a peer (R283). -/

/-- BOOT_REQ: with BOOT_SERVE and an image, up to 2,048 octets of it from the offset on go back to the requester, which has
no member index: to its address, on the port it came on (R263, R283). -/
def bootReq (h : BmHdr) (offset : Nat) (image : List Byte) (d : Dev) : Dev :=
  if !d.bmForMe h then d
  else if !hdrOk h false 1440 then d.bump Fld.fedStat0_reservedDrop
  else if d.is Fld.fedCfg_bootServe && !image.isEmpty then
    d.fedSendOn ((d.upPorts.filter h.ports.testBit).take 1) h.mac h.version (some (bmFrom h))
      (.bootData offset (image.take 2048))
  else d

/-- BOOT_REQ (R283). -/
def execBootReq (h : BmHdr) (eui offset : Nat) (image : List Byte) (s : State) : Host.Outcome State Fault Refusal :=
  s.run (bootReq { h with formatOk := h.formatOk && decide (eui < 2 ^ 64) } offset image)

/-! Host commands on the federation (R273, R275, R276, R280, R305). Each answers the device and the status. -/

/-- FED_RECORD_PUT: a record into the proposed set; a set that is full has no status of its own: free (R273). -/
def Dev.recordPut (d : Dev) (type id : Nat) (data : List Byte) : Dev × Nat :=
  if !recordTypeOk type || (type = 1 && decide (1024 ≤ id)) || (type = 2 && id != 0) then (d, Code.reservedField)
  else if 16384 < data.length then (d, Code.badLength)
  else
    let l := putRecord { type := type, id := id, data := data } d.fed.proposed
    if !setFits l then let r := d.freeOf failureCodes; (r.2, r.1)
    else if (match d.fed.proposal with | some p => p.preparedOk | none => false) then let r := d.freeOf failureCodes; (r.2, r.1)
    else (d.setFed { d.fed with proposed := l }, Code.ok)

/-- FED_RECORD_DEL. -/
def Dev.recordDel (d : Dev) (type id : Nat) : Dev × Nat :=
  if !recordTypeOk type then (d, Code.reservedField)
  else if (match d.fed.proposal with | some p => p.preparedOk | none => false) then let r := d.freeOf failureCodes; (r.2, r.1)
  else (d.setFed { d.fed with proposed := delRecord type id d.fed.proposed }, Code.ok)

/-- FED_PROPOSE as command `c`: at the leader, or sent to it; it stays open until the epoch commits or an ABORT comes
(R276, R305). -/
def Dev.hostPropose (d : Dev) (c : Nat) : Dev :=
  if d.fedQuarantined then d.finishId c Code.quarantined []
  else
    match d.fed.leader with
    | none => d.finishId c Code.notLeader []
    | some l =>
      if d.fed.proposeCmd.isSome ∨ (l = d.fedMe ∧ d.fed.proposal.isSome) then d.finishId c Code.epochStale []
      else
        let e := d.epoch + 1
        let w := d.wantedRoster
        let d := d.setFed { d.fed with proposeCmd := some c }
        if l = d.fedMe then
          if d.fedState < 6 then (d.setFed { d.fed with proposeCmd := none }).finishId c Code.epochStale []
          else d.accept (digestOf e w d.fed.proposed) w l
        else d.fedSend (some l) (.propose d.epoch (digestOf e w d.fed.proposed) d.fedMe)

/-- FED_MIGRATE as command `c`: `op` 0 start, 1 resolve by keeping, 2 resolve by releasing, 3 adopt from the buddy
replica (R280, R305). Resolving a migration that is not unresolved has no status of its own: free. -/
def Dev.hostMigrate (d : Dev) (c node op target : Nat) : Dev :=
  if d.ndt.held then d.finishId c Code.tableHeld []
  else
    match op with
    | 0 =>
      match d.findSlot node with
      | none => d.finishId c Code.nodeUnknown []
      | some s =>
        if d.damagedSlot s then d.finishId c Code.rebuilding []
        else
          let b := d.migrationBar s target
          if b = Code.ok then d.migrate s target (some c) else d.finishId c b []
    | 3 =>
      if (d.findSlot node).isSome then d.finishId c Code.nodeExists []
      else
        match (d.budSlots 0 32768).find? fun s => imgField (d.bytes (budAddr s) 128) Cx.nodeAddr = node with
        | some s =>
          (d.setFed { d.fed with adopts := d.fed.adopts ++ [(node, c)] }).takeReplica s (d.bytes (budAddr s) 128)
        | none =>
          match (d.remoteOf node).bind fun r => d.buddy (d.rteMember r) with
          | none => d.finishId c Code.nodeUnknown []
          | some b =>
            if b = d.fedMe then d.finishId c Code.nodeUnknown []
            else (d.setFed { d.fed with adopts := d.fed.adopts ++ [(node, c)] }).fedSend (some b)
              (.replicaReq (node % 32768) 1)
    | _ =>
      match d.fed.migrations.find? fun m => m.source && m.node = node && m.step = 2 with
      | some m =>
        if op = 1 then (d.dropMigration m).finishId c Code.ok []
        else (d.handOver m).finishId c Code.ok []
      | none => let r := d.freeOf failureCodes; r.2.finishId c r.1 []

end Sys2Proof.Machine
end

