-- ==== Sys2Proof/Machine/Domains.lean ====
section
/-! DEFINITION. What a power domain does to its block as it comes up, drains and goes off: register and memory
contents, pads, radio chains, the Tempo drain and the watch sequencer (R33, R56, R58, R63, R68, R78, R83, R101,
R105, R163, R203, R251, R449). -/

namespace Sys2Proof.Machine

open Sys2Proof

/-! Pads (R33). -/

/-- Field of RFS_CHAIN_STATE of a radio domain: RXA0–RXA3, RXS0–RXS1, TX0–TX3 (R100). -/
def chainOfDomain (n : Nat) : Option Nat :=
  if 11 ≤ n ∧ n ≤ 16 then some (n - 11) else if 18 ≤ n ∧ n ≤ 21 then some (n - 12) else none

/-- LO of a radio domain (Table 05.1). -/
def loOfDomain (n : Nat) : Option Nat :=
  if n = 11 then some 0 else if n = 15 then some 1 else if 18 ≤ n ∧ n ≤ 21 then some (n - 16) else none

/-- Number of the lines `l` below `n` for which `p` holds, as bits. -/
def lineMask (n : Nat) (p : Nat → Bool) : Nat := (List.range n).foldl (fun m l => if p l then setBitN m l else m) 0

/-- Level of FEMC line `l` (R165). -/
def Dev.femcLevel (d : Dev) (l : Nat) : Bool :=
  let owner (n : Nat) : Bool :=
    match (d.txChain n).latch with
    | some x => x.1.testBit l
    | none => (d.rd Fld.txpFemcOwn_own n).testBit l
  match (List.range 4).find? owner with
  | none => d.pulsed (32 + l) ((d.rd Fld.txpFemcStatic_static).testBit l)
  | some n =>
    match (d.txChain n).latch with
    | some x => x.2.2.2.testBit l
    | none => (d.rd Fld.txpFemcIdle_idle n).testBit l && !(d.rd Fld.txpFemcOwn_txen n).testBit l

/-- Banks of Table 02.3 that a domain controls: 0 GPIO_A, 1 GPIO_B, 2 CSPM, 3 CSPS, 4 COEX, 5 FEMC, 6 SYSIO. -/
def banksOf (n : Nat) : List Nat := if n = 1 then [0, 1, 4, 5, 6] else if n = 28 then [2, 3] else []

/-- Domain that controls a bank. -/
def bankDomain (b : Nat) : Nat := if b = 2 ∨ b = 3 then 28 else 1

/-- Output value, output enable and pull of a bank's pads as its block sets them, in the order of Table 02.3 (R30, R33).
-/
def Dev.blockPads (d : Dev) (b : Nat) : PadState :=
  match b with
  | 0 | 1 =>
    let lo := 16 * b
    { out := lineMask 16 fun l => d.pulsed (lo + l) ((d.rd Fld.evrGpioOut_out).testBit (lo + l))
      oe := bitsOf (d.rd Fld.evrGpioOe_oe) (lo + 15) lo
      pull := 0xFFFF ^^^ bitsOf (d.rd Fld.evrGpioPulldis_pulldis) (lo + 15) lo }
  | 2 => { out := 0x006, oe := 0x007, pull := 0xFF8 }
  | 3 => { out := 0, oe := 0x40, pull := 0x3F }
  | 4 =>
    let v := b2n (d.is Fld.coexStatus_req) + 2 * b2n (d.is Fld.coexStatus_pri) + 4 * b2n (d.is Fld.coexStatus_gnt)
      + 8 * b2n (d.is Fld.coexStatus_act)
    if d.coex.role = 1 then { out := v &&& 0xB, oe := 0xB, pull := 0x4 }
    else if d.coex.role = 2 then { out := v &&& 0x4, oe := 0x4, pull := 0xB }
    else { out := 0, oe := 0, pull := 0xF }
  | 5 => { out := lineMask 16 d.femcLevel, oe := 0xFFFF, pull := 0 }
  | _ => { out := 0, oe := 0, pull := 0x17 }

/-- Pads of a bank that is not held: high impedance until VDD_AON is good, FEMC too (R31, R42). -/
def Dev.bankState (d : Dev) (b : Nat) : PadState :=
  if d.pins.aonGood then d.blockPads b else { out := 0, oe := 0, pull := 0 }

/-- What the pads of a bank show: the latched states while it is held (R33). -/
def Dev.padState (d : Dev) (b : Nat) : PadState := (d.pins.held.getD b none).getD (d.bankState b)

/-- State of a ball that no bank holds (Table 02.2). -/
inductive BallState where
  /-- LNA, output stage or termination off. -/
  | off
  /-- LNA off, input DC-grounded through the on-chip match. -/
  | grounded
  | electricalIdle
  | highImpedance
  /-- Driven or received by its block. -/
  | active
  deriving DecidableEq, Repr

/-- The balls of domain `n` are in their "When off" state: the domain is off or in retention and has been on since the
last reset, which leaves its own reset state until then (R30, R32, R34). -/
def Dev.ballsOff (d : Dev) (n : Nat) : Bool := !d.awake n && d.pins.used.contains n

/-- RFA_IN0–RFA_IN3 (0–3) and RFS_IN0, RFS_IN1 (4, 5). -/
def Dev.rfInBall (d : Dev) (i : Nat) : BallState :=
  if d.domUp (11 + i) && (d.receiving i || d.chainState i = 5) then .active
  else if i < 4 && d.ballsOff (11 + i) then .grounded else .off

/-- TX24_0, TX24_1, TXS_0, TXS_1 of chain `n`. -/
def Dev.rfOutBall (d : Dev) (n : Nat) : BallState :=
  if d.domUp (18 + n) && d.txActive n then .active else .highImpedance

/-- PE_TXP and PE_TXN: undriven during a power-down (R34). -/
def Dev.peTxBall (d : Dev) : BallState :=
  if d.domUp 26 && d.pins.pcieLinkUp then .active
  else
    match d.domSt 26 with
    | .draining => .highImpedance
    | .isolating => .highImpedance
    | .switchingOff => .highImpedance
    | _ => if d.ballsOff 26 then .highImpedance else .electricalIdle

/-- PE_RXP, PE_RXN and PE_REFCLK. -/
def Dev.peRxBall (d : Dev) : BallState := if d.domUp 26 && d.pins.pcieLinkUp then .active else .off

/-- ETHp_TXP and ETHp_TXN. -/
def Dev.ethTxBall (d : Dev) (p : Nat) : BallState :=
  if d.domUp 27 && d.pins.ethUp.getD p false then .active else .highImpedance

/-- ETHp_RXP and ETHp_RXN. -/
def Dev.ethRxBall (d : Dev) (p : Nat) : BallState :=
  if d.domUp 27 && d.pins.ethUp.getD p false then .active else .off

/-- INT_N is driven low. -/
def Dev.intNLow (d : Dev) : Bool := d.pins.intN || d.pins.intPulse

/-- Latches the banks of a domain (R33). A bank that is still held keeps its states. -/
def Dev.latchBanks (d : Dev) (n : Nat) : Dev :=
  let bs := (banksOf n).filter fun b => (d.pins.held.getD b none).isNone
  let d := d.setDom n { d.dom n with latched := bs }
  bs.foldl (fun d b =>
    { d with pins := { d.pins with held := putAt b (some (d.bankState b)) d.pins.held } }) d

/-- Releases pad banks (R33, R69). -/
def Dev.releaseBanks (d : Dev) (bs : List Nat) : Dev :=
  { d with pins := { d.pins with held := bs.foldl (fun h b => putAt b none h) d.pins.held } }

/-! The Tempo drain (R449). -/

/-- A frame that TP3 holds or schedules and that a drain of D10 completes: every frame but acknowledgements,
committed ones and those that wait for their acknowledgement. -/
def TxFrame.drains (f : TxFrame) : Bool :=
  !f.isAck &&
    match f.stage with
    | .committed _ => false
    | .ackWait _ => false
    | _ => true

/-- While D10 drains, TP3 completes every frame that it holds or schedules with DOMAIN_OFF (R449). -/
def Dev.tempoDrain (d : Dev) : Dev :=
  if d.domSt 10 = .draining && d.tx.frames.any TxFrame.drains then
    let d := (d.tx.frames.filter TxFrame.drains).foldl (fun d f =>
      if f.isCheck then d.dropFrame f.id else d.txEnd f Code.domainOff false) d
    ({ d with tempo := { d.tempo with sends := [] } }).settle
  else d

/-- What follows at once from a change of votes or domain states: the Tempo drain, the start or stop of the sleepy-node
service, and the coexistence balls, which an aborted drain of D1 gives back to Table 05.12 (R112, R222, R449). -/
def Dev.catchUp (d : Dev) : Dev := d.tempoDrain.serviceUpdate.coexUpdate

/-- PWR evaluates every tally, and the blocks follow. -/
def Dev.settleAll (d : Dev) : Dev := d.settle.catchUp

/-! Watch mode and D17 (R78, R83). -/

/-- D17 reaches ON: the sequencer withdraws its vote, abandons a dwell without a hit and shows STATE 4, or STATE 0 where EN
has gone to 0 meanwhile; a triggered one stays in STATE 5 (R78, R83). -/
def Dev.watchPause (d : Dev) : Dev :=
  let st := d.rd Fld.pwrWatchStatus_state
  let d := { d with pwr := { d.pwr with watchVote := none, hits := if st = 2 ∨ st = 3 then 0 else d.pwr.hits } }
  if st = 5 then d
  else if d.is Fld.pwrWatchCtrl_en then d.wr Fld.pwrWatchStatus_state 4
  else if st = 2 ∨ st = 3 then d.wr Fld.pwrWatchStatus_state 0
  else d

/-- D17 reaches OFF: a paused sequencer sleeps until its next tick (R78). -/
def Dev.watchResume (d : Dev) : Dev :=
  if d.is Fld.pwrWatchCtrl_en && d.rd Fld.pwrWatchStatus_state = 4 then d.wr Fld.pwrWatchStatus_state 1 else d

/-! A domain reaches ON. -/

/-- A core after core reset (R44): C0–C3 start secure, C4–C7 in the normal state. -/
def coreReset (n : Nat) : Core := { status := if n < 4 then 2 else 6 }

/-- C0 starts the boot ROM in the secure state (R48). -/
def Dev.romStart (d : Dev) : Dev := d.setCore 0 { coreReset 0 with run := .run, rom := true }

/-- Voltage of an operating point in mV (Table 04.10). -/
def opMv (op : Nat) : Nat := [600, 650, 720, 800].getD op 0

/-- The first core domain to come up brings the rail up at the current target (R70). -/
def Dev.clusterUp (d : Dev) : Dev :=
  if d.cluster.mv = 0 then
    let op := d.rd Fld.clkOpCtrl_target
    ({ d with cluster := { mv := opMv op, freq := op } }).wr Fld.clkOpStatus_current op
  else d

/-- A core domain is ON: its core is held, and CORE_HOLD shows it. C0 starts the ROM in a boot, and in a wake start,
which also repeats the boot from step 3 (R48, R63, R75). -/
def Dev.coreDomainOn (d : Dev) (n : Nat) : Dev :=
  let d := d.clusterUp
  if n = 0 then
    if d.pwr.wakeStart then
      let d := { d.romStart with
        pwr := { d.pwr with wakeStart := false }
        boot := { cold := false, wake := true, phase := .supplies, calStage := d.boot.calStage }
        ndt := { d.ndt with warmValid := d.ndt.warm, held := d.ndt.warm } }
      d.setReg Reg.sysBootStatus 1
    else
      match d.boot.phase with
      | .supplies => d.romStart
      | .halted => d.setCore 0 { coreReset 0 with run := .stopped }
      | _ => d.setCore 0 (coreReset 0)
  else
    (d.setCore n (coreReset n)).wr Fld.sysResetCtrl_coreHold (setBitN (d.rd Fld.sysResetCtrl_coreHold) (n - 1))

/-- Lanes that the sparing map holds as retired show in RXW_LANE_RETIRED when D17 comes up (R425). -/
def Dev.retiredLanes (d : Dev) : Dev :=
  d.err.sparing.foldl (fun d x =>
    if x.res / 2 ^ 28 = 1 then
      let i := x.res % 2 ^ 22
      d.wr Fld.rxwLaneRetired_retired (setBitN (d.rd Fld.rxwLaneRetired_retired (i / 32)) (i % 32)) (i / 32)
    else d) d

/-- The band LO of a receive domain that is ON: it starts to lock, or its lock lets the chain receive (R101). -/
def Dev.receiveDomainOn (d : Dev) (n : Nat) : Dev :=
  let d := d.setChainState (n - 11) 2
  let lo := if n < 15 then 0 else 1
  if n = 11 ∨ n = 15 then d.bandStart lo
  else if (d.lo lo).lock.isSome then d.bandReceive lo else d

/-- TX chain `n` is IDLE; without its four compensation entries stage 6 runs for it alone (R101, R105). -/
def Dev.transmitDomainOn (d : Dev) (n : Nat) : Dev :=
  let d := d.setChainState (6 + n) 2
  if (List.range 4).all fun g => d.is Fld.rfsPwrCal_valid (4 * n + g) then d
  else if d.rfs.stage6.contains n then d
  else { d with rfs := { d.rfs with stage6 := d.rfs.stage6 ++ [n] } }

/-- D1 is ON: the OTP controller loads the life-cycle word and the region mirror, and the command protocol version is
the default (R175, R294, R388). -/
def Dev.sysDomainOn (d : Dev) : Dev := d.lcStatusLoad.mirrorLoad.versionDefault

/-- D10 is ON: the pair status follows the retirement record, and the EUI-64 is loaded (R191, R203). -/
def Dev.tempoDomainOn (d : Dev) : Dev :=
  let d := d.pairStatus
  (d.setReg Reg.lnkEuiLo (BitVec.ofNat 32 (d.fuse (Fuse.eui 0)))).setReg Reg.lnkEuiHi
    (BitVec.ofNat 32 (d.fuse (Fuse.eui 1)))

/-- D17 is ON: lanes, the band's registers, the watch sequencer, and the chains whose LO is locked (R78, R101, R425). -/
def Dev.channelizerOn (d : Dev) : Dev :=
  let d := d.retiredLanes.watchPause
  let d := if d.domUp 1 then d.rxwBand else d
  let d := (List.range 6).foldl (fun d m => if d.chainState m = 5 then d.setChainState m 2 else d) d
  [0, 1].foldl (fun d lo => if (d.lo lo).lock.isSome then d.bandReceive lo else d) d

/-- Once firmware runs and all of D11–D21 are ON for the first time since a reset, the start-up calibration starts
(R48, R54). -/
def Dev.startupCal (d : Dev) : Dev :=
  if d.boot.phase = .entered && d.boot.calStage = 0
      && (List.range 11).all (fun k => decide (d.domSt (k + 11) = DomainState.on)) then
    (({ d with boot := { d.boot with calStage := 1 } } : Dev).settle).stageBegin false 1 (!d.boot.cold)
  else d

/-- The ROM asks for the next octets of an image on both ports, with VERSION 2, SRC 0 and no tag (R283). -/
def Dev.bootRequest (d : Dev) : Dev :=
  if d.boot.phase = .waitPeer && d.domUp 27 then
    let b := d.free 32
    let q := b.2.free 32
    let p : BmPayload := .bootReq (beNat d.euiBytes) d.boot.peerImage.length
    [0, 1].foldl (fun d k => d.emit (.bamium {
      port := k, dstMac := d.bmMac none, srcMac := Config.portMac k % 2 ^ 48, etherType := d.rd Fld.fedNet_ethertype
      vlan := none, version := 2, type := payloadType p, src := 0, dst := none, bootId := b.1, seq := q.1
      epoch := d.epoch, txTime := none, payload := p, body := payloadOctets p, tag := none })) q.2
  else d

/-- Domain `n` has come up from OFF, or from RET: the effect on its block. -/
def Dev.domainOn (d : Dev) (n : Nat) (fromRet : Bool) : Dev :=
  let d :=
    if n = 1 then d.sysDomainOn
    else if 2 ≤ n ∧ n ≤ 9 then d.coreDomainOn (n - 2)
    else if n = 10 then d.tempoDomainOn
    else if 11 ≤ n ∧ n ≤ 16 then d.receiveDomainOn n
    else if n = 17 then d.channelizerOn
    else if 18 ≤ n ∧ n ≤ 21 then d.transmitDomainOn (n - 18)
    else if n = 22 && !fromRet then { d with ndt := { d.ndt with warm := true } }
    else d
  let d := if 11 ≤ n ∧ n ≤ 21 then d.calAdvance.startupCal else d
  let d := if n = 27 then d.bootRequest else d
  let d := if n = 24 then d.cphRefillAll else d
  let d := if 11 ≤ n ∧ !d.pins.used.contains n then { d with pins := { d.pins with used := n :: d.pins.used } } else d
  d.bootProgress

/-! A domain isolates and goes off. -/

/-- A domain enters ISOLATING: its banks are latched; lanes abandon their frames as D17 goes (R33, R127). -/
def Dev.domainIsolate (d : Dev) (n : Nat) : Dev :=
  let d := d.latchBanks n
  if n = 17 then
    let d := (d.abandonBand false true).abandonBand true true
    (List.range 6).foldl (fun d m => if d.receiving m then d.setChainState m 2 else d) d
  else d

/-- A radio domain switches off: its lanes lose the antenna, its LO unlocks, its chain is OFF (R101, R131). -/
def Dev.radioOff (d : Dev) (n : Nat) : Dev :=
  let d := if 11 ≤ n ∧ n ≤ 16 then (if d.receiving (n - 11) then d.antennaLost (n - 11) else d) else d
  let d := match loOfDomain n with
    | some lo => (d.setLo lo { d.lo lo with lock := none, cal := none, aborted := [] }).calStatus
    | none => d
  match chainOfDomain n with
  | some i => d.setChainState i 0
  | none => d

/-- Registers of domain `n` return to their reset values; values kept in D0 stay (R36, R44, R53). -/
def Dev.clearDomain (d : Dev) (n : Nat) : Dev :=
  let gone (a : Nat) : Bool :=
    a != Reg.sysBootStatus && !keptRegister a &&
      match regAt a with
      | some (r, _) => r.dom = n
      | none => false
  let lost (a : Nat) : Bool := memAreas.any fun m => m.dom = n && decide (m.base ≤ a) && decide (a < m.base + m.size)
  let d := (d.clearRegs gone).clearMem lost
  { d with latch := d.latch.filter fun x => !gone x.1 }

/-- State of a block that no register holds and that goes with its domain (R56, R63). -/
def Dev.clearBlock (d : Dev) (n : Nat) : Dev :=
  if n = 1 then
    { d with evr := {}, hci := {}, coex := {}, prog := none, region := { loaded := d.region.loaded } }
  else if 2 ≤ n ∧ n ≤ 9 then
    let d := d.setCore (n - 2) (coreReset (n - 2))
    if (List.range 8).all fun k => decide (d.domSt (k + 2) = DomainState.off) then
      ({ d with cluster := { mv := 0, freq := d.cluster.freq } }.wr Fld.clkOpStatus_step 0).wr Fld.clkOpStatus_busy 0
    else d
  else if n = 10 then { d with tempo := {}, tx := {}, fifos := List.replicate 5 [] }
  else if n = 17 then { d with rxw := {} }
  else if 18 ≤ n ∧ n ≤ 21 then
    { d with
      activeTables := d.activeTables.filter fun x => x.1 / 3 != n - 18
      rfs := { d.rfs with stage6 := d.rfs.stage6.filter (· != n - 18) } }
  else if n = 22 then { d with ndt := {}, fed := { d.fed with current := [], proposed := [] } }
  else if n = 23 then { d with staging := [] }
  else if n = 24 then
    { d with cph := { d.cph with queue := [], engines := d.cph.engines.map fun e => { retired := e.retired }, held := [] } }
  else if n = 25 then
    let d := d.zeroAllSlots
    { d with keys := { root := d.keys.root, rootBlob := d.keys.rootBlob, nonce := d.keys.nonce } }
  else if n = 26 then { d with msix := { pba := d.msix.pba }, pins := { d.pins with pcieLinkUp := false } }
  else if n = 27 then
    { d with fed := { current := d.fed.current, proposed := d.fed.proposed }, pins := { d.pins with ethUp := [false, false] } }
  else if n = 28 then { d with csp := {} }
  else d

/-- Clients whose domain is `n`: their votes go with it (R58). -/
def clientsOf (n : Nat) : List Nat :=
  if n = 10 then [9, 10, 11, 12, 13] else if n = 1 then [15, 18] else if n = 27 then [16]
  else if n = 24 then [17] else []

/-- Domain `n` has reached OFF: its contents are lost (R56, R58, R63, R251). -/
def Dev.domainOff (d : Dev) (n : Nat) : Dev :=
  let d := (d.clearBlock n).clearDomain n
  let d := (clientsOf n).foldl (fun d v => d.setVotes v 0) d
  if n = 17 then d.watchResume else d

end Sys2Proof.Machine
end

