-- ==== Sys2Proof/Machine/Power.lean ====
section
/-! DEFINITION. The always-on controller: votes, domain sequencing, rails, operating points, wake sources and the
watch sequencer (R56–R84, R159, R427). -/

namespace Sys2Proof.Machine

open Sys2Proof

/-! Votes (R58–R61). -/

/-- The client through which an initiator votes (R58). -/
def voteClient : Initiator → Option Nat
  | .core n => if n < 8 then some n else none
  | .host => some 8
  | .debug => some 19
  | _ => none

/-- Stored votes of client Vn. -/
def Dev.votesOf (d : Dev) (v : Nat) : Nat := (d.reg (Reg.pwrVoteV + 4 * v)).toNat

/-- PWR_VOTE_SET: the writer's votes for the bits that are 1 (R59). -/
def pwrVoteSet (who : Initiator) (w : Word) (d : Dev) : Dev :=
  match voteClient who with
  | none => d.refuseWrite who Reg.pwrVoteSet
  | some v => ((d.catchUp.rsvd who Reg.pwrVoteSet w).setVotes v (d.votesOf v ||| w.toNat)).settleAll

def execPwrVoteSet (who : Initiator) (w : Word) (s : State) : Host.Outcome State Fault Refusal :=
  s.run (pwrVoteSet who w)

/-- PWR_VOTE_CLR: the writer's votes go for the bits that are 1 (R60). -/
def pwrVoteClr (who : Initiator) (w : Word) (d : Dev) : Dev :=
  match voteClient who with
  | none => d.refuseWrite who Reg.pwrVoteClr
  | some v =>
    ((d.catchUp.rsvd who Reg.pwrVoteClr w).setVotes v (d.votesOf v &&& (0xFFFFFFFF ^^^ w.toNat))).settleAll

def execPwrVoteClr (who : Initiator) (w : Word) (s : State) : Host.Outcome State Fault Refusal :=
  s.run (pwrVoteClr who w)

/-- PWR_VOTE_Vn: a secure core replaces client Vn's votes, those of a hardware client too: a vote that its block asks for
stays withdrawn until the block withdraws and casts it anew (R61). Clearing V14's chain or fallback vote ends what held it;
V20–V31 hold no votes. -/
def pwrVoteVnWrite (who : Initiator) (n : Nat) (w : Word) (d : Dev) : Dev :=
  let a := Reg.pwrVoteV + 4 * n
  if 32 ≤ n then d
  else if !d.secure who then d.refuseWrite who a
  else if 20 ≤ n then d.rsvd who a w
  else
    let d := d.catchUp.rsvd who a w
    let asked := if 9 ≤ n then d.derivedVotes n else 0
    let d := d.setVotes n (if n = 14 then w.toNat else w.toNat &&& (0xFFFFFFFF ^^^ asked))
    let off := asked &&& (0xFFFFFFFF ^^^ w.toNat)
    let d : Dev := { d with pwr := { d.pwr with
      muted := if off = 0 then alDel n d.pwr.muted else alSet n off d.pwr.muted } }
    let p := d.pwr
    let d := if n = 14 then
        { d with pwr := { p with
            watchVote := match p.watchVote with | some c => if w.toNat.testBit c then some c else none | none => none
            fallback := p.fallback && w.toNat.testBit 29 } }
      else d
    d.settleAll

def execPwrVoteVnWrite (who : Initiator) (n : Nat) (w : Word) (s : State) : Host.Outcome State Fault Refusal :=
  s.run (pwrVoteVnWrite who n w)

/-! Domain sequencing (R57, R62–R68). -/

/-- Domain `n` comes up and its staggered switch-on has not started. -/
def Dev.waitsInrush (d : Dev) (n : Nat) : Bool :=
  staggered n && d.domSt n = .poweringUp && !(d.dom n).started

/-- DOMAIN_SWITCH_ON_START: the lowest waiting domain starts, 10 µs or more after the last one (R57). -/
def domainSwitchOnStart (n : Nat) (d : Dev) : Dev :=
  let clear := match d.pwr.inrush with
    | some t => decide (t + usTicks 10 ≤ d.tmb)
    | none => true
  if clear && d.waitsInrush n && (List.range n).all fun k => !d.waitsInrush k then
    let d := d.setDom n { d.dom n with started := true }
    { d with pwr := { d.pwr with inrush := some d.tmb } }
  else d

def execDomainSwitchOnStart (n : Nat) (s : State) : Host.Outcome State Fault Refusal :=
  s.run (domainSwitchOnStart n)

/-- DOMAIN_POWER_UP_DONE: ON, or DRAINING where DOWN is held (Table 04.4). -/
def domainPowerUpDone (n : Nat) (d : Dev) : Dev :=
  let m := d.dom n
  if n = 0 ∨ 30 ≤ n ∨ m.st ≠ .poweringUp ∨ !m.started then d
  else
    let d := (d.setDom n { m with st := .on, pend := .none }).domainOn n m.fromRet
    let d := if m.pend = .down then (d.setDom n { d.dom n with st := .draining }).drainStart n else d
    d.settleAll

def execDomainPowerUpDone (n : Nat) (s : State) : Host.Outcome State Fault Refusal := s.run (domainPowerUpDone n)

/-- The Bamium agent is idle: no burst of time exchanges, proposal, fetch of records or contexts, replication, migration or
frame is under way; a message leaves in the step that makes it (Table 04.1). -/
def Dev.agentIdle (d : Dev) : Bool :=
  d.fed.burst.isNone && d.fed.proposal.isNone && d.fed.wanted.isEmpty && d.fed.parts.isEmpty && d.fed.repl.isEmpty &&
    (d.fed.migrations.all fun m => !m.source || m.step = 2) && d.fed.inbox.isEmpty && d.fed.adopts.isEmpty &&
    d.fed.fetch.isNone

/-- The drain condition of Table 04.1. -/
def Dev.drained (d : Dev) (n : Nat) : Bool :=
  if n = 1 then (List.range 27).all fun k => !d.awake (k + 2)
  else if 2 ≤ n ∧ n ≤ 9 then (d.core (n - 2)).run = .wait && (d.core (n - 2)).stalled.isNone
  else if n = 10 then d.fifos.all List.isEmpty && d.tempo.items.isEmpty && d.tx.frames.isEmpty
  else if 18 ≤ n ∧ n ≤ 21 then (d.txOn (n - 18)).isNone && !d.txActive (n - 18)
  else if n = 22 then d.ndt.op.isNone
  else if n = 23 then d.hci.cmds.isEmpty && d.staging.isEmpty
  else if n = 24 then d.cph.queue.isEmpty && d.cph.engines.all fun e => e.run.isNone && e.susp.isNone
  else if n = 25 then d.keys.op.isNone && d.keys.unwraps.isEmpty && d.cph.engines.all fun e => e.run.isNone
  else if n = 27 then d.agentIdle
  else if n = 28 then d.csp.run.isNone && d.csp.commit.isNone
  else true

/-- DOMAIN_DRAIN_DONE: the drain condition is met and isolation starts (Table 04.4). -/
def domainDrainDone (n : Nat) (d : Dev) : Dev :=
  let d := d.catchUp
  if d.domSt n = .draining && d.drained n then
    ((d.setDom n { d.dom n with st := .isolating, pend := .none }).domainIsolate n).settleAll
  else d

def execDomainDrainDone (n : Nat) (s : State) : Host.Outcome State Fault Refusal := s.run (domainDrainDone n)

/-- DOMAIN_DRAIN_TIMEOUT: back to ON with DOWN held (R64, Table 04.4). -/
def domainDrainTimeout (n : Nat) (d : Dev) : Dev :=
  let d := d.catchUp
  if d.domSt n = .draining then
    ((d.setDom n { d.dom n with st := .on, pend := .down }).refusal n 0x20).settleAll
  else d

def execDomainDrainTimeout (n : Nat) (s : State) : Host.Outcome State Fault Refusal := s.run (domainDrainTimeout n)

/-- DOMAIN_DRAIN_RETRY: DRAINING again while the tally is still 0 (Table 04.4). -/
def domainDrainRetry (n : Nat) (d : Dev) : Dev :=
  let m := d.dom n
  if m.st = .on && m.pend = .down && !d.tally n then
    ((d.setDom n { m with st := .draining, pend := .none }).drainStart n).settleAll
  else d

def execDomainDrainRetry (n : Nat) (s : State) : Host.Outcome State Fault Refusal := s.run (domainDrainRetry n)

/-- DOMAIN_ISOLATION_DONE: SWITCHING_OFF, or ON as an aborted entry where UP is held (Table 04.4, R69). -/
def domainIsolationDone (n : Nat) (d : Dev) : Dev :=
  let m := d.dom n
  if m.st ≠ .isolating then d
  else if m.pend = .up then
    let d := ((d.setDom n { m with st := .on, pend := .none, latched := [] }).releaseBanks m.latched).abortEntry n m.upBy
    let d := if n = 17 then [0, 1].foldl (fun d lo => if (d.lo lo).lock.isSome then d.bandReceive lo else d) d else d
    d.settleAll
  else
    ((d.setDom n { m with st := .switchingOff, latched := [] }).radioOff n).settleAll

def execDomainIsolationDone (n : Nat) (s : State) : Host.Outcome State Fault Refusal :=
  s.run (domainIsolationDone n)

/-- The PWR_RET_CTRL bit of domain `n` (R67). -/
def Dev.retains (d : Dev) (n : Nat) : Bool :=
  (n = 22 && d.is Fld.pwrRetCtrl_memnRet) || (n = 25 && d.is Fld.pwrRetCtrl_keyRet)

/-- DOMAIN_SWITCH_OFF_DONE: RET or OFF; where UP is held, OFF and at once up again as an aborted entry
(Table 04.4). -/
def domainSwitchOffDone (n : Nat) (d : Dev) : Dev :=
  let m := d.dom n
  if m.st ≠ .switchingOff then d
  else if m.pend = .up then
    (((d.setDom n {}).domainOff n).abortEntry n m.upBy).settleAll
  else if d.retains n then (d.setDom n { st := .ret }).settleAll
  else ((d.setDom n {}).domainOff n).settleAll

def execDomainSwitchOffDone (n : Nat) (s : State) : Host.Outcome State Fault Refusal :=
  s.run (domainSwitchOffDone n)

/-- PWR_PAD_RELEASE: banks whose bit is 1 and whose domain is up are released; other bits are ignored (R33, R69). -/
def pwrPadRelease (who : Initiator) (w : Word) (d : Dev) : Dev :=
  let d := d.rsvd who Reg.pwrPadRelease w
  d.releaseBanks ((List.range 7).filter fun b => w.toNat.testBit b && d.domUp (bankDomain b))

def execPwrPadRelease (who : Initiator) (w : Word) (s : State) : Host.Outcome State Fault Refusal :=
  s.run (pwrPadRelease who w)

/-! Rails (R43, R62, R427). -/

/-- A domain that holds UP for a rail starts once the rail is good (Table 04.4). -/
def Dev.supplyStart (d : Dev) (n : Nat) : Dev :=
  let m := d.dom n
  let down : Bool := m.st = .off || m.st = .ret
  if down && m.supplyWait && m.pend = .up && d.railGood n then
    d.setDom n { m with
      st := .poweringUp, fromRet := m.st = .ret, started := !staggered n, pend := .none, supplyWait := false }
  else d

/-- RAIL_GOOD of rail `r`: its GOOD bit sets, and waiting domains start (R43, R62). -/
def railGood (r : Nat) (d : Dev) : Dev :=
  if 7 ≤ r then d
  else
    let d := d.wr Fld.sysSupplyStatus_good (setBitN (d.rd Fld.sysSupplyStatus_good) r)
    ((List.range 32).foldl Dev.supplyStart d).bootProgress.settleAll

def execRailGood (r : Nat) (s : State) : Host.Outcome State Fault Refusal := s.run (railGood r)

/-- NV_OK_FALL: NV_OK clears and BROWNOUT_WARN counts; programming stops at the next bit (R427, R428). -/
def nvOkFall (d : Dev) : Dev :=
  if d.nvOk then (d.wr Fld.sysSupplyStatus_nvOk 0).bump Fld.errStat3_brownoutWarn else d

def execNvOkFall (s : State) : Host.Outcome State Fault Refusal := s.run nvOkFall

/-- NV_OK_RISE: every rail is back above NV_WRITE_MIN (R427). -/
def nvOkRise (d : Dev) : Dev := d.wr Fld.sysSupplyStatus_nvOk 1

def execNvOkRise (s : State) : Host.Outcome State Fault Refusal := s.run nvOkRise

/-! Core operating points (R70–R72). -/

/-- The sequencer takes its next step toward TARGET from the voltage and frequency reached; with nothing left to do
TARGET is reached (R70). -/
def Dev.opPlan (d : Dev) : Dev :=
  let c := d.cluster
  let op := d.rd Fld.clkOpCtrl_target
  let v := opMv op
  let go (d : Dev) (c : Cluster) (step : Nat) : Dev :=
    (({ d with cluster := c } : Dev).wr Fld.clkOpStatus_step step).wr Fld.clkOpStatus_busy (if step = 0 then 0 else 1)
  if c.mv = 0 then d
  else if c.mv < v then go d { c with step := .ramp v } 1
  else if c.freq ≠ op ∨ c.bypass then go d { c with step := .relock op, bypass := true } 2
  else if v < c.mv then go d { c with step := .ramp v } 1
  else (go d { c with step := .idle } 0).wr Fld.clkOpStatus_current op

/-- CLK_OP_CTRL_WRITE: a newer request replaces an unfinished one, whose step completes first (R70, R71). -/
def clkOpCtrlWrite (who : Initiator) (w : Word) (d : Dev) : Dev :=
  if !d.domUp 1 then d
  else if !d.secureOrHost who then d.refuseWrite who Reg.clkOpCtrl
  else
    let d := d.plainWrite who Reg.clkOpCtrl w
    if d.cluster.step = .idle then d.opPlan else d.bump Fld.clkOpStatus_replaced

def execClkOpCtrlWrite (who : Initiator) (w : Word) (s : State) : Host.Outcome State Fault Refusal :=
  s.run (clkOpCtrlWrite who w)

/-- OP_VOLTAGE_RAMP_DONE (R70). -/
def opVoltageRampDone (d : Dev) : Dev :=
  match d.cluster.step with
  | .ramp v => ({ d with cluster := { d.cluster with mv := v, step := .idle } } : Dev).opPlan
  | _ => d

def execOpVoltageRampDone (s : State) : Host.Outcome State Fault Refusal := s.run opVoltageRampDone

/-- OP_PLL_RELOCK_DONE: the cores leave the bypass clock (R70). -/
def opPllRelockDone (d : Dev) : Dev :=
  match d.cluster.step with
  | .relock op => ({ d with cluster := { d.cluster with freq := op, bypass := false, step := .idle } } : Dev).opPlan
  | _ => d

def execOpPllRelockDone (s : State) : Host.Outcome State Fault Refusal := s.run opPllRelockDone

/-- CORE_RAIL_DROP: the cores switch to the bypass clock, and CLOCK_BYPASS counts (R70, R427). -/
def coreRailDrop (d : Dev) : Dev :=
  if d.cluster.mv = 0 ∨ d.cluster.bypass then d
  else ({ d with cluster := { d.cluster with bypass := true } } : Dev).bump Fld.errStat2_clockBypass

def execCoreRailDrop (s : State) : Host.Outcome State Fault Refusal := s.run coreRailDrop

/-! Wake (R73–R77, R159). -/

/-- Causes set their bits and lead to one wake action: V14 casts the votes of PWR_WAKE_VOTE, or merges with those it
holds; D2 coming up from OFF makes a wake start (R74, R75). -/
def Dev.wake (d : Dev) (causes : Nat) : Dev :=
  let old := d.reg Reg.pwrWakeCause
  let d := d.setReg Reg.pwrWakeCause (BitVec.ofNat 32 (old.toNat ||| causes))
  let pins := (List.range 4).filter fun n => causes.testBit n && !old.toNat.testBit n
  let votes := (d.reg Reg.pwrWakeVote).toNat &&& voteMask
  let merged := votes ≠ 0 && d.votesOf 14 &&& votes = votes
  let start : Bool := votes.testBit 2 && (d.domSt 2 = .off || d.domSt 2 = .switchingOff)
  let d := { d with pwr := { d.pwr with wakeStart := d.pwr.wakeStart || start } }
  let d := (d.setVotes 14 (d.votesOf 14 ||| votes)).settleAll
  let d := pins.foldl (fun (d : Dev) n => d.raise (0x90 + n)) d
  if merged then d else d.raise 0x5A

/-- The 4 bits of WAKEn in PWR_WAKE_CFG. -/
def Dev.pinCfg (d : Dev) (n : Nat) : Nat := bitsOf (d.rd Fld.pwrWakeCfg_pin) (4 * n + 3) (4 * n)

/-- WAKEn stands at the level that its level mode wakes on (R73). -/
def Dev.levelWake (d : Dev) (n : Nat) : Bool :=
  let c := d.pinCfg n
  let high := d.pwr.wakeLevels.getD n false
  c.testBit 3 && ((bitsOf c 2 1 = 0 && high) || (bitsOf c 2 1 = 1 && !high))

/-- Level-mode pins whose level is active set their causes again at once (R73). -/
def Dev.levelWakes (d : Dev) : Dev :=
  let m := (List.range 4).foldl (fun m n =>
    if d.levelWake n && !(d.reg Reg.pwrWakeCause).toNat.testBit n then setBitN m n else m) 0
  if m = 0 then d else d.wake m

/-- WAKE_PIN: WAKEn takes a new level behind its filter (R73, R446). -/
def wakePin (n : Nat) (level : Bool) (d : Dev) : Dev :=
  if 4 ≤ n then d
  else
    let was := d.pwr.wakeLevels.getD n false
    let d := { d with pwr := { d.pwr with wakeLevels := putAt n level d.pwr.wakeLevels } }
    let c := d.pinCfg n
    let edge := c.testBit 3 && ((bitsOf c 2 1 = 2 && !was && level) || (bitsOf c 2 1 = 3 && was && !level))
    if edge || d.levelWake n then d.wake (voteBit n) else d

def execWakePin (n : Nat) (level : Bool) (s : State) : Host.Outcome State Fault Refusal := s.run (wakePin n level)

/-- PWR_WAKE_TIME as one value. -/
def Dev.wakeTime (d : Dev) : Nat := (d.reg Reg.pwrWakeTimeLo).toNat + (d.reg Reg.pwrWakeTimeHi).toNat * 2 ^ 32

/-- The armed compare fires once TMB is at or above its value while TIMER_EN is 1 (R77). -/
def wakeTimerCompare (d : Dev) : Dev :=
  if d.pwr.compareArmed && d.is Fld.pwrWakeCfg_timerEn && decide (d.wakeTime ≤ d.tmb) then
    ({ d with pwr := { d.pwr with compareArmed := false } } : Dev).wake (voteBit 5)
  else d

def execWakeTimerCompare (s : State) : Host.Outcome State Fault Refusal := s.run wakeTimerCompare

/-- PWR_WAKE_TIME_HI_WRITE arms the compare; a value already passed fires at once (R77). -/
def pwrWakeTimeHiWrite (w : Word) (d : Dev) : Dev :=
  let d := d.setReg Reg.pwrWakeTimeHi w
  wakeTimerCompare { d with pwr := { d.pwr with compareArmed := true } }

def execPwrWakeTimeHiWrite (w : Word) (s : State) : Host.Outcome State Fault Refusal := s.run (pwrWakeTimeHiWrite w)

/-- WURX_TELEGRAM_MATCH: the receiver in D29 takes the chips of a telegram; a match of PWR_WURX_ADDR or, while the
fallback is active, of OTP_WURX_FALLBACK wakes. While a TX chain of its band sends, it ignores its input and discards a
telegram in progress: the 96 chips that a match needs at least came after the last transmission (R76, R159, R160). -/
def wurxTelegramMatch (chips : List Bool) (d : Dev) : Dev :=
  let sub := d.is Fld.pwrWurxCfg_band
  let sending := (if sub then [2, 3] else [0, 1]).any fun n => d.txActive n || (match alGet n d.pwr.txEnd with
    | some t => decide (d.tmb < t + usTicks 12000)
    | none => false)
  if d.domSt 29 != .on || sending then d
  else
    match telegramAddr chips with
    | none => d
    | some a =>
      let own := a ≠ 0 && d.is Fld.pwrWakeCfg_wurxEn && (d.reg Reg.pwrWurxAddr).toNat = a
      let fall := a ≠ 0 && d.pwr.fallback && d.fuse Fuse.wurx = a
      if own || fall then d.wake (b2n own * voteBit 4 + b2n fall * voteBit 7) else d

def execWurxTelegramMatch (chips : List Bool) (s : State) : Host.Outcome State Fault Refusal :=
  s.run (wurxTelegramMatch chips)

/-! Watch sequencer (R78–R84). -/

/-- An enabled channel entry holds a CHANNEL or PHY that is invalid for a band (R80, R82). -/
def watchChInvalid (band : Nat) (w : Word) : Bool :=
  let phy := wBits w 10 9
  let c := wBits w 8 3
  w.toNat.testBit 0 && if band = 0 then decide (2 ≤ phy) || c < 11 || 26 < c else phy != 2

/-- PWR_WATCH_CTRL_WRITE: EN = 1 restarts the sequencer; EN = 0 stops it, after the wake that runs (R78, R80). -/
def pwrWatchCtrlWrite (who : Initiator) (w : Word) (d : Dev) : Dev :=
  let en := w.toNat.testBit 0
  if en && (List.range 4).any fun n => watchChInvalid (wBits w 1 1) (d.reg (Reg.pwrWatchCh + 4 * n)) then
    d.rejectWrite who Reg.pwrWatchCtrl
  else
    let d := d.plainWrite who Reg.pwrWatchCtrl w
    let st := d.rd Fld.pwrWatchStatus_state
    if en then
      let d := { d with pwr := { d.pwr with watchVote := none, hits := 0 } }
      (d.wr Fld.pwrWatchStatus_state (if d.domSt 17 = .off then 1 else 4)).settleAll
    else if st = 2 ∨ st = 3 then d
    else d.wr Fld.pwrWatchStatus_state 0

def execPwrWatchCtrlWrite (who : Initiator) (w : Word) (s : State) : Host.Outcome State Fault Refusal :=
  s.run (pwrWatchCtrlWrite who w)

/-- Chain domain of the watch configuration in force. -/
def Dev.watchDomain (d : Dev) : Nat := if (d.pwr.watchCfg.getD 0 0).toNat.testBit 1 then 15 else 11

/-- The sequencer leaves a wake: sleeping, or disabled where EN has gone to 0 meanwhile (Table 04.14, step 7). -/
def Dev.watchSleep (d : Dev) : Dev :=
  let i := d.watchDomain - 11
  let d := if d.chainState i = 5 then d.setChainState i 2 else d
  let d := { d with pwr := { d.pwr with watchVote := none } }
  (d.wr Fld.pwrWatchStatus_state (if d.is Fld.pwrWatchCtrl_en then 1 else 0)).settleAll

/-- WATCH_PERIOD_TICK: the wake takes the watch registers, COUNT rises and V14 votes the chain. With a rail not good
the wake is skipped and the hit count cleared (R78, Table 04.14). -/
def watchPeriodTick (d : Dev) : Dev :=
  if !d.is Fld.pwrWatchCtrl_en || d.domSt 17 != .off || d.rd Fld.pwrWatchStatus_state != 1 then d
  else
    let d := { d with pwr := { d.pwr with
      watchCfg := [Reg.pwrWatchCtrl, Reg.pwrWatchCh, Reg.pwrWatchCh + 4, Reg.pwrWatchCh + 8, Reg.pwrWatchCh + 12].map d.reg } }
    let stretched := decide (d.rd Fld.pwrWatchPeriod_periodUs < 50 + d.rd Fld.pwrWatchDwell_dwellUs)
    let d := if stretched then d.wr Fld.pwrWatchStatus_periodStretched 1 else d
    let good := d.railGood d.watchDomain
    let d := ({ d with pwr := { d.pwr with watchVote := some d.watchDomain } } : Dev).settleAll
    if good then
      (d.wr Fld.pwrWatchCount_count (d.rd Fld.pwrWatchCount_count + 1)).wr Fld.pwrWatchStatus_state 2
    else ({ d with pwr := { d.pwr with hits := 0 } } : Dev).watchSleep

def execWatchPeriodTick (s : State) : Host.Outcome State Fault Refusal := s.run watchPeriodTick

/-- WATCH_GAIN_SETTLED: the chain is ON, its LO locked and the watch-tap gain settled; the dwell begins (Table 04.14,
step 4). -/
def watchGainSettled (d : Dev) : Dev :=
  let n := d.watchDomain
  let lo := if n = 15 then 1 else 0
  if d.rd Fld.pwrWatchStatus_state = 2 && d.domSt n = .on && (d.lo lo).lock.isSome then
    (d.setChainState (n - 11) 5).wr Fld.pwrWatchStatus_state 3
  else d

def execWatchGainSettled (s : State) : Host.Outcome State Fault Refusal := s.run watchGainSettled

/-- An entry meets its RULE with an energy and a correlation (R82, R83). -/
def watchHit (w : Word) (energy corr : Nat) : Bool :=
  let e := decide (wBits w 19 12 ≤ energy)
  let c := decide (wBits w 27 20 ≤ corr)
  w.toNat.testBit 0 && match wBits w 2 1 with
    | 0 => e
    | 1 => c
    | 2 => e || c
    | _ => e && c

/-- WATCH_DWELL_END with the mean energy and peak correlation of each entry over the dwell: the hit count follows; at
the CONFIRM count the sequencer triggers (R83). Where several entries hit, HIT_CH is a free choice among them. -/
def watchDwellEnd (energy corr : List Nat) (d : Dev) : Dev :=
  if d.rd Fld.pwrWatchStatus_state ≠ 3 then d
  else
    let hits := (List.range 4).filter fun n => watchHit (d.pwr.watchCfg.getD (n + 1) 0) (energy.getD n 0) (corr.getD n 0)
    if hits.isEmpty then ({ d with pwr := { d.pwr with hits := 0 } } : Dev).watchSleep
    else
      let r := d.free 2
      let n := hits.getD (r.1 % hits.length) 0
      let d := ((r.2.wr Fld.pwrWatchStatus_hitCh n).wr Fld.pwrWatchStatus_hitEnergy (energy.getD n 0)).wr
        Fld.pwrWatchStatus_hitCorr (corr.getD n 0)
      let d := { d with pwr := { d.pwr with hits := d.pwr.hits + 1 } }
      if d.pwr.hits < bitsOf (d.pwr.watchCfg.getD 0 0).toNat 3 2 + 1 then d.watchSleep
      else ((d.wr Fld.pwrWatchStatus_state 5).raise 0x5B).wake (voteBit 6)

def execWatchDwellEnd (energy corr : List Nat) (s : State) : Host.Outcome State Fault Refusal :=
  s.run (watchDwellEnd energy corr)

/-- WATCH_VOTE_RELEASE: 10 ms after a trigger V14 withdraws the chain vote (R83). -/
def watchVoteRelease (d : Dev) : Dev :=
  let st := d.rd Fld.pwrWatchStatus_state
  if d.pwr.watchVote.isSome && st != 2 && st != 3 then
    let i := d.watchDomain - 11
    let d := if d.chainState i = 5 then d.setChainState i 2 else d
    ({ d with pwr := { d.pwr with watchVote := none } } : Dev).settleAll
  else d

def execWatchVoteRelease (s : State) : Host.Outcome State Fault Refusal := s.run watchVoteRelease

end Sys2Proof.Machine
end

