-- ==== Sys2Proof/Machine/Err.lean ====
section
/-! DEFINITION. Retirement of faulty resources and the sparing map (R252, R422, R424–R426). -/

namespace Sys2Proof.Machine

open Sys2Proof

/-- MEM index of an SRAM row (Table 19.2). -/
def resMem (res : Nat) : Nat := res / 2 ^ 22 % 64

/-- Spares of a memory (Table 19.4): 4 for a node-memory bank, 32 for the packet buffer, 2 for a core memory, 4 for
the key store. -/
def spareCount (mem : Nat) : Nat :=
  if mem < 32 then 4 else if mem = 32 then 32 else if mem ≤ 56 then 2 else if mem = 62 then 4 else 0

/-- Spare rows of a memory that have been used. -/
def Dev.sparesUsed (d : Dev) (mem : Nat) : Nat :=
  d.err.sparing.foldl (fun m x => if x.res < 2 ^ 28 ∧ resMem x.res = mem then max m (x.spare + 1) else m) 0

/-- ERR_SPARE counts one more spare of a memory (R425). -/
def Dev.spareCounted (d : Dev) (mem : Nat) : Dev :=
  d.bump (if mem < 32 then Fld.errSpare_nm else if mem = 32 then Fld.errSpare_pkt
    else if mem = 62 then Fld.errSpare_key else Fld.errSpare_core)

/-- A row is remapped to the next spare of its memory; the flag says whether one was left (R424, R430). -/
def Dev.remapRow (d : Dev) (res : Nat) : Dev × Bool :=
  let mem := resMem res
  let k := d.sparesUsed mem
  if k < spareCount mem then
    let e : Spare := { res := res, spare := k, done := true }
    (({ d with err := { d.err with sparing := d.err.sparing.filter (fun x => x.res != res) ++ [e] } } : Dev).spareCounted mem,
      true)
  else (d, false)

/-! What a remapped row held (Table 19.4, R252). -/

/-- Slots whose contexts a row of a bank holds (R230): 128 rows of CTX. -/
def rowSlots (res : Nat) : List Nat :=
  let row := res % 2 ^ 22
  if resMem res < 32 ∧ row < 128 then (List.range 8).map fun k => row * 256 + 32 * k + resMem res else []

/-- Route entries in a row, the rows of RTE being 304 to 319 (R230). -/
def rowRoutes (res : Nat) : List Nat :=
  let row := res % 2 ^ 22
  if resMem res < 32 ∧ 304 ≤ row ∧ row < 320 then
    (List.range 8).flatMap fun k => (List.range 16).map fun i => (((row - 304) * 8 + k) * 32 + resMem res) * 16 + i
  else []

/-- A node-memory row is remapped: its eight slots are damaged, frames of their nodes that wait for a verify dropped, and the
contexts of their nodes requested; route entries and keys are rebuilt, remote entries of the row cleared (R252). -/
def Dev.nodeRow (d : Dev) (res : Nat) : Dev :=
  let row := res % 2 ^ 22
  let slots := rowSlots res
  let lost := (rowRoutes res).filter fun r => d.rteValid r && !d.rteResident r
  let d := d.clearMem fun a => memRes a = res
  let d : Dev := { d with ndt := { d.ndt with
    damaged := d.ndt.damaged ++ slots.filter fun s => !d.ndt.damaged.contains s
    lostRoutes := d.ndt.lostRoutes ++ lost.filter fun r => !d.ndt.lostRoutes.contains r
    rebuild := if 304 ≤ row ∧ row < 368 then d.ndt.rebuild ++ [row] else d.ndt.rebuild } }
  let d := if slots.isEmpty && lost.isEmpty then d else d.raise 0x6A
  let hit := d.tempo.items.filter fun i => slots.contains i.slot
  let d := ({ d with tempo := { d.tempo with items := d.tempo.items.filter fun i => !slots.contains i.slot } }).bumpBy
    hit.length Fld.ndtStat2_rebuildDrop
  (slots.filter d.damagedNode).foldl (fun d s => (d.slpForget s).rebuildSlot s) d

/-- A receive staging buffer that lies in a row. -/
def stagedIn (res b : Nat) : Bool := memRes (stagingAddr b) = res || memRes (stagingAddr b + 1023) = res

/-- Packet-buffer frames in a row are dropped, and commands whose data lay there complete with RESOURCE_RETIRED
(Table 19.4). -/
def Dev.packetRow (d : Dev) (res : Nat) : Dev :=
  let d := d.clearMem fun a => memRes a = res
  let d := (List.range 96).foldl (fun d i =>
    let l := d.lane i
    if l.phase = .decode && stagedIn res l.buf then (d.laneFree i).bump Fld.rxwStatAbandon_abandoned else d) d
  let d : Dev := { d with fifos := d.fifos.map fun f => f.filter fun c => !stagedIn res c.buf }
  let row := res % 2 ^ 22
  let held (c : HciCmd) : Bool := (c.stage = .queued || c.stage = .waking) && !d.qHost c.sq && c.dataLen != 0
    && decide (c.dataAddr < 1024 * row + 1024) && decide (1024 * row < c.dataAddr + c.dataLen)
  (d.hci.cmds.filter held).foldl (fun d c => d.finish c Code.resourceRetired []) d

/-- Key slots in a row of the key store, two 32-octet shares a slot, are zeroized (Table 19.4). -/
def Dev.keyRow (d : Dev) (res : Nat) : Dev :=
  ((List.range 16).map fun k => res % 2 ^ 22 * 16 + k).foldl (fun d n => if n < 512 then d.zeroSlot n else d) d

/-- The permanent fault of a row takes effect: remapped with its data handled, or RETIRE_FAIL without a spare
(R424). -/
def Dev.rowRetire (d : Dev) (res : Nat) : Dev :=
  let r := d.remapRow res
  if !r.2 then d.bump Fld.errStat2_retireFail
  else
    let d := r.1
    if resMem res < 32 then d.nodeRow res
    else if resMem res = 32 then d.packetRow res
    else if resMem res = 62 then d.keyRow res
    else d.clearMem fun a => memRes a = res

/-- ROW_REMAP_DONE of a row. The calibration store, the duty store, the Tempo checkpoints and the cipher buffers have no
spares: the entry at fault becomes invalid, the bucket reads as 65,535 units, the pair at fault has a mismatch, the engine
is retired (Table 19.4). A row not yet judged is judged permanent first. -/
def rowRemapDone (res : Nat) (entry : Option Nat) (bucket : Option (Nat × Nat)) (d : Dev) : Dev :=
  if 2 ^ 28 ≤ res then d
  else
    let d := if d.err.waiting.contains res then d else d.permanent res
    let d : Dev := { d with err := { d.err with waiting := d.err.waiting.filter (· != res) } }
    let mem := resMem res
    if mem = 58 then
      match entry with
      | some n => if n < 162 then d.wr Fld.rfsCalEntry_valid 0 n else d
      | none => d
    else if mem = 59 then
      match bucket with
      | some (e, sec) =>
        let h := d.dutyHist e
        (d.setDutyHist e { h with buckets := (h.buckets.filter fun b => b.1 != sec) ++ [(sec, 65535)] }).dutyRegs e
      | none => d
    else if mem = 60 then
      match entry with
      | some p => if p < 5 then d.mismatch p else d
      | none => d
    else if mem = 61 then (if res % 2 ^ 22 < 96 then d.bufferLost (res % 2 ^ 22 / 4) res else d)
    else if spareCount mem = 0 then d.bump Fld.errStat2_retireFail
    else d.rowRetire res

def execRowRemapDone (res : Nat) (entry : Option Nat) (bucket : Option (Nat × Nat)) (s : State) :
    Host.Outcome State Fault Refusal := s.run (rowRemapDone res entry bucket)

/-! Queues, lanes, pairs and engines. -/

/-- Spare queues Q120–Q127 in use. -/
def Dev.spareQueues (d : Dev) : List Nat :=
  d.err.sparing.filterMap fun x => if x.res / 2 ^ 28 = 2 then some x.spare else none

/-- The sparing map holds resource `res`. -/
def Dev.isSpared (d : Dev) (res : Nat) : Bool := d.err.sparing.any fun x => x.res = res

/-- The context of queue `q` moves to the lowest free spare, or the queue is STOPPED; a notice goes to Q1 (R424).
Its registers, doorbell and messages keep their number. -/
def Dev.queueMove (d : Dev) (q : Nat) : Dev :=
  if d.isSpared (unitRes 2 q) then d
  else
    let add (d : Dev) (k : Nat) : Dev :=
      { d with err := { d.err with sparing := d.err.sparing ++ [{ res := unitRes 2 q, spare := k, done := true }] } }
    if 120 ≤ q then add d q
    else
      let d := match ((List.range 8).map (· + 120)).find? fun k => !d.spareQueues.contains k with
        | some k => add d k
        | none => d.wr Fld.hciQCfg_stopped 1 q
      d.notice Code.resourceRetired q

/-- QUEUE_RETIRE_MOVE of queue `q` (R424). -/
def queueRetireMove (q : Nat) (d : Dev) : Dev :=
  if 128 ≤ q then d
  else
    let d := if d.err.waiting.contains (unitRes 2 q) then d else d.permanent (unitRes 2 q)
    ({ d with err := { d.err with waiting := d.err.waiting.filter (· != unitRes 2 q) } } : Dev).queueMove q

def execQueueRetireMove (q : Nat) (s : State) : Host.Outcome State Fault Refusal := s.run (queueRetireMove q)

/-- A retired lane is never allocated again; its frame in progress is abandoned (R424). -/
def Dev.laneRetire (d : Dev) (i : Nat) : Dev :=
  if d.isSpared (unitRes 1 i) then d
  else
    let d : Dev := { d with err := { d.err with
      sparing := d.err.sparing ++ [{ res := unitRes 1 i, spare := 0, done := true }] } }
    let l := d.lane i
    let d := if l.phase = .sync || l.phase = .decode then (d.laneFree i).bump Fld.rxwStatAbandon_abandoned else d
    if d.domUp 17 then
      d.wr Fld.rxwLaneRetired_retired (setBitN (d.rd Fld.rxwLaneRetired_retired (i / 32)) (i % 32)) (i / 32)
    else d

/-- An entry whose complement does not match: the resource is permanent at once, and retired or remapped afresh
(R422, R426). -/
def Dev.mapMismatch (d : Dev) (res : Nat) : Dev :=
  let n := res % 2 ^ 22
  match res / 2 ^ 28 with
  | 0 => (d.permanent res)
  | 1 => if n < 96 then (d.permanent res).laneRetire n else d
  | 2 => if n < 128 then d.permanent res else d
  | 3 => if n < 5 then (if d.pairs.retired.contains n then d.permanent res else d.retirePair n) else d
  | 4 =>
    if n < 24 then
      let d := d.permanent res
      if (d.engine n).retired then d else d.engineRetire n
    else d
  | _ => d

/-- SPARING_MAP_CHECK: every 1 ms the sparing map and the Tempo retirement record are checked; `bad` are the resources
whose pair is invalid (R426). -/
def sparingMapCheck (bad : List Nat) (d : Dev) : Dev := (bad.foldl Dev.mapMismatch d).settleAll

def execSparingMapCheck (bad : List Nat) (s : State) : Host.Outcome State Fault Refusal := s.run (sparingMapCheck bad)

end Sys2Proof.Machine
end

