-- ==== Sys2Proof/Machine/HciCtl.lean ====
section
/-! DEFINITION. Control of the host interface: queue failures and doorbells (R291, R297, R298), the admin queue
(R293, R295), resets of the interface (R317) and the control register. -/

namespace Sys2Proof.Machine

open Sys2Proof

/-- Bytes of a ring entry of a queue role (R297, Table 13.11). -/
def ringEntry (version role : Nat) : Nat :=
  if version = 1 then (if role = 1 then 32 else 16)
  else if role = 1 then 64 else if role = 2 then 32 else 16

/-- Ring and buffers of a queue obey R297 and, in protocol 1, Table 13.11: SIZE, alignment, and the host area for
LOC = 0. -/
def ringOk (version role size : Nat) (host stride : Bool) (base buf : Nat) : Bool :=
  decide (4 ≤ size) && decide (size ≤ if version = 1 then 8 else 12) && base % 64 = 0
    && (if host then version != 1
      else inHostArea base (2 ^ size * ringEntry version role)
        && (role != 3 || inHostArea buf (2 ^ size * if stride then 192 else 2112)))

/-- A queue whose deletion waits for its fetched commands (R312). -/
def Dev.qDeleting (d : Dev) (q : Nat) : Bool := (alGet q d.hci.deleting).isSome

/-- A doorbell that the queue engine drops (R298). -/
def Dev.doorbellError (d : Dev) (cause q : Nat) : Dev := (d.bump Fld.hciStat1_doorbellErr).qerr cause q

/-- The queue engine acts on a doorbell (R291, R297, R298). -/
def Dev.doorbellAct (d : Dev) (q w : Nat) : Dev :=
  let len := d.qLen q
  let used := (d.qTail q + len - d.qHead q) % len
  if !d.qEn q || d.qDeleting q || d.qRole q = 4 then d.doorbellError 2 q
  else if len ≤ w then d.doorbellError 0 q
  else if d.qRole q = 1 then
    if len ≤ used + (w + len - d.qTail q) % len then (d.doorbellError 1 q).wr Fld.hciQCfg_stopped 1 q
    else d.wr Fld.hciQTail_tail w q
  else if used < (w + len - d.qHead q) % len then (d.doorbellError 1 q).wr Fld.hciQCfg_stopped 1 q
  else if w = d.qHead q then d
  else
    let d := (d.wr Fld.hciQHead_head w q).wr Fld.hciQCfg_armed 1 q
    if w ≠ d.qTail q && d.is Fld.hciQCfg_irqEn q then
      (d.wr Fld.hciQCfg_armed 0 q).sendMsix (d.rd Fld.hciQCfg_vector q)
    else d

/-- A doorbell write of word `w` for queue `q`: with D23 off a ghost write for a ring in the packet buffer, stored
for a ring in host memory (R27, R298). -/
def Dev.doorbellWrite (d : Dev) (q w : Nat) : Dev :=
  if !d.domUp 1 then d.errGhost 0 true (0x1000000 + 4 * q) 1
  else if d.domUp 23 then d.doorbellAct q w
  else if d.qHost q then { d with hci := { d.hci with stored := d.hci.stored ++ [(q, w)] } }
  else d.errGhost 0 true (0x1000000 + 4 * q) 23

/-- Queue `q` returns to its reset role, out of service unless it is internal (R296, R312). -/
def Dev.qReset (d : Dev) (q : Nat) : Dev :=
  let a := Reg.hciQBaseLo + 32 * q
  let d := d.clearRegs fun x => decide (a ≤ x) && decide (x < a + 32)
  { d with hci := { d.hci with
      oddPass := d.hci.oddPass.filter (· != q)
      reclaimed := d.hci.reclaimed.filter (· != q)
      deleting := alDel q d.hci.deleting
      stored := d.hci.stored.filter fun x => x.1 != q
      hostEntries := d.hci.hostEntries.filter fun x => x.1 != q
      faults := d.hci.faults.filter fun x => x.1 != q } }

/-- A frame that an HCI reset or TX_CANCEL cancels: not committed, and not waiting for its acknowledgement
(R306, R317). -/
def TxFrame.cancellable (f : TxFrame) : Bool :=
  match f.stage with
  | .committed _ => false
  | .ackWait _ => false
  | .remote => false
  | _ => true

/-- Number of the host command that a frame belongs to. -/
def TxFrame.hostCmd (f : TxFrame) : Option Nat :=
  match f.origin with
  | .host c => some c
  | _ => none

/-- What is left of a fetched command after an HCI reset: one that has started runs on without a completion; one
that has not started, or is complete, goes (R317). -/
def HciCmd.afterReset (c : HciCmd) : Option HciCmd :=
  match c.stage with
  | .running => some { c with mute := true, votes := [] }
  | _ => none

/-- An HCI reset (R317). -/
def Dev.hciReset (d : Dev) : Dev :=
  let gone := d.tx.frames.filter fun f => f.hostCmd.isSome && f.cancellable
  let d := gone.foldl (fun d f => (d.txRelease f).dropFrame f.id) d
  let cmds := (d.hci.cmds.filter fun c => !gone.any fun f => f.hostCmd = some c.id).filterMap HciCmd.afterReset
  let d := d.clearRegs fun a => decide (Reg.hciQBaseLo ≤ a) && decide (a < Reg.hciQBaseLo + 4096)
  let h : Hci := { cmds := cmds, nextId := d.hci.nextId, hostTag := d.hci.hostTag, appOpen := d.hci.appOpen }
  let d := { d with hci := h }
  ((d.wr Fld.hciCtrl_enable 0).wr Fld.hciStatus_fatal 0).versionDefault.settleAll

/-- Puts an admin queue in service with head and tail 0 (R291, R293). -/
def Dev.adminQueue (d : Dev) (q size base cfg : Nat) : Dev :=
  let d := d.qReset q
  let d := (d.wr Fld.hciQBaseLo_base (base % 2 ^ 32) q).wr Fld.hciQBaseHi_base (base / 2 ^ 32) q
  let d := ((d.wr Fld.hciQCfg_role (q + 1) q).wr Fld.hciQCfg_size size q).wr Fld.hciQCfg_loc cfg q
  (d.wr Fld.hciQCfg_armed 1 q).wr Fld.hciQCfg_en 1 q

/-- ENABLE goes from 0 to 1 (R293, R295). -/
def Dev.hciEnable (d : Dev) : Dev :=
  let sq := d.rd Fld.hciAdminSqLo_base + d.rd Fld.hciAdminSqHi_base * 2 ^ 32
  let cq := d.rd Fld.hciAdminCqLo_base + d.rd Fld.hciAdminCqHi_base * 2 ^ 32
  let ss := d.rd Fld.hciAdminCfg_sqSize
  let cs := d.rd Fld.hciAdminCfg_cqSize
  let sl := d.rd Fld.hciAdminCfg_sqLoc
  let cl := d.rd Fld.hciAdminCfg_cqLoc
  if ringOk d.version 1 ss (sl = 1) false sq 0 && ringOk d.version 2 cs (cl = 1) false cq 0 then
    let d := (d.adminQueue 0 ss sq sl).adminQueue 1 cs cq cl
    ((d.wr Fld.hciQCfg_partner 1 0).wr Fld.hciQCfg_irqEn 1 1).wr Fld.hciCtrl_enable 1
  else d.qerr 4 0

/-- A write of HCI_CTRL: FW_READY belongs to secure-state cores, and another writer that changes it is recorded; its
other bits act (R293). -/
def hciCtrlWrite (who : Initiator) (w : Word) (d : Dev) : Dev :=
  if !d.domUp 1 then d
  else
    let d := d.rsvd who Reg.hciCtrl w
    let fw := w.toNat.testBit 2
    let d :=
      if d.secure who then d.wr Fld.hciCtrl_fwReady (b2n fw)
      else if fw = d.is Fld.hciCtrl_fwReady then d
      else d.refuseWrite who Reg.hciCtrl
    if w.toNat.testBit 1 then d.hciReset
    else if w.toNat.testBit 0 then (if d.is Fld.hciCtrl_enable then d else d.hciEnable)
    else if d.is Fld.hciCtrl_enable then d.hciReset
    else d

/-- A write of one of the admin queue registers of R295. -/
def hciAdminWrite (who : Initiator) (a : Nat) (w : Word) (d : Dev) : Dev :=
  if d.is Fld.hciCtrl_enable then d.refuseWrite who a else d.plainWrite who a w

/-- HCI_STATUS as it reads (R294). -/
def Dev.hciStatusRead (d : Dev) : Word :=
  let d := (d.wr Fld.hciStatus_fwReady (d.rd Fld.hciCtrl_fwReady)).wr Fld.hciStatus_ready
    (b2n (d.is Fld.hciCtrl_enable && d.domUp 23 && !d.is Fld.hciStatus_fatal))
  d.reg Reg.hciStatus

/-- Firmware runs: C0 has been entered and its domain is up. -/
def Dev.firmwareRuns (d : Dev) : Bool := d.boot.phase = .entered && d.domUp 2

/-- A PCI Express reset: endpoint state goes, the host interface resets, and firmware receives the link-down event
(R44, R46). -/
def Dev.pcieReset (d : Dev) : Dev :=
  let d := d.setReg Reg.sysResetCause (BitVec.ofNat 32 (setBitN (d.reg Reg.sysResetCause).toNat 5))
  let d := ({ d with msix := {}, pins := { d.pins with pcieLinkUp := false } } : Dev).hciReset
  if d.firmwareRuns then d.emit .linkDown else d

end Sys2Proof.Machine
end

