-- ==== Sys2Proof/Machine/Boot.lean ====
section
/-! DEFINITION. Resets and the boot (R31, R32, R35, R44–R53, R283): reset pins and SYS_RESET_CTRL, the steps of
Table 03.8, the image checks of R50 and the boot sources of R52. -/

namespace Sys2Proof.Machine

open Sys2Proof

/-! Reset sources. -/

/-- The OTP bit whose programming a reset cuts short reads as 0 or 1 (R428). -/
def Dev.cutBit (d : Dev) (b : Option (Nat × Nat)) : Dev :=
  match b with
  | some x =>
    let r := d.free 1
    if r.1 = 1 then r.2.blow x.1 x.2 else r.2
  | none => d

/-- Every OTP write in progress is cut short (R428). -/
def Dev.cutBits (d : Dev) : Dev :=
  let d := d.cutBit (match d.lc with | some r => r.bits.head? | none => none)
  let d := d.cutBit (match d.keys.op with | some o => o.bits.head? | none => none)
  match d.prog with
  | some op =>
    if op.bits.isEmpty then d
    else
      let r := d.free 1
      r.2.regionBit (r.1 = 1)
  | none => d

/-- A system reset with OTP writes cut short. -/
def Dev.reset' (d : Dev) (cause : Nat) : Dev := d.cutBits.systemReset cause

/-- VDD_AON is good; D0 stays in power-on reset until PORST_N rises (R31, R42). -/
def vddAonGood (d : Dev) : Dev :=
  let d := { d with pins := { d.pins with aonGood := true } }
  d.wr Fld.sysSupplyStatus_good (setBitN (d.rd Fld.sysSupplyStatus_good) 0)

def execVddAonGood (s : State) : Host.Outcome State Fault Refusal := s.run vddAonGood

/-- A power-on reset cuts OTP writes short and restarts everything but the OTP (R44, R428). -/
def Dev.coldReset (d : Dev) : Dev := d.cutBits.powerOnReset

def execPowerOnReset (s : State) : Host.Outcome State Fault Refusal := s.run Dev.coldReset

/-- PORST_N rises: the straps are captured, their buffers disabled, and the boot starts unless SYSRST_N holds the
system reset (R35, R45, R48). -/
def porstNRise (straps : Nat) (d : Dev) : Dev :=
  if d.pins.porstLow && d.pins.aonGood then
    let d := { d with pins := { d.pins with porstLow := false, strapBuffers := false } }
    let d := d.setReg Reg.sysStrap (BitVec.ofNat 32 (straps % 64))
    if d.pins.sysrstLow then d else d.bootStart
  else d

def execPorstNRise (straps : Nat) (s : State) : Host.Outcome State Fault Refusal := s.run (porstNRise straps)

/-- SYSRST_N goes low; together with PORST_N low the broader reset stands and the source is recorded (R32, R44–R46). -/
def sysrstNAssert (d : Dev) : Dev :=
  let d := { d with pins := { d.pins with sysrstLow := true } }
  if d.pins.porstLow then d.resetCause 1 else d.reset' 1

def execSysrstNAssert (s : State) : Host.Outcome State Fault Refusal := s.run sysrstNAssert

/-- SYSRST_N returns high: the system reset ends and the ROM starts (R45). -/
def sysrstNRelease (d : Dev) : Dev :=
  if !d.pins.sysrstLow then d
  else
    let d := { d with pins := { d.pins with sysrstLow := false } }
    if d.pins.porstLow then d else d.bootStart

def execSysrstNRelease (s : State) : Host.Outcome State Fault Refusal := s.run sysrstNRelease

/-- CORE_HOLD of Cn, n = 1–7, becomes `b`: held in core reset, or released at address 0 where its domain is up
(R44, R47). -/
def Dev.coreHold (d : Dev) (b : Bool) (n : Nat) : Dev :=
  let v := d.rd Fld.sysResetCtrl_coreHold
  if v.testBit (n - 1) = b then d
  else
    let d := d.wr Fld.sysResetCtrl_coreHold (putBitN v (n - 1) b)
    if b then d.setCore n (coreReset n)
    else if d.domUp (2 + n) then d.setCore n { coreReset n with run := .run }
    else d

/-- A write of SYS_RESET_CTRL (R47). -/
def sysResetCtrlWrite (who : Initiator) (w : Word) (d : Dev) : Dev :=
  if !d.domUp 1 then d
  else if wBits w 31 16 ≠ 0xA5C3 ∨ ¬ d.secureOrHost who then d.refuseWrite who Reg.sysResetCtrl
  else
    let sec := d.secure who
    let d := d.rsvd who Reg.sysResetCtrl w
    let d := if sec then (List.range 7).foldl (fun d i => d.coreHold (w.toNat.testBit (i + 1)) (i + 1)) d else d
    if w.toNat.testBit 8 then d.reset' (if who = .host then 3 else 2) else d

/-- SYS_RESET_CTRL with SYS = 1. -/
def execSysResetCtrlSys (who : Initiator) (w : Word) (s : State) : Host.Outcome State Fault Refusal :=
  s.run (sysResetCtrlWrite who (w ||| 0x100#32))

/-- SYS_RESET_CTRL with SYS = 0. -/
def execSysResetCtrlCoreHold (who : Initiator) (w : Word) (s : State) : Host.Outcome State Fault Refusal :=
  s.run (sysResetCtrlWrite who (w &&& 0xFFFFFEFF#32))

/-- PE_PERST_N, a hot reset or a lost link: the endpoint and the host interface reset (R44, R46). -/
def execPciExpressReset (s : State) : Host.Outcome State Fault Refusal := s.run Dev.pcieReset

/-- What the endpoint's configuration space reads; the identifiers that OTP gives are constants of Config (R289). -/
inductive ConfigField where
  | vendorId
  | subsystemVendorId
  | subsystemId
  | deviceId
  | revisionId
  | classCode
  | msixVectors
  | maxPayload
  | maxReadRequest
  deriving DecidableEq, Repr

/-- A field of the endpoint's configuration space. No write of the host changes one (R289). -/
def configRead : ConfigField → Nat
  | .vendorId => Config.pcieVendor % 2 ^ 16
  | .subsystemVendorId => Config.pcieSubsystem 0 % 2 ^ 16
  | .subsystemId => Config.pcieSubsystem 1 % 2 ^ 16
  | .deviceId => 0x1024
  | .revisionId => 0x11
  | .classCode => 0x0D8000
  | .msixVectors => 64
  | .maxPayload => 256
  | .maxReadRequest => 512

/-- The link comes up, with the MSI-X enable and Bus Master Enable that the host's configuration writes leave
(R52, R289). -/
def pcieLinkUp (msix master : Bool) (d : Dev) : Dev :=
  if d.domUp 26 then
    { d with
      pins := { d.pins with pcieLinkUp := true }
      msix := { d.msix with enabled := msix, busMaster := master } }
  else d

def execPcieLinkUp (msix master : Bool) (s : State) : Host.Outcome State Fault Refusal := s.run (pcieLinkUp msix master)

/-- A rail `r` of SYS_SUPPLY_STATUS.GOOD falls below its good level (R427). -/
def railBrownOut (r : Nat) (d : Dev) : Dev :=
  if 7 ≤ r then d
  else
    let d := d.wr Fld.sysSupplyStatus_good (clrBitN (d.rd Fld.sysSupplyStatus_good) r)
    if r = 0 then ({ d with pins := { d.pins with aonGood := false } } : Dev).cutBits.powerOnReset
    else if d.pins.porstLow then d
    else d.reset' 4

def execRailBrownOut (r : Nat) (s : State) : Host.Outcome State Fault Refusal := s.run (railBrownOut r)

/-! Boot images (R49, R50). -/

def hdrLength (h : List Byte) : Nat := leAt h 8 4
def hdrSections (h : List Byte) : Nat := leAt h 6 2

/-- Section entry `i` of a header: DEST, LENGTH, OFFSET, FLAGS (Table 03.10). -/
def imgSection (h : List Byte) (i : Nat) : Nat × Nat × Nat × Nat :=
  let a := 0x60 + 16 * i
  (leAt h a 4, leAt h (a + 4) 4, leAt h (a + 8) 4, leAt h (a + 12) 4)

/-- Checks 1 and 2 of R50 on the 352-byte header: 0, or the code of Table 03.11. -/
def headerCode (h : List Byte) : Nat :=
  let n := hdrSections h
  let l := hdrLength h
  let entry := leAt h 0x14 4
  if leAt h 0 4 ≠ 0x5A4EB007 ∨ leAt h 4 2 ≠ 1 then 0x20
  else if n = 0 ∨ 16 < n ∨ l % 16 ≠ 0 ∨ l < 0x1A0 ∨ 0x1C0000 < l ∨ 3 < leAt h 0x10 1 ∨ 3 < leAt h 0x11 1
      ∨ leAt h 0x12 2 ≠ 0 ∨ 0x10000 ≤ entry ∨ entry % 4 ≠ 0 ∨ leAt h 0x18 8 ≠ 0
      ∨ leAt h (0x60 + 16 * n) (16 * (16 - n)) ≠ 0
      ∨ (List.range n).any (fun i => decide (2 ≤ (imgSection h i).2.2.2)) then 0x21
  else 0

/-- DEST and LENGTH lie in one core memory, or in BLB (Table 03.10, R231). -/
def sectionDestOk (a n : Nat) : Bool :=
  if 0x10800000 ≤ a then decide (a + n ≤ 0x10980000)
  else
    match areaOf a n with
    | some m => decide (0x04000000 ≤ m.base) && decide (m.base < 0x04800000)
    | none => false

/-- A section entry obeys Table 03.10. -/
def sectionOk (l : Nat) (e : Nat × Nat × Nat × Nat) : Bool :=
  let (dest, len, off, flags) := e
  len % 4 = 0 && sectionDestOk dest len && (flags = 1 || (decide (0x160 ≤ off) && decide (off + len ≤ l - 64)))

/-- Key-hash slot `k` is revoked: its revocation word is programmed, or its pair is not valid. -/
def Dev.keyRevoked (d : Dev) (k : Nat) : Bool :=
  !d.pairValid (Fuse.hash k 16) (Fuse.hash k 17) || d.fuse (Fuse.hash k 16) != 0

/-- Key-hash slot `k` holds the digest `g` in eight valid pairs (R50, R426). -/
def Dev.keyHashIs (d : Dev) (k : Nat) (g : List Byte) : Bool :=
  (List.range 8).all fun i =>
    d.pairValid (Fuse.hash k i) (Fuse.hash k (8 + i)) && d.fuse (Fuse.hash k i) = beAt g (4 * i) 4

/-- Check 3: the key. In BLANK the provisioning key, and only from a host image (R50). -/
def Dev.keyCode (d : Dev) (h : List Byte) : Dev × Nat :=
  let g := sha256 (slice h 0x20 64)
  let sel := d.rd Fld.sysStrap_bootSel
  if d.lcOf = some 0 then
    if sel = 1 ∨ sel = 2 then (d, if beNat g = Config.provisioningHash then 0 else 0x22)
    else
      let r := d.free 8
      (r.2, 0x20 + r.1 % 7)
  else
    let k := leAt h 0x10 1
    (d, if d.keyHashIs k g && !d.keyRevoked k then 0 else 0x22)

/-- Checks 4 to 6 of R50 on the whole image. -/
def Dev.imageCode (d : Dev) (img : List Byte) : Nat :=
  let l := hdrLength img
  let svn := leAt img 0xC 4
  if d.lcOf ≠ some 0 ∧ ¬ (d.pairValid Fuse.svn Fuse.svnC ∧ d.fuse Fuse.svn ≤ svn) then 0x24
  else if !ecdsaVerify (slice img 0x20 64) (sha256 (img.take (l - 64))) (slice img (l - 64) 64) then 0x23
  else if (List.range (hdrSections img)).all fun i => sectionOk l (imgSection img i) then 0
  else 0x25

/-- The checks of R50 in their order; the header checks were made when the header was read. -/
def Dev.checkImage (d : Dev) (img : List Byte) : Dev × Nat :=
  let c := headerCode img
  if c ≠ 0 then (d, c)
  else
    let r := d.keyCode img
    if r.2 ≠ 0 then r else (r.1, r.1.imageCode img)

/-- Domains of the memories that the sections of an image go to (Table 03.10). -/
def sectionDomains (img : List Byte) : List Nat :=
  (List.range (hdrSections img)).flatMap fun i =>
    match areaOf (imgSection img i).1 (imgSection img i).2.1 with
    | some m => [m.dom]
    | none => []

/-- The image passed: its sections are copied next, and V0 votes the domains of their destinations up. DESIGN CHOICE: the
spec does not say how the ROM reaches a destination whose domain is off; the votes stay (R48). -/
def Dev.acceptImage (d : Dev) (img : List Byte) : Dev :=
  let d := ({ d with boot := { d.boot with
      phase := .copying, entry := leAt img 0x14 4, imageLength := hdrLength img, svn := leAt img 0xC 4 } } : Dev).bootCode 0x01
  (d.setVotes 0 ((sectionDomains img).foldl (fun m n => m ||| voteBit n) (d.reg Reg.pwrVoteV).toNat)).settle

/-- One more image is checked, from a slot of SYS_BOOT_STATUS.SLOT (R53). -/
def Dev.bootAttempt (d : Dev) (slot : Nat) : Dev := (d.bump Fld.sysBootStatus_attempts).wr Fld.sysBootStatus_slot slot

/-- The ROM's flash set-up (R323, Table 03.9): a slot header is read at DIV 16; the image at the DIV, the lanes and the
edges of CSPM_MODE `mode`, set in profile 1 beside the bytes of profile 0. -/
def Dev.romFlash (d : Dev) (mode : Option Nat) : Dev :=
  let p : Nat × Nat × Nat := match mode with
    | some 0 => (16, 0, 0)
    | some 1 => (4, 2, 0)
    | some 2 => (3, 3, 0)
    | some _ => (4, 3, 1)
    | none => (16, 0, 0)
  let d := d.wr Fld.cspMClk_div p.1
  if mode.isNone then d
  else d.setReg (Reg.cspMFmt + 4) (BitVec.ofNat 32 (0x02000061 + p.2.1 * 2 ^ 22 + p.2.2 * 2 ^ 24))

/-- Slot A fails and slot B is tried, or slot B fails and the boot halts (R52). -/
def Dev.slotFail (d : Dev) (slot c : Nat) : Dev :=
  if slot = 1 then
    { (d.wr Fld.sysBootStatus_codeA c).romFlash none with boot := { d.boot with phase := .header 2 } }
  else d.bootHalt c

/-- A host or peer image fails: the code is reported and INT_N pulsed; the third one halts (R52). -/
def Dev.imageFail (d : Dev) (c : Nat) : Dev :=
  let d := { d with boot := { d.boot with failed := d.boot.failed + 1, peerImage := [], peerFrom := none } }
  if 3 ≤ d.boot.failed then d.bootHalt c
  else ({ d.bootCode c with pins := { d.pins with intPulse := true } } : Dev).bootRequest

/-- A host or peer image of `l` octets in the packet buffer is checked (R50, R52). -/
def Dev.checkBuffer (d : Dev) (l : Nat) : Dev :=
  let d := d.bootAttempt 3
  let h := d.bytes pktBase 352
  let c := headerCode h
  if c ≠ 0 then d.imageFail c
  else if l ≠ hdrLength h then d.imageFail 0x21
  else
    let img := d.bytes pktBase l
    let r := d.checkImage img
    if r.2 = 0 then r.1.acceptImage img else r.1.imageFail r.2

/-! Steps of Table 03.8. -/

/-- A rail is not good 10 ms after step 2 began (R48). -/
def bootSupplyTimeout (d : Dev) : Dev :=
  if d.boot.phase = .supplies && !d.allRailsGood then d.bootHalt 0x11 else d

def execBootSupplyTimeout (s : State) : Host.Outcome State Fault Refusal := s.run bootSupplyTimeout

/-- Failing rows are remapped in turn; answers those for which no spare was left (R424, R425). -/
def Dev.remapRows (d : Dev) : List Nat → Dev × List Nat
  | [] => (d, [])
  | r :: rs =>
    let x := d.remapRow r
    let y := x.1.remapRows rs
    (y.1, if x.2 then y.2 else r :: y.2)

/-- Packet-buffer addresses. -/
def isPacketBuffer (a : Nat) : Bool := decide (pktBase ≤ a) && decide (a < pktBase + 0x200000)

/-- Step 4 ends (R48): unrepairable rows halt the boot, else the source of BOOT_SEL is read. A wake start keeps the
contents of the buffer (R75). `failing`: rows of the packet buffer that failed the self-test. -/
def packetBufferSelfTestDone (failing : List Nat) (d : Dev) : Dev :=
  if d.boot.phase = .packetTest && d.domUp 23 then
    let r := d.remapRows (failing.map (rowRes 32))
    if !r.2.isEmpty then r.1.bootHalt 0x15
    else
      let d := if d.boot.wake then r.1 else r.1.clearMem isPacketBuffer
      match d.rd Fld.sysStrap_bootSel with
      | 0 => { d.romFlash none with boot := { d.boot with phase := .header 1 } }
      | 3 => ({ d.bootCode 0x02 with boot := { d.boot with phase := .waitPeer } } : Dev).bootRequest
      | _ => { d.bootCode 0x02 with boot := { d.boot with phase := .waitHost } }
  else d

def execPacketBufferSelfTestDone (failing : List Nat) (s : State) : Host.Outcome State Fault Refusal :=
  s.run (packetBufferSelfTestDone failing)

/-- The 352-byte header of a flash slot has been read (R48, R50, R52). -/
def bootHeaderReadDone (hdr : List Byte) (d : Dev) : Dev :=
  match d.boot.phase with
  | .header slot =>
    let d := d.bootAttempt slot
    let c := headerCode (padTo 352 hdr)
    if c = 0 then
      { d.romFlash (some (leAt hdr 0x011 1)) with boot := { d.boot with phase := .image slot } }
    else d.slotFail slot c
  | _ => d

def execBootHeaderReadDone (hdr : List Byte) (s : State) : Host.Outcome State Fault Refusal := s.run (bootHeaderReadDone hdr)

/-- The image of a flash slot has been read into the packet buffer (R48, R50). -/
def bootImageReadDone (image : List Byte) (d : Dev) : Dev :=
  match d.boot.phase with
  | .image slot =>
    let d := d.setBytes pktBase (image.take 0x1C0000)
    let r := d.checkImage image
    if r.2 = 0 then r.1.acceptImage image else r.1.slotFail slot r.2
  | _ => d

def execBootImageReadDone (image : List Byte) (s : State) : Host.Outcome State Fault Refusal := s.run (bootImageReadDone image)

/-- CSPM_RDY low for TIMEOUT: the ROM's slot gives BOOT_SOURCE_TIMEOUT, or the running request stops (R52, R324). -/
def cspmRdyTimeout (d : Dev) : Dev :=
  match d.boot.phase with
  | .header slot => d.slotFail slot 0x26
  | .image slot => d.slotFail slot 0x26
  | _ => d.cspmTimeout

def execCspmRdyTimeout (s : State) : Host.Outcome State Fault Refusal := s.run cspmRdyTimeout

/-- A write of SYS_BOOT_DOORBELL: the image that the host wrote to the packet buffer is checked (R52). -/
def sysBootDoorbell (who : Initiator) (w : Word) (d : Dev) : Dev :=
  if d.boot.phase = .waitHost && decide (who = .host) && d.domUp 1 && d.domUp 23 then d.checkBuffer w.toNat else d

def execSysBootDoorbell (who : Initiator) (w : Word) (s : State) : Host.Outcome State Fault Refusal :=
  s.run (sysBootDoorbell who w)

/-- The 10 µs pulse of INT_N ends; a ROM that still waits shows BOOT_WAIT_HOST again (R52). -/
def intNPulseEnd (d : Dev) : Dev :=
  if !d.pins.intPulse then d
  else
    let d := { d with pins := { d.pins with intPulse := false } }
    match d.boot.phase with
    | .waitHost => d.bootCode 0x02
    | .waitPeer => d.bootCode 0x02
    | _ => d

def execIntNPulseEnd (s : State) : Host.Outcome State Fault Refusal := s.run intNPulseEnd

/-- A BOOT_DATA message reaches the waiting ROM: the first member that answers supplies the image (R283). -/
def bootData (h : BmHdr) (offset : Nat) (data : List Byte) (d : Dev) : Dev :=
  let known : Bool := d.boot.peerFrom.isNone || d.boot.peerFrom = some (bmFrom h)
  if d.boot.phase = .waitPeer && d.domUp 27 && h.formatOk && known && !data.isEmpty && decide (data.length ≤ 2048)
      && offset = d.boot.peerImage.length then
    let img := d.boot.peerImage ++ data
    let d := d.setBytes (pktBase + offset) data
    let d := { d.bootCode 0x02 with boot := { d.boot with peerImage := img, peerFrom := some (bmFrom h) } }
    if img.length < 352 then d.bootRequest
    else if headerCode img = 0 && decide (img.length < hdrLength img) then d.bootRequest
    else d.checkBuffer (hdrLength img)
  else d

def execBootData (h : BmHdr) (offset : Nat) (data : List Byte) (s : State) : Host.Outcome State Fault Refusal :=
  s.run (bootData h offset data)

/-- No peer has answered for 30 s: the code shows it and the request is repeated (R52). -/
def bootPeerTimeout (d : Dev) : Dev :=
  if d.boot.phase = .waitPeer then
    ({ d.bootCode 0x26 with boot := { d.boot with peerImage := [], peerFrom := none } } : Dev).bootRequest
  else d

def execBootPeerTimeout (s : State) : Host.Outcome State Fault Refusal := s.run bootPeerTimeout

/-- One section is copied from the packet buffer, or its destination filled with zeros (Table 03.10). -/
def Dev.copySection (d : Dev) (e : Nat × Nat × Nat × Nat) : Dev :=
  let (dest, len, off, flags) := e
  d.setBytes dest (if flags = 1 then List.replicate len 0 else d.bytes (pktBase + off) len)

/-- The sections are in place, once the memories that take them are up (R48, step 8). -/
def bootSectionsCopied (d : Dev) : Dev :=
  let h := d.bytes pktBase 352
  if d.boot.phase = .copying && (sectionDomains h).all d.domUp then
    let d := (List.range (hdrSections h)).foldl (fun d i => d.copySection (imgSection h i)) d
    { d with boot := { d.boot with phase := .copied } }
  else d

def execBootSectionsCopied (s : State) : Host.Outcome State Fault Refusal := s.run bootSectionsCopied

/-- The background self-test runs: the packet buffer's is done and firmware has not been entered (R48). -/
def BootPhase.selfTests (p : BootPhase) : Bool :=
  match p with
  | .header _ => true
  | .image _ => true
  | .waitHost => true
  | .waitPeer => true
  | .copying => true
  | .copied => true
  | _ => false

/-- The background self-test ends (R48, step 9). `failing`: resources of the rows that failed. -/
def bootSelfTestDone (failing : List Nat) (d : Dev) : Dev :=
  if d.boot.phase.selfTests && !d.boot.selfTested then
    let r := d.remapRows failing
    if r.2.any (fun x => decide (33 ≤ resMem x) && decide (resMem x ≤ 35)) then r.1.bootHalt 0x15
    else
      let d := if r.2.isEmpty then r.1 else r.1.wr Fld.sysBootStatus_degraded 1
      { d with boot := { d.boot with selfTested := true } }
  else d

def execBootSelfTestDone (failing : List Nat) (s : State) : Host.Outcome State Fault Refusal := s.run (bootSelfTestDone failing)

/-- C0 enters firmware at ENTRY in the secure state, once the sections are in place and the self-test has ended
(R48, step 10). -/
def bootFirmwareEntry (d : Dev) : Dev :=
  if d.boot.phase = .copied && d.boot.selfTested && d.domUp 2 then
    let d := { d.bootCode 0x00 with boot := { d.boot with phase := .entered } }
    (d.setCore 0 { coreReset 0 with pc := d.boot.entry % 65536 / 4 * 4, run := .run }).startupCal
  else d

def execBootFirmwareEntry (s : State) : Host.Outcome State Fault Refusal := s.run bootFirmwareEntry

end Sys2Proof.Machine
end

