-- ==== Sys2Proof/Machine/RegRead.lean ====
section
/-! DEFINITION. Reads of the control space (R6, R8, R24, R429): values that the device computes at the read, cleared
RC fields, latched high words, and the claim registers. -/

namespace Sys2Proof.Machine

open Sys2Proof

/-- STATE of PWR_DOM_STATUSn (Table 04.6). -/
def DomainState.code (st : DomainState) : Nat :=
  match st with
  | .off => 0
  | .poweringUp => 1
  | .on => 2
  | .draining => 3
  | .isolating => 4
  | .switchingOff => 5
  | .ret => 6

/-- PENDING of PWR_DOM_STATUSn (Table 04.6). -/
def PendingSlot.code (p : PendingSlot) : Nat :=
  match p with
  | .none => 0
  | .up => 1
  | .down => 2

/-- PWR_DOM_STATUSn (R65). -/
def Dev.domStatus (d : Dev) (n : Nat) : Nat :=
  if 30 ≤ n then 0
  else
    let m := d.dom n
    m.st.code + m.pend.code * 16 + b2n (d.implicit n) * 64 + b2n m.supplyWait * 128

/-- PWR_VOTE_TALLY (R61). -/
def Dev.tallyWord (d : Dev) : Nat := (List.range 29).foldl (fun w k => if d.tally (k + 1) then setBitN w (k + 1) else w) 1

/-- STATE of SYS_CORE_STATUSn (R336): OFF while its domain is not up. -/
def Dev.coreState (d : Dev) (n : Nat) : Nat :=
  if !d.domUp (n + 2) then 0
  else
    match (d.core n).run with
    | .held => 1
    | .run => 2
    | .wait => 3
    | .stopped => 4

/-- SYS_CORE_STATUSn (R336). -/
def Dev.coreStatus (d : Dev) (n : Nat) : Nat :=
  let c := d.core n
  let st := d.coreState n
  if st = 0 then 0
  else
    st + b2n (c.status.toNat.testBit 2) * 16 + b2n (c.status.toNat.testBit 1) * 32 + (c.lastCause % 16) * 256
      + (c.stopPc % 65536) * 65536

/-- RFS_CHAIN_STATE (R100). -/
def Dev.chainStates (d : Dev) : Nat := (List.range 10).foldl (fun w i => w + d.chainShown i * 8 ^ i) 0

/-- RFS_LO_STATUS: an LO whose domain is not up shows no lock (R68, R98). -/
def Dev.loStatus (d : Dev) : Word :=
  let locked := (List.range 6).foldl (fun w lo =>
    if d.domUp (loDomain lo) && (d.lo lo).lock.isSome then setBitN w lo else w) 0
  putBits (d.reg Reg.rfsLoStatus) 0 6 locked

/-- KEY_SLOTn_ATTR: POOL follows KEY_POOL (R379, R383). -/
def Dev.slotAttr (d : Dev) (n : Nat) : Word := putBits (d.reg (Reg.keySlotAttr + 4 * n)) 27 1 (b2n (d.inPool n))

/-- Index of element `a` in the array of `n` words, `stride` bytes apart, that begins at `base`. -/
def elemOf (a base stride n : Nat) : Option Nat :=
  if base ≤ a && decide (a < base + stride * n) && (a - base) % stride = 0 then some ((a - base) / stride) else none

/-- The value of the register at `a` as a read returns it, before the effects of the read. -/
def Dev.peek (d : Dev) (a : Nat) : Word :=
  let w (n : Nat) : Word := BitVec.ofNat 32 n
  match (a - 0x20000000) / 0x10000 with
  | 0x0 =>
    match elemOf a Reg.sysCoreStatus 4 8 with
    | some n => w (d.coreStatus n)
    | none => d.reg a
  | 0x1 =>
    if a = Reg.pwrVoteTally then w d.tallyWord
    else if a = Reg.pwrPadRelease then
      w ((List.range 7).foldl (fun m b => if (d.pins.held.getD b none).isSome then setBitN m b else m) 0)
    else
      match elemOf a Reg.pwrVoteV 4 20, elemOf a Reg.pwrDomStatus 4 32 with
      | some n, _ => w (d.clientVotes n)
      | none, some n => w (d.domStatus n)
      | none, none => d.reg a
  | 0x3 =>
    if a = Reg.rfsChainState then w d.chainStates
    else if a = Reg.rfsLoStatus then d.loStatus
    else d.reg a
  | 0x6 =>
    match elemOf a Reg.regDutyBudget 16 8 with
    | some e => w (d.dutyBudget e)
    | none => d.reg a
  | 0x7 =>
    if a = Reg.lnkTschAsnLo then w d.tempo.tsch.asn
    else if a = Reg.lnkTschAsnHi then w (d.tempo.tsch.asn / 2 ^ 32 % 256)
    else
      match elemOf a Reg.lnkLockStat 4 5 with
      | some p => putBits (d.reg a) 24 2 (min 3 (d.lockWindow p).length)
      | none => d.reg a
  | 0x8 =>
    if a = Reg.ndtStatus0 then w (d.ndtStatus 0)
    else if a = Reg.ndtStatus1 then w (d.ndtStatus 1)
    else if a = Reg.ndtStatus2 then w (d.ndtStatus 2)
    else d.reg a
  | 0x9 => if a = Reg.fedStatus then putBits (d.reg a) 8 1 (b2n d.gate.isOpen) else d.reg a
  | 0xA => if a = Reg.hciStatus then d.hciStatusRead else d.reg a
  | 0xC => if a = Reg.evrGpioIn then w d.pins.gpioIn else d.reg a
  | 0xD =>
    match elemOf a Reg.irqCfg 4 256 with
    | some n => d.irqCfgRead n
    | none => d.reg a
  | 0xE =>
    match elemOf a Reg.keySlotAttr 4 512 with
    | some n => d.slotAttr n
    | none => d.reg a
  | 0xF =>
    if a = Reg.cphQstat then w d.cphQstat
    else if a = Reg.cphEng then w (d.cphEng 0)
    else if a = Reg.cphEng + 4 then w (d.cphEng 1)
    else d.reg a
  | 0x13 => if a = Reg.tmbLo then w d.tmb else if a = Reg.tmbHi then w (d.tmb / 2 ^ 32) else d.reg a
  | _ => d.reg a

/-- The HI register of the pair whose LO register is at `a` (R8, R429). -/
def hiOf (a : Nat) : Option Nat :=
  let arr (base stride n : Nat) : Bool := (elemOf a base stride n).isSome
  if a = Reg.pwrWakeTimeLo || a = Reg.lnkEuiLo || a = Reg.lnkTschAsn0Lo || a = Reg.lnkTschT0Lo || a = Reg.lnkTschAsnLo
      || a = Reg.fedGroupMacLo || a = Reg.hciAdminSqLo || a = Reg.hciAdminCqLo || a = Reg.tmbLo
      || arr Reg.evrCapLo 8 8 || arr Reg.hciQBaseLo 32 128 || arr Reg.hciQBufLo 32 128 then
    some (a + 4)
  else none

/-- A read of the register at `a`: RC fields clear, the LO of a pair latches its HI, the next read of HI returns the
latched word, and a claim clears its interrupt (R6, R8, R375, R429). -/
def Dev.regRead (d : Dev) (who : Initiator) (a : Nat) : Dev × Word :=
  match elemOf a Reg.irqClaimR 4 8 with
  | some n => let r := d.irqClaim who n; (r.1, BitVec.ofNat 32 r.2)
  | none =>
    match alGet a d.latch with
    | some v => ({ d with latch := alDel a d.latch }, v)
    | none =>
      let v := d.peek a
      let d := match hiOf a with
        | some h => { d with latch := alSet h (d.peek h) d.latch }
        | none => d
      match regAt a with
      | some (r, _) =>
        if r.rc = 0 then (d, v)
        else (d.setReg a (BitVec.ofNat 32 ((d.reg a).toNat &&& (0xFFFFFFFF ^^^ r.rc))), v)
      | none => (d, v)

end Sys2Proof.Machine
end

