-- ==== Sys2Proof/Machine/RegWrite.lean ====
section
/-! DEFINITION. Writes of the control space, block by block: who may write a register, which values are reserved and
reject the write (R7), and what the write does. Every write here reaches a register whose domain is up. -/

namespace Sys2Proof.Machine

open Sys2Proof

/-- A plain write that only `ok` writers may make; from another writer it is refused. -/
def Dev.plainBy (d : Dev) (ok : Bool) (who : Initiator) (a : Nat) (w : Word) : Dev :=
  if ok then d.plainWrite who a w else d.refuseWrite who a

/-- A write that only `ok` writers may make and that a reserved value rejects as a whole. -/
def Dev.checkedBy (d : Dev) (ok reserved : Bool) (who : Initiator) (a : Nat) (w : Word) : Dev :=
  if !ok then d.refuseWrite who a else if reserved then d.rejectWrite who a else d.plainWrite who a w

/-- SYS and boot registers (chapter 03). -/
def Dev.sysWrite (d : Dev) (who : Initiator) (a : Nat) (w : Word) : Dev :=
  if a = Reg.sysResetCtrl then sysResetCtrlWrite who w d
  else if a = Reg.sysBootDoorbell then sysBootDoorbell who w d
  else if a = Reg.sysCompat then d.plainBy (d.secureOrHost who) who a w
  else d.plainWrite who a w

/-- PWR registers (chapter 04). -/
def Dev.pwrWrite (d : Dev) (who : Initiator) (a : Nat) (w : Word) : Dev :=
  if a = Reg.pwrVoteSet then pwrVoteSet who w d
  else if a = Reg.pwrVoteClr then pwrVoteClr who w d
  else if a = Reg.pwrDrainMax then d.checkedBy true (wBits w 15 0 = 0) who a w
  else if a = Reg.pwrPadRelease then pwrPadRelease who w d
  else if a = Reg.pwrWakeCfg then ((wakeTimerCompare (d.catchUp.plainWrite who a w)).levelWakes).settleAll
  else if a = Reg.pwrWakeCause then (d.plainWrite who a w).levelWakes
  else if a = Reg.pwrWurxCfg then
    d.checkedBy true (!w.toNat.testBit 0 && (decide (wBits w 13 8 < 11) || decide (26 < wBits w 13 8))) who a w
  else if a = Reg.pwrWakeTimeHi then pwrWakeTimeHiWrite w d
  else if a = Reg.pwrWatchCtrl then pwrWatchCtrlWrite who w d
  else if a = Reg.pwrWatchPeriod then
    d.checkedBy true (decide (wBits w 23 0 < 1000) || decide (10000000 < wBits w 23 0)) who a w
  else if a = Reg.pwrWatchDwell then
    d.checkedBy true (decide (wBits w 11 0 < 128) || decide (4000 < wBits w 11 0)) who a w
  else
    match elemOf a Reg.pwrVoteV 4 32, elemOf a Reg.pwrWatchCh 4 4 with
    | some n, _ => pwrVoteVnWrite who n w d
    | none, some _ => d.checkedBy true (wBits w 10 9 = 3) who a w
    | none, none => d.plainWrite who a w

/-- RFS registers (chapter 05). -/
def Dev.rfsWrite (d : Dev) (who : Initiator) (a : Nat) (w : Word) : Dev :=
  if a = Reg.rfsCalCmd then d.rfsCalCmd who w
  else if a = Reg.rfsCalCtrl then
    d.checkedBy true (decide (wBits w 31 16 < 100) || decide (2000 < wBits w 31 16) || wBits w 15 8 = 0
      || decide (20 ≤ wBits w 15 8)) who a w
  else if a = Reg.rfsTxLead then d.checkedBy true (decide (wBits w 5 0 < 8) || decide (28 < wBits w 5 0)) who a w
  else if a = Reg.rfsPwrComp then d.plainBy (d.secure who) who a w
  else
    match elemOf a Reg.rfsCalEntry 4 162, elemOf a Reg.rfsPwrCal 4 16, elemOf a Reg.rfsPwrTrim 4 4 with
    | some n, _, _ =>
      if !d.secure who then d.refuseWrite who a
      else if n < 34 && wBits w 19 12 != 0 then d.rejectWrite who a
      else (d.plainWrite who a w).loFailed (loOfEntry n)
    | none, some _, _ => d.plainBy (d.secure who) who a w
    | none, none, some n =>
      let d := d.plainWrite who a w
      if w.toNat.testBit 8 then d else d.wr Fld.rfsPwrTrim_trim 0 n
    | none, none, none => d.plainWrite who a w

/-- A channel configuration word takes `w`; what a running lane still uses of the old word is kept until the change
takes effect (R124). -/
def Dev.chanWrite (d : Dev) (who : Initiator) (a : Nat) (w : Word) : Dev :=
  let old := d.reg a
  let d := d.plainWrite who a w
  let m : Nat := 0xFFFFFCE0
  if old.toNat &&& m = (d.reg a).toNat &&& m || (alGet a d.rxw.oldCfg).isSome then d
  else { d with rxw := { d.rxw with oldCfg := alSet a old d.rxw.oldCfg } }

/-- RXW registers (chapter 06). -/
def Dev.rxwWrite (d : Dev) (who : Initiator) (a : Nat) (w : Word) : Dev :=
  let margin : Bool := decide (24 < wBits w 4 0)
  if a = Reg.rxwLaneCtrl then
    d.checkedBy true (decide (64 < wBits w 6 0) || decide (32 < wBits w 13 8)) who a w
  else if a = Reg.rxwSubCfg then
    if 2 < wBits w 6 4 || !d.modeCarried (wBits w 6 4) then d.rejectWrite who a else subModeEffect (d.plainWrite who a w)
  else
    match elemOf a Reg.rxwGainCfg 4 2, elemOf a Reg.rxwCh24 4 16, elemOf a Reg.rxwChs 4 64 with
    | some b, _, _ => rxwGainCfgWrite who b w d
    | none, some _, _ => if margin then d.rejectWrite who a else d.chanWrite who a w
    | none, none, some i =>
      let c := d.centre true i
      let lob : Nat := if d.region.band = 1 then 915000 else 869500
      let far : Bool := decide (lob + 12800 < c) || decide (c + 12800 < lob)
      if margin || (w.toNat.testBit 10 && (!d.idxDefined i || far)) then d.rejectWrite who a else d.chanWrite who a w
    | none, none, none => d.plainWrite who a w

/-- TXP registers (chapters 07 and 08). -/
def Dev.txpWrite (d : Dev) (who : Initiator) (a : Nat) (w : Word) : Dev :=
  let sec := d.secure who
  if a < Reg.txpFemcIdle then
    let n := (a - Reg.txpFemcOwn) / 4
    let own := wBits w 15 0
    let taken := (List.range 4).any fun k => k != n && (own &&& d.rd Fld.txpFemcOwn_own k) != 0
    d.checkedBy sec ((wBits w 31 16 &&& (0xFFFF ^^^ own)) != 0 || taken) who a w
  else if a < Reg.txpMaskCtrl then d.plainBy sec who a w
  else if a < Reg.txpMaskStatus then d.checkedBy sec (wBits w 11 8 = 0) who a w
  else if a < Reg.txpShapeCtrl0 then d.plainBy sec who a w
  else
    match elemOf a Reg.txpShapeCtrl0 4 4, elemOf a Reg.txpSunCfg0 4 2 with
    | some n, _ => (d.rsvd who a w).shapeCtrlWrite who n w
    | none, some _ => d.checkedBy true (decide (wBits w 5 0 < 4) || decide (32 < wBits w 5 0)) who a w
    | none, none =>
      let n := (a - Reg.txpShape0T) / 0x200
      let t := (a - Reg.txpShape0T) % 0x200 / 0x80
      if d.shapePending n t then d.refuseWrite who a else d.plainWrite who a w

/-- REG registers (chapter 08). -/
def Dev.regionWrite (d : Dev) (who : Initiator) (a : Nat) (w : Word) : Dev :=
  if a = Reg.regProgCmd then d.regProgCmd who (d.secure who) w
  else if (elemOf a Reg.regStageW 4 32).isSome then (d.plainWrite who a w).regStatusUpdate
  else d.plainWrite who a w

/-- LNK registers (chapters 09 and 10). -/
def Dev.lnkWrite (d : Dev) (who : Initiator) (a : Nat) (w : Word) : Dev :=
  let ok := d.secureOrHost who
  if a = Reg.lnkCfg || a = Reg.lnkAckPwr || (elemOf a Reg.lnkId 4 4).isSome then d.plainBy ok who a w
  else if a = Reg.lnkSlpCfg then
    let bad : Bool := decide (wBits w 31 16 < 100) || wBits w 11 8 = 0 || decide (7 < wBits w 11 8)
    if ok && !bad then (d.catchUp.plainWrite who a w).serviceUpdate.settleAll else d.checkedBy ok bad who a w
  else if a = Reg.lnkSlpGuard then
    d.checkedBy ok (decide (wBits w 27 16 < 20) || decide (wBits w 15 0 < 500)
      || decide (wBits w 15 0 ≤ wBits w 27 16)) who a w
  else if a = Reg.lnkSlpDrift then d.checkedBy ok (wBits w 7 0 = 0) who a w
  else if a = Reg.lnkSlpLost then
    d.checkedBy ok (wBits w 31 16 = 0 || wBits w 7 4 = 0 || wBits w 3 0 = 0) who a w
  else if a = Reg.lnkSlpPend then d.checkedBy ok (wBits w 19 16 = 0 || decide (wBits w 13 0 < 200)) who a w
  else if Reg.lnkSlpCfg ≤ a && decide (a < Reg.lnkSlpCfg + 0x40) then d.plainBy ok who a w
  else if a = Reg.lnkTschCtrl then lnkTschCtrlWrite who w d
  else if a = Reg.lnkTschT0Hi then lnkTschT0HiWrite who w d
  else
    match elemOf a Reg.lnkSlotW0 16 512, elemOf a Reg.lnkSlotW1 16 512, elemOf a Reg.lnkCellW0 8 1024,
        elemOf a Reg.lnkCellW1 8 1024 with
    | some _, _, _, _ =>
      let q := wBits w 22 16
      let kind := wBits w 2 1
      d.checkedBy true (decide (1 < kind) || !d.chanDefined (w.toNat.testBit 3) (wBits w 9 4)
        || (kind = 1 && (decide (q < 2) || decide (119 < q)))) who a w
    | none, some _, _, _ => d.checkedBy true (decide (w.toNat < 32000)) who a w
    | none, none, some _, _ => d.checkedBy true (w.toNat.testBit 31 && wBits w 26 25 = 0) who a w
    | none, none, none, some n =>
      let q := wBits w 22 16
      d.checkedBy true (d.is Fld.lnkCellW0_tx n && (decide (q < 2) || decide (119 < q))) who a w
    | none, none, none, none => d.plainWrite who a w

/-- NDT registers (chapter 11). -/
def Dev.ndtWrite (d : Dev) (who : Initiator) (a : Nat) (w : Word) : Dev :=
  if a = Reg.ndtCfg then d.checkedBy (d.secureOrHost who) (wBits w 10 8 = 0) who a w
  else if a = Reg.ndtOutSkip then d.checkedBy (d.secureOrHost who) (w = 0) who a w
  else if a = Reg.ndtCtrl then
    if !d.secure who || wBits w 31 16 != 0x4E44 || d.ndtBusy then d.refuseWrite who a
    else
      match wBits w 1 0 with
      | 0 => d.rsvd who a w
      | 1 => (d.rsvd who a w).ndtStart who .adopt
      | 2 => (d.rsvd who a w).ndtStart who .clear
      | _ => d.rejectWrite who a
  else d.plainWrite who a w

/-- FED registers (chapter 12). -/
def Dev.fedWrite (d : Dev) (who : Initiator) (a : Nat) (w : Word) : Dev :=
  let ok := d.secureOrHost who
  if a = Reg.fedCfg then fedCfgWrite who w d
  else if a = Reg.fedCtrl then fedCtrlStart who w d
  else if a = Reg.fedNet then
    d.checkedBy ok ((w.toNat.testBit 31 && (wBits w 27 16 = 0 || wBits w 27 16 = 0xFFF))
      || decide (wBits w 15 0 < 0x600)) who a w
  else if a = Reg.fedGroupMacLo then d.checkedBy ok (!w.toNat.testBit 0) who a w
  else if a = Reg.fedTimers then
    d.checkedBy ok (wBits w 15 0 = 0 || decide (wBits w 31 16 < 100) || decide (10000 < wBits w 31 16)) who a w
  else if a = Reg.fedGroupMacHi || (elemOf a Reg.fedAsym 4 2).isSome then d.plainBy ok who a w
  else d.plainWrite who a w

/-- HCI registers (chapter 13). -/
def Dev.hciWrite (d : Dev) (who : Initiator) (a : Nat) (w : Word) : Dev :=
  if a = Reg.hciCtrl then hciCtrlWrite who w d
  else if Reg.hciAdminSqLo ≤ a && decide (a ≤ Reg.hciAdminCfg) then hciAdminWrite who a w d
  else if Reg.hciQBaseLo ≤ a then (if who = .host then d.refuseWrite who a else d.plainWrite who a w)
  else d.plainWrite who a w

/-- CSP registers (chapter 14). -/
def Dev.cspWrite (d : Dev) (who : Initiator) (a : Nat) (w : Word) : Dev :=
  let sec := d.secure who
  if a = Reg.cspMCmd then
    if !sec then d.refuseWrite who a
    else if w.toNat.testBit 6 then
      let r := d.free 1
      start who w (r.1 = 1) r.2
    else if w.toNat.testBit 5 then cspmAbort who (d.plainWrite who a w)
    else d.plainWrite who a w
  else if a = Reg.cspMClk then d.checkedBy sec (decide (wBits w 7 0 < 3)) who a w
  else if a = Reg.cspMRdy then d.checkedBy sec (wBits w 15 0 = 0) who a w
  else if (elemOf a Reg.cspMSelTim 4 2).isSome then
    d.checkedBy sec (wBits w 23 16 = 0 || wBits w 15 8 = 0 || wBits w 7 0 = 0) who a w
  else if (elemOf a Reg.cspMFmt 4 8).isSome then
    d.checkedBy sec (decide (4 < wBits w 13 11) || decide (4 < wBits w 7 5) || wBits w 1 0 = 3) who a w
  else if a = Reg.cspSErr || a = Reg.cspSStat0 || a = Reg.cspSStat1 then d.plainWrite who a w
  else d.plainBy sec who a w

/-- EVR registers (chapter 16). -/
def Dev.evrWrite (d : Dev) (who : Initiator) (a : Nat) (w : Word) : Dev :=
  let ok := d.secureOrHost who
  if a = Reg.evrStorm then
    d.checkedBy (d.monitor who) (decide (wBits w 31 16 < 16) || wBits w 6 0 = 0 || decide (64 < wBits w 6 0)) who a w
  else if a = Reg.evrGpioPulse then d.checkedBy ok (wBits w 23 0 = 0) who a w
  else if a = Reg.evrFemcAct then d.plainBy (d.secure who) who a w
  else if Reg.evrGpioOut ≤ a && decide (a < Reg.evrGpioPulse) then d.plainBy ok who a w
  else
    match elemOf a Reg.evrEcCfg 8 64, elemOf a Reg.evrLuCfg 4 32, elemOf a Reg.evrTmrDelay 8 8,
        elemOf a Reg.evrTmrCtrl 8 8 with
    | some n, _, _, _ => evrEcnCfgWrite who n w d
    | none, some k, _, _ => evrLunCfgWrite who k w d
    | none, none, some _, _ => d.checkedBy ok (w = 0) who a w
    | none, none, none, some n => tmrCtrlWrite who n w d
    | none, none, none, none =>
      if (elemOf a Reg.evrTaskMode 4 8).isSome then d.plainBy ok who a w else d.plainWrite who a w

/-- IRQ registers (chapter 16). -/
def Dev.irqWrite (d : Dev) (who : Initiator) (a : Nat) (w : Word) : Dev :=
  if a = Reg.irqSgi then irqSgi who w d
  else
    match elemOf a Reg.irqCfg 4 256, elemOf a Reg.irqPend 4 8, elemOf a Reg.irqThresh 4 8 with
    | some n, _, _ => irqCfgWrite who n w d
    | none, some i, _ => irqPendWrite who i w d
    | none, none, some n => d.plainBy (decide (who = .core n) || d.secure who) who a w
    | none, none, none => d.plainWrite who a w

/-- KEY registers (chapter 17). -/
def Dev.keyWrite (d : Dev) (who : Initiator) (a : Nat) (w : Word) : Dev :=
  if a = Reg.keyCmd then d.keyCmdWrite who w
  else if a = Reg.keyMask then d.checkedBy (d.secure who) (wBits w 6 0 = 0 || decide (64 < wBits w 6 0)) who a w
  else if a = Reg.keyPool then keyPoolWrite who w d
  else if a = Reg.keyBlobCfg then keyBlobCfgWrite who w d
  else
    match elemOf a Reg.keySlotAttr 4 512 with
    | some n => keySlotAttrWrite who n w d
    | none => d.plainBy (d.secure who) who a w

/-- CPH registers (chapter 18). -/
def Dev.cphWrite (d : Dev) (who : Initiator) (a : Nat) (w : Word) : Dev :=
  if a = Reg.cphCfg then d.checkedBy (d.secureOrHost who) (wBits w 15 0 = 0) who a w
  else if a = Reg.cphNsWindow then
    d.checkedBy (d.secure who) (decide (512 < wBits w 25 16 + wBits w 8 0)) who a w
  else if a = Reg.cphDone then
    match who with
    | .core n =>
      if d.secure who then d.plainWrite who a w
      else (d.rsvd who a w).plainWrite who a (w &&& BitVec.ofNat 32 (2 ^ n))
    | _ => d.refuseWrite who a
  else if a = Reg.cphSubmitR then cphSubmit who (w.toNat / 32 * 32) (d.rsvd who a w)
  else d.plainWrite who a w

/-- ERR registers (chapter 19). -/
def Dev.errWrite (d : Dev) (who : Initiator) (a : Nat) (w : Word) : Dev :=
  if a = Reg.errThresh then d.checkedBy (d.secure who) (wBits w 31 16 = 0 || wBits w 7 0 = 0) who a w
  else if a = Reg.errGhost || a = Reg.errDecode || a = Reg.errRsvdWrite then d.plainBy (d.secureOrHost who) who a w
  else d.plainWrite who a w

/-- A write of the register at `a`, whose domain is up and whose block `who` may reach. -/
def Dev.regWrite (d : Dev) (who : Initiator) (a : Nat) (w : Word) : Dev :=
  match (a - 0x20000000) / 0x10000 with
  | 0x0 => d.sysWrite who a w
  | 0x1 => d.pwrWrite who a w
  | 0x2 => if a = Reg.clkOpCtrl then clkOpCtrlWrite who w d else d.plainWrite who a w
  | 0x3 => d.rfsWrite who a w
  | 0x4 => d.rxwWrite who a w
  | 0x5 => d.txpWrite who a w
  | 0x6 => d.regionWrite who a w
  | 0x7 => d.lnkWrite who a w
  | 0x8 => d.ndtWrite who a w
  | 0x9 => d.fedWrite who a w
  | 0xA => d.hciWrite who a w
  | 0xB => d.cspWrite who a w
  | 0xC => d.evrWrite who a w
  | 0xD => d.irqWrite who a w
  | 0xE => d.keyWrite who a w
  | 0xF => d.cphWrite who a w
  | 0x10 => d.errWrite who a w
  | 0x11 => if a = Reg.otpLcCmd then otpLcCmdStart who w d else d.plainWrite who a w
  | 0x12 => if a = Reg.coexCfg then coexCfgWrite who w d else d.plainWrite who a w
  | _ => d.plainWrite who a w

end Sys2Proof.Machine
end

