-- ==== Sys2Proof/Machine/RegIf.lean ====
section
/-! DEFINITION. Who reaches what: the control space for every initiator (R24), the BARs for the host (R26, R27, R292)
and the endpoint's MSI-X structures (R291). -/

namespace Sys2Proof.Machine

open Sys2Proof

/-- What an address of the control space answers to an initiator. -/
inductive RegTarget where
  /-- A register whose domain is up. -/
  | open
  /-- No register stands there (R21). -/
  | reserved
  /-- A secure-only block (R24). -/
  | denied
  /-- Its domain is off or in retention. -/
  | off (dom : Nat)
  deriving DecidableEq, Repr

/-- A register whose domain is up. -/
def RegTarget.isOpen : RegTarget → Bool
  | .open => true
  | .reserved => false
  | .denied => false
  | .off _ => false

/-- The control blocks KEY, OTP and REG (R24, R26). -/
def secureBlock (a : Nat) : Bool :=
  let b := (a - 0x20000000) / 0x10000
  b = 0xE || b = 0x11 || b = 0x6

/-- Target of an access to control-space address `a` (R21, R24, R27). -/
def Dev.regTarget (d : Dev) (who : Initiator) (a : Nat) : RegTarget :=
  if secureBlock a && (d.normalCore who || decide (who = .host)) then .denied
  else if a % 4 ≠ 0 then .reserved
  else
    match regAt a with
    | none => .reserved
    | some (r, _) => if d.domUp r.dom then .open else .off r.dom

/-- A read of control-space address `a` by an initiator that gets no answer where the access is refused. -/
def Dev.ctlRead (d : Dev) (who : Initiator) (a : Nat) : Dev × Word :=
  if (d.regTarget who a).isOpen then d.regRead who a else (d, 0)

/-- A write of control-space address `a` by such an initiator. -/
def Dev.ctlWrite (d : Dev) (who : Initiator) (a : Nat) (w : Word) : Dev :=
  if (d.regTarget who a).isOpen then d.regWrite who a w else d

/-! MSI-X table and pending bits (R291): words of 16-byte entries; every vector comes up masked. -/

/-- What word `k` of the MSI-X table holds at reset: the mask bit of each entry is 1. -/
def msixDefault (k : Nat) : Word := if k % 4 = 3 then 1 else 0

/-- Sends every message that is due and no longer held back (R291, R374). -/
def Dev.msixFlush (d : Dev) : Dev :=
  if !d.msixReady then d
  else
    let ready := (List.range 64).filter fun v => d.msix.pba.testBit v && !d.msixMasked v
    let d := ready.foldl (fun (d : Dev) v =>
      ({ d with msix := { d.msix with pba := clrBitN d.msix.pba v } } : Dev).emit (.msix v)) d
    let due := d.evr.deferred
    let d : Dev := { d with evr := { d.evr with deferred := [] } }
    due.foldl (fun (d : Dev) n =>
      if d.irqPending n && d.is Fld.irqCfg_en n && d.irqTarget n = 9 then d.sendMsix (d.rd Fld.irqCfg_vector n) else d) d

/-- A write of word `k` of the MSI-X table; unmasking a vector sends what pends. -/
def Dev.msixWrite (d : Dev) (k : Nat) (w : Word) : Dev :=
  let w := if k % 4 = 3 then w &&& 1#32 else w
  ({ d with msix := { d.msix with table := spWrite (msixDefault k) k w d.msix.table } } : Dev).msixFlush

/-! BARs. -/

/-- The word of an access from outside that crosses the interconnect and fails its parity check `fails` times there: the
path that carries it, one of the initiator ports of Table 19.2, is charged (R12, R420, R421). -/
def Dev.pathFetch (d : Dev) (addr fails : Nat) : Dev × FetchOutcome :=
  if fails = 0 then (d, .good)
  else
    let p := d.freeOf ((List.range 24).map (· + 8))
    p.2.fetch (unitRes 5 p.1) addr fails

/-- A read of BAR0 at byte offset `off` (R26, R27). -/
def Dev.bar0Read (d : Dev) (who : Initiator) (off : Nat) : Dev × Word :=
  let o := off / 4 * 4
  if o < 0x140000 then
    match d.regTarget who (0x20000000 + o) with
    | .open => d.regRead who (0x20000000 + o)
    | .denied => (d, 0)
    | .reserved => (d.errDecode who 0 false o, 0)
    | .off n => (d.errGhost 0 false o n, 0xFFFFFFFF#32)
  else if 0x1000000 ≤ o && decide (o < 0x1000200) then
    if d.domUp 1 then (d, 0) else (d.errGhost 0 false o 1, 0xFFFFFFFF#32)
  else if (0x1001000 ≤ o && decide (o < 0x1001400)) || (0x1002000 ≤ o && decide (o < 0x1002008)) then
    if !d.domUp 26 then (d.errGhost 0 false o 26, 0xFFFFFFFF#32)
    else if o < 0x1002000 then
      let k := (o - 0x1001000) / 4
      (d, (spGet k d.msix.table).getD (msixDefault k))
    else (d, BitVec.ofNat 32 (d.msix.pba / 2 ^ (8 * (o - 0x1002000))))
  else (d.errDecode who 0 false o, 0)

/-- A write of BAR0 at byte offset `off` (R26, R27, R298). -/
def Dev.bar0Write (d : Dev) (who : Initiator) (off : Nat) (w : Word) : Dev :=
  let o := off / 4 * 4
  if o < 0x140000 then
    match d.regTarget who (0x20000000 + o) with
    | .open => d.regWrite who (0x20000000 + o) w
    | .denied => d.errDecode who 0 true o
    | .reserved => d.errDecode who 0 true o
    | .off n => d.errGhost 0 true o n
  else if 0x1000000 ≤ o && decide (o < 0x1000200) then d.doorbellWrite ((o - 0x1000000) / 4) w.toNat
  else if (0x1001000 ≤ o && decide (o < 0x1001400)) || (0x1002000 ≤ o && decide (o < 0x1002008)) then
    if !d.domUp 26 then d.errGhost 0 true o 26
    else if o < 0x1002000 then d.msixWrite ((o - 0x1001000) / 4) w
    else d
  else d.errDecode who 0 true o

/-- A read of BAR0 whose word failed its parity check `fails` times on the way from its register (R12, R421). -/
def Dev.bar0ReadVia (d : Dev) (who : Initiator) (off fails : Nat) : Dev × Word :=
  let a := 0x20000000 + off / 4 * 4
  if off < 0x140000 && (d.regTarget who a).isOpen then
    let r := d.pathFetch a fails
    if r.2 = FetchOutcome.exhausted then (r.1, 0xFFFFFFFF#32) else r.1.bar0Read who off
  else d.bar0Read who off

/-- A write of BAR0 whose word failed its parity check `fails` times on the way to its register: an exhausted one is
dropped (R12, R421). -/
def Dev.bar0WriteVia (d : Dev) (who : Initiator) (off : Nat) (w : Word) (fails : Nat) : Dev :=
  let a := 0x20000000 + off / 4 * 4
  if off < 0x140000 && (d.regTarget who a).isOpen then
    let r := d.pathFetch a fails
    if r.2 = FetchOutcome.exhausted then r.1 else r.1.bar0Write who off w
  else d.bar0Write who off w

/-- A device area of the packet buffer, closed to the host (R292). -/
def bar2Closed (off : Nat) : Bool := decide (off < 0x100000)

/-- A read of BAR2 whose word failed its parity check `fails` times (R27, R292, R421). -/
def Dev.bar2Read (d : Dev) (_who : Initiator) (off : Nat) (fails : Nat := 0) : Dev × Word :=
  let o := off / 4 * 4
  if !d.domUp 23 then (d.errGhost 1 false o 23, 0xFFFFFFFF#32)
  else if bar2Closed o then (d, 0)
  else
    let a := 0x11000000 + o
    let r := d.fetch (memRes a) a fails
    if r.2 = FetchOutcome.exhausted then (r.1, 0xFFFFFFFF#32) else (r.1, BitVec.ofNat 32 (r.1.le a 4))

/-- A write of BAR2 (R27, R52, R292, R421). -/
def Dev.bar2Write (d : Dev) (who : Initiator) (off : Nat) (w : Word) (fails : Nat := 0) : Dev :=
  let o := off / 4 * 4
  if !d.domUp 23 then d.errGhost 1 true o 23
  else if bar2Closed o && d.rd Fld.sysBootStatus_code != 2 then d.errDecode who 1 true o
  else
    let a := 0x11000000 + o
    let r := d.fetch (memRes a) a fails
    if r.2 = FetchOutcome.exhausted then r.1 else r.1.setLe a 4 w.toNat

end Sys2Proof.Machine
end

