-- ==== Sys2Proof/Machine/HciCheck.lean ====
section
/-! DEFINITION. The checks that a command passes before it acts, and the domains it needs (R300, R304–R306, R309, R311,
R315, R316, R393). -/

namespace Sys2Proof.Machine

open Sys2Proof

/-- What an opcode takes (Tables 13.8 and 17.9). -/
structure OpRow where
  /-- Executed by the command interpreter and not by the sequencer. -/
  fw : Bool := true
  /-- Accepted on Q0 only. -/
  q0 : Bool := false
  /-- Listed for protocol 1 (Table 13.11). -/
  v1 : Bool := false
  /-- Bits of A0, A1, … that are defined; the arguments beyond the list must be 0. -/
  args : List Nat := []
  /-- Lengths of the data buffer that are accepted; none where the length is the host's choice. -/
  lens : Option (List Nat) := some [0]
  deriving DecidableEq, Repr

/-- Every bit of an argument. -/
def argAll : Nat := 0xFFFFFFFF
/-- A node address. -/
def argNode : Nat := 0x1FFFFFF

/-- The row of an assigned opcode (Tables 13.8 and 17.9). -/
def opRow : Nat → Option OpRow
  | 0x01 => some { fw := false, v1 := true, lens := none
                   args := [0x0FFFFFFF, 0xFFFF7FFF, 0xFFFF01FF, argAll, argAll, 0xFFFF, argAll] }
  | 0x02 => some { fw := false, v1 := true, args := [argAll, 7] }
  | 0x03 => some { fw := false, v1 := true, args := [argAll, argAll, argAll] }
  | 0x04 => some { fw := false, v1 := true, args := [0x3FFFFFFE, 0x3FFFFFFE, 1] }
  | 0x10 => some { q0 := true, v1 := true, args := [0xFF, argAll] }
  | 0x11 => some { q0 := true, v1 := true }
  | 0x12 => some { q0 := true, v1 := true, args := [argAll, argAll, argAll, argAll, argAll] }
  | 0x13 => some { q0 := true, v1 := true, args := [0x7F] }
  | 0x14 => some { q0 := true, args := [0x7F, 0xFFFF] }
  | 0x20 => some { v1 := true, args := [argNode, 3], lens := some [128] }
  | 0x21 => some { args := [argNode, 0x3F], lens := some [128] }
  | 0x22 => some { v1 := true, args := [argNode] }
  | 0x23 => some { v1 := true, args := [argNode], lens := some [128] }
  | 0x24 => some { args := [argNode, 0x3FF, argAll, argAll, argAll, 3] }
  | 0x25 => some { args := [argNode] }
  | 0x26 => some { args := [0x7FFF, argAll, 3], lens := none }
  | 0x27 => some { args := [], lens := none }
  | 0x30 => some { q0 := true, args := [0xFFFF, argAll], lens := none }
  | 0x31 => some { q0 := true, args := [0xFFFF, argAll] }
  | 0x32 => some { q0 := true }
  | 0x33 => some { q0 := true, args := [0x3FF], lens := some [32] }
  | 0x34 => some { q0 := true, args := [argNode, 3, 0x3FF] }
  | 0x40 => some { q0 := true, args := [0x1F03], lens := some [0, 4] }
  | 0x41 => some { q0 := true, args := [argAll] }
  | 0x50 => some { q0 := true, args := [0x1FF, 0x7F], lens := some [16, 32] }
  | 0x51 => some { q0 := true, args := [0x1FF] }
  | 0x52 => some { q0 := true, args := [0x1FF], lens := some [48] }
  | 0x53 => some { q0 := true, args := [argAll], lens := some [48] }
  | 0x54 => some { q0 := true, args := [0x1FF] }
  | 0x55 => some { q0 := true, lens := some [16] }
  | 0x56 => some { q0 := true, args := [7], lens := some [0, 128] }
  | n =>
    if 0xC0 ≤ n ∧ n < 0x100 then
      some { args := List.replicate 12 argAll, lens := none }
    else none

/-- The opcode is a firmware opcode. -/
def HciCmd.isFw (c : HciCmd) : Bool := match opRow c.opcode with | some r => r.fw | none => false

/-- DATA_LEN fits the opcode and its arguments, and the buffer lies where it may (Table 13.5). -/
def Dev.dataOk (d : Dev) (c : HciCmd) (r : OpRow) : Bool :=
  let n := c.dataLen
  (match r.lens with | some l => l.contains n | none => true)
    && (match c.opcode with
      | 0x01 => decide (n ≤ 2047)
      | 0x26 => decide (16 ≤ n)
      | 0x40 => n = (if c.a 0 % 4 = 1 then 4 else 0)
      | 0x50 => n = (if (c.a 1).testBit 6 then 32 else 16)
      | 0x56 => n = (if c.a 0 = 3 then 128 else 0)
      | _ => true)
    && (n = 0 || d.qHost c.sq || inHostArea c.dataAddr n)

/-- Octets that the device adds to the frame of a TX_FRAME: FCS, and MIC where it secures the frame. -/
def txAdded (c : HciCmd) (mac : List Byte) : Nat :=
  let fcs := if c.a 1 % 8 = 0 || (c.a 1).testBit 13 then 2 else 4
  let mic := if (c.a 0).testBit 26 then (match readMhrPlain mac with | some h => micLen h.level | none => 0) else 0
  fcs + mic

/-- The data buffer of a command: the packet buffer, or the content that came with the entry in host memory. -/
def Dev.cmdData (d : Dev) (c : HciCmd) : List Byte :=
  if d.qHost c.sq then padTo c.dataLen c.data else d.bytes (pktBase + c.dataAddr) c.dataLen

/-- Writes returned data to the buffer of a command (R290). -/
def Dev.cmdReturn (d : Dev) (c : HciCmd) (bs : List Byte) : Dev :=
  if d.qBarred c.sq then d.dmaFail c.sq
  else if d.qHost c.sq then d.emit (.dma c.dataAddr bs) else d.setBytes (pktBase + c.dataAddr) bs

/-- A submission queue named by an enabled slot-program entry or TSCH cell (R306). -/
def Dev.queueScheduled (d : Dev) (q : Nat) : Bool :=
  d.regs.any fun e =>
    (match elemOf e.1 Reg.lnkSlotW0 16 512 with
      | some m => d.is Fld.lnkSlotW0_en m && d.rd Fld.lnkSlotW0_kind m = 1 && d.rd Fld.lnkSlotW0_queue m = q
      | none => false) ||
    (match elemOf e.1 Reg.lnkCellW0 8 1024 with
      | some m => d.is Fld.lnkCellW0_en m && d.is Fld.lnkCellW0_tx m && d.rd Fld.lnkCellW1_queue m = q
      | none => false)

/-- TX_FRAME: the arguments (R146, R305, R306, R315, R316). -/
def Dev.txArgs (d : Dev) (c : HciCmd) : Nat :=
  let a1 := c.a 1
  let phy := a1 % 8
  let sub := a1.testBit 3
  let ins := (c.a 0).testBit 27
  let band : Bool := phy = 3 || (phy = 2) = sub
  if d.version < 3 ∧ (ins ∨ (phy = 1 ∧ d.version = 2)) then Code.badVersion
  else if 3 < phy ∨ (d.version = 1 ∧ phy ≠ 0 ∧ phy ≠ 2) ∨ ¬ band ∨ bitsOf a1 11 10 = 3 ∨ bitsOf a1 19 18 = 3
      ∨ ¬ d.chanDefined sub (bitsOf a1 9 4) ∨ (phy = 2 ∧ ¬ d.modeCarried (bitsOf a1 11 10))
      ∨ c.a 5 < 200 ∨ (phy ≠ 3 ∧ c.a 6 ≠ 0) ∨ (ins ∧ ¬ d.queueScheduled c.sq) then Code.reservedField
  else Code.ok

/-- TX_FRAME: the length of the frame with MIC and FCS (R306). -/
def Dev.txLengthOk (d : Dev) (c : HciCmd) : Bool :=
  let phy := c.a 1 % 8
  if phy = 3 then c.dataLen = 0 else decide (c.dataLen + txAdded c (d.cmdData c) ≤ maxPsdu phy)

/-- The control space and its secure-only blocks, for register commands (R309): the status that refuses address `a`. -/
def regCmdStatus (a : Nat) : Nat :=
  if a < 0x20000000 ∨ 0x20140000 ≤ a then Code.internal
  else if secureBlock a then Code.notPermitted
  else if a % 4 = 0 ∧ (regAt a).isSome then Code.ok
  else Code.internal

/-- The first status of a list that is not OK. -/
def firstStatus : List Nat → Nat
  | [] => Code.ok
  | s :: ss => if s = Code.ok then firstStatus ss else s

/-- Addresses that a REG_READ or REG_WRITE reaches. -/
def HciCmd.regAddrs (c : HciCmd) : List Nat :=
  if c.opcode = 2 then (List.range (c.a 1)).map fun i => c.a 0 + 4 * i else [c.a 0]

/-- Status, mirror and counter registers of KEY, OTP and REG (R305). -/
def secureReadable (a : Nat) : Bool :=
  a = Reg.keyStatus || a = Reg.keyStat0 || a = Reg.keyStat1 || a = Reg.otpLcStatus || a = Reg.regStatus
    || a = Reg.regProgStatus || a = Reg.regStat0 || a = Reg.regStat1 || a = Reg.regStat2
    || (elemOf a Reg.regMirrorW 4 64).isSome || (elemOf a Reg.regDutyUsed 4 32).isSome

/-- The arguments of a command beyond their reserved bits: values that R305 and R309 refuse. -/
def Dev.argValues (d : Dev) (c : HciCmd) : Nat :=
  match c.opcode with
  | 0x01 => d.txArgs c
  | 0x02 => if 1 ≤ c.a 1 ∧ c.a 1 ≤ 4 then firstStatus (c.regAddrs.map regCmdStatus) else Code.reservedField
  | 0x03 => regCmdStatus (c.a 0)
  | 0x12 =>
    if d.version = 2 ∧ (c.a 0).testBit 12 then Code.badVersion
    else if 1 ≤ bitsOf (c.a 0) 11 8 ∧ bitsOf (c.a 0) 11 8 ≤ 3 then Code.ok else Code.reservedField
  | 0x21 => if (c.a 1).testBit 4 ∧ (c.a 1).testBit 5 then Code.reservedField else Code.ok
  | 0x26 => if 1 ≤ c.a 1 ∧ c.a 1 ≤ 32768 then Code.ok else Code.reservedField
  | 0x40 => if c.a 0 % 4 = 3 then Code.reservedField else Code.ok
  | 0x41 => if secureReadable (c.a 0) then Code.ok else Code.notPermitted
  | 0x53 => if c.a 0 ≤ 32767 then Code.ok else Code.reservedField
  | _ => Code.ok

/-- The arguments have no reserved bit set. -/
def argsClean (c : HciCmd) (r : OpRow) : Bool :=
  (List.range 12).all fun i => c.a i &&& (0xFFFFFFFF ^^^ r.args.getD i 0) = 0

/-- The checks of R300 in their order; the first failure gives the status. -/
def Dev.cmdCheck (d : Dev) (c : HciCmd) : Nat :=
  let v := d.version
  if bitsOf (c.w.getD 0 0) 11 8 ≠ v then Code.badVersion
  else
    match opRow c.opcode with
    | none => Code.badOpcode
    | some r =>
      if (v = 1 ∧ ¬ r.v1) ∨ (192 ≤ c.opcode ∧ (¬ d.hci.appOpen ∨ d.hci.reclaimed.contains 116)) then Code.badOpcode
      else if v = 2 ∧ (c.opcode = 0x41 ∨ c.opcode = 0x34) then Code.badVersion
      else if r.q0 ∧ c.sq ≠ 0 then Code.notPermitted
      else if bitsOf (c.w.getD 0 0) 15 12 ≠ 0 ∨ bitsOf (c.w.getD 1 0) 31 18 ≠ 0 ∨ c.cid = 0xFFFF then Code.reservedField
      else if ¬ d.dataOk c r ∨ (c.opcode = 1 ∧ ¬ d.txLengthOk c) then Code.badLength
      else if ¬ argsClean c r then Code.reservedField
      else d.argValues c

/-- Chain of a TX_FRAME: the one it names, else one of the band that is ON, else the first (R304). -/
def Dev.txCmdChain (d : Dev) (c : HciCmd) : Nat :=
  let first := if (c.a 1).testBit 3 then 2 else 0
  match bitsOf (c.a 1) 19 18 with
  | 1 => first
  | 2 => first + 1
  | _ => if d.domSt (18 + first) != .on && d.domSt (19 + first) = .on then first + 1 else first

/-- Domain of the register at `a`. -/
def regDom (a : Nat) : Nat := match regAt a with | some (r, _) => r.dom | none => 1

/-- Mailbox Q112 or Q113 of the interpreter's core is still its own (R311). -/
def Dev.mailbox (d : Dev) (n : Nat) : Bool := !d.hci.reclaimed.contains (112 + n)

/-- The interpreter takes firmware opcodes: FW_READY, and a mailbox of C0 or C1 (R293, R301, R311). -/
def Dev.fwServed (d : Dev) : Bool := d.is Fld.hciCtrl_fwReady && (d.mailbox 0 || d.mailbox 1)

/-- The core that serves a firmware opcode: C0, or C1 where only it is ON or has its mailbox (R304, R311). -/
def Dev.fwCore (d : Dev) : Nat :=
  if !d.mailbox 0 || (d.mailbox 1 && d.domSt 2 != .on && d.domSt 3 = .on) then 1 else 0

/-- Domains a command needs (R304). -/
def Dev.cmdDomains (d : Dev) (c : HciCmd) : List Nat :=
  let op := c.opcode
  let own :=
    if op = 1 then [10, 18 + d.txCmdChain c] ++ (if (c.a 0).testBit 25 then [22] else [])
    else if op = 2 ∨ op = 3 then (c.regAddrs.map regDom).eraseDups
    else if 0x20 ≤ op ∧ op ≤ 0x27 then [22]
    else if 0x30 ≤ op ∧ op ≤ 0x34 then [27, 22]
        else if op = 0x41 then [regDom (c.a 0)]
    else if op = 0x53 then [22]
    else if 0x50 ≤ op ∧ op ≤ 0x54 then [25]
    else if 192 ≤ op then [6]
    else []
  let fw := if c.isFw && decide (op < 192) then [2 + d.fwCore] else []
  (own ++ fw).filter fun n => n != 0

/-- Those of them that are not ON. -/
def Dev.cmdAsleep (d : Dev) (c : HciCmd) : List Nat := (d.cmdDomains c).filter fun n => d.domSt n != .on

end Sys2Proof.Machine
end

