-- ==== Sys2Proof/Machine/HciRun.lean ====
section
/-! DEFINITION. What each opcode does once its command starts (R250, R305–R312, R314, R393). -/

namespace Sys2Proof.Machine

open Sys2Proof

/-- Completes a command with a status and no results. -/
def Dev.done (d : Dev) (c : HciCmd) (status : Nat) : Dev := d.finish c status []

/-! Frames (R306–R308). -/

/-- The frame of a TX_FRAME command for the node in slot `slot`. -/
def Dev.txCmdFrame (d : Dev) (c : HciCmd) (slot : Option Nat) : TxFrame :=
  let a1 := c.a 1
  let phy := a1 % 8
  let mac := if phy = 3 then [] else d.cmdData c
  let secure := (c.a 0).testBit 26
  let sleepy : Bool := phy != 3 && (match slot with | some s => d.cxIs s Cx.sleepy | none => false)
  let slots := d.queueScheduled c.sq
  { id := d.tx.nextId, origin := .host c.id, cls := if phy = 3 then 2 else 5
    sub := a1.testBit 3, chan := bitsOf a1 9 4, phy := phy, mode := bitsOf a1 11 10
    fec := a1.testBit 12, fcs16 := a1.testBit 13, whiten := a1.testBit 14, mac := mac, wake := c.a 6
    start := if slots then 0 else c.a 3 + c.a 4 * 2 ^ 32, queue := c.sq, profile := bitsOf a1 17 16
    power := signedOf (c.a 2 % 512) 9, chainSel := bitsOf a1 19 18
    ackReq := phy != 3 && (leAt mac 0 2).testBit 5, node := slot, retries := bitsOf a1 23 20, gap := c.a 5
    sleepy := sleepy, secure := secure, nonceSrc := natBe 8 d.eui
    asn := if (c.a 0).testBit 27 then some (bitsOf (c.a 2) 31 16) else none
    stage := if sleepy then .held else if slots then .slotted else .scheduled }

/-- TX_FRAME: TP3 takes the frame (R202, R244, R292, R306–R308). -/
def Dev.runTxFrame (d : Dev) (c : HciCmd) : Dev :=
  let named := (c.a 0).testBit 25
  let secure := (c.a 0).testBit 26
  let addr := c.a 0 % 2 ^ 25
  let slot := if named then d.findSlot addr else none
  if (secure ∧ slot.isNone) ∨ (named ∧ (d.findNode addr).isNone) then d.finish c Code.nodeUnknown [0, 0, 0, 0]
  else if !d.tp3Ok then d.finish c Code.resourceRetired [0, 0, 0, 0]
  else
    let f := d.txCmdFrame c slot
    if f.phy ≠ 3 ∧ ¬ d.poolFits f.mac.length then d.finish c Code.holdFull [0, 0, 0, 0]
    else
      let d := (d.runCmd c).addFrame f
      if f.secure && f.stage = .scheduled then d.secureFrame { f with nodeAddr := addr } else d

/-- TX_CANCEL (R306): a frame that is not committed, or whose command has not started, completes with CANCELLED. -/
def Dev.runTxCancel (d : Dev) (c : HciCmd) : Dev :=
  let hit (x : HciCmd) : Bool := x.sq = c.a 0 && x.cid = c.a 1 && x.opcode = 1
  match d.hci.cmds.find? hit with
  | none => d.finish c Code.ok [0]
  | some x =>
    match x.stage with
    | .queued => (d.finish x Code.cancelled [0, 0, 0, 0]).finish c Code.ok [1]
    | .waking => (d.finish x Code.cancelled [0, 0, 0, 0]).finish c Code.ok [1]
    | .running =>
      match d.tx.frames.find? fun f => f.hostCmd = some x.id && f.cancellable with
      | some f =>
        let d := ((d.txRelease f).dropFrame f.id).finish x Code.cancelled (f.results false)
        d.finish c Code.ok [1]
      | none => d.finish c Code.ok [0]
    | .done _ _ => d.finish c Code.ok [0]

/-! Registers and votes (R309, R310). -/

/-- Reads of ascending addresses as the host reads them. -/
def Dev.hostReads (d : Dev) : List Nat → Dev × List Nat
  | [] => (d, [])
  | a :: l =>
    let r := d.regRead .host a
    let rest := r.1.hostReads l
    (rest.1, r.2.toNat :: rest.2)

/-- REG_READ (R309). -/
def Dev.runRegRead (d : Dev) (c : HciCmd) : Dev :=
  let r := d.hostReads c.regAddrs
  r.1.finish c Code.ok r.2

/-- A host write of the register at `a`, with whether it held reserved content (R7, R309). -/
def Dev.hostRegWrite (d : Dev) (a : Nat) (w : Word) : Dev × Bool :=
  let old := (d.reg Reg.errRsvdWrite, d.reg Reg.errRsvdAddr)
  let e := ((d.setReg Reg.errRsvdWrite 0).regWrite .host a w)
  if e.is Fld.errRsvdWrite_valid then (e, true)
  else ((e.setReg Reg.errRsvdWrite old.1).setReg Reg.errRsvdAddr old.2, false)

/-- REG_WRITE: the value under the mask, merged with the other bits as they read; RESULT0 is the value after it, which
R7 leaves as it was where it rejects the write (R305, R309). -/
def Dev.runRegWrite (d : Dev) (c : HciCmd) : Dev :=
  let a := c.a 0
  let w := (BitVec.ofNat 32 (c.a 1) &&& BitVec.ofNat 32 (c.a 2)) ||| (d.peek a &&& ~~~ BitVec.ofNat 32 (c.a 2))
  if a = Reg.errRsvdWrite then
    let bad : Bool := match regAt a with
      | some (r, _) => r.hitsReserved w.toNat
      | none => false
    let d := d.regWrite .host a w
    d.finish c (if bad then Code.reservedField else Code.ok) [(d.peek a).toNat]
  else
    let r := d.hostRegWrite a w
    r.1.finish c (if r.2 then Code.reservedField else Code.ok) [(r.1.peek a).toNat]

/-- Domains that POWER_VOTE sets and that are not ON. -/
def Dev.voteWaits (d : Dev) (c : HciCmd) : List Nat :=
  (List.range 30).filter fun n => (c.a 0).testBit n && d.domSt n != .on

/-- Microseconds since a command was fetched, at most 65,535 (R304). -/
def Dev.sinceFetch (d : Dev) (c : HciCmd) : Nat := min 65535 ((d.tmb - c.fetched) / ticksPerUs)

/-- POWER_VOTE changes client V8 (R310). -/
def Dev.runPowerVote (d : Dev) (c : HciCmd) : Dev :=
  let d := (d.catchUp.setVotes 8 ((d.votesOf 8 &&& (0xFFFFFFFF ^^^ c.a 1)) ||| c.a 0)).settleAll
  if c.a 2 = 1 ∧ d.voteWaits c ≠ [] then d.runCmd { c with wakeUs := some 0 } else d.finish c Code.ok [d.tallyWord]

/-! Interface (R305, R311, R312, R314). -/

/-- HELLO: the version of the host's range takes effect after the completion (R314). -/
def Dev.runHello (d : Dev) (c : HciCmd) : Dev :=
  let lo := bitsOf (c.a 0) 3 0
  let hi := bitsOf (c.a 0) 7 4
  let v1 := d.is Fld.hciStatus_v1Offered
  let other := (List.range 128).any fun q => 2 ≤ q && d.qEn q && d.qRole q != 4
  let pick := ([3, 2] ++ (if v1 then [1] else [])).find? fun v => decide (lo ≤ v) && decide (v ≤ hi)
  if other then d.done c Code.notPermitted
  else
    let d := { d with hci := { d.hci with hostTag := c.a 1 } }
    match pick with
    | none => d.done c Code.badVersion
    | some v =>
      let d := d.finish c Code.ok [v + 16 * (6 + b2n v1), (d.reg Reg.sysId).toNat]
      d.wr Fld.hciStatus_version v

/-- IDENTIFY (R305). -/
def Dev.runIdentify (d : Dev) (c : HciCmd) : Dev :=
  d.finish c Code.ok [(d.reg Reg.sysId).toNat, (d.reg Reg.sysStrap).toNat, d.fuse (Fuse.eui 0), d.fuse (Fuse.eui 1)]

/-- QUEUE_CREATE (R311). -/
def Dev.runQueueCreate (d : Dev) (c : HciCmd) : Dev :=
  let a0 := c.a 0
  let q := bitsOf a0 6 0
  let reclaim := a0.testBit 7
  let role := bitsOf a0 11 8
  let host := a0.testBit 12
  let size := bitsOf a0 17 14
  let partner := bitsOf a0 24 18
  let base := c.a 1 + c.a 2 * 2 ^ 32
  let buf := c.a 3 + c.a 4 * 2 ^ 32
  let internal : Bool := decide (96 ≤ q) && decide (q < 120)
  if q < 2 ∨ 120 ≤ q then d.done c Code.badQueue
  else if internal && !reclaim then d.done c Code.notPermitted
  else if (d.qEn q ∧ ¬ (internal ∧ ¬ d.hci.reclaimed.contains q))
      ∨ ¬ ringOk d.version role size host (a0.testBit 13) base buf
      ∨ (role = 1 ∧ ¬ (d.qEn partner ∧ d.qRole partner = 2)) ∨ (host ∧ d.version = 1) then d.done c Code.badQueue
  else
    let d := d.qReset q
    let d := (d.wr Fld.hciQBaseLo_base (c.a 1) q).wr Fld.hciQBaseHi_base (c.a 2) q
    let d := if role = 3 then (d.wr Fld.hciQBufLo_buf (c.a 3) q).wr Fld.hciQBufHi_buf (c.a 4) q else d
    let d := ((d.wr Fld.hciQCfg_role role q).wr Fld.hciQCfg_size size q).wr Fld.hciQCfg_loc (b2n host) q
    let d := (d.wr Fld.hciQCfg_stride (b2n (a0.testBit 13)) q).wr Fld.hciQCfg_partner partner q
    let d := (d.wr Fld.hciQCfg_vector (bitsOf a0 30 25) q).wr Fld.hciQCfg_irqEn (b2n (a0.testBit 31)) q
    let d := (d.wr Fld.hciQCfg_armed 1 q).wr Fld.hciQCfg_en 1 q
    let d : Dev := if internal then { d with hci := { d.hci with reclaimed := q :: d.hci.reclaimed } } else d
    d.done c Code.ok

/-- Commands of queue `q` that have been fetched and not completed. -/
def Dev.queueBusy (d : Dev) (q : Nat) : Bool := d.hci.cmds.any fun c => c.sq = q

/-- A STOPPED completion queue is deleted while it is a partner: its submission queues stop, and the completions of
their fetched commands are discarded (R298). -/
def Dev.dropPartners (d : Dev) (q : Nat) : Dev :=
  let sqs := (List.range 128).filter fun s => d.qEn s && d.qRole s = 1 && d.partner s = q
  let d := sqs.foldl (fun d s => d.wr Fld.hciQCfg_stopped 1 s) d
  let keep (c : HciCmd) : Option HciCmd :=
    if sqs.contains c.sq then
      (match c.stage with
      | .done _ _ => none
      | _ => some { c with mute := true })
    else some c
  { d with hci := { d.hci with cmds := d.hci.cmds.filterMap keep } }

/-- QUEUE_DELETE (R298, R312). -/
def Dev.runQueueDelete (d : Dev) (c : HciCmd) : Dev :=
  let q := c.a 0
  let partnered := (List.range 128).any fun s => d.qEn s && d.qRole s = 1 && d.partner s = q
  if q < 2 ∨ 120 ≤ q ∨ ¬ d.qEn q ∨ d.qRole q = 4 ∨ d.qDeleting q then d.done c Code.badQueue
  else
    match d.qRole q with
    | 1 =>
      if d.queueBusy q then
        ({ d with hci := { d.hci with deleting := alSet q c.id d.hci.deleting } } : Dev).runCmd c
      else (d.qReset q).done c Code.ok
    | 2 =>
      if partnered ∧ ¬ d.qStopped q then d.done c Code.notPermitted
      else ((d.dropPartners q).qReset q).done c Code.ok
    | _ => (d.qReset q).done c Code.ok

/-! Node table (R242, R249, R250). -/

/-- Frames that TP3 holds for a removed node complete with NODE_UNKNOWN. -/
def Dev.dropNodeFrames (d : Dev) (s : Nat) : Dev :=
  let fs := d.tx.frames.filter fun f => f.node = some s && f.drains
  fs.foldl (fun d f => if f.isCheck then d.dropFrame f.id else (d.txRelease f).txEnd f Code.nodeUnknown false) d

/-- NODE_ADD. -/
def Dev.runNodeAdd (d : Dev) (c : HciCmd) : Dev :=
  let r := d.nodeAdd (c.a 0) ((c.a 1).testBit 0) ((c.a 1).testBit 1) (d.cmdData c)
  let d := if r.2 = Code.ok then r.1.schedChanged (c.a 0 % 32768) else r.1
  d.done c r.2

/-- NODE_UPDATE; a changed schedule starts the node anew (R222). -/
def Dev.runNodeUpdate (d : Dev) (c : HciCmd) : Dev :=
  let a1 := c.a 1
  let gs := (List.range 4).filter fun g => a1.testBit g
  let sched (d : Dev) (s : Nat) : List Nat := [d.cx s Cx.schedPeriod, d.cx s Cx.schedOffset, d.cx s Cx.schedBand]
  let r := d.nodeUpdate (c.a 0) gs (a1.testBit 4) (a1.testBit 5) (d.cmdData c)
  let e :=
    match d.findSlot (c.a 0) with
    | some s => if r.2 = Code.ok && sched d s != sched r.1 s then r.1.schedChanged s else r.1
    | none => r.1
  e.done c r.2

/-- NODE_REMOVE. -/
def Dev.runNodeRemove (d : Dev) (c : HciCmd) : Dev :=
  let r := d.nodeRemove (c.a 0)
  let d := match r.2.2 with
    | some s => ((r.1.slpForget s).dropNodeFrames s).settle
    | none => r.1
  d.done c r.2.1

/-- NODE_READ. -/
def Dev.runNodeRead (d : Dev) (c : HciCmd) : Dev :=
  let r := d.nodeRead (c.a 0)
  let d := if r.1 = Code.ok then d.cmdReturn c r.2 else d
  d.done c r.1

/-- ROUTE_SET; RESULT0 is the entry index. -/
def Dev.runRouteSet (d : Dev) (c : HciCmd) : Dev :=
  let eui := if (c.a 5).testBit 0 then some (c.a 2 + c.a 3 * 2 ^ 32) else none
  let short := if (c.a 5).testBit 1 then some (bitsOf (c.a 4) 15 0, bitsOf (c.a 4) 31 16) else none
  let r := d.routeSet (c.a 0) (c.a 1) eui short
  r.1.finish c r.2.1 (if r.2.1 = Code.ok then [r.2.2] else [])

/-- ROUTE_DEL: completes when its index entries are cleared (R242). -/
def Dev.runRouteDel (d : Dev) (c : HciCmd) : Dev :=
  let r := d.routeDel (c.a 0) c.sq c.id
  if r.2 = Code.pending then r.1.runCmd c else r.1.done c r.2

/-- SNAPSHOT, also of a held table (R249, R251). -/
def Dev.runSnapshot (d : Dev) (c : HciCmd) : Dev :=
  let r := d.snapshot (c.a 0) (c.a 1) ((c.a 2).testBit 0) ((c.a 2).testBit 1) c.dataLen
  (d.cmdReturn c r.1).finish c Code.ok [r.1.length, r.2]

/-- RESTORE (R250); restored nodes are planned from their fields (R222). -/
def Dev.runRestore (d : Dev) (c : HciCmd) : Dev :=
  if d.ndt.held then d.done c Code.tableHeld
  else
    let r := d.restoreStream (d.cmdData c)
    let d := r.2.slots.foldl (fun d s => d.slpRestored s) r.1
    d.finish c Code.ok [r.2.applied, r.2.refused, b2n r.2.mismatch]

/-! Federation (R266, R275, R276, R280). -/

def Dev.runRecordPut (d : Dev) (c : HciCmd) : Dev :=
  let r := d.recordPut (c.a 0) (c.a 1) (d.cmdData c)
  r.1.done c r.2

def Dev.runRecordDel (d : Dev) (c : HciCmd) : Dev :=
  let r := d.recordDel (c.a 0) (c.a 1)
  r.1.done c r.2

def Dev.runPropose (d : Dev) (c : HciCmd) : Dev := (d.runCmd c).hostPropose c.id

/-- FED_MEMBER_READ: the member's entry of the member table (R266). -/
def Dev.runMemberRead (d : Dev) (c : HciCmd) : Dev :=
  (d.cmdReturn c (d.bytes (memberAddr (c.a 0)) 32)).done c Code.ok

def Dev.runMigrate (d : Dev) (c : HciCmd) : Dev := (d.runCmd c).hostMigrate c.id (c.a 0) (c.a 1) (c.a 2)

/-! Region, secure registers, keys, life cycle (R177, R178, R305, R393). -/

/-- Status of a REG_PROG result (R178). -/
def progStatus (r : Nat) : Nat :=
  [Code.ok, Code.lowSupply, Code.regSealed, Code.internal, Code.reservedField, Code.lifecycle, Code.reservedField].getD r
    Code.internal

/-- REG_PROG has ended. -/
def Dev.endRegProg (d : Dev) (c : HciCmd) : Dev := d.done c (progStatus (d.rd Fld.regProgStatus_result))

/-- REG_PROG runs as the interpreter's write of REG_PROG_CMD; the staged value comes with OP 1. -/
def Dev.runRegProg (d : Dev) (c : HciCmd) : Dev :=
  let op := c.a 0 % 4
  let word := bitsOf (c.a 0) 12 8
  let d := if op = 1 then (d.setReg (Reg.regStageW + 4 * word) (BitVec.ofNat 32 (leAt (d.cmdData c) 0 4))).regStatusUpdate else d
  let d := d.regProgCmd (.core 0) true (BitVec.ofNat 32 (0x6B1D0000 + op * 256 + word))
  if op = 0 then d.done c Code.ok
  else if d.prog.isSome then d.runCmd c
  else d.endRegProg c

/-- SECURE_READ (R305). -/
def Dev.runSecureRead (d : Dev) (c : HciCmd) : Dev :=
  let r := d.regRead (.core 0) (c.a 0)
  r.1.finish c Code.ok [r.2.toNat]

/-- KEY_LOAD, KEY_CLEAR and KEY_WRAP run as KEY_CMD operations 1, 2 and 4 of the interpreter (R393). -/
def Dev.runKeyOp (d : Dev) (c : HciCmd) (op : Nat) : Dev :=
  if op = 1 ∧ d.lcOf ≠ some 0 ∧ d.lcOf ≠ some 1 then d.done c Code.notPermitted
  else
    let d := if op = 1 then
        (d.wr Fld.keyArg_engines (c.a 1 % 64)).wr Fld.keyArg_keylen (b2n ((c.a 1).testBit 6))
      else d
    let d := if op = 2 then d else d.setKeyData (d.cmdData c)
    (d.keyStart op (c.a 0) false).runCmd c

/-- A key operation of the interpreter has ended. -/
def Dev.endKeyOp (d : Dev) (c : HciCmd) : Dev :=
  let st := d.rd Fld.keyStatus_result
  let d := if c.opcode = 0x52 && st = Code.ok then d.cmdReturn c (d.keyData.take 48) else d
  d.done c st

/-- BLOB_PUT writes a blob entry, which the node's next unwrap uses (R393). -/
def Dev.runBlobPut (d : Dev) (c : HciCmd) : Dev :=
  (d.setBytes (blobAddr (c.a 0)) (d.cmdData c)).done c Code.ok

/-- KEY_ATTR_READ. -/
def Dev.runAttrRead (d : Dev) (c : HciCmd) : Dev := d.finish c Code.ok [(d.slotAttr (c.a 0)).toNat]

/-- LC_STATUS returns OTP_LC_STATUS and LC_NONCE. -/
def Dev.runLcStatus (d : Dev) (c : HciCmd) : Dev :=
  (d.cmdReturn c (padTo 16 d.keys.nonce)).finish c Code.ok [(d.reg Reg.otpLcStatus).toNat]

/-- The return token is valid: a signature over EUI-64, label and nonce by a key that an OTP key-hash slot names
(R393). -/
def Dev.returnToken (d : Dev) (bs : List Byte) : Bool :=
  let label : List Byte := "ZNC RETURN".toList.map fun ch => BitVec.ofNat 8 ch.toNat
  let key := bs.take 64
  (List.range 4).any (fun k => d.keyHashIs k (sha256 key) && !d.keyRevoked k)
    && ecdsaVerify key (sha256 (d.euiBytes ++ label ++ padTo 16 d.keys.nonce)) ((bs.drop 64).take 64)

/-- LC_TRANSITION requests a transition; RETURN needs the token. A request that OTP_LC_CMD would ignore has no status
of its own: a free one of the failure codes (R9, R389, R393). -/
def Dev.runLcTransition (d : Dev) (c : HciCmd) : Dev :=
  let target := c.a 0
  if target = 3 && !d.returnToken (d.cmdData c) then d.done c Code.authFail
  else
    let r := (d.wr Fld.keyStatus_result 0).lcRequest true target
    if !r.2 then let f := d.freeOf failureCodes; f.2.done c f.1
    else if r.1.lc.isSome then r.1.runCmd c
    else r.1.done c (r.1.rd Fld.keyStatus_result)

/-- An application command goes to the mailbox of C4 unchanged; the application sets the outcome: a free one of
the assigned codes and free results (R9, R305). -/
def Dev.runApplication (d : Dev) (c : HciCmd) : Dev :=
  let d := d.emit (.mailbox c.w (d.cmdData c))
  let s := d.freeOf assignedCodes
  let r := s.2.free 128
  r.2.finish c s.1 ((List.range 4).map fun i => r.1 / 2 ^ (32 * i) % 2 ^ 32)

/-! Start and end. -/

/-- A command acts (R305). -/
def Dev.runOpcode (d : Dev) (c : HciCmd) : Dev :=
  match c.opcode with
  | 0x01 => d.runTxFrame c
  | 0x02 => d.runRegRead c
  | 0x03 => d.runRegWrite c
  | 0x04 => d.runPowerVote c
  | 0x10 => d.runHello c
  | 0x11 => d.runIdentify c
  | 0x12 => d.runQueueCreate c
  | 0x13 => d.runQueueDelete c
  | 0x14 => d.runTxCancel c
  | 0x20 => d.runNodeAdd c
  | 0x21 => d.runNodeUpdate c
  | 0x22 => d.runNodeRemove c
  | 0x23 => d.runNodeRead c
  | 0x24 => d.runRouteSet c
  | 0x25 => d.runRouteDel c
  | 0x26 => d.runSnapshot c
  | 0x27 => d.runRestore c
  | 0x30 => d.runRecordPut c
  | 0x31 => d.runRecordDel c
  | 0x32 => d.runPropose c
  | 0x33 => d.runMemberRead c
  | 0x34 => d.runMigrate c
  | 0x40 => d.runRegProg c
  | 0x41 => d.runSecureRead c
  | 0x50 => d.runKeyOp c 1
  | 0x51 => d.runKeyOp c 2
  | 0x52 => d.runKeyOp c 4
  | 0x53 => d.runBlobPut c
  | 0x54 => d.runAttrRead c
  | 0x55 => d.runLcStatus c
  | 0x56 => d.runLcTransition c
  | _ => d.runApplication c

/-- NODE_ADDRs of the context and counter records of a stream; `fuel` bounds their number (R250). -/
def streamNodes : Nat → List Byte → List Nat
  | 0, _ => []
  | n + 1, bs =>
    let len := leAt bs 2 2
    if len = 0 ∨ len % 16 ≠ 0 ∨ bs.length < len then []
    else
      let rest := streamNodes n (bs.drop len)
      match leAt bs 0 1 with
      | 1 => leAt bs 8 4 :: rest
      | 2 => leAt bs 4 4 :: rest
      | _ => rest

/-- A work item of one of the nodes has passed S2: its write-back comes before the lock (R241). -/
def Dev.nodesBusy (d : Dev) (nodes : List Nat) : Bool := d.tempo.items.any fun i => nodes.contains i.node

/-- What an opcode needs is taken, and the command waits: its data buffer in host memory, a unit of the interpreter, the lock of a
node (R241), or for HELLO room for its completion, which is still in the old version (R314). -/
def Dev.unitTaken (d : Dev) (c : HciCmd) : Bool :=
  (c.dataLen != 0 && d.qHost c.sq && !d.qReach c.sq) ||
    match c.opcode with
    | 0x21 => d.nodesBusy [c.a 0]
    | 0x22 => d.nodesBusy [c.a 0]
    | 0x27 => d.nodesBusy (streamNodes c.dataLen (d.cmdData c))
    | 0x10 => d.qFull 1
    | 0x40 => d.prog.isSome
    | 0x50 => d.is Fld.keyStatus_busy
    | 0x51 => d.is Fld.keyStatus_busy
    | 0x52 => d.is Fld.keyStatus_busy
    | _ => false

/-- A command may start: its queue's earlier commands have started, and for a fence have completed (R300, R301). -/
def Dev.mayStart (d : Dev) (c : HciCmd) : Bool :=
  d.hci.cmds.all fun x =>
    x.sq != c.sq || decide (c.id ≤ x.id) ||
      (!c.fence && (match x.stage with
        | .running => true
        | .done _ _ => true
        | _ => false))

/-- A command acts. A word that it reads and that fails its parity is fetched again; one that fails for the fourth time ends it
with REPLAY_EXHAUSTED (R420, R421). -/
def Dev.serveCmd (d : Dev) (c : HciCmd) : Dev :=
  match c.fault with
  | none => d.runOpcode c
  | some f =>
    let r := d.fetch (memRes f.1) f.1 f.2
    if r.2 = FetchOutcome.exhausted then r.1.done c Code.replayExhausted else r.1.runOpcode { c with fault := none }

/-- A queued command is checked, wakes its domains or acts (R300, R304). -/
def Dev.startCmd (d : Dev) (c : HciCmd) : Dev :=
  let st := d.cmdCheck c
  if st ≠ Code.ok then d.done c st
  else if c.isFw && decide (c.opcode < 192) && !d.fwServed then d
  else
    let off := d.cmdAsleep c
    if off ≠ [] then
      if c.noWake then d.done c Code.domainOff
      else (d.setCmd { c with stage := .waking, votes := off.filter fun n => decide (n < 30) }).settle
    else if d.unitTaken c then d
    else d.serveCmd c

/-- A running command whose end is a state of another unit completes once that state is reached. -/
def Dev.pollCmd (d : Dev) (c : HciCmd) : Dev :=
  match c.opcode with
  | 0x04 =>
    if d.voteWaits c = [] then d.finish { c with wakeUs := some (d.sinceFetch c) } Code.ok [d.tallyWord] else d
  | 0x13 =>
    let q := c.a 0
    if d.queueBusy q then d else (d.qReset q).done c Code.ok
  | 0x40 => if d.prog.isSome then d else d.endRegProg c
  | 0x50 => if d.is Fld.keyStatus_busy then d else d.endKeyOp c
  | 0x51 => if d.is Fld.keyStatus_busy then d else d.endKeyOp c
  | 0x52 => if d.is Fld.keyStatus_busy then d else d.endKeyOp c
  | 0x56 => if d.lc.isSome then d else d.done c (d.rd Fld.keyStatus_result)
  | _ => d

end Sys2Proof.Machine
end

