-- ==== Sys2Proof/Machine/Hci.lean ====
section
/-! DEFINITION. The command sequencer: fetching in rotation, starting and completing commands, and the host's commands
and events (R290, R293, R297–R304, R317). -/

namespace Sys2Proof.Machine

open Sys2Proof

/-! Fetching (R297, R301, R316). -/

/-- Queue `q` has an entry to fetch and may fetch it: in service, not STOPPED nor being deleted, its completion queue in
service and not full, its memory in reach, and D23 ON: the queue engine stops for the drain of D23 (R56, R290, R299). Q0
waits for a HELLO to complete (R301, R314). -/
def Dev.fetchable (d : Dev) (q : Nat) : Bool :=
  d.qEn q && d.qRole q = 1 && !d.qStopped q && !d.qDeleting q && d.qHead q != d.qTail q && d.domSt 23 = .on
    && d.qReach q && !d.qBarred q && d.qEn (d.partner q) && !d.qFull (d.partner q)
    && !(q = 0 && d.hci.cmds.any fun c => c.sq = 0 && c.opcode = 0x10)

/-- The words of an entry of protocol 1 in the layout of Table 13.5; a reserved bit goes to a reserved bit. -/
def v1Words (w : List Nat) : List Nat :=
  let w0 := w.getD 0 0
  let w1 := w.getD 1 0
  let cid := if bitsOf w0 15 8 = 0xFF then 0xFFFF else bitsOf w0 15 8
  [w0 % 256 + 256 + cid * 2 ^ 16, bitsOf w0 31 16 + (if w1 < 2 ^ 21 then 0 else 2 ^ 31), w1 % 2 ^ 21, 0]
    ++ (List.range 6).map fun i => w.getD (2 + i) 0

/-- Words of the octets of an entry. -/
def wordsOf (bs : List Byte) (n : Nat) : List Nat := (List.range n).map fun i => leAt bs (4 * i) 4

/-- `n` free words. -/
def Dev.freeWords (d : Dev) : Nat → Dev × List Nat
  | 0 => (d, [])
  | n + 1 =>
    let r := d.free 32
    let rest := r.2.freeWords n
    (rest.1, r.1 :: rest.2)

/-- The entry at the head of queue `q`, with its data: from the ring in the packet buffer, or as the host wrote it into
its own memory. What host memory holds where the host wrote nothing is free. -/
def Dev.headEntry (d : Dev) (q : Nat) : Dev × List Nat × List Byte :=
  let n := ringEntry d.version 1
  if d.qHost q then
    match d.hci.hostEntries.find? fun e => e.1 = q with
    | some e =>
      let i := d.hci.hostEntries.findIdx fun e => e.1 = q
      ({ d with hci := { d.hci with hostEntries := d.hci.hostEntries.eraseIdx i } }, e.2.1, e.2.2)
    | none => let r := d.freeWords 16; (r.1, r.2, [])
  else (d, wordsOf (d.bytes (pktBase + d.qBase q + n * d.qHead q) n) (n / 4), [])

/-- The parity fault that the entry at index `i` of queue `q` will meet, in place of an earlier one's. -/
def Dev.entryFault (d : Dev) (q i : Nat) (f : Option (Nat × Nat)) : Dev :=
  let l := d.hci.faults.filter fun e => !(e.1 = q && e.2.1 = i)
  { d with hci := { d.hci with faults := f.elim l fun f => l ++ [(q, i, f)] } }

/-- The sequencer fetches the entry at the head of queue `q` (R301). -/
def Dev.fetchFrom (d : Dev) (q : Nat) : Dev :=
  let e := d.headEntry q
  let d := e.1
  let w := if d.version = 1 then v1Words e.2.1 else e.2.1
  let i := d.qHead q
  let head := (i + 1) % d.qLen q
  let d := d.wr Fld.hciQHead_head head q
  let fault := d.hci.faults.find? fun e => e.1 = q && e.2.1 = i
  let d := d.entryFault q i none
  let c : HciCmd :=
    { id := d.hci.nextId, sq := q, w := w, data := e.2.2, head := head, fetched := d.tmb, fault := fault.map (·.2.2) }
  { d with hci := { d.hci with cmds := d.hci.cmds ++ [c], nextId := d.hci.nextId + 1, last := q } }

/-- The next queue of the rotation: Q0 first in every round, then ascending behind the last one (R301). -/
def Dev.nextQueue (d : Dev) : Option Nat :=
  let qs := (List.range 120).filter d.fetchable
  match qs.find? fun q => decide (d.hci.last < q) with
  | some q => some q
  | none => qs.head?

/-! The sequencer at work. -/

/-- Starts the queued commands that may start, in fetch order. -/
def Dev.startCmds (d : Dev) : List Nat → Dev
  | [] => d
  | id :: ids =>
    match d.cmd id with
    | some c => (if c.stage = .queued && d.mayStart c then d.startCmd c else d).startCmds ids
    | none => d.startCmds ids

/-- Completes what waits for room in its ring, and what another unit has finished. -/
def Dev.endCmds (d : Dev) : List Nat → Dev
  | [] => d
  | id :: ids =>
    match d.cmd id with
    | some c =>
      (match c.stage with
      | .done st res => d.finish c st res
      | .running => d.pollCmd c
      | _ => d).endCmds ids
    | none => d.endCmds ids

/-- One round of the sequencer over the commands it holds. -/
def Dev.workCmds (d : Dev) : Dev :=
  let d := d.endCmds (d.hci.cmds.map HciCmd.id)
  d.startCmds (d.hci.cmds.map HciCmd.id)

/-- Fetches and works, at most `n` entries. -/
def Dev.fetchCmds (d : Dev) : Nat → Dev
  | 0 => d
  | n + 1 =>
    match d.nextQueue with
    | some q => (d.fetchFrom q).workCmds.fetchCmds n
    | none => d

/-- Doorbells stored while D23 was off are acted on once it is ON (R298). -/
def Dev.storedDoorbells (d : Dev) : Dev :=
  if d.hci.stored.isEmpty || !d.domUp 23 then d
  else
    let l := d.hci.stored
    let d : Dev := { d with hci := { d.hci with stored := [] } }
    l.foldl (fun d x => d.doorbellAct x.1 x.2) d

/-- Entries that one step of the sequencer fetches at most. -/
def pumpFuel : Nat := 256

/-- Submission queues in host memory with work while Bus Master Enable is 0. -/
def Dev.barredRings (d : Dev) : List Nat :=
  (List.range 120).filter fun q => d.qEn q && d.qRole q = 1 && !d.qStopped q && d.qHead q != d.qTail q && d.qBarred q

/-- They fail (R290). -/
def Dev.stopBarred (d : Dev) : Dev := d.barredRings.foldl (fun d q => d.dmaFail q) d

/-- The sequencer and the interpreter do what they can: stored doorbells, commands in hand, new entries. -/
def Dev.pump (d : Dev) : Dev :=
  if !d.domUp 1 then d else d.storedDoorbells.stopBarred.workCmds.fetchCmds pumpFuel

/-! Control (R293, R317). -/

/-- HCI_ENABLE: a write of HCI_CTRL that changes ENABLE. -/
def execHciEnable (who : Initiator) (w : Word) (s : State) : Host.Outcome State Fault Refusal :=
  s.run fun d => (hciCtrlWrite who w d).pump

/-- HCI_RESET: a write of HCI_CTRL with RESET = 1. -/
def execHciReset (who : Initiator) (w : Word) (s : State) : Host.Outcome State Fault Refusal :=
  s.run fun d => (hciCtrlWrite who (w ||| 2#32) d).pump

/-- FW_READY_WRITE: a write of HCI_CTRL with FW_READY = 1; waiting firmware opcodes proceed. -/
def execFwReadyWrite (who : Initiator) (w : Word) (s : State) : Host.Outcome State Fault Refusal :=
  s.run fun d => (hciCtrlWrite who (w ||| 4#32) d).pump

/-- FW_READY_TIMEOUT: the firmware opcode `id` has waited 1 s (R293). -/
def execFwReadyTimeout (id : Nat) (s : State) : Host.Outcome State Fault Refusal :=
  s.run fun d =>
    match d.cmd id with
    | some c =>
      if c.stage = .queued && c.isFw && decide (c.opcode < 192) && !d.fwServed then (d.done c Code.internal).pump else d
    | none => d

/-! Submission (R297, R298). -/

/-- The host writes one submission entry behind the `k` entries it has already written. -/
def Dev.hostEntry (d : Dev) (q k : Nat) (c : HostCmd) : Dev :=
  let n := ringEntry d.version 1
  let i := (d.qTail q + k) % d.qLen q
  let d := d.entryFault q i c.fault
  if d.qHost q then
    { d with hci := { d.hci with hostEntries := d.hci.hostEntries ++ [(q, c.w, c.data)] } }
  else
    let ws := (List.range (n / 4)).flatMap fun j => natLe 4 (c.w.getD j 0 % 2 ^ 32)
    let addr := if d.version = 1 then c.w.getD 1 0 % 2 ^ 21 else c.w.getD 2 0
    let d := if d.domUp 23 then d.setBytes (pktBase + d.qBase q + n * i) ws else d
    if d.domUp 23 && !c.data.isEmpty && inHostArea addr c.data.length then d.setBytes (pktBase + addr) c.data else d

/-- The host writes entries one behind the other. -/
def Dev.hostEntriesAt (d : Dev) (q : Nat) : Nat → List HostCmd → Dev
  | _, [] => d
  | k, c :: cs => (d.hostEntry q k c).hostEntriesAt q (k + 1) cs

/-- DOORBELL of queue `q` with word `w`, after the host wrote `entries` into its ring (R298). -/
def execDoorbell (q w : Nat) (entries : List HostCmd) (s : State) : Host.Outcome State Fault Refusal :=
  s.run fun d => if 128 ≤ q then d else ((d.hostEntriesAt q 0 entries).doorbellWrite q (w % 2 ^ 32)).pump

/-- The host submits one command of opcode `op`: the entry and its data, then the doorbell. -/
def Dev.hostSubmit (d : Dev) (op : Nat) (c : HostCmd) : Dev :=
  let q := c.sq % 128
  let w0 := c.w.getD 0 0 / 256 * 256 + op
  let c : HostCmd := { c with w := w0 :: c.w.drop 1 }
  ((d.hostEntry q 0 c).doorbellWrite q ((d.qTail q + 1) % d.qLen q)).pump

def execTxFrame (c : HostCmd) (s : State) : Host.Outcome State Fault Refusal := s.run fun d => d.hostSubmit 0x01 c
def execRegRead (c : HostCmd) (s : State) : Host.Outcome State Fault Refusal := s.run fun d => d.hostSubmit 0x02 c
def execRegWrite (c : HostCmd) (s : State) : Host.Outcome State Fault Refusal := s.run fun d => d.hostSubmit 0x03 c
def execPowerVote (c : HostCmd) (s : State) : Host.Outcome State Fault Refusal := s.run fun d => d.hostSubmit 0x04 c
def execHelloCommand (c : HostCmd) (s : State) : Host.Outcome State Fault Refusal := s.run fun d => d.hostSubmit 0x10 c
def execIdentify (c : HostCmd) (s : State) : Host.Outcome State Fault Refusal := s.run fun d => d.hostSubmit 0x11 c
def execQueueCreate (c : HostCmd) (s : State) : Host.Outcome State Fault Refusal := s.run fun d => d.hostSubmit 0x12 c
def execQueueDelete (c : HostCmd) (s : State) : Host.Outcome State Fault Refusal := s.run fun d => d.hostSubmit 0x13 c
def execTxCancel (c : HostCmd) (s : State) : Host.Outcome State Fault Refusal := s.run fun d => d.hostSubmit 0x14 c
def execNodeAdd (c : HostCmd) (s : State) : Host.Outcome State Fault Refusal := s.run fun d => d.hostSubmit 0x20 c
def execNodeUpdate (c : HostCmd) (s : State) : Host.Outcome State Fault Refusal := s.run fun d => d.hostSubmit 0x21 c
def execNodeRemove (c : HostCmd) (s : State) : Host.Outcome State Fault Refusal := s.run fun d => d.hostSubmit 0x22 c
def execNodeRead (c : HostCmd) (s : State) : Host.Outcome State Fault Refusal := s.run fun d => d.hostSubmit 0x23 c
def execRouteSet (c : HostCmd) (s : State) : Host.Outcome State Fault Refusal := s.run fun d => d.hostSubmit 0x24 c
def execRouteDel (c : HostCmd) (s : State) : Host.Outcome State Fault Refusal := s.run fun d => d.hostSubmit 0x25 c
def execSnapshot (c : HostCmd) (s : State) : Host.Outcome State Fault Refusal := s.run fun d => d.hostSubmit 0x26 c
def execRestoreStream (c : HostCmd) (s : State) : Host.Outcome State Fault Refusal := s.run fun d => d.hostSubmit 0x27 c
def execFedRecordPut (c : HostCmd) (s : State) : Host.Outcome State Fault Refusal := s.run fun d => d.hostSubmit 0x30 c
def execFedRecordDel (c : HostCmd) (s : State) : Host.Outcome State Fault Refusal := s.run fun d => d.hostSubmit 0x31 c
def execFedPropose (c : HostCmd) (s : State) : Host.Outcome State Fault Refusal := s.run fun d => d.hostSubmit 0x32 c
def execFedMemberRead (c : HostCmd) (s : State) : Host.Outcome State Fault Refusal := s.run fun d => d.hostSubmit 0x33 c
def execFedMigrate (c : HostCmd) (s : State) : Host.Outcome State Fault Refusal := s.run fun d => d.hostSubmit 0x34 c
def execRegProg (c : HostCmd) (s : State) : Host.Outcome State Fault Refusal := s.run fun d => d.hostSubmit 0x40 c
def execSecureRead (c : HostCmd) (s : State) : Host.Outcome State Fault Refusal := s.run fun d => d.hostSubmit 0x41 c
def execKeyLoad (c : HostCmd) (s : State) : Host.Outcome State Fault Refusal := s.run fun d => d.hostSubmit 0x50 c
def execKeyClear (c : HostCmd) (s : State) : Host.Outcome State Fault Refusal := s.run fun d => d.hostSubmit 0x51 c
def execKeyWrap (c : HostCmd) (s : State) : Host.Outcome State Fault Refusal := s.run fun d => d.hostSubmit 0x52 c
def execBlobPut (c : HostCmd) (s : State) : Host.Outcome State Fault Refusal := s.run fun d => d.hostSubmit 0x53 c
def execKeyAttrRead (c : HostCmd) (s : State) : Host.Outcome State Fault Refusal := s.run fun d => d.hostSubmit 0x54 c
def execLcStatus (c : HostCmd) (s : State) : Host.Outcome State Fault Refusal := s.run fun d => d.hostSubmit 0x55 c
def execLcTransition (c : HostCmd) (s : State) : Host.Outcome State Fault Refusal := s.run fun d => d.hostSubmit 0x56 c

/-- An application command, opcode `op` of 0xC0–0xFF; `opened`: application firmware has opened Q116 (R305). -/
def execApplicationCommand (op : Nat) (opened : Bool) (c : HostCmd) (s : State) : Host.Outcome State Fault Refusal :=
  s.run fun d => ({ d with hci := { d.hci with appOpen := opened } } : Dev).hostSubmit (192 + op % 64) c

/-! Events of the sequencer. -/

/-- COMMAND_WAKE_DONE: every domain that command `id` waits for is ON (R304, R310). -/
def execCommandWakeDone (id : Nat) (s : State) : Host.Outcome State Fault Refusal :=
  s.run fun d =>
    match d.cmd id with
    | some c =>
      match c.stage with
      | .waking =>
        if d.cmdAsleep c ≠ [] then d
        else
          let c := { c with wakeUs := some (d.sinceFetch c), stage := .queued }
          (d.setCmd c).pump
      | _ => d.pump
    | none => d

/-- COMMAND_WAKE_TIMEOUT: a domain that command `id` waits for is not ON within 10 ms (R304, R310). -/
def execCommandWakeTimeout (id : Nat) (s : State) : Host.Outcome State Fault Refusal :=
  s.run fun d =>
    match d.cmd id with
    | some c =>
      let waits : Bool := (c.stage = .waking && d.cmdAsleep c != [])
        || (c.stage = .running && c.opcode = 4 && d.voteWaits c != [])
      if waits then (d.done { c with wakeUs := none } Code.domainOff).pump else d
    | none => d

/-- FIRMWARE_INTERIM_COMPLETION: firmware command `id` has run for 10 ms (R301). -/
def execFirmwareInterimCompletion (id : Nat) (s : State) : Host.Outcome State Fault Refusal :=
  s.run fun d =>
    match d.cmd id with
    | some c =>
      let q := d.partner c.sq
      if c.stage = .running && c.isFw && !c.interim && !c.mute && d.qEn q && !d.qFull q && d.qReach q && !d.qBarred q then
        (d.setCmd { c with interim := true }).cqPost q c.cid c.sq c.head Code.pending [] c.wakeUs
      else d
    | none => d

/-- MSI_X_PENDING_SEND: messages that were held back are sent (R291, R374). -/
def execMsiXPendingSend (s : State) : Host.Outcome State Fault Refusal := s.run Dev.msixFlush

/-- DMA_FAULT of queue `q` in host memory (R290). -/
def Dev.dmaFault (d : Dev) (q : Nat) : Dev := if !d.domUp 1 || !d.qEn q || !d.qHost q then d else d.dmaFail q

def execDmaFault (q : Nat) (s : State) : Host.Outcome State Fault Refusal := s.run fun d => d.dmaFault (q % 128)

/-- ROUTE_DEL_INDEX_CLEARED: the index entries of route `r` are cleared and its ROUTE_DEL completes (R242). -/
def execRouteDelIndexCleared (r : Nat) (s : State) : Host.Outcome State Fault Refusal :=
  s.run fun d =>
    match d.ndt.dels.find? fun x => x.route = r with
    | some x =>
      let d := d.dropKeys r fun _ => true
      let d : Dev := { d with ndt := { d.ndt with dels := d.ndt.dels.filter fun y => y.route != r } }
      (d.finishId x.cid Code.ok []).pump
    | none => d

/-! Ends of operations that a host command may wait for. -/

/-- KEY_OPERATION_DONE (R380). -/
def execKeyOperationDone (s : State) : Host.Outcome State Fault Refusal := s.run fun d => (keyOperationDone d).pump

/-- LC_TRANSITION_STEP (R391). -/
def execLcTransitionStep (s : State) : Host.Outcome State Fault Refusal := s.run fun d => (lcTransitionStep d).pump

/-- OTP_BIT_PROGRAMMED (R179, R391). -/
def execOtpBitProgrammed (u : OtpUser) (s : State) : Host.Outcome State Fault Refusal :=
  s.run fun d => (otpBitProgrammed u d).pump

end Sys2Proof.Machine
end

