-- ==== Sys2Proof/Machine/Access.lean ====
section
/-! DEFINITION. Accesses to registers and BARs as commands (R6, R8, R26, R27, R429). What a read returns leaves the
device as an output. -/

namespace Sys2Proof.Machine

open Sys2Proof

/-- A register read by an initiator: the host's through BAR0. -/
def Dev.accessRead (d : Dev) (who : Initiator) (a : Nat) : Dev :=
  let r := if who = .host then d.bar0Read who (a - 0x20000000) else d.ctlRead who a
  r.1.emit (.readData who a r.2.toNat)

/-- A register write by an initiator: the host's through BAR0. The sequencer takes up what it caused. -/
def Dev.accessWrite (d : Dev) (who : Initiator) (a : Nat) (w : Word) : Dev :=
  (if who = .host then d.bar0Write who (a - 0x20000000) w else d.ctlWrite who a w).pump

/-- An address of the control space. -/
def isControl (a : Nat) : Bool := decide (0x20000000 ≤ a) && decide (a < 0x20140000)

/-- REGISTER_WRITE of word `w` at device address `a` (R6, R7). -/
def execRegisterWrite (who : Initiator) (a : Nat) (w : Word) (s : State) : Host.Outcome State Fault Refusal :=
  s.run fun d => if isControl a then d.accessWrite who a w else d

/-- RC_FIELD_READ of the register at `a`: its RC fields clear (R6). -/
def execRcFieldRead (who : Initiator) (a : Nat) (s : State) : Host.Outcome State Fault Refusal :=
  s.run fun d => if isControl a then d.accessRead who a else d

/-- LO_WORD_READ of the register at `a`: the high word of its pair is latched (R8, R429). -/
def execLoWordRead (who : Initiator) (a : Nat) (s : State) : Host.Outcome State Fault Refusal :=
  s.run fun d => if isControl a then d.accessRead who a else d

/-- HOST_BAR_ACCESS at byte offset `off` of BAR0 or BAR2: a write of `data`, or a read; its word failed its parity
check `fails` times, on the interconnect or in the packet buffer (R12, R26, R27, R292, R421). -/
def execHostBarAccess (bar2 : Bool) (off : Nat) (data : Option Word) (fails : Nat) (s : State) :
    Host.Outcome State Fault Refusal :=
  s.run fun d =>
    match data with
    | some w =>
      (if bar2 then d.bar2Write .host (off % 2 ^ 21) w fails else d.bar0WriteVia .host (off % 2 ^ 25) w fails).pump
    | none =>
      let r := if bar2 then d.bar2Read .host (off % 2 ^ 21) fails else d.bar0ReadVia .host (off % 2 ^ 25) fails
      r.1.emit (.readData .host off r.2.toNat)

end Sys2Proof.Machine
end

