-- ==== Sys2Proof/Machine/Csps.lean ====
section
/-! DEFINITION. The slave serial port CSPS: WRITE, READ and FSTAT frames and their framing errors
(R326–R334). -/

namespace Sys2Proof.Machine

open Sys2Proof

/-- The port accepts frames: D28 is ON and the CSPS bank is released (R326). -/
def Dev.cspsReady (d : Dev) : Bool := d.domSt 28 = .on && (d.pins.held.getD 3 none).isNone

/-- The status byte at the fall of the select (Table 14.6). -/
def Dev.cspsStatus (d : Dev) : Nat :=
  d.csp.lastErr * 32 + b2n d.csp.commit.isSome * 16 + b2n (d.pins.intN || d.pins.intPulse) * 8
    + d.rd Fld.hciCtrl_fwReady * 4 + b2n (d.boot.phase = .halted) * 2
    + b2n (d.rd Fld.sysBootStatus_code = 0)

/-- The fast status window: SYS_BOOT_STATUS, then CSP_S_ERR (R329). -/
def Dev.fastWindow (d : Dev) : List Byte :=
  natLe 4 (d.reg Reg.sysBootStatus).toNat ++ natLe 4 (d.reg Reg.cspSErr).toNat

/-- Lanes of a command byte's WIDTH. -/
def cspsLanes (cmd : Nat) : Nat := 2 ^ (cmd / 64)

/-- The command byte is defined: WIDTH, the reserved bits and FUNC (Table 14.5). -/
def cspsCmdOk (cmd : Nat) : Bool :=
  decide (cmd / 64 ≤ 2) && bitsOf cmd 5 4 = 0 && (cmd % 16 = 1 || cmd % 16 = 2 || cmd % 16 = 5)

/-- ADDRESS and LENGTH obey R330. -/
def cspsRangeOk (a n : Nat) : Bool :=
  a % 4 = 0 && n % 4 = 0 && decide (4 ≤ n) && decide (n ≤ 1024) &&
    if a.testBit 31 then bitsOf a 30 21 = 0 && decide (a % 2 ^ 21 + n ≤ 2 ^ 21)
    else bitsOf a 30 25 = 0 && decide (a % 2 ^ 25 + n ≤ 2 ^ 25)

/-- Rising edges up to the end of LENGTH. -/
def cspsHeadEdges (cmd : Nat) : Nat := 8 + 48 / cspsLanes cmd

/-- Rising edges of the whole frame with `n` data octets. -/
def cspsEdges (cmd n : Nat) : Nat := cspsHeadEdges cmd + 8 * n / cspsLanes cmd

/-- The cause that discards a frame, with the edge of its detection; the first one detected counts (R332). -/
def cspsCause (f : CspsFrame) : Option Nat :=
  let a := beAt f.body 0 4
  let n := beAt f.body 4 2
  let viol (before : Nat) : Bool := match f.viol with | some k => decide (k ≤ before) | none => false
  if f.edges < 8 then (if viol f.edges then some 5 else some 1)
  else if viol 8 then some 5
  else if !cspsCmdOk f.cmd then some 3
  else if f.cmd % 16 = 5 then
    if viol f.edges then some 5
    else if f.edges < 8 + 64 / cspsLanes f.cmd ∧ ((f.edges - 8) * cspsLanes f.cmd) % 8 ≠ 0 then some 1 else none
  else
    let head := cspsHeadEdges f.cmd
    if f.edges < head then
      if viol f.edges then some 5 else if ((f.edges - 8) * cspsLanes f.cmd) % 8 ≠ 0 then some 1 else some 2
    else if viol head then some 5
    else if !cspsRangeOk a n then some 4
    else if viol f.edges then some 5
    else if f.edges < cspsEdges f.cmd n then
      if ((f.edges - 8) * cspsLanes f.cmd) % 8 ≠ 0 then some 1 else some 2
    else none

/-- Edges after the end of the data phase. -/
def cspsExtra (f : CspsFrame) : Nat :=
  if f.cmd % 16 = 5 then f.edges - (8 + 64 / cspsLanes f.cmd) else f.edges - cspsEdges f.cmd (beAt f.body 4 2)

/-- Words read from a window, ascending: BAR2 where ADDRESS[31] is 1; the first of them fails its parity check `fails`
times (R330, R421). -/
def Dev.cspsReads (d : Dev) (a fails : Nat) : Nat → Dev × List Byte
  | 0 => (d, [])
  | k + 1 =>
    let r := if a.testBit 31 then d.bar2Read .host (a % 2 ^ 21) fails else d.bar0ReadVia .host (a % 2 ^ 25) fails
    let rest := r.1.cspsReads (a + 4) 0 k
    (rest.1, natLe 4 r.2.toNat ++ rest.2)

/-- Words written to a window, ascending; the first of them fails its parity check `fails` times. -/
def Dev.cspsWrites (d : Dev) (a fails : Nat) : List Nat → Dev
  | [] => d
  | w :: ws =>
    (if a.testBit 31 then d.bar2Write .host (a % 2 ^ 21) (BitVec.ofNat 32 w) fails
      else d.bar0WriteVia .host (a % 2 ^ 25) (BitVec.ofNat 32 w) fails).cspsWrites (a + 4) 0 ws

/-- The pending commit is carried out (R330). -/
def Dev.cspsCommit (d : Dev) : Dev :=
  match d.csp.commit with
  | some (a, ws) => ({ d with csp := { d.csp with commit := none } }).cspsWrites a d.csp.commitFails ws
  | none => d

/-- Whole octets that a discarded frame's data phase of `out`, which begins after `head` edges, had driven before the
detection (R332). -/
def cspsDriven (f : CspsFrame) (head : Nat) (out : List Byte) : List Byte :=
  let last := match f.viol with | some k => min (k - 1) f.edges | none => f.edges
  out.take ((last - head) * cspsLanes f.cmd / 8)

/-- A discarded frame (R332, R333). -/
def Dev.cspsDiscard (d : Dev) (f : CspsFrame) (cause status : Nat) (out : List Byte) : Dev :=
  let d := d.setReg Reg.cspSErr (BitVec.ofNat 32
    (2 ^ 31 + min f.edges 16383 * 2 ^ 16 + (f.cmd % 256) * 2 ^ 8 + cause))
  let d := (d.bump Fld.cspSStat0_framesBad).emit (.csps status out)
  ({ d with csp := { d.csp with lastErr := cause } } : Dev).raise 0x59

/-- A valid frame: counted, LAST_ERR clear, what it drove. -/
def Dev.cspsGood (d : Dev) (f : CspsFrame) (status : Nat) (out : List Byte) : Dev :=
  let d := ((d.bump Fld.cspSStat0_framesOk).bumpBy (cspsExtra f) Fld.cspSStat1_extraEdges).emit (.csps status out)
  { d with csp := { d.csp with lastErr := 0 } }

/-- One CSPS frame (R326–R332). A READ or WRITE waits for a pending commit; a READ has read its words even if
the frame is discarded later. -/
def Dev.cspsFrame (d : Dev) (f : CspsFrame) : Dev :=
  if f.edges = 0 || !d.cspsReady then d
  else
    let status := d.cspsStatus
    let window := d.fastWindow
    let a := beAt f.body 0 4
    let n := beAt f.body 4 2
    match cspsCause f with
    | some c =>
      let reads := cspsCmdOk f.cmd && f.cmd % 16 = 2 && decide (cspsHeadEdges f.cmd ≤ f.edges) && cspsRangeOk a n
        && !(match f.viol with | some k => decide (k ≤ cspsHeadEdges f.cmd) | none => false)
      if reads then
        let r := d.cspsCommit.cspsReads a f.fails (n / 4)
        r.1.cspsDiscard f c status (cspsDriven f (cspsHeadEdges f.cmd) r.2)
      else
        d.cspsDiscard f c status (if cspsCmdOk f.cmd && f.cmd % 16 = 5 then cspsDriven f 8 window else [])
    | none =>
      match f.cmd % 16 with
      | 1 =>
        let d := d.cspsCommit
        let ws := (List.range (n / 4)).map fun i => leAt f.body (6 + 4 * i) 4
        ({ d with csp := { d.csp with commit := some (a, ws), commitFails := f.fails } }).cspsGood f status []
      | 2 =>
        let r := d.cspsCommit.cspsReads a f.fails (n / 4)
        r.1.cspsGood f status r.2
      | _ => d.cspsGood f status (window.take ((f.edges - 8) * cspsLanes f.cmd / 8))

def execCspsWrite (f : CspsFrame) (s : State) : Host.Outcome State Fault Refusal := s.run fun d => (d.cspsFrame f).pump
def execCspsRead (f : CspsFrame) (s : State) : Host.Outcome State Fault Refusal := s.run fun d => (d.cspsFrame f).pump
def execFstat (f : CspsFrame) (s : State) : Host.Outcome State Fault Refusal := s.run fun d => (d.cspsFrame f).pump

/-- A committed WRITE finishes its word writes (R330). -/
def execCspsCommitDone (s : State) : Host.Outcome State Fault Refusal := s.run fun d => d.cspsCommit.pump

end Sys2Proof.Machine
end

