-- ==== Sys2Proof/Machine/DoldonOp.lean ====
section
/-! DEFINITION. Syllables of the Doldon instruction set and their decoding: headers, formats, reserved values and the
order of a bundle (R339–R344, R347, R348, R352, Tables 15.3 to 15.7). -/

namespace Sys2Proof.Machine

open Sys2Proof

/-- Two-operand operations of the A slot (Table 15.5). -/
inductive AluOp where
  | add | sub | and | or | xor | shl | shr | sar | min | max | minu | maxu
  deriving DecidableEq, Repr

/-- Comparisons of the A slot. -/
inductive CmpOp where
  | eq | ne | lt | ltu
  deriving DecidableEq, Repr

/-- Predicate operations of the A slot. -/
inductive PredOp where
  | and | or | xor
  deriving DecidableEq, Repr

/-- Fetching multiply-accumulates (R345). -/
inductive FmacKind where
  | w | h2 | hc
  deriving DecidableEq, Repr

/-- One decoded operation. Data registers, pointers, predicates and accumulators by number; pointers 0–3 are px, 4–7
py. -/
inductive CoreOp where
  | alu (o : AluOp) (d s t : Nat)
  | alui (o : AluOp) (d s : Nat) (imm : Word)
  | sel (d s t q : Nat)
  | clz (d s : Nat)
  | mov (d s : Nat)
  | movi (d : Nat) (imm : Word)
  | cmp (o : CmpOp) (qd s t : Nat)
  | cmpi (o : CmpOp) (qd s : Nat) (imm : Word)
  | pred (o : PredOp) (qd qa qb : Nat)
  | pnot (qd qa : Nat)
  | movl (l s : Nat)
  | movp (p s : Nat)
  | mfp (d p : Nat)
  | mul (d s t : Nat)
  | mulh (d s t : Nat)
  | mulhu (d s t : Nat)
  | mac (h2 : Bool) (acc : Nat) (sub clr : Bool) (s t : Nat)
  | fmac (k : FmacKind) (acc px py xmod ymod : Nat) (sub clr : Bool)
  | amov (acc d sh : Nat)
  | aclr (acc : Nat)
  | aset (acc s : Nat)
  | load (size : Nat) (signed : Bool) (d s : Nat) (off : Word)
  | store (size : Nat) (d s : Nat) (off : Word)
  | loadP (d p mod : Nat)
  | storeP (d p mod : Nat)
  | fence
  | isync
  | br (disp : Int)
  | call (disp : Int)
  | ret
  | jr (s : Nat)
  | callr (s : Nat)
  | dbnz (l : Nat) (disp : Int)
  | svc
  | smc
  | brk
  | rett
  | wait
  | nop
  | mfs (d sr : Nat)
  | mts (sr s : Nat)
  deriving DecidableEq, Repr

/-- A syllable in its bundle: the operation, its word, position, SLOT code and predicate. -/
structure Syllable where
  op : CoreOp
  inst : Nat
  index : Nat
  slot : Nat
  pr : Nat
  pn : Bool
  deriving DecidableEq, Repr

/-! Fields of a syllable word (Table 15.4). -/

def sylSlot (w : Nat) : Nat := bitsOf w 30 28
def sylOp (w : Nat) : Nat := bitsOf w 23 18
def sylD (w : Nat) : Nat := bitsOf w 17 13
def sylS (w : Nat) : Nat := bitsOf w 12 8
def sylT (w : Nat) : Nat := bitsOf w 7 3

/-- The immediate of an RRI, CMP or MEM syllable: IMM8 as `ext` extends it, or IMM32 with an X syllable, whose IMM8[7:4]
must be 0 (R342). -/
def immOf (w : Nat) (x : Option Nat) (ext : Nat → Word) : Option Word :=
  match x with
  | none => some (ext (w % 256))
  | some i => if bitsOf w 7 4 = 0 then some (BitVec.ofNat 32 (i * 16 + w % 16)) else none

/-- IMM8, sign-extended. -/
def sext8 (v : Nat) : Word := BitVec.ofInt 32 (signedOf v 8)
/-- IMM8, zero-extended. -/
def zext8 (v : Nat) : Word := BitVec.ofNat 32 v

/-- The value where a condition holds. -/
def onlyIf {α : Type} (b : Bool) (a : α) : Option α := if b then some a else none

/-- The A slot (Table 15.5). -/
def decodeA (w : Nat) (x : Option Nat) : Option CoreOp :=
  let d := sylD w
  let s := sylS w
  let t := sylT w
  let q := w % 8
  let plain : Bool := q = 0 && x.isNone
  let qd := bitsOf w 17 15
  let cmpOk : Bool := qd != 0 && bitsOf w 14 13 = 0
  let prdOk : Bool := qd != 0 && bitsOf w 8 0 = 0 && x.isNone
  let qa := bitsOf w 14 12
  let qb := bitsOf w 11 9
  let alu (o : AluOp) : Option CoreOp := onlyIf plain (.alu o d s t)
  let shift (o : AluOp) : Option CoreOp :=
    (immOf w x zext8).bind fun i => onlyIf (x.isSome || bitsOf w 7 5 = 0) (.alui o d s i)
  let cmp (o : CmpOp) : Option CoreOp := onlyIf (cmpOk && plain) (.cmp o qd s t)
  match sylOp w with
  | 0x00 => alu .add
  | 0x01 => alu .sub
  | 0x02 => alu .and
  | 0x03 => alu .or
  | 0x04 => alu .xor
  | 0x05 => alu .shl
  | 0x06 => alu .shr
  | 0x07 => alu .sar
  | 0x08 => alu .min
  | 0x09 => alu .max
  | 0x0A => alu .minu
  | 0x0B => alu .maxu
  | 0x0C => onlyIf x.isNone (.sel d s t q)
  | 0x0D => onlyIf (plain && t = 0) (.clz d s)
  | 0x0E => onlyIf (plain && t = 0) (.mov d s)
  | 0x10 => (immOf w x sext8).map fun i => .alui .add d s i
  | 0x11 => (immOf w x zext8).map fun i => .alui .and d s i
  | 0x12 => (immOf w x zext8).map fun i => .alui .or d s i
  | 0x13 => (immOf w x zext8).map fun i => .alui .xor d s i
  | 0x14 => shift .shl
  | 0x15 => shift .shr
  | 0x16 => shift .sar
  | 0x17 => (immOf w x sext8).bind fun i => onlyIf (s = 0) (.movi d i)
  | 0x20 => cmp .eq
  | 0x21 => cmp .ne
  | 0x22 => cmp .lt
  | 0x23 => cmp .ltu
  | 0x24 => (immOf w x sext8).bind fun i => onlyIf cmpOk (.cmpi .eq qd s i)
  | 0x25 => (immOf w x sext8).bind fun i => onlyIf cmpOk (.cmpi .lt qd s i)
  | 0x28 => onlyIf prdOk (.pred .and qd qa qb)
  | 0x29 => onlyIf prdOk (.pred .or qd qa qb)
  | 0x2A => onlyIf prdOk (.pred .xor qd qa qb)
  | 0x2B => onlyIf (prdOk && qb = 0) (.pnot qd qa)
  | 0x30 => onlyIf (plain && t = 0 && decide (d < 2)) (.movl d s)
  | 0x31 => onlyIf (plain && decide (d < 8)) (.movp d s)
  | 0x32 => onlyIf (plain && s = 0 && decide (t < 8)) (.mfp d t)
  | _ => none

/-- The M slot (Table 15.6). -/
def decodeM (w : Nat) : Option CoreOp :=
  let d := sylD w
  let s := sylS w
  let t := sylT w
  let rrr : Bool := w % 8 = 0
  let acc := bitsOf w 17 16
  let mac (h2 : Bool) : Option CoreOp :=
    onlyIf (w % 8 = 0 && !w.testBit 13) (.mac h2 acc (w.testBit 15) (w.testBit 14) s t)
  let fmac (k : FmacKind) (ok : Bool) : Option CoreOp :=
    onlyIf (ok && bitsOf w 5 0 = 0)
      (.fmac k acc (bitsOf w 15 14) (bitsOf w 13 12) (bitsOf w 11 10) (bitsOf w 9 8) (w.testBit 7) (w.testBit 6))
  match sylOp w with
  | 0x00 => onlyIf rrr (.mul d s t)
  | 0x01 => onlyIf rrr (.mulh d s t)
  | 0x02 => onlyIf rrr (.mulhu d s t)
  | 0x08 => mac false
  | 0x09 => mac true
  | 0x10 => fmac .w true
  | 0x11 => fmac .h2 true
  | 0x12 => fmac .hc (acc % 2 = 0)
  | 0x18 =>
    let sh := bitsOf w 10 5
    onlyIf (decide (sh ≤ 40) && bitsOf w 4 0 = 0) (.amov acc (bitsOf w 15 11) sh)
  | 0x19 => onlyIf (bitsOf w 15 0 = 0) (.aclr acc)
  | 0x1A => onlyIf (bitsOf w 15 13 = 0 && bitsOf w 7 0 = 0) (.aset acc s)
  | _ => none

/-- OFF of a MEM syllable: OFF8 scaled by the access size, or IMM32 unscaled (R342). -/
def memOff (w : Nat) (x : Option Nat) (size : Nat) : Option Word :=
  immOf w x fun v => BitVec.ofInt 32 (signedOf v 8 * (size : Int))

/-- The L slot (Table 15.7). -/
def decodeL (w : Nat) (x : Option Nat) : Option CoreOp :=
  let d := sylD w
  let s := sylS w
  let load (n : Nat) (sg : Bool) : Option CoreOp := (memOff w x n).map fun o => .load n sg d s o
  let store (n : Nat) : Option CoreOp := (memOff w x n).map fun o => .store n d s o
  let ptr : Bool := x.isNone && bitsOf w 8 0 = 0
  let p := bitsOf w 12 11
  let m := bitsOf w 10 9
  let bare : Bool := x.isNone && bitsOf w 17 0 = 0
  match sylOp w with
  | 0x00 => load 4 false
  | 0x01 => load 2 true
  | 0x02 => load 2 false
  | 0x03 => load 1 true
  | 0x04 => load 1 false
  | 0x08 => store 4
  | 0x09 => store 2
  | 0x0A => store 1
  | 0x10 => onlyIf ptr (.loadP d p m)
  | 0x11 => onlyIf ptr (.loadP d (4 + p) m)
  | 0x12 => onlyIf ptr (.storeP d p m)
  | 0x13 => onlyIf ptr (.storeP d (4 + p) m)
  | 0x18 => onlyIf bare .fence
  | 0x19 => onlyIf bare .isync
  | _ => none

/-- The B slot of core `n` (Table 15.7); SMC and VBASE_S are reserved on C4–C7 (R350). -/
def decodeB (n w : Nat) : Option CoreOp :=
  let low := bitsOf w 17 0
  let disp := signedOf low 18
  let brr : Bool := bitsOf w 17 13 = 0 && bitsOf w 7 0 = 0
  let trp : Bool := bitsOf w 17 8 = 0
  let bare : Bool := low = 0
  let sr := w % 256
  let srOk : Bool := decide (sr < 16) && (sr != 7 || decide (n < 4))
  match sylOp w with
  | 0x00 => some (.br disp)
  | 0x01 => some (.call disp)
  | 0x02 => onlyIf bare .ret
  | 0x03 => onlyIf brr (.jr (sylS w))
  | 0x04 => onlyIf brr (.callr (sylS w))
  | 0x05 => some (.dbnz (bitsOf w 17 17) (signedOf (bitsOf w 16 0) 17))
  | 0x08 => onlyIf trp .svc
  | 0x09 => onlyIf (trp && decide (n < 4)) .smc
  | 0x0A => onlyIf trp .brk
  | 0x0B => onlyIf bare .rett
  | 0x0C => onlyIf bare .wait
  | 0x0F => onlyIf bare .nop
  | 0x10 => onlyIf (bitsOf w 12 8 = 0 && srOk) (.mfs (sylD w) sr)
  | 0x11 => onlyIf (bitsOf w 17 13 = 0 && srOk) (.mts sr (sylS w))
  | _ => none

/-! Bundles (R340, R341). -/

/-- A decoded bundle: its length in syllables, the loop count of a P syllable, its operations, and the second P of a
bundle with two. -/
structure Bundle where
  len : Nat
  rep : Option Nat := none
  syls : List Syllable := []
  secondP : Option (Nat × Nat) := none
  deriving DecidableEq, Repr

/-- The operation of one syllable and the least part that may follow it, or none where the order or a field is broken.
Parts: 0 P, 1 first A, 2 second A, 3 M, 4 L, 5 B, 6 nothing. -/
def sylDecode (n : Nat) (part w : Nat) (x : Option Nat) : Option (CoreOp × Nat) :=
  let predOk : Bool := !(w.testBit 27 && bitsOf w 26 24 = 0)
  if !predOk then none
  else
    match sylSlot w with
    | 0 => if part ≤ 2 then (decodeA w x).map fun o => (o, if part ≤ 1 then 2 else 3) else none
    | 1 => if part ≤ 3 then (decodeM w).map fun o => (o, 4) else none
    | 2 => if part ≤ 4 then (decodeL w x).map fun o => (o, 5) else none
    | 3 => if part ≤ 5 then (decodeB n w).map fun o => (o, 6) else none
    | _ => none

/-- A P syllable: OP 0, the always-true predicate, bits [16:0] 0 (R348). -/
def repOk (w : Nat) : Bool := sylOp w = 0 && bitsOf w 27 24 = 0 && bitsOf w 16 0 = 0

/-- The syllable words of a bundle, with their positions, in order: the first offending one where a syllable is reserved
or out of order. An X syllable is taken with the syllable before it. -/
def bundleScan (n : Nat) : Nat → Nat → Nat → List Nat → Bundle → Except (Nat × Nat) Bundle
  | 0, _, _, _, b => .ok b
  | _ + 1, _, _, [], b => .ok b
  | fuel + 1, part, i, w :: ws, b =>
    if sylSlot w = 5 then
      if !repOk w then .error (i, w)
      else if part = 0 then bundleScan n fuel 1 (i + 1) ws { b with rep := some (bitsOf w 17 17) }
      else if i = 1 ∧ b.rep.isSome then bundleScan n fuel 1 (i + 1) ws { b with secondP := some (i, w) }
      else .error (i, w)
    else
      let x := match ws with
        | v :: _ => if sylSlot w % 2 = 0 ∧ sylSlot v = 4 then some (v % 2 ^ 28) else none
        | [] => none
      match sylDecode n part w x with
      | none => .error (i, w)
      | some (o, p) =>
        let b := { b with syls := b.syls ++ [⟨o, w, i, sylSlot w, bitsOf w 26 24, w.testBit 27⟩] }
        if x.isSome then bundleScan n fuel p (i + 2) ws.tail b else bundleScan n fuel p (i + 1) ws b

/-! What a syllable writes (R341). -/

/-- A register that a bundle may write once. -/
inductive Target where
  | data (d : Nat)
  | pred (q : Nat)
  | acc (a : Nat)
  | ptr (p : Nat)
  | loop (l : Nat)
  | sys (r : Nat)
  deriving DecidableEq, Repr

/-- Pointer post-modification of a MOD value writes the pointer. -/
def modTarget (p mod : Nat) : List Target := if mod = 0 then [] else [.ptr p]

/-- Registers that an operation writes. -/
def CoreOp.targets : CoreOp → List Target
  | .alu _ d _ _ => [.data d]
  | .alui _ d _ _ => [.data d]
  | .sel d _ _ _ => [.data d]
  | .clz d _ => [.data d]
  | .mov d _ => [.data d]
  | .movi d _ => [.data d]
  | .cmp _ q _ _ => [.pred q]
  | .cmpi _ q _ _ => [.pred q]
  | .pred _ q _ _ => [.pred q]
  | .pnot q _ => [.pred q]
  | .movl l _ => [.loop l]
  | .movp p _ => [.ptr p]
  | .mfp d _ => [.data d]
  | .mul d _ _ => [.data d]
  | .mulh d _ _ => [.data d]
  | .mulhu d _ _ => [.data d]
  | .mac _ a _ _ _ _ => [.acc a]
  | .fmac k a px py xm ym _ _ =>
    .acc a :: (if k = .hc then [.acc (a + 1)] else []) ++ modTarget px xm ++ modTarget (4 + py) ym
  | .amov _ d _ => [.data d]
  | .aclr a => [.acc a]
  | .aset a _ => [.acc a]
  | .load _ _ d _ _ => [.data d]
  | .store _ _ _ _ => []
  | .loadP d p m => .data d :: modTarget p m
  | .storeP _ p m => modTarget p m
  | .dbnz l _ => [.loop l]
  | .mfs d _ => [.data d]
  | .mts r _ => if r = 9 then [.loop 0] else if r = 10 then [.loop 1] else [.sys r]
  | .fence => []
  | .isync => []
  | .br _ => []
  | .call _ => []
  | .ret => []
  | .jr _ => []
  | .callr _ => []
  | .svc => []
  | .smc => []
  | .brk => []
  | .rett => []
  | .wait => []
  | .nop => []

/-- The first syllable that writes what an earlier one of the bundle writes. -/
def doubleWrite : List Target → List Syllable → Option Syllable
  | _, [] => none
  | ts, s :: ss => if s.op.targets.any ts.contains then some s else doubleWrite (ts ++ s.op.targets) ss

/-- The decode of core `n` over the words from the bundle address on: the bundle, or the offending syllable with its
index and the bundle's length, 0 where no stop bit falls within 9 syllables (R340, R341, Table 15.9). -/
def decodeBundle (n : Nat) (ws : List Nat) : Except (Nat × Nat × Nat) Bundle :=
  let nine := ws.take 9
  let stop := nine.findIdx fun w => w.testBit 31
  let len := if stop < 9 then stop + 1 else 0
  let run := if stop < 9 then nine.take len else nine
  match bundleScan n 10 0 0 run { len := len } with
  | .error (i, w) => .error (i, w, len)
  | .ok b =>
    if len = 0 then .error (8, nine.getD 8 0, 0)
    else
      match doubleWrite [] b.syls with
      | some s => .error (s.index, s.inst, len)
      | none => if b.syls.isEmpty then .error (0, run.getD 0 0, len) else .ok b

end Sys2Proof.Machine
end

