-- ==== Sys2Proof/Machine/DoldonCore.lean ====
section
/-! DEFINITION. What the Doldon operations compute and where their accesses go: arithmetic (R343–R346), system registers
(R352), data addresses (R24, R25, R338, R350), fetching (R341, R347) and trap entry (R353). -/

namespace Sys2Proof.Machine

open Sys2Proof

/-! Arithmetic. -/

/-- A two-operand A-slot operation (Table 15.5). -/
def AluOp.eval : AluOp → Word → Word → Word
  | .add, s, t => s + t
  | .sub, s, t => s - t
  | .and, s, t => s &&& t
  | .or, s, t => s ||| t
  | .xor, s, t => s ^^^ t
  | .shl, s, t => s <<< (t.toNat % 32)
  | .shr, s, t => s >>> (t.toNat % 32)
  | .sar, s, t => s.sshiftRight (t.toNat % 32)
  | .min, s, t => if s.slt t then s else t
  | .max, s, t => if s.slt t then t else s
  | .minu, s, t => if s.ult t then s else t
  | .maxu, s, t => if s.ult t then t else s

/-- A comparison of the A slot. -/
def CmpOp.eval : CmpOp → Word → Word → Bool
  | .eq, s, t => s = t
  | .ne, s, t => s != t
  | .lt, s, t => s.slt t
  | .ltu, s, t => s.ult t

/-- An operation on predicates. -/
def PredOp.eval : PredOp → Bool → Bool → Bool
  | .and, a, b => a && b
  | .or, a, b => a || b
  | .xor, a, b => a != b

/-- Leading zeros of a word, 0–32. -/
def clz32 (w : Word) : Nat := if w = 0 then 32 else 31 - Nat.log2 w.toNat

/-- The signed halves of a word, low and high. -/
def loHalf (w : Word) : Int := signedOf w.toNat 16
def hiHalf (w : Word) : Int := signedOf (w.toNat / 65536) 16

/-- The products of a multiply-accumulate: for a[ACC], and for a[ACC + 1] in HC (R344, R345). -/
def FmacKind.products : FmacKind → Word → Word → Int × Int
  | .w, x, y => (x.toInt * y.toInt, 0)
  | .h2, x, y => (loHalf x * loHalf y + hiHalf x * hiHalf y, 0)
  | .hc, x, y => (loHalf x * loHalf y - hiHalf x * hiHalf y, loHalf x * hiHalf y + hiHalf x * loHalf y)

/-- An accumulation of `p`: the new value, and whether the exact result left the 72-bit range (R344). -/
def accumulate (a : BitVec 72) (sub clr : Bool) (p : Int) : BitVec 72 × Bool :=
  let e := (if clr then 0 else a.toInt) + (if sub then -p else p)
  (BitVec.ofInt 72 e, decide (e < -2 ^ 71) || decide (2 ^ 71 - 1 < e))

/-- AMOV: the rounded, saturated extract, and whether it was clamped (R346). -/
def amovOf (a : BitVec 72) (sh : Nat) : Word × Bool :=
  let v : Int := if sh = 0 then a.toInt else (a.toInt + 2 ^ (sh - 1)) / 2 ^ sh
  let r := clampInt v (-2 ^ 31) (2 ^ 31 - 1)
  (BitVec.ofInt 32 r, r != v)

/-- Post-modification step of a MOD value. -/
def modStep (mod : Nat) : Nat := [0, 4, 0x1FFFC, 8].getD mod 0

/-! Registers of a core. -/

/-- Data register `i`. -/
def Core.dr (c : Core) (i : Nat) : Word := c.d.getD i 0
/-- Accumulator `k`. -/
def Core.ac (c : Core) (k : Nat) : BitVec 72 := c.acc.getD k 0
/-- Pointer `p`: 0–3 px, 4–7 py. -/
def Core.ptr (c : Core) (p : Nat) : Nat := if p < 4 then c.px.getD p 0 else c.py.getD (p - 4) 0
/-- Predicate `i`; q0 always reads 1 (R337). -/
def Core.pq (c : Core) (i : Nat) : Bool := i = 0 || c.q.getD i false
/-- Loop count `i`. -/
def Core.lc (c : Core) (i : Nat) : Nat := c.lcnt.getD i 0

def Core.setD (c : Core) (i : Nat) (w : Word) : Core := { c with d := putAt i w c.d }
def Core.setAc (c : Core) (k : Nat) (a : BitVec 72) : Core := { c with acc := putAt k a c.acc }
/-- A pointer write keeps 17 bits (R338). -/
def Core.setPtr (c : Core) (p v : Nat) : Core :=
  if p < 4 then { c with px := putAt p (v % 2 ^ 17) c.px } else { c with py := putAt (p - 4) (v % 2 ^ 17) c.py }
def Core.setQ (c : Core) (i : Nat) (b : Bool) : Core := { c with q := putAt i b c.q }
def Core.setLc (c : Core) (i v : Nat) : Core := { c with lcnt := putAt i (v % 2 ^ 32) c.lcnt }

/-- STATUS bits of Table 15.8. -/
def Core.ie (c : Core) : Bool := c.status.toNat.testBit 0
def Core.priv (c : Core) : Bool := c.status.toNat.testBit 1
def Core.ns (c : Core) : Bool := c.status.toNat.testBit 2
def Core.rsWrap (c : Core) : Bool := c.status.toNat.testBit 3
def Core.intrap (c : Core) : Bool := c.status.toNat.testBit 4

/-- STATUS with bit `i` set. -/
def Core.stick (c : Core) (i : Nat) (b : Bool) : Core :=
  if b then { c with status := c.status ||| BitVec.ofNat 32 (2 ^ i) } else c

/-- A push onto the return stack: at depth 16 the oldest entry is lost and RSLOST set (R349). -/
def Core.push (c : Core) (a : Nat) : Core :=
  ({ c with rs := (a % 65536 :: c.rs).take 16 } : Core).stick 5 (decide (16 ≤ c.rs.length))

/-- What MFS reads, RS_TOP being the top entry (Table 15.8). NS of STATUS and TRAPSTATUS reads 1 on C4–C7 (R350). -/
def Core.sysRead (c : Core) (n sr : Nat) : Word :=
  match sr with
  | 0 => c.status
  | 1 => if n < 4 then c.trapStatus else c.trapStatus ||| 4#32
  | 2 => BitVec.ofNat 32 c.trapPc
  | 3 => BitVec.ofNat 32 c.trapCause
  | 4 => c.trapInst
  | 5 => c.trapSlot
  | 6 => c.trapAddr
  | 7 => BitVec.ofNat 32 c.vbaseS
  | 8 => BitVec.ofNat 32 c.vbaseNS
  | 9 => BitVec.ofNat 32 (c.lc 0)
  | 10 => BitVec.ofNat 32 (c.lc 1)
  | 11 => BitVec.ofNat 32 c.rs.length
  | 12 => BitVec.ofNat 32 (c.rs.headD 0)
  | 13 => BitVec.ofNat 32 (n + 2 * 16 + (if n < 4 then 256 else 0))
  | 14 => BitVec.ofNat 32 c.cycle
  | 15 => BitVec.ofNat 32 (c.cycleLatch.getD (c.cycle / 2 ^ 32))
  | _ => 0

/-- What a read by MFS changes: RS_TOP pops, CYCLE_LO latches CYCLE_HI, whose read takes the latched word. -/
def Core.sysReadEffect (c k : Core) (sr : Nat) : Core :=
  match sr with
  | 12 => { k with rs := c.rs.drop 1 }
  | 14 => { k with cycleLatch := some (c.cycle / 2 ^ 32) }
  | 15 => { k with cycleLatch := none }
  | _ => k

/-- STATUS bits that MTS writes as they are: IE, PRIV, RS_WRAP, INTRAP. -/
def statusPlain : Word := 0x1B
/-- Sticky STATUS bits: RSLOST, SAT, AOV0–AOV3. -/
def statusSticky : Word := 0xF60

/-- MTS of `w` to system register `sr` (Table 15.8, R350): read-only registers and reserved bits ignore it, NS of STATUS
stays. -/
def Core.sysWrite (c : Core) (sr : Nat) (w : Word) : Core :=
  match sr with
  | 0 => { c with status := (w &&& statusPlain) ||| (c.status &&& w &&& statusSticky) ||| (c.status &&& 4#32) }
  | 1 => { c with trapStatus := w &&& (statusPlain ||| statusSticky ||| 4#32) }
  | 2 => { c with trapPc := w.toNat % 65536 }
  | 3 => { c with trapCause := w.toNat % 16 }
  | 4 => { c with trapInst := w }
  | 5 => { c with trapSlot := w &&& 0xFFF#32 }
  | 6 => { c with trapAddr := w }
  | 7 => { c with vbaseS := w.toNat / 256 % 256 * 256 }
  | 8 => { c with vbaseNS := w.toNat / 256 % 256 * 256 }
  | 9 => c.setLc 0 w.toNat
  | 10 => c.setLc 1 w.toNat
  | 12 => c.push w.toNat
  | _ => c

/-! Privilege (R350, R354). -/

/-- An operation that the state of core `n` does not allow. -/
def CoreOp.privFault (c : Core) (n : Nat) : CoreOp → Bool
  | .wait => !c.priv
  | .rett => !c.priv || (c.ns && decide (n < 4) && !c.trapStatus.toNat.testBit 2)
  | .mts sr _ => (!c.priv && !([9, 10, 12].contains sr)) || (sr = 7 && c.ns)
  | .mfs _ sr => (!c.priv && !([9, 10, 11, 12, 13, 14, 15].contains sr)) || (sr = 7 && c.ns)
  | _ => false

/-! Data accesses. -/

/-- Base of the window of core `n` (R21). -/
def coreBase (n : Nat) : Nat := 0x04000000 + n * 0x100000

/-- Where a data access of a core goes. -/
inductive DataTarget where
  | mem (a : Nat)
  | rom (a : Nat)
  | ctl (a : Nat)
  /-- The auto-vote alias names a domain that is not up (R25). -/
  | wait (a dom : Nat)
  | fault (cause : Nat)
  deriving DecidableEq, Repr

/-- An access to the control space, directly or through the alias: the alias waits for a domain that is off or powering
down, also while it still drains (R24, R25). -/
def Dev.ctlTarget (d : Dev) (n a : Nat) (viaAlias : Bool) : DataTarget :=
  match d.regTarget (.core n) (a / 4 * 4) with
  | .open =>
    match regAt (a / 4 * 4) with
    | some (r, _) => if viaAlias && d.domSt r.dom != .on then .wait a r.dom else .ctl a
    | none => .ctl a
  | .reserved => .fault 4
  | .denied => .fault 4
  | .off m => if viaAlias then .wait a m else .fault 5

/-- Target of an access of `size` bytes at address `a` by core `n` (R21–R25, R231, R338, R350). Of the cores,
only C2 and C3, which run the agent's firmware, write the member table (R266). -/
def Dev.dataTarget (d : Dev) (n a size : Nat) (write : Bool) : DataTarget :=
  let c := d.core n
  if a % size ≠ 0 then .fault 6
  else if 0x20000000 ≤ a ∧ a < 0x28140000 ∧ !c.priv then .fault 4
  else if a < 0x40000 then if write || c.ns then .fault 4 else .rom a
  else if 0x04000000 ≤ a ∧ a < 0x04400000 ∧ c.ns then .fault 4
  else if write ∧ ((0x10000000 ≤ a ∧ a < 0x10400000) ∨ (0x10980000 ≤ a ∧ a < 0x10B80000)
      ∨ (0x10B80000 ≤ a ∧ a < 0x10B88000 ∧ n ≠ 2 ∧ n ≠ 3)) then .fault 4
  else if 0x20000000 ≤ a ∧ a < 0x20140000 then d.ctlTarget n a false
  else if 0x28000000 ≤ a ∧ a < 0x28140000 then d.ctlTarget n (a - 0x08000000) true
  else
    match areaOf a size with
    | some m => if d.domUp m.dom then .mem a else .fault 5
    | none => .fault 4

/-- The value of `size` bytes, extended to a word. -/
def extendTo (size : Nat) (signed : Bool) (v : Nat) : Word :=
  if signed then BitVec.ofInt 32 (signedOf v (8 * size)) else BitVec.ofNat 32 (v % 2 ^ (8 * size))

/-! Traps (R353, R355). -/

/-- A trap on its way: cause, offending syllable, TRAPSLOT and TRAPADDR. -/
structure CoreTrap where
  cause : Nat
  inst : Nat := 0
  len : Nat := 0
  slot : Nat := 0
  index : Nat := 15
  iter : Bool := false
  addr : Nat := 0
  deriving DecidableEq, Repr

/-- The trap that syllable `s` of a bundle of `len` syllables raises. -/
def Syllable.trap (s : Syllable) (len : Nat) (iter : Bool) (cause : Nat) (addr : Nat := 0) : CoreTrap :=
  { cause := cause, inst := s.inst, len := len, slot := s.slot, index := s.index, iter := iter, addr := addr }

/-- TRAPSLOT of a trap (Table 15.9). -/
def CoreTrap.word (t : CoreTrap) : Word :=
  BitVec.ofNat 32 (t.len % 16 * 256 + b2n t.iter * 128 + t.slot % 8 * 16 + t.index % 16)

/-- The five parts of trap entry (R353): `secure` says that NS becomes 0. -/
def Core.trapEntry (c : Core) (t : CoreTrap) (secure : Bool) : Core :=
  let st := (c.status &&& ~~~(if secure then 5#32 else 1#32)) ||| 0x12#32
  { c with
    trapPc := c.pc
    trapStatus := c.status
    trapCause := t.cause
    trapInst := BitVec.ofNat 32 t.inst
    trapSlot := t.word
    trapAddr := BitVec.ofNat 32 t.addr
    status := st
    pc := ((if st.toNat.testBit 2 then c.vbaseNS else c.vbaseS) + 16 * t.cause) % 65536
    lastCause := t.cause
    iter := false
    run := .run }

/-- A synchronous trap of core `n`: entry, or the double trap that stops the core (R353). -/
def Dev.syncTrap (d : Dev) (n : Nat) (t : CoreTrap) : Dev :=
  let c := d.core n
  if c.intrap then (d.setCore n { c with run := .stopped, stopPc := c.pc, iter := false }).setIrq (136 + n)
  else d.setCore n (c.trapEntry t (decide (t.cause = 0xB) && decide (n < 4)))

/-- Core `n` takes the interrupt `i` (R353): LEN and SLOT of TRAPSLOT have no stated value. -/
def Dev.interruptTrap (d : Dev) (n i : Nat) : Dev :=
  let r := d.free 7
  let c := r.2.core n
  r.2.setCore n (c.trapEntry { cause := 0xD, len := r.1 / 8, slot := r.1 % 8, iter := c.iter }
    (d.irqSec i && decide (n < 4)))

/-! Fetching (R341, R347). -/

/-- Instruction byte at offset `o` of core `n`: `stale` gives the bytes that stores not yet seen have replaced. -/
def Dev.fetchByte (d : Dev) (n : Nat) (stale : List (Nat × List (Nat × Byte))) (o : Nat) : Byte :=
  ((stale.reverse.findSome? fun e => alGet (o % 65536) e.2)).getD (d.byte (coreBase n + o % 65536))

/-- The 9 words from the bundle address on, modulo 64 KB. -/
def Dev.fetchWords (d : Dev) (n pc : Nat) (stale : List (Nat × List (Nat × Byte))) : List Nat :=
  (List.range 9).map fun k => leNat ((List.range 4).map fun j => d.fetchByte n stale (pc + 4 * k + j))

/-- Stores that the fetch at `pc` may still miss: those whose bundle lies at most 32 bytes before (R347). -/
def Core.unseenAt (c : Core) : List (Nat × List (Nat × Byte)) :=
  c.unseen.filter fun e => decide ((c.pc + 65536 - e.1) % 65536 ≤ 32)

/-- A jump target: any multiple of 4; of another address only a multiple of 4 is known. -/
def Dev.jumpTo (d : Dev) (a : Nat) : Nat × Dev :=
  if a % 4 = 0 then (a % 65536, d) else let r := d.free 14; (r.1 * 4, r.2)

end Sys2Proof.Machine
end

