-- ==== Sys2Proof/Machine/Doldon.lean ====
section
/-! DEFINITION. One bundle of a Doldon core (R341, R345–R349, R355), interrupts, WAIT and the auto-vote alias (R25, R351,
R353). Every syllable reads the registers and memory of before the bundle; then all commit, or a trap commits none. -/

namespace Sys2Proof.Machine

open Sys2Proof

/-- What the syllables of a bundle have read and asked for before it commits. -/
structure Issue where
  dev : Dev
  /-- The words that an FMAC fetched. -/
  x : Word := 0
  y : Word := 0
  /-- The word that a load from memory returned. -/
  loaded : Word := 0
  /-- A load from a control register, with its size and extension, made when the bundle commits. -/
  ctlLoad : Option (Nat × Nat × Bool) := none
  /-- A store: target, size, value. -/
  store : Option (DataTarget × Nat × Word) := none
  trap : Option CoreTrap := none
  stall : Option AliasWait := none
  deriving DecidableEq, Repr

/-- The resource that an access is charged to: the row of a memory, or the core's path to the interconnect (Table
19.2). -/
def accessRes (n : Nat) : DataTarget → Nat
  | .mem a => memRes a
  | _ => unitRes 5 n

/-- A load of `size` bytes at device address `a`. -/
def Issue.load (u : Issue) (n : Nat) (s : Syllable) (len : Nat) (it : Bool) (a size : Nat) (sg : Bool) (fails : Nat) :
    Issue :=
  let t := u.dev.dataTarget n a size false
  match t with
  | .fault c => { u with trap := some (s.trap len it c a) }
  | .wait p m => { u with stall := some { addr := p, dom := m } }
  | _ =>
    let r := u.dev.fetch (accessRes n t) a fails
    if r.2 = FetchOutcome.exhausted then { u with dev := r.1, trap := some (s.trap len it 7 a) }
    else
      match t with
      | .mem b => { u with dev := r.1, loaded := extendTo size sg (r.1.le b size) }
      | .ctl b => { u with dev := r.1, ctlLoad := some (b, size, sg) }
      | _ =>
        let f := r.1.free 32
        { u with dev := f.2, loaded := extendTo size sg f.1 }

/-- A store of `size` bytes of `w` at device address `a`, to be made at the commit. -/
def Issue.storeAt (u : Issue) (n : Nat) (s : Syllable) (len : Nat) (it : Bool) (a size : Nat) (w : Word) (fails : Nat) :
    Issue :=
  let t := u.dev.dataTarget n a size true
  match t with
  | .fault c => { u with trap := some (s.trap len it c a) }
  | .wait p m => { u with stall := some { addr := p, dom := m } }
  | _ =>
    let r := u.dev.fetch (accessRes n t) a fails
    if r.2 = FetchOutcome.exhausted then { u with dev := r.1, trap := some (s.trap len it 7 a) }
    else { u with dev := r.1, store := some (t, size, w) }

/-- The two fetches of an FMAC (R345). -/
def Issue.fmac (u : Issue) (n : Nat) (c : Core) (s : Syllable) (len : Nat) (it : Bool) (px py : Nat) (r : BundleRun) :
    Issue :=
  let ax := coreBase n + 0x20000 + c.ptr px
  let ay := coreBase n + 0x40000 + c.ptr (4 + py)
  if ax % 4 ≠ 0 then { u with trap := some (s.trap len it 6 ax) }
  else if ay % 4 ≠ 0 then { u with trap := some (s.trap len it 6 ay) }
  else
    let fx := u.dev.fetch (memRes ax) ax r.xFails
    if fx.2 = FetchOutcome.exhausted then { u with dev := fx.1, trap := some (s.trap len it 7 ax) }
    else
      let fy := fx.1.fetch (memRes ay) ay r.yFails
      if fy.2 = FetchOutcome.exhausted then { u with dev := fy.1, trap := some (s.trap len it 7 ay) }
      else { u with dev := fy.1, x := BitVec.ofNat 32 (fy.1.le ax 4), y := BitVec.ofNat 32 (fy.1.le ay 4) }

/-- A return-stack trap where it holds. -/
def Issue.trapIf (u : Issue) (b : Bool) (t : CoreTrap) : Issue := if b then { u with trap := some t } else u

/-- A pop at depth 0 or a push at depth 16 without RS_WRAP (R349). -/
def Core.pushFull (c : Core) : Bool := decide (16 ≤ c.rs.length) && !c.rsWrap

/-- Base address of a pointer's memory plus the pointer. -/
def Core.ptrAddr (c : Core) (n p : Nat) : Nat := coreBase n + (if p < 4 then 0x20000 else 0x40000) + c.ptr p

/-- What one syllable reads, and the trap that it takes. -/
def Issue.syllable (n : Nat) (c : Core) (r : BundleRun) (len : Nat) (it : Bool) (u : Issue) (s : Syllable) : Issue :=
  let trap (k : Nat) : Issue := { u with trap := some (s.trap len it k) }
  if u.trap.isSome || u.stall.isSome || (c.pq s.pr == s.pn) then u
  else
    match s.op with
    | .fmac _ _ px py _ _ _ _ => u.fmac n c s len it px py r
    | .load size sg _ b off => u.load n s len it (c.dr b + off).toNat size sg r.dataFails
    | .store size d b off => u.storeAt n s len it (c.dr b + off).toNat size (c.dr d) r.dataFails
    | .loadP _ p _ => u.load n s len it (c.ptrAddr n p) 4 false r.dataFails
    | .storeP d p _ => u.storeAt n s len it (c.ptrAddr n p) 4 (c.dr d) r.dataFails
    | .call _ => if c.pushFull then trap 8 else u
    | .callr _ => if c.pushFull then trap 8 else u
    | .mts sr _ => if sr = 12 && c.pushFull then trap 8 else u
    | .ret => if c.rs.isEmpty then trap 9 else u
    | .mfs _ sr => if sr = 12 && c.rs.isEmpty then trap 9 else u
    | .svc => trap 0xA
    | .smc => trap 0xB
    | .brk => trap 0xC
    | _ => u

/-! Commit. -/

/-- An accumulation into a[k]: AOVk becomes 1 where the exact result does not fit (R344). -/
def Core.addAc (c k : Core) (i : Nat) (sub clr : Bool) (p : Int) : Core :=
  let r := accumulate (c.ac i) sub clr p
  (k.setAc i r.1).stick (8 + i) r.2

/-- Post-modification (R338). -/
def Core.postMod (c k : Core) (p mod : Nat) : Core := if mod = 0 then k else k.setPtr p (c.ptr p + modStep mod)

/-- The writes of one syllable: sources from `c`, the core before the bundle, into `k`. -/
def Core.commit (n : Nat) (c : Core) (u : Issue) (s : Syllable) (k : Core) : Core :=
  if c.pq s.pr == s.pn then k
  else
    match s.op with
    | .alu o d a b => k.setD d (o.eval (c.dr a) (c.dr b))
    | .alui o d a i => k.setD d (o.eval (c.dr a) i)
    | .sel d a b q => k.setD d (if c.pq q then c.dr a else c.dr b)
    | .clz d a => k.setD d (BitVec.ofNat 32 (clz32 (c.dr a)))
    | .mov d a => k.setD d (c.dr a)
    | .movi d i => k.setD d i
    | .cmp o q a b => k.setQ q (o.eval (c.dr a) (c.dr b))
    | .cmpi o q a i => k.setQ q (o.eval (c.dr a) i)
    | .pred o q a b => k.setQ q (o.eval (c.pq a) (c.pq b))
    | .pnot q a => k.setQ q (!c.pq a)
    | .movl l a => k.setLc l (c.dr a).toNat
    | .movp p a => k.setPtr p (c.dr a).toNat
    | .mfp d p => k.setD d (BitVec.ofNat 32 (c.ptr p))
    | .mul d a b => k.setD d (c.dr a * c.dr b)
    | .mulh d a b => k.setD d (BitVec.ofInt 32 ((c.dr a).toInt * (c.dr b).toInt / 2 ^ 32))
    | .mulhu d a b => k.setD d (BitVec.ofNat 32 ((c.dr a).toNat * (c.dr b).toNat / 2 ^ 32))
    | .mac h2 i sub clr a b =>
      c.addAc k i sub clr ((if h2 then FmacKind.h2 else FmacKind.w).products (c.dr a) (c.dr b)).1
    | .fmac kind i px py xm ym sub clr =>
      let p := kind.products u.x u.y
      let k := c.addAc k i sub clr p.1
      let k := if kind = .hc then c.addAc k (i + 1) sub clr p.2 else k
      c.postMod (c.postMod k px xm) (4 + py) ym
    | .amov i d sh => (k.setD d (amovOf (c.ac i) sh).1).stick 6 (amovOf (c.ac i) sh).2
    | .aclr i => k.setAc i 0
    | .aset i a => k.setAc i (BitVec.ofInt 72 (c.dr a).toInt)
    | .load _ _ d _ _ => k.setD d u.loaded
    | .store _ _ _ _ => k
    | .loadP d p mod => c.postMod (k.setD d u.loaded) p mod
    | .storeP _ p mod => c.postMod k p mod
    | .fence => k
    | .isync => { k with unseen := [] }
    | .br _ => k
    | .call _ => k
    | .ret => { k with rs := c.rs.drop 1 }
    | .jr _ => k
    | .callr _ => k
    | .dbnz l _ => k.setLc l (c.lc l + 2 ^ 32 - 1)
    | .svc => k
    | .smc => k
    | .brk => k
    | .rett => { k with status := if n < 4 then c.trapStatus else c.trapStatus ||| 4#32 }
    | .wait => { k with run := .wait }
    | .nop => k
    | .mfs d sr => (c.sysReadEffect k sr).setD d (c.sysRead n sr)
    | .mts sr a => k.sysWrite sr (c.dr a)

/-- Where the bundle's B syllable sends the core: a target, and whether the next bundle address is pushed. -/
def Core.branch (c : Core) (s : Syllable) : Option (Nat × Bool) :=
  if c.pq s.pr == s.pn then none
  else
    let rel (d : Int) : Nat := unsignedOf ((c.pc : Int) + 4 * d) 16
    match s.op with
    | .br d => some (rel d, false)
    | .call d => some (rel d, true)
    | .jr a => some ((c.dr a).toNat % 65536, false)
    | .callr a => some ((c.dr a).toNat % 65536, true)
    | .ret => some (c.rs.headD 0, false)
    | .dbnz l d => if (c.lc l + 2 ^ 32 - 1) % 2 ^ 32 = 0 then none else some (rel d, false)
    | .rett => some (c.trapPc, false)
    | _ => none

/-- A store of core `n` that commits. A part of a control register leaves the register's other bytes open. -/
def Dev.commitStore (d : Dev) (n pc : Nat) (t : DataTarget) (size : Nat) (w : Word) : Dev :=
  match t with
  | .mem a =>
    let c := d.core n
    let own : Bool := decide (coreBase n ≤ a) && decide (a < coreBase n + 0x10000)
    let old := (List.range size).map fun i => (a - coreBase n + i, d.byte (a + i))
    (if own then d.setCore n { c with unseen := (pc, old) :: c.unseen } else d).setLe a size w.toNat
  | .ctl a =>
    if size = 4 then d.ctlWrite (.core n) a w
    else
      let f := d.free 32
      f.2.ctlWrite (.core n) (a / 4 * 4) (putBits (BitVec.ofNat 32 f.1) (a % 4 * 8) (8 * size) w.toNat)
  | _ => d

/-- What a register read returned, as the load of `size` bytes at address `a` takes it. -/
def Issue.take (u : Issue) (a size : Nat) (sg : Bool) (r : Dev × Word) : Issue :=
  { u with dev := r.1, loaded := extendTo size sg (r.2.toNat / 2 ^ (a % 4 * 8)) }

/-- The load of a control register that commits (R6, R8). -/
def Issue.ctlValue (u : Issue) (n : Nat) : Issue :=
  match u.ctlLoad with
  | none => u
  | some (a, size, sg) => u.take a size sg (u.dev.ctlRead (.core n) (a / 4 * 4))

/-- All syllables commit together; `next` is the address after the bundle. The store is made with the access rights of
before the bundle, and a reset of the core that it causes stands. -/
def Issue.commitAll (u : Issue) (n : Nat) (b : Bundle) (next : Nat) : Dev :=
  let u := u.ctlValue n
  let c := u.dev.core n
  let k := b.syls.foldr (Core.commit n c u) { c with iter := false }
  let go := b.syls.findSome? (Core.branch c)
  let j := match go with
    | some (a, _) => u.dev.jumpTo a
    | none => (next, u.dev)
  let k := match go with
    | some (_, true) => k.push next
    | _ => k
  let k := { k with pc := j.1 }
  match u.store with
  | none => j.2.setCore n k
  | some (t, size, w) =>
    let held := { k with status := c.status }
    let d := (j.2.setCore n held).commitStore n c.pc t size w
    let after := d.core n
    if { after with unseen := held.unseen } = held then d.setCore n { after with status := k.status } else d

/-- One execution of a bundle's syllables by core `n`: trap, stall on the alias, or commit. The flag says that it
committed and the core runs on. -/
def Dev.issue (d : Dev) (n : Nat) (b : Bundle) (r : BundleRun) (it : Bool) (next : Nat) : Dev × Bool :=
  let c := d.core n
  let u := b.syls.foldl (Issue.syllable n c r b.len it) { dev := d }
  match u.trap, u.stall with
  | some t, _ => (u.dev.syncTrap n t, false)
  | none, some w =>
    let d := (u.dev.setCore n { c with stalled := some w, iter := it }).settleAll
    let refused : Bool := !(d.domUp w.dom) && ((d.dom w.dom).supplyWait || decide (30 ≤ w.dom))
    if refused then
      let d := d.setCore n { d.core n with stalled := none }
      ((d.syncTrap n ((b.syls.find? fun s => s.slot = 2).elim { cause := 5 } fun s =>
        s.trap b.len it 5 (w.addr + 0x08000000))).settleAll, false)
    else (d, false)
  | none, none =>
    let d := u.commitAll n b next
    (d, (d.core n).run = .run)

/-- Iterations of a repeated bundle, at most `fuel` of them (R348). -/
def Dev.repeats (n : Nat) (b : Bundle) (lc next : Nat) : Nat → BundleRun → Dev → Dev
  | fuel, r, d =>
    let c := d.core n
    if c.lc lc = 0 then d.setCore n { c with pc := next, iter := false }
    else
      match fuel with
      | 0 => d.setCore n { c with iter := true }
      | fuel + 1 =>
        let e := d.issue n b r true c.pc
        if e.2 then
          let k := e.1.core n
          if k.lc lc = 0 then e.1
          else Dev.repeats n b lc next fuel { cycles := 0 } (e.1.setCore n (k.setLc lc (k.lc lc - 1)))
        else e.1

/-- The decode checks on the bundle at `c.pc`, in their order (R355): the bundle, or the trap. -/
def decodeCheck (n : Nat) (c : Core) (ws : List Nat) : Except CoreTrap Bundle :=
  match decodeBundle n ws with
  | .error (i, w, len) =>
    .error { cause := 1, inst := w, len := len, slot := sylSlot w, index := i, iter := c.iter }
  | .ok b =>
    let bad : Option (Nat × Nat) := match b.rep with
      | none => none
      | some _ =>
        match b.secondP with
        | some p => some p
        | none =>
          (b.syls.find? fun s => decide (s.slot = 3) || s.op.targets.any fun t => t = .loop 0 || t = .loop 1).map
            fun s => (s.index, s.inst)
    match bad with
    | some (i, w) =>
      .error { cause := 2, inst := w, len := b.len, slot := sylSlot w, index := i, iter := c.iter }
    | none =>
      match b.syls.find? fun s => s.op.privFault c n with
      | some s => .error (s.trap b.len c.iter 3)
      | none => .ok b

/-- Core `n` fetches, decodes and executes the bundle at its PC (R341). -/
def Dev.bundleRun (d : Dev) (n : Nat) (r : BundleRun) : Dev :=
  let c := d.core n
  let d := d.setCore n { c with cycle := c.cycle + r.cycles, unseen := c.unseenAt }
  let at0 := coreBase n + c.pc
  let f := d.fetch (memRes at0) at0 r.fetchFails
  let d := f.1
  let c := d.core n
  if f.2 = FetchOutcome.exhausted then
    let x := d.free 7
    x.2.syncTrap n { cause := 7, len := x.1 / 8, slot := x.1 % 8, iter := c.iter }
  else
    match decodeCheck n c (d.fetchWords n c.pc (if r.old then c.unseen else [])) with
    | .error t => d.syncTrap n t
    | .ok b =>
      let next := (c.pc + 4 * b.len) % 65536
      match b.rep with
      | none => (d.issue n b r false next).1
      | some lc => Dev.repeats n b lc next (r.more + 1) r d

/-- A core that executes: its domain is up, it runs firmware and no alias access holds it. -/
def Dev.executes (d : Dev) (n : Nat) : Bool :=
  decide (n < 8) && d.domUp (2 + n) && decide ((d.core n).run = .run) && (d.core n).stalled.isNone && !(d.core n).rom

/-- BUNDLE of core `n`. The sequencer takes up what its accesses caused. -/
def bundle (n : Nat) (r : BundleRun) (d : Dev) : Dev := if d.executes n then (d.bundleRun n r).pump else d

def execBundle (n : Nat) (r : BundleRun) (s : State) : Host.Outcome State Fault Refusal := s.run (bundle n r)

/-- INTERRUPT_TAKEN of core `n`: the highest pending interrupt at its input is taken where IE is 1 (R353). -/
def interruptTaken (n : Nat) (d : Dev) : Dev :=
  match d.irqInput n with
  | some i => if d.executes n && (d.core n).ie then d.interruptTrap n i else d
  | none => d

def execInterruptTaken (n : Nat) (s : State) : Host.Outcome State Fault Refusal := s.run (interruptTaken n)

/-- WAIT_END of core `n`: a pending interrupt ends the wait whatever IE holds, and is taken with IE = 1 (R351). -/
def waitEnd (n : Nat) (d : Dev) : Dev :=
  let c := d.core n
  match d.irqInput n with
  | some i =>
    if decide (n < 8) && d.domUp (2 + n) && decide (c.run = .wait) then
      let d := d.setCore n { c with run := .run }
      if c.ie then d.interruptTrap n i else d
    else d
  | none => d

def execWaitEnd (n : Nat) (s : State) : Host.Outcome State Fault Refusal := s.run (waitEnd n)

/-- ALIAS_ACCESS_COMPLETE of core `n`: with the domain up the bundle executes and the temporary vote goes; a domain
that cannot come up ends the access in DOMAIN_OFF (R25). -/
def aliasAccessComplete (n : Nat) (r : BundleRun) (d : Dev) : Dev :=
  let c := d.core n
  match c.stalled with
  | none => d
  | some w =>
    if !(decide (n < 8) && d.domUp (2 + n)) then d
    else if d.domUp w.dom || (d.dom w.dom).supplyWait then
      ((d.setCore n { c with stalled := none }).bundleRun n r).pump.settleAll
    else d

def execAliasAccessComplete (n : Nat) (r : BundleRun) (s : State) : Host.Outcome State Fault Refusal :=
  s.run (aliasAccessComplete n r)

end Sys2Proof.Machine
end

