-- ==== Sys2Proof/Machine/Dispatch.lean ====
section
/-! DEFINITION. The dispatch of every command to its meaning, one arm a constructor. -/

namespace Sys2Proof.Machine

open Sys2Proof

def exec (i : Instr) (s : State) : Host.Outcome State Fault Refusal :=
  match i with
  | .vddAonGood => Sys2Proof.Machine.execVddAonGood s
  | .powerOnReset => Sys2Proof.Machine.execPowerOnReset s
  | .porstNRise straps => Sys2Proof.Machine.execPorstNRise straps s
  | .sysrstNAssert => Sys2Proof.Machine.execSysrstNAssert s
  | .sysResetCtrlSys who w => Sys2Proof.Machine.execSysResetCtrlSys who w s
  | .sysResetCtrlCoreHold who w => Sys2Proof.Machine.execSysResetCtrlCoreHold who w s
  | .pciExpressReset => Sys2Proof.Machine.execPciExpressReset s
  | .railBrownOut r => Sys2Proof.Machine.execRailBrownOut r s
  | .nvOkFall => Sys2Proof.Machine.execNvOkFall s
  | .nvOkRise => Sys2Proof.Machine.execNvOkRise s
  | .railGood r => Sys2Proof.Machine.execRailGood r s
  | .bootSupplyTimeout => Sys2Proof.Machine.execBootSupplyTimeout s
  | .bootLowSupplyRecheck => Sys2Proof.Machine.execBootLowSupplyRecheck s
  | .packetBufferSelfTestDone failing => Sys2Proof.Machine.execPacketBufferSelfTestDone failing s
  | .bootHeaderReadDone hdr => Sys2Proof.Machine.execBootHeaderReadDone hdr s
  | .bootImageReadDone image => Sys2Proof.Machine.execBootImageReadDone image s
  | .bootSectionsCopied => Sys2Proof.Machine.execBootSectionsCopied s
  | .bootSelfTestDone failing => Sys2Proof.Machine.execBootSelfTestDone failing s
  | .bootFirmwareEntry => Sys2Proof.Machine.execBootFirmwareEntry s
  | .sysBootDoorbell who w => Sys2Proof.Machine.execSysBootDoorbell who w s
  | .bootPeerTimeout => Sys2Proof.Machine.execBootPeerTimeout s
  | .intNPulseEnd => Sys2Proof.Machine.execIntNPulseEnd s
  | .startupCalibrationStageDone g14 => Sys2Proof.Machine.execStartupCalibrationStageDone g14 s
  | .pwrVoteSet who w => Sys2Proof.Machine.execPwrVoteSet who w s
  | .pwrVoteClr who w => Sys2Proof.Machine.execPwrVoteClr who w s
  | .pwrVoteVnWrite who n w => Sys2Proof.Machine.execPwrVoteVnWrite who n w s
  | .domainSwitchOnStart n => Sys2Proof.Machine.execDomainSwitchOnStart n s
  | .domainPowerUpDone n => Sys2Proof.Machine.execDomainPowerUpDone n s
  | .domainDrainDone n => Sys2Proof.Machine.execDomainDrainDone n s
  | .domainDrainTimeout n => Sys2Proof.Machine.execDomainDrainTimeout n s
  | .domainDrainRetry n => Sys2Proof.Machine.execDomainDrainRetry n s
  | .domainIsolationDone n => Sys2Proof.Machine.execDomainIsolationDone n s
  | .domainSwitchOffDone n => Sys2Proof.Machine.execDomainSwitchOffDone n s
  | .pwrPadRelease who w => Sys2Proof.Machine.execPwrPadRelease who w s
  | .clkOpCtrlWrite who w => Sys2Proof.Machine.execClkOpCtrlWrite who w s
  | .opVoltageRampDone => Sys2Proof.Machine.execOpVoltageRampDone s
  | .opPllRelockDone => Sys2Proof.Machine.execOpPllRelockDone s
  | .coreRailDrop => Sys2Proof.Machine.execCoreRailDrop s
  | .wakePin n level => Sys2Proof.Machine.execWakePin n level s
  | .pwrWakeTimeHiWrite w => Sys2Proof.Machine.execPwrWakeTimeHiWrite w s
  | .wakeTimerCompare => Sys2Proof.Machine.execWakeTimerCompare s
  | .pwrWatchCtrlWrite who w => Sys2Proof.Machine.execPwrWatchCtrlWrite who w s
  | .watchPeriodTick => Sys2Proof.Machine.execWatchPeriodTick s
  | .watchGainSettled => Sys2Proof.Machine.execWatchGainSettled s
  | .watchDwellEnd energy corr => Sys2Proof.Machine.execWatchDwellEnd energy corr s
  | .watchVoteRelease => Sys2Proof.Machine.execWatchVoteRelease s
  | .calibrateOneEntry who lo c => Sys2Proof.Machine.execCalibrateOneEntry who lo c s
  | .calibrateEveryAllowedChannel who lo => Sys2Proof.Machine.execCalibrateEveryAllowedChannel who lo s
  | .invalidateOneEntry who lo c => Sys2Proof.Machine.execInvalidateOneEntry who lo c s
  | .invalidateEveryEntry who => Sys2Proof.Machine.execInvalidateEveryEntry who s
  | .runStages2To6 who => Sys2Proof.Machine.execRunStages2To6 who s
  | .calCommandEnd => Sys2Proof.Machine.execCalCommandEnd s
  | .fullCalibrationLock lo band trim => Sys2Proof.Machine.execFullCalibrationLock lo band trim s
  | .fullCalibrationFail lo => Sys2Proof.Machine.execFullCalibrationFail lo s
  | .backgroundRecalibrationStart n => Sys2Proof.Machine.execBackgroundRecalibrationStart n s
  | .retune lo => Sys2Proof.Machine.execRetune lo s
  | .loLockLoss lo => Sys2Proof.Machine.execLoLockLoss lo s
  | .tempSensorUpdate t => Sys2Proof.Machine.execTempSensorUpdate t s
  | .tp3Commit id => Sys2Proof.Machine.execTp3Commit id s
  | .txHopStart n mv => Sys2Proof.Machine.execTxHopStart n mv s
  | .txLock n => Sys2Proof.Machine.execTxLock n s
  | .txLockDeadline id => Sys2Proof.Machine.execTxLockDeadline id s
  | .txLeadStart n gnt mv => Sys2Proof.Machine.execTxLeadStart n gnt mv s
  | .txFirstChip n => Sys2Proof.Machine.execTxFirstChip n s
  | .txLastChip n => Sys2Proof.Machine.execTxLastChip n s
  | .txRampDownEnd n used err => Sys2Proof.Machine.execTxRampDownEnd n used err s
  | .txStage6Done n g14 => Sys2Proof.Machine.execTxStage6Done n g14 s
  | .coexCfgWrite who w => Sys2Proof.Machine.execCoexCfgWrite who w s
  | .coexRoleChange => Sys2Proof.Machine.execCoexRoleChange s
  | .coexRequestAssert c => Sys2Proof.Machine.execCoexRequestAssert c s
  | .coexGntFall => Sys2Proof.Machine.execCoexGntFall s
  | .coexReqEdge req pri act => Sys2Proof.Machine.execCoexReqEdge req pri act s
  | .gainWindowEnd m full peak => Sys2Proof.Machine.execGainWindowEnd m full peak s
  | .gainQuietIntervalEnd m peak => Sys2Proof.Machine.execGainQuietIntervalEnd m peak s
  | .castling m frac => Sys2Proof.Machine.execCastling m frac s
  | .rxwGainCfgWrite who b w => Sys2Proof.Machine.execRxwGainCfgWrite who b w s
  | .preambleDetection xs => Sys2Proof.Machine.execPreambleDetection xs s
  | .laneSyncTimeout i0 => Sys2Proof.Machine.execLaneSyncTimeout i0 s
  | .freezePoint i0 f => Sys2Proof.Machine.execFreezePoint i0 f s
  | .phrCheck i0 phr coded => Sys2Proof.Machine.execPhrCheck i0 phr coded s
  | .laneFrameEnd i0 psdu snr fails => Sys2Proof.Machine.execLaneFrameEnd i0 psdu snr fails s
  | .lanePostResume i0 => Sys2Proof.Machine.execLanePostResume i0 s
  | .forkChannelEstimate i0 x => Sys2Proof.Machine.execForkChannelEstimate i0 x s
  | .idleSample sub c ant p => Sys2Proof.Machine.execIdleSample sub c ant p s
  | .channelConfigEffect a => Sys2Proof.Machine.execChannelConfigEffect a s
  | .subModeEffect => Sys2Proof.Machine.execSubModeEffect s
  | .wurxTelegramMatch chips => Sys2Proof.Machine.execWurxTelegramMatch chips s
  | .restore who n t => Sys2Proof.Machine.execRestore who n t s
  | .commitPulseTable who n t => Sys2Proof.Machine.execCommitPulseTable who n t s
  | .pulseTableActivate n t => Sys2Proof.Machine.execPulseTableActivate n t s
  | .maskWindowEnd n lower upper => Sys2Proof.Machine.execMaskWindowEnd n lower upper s
  | .regMirrorCheck flips => Sys2Proof.Machine.execRegMirrorCheck flips s
  | .regMirrorReloadDone w => Sys2Proof.Machine.execRegMirrorReloadDone w s
  | .prog who w => Sys2Proof.Machine.execProg who w s
  | .sealRegion who => Sys2Proof.Machine.execSealRegion who s
  | .otpBitProgrammed u => Sys2Proof.Machine.execOtpBitProgrammed u s
  | .regStageW1Effect => Sys2Proof.Machine.execRegStageW1Effect s
  | .dutyBucketAdvance => Sys2Proof.Machine.execDutyBucketAdvance s
  | .lbtListenEnd n p => Sys2Proof.Machine.execLbtListenEnd n p s
  | .tempoWorkItem p fault => Sys2Proof.Machine.execTempoWorkItem p fault s
  | .verifyResult req => Sys2Proof.Machine.execVerifyResult req s
  | .ackDeadlineMissed req => Sys2Proof.Machine.execAckDeadlineMissed req s
  | .lockstepMismatch p item => Sys2Proof.Machine.execLockstepMismatch p item s
  | .tp4SelfTest good => Sys2Proof.Machine.execTp4SelfTest good s
  | .slotOccurrence m => Sys2Proof.Machine.execSlotOccurrence m s
  | .slotWindowClose m => Sys2Proof.Machine.execSlotWindowClose m s
  | .tschTimeslot => Sys2Proof.Machine.execTschTimeslot s
  | .lnkTschT0HiWrite who w => Sys2Proof.Machine.execLnkTschT0HiWrite who w s
  | .lnkTschCtrlWrite who w => Sys2Proof.Machine.execLnkTschCtrlWrite who w s
  | .ackWaitEnd id => Sys2Proof.Machine.execAckWaitEnd id s
  | .retryAttempt id => Sys2Proof.Machine.execRetryAttempt id s
  | .windowVoteLead w => Sys2Proof.Machine.execWindowVoteLead w s
  | .windowClose slot => Sys2Proof.Machine.execWindowClose slot s
  | .heldFrameSend slot => Sys2Proof.Machine.execHeldFrameSend slot s
  | .checkTelegramSend slot => Sys2Proof.Machine.execCheckTelegramSend slot s
  | .checkWaitEnd slot => Sys2Proof.Machine.execCheckWaitEnd slot s
  | .nodeAdd c => Sys2Proof.Machine.execNodeAdd c s
  | .nodeUpdate c => Sys2Proof.Machine.execNodeUpdate c s
  | .nodeRemove c => Sys2Proof.Machine.execNodeRemove c s
  | .nodeRead c => Sys2Proof.Machine.execNodeRead c s
  | .routeSet c => Sys2Proof.Machine.execRouteSet c s
  | .routeDel c => Sys2Proof.Machine.execRouteDel c s
  | .routeDelIndexCleared r => Sys2Proof.Machine.execRouteDelIndexCleared r s
  | .snapshot c => Sys2Proof.Machine.execSnapshot c s
  | .restoreStream c => Sys2Proof.Machine.execRestoreStream c s
  | .relayRetry id => Sys2Proof.Machine.execRelayRetry id s
  | .adopt who => Sys2Proof.Machine.execAdopt who s
  | .clear who => Sys2Proof.Machine.execClear who s
  | .adoptDone => Sys2Proof.Machine.execAdoptDone s
  | .clearDone => Sys2Proof.Machine.execClearDone s
  | .buddyReplicaTimeout node => Sys2Proof.Machine.execBuddyReplicaTimeout node s
  | .fedCtrlStart who w => Sys2Proof.Machine.execFedCtrlStart who w s
  | .fedCfgWrite who w => Sys2Proof.Machine.execFedCfgWrite who w s
  | .portLinkUp p => Sys2Proof.Machine.execPortLinkUp p s
  | .portLinkDown p => Sys2Proof.Machine.execPortLinkDown p s
  | .helloTimer => Sys2Proof.Machine.execHelloTimer s
  | .discoveryClose => Sys2Proof.Machine.execDiscoveryClose s
  | .hello h eui version prio ports digest => Sys2Proof.Machine.execHello h eui version prio ports digest s
  | .candidate h group best bitmap => Sys2Proof.Machine.execCandidate h group best bitmap s
  | .electionRound => Sys2Proof.Machine.execElectionRound s
  | .groupReport h group coord present aligned attested => Sys2Proof.Machine.execGroupReport h group coord present aligned attested s
  | .leader h leader groups => Sys2Proof.Machine.execLeader h leader groups s
  | .coordinatorLoss => Sys2Proof.Machine.execCoordinatorLoss s
  | .leaderLoss => Sys2Proof.Machine.execLeaderLoss s
  | .memberAbsent m => Sys2Proof.Machine.execMemberAbsent m s
  | .syncBurst => Sys2Proof.Machine.execSyncBurst s
  | .syncReq h index t2 => Sys2Proof.Machine.execSyncReq h index t2 s
  | .syncResp h t1 t2 t3 t4 => Sys2Proof.Machine.execSyncResp h t1 t2 t3 t4 s
  | .parentHoldoverTimeout => Sys2Proof.Machine.execParentHoldoverTimeout s
  | .digestTimer other => Sys2Proof.Machine.execDigestTimer other s
  | .digest h epoch digest nextEpoch nextDigest => Sys2Proof.Machine.execDigest h epoch digest nextEpoch nextDigest s
  | .recordReq h epoch ids => Sys2Proof.Machine.execRecordReq h epoch ids s
  | .manifest h entries => Sys2Proof.Machine.execManifest h entries s
  | .record h type id total offset data => Sys2Proof.Machine.execRecord h type id total offset data s
  | .recordReassemblyTimeout type id => Sys2Proof.Machine.execRecordReassemblyTimeout type id s
  | .propose h base digest proposer => Sys2Proof.Machine.execPropose h base digest proposer s
  | .prepare h epoch digest roster proposer => Sys2Proof.Machine.execPrepare h epoch digest roster proposer s
  | .prepared h epoch status bitmap => Sys2Proof.Machine.execPrepared h epoch status bitmap s
  | .prepareTimeout => Sys2Proof.Machine.execPrepareTimeout s
  | .commit h epoch digest t => Sys2Proof.Machine.execCommit h epoch digest t s
  | .commitTime => Sys2Proof.Machine.execCommitTime s
  | .abort h epoch status => Sys2Proof.Machine.execAbort h epoch status s
  | .joinTimeout => Sys2Proof.Machine.execJoinTimeout s
  | .replicationSend => Sys2Proof.Machine.execReplicationSend s
  | .replica h entries => Sys2Proof.Machine.execReplica h entries s
  | .replicaAck h applied => Sys2Proof.Machine.execReplicaAck h applied s
  | .replicationRetx => Sys2Proof.Machine.execReplicationRetx s
  | .replicaReq h first count => Sys2Proof.Machine.execReplicaReq h first count s
  | .migrationStart node => Sys2Proof.Machine.execMigrationStart node s
  | .migrateOffer h node offer ctx => Sys2Proof.Machine.execMigrateOffer h node offer ctx s
  | .migrateAnswer h offer status => Sys2Proof.Machine.execMigrateAnswer h offer status s
  | .offerRetry offer => Sys2Proof.Machine.execOfferRetry offer s
  | .migrateDone h node offer owner => Sys2Proof.Machine.execMigrateDone h node offer owner s
  | .doneRepeat offer => Sys2Proof.Machine.execDoneRepeat offer s
  | .migrateActive h offer => Sys2Proof.Machine.execMigrateActive h offer s
  | .activeTimeout offer => Sys2Proof.Machine.execActiveTimeout offer s
  | .pendingDiscard m offer => Sys2Proof.Machine.execPendingDiscard m offer s
  | .attestChallenge h nonce => Sys2Proof.Machine.execAttestChallenge h nonce s
  | .attestResponse h eui member svn key good => Sys2Proof.Machine.execAttestResponse h eui member svn key good s
  | .attestTimeout m => Sys2Proof.Machine.execAttestTimeout m s
  | .visitor h node octets => Sys2Proof.Machine.execVisitor h node octets s
  | .transmit h node start q profile phy sub chan mode psdu => Sys2Proof.Machine.execTransmit h node start q profile phy sub chan mode psdu s
  | .redirect h node octets => Sys2Proof.Machine.execRedirect h node octets s
  | .result h node start status => Sys2Proof.Machine.execResult h node start status s
  | .bootReq h eui offset image => Sys2Proof.Machine.execBootReq h eui offset image s
  | .bootData h offset data => Sys2Proof.Machine.execBootData h offset data s
  | .hciEnable who w => Sys2Proof.Machine.execHciEnable who w s
  | .hciReset who w => Sys2Proof.Machine.execHciReset who w s
  | .fwReadyWrite who w => Sys2Proof.Machine.execFwReadyWrite who w s
  | .fwReadyTimeout id => Sys2Proof.Machine.execFwReadyTimeout id s
  | .doorbell q w entries => Sys2Proof.Machine.execDoorbell q w entries s
  | .commandWakeDone id => Sys2Proof.Machine.execCommandWakeDone id s
  | .commandWakeTimeout id => Sys2Proof.Machine.execCommandWakeTimeout id s
  | .firmwareInterimCompletion id => Sys2Proof.Machine.execFirmwareInterimCompletion id s
  | .msiXPendingSend => Sys2Proof.Machine.execMsiXPendingSend s
  | .dmaFault q => Sys2Proof.Machine.execDmaFault q s
  | .txFrame c => Sys2Proof.Machine.execTxFrame c s
  | .regRead c => Sys2Proof.Machine.execRegRead c s
  | .regWrite c => Sys2Proof.Machine.execRegWrite c s
  | .powerVote c => Sys2Proof.Machine.execPowerVote c s
  | .helloCommand c => Sys2Proof.Machine.execHelloCommand c s
  | .identify c => Sys2Proof.Machine.execIdentify c s
  | .queueCreate c => Sys2Proof.Machine.execQueueCreate c s
  | .queueDelete c => Sys2Proof.Machine.execQueueDelete c s
  | .txCancel c => Sys2Proof.Machine.execTxCancel c s
  | .fedRecordPut c => Sys2Proof.Machine.execFedRecordPut c s
  | .fedRecordDel c => Sys2Proof.Machine.execFedRecordDel c s
  | .fedPropose c => Sys2Proof.Machine.execFedPropose c s
  | .fedMemberRead c => Sys2Proof.Machine.execFedMemberRead c s
  | .fedMigrate c => Sys2Proof.Machine.execFedMigrate c s
  | .regProg c => Sys2Proof.Machine.execRegProg c s
  | .secureRead c => Sys2Proof.Machine.execSecureRead c s
  | .keyLoad c => Sys2Proof.Machine.execKeyLoad c s
  | .keyClear c => Sys2Proof.Machine.execKeyClear c s
  | .keyWrap c => Sys2Proof.Machine.execKeyWrap c s
  | .blobPut c => Sys2Proof.Machine.execBlobPut c s
  | .keyAttrRead c => Sys2Proof.Machine.execKeyAttrRead c s
  | .lcStatus c => Sys2Proof.Machine.execLcStatus c s
  | .lcTransition c => Sys2Proof.Machine.execLcTransition c s
  | .applicationCommand op opened c => Sys2Proof.Machine.execApplicationCommand op opened c s
  | .start who w rdy => Sys2Proof.Machine.execStart who w rdy s
  | .cspmAbort who => Sys2Proof.Machine.execCspmAbort who s
  | .cspmRdyTimeout => Sys2Proof.Machine.execCspmRdyTimeout s
  | .cspmRequestDone data n => Sys2Proof.Machine.execCspmRequestDone data n s
  | .cspsWrite f => Sys2Proof.Machine.execCspsWrite f s
  | .cspsRead f => Sys2Proof.Machine.execCspsRead f s
  | .fstat f => Sys2Proof.Machine.execFstat f s
  | .cspsCommitDone => Sys2Proof.Machine.execCspsCommitDone s
  | .bundle n r => Sys2Proof.Machine.execBundle n r s
  | .interruptTaken n => Sys2Proof.Machine.execInterruptTaken n s
  | .waitEnd n => Sys2Proof.Machine.execWaitEnd n s
  | .gpioEdge p level => Sys2Proof.Machine.execGpioEdge p level s
  | .tmrCtrlStart who n w => Sys2Proof.Machine.execTmrCtrlStart who n w s
  | .tmrCtrlStop who n w => Sys2Proof.Machine.execTmrCtrlStop who n w s
  | .eventTimerExpiry n => Sys2Proof.Machine.execEventTimerExpiry n s
  | .pulseEnd line => Sys2Proof.Machine.execPulseEnd line s
  | .holdoffEnd k => Sys2Proof.Machine.execHoldoffEnd k s
  | .taskPendingServe t => Sys2Proof.Machine.execTaskPendingServe t s
  | .stormRearm p n => Sys2Proof.Machine.execStormRearm p n s
  | .evrEcnCfgWrite who n w => Sys2Proof.Machine.execEvrEcnCfgWrite who n w s
  | .evrLunCfgWrite who k w => Sys2Proof.Machine.execEvrLunCfgWrite who k w s
  | .irqCfgWrite who n w => Sys2Proof.Machine.execIrqCfgWrite who n w s
  | .irqPendWrite who i0 w => Sys2Proof.Machine.execIrqPendWrite who i0 w s
  | .irqClaim who n => Sys2Proof.Machine.execIrqClaim who n s
  | .irqSgi who w => Sys2Proof.Machine.execIrqSgi who w s
  | .load who slot => Sys2Proof.Machine.execLoad who slot s
  | .keyCmdClear who slot => Sys2Proof.Machine.execKeyCmdClear who slot s
  | .unwrap who slot kek => Sys2Proof.Machine.execUnwrap who slot kek s
  | .wrap who slot kek => Sys2Proof.Machine.execWrap who slot kek s
  | .derive who slot => Sys2Proof.Machine.execDerive who slot s
  | .lock who slot => Sys2Proof.Machine.execLock who slot s
  | .loadKr who slot => Sys2Proof.Machine.execLoadKr who slot s
  | .progKr who slot => Sys2Proof.Machine.execProgKr who slot s
  | .keyOperationDone => Sys2Proof.Machine.execKeyOperationDone s
  | .keySlotAttrWrite who n w => Sys2Proof.Machine.execKeySlotAttrWrite who n w s
  | .keyBlobCfgWrite who w => Sys2Proof.Machine.execKeyBlobCfgWrite who w s
  | .keyPoolWrite who w => Sys2Proof.Machine.execKeyPoolWrite who w s
  | .remaskSweep => Sys2Proof.Machine.execRemaskSweep s
  | .nodeUnwrapDone slot => Sys2Proof.Machine.execNodeUnwrapDone slot s
  | .otpLcCmdStart who w => Sys2Proof.Machine.execOtpLcCmdStart who w s
  | .lcTransitionStep => Sys2Proof.Machine.execLcTransitionStep s
  | .cphSubmit who a => Sys2Proof.Machine.execCphSubmit who a s
  | .cipherDispatch => Sys2Proof.Machine.execCipherDispatch s
  | .cipherSuspend b => Sys2Proof.Machine.execCipherSuspend b s
  | .cipherRequestDone n fault => Sys2Proof.Machine.execCipherRequestDone n fault s
  | .bulkAge id => Sys2Proof.Machine.execBulkAge id s
  | .cipherDomainTimeout id => Sys2Proof.Machine.execCipherDomainTimeout id s
  | .rowRemapDone res entry bucket => Sys2Proof.Machine.execRowRemapDone res entry bucket s
  | .queueRetireMove q => Sys2Proof.Machine.execQueueRetireMove q s
  | .sparingMapCheck bad => Sys2Proof.Machine.execSparingMapCheck bad s
  | .hostBarAccess bar2 off data fails => Sys2Proof.Machine.execHostBarAccess bar2 off data fails s
  | .aliasAccessComplete n r => Sys2Proof.Machine.execAliasAccessComplete n r s
  | .rcFieldRead who a => Sys2Proof.Machine.execRcFieldRead who a s
  | .loWordRead who a => Sys2Proof.Machine.execLoWordRead who a s
  | .registerWrite who a w => Sys2Proof.Machine.execRegisterWrite who a w s
  | .bandLoLock lo => Sys2Proof.Machine.execBandLoLock lo s
  | .hopLockFailure n => Sys2Proof.Machine.execHopLockFailure n s
  | .detectorBlankingEnd n => Sys2Proof.Machine.execDetectorBlankingEnd n s
  | .windowOpen slot => Sys2Proof.Machine.execWindowOpen slot s
  | .leaderHeartbeat => Sys2Proof.Machine.execLeaderHeartbeat s
  | .pcieLinkUp msix master => Sys2Proof.Machine.execPcieLinkUp msix master s
  | .cspmRdyRise => Sys2Proof.Machine.execCspmRdyRise s
  | .sysrstNRelease => Sys2Proof.Machine.execSysrstNRelease s
  | .rteIdxRebuildDone => Sys2Proof.Machine.execRteIdxRebuildDone s

end Sys2Proof.Machine
end

