-- ==== Sys2Proof/Machine/Idle.lean ====
section
/-! DEFINITION. What the device does on an empty queue: one tick passes (R4). -/

namespace Sys2Proof.Machine

open Sys2Proof

/-- One tick of 31.25 ns, reset held as long as PORST_N is low. TMB advances and is slewed (R272), events in flight in the
router go on (R367), closed windows release their votes (R217), and the sequencer and PWR take up what waits. -/
def Dev.tick (d : Dev) : Dev :=
  if d.pins.porstLow then d
  else ((((({ d with tmb := d.tmb + 1 } : Dev).slewTick).raiseEvs []).winSweep).pump).settleAll

end Sys2Proof.Machine
end

