-- ==== Sys2Proof/Safety.lean ====
section
/-! DEFINITION. What counts as a safe state and a safe run, in the terms the statements use. -/

namespace Sys2Proof.Machine

open Sys2Proof

/-- The registers of core `n` keep their widths and numbers (R337), the return stack its depth (R349), the PC and the
vector bases their alignment (R340, R352), and C4–C7 stay in the normal state (R335, R350). -/
def Core.ok (n : Nat) (c : Core) : Prop :=
  (c.d.length = 32 ∧ c.acc.length = 4 ∧ c.px.length = 4 ∧ c.py.length = 4 ∧ c.q.length = 8 ∧ c.lcnt.length = 2) ∧
    ((∀ p ∈ c.px, p < 2 ^ 17) ∧ (∀ p ∈ c.py, p < 2 ^ 17) ∧ (∀ l ∈ c.lcnt, l < 2 ^ 32)) ∧
    (c.rs.length ≤ 16 ∧ ∀ a ∈ c.rs, a < 2 ^ 16) ∧
    (c.pc % 4 = 0 ∧ c.pc < 2 ^ 16 ∧ c.vbaseS % 256 = 0 ∧ c.vbaseS < 2 ^ 16 ∧ c.vbaseNS % 256 = 0 ∧ c.vbaseNS < 2 ^ 16) ∧
    (4 ≤ n → c.ns = true)

/-- The invariant of a device: registers and memory list rising addresses and nothing that reads as its default, and the
eight cores are as `Core.ok` says. -/
@[irreducible] def Dev.inv (d : Dev) : Prop :=
  regsWf d.regs = true ∧ Memory.wf d.mem = true ∧ d.cores.length = 8 ∧ ∀ n, n < 8 → Core.ok n (d.core n)

/-- The invariant of a state. -/
def State.inv (s : State) : Prop := s.dev.inv

/-- A step that ends in a next state. -/
def State.runs (s : State) : Prop := ∃ t, step s = .next t

/-- Every command of a list completes, one after the other. -/
def Completes : List Instr → State → Prop
  | [], _ => True
  | c :: cs, s => ∃ t, exec c s = .next t ∧ Completes cs t

/-- `n` steps lead from state `s` to state `t`. -/
def Steps : Nat → State → State → Prop
  | 0, s, t => t = s
  | n + 1, s, t => ∃ u, step s = .next u ∧ Steps n u t

/-- Command `c` completes on device `d`, whatever waits behind it: the queue stays and the device it leaves satisfies `P`. -/
def Answers (c : Instr) (d : Dev) (P : Dev → Prop) : Prop :=
  ∀ q : List Instr, ∃ t, exec c { pending := q, dev := d } = .next t ∧ t.pending = q ∧ P t.dev

/-- The host's command `c` of opcode `op`, submitted on device `d` behind an empty sequencer, is the next to be fetched
and starts at once: on device `e`, as command `x`, with its checks passed and its domains and its unit ready (R297, R300,
R301, R304), and it meets the parity fault `fault` on a word that it reads (R421). -/
def StartsWith (fault : Option (Nat × Nat)) (op : Nat) (c : HostCmd) (d e : Dev) (x : HciCmd) : Prop :=
  ∃ g : Dev, g = (d.hostEntry (c.sq % 128) 0 { c with w := (c.w.getD 0 0 / 256 * 256 + op) :: c.w.drop 1 }).doorbellWrite
      (c.sq % 128) ((d.qTail (c.sq % 128) + 1) % d.qLen (c.sq % 128)) ∧
    g.domUp 1 = true ∧ g.hci.stored = [] ∧ g.barredRings = [] ∧ g.hci.cmds = [] ∧ g.nextQueue = some (c.sq % 128) ∧
    e = g.fetchFrom (c.sq % 128) ∧ e.hci.cmds = [x] ∧ x.fault = fault ∧ x.opcode = op ∧ e.cmdCheck x = Code.ok ∧
    (x.isFw = true → op < 192 → e.fwServed = true) ∧ e.cmdAsleep x = [] ∧ e.unitTaken x = false

/-- The command starts at once and meets no parity fault. -/
def Starts (op : Nat) (c : HostCmd) (d e : Dev) (x : HciCmd) : Prop := StartsWith none op c d e x

/-- `t` differs from `d` in registers only, and in none outside `ex`. -/
def OnlyRegs (d t : Dev) (ex : List Nat) : Prop := t = { d with regs := t.regs } ∧ ∀ a, a ∉ ex → t.reg a = d.reg a

end Sys2Proof.Machine
end

