-- ==== Sys2Proof/Certificates/Slice0/Obligations.lean ====
section
/-! DEFINITION. The statements about the model, for the provers. -/

open Sys2Proof Sys2Proof.Machine

/-- VDD_AON reaching its level sets AON_GOOD and nothing else; a power-on reset leaves every register at its reset value
but SYS_SUPPLY_STATUS, which is kept, and SYS_RESET_CAUSE, which shows POR, with SYSRST_PIN where SYSRST_N is low too;
memory is zero-filled, the cores and keys are as at reset, PORST_N is low and the OTP is kept; the rising edge of
PORST_N captures the six straps, disables their buffers and starts the boot unless SYSRST_N is low; SYSRST_N low is a
system reset with cause bit 1, or, while PORST_N is low, records that bit alone; its release starts the boot; a PCI
Express reset sets cause bit 5, drops the link, resets the endpoint and the host interface, and gives running firmware
the link-down event; a brown-out of a rail other than VDD_AON clears its GOOD bit and is a system reset with cause bit
4, and one of VDD_AON is a power-on reset. -/
def Obligations.ResetPinsAct : Prop :=
    (∀ (d : Dev), d.inv → 
      Answers .vddAonGood d fun t =>
        OnlyRegs { d with pins := { d.pins with aonGood := true } } t [Reg.sysSupplyStatus] ∧
        t.rd Fld.sysSupplyStatus_good = setBitN (d.rd Fld.sysSupplyStatus_good) 0 % 2 ^ 7) ∧
    (∀ (d : Dev), 
      Answers .powerOnReset d fun t =>
        (∀ a, a ≠ Reg.sysSupplyStatus → a ≠ Reg.sysResetCause → t.reg a = regReset a) ∧
        t.reg Reg.sysSupplyStatus = d.cutBits.reg Reg.sysSupplyStatus ∧
        t.reg Reg.sysResetCause = (if d.cutBits.pins.sysrstLow then 3#32 else 1#32) ∧
        t.mem = [] ∧ t.cores = Dev.reset.cores ∧ t.keys = Dev.reset.keys ∧ t.pwr = Dev.reset.pwr ∧ t.pins.porstLow = true ∧
        t.fuses = d.cutBits.fuses ∧ t.otpRegion = d.cutBits.otpRegion) ∧
    (∀ (d : Dev) (straps : Nat), d.inv → d.pins.porstLow = true → d.pins.aonGood = true → 
      Answers (.porstNRise straps) d fun t =>
        ∃ e : Dev, t = (if d.pins.sysrstLow then e else e.bootStart) ∧ e.reg Reg.sysStrap = BitVec.ofNat 32 (straps % 64) ∧
        OnlyRegs { d with pins := { d.pins with porstLow := false, strapBuffers := false } } e [Reg.sysStrap]) ∧
    (∀ (d : Dev), d.pins.porstLow = false → 
      Answers .sysrstNAssert d fun t =>
        t = ({ d with pins := { d.pins with sysrstLow := true } } : Dev).cutBits.systemReset 1) ∧
    (∀ (d : Dev), d.pins.porstLow = true → 
      Answers .sysrstNAssert d fun t =>
        t = ({ d with pins := { d.pins with sysrstLow := true } } : Dev).resetCause 1) ∧
    (∀ (d : Dev), d.pins.porstLow = false → d.pins.sysrstLow = true → 
      Answers .sysrstNRelease d fun t =>
        t = ({ d with pins := { d.pins with sysrstLow := false } } : Dev).bootStart) ∧
    (∀ (d : Dev) (e f : Dev), e = d.setReg Reg.sysResetCause (d.reg Reg.sysResetCause ||| 0x20#32) → f = ({ e with msix := {}, pins := { e.pins with pcieLinkUp := false } } : Dev).hciReset → 
      Answers .pciExpressReset d fun t =>
        t = (if f.firmwareRuns then f.emit .linkDown else f)) ∧
    (∀ (d : Dev) (r : Nat), d.inv → r < 7 → d.pins.porstLow = false → 
      Answers (.railBrownOut r) d fun t =>
        ∃ e : Dev, t = (if r = 0 then ({ e with pins := { e.pins with aonGood := false } } : Dev).cutBits.powerOnReset
        else e.cutBits.systemReset 4) ∧ OnlyRegs d e [Reg.sysSupplyStatus] ∧
        e.rd Fld.sysSupplyStatus_good = clrBitN (d.rd Fld.sysSupplyStatus_good) r % 2 ^ 7)

/-- While SYSRST_N stays low after a system reset: TMB, the fuses and the OTP region are as before, and the duty accounts
and every register of D0 are as the end of the frames in transmit leaves them, but for SYS_RESET_CAUSE, the votes and
the status of calibrations, chains, oscillators, trims, the watch and aborts; every register outside D0 holds its
reset value; the cause bit is set; the key slots, the cores, the host interface, the Tempo engines, the cipher array
and the event router are as after reset; bytes outside node memory read as zero-filled. -/
def Obligations.SystemResetKeepsTheAlwaysOnDomain : Prop :=
 ∀ (d : Dev) (cause : Nat), d.inv → d.pins.sysrstLow = true → cause < 32 →
     let t := d.systemReset cause
     (t.tmb = d.tmb ∧ t.duty = d.stopFrames.duty ∧ t.fuses = d.fuses ∧ t.otpRegion = d.otpRegion) ∧
       (t.keys = Dev.reset.keys ∧ t.cores = Dev.reset.cores ∧ t.hci = Dev.reset.hci ∧ t.tempo = Dev.reset.tempo ∧
         t.cph = Dev.reset.cph ∧ t.evr = Dev.reset.evr) ∧
       (t.reg Reg.sysResetCause).getLsbD cause = true ∧
       (∀ a, keptRegister a = false → t.reg a = regReset a) ∧
       (∀ a, keptRegister a = true → a < Reg.pwrVoteV ∨ Reg.pwrVoteV + 128 ≤ a →
         a ∉ [Reg.sysResetCause, Fld.rfsCalStatus_busy.at 0, Fld.rfsChainState_chains.at 0, Fld.rfsLoStatus_locked.at 0,
           Fld.rfsPwrTrim_trim.at 0, Fld.rfsPwrTrim_trim.at 1, Fld.rfsPwrTrim_trim.at 2, Fld.rfsPwrTrim_trim.at 3,
           Fld.pwrWatchStatus_state.at 0, Fld.pwrDomAbort_aborts.at 22] → t.reg a = d.stopFrames.reg a) ∧
       (∀ a, isNodeMemory a = false → t.byte a = memDefault)

/-- A supply timeout in step 2 halts with code 0x11; a low-supply recheck goes on once NV_OK is 1, halts with 0x12 after 1
s of checks and counts a check otherwise; the end of the packet-buffer self-test halts with 0x15 where a row could not
be remapped, and otherwise, its buffer zero-filled unless this is a wake start, asks the source of BOOT_SEL for an
image; a header that passes its checks leads to the image of its slot, read at the DIV, lanes and edges of its
CSPM_MODE, and one that fails fails the slot; an image is stored in the packet buffer, checked, and accepted or its
slot failed; once the memories of their destinations are up, the sections are copied in order; the background self-
test halts with 0x15 where a row of C0's memory stays bad, marks DEGRADED where another one does, and ends; C0 enters
firmware at ENTRY in the secure state and the start-up calibration is considered. -/
def Obligations.BootStepsAdvance : Prop :=
    (∀ (d : Dev), d.boot.phase = .supplies → d.allRailsGood = false → 
      Answers .bootSupplyTimeout d fun t =>
        t = d.bootHalt 0x11) ∧
    (∀ (d : Dev) (n : Nat), d.boot.phase = .lowSupply n → 
      Answers .bootLowSupplyRecheck d fun t =>
        (d.nvOk = true → t = { d.bootCode 0x03 with boot := { d.boot with phase := .lcResume } }) ∧
        (d.nvOk = false → 99 ≤ n → t = d.bootHalt 0x12) ∧
        (d.nvOk = false → n < 99 → t = { d with boot := { d.boot with phase := .lowSupply (n + 1) } })) ∧
    (∀ (d : Dev) (failing : List Nat) (e f : Dev), d.boot.phase = .packetTest → d.domUp 23 = true → d.remapRows (failing.map (rowRes 32)) = (e, []) → (f = if d.boot.wake then e else e.clearMem isPacketBuffer) → 
      Answers (.packetBufferSelfTestDone failing) d fun t =>
        (f.rd Fld.sysStrap_bootSel = 0 → t = { f.romFlash none with boot := { f.boot with phase := .header 1 } }) ∧
        (f.rd Fld.sysStrap_bootSel = 3 → t = ({ f.bootCode 0x02 with boot := { f.boot with phase := .waitPeer } } : Dev).bootRequest) ∧
        (f.rd Fld.sysStrap_bootSel ≠ 0 → f.rd Fld.sysStrap_bootSel ≠ 3 →
        t = { f.bootCode 0x02 with boot := { f.boot with phase := .waitHost } })) ∧
    (∀ (d : Dev) (failing : List Nat), d.boot.phase = .packetTest → d.domUp 23 = true → (d.remapRows (failing.map (rowRes 32))).2 ≠ [] → 
      Answers (.packetBufferSelfTestDone failing) d fun t =>
        t = (d.remapRows (failing.map (rowRes 32))).1.bootHalt 0x15) ∧
    (∀ (d : Dev) (hdr : List Byte) (slot : Nat), d.boot.phase = .header slot → 
      Answers (.bootHeaderReadDone hdr) d fun t =>
        (headerCode (padTo 352 hdr) = 0 →
        t = { (d.bootAttempt slot).romFlash (some (leAt hdr 0x011 1)) with boot := { (d.bootAttempt slot).boot with phase := .image slot } }) ∧
        (headerCode (padTo 352 hdr) ≠ 0 → t = (d.bootAttempt slot).slotFail slot (headerCode (padTo 352 hdr)))) ∧
    (∀ (d : Dev) (image : List Byte) (slot : Nat), d.boot.phase = .image slot → 
      Answers (.bootImageReadDone image) d fun t =>
        (let r := (d.setBytes pktBase (image.take 0x1C0000)).checkImage image
        (r.2 = 0 → t = r.1.acceptImage image) ∧ (r.2 ≠ 0 → t = r.1.slotFail slot r.2))) ∧
    (∀ (d : Dev) (e : Dev), d.boot.phase = .copying → (∀ n ∈ sectionDomains (d.bytes pktBase 352), d.domUp n = true) → (e = (List.range (hdrSections (d.bytes pktBase 352))).foldl (fun e i => e.copySection (imgSection (d.bytes pktBase 352) i)) d) → 
      Answers .bootSectionsCopied d fun t =>
        t = { e with boot := { e.boot with phase := .copied } }) ∧
    (∀ (d : Dev) (failing : List Nat), d.boot.phase.selfTests = true → d.boot.selfTested = false → 
      Answers (.bootSelfTestDone failing) d fun t =>
        (let r := d.remapRows failing
        (r.2 = [] → t = { r.1 with boot := { r.1.boot with selfTested := true } }) ∧
        (r.2 ≠ [] → (∀ x ∈ r.2, resMem x < 33 ∨ 35 < resMem x) →
        (let e := r.1.wr Fld.sysBootStatus_degraded 1; t = { e with boot := { e.boot with selfTested := true } })) ∧
        ((∃ x ∈ r.2, 33 ≤ resMem x ∧ resMem x ≤ 35) → t = r.1.bootHalt 0x15))) ∧
    (∀ (d : Dev), d.boot.phase = .copied → d.boot.selfTested = true → d.domUp 2 = true → 
      Answers .bootFirmwareEntry d fun t =>
        t = (({ d.bootCode 0x00 with boot := { d.boot with phase := .entered } } : Dev).setCore 0
        { coreReset 0 with pc := d.boot.entry % 65536 / 4 * 4, run := .run }).startupCal)

/-- SYS_RESET_CTRL with its key and SYS = 1 is a system reset, with cause bit 3 for the host and 2 for a core, after a
secure core's CORE_HOLD bits have held and released C1 to C7 in order; with SYS = 0 a secure core's CORE_HOLD bits
hold and release C1 to C7 in order; the host's doorbell, while the ROM waits for the host, checks the image of the
given length in the packet buffer; the end of the wait for a peer shows code 0x26, forgets what a peer sent and sends
the request again from offset 0; the end of the INT_N pulse ends the pulse and shows code 0x02 where the ROM waits;
the octets of the peer that answers first, where they continue its image, are stored in the packet buffer and
appended, and the request goes on while the header is incomplete or, being valid, announces more octets; else the
image is checked. -/
def Obligations.BootSourcesAct : Prop :=
    (∀ (d : Dev) (who : Initiator) (w : Word) (e : Dev), d.domUp 1 = true → wBits (w ||| 0x100#32) 31 16 = 0xA5C3 → d.secureOrHost who = true → (e = (if d.secure who then (List.range 7).foldl (fun e k => e.coreHold ((w ||| 0x100#32).toNat.testBit (k + 1)) (k + 1)) (d.rsvd who Reg.sysResetCtrl (w ||| 0x100#32)) else d.rsvd who Reg.sysResetCtrl (w ||| 0x100#32))) → 
      Answers (.sysResetCtrlSys who w) d fun t =>
        t = e.cutBits.systemReset (if who = .host then 3 else 2)) ∧
    (∀ (d : Dev) (who : Initiator) (w : Word), d.domUp 1 = true → wBits (w &&& 0xFFFFFEFF#32) 31 16 = 0xA5C3 → d.secure who = true → 
      Answers (.sysResetCtrlCoreHold who w) d fun t =>
        t = (List.range 7).foldl (fun e k => e.coreHold ((w &&& 0xFFFFFEFF#32).toNat.testBit (k + 1)) (k + 1))
        (d.rsvd who Reg.sysResetCtrl (w &&& 0xFFFFFEFF#32))) ∧
    (∀ (d : Dev) (who : Initiator) (w : Word), d.boot.phase = .waitHost → who = .host → d.domUp 1 = true → d.domUp 23 = true → 
      Answers (.sysBootDoorbell who w) d fun t =>
        t = d.checkBuffer w.toNat) ∧
    (∀ (d : Dev), d.boot.phase = .waitPeer → 
      Answers .bootPeerTimeout d fun t =>
        t = ({ d.bootCode 0x26 with boot := { d.boot with peerImage := [], peerFrom := none } } : Dev).bootRequest) ∧
    (∀ (d : Dev), d.pins.intPulse = true → 
      Answers .intNPulseEnd d fun t =>
        t.pins = { d.pins with intPulse := false } ∧
        (d.boot.phase = .waitHost ∨ d.boot.phase = .waitPeer →
        t = ({ d with pins := { d.pins with intPulse := false } } : Dev).bootCode 0x02) ∧
        (d.boot.phase ≠ .waitHost → d.boot.phase ≠ .waitPeer → t = { d with pins := { d.pins with intPulse := false } })) ∧
    (∀ (d : Dev) (h : BmHdr) (offset : Nat) (bytes img : List Byte) (e : Dev), d.boot.phase = .waitPeer → d.domUp 27 = true → h.formatOk = true → (d.boot.peerFrom = none ∨ d.boot.peerFrom = some (bmFrom h)) → bytes ≠ [] → bytes.length ≤ 2048 → offset = d.boot.peerImage.length → img = d.boot.peerImage ++ bytes → e = ({ (d.setBytes (pktBase + offset) bytes).bootCode 0x02 with boot := { d.boot with peerImage := img, peerFrom := some (bmFrom h) } } : Dev) → 
      Answers (.bootData h offset bytes) d fun t =>
        t = (if img.length < 352 ∨ (headerCode img = 0 ∧ img.length < hdrLength img) then e.bootRequest
        else e.checkBuffer (hdrLength img)))

/-- PWR_VOTE_SET adds the written bits to the votes of the writer's client and PWR_VOTE_CLR takes them away; PWR_VOTE_Vn
of a secure core replaces the votes of client Vn: the stored ones, and those that its block asks for, which stay
withdrawn where the word clears them (V14: with its chain and fallback votes that are cleared); a client above V19
holds no votes; each is followed by the tally of every domain. PWR_PAD_RELEASE releases the banks whose bit is 1 and
whose domain is up, and nothing else. -/
def Obligations.VotesAndPadsFollowTheirRegisters : Prop :=
    (∀ (d : Dev) (who : Initiator) (w : Word) (v : Nat), voteClient who = some v → 
      Answers (.pwrVoteSet who w) d fun t =>
        t = ((d.catchUp.rsvd who Reg.pwrVoteSet w).setVotes v (d.votesOf v ||| w.toNat)).settleAll) ∧
    (∀ (d : Dev) (who : Initiator) (w : Word) (v : Nat), voteClient who = some v → 
      Answers (.pwrVoteClr who w) d fun t =>
        t = ((d.catchUp.rsvd who Reg.pwrVoteClr w).setVotes v (d.votesOf v &&& (0xFFFFFFFF ^^^ w.toNat))).settleAll) ∧
    (∀ (d : Dev) (who : Initiator) (n : Nat) (w : Word) (e f : Dev) (asked off : Nat), n < 20 → d.secure who = true → e = d.catchUp.rsvd who (Reg.pwrVoteV + 4 * n) w → (asked = (if 9 ≤ n then e.derivedVotes n else 0)) → off = asked &&& (0xFFFFFFFF ^^^ w.toNat) → (f = e.setVotes n (if n = 14 then w.toNat else w.toNat &&& (0xFFFFFFFF ^^^ asked))) → 
      Answers (.pwrVoteVnWrite who n w) d fun t =>
        (n ≠ 14 → t = ({ f with pwr := { f.pwr with muted := if off = 0 then alDel n f.pwr.muted else alSet n off f.pwr.muted } } : Dev).settleAll) ∧
        (n = 14 → t = ({ f with pwr := { f.pwr with
        muted := if off = 0 then alDel n f.pwr.muted else alSet n off f.pwr.muted
        watchVote := match f.pwr.watchVote with | some c => if w.toNat.testBit c then some c else none | none => none
        fallback := f.pwr.fallback && w.toNat.testBit 29 } } : Dev).settleAll)) ∧
    (∀ (d : Dev) (who : Initiator) (n : Nat) (w : Word), 20 ≤ n → n < 32 → d.secure who = true → 
      Answers (.pwrVoteVnWrite who n w) d fun t =>
        t = d.rsvd who (Reg.pwrVoteV + 4 * n) w) ∧
    (∀ (d : Dev) (who : Initiator) (w : Word), 
      Answers (.pwrPadRelease who w) d fun t =>
        t = (d.rsvd who Reg.pwrPadRelease w).releaseBanks ((List.range 7).filter fun b => w.toNat.testBit b &&
        (d.rsvd who Reg.pwrPadRelease w).domUp (bankDomain b)))

/-- The lowest waiting staggered domain starts to switch on 10 µs or more after the last one; a power-up that is done
leads to ON, or to DRAINING where DOWN is held; a drained domain isolates, and a drain that times out goes back to ON
with DOWN held and counts a refusal with cause 0x20; a retry drains again while the tally is 0; isolation leads to
SWITCHING_OFF, or back to ON as an aborted entry where UP is held; the switch-off leads to OFF, or to RET where the
retention bit is set, and where UP is held to OFF and an aborted entry. Each is followed by the tally of every domain. -/
def Obligations.DomainsFollowTheirTable : Prop :=
    (∀ (d : Dev) (n : Nat), d.waitsInrush n = true → (∀ k, k < n → d.waitsInrush k = false) → (∀ u, d.pwr.inrush = some u → u + usTicks 10 ≤ d.tmb) → 
      Answers (.domainSwitchOnStart n) d fun t =>
        t.pwr = { (d.setDom n { d.dom n with started := true }).pwr with inrush := some d.tmb } ∧
        t = { d with pwr := t.pwr }) ∧
    (∀ (d : Dev) (n : Nat) (e : Dev), 1 ≤ n → n < 30 → (d.dom n).st = .poweringUp → (d.dom n).started = true → e = (d.setDom n { d.dom n with st := .on, pend := .none }).domainOn n (d.dom n).fromRet → 
      Answers (.domainPowerUpDone n) d fun t =>
        ((d.dom n).pend ≠ .down → t = e.settleAll) ∧
        ((d.dom n).pend = .down → t = ((e.setDom n { e.dom n with st := .draining }).drainStart n).settleAll)) ∧
    (∀ (d : Dev) (n : Nat) (e : Dev), e = d.catchUp → e.domSt n = .draining → e.drained n = true → 
      Answers (.domainDrainDone n) d fun t =>
        t = ((e.setDom n { e.dom n with st := .isolating, pend := .none }).domainIsolate n).settleAll) ∧
    (∀ (d : Dev) (n : Nat) (e : Dev), e = d.catchUp → e.domSt n = .draining → 
      Answers (.domainDrainTimeout n) d fun t =>
        t = ((e.setDom n { e.dom n with st := .on, pend := .down }).refusal n 0x20).settleAll) ∧
    (∀ (d : Dev) (n : Nat) (e : Dev), (d.dom n).st = .on → (d.dom n).pend = .down → d.tally n = false → e = d.setDom n { d.dom n with st := .draining, pend := .none } → 
      Answers (.domainDrainRetry n) d fun t =>
        t = (e.drainStart n).settleAll) ∧
    (∀ (d : Dev) (n : Nat) (e : Dev), (d.dom n).st = .isolating → 
      Answers (.domainIsolationDone n) d fun t =>
        ((d.dom n).pend ≠ .up → t = ((d.setDom n { d.dom n with st := .switchingOff, latched := [] }).radioOff n).settleAll) ∧
        ((d.dom n).pend = .up → n ≠ 17 →
        t = (((d.setDom n { d.dom n with st := .on, pend := .none, latched := [] }).releaseBanks (d.dom n).latched).abortEntry n
        (d.dom n).upBy).settleAll) ∧
        ((d.dom n).pend = .up → n = 17 →
        e = ((d.setDom n { d.dom n with st := .on, pend := .none, latched := [] }).releaseBanks (d.dom n).latched).abortEntry n
        (d.dom n).upBy →
        t = ([0, 1].foldl (fun e lo => if (e.lo lo).lock.isSome then e.bandReceive lo else e) e).settleAll)) ∧
    (∀ (d : Dev) (n : Nat), (d.dom n).st = .switchingOff → 
      Answers (.domainSwitchOffDone n) d fun t =>
        ((d.dom n).pend ≠ .up → d.retains n = false → t = ((d.setDom n {}).domainOff n).settleAll) ∧
        ((d.dom n).pend ≠ .up → d.retains n = true → t = (d.setDom n { st := .ret }).settleAll) ∧
        ((d.dom n).pend = .up → t = (((d.setDom n {}).domainOff n).abortEntry n (d.dom n).upBy).settleAll))

/-- NV_OK falls with one BROWNOUT_WARN more and rises again; a rail that becomes good sets its GOOD bit, lets every domain
that waits for it start, and lets the boot go on; a CLK_OP_CTRL write is stored, and starts the sequencer at once
where it is idle, or counts as REPLACED; a voltage ramp and a PLL relock that end reach their voltage and frequency
and lead to the next step; a dip of the core rail puts the cores on the bypass clock and counts CLOCK_BYPASS. -/
def Obligations.RailsAndOperatingPointsFollowTheirRules : Prop :=
    (∀ (d : Dev), d.nvOk = true → 
      Answers .nvOkFall d fun t =>
        t = (d.wr Fld.sysSupplyStatus_nvOk 0).bump Fld.errStat3_brownoutWarn) ∧
    (∀ (d : Dev), d.inv → 
      Answers .nvOkRise d fun t =>
        OnlyRegs d t [Reg.sysSupplyStatus] ∧ t.rd Fld.sysSupplyStatus_nvOk = 1 ∧ t.rd Fld.sysSupplyStatus_good = d.rd Fld.sysSupplyStatus_good) ∧
    (∀ (d : Dev) (r : Nat), r < 7 → 
      Answers (.railGood r) d fun t =>
        t = ((List.range 32).foldl Dev.supplyStart
        (d.wr Fld.sysSupplyStatus_good (setBitN (d.rd Fld.sysSupplyStatus_good) r))).bootProgress.settleAll) ∧
    (∀ (d : Dev) (who : Initiator) (w : Word) (e : Dev), d.domUp 1 = true → d.secureOrHost who = true → e = d.plainWrite who Reg.clkOpCtrl w → 
      Answers (.clkOpCtrlWrite who w) d fun t =>
        t = (if e.cluster.step = .idle then e.opPlan else e.bump Fld.clkOpStatus_replaced)) ∧
    (∀ (d : Dev) (v : Nat), d.cluster.step = .ramp v → 
      Answers .opVoltageRampDone d fun t =>
        t = ({ d with cluster := { d.cluster with mv := v, step := .idle } } : Dev).opPlan) ∧
    (∀ (d : Dev) (op : Nat), d.cluster.step = .relock op → 
      Answers .opPllRelockDone d fun t =>
        t = ({ d with cluster := { d.cluster with freq := op, bypass := false, step := .idle } } : Dev).opPlan) ∧
    (∀ (d : Dev), d.inv → d.cluster.mv ≠ 0 → d.cluster.bypass = false → 
      Answers .coreRailDrop d fun t =>
        OnlyRegs { d with cluster := { d.cluster with bypass := true } } t [Fld.errStat2_clockBypass.at 0] ∧
        t.rd Fld.errStat2_clockBypass = satAdd (d.rd Fld.errStat2_clockBypass) 1 (2 ^ Fld.errStat2_clockBypass.n - 1) % 2 ^ Fld.errStat2_clockBypass.n)

/-- A new level of WAKEn is taken, and wakes with cause n where the pin's configuration gives that edge or level; writing
PWR_WAKE_TIME_HI arms the compare, which fires at once where its time has passed; an armed compare that TMB has
reached fires once, with cause 5; a telegram that carries the configured or the active fallback address wakes with
cause 4 or 7. -/
def Obligations.WakeSourcesWake : Prop :=
    (∀ (d : Dev) (n : Nat) (level : Bool) (e : Dev), n < 4 → e = { d with pwr := { d.pwr with wakeLevels := putAt n level d.pwr.wakeLevels } } → 
      Answers (.wakePin n level) d fun t =>
        t = (if ((e.pinCfg n).testBit 3 && ((bitsOf (e.pinCfg n) 2 1 = 2 && !(d.pwr.wakeLevels.getD n false) && level) ||
        (bitsOf (e.pinCfg n) 2 1 = 3 && d.pwr.wakeLevels.getD n false && !level))) || e.levelWake n then e.wake (voteBit n) else e)) ∧
    (∀ (d : Dev) (w : Word) (e : Dev), e = { d.setReg Reg.pwrWakeTimeHi w with pwr := { d.pwr with compareArmed := true } } → 
      Answers (.pwrWakeTimeHiWrite w) d fun t =>
        (e.is Fld.pwrWakeCfg_timerEn = true → e.wakeTime ≤ e.tmb → t = ({ e with pwr := { e.pwr with compareArmed := false } } : Dev).wake (voteBit 5)) ∧
        (e.is Fld.pwrWakeCfg_timerEn = false ∨ e.tmb < e.wakeTime → t = e)) ∧
    (∀ (d : Dev), d.pwr.compareArmed = true → d.is Fld.pwrWakeCfg_timerEn = true → d.wakeTime ≤ d.tmb → 
      Answers .wakeTimerCompare d fun t =>
        t = ({ d with pwr := { d.pwr with compareArmed := false } } : Dev).wake (voteBit 5)) ∧
    (∀ (d : Dev) (chips : List Bool) (a : Nat), d.domSt 29 = .on → (∀ n ∈ (if d.is Fld.pwrWurxCfg_band then [2, 3] else [0, 1]), d.txActive n = false ∧ ∀ u, alGet n d.pwr.txEnd = some u → u + usTicks 12000 ≤ d.tmb) → telegramAddr chips = some a → a ≠ 0 → 
      Answers (.wurxTelegramMatch chips) d fun t =>
        (d.is Fld.pwrWakeCfg_wurxEn = true → (d.reg Reg.pwrWurxAddr).toNat = a → (d.pwr.fallback = false ∨ d.fuse Fuse.wurx ≠ a) →
        t = d.wake (voteBit 4)) ∧
        ((d.is Fld.pwrWakeCfg_wurxEn = false ∨ (d.reg Reg.pwrWurxAddr).toNat ≠ a) → d.pwr.fallback = true → d.fuse Fuse.wurx = a →
        t = d.wake (voteBit 7)) ∧
        ((d.is Fld.pwrWakeCfg_wurxEn = false ∨ (d.reg Reg.pwrWurxAddr).toNat ≠ a) → (d.pwr.fallback = false ∨ d.fuse Fuse.wurx ≠ a) → t = d))

/-- A write of PWR_WATCH_CTRL with EN = 1 and valid channel entries restarts the sequencer in STATE 1, or in STATE 4 while
D17 is not off, and with EN = 0 stops it unless a wake runs; a period tick in STATE 1 takes the watch registers, votes
for the chain and, with its rail good, counts and goes to STATE 2; with the chain ON and its LO locked the dwell
begins in STATE 3; a dwell without a hit clears the hit count and sleeps, and one with a hit records it and, at the
CONFIRM count, goes to STATE 5 and wakes with cause 6; 10 ms after a trigger the chain vote goes. -/
def Obligations.WatchSequencerFollowsItsSteps : Prop :=
    (∀ (d : Dev) (who : Initiator) (w : Word) (e : Dev), (∀ n, n < 4 → w.toNat.testBit 0 = true → watchChInvalid (wBits w 1 1) (d.reg (Reg.pwrWatchCh + 4 * n)) = false) → e = d.plainWrite who Reg.pwrWatchCtrl w → 
      Answers (.pwrWatchCtrlWrite who w) d fun t =>
        (w.toNat.testBit 0 = true → t = (({ e with pwr := { e.pwr with watchVote := none, hits := 0 } } : Dev).wr Fld.pwrWatchStatus_state
        (if e.domSt 17 = .off then 1 else 4)).settleAll) ∧
        (w.toNat.testBit 0 = false → (e.rd Fld.pwrWatchStatus_state = 2 ∨ e.rd Fld.pwrWatchStatus_state = 3) → t = e) ∧
        (w.toNat.testBit 0 = false → e.rd Fld.pwrWatchStatus_state ≠ 2 → e.rd Fld.pwrWatchStatus_state ≠ 3 →
        t = e.wr Fld.pwrWatchStatus_state 0)) ∧
    (∀ (d : Dev) (e f : Dev), d.is Fld.pwrWatchCtrl_en = true → d.domSt 17 = .off → d.rd Fld.pwrWatchStatus_state = 1 → e = { d with pwr := { d.pwr with watchCfg := [Reg.pwrWatchCtrl, Reg.pwrWatchCh, Reg.pwrWatchCh + 4, Reg.pwrWatchCh + 8, Reg.pwrWatchCh + 12].map d.reg } } → (f = (if e.rd Fld.pwrWatchPeriod_periodUs < 50 + e.rd Fld.pwrWatchDwell_dwellUs then e.wr Fld.pwrWatchStatus_periodStretched 1 else e)) → 
      Answers .watchPeriodTick d fun t =>
        (f.railGood f.watchDomain = true → ∃ g : Dev, g = ({ f with pwr := { f.pwr with watchVote := some f.watchDomain } } : Dev).settleAll ∧
        t = (g.wr Fld.pwrWatchCount_count (g.rd Fld.pwrWatchCount_count + 1)).wr Fld.pwrWatchStatus_state 2) ∧
        (f.railGood f.watchDomain = false → ∃ g : Dev, g = ({ f with pwr := { f.pwr with watchVote := some f.watchDomain } } : Dev).settleAll ∧
        t = ({ g with pwr := { g.pwr with hits := 0 } } : Dev).watchSleep)) ∧
    (∀ (d : Dev), d.rd Fld.pwrWatchStatus_state = 2 → d.domSt d.watchDomain = .on → (((d.lo (if d.watchDomain = 15 then 1 else 0)).lock.isSome) = true) → 
      Answers .watchGainSettled d fun t =>
        t = (d.setChainState (d.watchDomain - 11) 5).wr Fld.pwrWatchStatus_state 3) ∧
    (∀ (d : Dev) (energy corr : List Nat) (hits : List Nat), d.rd Fld.pwrWatchStatus_state = 3 → (hits = (List.range 4).filter fun n => watchHit (d.pwr.watchCfg.getD (n + 1) 0) (energy.getD n 0) (corr.getD n 0)) → 
      Answers (.watchDwellEnd energy corr) d fun t =>
        (hits = [] → t = ({ d with pwr := { d.pwr with hits := 0 } } : Dev).watchSleep) ∧
        (hits ≠ [] → ∃ n ∈ hits, ∃ e : Dev, e = ((({ (d.free 2).2 with pwr := { d.pwr with hits := d.pwr.hits + 1 } } : Dev).wr
        Fld.pwrWatchStatus_hitCh n).wr Fld.pwrWatchStatus_hitEnergy (energy.getD n 0)).wr Fld.pwrWatchStatus_hitCorr (corr.getD n 0) ∧
        t = (if d.pwr.hits + 1 < bitsOf (d.pwr.watchCfg.getD 0 0).toNat 3 2 + 1 then e.watchSleep
        else ((e.wr Fld.pwrWatchStatus_state 5).raise 0x5B).wake (voteBit 6)))) ∧
    (∀ (d : Dev) (e : Dev), d.pwr.watchVote.isSome = true → d.rd Fld.pwrWatchStatus_state ≠ 2 → d.rd Fld.pwrWatchStatus_state ≠ 3 → (e = (if d.chainState (d.watchDomain - 11) = 5 then d.setChainState (d.watchDomain - 11) 2 else d)) → 
      Answers .watchVoteRelease d fun t =>
        t = ({ e with pwr := { e.pwr with watchVote := none } } : Dev).settleAll)

/-- From a secure core or the host with a valid LO: OP 1, 2 and 5 start when no command runs, are kept as the pending
command when one runs and none is pending, and count as DROPPED otherwise; OP 3 invalidates the entry of the channel,
with RESULT 4 for a channel that is not allowed, and OP 4 every entry. A command with nothing left ends with its
RESULT, and the pending one starts. -/
def Obligations.CalibrationCommandsRun : Prop :=
    (∀ (d : Dev) (who : Initiator) (lo c : Nat) (e : Dev), d.secureOrHost who = true → lo < 6 → c < 256 → e = d.rsvd who Reg.rfsCalCmd (calWord 1 lo c) → 
      Answers (.calibrateOneEntry who lo c) d fun t =>
        (e.rfs.cmd = none → t = e.calRun 1 lo c) ∧
        (e.rfs.cmd.isSome = true → e.rfs.pend = none → t = ({ e with rfs := { e.rfs with pend := some (1, lo, c) } } : Dev).calStatus) ∧
        (e.rfs.cmd.isSome = true → e.rfs.pend.isSome = true → t = e.bump Fld.rfsCalStatus_dropped)) ∧
    (∀ (d : Dev) (who : Initiator) (lo : Nat) (e : Dev), d.secureOrHost who = true → lo < 6 → e = d.rsvd who Reg.rfsCalCmd (calWord 2 lo 0) → 
      Answers (.calibrateEveryAllowedChannel who lo) d fun t =>
        (e.rfs.cmd = none → t = e.calRun 2 lo 0) ∧
        (e.rfs.cmd.isSome = true → e.rfs.pend = none → t = ({ e with rfs := { e.rfs with pend := some (2, lo, 0) } } : Dev).calStatus) ∧
        (e.rfs.cmd.isSome = true → e.rfs.pend.isSome = true → t = e.bump Fld.rfsCalStatus_dropped)) ∧
    (∀ (d : Dev) (who : Initiator) (lo c : Nat) (e : Dev), d.secureOrHost who = true → lo < 6 → c < 256 → e = d.rsvd who Reg.rfsCalCmd (calWord 3 lo c) → 
      Answers (.invalidateOneEntry who lo c) d fun t =>
        ((lo < 2 ∨ e.allowed (decide (4 ≤ lo)) c = true) →
        t = e.calInvalidate (match e.calEntry lo c with | some n => [n] | none => [])) ∧
        (2 ≤ lo → e.allowed (decide (4 ≤ lo)) c = false → t = (e.wr Fld.rfsCalStatus_result 4).raise 0x37)) ∧
    (∀ (d : Dev) (who : Initiator), d.secureOrHost who = true → 
      Answers (.invalidateEveryEntry who) d fun t =>
        t = (d.rsvd who Reg.rfsCalCmd (calWord 4 0 0)).calInvalidate (List.range 162)) ∧
    (∀ (d : Dev) (who : Initiator) (e : Dev), d.secureOrHost who = true → e = d.rsvd who Reg.rfsCalCmd (calWord 5 0 0) → 
      Answers (.runStages2To6 who) d fun t =>
        (e.rfs.cmd = none → t = e.calRun 5 0 0) ∧
        (e.rfs.cmd.isSome = true → e.rfs.pend = none → t = ({ e with rfs := { e.rfs with pend := some (5, 0, 0) } } : Dev).calStatus) ∧
        (e.rfs.cmd.isSome = true → e.rfs.pend.isSome = true → t = e.bump Fld.rfsCalStatus_dropped)) ∧
    (∀ (d : Dev) (c : CalCmd), d.rfs.cmd = some c → d.calDone = true → (c.op ≠ 5 ∨ c.stage = 0) → 
      Answers .calCommandEnd d fun t =>
        (d.rfs.pend = none → t = d.calEnd c.result) ∧
        (∀ op lo ch, d.rfs.pend = some (op, lo, ch) →
        t = ((({ d with rfs := { d.rfs with cmd := none, pend := none } } : Dev).wr Fld.rfsCalStatus_result c.result).raise 0x37).calRun op lo ch))

/-- A full calibration that locks ends on its LO, writes the entry of its channel, locks the LO and lets a band LO's
chains receive; a band LO whose domain is ON locks from its valid entry; a background recalibration takes the entry
that has drifted furthest; stage k of the start-up calibration, or of a running OP 5, with nothing left, leads to
stage k + 1, stage 6 writing the measured compensation entries and ending it; stage 6 of one chain writes its four
entries and leaves the list; a RETUNE sets its flag and raises 0x36; a temperature sample is stored and VALID while a
radio domain is ON. -/
def Obligations.OscillatorsCalibrateAndLock : Prop :=
    (∀ (d : Dev) (lo band trim : Nat) (c : LoCal) (e : Dev), (d.lo lo).cal = some c → e = ((d.setLo lo { d.lo lo with cal := none }).entryWrite lo c.chan band trim).loLock lo c.chan → 
      Answers (.fullCalibrationLock lo band trim) d fun t =>
        (lo < 2 → t = (e.bandReceive lo).calLeft lo) ∧
        (2 ≤ lo → t = e.calLeft lo)) ∧
    (∀ (d : Dev) (lo : Nat), lo < 2 → d.domSt (loDomain lo) = .on → (d.lo lo).lock = none → (d.lo lo).cal = none → d.is Fld.rfsCalEntry_valid lo = true → d.is Fld.rfsCalEntry_failed lo = false → 
      Answers (.bandLoLock lo) d fun t =>
        t = (d.loLock lo 0).bandReceive lo) ∧
    (∀ (d : Dev) (n k : Nat), n < 4 → d.is Fld.rfsCalCtrl_bgEn = true → d.chainState (6 + n) = 2 → (d.lo (n + 2)).cal = none → (∀ c, d.rfs.cmd = some c → c.doms.contains (loDomain (n + 2)) = false) → d.domSt (18 + n) = .on → d.votedByOther (18 + n) = true → d.plannedNear n = false → d.drifted (n + 2) = some k → 
      Answers (.backgroundRecalibrationStart n) d fun t =>
        t = d.calBegin (n + 2) ⟨d.entryChan k, .background⟩) ∧
    (∀ (d : Dev) (g14 : List Nat), (∀ c, d.rfs.cmd = some c → c.stage = 0 ∨ d.calDone = false) → d.stageDone = true → 1 ≤ d.boot.calStage → 
      Answers (.startupCalibrationStageDone g14) d fun t =>
        (d.boot.calStage < 6 → t = ({ d with boot := { d.boot with calStage := d.boot.calStage + 1 } } : Dev).stageBegin
        false (d.boot.calStage + 1) (!d.boot.cold)) ∧
        (∀ e : Dev, e = d.rfs.measured.foldl (fun e n => e.stage6Write n g14) d → d.boot.calStage = 6 →
        t = ({ e with boot := { d.boot with calStage := 7 } } : Dev).settle)) ∧
    (∀ (d : Dev) (g14 : List Nat) (c : CalCmd) (e : Dev), d.rfs.cmd = some c → c.stage ≠ 0 → d.calDone = true → (e = d.rfs.measured.foldl (fun e n => e.stage6Write n g14) d) → 
      Answers (.startupCalibrationStageDone g14) d fun t =>
        (c.stage = 6 → t = { e with rfs := { e.rfs with cmd := some { c with stage := 0 } } }) ∧
        (c.stage ≠ 6 → t = ({ d with rfs := { d.rfs with cmd := some { c with stage := c.stage + 1 } } } : Dev).stageBegin true (c.stage + 1) false)) ∧
    (∀ (d : Dev) (n : Nat) (g14 : List Nat) (e : Dev), n ∈ d.rfs.stage6 → e = d.stage6Write n g14 → 
      Answers (.txStage6Done n g14) d fun t =>
        t = ({ e with rfs := { e.rfs with stage6 := e.rfs.stage6.filter (· != n) } } : Dev).settle) ∧
    (∀ (d : Dev) (lo : Nat), lo < 2 → (d.lo lo).lock.isSome = true → 
      Answers (.retune lo) d fun t =>
        t = (d.wr Fld.rfsLoStatus_retune (setBitN (d.rd Fld.rfsLoStatus_retune) lo)).raise 0x36) ∧
    (∀ (d : Dev) (x : Int) (k : Nat), d.inv → k < 11 → d.domSt (11 + k) = .on → 
      Answers (.tempSensorUpdate x) d fun t =>
        OnlyRegs d t [Fld.rfsTemp_temp.at 0] ∧
        t.rd Fld.rfsTemp_temp = unsignedOf x 16 % 2 ^ 16 ∧ t.rd Fld.rfsTemp_valid = 1)

/-- A frame that is scheduled, or whose MIC is ready, comes to the commit rules; where none holds it back and enough
chains are free, it is committed to the first free chain once the commit checks pass, and else refused with the status
and the counter of the first check that fails; its hop unlocks the LO and is a restore from a usable entry or a full
calibration; a calibration of the frame's own channel that runs is its hop, and one of another channel runs on; the LO
locks in HOP; a hop that fails to lock counts a failure and becomes a full calibration; at the lock deadline a frame
that is not ready is too late; at the lead a ready frame that coexistence allows enters LEAD and one that it does not
is denied; with its first chip it is on air, with its last it ramps down, and after RAMP_DOWN the chain is IDLE, the
duty is charged and the outcome follows. -/
def Obligations.FramesGoThroughTheChain : Prop :=
    (∀ (d : Dev) (id : Nat) (e : Dev) (f : TxFrame), e = d.takeInput id → e.frame id = some f → f.stage = .scheduled → 
      Answers (.tp3Commit id) d fun t =>
        t = e.commitFrame f) ∧
    (∀ (d : Dev) (id req st : Nat) (out : List Byte) (e g : Dev) (f : TxFrame), e = d.takeInput id → e.frame id = some f → f.stage = .cipher req → e.cphResult req = some (st, out) → g = e.cipherEnd f req st out → 
      Answers (.tp3Commit id) d fun t =>
        (∀ h, g.frame id = some h → t = g.commitFrame h) ∧
        (g.frame id = none → t = g)) ∧
    (∀ (d : Dev) (id n a : Nat) (e : Dev) (f : TxFrame) (rest : List Nat), e = d.takeInput id → e.frame id = some f → f.stage = .scheduled → e.nodeHeld f = false → e.gate.isOpen = true → e.remoteFor f = none → e.tp3Ok = true → e.commitWaits f.sub = false → (f.isAck = true → e.ackInTime f = true) → f.chains.all e.chainBlocked = false → (f.chains.any (fun n => e.chainOn n && !e.chainBlocked n) = true) → f.chains.filter e.chainFree = n :: rest → (e.rivals f).length < rest.length + 1 → f.badBeacon = false → (f.phy = 1 → e.domUp 17 = true ∧ e.rd Fld.rxwBlitzSync_sync ≠ 0) → a = dutyCharge (ticksUs (e.frameTicks f (e.sunPreamble n))) → 
      Answers (.tp3Commit id) d fun t =>
        (e.commitCheck f n a = none → t = e.commitTo f n a) ∧
        (∀ c counter, e.commitCheck f n a = some (c, counter) → t = (e.bump counter).txRefuse f c true)) ∧
    (∀ (d : Dev) (n mv : Nat) (f : TxFrame) (e : Dev), d.txOn n = some f → f.listen = none → d.txActive n = false → d.chainState (6 + n) ≠ 4 → (d.lo (n + 2)).lock ≠ some f.chan → (d.lo (n + 2)).cal = none → e = (d.setFrame (d.powerSample f n mv)).blankOn n f → 
      Answers (.txHopStart n mv) d fun t =>
        t = (if e.hopUsable (n + 2) f.chan then ((e.loUnlock (n + 2)).setChainState (6 + n) 4).entryTouch (n + 2) f.chan
        else e.calBegin (n + 2) ⟨f.chan, .hop⟩)) ∧
    (∀ (d : Dev) (n mv : Nat) (f : TxFrame) (c : LoCal), d.txOn n = some f → f.listen = none → d.txActive n = false → d.chainState (6 + n) ≠ 4 → (d.lo (n + 2)).lock ≠ some f.chan → (d.lo (n + 2)).cal = some c → 
      Answers (.txHopStart n mv) d fun t =>
        (c.chan = f.chan → t = (d.setFrame (d.powerSample f n mv)).blankOn n f) ∧
        (c.chan ≠ f.chan → t = d)) ∧
    (∀ (d : Dev) (n : Nat) (f : TxFrame), d.txOn n = some f → d.chainState (6 + n) = 4 → 
      Answers (.txLock n) d fun t =>
        t = d.loLock (n + 2) f.chan) ∧
    (∀ (d : Dev) (n : Nat) (f : TxFrame), d.txOn n = some f → d.chainState (6 + n) = 4 → (d.lo (n + 2)).lock = none → 
      Answers (.hopLockFailure n) d fun t =>
        t = (d.lockFailure (n + 2) f.chan).1.calBegin (n + 2) ⟨f.chan, .hop⟩) ∧
    (∀ (d : Dev) (id : Nat) (f : TxFrame), d.frame id = some f → 
      Answers (.txLockDeadline id) d fun t =>
        (∀ n, f.stage = .committed n → d.txActive n = false → d.txReady f n = false → t = d.txLate f) ∧
        (f.stage = .scheduled → f.start ≠ 0 → (f.isAck = false ∨ f.dom = none) → t = d.txLate f) ∧
        (f.stage = .scheduled → f.start ≠ 0 → f.isAck = true → f.dom ≠ none → t = d.ackNoChain f)) ∧
    (∀ (d : Dev) (n : Nat) (gnt : Bool) (mv : Nat) (f g : TxFrame) (e : Dev), d.txOn n = some f → d.txActive n = false → d.txReady f n = true → (g = (if f.g.isNone then d.powerSample f n mv else f)) → e = (((d.setFrame g).blankOn n g).coexLevel 2 gnt).coexUpdate → 
      Answers (.txLeadStart n gnt mv) d fun t =>
        (e.coexMay g n gnt = true → t = e.enterLead g n) ∧
        (e.coexMay g n gnt = false → t = e.coexDeny g)) ∧
    (∀ (d : Dev) (n : Nat) (f : TxFrame) (e g : Dev), d.txOn n = some f → d.chainState (6 + n) = 5 → e = d.setFrame { f with onAir := true, firstChip := f.plan, attempts := f.attempts + 1 } → g = ((e.setChainState (6 + n) 6).emit (e.output f n)).raise (0x24 + n) → 
      Answers (.txFirstChip n) d fun t =>
        t = (if f.isAck then g.raise 0x40 else g)) ∧
    (∀ (d : Dev) (n : Nat), d.chainState (6 + n) = 6 → 
      Answers (.txLastChip n) d fun t =>
        t = d.setChainState (6 + n) 7) ∧
    (∀ (d : Dev) (n used us : Nat) (err : Int) (f : TxFrame) (d1 d2 d3 : Dev), d.txOn n = some f → d.chainState (6 + n) = 7 → (us = (if f.cut.isSome then used else ticksUs (d.frameTicks f (d.txChain n).preamble))) → d1 = (d.setChainState (6 + n) 2).setTxChain n { (d.setChainState (6 + n) 2).txChain n with latch := none, near := false } → (d2 = (match f.duty with | some (e, a) => if f.onAir then d1.dutyChargeFrame e f.sub f.chan a us else d1.dutyRelease e f.sub f.chan a | none => d1)) → (d3 = (if f.onAir ∧ 260 ≤ us then d2.trimStep n err else d2)) → 
      Answers (.txRampDownEnd n used err) d fun t =>
        ∃ e : Dev, e = (match f.cut with | some st => d3.txCut f st | none => d3.txSent f (f.firstChip + d.frameTicks f (d.txChain n).preamble)) ∧
        t = (((((e.coexDrop f.id).raise (0x28 + n)).shapeFlush n).calRestart n).coexUpdate).settle)

/-- A full calibration that fails counts a failure and goes on until its entry is FAILED; then it ends, a command notes
LOCK_FAIL, and a frame that hopped with it ends with SYNTH_FAIL; a lock loss of a TX LO in LEAD or ON_AIR stops the
frame with SYNTH_FAIL, and of a band LO abandons the band; the blanking of a chain ends for every channel but the one
its next frame needs; a mask window below the limit clears the near mark, one above it counts NEAR and a second in a
row counts a violation and stops the frame; a quiet listen ends, a busy one is drawn again while listens are left; an
acknowledgement wait that ends makes the next attempt wait RETRY_GAP or its slot, or ends the frame with NO_ACK, and a
sleepy node's frame follows its own rule; a retry goes to the commit checks. -/
def Obligations.RadioFailuresAndWaitsEnd : Prop :=
    (∀ (d : Dev) (lo : Nat) (c : LoCal) (x : Dev × Bool) (e k : Dev), (d.lo lo).cal = some c → x = d.lockFailure lo c.chan → e = x.1.setLo lo { x.1.lo lo with cal := none } → (k = (match e.rfs.cmd with | some q => if c.kind = CalKind.command then { e with rfs := { e.rfs with cmd := some { q with result := 1 } } } else e | none => e)) → 
      Answers (.fullCalibrationFail lo) d fun t =>
        (x.2 = false → t = x.1) ∧
        (x.2 = true → lo < 2 → t = k.calLeft lo) ∧
        (x.2 = true → 2 ≤ lo → (k.calLeft lo).txOn (lo - 2) = none → t = k.calLeft lo) ∧
        (x.2 = true → 2 ≤ lo → ∀ f, (k.calLeft lo).txOn (lo - 2) = some f → c.chan = f.chan → (k.calLeft lo).txActive (lo - 2) = false →
        t = (if f.isAck then (k.calLeft lo).bump Fld.lnkStat3_ackLate else k.calLeft lo).txRefuse f Code.synthFail false)) ∧
    (∀ (d : Dev) (lo : Nat), (d.lo lo).lock ≠ none → 
      Answers (.loLockLoss lo) d fun t =>
        (2 ≤ lo → (d.loUnlock lo).chainState (4 + lo) = 5 ∨ (d.loUnlock lo).chainState (4 + lo) = 6 →
        t = (d.loUnlock lo).txStop (lo - 2) Code.synthFail) ∧
        (2 ≤ lo → (d.loUnlock lo).chainState (4 + lo) ≠ 5 → (d.loUnlock lo).chainState (4 + lo) ≠ 6 → t = d.loUnlock lo) ∧
        (lo < 2 → (bandChains (lo = 1)).any (d.loUnlock lo).receiving = false → t = (bandChains (lo = 1)).foldl
        (fun e m => if e.receiving m then e.setChainState m 2 else e) (d.loUnlock lo)) ∧
        (lo < 2 → (bandChains (lo = 1)).any (d.loUnlock lo).receiving = true → t = (bandChains (lo = 1)).foldl
        (fun e m => if e.receiving m then e.setChainState m 2 else e) ((d.loUnlock lo).abandonBand (lo = 1) false))) ∧
    (∀ (d : Dev) (n : Nat) (keep : Option Nat) (ends : List (Nat × Nat)), ((∃ f, d.txOn n = some f ∧ keep = (if d.chainState (6 + n) = 4 ∨ d.chainState (6 + n) = 5 ∨ d.chainState (6 + n) = 6 ∨ (d.chainState (6 + n) = 3 ∧ f.g.isSome = true) then some (chanKey f.sub f.chan) else none)) ∨ (d.txOn n = none ∧ keep = none)) → (ends = d.rxw.txBlank.filter fun b => b.1 = n && some b.2 != keep) → 
      Answers (.detectorBlankingEnd n) d fun t =>
        t = { d with rxw := { d.rxw with txBlank := d.rxw.txBlank.filter (fun b => b.1 != n || some b.2 = keep), busyAt := ends.foldl (fun l b => alSet b.2 d.tmb l) d.rxw.busyAt } }) ∧
    (∀ (d : Dev) (n : Nat) (lower upper : MaskPowers) (f : TxFrame) (e : Dev), n < 4 → (d.chainState (6 + n) = 6 ∨ d.chainState (6 + n) = 7) → d.txOn n = some f → e = d.bump Fld.txpMaskStatus_near n → 
      Answers (.maskWindowEnd n lower upper) d fun t =>
        (maskVerdict f.phy (d.rd Fld.txpMaskCtrl_tighten n) lower upper = none → t = d.setTxChain n { d.txChain n with near := false }) ∧
        (∀ seg excess, maskVerdict f.phy (d.rd Fld.txpMaskCtrl_tighten n) lower upper = some (seg, excess) → (d.txChain n).near = false →
        t = e.setTxChain n { d.txChain n with near := true }) ∧
        (∀ seg excess, maskVerdict f.phy (d.rd Fld.txpMaskCtrl_tighten n) lower upper = some (seg, excess) → (d.txChain n).near = true →
        t = e.maskViolation n seg excess)) ∧
    (∀ (d : Dev) (n : Nat) (p : Int) (f : TxFrame), d.txOn n = some f → f.listen.isSome = true → 
      Answers (.lbtListenEnd n p) d fun t =>
        (p < -12800 + 50 * (d.regField (10 + b2n f.sub) 7 0 : Int) → t = (d.setFrame { f with listen := none }).settle) ∧
        (-12800 + 50 * (d.regField (10 + b2n f.sub) 7 0 : Int) ≤ p → f.isAck = true →
        t = (d.bump Fld.regStat1_ackLbt).txRefuse f Code.lbtBusy false) ∧
        (-12800 + 50 * (d.regField (10 + b2n f.sub) 7 0 : Int) ≤ p → f.isAck = false → f.listens = 0 →
        t = (d.bump Fld.regStat1_lbtRefused).txRefuse f Code.lbtBusy false) ∧
        (-12800 + 50 * (d.regField (10 + b2n f.sub) 7 0 : Int) ≤ p → f.isAck = false → f.listens ≠ 0 →
        t = (d.drawListen f.sub).2.setFrame { f with listen := some (d.drawListen f.sub).1, listens := f.listens - 1, plan := f.plan + usTicks (d.drawListen f.sub).1 })) ∧
    (∀ (d : Dev) (id : Nat) (f : TxFrame) (till : Nat) (e : Dev), d.frame id = some f → f.stage = .ackWait till → e = d.cellFail f → 
      Answers (.ackWaitEnd id) d fun t =>
        (f.sleepy = true → t = d.sleepyFail f Code.noAck) ∧
        (f.sleepy = false → f.retries ≤ f.tries → t = e.txEnd f Code.noAck false) ∧
        (f.sleepy = false → f.tries < f.retries → f.cellWait = none → t = e.setFrame { f with
        tries := f.tries + 1, start := 0, stage := .retryWait (e.tmb + usTicks f.gap), earliest := e.tmb + usTicks f.gap }) ∧
        (f.sleepy = false → f.tries < f.retries → f.cellWait ≠ none → t = e.setFrame { f with
        tries := f.tries + 1, start := 0, stage := .slotted, cellWait := none, cellShared := false, ackFrom := 0 })) ∧
    (∀ (d : Dev) (id : Nat) (f : TxFrame) (till : Nat), d.frame id = some f → f.stage = .retryWait till → 
      Answers (.retryAttempt id) d fun t =>
        t = (d.setFrame { f with stage := .scheduled }).commitFrame { f with stage := .scheduled })

/-- A write of COEX_CFG by a secure core or the host with ROLE 0 to 2 is stored and its ROLE takes effect once every chain
taking part is IDLE or OFF; as a client the unit requests for a committed frame, with PRI for an urgent one, and with
RX_REQ for a receive window, with PRI; a falling grant is taken, and in the client role each frame on air counts as
REVOKED and is stopped where ABORT_ON_REVOKE is 1; the levels of the external radio's balls are taken, and as arbiter
the unit shows them, grants as its table decides and makes the frames that give way wait. -/
def Obligations.CoexistenceFollowsItsRoles : Prop :=
    (∀ (d : Dev) (who : Initiator) (w : Word), d.domUp 1 = true → d.secureOrHost who = true → wBits w 1 0 ≠ 3 → 
      Answers (.coexCfgWrite who w) d fun t =>
        t = d.plainWrite who Reg.coexCfg w) ∧
    (∀ (d : Dev), d.domUp 1 = true → (∀ n ∈ d.coexChains, d.chainShown (6 + n) = 0 ∨ d.chainShown (6 + n) = 2) → d.coex.role ≠ d.rd Fld.coexCfg_role → 
      Answers .coexRoleChange d fun t =>
        t = ({ d with coex := { d.coex with role := d.rd Fld.coexCfg_role } } : Dev).coexUpdate) ∧
    (∀ (d : Dev) (n : Nat) (f : TxFrame), d.txOn n = some f → d.coex.role = 1 → d.coexPart n = true → d.domUp 1 = true → (∀ r ∈ d.coex.reqs, r.1 ≠ f.id) → 
      Answers (.coexRequestAssert (.chain n)) d fun t =>
        t = d.coexAdd f.id f.urgent) ∧
    (∀ (d : Dev) (s : Nat) (w : NodeWin), d.coex.role = 1 → d.domUp 1 = true → d.is Fld.coexCfg_rxReq = true → (∀ r ∈ d.coex.reqs, r.1 ≠ 2 ^ 32 + s) → w ∈ d.tempo.wins → w.slot = s → w.phase ≠ .releasing → (w.sub = true → d.is Fld.coexCfg_subghz = true) → 
      Answers (.coexRequestAssert (.window s)) d fun t =>
        t = d.coexAdd (2 ^ 32 + s) true) ∧
    (∀ (d : Dev) (e : Dev), e = (d.coexLevel 2 false).coexUpdate → 
      Answers .coexGntFall d fun t =>
        (e.coex.role = 1 → e.domUp 1 = true → t = e.coexChains.foldl (fun e n => if e.chainState (6 + n) = 6 then
        (if (e.bump Fld.coexStat1_revoked).is Fld.coexCfg_abortOnRevoke then (e.bump Fld.coexStat1_revoked).txStop n Code.coexDenied
        else e.bump Fld.coexStat1_revoked) else e) e) ∧
        (e.coex.role ≠ 1 → t = e)) ∧
    (∀ (d : Dev) (req pri act : Bool) (e g : Dev), d.domSt 1 = .on → d.coex.role = 2 → e = (((d.coexLevel 0 req).coexLevel 1 pri).coexLevel 3 act) → g = ({ e with coex := { e.coex with reqs := e.coex.reqs.filter e.reqLive } } : Dev).reqIn → 
      Answers (.coexReqEdge req pri act) d fun t =>
        t = ((g.wr Fld.coexStatus_intReq (b2n !g.coexFrames.isEmpty)).setGnt g.coexDecide).coexYield) ∧
    (∀ (d : Dev) (req pri act : Bool), d.coex.role ≠ 2 → 
      Answers (.coexReqEdge req pri act) d fun t =>
        t = ((((d.coexLevel 0 req).coexLevel 1 pri).coexLevel 3 act).coexUpdate).coexYield)

/-- A level change of a GPIO is taken and raises its event where its edge is selected; START and STOP writes store
PERIODIC and start or stop the timer; an expiry re-arms a periodic timer DELAY later, stops another, and raises its
event; a pulse that ends is no longer kept; a holdoff ends; a free consumer takes what waits at its input; a re-arm by
the pair that owns a tripped channel 1 ms or more after the trip sets ARM and empties its history. -/
def Obligations.EventSourcesAct : Prop :=
    (∀ (d : Dev) (p : Nat) (level : Bool) (e : Dev), p < 32 → d.pins.gpioIn.testBit p ≠ level → e = { d with pins := { d.pins with gpioIn := putBitN d.pins.gpioIn p level } } → 
      Answers (.gpioEdge p level) d fun t =>
        t = (if (level && (e.pinSelect Fld.evrGpioEvt_evt p = 1 || e.pinSelect Fld.evrGpioEvt_evt p = 3)) ||
        (!level && (e.pinSelect Fld.evrGpioEvt_evt p = 2 || e.pinSelect Fld.evrGpioEvt_evt p = 3)) then e.raise (0x70 + p) else e)) ∧
    (∀ (d : Dev) (who : Initiator) (n : Nat) (w : Word) (e : Dev), d.domUp 1 = true → n < 8 → d.secureOrHost who = true → e = ((d.rsvd who (Reg.evrTmrCtrl + 8 * n) (w ||| 4#32)).wr Fld.evrTmrCtrl_periodic (wBits (w ||| 4#32) 1 1) n).timerStart n → 
      Answers (.tmrCtrlStart who n w) d fun t =>
        t = (if wBits (w ||| 4#32) 3 3 = 1 then e.timerStop n else e).settle) ∧
    (∀ (d : Dev) (who : Initiator) (n : Nat) (w : Word) (e f : Dev), d.domUp 1 = true → n < 8 → d.secureOrHost who = true → e = (d.rsvd who (Reg.evrTmrCtrl + 8 * n) (w ||| 8#32)).wr Fld.evrTmrCtrl_periodic (wBits (w ||| 8#32) 1 1) n → (f = (if wBits (w ||| 8#32) 2 2 = 1 then e.timerStart n else e)) → 
      Answers (.tmrCtrlStop who n w) d fun t =>
        t = (f.timerStop n).settle) ∧
    (∀ (d : Dev) (n x : Nat), alGet n d.evr.expiry = some x → 
      Answers (.eventTimerExpiry n) d fun t =>
        t = ((if d.is Fld.evrTmrCtrl_periodic n then
        { d with evr := { d.evr with expiry := alSet n (x + d.rd Fld.evrTmrDelay_delay n) d.evr.expiry } }
        else d.timerStop n).raise (0x60 + n)).settle) ∧
    (∀ (d : Dev) (line : Nat), 
      Answers (.pulseEnd line) d fun t =>
        t = ({ d with evr := { d.evr with pulses := alDel line d.evr.pulses } } : Dev).settle) ∧
    (∀ (d : Dev) (k : Nat), 
      Answers (.holdoffEnd k) d fun t =>
        t = { d with evr := t.evr } ∧ t.evr = { d.evr with cells := t.evr.cells } ∧
        (∀ j, (t.evr.cells.getD j {}) = if j = k ∧ j < d.evr.cells.length then { d.evr.cells.getD j {} with hold := false } else d.evr.cells.getD j {})) ∧
    (∀ (d : Dev) (x : Nat), 
      Answers (.taskPendingServe x) d fun t =>
        (∀ c e, alGet x d.evr.taskPend = some (c + 1) → d.taskBusy x = false →
        e = ({ d with evr := { d.evr with taskPend := if c = 0 then alDel x d.evr.taskPend else alSet x c d.evr.taskPend } } : Dev).taskAct x 0 →
        t = e.serveTask x 0 14) ∧
        (d.taskBusy x = true ∨ alGet x d.evr.taskPend = none ∨ alGet x d.evr.taskPend = some 0 → t = d)) ∧
    (∀ (d : Dev) (p n u : Nat), (d.chanLog n).trippedAt = some u → d.domUp 1 = true → d.domUp 10 = true → d.is Fld.evrEcCfg_arm n = false → d.pairOwns p n = true → d.pairs.retired.contains p = false → (d.chanLog n).barred = false → u + usTicks 1000 ≤ d.tmb → 
      Answers (.stormRearm p n) d fun t =>
        t = (d.wr Fld.evrEcCfg_arm 1 n).setChanLog n { rearmedAt := some d.tmb })

/-- A channel write by the secure monitor or by the owner that keeps NS and OWNER, with listed SRC and TASK and an OWNER
other than 15, and whose arming no rule refuses, is stored, and an armed one starts with an empty history; a cell
write with defined values that closes no combinational cycle is stored and clears the cell; an interrupt configuration
write by a permitted writer with values that may stand together is stored, a storm interrupt keeping its TARGET and
SEC; a pending-bit write clears each written bit that the writer may clear; a claim by the core itself returns bit 31
and the number of the interrupt that asserts its input and clears it, or 0; a software interrupt write sets each
written bit the writer may set. -/
def Obligations.ChannelsAndInterruptsFollowTheirRules : Prop :=
    (∀ (d : Dev) (who : Initiator) (n : Nat) (w : Word), d.domUp 1 = true → n < 64 → (d.monitor who = true ∨ (d.ownsChannel who n = true ∧ wBits w 30 26 = wBits (d.reg (Reg.evrEcCfg + 8 * n)) 30 26)) → srcListed (wBits w 7 0) = true → taskListed (wBits w 15 8) = true → wBits w 29 26 ≠ 15 → (wBits w 31 31 = 1 → (wBits w 30 30 = 1 → secureOnlyChannel (wBits w 7 0) (wBits w 15 8) = false) ∧ (0x80 ≤ wBits w 15 8 → wBits w 15 8 < 0x90 → d.femcOwned (wBits w 15 8 - 0x80) = false) ∧ armCycle d.cellComb (w.toNat :: (d.armed.filter fun c => c.1 != n).map fun c => c.2.toNat) = false) → 
      Answers (.evrEcnCfgWrite who n w) d fun t =>
        (wBits w 31 31 = 1 → t = (d.plainWrite who (Reg.evrEcCfg + 8 * n) w).setChanLog n {}) ∧
        (wBits w 31 31 ≠ 1 → t = d.plainWrite who (Reg.evrEcCfg + 8 * n) w)) ∧
    (∀ (d : Dev) (who : Initiator) (k : Nat) (w : Word), d.domUp 1 = true → k < 32 → d.secureOrHost who = true → luValid w = true → (armCycle (fun j => if j = k then wBits w 2 0 = 1 && wBits w 3 3 = 0 else d.cellComb j) (d.armed.map fun c => c.2.toNat) = false) → 
      Answers (.evrLunCfgWrite who k w) d fun t =>
        t = (d.plainWrite who (Reg.evrLuCfg + 4 * k) w).setCell k {}) ∧
    (∀ (d : Dev) (who : Initiator) (n : Nat) (w : Word), d.domUp 1 = true → irqListed n = true → d.mayCfgIrq who n w = true → 
      Answers (.irqCfgWrite who n w) d fun t =>
        (isStormIrq n = false → wBits w 3 0 < 10 → (wBits w 30 30 = 1 → wBits w 3 0 < 5) → t = d.plainWrite who (Reg.irqCfg + 4 * n) w) ∧
        (isStormIrq n = true → d.irqTarget n < 10 → (d.irqSec n = true → d.irqTarget n < 5) →
        t = d.plainWrite who (Reg.irqCfg + 4 * n) ((w &&& 0xBFFFFFF0#32) ||| (d.reg (Reg.irqCfg + 4 * n) &&& 0x4000000F#32)))) ∧
    (∀ (d : Dev) (who : Initiator) (j : Nat) (w : Word), d.domUp 1 = true → j < 8 → 
      Answers (.irqPendWrite who j w) d fun t =>
        t = (List.range 32).foldl (fun e b => if w.toNat.testBit b && e.mayClearIrq who (32 * j + b) then e.clearIrq (32 * j + b) else e) d) ∧
    (∀ (d : Dev) (who : Initiator) (n : Nat), d.domUp 1 = true → n < 8 → who = .core n → 
      Answers (.irqClaim who n) d fun t =>
        (∀ k, d.irqInput n = some k → t = (d.clearIrq k).emit (.readData who (Reg.irqClaimR + 4 * n) (2 ^ 31 + k))) ∧
        (d.irqInput n = none → t = d.emit (.readData who (Reg.irqClaimR + 4 * n) 0))) ∧
    (∀ (d : Dev) (who : Initiator) (w : Word), d.domUp 1 = true → (who = .host ∨ ∃ n, who = .core n) → 
      Answers (.irqSgi who w) d fun t =>
        t = (List.range 32).foldl (fun e k => if !w.toNat.testBit k then e
        else if e.irqSec (200 + k) && !e.secure who then e.refuseWrite who Reg.irqSgi else e.setIrq (200 + k)) d)

/-- For a chain in RECEIVE whose band is in AUTO mode and that has no castling announced: a window at step 0 counts its
full-scale samples, one with full-scale samples above it announces a castling down of min(2, step), one whose peak
reaches HI_TH one of 1; a quiet interval below LO_TH announces the castling up of its formula. A castling clears the
announcement, changes the step, records n, direction, fraction, time and count, marks the lanes and raises its event.
A gain configuration with defined values is stored without its reserved bits, and MANUAL castles each chain of the
band to MANUAL_STEP, after the castling that it has announced. A window whose conditions of R136 hold makes an idle
sample: it updates the estimate and its register, with a free level where the power is 0. -/
def Obligations.GainControlFollowsItsRules : Prop :=
    (∀ (d : Dev) (m full : Nat) (peak : Int), m < 6 → d.domUp 17 = true → d.receiving m = true → d.rd Fld.rxwGainCfg_mode (bandOfChain m) = 0 → d.castlingOf m = none → 
      Answers (.gainWindowEnd m full peak) d fun t =>
        (d.gainStep m = 0 → t = d.bumpBy full Fld.rxwStatAbandon_adcClip) ∧
        (d.gainStep m ≠ 0 → 0 < full → t = d.setCastling m (some (false, min 2 (d.gainStep m)))) ∧
        (d.gainStep m ≠ 0 → full = 0 → -50 * (d.rd Fld.rxwGainCfg_hi (bandOfChain m) : Int) ≤ peak → t = d.setCastling m (some (false, 1))) ∧
        (d.gainStep m ≠ 0 → full = 0 → peak < -50 * (d.rd Fld.rxwGainCfg_hi (bandOfChain m) : Int) → t = d)) ∧
    (∀ (d : Dev) (m n : Nat) (peak hi lo : Int), m < 6 → d.domUp 17 = true → d.receiving m = true → d.rd Fld.rxwGainCfg_mode (bandOfChain m) = 0 → d.castlingOf m = none → hi = -50 * (d.rd Fld.rxwGainCfg_hi (bandOfChain m) : Int) → lo = -50 * (d.rd Fld.rxwGainCfg_lo (bandOfChain m) : Int) → n = min (10 - d.gainStep m) ((hi - peak) / 602 - 1).toNat → 
      Answers (.gainQuietIntervalEnd m peak) d fun t =>
        (peak < lo → n ≠ 0 → t = d.setCastling m (some (true, n))) ∧
        (lo ≤ peak ∨ n = 0 → t = d)) ∧
    (∀ (d : Dev) (m frac n : Nat) (dir : Bool) (e f : Dev), m < 6 → d.domUp 17 = true → d.castlingOf m = some (dir, n) → (e = ((((((d.setGain m { d.rxw.gains.getD m {} with castling := none, manual := none, lastN := some d.tmb }).wr Fld.rxwGainStatus_step (if dir then d.gainStep m + n else d.gainStep m - n) m).wr Fld.rxwGainStatus_lastN n m).wr Fld.rxwGainStatus_lastUp (b2n dir) m).wr Fld.rxwGainStatus_lastFrac frac m).bump Fld.rxwGainStatus_castlings m).wr Fld.rxwGainLast_last d.tmb m) → f = { e with rxw := { e.rxw with lanes := e.rxw.lanes.mapIdx (laneCastled m) } } → 
      Answers (.castling m frac) d fun t =>
        ((d.rxw.gains.getD m {}).manual = none → t = f.raise (0x16 + m)) ∧
        (∀ s, (d.rxw.gains.getD m {}).manual = some s → t = (f.castleTo s m).raise (0x16 + m))) ∧
    (∀ (d : Dev) (who : Initiator) (b : Nat) (w : Word) (e : Dev), b < 2 → d.domUp 17 = true → getBits w 28 4 ≤ 10 → getBits w 24 2 ≠ 3 → getBits w 16 8 ≠ 0 → getBits w 0 8 + 25 ≤ getBits w 8 8 → (e = (if getBits w 26 2 ≠ 0 then d.errRsvd who false (Reg.rxwGainCfg + 4 * b) else d).setReg (Reg.rxwGainCfg + 4 * b) (w &&& ~~~ fieldMask 26 2)) → 
      Answers (.rxwGainCfgWrite who b w) d fun t =>
        (getBits w 24 2 ≠ 2 → t = (if b = 0 then [0, 1, 2, 3] else [4, 5]).foldl (fun e m => e.setGain m { e.rxw.gains.getD m {} with manual := none }) e) ∧
        (getBits w 24 2 = 2 → t = (if b = 0 then [0, 1, 2, 3] else [4, 5]).foldl (fun e m => e.castleTo (getBits w 28 4) m) e)) ∧
    (∀ (d : Dev) (sub : Bool) (c ant : Nat) (p : Rat) (n : Noise) (e : Dev), d.idleWindowOk sub c ant = true → n = noiseUpdate ((alGet (noiseKey sub c ant) d.rxw.noise).getD ⟨0, 0, 0⟩) p → e = { d with rxw := { d.rxw with noise := alSet (noiseKey sub c ant) n d.rxw.noise } } → 
      Answers (.idleSample sub c ant p) d fun t =>
        (0 < n.e → t = e.setReg (noiseReg (noiseKey sub c ant))
        (BitVec.ofNat 32 (b2n (decide (n.count < 16)) * 2 ^ 31 + n.count * 65536 + unsignedOf (noiseLevel n.e) 12))) ∧
        (¬ 0 < n.e → t = (e.free 12).2.setReg (noiseReg (noiseKey sub c ant))
        (BitVec.ofNat 32 (b2n (decide (n.count < 16)) * 2 ^ 31 + n.count * 65536 + (e.free 12).1))))

/-- The detections of one fabric cycle are served in ascending channel order; one that meets the criterion on a channel
with no lane, and is not merged with a frame that claimed one, takes the next free lane, or counts LANE_STARVED and
raises 0x15; one on a channel with a lane starts the rule of the stronger frame where its level exceeds the lane's by
the threshold, or with two lanes counts DEPTH_IGNORED; a lane that does not synchronise is free again and counts
FALSE_DETECT; at its freeze point a synchronising lane takes a staging buffer, its measurements and its weights, or
without one is free and counts STAGING_EMPTY; a valid PHR sets the frame's length and formats and an invalid one frees
the lane; a frame whose FCS fails frees the lane and raises 0x13, and a good one is written with its record and
posted; a stalled lane posts again; a separable fork makes lane A take the projected weights and decode again from
frame B's preamble, unless its frame ends within 40 µs of the detection; a written channel setting takes effect; a
pending sub-GHz MODE takes effect once its lanes are free. -/
def Obligations.LanesReceiveFrames : Prop :=
    (∀ (d : Dev) (xs : List Detection), 
      Answers (.preambleDetection xs) d fun t =>
        t = (xs.foldl (fun l x => detectionInsert x l) []).foldl Dev.detect d) ∧
    (∀ (d : Dev) (x : Detection) (e : Dev), d.domUp 17 = true → d.chanDefined x.sub x.chan = true → (x.ant < (if x.sub then 2 else 4)) → (d.receiving (if x.sub then 4 + x.ant else x.ant) = true) → d.blanked x.sub x.chan = false → d.lanesOn x.sub x.chan = [] → d.criterion x (d.chanCfg x.sub x.chan) false = true → e = d.chanBusy x.sub x.chan → 
      Answers (.preambleDetection [x]) d fun t =>
        (e.merged x = true → t = e) ∧
        (e.merged x = false → ∀ k, e.freeLane x.sub = some k → t = e.laneAlloc k x false false 0) ∧
        (e.merged x = false → e.freeLane x.sub = none → t = (e.bump Fld.rxwStatDet_laneStarved).raise 0x15)) ∧
    (∀ (d : Dev) (x : Detection) (a : Nat) (rest : List Nat) (e : Dev), d.domUp 17 = true → d.chanDefined x.sub x.chan = true → (x.ant < (if x.sub then 2 else 4)) → (d.receiving (if x.sub then 4 + x.ant else x.ant) = true) → d.blanked x.sub x.chan = false → d.lanesOn x.sub x.chan = a :: rest → d.criterion x (d.chanCfg x.sub x.chan) true = true → e = d.chanBusy x.sub x.chan → e.merged x = false → (x.selfTiming = false ∨ x.phaseCorr < 900) → 
      Answers (.preambleDetection [x]) d fun t =>
        (x.level < (e.lane a).level + getBits (d.chanCfg x.sub x.chan) 0 5 → t = e) ∧
        ((e.lane a).level + getBits (d.chanCfg x.sub x.chan) 0 5 ≤ x.level → rest = [] → t = e.strongerFrame x a (d.chanCfg x.sub x.chan)) ∧
        ((e.lane a).level + getBits (d.chanCfg x.sub x.chan) 0 5 ≤ x.level → rest ≠ [] → t = e.bump Fld.rxwForkStat2_depthIgnored)) ∧
    (∀ (d : Dev) (j : Nat), (d.lane j).phase = .sync → 
      Answers (.laneSyncTimeout j) d fun t =>
        t = (d.laneFree j).bump Fld.rxwStatDet_falseDetect) ∧
    (∀ (d : Dev) (j m : Nat) (f : FreezeInfo) (n : List Rat × Bool) (x : List Cplx × Dev), (d.lane j).phase = .sync → m = (d.lane j).antMask - ((d.lane j).antMask &&& (d.lane j).lost) → n = d.noisePowers (decide (64 ≤ j)) (d.lane j).chan m → x = d.weightsOr (mrcWeights (antsOf m) n.1 f.h) → 
      Answers (.freezePoint j f) d fun t =>
        (d.freeBuffer = none → t = (d.laneFree j).bump Fld.hciStat0_stagingEmpty) ∧
        (∀ b, d.freeBuffer = some b → t = ({ x.2 with staging := b :: x.2.staging } : Dev).setLane j { d.lane j with
        phase := .decode, buf := b, agcGain := f.agcGain, rssi := f.rssi, phase0 := f.phase, freqOff := f.freqOff, ts := x.2.tmb,
        tsFrac := f.tsFrac, nfInvalid := n.2, antMask := m, level := ((antsOf m).map fun a => f.rssi.getD a 0).foldl max 0,
        h := f.h, s2 := n.1, w := x.1 })) ∧
    (∀ (d : Dev) (j phr : Nat) (coded : Bool), (d.lane j).phase = .decode → 
      Answers (.phrCheck j phr coded) d fun t =>
        (phrOf (d.lane j).phy phr coded = none → t = (d.laneFree j).bump Fld.rxwStatFrame_phrInvalid) ∧
        (∀ p, phrOf (d.lane j).phy phr coded = some p →
        t = d.setLane j { d.lane j with len := p.len, fcs16 := p.fcs16, fec := p.fec, whiten := p.whiten })) ∧
    (∀ (d : Dev) (j : Nat) (psdu : List Byte) (snr : Int) (fails : Nat), (d.lane j).phase = .decode → (d.lane j).len ≠ 0 → psdu.length = (d.lane j).len → 
      Answers (.laneFrameEnd j psdu snr fails) d fun t =>
        (fcsOk ((d.lane j).phy = 0 || (d.lane j).fcs16) psdu = false → t = ((d.laneFree j).bump Fld.rxwStatFrame_fcsFail).raise 0x13) ∧
        (fcsOk ((d.lane j).phy = 0 || (d.lane j).fcs16) psdu = true →
        ∀ r, r = d.fetch (memRes (stagingAddr (d.lane j).buf)) (stagingAddr (d.lane j).buf) fails → r.2 = .exhausted →
        t = (r.1.laneFree j).bump Fld.rxwStatAbandon_abandoned) ∧
        (fcsOk ((d.lane j).phy = 0 || (d.lane j).fcs16) psdu = true →
        ∀ r, r = d.fetch (memRes (stagingAddr (d.lane j).buf)) (stagingAddr (d.lane j).buf) fails → r.2 ≠ .exhausted →
        t = (r.1.setBytes (stagingAddr (d.lane j).buf) (recordBytes j (d.lane j) (lqiOf snr)
        (leNat (psdu.drop (psdu.length - fcsLen ((d.lane j).phy = 0 || (d.lane j).fcs16))) % 65536) ++ psdu)).lanePost j)) ∧
    (∀ (d : Dev) (j : Nat), (d.lane j).phase = .stalled → 
      Answers (.lanePostResume j) d fun t =>
        t = d.lanePost j) ∧
    (∀ (d : Dev) (j : Nat) (x : ForkEstimate) (ants : List Nat), (d.lane j).phase = .decode → (d.lane j).forkOrigin = true → ants = antsOf ((d.lane j).antMask - ((d.lane j).antMask &&& (d.lane j).lost)) → (innerOver ants (d.lane j).s2 x.h x.h).re ≠ 0 → separable ants (d.lane j).s2 (d.lane j).h x.h = true → 
      Answers (.forkChannelEstimate j x) d fun t =>
        ((d.lane j).len = 0 ∨ (d.lane j).forkAt + usTicks 40 ≤ d.laneEnd (d.lane j) → t = d.setLane j { d.lane j with
        w := projectedWeights ants (d.lane j).s2 (d.lane j).h x.h, rewound := some x.start
        len := if x.start < (d.lane j).ts + d.afterFreeze (d.lane j).phy d.rxw.mode 0 false then 0 else (d.lane j).len }) ∧
        ((d.lane j).len ≠ 0 → d.laneEnd (d.lane j) < (d.lane j).forkAt + usTicks 40 → t = d)) ∧
    (∀ (d : Dev) (a : Nat), 
      Answers (.channelConfigEffect a) d fun t =>
        t = { d with rxw := { d.rxw with oldCfg := alDel a d.rxw.oldCfg } }) ∧
    (∀ (d : Dev), d.subBusy = false → d.rd Fld.rxwSubCfg_mode ≠ d.rxw.mode → 
      Answers .subModeEffect d fun t =>
        t = ({ d with rxw := { d.rxw with mode := d.rd Fld.rxwSubCfg_mode } } : Dev).noiseRestart (fun k => decide (64 ≤ k)))

/-- For a chain and table that exist and whose domain is up, RESTORE and COMMIT act on the shadow table, and a pending
table becomes active while the chain sends nothing. PROG and SEAL are writes of REG_PROG_CMD with their key and
operation. A mirror check applies the damage and starts the reloads of damaged words; a reload that is done takes the
word again and counts a transient where it is valid. A new SUB_BAND or GRID takes effect once the sub-GHz lanes and
chains are quiet. The duty accounts advance by one second. -/
def Obligations.PulseTablesAndRegionFollowTheirRules : Prop :=
    (∀ (d : Dev) (who : Initiator) (n x : Nat), n < 4 → x < 3 → d.domUp (18 + n) = true → 
      Answers (.restore who n x) d fun t =>
        t = d.shapeRestore who n x) ∧
    (∀ (d : Dev) (who : Initiator) (n x : Nat), n < 4 → x < 3 → d.domUp (18 + n) = true → 
      Answers (.commitPulseTable who n x) d fun t =>
        t = d.shapeCommit who n x) ∧
    (∀ (d : Dev) (n x : Nat), n < 4 → x < 3 → d.shapePending n x = true → d.txActive n = false → 
      Answers (.pulseTableActivate n x) d fun t =>
        t = d.shapeActivate n x) ∧
    (∀ (d : Dev) (who : Initiator) (w : Nat), d.domUp 1 = true → d.secure who = true → d.is Fld.regProgStatus_busy = false → 
      Answers (.prog who w) d fun t =>
        t = d.regProg (w % 32)) ∧
    (∀ (d : Dev) (who : Initiator), d.domUp 1 = true → d.secure who = true → d.is Fld.regProgStatus_busy = false → 
      Answers (.sealRegion who) d fun t =>
        t = d.regSeal) ∧
    (∀ (d : Dev) (flips : List (Nat × Nat)) (e : Dev), d.domUp 1 = true → (e = flips.foldl (fun d f => if f.1 < 32 then d.setReg (Reg.regMirrorW + 4 * f.1) (d.reg (Reg.regMirrorW + 4 * f.1) ^^^ BitVec.ofNat 32 f.2) else d) d) → 
      Answers (.regMirrorCheck flips) d fun t =>
        t = e.startReload ((List.range 32).filter e.damaged)) ∧
    (∀ (d : Dev) (w : Nat) (e f g : Dev), d.domUp 1 = true → w ∈ d.region.reloading → e = { d.mirrorLoadWord w with region := { (d.mirrorLoadWord w).region with reloading := (d.mirrorLoadWord w).region.reloading.filter (· != w) } } → (e.mirrorWord w).isSome = true → f = { e with region := { e.region with bad := e.region.bad.filter (· != w) } } → g = (f.free 32).2 → 
      Answers (.regMirrorReloadDone w) d fun t =>
        t = (g.transient (f.free 32).1).1.regStatusUpdate) ∧
    (∀ (d : Dev) (e : Dev), d.domUp 1 = true → d.subBusy = false → (d.chainState 8 = 0 ∨ d.chainState 8 = 2) → (d.chainState 9 = 0 ∨ d.chainState 9 = 2) → d.w1Band ≠ (d.region.band, d.region.grid) → (e = ((1 :: (List.range 128).map (· + 34)).foldl (fun d n => d.wr Fld.rfsCalEntry_valid 0 n) ({ d with region := { d.region with band := d.w1Band.1, grid := d.w1Band.2 } } : Dev)).rxwBand) → 
      Answers .regStageW1Effect d fun t =>
        t = (if e.domSt 15 = .on then e.calBegin 1 ⟨0, .band⟩ else e)) ∧
    (∀ (d : Dev) (e f g : Dev), e = { d with duty := { d.duty with second := d.duty.second + 1 } } → (f = { e with duty := { e.duty with dwell := e.duty.dwell.filter fun b => decide (e.duty.second < b.2.1 + 60) } }) → g = (List.range 8).foldl Dev.bucketEntry f → 
      Answers .dutyBucketAdvance d fun t =>
        t = (if g.domUp 1 then g.preloadStatus else g))

/-- For a secure core with the key store idle and the operation not refused: LOAD puts KEY_DATA into the slot with
KEY_ARG's engines; CLEAR zeroizes the slot; UNWRAP puts the key of a valid blob, and ends with BLOB_INVALID for
another one, or with RESERVED_FIELD for a blob whose engines are none that may be set; WRAP leaves the wrapped key;
DERIVE puts the derived key; LOCK sets LOCK; LOAD_KR puts the key of the open key rows; PROG_KR keeps the missing fuse
bits of the rows to program. BUSY is 1 and the operation is kept with its result, output and bits. -/
def Obligations.KeyCommandsAct : Prop :=
    (∀ (d : Dev) (who : Initiator) (slot : Nat) (e f : Dev), d.domUp 25 = true → d.secure who = true → d.is Fld.keyStatus_busy = false → slot < 512 → e = d.wr Fld.keyStatus_busy 1 → e.keyRefusal 1 slot false = none → (f = e.putKey slot (e.keyData.take (if e.is Fld.keyArg_keylen then 32 else 16)) (e.is Fld.keyArg_keylen) (e.rd Fld.keyArg_engines) 0 0 0) → 
      Answers (.load who slot) d fun t =>
        t = { f with keys := { f.keys with op := some { op := 1, slot := slot, result := Code.ok, out := [], bits := [] } } }) ∧
    (∀ (d : Dev) (who : Initiator) (slot : Nat) (e f : Dev), d.domUp 25 = true → d.secure who = true → d.is Fld.keyStatus_busy = false → slot < 512 → e = d.wr Fld.keyStatus_busy 1 → e.keyRefusal 2 slot false = none → f = e.zeroSlot slot → 
      Answers (.keyCmdClear who slot) d fun t =>
        t = { f with keys := { f.keys with op := some { op := 2, slot := slot, result := Code.ok, out := [], bits := [] } } }) ∧
    (∀ (d : Dev) (who : Initiator) (slot : Nat) (kek : Bool) (e f : Dev) (k : List Byte), d.domUp 25 = true → d.secure who = true → d.is Fld.keyStatus_busy = false → slot < 512 → e = d.wr Fld.keyStatus_busy 1 → e.keyRefusal 3 slot kek = none → e.blobKey kek = .ok k → 
      Answers (.unwrap who slot kek) d fun t =>
        ((kwUnwrap k e.keyData).bind blobParts = none → t = { e with keys := { e.keys with op := some { op := 3, slot := slot, result := Code.blobInvalid, out := [] } } }) ∧
        (∀ w0 w1 key, (kwUnwrap k e.keyData).bind blobParts = some (w0, w1, key) → enginesOk (bitsOf w0 21 16) = true →
        f = e.putKey slot (key.take (if w0.testBit 8 then 32 else 16)) (w0.testBit 8) (bitsOf w0 21 16) 1 w0 0 →
        t = { f with keys := { f.keys with op := some { op := 3, slot := slot, result := Code.ok, out := [], bits := [] } } }) ∧
        (∀ w0 w1 key, (kwUnwrap k e.keyData).bind blobParts = some (w0, w1, key) → enginesOk (bitsOf w0 21 16) = false →
        t = { e with keys := { e.keys with op := some { op := 3, slot := slot, result := Code.reservedField, out := [] } } })) ∧
    (∀ (d : Dev) (who : Initiator) (slot : Nat) (kek : Bool) (e f : Dev) (k : List Byte), d.domUp 25 = true → d.secure who = true → d.is Fld.keyStatus_busy = false → slot < 512 → e = d.wr Fld.keyStatus_busy 1 → e.keyRefusal 4 slot kek = none → e.blobKey kek = .ok k → f = e → 
      Answers (.wrap who slot kek) d fun t =>
        t = { f with keys := { f.keys with op := some { op := 4, slot := slot, result := Code.ok, out := kwWrap k (e.keyData.take 8 ++ padTo 32 (e.keyBytes slot)), bits := [] } } }) ∧
    (∀ (d : Dev) (who : Initiator) (slot : Nat) (e f : Dev), d.domUp 25 = true → d.secure who = true → d.is Fld.keyStatus_busy = false → slot < 512 → e = d.wr Fld.keyStatus_busy 1 → e.keyRefusal 5 slot false = none → (f = e.putKey slot (kdfRaw (e.keyBytes (e.rd Fld.keyArg_src)) (e.keyData.take (e.rd Fld.keyArg_len)) (if e.is Fld.keyArg_keylen then 256 else 128)) (e.is Fld.keyArg_keylen) (e.rd Fld.keyArg_engines) 2 0 0) → 
      Answers (.derive who slot) d fun t =>
        t = { f with keys := { f.keys with op := some { op := 5, slot := slot, result := Code.ok, out := [], bits := [] } } }) ∧
    (∀ (d : Dev) (who : Initiator) (slot : Nat) (e f : Dev), d.domUp 25 = true → d.secure who = true → d.is Fld.keyStatus_busy = false → slot < 512 → e = d.wr Fld.keyStatus_busy 1 → e.keyRefusal 6 slot false = none → f = e.wr Fld.keySlotAttr_lock 1 slot → 
      Answers (.lock who slot) d fun t =>
        t = { f with keys := { f.keys with op := some { op := 6, slot := slot, result := Code.ok, out := [], bits := [] } } }) ∧
    (∀ (d : Dev) (who : Initiator) (slot : Nat) (e f : Dev), d.domUp 25 = true → d.secure who = true → d.is Fld.keyStatus_busy = false → slot < 512 → e = d.wr Fld.keyStatus_busy 1 → e.keyRefusal 7 slot false = none → (f = e.putKey slot ((List.range (if e.is Fld.keyArg_keylen then 8 else 4)).flatMap fun j => natLe 4 (e.fuse (Fuse.kr (e.keyRows.getD 0) (e.rd Fld.keyArg_src % 64 + j)))) (e.is Fld.keyArg_keylen) (e.rd Fld.keyArg_engines) 3 0 0) → 
      Answers (.loadKr who slot) d fun t =>
        t = { f with keys := { f.keys with op := some { op := 7, slot := slot, result := Code.ok, out := [], bits := [] } } }) ∧
    (∀ (d : Dev) (who : Initiator) (slot : Nat) (e f : Dev), d.domUp 25 = true → d.secure who = true → d.is Fld.keyStatus_busy = false → slot < 512 → e = d.wr Fld.keyStatus_busy 1 → e.keyRefusal 8 slot false = none → f = e → 
      Answers (.progKr who slot) d fun t =>
        t = { f with keys := { f.keys with op := some { op := 8, slot := slot, result := Code.ok, out := [], bits := (List.range (min 8 (64 - e.rd Fld.keyArg_src % 64))).flatMap fun j => e.missing (Fuse.kr (e.keyRows.getD 0) (e.rd Fld.keyArg_src % 64 + j)) (leAt e.keyData (4 * j) 4) } } })

/-- An operation with no bits left ends with BUSY 0, its RESULT, its output in KEY_DATA and event 0x68; a secure core's
attribute write keeps only the ENGINES bits that were set, sets LOCK, and is recorded where it asked for more;
KEY_BLOB_CFG and KEY_POOL writes that their rules allow are stored; a remask sweep draws new shares for every slot and
takes MASK_PERIOD; a programmed OTP bit is one of the region's, of the key rows' or of the life cycle's; a life-cycle
request with the right key by a secure core is taken; a transition with no bits left in its step goes to the next, and
after step 6 to a system reset or on with the boot. -/
def Obligations.KeyRegistersAndOtpAct : Prop :=
    (∀ (d : Dev) (o : KeyOp), d.keys.op = some o → o.bits = [] → 
      Answers .keyOperationDone d fun t =>
        t = (((((({ d with keys := { d.keys with op := none } } : Dev).wr Fld.keyStatus_busy 0).wr Fld.keyStatus_result o.result).setKeyData o.out).raise 0x68)).pump) ∧
    (∀ (d : Dev) (who : Initiator) (n : Nat) (w : Word) (e f : Dev), d.domUp 25 = true → n < 512 → d.secure who = true → d.is Fld.keySlotAttr_lock n = false → d.inPool n = false → e = (d.rsvd who (Reg.keySlotAttr + 4 * n) w).wr Fld.keySlotAttr_engines (d.attrEngines n &&& wBits w 21 16) n → (f = (if w.toNat.testBit 30 then e.wr Fld.keySlotAttr_lock 1 n else e)) → 
      Answers (.keySlotAttrWrite who n w) d fun t =>
        (wBits w 21 16 &&& d.attrEngines n = wBits w 21 16 → t = f) ∧
        (wBits w 21 16 &&& d.attrEngines n ≠ wBits w 21 16 → t = f.refuseWrite who (Reg.keySlotAttr + 4 * n))) ∧
    (∀ (d : Dev) (who : Initiator) (w : Word), d.domUp 25 = true → d.secure who = true → (d.is Fld.keyBlobCfg_lock = true ∨ w.toNat.testBit 0 = false ∨ (d.is Fld.keySlotAttr_lock (wBits w 24 16) = true ∧ (d.attrEngines (wBits w 24 16)).testBit 4 = true)) → 
      Answers (.keyBlobCfgWrite who w) d fun t =>
        t = d.plainWrite who Reg.keyBlobCfg w (d.is Fld.keyBlobCfg_lock)) ∧
    (∀ (d : Dev) (who : Initiator) (w : Word), d.domUp 25 = true → d.secure who = true → wBits w 8 0 + wBits w 25 16 ≤ 512 → wBits w 25 16 ≠ 0 → d.poolSlots.any d.attrValid = false → (∀ j, j < wBits w 25 16 → d.attrValid (wBits w 8 0 + j) = false) → 
      Answers (.keyPoolWrite who w) d fun t =>
        t = d.plainWrite who Reg.keyPool w) ∧
    (∀ (d : Dev) (e : Dev), d.domUp 25 = true → e = d.remask (d.keys.slots.map (·.1)) → 
      Answers .remaskSweep d fun t =>
        t = { e with keys := { e.keys with period := e.rd Fld.keyMask_period } }) ∧
    (∀ (d : Dev) (u : OtpUser), 
      Answers (.otpBitProgrammed u) d fun t =>
        (∀ good, u = .region good → t = (d.regionBit good).pump) ∧
        (u = .keyRows → t = d.keyRowBit.pump) ∧
        (u = .lifeCycle → t = d.lcBit.pump)) ∧
    (∀ (d : Dev) (who : Initiator) (w : Word), d.domUp 1 = true → d.secure who = true → wBits w 31 16 = 0x1C5E → ((d.rsvd who Reg.otpLcCmd w).lcRequest (w.toNat.testBit 8) (wBits w 2 0)).2 = true → 
      Answers (.otpLcCmdStart who w) d fun t =>
        t = ((d.rsvd who Reg.otpLcCmd w).lcRequest (w.toNat.testBit 8) (wBits w 2 0)).1) ∧
    (∀ (d : Dev) (r : LcRun), d.lc = some r → r.bits = [] → d.lcPaused = false → 
      Answers .lcTransitionStep d fun t =>
        (r.step < 6 → t = ((d.lcEnter r (r.step + 1)).lcStatusLoad).pump) ∧
        (6 ≤ r.step → r.boot = false → t = ((d.lcEnd Code.ok).systemReset 2).pump) ∧
        (6 ≤ r.step → r.boot = true → t = ((((({ d with lc := none } : Dev).lcStatusLoad).wr Fld.sysBootStatus_lcResumed 1).settle).bootStep4).pump))

/-- A submission of an aligned descriptor that the core may name is marked pending and completed with its refusal,
admitted, or held; the next request goes to the first free engine; a marked engine suspends for a request of the first
rank; an engine that ends a request completes it, a fault of its source or of its hold buffer being fetched again,
with the engine retired where the buffer row stays faulty, and goes on; an ageing request of class 2 is marked once
and counted; a request whose domains do not come up completes with DOMAIN_OFF; a node key that unwraps leaves its slot
to use, and one that does not completes the requests that wait for it with the status that refuses it. A memory row is
remapped or its retirement fails and counts, and where it has no spare its calibration entry becomes invalid, its duty
bucket reads full, its pair has a mismatch or its engine retires; a queue moves, and damaged sparing pairs are taken
up in turn. -/
def Obligations.CipherArrayServesRequests : Prop :=
    (∀ (d : Dev) (slot : Nat) (r : Dev × UnwrapEnd), d.domUp 25 = true → d.domUp 22 = true → r = d.nodeUnwrap slot → 
      Answers (.nodeUnwrapDone slot) d fun t =>
        ((∀ c, r.2 ≠ .failed c) → t = r.1) ∧
        (∀ c waits, r.2 = .failed c → waits = (r.1.cph.queue.filter fun q => match r.1.keyCheck q with | .wait n => n = slot | _ => false) →
        t = ((waits.foldl (fun e q => (e.unqueue q.id).keyRefused q c) r.1).cphRefillAll).settle)) ∧
    (∀ (d : Dev) (who : Initiator) (n a : Nat) (e : Dev) (r : CipherReq), who = .core n → d.domUp 24 = true → a % 32 = 0 → ((0x04000000 + n * 0x100000 + 0x20000 ≤ a ∧ a + 32 ≤ 0x04000000 + n * 0x100000 + 0x60000) ∨ (0x10000000 ≤ a ∧ a + 32 ≤ 0x10C00000) ∨ (0x11000000 ≤ a ∧ a + 32 ≤ 0x11200000)) → (d.normalCore who = true → secureOnlyMem a = false) → d.memUp a 32 = true → e = d.descResult a Code.pending 0 → r = { descReq n a (d.bytes a 32) with id := e.cph.nextId, admitted := e.tmb } → 
      Answers (.cphSubmit who a) d fun t =>
        (e.descCheck (d.normalCore who) (descReservedOk (d.bytes a 32)) r = none → ∀ g : Dev, g = { e with cph := { e.cph with nextId := e.cph.nextId + 1 } } →
        t = (if g.cphRoom r then g.cphAdmit r else { g with cph := { g.cph with held := g.cph.held ++ [r] } }).settle) ∧
        (∀ c, e.descCheck (d.normalCore who) (descReservedOk (d.bytes a 32)) r = some c →
        t = (if c = Code.lengthExceedsHold then e.bump Fld.cphStat1_holdRefused else e).cphComplete r c [])) ∧
    (∀ (d : Dev) (n : Nat) (ns : List Nat) (r : CipherReq), d.startUnwraps.freeEngines = n :: ns → d.startUnwraps.nextRequest = some r → 
      Answers .cipherDispatch d fun t =>
        t = (((d.startUnwraps.engineTake n r).cphRefillAll).sweepDoomed).settle) ∧
    (∀ (d : Dev) (k : BlockBoundary) (n : Nat) (r : CipherReq) (x : Running) (b : Dev × Running) (e : Dev), n = k.engine → (d.engine n).marked = true → (d.engine n).run = some x → (d.engine n).susp = none → d.nextOfRank 0 = some r → b = d.atBoundary x k.copied → e = (b.1.setEngine n { d.engine n with susp := some b.2, run := none, marked := false }).engineTake n r → 
      Answers (.cipherSuspend k) d fun t =>
        t = (if (e.engine n).run = none then e.setEngine n { e.engine n with run := (e.engine n).susp, susp := none } else e)) ∧
    (∀ (d : Dev) (n : Nat) (fault : CipherFault) (x : Running) (e : Dev) (ends : Dev → Dev), (d.engine n).run = some x → e = d.setEngine n { d.engine n with run := none, marked := false } → (ends = fun f => (((f.engineNext n).cphRefillAll).sweepDoomed).settle) → 
      Answers (.cipherRequestDone n fault) d fun t =>
        (fault = .none → t = ends (e.runningEnds x)) ∧
        (∀ a k, fault = .source a k → (e.fetch (memRes a) a k).2 ≠ .exhausted → t = ends ((e.fetch (memRes a) a k).1.runningEnds x)) ∧
        (∀ a k, fault = .source a k → (e.fetch (memRes a) a k).2 = .exhausted →
        t = ends ((e.fetch (memRes a) a k).1.cphComplete x.req Code.replayExhausted [])) ∧
        (∀ off k, fault = .hold off k → (e.fetch (bufferRow n off) 0 k).2 = .good → t = ends ((e.fetch (bufferRow n off) 0 k).1.runningEnds x)) ∧
        (∀ off k, fault = .hold off k → (e.fetch (bufferRow n off) 0 k).2 = .permanent →
        t = ends (((e.fetch (bufferRow n off) 0 k).1.runningEnds x).bufferLost n (bufferRow n off))) ∧
        (∀ off k, fault = .hold off k → (e.fetch (bufferRow n off) 0 k).2 = .exhausted →
        t = ends (((e.fetch (bufferRow n off) 0 k).1.copyLost x).bufferLost n (bufferRow n off)))) ∧
    (∀ (d : Dev) (id : Nat) (r : CipherReq), r ∈ d.cph.queue → r.id = id → r.cls = 2 → r.aged = false → 
      Answers (.bulkAge id) d fun t =>
        t = ({ d with cph := { d.cph with queue := d.cph.queue.map fun (r : CipherReq) => if r.id = id then { r with aged := true } else r } } : Dev).bump Fld.cphStat2_bulkAged) ∧
    (∀ (d : Dev) (id : Nat) (r : CipherReq), ((d.cph.queue.find? fun r => r.id = id && !d.cphReady r) = some r) → 
      Answers (.cipherDomainTimeout id) d fun t =>
        t = (((d.unqueue id).cphComplete r Code.domainOff []).cphRefillAll).settle) ∧
    (∀ (d : Dev) (id : Nat) (r : CipherReq), ((d.cph.queue.find? fun r => r.id = id && !d.cphReady r) = none) → ((d.cph.waiting.find? fun r => r.id = id && d.domSt 24 ≠ .on) = some r) → 
      Answers (.cipherDomainTimeout id) d fun t =>
        t = (({ d with cph := { d.cph with waiting := d.cph.waiting.filter fun x => x.id != id } } : Dev).cphComplete r Code.domainOff []).settle) ∧
    (∀ (d : Dev) (res : Nat) (entry : Option Nat) (bucket : Option (Nat × Nat)) (e : Dev), res < 2 ^ 28 → (e = (let f := if d.err.waiting.contains res then d else d.permanent res; ({ f with err := { f.err with waiting := f.err.waiting.filter (· != res) } } : Dev))) → 
      Answers (.rowRemapDone res entry bucket) d fun t =>
        ((resMem res < 58 ∨ 61 < resMem res) → spareCount (resMem res) ≠ 0 → t = e.rowRetire res) ∧
        ((resMem res < 58 ∨ 61 < resMem res) → spareCount (resMem res) = 0 → t = e.bump Fld.errStat2_retireFail) ∧
        (resMem res = 58 → ∀ n, entry = some n → n < 162 → t = e.wr Fld.rfsCalEntry_valid 0 n) ∧
        (resMem res = 59 → ∀ n sec, bucket = some (n, sec) → t = (e.setDutyHist n { e.dutyHist n with
        buckets := ((e.dutyHist n).buckets.filter fun b => b.1 != sec) ++ [(sec, 65535)] }).dutyRegs n) ∧
        (resMem res = 60 → ∀ p, entry = some p → p < 5 → t = e.mismatch p) ∧
        (resMem res = 61 → res % 2 ^ 22 < 96 → t = e.bufferLost (res % 2 ^ 22 / 4) res)) ∧
    (∀ (d : Dev) (q : Nat) (e : Dev), q < 128 → (e = (if d.err.waiting.contains (unitRes 2 q) then d else d.permanent (unitRes 2 q))) → 
      Answers (.queueRetireMove q) d fun t =>
        t = ({ e with err := { e.err with waiting := e.err.waiting.filter (· != unitRes 2 q) } } : Dev).queueMove q) ∧
    (∀ (d : Dev) (bad : List Nat), 
      Answers (.sparingMapCheck bad) d fun t =>
        t = (bad.foldl Dev.mapMismatch d).settleAll)

/-- With Tempo up, the completion that a pair takes (for TP4, of the pair that it replaces) is discarded and counted in
UNSERVED where no engine serves the pair, waits while an earlier frame of its sender is outstanding, and else goes
through the pair's stages, once a context or another memory path has been read again; a context whose read is
exhausted is marked damaged, another such read drops the frame and counts it in UNSERVED. A verify result ends its
work item and the frame goes on; an acknowledgement that misses its deadline is counted; an item whose copies differ
is marked late or dropped and the pair's mismatch is counted; TP4 is retired at a failed self-test and goes on at a
good one; a relayed frame is tried again. -/
def Obligations.PairsServeTheirFrames : Prop :=
    (∀ (d : Dev) (p : Nat) (fault : PairFault) (own : Nat) (c : Completion) (x : RxFrame) (late : Bool) (e : Dev), (own = (if p = 4 then d.pairs.replaces else p)) → d.nextCompletion own = some c → d.tempoUp = true → x = d.staged c → late = (d.tempo.pairs.getD own {}).late → (e = { d with tempo := { d.tempo with pairs := modifyAt (fun q => { q with late := false }) own d.tempo.pairs } }) → 
      Answers (.tempoWorkItem p fault) d fun t =>
        (d.pairClient own = none → t = (d.popFifo own c).bump Fld.lnkStat5_unserved) ∧
        ((d.pairClient own).isSome = true → d.senderBusy x = true → t = d) ∧
        ((d.pairClient own).isSome = true → d.senderBusy x = false → fault = .none →
        t = (((e.popFifo own c).processFrame own c x late).checkpoint own).settle) ∧
        (∀ a k, (d.pairClient own).isSome = true → d.senderBusy x = false → fault = .other a k →
        (e.fetch (memRes a) a k).2 ≠ FetchOutcome.exhausted →
        t = ((((e.fetch (memRes a) a k).1.popFifo own c).processFrame own c x late).checkpoint own).settle) ∧
        (∀ a k, (d.pairClient own).isSome = true → d.senderBusy x = false → fault = .other a k →
        (e.fetch (memRes a) a k).2 = FetchOutcome.exhausted →
        t = ((((e.fetch (memRes a) a k).1.popFifo own c).bump Fld.lnkStat5_unserved).checkpoint own).settle) ∧
        (∀ k s, (d.pairClient own).isSome = true → d.senderBusy x = false → fault = .context k →
        (readMhr x.mac).bind e.residentOf = some s → (e.fetch (memRes (ctxAddr s)) (ctxAddr s) k).2 ≠ FetchOutcome.exhausted →
        t = ((((e.fetch (memRes (ctxAddr s)) (ctxAddr s) k).1.popFifo own c).processFrame own c x late).checkpoint own).settle) ∧
        (∀ k s f, (d.pairClient own).isSome = true → d.senderBusy x = false → fault = .context k →
        (readMhr x.mac).bind e.residentOf = some s → (e.fetch (memRes (ctxAddr s)) (ctxAddr s) k).2 = FetchOutcome.exhausted →
        f = (e.fetch (memRes (ctxAddr s)) (ctxAddr s) k).1 →
        t = (((({ f with ndt := { f.ndt with damaged := s :: f.ndt.damaged.filter (· != s) } } : Dev).popFifo own c).processFrame own c x late).checkpoint own).settle) ∧
        (∀ k, (d.pairClient own).isSome = true → d.senderBusy x = false → fault = .context k →
        (readMhr x.mac).bind e.residentOf = none → t = (((e.popFifo own c).processFrame own c x late).checkpoint own).settle)) ∧
    (∀ (d : Dev) (req : Nat) (i : WorkItem) (r : Nat × List Byte) (h : Mhr) (e : Dev), ((d.tempo.items.find? fun i => i.req = req) = some i) → d.cphResult req = some r → readMhr (rxFrame i.comp i.octets).mac = some h → (e = { d.dropResult req with tempo := { (d.dropResult req).tempo with items := (d.dropResult req).tempo.items.filter fun j => j.req != req } }) → 
      Answers (.verifyResult req) d fun t =>
        t = (((e.verified i (rxFrame i.comp i.octets) h r.1 r.2).inboxNext i.slot e.fed.inbox.length).checkpoint i.pair).settle) ∧
    (∀ (d : Dev) (req : Nat), 
      Answers (.ackDeadlineMissed req) d fun t =>
        ((d.tempo.items.any fun i => i.req = req && i.ackPlanned) = true →
        t = ({ d with tempo := { d.tempo with items := d.tempo.items.map fun i => if i.req = req then { i with ackPlanned := false } else i } } : Dev).bump Fld.lnkStat3_ackLate) ∧
        (∀ f, (d.tempo.items.any fun i => i.req = req && i.ackPlanned) = false →
        (d.tx.frames.find? fun f => f.isAck && f.stage = .cipher req) = some f → t = d.txLate f)) ∧
    (∀ (d : Dev) (p : Nat) (item : LockItem) (own : Nat), d.tempoUp = true → d.pairs.retired.contains p = false → ((p < 4 ∧ own = p) ∨ (p = 4 ∧ own = d.pairs.replaces ∧ own < 4)) → 
      Answers (.lockstepMismatch p item) d fun t =>
        (item = .boundary → t = d.mismatch p) ∧
        (item = .fifo → t = ({ d with tempo := { d.tempo with pairs := modifyAt (fun q => { q with late := true }) own d.tempo.pairs } } : Dev).mismatch p) ∧
        (∀ req, item = .verify req → t = ({ d with tempo := { d.tempo with items := d.tempo.items.map fun i => if i.req = req && i.pair = own then { i with late := true } else i } } : Dev).mismatch p) ∧
        (∀ id f, item = .ack id → d.frame id = some f → f.isAck = true → (∀ c, f.stage ≠ .committed c) →
        t = ((d.dropFrame id).ackLockstep p).mismatch p)) ∧
    (∀ (d : Dev) (good : Bool), d.tempoUp = true → d.pairs.replaces = 7 → d.pairs.retired.contains 4 = false → 
      Answers (.tp4SelfTest good) d fun t =>
        t = (if good then d else (d.mismatch 4).retirePair 4)) ∧
    (∀ (d : Dev) (id : Nat) (f : TxFrame), d.frame id = some f → f.origin = .relay → 
      Answers (.relayRetry id) d fun t =>
        t = retryAttempt id d)

/-- An enabled slot program's occurrence raises 0x48, plans its next one, and then counts a miss where the last is still
running, or does no more where no engine serves it, or raises 0x46 and opens its window for WINDOW, or sends the next
frame of its queue, where it has one, at the occurrence; a closing window raises 0x47 and leaves it. A T0_HI write
takes effect at once while TSCH is off and at the next timeslot while it is on; a CTRL write is stored where its
length, hopping sequence, template and BE fields are legal, else rejected; a timeslot puts its ASN into the ASN
registers, raises 0x49 and serves the cells. -/
def Obligations.SlotsAndTimeslotsFollowTheirRules : Prop :=
    (∀ (d : Dev) (m : Nat) (r : SlotRun) (k : Nat) (e : Dev) (busy served : Bool), m < 512 → d.tempoUp = true → d.is Fld.lnkSlotW0_en m = true → r = { d.slotRun m with cfg := d.slotCfg m, lead := none } → k = slotNext (d.slotCfg m) d.tmb → e = d.raise 0x48 → (busy = (r.openTill.isSome || r.frame.any fun id => (e.frame id).isSome)) → (served = (e.pairClient (if e.is Fld.lnkSlotW0_kind m then 3 else pairOf r.sub r.chan)).isSome) → 
      Answers (.slotOccurrence m) d fun t =>
        (busy = true → t = (e.setSlotRun { r with k := k + 1 }).bump Fld.lnkStat5_slotMissed) ∧
        (busy = false → served = false → t = e.setSlotRun { r with k := k + 1 }) ∧
        (busy = false → served = true → e.rd Fld.lnkSlotW0_kind m = 0 →
        t = ((e.setSlotRun { r with k := k + 1, openTill := some (e.tmb + usTicks (e.rd Fld.lnkSlotW3_window m)) }).raise 0x46).settle) ∧
        (busy = false → served = true → e.rd Fld.lnkSlotW0_kind m ≠ 0 →
        (e.setSlotRun { r with k := k + 1, frame := none }).slotted ((e.setSlotRun { r with k := k + 1, frame := none }).rd Fld.lnkSlotW0_queue m) none = none →
        t = e.setSlotRun { r with k := k + 1, frame := none }) ∧
        (∀ f, busy = false → served = true → e.rd Fld.lnkSlotW0_kind m ≠ 0 →
        (e.setSlotRun { r with k := k + 1, frame := none }).slotted ((e.setSlotRun { r with k := k + 1, frame := none }).rd Fld.lnkSlotW0_queue m) none = some f →
        t = (((e.setSlotRun { r with k := k + 1, frame := none }).setSlotRun { r with k := k + 1, frame := some f.id }).slotSend
        { f.withAsn (e.setSlotRun { r with k := k + 1, frame := none }).tempo.tsch.asn with
        cls := 4, start := slotStart (d.slotCfg m) + k * slotPeriod (d.slotCfg m), sub := r.sub, chan := r.chan }).settle)) ∧
    (∀ (d : Dev) (m : Nat) (r : SlotRun), ((d.tempo.slots.find? fun r => r.entry = m && r.openTill.isSome) = some r) → 
      Answers (.slotWindowClose m) d fun t =>
        t = ((d.setSlotRun { r with openTill := none }).raise 0x47).settle) ∧
    (∀ (d : Dev) (e : Dev) (a : Nat) (f : Dev), d.tempoUp = true → d.is Fld.lnkTschCtrl_en = true → d.slotTicks ≠ 0 → e = (d.tempo.tsch.next.map d.tschApply).getD d → e.tempo.tsch.t0 ≤ e.tmb → a = (e.tempo.tsch.asn0 + (e.tmb - e.tempo.tsch.t0) / e.slotTicks) % 2 ^ 40 → f = (((({ e with tempo := { e.tempo with tsch := { e.tempo.tsch with asn := a } } } : Dev).wr Fld.lnkTschAsnLo_asn a).wr Fld.lnkTschAsnHi_asn (a / 2 ^ 32)).raise 0x49) → (f.pairClient 3).isSome = true → 
      Answers .tschTimeslot d fun t =>
        t = (f.cellsServe a ((List.range 8).flatMap fun sf =>
        (List.range 1024).filter fun c => f.rd Fld.lnkCellW0_sf c = sf && f.cellOccurs c a && f.is Fld.lnkCellW0_tx c) 2 []).settle) ∧
    (∀ (d : Dev) (who : Initiator) (w : Word) (e : Dev), d.domUp 10 = true → e = d.plainWrite who Reg.lnkTschT0Hi w → 
      Answers (.lnkTschT0HiWrite who w) d fun t =>
        (e.is Fld.lnkTschCtrl_en = false → t = e.tschApply e.tschRegs) ∧
        (e.is Fld.lnkTschCtrl_en = true → t = { e with tempo := { e.tempo with tsch := { e.tempo.tsch with next := some e.tschRegs } } })) ∧
    (∀ (d : Dev) (who : Initiator) (w : Word) (good : Bool), d.domUp 10 = true → (good = true ↔ (1 ≤ wBits w 8 2 ∧ wBits w 8 2 ≤ 64 ∧ (wBits w 0 0 = 1 → d.templateOk = true ∧ wBits w 19 16 ≤ wBits w 23 20 ∧ ((List.range (wBits w 8 2)).all fun j => d.chanDefined (wBits w 1 1 = 1) (d.hopEntry j)) = true))) → 
      Answers (.lnkTschCtrlWrite who w) d fun t =>
        t = (if good then d.plainWrite who Reg.lnkTschCtrl w else d.rejectWrite who Reg.lnkTschCtrl))

/-- A window lead takes the votes of its node or entry; a planned window opens and raises 0x46; an idle open window
closes: it raises 0x47, counts WINDOW_MISS without a contact, and plans the next window, one search step, or the
changed schedule; the release of held frames ends where none is left or the node may not be sent to, else the next
held frame of a contacted node is scheduled with Frame Pending as the rest of its frames say and secured where it asks
for it, one a window where another member hears the node; a due Check telegram is queued to the node's wake address
with the band's QCHIP threshold and profile; at the end of a Check wait the next attempt is due, or the node is
reported lost. -/
def Obligations.SleepyNodesAreServed : Prop :=
    (∀ (d : Dev) (w : WinRef), 
      Answers (.windowVoteLead w) d fun t =>
        (∀ s, w = .node s → t = (d.nodeLead s).settle) ∧
        (∀ m, w = .entry m → t = (d.entryLead m).settle)) ∧
    (∀ (d : Dev) (s : Nat) (w : NodeWin), ((d.tempo.wins.find? fun w => w.slot = s && (w.phase = .planned || w.phase = .lead)) = some w) → d.tempo.service = true → 
      Answers (.windowOpen s) d fun t =>
        t = ((({ d with tempo := { d.tempo with wins := d.tempo.wins.map fun x => if x = w then { x with phase := .opened } else x } } : Dev).coexWindow s).raise 0x46).settle) ∧
    (∀ (d : Dev) (s : Nat) (w : NodeWin) (e f : Dev), d.openWin s = some w → d.winBusy w = false → (e = (((d.setWins (d.tempo.wins.map fun x => if x = w then { x with phase := .releasing } else x)).coexDrop (2 ^ 32 + s)).raise 0x47)) → (f = (if w.contacted then e else e.bump Fld.lnkSlpStat0_windowMiss)) → 
      Answers (.windowClose s) d fun t =>
        (w.changed = true → t = (f.schedRestart s).winSweep.settle) ∧
        (w.changed = false → w.contacted = true → t = f.winSweep.settle) ∧
        (w.changed = false → w.contacted = false → f.cx s Cx.gPhase = 2 → t = (f.searchMiss s w.cfg w.k (w.e + usTicks w.h)).winSweep.settle) ∧
        (w.changed = false → w.contacted = false → f.cx s Cx.gPhase ≠ 2 → t = (f.planWindow s w.k).winSweep.settle)) ∧
    (∀ (d : Dev) (s : Nat) (p : PendSend) (ended : Dev), ((d.tempo.sends.find? fun x => x.slot = s) = some p) → d.heldInFlight s = false → (ended = { d with tempo := { d.tempo with sends := d.tempo.sends.filter fun x => x.slot != s } }) → 
      Answers (.heldFrameSend s) d fun t =>
        (d.nextHeld s = none → t = ended.winSweep) ∧
        (∀ f, d.nextHeld s = some f → (d.releases s = false ∨ d.damagedSlot s = true) → t = ended.winSweep) ∧
        (∀ f g e, d.nextHeld s = some f → d.releases s = true → d.damagedSlot s = false →
        e = (if (d.heardBy s).isSome then ended else d) →
        g = { f with stage := .scheduled, cls := 2, sub := p.sub, chan := p.chan, phy := p.phy, mode := p.mode, start := p.at', mac := setPending f.mac (e.pendingFor s f.id) } →
        t = (if f.secure then ((e.takeInput f.id).setFrame g).secureFrame g else (e.takeInput f.id).setFrame g))) ∧
    (∀ (d : Dev) (s x : Nat) (c : CheckRun) (q : Nat), ((d.tempo.checks.find? fun c => c.slot = s) = some c) → c.due = some x → d.cx s Cx.gPhase = 3 → (q = (slpOf c.cfg (if c.sub then Fld.lnkSlpWake_qsub else Fld.lnkSlpWake_q24))) → 
      Answers (.checkTelegramSend s) d fun t =>
        t = (({ d with tempo := { d.tempo with checks := d.tempo.checks.map fun y => if y.slot = s then { y with due := none } else y } } : Dev).addFrame
        { id := 0, origin := .check, cls := 2, sub := c.sub, chan := c.chan, phy := 3, wake := d.wakeAddr s, earliest := max x d.tmb, node := some s, power := signedOf q 9, profile := slpOf c.cfg (if c.sub then Fld.lnkSlpWake_psub else Fld.lnkSlpWake_p24), stage := .scheduled })) ∧
    (∀ (d : Dev) (s : Nat) (c : CheckRun), ((d.tempo.checks.find? fun c => c.slot = s && c.wait.isSome) = some c) → 
      Answers (.checkWaitEnd s) d fun t =>
        (slpOf c.cfg Fld.lnkSlpLost_checkTries ≤ d.cx s Cx.gCount → t = (d.enterReported s).settle) ∧
        (d.cx s Cx.gCount < slpOf c.cfg Fld.lnkSlpLost_checkTries → t = ({ d with tempo := { d.tempo with checks := d.tempo.checks.map fun x => if x.slot = s then { x with due := some d.tmb, wait := none, lead := none, cfg := d.slpCfg } else x } } : Dev).settle))

/-- For a command that starts: a held table refuses every one but SNAPSHOT with TABLE_HELD. NODE_ADD refuses reserved
fields, another member's address, a slot to be rebuilt and an existing node, and else zeroes the context, writes the
image's groups with the next local stamp, sets NODE_ADDR, VALID and the first-use values, makes the route entry and
its keys; NODE_UPDATE refuses an unknown or damaged node and applies the groups and the COUNTER_UNKNOWN flags,
touching the context where a group or a flag took effect; where an insertion fails the table stays as it was and only
the failure is counted. NODE_REMOVE drops the node and completes its frames; NODE_READ returns the 128 bytes of the
context; ROUTE_SET writes the entry and its keys and returns its index; ROUTE_DEL clears VALID at once and completes
when its index entries are cleared; SNAPSHOT returns the stream and the first slot not covered; RESTORE returns what
it applied and refused. ADOPT and CLEAR start for a secure core on an idle table and are refused otherwise; ADOPT
replays the table words that failed their parity, CLEAR zeroes CTX, RTE and IDX, and both lift the hold; a rebuild re-
inserts every resident key. -/
def Obligations.NodeTableCommandsAct : Prop :=
    (∀ (d : Dev) (c : HostCmd) (e f g h : Dev) (x : HciCmd) (s : Nat) (img : List Byte) (ins : Dev × Nat), Starts 0x20 c d e x → s = x.a 0 % 32768 → img = e.cmdData x → f = ((e.nextStamp.1.setBytes (ctxAddr s) (List.replicate 128 0#8)).setCx s Cx.nodeAddr (x.a 0)).setCx s Cx.valid 1 → (g = [0, 1, 2, 3].foldl (fun b k => (b.putGroup s k img).putStamp s k e.nextStamp.2) f) → h = ((g.firstUse s ((x.a 1).testBit 0) ((x.a 1).testBit 1)).cxTouch s).setRte s (x.a 0) true s g.member → ins = h.insertKeys s (h.residentKeys s) → 
      Answers (.nodeAdd c) d fun t =>
        (e.ndt.held = true → t = (e.finish x Code.tableHeld []).fetchCmds 255) ∧
        (e.ndt.held = false → groupsOk img [0, 1, 2, 3] = false → t = (e.finish x Code.reservedField []).fetchCmds 255) ∧
        (e.ndt.held = false → groupsOk img [0, 1, 2, 3] = true → x.a 0 / 32768 ≠ e.member → t = (e.finish x Code.notMember []).fetchCmds 255) ∧
        (e.ndt.held = false → groupsOk img [0, 1, 2, 3] = true → x.a 0 / 32768 = e.member → e.damagedNode s = true →
        t = (e.finish x Code.rebuilding []).fetchCmds 255) ∧
        (e.ndt.held = false → groupsOk img [0, 1, 2, 3] = true → x.a 0 / 32768 = e.member → e.damagedNode s = false →
        (e.slotValid s = true ∨ e.keysTaken img = true) → t = (e.finish x Code.nodeExists []).fetchCmds 255) ∧
        (e.ndt.held = false → groupsOk img [0, 1, 2, 3] = true → x.a 0 / 32768 = e.member → e.damagedNode s = false →
        e.slotValid s = false → e.keysTaken img = false → ins.2 = Code.ok →
        t = (((ins.1.rebuilt s).schedChanged s).finish x Code.ok []).fetchCmds 255) ∧
        (e.ndt.held = false → groupsOk img [0, 1, 2, 3] = true → x.a 0 / 32768 = e.member → e.damagedNode s = false →
        e.slotValid s = false → e.keysTaken img = false → ins.2 ≠ Code.ok →
        t = ((e.setReg Reg.ndtStat3 (ins.1.reg Reg.ndtStat3)).finish x ins.2 []).fetchCmds 255)) ∧
    (∀ (d : Dev) (c : HostCmd) (e : Dev) (x : HciCmd) (gs : List Nat), Starts 0x21 c d e x → (gs = (List.range 4).filter fun g => (x.a 1).testBit g) → 
      Answers (.nodeUpdate c) d fun t =>
        (e.ndt.held = true → t = (e.finish x Code.tableHeld []).fetchCmds 255) ∧
        (e.ndt.held = false → (((x.a 1).testBit 4 && (x.a 1).testBit 5) || !groupsOk (e.cmdData x) gs) = true →
        t = (e.finish x Code.reservedField []).fetchCmds 255) ∧
        (e.ndt.held = false → (((x.a 1).testBit 4 && (x.a 1).testBit 5) || !groupsOk (e.cmdData x) gs) = false →
        e.findSlot (x.a 0) = none → t = (e.finish x Code.nodeUnknown []).fetchCmds 255) ∧
        (∀ s, e.ndt.held = false → (((x.a 1).testBit 4 && (x.a 1).testBit 5) || !groupsOk (e.cmdData x) gs) = false →
        e.findSlot (x.a 0) = some s → e.damagedSlot s = true → t = (e.finish x Code.rebuilding []).fetchCmds 255) ∧
        (∀ s y, e.ndt.held = false → (((x.a 1).testBit 4 && (x.a 1).testBit 5) || !groupsOk (e.cmdData x) gs) = false →
        e.findSlot (x.a 0) = some s → e.damagedSlot s = false → y = e.nextStamp.1.groupUpdates s (e.cmdData x) e.nextStamp.2 gs →
        y.2 ≠ Code.ok → t = ((e.setReg Reg.ndtStat3 (y.1.reg Reg.ndtStat3)).finish x y.2 []).fetchCmds 255) ∧
        (∀ s y f g h, e.ndt.held = false → (((x.a 1).testBit 4 && (x.a 1).testBit 5) || !groupsOk (e.cmdData x) gs) = false →
        e.findSlot (x.a 0) = some s → e.damagedSlot s = false → y = e.nextStamp.1.groupUpdates s (e.cmdData x) e.nextStamp.2 gs →
        y.2 = Code.ok →
        f = (if (x.a 1).testBit 4 then y.1.setCx s Cx.counterUnknown 1 else if (x.a 1).testBit 5 then y.1.setCx s Cx.counterUnknown 0 else y.1) →
        g = (if (gs.any fun k => e.nextStamp.2.gt (e.stampOf s k)) || (x.a 1).testBit 4 || (x.a 1).testBit 5 then f.cxTouch s else f) →
        h = (if [e.cx s Cx.schedPeriod, e.cx s Cx.schedOffset, e.cx s Cx.schedBand] = [g.cx s Cx.schedPeriod, g.cx s Cx.schedOffset, g.cx s Cx.schedBand] then g else g.schedChanged s) →
        t = (h.finish x Code.ok []).fetchCmds 255)) ∧
    (∀ (d : Dev) (c : HostCmd) (e : Dev) (x : HciCmd), Starts 0x22 c d e x → 
      Answers (.nodeRemove c) d fun t =>
        (e.ndt.held = true → t = (e.finish x Code.tableHeld []).fetchCmds 255) ∧
        (e.ndt.held = false → e.findSlot (x.a 0) = none → t = (e.finish x Code.nodeUnknown []).fetchCmds 255) ∧
        (∀ s, e.ndt.held = false → e.findSlot (x.a 0) = some s → e.damagedSlot s = true → t = (e.finish x Code.rebuilding []).fetchCmds 255) ∧
        (∀ s, e.ndt.held = false → e.findSlot (x.a 0) = some s → e.damagedSlot s = false →
        t = (((((e.dropNode s).slpForget s).dropNodeFrames s).settle).finish x Code.ok []).fetchCmds 255)) ∧
    (∀ (d : Dev) (c : HostCmd) (e : Dev) (x : HciCmd), Starts 0x23 c d e x → 
      Answers (.nodeRead c) d fun t =>
        (e.ndt.held = true → t = (e.finish x Code.tableHeld []).fetchCmds 255) ∧
        (e.ndt.held = false → e.findSlot (x.a 0) = none → t = (e.finish x Code.nodeUnknown []).fetchCmds 255) ∧
        (∀ s, e.ndt.held = false → e.findSlot (x.a 0) = some s → e.damagedSlot s = true → t = (e.finish x Code.rebuilding []).fetchCmds 255) ∧
        (∀ s, e.ndt.held = false → e.findSlot (x.a 0) = some s → e.damagedSlot s = false →
        t = ((e.cmdReturn x (e.bytes (ctxAddr s) 128)).finish x Code.ok []).fetchCmds 255)) ∧
    (∀ (d : Dev) (c : HostCmd) (e f : Dev) (x : HciCmd) (r : Nat) (keys : List IdxKey) (eui short : List IdxKey), Starts 0x24 c d e x → r = (e.remoteOf (x.a 0)).getD (lowestFree 32768 e.remoteUsed) → (eui = (if (x.a 5).testBit 0 then [keyEui (x.a 2 + x.a 3 * 2 ^ 32)] else [])) → (short = (if (x.a 5).testBit 1 then [keyShort (bitsOf (x.a 4) 15 0) (bitsOf (x.a 4) 31 16)] else [])) → keys = keyNode (x.a 0) :: eui ++ short → (f = ((e.dropKeys r fun _ => true).setRte r (x.a 0) false 0 (x.a 1))) → 
      Answers (.routeSet c) d fun t =>
        (e.ndt.held = true → t = (e.finish x Code.tableHeld []).fetchCmds 255) ∧
        (e.ndt.held = false → (e.findSlot (x.a 0)).isSome = true → t = (e.finish x Code.reservedField []).fetchCmds 255) ∧
        (e.ndt.held = false → e.findSlot (x.a 0) = none → 65536 ≤ r →
        t = ((e.bump Fld.ndtStat3_insertFail).finish x Code.tableFull []).fetchCmds 255) ∧
        (∀ g, e.ndt.held = false → e.findSlot (x.a 0) = none → r < 65536 → (f.insertKeys r keys).2 = Code.ok → g = (f.insertKeys r keys).1 →
        t = (({ g with ndt := { g.ndt with lostRoutes := g.ndt.lostRoutes.filter (· != r) } } : Dev).finish x Code.ok [r]).fetchCmds 255) ∧
        (e.ndt.held = false → e.findSlot (x.a 0) = none → r < 65536 → (f.insertKeys r keys).2 ≠ Code.ok →
        t = ((e.setReg Reg.ndtStat3 ((f.insertKeys r keys).1.reg Reg.ndtStat3)).finish x (f.insertKeys r keys).2 []).fetchCmds 255)) ∧
    (∀ (d : Dev) (c : HostCmd) (e : Dev) (x : HciCmd), Starts 0x25 c d e x → 
      Answers (.routeDel c) d fun t =>
        (e.ndt.held = true → t = (e.finish x Code.tableHeld []).fetchCmds 255) ∧
        (e.ndt.held = false → e.remoteOf (x.a 0) = none → t = (e.finish x Code.nodeUnknown []).fetchCmds 255) ∧
        (∀ r, e.ndt.held = false → e.remoteOf (x.a 0) = some r →
        t = (({ e.clearRte r with ndt := { e.ndt with dels := e.ndt.dels ++ [{ route := r, sq := x.sq, cid := x.id }] } } : Dev).runCmd x).fetchCmds 255)) ∧
    (∀ (d : Dev) (r : Nat) (x : RouteDel) (e : Dev), ((d.ndt.dels.find? fun x => x.route = r) = some x) → (e = d.dropKeys r fun _ => true) → 
      Answers (.routeDelIndexCleared r) d fun t =>
        t = (({ e with ndt := { e.ndt with dels := e.ndt.dels.filter fun y => y.route != r } } : Dev).finishId x.cid Code.ok []).pump) ∧
    (∀ (d : Dev) (c : HostCmd) (e : Dev) (x : HciCmd) (r : List Byte × Nat), Starts 0x26 c d e x → r = e.snapshot (x.a 0) (x.a 1) ((x.a 2).testBit 0) ((x.a 2).testBit 1) x.dataLen → 
      Answers (.snapshot c) d fun t =>
        t = ((e.cmdReturn x r.1).finish x Code.ok [r.1.length, r.2]).fetchCmds 255) ∧
    (∀ (d : Dev) (c : HostCmd) (e : Dev) (x : HciCmd) (r : Dev × Restored), Starts 0x27 c d e x → r = e.restoreStream (e.cmdData x) → 
      Answers (.restoreStream c) d fun t =>
        (e.ndt.held = true → t = (e.finish x Code.tableHeld []).fetchCmds 255) ∧
        (e.ndt.held = false →
        t = ((r.2.slots.foldl (fun b s => b.slpRestored s) r.1).finish x Code.ok [r.2.applied, r.2.refused, b2n r.2.mismatch]).fetchCmds 255)) ∧
    (∀ (d : Dev) (who : Initiator), d.domUp 22 = true → 
      Answers (.adopt who) d fun t =>
        (d.secure who = true → d.ndtBusy = false → t = { d with ndt := { d.ndt with op := some .adopt } }) ∧
        (d.secure who = false ∨ d.ndtBusy = true → t = d.refuseWrite who Reg.ndtCtrl)) ∧
    (∀ (d : Dev) (who : Initiator), d.domUp 22 = true → 
      Answers (.clear who) d fun t =>
        (d.secure who = true → d.ndtBusy = false → t = { d with ndt := { d.ndt with op := some .clear } }) ∧
        (d.secure who = false ∨ d.ndtBusy = true → t = d.refuseWrite who Reg.ndtCtrl)) ∧
    (∀ (d : Dev) (faults : List (Nat × Nat)) (e f : Dev), d.ndt.op = some .adopt → d.failedWords = (faults, f) → (e = (faults.filter fun x => isTable x.1).foldl (fun b x => (b.fetch (memRes x.1) x.1 x.2).1) f) → 
      Answers .adoptDone d fun t =>
        t = { e with ndt := { e.ndt with op := none, held := false } }) ∧
    (∀ (d : Dev) (e : Dev), d.ndt.op = some .clear → e = d.clearMem isTable → 
      Answers .clearDone d fun t =>
        t = { e with ndt := { e.ndt with op := none, held := false, damaged := [], lostRoutes := [] } }) ∧
    (∀ (d : Dev) (e : Dev), d.ndt.rebuild ≠ [] → e = d.rebuildSlots d.residentSlots → 
      Answers .rteIdxRebuildDone d fun t =>
        t = { e with ndt := { e.ndt with rebuild := [] } })

/-- START in STATE OFF draws BOOT_ID, sets NDT_MEMBER, and enters LINK as JOINING member; in another STATE it does
nothing; FED_CFG is stored, its locked fields only in STATE OFF, with STANDALONE at the gate, and refused to other
writers; a port's link changes; HELLO goes to ALL, and the first begins discovery; discovery closes into the group
election; an accepted HELLO of another EUI-64 under this index is a conflict, of a member in CONFLICT a claim more, of
a present member with another EUI-64 a conflict, of an absent one its entry as JOINING with a challenge, of any other
its entry; an accepted CANDIDATE of the own group merges views by OR and sends a changed view again; a group whose
members agree sets its coordinator, the best coordinator becomes leader, and a new leader resolves an open proposal;
GROUP_REPORT and LEADER are taken, and a leader of higher rank answers LEADER with its own; the leader's heartbeat is
LEADER; lost coordinators and leaders are replaced; a silent member becomes ABSENT and frames that wait for it end
with PEER_ABSENT, in CONFLICT the one sender left that the ROSTER record names returns to JOINING. -/
def Obligations.FederationFormsAsItsRulesGive : Prop :=
    (∀ (d : Dev) (who : Initiator) (w : Word) (r : Dev), d.domUp 27 = true → r = d.rsvd who Reg.fedCtrl w → 
      Answers (.fedCtrlStart who w) d fun t =>
        ((wBits w 0 0 = 0 ∨ r.fedState ≠ 0) → t = r) ∧
        (∀ b e f, wBits w 0 0 = 1 → r.fedState = 0 → (b, e) = r.free 32 →
        f = e.setFed { bootId := b, current := e.fed.current, proposed := e.fed.proposed, migrations := e.fed.migrations, nextOffer := e.fed.nextOffer } →
        t = ((((if f.domUp 22 then f.wr Fld.ndtMember_member f.fedMe else f).ownEntry 1).setFedState 1).wr Fld.fedStatus_role 0))) ∧
    (∀ (d : Dev) (who : Initiator) (w : Word), d.domUp 27 = true → 
      Answers (.fedCfgWrite who w) d fun t =>
        (d.secureOrHost who = true → t = (d.plainWrite who Reg.fedCfg w (d.fedState != 0)).gateStandalone (wBits w 12 12 = 1)) ∧
        (d.secureOrHost who = false → t = d.refuseWrite who Reg.fedCfg)) ∧
    (∀ (d : Dev) (p : Nat), 
      Answers (.portLinkUp p) d fun t =>
        t = { d with pins := { d.pins with ethUp := putAt p true d.pins.ethUp } }) ∧
    (∀ (d : Dev) (p : Nat), 
      Answers (.portLinkDown p) d fun t =>
        t = { d with pins := { d.pins with ethUp := putAt p false d.pins.ethUp } }) ∧
    (∀ (d : Dev) (e f : Dev), d.fedOn = true → d.portsUp ≠ 0 → (e = (if d.fedState = 1 then d.setFedState 2 else d)) → f = e.fedSend none (.hello e.eui 3 (e.rd Fld.fedCfg_prio) e.portsUp e.digestRegs) → 
      Answers .helloTimer d fun t =>
        t = (if f.iCoord then f.sendReport else f)) ∧
    (∀ (d : Dev), d.fedOn = true → d.fedState = 2 → 
      Answers .discoveryClose d fun t =>
        t = (d.setFedState 3).startElection) ∧
    (∀ (d : Dev) (h : BmHdr) (eui version prio ports : Nat) (digest : List Byte) (e f g : Dev) (m : Nat) (claims others : List (Nat × Nat)), (d.bmAccept h { type := 0x01, fromQuarantine := true } (decide (2 ≤ version ∧ prio < 16 ∧ ports < 4 ∧ digest.length = 32)) = (e, true)) → m = bmFrom h → claims = alSet eui e.tmb (e.peer m).claims → (others = claims.filter fun c => c.1 != eui) → (f = (e.setPeer m { e.peer m with claims := claims.filter fun c => !others.contains c }).helloEntry m eui version prio h.ports h.mac 1 digest) → g = ((f.setMemberState m 1).setMember m 6 1 0).challengeDue m → 
      Answers (.hello h eui version prio ports digest) d fun t =>
        (m = e.fedMe → eui = e.eui → t = e.settle) ∧
        (m = e.fedMe → eui ≠ e.eui → t = ((e.setPeer m { e.peer m with claims := claims }).conflict m).settle) ∧
        (m ≠ e.fedMe → e.memberState m = 4 → t = (e.setPeer m { e.peer m with claims := claims }).settle) ∧
        (m ≠ e.fedMe → (e.memberState m = 1 ∨ e.memberState m = 2) → eui ≠ e.memberEui m →
        t = ((e.setPeer m { e.peer m with claims := alSet (e.memberEui m) (e.peer m).heard claims }).conflict m).settle) ∧
        (m ≠ e.fedMe → (e.memberState m = 1 ∨ e.memberState m = 2) → eui = e.memberEui m → t = f.settle) ∧
        (m ≠ e.fedMe → e.memberState m ∉ [0, 1, 2, 4] → t = f.settle) ∧
        (m ≠ e.fedMe → e.memberState m = 0 → t = (if g.iLead then g.reportJoining m else g).settle)) ∧
    (∀ (d : Dev) (h : BmHdr) (group best bitmap : Nat) (e f : Dev), (d.bmAccept h { type := 0x02 } (decide (group < 32 ∧ best < 1024 ∧ bitmap < 2 ^ 32)) = (e, true)) → f = e.setPeer (bmFrom h) { e.peer (bmFrom h) with bitmap := bitmap, candidate := best, voted := true } → 
      Answers (.candidate h group best bitmap) d fun t =>
        (group ≠ groupOf e.fedMe → t = e.settle) ∧
        (group = groupOf e.fedMe → t = (if f.fed.view ||| bitmap = f.fed.view ∨ f.fed.coord.isSome then f else (f.setFed { f.fed with view := f.fed.view ||| bitmap }).sendCandidate).settle)) ∧
    (∀ (d : Dev), d.fedOn = true → 3 ≤ d.fedState → d.fedQuarantined = false → 
      Answers .electionRound d fun t =>
        (∀ e, d.fed.coord = none → d.groupAgrees = true →
        e = d.setCoord (groupOf d.fedMe) (d.bestOf (membersIn (32 * groupOf d.fedMe) 32 d.fed.view)) →
        t = if e.iCoord then e.sendReport else e) ∧
        (d.fed.coord = none → d.groupAgrees = false →
        t = (d.setFed { d.fed with peers := d.fed.peers.map fun x => (x.1, { x.2 with voted := false }) }).sendCandidate) ∧
        (d.fed.coord = some d.fedMe → d.fed.leader = none → d.bestOf d.coords = d.fedMe → t = d.becomeLeader) ∧
        (d.fed.coord = some d.fedMe → d.fed.leader = none → d.bestOf d.coords ≠ d.fedMe → t = d.sendReport) ∧
        (∀ c, d.fed.coord = some c → (c ≠ d.fedMe ∨ d.fed.leader.isSome = true) → t = if d.iLead && d.fed.resolve then d.resolveProposal else d)) ∧
    (∀ (d : Dev) (h : BmHdr) (group coord present aligned attested m : Nat) (e f g k l : Dev), (d.bmAccept h { type := 0x03 } (decide (group < 32 ∧ coord < 1024 ∧ present < 2 ^ 32 ∧ aligned < 2 ^ 32 ∧ attested < 2 ^ 32)) = (e, true)) → m = bmFrom h → f = e.setPeer m { e.peer m with report := some (present, aligned, attested) } → (g = (if group = groupOf f.fedMe ∧ f.iCoord = true ∧ f.memberRank m < f.memberRank f.fedMe then f else f.setCoord group m)) → (k = (if group = groupOf f.fedMe ∧ g.iCoord = true then g else (membersIn (32 * group) 32 (2 ^ 32 - 1)).foldl (fun b j => if j != b.fedMe && !b.attests j then b.setMember j 6 1 (b2n (attested.testBit (j % 32))) else b) g)) → (l = (if k.iLead = true ∧ k.memberRank k.fedMe < k.memberRank m then k.stepDown else k)) → 
      Answers (.groupReport h group coord present aligned attested) d fun t =>
        ((coord ≠ m ∨ groupOf m ≠ group) → t = e.settle) ∧
        (coord = m → groupOf m = group → t = l.fedAdvance.settle)) ∧
    (∀ (d : Dev) (h : BmHdr) (l groups : Nat) (e f g : Dev) (differs : Bool), (d.bmAccept h { type := 0x04 } (decide (l < 1024 ∧ groups < 2 ^ 32)) = (e, true)) → (f = (if e.iLead then e.stepDown else e)) → differs = (f.iCoord && (f.coordGroups != groups || f.bestOf (bmFrom h :: f.coords) != bmFrom h)) → (g = (if differs then f.sendReport else f)) → 
      Answers (.leader h l groups) d fun t =>
        ((l ≠ bmFrom h ∨ bmFrom h = e.fedMe) → t = e.settle) ∧
        (l = bmFrom h → bmFrom h ≠ e.fedMe → e.iLead = true → e.memberRank l < e.memberRank e.fedMe → t = e.sendLeader.settle) ∧
        (l = bmFrom h → bmFrom h ≠ e.fedMe → (e.iLead = false ∨ e.memberRank e.fedMe ≤ e.memberRank l) →
        t = (if differs && g.fed.leader != some l then g else (g.setLeader l).fedAdvance).settle)) ∧
    (∀ (d : Dev), d.fedOn = true → d.fed.leader = some d.fedMe → 
      Answers .leaderHeartbeat d fun t =>
        t = d.fedSend none (.leader d.fedMe d.coordGroups)) ∧
    (∀ (d : Dev) (c : Nat), d.fedOn = true → d.fed.coord = some c → c ≠ d.fedMe → 
      Answers .coordinatorLoss d fun t =>
        t = ((d.setMember c 7 1 0).startElection).showRoles) ∧
    (∀ (d : Dev) (l : Nat) (e : Dev), d.fedOn = true → d.fed.leader = some l → l ≠ d.fedMe → e = (d.setMember l 7 1 0).stepDown → 
      Answers .leaderLoss d fun t =>
        t = if e.iCoord then e.sendReport else e) ∧
    (∀ (d : Dev) (m : Nat) (e : Dev), d.fedOn = true → m < 1024 → e = (d.setMemberState m 0).setMember m 7 1 0 → 
      Answers (.memberAbsent m) d fun t =>
        (m = d.fedMe → t = if d.fedState = 10 && (d.liveClaims m).isEmpty && d.recordNames m d.eui then (d.setFedState 5).setMemberState m 1 else d) ∧
        (m ≠ d.fedMe → d.memberState m = 0 → t = d) ∧
        (∀ c, m ≠ d.fedMe → d.memberState m = 4 → d.liveClaims m = [c] → d.recordNames m c.1 = true →
        t = (((((d.setPeer m { d.peer m with claims := [c] }).setLe (memberAddr m + 8) 8 c.1).setMemberState m 1).setMember m 6 1 0).challengeDue m)) ∧
        (m ≠ d.fedMe → d.memberState m = 4 → (∀ c, d.liveClaims m = [c] → d.recordNames m c.1 = false) → t = d) ∧
        (m ≠ d.fedMe → d.memberState m ≠ 0 → d.memberState m ≠ 4 →
        t = (((e.tx.frames.filter fun f => f.stage = .remote && f.node.any fun s => e.rteMember s = m).foldl (fun b f => b.txEnd f Code.peerAbsent false) e)).settle))

/-- SYNC_BURST starts with exchange 0 to the parent, with its departure time in a Bm2 message; an accepted SYNC_REQ is
answered with its receive time t2; an accepted SYNC_RESP of the parent takes delay = ((t4 - t1) - (t3 - t2)) / 2 and
theta = ((t2 - t1) - (t4 - t3) - ASYM) / 2 with t3 of TX_TIME in Bm3, keeps the exchange of the least delay, asks for
the next one, and after the eighth ends the burst with that theta; one of another member, or after the eighth, is left
alone; a child whose parent is none or absent clears ALIGNED and raises 0x52, any other and the leader do nothing. The
halves round down: the model's choice (log entry 93). -/
def Obligations.TimeIsAlignedWithTheParent : Prop :=
    (∀ (d : Dev) (p : Nat), d.fedOn = true → d.parent = some p → p ≠ d.fedMe → 
      Answers .syncBurst d fun t =>
        t = (d.setFed { d.fed with burst := none, exchanges := 0 }).fedSend (some p) (.syncReq 0 (d.bm2Time p))) ∧
    (∀ (d : Dev) (h : BmHdr) (index t2 : Nat) (e : Dev), d.bmAccept h { type := 0x05 } (decide (index < 8)) = (e, true) → 
      Answers (.syncReq h index t2) d fun t =>
        t = (e.fedSend (some (bmFrom h)) (.syncResp t2 (e.bm2Time (bmFrom h)))).settle) ∧
    (∀ (d : Dev) (h : BmHdr) (t1 t2 t3 t4 : Nat) (e f : Dev) (u delay theta : Int) (best : Int × Int), d.bmAccept h { type := 0x06 } true = (e, true) → (u = (if h.version = 3 then h.txTime else t3 : Nat)) → delay = ((t4 - t1 : Int) - (u - t2)) / 2 → (theta = ((t2 - t1 : Int) - (t4 - u) - signedOf (e.rd Fld.fedAsym_asym (if h.ports = 2 then 1 else 0)) 16) / 2) → (best = (if (e.fed.burst.any fun b => b.1 ≤ delay) then e.fed.burst.getD (delay, theta) else (delay, theta))) → f = e.setFed { e.fed with burst := some best, exchanges := e.fed.exchanges + 1 } → 
      Answers (.syncResp h t1 t2 t3 t4) d fun t =>
        ((e.parent ≠ some (bmFrom h) ∨ 8 ≤ e.fed.exchanges) → t = e.settle) ∧
        (e.parent = some (bmFrom h) → e.fed.exchanges < 7 → t = (f.fedSend (some (bmFrom h)) (.syncReq (e.fed.exchanges + 1) (f.bm2Time (bmFrom h)))).settle) ∧
        (e.parent = some (bmFrom h) → e.fed.exchanges = 7 → t = (f.burstEnd (bmFrom h) best.2).settle)) ∧
    (∀ (d : Dev), d.fedOn = true → 
      Answers .parentHoldoverTimeout d fun t =>
        (d.fed.leader ≠ some d.fedMe → (d.parent.all fun p => d.memberState p = 0) = true →
        t = ((d.wr Fld.fedTime_aligned 0).setFed { d.fed with good := 0 }).raise 0x52) ∧
        ((d.fed.leader = some d.fedMe ∨ (d.parent.all fun p => d.memberState p = 0) = false) → t = d))

/-- The digest timer sends DIGEST to the coordinator and a member, and the leader proposes; a digest makes the member look
at its proposal; RECORD_REQ is answered with the set's MANIFEST or the records; a MANIFEST of the proposer drops what
its range lacks and asks for what differs; a RECORD fragment that is wanted is kept, and a whole record with the hash
of the MANIFEST, a defined TYPE and room in the set enters the proposed set; an incomplete record is asked for again;
PROPOSE is answered with NOT_LEADER or EPOCH_STALE, or the leader accepts it: it sends PREPARE to ALL and takes the
proposal; PREPARE of the leader for a later epoch is taken; PREPARED OK of a group is kept and the leader decides or
the coordinator sends its group's, another status aborts at the leader and goes to it from a coordinator; a timeout
reports DIGEST_MISMATCH or aborts; COMMIT is held until T or applied at once and counted, and applied at T; ABORT
quarantines with QUARANTINED, tells the leader's host of ATTEST_FAIL, and else ends the proposal; JOIN_TIMEOUT outside
RUN sets TIMEOUT and raises 0x51. -/
def Obligations.RecordsAndEpochsFollowTheirRules : Prop :=
    (∀ (d : Dev) (other : Nat) (e f : Dev) (p : BmPayload), d.fedOn = true → 3 ≤ d.fedState → p = .digest d.epoch d.digestRegs (d.epoch + 1) d.nextDigest → ((d.fed.coord = none ∧ e = d) ∨ ∃ c, d.fed.coord = some c ∧ e = if c = d.fedMe then d else d.fedSend (some c) p) → (f = (if other ≠ e.fedMe ∧ other < 1024 ∧ e.memberHere other ∧ e.fed.coord ≠ some other then e.fedSend (some other) p else e)) → 
      Answers (.digestTimer other) d fun t =>
        t = f.fedAdvance.leaderPropose.settle) ∧
    (∀ (d : Dev) (h : BmHdr) (epoch : Nat) (dig : List Byte) (nextEpoch : Nat) (nextDigest : List Byte) (e : Dev), (d.bmAccept h { type := 0x07 } (decide (dig.length = 32 ∧ nextDigest.length = 32 ∧ epoch < 2 ^ 32 ∧ nextEpoch < 2 ^ 32)) = (e, true)) → 
      Answers (.digest h epoch dig nextEpoch nextDigest) d fun t =>
        t = (e.checkProposal (e.fed.wanted.isEmpty && e.fed.parts.isEmpty)).settle) ∧
    (∀ (d : Dev) (h : BmHdr) (epoch : Nat) (ids : List (Nat × Nat)) (e : Dev) (recs : List Record), (d.bmAccept h { type := 0x08 } (decide (ids.length ≤ 180 ∧ epoch < 2 ^ 32)) = (e, true)) → (recs = (if epoch = e.epoch then e.fed.current else e.fed.proposed)) → 
      Answers (.recordReq h epoch ids) d fun t =>
        (ids = [] → t = ((manifests (recs.length / 90) recs).foldl (fun b l => b.fedSend (some (bmFrom h)) (.manifest (l.map fun r => (r.type, r.id, r.hash8)))) e).settle) ∧
        (ids ≠ [] → t = ((ids.filterMap fun i => getRecord i.1 i.2 recs).foldl (fun b r => r.fragments.foldl (fun b p => b.fedSend (some (bmFrom h)) p) b) e).settle)) ∧
    (∀ (d : Dev) (h : BmHdr) (entries : List (Nat × Nat × List Byte)) (e : Dev), d.bmAccept h { type := 0x09 } (decide (entries.length ≤ 90)) = (e, true) → 
      Answers (.manifest h entries) d fun t =>
        (e.fed.proposal = none → t = e.settle) ∧
        (∀ p, e.fed.proposal = some p → (p.proposer ≠ bmFrom h ∨ p.preparedOk = true) → t = e.settle) ∧
        (∀ p hi kept need f g, e.fed.proposal = some p → p.proposer = bmFrom h → p.preparedOk = false →
        hi = (if entries.length < 90 then (0xFFFF, 0xFFFFFFFF) else (entries.getLast?.map fun x => (x.1, x.2.1)).getD (0xFFFF, 0xFFFFFFFF)) →
        kept = (e.fed.proposed.filter fun r => !(!recBefore r.type r.id e.fed.manifestFrom.1 e.fed.manifestFrom.2 && !recBefore hi.1 hi.2 r.type r.id) || (entries.any fun x => x.1 = r.type && x.2.1 = r.id)) →
        need = (entries.filter fun x => recordTypeOk x.1 && ((getRecord x.1 x.2.1 kept).all fun r => r.hash8 != x.2.2)) →
        f = e.setFed { e.fed with proposed := kept, wanted := e.fed.wanted ++ need, manifestFrom := (hi.1, hi.2 + 1) } →
        g = f.askRecords p (need.length + 1) (need.map fun x => (x.1, x.2.1)) →
        t = (if g.fed.wanted.isEmpty then g.checkProposal false else g).settle)) ∧
    (∀ (d : Dev) (h : BmHdr) (type id total offset : Nat) (data : List Byte) (e : Dev) (r : Reassembly) (rest : List Reassembly), d.bmAccept h { type := 0x0A } (fragmentOk total offset data) = (e, true) → (r = (e.fed.parts.find? fun r => r.type = type && r.id = id && r.total = total).getD { type := type, id := id, total := total, parts := [] }) → (rest = e.fed.parts.filter fun y => !(y.type = type && y.id = id && y.total = total)) → 
      Answers (.record h type id total offset data) d fun t =>
        ((e.fed.wanted.find? fun x => x.1 = type && x.2.1 = id) = none → t = e.settle) ∧
        (∀ x, (e.fed.wanted.find? fun x => x.1 = type && x.2.1 = id) = some x → ({ r with parts := alSet offset data r.parts } : Reassembly).whole = none →
        t = (e.setFed { e.fed with parts := rest ++ [{ r with parts := alSet offset data r.parts }] }).settle) ∧
        (∀ x bs f l, (e.fed.wanted.find? fun x => x.1 = type && x.2.1 = id) = some x → ({ r with parts := alSet offset data r.parts } : Reassembly).whole = some bs →
        f = e.setFed { e.fed with parts := rest } → l = putRecord { type := type, id := id, data := bs } f.fed.proposed →
        t = (if (sha256 bs).take 8 = x.2.2 ∧ recordTypeOk type = true ∧ setFits l = true then
        (f.setFed { f.fed with proposed := l, wanted := f.fed.wanted.filter fun y => y != x }).checkProposal false else f).settle)) ∧
    (∀ (d : Dev) (type id : Nat), d.fedOn = true → 
      Answers (.recordReassemblyTimeout type id) d fun t =>
        (∀ p, d.fed.proposal = some p → (d.fed.parts.any fun r => r.type = type && r.id = id) = true →
        t = (d.setFed { d.fed with parts := d.fed.parts.filter fun r => !(r.type = type && r.id = id) }).fedSend (some p.proposer) (.recordReq p.epoch [(type, id)])) ∧
        ((d.fed.proposal = none ∨ (d.fed.parts.any fun r => r.type = type && r.id = id) = false) → t = d)) ∧
    (∀ (d : Dev) (h : BmHdr) (base : Nat) (dig : List Byte) (proposer : Nat) (e : Dev), (d.bmAccept h { type := 0x0B } (decide (dig.length = 32 ∧ proposer < 1024)) = (e, true)) → 
      Answers (.propose h base dig proposer) d fun t =>
        (e.fed.leader ≠ some e.fedMe → t = (e.fedSend (some (bmFrom h)) (.abort base Code.notLeader)).settle) ∧
        (e.fed.leader = some e.fedMe → (base ≠ e.epoch ∨ e.fed.proposal.isSome = true ∨ e.fedState < 6) →
        t = (e.fedSend (some (bmFrom h)) (.abort base Code.epochStale)).settle) ∧
        (e.fed.leader = some e.fedMe → base = e.epoch → e.fed.proposal = none → 6 ≤ e.fedState →
        t = ((e.fedSend none (.prepare (e.epoch + 1) dig e.wantedRoster proposer)).takeProposal { epoch := e.epoch + 1, digest := dig, roster := e.wantedRoster, proposer := proposer }).settle)) ∧
    (∀ (d : Dev) (h : BmHdr) (epoch : Nat) (dig : List Byte) (roster proposer : Nat) (e : Dev), (d.bmAccept h { type := 0x0C, epoch := true } (decide (dig.length = 32 ∧ proposer < 1024 ∧ roster < 2 ^ 1024)) = (e, true)) → 
      Answers (.prepare h epoch dig roster proposer) d fun t =>
        (e.fed.leader = some (bmFrom h) → e.epoch < epoch →
        t = (e.takeProposal { epoch := epoch, digest := dig, roster := membersIn 0 1024 roster, proposer := proposer }).settle) ∧
        ((e.fed.leader ≠ some (bmFrom h) ∨ epoch ≤ e.epoch) → t = e.settle)) ∧
    (∀ (d : Dev) (h : BmHdr) (epoch status bitmap : Nat) (e : Dev), (d.bmAccept h { type := 0x0D, epoch := true } (decide (bitmap < 2 ^ 32 ∧ status < 2 ^ 16)) = (e, true)) → 
      Answers (.prepared h epoch status bitmap) d fun t =>
        (e.fed.proposal = none → t = e.settle) ∧
        (∀ p, e.fed.proposal = some p → (p.epoch ≠ epoch ∨ (e.iCoord = false ∧ e.iLead = false)) → t = e.settle) ∧
        (∀ p f, e.fed.proposal = some p → p.epoch = epoch → (e.iCoord = true ∨ e.iLead = true) → status = Code.ok →
        f = (membersIn (32 * groupOf (bmFrom h)) 32 bitmap).foldl (fun b k => b.setPeer k { b.peer k with prepared := 1 }) e →
        t = (if f.iLead then f.decideEpoch else f.aggregate).settle) ∧
        (∀ p, e.fed.proposal = some p → p.epoch = epoch → e.iLead = true → status ≠ Code.ok → t = (e.abortAll status).settle) ∧
        (∀ p l, e.fed.proposal = some p → p.epoch = epoch → e.iCoord = true → e.iLead = false → status ≠ Code.ok → e.fed.leader = some l →
        t = (e.fedSend (some l) (.prepared epoch status 0)).settle) ∧
        (∀ p, e.fed.proposal = some p → p.epoch = epoch → e.iCoord = true → e.iLead = false → status ≠ Code.ok → e.fed.leader = none → t = e.settle)) ∧
    (∀ (d : Dev), d.fedOn = true → 
      Answers .prepareTimeout d fun t =>
        (d.fed.proposal = none → t = d.settle) ∧
        (∀ p, d.fed.proposal = some p → p.commitAt.isSome = true → t = d.settle) ∧
        (∀ p, d.fed.proposal = some p → p.commitAt = none → d.fed.leader = some d.fedMe → t = (d.abortAll Code.digestMismatch).settle) ∧
        (∀ p, d.fed.proposal = some p → p.commitAt = none → d.fed.leader ≠ some d.fedMe → (p.preparedOk = true ∨ p.roster.contains d.fedMe = false) → t = d.settle) ∧
        (∀ p, d.fed.proposal = some p → p.commitAt = none → d.fed.leader ≠ some d.fedMe → p.preparedOk = false → p.roster.contains d.fedMe = true →
        t = (d.answerPrepare p Code.digestMismatch).settle)) ∧
    (∀ (d : Dev) (h : BmHdr) (epoch : Nat) (dig : List Byte) (x : Nat) (e : Dev), (d.bmAccept h { type := 0x0E, epoch := true } (decide (dig.length = 32 ∧ x < 2 ^ 64)) = (e, true)) → 
      Answers (.commit h epoch dig x) d fun t =>
        (e.fed.proposal = none → t = e.settle) ∧
        (∀ p, e.fed.proposal = some p → (p.epoch ≠ epoch ∨ p.digest ≠ dig ∨ e.holdsProposal p = false ∨ p.commitAt.isSome = true) → t = e.settle) ∧
        (∀ p, e.fed.proposal = some p → p.epoch = epoch → p.digest = dig → e.holdsProposal p = true → p.commitAt = none →
        x < e.tmb → t = ((e.bump Fld.fedStat3_lateCommit).applyEpoch { p with commitAt := some x }).settle) ∧
        (∀ p, e.fed.proposal = some p → p.epoch = epoch → p.digest = dig → e.holdsProposal p = true → p.commitAt = none →
        e.tmb ≤ x → t = (e.setFed { e.fed with proposal := some { p with commitAt := some x } }).settle)) ∧
    (∀ (d : Dev) (p : Proposal) (x : Nat), d.fedOn = true → d.fed.proposal = some p → p.commitAt = some x → x ≤ d.tmb → 
      Answers .commitTime d fun t =>
        t = (d.applyEpoch p).settle) ∧
    (∀ (d : Dev) (h : BmHdr) (epoch status : Nat) (e : Dev), d.bmAccept h { type := 0x0F } (decide (status < 2 ^ 16)) = (e, true) → 
      Answers (.abort h epoch status) d fun t =>
        (status = Code.quarantined → t = (e.enterQuarantine 9).settle) ∧
        (status = Code.attestFail → t = (if e.iLead then e.notice Code.attestFail (bmFrom h) else e).settle) ∧
        (∀ p, status ≠ Code.quarantined → status ≠ Code.attestFail → e.fed.proposal = some p →
        t = (if (p.epoch = epoch ∧ p.commitAt = none) ∨ (e.fed.proposeCmd.isSome = true ∧ epoch ≤ e.epoch) then e.proposalEnd status [] else e).settle) ∧
        (status ≠ Code.quarantined → status ≠ Code.attestFail → e.fed.proposal = none →
        t = (if e.fed.proposeCmd.isSome then e.proposalEnd status [] else e).settle)) ∧
    (∀ (d : Dev), d.fedOn = true → 
      Answers .joinTimeout d fun t =>
        (d.fedState ≠ 8 → t = (d.wr Fld.fedStatus_timeout 1).raise 0x51) ∧
        (d.fedState = 8 → t = d))

/-- An accepted challenge is answered with EUI-64, member index, SVN, public key and a signature, whose value is free; a
response to an open challenge passes where the signature verifies and the ROSTER record, if there is one, names the
key and the EUI-64, else the member is REPLACED; a response to no challenge changes nothing; a challenge without
response fails; changed contexts, and those not acknowledged for 50 ms, which are counted, go to the buddy; accepted
replicas that this member asked for are taken, those of the member whose buddy it is are applied where the slot is
empty, holds another node or is older, and acknowledged with the SEQ held; an acknowledgement of the buddy retires the
entries it covers; REPLICA_REQ is answered with the replicas of the range; after 1 s without a replica the adoption
ends with PEER_ABSENT, or the host is asked for a damaged node. -/
def Obligations.AttestationAndReplicationFollowTheirRules : Prop :=
    (∀ (d : Dev) (h : BmHdr) (nonce : List Byte) (e f : Dev) (sig : Nat), d.bmAccept h { type := 0x17, bm3 := true } (decide (nonce.length = 16)) = (e, true) → (sig, f) = e.free 512 → 
      Answers (.attestChallenge h nonce) d fun t =>
        t = (f.fedSend (some (bmFrom h)) (.attestResponse e.eui e.fedMe e.boot.svn (e.bytes attestKeyAddr 64) (natBe 64 sig))).settle) ∧
    (∀ (d : Dev) (h : BmHdr) (eui member svn : Nat) (key : List Byte) (good named : Bool) (e f : Dev), (d.bmAccept h { type := 0x18, bm3 := true, fromQuarantine := true } (decide (key.length = 64 ∧ member = bmFrom h ∧ svn < 2 ^ 32)) = (e, true)) → (named = ((e.rosterRecord (bmFrom h)).all fun r => decide ((sha256 key).take 16 = slice r.data 8 16) && decide (eui = leAt r.data 0 8))) → f = (e.setPeer (bmFrom h) { e.peer (bmFrom h) with nonce := none }).setMember (bmFrom h) 6 1 1 → 
      Answers (.attestResponse h eui member svn key good) d fun t =>
        ((e.peer (bmFrom h)).nonce = none → t = e.settle) ∧
        ((e.peer (bmFrom h)).nonce ≠ none → (good && named) = true → t = ((if f.iCoord then f.sendReport else f).fedAdvance).settle) ∧
        ((e.peer (bmFrom h)).nonce ≠ none → (good && named) = false → t = (e.attestFailed (bmFrom h)).settle)) ∧
    (∀ (d : Dev) (m : Nat), d.fedOn = true → 
      Answers (.attestTimeout m) d fun t =>
        ((d.peer m).nonce ≠ none → t = (d.attestFailed m).settle) ∧
        ((d.peer m).nonce = none → t = d)) ∧
    (∀ (d : Dev) (b : Nat) (l : List Nat), d.fedOn = true → d.fedState = 8 → d.buddy d.fedMe = some b → (l = (d.fed.repl.filter fun e => e.sent.isNone).map (·.slot)) → 
      Answers .replicationSend d fun t =>
        t = d.sendReplicas b l.length l) ∧
    (∀ (d : Dev) (b : Nat) (l : List Nat), d.fedOn = true → d.fedState = 8 → d.buddy d.fedMe = some b → (l = (d.fed.repl.filter fun e => e.sent.isSome && decide (e.sentAt + usTicks 50000 ≤ d.tmb)).map (·.slot)) → 
      Answers .replicationRetx d fun t =>
        t = (d.bumpBy l.length Fld.fedStat6_replRetx).sendReplicas b l.length l) ∧
    (∀ (d : Dev) (h : BmHdr) (entries mine rest : List (Nat × List Byte)) (e f g : Dev), d.bmAccept h { type := 0x10, bm3 := true } (replicaFormat entries) = (e, true) → (mine = entries.filter fun x => e.asked x.1 x.2) → (rest = entries.filter fun x => !mine.contains x) → (f = mine.foldl (fun b x => b.takeReplica x.1 x.2) e) → (g = rest.foldl (fun b x => b.applyReplica x.1 x.2) f) → 
      Answers (.replica h entries) d fun t =>
        (f.buddy (bmFrom h) = some f.fedMe → rest ≠ [] → t = (g.fedSend (some (bmFrom h)) (.replicaAck (rest.map fun x => (x.1, g.le (budAddr x.1 + 0x40) 4)))).settle) ∧
        ((f.buddy (bmFrom h) ≠ some f.fedMe ∨ rest = []) → t = f.settle)) ∧
    (∀ (d : Dev) (h : BmHdr) (applied : List (Nat × Nat)) (e : Dev), d.bmAccept h { type := 0x11, bm3 := true } (decide (applied.length ≤ 10)) = (e, true) → 
      Answers (.replicaAck h applied) d fun t =>
        (e.buddy e.fedMe = some (bmFrom h) → t = (e.setFed { e.fed with repl := e.fed.repl.filter fun x => !(x.sent.any fun q => applied.any fun a => a.1 = x.slot && !seqNewer q a.2) }).settle) ∧
        (e.buddy e.fedMe ≠ some (bmFrom h) → t = e.settle)) ∧
    (∀ (d : Dev) (h : BmHdr) (first count : Nat) (e : Dev), (d.bmAccept h { type := 0x12, bm3 := true } (decide (1 ≤ count ∧ first + count ≤ 32768)) = (e, true)) → 
      Answers (.replicaReq h first count) d fun t =>
        t = (e.answerReplicas (bmFrom h) (e.budSlots first count).length (e.budSlots first count)).settle) ∧
    (∀ (d : Dev) (node : Nat), 
      Answers (.buddyReplicaTimeout node) d fun t =>
        (∀ a c, (d.fed.adopts.find? fun x => x.1 = node) = some (a, c) →
        t = (d.setFed { d.fed with adopts := d.fed.adopts.filter fun x => x.1 != node }).finishId c Code.peerAbsent []) ∧
        ((d.fed.adopts.find? fun x => x.1 = node) = none → t = if d.damagedOf node = [] then d else d.notice Code.rebuilding node))

/-- A migration that nothing bars takes the lock and sends its offer; an offer already taken is answered OK again, one
that the target can take is stored as pending in its lowest free slot and answered OK, any other is refused with its
cause; OK makes the owner send DONE to ALL, a refusal releases the lock for 10 s; an unanswered offer is repeated 3
times, then the lock is released and the command that waits gets a free failure status; DONE makes the target serve
the node and answer ACTIVE, every other member rewrites its remote entry, and DONE is repeated until ACTIVE arrives;
ACTIVE makes the owner hand the node over; without it the node stays frozen and the host hears MIGRATE_UNRESOLVED; a
pending context without DONE goes. DATA of an absent member is dropped and counted. An accepted VISITOR or REDIRECT of
a resident node is served as received here, after the frame that is in work; a VISITOR of a node that has moved is
forwarded once as REDIRECT, the rest are dropped and counted; a TRANSMIT not late and within 10 s is scheduled at
START in class 2, without Tempo answered DOMAIN_OFF, a late one answered TX_LATE_LOCK and counted; RESULT ends the
frame that waits for it, or makes a sleepy node's frame fail; BOOT_REQ is served from the image to the port it came
on. -/
def Obligations.MigrationsAndDataFramesFollowTheirRules : Prop :=
    (∀ (d : Dev) (node : Nat), 
      Answers (.migrationStart node) d fun t =>
        (∀ s v, d.findSlot node = some s → (d.fed.visits.find? fun v => v.node = node && decide (migCount ≤ v.count)) = some v →
        t = if d.fedOn && d.fedState = 8 && !d.damagedSlot s && d.migrationBar s v.member = Code.ok then d.migrate s v.member none else d) ∧
        ((d.findSlot node = none ∨ (d.fed.visits.find? fun v => v.node = node && decide (migCount ≤ v.count)) = none) → t = d)) ∧
    (∀ (d : Dev) (h : BmHdr) (node offer : Nat) (ctx : List Byte) (e : Dev) (known : Bool), (d.bmAccept h { type := 0x13, bm3 := true, epoch := true } (decide (node < 2 ^ 25 ∧ ctx.length = 128) && ctxReserved.all fun f => imgField ctx f = 0) = (e, true)) → (known = (e.fed.migrations.any fun m => !m.source && m.offer = offer && m.peer = bmFrom h)) → 
      Answers (.migrateOffer h node offer ctx) d fun t =>
        (known = true → t = (e.fedSend (some (bmFrom h)) (.migrateAnswer offer none)).settle) ∧
        (∀ c, known = false → e.offerBar (bmFrom h) node ctx = some c → t = (e.fedSend (some (bmFrom h)) (.migrateAnswer offer (some c))).settle) ∧
        (known = false → e.offerBar (bmFrom h) node ctx = none →
        t = ((e.setMigrations (e.fed.migrations ++ [{ offer := offer, node := node, slot := e.freeSlot.getD 0, peer := bmFrom h, source := false, started := e.tmb, ctx := ctx }])).fedSend (some (bmFrom h)) (.migrateAnswer offer none)).settle) ∧
        (e.offerBar (bmFrom h) node ctx = none ↔ e.memberBm3 (bmFrom h) = true ∧ e.findSlot node = none ∧ e.freeSlot ≠ none ∧ e.fedState = 8 ∧
        imgField ctx Cx.valid = 1 ∧ imgField ctx Cx.nodeAddr = node ∧ ctxImageOk ctx = true ∧ e.domUp 22 = true ∧ e.ndt.held = false)) ∧
    (∀ (d : Dev) (h : BmHdr) (offer status : Nat) (e : Dev), (d.bmAccept h { type := 0x14, bm3 := true } (decide (status = Code.ok ∨ status = Code.migrateRefused)) = (e, true)) → 
      Answers (.migrateAnswer h offer status) d fun t =>
        (e.outgoing offer = none → t = e.settle) ∧
        (∀ m, e.outgoing offer = some m → (m.peer ≠ bmFrom h ∨ m.step ≠ 0) → t = e.settle) ∧
        (∀ m, e.outgoing offer = some m → m.peer = bmFrom h → m.step = 0 → status = Code.ok →
        t = ((e.putMigration { m with step := 1, tries := 1, started := e.tmb }).fedSend none (.migrateDone m.node offer (bmFrom h))).settle) ∧
        (∀ m f, e.outgoing offer = some m → m.peer = bmFrom h → m.step = 0 → status ≠ Code.ok → f = e.dropMigration m →
        t = ((f.setFed { f.fed with refused := alSet m.node f.tmb f.fed.refused }).migrationCmd m Code.migrateRefused).settle)) ∧
    (∀ (d : Dev) (offer : Nat) (m : Migration), d.fedOn = true → d.outgoing offer = some m → m.step = 0 → 
      Answers (.offerRetry offer) d fun t =>
        (m.tries < 4 → t = (d.putMigration { m with tries := m.tries + 1 }).fedSend (some m.peer) (.migrateOffer m.node offer (d.bytes (ctxAddr m.slot) 128))) ∧
        (4 ≤ m.tries → t = ((d.freeOf failureCodes).2.dropMigration m).migrationCmd m (d.freeOf failureCodes).1)) ∧
    (∀ (d : Dev) (h : BmHdr) (node offer owner : Nat) (e : Dev), (d.bmAccept h { type := 0x15, bm3 := true } (decide (node < 2 ^ 25 ∧ owner < 1024)) = (e, true)) → 
      Answers (.migrateDone h node offer owner) d fun t =>
        (owner = e.fedMe → (e.fed.migrations.find? fun m => !m.source && m.offer = offer && m.peer = bmFrom h) = none → t = e.settle) ∧
        (∀ m, owner = e.fedMe → (e.fed.migrations.find? fun m => !m.source && m.offer = offer && m.peer = bmFrom h) = some m → m.step = 1 →
        t = (e.fedSend (some (bmFrom h)) (.migrateActive offer)).settle) ∧
        (∀ m s x, owner = e.fedMe → (e.fed.migrations.find? fun m => !m.source && m.offer = offer && m.peer = bmFrom h) = some m → m.step ≠ 1 →
        s = (if e.slotValid m.slot then e.freeSlot.getD m.slot else m.slot) → x = e.install s m.ctx →
        t = (if x.2 then (((x.1.putMigration { m with step := 1, slot := s }).bump Fld.fedStat5_migratedIn).slpRestored s).fedSend (some (bmFrom h)) (.migrateActive offer) else x.1).settle) ∧
        (∀ r, owner ≠ e.fedMe → e.remoteOf node = some r → e.findSlot node = none → t = (e.setRteMember r owner).settle) ∧
        (owner ≠ e.fedMe → (e.remoteOf node = none ∨ (e.findSlot node).isSome = true) → t = e.settle)) ∧
    (∀ (d : Dev) (offer : Nat) (m : Migration), d.fedOn = true → d.outgoing offer = some m → m.step = 1 → 
      Answers (.doneRepeat offer) d fun t =>
        t = (d.putMigration { m with tries := m.tries + 1 }).fedSend none (.migrateDone m.node offer m.peer)) ∧
    (∀ (d : Dev) (h : BmHdr) (offer : Nat) (e : Dev), d.bmAccept h { type := 0x16, bm3 := true } true = (e, true) → 
      Answers (.migrateActive h offer) d fun t =>
        (∀ m, e.outgoing offer = some m → m.peer = bmFrom h → m.step = 1 → t = (e.handOver m).settle) ∧
        (∀ m, e.outgoing offer = some m → (m.peer ≠ bmFrom h ∨ m.step ≠ 1) → t = e.settle) ∧
        (e.outgoing offer = none → t = e.settle)) ∧
    (∀ (d : Dev) (offer : Nat) (m : Migration), d.fedOn = true → d.outgoing offer = some m → m.step = 1 → 
      Answers (.activeTimeout offer) d fun t =>
        t = ((d.putMigration { m with step := 2, cmd := none }).notice Code.migrateUnresolved m.node).migrationCmd m Code.migrateUnresolved) ∧
    (∀ (d : Dev) (m offer : Nat), d.fedOn = true → 
      Answers (.pendingDiscard m offer) d fun t =>
        t = d.setMigrations (d.fed.migrations.filter fun x => !(!x.source && x.peer = m && x.offer = offer))) ∧
    (∀ (d : Dev) (h : BmHdr) (node : Nat) (octets : List Byte) (e : Dev), (d.bmAccept h dataKind (decide (node < 2 ^ 25 ∧ 32 ≤ octets.length)) = (e, true)) → 
      Answers (.visitor h node octets) d fun t =>
        (e.memberState (bmFrom h) = 0 → t = (e.bump Fld.fedStat2_fwdDrop).settle) ∧
        (∀ s, e.memberState (bmFrom h) ≠ 0 → e.findSlot node = some s → (e.tempo.items.any fun i => i.slot = s) = false → t = (e.visitorAt s (bmFrom h) octets).settle) ∧
        (∀ s, e.memberState (bmFrom h) ≠ 0 → e.findSlot node = some s → (e.tempo.items.any fun i => i.slot = s) = true →
        t = (e.setFed { e.fed with inbox := e.fed.inbox ++ [{ node := node, member := bmFrom h, octets := octets }] }).settle) ∧
        (∀ r, e.memberState (bmFrom h) ≠ 0 → e.findSlot node = none → e.findNode node = some r → e.rteMember r ≠ e.fedMe → t = (e.fedForward (e.rteMember r) (.redirect node octets)).settle) ∧
        (∀ r, e.memberState (bmFrom h) ≠ 0 → e.findSlot node = none → e.findNode node = some r → e.rteMember r = e.fedMe → t = (e.bump Fld.fedStat2_fwdDrop).settle) ∧
        (e.memberState (bmFrom h) ≠ 0 → e.findSlot node = none → e.findNode node = none → t = (e.bump Fld.fedStat2_fwdDrop).settle)) ∧
    (∀ (d : Dev) (h : BmHdr) (node : Nat) (octets : List Byte) (e : Dev), (d.bmAccept h dataKind (decide (node < 2 ^ 25 ∧ 32 ≤ octets.length)) = (e, true)) → 
      Answers (.redirect h node octets) d fun t =>
        (e.memberState (bmFrom h) = 0 → t = (e.bump Fld.fedStat2_fwdDrop).settle) ∧
        (∀ s, e.memberState (bmFrom h) ≠ 0 → e.findSlot node = some s → (e.tempo.items.any fun i => i.slot = s) = false → t = (e.visitorAt s (bmFrom h) octets).settle) ∧
        (∀ s, e.memberState (bmFrom h) ≠ 0 → e.findSlot node = some s → (e.tempo.items.any fun i => i.slot = s) = true →
        t = (e.setFed { e.fed with inbox := e.fed.inbox ++ [{ node := node, member := bmFrom h, octets := octets }] }).settle) ∧
        (e.memberState (bmFrom h) ≠ 0 → e.findSlot node = none → t = (e.bump Fld.fedStat2_fwdDrop).settle)) ∧
    (∀ (d : Dev) (h : BmHdr) (node start : Nat) (q : Int) (profile phy : Nat) (sub : Bool) (chan mode : Nat) (psdu : List Byte) (e : Dev) (short : Bool), (d.bmAccept h dataKind (decide (node < 2 ^ 25 ∧ start < 2 ^ 64 ∧ -256 ≤ q ∧ q < 256 ∧ profile < 4 ∧ phy < 3 ∧ mode < 8)) = (e, true)) → short = (phy = 0 || fcsOk true psdu) → 
      Answers (.transmit h node start q profile phy sub chan mode psdu) d fun t =>
        (e.memberState (bmFrom h) = 0 → t = (e.bump Fld.fedStat2_fwdDrop).settle) ∧
        (e.memberState (bmFrom h) ≠ 0 → (start ≤ e.tmb ∨ e.tmb + usTicks 10000000 < start) → t = ((e.bump Fld.fedStat3_dataLate).fedForward (bmFrom h) (.result node start Code.txLateLock)).settle) ∧
        (e.memberState (bmFrom h) ≠ 0 → e.tmb < start → start ≤ e.tmb + usTicks 10000000 → e.tempoUp = false → t = (e.fedForward (bmFrom h) (.result node start Code.domainOff)).settle) ∧
        (e.memberState (bmFrom h) ≠ 0 → e.tmb < start → start ≤ e.tmb + usTicks 10000000 → e.tempoUp = true →
        t = (e.addFrame { id := 0, origin := .transmit (bmFrom h), cls := 2, sub := sub, chan := chan, phy := phy, mode := mode, fcs16 := short, whiten := true, mac := psdu.take (psdu.length - fcsLen short), raw := some psdu, wake := node, start := start, profile := profile, power := q, stage := .scheduled }).settle)) ∧
    (∀ (d : Dev) (h : BmHdr) (node start status : Nat) (e : Dev) (w : Option TxFrame), (d.bmAccept h dataKind (decide (node < 2 ^ 25 ∧ start < 2 ^ 64 ∧ status < 2 ^ 16)) = (e, true)) → (w = e.tx.frames.find? fun f => f.stage = .remote && f.start = start && (f.node.any fun s => e.cx s Cx.nodeAddr = node)) → 
      Answers (.result h node start status) d fun t =>
        (e.memberState (bmFrom h) = 0 → t = (e.bump Fld.fedStat2_fwdDrop).settle) ∧
        (e.memberState (bmFrom h) ≠ 0 → w = none → t = e.settle) ∧
        (∀ f g, e.memberState (bmFrom h) ≠ 0 → w = some f → g = { f with firstChip := if status = Code.ok then start else f.firstChip } →
        t = (if f.sleepy && status != Code.ok then e.sleepyFail g status else e.txEnd g status false).settle)) ∧
    (∀ (d : Dev) (h h2 : BmHdr) (eui offset : Nat) (image : List Byte), h2 = { h with formatOk := h.formatOk && decide (eui < 2 ^ 64) } → 
      Answers (.bootReq h eui offset image) d fun t =>
        (d.bmForMe h2 = false → t = d) ∧
        (d.bmForMe h2 = true → hdrOk h2 false 1440 = false → t = d.bump Fld.fedStat0_reservedDrop) ∧
        (d.bmForMe h2 = true → hdrOk h2 false 1440 = true → (d.is Fld.fedCfg_bootServe = false ∨ image = []) → t = d) ∧
        (d.bmForMe h2 = true → hdrOk h2 false 1440 = true → d.is Fld.fedCfg_bootServe = true → image ≠ [] →
        t = d.fedSendOn ((d.upPorts.filter h2.ports.testBit).take 1) h2.mac h2.version (some (bmFrom h2)) (.bootData offset (image.take 2048))))

/-- For each of the message commands: where the checks of R262 do not accept the message, the command completes with the
device that the checks leave, which holds the drop counted, and with none of the message's own effect. What each check
leaves is stated in MessagesAreCheckedInTheirOrder. -/
def Obligations.RefusedMessagesHaveNoEffectOfTheirOwn : Prop :=
    (∀ (d : Dev) (h : BmHdr) (eui version prio ports : Nat) (digest : List Byte) (e : Dev), (d.bmAccept h { type := 0x01, fromQuarantine := true } (decide (2 ≤ version ∧ prio < 16 ∧ ports < 4 ∧ digest.length = 32)) = (e, false)) → 
      Answers (.hello h eui version prio ports digest) d fun t =>
        t = e) ∧
    (∀ (d : Dev) (h : BmHdr) (group best bitmap : Nat) (e : Dev), (d.bmAccept h { type := 0x02 } (decide (group < 32 ∧ best < 1024 ∧ bitmap < 2 ^ 32)) = (e, false)) → 
      Answers (.candidate h group best bitmap) d fun t =>
        t = e) ∧
    (∀ (d : Dev) (h : BmHdr) (group coord present aligned attested : Nat) (e : Dev), (d.bmAccept h { type := 0x03 } (decide (group < 32 ∧ coord < 1024 ∧ present < 2 ^ 32 ∧ aligned < 2 ^ 32 ∧ attested < 2 ^ 32)) = (e, false)) → 
      Answers (.groupReport h group coord present aligned attested) d fun t =>
        t = e) ∧
    (∀ (d : Dev) (h : BmHdr) (l groups : Nat) (e : Dev), (d.bmAccept h { type := 0x04 } (decide (l < 1024 ∧ groups < 2 ^ 32)) = (e, false)) → 
      Answers (.leader h l groups) d fun t =>
        t = e) ∧
    (∀ (d : Dev) (h : BmHdr) (index t2 : Nat) (e : Dev), d.bmAccept h { type := 0x05 } (decide (index < 8)) = (e, false) → 
      Answers (.syncReq h index t2) d fun t =>
        t = e) ∧
    (∀ (d : Dev) (h : BmHdr) (t1 t2 t3 t4 : Nat) (e : Dev), d.bmAccept h { type := 0x06 } true = (e, false) → 
      Answers (.syncResp h t1 t2 t3 t4) d fun t =>
        t = e) ∧
    (∀ (d : Dev) (h : BmHdr) (epoch : Nat) (dig : List Byte) (nextEpoch : Nat) (nextDigest : List Byte) (e : Dev), (d.bmAccept h { type := 0x07 } (decide (dig.length = 32 ∧ nextDigest.length = 32 ∧ epoch < 2 ^ 32 ∧ nextEpoch < 2 ^ 32)) = (e, false)) → 
      Answers (.digest h epoch dig nextEpoch nextDigest) d fun t =>
        t = e) ∧
    (∀ (d : Dev) (h : BmHdr) (epoch : Nat) (ids : List (Nat × Nat)) (e : Dev), (d.bmAccept h { type := 0x08 } (decide (ids.length ≤ 180 ∧ epoch < 2 ^ 32)) = (e, false)) → 
      Answers (.recordReq h epoch ids) d fun t =>
        t = e) ∧
    (∀ (d : Dev) (h : BmHdr) (entries : List (Nat × Nat × List Byte)) (e : Dev), d.bmAccept h { type := 0x09 } (decide (entries.length ≤ 90)) = (e, false) → 
      Answers (.manifest h entries) d fun t =>
        t = e) ∧
    (∀ (d : Dev) (h : BmHdr) (type id total offset : Nat) (data : List Byte) (e : Dev), d.bmAccept h { type := 0x0A } (fragmentOk total offset data) = (e, false) → 
      Answers (.record h type id total offset data) d fun t =>
        t = e) ∧
    (∀ (d : Dev) (h : BmHdr) (base : Nat) (dig : List Byte) (proposer : Nat) (e : Dev), (d.bmAccept h { type := 0x0B } (decide (dig.length = 32 ∧ proposer < 1024)) = (e, false)) → 
      Answers (.propose h base dig proposer) d fun t =>
        t = e) ∧
    (∀ (d : Dev) (h : BmHdr) (epoch : Nat) (dig : List Byte) (roster proposer : Nat) (e : Dev), (d.bmAccept h { type := 0x0C, epoch := true } (decide (dig.length = 32 ∧ proposer < 1024 ∧ roster < 2 ^ 1024)) = (e, false)) → 
      Answers (.prepare h epoch dig roster proposer) d fun t =>
        t = e) ∧
    (∀ (d : Dev) (h : BmHdr) (epoch status bitmap : Nat) (e : Dev), (d.bmAccept h { type := 0x0D, epoch := true } (decide (bitmap < 2 ^ 32 ∧ status < 2 ^ 16)) = (e, false)) → 
      Answers (.prepared h epoch status bitmap) d fun t =>
        t = e) ∧
    (∀ (d : Dev) (h : BmHdr) (epoch : Nat) (dig : List Byte) (x : Nat) (e : Dev), (d.bmAccept h { type := 0x0E, epoch := true } (decide (dig.length = 32 ∧ x < 2 ^ 64)) = (e, false)) → 
      Answers (.commit h epoch dig x) d fun t =>
        t = e) ∧
    (∀ (d : Dev) (h : BmHdr) (epoch status : Nat) (e : Dev), d.bmAccept h { type := 0x0F } (decide (status < 2 ^ 16)) = (e, false) → 
      Answers (.abort h epoch status) d fun t =>
        t = e) ∧
    (∀ (d : Dev) (h : BmHdr) (nonce : List Byte) (e : Dev), d.bmAccept h { type := 0x17, bm3 := true } (decide (nonce.length = 16)) = (e, false) → 
      Answers (.attestChallenge h nonce) d fun t =>
        t = e) ∧
    (∀ (d : Dev) (h : BmHdr) (eui member svn : Nat) (key : List Byte) (good : Bool) (e : Dev), (d.bmAccept h { type := 0x18, bm3 := true, fromQuarantine := true } (decide (key.length = 64 ∧ member = bmFrom h ∧ svn < 2 ^ 32)) = (e, false)) → 
      Answers (.attestResponse h eui member svn key good) d fun t =>
        t = e) ∧
    (∀ (d : Dev) (h : BmHdr) (entries : List (Nat × List Byte)) (e : Dev), d.bmAccept h { type := 0x10, bm3 := true } (replicaFormat entries) = (e, false) → 
      Answers (.replica h entries) d fun t =>
        t = e) ∧
    (∀ (d : Dev) (h : BmHdr) (applied : List (Nat × Nat)) (e : Dev), d.bmAccept h { type := 0x11, bm3 := true } (decide (applied.length ≤ 10)) = (e, false) → 
      Answers (.replicaAck h applied) d fun t =>
        t = e) ∧
    (∀ (d : Dev) (h : BmHdr) (first count : Nat) (e : Dev), (d.bmAccept h { type := 0x12, bm3 := true } (decide (1 ≤ count ∧ first + count ≤ 32768)) = (e, false)) → 
      Answers (.replicaReq h first count) d fun t =>
        t = e) ∧
    (∀ (d : Dev) (h : BmHdr) (node offer : Nat) (ctx : List Byte) (e : Dev), (d.bmAccept h { type := 0x13, bm3 := true, epoch := true } (decide (node < 2 ^ 25 ∧ ctx.length = 128) && ctxReserved.all fun f => imgField ctx f = 0) = (e, false)) → 
      Answers (.migrateOffer h node offer ctx) d fun t =>
        t = e) ∧
    (∀ (d : Dev) (h : BmHdr) (offer status : Nat) (e : Dev), (d.bmAccept h { type := 0x14, bm3 := true } (decide (status = Code.ok ∨ status = Code.migrateRefused)) = (e, false)) → 
      Answers (.migrateAnswer h offer status) d fun t =>
        t = e) ∧
    (∀ (d : Dev) (h : BmHdr) (node offer owner : Nat) (e : Dev), (d.bmAccept h { type := 0x15, bm3 := true } (decide (node < 2 ^ 25 ∧ owner < 1024)) = (e, false)) → 
      Answers (.migrateDone h node offer owner) d fun t =>
        t = e) ∧
    (∀ (d : Dev) (h : BmHdr) (offer : Nat) (e : Dev), d.bmAccept h { type := 0x16, bm3 := true } true = (e, false) → 
      Answers (.migrateActive h offer) d fun t =>
        t = e) ∧
    (∀ (d : Dev) (h : BmHdr) (node : Nat) (octets : List Byte) (e : Dev), (d.bmAccept h dataKind (decide (node < 2 ^ 25 ∧ 32 ≤ octets.length)) = (e, false)) → 
      Answers (.visitor h node octets) d fun t =>
        t = e) ∧
    (∀ (d : Dev) (h : BmHdr) (node : Nat) (octets : List Byte) (e : Dev), (d.bmAccept h dataKind (decide (node < 2 ^ 25 ∧ 32 ≤ octets.length)) = (e, false)) → 
      Answers (.redirect h node octets) d fun t =>
        t = e) ∧
    (∀ (d : Dev) (h : BmHdr) (node start : Nat) (q : Int) (profile phy : Nat) (sub : Bool) (chan mode : Nat) (psdu : List Byte) (e : Dev), (d.bmAccept h dataKind (decide (node < 2 ^ 25 ∧ start < 2 ^ 64 ∧ -256 ≤ q ∧ q < 256 ∧ profile < 4 ∧ phy < 3 ∧ mode < 8)) = (e, false)) → 
      Answers (.transmit h node start q profile phy sub chan mode psdu) d fun t =>
        t = e) ∧
    (∀ (d : Dev) (h : BmHdr) (node start status : Nat) (e : Dev), (d.bmAccept h dataKind (decide (node < 2 ^ 25 ∧ start < 2 ^ 64 ∧ status < 2 ^ 16)) = (e, false)) → 
      Answers (.result h node start status) d fun t =>
        t = e)

/-- For every message: one for another member leaves the device as it is; a header, type or field that breaks its format
counts RESERVED_DROP; then, with the authentication requested of the cipher array for a tagged message, no federation
key counts AUTH_DROP and raises event 0x50, a tag that does not verify counts AUTH_DROP, a SEQ that was seen or is too
old counts REPLAY_DROP, a sender that is REPLACED or CONFLICT counts QUAR_DROP but for the types that may come from
one, and an EPOCH below the receiver's in a type that carries one counts STALE_DROP and is answered with ABORT of
EPOCH_STALE; otherwise the message is accepted and noted in its sender's window, and a new BOOT_ID of one that is
JOINING or a MEMBER clears its ATTESTED and raises a challenge. -/
def Obligations.MessagesAreCheckedInTheirOrder : Prop :=
 ∀ (d e : Dev) (h : BmHdr) (k : BmKind) (fmt : Bool), e = (if k.tagged then d.fedRequest true (hdrOctets h k.type) h.tag else d) →
   (d.bmForMe h = false → d.bmAccept h k fmt = (d, false)) ∧
   (d.bmForMe h = true → hdrOk h k.bm3 k.most = false ∨ fmt = false → d.bmAccept h k fmt = (d.bump Fld.fedStat0_reservedDrop, false)) ∧
   (d.bmForMe h = true → hdrOk h k.bm3 k.most = true → fmt = true →
     (k.tagged = true → d.fedKeyOk = false → d.bmAccept h k fmt = ((e.bump Fld.fedStat0_authDrop).raise 0x50, false)) ∧
     (k.tagged = true → d.fedKeyOk = true → h.tag ≠ d.fedTag (hdrOctets h k.type) → d.bmAccept h k fmt = (e.bump Fld.fedStat0_authDrop, false)) ∧
     (k.tagged = false ∨ (d.fedKeyOk = true ∧ h.tag = d.fedTag (hdrOctets h k.type)) →
       (e.replayed h = true → d.bmAccept h k fmt = (e.bump Fld.fedStat1_replayDrop, false)) ∧
       (e.replayed h = false → k.fromQuarantine = false → e.memberState (bmFrom h) = 3 ∨ e.memberState (bmFrom h) = 4 →
         d.bmAccept h k fmt = (e.bump Fld.fedStat1_quarDrop, false)) ∧
       (e.replayed h = false → k.fromQuarantine = true ∨ (e.memberState (bmFrom h) ≠ 3 ∧ e.memberState (bmFrom h) ≠ 4) →
         (k.epoch = true → h.epoch < e.epoch →
           d.bmAccept h k fmt = ((e.bump Fld.fedStat2_staleDrop).fedSend (some (bmFrom h)) (.abort h.epoch Code.epochStale), false)) ∧
         (k.epoch = false ∨ e.epoch ≤ h.epoch → d.bmAccept h k fmt =
           ((if h.bootId ≠ e.memberBootId (bmFrom h) ∧ ((e.bmNote h).memberState (bmFrom h) = 1 ∨ (e.bmNote h).memberState (bmFrom h) = 2) then
             ((e.bmNote h).setMember (bmFrom h) 6 1 0).challengeDue (bmFrom h) else e.bmNote h), true)))))

/-- A write of HCI_CTRL stores a secure core's FW_READY and records another writer's change of it; with RESET it resets
the interface, else ENABLE puts the admin queues in service where they were not, and ENABLE 0 takes them out; each
write goes to the sequencer after; a firmware command that no interpreter has taken for 1 s ends with INTERNAL; a
doorbell takes the entries written before it; a command whose domains have woken starts and keeps the time, and one
whose domains do not come up ends with DOMAIN_OFF; a firmware command of 10 ms posts an interim completion with
PENDING where its completion queue takes one; held-back messages are sent; a DMA fault stops a host queue that is in
service and is counted and noticed to Q1, and on Q1 itself is fatal. -/
def Obligations.TheHostInterfaceFollowsItsControl : Prop :=
    (∀ (d : Dev) (who : Initiator) (w : Word) (e f : Dev), d.domUp 1 = true → e = d.rsvd who Reg.hciCtrl w → (f = (if e.secure who then e.wr Fld.hciCtrl_fwReady (b2n (w.toNat.testBit 2)) else if w.toNat.testBit 2 = e.is Fld.hciCtrl_fwReady then e else e.refuseWrite who Reg.hciCtrl)) → 
      Answers (.hciEnable who w) d fun t =>
        (w.toNat.testBit 1 = true → t = f.hciReset.pump) ∧
        (w.toNat.testBit 1 = false → w.toNat.testBit 0 = true → t = (if f.is Fld.hciCtrl_enable then f else f.hciEnable).pump) ∧
        (w.toNat.testBit 1 = false → w.toNat.testBit 0 = false → t = (if f.is Fld.hciCtrl_enable then f.hciReset else f).pump)) ∧
    (∀ (d : Dev) (who : Initiator) (w : Word) (e f : Dev), d.domUp 1 = true → e = d.rsvd who Reg.hciCtrl (w ||| 2#32) → (f = (if e.secure who then e.wr Fld.hciCtrl_fwReady (b2n ((w ||| 2#32).toNat.testBit 2)) else if (w ||| 2#32).toNat.testBit 2 = e.is Fld.hciCtrl_fwReady then e else e.refuseWrite who Reg.hciCtrl)) → 
      Answers (.hciReset who w) d fun t =>
        t = f.hciReset.pump) ∧
    (∀ (d : Dev) (who : Initiator) (w : Word) (e f : Dev), d.domUp 1 = true → e = d.rsvd who Reg.hciCtrl (w ||| 4#32) → (f = (if e.secure who then e.wr Fld.hciCtrl_fwReady (b2n ((w ||| 4#32).toNat.testBit 2)) else if (w ||| 4#32).toNat.testBit 2 = e.is Fld.hciCtrl_fwReady then e else e.refuseWrite who Reg.hciCtrl)) → 
      Answers (.fwReadyWrite who w) d fun t =>
        ((w ||| 4#32).toNat.testBit 1 = true → t = f.hciReset.pump) ∧
        ((w ||| 4#32).toNat.testBit 1 = false → (w ||| 4#32).toNat.testBit 0 = true → t = (if f.is Fld.hciCtrl_enable then f else f.hciEnable).pump) ∧
        ((w ||| 4#32).toNat.testBit 1 = false → (w ||| 4#32).toNat.testBit 0 = false → t = (if f.is Fld.hciCtrl_enable then f.hciReset else f).pump)) ∧
    (∀ (d : Dev) (id : Nat), 
      Answers (.fwReadyTimeout id) d fun t =>
        (∀ c, d.cmd id = some c → c.stage = .queued → c.isFw = true → c.opcode < 192 → d.fwServed = false → t = (d.finish c Code.internal []).pump) ∧
        (∀ c, d.cmd id = some c → (c.stage ≠ .queued ∨ c.isFw = false ∨ 192 ≤ c.opcode ∨ d.fwServed = true) → t = d) ∧
        (d.cmd id = none → t = d)) ∧
    (∀ (d : Dev) (q w : Nat) (entries : List HostCmd), 
      Answers (.doorbell q w entries) d fun t =>
        (q < 128 → t = ((d.hostEntriesAt q 0 entries).doorbellWrite q (w % 2 ^ 32)).pump) ∧
        (128 ≤ q → t = d)) ∧
    (∀ (d : Dev) (id : Nat), 
      Answers (.commandWakeDone id) d fun t =>
        (∀ c, d.cmd id = some c → c.stage = .waking → d.cmdAsleep c = [] → t = (d.setCmd { c with wakeUs := some (d.sinceFetch c), stage := .queued }).pump) ∧
        (∀ c, d.cmd id = some c → c.stage = .waking → d.cmdAsleep c ≠ [] → t = d) ∧
        (∀ c, d.cmd id = some c → c.stage ≠ .waking → t = d.pump) ∧
        (d.cmd id = none → t = d)) ∧
    (∀ (d : Dev) (id : Nat), 
      Answers (.commandWakeTimeout id) d fun t =>
        (∀ c, d.cmd id = some c → ((c.stage = .waking ∧ d.cmdAsleep c ≠ []) ∨ (c.stage = .running ∧ c.opcode = 4 ∧ d.voteWaits c ≠ [])) →
        t = (d.finish { c with wakeUs := none } Code.domainOff []).pump) ∧
        (∀ c, d.cmd id = some c → ¬((c.stage = .waking ∧ d.cmdAsleep c ≠ []) ∨ (c.stage = .running ∧ c.opcode = 4 ∧ d.voteWaits c ≠ [])) → t = d) ∧
        (d.cmd id = none → t = d)) ∧
    (∀ (d : Dev) (id : Nat), 
      Answers (.firmwareInterimCompletion id) d fun t =>
        (∀ c q, d.cmd id = some c → q = d.partner c.sq → c.stage = .running → c.isFw = true → c.interim = false → c.mute = false →
        d.qEn q = true → d.qFull q = false → d.qReach q = true → d.qBarred q = false →
        t = (d.setCmd { c with interim := true }).cqPost q c.cid c.sq c.head Code.pending [] c.wakeUs) ∧
        (∀ c q, d.cmd id = some c → q = d.partner c.sq → (c.stage ≠ .running ∨ c.isFw = false ∨ c.interim = true ∨ c.mute = true ∨
        d.qEn q = false ∨ d.qFull q = true ∨ d.qReach q = false ∨ d.qBarred q = true) → t = d) ∧
        (d.cmd id = none → t = d)) ∧
    (∀ (d : Dev), 
      Answers .msiXPendingSend d fun t =>
        t = d.msixFlush) ∧
    (∀ (d : Dev) (q : Nat) (e : Dev), e = ((d.wr Fld.hciQCfg_stopped 1 (q % 128)).qerr 3 (q % 128)).bump Fld.hciStat1_dmaErr → 
      Answers (.dmaFault q) d fun t =>
        (d.domUp 1 = true → d.qEn (q % 128) = true → d.qHost (q % 128) = true → t = if q % 128 = 1 then (e.wr Fld.hciStatus_fatal 1).raise 0x6B else e.notice Code.internal (q % 128)) ∧
        ((d.domUp 1 = false ∨ d.qEn (q % 128) = false ∨ d.qHost (q % 128) = false) → t = d))

/-- For a command that starts: TX_FRAME gives TP3 the frame, secured where it asks for it, or ends with NODE_UNKNOWN,
RESOURCE_RETIRED or HOLD_FULL; REG_READ returns the registers; REG_WRITE writes the value under the mask and returns
what then reads, or RESERVED_FIELD; POWER_VOTE changes the votes of V8 and returns the tally, or waits for its
domains; HELLO returns the highest common version and takes it, BAD_VERSION without one, NOT_PERMITTED while other
queues are in service; IDENTIFY returns SYS_ID, SYS_STRAP and the EUI-64; QUEUE_CREATE puts the queue in service as
its arguments say, an internal queue with RECLAIM only, and ends with BAD_QUEUE or NOT_PERMITTED otherwise;
QUEUE_DELETE of an idle submission queue resets it, of a busy one waits, of a completion queue with partners needs it
stopped and deletes them, and ends with BAD_QUEUE where there is nothing to delete; TX_CANCEL cancels a frame that is
not committed, or its command that has not started, with RESULT0 = 1, and returns 0 otherwise. -/
def Obligations.InterfaceCommandsAct : Prop :=
    (∀ (d : Dev) (c : HostCmd) (e f : Dev) (x : HciCmd) (slot : Option Nat) (fr : TxFrame), Starts 0x01 c d e x → (slot = (if (x.a 0).testBit 25 then e.findSlot (x.a 0 % 2 ^ 25) else none)) → fr = e.txCmdFrame x slot → f = (e.runCmd x).addFrame fr → 
      Answers (.txFrame c) d fun t =>
        ((((x.a 0).testBit 26 = true ∧ slot = none) ∨ ((x.a 0).testBit 25 = true ∧ e.findNode (x.a 0 % 2 ^ 25) = none)) →
        t = (e.finish x Code.nodeUnknown [0, 0, 0, 0]).fetchCmds 255) ∧
        (((x.a 0).testBit 26 = true → slot ≠ none) → ((x.a 0).testBit 25 = true → e.findNode (x.a 0 % 2 ^ 25) ≠ none) → e.tp3Ok = false →
        t = (e.finish x Code.resourceRetired [0, 0, 0, 0]).fetchCmds 255) ∧
        (((x.a 0).testBit 26 = true → slot ≠ none) → ((x.a 0).testBit 25 = true → e.findNode (x.a 0 % 2 ^ 25) ≠ none) → e.tp3Ok = true →
        fr.phy ≠ 3 → e.poolFits fr.mac.length = false → t = (e.finish x Code.holdFull [0, 0, 0, 0]).fetchCmds 255) ∧
        (((x.a 0).testBit 26 = true → slot ≠ none) → ((x.a 0).testBit 25 = true → e.findNode (x.a 0 % 2 ^ 25) ≠ none) → e.tp3Ok = true →
        (fr.phy = 3 ∨ e.poolFits fr.mac.length = true) →
        t = (if fr.secure && fr.stage = .scheduled then f.secureFrame { fr with nodeAddr := x.a 0 % 2 ^ 25 } else f).fetchCmds 255)) ∧
    (∀ (d : Dev) (c : HostCmd) (e f : Dev) (x : HciCmd) (vs : List Nat), Starts 0x02 c d e x → (e.hostReads ((List.range (x.a 1)).map fun i => x.a 0 + 4 * i) = (f, vs)) → 
      Answers (.regRead c) d fun t =>
        t = (f.finish x Code.ok vs).fetchCmds 255) ∧
    (∀ (d : Dev) (c : HostCmd) (e : Dev) (x : HciCmd) (w : Word), Starts 0x03 c d e x → w = (BitVec.ofNat 32 (x.a 1) &&& BitVec.ofNat 32 (x.a 2)) ||| (e.peek (x.a 0) &&& ~~~ BitVec.ofNat 32 (x.a 2)) → 
      Answers (.regWrite c) d fun t =>
        (∀ f bad, x.a 0 ≠ Reg.errRsvdWrite → e.hostRegWrite (x.a 0) w = (f, bad) →
        t = (f.finish x (if bad then Code.reservedField else Code.ok) [(f.peek (x.a 0)).toNat]).fetchCmds 255) ∧
        (∀ f, x.a 0 = Reg.errRsvdWrite → f = e.regWrite .host (x.a 0) w →
        t = (f.finish x (if ((regAt (x.a 0)).any fun r => r.1.hitsReserved w.toNat) then Code.reservedField else Code.ok) [(f.peek (x.a 0)).toNat]).fetchCmds 255)) ∧
    (∀ (d : Dev) (c : HostCmd) (e f : Dev) (x : HciCmd), Starts 0x04 c d e x → f = (e.catchUp.setVotes 8 ((e.votesOf 8 &&& (0xFFFFFFFF ^^^ x.a 1)) ||| x.a 0)).settleAll → 
      Answers (.powerVote c) d fun t =>
        t = (if x.a 2 = 1 ∧ f.voteWaits x ≠ [] then f.runCmd { x with wakeUs := some 0 } else f.finish x Code.ok [f.tallyWord]).fetchCmds 255) ∧
    (∀ (d : Dev) (c : HostCmd) (e f : Dev) (x : HciCmd) (busy : Bool) (pick : Option Nat), Starts 0x10 c d e x → (busy = ((List.range 128).any fun q => 2 ≤ q && e.qEn q && e.qRole q != 4)) → f = { e with hci := { e.hci with hostTag := x.a 1 } } → (pick = (([3, 2] ++ (if e.is Fld.hciStatus_v1Offered then [1] else [])).find? fun v => decide (bitsOf (x.a 0) 3 0 ≤ v) && decide (v ≤ bitsOf (x.a 0) 7 4))) → 
      Answers (.helloCommand c) d fun t =>
        (busy = true → t = (e.finish x Code.notPermitted []).fetchCmds 255) ∧
        (busy = false → pick = none → t = (f.finish x Code.badVersion []).fetchCmds 255) ∧
        (∀ v, busy = false → pick = some v →
        t = ((f.finish x Code.ok [v + 16 * (6 + b2n (e.is Fld.hciStatus_v1Offered)), (f.reg Reg.sysId).toNat]).wr Fld.hciStatus_version v).fetchCmds 255)) ∧
    (∀ (d : Dev) (c : HostCmd) (e : Dev) (x : HciCmd), Starts 0x11 c d e x → 
      Answers (.identify c) d fun t =>
        t = (e.finish x Code.ok [(e.reg Reg.sysId).toNat, (e.reg Reg.sysStrap).toNat, e.fuse (Fuse.eui 0), e.fuse (Fuse.eui 1)]).fetchCmds 255) ∧
    (∀ (d : Dev) (c : HostCmd) (e f g : Dev) (x : HciCmd) (a q role : Nat) (internal good : Bool), Starts 0x12 c d e x → a = x.a 0 → q = bitsOf a 6 0 → role = bitsOf a 11 8 → internal = (decide (96 ≤ q) && decide (q < 120)) → (good = true ↔ (e.qEn q = true → internal = true ∧ e.hci.reclaimed.contains q = false) ∧ ringOk e.version role (bitsOf a 17 14) (a.testBit 12) (a.testBit 13) (x.a 1 + x.a 2 * 2 ^ 32) (x.a 3 + x.a 4 * 2 ^ 32) = true ∧ (role = 1 → e.qEn (bitsOf a 24 18) = true ∧ e.qRole (bitsOf a 24 18) = 2) ∧ (a.testBit 12 = true → e.version ≠ 1)) → f = ((e.qReset q).wr Fld.hciQBaseLo_base (x.a 1) q).wr Fld.hciQBaseHi_base (x.a 2) q → (g = (if role = 3 then (f.wr Fld.hciQBufLo_buf (x.a 3) q).wr Fld.hciQBufHi_buf (x.a 4) q else f)) → 
      Answers (.queueCreate c) d fun t =>
        ((q < 2 ∨ 120 ≤ q) → t = (e.finish x Code.badQueue []).fetchCmds 255) ∧
        (2 ≤ q → q < 120 → internal = true → a.testBit 7 = false → t = (e.finish x Code.notPermitted []).fetchCmds 255) ∧
        (2 ≤ q → q < 120 → (internal = true → a.testBit 7 = true) → good = false → t = (e.finish x Code.badQueue []).fetchCmds 255) ∧
        (∀ h : Dev, 2 ≤ q → q < 120 → (internal = true → a.testBit 7 = true) → good = true →
        h = ((((((((g.wr Fld.hciQCfg_role role q).wr Fld.hciQCfg_size (bitsOf a 17 14) q).wr Fld.hciQCfg_loc (b2n (a.testBit 12)) q).wr Fld.hciQCfg_stride (b2n (a.testBit 13)) q).wr Fld.hciQCfg_partner (bitsOf a 24 18) q).wr Fld.hciQCfg_vector (bitsOf a 30 25) q).wr Fld.hciQCfg_irqEn (b2n (a.testBit 31)) q).wr Fld.hciQCfg_armed 1 q).wr Fld.hciQCfg_en 1 q →
        t = ((if internal then { h with hci := { h.hci with reclaimed := q :: h.hci.reclaimed } } else h).finish x Code.ok []).fetchCmds 255)) ∧
    (∀ (d : Dev) (c : HostCmd) (e : Dev) (x : HciCmd) (q : Nat), Starts 0x13 c d e x → q = x.a 0 → 
      Answers (.queueDelete c) d fun t =>
        ((q < 2 ∨ 120 ≤ q ∨ e.qEn q = false ∨ e.qRole q = 4 ∨ e.qDeleting q = true) → t = (e.finish x Code.badQueue []).fetchCmds 255) ∧
        (2 ≤ q → q < 120 → e.qEn q = true → e.qDeleting q = false → e.qRole q = 1 → e.queueBusy q = false → t = ((e.qReset q).finish x Code.ok []).fetchCmds 255) ∧
        (2 ≤ q → q < 120 → e.qEn q = true → e.qDeleting q = false → e.qRole q = 1 → e.queueBusy q = true →
        t = ((({ e with hci := { e.hci with deleting := alSet q x.id e.hci.deleting } } : Dev).runCmd x)).fetchCmds 255) ∧
        (2 ≤ q → q < 120 → e.qEn q = true → e.qDeleting q = false → e.qRole q = 2 →
        ((List.range 128).any fun s => e.qEn s && e.qRole s = 1 && e.partner s = q) = true → e.qStopped q = false → t = (e.finish x Code.notPermitted []).fetchCmds 255) ∧
        (2 ≤ q → q < 120 → e.qEn q = true → e.qDeleting q = false → e.qRole q = 2 →
        (((List.range 128).any fun s => e.qEn s && e.qRole s = 1 && e.partner s = q) = false ∨ e.qStopped q = true) →
        t = (((e.dropPartners q).qReset q).finish x Code.ok []).fetchCmds 255) ∧
        (2 ≤ q → q < 120 → e.qEn q = true → e.qDeleting q = false → e.qRole q ∉ [1, 2, 4] → t = ((e.qReset q).finish x Code.ok []).fetchCmds 255)) ∧
    (∀ (d : Dev) (c : HostCmd) (e : Dev) (x : HciCmd) (hit : Option HciCmd), Starts 0x14 c d e x → (hit = e.hci.cmds.find? fun z => z.sq = x.a 0 && z.cid = x.a 1 && z.opcode = 1) → 
      Answers (.txCancel c) d fun t =>
        (hit = none → t = (e.finish x Code.ok [0]).fetchCmds 255) ∧
        (∀ y, hit = some y → (y.stage = .queued ∨ y.stage = .waking) → t = ((e.finish y Code.cancelled [0, 0, 0, 0]).finish x Code.ok [1]).fetchCmds 255) ∧
        (∀ y f, hit = some y → y.stage = .running → (e.tx.frames.find? fun f => f.hostCmd = some y.id && f.cancellable) = some f →
        t = ((((e.txRelease f).dropFrame f.id).finish y Code.cancelled (f.results false)).finish x Code.ok [1]).fetchCmds 255) ∧
        (∀ y, hit = some y → y.stage = .running → (e.tx.frames.find? fun f => f.hostCmd = some y.id && f.cancellable) = none → t = (e.finish x Code.ok [0]).fetchCmds 255) ∧
        (∀ y a b, hit = some y → y.stage = .done a b → t = (e.finish x Code.ok [0]).fetchCmds 255))

/-- For a host command that starts at once and reads a word that fails its parity n times: the fault is replayed, counted
and judged by the fetch of that word; up to three failures leave the command its own effect; at the fourth it
completes with REPLAY_EXHAUSTED and without its effect. Said of the opcodes that read node memory or a data buffer,
for a word at any address. -/
def Obligations.CommandsMeetParityFaults : Prop :=
    (∀ (d : Dev) (c : HostCmd) (f : Nat × Nat) (e r : Dev) (x : HciCmd) (o : FetchOutcome), StartsWith (some f) 0x01 c d e x → e.fetch (memRes f.1) f.1 f.2 = (r, o) → 
      Answers (.txFrame c) d fun t =>
        (o = FetchOutcome.exhausted → t = (r.finish x Code.replayExhausted []).fetchCmds 255) ∧
        (o ≠ FetchOutcome.exhausted → t = (r.runOpcode { x with fault := none }).fetchCmds 255)) ∧
    (∀ (d : Dev) (c : HostCmd) (f : Nat × Nat) (e r : Dev) (x : HciCmd) (o : FetchOutcome), StartsWith (some f) 0x20 c d e x → e.fetch (memRes f.1) f.1 f.2 = (r, o) → 
      Answers (.nodeAdd c) d fun t =>
        (o = FetchOutcome.exhausted → t = (r.finish x Code.replayExhausted []).fetchCmds 255) ∧
        (o ≠ FetchOutcome.exhausted → t = (r.runOpcode { x with fault := none }).fetchCmds 255)) ∧
    (∀ (d : Dev) (c : HostCmd) (f : Nat × Nat) (e r : Dev) (x : HciCmd) (o : FetchOutcome), StartsWith (some f) 0x21 c d e x → e.fetch (memRes f.1) f.1 f.2 = (r, o) → 
      Answers (.nodeUpdate c) d fun t =>
        (o = FetchOutcome.exhausted → t = (r.finish x Code.replayExhausted []).fetchCmds 255) ∧
        (o ≠ FetchOutcome.exhausted → t = (r.runOpcode { x with fault := none }).fetchCmds 255)) ∧
    (∀ (d : Dev) (c : HostCmd) (f : Nat × Nat) (e r : Dev) (x : HciCmd) (o : FetchOutcome), StartsWith (some f) 0x22 c d e x → e.fetch (memRes f.1) f.1 f.2 = (r, o) → 
      Answers (.nodeRemove c) d fun t =>
        (o = FetchOutcome.exhausted → t = (r.finish x Code.replayExhausted []).fetchCmds 255) ∧
        (o ≠ FetchOutcome.exhausted → t = (r.runOpcode { x with fault := none }).fetchCmds 255)) ∧
    (∀ (d : Dev) (c : HostCmd) (f : Nat × Nat) (e r : Dev) (x : HciCmd) (o : FetchOutcome), StartsWith (some f) 0x23 c d e x → e.fetch (memRes f.1) f.1 f.2 = (r, o) → 
      Answers (.nodeRead c) d fun t =>
        (o = FetchOutcome.exhausted → t = (r.finish x Code.replayExhausted []).fetchCmds 255) ∧
        (o ≠ FetchOutcome.exhausted → t = (r.runOpcode { x with fault := none }).fetchCmds 255)) ∧
    (∀ (d : Dev) (c : HostCmd) (f : Nat × Nat) (e r : Dev) (x : HciCmd) (o : FetchOutcome), StartsWith (some f) 0x24 c d e x → e.fetch (memRes f.1) f.1 f.2 = (r, o) → 
      Answers (.routeSet c) d fun t =>
        (o = FetchOutcome.exhausted → t = (r.finish x Code.replayExhausted []).fetchCmds 255) ∧
        (o ≠ FetchOutcome.exhausted → t = (r.runOpcode { x with fault := none }).fetchCmds 255)) ∧
    (∀ (d : Dev) (c : HostCmd) (f : Nat × Nat) (e r : Dev) (x : HciCmd) (o : FetchOutcome), StartsWith (some f) 0x25 c d e x → e.fetch (memRes f.1) f.1 f.2 = (r, o) → 
      Answers (.routeDel c) d fun t =>
        (o = FetchOutcome.exhausted → t = (r.finish x Code.replayExhausted []).fetchCmds 255) ∧
        (o ≠ FetchOutcome.exhausted → t = (r.runOpcode { x with fault := none }).fetchCmds 255)) ∧
    (∀ (d : Dev) (c : HostCmd) (f : Nat × Nat) (e r : Dev) (x : HciCmd) (o : FetchOutcome), StartsWith (some f) 0x26 c d e x → e.fetch (memRes f.1) f.1 f.2 = (r, o) → 
      Answers (.snapshot c) d fun t =>
        (o = FetchOutcome.exhausted → t = (r.finish x Code.replayExhausted []).fetchCmds 255) ∧
        (o ≠ FetchOutcome.exhausted → t = (r.runOpcode { x with fault := none }).fetchCmds 255)) ∧
    (∀ (d : Dev) (c : HostCmd) (f : Nat × Nat) (e r : Dev) (x : HciCmd) (o : FetchOutcome), StartsWith (some f) 0x27 c d e x → e.fetch (memRes f.1) f.1 f.2 = (r, o) → 
      Answers (.restoreStream c) d fun t =>
        (o = FetchOutcome.exhausted → t = (r.finish x Code.replayExhausted []).fetchCmds 255) ∧
        (o ≠ FetchOutcome.exhausted → t = (r.runOpcode { x with fault := none }).fetchCmds 255)) ∧
    (∀ (d : Dev) (c : HostCmd) (f : Nat × Nat) (e r : Dev) (x : HciCmd) (o : FetchOutcome), StartsWith (some f) 0x30 c d e x → e.fetch (memRes f.1) f.1 f.2 = (r, o) → 
      Answers (.fedRecordPut c) d fun t =>
        (o = FetchOutcome.exhausted → t = (r.finish x Code.replayExhausted []).fetchCmds 255) ∧
        (o ≠ FetchOutcome.exhausted → t = (r.runOpcode { x with fault := none }).fetchCmds 255)) ∧
    (∀ (d : Dev) (c : HostCmd) (f : Nat × Nat) (e r : Dev) (x : HciCmd) (o : FetchOutcome), StartsWith (some f) 0x40 c d e x → e.fetch (memRes f.1) f.1 f.2 = (r, o) → 
      Answers (.regProg c) d fun t =>
        (o = FetchOutcome.exhausted → t = (r.finish x Code.replayExhausted []).fetchCmds 255) ∧
        (o ≠ FetchOutcome.exhausted → t = (r.runOpcode { x with fault := none }).fetchCmds 255))

/-- For a command that starts: FED_RECORD_PUT and FED_RECORD_DEL change the proposed set, or end with RESERVED_FIELD,
BAD_LENGTH, or a free failure status where the set has no room or an OK for it is out; FED_PROPOSE is accepted at the
leader or sent to it, or ends with QUARANTINED, NOT_LEADER or EPOCH_STALE; FED_MEMBER_READ returns 32 octets of the
member table; FED_MIGRATE starts a migration that nothing bars, adopts from a replica here or asks the buddy for it,
or resolves a frozen migration, and ends with the cause otherwise; REG_PROG runs the interpreter's write of
REG_PROG_CMD; SECURE_READ returns the register as a secure core reads it; KEY_LOAD, in BLANK and MANUFACTURE only,
KEY_CLEAR and KEY_WRAP run KEY_CMD operations 1, 2 and 4; BLOB_PUT writes the blob entry; KEY_ATTR_READ and LC_STATUS
return their registers; LC_TRANSITION requests a transition, RETURN only with its token, and gets a free failure
status where the request is ignored; an application command goes to C4's mailbox unchanged, and its status and results
are free. -/
def Obligations.FirmwareCommandsAct : Prop :=
    (∀ (d : Dev) (c : HostCmd) (e : Dev) (x : HciCmd) (l : List Record) (bad held : Bool), Starts 0x30 c d e x → bad = (!recordTypeOk (x.a 0) || (x.a 0 = 1 && decide (1024 ≤ x.a 1)) || (x.a 0 = 2 && x.a 1 != 0)) → l = putRecord { type := x.a 0, id := x.a 1, data := e.cmdData x } e.fed.proposed → (held = e.fed.proposal.any fun p => p.preparedOk) → 
      Answers (.fedRecordPut c) d fun t =>
        (bad = true → t = (e.finish x Code.reservedField []).fetchCmds 255) ∧
        (bad = false → 16384 < (e.cmdData x).length → t = (e.finish x Code.badLength []).fetchCmds 255) ∧
        (bad = false → (e.cmdData x).length ≤ 16384 → (setFits l = false ∨ held = true) →
        t = ((e.freeOf failureCodes).2.finish x (e.freeOf failureCodes).1 []).fetchCmds 255) ∧
        (bad = false → (e.cmdData x).length ≤ 16384 → setFits l = true → held = false →
        t = ((e.setFed { e.fed with proposed := l }).finish x Code.ok []).fetchCmds 255)) ∧
    (∀ (d : Dev) (c : HostCmd) (e : Dev) (x : HciCmd) (held : Bool), Starts 0x31 c d e x → (held = e.fed.proposal.any fun p => p.preparedOk) → 
      Answers (.fedRecordDel c) d fun t =>
        (recordTypeOk (x.a 0) = false → t = (e.finish x Code.reservedField []).fetchCmds 255) ∧
        (recordTypeOk (x.a 0) = true → held = true → t = ((e.freeOf failureCodes).2.finish x (e.freeOf failureCodes).1 []).fetchCmds 255) ∧
        (recordTypeOk (x.a 0) = true → held = false → t = ((e.setFed { e.fed with proposed := delRecord (x.a 0) (x.a 1) e.fed.proposed }).finish x Code.ok []).fetchCmds 255)) ∧
    (∀ (d : Dev) (c : HostCmd) (e f g : Dev) (x : HciCmd), Starts 0x32 c d e x → f = e.runCmd x → g = f.setFed { f.fed with proposeCmd := some x.id } → 
      Answers (.fedPropose c) d fun t =>
        (f.fedQuarantined = true → t = (f.finishId x.id Code.quarantined []).fetchCmds 255) ∧
        (f.fedQuarantined = false → f.fed.leader = none → t = (f.finishId x.id Code.notLeader []).fetchCmds 255) ∧
        (∀ l, f.fedQuarantined = false → f.fed.leader = some l → (f.fed.proposeCmd.isSome = true ∨ (l = f.fedMe ∧ f.fed.proposal.isSome = true)) →
        t = (f.finishId x.id Code.epochStale []).fetchCmds 255) ∧
        (∀ l, f.fedQuarantined = false → f.fed.leader = some l → f.fed.proposeCmd = none → l ≠ f.fedMe →
        t = (g.fedSend (some l) (.propose g.epoch (digestOf (f.epoch + 1) f.wantedRoster g.fed.proposed) g.fedMe)).fetchCmds 255) ∧
        (∀ l, f.fedQuarantined = false → f.fed.leader = some l → f.fed.proposeCmd = none → l = f.fedMe → f.fed.proposal = none → f.fedState < 6 →
        t = ((g.setFed { g.fed with proposeCmd := none }).finishId x.id Code.epochStale []).fetchCmds 255) ∧
        (∀ l, f.fedQuarantined = false → f.fed.leader = some l → f.fed.proposeCmd = none → l = f.fedMe → f.fed.proposal = none → 6 ≤ f.fedState →
        t = (g.accept (digestOf (f.epoch + 1) f.wantedRoster g.fed.proposed) f.wantedRoster l).fetchCmds 255)) ∧
    (∀ (d : Dev) (c : HostCmd) (e : Dev) (x : HciCmd), Starts 0x33 c d e x → 
      Answers (.fedMemberRead c) d fun t =>
        t = ((e.cmdReturn x (e.bytes (memberAddr (x.a 0)) 32)).finish x Code.ok []).fetchCmds 255) ∧
    (∀ (d : Dev) (c : HostCmd) (e f : Dev) (x : HciCmd), Starts 0x34 c d e x → f = e.runCmd x → 
      Answers (.fedMigrate c) d fun t =>
        (f.ndt.held = true → t = (f.finishId x.id Code.tableHeld []).fetchCmds 255) ∧
        (f.ndt.held = false → x.a 1 = 0 → f.findSlot (x.a 0) = none → t = (f.finishId x.id Code.nodeUnknown []).fetchCmds 255) ∧
        (∀ s, f.ndt.held = false → x.a 1 = 0 → f.findSlot (x.a 0) = some s → f.damagedSlot s = true → t = (f.finishId x.id Code.rebuilding []).fetchCmds 255) ∧
        (∀ s, f.ndt.held = false → x.a 1 = 0 → f.findSlot (x.a 0) = some s → f.damagedSlot s = false → f.migrationBar s (x.a 2) ≠ Code.ok →
        t = (f.finishId x.id (f.migrationBar s (x.a 2)) []).fetchCmds 255) ∧
        (∀ s, f.ndt.held = false → x.a 1 = 0 → f.findSlot (x.a 0) = some s → f.damagedSlot s = false → f.migrationBar s (x.a 2) = Code.ok →
        t = (f.migrate s (x.a 2) (some x.id)).fetchCmds 255) ∧
        (∀ m, f.ndt.held = false → x.a 1 ≠ 0 → x.a 1 ≠ 3 → (f.fed.migrations.find? fun m => m.source && m.node = x.a 0 && m.step = 2) = some m →
        t = ((if x.a 1 = 1 then f.dropMigration m else f.handOver m).finishId x.id Code.ok []).fetchCmds 255) ∧
        (f.ndt.held = false → x.a 1 ≠ 0 → x.a 1 ≠ 3 → (f.fed.migrations.find? fun m => m.source && m.node = x.a 0 && m.step = 2) = none →
        t = ((f.freeOf failureCodes).2.finishId x.id (f.freeOf failureCodes).1 []).fetchCmds 255) ∧
        (f.ndt.held = false → x.a 1 = 3 → (f.findSlot (x.a 0)).isSome = true → t = (f.finishId x.id Code.nodeExists []).fetchCmds 255) ∧
        (∀ s, f.ndt.held = false → x.a 1 = 3 → f.findSlot (x.a 0) = none →
        ((f.budSlots 0 32768).find? fun s => imgField (f.bytes (budAddr s) 128) Cx.nodeAddr = x.a 0) = some s →
        t = ((f.setFed { f.fed with adopts := f.fed.adopts ++ [(x.a 0, x.id)] }).takeReplica s (f.bytes (budAddr s) 128)).fetchCmds 255) ∧
        (f.ndt.held = false → x.a 1 = 3 → f.findSlot (x.a 0) = none →
        ((f.budSlots 0 32768).find? fun s => imgField (f.bytes (budAddr s) 128) Cx.nodeAddr = x.a 0) = none →
        (∀ b, ((f.remoteOf (x.a 0)).bind fun r => f.buddy (f.rteMember r)) = some b → b = f.fedMe) → t = (f.finishId x.id Code.nodeUnknown []).fetchCmds 255) ∧
        (∀ b, f.ndt.held = false → x.a 1 = 3 → f.findSlot (x.a 0) = none →
        ((f.budSlots 0 32768).find? fun s => imgField (f.bytes (budAddr s) 128) Cx.nodeAddr = x.a 0) = none →
        ((f.remoteOf (x.a 0)).bind fun r => f.buddy (f.rteMember r)) = some b → b ≠ f.fedMe →
        t = ((f.setFed { f.fed with adopts := f.fed.adopts ++ [(x.a 0, x.id)] }).fedSend (some b) (.replicaReq (x.a 0 % 32768) 1)).fetchCmds 255)) ∧
    (∀ (d : Dev) (c : HostCmd) (e f g : Dev) (x : HciCmd) (op word : Nat), Starts 0x40 c d e x → op = x.a 0 % 4 → word = bitsOf (x.a 0) 12 8 → (f = (if op = 1 then (e.setReg (Reg.regStageW + 4 * word) (BitVec.ofNat 32 (leAt (e.cmdData x) 0 4))).regStatusUpdate else e)) → g = f.regProgCmd (.core 0) true (BitVec.ofNat 32 (0x6B1D0000 + op * 256 + word)) → 
      Answers (.regProg c) d fun t =>
        (op = 0 → t = (g.finish x Code.ok []).fetchCmds 255) ∧
        (op ≠ 0 → g.prog.isSome = true → t = (g.runCmd x).fetchCmds 255) ∧
        (op ≠ 0 → g.prog = none → t = (g.finish x (progStatus (g.rd Fld.regProgStatus_result)) []).fetchCmds 255)) ∧
    (∀ (d : Dev) (c : HostCmd) (e f : Dev) (x : HciCmd) (v : Word), Starts 0x41 c d e x → e.regRead (.core 0) (x.a 0) = (f, v) → 
      Answers (.secureRead c) d fun t =>
        t = (f.finish x Code.ok [v.toNat]).fetchCmds 255) ∧
    (∀ (d : Dev) (c : HostCmd) (e f : Dev) (x : HciCmd), Starts 0x50 c d e x → f = (e.wr Fld.keyArg_engines (x.a 1 % 64)).wr Fld.keyArg_keylen (b2n ((x.a 1).testBit 6)) → 
      Answers (.keyLoad c) d fun t =>
        ((e.lcOf = some 0 ∨ e.lcOf = some 1) → t = (((f.setKeyData (f.cmdData x)).keyStart 1 (x.a 0) false).runCmd x).fetchCmds 255) ∧
        (e.lcOf ≠ some 0 → e.lcOf ≠ some 1 → t = (e.finish x Code.notPermitted []).fetchCmds 255)) ∧
    (∀ (d : Dev) (c : HostCmd) (e : Dev) (x : HciCmd), Starts 0x51 c d e x → 
      Answers (.keyClear c) d fun t =>
        t = ((e.keyStart 2 (x.a 0) false).runCmd x).fetchCmds 255) ∧
    (∀ (d : Dev) (c : HostCmd) (e : Dev) (x : HciCmd), Starts 0x52 c d e x → 
      Answers (.keyWrap c) d fun t =>
        t = (((e.setKeyData (e.cmdData x)).keyStart 4 (x.a 0) false).runCmd x).fetchCmds 255) ∧
    (∀ (d : Dev) (c : HostCmd) (e : Dev) (x : HciCmd), Starts 0x53 c d e x → 
      Answers (.blobPut c) d fun t =>
        t = ((e.setBytes (blobAddr (x.a 0)) (e.cmdData x)).finish x Code.ok []).fetchCmds 255) ∧
    (∀ (d : Dev) (c : HostCmd) (e : Dev) (x : HciCmd), Starts 0x54 c d e x → 
      Answers (.keyAttrRead c) d fun t =>
        t = (e.finish x Code.ok [(e.slotAttr (x.a 0)).toNat]).fetchCmds 255) ∧
    (∀ (d : Dev) (c : HostCmd) (e f : Dev) (x : HciCmd), Starts 0x55 c d e x → f = e.cmdReturn x (padTo 16 e.keys.nonce) → 
      Answers (.lcStatus c) d fun t =>
        t = (f.finish x Code.ok [(e.reg Reg.otpLcStatus).toNat]).fetchCmds 255) ∧
    (∀ (d : Dev) (c : HostCmd) (e : Dev) (x : HciCmd) (r : Dev × Bool), Starts 0x56 c d e x → r = (e.wr Fld.keyStatus_result 0).lcRequest true (x.a 0) → 
      Answers (.lcTransition c) d fun t =>
        (x.a 0 = 3 → e.returnToken (e.cmdData x) = false → t = (e.finish x Code.authFail []).fetchCmds 255) ∧
        ((x.a 0 = 3 → e.returnToken (e.cmdData x) = true) → r.2 = false → t = ((e.freeOf failureCodes).2.finish x (e.freeOf failureCodes).1 []).fetchCmds 255) ∧
        ((x.a 0 = 3 → e.returnToken (e.cmdData x) = true) → r.2 = true → r.1.lc.isSome = true → t = (r.1.runCmd x).fetchCmds 255) ∧
        ((x.a 0 = 3 → e.returnToken (e.cmdData x) = true) → r.2 = true → r.1.lc = none → t = (r.1.finish x (r.1.rd Fld.keyStatus_result) []).fetchCmds 255)) ∧
    (∀ (d : Dev) (op : Nat) (opened : Bool) (c : HostCmd) (e f g h : Dev) (x : HciCmd) (st v : Nat), op < 64 → Starts (192 + op) c { d with hci := { d.hci with appOpen := opened } } e x → f = e.emit (.mailbox x.w (e.cmdData x)) → (st, g) = f.freeOf assignedCodes → (v, h) = g.free 128 → 
      Answers (.applicationCommand op opened c) d fun t =>
        t = (h.finish x st ((List.range 4).map fun i => v / 2 ^ (32 * i) % 2 ^ 32)).fetchCmds 255)

/-- A START of a legal request by a secure core of an idle port sets BUSY and starts the transfer with its frame, its
clock held where RDY_EN is 1 and CSPM_RDY is low, an illegal one ends with RESULT 2, and another writer's or one of a
busy port is refused; ABORT of a secure core stops a running request with result 4; a request whose clock runs ends
when its octets have moved, it was stopped, or its memory is off: it drives its frame, moves its octets, and clears
BUSY with its result and count; while the CSPM bank is held no frame shows and the octets read are free; CSPM_RDY lets
the clock run, and its absence for the timeout stops the request with result 1 and is counted, or fails the boot slot
with 0x26. The slave port ready: a valid WRITE frame is kept as the pending commit after an earlier one is carried
out, READ drives the words, FSTAT the fast status window, each with the status byte; a discarded frame leaves its
cause in CSP_S_ERR and is counted, a READ whose header was good having read its words; a commit's end writes its
words. -/
def Obligations.SerialPortsFollowTheirRules : Prop :=
    (∀ (d : Dev) (who : Initiator) (w : Word) (rdy : Bool) (e : Dev) (f : Word) (bad : Bool), d.domUp 28 = true → e = d.plainWrite who Reg.cspMCmd w → f = e.reg (Reg.cspMFmt + 4 * wBits w 2 0) → bad = ((ddrPhase f (e.rd Fld.cspMLen_len) && decide (e.rd Fld.cspMClk_div < 4)) || !cspmRangeOk (e.reg Reg.cspMMem).toNat (e.rd Fld.cspMLen_len) (w.toNat.testBit 4)) → 
      Answers (.start who w rdy) d fun t =>
        ((d.secure who = false ∨ d.is Fld.cspMStatus_busy = true) → t = d.refuseWrite who Reg.cspMCmd) ∧
        (d.secure who = true → d.is Fld.cspMStatus_busy = false → bad = true →
        t = (((e.wr Fld.cspMStatus_result 2).wr Fld.cspMStatus_bytes 0).wr Fld.cspMStatus_busy 0).raise 0x58) ∧
        (d.secure who = true → d.is Fld.cspMStatus_busy = false → bad = false →
        t = ((({ e with csp := { e.csp with run := some { frame := e.cspmFrame f w, send := w.toNat.testBit 4, mem := (e.reg Reg.cspMMem).toNat, len := e.rd Fld.cspMLen_len, rdyEn := f.toNat.testBit 25, clkHeld := f.toNat.testBit 25 && !rdy } } } : Dev).wr Fld.cspMStatus_busy 1).wr Fld.cspMStatus_result 0).wr Fld.cspMStatus_bytes 0)) ∧
    (∀ (d : Dev) (who : Initiator), d.domUp 28 = true → 
      Answers (.cspmAbort who) d fun t =>
        (d.secure who = false → t = d.refuseWrite who Reg.cspMCmd) ∧
        (∀ r, d.secure who = true → d.csp.run = some r → t = { d with csp := { d.csp with run := some { r with stop := if r.stop = 0 then 4 else r.stop } } }) ∧
        (d.secure who = true → d.csp.run = none → t = d)) ∧
    (∀ (d : Dev) (data : List Byte) (n : Nat), 
      Answers (.cspmRequestDone data n) d fun t =>
        (d.csp.run = none → t = d) ∧
        (∀ r off count, d.csp.run = some r → off = (r.len != 0 && !d.memUp r.mem r.len) → count = (if r.send then min n r.len else min data.length r.len) →
        (r.clkHeld = true ∨ (r.stop = 0 ∧ off = false ∧ count ≠ r.len)) → t = d) ∧
        (∀ r off count held g e f h, d.csp.run = some r → off = (r.len != 0 && !d.memUp r.mem r.len) → count = (if r.send then min n r.len else min data.length r.len) →
        r.clkHeld = false → (r.stop ≠ 0 ∨ off = true ∨ count = r.len) →
        held = (d.pins.held.getD 2 none).isSome →
        g = { d with csp := { d.csp with run := none } } →
        e = (if held then g else g.emit (.cspm { r.frame with data := { r.frame.data with octets := if r.send then g.bytes r.mem count else [] } })) →
        f = (if r.send then e else if held then (e.free (8 * count)).2.setBytes r.mem (natLe count (e.free (8 * count)).1) else e.setBytes r.mem (data.take count)) →
        h = (if off then f.bump Fld.cspMStat_memFaults else f) →
        t = (((h.wr Fld.cspMStatus_busy 0).wr Fld.cspMStatus_result (if off then 3 else r.stop)).wr Fld.cspMStatus_bytes count).raise 0x58)) ∧
    (∀ (d : Dev), 
      Answers .cspmRdyRise d fun t =>
        (∀ r, d.csp.run = some r → t = { d with csp := { d.csp with run := some { r with clkHeld := false } } }) ∧
        (d.csp.run = none → t = d)) ∧
    (∀ (d : Dev), 
      Answers .cspmRdyTimeout d fun t =>
        (∀ slot, d.boot.phase = .header slot ∨ d.boot.phase = .image slot → t = d.slotFail slot 0x26) ∧
        (∀ r, (∀ slot, d.boot.phase ≠ .header slot ∧ d.boot.phase ≠ .image slot) → d.csp.run = some r → r.rdyEn = true → r.stop = 0 →
        t = ({ d with csp := { d.csp with run := some { r with stop := 1, clkHeld := false } } } : Dev).bump Fld.cspMStat_rdyTimeouts) ∧
        ((∀ slot, d.boot.phase ≠ .header slot ∧ d.boot.phase ≠ .image slot) → (∀ r, d.csp.run = some r → r.rdyEn = false ∨ r.stop ≠ 0) → t = d)) ∧
    (∀ (d : Dev) (f : CspsFrame) (reads : Bool) (r : Dev × List Byte), (reads = (cspsCmdOk f.cmd && f.cmd % 16 = 2 && decide (cspsHeadEdges f.cmd ≤ f.edges) && cspsRangeOk (beAt f.body 0 4) (beAt f.body 4 2) && !(f.viol.any fun k => k ≤ cspsHeadEdges f.cmd))) → r = d.cspsCommit.cspsReads (beAt f.body 0 4) f.fails (beAt f.body 4 2 / 4) → 
      Answers (.cspsWrite f) d fun t =>
        ((f.edges = 0 ∨ d.cspsReady = false) → t = d.pump) ∧
        (∀ c, f.edges ≠ 0 → d.cspsReady = true → cspsCause f = some c → reads = true →
        t = (r.1.cspsDiscard f c d.cspsStatus (cspsDriven f (cspsHeadEdges f.cmd) r.2)).pump) ∧
        (∀ c, f.edges ≠ 0 → d.cspsReady = true → cspsCause f = some c → reads = false →
        t = (d.cspsDiscard f c d.cspsStatus (if cspsCmdOk f.cmd && f.cmd % 16 = 5 then cspsDriven f 8 d.fastWindow else [])).pump) ∧
        (∀ e : Dev, f.edges ≠ 0 → d.cspsReady = true → cspsCause f = none → f.cmd % 16 = 1 → e = d.cspsCommit →
        t = (({ e with csp := { e.csp with commit := some (beAt f.body 0 4, (List.range (beAt f.body 4 2 / 4)).map fun i => leAt f.body (6 + 4 * i) 4), commitFails := f.fails } } : Dev).cspsGood f d.cspsStatus []).pump) ∧
        (f.edges ≠ 0 → d.cspsReady = true → cspsCause f = none → f.cmd % 16 = 2 → t = (r.1.cspsGood f d.cspsStatus r.2).pump) ∧
        (f.edges ≠ 0 → d.cspsReady = true → cspsCause f = none → f.cmd % 16 ≠ 1 → f.cmd % 16 ≠ 2 →
        t = (d.cspsGood f d.cspsStatus ((natLe 4 (d.reg Reg.sysBootStatus).toNat ++ natLe 4 (d.reg Reg.cspSErr).toNat).take ((f.edges - 8) * cspsLanes f.cmd / 8))).pump)) ∧
    (∀ (d : Dev) (f : CspsFrame) (reads : Bool) (r : Dev × List Byte), (reads = (cspsCmdOk f.cmd && f.cmd % 16 = 2 && decide (cspsHeadEdges f.cmd ≤ f.edges) && cspsRangeOk (beAt f.body 0 4) (beAt f.body 4 2) && !(f.viol.any fun k => k ≤ cspsHeadEdges f.cmd))) → r = d.cspsCommit.cspsReads (beAt f.body 0 4) f.fails (beAt f.body 4 2 / 4) → 
      Answers (.cspsRead f) d fun t =>
        ((f.edges = 0 ∨ d.cspsReady = false) → t = d.pump) ∧
        (∀ c, f.edges ≠ 0 → d.cspsReady = true → cspsCause f = some c → reads = true →
        t = (r.1.cspsDiscard f c d.cspsStatus (cspsDriven f (cspsHeadEdges f.cmd) r.2)).pump) ∧
        (∀ c, f.edges ≠ 0 → d.cspsReady = true → cspsCause f = some c → reads = false →
        t = (d.cspsDiscard f c d.cspsStatus (if cspsCmdOk f.cmd && f.cmd % 16 = 5 then cspsDriven f 8 d.fastWindow else [])).pump) ∧
        (∀ e : Dev, f.edges ≠ 0 → d.cspsReady = true → cspsCause f = none → f.cmd % 16 = 1 → e = d.cspsCommit →
        t = (({ e with csp := { e.csp with commit := some (beAt f.body 0 4, (List.range (beAt f.body 4 2 / 4)).map fun i => leAt f.body (6 + 4 * i) 4), commitFails := f.fails } } : Dev).cspsGood f d.cspsStatus []).pump) ∧
        (f.edges ≠ 0 → d.cspsReady = true → cspsCause f = none → f.cmd % 16 = 2 → t = (r.1.cspsGood f d.cspsStatus r.2).pump) ∧
        (f.edges ≠ 0 → d.cspsReady = true → cspsCause f = none → f.cmd % 16 ≠ 1 → f.cmd % 16 ≠ 2 →
        t = (d.cspsGood f d.cspsStatus ((natLe 4 (d.reg Reg.sysBootStatus).toNat ++ natLe 4 (d.reg Reg.cspSErr).toNat).take ((f.edges - 8) * cspsLanes f.cmd / 8))).pump)) ∧
    (∀ (d : Dev) (f : CspsFrame) (reads : Bool) (r : Dev × List Byte), (reads = (cspsCmdOk f.cmd && f.cmd % 16 = 2 && decide (cspsHeadEdges f.cmd ≤ f.edges) && cspsRangeOk (beAt f.body 0 4) (beAt f.body 4 2) && !(f.viol.any fun k => k ≤ cspsHeadEdges f.cmd))) → r = d.cspsCommit.cspsReads (beAt f.body 0 4) f.fails (beAt f.body 4 2 / 4) → 
      Answers (.fstat f) d fun t =>
        ((f.edges = 0 ∨ d.cspsReady = false) → t = d.pump) ∧
        (∀ c, f.edges ≠ 0 → d.cspsReady = true → cspsCause f = some c → reads = true →
        t = (r.1.cspsDiscard f c d.cspsStatus (cspsDriven f (cspsHeadEdges f.cmd) r.2)).pump) ∧
        (∀ c, f.edges ≠ 0 → d.cspsReady = true → cspsCause f = some c → reads = false →
        t = (d.cspsDiscard f c d.cspsStatus (if cspsCmdOk f.cmd && f.cmd % 16 = 5 then cspsDriven f 8 d.fastWindow else [])).pump) ∧
        (∀ e : Dev, f.edges ≠ 0 → d.cspsReady = true → cspsCause f = none → f.cmd % 16 = 1 → e = d.cspsCommit →
        t = (({ e with csp := { e.csp with commit := some (beAt f.body 0 4, (List.range (beAt f.body 4 2 / 4)).map fun i => leAt f.body (6 + 4 * i) 4), commitFails := f.fails } } : Dev).cspsGood f d.cspsStatus []).pump) ∧
        (f.edges ≠ 0 → d.cspsReady = true → cspsCause f = none → f.cmd % 16 = 2 → t = (r.1.cspsGood f d.cspsStatus r.2).pump) ∧
        (f.edges ≠ 0 → d.cspsReady = true → cspsCause f = none → f.cmd % 16 ≠ 1 → f.cmd % 16 ≠ 2 →
        t = (d.cspsGood f d.cspsStatus ((natLe 4 (d.reg Reg.sysBootStatus).toNat ++ natLe 4 (d.reg Reg.cspSErr).toNat).take ((f.edges - 8) * cspsLanes f.cmd / 8))).pump)) ∧
    (∀ (d : Dev), 
      Answers .cspsCommitDone d fun t =>
        (∀ a ws, d.csp.commit = some (a, ws) → t = (({ d with csp := { d.csp with commit := none } } : Dev).cspsWrites a d.csp.commitFails ws).pump) ∧
        (d.csp.commit = none → t = d.pump))

/-- A write of a register that is open to its initiator is the register's write; one that is not has no effect from a core
and is recorded for the host, as a decode error or with the domain that is off; a read of an open register leaves its
value as an output and clears its RC fields; a read of a low word returns it and latches the high word; a read that is
not open gives 0, and to the host all ones where the domain is off; a host access through BAR0 or BAR2 is the same
access at the host's offset, once its word has been read again; offsets of the doorbells ring them, those of the MSI-X
table write it, and the rest are decode errors; a link that comes up while the PCI Express domain is up sets the link
and takes the host's MSI-X and bus master settings, which are operands of the command (the model's choice, log entry
21). -/
def Obligations.AccessesReachTheirRegisters : Prop :=
    (∀ (d : Dev) (who : Initiator) (a : Nat) (w : Word), a % 4 = 0 → 
      Answers (.registerWrite who a w) d fun t =>
        (isControl a = false → t = d) ∧
        (isControl a = true → d.regTarget who a = .open → t = (d.regWrite who a w).pump) ∧
        (isControl a = true → who ≠ .host → d.regTarget who a ≠ .open → t = d.pump) ∧
        (isControl a = true → who = .host → (d.regTarget who a = .denied ∨ d.regTarget who a = .reserved) → t = (d.errDecode who 0 true (a - 0x20000000)).pump) ∧
        (∀ n, isControl a = true → who = .host → d.regTarget who a = .off n → t = (d.errGhost 0 true (a - 0x20000000) n).pump)) ∧
    (∀ (d : Dev) (who : Initiator) (a : Nat), a % 4 = 0 → 
      Answers (.rcFieldRead who a) d fun t =>
        (isControl a = false → t = d) ∧
        (∀ r k e, isControl a = true → d.regTarget who a = .open → elemOf a Reg.irqClaimR 4 8 = none → alGet a d.latch = none → hiOf a = none →
        regAt a = some (r, k) → r.rc ≠ 0 → e = d.setReg a (BitVec.ofNat 32 ((d.reg a).toNat &&& (0xFFFFFFFF ^^^ r.rc))) →
        t = e.emit (.readData who a (d.peek a).toNat)) ∧
        (∀ e v, isControl a = true → d.regTarget who a = .open → d.regRead who a = (e, v) → t = e.emit (.readData who a v.toNat)) ∧
        (isControl a = true → who ≠ .host → d.regTarget who a ≠ .open → t = d.emit (.readData who a 0)) ∧
        (isControl a = true → who = .host → d.regTarget who a = .denied → t = d.emit (.readData who a 0)) ∧
        (isControl a = true → who = .host → d.regTarget who a = .reserved → t = (d.errDecode who 0 false (a - 0x20000000)).emit (.readData who a 0)) ∧
        (∀ n, isControl a = true → who = .host → d.regTarget who a = .off n → t = (d.errGhost 0 false (a - 0x20000000) n).emit (.readData who a 0xFFFFFFFF))) ∧
    (∀ (d : Dev) (who : Initiator) (a : Nat), a % 4 = 0 → 
      Answers (.loWordRead who a) d fun t =>
        (isControl a = false → t = d) ∧
        (∀ h r k e, isControl a = true → d.regTarget who a = .open → elemOf a Reg.irqClaimR 4 8 = none → alGet a d.latch = none → hiOf a = some h →
        regAt a = some (r, k) → r.rc = 0 → e = { d with latch := alSet h (d.peek h) d.latch } → t = e.emit (.readData who a (d.peek a).toNat)) ∧
        (∀ e v, isControl a = true → d.regTarget who a = .open → d.regRead who a = (e, v) → t = e.emit (.readData who a v.toNat)) ∧
        (isControl a = true → who ≠ .host → d.regTarget who a ≠ .open → t = d.emit (.readData who a 0)) ∧
        (isControl a = true → who = .host → d.regTarget who a = .denied → t = d.emit (.readData who a 0)) ∧
        (isControl a = true → who = .host → d.regTarget who a = .reserved → t = (d.errDecode who 0 false (a - 0x20000000)).emit (.readData who a 0)) ∧
        (∀ n, isControl a = true → who = .host → d.regTarget who a = .off n → t = (d.errGhost 0 false (a - 0x20000000) n).emit (.readData who a 0xFFFFFFFF))) ∧
    (∀ (d : Dev) (bar2 : Bool) (off : Nat) (data : Option Word) (fails : Nat) (o a : Nat) (x : Dev × FetchOutcome), off % 4 = 0 → o = off % 2 ^ 25 → a = 0x20000000 + o → x = d.pathFetch a fails → 
      Answers (.hostBarAccess bar2 off data fails) d fun t =>
        (∀ w, data = some w → bar2 = true → t = (d.bar2Write .host (off % 2 ^ 21) w fails).pump) ∧
        (∀ e v, data = none → bar2 = true → d.bar2Read .host (off % 2 ^ 21) fails = (e, v) → t = e.emit (.readData .host off v.toNat)) ∧
        (∀ w, data = some w → bar2 = false → o < 0x140000 → d.regTarget .host a = .open → x.2 = FetchOutcome.exhausted → t = x.1.pump) ∧
        (∀ w, data = some w → bar2 = false → o < 0x140000 → d.regTarget .host a = .open → x.2 ≠ FetchOutcome.exhausted → x.1.regTarget .host a = .open →
        t = (x.1.regWrite .host a w).pump) ∧
        (∀ w, data = some w → bar2 = false → o < 0x140000 → (d.regTarget .host a = .denied ∨ d.regTarget .host a = .reserved) → t = (d.errDecode .host 0 true o).pump) ∧
        (∀ w n, data = some w → bar2 = false → o < 0x140000 → d.regTarget .host a = .off n → t = (d.errGhost 0 true o n).pump) ∧
        (∀ w, data = some w → bar2 = false → 0x1000000 ≤ o → o < 0x1000200 → t = (d.doorbellWrite ((o - 0x1000000) / 4) w.toNat).pump) ∧
        (∀ w, data = some w → bar2 = false → 0x1001000 ≤ o → o < 0x1001400 → t = (if d.domUp 26 then d.msixWrite ((o - 0x1001000) / 4) w else d.errGhost 0 true o 26).pump) ∧
        (∀ w, data = some w → bar2 = false → 0x140000 ≤ o → o < 0x1000000 → t = (d.errDecode .host 0 true o).pump) ∧
        (data = none → bar2 = false → o < 0x140000 → d.regTarget .host a = .open → x.2 = FetchOutcome.exhausted → t = x.1.emit (.readData .host off 0xFFFFFFFF)) ∧
        (∀ e v, data = none → bar2 = false → o < 0x140000 → d.regTarget .host a = .open → x.2 ≠ FetchOutcome.exhausted → x.1.bar0Read .host o = (e, v) →
        t = e.emit (.readData .host off v.toNat)) ∧
        (∀ e v, data = none → bar2 = false → (o < 0x140000 → d.regTarget .host a ≠ .open) → d.bar0Read .host o = (e, v) → t = e.emit (.readData .host off v.toNat))) ∧
    (∀ (d : Dev) (msix master : Bool), 
      Answers (.pcieLinkUp msix master) d fun t =>
        (d.domUp 26 = true → t = { d with pins := { d.pins with pcieLinkUp := true }, msix := { d.msix with enabled := msix, busMaster := master } }) ∧
        (d.domUp 26 = false → t = d))

/-- A core that does not execute runs nothing. For one that executes: a fetch that fails for good takes cause 7 with the
position free; a bundle whose decode fails takes its trap; a bundle that no syllable stops commits all its syllables
together and goes on at the address after it or at its branch; a syllable that traps commits nothing; one that stalls
at the alias holds the core with its temporary vote, or ends in cause 5 where the domain cannot come up; a bundle with
a P syllable is repeated. An interrupt at the core's input is taken where it executes with IE 1, and not otherwise; a
waiting core runs again at a pending interrupt, and takes it where IE is 1; an alias access whose domain is up, or
cannot come up, runs its bundle again, and any other stays. -/
def Obligations.CoresRunTheirBundles : Prop :=
    (∀ (d : Dev) (n : Nat) (r : BundleRun) (e f : Dev) (out : FetchOutcome) (c : Core), c = d.core n → f = d.setCore n { c with cycle := c.cycle + r.cycles, unseen := c.unseenAt } → f.fetch (memRes (coreBase n + c.pc)) (coreBase n + c.pc) r.fetchFails = (e, out) → 
      Answers (.bundle n r) d fun t =>
        (d.executes n = false → t = d) ∧
        (∀ x g, d.executes n = true → out = FetchOutcome.exhausted → e.free 7 = (x, g) →
        t = (g.syncTrap n { cause := 7, len := x / 8, slot := x % 8, iter := (e.core n).iter }).pump) ∧
        (∀ x, d.executes n = true → out ≠ FetchOutcome.exhausted → decodeCheck n (e.core n) (e.fetchWords n (e.core n).pc (if r.old then (e.core n).unseen else [])) = .error x → t = (e.syncTrap n x).pump) ∧
        (∀ b u, d.executes n = true → out ≠ FetchOutcome.exhausted → decodeCheck n (e.core n) (e.fetchWords n (e.core n).pc (if r.old then (e.core n).unseen else [])) = .ok b → b.rep = none →
        u = b.syls.foldl (Issue.syllable n (e.core n) r b.len false) { dev := e } →
        (u.trap = none → u.stall = none → t = (u.commitAll n b (((e.core n).pc + 4 * b.len) % 65536)).pump) ∧
        (∀ x, u.trap = some x → t = (u.dev.syncTrap n x).pump) ∧
        (∀ w g off, u.trap = none → u.stall = some w → g = (u.dev.setCore n { e.core n with stalled := some w, iter := false }).settleAll →
        off = (!(g.domUp w.dom) && ((g.dom w.dom).supplyWait || decide (30 ≤ w.dom))) →
        (off = false → t = g.pump) ∧
        (off = true → t = ((g.setCore n { g.core n with stalled := none }).syncTrap n
        ((b.syls.find? fun s => s.slot = 2).elim { cause := 5 } fun s => s.trap b.len false 5 (w.addr + 0x08000000))).settleAll.pump))) ∧
        (∀ b lc, d.executes n = true → out ≠ FetchOutcome.exhausted → decodeCheck n (e.core n) (e.fetchWords n (e.core n).pc (if r.old then (e.core n).unseen else [])) = .ok b → b.rep = some lc →
        t = (Dev.repeats n b lc (((e.core n).pc + 4 * b.len) % 65536) (r.more + 1) r e).pump)) ∧
    (∀ (d : Dev) (n : Nat), 
      Answers (.interruptTaken n) d fun t =>
        (∀ i, d.executes n = true → (d.core n).ie = true → d.irqInput n = some i → t = d.interruptTrap n i) ∧
        (d.executes n = false ∨ (d.core n).ie = false ∨ d.irqInput n = none → t = d)) ∧
    (∀ (d : Dev) (n : Nat) (e : Dev), e = d.setCore n { d.core n with run := .run } → 
      Answers (.waitEnd n) d fun t =>
        (∀ i, n < 8 → d.domUp (2 + n) = true → (d.core n).run = .wait → d.irqInput n = some i →
        t = if (d.core n).ie then e.interruptTrap n i else e) ∧
        (8 ≤ n ∨ d.domUp (2 + n) = false ∨ (d.core n).run ≠ .wait ∨ d.irqInput n = none → t = d)) ∧
    (∀ (d : Dev) (n : Nat) (r : BundleRun), 
      Answers (.aliasAccessComplete n r) d fun t =>
        (∀ w, n < 8 → d.domUp (2 + n) = true → (d.core n).stalled = some w → d.domUp w.dom = true ∨ (d.dom w.dom).supplyWait = true →
        t = ((d.setCore n { d.core n with stalled := none }).bundleRun n r).pump.settleAll) ∧
        (8 ≤ n ∨ d.domUp (2 + n) = false ∨ (∀ w, (d.core n).stalled = some w → d.domUp w.dom = false ∧ (d.dom w.dom).supplyWait = false) → t = d))

/-- For an AMOV that its predicate lets act, with v the accumulator for SH = 0 and else the floor of (accumulator +
2^(SH-1)) / 2^SH: the data register becomes v clamped to -2^31 to 2^31 - 1; STATUS gets bit 6 exactly where the clamp
changes v, and no other register of the core changes. An M syllable with OP 0x18 and SH from 41 to 63 decodes to
nothing; with SH to 40 and its low five bits 0 it decodes to AMOV of its fields. -/
def Obligations.AmovExtractsAsItsRuleGives : Prop :=
 (∀ (n : Nat) (c k : Core) (u : Issue) (s : Syllable) (i dd sh : Nat) (v : Int),
     s.op = .amov i dd sh → c.pq s.pr ≠ s.pn → dd < k.d.length →
     v = (if sh = 0 then (c.ac i).toInt else ((c.ac i).toInt + 2 ^ (sh - 1)) / 2 ^ sh) →
     (Core.commit n c u s k).dr dd = BitVec.ofInt 32 (max (-2 ^ 31) (min v (2 ^ 31 - 1))) ∧
     (Core.commit n c u s k).status = (if v < -2 ^ 31 ∨ 2 ^ 31 - 1 < v then k.status ||| 64#32 else k.status) ∧
     (∀ j, j ≠ dd → (Core.commit n c u s k).dr j = k.dr j) ∧
     Core.commit n c u s k = { k with d := (Core.commit n c u s k).d, status := (Core.commit n c u s k).status }) ∧
   (∀ w, sylOp w = 0x18 → 41 ≤ bitsOf w 10 5 → decodeM w = none) ∧
   (∀ w, sylOp w = 0x18 → bitsOf w 10 5 ≤ 40 → bitsOf w 4 0 = 0 →
     decodeM w = some (.amov (bitsOf w 17 16) (bitsOf w 15 11) (bitsOf w 10 5)))

/-- RETT that its predicate lets act gives STATUS the value that TRAPSTATUS reads and the branch to TRAPPC with no push;
it is refused with PRIV_FAULT exactly in the user state, or in the normal state with TRAPSTATUS.NS = 0; a write of
STATUS with INTRAP 0 clears INTRAP. -/
def Obligations.RettReturnsAsItsRuleGives : Prop :=
 (∀ (n : Nat) (c k : Core) (u : Issue) (s : Syllable), s.op = .rett → c.pq s.pr ≠ s.pn →
     Core.commit n c u s k = { k with status := c.sysRead n 1 } ∧ c.branch s = some (c.trapPc, false)) ∧
   (∀ (n : Nat) (c : Core), (4 ≤ n → c.ns = true) →
     (CoreOp.rett.privFault c n = true ↔ c.priv = false ∨ (c.ns = true ∧ (c.sysRead n 1).toNat.testBit 2 = false))) ∧
   (∀ (c : Core) (w : Word), w.toNat.testBit 4 = false → (c.sysWrite 0 w).intrap = false)

/-- With p the signed product, or the sum of the products of the halves, of the operands: the accumulator becomes (CLR ? 0
: a) + (SUB ? -p : p) modulo 2^72, the others keep their values, and its sticky bit is set exactly where the exact sum
lies outside -2^71 to 2^71 - 1. FMAC, in W, H2 and HC, takes its words from X at px and Y at py, or ALIGN_FAULT at a
pointer that is not a multiple of 4; it accumulates in the same way, HC with the real part into a[ACC] and the
imaginary part into a[ACC + 1], and adds the steps of XMOD and YMOD to the pointers' values before the bundle modulo
2^17. No data register changes. -/
def Obligations.MultiplyAccumulateFollowsItsRules : Prop :=
 (∀ (n : Nat) (c k : Core) (u : Issue) (s : Syllable) (h2 sub clr : Bool) (i a b : Nat) (p e : Int),
     s.op = .mac h2 i sub clr a b → c.pq s.pr ≠ s.pn → i < k.acc.length →
     p = (if h2 then loHalf (c.dr a) * loHalf (c.dr b) + hiHalf (c.dr a) * hiHalf (c.dr b) else (c.dr a).toInt * (c.dr b).toInt) →
     e = (if clr then 0 else (c.ac i).toInt) + (if sub then -p else p) →
     (Core.commit n c u s k).ac i = BitVec.ofInt 72 e ∧
     (∀ j, j ≠ i → (Core.commit n c u s k).ac j = k.ac j) ∧
     (Core.commit n c u s k).status = (if e < -2 ^ 71 ∨ 2 ^ 71 - 1 < e then k.status ||| BitVec.ofNat 32 (2 ^ (8 + i)) else k.status) ∧
     Core.commit n c u s k = { k with acc := (Core.commit n c u s k).acc, status := (Core.commit n c u s k).status }) ∧
   (∀ (n : Nat) (c k : Core) (u : Issue) (s : Syllable) (kind : FmacKind) (i px py xm ym : Nat) (sub clr : Bool) (p q e f : Int),
     s.op = .fmac kind i px py xm ym sub clr → c.pq s.pr ≠ s.pn → px < 4 → py < 4 → k.px.length = 4 → k.py.length = 4 → i < k.acc.length → (kind = .hc → i + 1 < k.acc.length) →
     p = (match kind with
       | .w => u.x.toInt * u.y.toInt
       | .h2 => loHalf u.x * loHalf u.y + hiHalf u.x * hiHalf u.y
       | .hc => loHalf u.x * loHalf u.y - hiHalf u.x * hiHalf u.y) →
     q = loHalf u.x * hiHalf u.y + hiHalf u.x * loHalf u.y →
     e = (if clr then 0 else (c.ac i).toInt) + (if sub then -p else p) →
     f = (if clr then 0 else (c.ac (i + 1)).toInt) + (if sub then -q else q) →
     (Core.commit n c u s k).ac i = BitVec.ofInt 72 e ∧
     (Core.commit n c u s k).ac (i + 1) = (if kind = .hc then BitVec.ofInt 72 f else k.ac (i + 1)) ∧
     (∀ j, j ≠ i → j ≠ i + 1 → (Core.commit n c u s k).ac j = k.ac j) ∧
     (xm ≠ 0 → (Core.commit n c u s k).ptr px = (c.ptr px + modStep xm) % 2 ^ 17) ∧
     (xm = 0 → (Core.commit n c u s k).ptr px = k.ptr px) ∧
     (ym ≠ 0 → (Core.commit n c u s k).ptr (4 + py) = (c.ptr (4 + py) + modStep ym) % 2 ^ 17) ∧
     (ym = 0 → (Core.commit n c u s k).ptr (4 + py) = k.ptr (4 + py)) ∧
     (Core.commit n c u s k).d = k.d ∧
     (Core.commit n c u s k).status = (let st := if e < -2 ^ 71 ∨ 2 ^ 71 - 1 < e then k.status ||| BitVec.ofNat 32 (2 ^ (8 + i)) else k.status
       if kind = .hc ∧ (f < -2 ^ 71 ∨ 2 ^ 71 - 1 < f) then st ||| BitVec.ofNat 32 (2 ^ (8 + (i + 1))) else st)) ∧
   (∀ (n len ax ay : Nat) (it : Bool) (c : Core) (r : BundleRun) (u : Issue) (s : Syllable) (kind : FmacKind) (i px py xm ym : Nat) (sub clr : Bool),
     s.op = .fmac kind i px py xm ym sub clr → c.pq s.pr ≠ s.pn → u.trap = none → u.stall = none → r.xFails = 0 → r.yFails = 0 →
     ax = coreBase n + 0x20000 + c.ptr px → ay = coreBase n + 0x40000 + c.ptr (4 + py) →
     u.syllable n c r len it s = (if ax % 4 ≠ 0 then { u with trap := some (s.trap len it 6 ax) }
       else if ay % 4 ≠ 0 then { u with trap := some (s.trap len it 6 ay) }
       else { u with x := BitVec.ofNat 32 (u.dev.le ax 4), y := BitVec.ofNat 32 (u.dev.le ay 4) }))

/-- For a core that is not in a trap, a synchronous trap of cause k: TRAPPC is the PC, TRAPSTATUS is STATUS, TRAPCAUSE,
TRAPINST and TRAPADDR are the trap's; IE becomes 0, PRIV and INTRAP 1, NS becomes 0 for SMC on C0-C3 and is else
unchanged; PC is the vector base of the new state + 16 k modulo 64 KB; data registers, accumulators, pointers,
predicates, loop counts, return stack and memory stay. With INTRAP = 1 the core stops with the bundle address in its
stop PC and interrupt 136 + n is set. -/
def Obligations.TrapsEnterAsTheirRuleGives : Prop :=
 ∀ (d : Dev) (n : Nat) (x : CoreTrap), n < 8 → d.cores.length = 8 → x.cause < 16 →
     ((d.core n).intrap = false → ∃ k, (d.syncTrap n x) = d.setCore n k ∧ (d.syncTrap n x).core n = k ∧
       k.trapPc = (d.core n).pc ∧ k.trapStatus = (d.core n).status ∧ k.trapCause = x.cause ∧
       k.trapInst = BitVec.ofNat 32 x.inst ∧ k.trapAddr = BitVec.ofNat 32 x.addr ∧ k.lastCause = x.cause ∧
       k.ie = false ∧ k.priv = true ∧ k.intrap = true ∧
       k.ns = (if x.cause = 0xB ∧ n < 4 then false else (d.core n).ns) ∧
       k.pc = ((if k.ns then (d.core n).vbaseNS else (d.core n).vbaseS) + 16 * x.cause) % 65536 ∧
       k.d = (d.core n).d ∧ k.acc = (d.core n).acc ∧ k.px = (d.core n).px ∧ k.py = (d.core n).py ∧ k.q = (d.core n).q ∧
       k.lcnt = (d.core n).lcnt ∧ k.rs = (d.core n).rs ∧ k.vbaseS = (d.core n).vbaseS ∧ k.vbaseNS = (d.core n).vbaseNS ∧
       ∀ a, (d.syncTrap n x).byte a = d.byte a) ∧
     ((d.core n).intrap = true → d.syncTrap n x =
       (d.setCore n { d.core n with run := .stopped, stopPc := (d.core n).pc, iter := false }).setIrq (136 + n))

/-- The words 0x005C6020 and 0x90640000 are MOVI d3, 32 with ACLR a0; 0x80C00300 is MOVL LCNT0, d3; 0x50000000 and
0x90440500 are FMAC.H2 of a0, px0 and py0 with post-modification by 4, repeated by LCNT0; 0x90602840 is AMOV d5 of a0
with SH 2. A bundle without a stop bit within nine syllables is reserved. -/
def Obligations.WorkedBundlesDecode : Prop :=
 (∃ a b, decodeBundle 0 [0x005C6020, 0x90640000] = .ok { len := 2, syls := [a, b] } ∧ a.op = .movi 3 32#32 ∧ b.op = .aclr 0) ∧
   (∃ a, decodeBundle 0 [0x80C00300] = .ok { len := 1, syls := [a] } ∧ a.op = .movl 0 3) ∧
   (∃ a, decodeBundle 0 [0x50000000, 0x90440500] = .ok { len := 2, rep := some 0, syls := [a] } ∧ a.op = .fmac .h2 0 0 0 1 1 false false) ∧
   (∃ a, decodeBundle 0 [0x90602840] = .ok { len := 1, syls := [a] } ∧ a.op = .amov 0 5 2) ∧
   decodeBundle 0 (List.replicate 9 0x10640000) = .error (1, 0x10640000, 0)

/-- For every command c, queue q and device d: one step with c in front of q is exec c on d with the queue q. No row of
the command table gives bits, so no word decodes to a command and placing a word changes nothing. -/
def Obligations.TheFrontCommandRunsFirst : Prop :=
 (∀ (c : Instr) (q : List Instr) (d : Dev), step { pending := c :: q, dev := d } = exec c { pending := q, dev := d }) ∧
   (∀ (s : State) (n w : Nat), decodeTableWord n w = none ∧ s.withFetchWord n w = s)

/-- On an empty queue a step answers a next state whose queue is empty: the tick of the device. While PORST_N is low the
tick changes nothing. That a step on an empty queue is one tick is the model's choice, log entry 1. -/
def Obligations.AnEmptyQueuePassesATick : Prop :=
 ∀ d : Dev, ∃ t : Dev, step { pending := [], dev := d } = .next { pending := [], dev := t } ∧ t = d.tick ∧
   (d.pins.porstLow = true → t = d)

/-- For every command c there is a function of the device such that, whatever waits in the queue, exec c answers a next
state with the same queue and with that function of the device: no command faults or is refused in any state, and none
reads or writes the queue. -/
def Obligations.EveryCommandCompletesAndKeepsTheQueue : Prop :=
 ∀ c : Instr, ∃ f : Dev → Dev, ∀ (q : List Instr) (d : Dev), exec c { pending := q, dev := d } = .next { pending := q, dev := f d }

/-- There is a function that gives the effect of every command on the device, with which exec answers, such that k steps
from a device with k commands cs ahead of q lead to the queue q and to the device on which the effects of cs have been
carried out in their order. -/
def Obligations.QueuedCommandsRunInTheirOrder : Prop :=
 ∃ f : Instr → Dev → Dev, (∀ (c : Instr) (q : List Instr) (d : Dev), exec c { pending := q, dev := d } = .next { pending := q, dev := f c d }) ∧
   ∀ (cs q : List Instr) (d : Dev), Steps cs.length { pending := cs ++ q, dev := d } { pending := q, dev := cs.foldl (fun e c => f c e) d }

/-- State.reset has an empty queue, lists no register and no byte of memory, so every register reads its reset value and
every byte 0, and meets the invariant: canonical register and memory lists, eight cores with registers of their
widths, the application cores in the normal state. -/
def Obligations.ResetMeetsTheInvariant : Prop :=
 State.reset.inv ∧ State.reset.pending = [] ∧ State.reset.dev.regs = [] ∧ State.reset.dev.mem = [] ∧
   (∀ a, State.reset.dev.reg a = regReset a) ∧ (∀ a, State.reset.dev.byte a = 0)

/-- After reset PWR_DRAIN_MAX reads 100, NDT_CFG 0x333, NDT_OUT_SKIP 0x10000, KEY_MASK 4, IRQ_SGI 0. -/
def Obligations.ResetGivesTheRegistersTheirValues : Prop :=
 State.reset.dev.reg Reg.pwrDrainMax = 0x64#32 ∧ State.reset.dev.reg Reg.ndtCfg = 0x333#32 ∧
   State.reset.dev.reg Reg.ndtOutSkip = 0x10000#32 ∧ State.reset.dev.reg Reg.keyMask = 4#32 ∧ State.reset.dev.reg Reg.irqSgi = 0#32

/-- From every state that meets the invariant, whatever waits in its queue, a step answers a next state that meets it:
registers and memory list rising addresses and no entry equal to what an unlisted address reads as; each of the eight
cores keeps 32 data registers, 4 accumulators, 8 pointers of 17 bits, 8 predicates, 2 loop counts of 32 bits, at most
16 return addresses, a PC that is a multiple of 4 below 64 KB and vector bases that are multiples of 256; and C4-C7
stay in the normal state. -/
def Obligations.EveryStepKeepsTheInvariant : Prop :=
 ∀ s : State, s.inv → ∃ t : State, step s = .next t ∧ t.inv

/-- On a device whose register store is canonical: after a field of a register is written it reads the written value
modulo its width; every register at another address, and every field of the same register in other bits, reads as
before; a counter field bumped reads one more, or its greatest value; the store stays canonical and nothing but the
registers changes. -/
def Obligations.RegisterStoresAreExact : Prop :=
 ∀ (d : Dev) (f g : Field) (v i j : Nat), d.inv → f.lo + f.n ≤ 32 → g.lo + g.n ≤ 32 →
   (d.wr f v i).rd f i = v % 2 ^ f.n ∧
   (∀ a, a ≠ f.at i → (d.wr f v i).reg a = d.reg a) ∧
   (f.lo + f.n ≤ g.lo ∨ g.lo + g.n ≤ f.lo → (d.wr f v i).rd g j = d.rd g j) ∧
   (d.rd f i ≤ 2 ^ f.n - 1 → (d.bump f i).rd f i = min (d.rd f i + 1) (2 ^ f.n - 1)) ∧
   (d.wr f v i).inv ∧ d.wr f v i = { d with regs := (d.wr f v i).regs }

/-- On a device whose memory is canonical: after n bytes of v are stored at an address, the n bytes there read v modulo
2^(8n) in little-endian order; every byte outside those n reads as before; memory stays canonical and nothing but
memory changes; and two canonical memories that read alike at every address are equal. -/
def Obligations.MemoryStoresAreExact : Prop :=
 (∀ (d : Dev) (a n v : Nat), d.inv → (d.setLe a n v).le a n = v % 2 ^ (8 * n) ∧
     (∀ b, b < a ∨ a + n ≤ b → (d.setLe a n v).byte b = d.byte b) ∧
     (∀ j, j < n → ((d.setLe a n v).byte (a + j)).toNat = v / 2 ^ (8 * j) % 256) ∧
     Memory.wf (d.setLe a n v).mem = true ∧ d.setLe a n v = { d with mem := (d.setLe a n v).mem }) ∧
   (∀ d e : Dev, d.inv → e.inv → (∀ a, d.byte a = e.byte a) → d.mem = e.mem)

/-- In the word that a plain write stores: a bit of RW takes the written bit; a bit of RWL takes it while the lock is open
and keeps its value once the lock is set; a W1C bit stays set only where a 0 is written; a W1S bit becomes set where a
1 is written; every other bit, read-only and reserved ones among them, keeps its value. -/
def Obligations.AccessCodesRuleEachBit : Prop :=
 ∀ (r : RegRow) (locked : Bool) (old w i : Nat), old < 2 ^ 32 → i < 32 →
   (r.rw.testBit i = true → r.w1c.testBit i = false → r.w1s.testBit i = false → (r.merge locked old w).testBit i = w.testBit i) ∧
   (r.rw.testBit i = false → r.rwl.testBit i = true → r.w1c.testBit i = false → r.w1s.testBit i = false →
     (r.merge locked old w).testBit i = if locked then old.testBit i else w.testBit i) ∧
   (r.rw.testBit i = false → r.rwl.testBit i = false → r.w1c.testBit i = true → r.w1s.testBit i = false →
     (r.merge locked old w).testBit i = (old.testBit i && !w.testBit i)) ∧
   (r.rw.testBit i = false → r.rwl.testBit i = false → r.w1c.testBit i = false → r.w1s.testBit i = true →
     (r.merge locked old w).testBit i = (old.testBit i || w.testBit i)) ∧
   (r.rw.testBit i = false → r.rwl.testBit i = false → r.w1c.testBit i = false → r.w1s.testBit i = false →
     (r.merge locked old w).testBit i = old.testBit i)

/-- PWR_DRAIN_MAX has reset value 0x64 in domain D0. A write by any initiator with LIMIT 0 is rejected: it comes to the
record of a rejected write, and the register is not written. A write with a LIMIT from 1 to 65,535 stores it in bits
15:0 and leaves bits 31:16, which read 0, as they were, with every other register as the record of R7 leaves it; that
record is made exactly where bits 31:16 of the word are not 0. -/
def Obligations.DrainLimitTakesItsRange : Prop :=
 regReset Reg.pwrDrainMax = 100#32 ∧ (regAt Reg.pwrDrainMax).map (·.1.dom) = some 0 ∧
   (∀ (d e : Dev) (who : Initiator) (w : Word), d.inv → e = (if w.toNat < 65536 then d else d.errRsvd who false Reg.pwrDrainMax) →
     (w.toNat % 65536 = 0 → d.regWrite who Reg.pwrDrainMax w = d.errRsvd who true Reg.pwrDrainMax) ∧
     (w.toNat % 65536 ≠ 0 →
       d.regWrite who Reg.pwrDrainMax w = e.setReg Reg.pwrDrainMax ((e.reg Reg.pwrDrainMax &&& 0xFFFF0000#32) ||| (w &&& 0xFFFF#32)) ∧
       (d.regWrite who Reg.pwrDrainMax w).rd Fld.pwrDrainMax_limit = w.toNat % 65536 ∧
       ((d.regWrite who Reg.pwrDrainMax w).reg Reg.pwrDrainMax >>> 16 = e.reg Reg.pwrDrainMax >>> 16) ∧
       ∀ a, a ≠ Reg.pwrDrainMax → (d.regWrite who Reg.pwrDrainMax w).reg a = e.reg a))

/-- NDT_OUT_SKIP has reset value 0x00010000 in domain D22. A secure-state core and the host may write it: a word other
than 0 is stored, with every other register unchanged, and 0 is rejected. From another initiator the write is ignored
and recorded in ERR_DECODE. -/
def Obligations.OutgoingSkipTakesItsRange : Prop :=
 regReset Reg.ndtOutSkip = 0x10000#32 ∧ (regAt Reg.ndtOutSkip).map (·.1.dom) = some 22 ∧
   (∀ (d : Dev) (who : Initiator) (w : Word), d.inv →
     (d.secureOrHost who = true → w ≠ 0#32 → d.regWrite who Reg.ndtOutSkip w = d.setReg Reg.ndtOutSkip w ∧
       (d.regWrite who Reg.ndtOutSkip w).reg Reg.ndtOutSkip = w ∧ OnlyRegs d (d.regWrite who Reg.ndtOutSkip w) [Reg.ndtOutSkip]) ∧
     (d.secureOrHost who = true → d.regWrite who Reg.ndtOutSkip 0#32 = d.errRsvd who true Reg.ndtOutSkip) ∧
     (d.secureOrHost who = false → d.regWrite who Reg.ndtOutSkip w = d.refuseWrite who Reg.ndtOutSkip))

/-- At a NEW verdict for a frame with LQI up to 255 from the node in a slot: with LQ_KNOWN = 0, LQ becomes the frame's
LQI; else LQ plus the difference of LQI and LQ shifted right arithmetically by LQ_ALPHA, which lies from 0 to 255;
LQ_KNOWN becomes 1; LAST_RSSI, LAST_CH, LAST_BAND, LAST_PHY take the frame's values and RX_FRAMES rises by 1 up to its
greatest value. -/
def Obligations.LinkQualityFollowsItsRule : Prop :=
 ∀ (d : Dev) (s : Nat) (h : Mhr) (x : RxFrame), d.inv → x.lqi ≤ 255 →
   (d.cx s Cx.lqKnown = 0 → (d.newWriteBack s h x).cx s Cx.lq = x.lqi) ∧
   (d.cx s Cx.lqKnown = 1 → ((d.newWriteBack s h x).cx s Cx.lq : Int) = d.cx s Cx.lq + ((x.lqi : Int) - d.cx s Cx.lq) / 2 ^ d.rd Fld.ndtCfg_lqAlpha) ∧
   (d.newWriteBack s h x).cx s Cx.lqKnown = 1 ∧
   (d.newWriteBack s h x).cx s Cx.lastRssi = x.rssi % 2 ^ 8 ∧ (d.newWriteBack s h x).cx s Cx.lastCh = x.chan % 2 ^ 6 ∧
   (d.newWriteBack s h x).cx s Cx.lastBand = (if x.sub then 1 else 0) ∧ (d.newWriteBack s h x).cx s Cx.lastPhy = x.phy % 2 ^ 3 ∧
   (d.newWriteBack s h x).cx s Cx.rxFrames = min (d.cx s Cx.rxFrames + 1) 65535

/-- With the packet buffer's domain up and no parity failure: a write of BAR2 at a word offset from 0x100000 stores the
word in little-endian order at that place of the packet buffer, with every other byte, every register and every other
state unchanged, and a read there returns the four bytes; an access to the device areas below reads 0 and, unless the
boot code is BOOT_WAIT_HOST, its write is dropped and recorded in ERR_DECODE. With the domain down a read returns all
ones and both are recorded in ERR_GHOST. -/
def Obligations.TheHostReachesTheBufferWindow : Prop :=
 ∀ (d : Dev) (off : Nat) (w : Word), d.inv → off % 4 = 0 → off < 2 ^ 21 →
   (d.domUp 23 = true → 0x100000 ≤ off →
     (d.bar2Write .host off w).le (0x11000000 + off) 4 = w.toNat ∧
     (∀ b, b < 0x11000000 + off ∨ 0x11000000 + off + 4 ≤ b → (d.bar2Write .host off w).byte b = d.byte b) ∧
     d.bar2Write .host off w = { d with mem := (d.bar2Write .host off w).mem } ∧
     d.bar2Read .host off = (d, BitVec.ofNat 32 (d.le (0x11000000 + off) 4))) ∧
   (d.domUp 23 = true → off < 0x100000 → d.bar2Read .host off = (d, 0#32) ∧
     (d.rd Fld.sysBootStatus_code ≠ 2 → d.bar2Write .host off w = d.errDecode .host 1 true off)) ∧
   (d.domUp 23 = false → d.bar2Read .host off = (d.errGhost 1 false off 23, 0xFFFFFFFF#32) ∧
     d.bar2Write .host off w = d.errGhost 1 true off 23)
end

