-- ==== Sys2Proof/Laws/State.lean ====
section
/-! SUPPORT. What the primitive updates of the state write and what they leave alone: one lemma per field and update, and the
laws of registers, fields and memory. -/

namespace Sys2Proof.Machine

open Sys2Proof

/-! Sparse stores. -/

theorem spGet_lt {α : Type} [DecidableEq α] {dflt : Nat → α} {lo a : Nat} {l : List (Nat × α)}
    (h : spWf dflt lo l = true) (ha : a < lo) : spGet a l = none := by
  cases l with
  | nil => rfl
  | cons e l =>
    obtain ⟨j, w⟩ := e
    simp only [spWf, Bool.and_eq_true, decide_eq_true_eq] at h
    rw [spGet, if_neg (by omega), if_pos (by omega)]

theorem spGet_put {α : Type} {a b : Nat} {v : α} {l : List (Nat × α)} :
    spGet b (spPut a v l) = if b = a then some v else spGet b l := by
  induction l with
  | nil =>
    simp only [spPut, spGet]
    repeat' split
    all_goals first | rfl | omega
  | cons e l ih =>
    obtain ⟨j, w⟩ := e
    unfold spPut
    repeat' split
    all_goals simp only [spGet, ih]
    all_goals repeat' split
    all_goals first | rfl | omega

theorem spGet_del {α : Type} [DecidableEq α] {dflt : Nat → α} {lo a b : Nat} {l : List (Nat × α)}
    (h : spWf dflt lo l = true) : spGet b (spDel a l) = if b = a then none else spGet b l := by
  induction l generalizing lo with
  | nil => simp [spDel, spGet]
  | cons e l ih =>
    obtain ⟨j, w⟩ := e
    simp only [spWf, Bool.and_eq_true, decide_eq_true_eq] at h
    obtain ⟨⟨h1, h2⟩, h3⟩ := h
    unfold spDel
    split
    · subst_vars
      split
      · subst_vars; exact spGet_lt h3 (by omega)
      · next h => rw [spGet, if_neg (fun h' => h h'.symm)]
                  split
                  · exact spGet_lt h3 (by omega)
                  · rfl
    · split
      · split
        · subst_vars; rw [spGet, if_neg (by omega), if_pos (by omega)]
        · rfl
      · simp only [spGet, ih h3]
        split
        · rw [if_neg (by omega)]
        · split
          · rw [if_neg (by omega)]
          · rfl

theorem spGet_write {α : Type} [DecidableEq α] {dflt : Nat → α} {a b : Nat} {v : α} {l : List (Nat × α)}
    (h : spWf dflt 0 l = true) :
    (spGet b (spWrite (dflt a) a v l)).getD (dflt b) = if b = a then v else (spGet b l).getD (dflt b) := by
  unfold spWrite
  split
  · rw [spGet_del h]; split
    · subst_vars; simp [*]
    · rfl
  · rw [spGet_put]; split <;> rfl

theorem getLsbD_getBits (w : Word) (lo n i : Nat) (h : n ≤ 32) :
    ((w >>> lo) &&& ((BitVec.allOnes 32) >>> (32 - n))).getLsbD i = (decide (i < n) && w.getLsbD (lo + i)) := by
  simp only [BitVec.getLsbD_and, BitVec.getLsbD_ushiftRight, BitVec.getLsbD_allOnes]
  by_cases h1 : i < n
  · simp [h1, show 32 - n + i < 32 by omega]
  · simp [h1, show ¬ (32 - n + i < 32) by omega]

theorem getLsbD_putBits (w : Word) (lo n v i : Nat) (h : lo + n ≤ 32) :
    (putBits w lo n v).getLsbD i =
      if lo ≤ i ∧ i < lo + n then v.testBit (i - lo) else w.getLsbD i := by
  unfold putBits fieldMask
  simp only [BitVec.getLsbD_or, BitVec.getLsbD_and, BitVec.getLsbD_not, BitVec.getLsbD_shiftLeft,
    BitVec.getLsbD_ushiftRight, BitVec.getLsbD_allOnes, BitVec.getLsbD_ofNat]
  by_cases hi : i < 32
  · by_cases h1 : i < lo
    · simp [hi, h1, show ¬ lo ≤ i by omega]
    · by_cases h2 : i < lo + n
      · simp [hi, h1, h2, show lo ≤ i by omega, show 32 - n + (i - lo) < 32 by omega, show i - lo < 32 by omega]
      · simp [hi, h1, h2, show ¬ (32 - n + (i - lo) < 32) by omega]
  · simp [hi, show ¬ (lo ≤ i ∧ i < lo + n) by omega, BitVec.getLsbD_of_ge w i (by omega)]

theorem getBits_putBits_same (w : Word) (lo n v : Nat) (h : lo + n ≤ 32) :
    getBits (putBits w lo n v) lo n = v % 2 ^ n := by
  have hx : ((putBits w lo n v) >>> lo) &&& ((BitVec.allOnes 32) >>> (32 - n)) = BitVec.ofNat 32 (v % 2 ^ n) := by
    apply BitVec.eq_of_getLsbD_eq
    intro i hi
    rw [getLsbD_getBits _ _ _ _ (by omega), getLsbD_putBits _ _ _ _ _ h, BitVec.getLsbD_ofNat, Nat.testBit_mod_two_pow]
    by_cases h1 : i < n
    · simp [h1, hi, show lo + i < lo + n by omega]
    · simp [h1]
  unfold getBits
  rw [hx, BitVec.toNat_ofNat, Nat.mod_eq_of_lt]
  exact Nat.lt_of_lt_of_le (Nat.mod_lt _ (Nat.two_pow_pos _)) (Nat.pow_le_pow_right (by omega) (by omega))

theorem getBits_putBits_other (w : Word) (lo n v lo' n' : Nat) (h : lo + n ≤ lo' ∨ lo' + n' ≤ lo)
    (hl : lo + n ≤ 32) (h' : n' ≤ 32) : getBits (putBits w lo n v) lo' n' = getBits w lo' n' := by
  unfold getBits
  congr 1
  apply BitVec.eq_of_getLsbD_eq
  intro i hi
  rw [getLsbD_getBits _ _ _ _ h', getLsbD_getBits _ _ _ _ h', getLsbD_putBits _ _ _ _ _ hl]
  by_cases h1 : i < n'
  · rw [if_neg (by omega)]
  · simp [h1]

/-! The canonical form. -/

theorem spWf_mono {α : Type} [DecidableEq α] {dflt : Nat → α} {lo lo' : Nat} {l : List (Nat × α)} (hl : lo ≤ lo')
    (h : spWf dflt lo' l = true) : spWf dflt lo l = true := by
  cases l with
  | nil => rfl
  | cons e l =>
    simp only [spWf, Bool.and_eq_true, decide_eq_true_eq] at *
    exact ⟨⟨by omega, h.1.2⟩, h.2⟩

theorem spWf_put {α : Type} [DecidableEq α] {dflt : Nat → α} {lo a : Nat} {v : α} {l : List (Nat × α)} (ha : lo ≤ a)
    (hv : v ≠ dflt a) (h : spWf dflt lo l = true) : spWf dflt lo (spPut a v l) = true := by
  induction l generalizing lo with
  | nil => simp [spPut, spWf, ha, hv]
  | cons e l ih =>
    obtain ⟨j, w⟩ := e
    simp only [spWf, Bool.and_eq_true, decide_eq_true_eq] at h
    obtain ⟨⟨h1, h2⟩, h3⟩ := h
    unfold spPut
    split
    · subst_vars; simp [spWf, h1, hv, h3]
    · split
      · next hlt =>
        simp only [spWf, Bool.and_eq_true, decide_eq_true_eq]
        exact ⟨⟨ha, hv⟩, ⟨by omega, h2⟩, h3⟩
      · simp only [spWf, Bool.and_eq_true, decide_eq_true_eq]
        exact ⟨⟨h1, h2⟩, ih (by omega) h3⟩

theorem spWf_del {α : Type} [DecidableEq α] {dflt : Nat → α} {lo a : Nat} {l : List (Nat × α)}
    (h : spWf dflt lo l = true) : spWf dflt lo (spDel a l) = true := by
  induction l generalizing lo with
  | nil => rfl
  | cons e l ih =>
    obtain ⟨j, w⟩ := e
    have h' := h
    simp only [spWf, Bool.and_eq_true, decide_eq_true_eq] at h
    obtain ⟨⟨h1, h2⟩, h3⟩ := h
    unfold spDel
    split
    · exact spWf_mono (by omega) h3
    · split
      · exact h'
      · simp only [spWf, Bool.and_eq_true, decide_eq_true_eq]
        exact ⟨⟨h1, h2⟩, ih h3⟩


/-! Registers and fields. -/

theorem Dev.reg_setReg (d : Dev) (a b : Nat) (w : Word) (h : regsWf d.regs = true) :
    (d.setReg a w).reg b = if b = a then w else d.reg b := by
  unfold Dev.reg Dev.setReg
  exact spGet_write (dflt := regReset) h

theorem Dev.reg_wr (d : Dev) (f : Field) (v i b : Nat) (h : regsWf d.regs = true) :
    (d.wr f v i).reg b = if b = f.at i then putBits (d.reg b) f.lo f.n v else d.reg b := by
  unfold Dev.wr
  rw [Dev.reg_setReg _ _ _ _ h]
  split
  · subst_vars; rfl
  · rfl

/-- A field reads as what was written to it. -/
theorem Dev.rd_wr (d : Dev) (f : Field) (v i : Nat) (h : regsWf d.regs = true) (hf : f.lo + f.n ≤ 32) :
    (d.wr f v i).rd f i = v % 2 ^ f.n := by
  unfold Dev.rd
  rw [Dev.reg_wr _ _ _ _ _ h, if_pos rfl, getBits_putBits_same _ _ _ _ hf]

/-- A field of another register keeps its value. -/
theorem Dev.rd_wr_reg (d : Dev) (f g : Field) (v i j : Nat) (h : regsWf d.regs = true) (hn : g.at j ≠ f.at i) :
    (d.wr f v i).rd g j = d.rd g j := by
  unfold Dev.rd
  rw [Dev.reg_wr _ _ _ _ _ h, if_neg hn]

/-- A field of other bits of the register keeps its value. -/
theorem Dev.rd_wr_bits (d : Dev) (f g : Field) (v i j : Nat) (h : regsWf d.regs = true)
    (hb : f.lo + f.n ≤ g.lo ∨ g.lo + g.n ≤ f.lo) (hf : f.lo + f.n ≤ 32) (hg : g.n ≤ 32) :
    (d.wr f v i).rd g j = d.rd g j := by
  unfold Dev.rd
  rw [Dev.reg_wr _ _ _ _ _ h]
  split
  · exact getBits_putBits_other _ _ _ _ _ _ hb hf hg
  · rfl

theorem Dev.setReg_regsWf (d : Dev) (a : Nat) (w : Word) (h : regsWf d.regs = true) :
    regsWf (d.setReg a w).regs = true := by
  have hx : spWf regReset 0 (spWrite (regReset a) a w d.regs) = true := by
    unfold spWrite
    split
    · exact spWf_del h
    · exact spWf_put (Nat.zero_le _) ‹_› h
  exact hx

theorem Dev.wr_regsWf (d : Dev) (f : Field) (v i : Nat) (h : regsWf d.regs = true) : regsWf (d.wr f v i).regs = true :=
  Dev.setReg_regsWf _ _ _ h

/-! Memory. -/

/-- A byte reads as what was stored to it, and every other byte stays. -/
theorem Dev.byte_setByte (d : Dev) (a b : Nat) (v : Byte) (h : Memory.wf d.mem = true) :
    (d.setByte a v).byte b = if b = a then v else d.byte b := by
  unfold Dev.byte Dev.setByte
  exact spGet_write (dflt := fun _ => memDefault) h

/-! Updates that touch registers only. -/

theorem OnlyRegs.refl (d : Dev) (ex : List Nat) : OnlyRegs d d ex := ⟨rfl, fun _ _ => rfl⟩

theorem OnlyRegs.setReg (d : Dev) (a : Nat) (w : Word) (ex : List Nat) (h : regsWf d.regs = true) (ha : a ∈ ex) :
    OnlyRegs d (d.setReg a w) ex :=
  ⟨rfl, fun b hb => by rw [Dev.reg_setReg _ _ _ _ h, if_neg]; rintro rfl; exact hb ha⟩

theorem OnlyRegs.wr (d : Dev) (f : Field) (v i : Nat) (ex : List Nat) (h : regsWf d.regs = true) (ha : f.at i ∈ ex) :
    OnlyRegs d (d.wr f v i) ex := OnlyRegs.setReg _ _ _ _ h ha

theorem OnlyRegs.trans {d e t : Dev} {ex : List Nat} (h1 : OnlyRegs d e ex) (h2 : OnlyRegs e t ex) : OnlyRegs d t ex := by
  refine ⟨?_, fun a ha => (h2.2 a ha).trans (h1.2 a ha)⟩
  have := h2.1
  rw [h1.1] at this
  exact this

/-! Commands complete with what their meaning gives. -/

/-- A command whose arm runs `f` answers whatever holds of what `f` leaves. -/
theorem Answers.intro {c : Instr} {d : Dev} {P : Dev → Prop} {f : Dev → Dev} (he : ∀ s, exec c s = s.run f) (h : P (f d)) :
    Answers c d P := fun _ => ⟨_, he _, rfl, h⟩

/-- The registers of a device as it should be are in canonical form. -/
theorem Dev.inv_regs {d : Dev} (h : d.inv) : regsWf d.regs = true := by
  unfold Dev.inv at h
  exact h.1

/-- The memory of a device as it should be is in canonical form. -/
theorem Dev.inv_mem {d : Dev} (h : d.inv) : Memory.wf d.mem = true := by
  unfold Dev.inv at h
  exact h.2.1

/-! Fields of the state. -/

@[simp] theorem Dev.setReg_tmb (d : Dev) (a : Nat) (w : Word) : (d.setReg a w).tmb = d.tmb := rfl
@[simp] theorem Dev.setReg_latch (d : Dev) (a : Nat) (w : Word) : (d.setReg a w).latch = d.latch := rfl
@[simp] theorem Dev.setReg_mem (d : Dev) (a : Nat) (w : Word) : (d.setReg a w).mem = d.mem := rfl
@[simp] theorem Dev.setReg_out (d : Dev) (a : Nat) (w : Word) : (d.setReg a w).out = d.out := rfl
@[simp] theorem Dev.setReg_freeCount (d : Dev) (a : Nat) (w : Word) : (d.setReg a w).freeCount = d.freeCount := rfl
@[simp] theorem Dev.setReg_pins (d : Dev) (a : Nat) (w : Word) : (d.setReg a w).pins = d.pins := rfl
@[simp] theorem Dev.setReg_pwr (d : Dev) (a : Nat) (w : Word) : (d.setReg a w).pwr = d.pwr := rfl
@[simp] theorem Dev.setReg_cluster (d : Dev) (a : Nat) (w : Word) : (d.setReg a w).cluster = d.cluster := rfl
@[simp] theorem Dev.setReg_boot (d : Dev) (a : Nat) (w : Word) : (d.setReg a w).boot = d.boot := rfl
@[simp] theorem Dev.setReg_cores (d : Dev) (a : Nat) (w : Word) : (d.setReg a w).cores = d.cores := rfl
@[simp] theorem Dev.setReg_evr (d : Dev) (a : Nat) (w : Word) : (d.setReg a w).evr = d.evr := rfl
@[simp] theorem Dev.setReg_err (d : Dev) (a : Nat) (w : Word) : (d.setReg a w).err = d.err := rfl
@[simp] theorem Dev.setReg_msix (d : Dev) (a : Nat) (w : Word) : (d.setReg a w).msix = d.msix := rfl
@[simp] theorem Dev.setReg_rxw (d : Dev) (a : Nat) (w : Word) : (d.setReg a w).rxw = d.rxw := rfl
@[simp] theorem Dev.setReg_staging (d : Dev) (a : Nat) (w : Word) : (d.setReg a w).staging = d.staging := rfl
@[simp] theorem Dev.setReg_region (d : Dev) (a : Nat) (w : Word) : (d.setReg a w).region = d.region := rfl
@[simp] theorem Dev.setReg_duty (d : Dev) (a : Nat) (w : Word) : (d.setReg a w).duty = d.duty := rfl
@[simp] theorem Dev.setReg_otpRegion (d : Dev) (a : Nat) (w : Word) : (d.setReg a w).otpRegion = d.otpRegion := rfl
@[simp] theorem Dev.setReg_prog (d : Dev) (a : Nat) (w : Word) : (d.setReg a w).prog = d.prog := rfl
@[simp] theorem Dev.setReg_activeTables (d : Dev) (a : Nat) (w : Word) : (d.setReg a w).activeTables = d.activeTables := rfl
@[simp] theorem Dev.setReg_fifos (d : Dev) (a : Nat) (w : Word) : (d.setReg a w).fifos = d.fifos := rfl
@[simp] theorem Dev.setReg_fuses (d : Dev) (a : Nat) (w : Word) : (d.setReg a w).fuses = d.fuses := rfl
@[simp] theorem Dev.setReg_keys (d : Dev) (a : Nat) (w : Word) : (d.setReg a w).keys = d.keys := rfl
@[simp] theorem Dev.setReg_lc (d : Dev) (a : Nat) (w : Word) : (d.setReg a w).lc = d.lc := rfl
@[simp] theorem Dev.setReg_cph (d : Dev) (a : Nat) (w : Word) : (d.setReg a w).cph = d.cph := rfl
@[simp] theorem Dev.setReg_ndt (d : Dev) (a : Nat) (w : Word) : (d.setReg a w).ndt = d.ndt := rfl
@[simp] theorem Dev.setReg_gate (d : Dev) (a : Nat) (w : Word) : (d.setReg a w).gate = d.gate := rfl
@[simp] theorem Dev.setReg_pairs (d : Dev) (a : Nat) (w : Word) : (d.setReg a w).pairs = d.pairs := rfl
@[simp] theorem Dev.setReg_hci (d : Dev) (a : Nat) (w : Word) : (d.setReg a w).hci = d.hci := rfl
@[simp] theorem Dev.setReg_csp (d : Dev) (a : Nat) (w : Word) : (d.setReg a w).csp = d.csp := rfl
@[simp] theorem Dev.setReg_rfs (d : Dev) (a : Nat) (w : Word) : (d.setReg a w).rfs = d.rfs := rfl
@[simp] theorem Dev.setReg_tx (d : Dev) (a : Nat) (w : Word) : (d.setReg a w).tx = d.tx := rfl
@[simp] theorem Dev.setReg_coex (d : Dev) (a : Nat) (w : Word) : (d.setReg a w).coex = d.coex := rfl
@[simp] theorem Dev.setReg_tempo (d : Dev) (a : Nat) (w : Word) : (d.setReg a w).tempo = d.tempo := rfl
@[simp] theorem Dev.setReg_fed (d : Dev) (a : Nat) (w : Word) : (d.setReg a w).fed = d.fed := rfl
@[simp] theorem Dev.wr_tmb (d : Dev) (f : Field) (v i : Nat) : (d.wr f v i).tmb = d.tmb := rfl
@[simp] theorem Dev.wr_latch (d : Dev) (f : Field) (v i : Nat) : (d.wr f v i).latch = d.latch := rfl
@[simp] theorem Dev.wr_mem (d : Dev) (f : Field) (v i : Nat) : (d.wr f v i).mem = d.mem := rfl
@[simp] theorem Dev.wr_out (d : Dev) (f : Field) (v i : Nat) : (d.wr f v i).out = d.out := rfl
@[simp] theorem Dev.wr_freeCount (d : Dev) (f : Field) (v i : Nat) : (d.wr f v i).freeCount = d.freeCount := rfl
@[simp] theorem Dev.wr_pins (d : Dev) (f : Field) (v i : Nat) : (d.wr f v i).pins = d.pins := rfl
@[simp] theorem Dev.wr_pwr (d : Dev) (f : Field) (v i : Nat) : (d.wr f v i).pwr = d.pwr := rfl
@[simp] theorem Dev.wr_cluster (d : Dev) (f : Field) (v i : Nat) : (d.wr f v i).cluster = d.cluster := rfl
@[simp] theorem Dev.wr_boot (d : Dev) (f : Field) (v i : Nat) : (d.wr f v i).boot = d.boot := rfl
@[simp] theorem Dev.wr_cores (d : Dev) (f : Field) (v i : Nat) : (d.wr f v i).cores = d.cores := rfl
@[simp] theorem Dev.wr_evr (d : Dev) (f : Field) (v i : Nat) : (d.wr f v i).evr = d.evr := rfl
@[simp] theorem Dev.wr_err (d : Dev) (f : Field) (v i : Nat) : (d.wr f v i).err = d.err := rfl
@[simp] theorem Dev.wr_msix (d : Dev) (f : Field) (v i : Nat) : (d.wr f v i).msix = d.msix := rfl
@[simp] theorem Dev.wr_rxw (d : Dev) (f : Field) (v i : Nat) : (d.wr f v i).rxw = d.rxw := rfl
@[simp] theorem Dev.wr_staging (d : Dev) (f : Field) (v i : Nat) : (d.wr f v i).staging = d.staging := rfl
@[simp] theorem Dev.wr_region (d : Dev) (f : Field) (v i : Nat) : (d.wr f v i).region = d.region := rfl
@[simp] theorem Dev.wr_duty (d : Dev) (f : Field) (v i : Nat) : (d.wr f v i).duty = d.duty := rfl
@[simp] theorem Dev.wr_otpRegion (d : Dev) (f : Field) (v i : Nat) : (d.wr f v i).otpRegion = d.otpRegion := rfl
@[simp] theorem Dev.wr_prog (d : Dev) (f : Field) (v i : Nat) : (d.wr f v i).prog = d.prog := rfl
@[simp] theorem Dev.wr_activeTables (d : Dev) (f : Field) (v i : Nat) : (d.wr f v i).activeTables = d.activeTables := rfl
@[simp] theorem Dev.wr_fifos (d : Dev) (f : Field) (v i : Nat) : (d.wr f v i).fifos = d.fifos := rfl
@[simp] theorem Dev.wr_fuses (d : Dev) (f : Field) (v i : Nat) : (d.wr f v i).fuses = d.fuses := rfl
@[simp] theorem Dev.wr_keys (d : Dev) (f : Field) (v i : Nat) : (d.wr f v i).keys = d.keys := rfl
@[simp] theorem Dev.wr_lc (d : Dev) (f : Field) (v i : Nat) : (d.wr f v i).lc = d.lc := rfl
@[simp] theorem Dev.wr_cph (d : Dev) (f : Field) (v i : Nat) : (d.wr f v i).cph = d.cph := rfl
@[simp] theorem Dev.wr_ndt (d : Dev) (f : Field) (v i : Nat) : (d.wr f v i).ndt = d.ndt := rfl
@[simp] theorem Dev.wr_gate (d : Dev) (f : Field) (v i : Nat) : (d.wr f v i).gate = d.gate := rfl
@[simp] theorem Dev.wr_pairs (d : Dev) (f : Field) (v i : Nat) : (d.wr f v i).pairs = d.pairs := rfl
@[simp] theorem Dev.wr_hci (d : Dev) (f : Field) (v i : Nat) : (d.wr f v i).hci = d.hci := rfl
@[simp] theorem Dev.wr_csp (d : Dev) (f : Field) (v i : Nat) : (d.wr f v i).csp = d.csp := rfl
@[simp] theorem Dev.wr_rfs (d : Dev) (f : Field) (v i : Nat) : (d.wr f v i).rfs = d.rfs := rfl
@[simp] theorem Dev.wr_tx (d : Dev) (f : Field) (v i : Nat) : (d.wr f v i).tx = d.tx := rfl
@[simp] theorem Dev.wr_coex (d : Dev) (f : Field) (v i : Nat) : (d.wr f v i).coex = d.coex := rfl
@[simp] theorem Dev.wr_tempo (d : Dev) (f : Field) (v i : Nat) : (d.wr f v i).tempo = d.tempo := rfl
@[simp] theorem Dev.wr_fed (d : Dev) (f : Field) (v i : Nat) : (d.wr f v i).fed = d.fed := rfl
@[simp] theorem Dev.setByte_tmb (d : Dev) (a : Nat) (b : Byte) : (d.setByte a b).tmb = d.tmb := rfl
@[simp] theorem Dev.setByte_regs (d : Dev) (a : Nat) (b : Byte) : (d.setByte a b).regs = d.regs := rfl
@[simp] theorem Dev.setByte_latch (d : Dev) (a : Nat) (b : Byte) : (d.setByte a b).latch = d.latch := rfl
@[simp] theorem Dev.setByte_out (d : Dev) (a : Nat) (b : Byte) : (d.setByte a b).out = d.out := rfl
@[simp] theorem Dev.setByte_freeCount (d : Dev) (a : Nat) (b : Byte) : (d.setByte a b).freeCount = d.freeCount := rfl
@[simp] theorem Dev.setByte_pins (d : Dev) (a : Nat) (b : Byte) : (d.setByte a b).pins = d.pins := rfl
@[simp] theorem Dev.setByte_pwr (d : Dev) (a : Nat) (b : Byte) : (d.setByte a b).pwr = d.pwr := rfl
@[simp] theorem Dev.setByte_cluster (d : Dev) (a : Nat) (b : Byte) : (d.setByte a b).cluster = d.cluster := rfl
@[simp] theorem Dev.setByte_boot (d : Dev) (a : Nat) (b : Byte) : (d.setByte a b).boot = d.boot := rfl
@[simp] theorem Dev.setByte_cores (d : Dev) (a : Nat) (b : Byte) : (d.setByte a b).cores = d.cores := rfl
@[simp] theorem Dev.setByte_evr (d : Dev) (a : Nat) (b : Byte) : (d.setByte a b).evr = d.evr := rfl
@[simp] theorem Dev.setByte_err (d : Dev) (a : Nat) (b : Byte) : (d.setByte a b).err = d.err := rfl
@[simp] theorem Dev.setByte_msix (d : Dev) (a : Nat) (b : Byte) : (d.setByte a b).msix = d.msix := rfl
@[simp] theorem Dev.setByte_rxw (d : Dev) (a : Nat) (b : Byte) : (d.setByte a b).rxw = d.rxw := rfl
@[simp] theorem Dev.setByte_staging (d : Dev) (a : Nat) (b : Byte) : (d.setByte a b).staging = d.staging := rfl
@[simp] theorem Dev.setByte_region (d : Dev) (a : Nat) (b : Byte) : (d.setByte a b).region = d.region := rfl
@[simp] theorem Dev.setByte_duty (d : Dev) (a : Nat) (b : Byte) : (d.setByte a b).duty = d.duty := rfl
@[simp] theorem Dev.setByte_otpRegion (d : Dev) (a : Nat) (b : Byte) : (d.setByte a b).otpRegion = d.otpRegion := rfl
@[simp] theorem Dev.setByte_prog (d : Dev) (a : Nat) (b : Byte) : (d.setByte a b).prog = d.prog := rfl
@[simp] theorem Dev.setByte_activeTables (d : Dev) (a : Nat) (b : Byte) : (d.setByte a b).activeTables = d.activeTables := rfl
@[simp] theorem Dev.setByte_fifos (d : Dev) (a : Nat) (b : Byte) : (d.setByte a b).fifos = d.fifos := rfl
@[simp] theorem Dev.setByte_fuses (d : Dev) (a : Nat) (b : Byte) : (d.setByte a b).fuses = d.fuses := rfl
@[simp] theorem Dev.setByte_keys (d : Dev) (a : Nat) (b : Byte) : (d.setByte a b).keys = d.keys := rfl
@[simp] theorem Dev.setByte_lc (d : Dev) (a : Nat) (b : Byte) : (d.setByte a b).lc = d.lc := rfl
@[simp] theorem Dev.setByte_cph (d : Dev) (a : Nat) (b : Byte) : (d.setByte a b).cph = d.cph := rfl
@[simp] theorem Dev.setByte_ndt (d : Dev) (a : Nat) (b : Byte) : (d.setByte a b).ndt = d.ndt := rfl
@[simp] theorem Dev.setByte_gate (d : Dev) (a : Nat) (b : Byte) : (d.setByte a b).gate = d.gate := rfl
@[simp] theorem Dev.setByte_pairs (d : Dev) (a : Nat) (b : Byte) : (d.setByte a b).pairs = d.pairs := rfl
@[simp] theorem Dev.setByte_hci (d : Dev) (a : Nat) (b : Byte) : (d.setByte a b).hci = d.hci := rfl
@[simp] theorem Dev.setByte_csp (d : Dev) (a : Nat) (b : Byte) : (d.setByte a b).csp = d.csp := rfl
@[simp] theorem Dev.setByte_rfs (d : Dev) (a : Nat) (b : Byte) : (d.setByte a b).rfs = d.rfs := rfl
@[simp] theorem Dev.setByte_tx (d : Dev) (a : Nat) (b : Byte) : (d.setByte a b).tx = d.tx := rfl
@[simp] theorem Dev.setByte_coex (d : Dev) (a : Nat) (b : Byte) : (d.setByte a b).coex = d.coex := rfl
@[simp] theorem Dev.setByte_tempo (d : Dev) (a : Nat) (b : Byte) : (d.setByte a b).tempo = d.tempo := rfl
@[simp] theorem Dev.setByte_fed (d : Dev) (a : Nat) (b : Byte) : (d.setByte a b).fed = d.fed := rfl
@[simp] theorem Dev.emit_tmb (d : Dev) (o : Output) : (d.emit o).tmb = d.tmb := rfl
@[simp] theorem Dev.emit_regs (d : Dev) (o : Output) : (d.emit o).regs = d.regs := rfl
@[simp] theorem Dev.emit_latch (d : Dev) (o : Output) : (d.emit o).latch = d.latch := rfl
@[simp] theorem Dev.emit_mem (d : Dev) (o : Output) : (d.emit o).mem = d.mem := rfl
@[simp] theorem Dev.emit_freeCount (d : Dev) (o : Output) : (d.emit o).freeCount = d.freeCount := rfl
@[simp] theorem Dev.emit_pins (d : Dev) (o : Output) : (d.emit o).pins = d.pins := rfl
@[simp] theorem Dev.emit_pwr (d : Dev) (o : Output) : (d.emit o).pwr = d.pwr := rfl
@[simp] theorem Dev.emit_cluster (d : Dev) (o : Output) : (d.emit o).cluster = d.cluster := rfl
@[simp] theorem Dev.emit_boot (d : Dev) (o : Output) : (d.emit o).boot = d.boot := rfl
@[simp] theorem Dev.emit_cores (d : Dev) (o : Output) : (d.emit o).cores = d.cores := rfl
@[simp] theorem Dev.emit_evr (d : Dev) (o : Output) : (d.emit o).evr = d.evr := rfl
@[simp] theorem Dev.emit_err (d : Dev) (o : Output) : (d.emit o).err = d.err := rfl
@[simp] theorem Dev.emit_msix (d : Dev) (o : Output) : (d.emit o).msix = d.msix := rfl
@[simp] theorem Dev.emit_rxw (d : Dev) (o : Output) : (d.emit o).rxw = d.rxw := rfl
@[simp] theorem Dev.emit_staging (d : Dev) (o : Output) : (d.emit o).staging = d.staging := rfl
@[simp] theorem Dev.emit_region (d : Dev) (o : Output) : (d.emit o).region = d.region := rfl
@[simp] theorem Dev.emit_duty (d : Dev) (o : Output) : (d.emit o).duty = d.duty := rfl
@[simp] theorem Dev.emit_otpRegion (d : Dev) (o : Output) : (d.emit o).otpRegion = d.otpRegion := rfl
@[simp] theorem Dev.emit_prog (d : Dev) (o : Output) : (d.emit o).prog = d.prog := rfl
@[simp] theorem Dev.emit_activeTables (d : Dev) (o : Output) : (d.emit o).activeTables = d.activeTables := rfl
@[simp] theorem Dev.emit_fifos (d : Dev) (o : Output) : (d.emit o).fifos = d.fifos := rfl
@[simp] theorem Dev.emit_fuses (d : Dev) (o : Output) : (d.emit o).fuses = d.fuses := rfl
@[simp] theorem Dev.emit_keys (d : Dev) (o : Output) : (d.emit o).keys = d.keys := rfl
@[simp] theorem Dev.emit_lc (d : Dev) (o : Output) : (d.emit o).lc = d.lc := rfl
@[simp] theorem Dev.emit_cph (d : Dev) (o : Output) : (d.emit o).cph = d.cph := rfl
@[simp] theorem Dev.emit_ndt (d : Dev) (o : Output) : (d.emit o).ndt = d.ndt := rfl
@[simp] theorem Dev.emit_gate (d : Dev) (o : Output) : (d.emit o).gate = d.gate := rfl
@[simp] theorem Dev.emit_pairs (d : Dev) (o : Output) : (d.emit o).pairs = d.pairs := rfl
@[simp] theorem Dev.emit_hci (d : Dev) (o : Output) : (d.emit o).hci = d.hci := rfl
@[simp] theorem Dev.emit_csp (d : Dev) (o : Output) : (d.emit o).csp = d.csp := rfl
@[simp] theorem Dev.emit_rfs (d : Dev) (o : Output) : (d.emit o).rfs = d.rfs := rfl
@[simp] theorem Dev.emit_tx (d : Dev) (o : Output) : (d.emit o).tx = d.tx := rfl
@[simp] theorem Dev.emit_coex (d : Dev) (o : Output) : (d.emit o).coex = d.coex := rfl
@[simp] theorem Dev.emit_tempo (d : Dev) (o : Output) : (d.emit o).tempo = d.tempo := rfl
@[simp] theorem Dev.emit_fed (d : Dev) (o : Output) : (d.emit o).fed = d.fed := rfl
@[simp] theorem Dev.setCore_tmb (d : Dev) (n : Nat) (c : Core) : (d.setCore n c).tmb = d.tmb := rfl
@[simp] theorem Dev.setCore_regs (d : Dev) (n : Nat) (c : Core) : (d.setCore n c).regs = d.regs := rfl
@[simp] theorem Dev.setCore_latch (d : Dev) (n : Nat) (c : Core) : (d.setCore n c).latch = d.latch := rfl
@[simp] theorem Dev.setCore_mem (d : Dev) (n : Nat) (c : Core) : (d.setCore n c).mem = d.mem := rfl
@[simp] theorem Dev.setCore_out (d : Dev) (n : Nat) (c : Core) : (d.setCore n c).out = d.out := rfl
@[simp] theorem Dev.setCore_freeCount (d : Dev) (n : Nat) (c : Core) : (d.setCore n c).freeCount = d.freeCount := rfl
@[simp] theorem Dev.setCore_pins (d : Dev) (n : Nat) (c : Core) : (d.setCore n c).pins = d.pins := rfl
@[simp] theorem Dev.setCore_pwr (d : Dev) (n : Nat) (c : Core) : (d.setCore n c).pwr = d.pwr := rfl
@[simp] theorem Dev.setCore_cluster (d : Dev) (n : Nat) (c : Core) : (d.setCore n c).cluster = d.cluster := rfl
@[simp] theorem Dev.setCore_boot (d : Dev) (n : Nat) (c : Core) : (d.setCore n c).boot = d.boot := rfl
@[simp] theorem Dev.setCore_evr (d : Dev) (n : Nat) (c : Core) : (d.setCore n c).evr = d.evr := rfl
@[simp] theorem Dev.setCore_err (d : Dev) (n : Nat) (c : Core) : (d.setCore n c).err = d.err := rfl
@[simp] theorem Dev.setCore_msix (d : Dev) (n : Nat) (c : Core) : (d.setCore n c).msix = d.msix := rfl
@[simp] theorem Dev.setCore_rxw (d : Dev) (n : Nat) (c : Core) : (d.setCore n c).rxw = d.rxw := rfl
@[simp] theorem Dev.setCore_staging (d : Dev) (n : Nat) (c : Core) : (d.setCore n c).staging = d.staging := rfl
@[simp] theorem Dev.setCore_region (d : Dev) (n : Nat) (c : Core) : (d.setCore n c).region = d.region := rfl
@[simp] theorem Dev.setCore_duty (d : Dev) (n : Nat) (c : Core) : (d.setCore n c).duty = d.duty := rfl
@[simp] theorem Dev.setCore_otpRegion (d : Dev) (n : Nat) (c : Core) : (d.setCore n c).otpRegion = d.otpRegion := rfl
@[simp] theorem Dev.setCore_prog (d : Dev) (n : Nat) (c : Core) : (d.setCore n c).prog = d.prog := rfl
@[simp] theorem Dev.setCore_activeTables (d : Dev) (n : Nat) (c : Core) : (d.setCore n c).activeTables = d.activeTables := rfl
@[simp] theorem Dev.setCore_fifos (d : Dev) (n : Nat) (c : Core) : (d.setCore n c).fifos = d.fifos := rfl
@[simp] theorem Dev.setCore_fuses (d : Dev) (n : Nat) (c : Core) : (d.setCore n c).fuses = d.fuses := rfl
@[simp] theorem Dev.setCore_keys (d : Dev) (n : Nat) (c : Core) : (d.setCore n c).keys = d.keys := rfl
@[simp] theorem Dev.setCore_lc (d : Dev) (n : Nat) (c : Core) : (d.setCore n c).lc = d.lc := rfl
@[simp] theorem Dev.setCore_cph (d : Dev) (n : Nat) (c : Core) : (d.setCore n c).cph = d.cph := rfl
@[simp] theorem Dev.setCore_ndt (d : Dev) (n : Nat) (c : Core) : (d.setCore n c).ndt = d.ndt := rfl
@[simp] theorem Dev.setCore_gate (d : Dev) (n : Nat) (c : Core) : (d.setCore n c).gate = d.gate := rfl
@[simp] theorem Dev.setCore_pairs (d : Dev) (n : Nat) (c : Core) : (d.setCore n c).pairs = d.pairs := rfl
@[simp] theorem Dev.setCore_hci (d : Dev) (n : Nat) (c : Core) : (d.setCore n c).hci = d.hci := rfl
@[simp] theorem Dev.setCore_csp (d : Dev) (n : Nat) (c : Core) : (d.setCore n c).csp = d.csp := rfl
@[simp] theorem Dev.setCore_rfs (d : Dev) (n : Nat) (c : Core) : (d.setCore n c).rfs = d.rfs := rfl
@[simp] theorem Dev.setCore_tx (d : Dev) (n : Nat) (c : Core) : (d.setCore n c).tx = d.tx := rfl
@[simp] theorem Dev.setCore_coex (d : Dev) (n : Nat) (c : Core) : (d.setCore n c).coex = d.coex := rfl
@[simp] theorem Dev.setCore_tempo (d : Dev) (n : Nat) (c : Core) : (d.setCore n c).tempo = d.tempo := rfl
@[simp] theorem Dev.setCore_fed (d : Dev) (n : Nat) (c : Core) : (d.setCore n c).fed = d.fed := rfl
@[simp] theorem Dev.setDom_tmb (d : Dev) (n : Nat) (m : Domain) : (d.setDom n m).tmb = d.tmb := rfl
@[simp] theorem Dev.setDom_regs (d : Dev) (n : Nat) (m : Domain) : (d.setDom n m).regs = d.regs := rfl
@[simp] theorem Dev.setDom_latch (d : Dev) (n : Nat) (m : Domain) : (d.setDom n m).latch = d.latch := rfl
@[simp] theorem Dev.setDom_mem (d : Dev) (n : Nat) (m : Domain) : (d.setDom n m).mem = d.mem := rfl
@[simp] theorem Dev.setDom_out (d : Dev) (n : Nat) (m : Domain) : (d.setDom n m).out = d.out := rfl
@[simp] theorem Dev.setDom_freeCount (d : Dev) (n : Nat) (m : Domain) : (d.setDom n m).freeCount = d.freeCount := rfl
@[simp] theorem Dev.setDom_pins (d : Dev) (n : Nat) (m : Domain) : (d.setDom n m).pins = d.pins := rfl
@[simp] theorem Dev.setDom_cluster (d : Dev) (n : Nat) (m : Domain) : (d.setDom n m).cluster = d.cluster := rfl
@[simp] theorem Dev.setDom_boot (d : Dev) (n : Nat) (m : Domain) : (d.setDom n m).boot = d.boot := rfl
@[simp] theorem Dev.setDom_cores (d : Dev) (n : Nat) (m : Domain) : (d.setDom n m).cores = d.cores := rfl
@[simp] theorem Dev.setDom_evr (d : Dev) (n : Nat) (m : Domain) : (d.setDom n m).evr = d.evr := rfl
@[simp] theorem Dev.setDom_err (d : Dev) (n : Nat) (m : Domain) : (d.setDom n m).err = d.err := rfl
@[simp] theorem Dev.setDom_msix (d : Dev) (n : Nat) (m : Domain) : (d.setDom n m).msix = d.msix := rfl
@[simp] theorem Dev.setDom_rxw (d : Dev) (n : Nat) (m : Domain) : (d.setDom n m).rxw = d.rxw := rfl
@[simp] theorem Dev.setDom_staging (d : Dev) (n : Nat) (m : Domain) : (d.setDom n m).staging = d.staging := rfl
@[simp] theorem Dev.setDom_region (d : Dev) (n : Nat) (m : Domain) : (d.setDom n m).region = d.region := rfl
@[simp] theorem Dev.setDom_duty (d : Dev) (n : Nat) (m : Domain) : (d.setDom n m).duty = d.duty := rfl
@[simp] theorem Dev.setDom_otpRegion (d : Dev) (n : Nat) (m : Domain) : (d.setDom n m).otpRegion = d.otpRegion := rfl
@[simp] theorem Dev.setDom_prog (d : Dev) (n : Nat) (m : Domain) : (d.setDom n m).prog = d.prog := rfl
@[simp] theorem Dev.setDom_activeTables (d : Dev) (n : Nat) (m : Domain) : (d.setDom n m).activeTables = d.activeTables := rfl
@[simp] theorem Dev.setDom_fifos (d : Dev) (n : Nat) (m : Domain) : (d.setDom n m).fifos = d.fifos := rfl
@[simp] theorem Dev.setDom_fuses (d : Dev) (n : Nat) (m : Domain) : (d.setDom n m).fuses = d.fuses := rfl
@[simp] theorem Dev.setDom_keys (d : Dev) (n : Nat) (m : Domain) : (d.setDom n m).keys = d.keys := rfl
@[simp] theorem Dev.setDom_lc (d : Dev) (n : Nat) (m : Domain) : (d.setDom n m).lc = d.lc := rfl
@[simp] theorem Dev.setDom_cph (d : Dev) (n : Nat) (m : Domain) : (d.setDom n m).cph = d.cph := rfl
@[simp] theorem Dev.setDom_ndt (d : Dev) (n : Nat) (m : Domain) : (d.setDom n m).ndt = d.ndt := rfl
@[simp] theorem Dev.setDom_gate (d : Dev) (n : Nat) (m : Domain) : (d.setDom n m).gate = d.gate := rfl
@[simp] theorem Dev.setDom_pairs (d : Dev) (n : Nat) (m : Domain) : (d.setDom n m).pairs = d.pairs := rfl
@[simp] theorem Dev.setDom_hci (d : Dev) (n : Nat) (m : Domain) : (d.setDom n m).hci = d.hci := rfl
@[simp] theorem Dev.setDom_csp (d : Dev) (n : Nat) (m : Domain) : (d.setDom n m).csp = d.csp := rfl
@[simp] theorem Dev.setDom_rfs (d : Dev) (n : Nat) (m : Domain) : (d.setDom n m).rfs = d.rfs := rfl
@[simp] theorem Dev.setDom_tx (d : Dev) (n : Nat) (m : Domain) : (d.setDom n m).tx = d.tx := rfl
@[simp] theorem Dev.setDom_coex (d : Dev) (n : Nat) (m : Domain) : (d.setDom n m).coex = d.coex := rfl
@[simp] theorem Dev.setDom_tempo (d : Dev) (n : Nat) (m : Domain) : (d.setDom n m).tempo = d.tempo := rfl
@[simp] theorem Dev.setDom_fed (d : Dev) (n : Nat) (m : Domain) : (d.setDom n m).fed = d.fed := rfl
@[simp] theorem Dev.clearRegs_tmb (d : Dev) (p : Nat → Bool) : (d.clearRegs p).tmb = d.tmb := rfl
@[simp] theorem Dev.clearRegs_latch (d : Dev) (p : Nat → Bool) : (d.clearRegs p).latch = d.latch := rfl
@[simp] theorem Dev.clearRegs_mem (d : Dev) (p : Nat → Bool) : (d.clearRegs p).mem = d.mem := rfl
@[simp] theorem Dev.clearRegs_out (d : Dev) (p : Nat → Bool) : (d.clearRegs p).out = d.out := rfl
@[simp] theorem Dev.clearRegs_freeCount (d : Dev) (p : Nat → Bool) : (d.clearRegs p).freeCount = d.freeCount := rfl
@[simp] theorem Dev.clearRegs_pins (d : Dev) (p : Nat → Bool) : (d.clearRegs p).pins = d.pins := rfl
@[simp] theorem Dev.clearRegs_pwr (d : Dev) (p : Nat → Bool) : (d.clearRegs p).pwr = d.pwr := rfl
@[simp] theorem Dev.clearRegs_cluster (d : Dev) (p : Nat → Bool) : (d.clearRegs p).cluster = d.cluster := rfl
@[simp] theorem Dev.clearRegs_boot (d : Dev) (p : Nat → Bool) : (d.clearRegs p).boot = d.boot := rfl
@[simp] theorem Dev.clearRegs_cores (d : Dev) (p : Nat → Bool) : (d.clearRegs p).cores = d.cores := rfl
@[simp] theorem Dev.clearRegs_evr (d : Dev) (p : Nat → Bool) : (d.clearRegs p).evr = d.evr := rfl
@[simp] theorem Dev.clearRegs_err (d : Dev) (p : Nat → Bool) : (d.clearRegs p).err = d.err := rfl
@[simp] theorem Dev.clearRegs_msix (d : Dev) (p : Nat → Bool) : (d.clearRegs p).msix = d.msix := rfl
@[simp] theorem Dev.clearRegs_rxw (d : Dev) (p : Nat → Bool) : (d.clearRegs p).rxw = d.rxw := rfl
@[simp] theorem Dev.clearRegs_staging (d : Dev) (p : Nat → Bool) : (d.clearRegs p).staging = d.staging := rfl
@[simp] theorem Dev.clearRegs_region (d : Dev) (p : Nat → Bool) : (d.clearRegs p).region = d.region := rfl
@[simp] theorem Dev.clearRegs_duty (d : Dev) (p : Nat → Bool) : (d.clearRegs p).duty = d.duty := rfl
@[simp] theorem Dev.clearRegs_otpRegion (d : Dev) (p : Nat → Bool) : (d.clearRegs p).otpRegion = d.otpRegion := rfl
@[simp] theorem Dev.clearRegs_prog (d : Dev) (p : Nat → Bool) : (d.clearRegs p).prog = d.prog := rfl
@[simp] theorem Dev.clearRegs_activeTables (d : Dev) (p : Nat → Bool) : (d.clearRegs p).activeTables = d.activeTables := rfl
@[simp] theorem Dev.clearRegs_fifos (d : Dev) (p : Nat → Bool) : (d.clearRegs p).fifos = d.fifos := rfl
@[simp] theorem Dev.clearRegs_fuses (d : Dev) (p : Nat → Bool) : (d.clearRegs p).fuses = d.fuses := rfl
@[simp] theorem Dev.clearRegs_keys (d : Dev) (p : Nat → Bool) : (d.clearRegs p).keys = d.keys := rfl
@[simp] theorem Dev.clearRegs_lc (d : Dev) (p : Nat → Bool) : (d.clearRegs p).lc = d.lc := rfl
@[simp] theorem Dev.clearRegs_cph (d : Dev) (p : Nat → Bool) : (d.clearRegs p).cph = d.cph := rfl
@[simp] theorem Dev.clearRegs_ndt (d : Dev) (p : Nat → Bool) : (d.clearRegs p).ndt = d.ndt := rfl
@[simp] theorem Dev.clearRegs_gate (d : Dev) (p : Nat → Bool) : (d.clearRegs p).gate = d.gate := rfl
@[simp] theorem Dev.clearRegs_pairs (d : Dev) (p : Nat → Bool) : (d.clearRegs p).pairs = d.pairs := rfl
@[simp] theorem Dev.clearRegs_hci (d : Dev) (p : Nat → Bool) : (d.clearRegs p).hci = d.hci := rfl
@[simp] theorem Dev.clearRegs_csp (d : Dev) (p : Nat → Bool) : (d.clearRegs p).csp = d.csp := rfl
@[simp] theorem Dev.clearRegs_rfs (d : Dev) (p : Nat → Bool) : (d.clearRegs p).rfs = d.rfs := rfl
@[simp] theorem Dev.clearRegs_tx (d : Dev) (p : Nat → Bool) : (d.clearRegs p).tx = d.tx := rfl
@[simp] theorem Dev.clearRegs_coex (d : Dev) (p : Nat → Bool) : (d.clearRegs p).coex = d.coex := rfl
@[simp] theorem Dev.clearRegs_tempo (d : Dev) (p : Nat → Bool) : (d.clearRegs p).tempo = d.tempo := rfl
@[simp] theorem Dev.clearRegs_fed (d : Dev) (p : Nat → Bool) : (d.clearRegs p).fed = d.fed := rfl
@[simp] theorem Dev.clearMem_tmb (d : Dev) (p : Nat → Bool) : (d.clearMem p).tmb = d.tmb := rfl
@[simp] theorem Dev.clearMem_regs (d : Dev) (p : Nat → Bool) : (d.clearMem p).regs = d.regs := rfl
@[simp] theorem Dev.clearMem_latch (d : Dev) (p : Nat → Bool) : (d.clearMem p).latch = d.latch := rfl
@[simp] theorem Dev.clearMem_out (d : Dev) (p : Nat → Bool) : (d.clearMem p).out = d.out := rfl
@[simp] theorem Dev.clearMem_freeCount (d : Dev) (p : Nat → Bool) : (d.clearMem p).freeCount = d.freeCount := rfl
@[simp] theorem Dev.clearMem_pins (d : Dev) (p : Nat → Bool) : (d.clearMem p).pins = d.pins := rfl
@[simp] theorem Dev.clearMem_pwr (d : Dev) (p : Nat → Bool) : (d.clearMem p).pwr = d.pwr := rfl
@[simp] theorem Dev.clearMem_cluster (d : Dev) (p : Nat → Bool) : (d.clearMem p).cluster = d.cluster := rfl
@[simp] theorem Dev.clearMem_boot (d : Dev) (p : Nat → Bool) : (d.clearMem p).boot = d.boot := rfl
@[simp] theorem Dev.clearMem_cores (d : Dev) (p : Nat → Bool) : (d.clearMem p).cores = d.cores := rfl
@[simp] theorem Dev.clearMem_evr (d : Dev) (p : Nat → Bool) : (d.clearMem p).evr = d.evr := rfl
@[simp] theorem Dev.clearMem_err (d : Dev) (p : Nat → Bool) : (d.clearMem p).err = d.err := rfl
@[simp] theorem Dev.clearMem_msix (d : Dev) (p : Nat → Bool) : (d.clearMem p).msix = d.msix := rfl
@[simp] theorem Dev.clearMem_rxw (d : Dev) (p : Nat → Bool) : (d.clearMem p).rxw = d.rxw := rfl
@[simp] theorem Dev.clearMem_staging (d : Dev) (p : Nat → Bool) : (d.clearMem p).staging = d.staging := rfl
@[simp] theorem Dev.clearMem_region (d : Dev) (p : Nat → Bool) : (d.clearMem p).region = d.region := rfl
@[simp] theorem Dev.clearMem_duty (d : Dev) (p : Nat → Bool) : (d.clearMem p).duty = d.duty := rfl
@[simp] theorem Dev.clearMem_otpRegion (d : Dev) (p : Nat → Bool) : (d.clearMem p).otpRegion = d.otpRegion := rfl
@[simp] theorem Dev.clearMem_prog (d : Dev) (p : Nat → Bool) : (d.clearMem p).prog = d.prog := rfl
@[simp] theorem Dev.clearMem_activeTables (d : Dev) (p : Nat → Bool) : (d.clearMem p).activeTables = d.activeTables := rfl
@[simp] theorem Dev.clearMem_fifos (d : Dev) (p : Nat → Bool) : (d.clearMem p).fifos = d.fifos := rfl
@[simp] theorem Dev.clearMem_fuses (d : Dev) (p : Nat → Bool) : (d.clearMem p).fuses = d.fuses := rfl
@[simp] theorem Dev.clearMem_keys (d : Dev) (p : Nat → Bool) : (d.clearMem p).keys = d.keys := rfl
@[simp] theorem Dev.clearMem_lc (d : Dev) (p : Nat → Bool) : (d.clearMem p).lc = d.lc := rfl
@[simp] theorem Dev.clearMem_cph (d : Dev) (p : Nat → Bool) : (d.clearMem p).cph = d.cph := rfl
@[simp] theorem Dev.clearMem_ndt (d : Dev) (p : Nat → Bool) : (d.clearMem p).ndt = d.ndt := rfl
@[simp] theorem Dev.clearMem_gate (d : Dev) (p : Nat → Bool) : (d.clearMem p).gate = d.gate := rfl
@[simp] theorem Dev.clearMem_pairs (d : Dev) (p : Nat → Bool) : (d.clearMem p).pairs = d.pairs := rfl
@[simp] theorem Dev.clearMem_hci (d : Dev) (p : Nat → Bool) : (d.clearMem p).hci = d.hci := rfl
@[simp] theorem Dev.clearMem_csp (d : Dev) (p : Nat → Bool) : (d.clearMem p).csp = d.csp := rfl
@[simp] theorem Dev.clearMem_rfs (d : Dev) (p : Nat → Bool) : (d.clearMem p).rfs = d.rfs := rfl
@[simp] theorem Dev.clearMem_tx (d : Dev) (p : Nat → Bool) : (d.clearMem p).tx = d.tx := rfl
@[simp] theorem Dev.clearMem_coex (d : Dev) (p : Nat → Bool) : (d.clearMem p).coex = d.coex := rfl
@[simp] theorem Dev.clearMem_tempo (d : Dev) (p : Nat → Bool) : (d.clearMem p).tempo = d.tempo := rfl
@[simp] theorem Dev.clearMem_fed (d : Dev) (p : Nat → Bool) : (d.clearMem p).fed = d.fed := rfl
@[simp] theorem Dev.free_tmb (d : Dev) (n : Nat) : (d.free n).2.tmb = d.tmb := rfl
@[simp] theorem Dev.free_regs (d : Dev) (n : Nat) : (d.free n).2.regs = d.regs := rfl
@[simp] theorem Dev.free_latch (d : Dev) (n : Nat) : (d.free n).2.latch = d.latch := rfl
@[simp] theorem Dev.free_mem (d : Dev) (n : Nat) : (d.free n).2.mem = d.mem := rfl
@[simp] theorem Dev.free_out (d : Dev) (n : Nat) : (d.free n).2.out = d.out := rfl
@[simp] theorem Dev.free_pins (d : Dev) (n : Nat) : (d.free n).2.pins = d.pins := rfl
@[simp] theorem Dev.free_pwr (d : Dev) (n : Nat) : (d.free n).2.pwr = d.pwr := rfl
@[simp] theorem Dev.free_cluster (d : Dev) (n : Nat) : (d.free n).2.cluster = d.cluster := rfl
@[simp] theorem Dev.free_boot (d : Dev) (n : Nat) : (d.free n).2.boot = d.boot := rfl
@[simp] theorem Dev.free_cores (d : Dev) (n : Nat) : (d.free n).2.cores = d.cores := rfl
@[simp] theorem Dev.free_evr (d : Dev) (n : Nat) : (d.free n).2.evr = d.evr := rfl
@[simp] theorem Dev.free_err (d : Dev) (n : Nat) : (d.free n).2.err = d.err := rfl
@[simp] theorem Dev.free_msix (d : Dev) (n : Nat) : (d.free n).2.msix = d.msix := rfl
@[simp] theorem Dev.free_rxw (d : Dev) (n : Nat) : (d.free n).2.rxw = d.rxw := rfl
@[simp] theorem Dev.free_staging (d : Dev) (n : Nat) : (d.free n).2.staging = d.staging := rfl
@[simp] theorem Dev.free_region (d : Dev) (n : Nat) : (d.free n).2.region = d.region := rfl
@[simp] theorem Dev.free_duty (d : Dev) (n : Nat) : (d.free n).2.duty = d.duty := rfl
@[simp] theorem Dev.free_otpRegion (d : Dev) (n : Nat) : (d.free n).2.otpRegion = d.otpRegion := rfl
@[simp] theorem Dev.free_prog (d : Dev) (n : Nat) : (d.free n).2.prog = d.prog := rfl
@[simp] theorem Dev.free_activeTables (d : Dev) (n : Nat) : (d.free n).2.activeTables = d.activeTables := rfl
@[simp] theorem Dev.free_fifos (d : Dev) (n : Nat) : (d.free n).2.fifos = d.fifos := rfl
@[simp] theorem Dev.free_fuses (d : Dev) (n : Nat) : (d.free n).2.fuses = d.fuses := rfl
@[simp] theorem Dev.free_keys (d : Dev) (n : Nat) : (d.free n).2.keys = d.keys := rfl
@[simp] theorem Dev.free_lc (d : Dev) (n : Nat) : (d.free n).2.lc = d.lc := rfl
@[simp] theorem Dev.free_cph (d : Dev) (n : Nat) : (d.free n).2.cph = d.cph := rfl
@[simp] theorem Dev.free_ndt (d : Dev) (n : Nat) : (d.free n).2.ndt = d.ndt := rfl
@[simp] theorem Dev.free_gate (d : Dev) (n : Nat) : (d.free n).2.gate = d.gate := rfl
@[simp] theorem Dev.free_pairs (d : Dev) (n : Nat) : (d.free n).2.pairs = d.pairs := rfl
@[simp] theorem Dev.free_hci (d : Dev) (n : Nat) : (d.free n).2.hci = d.hci := rfl
@[simp] theorem Dev.free_csp (d : Dev) (n : Nat) : (d.free n).2.csp = d.csp := rfl
@[simp] theorem Dev.free_rfs (d : Dev) (n : Nat) : (d.free n).2.rfs = d.rfs := rfl
@[simp] theorem Dev.free_tx (d : Dev) (n : Nat) : (d.free n).2.tx = d.tx := rfl
@[simp] theorem Dev.free_coex (d : Dev) (n : Nat) : (d.free n).2.coex = d.coex := rfl
@[simp] theorem Dev.free_tempo (d : Dev) (n : Nat) : (d.free n).2.tempo = d.tempo := rfl
@[simp] theorem Dev.free_fed (d : Dev) (n : Nat) : (d.free n).2.fed = d.fed := rfl
@[simp] theorem Dev.free_freeCount (d : Dev) (n : Nat) : (d.free n).2.freeCount = d.freeCount + 1 := rfl
@[simp] theorem Dev.emit_out (d : Dev) (o : Output) : (d.emit o).out = o :: d.out := rfl
@[simp] theorem Dev.setCore_cores (d : Dev) (n : Nat) (c : Core) : (d.setCore n c).cores = putAt n c d.cores := rfl

/-- Storing bytes touches memory only. -/
theorem Dev.setBytes_eq (d : Dev) (a : Nat) (bs : List Byte) : d.setBytes a bs = { d with mem := (d.setBytes a bs).mem } := by
  induction bs generalizing d a with
  | nil => rfl
  | cons b bs ih => rw [Dev.setBytes, ih]; rfl

@[simp] theorem Dev.setBytes_tmb (d : Dev) (a : Nat) (bs : List Byte) : (d.setBytes a bs).tmb = d.tmb := by rw [d.setBytes_eq]
@[simp] theorem Dev.setBytes_regs (d : Dev) (a : Nat) (bs : List Byte) : (d.setBytes a bs).regs = d.regs := by rw [d.setBytes_eq]
@[simp] theorem Dev.setBytes_latch (d : Dev) (a : Nat) (bs : List Byte) : (d.setBytes a bs).latch = d.latch := by rw [d.setBytes_eq]
@[simp] theorem Dev.setBytes_out (d : Dev) (a : Nat) (bs : List Byte) : (d.setBytes a bs).out = d.out := by rw [d.setBytes_eq]
@[simp] theorem Dev.setBytes_freeCount (d : Dev) (a : Nat) (bs : List Byte) : (d.setBytes a bs).freeCount = d.freeCount := by rw [d.setBytes_eq]
@[simp] theorem Dev.setBytes_pins (d : Dev) (a : Nat) (bs : List Byte) : (d.setBytes a bs).pins = d.pins := by rw [d.setBytes_eq]
@[simp] theorem Dev.setBytes_pwr (d : Dev) (a : Nat) (bs : List Byte) : (d.setBytes a bs).pwr = d.pwr := by rw [d.setBytes_eq]
@[simp] theorem Dev.setBytes_cluster (d : Dev) (a : Nat) (bs : List Byte) : (d.setBytes a bs).cluster = d.cluster := by rw [d.setBytes_eq]
@[simp] theorem Dev.setBytes_boot (d : Dev) (a : Nat) (bs : List Byte) : (d.setBytes a bs).boot = d.boot := by rw [d.setBytes_eq]
@[simp] theorem Dev.setBytes_cores (d : Dev) (a : Nat) (bs : List Byte) : (d.setBytes a bs).cores = d.cores := by rw [d.setBytes_eq]
@[simp] theorem Dev.setBytes_evr (d : Dev) (a : Nat) (bs : List Byte) : (d.setBytes a bs).evr = d.evr := by rw [d.setBytes_eq]
@[simp] theorem Dev.setBytes_err (d : Dev) (a : Nat) (bs : List Byte) : (d.setBytes a bs).err = d.err := by rw [d.setBytes_eq]
@[simp] theorem Dev.setBytes_msix (d : Dev) (a : Nat) (bs : List Byte) : (d.setBytes a bs).msix = d.msix := by rw [d.setBytes_eq]
@[simp] theorem Dev.setBytes_rxw (d : Dev) (a : Nat) (bs : List Byte) : (d.setBytes a bs).rxw = d.rxw := by rw [d.setBytes_eq]
@[simp] theorem Dev.setBytes_staging (d : Dev) (a : Nat) (bs : List Byte) : (d.setBytes a bs).staging = d.staging := by rw [d.setBytes_eq]
@[simp] theorem Dev.setBytes_region (d : Dev) (a : Nat) (bs : List Byte) : (d.setBytes a bs).region = d.region := by rw [d.setBytes_eq]
@[simp] theorem Dev.setBytes_duty (d : Dev) (a : Nat) (bs : List Byte) : (d.setBytes a bs).duty = d.duty := by rw [d.setBytes_eq]
@[simp] theorem Dev.setBytes_otpRegion (d : Dev) (a : Nat) (bs : List Byte) : (d.setBytes a bs).otpRegion = d.otpRegion := by rw [d.setBytes_eq]
@[simp] theorem Dev.setBytes_prog (d : Dev) (a : Nat) (bs : List Byte) : (d.setBytes a bs).prog = d.prog := by rw [d.setBytes_eq]
@[simp] theorem Dev.setBytes_activeTables (d : Dev) (a : Nat) (bs : List Byte) : (d.setBytes a bs).activeTables = d.activeTables := by rw [d.setBytes_eq]
@[simp] theorem Dev.setBytes_fifos (d : Dev) (a : Nat) (bs : List Byte) : (d.setBytes a bs).fifos = d.fifos := by rw [d.setBytes_eq]
@[simp] theorem Dev.setBytes_fuses (d : Dev) (a : Nat) (bs : List Byte) : (d.setBytes a bs).fuses = d.fuses := by rw [d.setBytes_eq]
@[simp] theorem Dev.setBytes_keys (d : Dev) (a : Nat) (bs : List Byte) : (d.setBytes a bs).keys = d.keys := by rw [d.setBytes_eq]
@[simp] theorem Dev.setBytes_lc (d : Dev) (a : Nat) (bs : List Byte) : (d.setBytes a bs).lc = d.lc := by rw [d.setBytes_eq]
@[simp] theorem Dev.setBytes_cph (d : Dev) (a : Nat) (bs : List Byte) : (d.setBytes a bs).cph = d.cph := by rw [d.setBytes_eq]
@[simp] theorem Dev.setBytes_ndt (d : Dev) (a : Nat) (bs : List Byte) : (d.setBytes a bs).ndt = d.ndt := by rw [d.setBytes_eq]
@[simp] theorem Dev.setBytes_gate (d : Dev) (a : Nat) (bs : List Byte) : (d.setBytes a bs).gate = d.gate := by rw [d.setBytes_eq]
@[simp] theorem Dev.setBytes_pairs (d : Dev) (a : Nat) (bs : List Byte) : (d.setBytes a bs).pairs = d.pairs := by rw [d.setBytes_eq]
@[simp] theorem Dev.setBytes_hci (d : Dev) (a : Nat) (bs : List Byte) : (d.setBytes a bs).hci = d.hci := by rw [d.setBytes_eq]
@[simp] theorem Dev.setBytes_csp (d : Dev) (a : Nat) (bs : List Byte) : (d.setBytes a bs).csp = d.csp := by rw [d.setBytes_eq]
@[simp] theorem Dev.setBytes_rfs (d : Dev) (a : Nat) (bs : List Byte) : (d.setBytes a bs).rfs = d.rfs := by rw [d.setBytes_eq]
@[simp] theorem Dev.setBytes_tx (d : Dev) (a : Nat) (bs : List Byte) : (d.setBytes a bs).tx = d.tx := by rw [d.setBytes_eq]
@[simp] theorem Dev.setBytes_coex (d : Dev) (a : Nat) (bs : List Byte) : (d.setBytes a bs).coex = d.coex := by rw [d.setBytes_eq]
@[simp] theorem Dev.setBytes_tempo (d : Dev) (a : Nat) (bs : List Byte) : (d.setBytes a bs).tempo = d.tempo := by rw [d.setBytes_eq]
@[simp] theorem Dev.setBytes_fed (d : Dev) (a : Nat) (bs : List Byte) : (d.setBytes a bs).fed = d.fed := by rw [d.setBytes_eq]

end Sys2Proof.Machine
end

