-- ==== Sys2Proof/Laws/KeepBase.lean ====
section
/-! SUPPORT. The primitive writes of registers, memory and cores keep the invariant, and the steps by which every other operation
is seen to keep it. -/

namespace Sys2Proof.Machine

open Sys2Proof

/-- A write keeps the canonical form. -/
theorem spWf_write {α : Type} [DecidableEq α] {dflt : Nat → α} {a : Nat} {v : α} {l : List (Nat × α)}
    (h : spWf dflt 0 l = true) : spWf dflt 0 (spWrite (dflt a) a v l) = true := by
  unfold spWrite
  split
  · exact spWf_del h
  · exact spWf_put (Nat.zero_le _) ‹_› h

/-- Leaving entries out keeps the canonical form. -/
theorem spWf_filter {α : Type} [DecidableEq α] {dflt : Nat → α} {lo : Nat} {l : List (Nat × α)} (p : Nat × α → Bool)
    (h : spWf dflt lo l = true) : spWf dflt lo (l.filter p) = true := by
  induction l generalizing lo with
  | nil => rfl
  | cons e l ih =>
    obtain ⟨j, w⟩ := e
    simp only [spWf, Bool.and_eq_true, decide_eq_true_eq] at h
    obtain ⟨⟨h1, h2⟩, h3⟩ := h
    simp only [List.filter_cons]
    split
    · simp only [spWf, Bool.and_eq_true, decide_eq_true_eq]
      exact ⟨⟨h1, h2⟩, ih h3⟩
    · exact spWf_mono (by omega) (ih h3)

theorem Dev.setReg_inv (d : Dev) (a : Nat) (w : Word) (h : d.inv) : (d.setReg a w).inv := by
  unfold Dev.inv at *; exact ⟨spWf_write (dflt := regReset) h.1, h.2⟩

theorem Dev.setByte_inv (d : Dev) (a : Nat) (b : Byte) (h : d.inv) : (d.setByte a b).inv := by
  unfold Dev.inv at *; exact ⟨h.1, spWf_write (dflt := fun _ => memDefault) h.2.1, h.2.2⟩

theorem Dev.clearRegs_inv (d : Dev) (p : Nat → Bool) (h : d.inv) : (d.clearRegs p).inv := by
  unfold Dev.inv at *; exact ⟨spWf_filter _ h.1, h.2⟩

theorem Dev.clearMem_inv (d : Dev) (p : Nat → Bool) (h : d.inv) : (d.clearMem p).inv := by
  unfold Dev.inv at *; exact ⟨h.1, spWf_filter _ h.2.1, h.2.2⟩

@[simp] theorem putAt_length {α : Type} (i : Nat) (a : α) (l : List α) : (putAt i a l).length = l.length := by
  unfold putAt
  induction l generalizing i with
  | nil => cases i <;> rfl
  | cons x xs ih => cases i with
    | zero => rfl
    | succ i => simp [modifyAt, ih]

theorem putAt_getD {α : Type} (i j : Nat) (a e : α) (l : List α) :
    (putAt i a l).getD j e = if i = j ∧ j < l.length then a else l.getD j e := by
  unfold putAt
  induction l generalizing i j with
  | nil => cases i <;> simp [modifyAt]
  | cons x xs ih =>
    cases i with
    | zero => cases j <;> simp [modifyAt]
    | succ i => cases j with
      | zero => simp [modifyAt]
      | succ j => simpa [modifyAt] using ih i j

theorem putAt_mem {α : Type} {i : Nat} {a b : α} {l : List α} (h : b ∈ putAt i a l) : b = a ∨ b ∈ l := by
  unfold putAt at h
  induction l generalizing i with
  | nil => cases i <;> simp [modifyAt] at h
  | cons x xs ih =>
    cases i with
    | zero =>
      simp only [modifyAt, List.mem_cons] at h
      rcases h with h | h
      · exact .inl h
      · exact .inr (List.mem_cons_of_mem _ h)
    | succ i =>
      simp only [modifyAt, List.mem_cons] at h
      rcases h with h | h
      · exact .inr (by simp [h])
      · rcases ih h with h | h
        · exact .inl h
        · exact .inr (List.mem_cons_of_mem _ h)

/-- A core replaced by one that is as it should be. -/
theorem Dev.setCore_inv (d : Dev) (n : Nat) (c : Core) (h : d.inv) (hc : n < 8 → Core.ok n c) : (d.setCore n c).inv := by
  unfold Dev.inv at *
  refine ⟨h.1, h.2.1, by simp [Dev.setCore, h.2.2.1], fun m hm => ?_⟩
  have e : (d.setCore n c).core m = if n = m ∧ m < d.cores.length then c else d.core m := by
    unfold Dev.core Dev.setCore; exact putAt_getD _ _ _ _ _
  rw [e]
  split
  · next hn => rw [← hn.1]; exact hc (hn.1 ▸ hm)
  · exact h.2.2.2 m hm

/-- A core of a device that is as it should be. -/
theorem Dev.inv_core {d : Dev} (h : d.inv) {n : Nat} (hn : n < 8) : Core.ok n (d.core n) := by
  unfold Dev.inv at h; exact h.2.2.2 n hn

/-! Steps of the proofs. -/

/-- Whatever else changes, what the invariant speaks of stays. -/
theorem keep_mk (d : Dev) (tmb : Nat) (latch : List (Nat × Word)) (out : List Output) (freeCount : Nat) (pins :
    Pins) (pwr : Pwr) (cluster : Cluster) (boot : Boot) (evr : Evr) (err : Err) (msix : Msix) (rxw : Rxw)
    (staging : List Nat) (region : Region) (duty : Duty) (otpRegion : List (Nat × Position)) (prog : Option
    ProgOp) (activeTables : List (Nat × List Nat)) (fifos : List (List Completion)) (fuses : List (Nat × Nat))
    (keys : KeyStore) (lc : Option LcRun) (cph : Cipher) (ndt : Ndt) (gate : TxGate) (pairs : PairRecord) (hci :
    Hci) (csp : Csp) (rfs : Rfs) (tx : Tx) (coex : Coex) (tempo : Tempo) (fed : Fed) :
    (Dev.mk tmb d.regs latch d.mem out freeCount pins pwr cluster boot d.cores evr err msix rxw staging region
      duty otpRegion prog activeTables fifos fuses keys lc cph ndt gate pairs hci csp rfs tx coex tempo fed).inv
      ↔ d.inv := by
  unfold Dev.inv; exact Iff.rfl

theorem keep_ite {c : Prop} [Decidable c] {a b : Dev} (ha : a.inv) (hb : b.inv) :
    (if c then a else b).inv := by
  split <;> assumption

theorem keep_ite1 {α : Type} {c : Prop} [Decidable c] {a b : Dev × α} (ha : a.1.inv) (hb : b.1.inv) :
    (if c then a else b).1.inv := by
  split <;> assumption

theorem keep_ite2 {α : Type} {c : Prop} [Decidable c] {a b : α × Dev} (ha : a.2.inv) (hb : b.2.inv) :
    (if c then a else b).2.inv := by
  split <;> assumption

theorem keep_have {P : Prop} (x : Dev) (h : x.inv) (b : x.inv → P) : P := b h

theorem keep_have1 {α : Type} {P : Prop} (x : Dev × α) (h : x.1.inv) (b : x.1.inv → P) : P := b h

theorem keep_have2 {α : Type} {P : Prop} (x : α × Dev) (h : x.2.inv) (b : x.2.inv → P) : P := b h

theorem keep_haveF {α : Type} {P : Prop} (x : α → Dev) (h : ∀ a, (x a).inv) (b : (∀ a, (x a).inv) → P) :
    P := b h

theorem keep_haveD {P : Prop} (x : Dev → Dev) (h : ∀ d : Dev, d.inv → (x d).inv)
    (b : (∀ d : Dev, d.inv → (x d).inv) → P) : P := b h

theorem keep_haveG {α : Type} {P : Prop} (x : Dev → α → Dev) (h : ∀ (d : Dev) a, d.inv → (x d a).inv)
    (b : (∀ (d : Dev) a, d.inv → (x d a).inv) → P) : P := b h

theorem keep_haveG1 {α β : Type} {P : Prop} (x : Dev → α → Dev × β)
    (h : ∀ (d : Dev) a, d.inv → (x d a).1.inv)
    (b : (∀ (d : Dev) a, d.inv → (x d a).1.inv) → P) : P := b h

theorem keep_foldl {α : Type} {f : Dev → α → Dev} {l : List α} {d : Dev}
    (hf : ∀ d a, d.inv → (f d a).inv) (h : d.inv) : (l.foldl f d).inv := by
  induction l generalizing d with
  | nil => exact h
  | cons a l ih => exact ih (hf _ _ h)

theorem keep_foldl1 {α β : Type} {f : Dev × β → α → Dev × β} {l : List α} {d : Dev × β}
    (hf : ∀ d a, d.1.inv → (f d a).1.inv) (h : d.1.inv) : (l.foldl f d).1.inv := by
  induction l generalizing d with
  | nil => exact h
  | cons a l ih => exact ih (hf _ _ h)

end Sys2Proof.Machine
end

