-- ==== Sys2Proof/Laws/Core.lean ====
section
/-! SUPPORT. What a core's own operations keep: the widths of its registers, the return stack's depth, the alignment of the
PC, and the normal state of C4–C7 (`Core.ok`). -/

namespace Sys2Proof.Machine

open Sys2Proof

/-- Whatever else changes, what `Core.ok` speaks of stays. -/
theorem Core.ok_mk (n : Nat) (c : Core) (trapStatus' : Word) (trapPc' : Nat) (trapCause' : Nat) (trapInst' :
    Word) (trapSlot' : Word) (trapAddr' : Word) (cycle' : Nat) (cycleLatch' : Option Nat) (run' : CoreRun)
    (stopPc' : Nat) (lastCause' : Nat) (stalled' : Option AliasWait) (rom' : Bool) (iter' : Bool) (unseen' :
    List (Nat × List (Nat × Byte))) :
    Core.ok n (Core.mk c.d c.acc c.px c.py c.q c.lcnt c.status trapStatus' trapPc' trapCause' trapInst'
      trapSlot' trapAddr' c.vbaseS c.vbaseNS c.rs cycle' cycleLatch' c.pc run' stopPc' lastCause' stalled' rom'
      iter' unseen') ↔ Core.ok n c := Iff.rfl

theorem putAt_lt {i v m : Nat} {l : List Nat} (h : ∀ p ∈ l, p < m) (hv : v < m) : ∀ p ∈ putAt i v l, p < m := by
  intro p hp
  rcases putAt_mem hp with e | e
  · exact e ▸ hv
  · exact h p e

/-- A core as it leaves core reset. -/
theorem coreReset_ok (n : Nat) : Core.ok n (coreReset n) := by
  unfold coreReset
  refine ⟨by simp, by simp, by simp, by simp, fun h => ?_⟩
  simp only [Core.ns, Nat.not_lt.mpr h, if_false]
  decide

/-- The device after reset. -/
theorem Dev.reset_inv : Dev.reset.inv := by
  unfold Dev.inv
  refine ⟨rfl, rfl, rfl, fun n hn => ?_⟩
  have : n = 0 ∨ n = 1 ∨ n = 2 ∨ n = 3 ∨ n = 4 ∨ n = 5 ∨ n = 6 ∨ n = 7 := by omega
  rcases this with e | e | e | e | e | e | e | e <;> subst e <;> exact coreReset_ok _

theorem Core.setD_ok {n : Nat} {c : Core} (h : Core.ok n c) (i : Nat) (w : Word) : Core.ok n (c.setD i w) :=
  ⟨⟨by simp [Core.setD, h.1.1], h.1.2⟩, h.2⟩

theorem Core.setAc_ok {n : Nat} {c : Core} (h : Core.ok n c) (k : Nat) (a : BitVec 72) : Core.ok n (c.setAc k a) :=
  ⟨⟨h.1.1, by simp [Core.setAc, h.1.2.1], h.1.2.2⟩, h.2⟩

theorem Core.setQ_ok {n : Nat} {c : Core} (h : Core.ok n c) (i : Nat) (b : Bool) : Core.ok n (c.setQ i b) :=
  ⟨⟨h.1.1, h.1.2.1, h.1.2.2.1, h.1.2.2.2.1, by simp [Core.setQ, h.1.2.2.2.2.1], h.1.2.2.2.2.2⟩, h.2⟩

theorem Core.setLc_ok {n : Nat} {c : Core} (h : Core.ok n c) (i v : Nat) : Core.ok n (c.setLc i v) :=
  ⟨⟨h.1.1, h.1.2.1, h.1.2.2.1, h.1.2.2.2.1, h.1.2.2.2.2.1, by simp [Core.setLc, h.1.2.2.2.2.2]⟩,
    ⟨h.2.1.1, h.2.1.2.1, putAt_lt h.2.1.2.2 (Nat.mod_lt _ (by decide))⟩, h.2.2⟩

theorem Core.setPtr_ok {n : Nat} {c : Core} (h : Core.ok n c) (p v : Nat) : Core.ok n (c.setPtr p v) := by
  unfold Core.setPtr
  split
  · exact ⟨⟨h.1.1, h.1.2.1, by simp [h.1.2.2.1], h.1.2.2.2⟩,
      ⟨putAt_lt h.2.1.1 (Nat.mod_lt _ (by decide)), h.2.1.2⟩, h.2.2⟩
  · exact ⟨⟨h.1.1, h.1.2.1, h.1.2.2.1, by simp [h.1.2.2.2.1], h.1.2.2.2.2⟩,
      ⟨h.2.1.1, putAt_lt h.2.1.2.1 (Nat.mod_lt _ (by decide)), h.2.1.2.2⟩, h.2.2⟩

/-- Only NS of STATUS matters. -/
theorem Core.status_ok {n : Nat} {c : Core} (h : Core.ok n c) (w : Word) (hw : 4 ≤ n → w.toNat.testBit 2 = true) :
    Core.ok n { c with status := w } :=
  ⟨h.1, h.2.1, h.2.2.1, h.2.2.2.1, hw⟩

theorem Core.stick_ok {n : Nat} {c : Core} (h : Core.ok n c) (i : Nat) (b : Bool) : Core.ok n (c.stick i b) := by
  unfold Core.stick
  split
  · refine Core.status_ok h _ fun hn => ?_
    have := h.2.2.2.2 hn
    unfold Core.ns at this
    simp only [BitVec.toNat_or, Nat.testBit_or, this, Bool.true_or]
  · exact h

theorem Core.push_ok {n : Nat} {c : Core} (h : Core.ok n c) (a : Nat) : Core.ok n (c.push a) := by
  unfold Core.push
  refine Core.stick_ok (c := { c with rs := (a % 65536 :: c.rs).take 16 }) ⟨h.1, h.2.1, ⟨?_, ?_⟩, h.2.2.2⟩ _ _
  · exact List.length_take_le 16 _
  intro x hx
  have hx := List.mem_of_mem_take hx
  simp only [List.mem_cons] at hx
  rcases hx with e | e
  · rw [e]; exact Nat.mod_lt _ (by decide)
  · exact h.2.2.1.2 x e

theorem Core.sysReadEffect_ok {n : Nat} {c k : Core} (hc : Core.ok n c) (h : Core.ok n k) (sr : Nat) :
    Core.ok n (c.sysReadEffect k sr) := by
  unfold Core.sysReadEffect
  split
  · refine ⟨h.1, h.2.1, ⟨?_, fun a ha => hc.2.2.1.2 a (List.mem_of_mem_drop ha)⟩, h.2.2.2⟩
    have := hc.2.2.1.1
    simp only [List.length_drop]; omega
  · exact h
  · exact h
  · exact h

theorem Core.sysWrite_ok {n : Nat} {c : Core} (h : Core.ok n c) (sr : Nat) (w : Word) : Core.ok n (c.sysWrite sr w) := by
  unfold Core.sysWrite
  split
  · refine Core.status_ok h _ fun hn => ?_
    have := h.2.2.2.2 hn
    unfold Core.ns at this
    simp [BitVec.toNat_or, BitVec.toNat_and, Nat.testBit_or, Nat.testBit_and, this]
    right; decide
  · exact h
  · exact h
  · exact h
  · exact h
  · exact h
  · exact h
  · refine ⟨h.1, h.2.1, h.2.2.1, ⟨h.2.2.2.1.1, h.2.2.2.1.2.1, ?_, ?_, h.2.2.2.1.2.2.2.2⟩, h.2.2.2.2⟩ <;> dsimp only <;> omega
  · refine ⟨h.1, h.2.1, h.2.2.1, ⟨h.2.2.2.1.1, h.2.2.2.1.2.1, h.2.2.2.1.2.2.1, h.2.2.2.1.2.2.2.1, ?_, ?_⟩, h.2.2.2.2⟩ <;>
      dsimp only <;> omega
  · exact Core.setLc_ok h _ _
  · exact Core.setLc_ok h _ _
  · exact Core.push_ok h _
  · exact h

theorem Core.addAc_ok {n : Nat} {c k : Core} (h : Core.ok n k) (i : Nat) (sub clr : Bool) (p : Int) :
    Core.ok n (c.addAc k i sub clr p) := Core.stick_ok (Core.setAc_ok h _ _) _ _

theorem Core.postMod_ok {n : Nat} {c k : Core} (h : Core.ok n k) (p m : Nat) : Core.ok n (c.postMod k p m) := by
  unfold Core.postMod
  split
  · exact h
  · exact Core.setPtr_ok h _ _

/-- What a syllable commits. -/
theorem Core.commit_ok {n : Nat} {c k : Core} (u : Issue) (s : Syllable) (hc : Core.ok n c) (h : Core.ok n k) :
    Core.ok n (Core.commit n c u s k) := by
  unfold Core.commit
  split
  · exact h
  · split
    all_goals first
      | exact h
      | exact Core.setD_ok h _ _
      | exact Core.setQ_ok h _ _
      | exact Core.setLc_ok h _ _
      | exact Core.setPtr_ok h _ _
      | exact Core.setAc_ok h _ _
      | exact Core.addAc_ok h _ _ _ _
      | exact Core.stick_ok (Core.setD_ok h _ _) _ _
      | exact Core.postMod_ok (Core.setD_ok h _ _) _ _
      | exact Core.postMod_ok h _ _
      | exact Core.setD_ok (Core.sysReadEffect_ok hc h _) _ _
      | exact Core.sysWrite_ok h _ _
      | exact (Core.ok_mk n k _ _ _ _ _ _ _ _ _ _ _ _ _ _ _).mpr h
      | skip
    · extract_lets p k1 k2
      have h1 : Core.ok n k1 := Core.addAc_ok h _ _ _ _
      have h2 : Core.ok n k2 := by
        unfold k2
        split
        · exact Core.addAc_ok h1 _ _ _ _
        · exact h1
      exact Core.postMod_ok (Core.postMod_ok h2 _ _) _ _
    · refine ⟨h.1, h.2.1, ⟨?_, fun a ha => hc.2.2.1.2 a (List.mem_of_mem_drop ha)⟩, h.2.2.2⟩
      have := hc.2.2.1.1
      simp only [List.length_drop]; omega
    · refine Core.status_ok h _ fun hn => ?_
      rw [if_neg (by omega)]
      simp only [BitVec.toNat_or, Nat.testBit_or, Bool.or_eq_true]
      right
      decide

/-- The syllables of a bundle commit together. -/
theorem Core.commits_ok {n : Nat} {c k : Core} (u : Issue) (l : List Syllable) (hc : Core.ok n c) (h : Core.ok n k) :
    Core.ok n (l.foldr (Core.commit n c u) k) := by
  induction l with
  | nil => exact h
  | cons s l ih => exact Core.commit_ok u s hc ih

/-- An instruction address. -/
theorem Core.pc_ok {n : Nat} {c : Core} (h : Core.ok n c) (a : Nat) (h4 : a % 4 = 0) (ha : a < 2 ^ 16) :
    Core.ok n { c with pc := a } := ⟨h.1, h.2.1, h.2.2.1, ⟨h4, ha, h.2.2.2.1.2.2⟩, h.2.2.2.2⟩

/-- Trap entry: only C0–C3 leave the normal state. -/
theorem Core.trapEntry_ok {n : Nat} {c : Core} (h : Core.ok n c) (t : CoreTrap) (secure : Bool)
    (hs : 4 ≤ n → secure = false) : Core.ok n (c.trapEntry t secure) := by
  unfold Core.trapEntry
  extract_lets st
  have hv := h.2.2.2.1
  refine ⟨h.1, h.2.1, h.2.2.1, ⟨?_, Nat.mod_lt _ (by decide), hv.2.2⟩, fun hn => ?_⟩
  · dsimp only
    split <;> omega
  · have := h.2.2.2.2 hn
    unfold Core.ns at this
    show st.toNat.testBit 2 = true
    unfold st
    rw [hs hn]
    simp only [BitVec.toNat_or, BitVec.toNat_and, Nat.testBit_or, Nat.testBit_and, this]
    decide

/-- A jump target. -/
theorem Dev.jumpTo_ok (d : Dev) (a : Nat) : (d.jumpTo a).1 % 4 = 0 ∧ (d.jumpTo a).1 < 2 ^ 16 := by
  unfold Dev.jumpTo
  split
  · dsimp only; omega
  · have : (d.free 14).1 < 2 ^ 14 := by unfold Dev.free; exact Nat.mod_lt _ (by decide)
    dsimp only; omega

end Sys2Proof.Machine
end

