-- ==== Sys2Proof/Laws/Hci.lean ====
section
/-! SUPPORT. What the submission of a host command comes to. -/

namespace Sys2Proof.Machine

open Sys2Proof

@[simp] theorem Dev.entryFault_cmds (d : Dev) (q i : Nat) (f : Option (Nat × Nat)) : (d.entryFault q i f).hci.cmds = d.hci.cmds := rfl

theorem fetchFrom_queued {g : Dev} {q : Nat} {x : HciCmd} (h0 : g.hci.cmds = []) (h : (g.fetchFrom q).hci.cmds = [x]) :
    x.stage = .queued := by
  unfold Dev.fetchFrom at h
  have hc : (g.headEntry q).1.hci.cmds = [] := by
    unfold Dev.headEntry
    simp only
    split
    · split
      · exact h0
      · have hw : ∀ n (d : Dev), (d.freeWords n).1.hci = d.hci := by
          intro n
          induction n with
          | zero => intro d; rfl
          | succ n ih => intro d; simp only [Dev.freeWords]; rw [ih]; rfl
        simp only [hw]; exact h0
    · exact h0
  simp only [Dev.entryFault_cmds, Dev.wr_hci, hc, List.nil_append, List.cons.injEq, and_true] at h
  subst h
  rfl

theorem StartsWith.op {op : Nat} {f : Option (Nat × Nat)} {c : HostCmd} {d e : Dev} {x : HciCmd} (h : StartsWith f op c d e x) :
    x.opcode = op := by
  obtain ⟨_, _, _, _, _, _, _, _, _, _, h, _⟩ := h
  exact h

theorem StartsWith.fault {op : Nat} {f : Option (Nat × Nat)} {c : HostCmd} {d e : Dev} {x : HciCmd} (h : StartsWith f op c d e x) :
    x.fault = f := by
  obtain ⟨_, _, _, _, _, _, _, _, _, h, _⟩ := h
  exact h

theorem Starts.op {op : Nat} {c : HostCmd} {d e : Dev} {x : HciCmd} (h : Starts op c d e x) : x.opcode = op :=
  StartsWith.op h

/-- A submission that starts is served, and the sequencer goes on with what else there is to fetch. -/
theorem StartsWith.submit {op : Nat} {f : Option (Nat × Nat)} {c : HostCmd} {d e : Dev} {x : HciCmd} (h : StartsWith f op c d e x) :
    d.hostSubmit op c = (e.serveCmd x).fetchCmds 255 := by
  obtain ⟨g, hg, h1, h2, hb, h3, h4, h5, h6, _, h7, h8, h9, h10, h11⟩ := h
  have hq : x.stage = .queued := fetchFrom_queued h3 (h5 ▸ h6)
  have hcmd : e.cmd x.id = some x := by unfold Dev.cmd; rw [h6]; simp
  have hmay : e.mayStart x = true := by unfold Dev.mayStart; rw [h6]; simp
  have hstart : e.startCmd x = e.serveCmd x := by
    unfold Dev.startCmd
    have hfw : (x.isFw && decide (x.opcode < 192) && !e.fwServed) = false := by
      by_cases k : x.isFw = true
      · by_cases k2 : op < 192
        · rw [h9 k k2]; simp
        · rw [h7]; simp [k2]
      · simp [k]
    simp [h8, hfw, h10, h11]
  have hwork : e.workCmds = e.serveCmd x := by
    unfold Dev.workCmds
    have : e.endCmds (e.hci.cmds.map HciCmd.id) = e := by rw [h6]; simp [Dev.endCmds, hcmd, hq]
    rw [this]
    simp only [h6]
    simp [Dev.startCmds, hcmd, hq, hmay, hstart]
  have hw0 : g.workCmds = g := by unfold Dev.workCmds; simp [h3, Dev.endCmds, Dev.startCmds]
  have hs0 : g.storedDoorbells = g := by unfold Dev.storedDoorbells; simp [h2]
  unfold Dev.hostSubmit
  simp only [← hg]
  unfold Dev.pump
  have hb0 : g.stopBarred = g := by unfold Dev.stopBarred; rw [hb]; rfl
  rw [h1, hs0, hb0, hw0]
  show g.fetchCmds (255 + 1) = _
  unfold Dev.fetchCmds
  simp only [h4, ← h5, hwork]
  rfl

/-- Without a parity fault it runs its opcode. -/
theorem Starts.submit {op : Nat} {c : HostCmd} {d e : Dev} {x : HciCmd} (h : Starts op c d e x) :
    d.hostSubmit op c = (e.runOpcode x).fetchCmds 255 := by
  rw [StartsWith.submit h]
  obtain ⟨_, _, _, _, _, _, _, _, _, hf, _⟩ := h
  unfold Dev.serveCmd
  rw [hf]

end Sys2Proof.Machine
end

