-- ==== Sys2Proof/Laws/KeepOps.lean ====
section
/-! SUPPORT. Every operation of Machine/Ops.lean keeps the invariant. -/

namespace Sys2Proof.Machine

open Sys2Proof

theorem Dev.wr_inv (d : Dev) (f : Field) (v : Nat) (i : Nat) (h1 : d.inv) :
    (Dev.wr d f v i).inv := by
  unfold Dev.wr
  repeat' first
    | with_reducible assumption
    | with_reducible apply Dev.setReg_inv
    | intro _
    | dsimp only

theorem Dev.bumpBy_inv (d : Dev) (k : Nat) (f : Field) (i : Nat) (h1 : d.inv) :
    (Dev.bumpBy d k f i).inv := by
  unfold Dev.bumpBy
  repeat' first
    | with_reducible assumption
    | with_reducible apply Dev.wr_inv
    | intro _
    | dsimp only

theorem Dev.bump_inv (d : Dev) (f : Field) (i : Nat) (h1 : d.inv) :
    (Dev.bump d f i).inv := by
  unfold Dev.bump
  repeat' first
    | with_reducible assumption
    | with_reducible apply Dev.bumpBy_inv
    | intro _
    | dsimp only

theorem Dev.setBytes_inv (d : Dev) (a : Nat) (y0 : List Byte) (h1 : d.inv) :
    (Dev.setBytes d a y0).inv := by
  induction y0 generalizing d a with
  | nil => exact h1
  | cons b bs ih => exact ih _ _ (Dev.setByte_inv _ _ _ h1)

theorem Dev.setLe_inv (d : Dev) (a : Nat) (n : Nat) (v : Nat) (h1 : d.inv) :
    (Dev.setLe d a n v).inv := by
  unfold Dev.setLe
  repeat' first
    | with_reducible assumption
    | with_reducible apply Dev.setBytes_inv
    | intro _
    | dsimp only

theorem Dev.emit_inv (d : Dev) (o : Output) (h1 : d.inv) :
    (Dev.emit d o).inv := by
  unfold Dev.emit
  repeat' first
    | with_reducible assumption
    | intro _
    | simp only [keep_mk]
    | dsimp only

theorem Dev.free_inv (d : Dev) (n : Nat) (h1 : d.inv) :
    (Dev.free d n).2.inv := by
  unfold Dev.free
  repeat' first
    | with_reducible assumption
    | intro _
    | simp only [keep_mk]
    | dsimp only

theorem Dev.failedWords_inv (d : Dev) (h1 : d.inv) :
    (Dev.failedWords d).2.inv := by
  unfold Dev.failedWords
  repeat' first
    | with_reducible assumption
    | intro _
    | simp only [keep_mk]
    | dsimp only

theorem Dev.freeOf_inv (d : Dev) (l : List Nat) (h1 : d.inv) :
    (Dev.freeOf d l).2.inv := by
  unfold Dev.freeOf
  repeat' first
    | with_reducible assumption
    | with_reducible apply Dev.free_inv
    | (intro x; refine keep_have x ?_ ?_ <;> first | (show x.inv; unfold x) | (intro _; clear_value x))
    | (intro x; refine keep_have1 x ?_ ?_ <;> first | (show x.1.inv; unfold x) | (intro _; clear_value x))
    | (intro x; refine keep_have2 x ?_ ?_ <;> first | (show x.2.inv; unfold x) | (intro _; clear_value x))
    | (intro x; clear_value x)
    | intro _
    | lift_lets
    | dsimp only

end Sys2Proof.Machine
end

