-- ==== Sys2Proof/Laws/KeepFlags.lean ====
section
/-! SUPPORT. Every operation of Machine/Flags.lean keeps the invariant. -/

namespace Sys2Proof.Machine

open Sys2Proof

theorem Dev.sendMsix_inv (d : Dev) (v : Nat) (h1 : d.inv) :
    (Dev.sendMsix d v).inv := by
  unfold Dev.sendMsix
  repeat' first
    | with_reducible assumption
    | with_reducible apply keep_ite
    | with_reducible apply Dev.emit_inv
    | intro _
    | simp only [keep_mk]
    | split
    | dsimp only

theorem Dev.putIrqPend_inv (d : Dev) (n : Nat) (b : Bool) (h1 : d.inv) :
    (Dev.putIrqPend d n b).inv := by
  unfold Dev.putIrqPend
  repeat' first
    | with_reducible assumption
    | with_reducible apply Dev.setReg_inv
    | (intro x; refine keep_have x ?_ ?_ <;> first | (show x.inv; unfold x) | (intro _; clear_value x))
    | (intro x; refine keep_have1 x ?_ ?_ <;> first | (show x.1.inv; unfold x) | (intro _; clear_value x))
    | (intro x; clear_value x)
    | intro _
    | lift_lets
    | dsimp only

theorem Dev.setIrq_inv (d : Dev) (n : Nat) (h1 : d.inv) :
    (Dev.setIrq d n).inv := by
  unfold Dev.setIrq
  repeat' first
    | with_reducible assumption
    | with_reducible apply keep_ite
    | with_reducible apply keep_ite1
    | with_reducible apply Dev.putIrqPend_inv
    | with_reducible apply Dev.sendMsix_inv
    | (intro x; refine keep_have x ?_ ?_ <;> first | (show x.inv; unfold x) | (intro _; clear_value x))
    | (intro x; refine keep_have1 x ?_ ?_ <;> first | (show x.1.inv; unfold x) | (intro _; clear_value x))
    | (intro x; clear_value x)
    | intro _
    | lift_lets
    | simp only [keep_mk]
    | split
    | dsimp only

theorem Dev.setChanLog_inv (d : Dev) (n : Nat) (l : ChannelLog) (h1 : d.inv) :
    (Dev.setChanLog d n l).inv := by
  unfold Dev.setChanLog
  repeat' first
    | with_reducible assumption
    | intro _
    | simp only [keep_mk]
    | dsimp only

theorem Dev.passEvent_inv (d : Dev) (n : Nat) (h1 : d.inv) :
    (Dev.passEvent d n).inv := by
  unfold Dev.passEvent
  repeat' first
    | with_reducible assumption
    | with_reducible apply Dev.bump_inv
    | with_reducible apply Dev.setChanLog_inv
    | (intro x; refine keep_have x ?_ ?_ <;> first | (show x.inv; unfold x) | (intro _; clear_value x))
    | (intro x; refine keep_have1 x ?_ ?_ <;> first | (show x.1.inv; unfold x) | (intro _; clear_value x))
    | (intro x; clear_value x)
    | intro _
    | lift_lets
    | simp only [keep_mk]
    | dsimp only

theorem Dev.tripChannel_inv (d : Dev) (n : Nat) (h1 : d.inv) :
    (Dev.tripChannel d n).inv := by
  unfold Dev.tripChannel
  repeat' first
    | with_reducible assumption
    | with_reducible apply Dev.wr_inv
    | with_reducible apply Dev.setChanLog_inv
    | (intro x; refine keep_have x ?_ ?_ <;> first | (show x.inv; unfold x) | (intro _; clear_value x))
    | (intro x; refine keep_have1 x ?_ ?_ <;> first | (show x.1.inv; unfold x) | (intro _; clear_value x))
    | (intro x; clear_value x)
    | intro _
    | lift_lets
    | simp only [keep_mk]
    | split
    | dsimp only

theorem Dev.timerStart_inv (d : Dev) (n : Nat) (h1 : d.inv) :
    (Dev.timerStart d n).inv := by
  unfold Dev.timerStart
  repeat' first
    | with_reducible assumption
    | with_reducible apply Dev.wr_inv
    | (intro x; refine keep_have x ?_ ?_ <;> first | (show x.inv; unfold x) | (intro _; clear_value x))
    | (intro x; refine keep_have1 x ?_ ?_ <;> first | (show x.1.inv; unfold x) | (intro _; clear_value x))
    | (intro x; clear_value x)
    | intro _
    | lift_lets
    | simp only [keep_mk]
    | dsimp only

theorem Dev.timerStop_inv (d : Dev) (n : Nat) (h1 : d.inv) :
    (Dev.timerStop d n).inv := by
  unfold Dev.timerStop
  repeat' first
    | with_reducible assumption
    | with_reducible apply Dev.wr_inv
    | (intro x; refine keep_have x ?_ ?_ <;> first | (show x.inv; unfold x) | (intro _; clear_value x))
    | (intro x; refine keep_have1 x ?_ ?_ <;> first | (show x.1.inv; unfold x) | (intro _; clear_value x))
    | (intro x; clear_value x)
    | intro _
    | lift_lets
    | simp only [keep_mk]
    | dsimp only

theorem Dev.pinAction_inv (d : Dev) (act : Nat) (f : Field) (l : Nat) (line : Nat) (h1 : d.inv) :
    (Dev.pinAction d act f l line).inv := by
  unfold Dev.pinAction
  repeat' first
    | with_reducible assumption
    | with_reducible apply Dev.wr_inv
    | (intro x; refine keep_have x ?_ ?_ <;> first | (show x.inv; unfold x) | (intro _; clear_value x))
    | (intro x; refine keep_have1 x ?_ ?_ <;> first | (show x.1.inv; unfold x) | (intro _; clear_value x))
    | (intro x; clear_value x)
    | intro _
    | lift_lets
    | simp only [keep_mk]
    | split
    | dsimp only

theorem Dev.taskAct_inv (d : Dev) (t : Nat) (n : Nat) (h1 : d.inv) :
    (Dev.taskAct d t n).inv := by
  unfold Dev.taskAct
  repeat' first
    | with_reducible assumption
    | with_reducible apply keep_ite
    | with_reducible apply keep_ite1
    | with_reducible apply Dev.setIrq_inv
    | with_reducible apply Dev.timerStart_inv
    | with_reducible apply Dev.timerStop_inv
    | with_reducible apply Dev.wr_inv
    | with_reducible apply Dev.pinAction_inv
    | (intro x; refine keep_have x ?_ ?_ <;> first | (show x.inv; unfold x) | (intro _; clear_value x))
    | (intro x; refine keep_have1 x ?_ ?_ <;> first | (show x.1.inv; unfold x) | (intro _; clear_value x))
    | (intro x; clear_value x)
    | intro _
    | lift_lets
    | split
    | dsimp only

theorem Dev.serveTask_inv (d : Dev) (t : Nat) (n : Nat) (y0 : Nat) (h1 : d.inv) :
    (Dev.serveTask d t n y0).inv := by
  induction y0 generalizing d t n with
  | zero =>
    (first | rw [Dev.serveTask] | unfold Dev.serveTask)
    repeat' first
      | with_reducible assumption
      | with_reducible apply keep_ite
      | with_reducible apply keep_ite1
      | with_reducible apply Dev.taskAct_inv
      | (intro x; refine keep_have x ?_ ?_ <;> first | (show x.inv; unfold x) | (intro _; clear_value x))
      | (intro x; refine keep_have1 x ?_ ?_ <;> first | (show x.1.inv; unfold x) | (intro _; clear_value x))
      | (intro x; clear_value x)
      | intro _
      | lift_lets
      | simp only [keep_mk]
      | split
      | dsimp only
  | succ _ ih =>
    (first | rw [Dev.serveTask] | unfold Dev.serveTask)
    repeat' first
      | with_reducible assumption
      | with_reducible apply ih
      | with_reducible apply keep_ite
      | with_reducible apply keep_ite1
      | with_reducible apply Dev.taskAct_inv
      | (intro x; refine keep_have x ?_ ?_ <;> first | (show x.inv; unfold x) | (intro _; clear_value x))
      | (intro x; refine keep_have1 x ?_ ?_ <;> first | (show x.1.inv; unfold x) | (intro _; clear_value x))
      | (intro x; clear_value x)
      | intro _
      | lift_lets
      | simp only [keep_mk]
      | split
      | dsimp only

theorem Dev.taskOverrun_inv (d : Dev) (t : Nat) (b : Bool) (h1 : d.inv) :
    (Dev.taskOverrun d t b).inv := by
  unfold Dev.taskOverrun
  repeat' first
    | with_reducible assumption
    | with_reducible apply keep_ite
    | with_reducible apply Dev.wr_inv
    | intro _
    | split
    | dsimp only

theorem Dev.taskMerged_inv (d : Dev) (t : Nat) (b : Bool) (h1 : d.inv) :
    (Dev.taskMerged d t b).inv := by
  unfold Dev.taskMerged
  repeat' first
    | with_reducible assumption
    | with_reducible apply keep_ite
    | with_reducible apply Dev.wr_inv
    | intro _
    | split
    | dsimp only

theorem Dev.setTaskWait_inv (d : Dev) (t : Nat) (k : Nat) (h1 : d.inv) :
    (Dev.setTaskWait d t k).inv := by
  unfold Dev.setTaskWait
  repeat' first
    | with_reducible assumption
    | with_reducible apply keep_ite
    | intro _
    | simp only [keep_mk]
    | split
    | dsimp only

theorem Dev.taskInput_inv (d : Dev) (t : Nat) (n : Nat) (c : Nat) (h1 : d.inv) :
    (Dev.taskInput d t n c).inv := by
  unfold Dev.taskInput
  repeat' first
    | with_reducible assumption
    | with_reducible apply keep_ite
    | with_reducible apply keep_ite1
    | with_reducible apply Dev.setTaskWait_inv
    | with_reducible apply Dev.taskOverrun_inv
    | with_reducible apply Dev.serveTask_inv
    | with_reducible apply Dev.taskMerged_inv
    | with_reducible apply Dev.taskAct_inv
    | (intro x; refine keep_have x ?_ ?_ <;> first | (show x.inv; unfold x) | (intro _; clear_value x))
    | (intro x; refine keep_have1 x ?_ ?_ <;> first | (show x.1.inv; unfold x) | (intro _; clear_value x))
    | (intro x; clear_value x)
    | intro _
    | lift_lets
    | split
    | dsimp only

theorem Dev.cellInput_inv (d : Dev) (t : Nat) (c : Nat) (h1 : d.inv) :
    (Dev.cellInput d t c).1.inv := by
  unfold Dev.cellInput
  repeat' first
    | with_reducible assumption
    | with_reducible apply keep_ite
    | with_reducible apply keep_ite1
    | with_reducible apply Dev.setTaskWait_inv
    | with_reducible apply Dev.taskOverrun_inv
    | with_reducible apply Dev.taskMerged_inv
    | (intro x; refine keep_have x ?_ ?_ <;> first | (show x.inv; unfold x) | (intro _; clear_value x))
    | (intro x; refine keep_have1 x ?_ ?_ <;> first | (show x.1.inv; unfold x) | (intro _; clear_value x))
    | (intro x; clear_value x)
    | intro _
    | lift_lets
    | split
    | dsimp only

theorem Dev.setCell_inv (d : Dev) (k : Nat) (c : LogicCell) (h1 : d.inv) :
    (Dev.setCell d k c).inv := by
  unfold Dev.setCell
  repeat' first
    | with_reducible assumption
    | with_reducible apply Dev.wr_inv
    | (intro x; refine keep_have x ?_ ?_ <;> first | (show x.inv; unfold x) | (intro _; clear_value x))
    | (intro x; refine keep_have1 x ?_ ?_ <;> first | (show x.1.inv; unfold x) | (intro _; clear_value x))
    | (intro x; clear_value x)
    | intro _
    | lift_lets
    | simp only [keep_mk]
    | dsimp only

theorem Dev.cellStep_inv (d : Dev) (k : Nat) (a : Bool) (b : Bool) (h1 : d.inv) :
    (Dev.cellStep d k a b).1.inv := by
  unfold Dev.cellStep
  repeat' first
    | with_reducible assumption
    | with_reducible apply keep_ite
    | with_reducible apply keep_ite1
    | with_reducible apply Dev.setCell_inv
    | (intro x; refine keep_have x ?_ ?_ <;> first | (show x.inv; unfold x) | (intro _; clear_value x))
    | (intro x; refine keep_have1 x ?_ ?_ <;> first | (show x.1.inv; unfold x) | (intro _; clear_value x))
    | (intro x; clear_value x)
    | intro _
    | lift_lets
    | simp only [keep_mk]
    | split
    | dsimp only

theorem Dev.cellsStep_inv (d : Dev) (tasks : List (Nat × Nat)) (y0 : List Nat) (h1 : d.inv) :
    (Dev.cellsStep d tasks y0).1.inv := by
  induction y0 generalizing d tasks with
  | nil =>
    (first | rw [Dev.cellsStep] | unfold Dev.cellsStep)
    repeat' first
      | with_reducible assumption
      | with_reducible apply keep_ite
      | with_reducible apply keep_ite1
      | with_reducible apply keep_ite2
      | with_reducible apply Dev.cellInput_inv
      | with_reducible apply Dev.cellStep_inv
      | (intro x; refine keep_have x ?_ ?_ <;> first | (show x.inv; unfold x) | (intro _; clear_value x))
      | (intro x; refine keep_have1 x ?_ ?_ <;> first | (show x.1.inv; unfold x) | (intro _; clear_value x))
      | (intro x; refine keep_have2 x ?_ ?_ <;> first | (show x.2.inv; unfold x) | (intro _; clear_value x))
      | (intro x; clear_value x)
      | intro _
      | lift_lets
      | split
      | dsimp only
  | cons _ _ ih =>
    (first | rw [Dev.cellsStep] | unfold Dev.cellsStep)
    repeat' first
      | with_reducible assumption
      | with_reducible apply ih
      | with_reducible apply keep_ite
      | with_reducible apply keep_ite1
      | with_reducible apply keep_ite2
      | with_reducible apply Dev.cellInput_inv
      | with_reducible apply Dev.cellStep_inv
      | (intro x; refine keep_have x ?_ ?_ <;> first | (show x.inv; unfold x) | (intro _; clear_value x))
      | (intro x; refine keep_have1 x ?_ ?_ <;> first | (show x.1.inv; unfold x) | (intro _; clear_value x))
      | (intro x; refine keep_have2 x ?_ ?_ <;> first | (show x.2.inv; unfold x) | (intro _; clear_value x))
      | (intro x; clear_value x)
      | intro _
      | lift_lets
      | split
      | dsimp only

theorem Dev.tasksStep_inv (d : Dev) (tasks : List (Nat × Nat)) (y0 : List Nat) (h1 : d.inv) :
    (Dev.tasksStep d tasks y0).inv := by
  induction y0 generalizing d tasks with
  | nil =>
    (first | rw [Dev.tasksStep] | unfold Dev.tasksStep)
    repeat' first
      | with_reducible assumption
      | with_reducible apply keep_ite
      | with_reducible apply keep_ite1
      | with_reducible apply keep_ite2
      | with_reducible apply Dev.setIrq_inv
      | with_reducible apply Dev.taskInput_inv
      | with_reducible refine keep_foldl (fun d x hd => ?_) ?_
      | with_reducible refine keep_foldl1 (fun d x hd => ?_) ?_
      | (intro x; refine keep_have x ?_ ?_ <;> first | (show x.inv; unfold x) | (intro _; clear_value x))
      | (intro x; refine keep_have1 x ?_ ?_ <;> first | (show x.1.inv; unfold x) | (intro _; clear_value x))
      | (intro x; refine keep_have2 x ?_ ?_ <;> first | (show x.2.inv; unfold x) | (intro _; clear_value x))
      | (intro x; clear_value x)
      | intro _
      | lift_lets
      | simp only [keep_mk]
      | split
      | dsimp only
  | cons _ _ ih =>
    (first | rw [Dev.tasksStep] | unfold Dev.tasksStep)
    repeat' first
      | with_reducible assumption
      | with_reducible apply ih
      | with_reducible apply keep_ite
      | with_reducible apply keep_ite1
      | with_reducible apply keep_ite2
      | with_reducible apply Dev.setIrq_inv
      | with_reducible apply Dev.taskInput_inv
      | with_reducible refine keep_foldl (fun d x hd => ?_) ?_
      | with_reducible refine keep_foldl1 (fun d x hd => ?_) ?_
      | (intro x; refine keep_have x ?_ ?_ <;> first | (show x.inv; unfold x) | (intro _; clear_value x))
      | (intro x; refine keep_have1 x ?_ ?_ <;> first | (show x.1.inv; unfold x) | (intro _; clear_value x))
      | (intro x; refine keep_have2 x ?_ ?_ <;> first | (show x.2.inv; unfold x) | (intro _; clear_value x))
      | (intro x; clear_value x)
      | intro _
      | lift_lets
      | simp only [keep_mk]
      | split
      | dsimp only

theorem Dev.routeCycle_inv (d : Dev) (evs : List Nat) (h1 : d.inv) :
    (Dev.routeCycle d evs).1.inv := by
  unfold Dev.routeCycle
  repeat' first
    | with_reducible assumption
    | with_reducible apply Dev.passEvent_inv
    | with_reducible apply Dev.tripChannel_inv
    | with_reducible apply Dev.cellsStep_inv
    | with_reducible apply Dev.tasksStep_inv
    | with_reducible apply Dev.setIrq_inv
    | with_reducible refine keep_foldl (fun d x hd => ?_) ?_
    | with_reducible refine keep_foldl1 (fun d x hd => ?_) ?_
    | (intro x; refine keep_have x ?_ ?_ <;> first | (show x.inv; unfold x) | (intro _; clear_value x))
    | (intro x; refine keep_have1 x ?_ ?_ <;> first | (show x.1.inv; unfold x) | (intro _; clear_value x))
    | (intro x; refine keep_have2 x ?_ ?_ <;> first | (show x.2.inv; unfold x) | (intro _; clear_value x))
    | (intro x; clear_value x)
    | intro _
    | lift_lets
    | simp only [keep_mk]
    | dsimp only

theorem Dev.routeCycles_inv (d : Dev) (y0 : Nat) (y1 : List Nat) (h1 : d.inv) :
    (Dev.routeCycles d y0 y1).inv := by
  induction y0 generalizing d y1 with
  | zero =>
    rw [Dev.routeCycles]
    simp only [keep_mk]
    exact h1
  | succ n ih =>
    rw [Dev.routeCycles]
    split
    · simp only [keep_mk]
      exact h1
    · exact ih _ _ (Dev.routeCycle_inv _ _ h1)


theorem Dev.raiseEvs_inv (d : Dev) (evs : List Nat) (h1 : d.inv) :
    (Dev.raiseEvs d evs).inv := by
  unfold Dev.raiseEvs
  repeat' first
    | with_reducible assumption
    | with_reducible apply keep_ite
    | with_reducible apply keep_ite1
    | with_reducible apply Dev.setIrq_inv
    | with_reducible apply Dev.routeCycles_inv
    | with_reducible refine keep_foldl (fun d x hd => ?_) ?_
    | with_reducible refine keep_foldl1 (fun d x hd => ?_) ?_
    | (intro x; refine keep_have x ?_ ?_ <;> first | (show x.inv; unfold x) | (intro _; clear_value x))
    | (intro x; refine keep_have1 x ?_ ?_ <;> first | (show x.1.inv; unfold x) | (intro _; clear_value x))
    | (intro x; clear_value x)
    | intro _
    | lift_lets
    | simp only [keep_mk]
    | split
    | dsimp only

theorem Dev.raise_inv (d : Dev) (ev : Nat) (h1 : d.inv) :
    (Dev.raise d ev).inv := by
  unfold Dev.raise
  repeat' first
    | with_reducible assumption
    | with_reducible apply Dev.raiseEvs_inv
    | intro _
    | dsimp only

theorem Dev.errDecode_inv (d : Dev) (who : Initiator) (bar : Nat) (write : Bool) (addr : Nat) (h1 : d.inv) :
    (Dev.errDecode d who bar write addr).inv := by
  unfold Dev.errDecode
  repeat' first
    | with_reducible assumption
    | with_reducible apply Dev.setReg_inv
    | with_reducible apply Dev.raise_inv
    | (intro x; refine keep_have x ?_ ?_ <;> first | (show x.inv; unfold x) | (intro _; clear_value x))
    | (intro x; refine keep_have1 x ?_ ?_ <;> first | (show x.1.inv; unfold x) | (intro _; clear_value x))
    | (intro x; clear_value x)
    | intro _
    | lift_lets
    | dsimp only

theorem Dev.refuseWrite_inv (d : Dev) (who : Initiator) (a : Nat) (h1 : d.inv) :
    (Dev.refuseWrite d who a).inv := by
  unfold Dev.refuseWrite
  repeat' first
    | with_reducible assumption
    | with_reducible apply Dev.errDecode_inv
    | intro _
    | dsimp only

theorem Dev.errGhost_inv (d : Dev) (bar : Nat) (write : Bool) (offset : Nat) (dom : Nat) (h1 : d.inv) :
    (Dev.errGhost d bar write offset dom).inv := by
  unfold Dev.errGhost
  repeat' first
    | with_reducible assumption
    | with_reducible apply Dev.setReg_inv
    | with_reducible apply Dev.raise_inv
    | (intro x; refine keep_have x ?_ ?_ <;> first | (show x.inv; unfold x) | (intro _; clear_value x))
    | (intro x; refine keep_have1 x ?_ ?_ <;> first | (show x.1.inv; unfold x) | (intro _; clear_value x))
    | (intro x; clear_value x)
    | intro _
    | lift_lets
    | dsimp only

theorem Dev.errRsvd_inv (d : Dev) (who : Initiator) (rejected : Bool) (a : Nat) (h1 : d.inv) :
    (Dev.errRsvd d who rejected a).inv := by
  unfold Dev.errRsvd
  repeat' first
    | with_reducible assumption
    | with_reducible apply Dev.setReg_inv
    | with_reducible apply Dev.raise_inv
    | (intro x; refine keep_have x ?_ ?_ <;> first | (show x.inv; unfold x) | (intro _; clear_value x))
    | (intro x; refine keep_have1 x ?_ ?_ <;> first | (show x.1.inv; unfold x) | (intro _; clear_value x))
    | (intro x; clear_value x)
    | intro _
    | lift_lets
    | dsimp only

theorem Dev.permanent_inv (d : Dev) (res : Nat) (h1 : d.inv) :
    (Dev.permanent d res).inv := by
  unfold Dev.permanent
  repeat' first
    | with_reducible assumption
    | with_reducible apply keep_ite
    | with_reducible apply keep_ite1
    | with_reducible apply Dev.setReg_inv
    | with_reducible apply Dev.bump_inv
    | with_reducible apply Dev.raise_inv
    | (intro x; refine keep_have x ?_ ?_ <;> first | (show x.inv; unfold x) | (intro _; clear_value x))
    | (intro x; refine keep_have1 x ?_ ?_ <;> first | (show x.1.inv; unfold x) | (intro _; clear_value x))
    | (intro x; clear_value x)
    | intro _
    | lift_lets
    | simp only [keep_mk]
    | split
    | dsimp only

theorem Dev.track_inv (d : Dev) (res : Nat) (h1 : d.inv) :
    (Dev.track d res).1.inv := by
  unfold Dev.track
  repeat' first
    | with_reducible assumption
    | with_reducible apply keep_ite
    | with_reducible apply keep_ite1
    | with_reducible apply Dev.bump_inv
    | (intro x; refine keep_have x ?_ ?_ <;> first | (show x.inv; unfold x) | (intro _; clear_value x))
    | (intro x; refine keep_have1 x ?_ ?_ <;> first | (show x.1.inv; unfold x) | (intro _; clear_value x))
    | (intro x; clear_value x)
    | intro _
    | lift_lets
    | simp only [keep_mk]
    | split
    | dsimp only

theorem Dev.transient_inv (d : Dev) (res : Nat) (h1 : d.inv) :
    (Dev.transient d res).1.inv := by
  unfold Dev.transient
  repeat' first
    | with_reducible assumption
    | with_reducible apply keep_ite
    | with_reducible apply keep_ite1
    | with_reducible apply keep_ite2
    | with_reducible apply Dev.track_inv
    | with_reducible apply Dev.permanent_inv
    | with_reducible apply Dev.setReg_inv
    | with_reducible apply Dev.bump_inv
    | with_reducible apply Dev.raise_inv
    | (intro x; refine keep_have x ?_ ?_ <;> first | (show x.inv; unfold x) | (intro _; clear_value x))
    | (intro x; refine keep_have1 x ?_ ?_ <;> first | (show x.1.inv; unfold x) | (intro _; clear_value x))
    | (intro x; refine keep_have2 x ?_ ?_ <;> first | (show x.2.inv; unfold x) | (intro _; clear_value x))
    | (intro x; clear_value x)
    | intro _
    | lift_lets
    | split
    | dsimp only

theorem Dev.fetch_inv (d : Dev) (res : Nat) (addr : Nat) (fails : Nat) (h1 : d.inv) :
    (Dev.fetch d res addr fails).1.inv := by
  unfold Dev.fetch
  repeat' first
    | with_reducible assumption
    | with_reducible apply keep_ite
    | with_reducible apply keep_ite1
    | with_reducible apply keep_ite2
    | with_reducible apply Dev.bumpBy_inv
    | with_reducible apply Dev.transient_inv
    | with_reducible apply Dev.permanent_inv
    | with_reducible apply Dev.setReg_inv
    | (intro x; refine keep_have x ?_ ?_ <;> first | (show x.inv; unfold x) | (intro _; clear_value x))
    | (intro x; refine keep_have1 x ?_ ?_ <;> first | (show x.1.inv; unfold x) | (intro _; clear_value x))
    | (intro x; refine keep_have2 x ?_ ?_ <;> first | (show x.2.inv; unfold x) | (intro _; clear_value x))
    | (intro x; clear_value x)
    | intro _
    | lift_lets
    | split
    | dsimp only

end Sys2Proof.Machine
end

