-- ==== Sys2Proof/Laws/KeepVotes.lean ====
section
/-! SUPPORT. Every operation of Machine/Votes.lean keeps the invariant. -/

namespace Sys2Proof.Machine

open Sys2Proof

theorem Dev.unmute_inv (d : Dev) (h1 : d.inv) :
    (Dev.unmute d).inv := by
  unfold Dev.unmute
  repeat' first
    | with_reducible assumption
    | with_reducible apply keep_ite
    | with_reducible apply keep_ite1
    | with_reducible apply keep_ite2
    | intro _
    | simp only [keep_mk]
    | split
    | dsimp only

theorem Dev.setDom_inv (d : Dev) (n : Nat) (m : Domain) (h1 : d.inv) :
    (Dev.setDom d n m).inv := by
  unfold Dev.setDom
  repeat' first
    | with_reducible assumption
    | intro _
    | simp only [keep_mk]
    | dsimp only

theorem Dev.abortEntry_inv (d : Dev) (n : Nat) (voter : Nat) (h1 : d.inv) :
    (Dev.abortEntry d n voter).inv := by
  unfold Dev.abortEntry
  repeat' first
    | with_reducible assumption
    | with_reducible apply Dev.bump_inv
    | with_reducible apply Dev.wr_inv
    | intro _
    | dsimp only

theorem Dev.refusal_inv (d : Dev) (n : Nat) (cause : Nat) (h1 : d.inv) :
    (Dev.refusal d n cause).inv := by
  unfold Dev.refusal
  repeat' first
    | with_reducible assumption
    | with_reducible apply Dev.bump_inv
    | with_reducible apply Dev.wr_inv
    | intro _
    | dsimp only

theorem Dev.tallyUp_inv (d : Dev) (n : Nat) (h1 : d.inv) :
    (Dev.tallyUp d n).inv := by
  unfold Dev.tallyUp
  repeat' first
    | with_reducible assumption
    | with_reducible apply keep_ite
    | with_reducible apply keep_ite1
    | with_reducible apply railGood_inv
    | with_reducible apply Dev.setDom_inv
    | with_reducible apply Dev.refusal_inv
    | with_reducible apply Dev.abortEntry_inv
    | (intro x; refine keep_have x ?_ ?_ <;> first | (show x.inv; unfold x) | (intro _; clear_value x))
    | (intro x; refine keep_have1 x ?_ ?_ <;> first | (show x.1.inv; unfold x) | (intro _; clear_value x))
    | (intro x; clear_value x)
    | intro _
    | lift_lets
    | simp only [keep_mk]
    | split
    | dsimp only

theorem Dev.coexSleep_inv (d : Dev) (h1 : d.inv) :
    (Dev.coexSleep d).inv := by
  unfold Dev.coexSleep
  repeat' first
    | with_reducible assumption
    | with_reducible apply keep_ite
    | with_reducible apply Dev.wr_inv
    | with_reducible apply Dev.bump_inv
    | with_reducible apply Dev.raise_inv
    | intro _
    | simp only [keep_mk]
    | split
    | dsimp only

theorem Dev.drainStart_inv (d : Dev) (n : Nat) (h1 : d.inv) :
    (Dev.drainStart d n).inv := by
  unfold Dev.drainStart
  repeat' first
    | with_reducible assumption
    | with_reducible apply keep_ite
    | with_reducible apply Dev.coexSleep_inv
    | with_reducible apply pcieLinkUp_inv
    | intro _
    | simp only [keep_mk]
    | split
    | dsimp only

theorem Dev.tallyDown_inv (d : Dev) (n : Nat) (h1 : d.inv) :
    (Dev.tallyDown d n).inv := by
  unfold Dev.tallyDown
  repeat' first
    | with_reducible assumption
    | with_reducible apply Dev.setDom_inv
    | with_reducible apply Dev.drainStart_inv
    | (intro x; refine keep_have x ?_ ?_ <;> first | (show x.inv; unfold x) | (intro _; clear_value x))
    | (intro x; refine keep_have1 x ?_ ?_ <;> first | (show x.1.inv; unfold x) | (intro _; clear_value x))
    | (intro x; clear_value x)
    | intro _
    | lift_lets
    | simp only [keep_mk]
    | split
    | dsimp only

theorem Dev.settleDom_inv (d : Dev) (n : Nat) (h1 : d.inv) :
    (Dev.settleDom d n).inv := by
  unfold Dev.settleDom
  repeat' first
    | with_reducible assumption
    | with_reducible apply keep_ite
    | with_reducible apply keep_ite1
    | with_reducible apply Dev.tallyUp_inv
    | with_reducible apply Dev.tallyDown_inv
    | (intro x; refine keep_have x ?_ ?_ <;> first | (show x.inv; unfold x) | (intro _; clear_value x))
    | (intro x; refine keep_have1 x ?_ ?_ <;> first | (show x.1.inv; unfold x) | (intro _; clear_value x))
    | (intro x; clear_value x)
    | intro _
    | lift_lets
    | split
    | dsimp only

theorem Dev.settlePass_inv (d : Dev) (h1 : d.inv) :
    (Dev.settlePass d).inv := by
  unfold Dev.settlePass
  repeat' first
    | with_reducible assumption
    | with_reducible apply Dev.settleDom_inv
    | with_reducible refine keep_foldl (fun d x hd => ?_) ?_
    | with_reducible refine keep_foldl1 (fun d x hd => ?_) ?_
    | intro _
    | dsimp only

theorem Dev.fallbackArm_inv (before : Dev) (d : Dev) (h1 : before.inv) (h2 : d.inv) :
    (Dev.fallbackArm before d).inv := by
  unfold Dev.fallbackArm
  repeat' first
    | with_reducible assumption
    | with_reducible apply keep_ite
    | with_reducible apply keep_ite1
    | with_reducible apply Dev.setReg_inv
    | with_reducible apply Dev.settlePass_inv
    | (intro x; refine keep_have x ?_ ?_ <;> first | (show x.inv; unfold x) | (intro _; clear_value x))
    | (intro x; refine keep_have1 x ?_ ?_ <;> first | (show x.1.inv; unfold x) | (intro _; clear_value x))
    | (intro x; refine keep_haveD x ?_ ?_ <;> first | (show ∀ d : Dev, d.inv → (x d).inv; unfold x; intro _ _) | (intro hfD; clear_value x))
    | (intro x; refine keep_haveG x ?_ ?_ <;> first | (show ∀ (d : Dev) a, d.inv → (x d a).inv; unfold x; intro _ _ _) | (intro hfG; clear_value x))
    | (intro x; refine keep_haveG1 x ?_ ?_ <;> first | (show ∀ (d : Dev) a, d.inv → (x d a).1.inv; unfold x; intro _ _ _) | (intro hfP; clear_value x))
    | (intro x; refine keep_haveF x ?_ ?_ <;> first | (show ∀ a, (x a).inv; unfold x; intro _) | (intro hfF; clear_value x))
    | with_reducible apply hfD
    | with_reducible apply hfG
    | with_reducible apply hfP
    | with_reducible apply hfF
    | (intro x; clear_value x)
    | intro _
    | lift_lets
    | simp only [keep_mk]
    | split
    | dsimp only

theorem Dev.settle_inv (d : Dev) (h1 : d.inv) :
    (Dev.settle d).inv := by
  unfold Dev.settle
  repeat' first
    | with_reducible assumption
    | with_reducible apply Dev.fallbackArm_inv
    | with_reducible apply Dev.unmute_inv
    | with_reducible apply Dev.settlePass_inv
    | intro _
    | dsimp only

end Sys2Proof.Machine
end

