-- ==== Sys2Proof/Laws/KeepRegs.lean ====
section
/-! SUPPORT. Every operation of Machine/Regs.lean keeps the invariant. -/

namespace Sys2Proof.Machine

open Sys2Proof

theorem Dev.rsvd_inv (d : Dev) (who : Initiator) (a : Nat) (w : Word) (h1 : d.inv) :
    (Dev.rsvd d who a w).inv := by
  unfold Dev.rsvd
  repeat' first
    | with_reducible assumption
    | with_reducible apply keep_ite
    | with_reducible apply Dev.errRsvd_inv
    | intro _
    | simp only [keep_mk]
    | split
    | dsimp only

theorem Dev.plainWrite_inv (d : Dev) (who : Initiator) (a : Nat) (w : Word) (locked : Bool) (h1 : d.inv) :
    (Dev.plainWrite d who a w locked).inv := by
  unfold Dev.plainWrite
  repeat' first
    | with_reducible assumption
    | with_reducible apply Dev.rsvd_inv
    | with_reducible apply Dev.setReg_inv
    | (intro x; refine keep_have x ?_ ?_ <;> first | (show x.inv; unfold x) | (intro _; clear_value x))
    | (intro x; refine keep_have1 x ?_ ?_ <;> first | (show x.1.inv; unfold x) | (intro _; clear_value x))
    | (intro x; clear_value x)
    | intro _
    | lift_lets
    | simp only [keep_mk]
    | split
    | dsimp only

theorem Dev.rejectWrite_inv (d : Dev) (who : Initiator) (a : Nat) (h1 : d.inv) :
    (Dev.rejectWrite d who a).inv := by
  unfold Dev.rejectWrite
  repeat' first
    | with_reducible assumption
    | with_reducible apply Dev.errRsvd_inv
    | intro _
    | dsimp only

end Sys2Proof.Machine
end

