-- ==== Sys2Proof/Laws/KeepCombine.lean ====
section
/-! SUPPORT. Every operation of Machine/Combine.lean keeps the invariant. -/

namespace Sys2Proof.Machine

open Sys2Proof

theorem Dev.freeWeights_inv (d : Dev) (y0 : List Nat) (h1 : d.inv) :
    (Dev.freeWeights d y0).2.inv := by
  induction y0 generalizing d with
  | nil =>
    (first | rw [Dev.freeWeights] | unfold Dev.freeWeights)
    repeat' first
      | with_reducible assumption
      | with_reducible apply Dev.free_inv
      | (intro x; refine keep_have x ?_ ?_ <;> first | (show x.inv; unfold x) | (intro _; clear_value x))
      | (intro x; refine keep_have1 x ?_ ?_ <;> first | (show x.1.inv; unfold x) | (intro _; clear_value x))
      | (intro x; refine keep_have2 x ?_ ?_ <;> first | (show x.2.inv; unfold x) | (intro _; clear_value x))
      | (intro x; clear_value x)
      | intro _
      | lift_lets
      | dsimp only
  | cons _ _ ih =>
    (first | rw [Dev.freeWeights] | unfold Dev.freeWeights)
    repeat' first
      | with_reducible assumption
      | with_reducible apply ih
      | with_reducible apply Dev.free_inv
      | (intro x; refine keep_have x ?_ ?_ <;> first | (show x.inv; unfold x) | (intro _; clear_value x))
      | (intro x; refine keep_have1 x ?_ ?_ <;> first | (show x.1.inv; unfold x) | (intro _; clear_value x))
      | (intro x; refine keep_have2 x ?_ ?_ <;> first | (show x.2.inv; unfold x) | (intro _; clear_value x))
      | (intro x; clear_value x)
      | intro _
      | lift_lets
      | dsimp only

theorem Dev.weightsOr_inv (d : Dev) (w : Option (List Cplx)) (h1 : d.inv) :
    (Dev.weightsOr d w).2.inv := by
  unfold Dev.weightsOr
  repeat' first
    | with_reducible assumption
    | with_reducible apply Dev.freeWeights_inv
    | intro _
    | simp only [keep_mk]
    | split
    | dsimp only

end Sys2Proof.Machine
end

