-- ==== Sys2Proof/Laws/KeepNdtMem.lean ====
section
/-! SUPPORT. Every operation of Machine/NdtMem.lean keeps the invariant. -/

namespace Sys2Proof.Machine

open Sys2Proof

theorem Dev.setCx_inv (d : Dev) (s : Nat) (f : CtxField) (v : Nat) (h1 : d.inv) :
    (Dev.setCx d s f v).inv := by
  unfold Dev.setCx
  repeat' first
    | with_reducible assumption
    | with_reducible apply Dev.setLe_inv
    | intro _
    | dsimp only

theorem Dev.replMark_inv (d : Dev) (s : Nat) (h1 : d.inv) :
    (Dev.replMark d s).inv := by
  unfold Dev.replMark
  repeat' first
    | with_reducible assumption
    | with_reducible apply keep_ite
    | intro _
    | simp only [keep_mk]
    | split
    | dsimp only

theorem Dev.replGone_inv (d : Dev) (s : Nat) (node : Nat) (seq : Nat) (h1 : d.inv) :
    (Dev.replGone d s node seq).inv := by
  unfold Dev.replGone
  repeat' first
    | with_reducible assumption
    | with_reducible apply keep_ite
    | with_reducible apply keep_ite1
    | with_reducible apply Dev.replMark_inv
    | (intro x; refine keep_have x ?_ ?_ <;> first | (show x.inv; unfold x) | (intro _; clear_value x))
    | (intro x; refine keep_have1 x ?_ ?_ <;> first | (show x.1.inv; unfold x) | (intro _; clear_value x))
    | (intro x; refine keep_haveD x ?_ ?_ <;> first | (show ∀ d : Dev, d.inv → (x d).inv; unfold x; intro _ _) | (intro hfD; clear_value x))
    | (intro x; refine keep_haveG x ?_ ?_ <;> first | (show ∀ (d : Dev) a, d.inv → (x d a).inv; unfold x; intro _ _ _) | (intro hfG; clear_value x))
    | (intro x; refine keep_haveG1 x ?_ ?_ <;> first | (show ∀ (d : Dev) a, d.inv → (x d a).1.inv; unfold x; intro _ _ _) | (intro hfP; clear_value x))
    | (intro x; refine keep_haveF x ?_ ?_ <;> first | (show ∀ a, (x a).inv; unfold x; intro _) | (intro hfF; clear_value x))
    | with_reducible apply hfD
    | with_reducible apply hfG
    | with_reducible apply hfP
    | with_reducible apply hfF
    | (intro x; clear_value x)
    | intro _
    | lift_lets
    | simp only [keep_mk]
    | split
    | dsimp only

theorem Dev.cxTouch_inv (d : Dev) (s : Nat) (h1 : d.inv) :
    (Dev.cxTouch d s).inv := by
  unfold Dev.cxTouch
  repeat' first
    | with_reducible assumption
    | with_reducible apply Dev.setCx_inv
    | with_reducible apply Dev.replMark_inv
    | intro _
    | dsimp only

theorem Dev.cxBump_inv (d : Dev) (s : Nat) (f : CtxField) (h1 : d.inv) :
    (Dev.cxBump d s f).inv := by
  unfold Dev.cxBump
  repeat' first
    | with_reducible assumption
    | with_reducible apply Dev.setCx_inv
    | intro _
    | dsimp only

theorem Dev.setRte_inv (d : Dev) (r : Nat) (node : Nat) (resident : Bool) (target : Nat) (member : Nat) (h1 : d.inv) :
    (Dev.setRte d r node resident target member).inv := by
  unfold Dev.setRte
  repeat' first
    | with_reducible assumption
    | with_reducible apply keep_ite
    | with_reducible apply keep_ite1
    | with_reducible apply Dev.setLe_inv
    | (intro x; refine keep_have x ?_ ?_ <;> first | (show x.inv; unfold x) | (intro _; clear_value x))
    | (intro x; refine keep_have1 x ?_ ?_ <;> first | (show x.1.inv; unfold x) | (intro _; clear_value x))
    | (intro x; clear_value x)
    | intro _
    | lift_lets
    | split
    | dsimp only

theorem Dev.clearRte_inv (d : Dev) (r : Nat) (h1 : d.inv) :
    (Dev.clearRte d r).inv := by
  unfold Dev.clearRte
  repeat' first
    | with_reducible assumption
    | with_reducible apply Dev.setLe_inv
    | intro _
    | dsimp only

theorem Dev.setRteMember_inv (d : Dev) (r : Nat) (m : Nat) (h1 : d.inv) :
    (Dev.setRteMember d r m).inv := by
  unfold Dev.setRteMember
  repeat' first
    | with_reducible assumption
    | with_reducible apply Dev.setLe_inv
    | intro _
    | dsimp only

theorem Dev.insertKey_inv (d : Dev) (k : IdxKey) (r : Nat) (h1 : d.inv) :
    (Dev.insertKey d k r).1.inv := by
  unfold Dev.insertKey
  repeat' first
    | with_reducible assumption
    | with_reducible apply keep_ite
    | with_reducible apply keep_ite1
    | with_reducible apply keep_ite2
    | with_reducible apply Dev.bump_inv
    | with_reducible apply Dev.setLe_inv
    | (intro x; refine keep_have x ?_ ?_ <;> first | (show x.inv; unfold x) | (intro _; clear_value x))
    | (intro x; refine keep_have1 x ?_ ?_ <;> first | (show x.1.inv; unfold x) | (intro _; clear_value x))
    | (intro x; refine keep_have2 x ?_ ?_ <;> first | (show x.2.inv; unfold x) | (intro _; clear_value x))
    | (intro x; clear_value x)
    | intro _
    | lift_lets
    | simp only [keep_mk]
    | split
    | dsimp only

theorem Dev.insertKeys_inv (d : Dev) (r : Nat) (y0 : List IdxKey) (h1 : d.inv) :
    (Dev.insertKeys d r y0).1.inv := by
  induction y0 generalizing d r with
  | nil =>
    (first | rw [Dev.insertKeys] | unfold Dev.insertKeys)
    repeat' first
      | with_reducible assumption
      | with_reducible apply keep_ite
      | with_reducible apply keep_ite1
      | with_reducible apply keep_ite2
      | with_reducible apply Dev.insertKey_inv
      | (intro x; refine keep_have x ?_ ?_ <;> first | (show x.inv; unfold x) | (intro _; clear_value x))
      | (intro x; refine keep_have1 x ?_ ?_ <;> first | (show x.1.inv; unfold x) | (intro _; clear_value x))
      | (intro x; refine keep_have2 x ?_ ?_ <;> first | (show x.2.inv; unfold x) | (intro _; clear_value x))
      | (intro x; clear_value x)
      | intro _
      | lift_lets
      | split
      | dsimp only
  | cons _ _ ih =>
    (first | rw [Dev.insertKeys] | unfold Dev.insertKeys)
    repeat' first
      | with_reducible assumption
      | with_reducible apply ih
      | with_reducible apply keep_ite
      | with_reducible apply keep_ite1
      | with_reducible apply keep_ite2
      | with_reducible apply Dev.insertKey_inv
      | (intro x; refine keep_have x ?_ ?_ <;> first | (show x.inv; unfold x) | (intro _; clear_value x))
      | (intro x; refine keep_have1 x ?_ ?_ <;> first | (show x.1.inv; unfold x) | (intro _; clear_value x))
      | (intro x; refine keep_have2 x ?_ ?_ <;> first | (show x.2.inv; unfold x) | (intro _; clear_value x))
      | (intro x; clear_value x)
      | intro _
      | lift_lets
      | split
      | dsimp only

theorem Dev.dropKeys_inv (d : Dev) (r : Nat) (p : Nat → Bool) (h1 : d.inv) :
    (Dev.dropKeys d r p).inv := by
  unfold Dev.dropKeys
  repeat' first
    | with_reducible assumption
    | with_reducible apply Dev.setLe_inv
    | with_reducible refine keep_foldl (fun d x hd => ?_) ?_
    | with_reducible refine keep_foldl1 (fun d x hd => ?_) ?_
    | intro _
    | dsimp only

end Sys2Proof.Machine
end

