-- ==== Sys2Proof/Laws/KeepKeys.lean ====
section
/-! SUPPORT. Every operation of Machine/Keys.lean keeps the invariant. -/

namespace Sys2Proof.Machine

open Sys2Proof

theorem Dev.blow_inv (d : Dev) (w : Nat) (b : Nat) (h1 : d.inv) :
    (Dev.blow d w b).inv := by
  unfold Dev.blow
  repeat' first
    | with_reducible assumption
    | intro _
    | simp only [keep_mk]
    | dsimp only

theorem Dev.lcStatusLoad_inv (d : Dev) (h1 : d.inv) :
    (Dev.lcStatusLoad d).inv := by
  unfold Dev.lcStatusLoad
  repeat' first
    | with_reducible assumption
    | with_reducible apply Dev.setReg_inv
    | (intro x; refine keep_have x ?_ ?_ <;> first | (show x.inv; unfold x) | (intro _; clear_value x))
    | (intro x; refine keep_have1 x ?_ ?_ <;> first | (show x.1.inv; unfold x) | (intro _; clear_value x))
    | (intro x; clear_value x)
    | intro _
    | lift_lets
    | simp only [keep_mk]
    | split
    | dsimp only

theorem Dev.slotChanged_inv (d : Dev) (n : Nat) (h1 : d.inv) :
    (Dev.slotChanged d n).inv := by
  unfold Dev.slotChanged
  repeat' first
    | with_reducible assumption
    | intro _
    | simp only [keep_mk]
    | dsimp only

theorem Dev.putKey_inv (d : Dev) (n : Nat) (key : List Byte) (long : Bool) (engines : Nat) (origin : Nat) (hdr : Nat) (owner : Nat) (h1 : d.inv) :
    (Dev.putKey d n key long engines origin hdr owner).inv := by
  unfold Dev.putKey
  repeat' first
    | with_reducible assumption
    | with_reducible apply Dev.free_inv
    | with_reducible apply Dev.slotChanged_inv
    | with_reducible apply Dev.setReg_inv
    | (intro x; refine keep_have x ?_ ?_ <;> first | (show x.inv; unfold x) | (intro _; clear_value x))
    | (intro x; refine keep_have1 x ?_ ?_ <;> first | (show x.1.inv; unfold x) | (intro _; clear_value x))
    | (intro x; refine keep_have2 x ?_ ?_ <;> first | (show x.2.inv; unfold x) | (intro _; clear_value x))
    | (intro x; clear_value x)
    | intro _
    | lift_lets
    | simp only [keep_mk]
    | dsimp only

theorem Dev.zeroSlot_inv (d : Dev) (n : Nat) (h1 : d.inv) :
    (Dev.zeroSlot d n).inv := by
  unfold Dev.zeroSlot
  repeat' first
    | with_reducible assumption
    | with_reducible apply Dev.slotChanged_inv
    | with_reducible apply Dev.setReg_inv
    | (intro x; refine keep_have x ?_ ?_ <;> first | (show x.inv; unfold x) | (intro _; clear_value x))
    | (intro x; refine keep_have1 x ?_ ?_ <;> first | (show x.1.inv; unfold x) | (intro _; clear_value x))
    | (intro x; clear_value x)
    | intro _
    | lift_lets
    | simp only [keep_mk]
    | dsimp only

theorem Dev.zeroAllSlots_inv (d : Dev) (h1 : d.inv) :
    (Dev.zeroAllSlots d).inv := by
  unfold Dev.zeroAllSlots
  repeat' first
    | with_reducible assumption
    | with_reducible apply Dev.clearRegs_inv
    | (intro x; refine keep_have x ?_ ?_ <;> first | (show x.inv; unfold x) | (intro _; clear_value x))
    | (intro x; refine keep_have1 x ?_ ?_ <;> first | (show x.1.inv; unfold x) | (intro _; clear_value x))
    | (intro x; refine keep_haveD x ?_ ?_ <;> first | (show ∀ d : Dev, d.inv → (x d).inv; unfold x; intro _ _) | (intro hfD; clear_value x))
    | (intro x; refine keep_haveG x ?_ ?_ <;> first | (show ∀ (d : Dev) a, d.inv → (x d a).inv; unfold x; intro _ _ _) | (intro hfG; clear_value x))
    | (intro x; refine keep_haveG1 x ?_ ?_ <;> first | (show ∀ (d : Dev) a, d.inv → (x d a).1.inv; unfold x; intro _ _ _) | (intro hfP; clear_value x))
    | (intro x; refine keep_haveF x ?_ ?_ <;> first | (show ∀ a, (x a).inv; unfold x; intro _) | (intro hfF; clear_value x))
    | with_reducible apply hfD
    | with_reducible apply hfG
    | with_reducible apply hfP
    | with_reducible apply hfF
    | (intro x; clear_value x)
    | intro _
    | lift_lets
    | simp only [keep_mk]
    | dsimp only

theorem Dev.touchKey_inv (d : Dev) (n : Nat) (h1 : d.inv) :
    (Dev.touchKey d n).inv := by
  unfold Dev.touchKey
  repeat' first
    | with_reducible assumption
    | intro _
    | simp only [keep_mk]
    | split
    | dsimp only

theorem Dev.setKeyData_inv (d : Dev) (bs : List Byte) (h1 : d.inv) :
    (Dev.setKeyData d bs).inv := by
  unfold Dev.setKeyData
  repeat' first
    | with_reducible assumption
    | with_reducible apply Dev.setReg_inv
    | with_reducible refine keep_foldl (fun d x hd => ?_) ?_
    | with_reducible refine keep_foldl1 (fun d x hd => ?_) ?_
    | intro _
    | dsimp only

theorem Dev.keyEffect_inv (d : Dev) (op : Nat) (slot : Nat) (kek : Bool) (h1 : d.inv) :
    (Dev.keyEffect d op slot kek).1.inv := by
  unfold Dev.keyEffect
  repeat' first
    | with_reducible assumption
    | with_reducible apply keep_ite
    | with_reducible apply keep_ite1
    | with_reducible apply Dev.putKey_inv
    | with_reducible apply Dev.zeroSlot_inv
    | with_reducible apply Dev.wr_inv
    | (intro x; refine keep_have x ?_ ?_ <;> first | (show x.inv; unfold x) | (intro _; clear_value x))
    | (intro x; refine keep_have1 x ?_ ?_ <;> first | (show x.1.inv; unfold x) | (intro _; clear_value x))
    | (intro x; clear_value x)
    | intro _
    | lift_lets
    | simp only [keep_mk]
    | split
    | dsimp only

theorem Dev.keyStart_inv (d : Dev) (op : Nat) (slot : Nat) (kek : Bool) (h1 : d.inv) :
    (Dev.keyStart d op slot kek).inv := by
  unfold Dev.keyStart
  repeat' first
    | with_reducible assumption
    | with_reducible apply Dev.wr_inv
    | with_reducible apply Dev.keyEffect_inv
    | (intro x; refine keep_have x ?_ ?_ <;> first | (show x.inv; unfold x) | (intro _; clear_value x))
    | (intro x; refine keep_have1 x ?_ ?_ <;> first | (show x.1.inv; unfold x) | (intro _; clear_value x))
    | (intro x; refine keep_have2 x ?_ ?_ <;> first | (show x.2.inv; unfold x) | (intro _; clear_value x))
    | (intro x; clear_value x)
    | intro _
    | lift_lets
    | simp only [keep_mk]
    | split
    | dsimp only

theorem keyCmd_inv (op : Nat) (who : Initiator) (slot : Nat) (kek : Bool) (d : Dev) (h1 : d.inv) :
    (keyCmd op who slot kek d).inv := by
  unfold keyCmd
  repeat' first
    | with_reducible assumption
    | with_reducible apply keep_ite
    | with_reducible apply Dev.refuseWrite_inv
    | with_reducible apply Dev.keyStart_inv
    | intro _
    | split
    | dsimp only

theorem Dev.keyCmdWrite_inv (d : Dev) (who : Initiator) (w : Word) (h1 : d.inv) :
    (Dev.keyCmdWrite d who w).inv := by
  unfold Dev.keyCmdWrite
  repeat' first
    | with_reducible assumption
    | with_reducible apply keep_ite
    | with_reducible apply keep_ite1
    | with_reducible apply Dev.refuseWrite_inv
    | with_reducible apply keyCmd_inv
    | with_reducible apply Dev.rejectWrite_inv
    | with_reducible apply Dev.rsvd_inv
    | (intro x; refine keep_have x ?_ ?_ <;> first | (show x.inv; unfold x) | (intro _; clear_value x))
    | (intro x; refine keep_have1 x ?_ ?_ <;> first | (show x.1.inv; unfold x) | (intro _; clear_value x))
    | (intro x; clear_value x)
    | intro _
    | lift_lets
    | split
    | dsimp only

theorem keyOperationDone_inv (d : Dev) (h1 : d.inv) :
    (keyOperationDone d).inv := by
  unfold keyOperationDone
  repeat' first
    | with_reducible assumption
    | with_reducible apply keep_ite
    | with_reducible apply keep_ite1
    | with_reducible apply Dev.wr_inv
    | with_reducible apply Dev.setKeyData_inv
    | with_reducible apply Dev.raise_inv
    | (intro x; refine keep_have x ?_ ?_ <;> first | (show x.inv; unfold x) | (intro _; clear_value x))
    | (intro x; refine keep_have1 x ?_ ?_ <;> first | (show x.1.inv; unfold x) | (intro _; clear_value x))
    | (intro x; clear_value x)
    | intro _
    | lift_lets
    | simp only [keep_mk]
    | split
    | dsimp only

theorem keySlotAttrWrite_inv (who : Initiator) (n : Nat) (w : Word) (d : Dev) (h1 : d.inv) :
    (keySlotAttrWrite who n w d).inv := by
  unfold keySlotAttrWrite
  repeat' first
    | with_reducible assumption
    | with_reducible apply keep_ite
    | with_reducible apply keep_ite1
    | with_reducible apply Dev.refuseWrite_inv
    | with_reducible apply Dev.rsvd_inv
    | with_reducible apply Dev.wr_inv
    | (intro x; refine keep_have x ?_ ?_ <;> first | (show x.inv; unfold x) | (intro _; clear_value x))
    | (intro x; refine keep_have1 x ?_ ?_ <;> first | (show x.1.inv; unfold x) | (intro _; clear_value x))
    | (intro x; clear_value x)
    | intro _
    | lift_lets
    | split
    | dsimp only

theorem keyBlobCfgWrite_inv (who : Initiator) (w : Word) (d : Dev) (h1 : d.inv) :
    (keyBlobCfgWrite who w d).inv := by
  unfold keyBlobCfgWrite
  repeat' first
    | with_reducible assumption
    | with_reducible apply keep_ite
    | with_reducible apply keep_ite1
    | with_reducible apply Dev.refuseWrite_inv
    | with_reducible apply Dev.rejectWrite_inv
    | with_reducible apply Dev.plainWrite_inv
    | (intro x; refine keep_have x ?_ ?_ <;> first | (show x.inv; unfold x) | (intro _; clear_value x))
    | (intro x; refine keep_have1 x ?_ ?_ <;> first | (show x.1.inv; unfold x) | (intro _; clear_value x))
    | (intro x; clear_value x)
    | intro _
    | lift_lets
    | split
    | dsimp only

theorem keyPoolWrite_inv (who : Initiator) (w : Word) (d : Dev) (h1 : d.inv) :
    (keyPoolWrite who w d).inv := by
  unfold keyPoolWrite
  repeat' first
    | with_reducible assumption
    | with_reducible apply keep_ite
    | with_reducible apply keep_ite1
    | with_reducible apply Dev.refuseWrite_inv
    | with_reducible apply Dev.rejectWrite_inv
    | with_reducible apply Dev.plainWrite_inv
    | (intro x; refine keep_have x ?_ ?_ <;> first | (show x.inv; unfold x) | (intro _; clear_value x))
    | (intro x; refine keep_have1 x ?_ ?_ <;> first | (show x.1.inv; unfold x) | (intro _; clear_value x))
    | (intro x; clear_value x)
    | intro _
    | lift_lets
    | split
    | dsimp only

theorem Dev.remask_inv (d : Dev) (y0 : List Nat) (h1 : d.inv) :
    (Dev.remask d y0).inv := by
  induction y0 generalizing d with
  | nil =>
    (first | rw [Dev.remask] | unfold Dev.remask)
    repeat' first
      | with_reducible assumption
      | with_reducible apply Dev.free_inv
      | (intro x; refine keep_have x ?_ ?_ <;> first | (show x.inv; unfold x) | (intro _; clear_value x))
      | (intro x; refine keep_have1 x ?_ ?_ <;> first | (show x.1.inv; unfold x) | (intro _; clear_value x))
      | (intro x; refine keep_have2 x ?_ ?_ <;> first | (show x.2.inv; unfold x) | (intro _; clear_value x))
      | (intro x; clear_value x)
      | intro _
      | lift_lets
      | simp only [keep_mk]
      | split
      | dsimp only
  | cons _ _ ih =>
    (first | rw [Dev.remask] | unfold Dev.remask)
    repeat' first
      | with_reducible assumption
      | with_reducible apply ih
      | with_reducible apply Dev.free_inv
      | (intro x; refine keep_have x ?_ ?_ <;> first | (show x.inv; unfold x) | (intro _; clear_value x))
      | (intro x; refine keep_have1 x ?_ ?_ <;> first | (show x.1.inv; unfold x) | (intro _; clear_value x))
      | (intro x; refine keep_have2 x ?_ ?_ <;> first | (show x.2.inv; unfold x) | (intro _; clear_value x))
      | (intro x; clear_value x)
      | intro _
      | lift_lets
      | simp only [keep_mk]
      | split
      | dsimp only

theorem remaskSweep_inv (d : Dev) (h1 : d.inv) :
    (remaskSweep d).inv := by
  unfold remaskSweep
  repeat' first
    | with_reducible assumption
    | with_reducible apply keep_ite
    | with_reducible apply keep_ite1
    | with_reducible apply Dev.remask_inv
    | (intro x; refine keep_have x ?_ ?_ <;> first | (show x.inv; unfold x) | (intro _; clear_value x))
    | (intro x; refine keep_have1 x ?_ ?_ <;> first | (show x.1.inv; unfold x) | (intro _; clear_value x))
    | (intro x; clear_value x)
    | intro _
    | lift_lets
    | simp only [keep_mk]
    | split
    | dsimp only

theorem Dev.deriveRoots_inv (d : Dev) (h1 : d.inv) :
    (Dev.deriveRoots d).inv := by
  unfold Dev.deriveRoots
  repeat' first
    | with_reducible assumption
    | with_reducible apply Dev.setBytes_inv
    | (intro x; refine keep_have x ?_ ?_ <;> first | (show x.inv; unfold x) | (intro _; clear_value x))
    | (intro x; refine keep_have1 x ?_ ?_ <;> first | (show x.1.inv; unfold x) | (intro _; clear_value x))
    | (intro x; clear_value x)
    | intro _
    | lift_lets
    | simp only [keep_mk]
    | split
    | dsimp only

theorem Dev.zeroVolatile_inv (d : Dev) (h1 : d.inv) :
    (Dev.zeroVolatile d).inv := by
  unfold Dev.zeroVolatile
  repeat' first
    | with_reducible assumption
    | with_reducible apply Dev.zeroAllSlots_inv
    | with_reducible apply Dev.setBytes_inv
    | with_reducible apply Dev.setKeyData_inv
    | with_reducible apply Dev.setReg_inv
    | (intro x; refine keep_have x ?_ ?_ <;> first | (show x.inv; unfold x) | (intro _; clear_value x))
    | (intro x; refine keep_have1 x ?_ ?_ <;> first | (show x.1.inv; unfold x) | (intro _; clear_value x))
    | (intro x; clear_value x)
    | intro _
    | lift_lets
    | simp only [keep_mk]
    | dsimp only

end Sys2Proof.Machine
end

