-- ==== Sys2Proof/Laws/KeepRegion.lean ====
section
/-! SUPPORT. Every operation of Machine/Region.lean keeps the invariant. -/

namespace Sys2Proof.Machine

open Sys2Proof

theorem Dev.regStatusUpdate_inv (d : Dev) (h1 : d.inv) :
    (Dev.regStatusUpdate d).inv := by
  unfold Dev.regStatusUpdate
  repeat' first
    | with_reducible assumption
    | with_reducible apply keep_ite
    | with_reducible apply keep_ite1
    | with_reducible apply Dev.wr_inv
    | with_reducible apply Dev.raise_inv
    | (intro x; refine keep_have x ?_ ?_ <;> first | (show x.inv; unfold x) | (intro _; clear_value x))
    | (intro x; refine keep_have1 x ?_ ?_ <;> first | (show x.1.inv; unfold x) | (intro _; clear_value x))
    | (intro x; clear_value x)
    | intro _
    | lift_lets
    | split
    | dsimp only

theorem Dev.mirrorLoadWord_inv (d : Dev) (w : Nat) (h1 : d.inv) :
    (Dev.mirrorLoadWord d w).inv := by
  unfold Dev.mirrorLoadWord
  repeat' first
    | with_reducible assumption
    | with_reducible apply Dev.setReg_inv
    | intro _
    | simp only [keep_mk]
    | split
    | dsimp only

theorem Dev.setDutyHist_inv (d : Dev) (e : Nat) (h : DutyEntry) (h1 : d.inv) :
    (Dev.setDutyHist d e h).inv := by
  unfold Dev.setDutyHist
  repeat' first
    | with_reducible assumption
    | intro _
    | simp only [keep_mk]
    | dsimp only

theorem Dev.dutyRegs_inv (d : Dev) (e : Nat) (h1 : d.inv) :
    (Dev.dutyRegs d e).inv := by
  unfold Dev.dutyRegs
  repeat' first
    | with_reducible assumption
    | with_reducible apply Dev.wr_inv
    | intro _
    | dsimp only

theorem Dev.dutyReserve_inv (d : Dev) (e : Option Nat) (sub : Bool) (c : Nat) (a : Nat) (h1 : d.inv) :
    (Dev.dutyReserve d e sub c a).inv := by
  unfold Dev.dutyReserve
  repeat' first
    | with_reducible assumption
    | with_reducible apply Dev.wr_inv
    | (intro x; refine keep_have x ?_ ?_ <;> first | (show x.inv; unfold x) | (intro _; clear_value x))
    | (intro x; refine keep_have1 x ?_ ?_ <;> first | (show x.1.inv; unfold x) | (intro _; clear_value x))
    | (intro x; clear_value x)
    | intro _
    | lift_lets
    | simp only [keep_mk]
    | split
    | dsimp only

theorem Dev.dutyRelease_inv (d : Dev) (e : Option Nat) (sub : Bool) (c : Nat) (a : Nat) (h1 : d.inv) :
    (Dev.dutyRelease d e sub c a).inv := by
  unfold Dev.dutyRelease
  repeat' first
    | with_reducible assumption
    | with_reducible apply keep_ite
    | with_reducible apply keep_ite1
    | with_reducible apply Dev.wr_inv
    | (intro x; refine keep_have x ?_ ?_ <;> first | (show x.inv; unfold x) | (intro _; clear_value x))
    | (intro x; refine keep_have1 x ?_ ?_ <;> first | (show x.1.inv; unfold x) | (intro _; clear_value x))
    | (intro x; clear_value x)
    | intro _
    | lift_lets
    | simp only [keep_mk]
    | split
    | dsimp only

theorem Dev.bucketCharge_inv (d : Dev) (e : Option Nat) (units : Nat) (h1 : d.inv) :
    (Dev.bucketCharge d e units).inv := by
  unfold Dev.bucketCharge
  repeat' first
    | with_reducible assumption
    | with_reducible apply Dev.setDutyHist_inv
    | with_reducible apply Dev.dutyRegs_inv
    | (intro x; refine keep_have x ?_ ?_ <;> first | (show x.inv; unfold x) | (intro _; clear_value x))
    | (intro x; refine keep_have1 x ?_ ?_ <;> first | (show x.1.inv; unfold x) | (intro _; clear_value x))
    | (intro x; clear_value x)
    | intro _
    | lift_lets
    | simp only [keep_mk]
    | split
    | dsimp only

theorem Dev.dwellCharge_inv (d : Dev) (sub : Bool) (c : Nat) (units : Nat) (h1 : d.inv) :
    (Dev.dwellCharge d sub c units).inv := by
  unfold Dev.dwellCharge
  repeat' first
    | with_reducible assumption
    | with_reducible apply keep_ite
    | intro _
    | simp only [keep_mk]
    | split
    | dsimp only

theorem Dev.dutyChargeFrame_inv (d : Dev) (e : Option Nat) (sub : Bool) (c : Nat) (a : Nat) (usedUs : Nat) (h1 : d.inv) :
    (Dev.dutyChargeFrame d e sub c a usedUs).inv := by
  unfold Dev.dutyChargeFrame
  repeat' first
    | with_reducible assumption
    | with_reducible apply Dev.dutyRelease_inv
    | with_reducible apply Dev.bucketCharge_inv
    | with_reducible apply Dev.dwellCharge_inv
    | (intro x; refine keep_have x ?_ ?_ <;> first | (show x.inv; unfold x) | (intro _; clear_value x))
    | (intro x; refine keep_have1 x ?_ ?_ <;> first | (show x.1.inv; unfold x) | (intro _; clear_value x))
    | (intro x; clear_value x)
    | intro _
    | lift_lets
    | dsimp only

theorem Dev.preloadStatus_inv (d : Dev) (h1 : d.inv) :
    (Dev.preloadStatus d).inv := by
  unfold Dev.preloadStatus
  repeat' first
    | with_reducible assumption
    | with_reducible apply Dev.wr_inv
    | intro _
    | dsimp only

theorem Dev.preloadEntry_inv (d : Dev) (e : Nat) (h1 : d.inv) :
    (Dev.preloadEntry d e).inv := by
  unfold Dev.preloadEntry
  repeat' first
    | with_reducible assumption
    | with_reducible apply keep_ite
    | with_reducible apply keep_ite1
    | with_reducible apply Dev.setDutyHist_inv
    | with_reducible apply Dev.wr_inv
    | (intro x; refine keep_have x ?_ ?_ <;> first | (show x.inv; unfold x) | (intro _; clear_value x))
    | (intro x; refine keep_have1 x ?_ ?_ <;> first | (show x.1.inv; unfold x) | (intro _; clear_value x))
    | (intro x; clear_value x)
    | intro _
    | lift_lets
    | simp only [keep_mk]
    | split
    | dsimp only

theorem Dev.mirrorLoad_inv (d : Dev) (h1 : d.inv) :
    (Dev.mirrorLoad d).inv := by
  unfold Dev.mirrorLoad
  repeat' first
    | with_reducible assumption
    | with_reducible apply keep_ite
    | with_reducible apply keep_ite1
    | with_reducible apply keep_ite2
    | with_reducible apply Dev.mirrorLoadWord_inv
    | with_reducible apply Dev.regStatusUpdate_inv
    | with_reducible apply Dev.preloadEntry_inv
    | with_reducible apply Dev.wr_inv
    | with_reducible apply Dev.dutyRegs_inv
    | with_reducible apply Dev.preloadStatus_inv
    | with_reducible refine keep_foldl (fun d x hd => ?_) ?_
    | with_reducible refine keep_foldl1 (fun d x hd => ?_) ?_
    | (intro x; refine keep_have x ?_ ?_ <;> first | (show x.inv; unfold x) | (intro _; clear_value x))
    | (intro x; refine keep_have1 x ?_ ?_ <;> first | (show x.1.inv; unfold x) | (intro _; clear_value x))
    | (intro x; refine keep_have2 x ?_ ?_ <;> first | (show x.2.inv; unfold x) | (intro _; clear_value x))
    | (intro x; clear_value x)
    | intro _
    | lift_lets
    | simp only [keep_mk]
    | split
    | dsimp only

theorem Dev.startReload_inv (d : Dev) (ws : List Nat) (h1 : d.inv) :
    (Dev.startReload d ws).inv := by
  unfold Dev.startReload
  repeat' first
    | with_reducible assumption
    | intro _
    | simp only [keep_mk]
    | dsimp only

theorem regMirrorCheck_inv (flips : List (Nat × Nat)) (d : Dev) (h1 : d.inv) :
    (regMirrorCheck flips d).inv := by
  unfold regMirrorCheck
  repeat' first
    | with_reducible assumption
    | with_reducible apply keep_ite
    | with_reducible apply keep_ite1
    | with_reducible apply keep_ite2
    | with_reducible apply Dev.setReg_inv
    | with_reducible apply Dev.startReload_inv
    | with_reducible refine keep_foldl (fun d x hd => ?_) ?_
    | with_reducible refine keep_foldl1 (fun d x hd => ?_) ?_
    | (intro x; refine keep_have x ?_ ?_ <;> first | (show x.inv; unfold x) | (intro _; clear_value x))
    | (intro x; refine keep_have1 x ?_ ?_ <;> first | (show x.1.inv; unfold x) | (intro _; clear_value x))
    | (intro x; refine keep_have2 x ?_ ?_ <;> first | (show x.2.inv; unfold x) | (intro _; clear_value x))
    | (intro x; clear_value x)
    | intro _
    | lift_lets
    | split
    | dsimp only

theorem regMirrorReloadDone_inv (w : Nat) (d : Dev) (h1 : d.inv) :
    (regMirrorReloadDone w d).inv := by
  unfold regMirrorReloadDone
  repeat' first
    | with_reducible assumption
    | with_reducible apply keep_ite
    | with_reducible apply keep_ite1
    | with_reducible apply keep_ite2
    | with_reducible apply Dev.mirrorLoadWord_inv
    | with_reducible apply Dev.free_inv
    | with_reducible apply Dev.transient_inv
    | with_reducible apply Dev.regStatusUpdate_inv
    | with_reducible apply Dev.wr_inv
    | (intro x; refine keep_have x ?_ ?_ <;> first | (show x.inv; unfold x) | (intro _; clear_value x))
    | (intro x; refine keep_have1 x ?_ ?_ <;> first | (show x.1.inv; unfold x) | (intro _; clear_value x))
    | (intro x; refine keep_have2 x ?_ ?_ <;> first | (show x.2.inv; unfold x) | (intro _; clear_value x))
    | (intro x; clear_value x)
    | intro _
    | lift_lets
    | simp only [keep_mk]
    | split
    | dsimp only

theorem Dev.progEnd_inv (d : Dev) (r : Nat) (word : Nat) (h1 : d.inv) :
    (Dev.progEnd d r word).inv := by
  unfold Dev.progEnd
  repeat' first
    | with_reducible assumption
    | with_reducible apply Dev.wr_inv
    | intro _
    | simp only [keep_mk]
    | dsimp only

theorem Dev.progStart_inv (d : Dev) (sealing : Bool) (w : Nat) (v : Nat) (h1 : d.inv) :
    (Dev.progStart d sealing w v).inv := by
  unfold Dev.progStart
  repeat' first
    | with_reducible assumption
    | with_reducible apply keep_ite
    | with_reducible apply Dev.progEnd_inv
    | with_reducible apply Dev.wr_inv
    | intro _
    | simp only [keep_mk]
    | split
    | dsimp only

theorem Dev.regProg_inv (d : Dev) (w : Nat) (h1 : d.inv) :
    (Dev.regProg d w).inv := by
  unfold Dev.regProg
  repeat' first
    | with_reducible assumption
    | with_reducible apply keep_ite
    | with_reducible apply keep_ite1
    | with_reducible apply Dev.wr_inv
    | with_reducible apply Dev.progEnd_inv
    | with_reducible apply Dev.progStart_inv
    | (intro x; refine keep_have x ?_ ?_ <;> first | (show x.inv; unfold x) | (intro _; clear_value x))
    | (intro x; refine keep_have1 x ?_ ?_ <;> first | (show x.1.inv; unfold x) | (intro _; clear_value x))
    | (intro x; clear_value x)
    | intro _
    | lift_lets
    | split
    | dsimp only

theorem Dev.regSeal_inv (d : Dev) (h1 : d.inv) :
    (Dev.regSeal d).inv := by
  unfold Dev.regSeal
  repeat' first
    | with_reducible assumption
    | with_reducible apply keep_ite
    | with_reducible apply keep_ite1
    | with_reducible apply Dev.wr_inv
    | with_reducible apply Dev.progEnd_inv
    | with_reducible apply Dev.progStart_inv
    | (intro x; refine keep_have x ?_ ?_ <;> first | (show x.inv; unfold x) | (intro _; clear_value x))
    | (intro x; refine keep_have1 x ?_ ?_ <;> first | (show x.1.inv; unfold x) | (intro _; clear_value x))
    | (intro x; clear_value x)
    | intro _
    | lift_lets
    | simp only [keep_mk]
    | split
    | dsimp only

theorem Dev.regProgCmd_inv (d : Dev) (who : Initiator) (secure : Bool) (w : Word) (h1 : d.inv) :
    (Dev.regProgCmd d who secure w).inv := by
  unfold Dev.regProgCmd
  repeat' first
    | with_reducible assumption
    | with_reducible apply keep_ite
    | with_reducible apply keep_ite1
    | with_reducible apply Dev.refuseWrite_inv
    | with_reducible apply Dev.errRsvd_inv
    | with_reducible apply Dev.regProg_inv
    | with_reducible apply Dev.regSeal_inv
    | (intro x; refine keep_have x ?_ ?_ <;> first | (show x.inv; unfold x) | (intro _; clear_value x))
    | (intro x; refine keep_have1 x ?_ ?_ <;> first | (show x.1.inv; unfold x) | (intro _; clear_value x))
    | (intro x; clear_value x)
    | intro _
    | lift_lets
    | simp only [keep_mk]
    | split
    | dsimp only

theorem Dev.regionBit_inv (d : Dev) (good : Bool) (h1 : d.inv) :
    (Dev.regionBit d good).inv := by
  unfold Dev.regionBit
  repeat' first
    | with_reducible assumption
    | with_reducible apply keep_ite
    | with_reducible apply keep_ite1
    | with_reducible apply Dev.mirrorLoadWord_inv
    | with_reducible apply Dev.progEnd_inv
    | with_reducible apply Dev.regStatusUpdate_inv
    | with_reducible apply Dev.progStart_inv
    | (intro x; refine keep_have x ?_ ?_ <;> first | (show x.inv; unfold x) | (intro _; clear_value x))
    | (intro x; refine keep_have1 x ?_ ?_ <;> first | (show x.1.inv; unfold x) | (intro _; clear_value x))
    | (intro x; clear_value x)
    | intro _
    | lift_lets
    | simp only [keep_mk]
    | split
    | dsimp only

theorem Dev.bucketEntry_inv (d : Dev) (e : Nat) (h1 : d.inv) :
    (Dev.bucketEntry d e).inv := by
  unfold Dev.bucketEntry
  repeat' first
    | with_reducible assumption
    | with_reducible apply keep_ite
    | with_reducible apply keep_ite1
    | with_reducible apply Dev.setDutyHist_inv
    | with_reducible apply Dev.wr_inv
    | with_reducible apply Dev.dutyRegs_inv
    | (intro x; refine keep_have x ?_ ?_ <;> first | (show x.inv; unfold x) | (intro _; clear_value x))
    | (intro x; refine keep_have1 x ?_ ?_ <;> first | (show x.1.inv; unfold x) | (intro _; clear_value x))
    | (intro x; clear_value x)
    | intro _
    | lift_lets
    | simp only [keep_mk]
    | split
    | dsimp only

theorem dutyBucketAdvance_inv (d : Dev) (h1 : d.inv) :
    (dutyBucketAdvance d).inv := by
  unfold dutyBucketAdvance
  repeat' first
    | with_reducible assumption
    | with_reducible apply keep_ite
    | with_reducible apply keep_ite1
    | with_reducible apply keep_ite2
    | with_reducible apply Dev.bucketEntry_inv
    | with_reducible apply Dev.preloadStatus_inv
    | with_reducible refine keep_foldl (fun d x hd => ?_) ?_
    | with_reducible refine keep_foldl1 (fun d x hd => ?_) ?_
    | (intro x; refine keep_have x ?_ ?_ <;> first | (show x.inv; unfold x) | (intro _; clear_value x))
    | (intro x; refine keep_have1 x ?_ ?_ <;> first | (show x.1.inv; unfold x) | (intro _; clear_value x))
    | (intro x; refine keep_have2 x ?_ ?_ <;> first | (show x.2.inv; unfold x) | (intro _; clear_value x))
    | (intro x; clear_value x)
    | intro _
    | lift_lets
    | simp only [keep_mk]
    | split
    | dsimp only

end Sys2Proof.Machine
end

