-- ==== Sys2Proof/Laws/KeepReset.lean ====
section
/-! SUPPORT. Every operation of Machine/Reset.lean keeps the invariant. -/

namespace Sys2Proof.Machine

open Sys2Proof

theorem Dev.setVotes_inv (d : Dev) (v : Nat) (w : Nat) (h1 : d.inv) :
    (Dev.setVotes d v w).inv := by
  unfold Dev.setVotes
  repeat' first
    | with_reducible assumption
    | with_reducible apply Dev.setReg_inv
    | intro _
    | dsimp only

theorem Dev.bootCode_inv (d : Dev) (c : Nat) (h1 : d.inv) :
    (Dev.bootCode d c).inv := by
  unfold Dev.bootCode
  repeat' first
    | with_reducible assumption
    | with_reducible apply Dev.wr_inv
    | intro _
    | dsimp only

theorem Dev.bootHalt_inv (d : Dev) (c : Nat) (h1 : d.inv) : (Dev.bootHalt d c).inv := by
  unfold Dev.bootHalt
  extract_lets _ _ _ e x f
  have he : e.inv := by
    unfold e
    simp only [keep_mk]
    exact Dev.bootCode_inv _ _ h1
  clear_value e
  have hf : f.inv := Dev.setCore_inv _ _ _ he fun hn =>
    (Core.ok_mk 0 _ _ _ _ _ _ _ _ _ _ _ _ _ _ _ _).mpr (Dev.inv_core he hn)
  exact Dev.settle_inv _ (Dev.setVotes_inv _ _ _ hf)

theorem Dev.bootStart_inv (d : Dev) (h1 : d.inv) :
    (Dev.bootStart d).inv := by
  unfold Dev.bootStart
  repeat' first
    | with_reducible assumption
    | with_reducible apply keep_ite
    | with_reducible apply keep_ite1
    | with_reducible apply Dev.setReg_inv
    | with_reducible apply Dev.lcStatusLoad_inv
    | with_reducible apply Dev.setVotes_inv
    | with_reducible apply Dev.settle_inv
    | with_reducible apply Dev.bootHalt_inv
    | (intro x; refine keep_have x ?_ ?_ <;> first | (show x.inv; unfold x) | (intro _; clear_value x))
    | (intro x; refine keep_have1 x ?_ ?_ <;> first | (show x.1.inv; unfold x) | (intro _; clear_value x))
    | (intro x; clear_value x)
    | intro _
    | lift_lets
    | simp only [keep_mk]
    | split
    | dsimp only

theorem Dev.resetCause_inv (d : Dev) (cause : Nat) (h1 : d.inv) :
    (Dev.resetCause d cause).inv := by
  unfold Dev.resetCause
  repeat' first
    | with_reducible assumption
    | with_reducible apply Dev.setReg_inv
    | intro _
    | dsimp only

theorem Dev.stopFrame_inv (d : Dev) (f : TxFrame) (h1 : d.inv) :
    (Dev.stopFrame d f).inv := by
  unfold Dev.stopFrame
  repeat' first
    | with_reducible assumption
    | with_reducible apply keep_ite
    | with_reducible apply Dev.dutyChargeFrame_inv
    | with_reducible apply Dev.dutyRelease_inv
    | intro _
    | simp only [keep_mk]
    | split
    | dsimp only

theorem Dev.stopFrames_inv (d : Dev) (h1 : d.inv) :
    (Dev.stopFrames d).inv := by
  unfold Dev.stopFrames
  repeat' first
    | with_reducible assumption
    | with_reducible apply Dev.stopFrame_inv
    | with_reducible refine keep_foldl (fun d x hd => ?_) ?_
    | with_reducible refine keep_foldl1 (fun d x hd => ?_) ?_
    | intro _
    | dsimp only

theorem Dev.rfsRestart_inv (d : Dev) (h1 : d.inv) :
    (Dev.rfsRestart d).inv := by
  unfold Dev.rfsRestart
  repeat' first
    | with_reducible assumption
    | with_reducible apply Dev.wr_inv
    | with_reducible refine keep_foldl (fun d x hd => ?_) ?_
    | with_reducible refine keep_foldl1 (fun d x hd => ?_) ?_
    | (intro x; refine keep_have x ?_ ?_ <;> first | (show x.inv; unfold x) | (intro _; clear_value x))
    | (intro x; refine keep_have1 x ?_ ?_ <;> first | (show x.1.inv; unfold x) | (intro _; clear_value x))
    | (intro x; clear_value x)
    | intro _
    | lift_lets
    | dsimp only

theorem Dev.restart_inv (d : Dev) (cause : Nat) (h1 : d.inv) :
    (Dev.restart d cause).inv := by
  unfold Dev.restart
  lift_lets
  intro m22 kept fresh aborted st p w r e
  have he : e.inv := by
    have h0 := Dev.reset_inv
    unfold e Dev.inv at *
    refine ⟨spWf_filter _ h1.1, ?_, h0.2.2⟩
    show Memory.wf (if kept then d.mem.filter fun c => isNodeMemory c.1 else []) = true
    split
    · exact spWf_filter _ h1.2.1
    · rfl
  clear_value e
  repeat' first
    | with_reducible assumption
    | with_reducible apply keep_ite
    | with_reducible apply Dev.bootStart_inv
    | with_reducible apply Dev.rfsRestart_inv
    | with_reducible apply Dev.abortEntry_inv
    | with_reducible apply Dev.setVotes_inv
    | with_reducible apply Dev.wr_inv
    | with_reducible apply Dev.setReg_inv
    | (intro x; refine keep_have x ?_ ?_ <;> first | (show x.inv; unfold x) | (intro _; clear_value x))

theorem Dev.systemReset_inv (d : Dev) (cause : Nat) (h1 : d.inv) :
    (Dev.systemReset d cause).inv := by
  unfold Dev.systemReset
  repeat' first
    | with_reducible assumption
    | with_reducible apply Dev.stopFrames_inv
    | with_reducible apply Dev.restart_inv
    | intro _
    | dsimp only

theorem Dev.powerOnReset_inv (d : Dev) (h1 : d.inv) :
    (Dev.powerOnReset d).inv := by
  have h0 := Dev.reset_inv
  unfold Dev.powerOnReset
  extract_lets r e
  have he : e.inv := by
    unfold e Dev.inv at *
    exact ⟨spWf_write (dflt := regReset) (l := []) rfl, rfl, h0.2.2⟩
  clear_value e
  exact keep_ite (Dev.resetCause_inv _ _ he) he

end Sys2Proof.Machine
end

