-- ==== Sys2Proof/Laws/KeepPulse.lean ====
section
/-! SUPPORT. Every operation of Machine/Pulse.lean keeps the invariant. -/

namespace Sys2Proof.Machine

open Sys2Proof

theorem Dev.setChainState_inv (d : Dev) (i : Nat) (v : Nat) (h1 : d.inv) :
    (Dev.setChainState d i v).inv := by
  unfold Dev.setChainState
  repeat' first
    | with_reducible assumption
    | with_reducible apply keep_ite
    | with_reducible apply keep_ite1
    | with_reducible apply Dev.txEnd_inv
    | with_reducible apply Dev.wr_inv
    | (intro x; refine keep_have x ?_ ?_ <;> first | (show x.inv; unfold x) | (intro _; clear_value x))
    | (intro x; refine keep_have1 x ?_ ?_ <;> first | (show x.1.inv; unfold x) | (intro _; clear_value x))
    | (intro x; clear_value x)
    | intro _
    | lift_lets
    | simp only [keep_mk]
    | split
    | dsimp only

theorem Dev.shapeRestore_inv (d : Dev) (who : Initiator) (n : Nat) (t : Nat) (h1 : d.inv) :
    (Dev.shapeRestore d who n t).inv := by
  unfold Dev.shapeRestore
  repeat' first
    | with_reducible assumption
    | with_reducible apply keep_ite
    | with_reducible apply Dev.refuseWrite_inv
    | with_reducible apply Dev.setReg_inv
    | with_reducible refine keep_foldl (fun d x hd => ?_) ?_
    | with_reducible refine keep_foldl1 (fun d x hd => ?_) ?_
    | intro _
    | split
    | dsimp only

theorem Dev.shapeActivate_inv (d : Dev) (n : Nat) (t : Nat) (h1 : d.inv) :
    (Dev.shapeActivate d n t).inv := by
  unfold Dev.shapeActivate
  repeat' first
    | with_reducible assumption
    | with_reducible apply Dev.wr_inv
    | (intro x; refine keep_have x ?_ ?_ <;> first | (show x.inv; unfold x) | (intro _; clear_value x))
    | (intro x; refine keep_have1 x ?_ ?_ <;> first | (show x.1.inv; unfold x) | (intro _; clear_value x))
    | (intro x; clear_value x)
    | intro _
    | lift_lets
    | simp only [keep_mk]
    | dsimp only

theorem Dev.shapeCommit_inv (d : Dev) (who : Initiator) (n : Nat) (t : Nat) (h1 : d.inv) :
    (Dev.shapeCommit d who n t).inv := by
  unfold Dev.shapeCommit
  repeat' first
    | with_reducible assumption
    | with_reducible apply keep_ite
    | with_reducible apply keep_ite1
    | with_reducible apply Dev.refuseWrite_inv
    | with_reducible apply Dev.wr_inv
    | with_reducible apply Dev.shapeActivate_inv
    | (intro x; refine keep_have x ?_ ?_ <;> first | (show x.inv; unfold x) | (intro _; clear_value x))
    | (intro x; refine keep_have1 x ?_ ?_ <;> first | (show x.1.inv; unfold x) | (intro _; clear_value x))
    | (intro x; clear_value x)
    | intro _
    | lift_lets
    | split
    | dsimp only

theorem Dev.shapeFlush_inv (d : Dev) (n : Nat) (h1 : d.inv) :
    (Dev.shapeFlush d n).inv := by
  unfold Dev.shapeFlush
  repeat' first
    | with_reducible assumption
    | with_reducible apply keep_ite
    | with_reducible apply Dev.shapeActivate_inv
    | with_reducible refine keep_foldl (fun d x hd => ?_) ?_
    | with_reducible refine keep_foldl1 (fun d x hd => ?_) ?_
    | intro _
    | split
    | dsimp only

theorem Dev.shapeCtrlWrite_inv (d : Dev) (who : Initiator) (n : Nat) (w : Word) (h1 : d.inv) :
    (Dev.shapeCtrlWrite d who n w).inv := by
  unfold Dev.shapeCtrlWrite
  repeat' first
    | with_reducible assumption
    | with_reducible apply keep_ite
    | with_reducible apply keep_ite1
    | with_reducible apply Dev.shapeRestore_inv
    | with_reducible apply Dev.shapeCommit_inv
    | with_reducible refine keep_foldl (fun d x hd => ?_) ?_
    | with_reducible refine keep_foldl1 (fun d x hd => ?_) ?_
    | (intro x; refine keep_have x ?_ ?_ <;> first | (show x.inv; unfold x) | (intro _; clear_value x))
    | (intro x; refine keep_have1 x ?_ ?_ <;> first | (show x.1.inv; unfold x) | (intro _; clear_value x))
    | (intro x; clear_value x)
    | intro _
    | lift_lets
    | split
    | dsimp only

end Sys2Proof.Machine
end

