-- ==== Sys2Proof/Laws/KeepRxw.lean ====
section
/-! SUPPORT. Every operation of Machine/Rxw.lean keeps the invariant. -/

namespace Sys2Proof.Machine

open Sys2Proof

theorem Dev.setGain_inv (d : Dev) (m : Nat) (g : Gain) (h1 : d.inv) :
    (Dev.setGain d m g).inv := by
  unfold Dev.setGain
  repeat' first
    | with_reducible assumption
    | intro _
    | simp only [keep_mk]
    | dsimp only

theorem Dev.setCastling_inv (d : Dev) (m : Nat) (c : Option (Bool × Nat)) (h1 : d.inv) :
    (Dev.setCastling d m c).inv := by
  unfold Dev.setCastling
  repeat' first
    | with_reducible assumption
    | with_reducible apply Dev.setGain_inv
    | with_reducible apply castling_inv
    | intro _
    | simp only [keep_mk]
    | dsimp only

theorem gainWindowEnd_inv (m : Nat) (full : Nat) (peak : Int) (d : Dev) (h1 : d.inv) :
    (gainWindowEnd m full peak d).inv := by
  unfold gainWindowEnd
  repeat' first
    | with_reducible assumption
    | with_reducible apply keep_ite
    | with_reducible apply keep_ite1
    | with_reducible apply Dev.bumpBy_inv
    | with_reducible apply Dev.setCastling_inv
    | (intro x; refine keep_have x ?_ ?_ <;> first | (show x.inv; unfold x) | (intro _; clear_value x))
    | (intro x; refine keep_have1 x ?_ ?_ <;> first | (show x.1.inv; unfold x) | (intro _; clear_value x))
    | (intro x; clear_value x)
    | intro _
    | lift_lets
    | split
    | dsimp only

theorem gainQuietIntervalEnd_inv (m : Nat) (peak : Int) (d : Dev) (h1 : d.inv) :
    (gainQuietIntervalEnd m peak d).inv := by
  unfold gainQuietIntervalEnd
  repeat' first
    | with_reducible assumption
    | with_reducible apply keep_ite
    | with_reducible apply keep_ite1
    | with_reducible apply Dev.setCastling_inv
    | (intro x; refine keep_have x ?_ ?_ <;> first | (show x.inv; unfold x) | (intro _; clear_value x))
    | (intro x; refine keep_have1 x ?_ ?_ <;> first | (show x.1.inv; unfold x) | (intro _; clear_value x))
    | (intro x; clear_value x)
    | intro _
    | lift_lets
    | split
    | dsimp only

theorem Dev.castleTo_inv (d : Dev) (t : Nat) (m : Nat) (h1 : d.inv) :
    (Dev.castleTo d t m).inv := by
  unfold Dev.castleTo
  repeat' first
    | with_reducible assumption
    | with_reducible apply keep_ite
    | with_reducible apply keep_ite1
    | with_reducible apply Dev.setGain_inv
    | with_reducible apply Dev.setCastling_inv
    | (intro x; refine keep_have x ?_ ?_ <;> first | (show x.inv; unfold x) | (intro _; clear_value x))
    | (intro x; refine keep_have1 x ?_ ?_ <;> first | (show x.1.inv; unfold x) | (intro _; clear_value x))
    | (intro x; clear_value x)
    | intro _
    | lift_lets
    | simp only [keep_mk]
    | split
    | dsimp only

theorem castling_inv (m : Nat) (frac : Nat) (d : Dev) (h1 : d.inv) :
    (castling m frac d).inv := by
  unfold castling
  repeat' first
    | with_reducible assumption
    | with_reducible apply keep_ite
    | with_reducible apply keep_ite1
    | with_reducible apply Dev.setGain_inv
    | with_reducible apply Dev.wr_inv
    | with_reducible apply Dev.bump_inv
    | with_reducible apply Dev.castleTo_inv
    | with_reducible apply Dev.raise_inv
    | (intro x; refine keep_have x ?_ ?_ <;> first | (show x.inv; unfold x) | (intro _; clear_value x))
    | (intro x; refine keep_have1 x ?_ ?_ <;> first | (show x.1.inv; unfold x) | (intro _; clear_value x))
    | (intro x; clear_value x)
    | intro _
    | lift_lets
    | simp only [keep_mk]
    | split
    | dsimp only

theorem rxwGainCfgWrite_inv (who : Initiator) (b : Nat) (w : Word) (d : Dev) (h1 : d.inv) :
    (rxwGainCfgWrite who b w d).inv := by
  unfold rxwGainCfgWrite
  repeat' first
    | with_reducible assumption
    | with_reducible apply keep_ite
    | with_reducible apply keep_ite1
    | with_reducible apply Dev.errRsvd_inv
    | with_reducible apply Dev.setReg_inv
    | with_reducible apply Dev.castleTo_inv
    | with_reducible apply Dev.setGain_inv
    | with_reducible refine keep_foldl (fun d x hd => ?_) ?_
    | with_reducible refine keep_foldl1 (fun d x hd => ?_) ?_
    | (intro x; refine keep_have x ?_ ?_ <;> first | (show x.inv; unfold x) | (intro _; clear_value x))
    | (intro x; refine keep_have1 x ?_ ?_ <;> first | (show x.1.inv; unfold x) | (intro _; clear_value x))
    | (intro x; clear_value x)
    | intro _
    | lift_lets
    | simp only [keep_mk]
    | split
    | dsimp only

theorem Dev.chanBusy_inv (d : Dev) (sub : Bool) (c : Nat) (h1 : d.inv) :
    (Dev.chanBusy d sub c).inv := by
  unfold Dev.chanBusy
  repeat' first
    | with_reducible assumption
    | intro _
    | simp only [keep_mk]
    | dsimp only

theorem Dev.setLane_inv (d : Dev) (i : Nat) (l : Lane) (h1 : d.inv) :
    (Dev.setLane d i l).inv := by
  unfold Dev.setLane
  repeat' first
    | with_reducible assumption
    | with_reducible apply keep_ite
    | with_reducible apply keep_ite1
    | with_reducible apply Dev.free_inv
    | with_reducible apply Dev.chanBusy_inv
    | with_reducible apply Dev.wr_inv
    | (intro x; refine keep_have x ?_ ?_ <;> first | (show x.inv; unfold x) | (intro _; clear_value x))
    | (intro x; refine keep_have1 x ?_ ?_ <;> first | (show x.1.inv; unfold x) | (intro _; clear_value x))
    | (intro x; clear_value x)
    | intro _
    | lift_lets
    | simp only [keep_mk]
    | split
    | dsimp only

theorem Dev.freeStaging_inv (d : Dev) (b : Nat) (h1 : d.inv) :
    (Dev.freeStaging d b).inv := by
  unfold Dev.freeStaging
  repeat' first
    | with_reducible assumption
    | intro _
    | simp only [keep_mk]
    | dsimp only

theorem Dev.laneFree_inv (d : Dev) (i : Nat) (h1 : d.inv) :
    (Dev.laneFree d i).inv := by
  unfold Dev.laneFree
  repeat' first
    | with_reducible assumption
    | with_reducible apply keep_ite
    | with_reducible apply keep_ite1
    | with_reducible apply Dev.freeStaging_inv
    | with_reducible apply Dev.setLane_inv
    | (intro x; refine keep_have x ?_ ?_ <;> first | (show x.inv; unfold x) | (intro _; clear_value x))
    | (intro x; refine keep_have1 x ?_ ?_ <;> first | (show x.1.inv; unfold x) | (intro _; clear_value x))
    | (intro x; clear_value x)
    | intro _
    | lift_lets
    | simp only [keep_mk]
    | split
    | dsimp only

theorem Dev.laneAlloc_inv (d : Dev) (i : Nat) (x : Detection) (switched : Bool) (forked : Bool) (peer : Nat) (h1 : d.inv) :
    (Dev.laneAlloc d i x switched forked peer).inv := by
  unfold Dev.laneAlloc
  repeat' first
    | with_reducible assumption
    | with_reducible apply keep_ite
    | with_reducible apply keep_ite1
    | with_reducible apply Dev.setLane_inv
    | with_reducible apply Dev.raise_inv
    | (intro x; refine keep_have x ?_ ?_ <;> first | (show x.inv; unfold x) | (intro _; clear_value x))
    | (intro x; refine keep_have1 x ?_ ?_ <;> first | (show x.1.inv; unfold x) | (intro _; clear_value x))
    | (intro x; clear_value x)
    | intro _
    | lift_lets
    | simp only [keep_mk]
    | split
    | dsimp only

theorem Dev.strongerFrame_inv (d : Dev) (x : Detection) (a : Nat) (cfg : Word) (h1 : d.inv) :
    (Dev.strongerFrame d x a cfg).inv := by
  unfold Dev.strongerFrame
  repeat' first
    | with_reducible assumption
    | with_reducible apply Dev.free_inv
    | with_reducible apply Dev.laneAlloc_inv
    | with_reducible apply Dev.setLane_inv
    | with_reducible apply Dev.bump_inv
    | with_reducible apply Dev.raise_inv
    | with_reducible apply Dev.laneFree_inv
    | (intro x; refine keep_have x ?_ ?_ <;> first | (show x.inv; unfold x) | (intro _; clear_value x))
    | (intro x; refine keep_have1 x ?_ ?_ <;> first | (show x.1.inv; unfold x) | (intro _; clear_value x))
    | (intro x; clear_value x)
    | intro _
    | lift_lets
    | simp only [keep_mk]
    | split
    | dsimp only

theorem Dev.detectionTake_inv (d : Dev) (x : Detection) (cfg : Word) (on : List Nat) (h1 : d.inv) :
    (Dev.detectionTake d x cfg on).inv := by
  unfold Dev.detectionTake
  repeat' first
    | with_reducible assumption
    | with_reducible apply keep_ite
    | with_reducible apply Dev.laneAlloc_inv
    | with_reducible apply Dev.bump_inv
    | with_reducible apply Dev.raise_inv
    | with_reducible apply Dev.strongerFrame_inv
    | intro _
    | simp only [keep_mk]
    | split
    | dsimp only

theorem Dev.detect_inv (d : Dev) (x : Detection) (h1 : d.inv) :
    (Dev.detect d x).inv := by
  unfold Dev.detect
  repeat' first
    | with_reducible assumption
    | with_reducible apply keep_ite
    | with_reducible apply keep_ite1
    | with_reducible apply Dev.chanBusy_inv
    | with_reducible apply Dev.detectionTake_inv
    | (intro x; refine keep_have x ?_ ?_ <;> first | (show x.inv; unfold x) | (intro _; clear_value x))
    | (intro x; refine keep_have1 x ?_ ?_ <;> first | (show x.1.inv; unfold x) | (intro _; clear_value x))
    | (intro x; clear_value x)
    | intro _
    | lift_lets
    | split
    | dsimp only

theorem preambleDetection_inv (xs : List Detection) (d : Dev) (h1 : d.inv) :
    (preambleDetection xs d).inv := by
  unfold preambleDetection
  repeat' first
    | with_reducible assumption
    | with_reducible apply Dev.detect_inv
    | with_reducible refine keep_foldl (fun d x hd => ?_) ?_
    | with_reducible refine keep_foldl1 (fun d x hd => ?_) ?_
    | intro _
    | dsimp only

theorem laneSyncTimeout_inv (i : Nat) (d : Dev) (h1 : d.inv) :
    (laneSyncTimeout i d).inv := by
  unfold laneSyncTimeout
  repeat' first
    | with_reducible assumption
    | with_reducible apply keep_ite
    | with_reducible apply Dev.laneFree_inv
    | with_reducible apply Dev.bump_inv
    | intro _
    | split
    | dsimp only

theorem freezePoint_inv (i : Nat) (f : FreezeInfo) (d : Dev) (h1 : d.inv) :
    (freezePoint i f d).inv := by
  unfold freezePoint
  repeat' first
    | with_reducible assumption
    | with_reducible apply keep_ite
    | with_reducible apply keep_ite1
    | with_reducible apply keep_ite2
    | with_reducible apply Dev.laneFree_inv
    | with_reducible apply Dev.bump_inv
    | with_reducible apply Dev.weightsOr_inv
    | with_reducible apply Dev.setLane_inv
    | with_reducible refine keep_foldl (fun d x hd => ?_) ?_
    | with_reducible refine keep_foldl1 (fun d x hd => ?_) ?_
    | (intro x; refine keep_have x ?_ ?_ <;> first | (show x.inv; unfold x) | (intro _; clear_value x))
    | (intro x; refine keep_have1 x ?_ ?_ <;> first | (show x.1.inv; unfold x) | (intro _; clear_value x))
    | (intro x; refine keep_have2 x ?_ ?_ <;> first | (show x.2.inv; unfold x) | (intro _; clear_value x))
    | (intro x; clear_value x)
    | intro _
    | lift_lets
    | simp only [keep_mk]
    | split
    | dsimp only

theorem phrCheck_inv (i : Nat) (phr : Nat) (coded : Bool) (d : Dev) (h1 : d.inv) :
    (phrCheck i phr coded d).inv := by
  unfold phrCheck
  repeat' first
    | with_reducible assumption
    | with_reducible apply keep_ite
    | with_reducible apply keep_ite1
    | with_reducible apply Dev.laneFree_inv
    | with_reducible apply Dev.bump_inv
    | with_reducible apply Dev.setLane_inv
    | (intro x; refine keep_have x ?_ ?_ <;> first | (show x.inv; unfold x) | (intro _; clear_value x))
    | (intro x; refine keep_have1 x ?_ ?_ <;> first | (show x.1.inv; unfold x) | (intro _; clear_value x))
    | (intro x; clear_value x)
    | intro _
    | lift_lets
    | simp only [keep_mk]
    | split
    | dsimp only

theorem Dev.setFifo_inv (d : Dev) (p : Nat) (l : List Completion) (h1 : d.inv) :
    (Dev.setFifo d p l).inv := by
  unfold Dev.setFifo
  repeat' first
    | with_reducible assumption
    | intro _
    | simp only [keep_mk]
    | dsimp only

theorem Dev.lanePost_inv (d : Dev) (i : Nat) (h1 : d.inv) :
    (Dev.lanePost d i).inv := by
  unfold Dev.lanePost
  repeat' first
    | with_reducible assumption
    | with_reducible apply keep_ite
    | with_reducible apply keep_ite1
    | with_reducible apply Dev.setFifo_inv
    | with_reducible apply Dev.setLane_inv
    | with_reducible apply Dev.raise_inv
    | (intro x; refine keep_have x ?_ ?_ <;> first | (show x.inv; unfold x) | (intro _; clear_value x))
    | (intro x; refine keep_have1 x ?_ ?_ <;> first | (show x.1.inv; unfold x) | (intro _; clear_value x))
    | (intro x; clear_value x)
    | intro _
    | lift_lets
    | simp only [keep_mk]
    | split
    | dsimp only

theorem laneFrameEnd_inv (i : Nat) (psdu : List Byte) (snr : Int) (fails : Nat) (d : Dev) (h1 : d.inv) :
    (laneFrameEnd i psdu snr fails d).inv := by
  unfold laneFrameEnd
  repeat' first
    | with_reducible assumption
    | with_reducible apply keep_ite
    | with_reducible apply keep_ite1
    | with_reducible apply keep_ite2
    | with_reducible apply Dev.laneFree_inv
    | with_reducible apply Dev.bump_inv
    | with_reducible apply Dev.raise_inv
    | with_reducible apply Dev.fetch_inv
    | with_reducible apply Dev.setBytes_inv
    | with_reducible apply Dev.lanePost_inv
    | (intro x; refine keep_have x ?_ ?_ <;> first | (show x.inv; unfold x) | (intro _; clear_value x))
    | (intro x; refine keep_have1 x ?_ ?_ <;> first | (show x.1.inv; unfold x) | (intro _; clear_value x))
    | (intro x; refine keep_have2 x ?_ ?_ <;> first | (show x.2.inv; unfold x) | (intro _; clear_value x))
    | (intro x; clear_value x)
    | intro _
    | lift_lets
    | split
    | dsimp only

theorem lanePostResume_inv (i : Nat) (d : Dev) (h1 : d.inv) :
    (lanePostResume i d).inv := by
  unfold lanePostResume
  repeat' first
    | with_reducible assumption
    | with_reducible apply keep_ite
    | with_reducible apply Dev.lanePost_inv
    | intro _
    | split
    | dsimp only

theorem forkChannelEstimate_inv (i : Nat) (x : ForkEstimate) (d : Dev) (h1 : d.inv) :
    (forkChannelEstimate i x d).inv := by
  unfold forkChannelEstimate
  repeat' first
    | with_reducible assumption
    | with_reducible apply keep_ite
    | with_reducible apply keep_ite1
    | with_reducible apply start_inv
    | with_reducible apply Dev.setLane_inv
    | (intro x; refine keep_have x ?_ ?_ <;> first | (show x.inv; unfold x) | (intro _; clear_value x))
    | (intro x; refine keep_have1 x ?_ ?_ <;> first | (show x.1.inv; unfold x) | (intro _; clear_value x))
    | (intro x; clear_value x)
    | intro _
    | lift_lets
    | simp only [keep_mk]
    | split
    | dsimp only

theorem Dev.laneLoseAntenna_inv (d : Dev) (i : Nat) (a : Nat) (h1 : d.inv) :
    (Dev.laneLoseAntenna d i a).inv := by
  unfold Dev.laneLoseAntenna
  repeat' first
    | with_reducible assumption
    | with_reducible apply keep_ite
    | with_reducible apply keep_ite1
    | with_reducible apply keep_ite2
    | with_reducible apply Dev.laneFree_inv
    | with_reducible apply Dev.bump_inv
    | with_reducible apply Dev.setLane_inv
    | with_reducible apply Dev.weightsOr_inv
    | (intro x; refine keep_have x ?_ ?_ <;> first | (show x.inv; unfold x) | (intro _; clear_value x))
    | (intro x; refine keep_have1 x ?_ ?_ <;> first | (show x.1.inv; unfold x) | (intro _; clear_value x))
    | (intro x; refine keep_have2 x ?_ ?_ <;> first | (show x.2.inv; unfold x) | (intro _; clear_value x))
    | (intro x; clear_value x)
    | intro _
    | lift_lets
    | simp only [keep_mk]
    | split
    | dsimp only

theorem Dev.antennaLost_inv (d : Dev) (m : Nat) (h1 : d.inv) :
    (Dev.antennaLost d m).inv := by
  unfold Dev.antennaLost
  repeat' first
    | with_reducible assumption
    | with_reducible apply keep_ite
    | with_reducible apply Dev.laneLoseAntenna_inv
    | with_reducible refine keep_foldl (fun d x hd => ?_) ?_
    | with_reducible refine keep_foldl1 (fun d x hd => ?_) ?_
    | intro _
    | split
    | dsimp only

theorem Dev.abandonBand_inv (d : Dev) (sub : Bool) (whole : Bool) (h1 : d.inv) :
    (Dev.abandonBand d sub whole).inv := by
  unfold Dev.abandonBand
  repeat' first
    | with_reducible assumption
    | with_reducible apply keep_ite
    | with_reducible apply keep_ite1
    | with_reducible apply Dev.laneFree_inv
    | with_reducible apply Dev.bump_inv
    | with_reducible refine keep_foldl (fun d x hd => ?_) ?_
    | with_reducible refine keep_foldl1 (fun d x hd => ?_) ?_
    | (intro x; refine keep_have x ?_ ?_ <;> first | (show x.inv; unfold x) | (intro _; clear_value x))
    | (intro x; refine keep_have1 x ?_ ?_ <;> first | (show x.1.inv; unfold x) | (intro _; clear_value x))
    | (intro x; clear_value x)
    | intro _
    | lift_lets
    | split
    | dsimp only

theorem idleSample_inv (sub : Bool) (c : Nat) (ant : Nat) (p : Rat) (d : Dev) (h1 : d.inv) :
    (idleSample sub c ant p d).inv := by
  unfold idleSample
  repeat' first
    | with_reducible assumption
    | with_reducible apply keep_ite
    | with_reducible apply keep_ite1
    | with_reducible apply keep_ite2
    | with_reducible apply Dev.free_inv
    | with_reducible apply Dev.setReg_inv
    | (intro x; refine keep_have x ?_ ?_ <;> first | (show x.inv; unfold x) | (intro _; clear_value x))
    | (intro x; refine keep_have1 x ?_ ?_ <;> first | (show x.1.inv; unfold x) | (intro _; clear_value x))
    | (intro x; refine keep_have2 x ?_ ?_ <;> first | (show x.2.inv; unfold x) | (intro _; clear_value x))
    | (intro x; clear_value x)
    | intro _
    | lift_lets
    | simp only [keep_mk]
    | split
    | dsimp only

theorem Dev.noiseRestart_inv (d : Dev) (q : Nat → Bool) (h1 : d.inv) :
    (Dev.noiseRestart d q).inv := by
  unfold Dev.noiseRestart
  repeat' first
    | with_reducible assumption
    | with_reducible apply Dev.setReg_inv
    | with_reducible refine keep_foldl (fun d x hd => ?_) ?_
    | with_reducible refine keep_foldl1 (fun d x hd => ?_) ?_
    | (intro x; refine keep_have x ?_ ?_ <;> first | (show x.inv; unfold x) | (intro _; clear_value x))
    | (intro x; refine keep_have1 x ?_ ?_ <;> first | (show x.1.inv; unfold x) | (intro _; clear_value x))
    | (intro x; clear_value x)
    | intro _
    | lift_lets
    | simp only [keep_mk]
    | dsimp only

theorem Dev.enterReceive_inv (d : Dev) (m : Nat) (h1 : d.inv) :
    (Dev.enterReceive d m).inv := by
  unfold Dev.enterReceive
  repeat' first
    | with_reducible assumption
    | with_reducible apply keep_ite
    | with_reducible apply keep_ite1
    | with_reducible apply Dev.setChainState_inv
    | with_reducible apply Dev.wr_inv
    | with_reducible apply Dev.setGain_inv
    | with_reducible apply Dev.noiseRestart_inv
    | (intro x; refine keep_have x ?_ ?_ <;> first | (show x.inv; unfold x) | (intro _; clear_value x))
    | (intro x; refine keep_have1 x ?_ ?_ <;> first | (show x.1.inv; unfold x) | (intro _; clear_value x))
    | (intro x; clear_value x)
    | intro _
    | lift_lets
    | simp only [keep_mk]
    | split
    | dsimp only

theorem channelConfigEffect_inv (a : Nat) (d : Dev) (h1 : d.inv) :
    (channelConfigEffect a d).inv := by
  unfold channelConfigEffect
  repeat' first
    | with_reducible assumption
    | intro _
    | simp only [keep_mk]
    | dsimp only

theorem subModeEffect_inv (d : Dev) (h1 : d.inv) :
    (subModeEffect d).inv := by
  unfold subModeEffect
  repeat' first
    | with_reducible assumption
    | with_reducible apply keep_ite
    | with_reducible apply keep_ite1
    | with_reducible apply Dev.noiseRestart_inv
    | (intro x; refine keep_have x ?_ ?_ <;> first | (show x.inv; unfold x) | (intro _; clear_value x))
    | (intro x; refine keep_have1 x ?_ ?_ <;> first | (show x.1.inv; unfold x) | (intro _; clear_value x))
    | (intro x; clear_value x)
    | intro _
    | lift_lets
    | simp only [keep_mk]
    | split
    | dsimp only

end Sys2Proof.Machine
end

