-- ==== Sys2Proof/Laws/KeepLifeCycle.lean ====
section
/-! SUPPORT. Every operation of Machine/LifeCycle.lean keeps the invariant. -/

namespace Sys2Proof.Machine

open Sys2Proof

theorem Dev.lcEnter_inv (d : Dev) (r : LcRun) (n : Nat) (h1 : d.inv) :
    (Dev.lcEnter d r n).inv := by
  unfold Dev.lcEnter
  repeat' first
    | with_reducible assumption
    | (intro x; refine keep_have x ?_ ?_ <;> first | (show x.inv; unfold x) | (intro _; clear_value x))
    | (intro x; refine keep_have1 x ?_ ?_ <;> first | (show x.1.inv; unfold x) | (intro _; clear_value x))
    | (intro x; clear_value x)
    | intro _
    | lift_lets
    | simp only [keep_mk]
    | dsimp only

theorem Dev.lcEnd_inv (d : Dev) (c : Nat) (h1 : d.inv) :
    (Dev.lcEnd d c).inv := by
  unfold Dev.lcEnd
  repeat' first
    | with_reducible assumption
    | with_reducible apply Dev.lcStatusLoad_inv
    | with_reducible apply Dev.wr_inv
    | intro _
    | simp only [keep_mk]
    | dsimp only

theorem Dev.lcStart_inv (d : Dev) (target : Nat) (h1 : d.inv) :
    (Dev.lcStart d target).inv := by
  unfold Dev.lcStart
  repeat' first
    | with_reducible assumption
    | with_reducible apply keep_ite
    | with_reducible apply keep_ite1
    | with_reducible apply Dev.wr_inv
    | with_reducible apply Dev.zeroVolatile_inv
    | with_reducible apply Dev.lcEnter_inv
    | with_reducible apply Dev.settle_inv
    | (intro x; refine keep_have x ?_ ?_ <;> first | (show x.inv; unfold x) | (intro _; clear_value x))
    | (intro x; refine keep_have1 x ?_ ?_ <;> first | (show x.1.inv; unfold x) | (intro _; clear_value x))
    | (intro x; clear_value x)
    | intro _
    | lift_lets
    | simp only [keep_mk]
    | split
    | dsimp only

theorem Dev.lcResume_inv (d : Dev) (j : Nat) (boot : Bool) (h1 : d.inv) :
    (Dev.lcResume d j boot).inv := by
  unfold Dev.lcResume
  repeat' first
    | with_reducible assumption
    | with_reducible apply Dev.lcEnter_inv
    | intro _
    | simp only [keep_mk]
    | dsimp only

theorem Dev.lcRequest_inv (d : Dev) (start : Bool) (target : Nat) (h1 : d.inv) :
    (Dev.lcRequest d start target).1.inv := by
  unfold Dev.lcRequest
  repeat' first
    | with_reducible assumption
    | with_reducible apply keep_ite
    | with_reducible apply keep_ite1
    | with_reducible apply start_inv
    | with_reducible apply Dev.lcResume_inv
    | with_reducible apply Dev.settle_inv
    | with_reducible apply Dev.wr_inv
    | with_reducible apply Dev.lcStart_inv
    | with_reducible apply Dev.lcStatusLoad_inv
    | intro _
    | simp only [keep_mk]
    | split
    | dsimp only

theorem otpLcCmdStart_inv (who : Initiator) (w : Word) (d : Dev) (h1 : d.inv) :
    (otpLcCmdStart who w d).inv := by
  unfold otpLcCmdStart
  repeat' first
    | with_reducible assumption
    | with_reducible apply keep_ite
    | with_reducible apply keep_ite1
    | with_reducible apply keep_ite2
    | with_reducible apply Dev.refuseWrite_inv
    | with_reducible apply Dev.rsvd_inv
    | with_reducible apply Dev.lcRequest_inv
    | (intro x; refine keep_have x ?_ ?_ <;> first | (show x.inv; unfold x) | (intro _; clear_value x))
    | (intro x; refine keep_have1 x ?_ ?_ <;> first | (show x.1.inv; unfold x) | (intro _; clear_value x))
    | (intro x; refine keep_have2 x ?_ ?_ <;> first | (show x.2.inv; unfold x) | (intro _; clear_value x))
    | (intro x; clear_value x)
    | intro _
    | lift_lets
    | split
    | dsimp only

theorem Dev.bootStep4_inv (d : Dev) (h1 : d.inv) :
    (Dev.bootStep4 d).inv := by
  unfold Dev.bootStep4
  repeat' first
    | with_reducible assumption
    | with_reducible apply keep_ite
    | with_reducible apply keep_ite1
    | with_reducible apply keep_ite2
    | with_reducible apply Dev.bootHalt_inv
    | with_reducible apply Dev.deriveRoots_inv
    | with_reducible apply Dev.free_inv
    | with_reducible apply Dev.bootCode_inv
    | (intro x; refine keep_have x ?_ ?_ <;> first | (show x.inv; unfold x) | (intro _; clear_value x))
    | (intro x; refine keep_have1 x ?_ ?_ <;> first | (show x.1.inv; unfold x) | (intro _; clear_value x))
    | (intro x; refine keep_have2 x ?_ ?_ <;> first | (show x.2.inv; unfold x) | (intro _; clear_value x))
    | (intro x; clear_value x)
    | intro _
    | lift_lets
    | simp only [keep_mk]
    | split
    | dsimp only

theorem Dev.bootStep3_inv (d : Dev) (h1 : d.inv) :
    (Dev.bootStep3 d).inv := by
  unfold Dev.bootStep3
  repeat' first
    | with_reducible assumption
    | with_reducible apply keep_ite
    | with_reducible apply keep_ite1
    | with_reducible apply Dev.lcStatusLoad_inv
    | with_reducible apply Dev.bootHalt_inv
    | with_reducible apply Dev.bootStep4_inv
    | with_reducible apply Dev.lcResume_inv
    | with_reducible apply Dev.bootCode_inv
    | with_reducible apply Dev.settle_inv
    | (intro x; refine keep_have x ?_ ?_ <;> first | (show x.inv; unfold x) | (intro _; clear_value x))
    | (intro x; refine keep_have1 x ?_ ?_ <;> first | (show x.1.inv; unfold x) | (intro _; clear_value x))
    | (intro x; clear_value x)
    | intro _
    | lift_lets
    | simp only [keep_mk]
    | split
    | dsimp only

theorem Dev.bootProgress_inv (d : Dev) (h1 : d.inv) :
    (Dev.bootProgress d).inv := by
  unfold Dev.bootProgress
  repeat' first
    | with_reducible assumption
    | with_reducible apply keep_ite
    | with_reducible apply Dev.bootStep3_inv
    | intro _
    | simp only [keep_mk]
    | split
    | dsimp only

theorem bootLowSupplyRecheck_inv (d : Dev) (h1 : d.inv) :
    (bootLowSupplyRecheck d).inv := by
  unfold bootLowSupplyRecheck
  repeat' first
    | with_reducible assumption
    | with_reducible apply keep_ite
    | with_reducible apply Dev.bootCode_inv
    | with_reducible apply Dev.lcResume_inv
    | with_reducible apply Dev.bootHalt_inv
    | intro _
    | simp only [keep_mk]
    | split
    | dsimp only

theorem lcTransitionStep_inv (d : Dev) (h1 : d.inv) :
    (lcTransitionStep d).inv := by
  unfold lcTransitionStep
  repeat' first
    | with_reducible assumption
    | with_reducible apply keep_ite
    | with_reducible apply keep_ite1
    | with_reducible apply Dev.lcEnter_inv
    | with_reducible apply Dev.lcStatusLoad_inv
    | with_reducible apply Dev.wr_inv
    | with_reducible apply Dev.settle_inv
    | with_reducible apply Dev.bootStep4_inv
    | with_reducible apply Dev.lcEnd_inv
    | with_reducible apply Dev.systemReset_inv
    | (intro x; refine keep_have x ?_ ?_ <;> first | (show x.inv; unfold x) | (intro _; clear_value x))
    | (intro x; refine keep_have1 x ?_ ?_ <;> first | (show x.1.inv; unfold x) | (intro _; clear_value x))
    | (intro x; clear_value x)
    | intro _
    | lift_lets
    | simp only [keep_mk]
    | split
    | dsimp only

theorem Dev.lcBit_inv (d : Dev) (h1 : d.inv) :
    (Dev.lcBit d).inv := by
  unfold Dev.lcBit
  repeat' first
    | with_reducible assumption
    | with_reducible apply keep_ite
    | with_reducible apply keep_ite1
    | with_reducible apply Dev.blow_inv
    | with_reducible apply Dev.lcStatusLoad_inv
    | with_reducible apply Dev.bootCode_inv
    | with_reducible apply Dev.lcEnd_inv
    | with_reducible apply Dev.settle_inv
    | (intro x; refine keep_have x ?_ ?_ <;> first | (show x.inv; unfold x) | (intro _; clear_value x))
    | (intro x; refine keep_have1 x ?_ ?_ <;> first | (show x.1.inv; unfold x) | (intro _; clear_value x))
    | (intro x; clear_value x)
    | intro _
    | lift_lets
    | simp only [keep_mk]
    | split
    | dsimp only

theorem Dev.keyRowBit_inv (d : Dev) (h1 : d.inv) :
    (Dev.keyRowBit d).inv := by
  unfold Dev.keyRowBit
  repeat' first
    | with_reducible assumption
    | with_reducible apply keep_ite
    | with_reducible apply keep_ite1
    | with_reducible apply Dev.blow_inv
    | (intro x; refine keep_have x ?_ ?_ <;> first | (show x.inv; unfold x) | (intro _; clear_value x))
    | (intro x; refine keep_have1 x ?_ ?_ <;> first | (show x.1.inv; unfold x) | (intro _; clear_value x))
    | (intro x; clear_value x)
    | intro _
    | lift_lets
    | simp only [keep_mk]
    | split
    | dsimp only

theorem otpBitProgrammed_inv (u : OtpUser) (d : Dev) (h1 : d.inv) :
    (otpBitProgrammed u d).inv := by
  unfold otpBitProgrammed
  repeat' first
    | with_reducible assumption
    | with_reducible apply Dev.regionBit_inv
    | with_reducible apply Dev.keyRowBit_inv
    | with_reducible apply Dev.lcBit_inv
    | intro _
    | simp only [keep_mk]
    | split
    | dsimp only

end Sys2Proof.Machine
end

