-- ==== Sys2Proof/Laws/KeepHciCore.lean ====
section
/-! SUPPORT. Every operation of Machine/HciCore.lean keeps the invariant. -/

namespace Sys2Proof.Machine

open Sys2Proof

theorem Dev.versionDefault_inv (d : Dev) (h1 : d.inv) :
    (Dev.versionDefault d).inv := by
  unfold Dev.versionDefault
  repeat' first
    | with_reducible assumption
    | with_reducible apply keep_ite
    | with_reducible apply Dev.wr_inv
    | intro _
    | split
    | dsimp only

theorem Dev.qerr_inv (d : Dev) (cause : Nat) (q : Nat) (h1 : d.inv) :
    (Dev.qerr d cause q).inv := by
  unfold Dev.qerr
  repeat' first
    | with_reducible assumption
    | with_reducible apply Dev.wr_inv
    | intro _
    | dsimp only

theorem Dev.dmaStop_inv (d : Dev) (q : Nat) (h1 : d.inv) :
    (Dev.dmaStop d q).inv := by
  unfold Dev.dmaStop
  repeat' first
    | with_reducible assumption
    | with_reducible apply keep_ite
    | with_reducible apply keep_ite1
    | with_reducible apply Dev.wr_inv
    | with_reducible apply Dev.qerr_inv
    | with_reducible apply Dev.bump_inv
    | with_reducible apply Dev.raise_inv
    | (intro x; refine keep_have x ?_ ?_ <;> first | (show x.inv; unfold x) | (intro _; clear_value x))
    | (intro x; refine keep_have1 x ?_ ?_ <;> first | (show x.1.inv; unfold x) | (intro _; clear_value x))
    | (intro x; clear_value x)
    | intro _
    | lift_lets
    | split
    | dsimp only

theorem Dev.qStore_inv (d : Dev) (q : Nat) (a : Nat) (bs : List Byte) (h1 : d.inv) :
    (Dev.qStore d q a bs).inv := by
  unfold Dev.qStore
  repeat' first
    | with_reducible assumption
    | with_reducible apply keep_ite
    | with_reducible apply Dev.emit_inv
    | with_reducible apply Dev.setBytes_inv
    | intro _
    | split
    | dsimp only

theorem Dev.qAdvance_inv (d : Dev) (q : Nat) (h1 : d.inv) :
    (Dev.qAdvance d q).inv := by
  unfold Dev.qAdvance
  repeat' first
    | with_reducible assumption
    | with_reducible apply keep_ite
    | with_reducible apply keep_ite1
    | with_reducible apply Dev.wr_inv
    | with_reducible apply Dev.sendMsix_inv
    | (intro x; refine keep_have x ?_ ?_ <;> first | (show x.inv; unfold x) | (intro _; clear_value x))
    | (intro x; refine keep_have1 x ?_ ?_ <;> first | (show x.1.inv; unfold x) | (intro _; clear_value x))
    | (intro x; clear_value x)
    | intro _
    | lift_lets
    | simp only [keep_mk]
    | split
    | dsimp only

theorem Dev.cqPost_inv (d : Dev) (q : Nat) (cid : Nat) (sq : Nat) (head : Nat) (status : Nat) (res : List Nat) (wakeUs : Option Nat) (h1 : d.inv) :
    (Dev.cqPost d q cid sq head status res wakeUs).inv := by
  unfold Dev.cqPost
  repeat' first
    | with_reducible assumption
    | with_reducible apply Dev.qStore_inv
    | with_reducible apply Dev.qAdvance_inv
    | (intro x; refine keep_have x ?_ ?_ <;> first | (show x.inv; unfold x) | (intro _; clear_value x))
    | (intro x; refine keep_have1 x ?_ ?_ <;> first | (show x.1.inv; unfold x) | (intro _; clear_value x))
    | (intro x; clear_value x)
    | intro _
    | lift_lets
    | dsimp only

theorem Dev.notice_inv (d : Dev) (status : Nat) (subject : Nat) (h1 : d.inv) :
    (Dev.notice d status subject).inv := by
  unfold Dev.notice
  repeat' first
    | with_reducible assumption
    | with_reducible apply keep_ite
    | with_reducible apply Dev.bump_inv
    | with_reducible apply Dev.dmaStop_inv
    | with_reducible apply Dev.cqPost_inv
    | intro _
    | split
    | dsimp only

theorem Dev.dmaFail_inv (d : Dev) (q : Nat) (h1 : d.inv) :
    (Dev.dmaFail d q).inv := by
  unfold Dev.dmaFail
  repeat' first
    | with_reducible assumption
    | with_reducible apply keep_ite
    | with_reducible apply Dev.dmaStop_inv
    | with_reducible apply Dev.notice_inv
    | intro _
    | split
    | dsimp only

theorem Dev.receivePost_inv (d : Dev) (q : Nat) (bs : List Byte) (reason : Nat) (status : Nat) (node : Nat) (nodeValid : Bool) (rxseq : Nat) (h1 : d.inv) :
    (Dev.receivePost d q bs reason status node nodeValid rxseq).inv := by
  unfold Dev.receivePost
  repeat' first
    | with_reducible assumption
    | with_reducible apply keep_ite
    | with_reducible apply keep_ite1
    | with_reducible apply Dev.bump_inv
    | with_reducible apply Dev.dmaFail_inv
    | with_reducible apply Dev.qStore_inv
    | with_reducible apply Dev.qAdvance_inv
    | (intro x; refine keep_have x ?_ ?_ <;> first | (show x.inv; unfold x) | (intro _; clear_value x))
    | (intro x; refine keep_have1 x ?_ ?_ <;> first | (show x.1.inv; unfold x) | (intro _; clear_value x))
    | (intro x; clear_value x)
    | intro _
    | lift_lets
    | simp only [keep_mk]
    | split
    | dsimp only

theorem Dev.nodeNotice_inv (d : Dev) (s : Nat) (status : Nat) (h1 : d.inv) :
    (Dev.nodeNotice d s status).inv := by
  unfold Dev.nodeNotice
  repeat' first
    | with_reducible assumption
    | with_reducible apply Dev.receivePost_inv
    | intro _
    | dsimp only

theorem Dev.setCmd_inv (d : Dev) (c : HciCmd) (h1 : d.inv) :
    (Dev.setCmd d c).inv := by
  unfold Dev.setCmd
  repeat' first
    | with_reducible assumption
    | with_reducible apply keep_ite
    | intro _
    | simp only [keep_mk]
    | split
    | dsimp only

theorem Dev.dropCmd_inv (d : Dev) (id : Nat) (h1 : d.inv) :
    (Dev.dropCmd d id).inv := by
  unfold Dev.dropCmd
  repeat' first
    | with_reducible assumption
    | intro _
    | simp only [keep_mk]
    | dsimp only

theorem Dev.finish_inv (d : Dev) (c : HciCmd) (status : Nat) (res : List Nat) (h1 : d.inv) :
    (Dev.finish d c status res).inv := by
  unfold Dev.finish
  repeat' first
    | with_reducible assumption
    | with_reducible apply keep_ite
    | with_reducible apply keep_ite1
    | with_reducible apply Dev.dropCmd_inv
    | with_reducible apply Dev.setCmd_inv
    | with_reducible apply Dev.done_inv
    | with_reducible apply Dev.dmaFail_inv
    | with_reducible apply Dev.cqPost_inv
    | with_reducible apply Dev.settle_inv
    | (intro x; refine keep_have x ?_ ?_ <;> first | (show x.inv; unfold x) | (intro _; clear_value x))
    | (intro x; refine keep_have1 x ?_ ?_ <;> first | (show x.1.inv; unfold x) | (intro _; clear_value x))
    | (intro x; clear_value x)
    | intro _
    | lift_lets
    | simp only [keep_mk]
    | split
    | dsimp only

theorem Dev.finishId_inv (d : Dev) (id : Nat) (status : Nat) (res : List Nat) (h1 : d.inv) :
    (Dev.finishId d id status res).inv := by
  unfold Dev.finishId
  repeat' first
    | with_reducible assumption
    | with_reducible apply Dev.finish_inv
    | intro _
    | simp only [keep_mk]
    | split
    | dsimp only

theorem Dev.runCmd_inv (d : Dev) (c : HciCmd) (h1 : d.inv) :
    (Dev.runCmd d c).inv := by
  unfold Dev.runCmd
  repeat' first
    | with_reducible assumption
    | with_reducible apply Dev.setCmd_inv
    | intro _
    | simp only [keep_mk]
    | dsimp only

end Sys2Proof.Machine
end

