-- ==== Sys2Proof/Laws/KeepUnwrap.lean ====
section
/-! SUPPORT. Every operation of Machine/Unwrap.lean keeps the invariant. -/

namespace Sys2Proof.Machine

open Sys2Proof

theorem Dev.evict_inv (d : Dev) (n : Nat) (h1 : d.inv) :
    (Dev.evict d n).inv := by
  unfold Dev.evict
  repeat' first
    | with_reducible assumption
    | with_reducible apply keep_ite
    | with_reducible apply keep_ite1
    | with_reducible apply Dev.setCx_inv
    | with_reducible apply Dev.cxTouch_inv
    | with_reducible apply Dev.zeroSlot_inv
    | with_reducible apply Dev.bump_inv
    | (intro x; refine keep_have x ?_ ?_ <;> first | (show x.inv; unfold x) | (intro _; clear_value x))
    | (intro x; refine keep_have1 x ?_ ?_ <;> first | (show x.1.inv; unfold x) | (intro _; clear_value x))
    | (intro x; clear_value x)
    | intro _
    | lift_lets
    | split
    | dsimp only

theorem Dev.requestUnwrap_inv (d : Dev) (s : Nat) (h1 : d.inv) :
    (Dev.requestUnwrap d s).inv := by
  unfold Dev.requestUnwrap
  repeat' first
    | with_reducible assumption
    | with_reducible apply keep_ite
    | intro _
    | simp only [keep_mk]
    | split
    | dsimp only

theorem Dev.blobFail_inv (d : Dev) (s : Nat) (status : Nat) (h1 : d.inv) :
    (Dev.blobFail d s status).inv := by
  unfold Dev.blobFail
  repeat' first
    | with_reducible assumption
    | with_reducible apply keep_ite
    | with_reducible apply keep_ite1
    | with_reducible apply Dev.bump_inv
    | with_reducible apply Dev.raise_inv
    | with_reducible apply Dev.nodeNotice_inv
    | (intro x; refine keep_have x ?_ ?_ <;> first | (show x.inv; unfold x) | (intro _; clear_value x))
    | (intro x; refine keep_have1 x ?_ ?_ <;> first | (show x.1.inv; unfold x) | (intro _; clear_value x))
    | (intro x; clear_value x)
    | intro _
    | lift_lets
    | simp only [keep_mk]
    | split
    | dsimp only

theorem Dev.nodeUnwrap_inv (d : Dev) (s : Nat) (h1 : d.inv) :
    (Dev.nodeUnwrap d s).1.inv := by
  unfold Dev.nodeUnwrap
  repeat' first
    | with_reducible assumption
    | with_reducible apply keep_ite
    | with_reducible apply keep_ite1
    | with_reducible apply Dev.blobFail_inv
    | with_reducible apply Dev.bump_inv
    | with_reducible apply Dev.evict_inv
    | with_reducible apply Dev.putKey_inv
    | with_reducible apply Dev.setCx_inv
    | with_reducible apply Dev.cxTouch_inv
    | (intro x; refine keep_have x ?_ ?_ <;> first | (show x.inv; unfold x) | (intro _; clear_value x))
    | (intro x; refine keep_have1 x ?_ ?_ <;> first | (show x.1.inv; unfold x) | (intro _; clear_value x))
    | (intro x; refine keep_haveD x ?_ ?_ <;> first | (show ∀ d : Dev, d.inv → (x d).inv; unfold x; intro _ _) | (intro hfD; clear_value x))
    | (intro x; refine keep_haveG x ?_ ?_ <;> first | (show ∀ (d : Dev) a, d.inv → (x d a).inv; unfold x; intro _ _ _) | (intro hfG; clear_value x))
    | (intro x; refine keep_haveG1 x ?_ ?_ <;> first | (show ∀ (d : Dev) a, d.inv → (x d a).1.inv; unfold x; intro _ _ _) | (intro hfP; clear_value x))
    | (intro x; refine keep_haveF x ?_ ?_ <;> first | (show ∀ a, (x a).inv; unfold x; intro _) | (intro hfF; clear_value x))
    | with_reducible apply hfD
    | with_reducible apply hfG
    | with_reducible apply hfP
    | with_reducible apply hfF
    | (intro x; clear_value x)
    | intro _
    | lift_lets
    | simp only [keep_mk]
    | split
    | dsimp only

theorem Dev.releaseKey_inv (d : Dev) (s : Nat) (h1 : d.inv) :
    (Dev.releaseKey d s).inv := by
  unfold Dev.releaseKey
  repeat' first
    | with_reducible assumption
    | with_reducible apply keep_ite
    | with_reducible apply keep_ite1
    | with_reducible apply Dev.setCx_inv
    | with_reducible apply Dev.zeroSlot_inv
    | (intro x; refine keep_have x ?_ ?_ <;> first | (show x.inv; unfold x) | (intro _; clear_value x))
    | (intro x; refine keep_have1 x ?_ ?_ <;> first | (show x.1.inv; unfold x) | (intro _; clear_value x))
    | (intro x; clear_value x)
    | intro _
    | lift_lets
    | simp only [keep_mk]
    | split
    | dsimp only

theorem Dev.sweepDoomed_inv (d : Dev) (h1 : d.inv) :
    (Dev.sweepDoomed d).inv := by
  unfold Dev.sweepDoomed
  repeat' first
    | with_reducible assumption
    | with_reducible apply keep_ite
    | with_reducible apply Dev.zeroSlot_inv
    | with_reducible refine keep_foldl (fun d x hd => ?_) ?_
    | with_reducible refine keep_foldl1 (fun d x hd => ?_) ?_
    | intro _
    | simp only [keep_mk]
    | split
    | dsimp only

end Sys2Proof.Machine
end

