-- ==== Sys2Proof/Laws/KeepCipher.lean ====
section
/-! SUPPORT. Every operation of Machine/Cipher.lean keeps the invariant. -/

namespace Sys2Proof.Machine

open Sys2Proof

theorem Dev.descResult_inv (d : Dev) (a : Nat) (w6 : Nat) (w7 : Nat) (h1 : d.inv) :
    (Dev.descResult d a w6 w7).inv := by
  unfold Dev.descResult
  repeat' first
    | with_reducible assumption
    | with_reducible apply keep_ite
    | with_reducible apply Dev.setLe_inv
    | intro _
    | split
    | dsimp only

theorem Dev.cphComplete_inv (d : Dev) (r : CipherReq) (status : Nat) (out : List Byte) (h1 : d.inv) :
    (Dev.cphComplete d r status out).inv := by
  unfold Dev.cphComplete
  repeat' first
    | with_reducible assumption
    | with_reducible apply keep_ite
    | with_reducible apply keep_ite1
    | with_reducible apply Dev.bump_inv
    | with_reducible apply Dev.setBytes_inv
    | with_reducible apply Dev.descResult_inv
    | with_reducible apply Dev.wr_inv
    | with_reducible apply Dev.raise_inv
    | (intro x; refine keep_have x ?_ ?_ <;> first | (show x.inv; unfold x) | (intro _; clear_value x))
    | (intro x; refine keep_have1 x ?_ ?_ <;> first | (show x.1.inv; unfold x) | (intro _; clear_value x))
    | (intro x; clear_value x)
    | intro _
    | lift_lets
    | simp only [keep_mk]
    | split
    | dsimp only

theorem Dev.keyRefused_inv (d : Dev) (r : CipherReq) (status : Nat) (h1 : d.inv) :
    (Dev.keyRefused d r status).inv := by
  unfold Dev.keyRefused
  repeat' first
    | with_reducible assumption
    | with_reducible apply Dev.bump_inv
    | with_reducible apply Dev.cphComplete_inv
    | intro _
    | dsimp only

theorem Dev.setEngine_inv (d : Dev) (n : Nat) (e : Engine) (h1 : d.inv) :
    (Dev.setEngine d n e).inv := by
  unfold Dev.setEngine
  repeat' first
    | with_reducible assumption
    | intro _
    | simp only [keep_mk]
    | dsimp only

theorem Dev.cipherPreempt_inv (d : Dev) (h1 : d.inv) :
    (Dev.cipherPreempt d).inv := by
  unfold Dev.cipherPreempt
  repeat' first
    | with_reducible assumption
    | with_reducible apply Dev.setEngine_inv
    | with_reducible apply Dev.bump_inv
    | intro _
    | simp only [keep_mk]
    | split
    | dsimp only

theorem Dev.cphAdmit_inv (d : Dev) (r : CipherReq) (h1 : d.inv) :
    (Dev.cphAdmit d r).inv := by
  unfold Dev.cphAdmit
  repeat' first
    | with_reducible assumption
    | with_reducible apply keep_ite
    | with_reducible apply keep_ite1
    | with_reducible apply Dev.cipherPreempt_inv
    | (intro x; refine keep_have x ?_ ?_ <;> first | (show x.inv; unfold x) | (intro _; clear_value x))
    | (intro x; refine keep_have1 x ?_ ?_ <;> first | (show x.1.inv; unfold x) | (intro _; clear_value x))
    | (intro x; clear_value x)
    | intro _
    | lift_lets
    | simp only [keep_mk]
    | split
    | dsimp only

theorem Dev.cphRequest_inv (d : Dev) (r : CipherReq) (h1 : d.inv) :
    (Dev.cphRequest d r).1.inv := by
  unfold Dev.cphRequest
  repeat' first
    | with_reducible assumption
    | with_reducible apply keep_ite
    | with_reducible apply keep_ite1
    | with_reducible apply Dev.cphAdmit_inv
    | with_reducible apply Dev.bump_inv
    | (intro x; refine keep_have x ?_ ?_ <;> first | (show x.inv; unfold x) | (intro _; clear_value x))
    | (intro x; refine keep_have1 x ?_ ?_ <;> first | (show x.1.inv; unfold x) | (intro _; clear_value x))
    | (intro x; clear_value x)
    | intro _
    | lift_lets
    | simp only [keep_mk]
    | split
    | dsimp only

theorem Dev.cphRefill_inv (d : Dev) (y0 : Nat) (h1 : d.inv) :
    (Dev.cphRefill d y0).inv := by
  induction y0 generalizing d with
  | zero =>
    (first | rw [Dev.cphRefill] | unfold Dev.cphRefill)
    repeat' first
      | with_reducible assumption
      | with_reducible apply keep_ite
      | with_reducible apply Dev.cphAdmit_inv
      | intro _
      | simp only [keep_mk]
      | split
      | dsimp only
  | succ _ ih =>
    (first | rw [Dev.cphRefill] | unfold Dev.cphRefill)
    repeat' first
      | with_reducible assumption
      | with_reducible apply ih
      | with_reducible apply keep_ite
      | with_reducible apply Dev.cphAdmit_inv
      | intro _
      | simp only [keep_mk]
      | split
      | dsimp only

theorem Dev.cphRefillAll_inv (d : Dev) (h1 : d.inv) :
    (Dev.cphRefillAll d).inv := by
  unfold Dev.cphRefillAll
  repeat' first
    | with_reducible assumption
    | with_reducible apply Dev.cphRefill_inv
    | intro _
    | dsimp only

theorem cphSubmit_inv (who : Initiator) (a : Nat) (d : Dev) (h1 : d.inv) :
    (cphSubmit who a d).inv := by
  unfold cphSubmit
  repeat' first
    | with_reducible assumption
    | with_reducible apply keep_ite
    | with_reducible apply keep_ite1
    | with_reducible apply Dev.refuseWrite_inv
    | with_reducible apply Dev.descResult_inv
    | with_reducible apply Dev.bump_inv
    | with_reducible apply Dev.cphComplete_inv
    | with_reducible apply Dev.cphAdmit_inv
    | with_reducible apply Dev.settle_inv
    | (intro x; refine keep_have x ?_ ?_ <;> first | (show x.inv; unfold x) | (intro _; clear_value x))
    | (intro x; refine keep_have1 x ?_ ?_ <;> first | (show x.1.inv; unfold x) | (intro _; clear_value x))
    | (intro x; clear_value x)
    | intro _
    | lift_lets
    | simp only [keep_mk]
    | split
    | dsimp only

theorem Dev.startUnwraps_inv (d : Dev) (h1 : d.inv) :
    (Dev.startUnwraps d).inv := by
  unfold Dev.startUnwraps
  repeat' first
    | with_reducible assumption
    | with_reducible apply keep_ite
    | with_reducible apply Dev.requestUnwrap_inv
    | with_reducible refine keep_foldl (fun d x hd => ?_) ?_
    | with_reducible refine keep_foldl1 (fun d x hd => ?_) ?_
    | intro _
    | simp only [keep_mk]
    | split
    | dsimp only

theorem Dev.unqueue_inv (d : Dev) (id : Nat) (h1 : d.inv) :
    (Dev.unqueue d id).inv := by
  unfold Dev.unqueue
  repeat' first
    | with_reducible assumption
    | intro _
    | simp only [keep_mk]
    | dsimp only

theorem Dev.engineTake_inv (d : Dev) (n : Nat) (r : CipherReq) (h1 : d.inv) :
    (Dev.engineTake d n r).inv := by
  unfold Dev.engineTake
  repeat' first
    | with_reducible assumption
    | with_reducible apply Dev.unqueue_inv
    | with_reducible apply Dev.setEngine_inv
    | with_reducible apply Dev.touchKey_inv
    | with_reducible apply Dev.keyRefused_inv
    | (intro x; refine keep_have x ?_ ?_ <;> first | (show x.inv; unfold x) | (intro _; clear_value x))
    | (intro x; refine keep_have1 x ?_ ?_ <;> first | (show x.1.inv; unfold x) | (intro _; clear_value x))
    | (intro x; clear_value x)
    | intro _
    | lift_lets
    | simp only [keep_mk]
    | split
    | dsimp only

theorem cipherDispatch_inv (d : Dev) (h1 : d.inv) :
    (cipherDispatch d).inv := by
  unfold cipherDispatch
  repeat' first
    | with_reducible assumption
    | with_reducible apply Dev.startUnwraps_inv
    | with_reducible apply Dev.engineTake_inv
    | with_reducible apply Dev.cphRefillAll_inv
    | with_reducible apply Dev.sweepDoomed_inv
    | with_reducible apply Dev.settle_inv
    | (intro x; refine keep_have x ?_ ?_ <;> first | (show x.inv; unfold x) | (intro _; clear_value x))
    | (intro x; refine keep_have1 x ?_ ?_ <;> first | (show x.1.inv; unfold x) | (intro _; clear_value x))
    | (intro x; clear_value x)
    | intro _
    | lift_lets
    | simp only [keep_mk]
    | split
    | dsimp only

theorem Dev.romInput_inv (d : Dev) (r : CipherReq) (h1 : d.inv) :
    (Dev.romInput d r).1.inv := by
  unfold Dev.romInput
  repeat' first
    | with_reducible assumption
    | with_reducible apply keep_ite
    | with_reducible apply keep_ite1
    | with_reducible apply keep_ite2
    | with_reducible apply Dev.free_inv
    | (intro x; refine keep_have x ?_ ?_ <;> first | (show x.inv; unfold x) | (intro _; clear_value x))
    | (intro x; refine keep_have1 x ?_ ?_ <;> first | (show x.1.inv; unfold x) | (intro _; clear_value x))
    | (intro x; refine keep_have2 x ?_ ?_ <;> first | (show x.2.inv; unfold x) | (intro _; clear_value x))
    | (intro x; clear_value x)
    | intro _
    | lift_lets
    | simp only [keep_mk]
    | split
    | dsimp only

theorem Dev.atBoundary_inv (d : Dev) (x : Running) (copied : Nat) (h1 : d.inv) :
    (Dev.atBoundary d x copied).1.inv := by
  unfold Dev.atBoundary
  repeat' first
    | with_reducible assumption
    | with_reducible apply keep_ite
    | with_reducible apply keep_ite1
    | with_reducible apply keep_ite2
    | with_reducible apply Dev.setBytes_inv
    | (intro x; refine keep_have x ?_ ?_ <;> first | (show x.inv; unfold x) | (intro _; clear_value x))
    | (intro x; refine keep_have1 x ?_ ?_ <;> first | (show x.1.inv; unfold x) | (intro _; clear_value x))
    | (intro x; refine keep_have2 x ?_ ?_ <;> first | (show x.2.inv; unfold x) | (intro _; clear_value x))
    | (intro x; clear_value x)
    | intro _
    | lift_lets
    | simp only [keep_mk]
    | split
    | dsimp only

theorem cipherSuspend_inv (x : BlockBoundary) (d : Dev) (h1 : d.inv) :
    (cipherSuspend x d).inv := by
  unfold cipherSuspend
  repeat' first
    | with_reducible assumption
    | with_reducible apply keep_ite
    | with_reducible apply keep_ite1
    | with_reducible apply keep_ite2
    | with_reducible apply Dev.atBoundary_inv
    | with_reducible apply Dev.setEngine_inv
    | with_reducible apply Dev.engineTake_inv
    | (intro x; refine keep_have x ?_ ?_ <;> first | (show x.inv; unfold x) | (intro _; clear_value x))
    | (intro x; refine keep_have1 x ?_ ?_ <;> first | (show x.1.inv; unfold x) | (intro _; clear_value x))
    | (intro x; refine keep_have2 x ?_ ?_ <;> first | (show x.2.inv; unfold x) | (intro _; clear_value x))
    | (intro x; clear_value x)
    | intro _
    | lift_lets
    | simp only [keep_mk]
    | split
    | dsimp only

theorem Dev.copyLost_inv (d : Dev) (x : Running) (h1 : d.inv) :
    (Dev.copyLost d x).inv := by
  unfold Dev.copyLost
  repeat' first
    | with_reducible assumption
    | with_reducible apply Dev.cphComplete_inv
    | intro _
    | dsimp only

theorem Dev.engineRetire_inv (d : Dev) (n : Nat) (h1 : d.inv) :
    (Dev.engineRetire d n).inv := by
  unfold Dev.engineRetire
  repeat' first
    | with_reducible assumption
    | with_reducible apply Dev.restart_inv
    | with_reducible apply Dev.setEngine_inv
    | with_reducible apply Dev.done_inv
    | with_reducible apply Dev.copyLost_inv
    | with_reducible refine keep_foldl (fun d x hd => ?_) ?_
    | with_reducible refine keep_foldl1 (fun d x hd => ?_) ?_
    | (intro x; refine keep_have x ?_ ?_ <;> first | (show x.inv; unfold x) | (intro _; clear_value x))
    | (intro x; refine keep_have1 x ?_ ?_ <;> first | (show x.1.inv; unfold x) | (intro _; clear_value x))
    | (intro x; clear_value x)
    | intro _
    | lift_lets
    | simp only [keep_mk]
    | dsimp only

theorem Dev.engineNext_inv (d : Dev) (n : Nat) (h1 : d.inv) :
    (Dev.engineNext d n).inv := by
  unfold Dev.engineNext
  repeat' first
    | with_reducible assumption
    | with_reducible apply keep_ite
    | with_reducible apply keep_ite1
    | with_reducible apply Dev.engineTake_inv
    | with_reducible apply Dev.setEngine_inv
    | (intro x; refine keep_have x ?_ ?_ <;> first | (show x.inv; unfold x) | (intro _; clear_value x))
    | (intro x; refine keep_have1 x ?_ ?_ <;> first | (show x.1.inv; unfold x) | (intro _; clear_value x))
    | (intro x; clear_value x)
    | intro _
    | lift_lets
    | simp only [keep_mk]
    | split
    | dsimp only

theorem Dev.runningEnds_inv (d : Dev) (x : Running) (h1 : d.inv) :
    (Dev.runningEnds d x).inv := by
  unfold Dev.runningEnds
  repeat' first
    | with_reducible assumption
    | with_reducible apply keep_ite
    | with_reducible apply keep_ite1
    | with_reducible apply keep_ite2
    | with_reducible apply Dev.cphComplete_inv
    | with_reducible apply Dev.romInput_inv
    | (intro x; refine keep_have x ?_ ?_ <;> first | (show x.inv; unfold x) | (intro _; clear_value x))
    | (intro x; refine keep_have1 x ?_ ?_ <;> first | (show x.1.inv; unfold x) | (intro _; clear_value x))
    | (intro x; refine keep_have2 x ?_ ?_ <;> first | (show x.2.inv; unfold x) | (intro _; clear_value x))
    | (intro x; clear_value x)
    | intro _
    | lift_lets
    | split
    | dsimp only

theorem Dev.bufferLost_inv (d : Dev) (n : Nat) (res : Nat) (h1 : d.inv) :
    (Dev.bufferLost d n res).inv := by
  unfold Dev.bufferLost
  repeat' first
    | with_reducible assumption
    | with_reducible apply keep_ite
    | with_reducible apply keep_ite1
    | with_reducible apply Dev.engineRetire_inv
    | (intro x; refine keep_have x ?_ ?_ <;> first | (show x.inv; unfold x) | (intro _; clear_value x))
    | (intro x; refine keep_have1 x ?_ ?_ <;> first | (show x.1.inv; unfold x) | (intro _; clear_value x))
    | (intro x; clear_value x)
    | intro _
    | lift_lets
    | simp only [keep_mk]
    | split
    | dsimp only

theorem cipherRequestDone_inv (n : Nat) (fault : CipherFault) (d : Dev) (h1 : d.inv) :
    (cipherRequestDone n fault d).inv := by
  unfold cipherRequestDone
  repeat' first
    | with_reducible assumption
    | with_reducible apply keep_ite
    | with_reducible apply keep_ite1
    | with_reducible apply keep_ite2
    | with_reducible apply Dev.setEngine_inv
    | with_reducible apply Dev.runningEnds_inv
    | with_reducible apply Dev.fetch_inv
    | with_reducible apply Dev.cphComplete_inv
    | with_reducible apply Dev.permanent_inv
    | with_reducible apply Dev.bufferLost_inv
    | with_reducible apply Dev.copyLost_inv
    | with_reducible apply Dev.engineNext_inv
    | with_reducible apply Dev.cphRefillAll_inv
    | with_reducible apply Dev.sweepDoomed_inv
    | with_reducible apply Dev.settle_inv
    | (intro x; refine keep_have x ?_ ?_ <;> first | (show x.inv; unfold x) | (intro _; clear_value x))
    | (intro x; refine keep_have1 x ?_ ?_ <;> first | (show x.1.inv; unfold x) | (intro _; clear_value x))
    | (intro x; refine keep_have2 x ?_ ?_ <;> first | (show x.2.inv; unfold x) | (intro _; clear_value x))
    | (intro x; clear_value x)
    | intro _
    | lift_lets
    | simp only [keep_mk]
    | split
    | dsimp only

theorem bulkAge_inv (id : Nat) (d : Dev) (h1 : d.inv) :
    (bulkAge id d).inv := by
  unfold bulkAge
  repeat' first
    | with_reducible assumption
    | with_reducible apply keep_ite
    | with_reducible apply Dev.bump_inv
    | intro _
    | simp only [keep_mk]
    | split
    | dsimp only

theorem cipherDomainTimeout_inv (id : Nat) (d : Dev) (h1 : d.inv) :
    (cipherDomainTimeout id d).inv := by
  unfold cipherDomainTimeout
  repeat' first
    | with_reducible assumption
    | with_reducible apply Dev.unqueue_inv
    | with_reducible apply Dev.cphComplete_inv
    | with_reducible apply Dev.domainOff_inv
    | with_reducible apply Dev.cphRefillAll_inv
    | with_reducible apply Dev.settle_inv
    | intro _
    | simp only [keep_mk]
    | split
    | dsimp only

theorem Dev.dropResult_inv (d : Dev) (id : Nat) (h1 : d.inv) :
    (Dev.dropResult d id).inv := by
  unfold Dev.dropResult
  repeat' first
    | with_reducible assumption
    | intro _
    | simp only [keep_mk]
    | dsimp only

theorem nodeUnwrapDone_inv (s : Nat) (d : Dev) (h1 : d.inv) :
    (nodeUnwrapDone s d).inv := by
  unfold nodeUnwrapDone
  repeat' first
    | with_reducible assumption
    | with_reducible apply keep_ite
    | with_reducible apply keep_ite1
    | with_reducible apply keep_ite2
    | with_reducible apply Dev.nodeUnwrap_inv
    | with_reducible apply Dev.unqueue_inv
    | with_reducible apply Dev.keyRefused_inv
    | with_reducible apply Dev.cphRefillAll_inv
    | with_reducible apply Dev.settle_inv
    | with_reducible refine keep_foldl (fun d x hd => ?_) ?_
    | with_reducible refine keep_foldl1 (fun d x hd => ?_) ?_
    | (intro x; refine keep_have x ?_ ?_ <;> first | (show x.inv; unfold x) | (intro _; clear_value x))
    | (intro x; refine keep_have1 x ?_ ?_ <;> first | (show x.1.inv; unfold x) | (intro _; clear_value x))
    | (intro x; refine keep_have2 x ?_ ?_ <;> first | (show x.2.inv; unfold x) | (intro _; clear_value x))
    | (intro x; clear_value x)
    | intro _
    | lift_lets
    | simp only [keep_mk]
    | split
    | dsimp only

end Sys2Proof.Machine
end

