-- ==== Sys2Proof/Laws/KeepNdt.lean ====
section
/-! SUPPORT. Every operation of Machine/Ndt.lean keeps the invariant. -/

namespace Sys2Proof.Machine

open Sys2Proof

theorem Dev.nextStamp_inv (d : Dev) (h1 : d.inv) :
    (Dev.nextStamp d).1.inv := by
  unfold Dev.nextStamp
  repeat' first
    | with_reducible assumption
    | (intro x; refine keep_have x ?_ ?_ <;> first | (show x.inv; unfold x) | (intro _; clear_value x))
    | (intro x; refine keep_have1 x ?_ ?_ <;> first | (show x.1.inv; unfold x) | (intro _; clear_value x))
    | (intro x; clear_value x)
    | intro _
    | lift_lets
    | simp only [keep_mk]
    | dsimp only

theorem Dev.putStamp_inv (d : Dev) (s : Nat) (g : Nat) (t : Stamp) (h1 : d.inv) :
    (Dev.putStamp d s g t).inv := by
  unfold Dev.putStamp
  repeat' first
    | with_reducible assumption
    | with_reducible apply Dev.setCx_inv
    | intro _
    | dsimp only

theorem Dev.putGroup_inv (d : Dev) (s : Nat) (g : Nat) (img : List Byte) (h1 : d.inv) :
    (Dev.putGroup d s g img).inv := by
  unfold Dev.putGroup
  repeat' first
    | with_reducible assumption
    | with_reducible apply Dev.setCx_inv
    | with_reducible refine keep_foldl (fun d x hd => ?_) ?_
    | with_reducible refine keep_foldl1 (fun d x hd => ?_) ?_
    | intro _
    | dsimp only

theorem Dev.groupUpdate_inv (d : Dev) (s : Nat) (g : Nat) (img : List Byte) (t : Stamp) (h1 : d.inv) :
    (Dev.groupUpdate d s g img t).1.inv := by
  unfold Dev.groupUpdate
  repeat' first
    | with_reducible assumption
    | with_reducible apply keep_ite
    | with_reducible apply keep_ite1
    | with_reducible apply keep_ite2
    | with_reducible apply Dev.releaseKey_inv
    | with_reducible apply Dev.putGroup_inv
    | with_reducible apply Dev.putStamp_inv
    | with_reducible apply Dev.dropKeys_inv
    | with_reducible apply Dev.insertKeys_inv
    | with_reducible apply Dev.bump_inv
    | (intro x; refine keep_have x ?_ ?_ <;> first | (show x.inv; unfold x) | (intro _; clear_value x))
    | (intro x; refine keep_have1 x ?_ ?_ <;> first | (show x.1.inv; unfold x) | (intro _; clear_value x))
    | (intro x; refine keep_have2 x ?_ ?_ <;> first | (show x.2.inv; unfold x) | (intro _; clear_value x))
    | (intro x; clear_value x)
    | intro _
    | lift_lets
    | split
    | dsimp only

theorem Dev.groupUpdates_inv (d : Dev) (s : Nat) (img : List Byte) (t : Stamp) (y0 : List Nat) (h1 : d.inv) :
    (Dev.groupUpdates d s img t y0).1.inv := by
  induction y0 generalizing d s img t with
  | nil =>
    (first | rw [Dev.groupUpdates] | unfold Dev.groupUpdates)
    repeat' first
      | with_reducible assumption
      | with_reducible apply keep_ite
      | with_reducible apply keep_ite1
      | with_reducible apply keep_ite2
      | with_reducible apply Dev.groupUpdate_inv
      | (intro x; refine keep_have x ?_ ?_ <;> first | (show x.inv; unfold x) | (intro _; clear_value x))
      | (intro x; refine keep_have1 x ?_ ?_ <;> first | (show x.1.inv; unfold x) | (intro _; clear_value x))
      | (intro x; refine keep_have2 x ?_ ?_ <;> first | (show x.2.inv; unfold x) | (intro _; clear_value x))
      | (intro x; clear_value x)
      | intro _
      | lift_lets
      | split
      | dsimp only
  | cons _ _ ih =>
    (first | rw [Dev.groupUpdates] | unfold Dev.groupUpdates)
    repeat' first
      | with_reducible assumption
      | with_reducible apply ih
      | with_reducible apply keep_ite
      | with_reducible apply keep_ite1
      | with_reducible apply keep_ite2
      | with_reducible apply Dev.groupUpdate_inv
      | (intro x; refine keep_have x ?_ ?_ <;> first | (show x.inv; unfold x) | (intro _; clear_value x))
      | (intro x; refine keep_have1 x ?_ ?_ <;> first | (show x.1.inv; unfold x) | (intro _; clear_value x))
      | (intro x; refine keep_have2 x ?_ ?_ <;> first | (show x.2.inv; unfold x) | (intro _; clear_value x))
      | (intro x; clear_value x)
      | intro _
      | lift_lets
      | split
      | dsimp only

theorem Dev.refusedUpdate_inv (before : Dev) (after : Dev) (h1 : before.inv) (h2 : after.inv) :
    (Dev.refusedUpdate before after).inv := by
  unfold Dev.refusedUpdate
  repeat' first
    | with_reducible assumption
    | with_reducible apply Dev.setReg_inv
    | intro _
    | dsimp only

theorem Dev.firstUse_inv (d : Dev) (s : Nat) (fresh : Bool) (route : Bool) (h1 : d.inv) :
    (Dev.firstUse d s fresh route).inv := by
  unfold Dev.firstUse
  repeat' first
    | with_reducible assumption
    | with_reducible apply keep_ite
    | with_reducible apply keep_ite1
    | with_reducible apply Dev.setCx_inv
    | with_reducible refine keep_foldl (fun d x hd => ?_) ?_
    | with_reducible refine keep_foldl1 (fun d x hd => ?_) ?_
    | (intro x; refine keep_have x ?_ ?_ <;> first | (show x.inv; unfold x) | (intro _; clear_value x))
    | (intro x; refine keep_have1 x ?_ ?_ <;> first | (show x.1.inv; unfold x) | (intro _; clear_value x))
    | (intro x; clear_value x)
    | intro _
    | lift_lets
    | split
    | dsimp only

theorem Dev.rebuilt_inv (d : Dev) (s : Nat) (h1 : d.inv) :
    (Dev.rebuilt d s).inv := by
  unfold Dev.rebuilt
  repeat' first
    | with_reducible assumption
    | with_reducible apply keep_ite
    | with_reducible apply Dev.bump_inv
    | intro _
    | simp only [keep_mk]
    | split
    | dsimp only

theorem Dev.nodeAdd_inv (d : Dev) (addr : Nat) (fresh : Bool) (route : Bool) (img : List Byte) (h1 : d.inv) :
    (Dev.nodeAdd d addr fresh route img).1.inv := by
  unfold Dev.nodeAdd
  repeat' first
    | with_reducible assumption
    | with_reducible apply keep_ite
    | with_reducible apply keep_ite1
    | with_reducible apply keep_ite2
    | with_reducible apply Dev.nextStamp_inv
    | with_reducible apply Dev.setBytes_inv
    | with_reducible apply Dev.setCx_inv
    | with_reducible apply Dev.putGroup_inv
    | with_reducible apply Dev.putStamp_inv
    | with_reducible apply Dev.firstUse_inv
    | with_reducible apply Dev.cxTouch_inv
    | with_reducible apply Dev.setRte_inv
    | with_reducible apply Dev.insertKeys_inv
    | with_reducible apply Dev.rebuilt_inv
    | with_reducible apply Dev.refusedUpdate_inv
    | with_reducible refine keep_foldl (fun d x hd => ?_) ?_
    | with_reducible refine keep_foldl1 (fun d x hd => ?_) ?_
    | (intro x; refine keep_have x ?_ ?_ <;> first | (show x.inv; unfold x) | (intro _; clear_value x))
    | (intro x; refine keep_have1 x ?_ ?_ <;> first | (show x.1.inv; unfold x) | (intro _; clear_value x))
    | (intro x; refine keep_have2 x ?_ ?_ <;> first | (show x.2.inv; unfold x) | (intro _; clear_value x))
    | (intro x; clear_value x)
    | intro _
    | lift_lets
    | split
    | dsimp only

theorem Dev.nodeUpdate_inv (d : Dev) (addr : Nat) (groups : List Nat) (setCu : Bool) (clrCu : Bool) (img : List Byte) (h1 : d.inv) :
    (Dev.nodeUpdate d addr groups setCu clrCu img).1.inv := by
  unfold Dev.nodeUpdate
  repeat' first
    | with_reducible assumption
    | with_reducible apply keep_ite
    | with_reducible apply keep_ite1
    | with_reducible apply keep_ite2
    | with_reducible apply Dev.nextStamp_inv
    | with_reducible apply Dev.groupUpdates_inv
    | with_reducible apply Dev.setCx_inv
    | with_reducible apply Dev.cxTouch_inv
    | with_reducible apply Dev.refusedUpdate_inv
    | (intro x; refine keep_have x ?_ ?_ <;> first | (show x.inv; unfold x) | (intro _; clear_value x))
    | (intro x; refine keep_have1 x ?_ ?_ <;> first | (show x.1.inv; unfold x) | (intro _; clear_value x))
    | (intro x; refine keep_have2 x ?_ ?_ <;> first | (show x.2.inv; unfold x) | (intro _; clear_value x))
    | (intro x; clear_value x)
    | intro _
    | lift_lets
    | simp only [keep_mk]
    | split
    | dsimp only

theorem Dev.dropNode_inv (d : Dev) (s : Nat) (h1 : d.inv) :
    (Dev.dropNode d s).inv := by
  unfold Dev.dropNode
  repeat' first
    | with_reducible assumption
    | with_reducible apply keep_ite
    | with_reducible apply keep_ite1
    | with_reducible apply Dev.releaseKey_inv
    | with_reducible apply Dev.setBytes_inv
    | with_reducible apply Dev.dropKeys_inv
    | with_reducible apply Dev.clearRte_inv
    | with_reducible apply Dev.replGone_inv
    | (intro x; refine keep_have x ?_ ?_ <;> first | (show x.inv; unfold x) | (intro _; clear_value x))
    | (intro x; refine keep_have1 x ?_ ?_ <;> first | (show x.1.inv; unfold x) | (intro _; clear_value x))
    | (intro x; clear_value x)
    | intro _
    | lift_lets
    | split
    | dsimp only

theorem Dev.nodeRemove_inv (d : Dev) (addr : Nat) (h1 : d.inv) :
    (Dev.nodeRemove d addr).1.inv := by
  unfold Dev.nodeRemove
  repeat' first
    | with_reducible assumption
    | with_reducible apply keep_ite
    | with_reducible apply keep_ite1
    | with_reducible apply Dev.dropNode_inv
    | intro _
    | simp only [keep_mk]
    | split
    | dsimp only

theorem Dev.routeSet_inv (d : Dev) (addr : Nat) (owner : Nat) (eui : Option Nat) (short : Option (Nat × Nat)) (h1 : d.inv) :
    (Dev.routeSet d addr owner eui short).1.inv := by
  unfold Dev.routeSet
  repeat' first
    | with_reducible assumption
    | with_reducible apply keep_ite
    | with_reducible apply keep_ite1
    | with_reducible apply keep_ite2
    | with_reducible apply Dev.bump_inv
    | with_reducible apply Dev.dropKeys_inv
    | with_reducible apply Dev.setRte_inv
    | with_reducible apply Dev.insertKeys_inv
    | with_reducible apply Dev.refusedUpdate_inv
    | (intro x; refine keep_have x ?_ ?_ <;> first | (show x.inv; unfold x) | (intro _; clear_value x))
    | (intro x; refine keep_have1 x ?_ ?_ <;> first | (show x.1.inv; unfold x) | (intro _; clear_value x))
    | (intro x; refine keep_have2 x ?_ ?_ <;> first | (show x.2.inv; unfold x) | (intro _; clear_value x))
    | (intro x; clear_value x)
    | intro _
    | lift_lets
    | simp only [keep_mk]
    | split
    | dsimp only

theorem Dev.routeDel_inv (d : Dev) (addr : Nat) (sq : Nat) (id : Nat) (h1 : d.inv) :
    (Dev.routeDel d addr sq id).1.inv := by
  unfold Dev.routeDel
  repeat' first
    | with_reducible assumption
    | with_reducible apply keep_ite
    | with_reducible apply keep_ite1
    | with_reducible apply Dev.clearRte_inv
    | intro _
    | simp only [keep_mk]
    | split
    | dsimp only

theorem Dev.restoreCtx_inv (d : Dev) (s : Nat) (img : List Byte) (replica : Bool) (h1 : d.inv) :
    (Dev.restoreCtx d s img replica).1.inv := by
  unfold Dev.restoreCtx
  repeat' first
    | with_reducible assumption
    | with_reducible apply keep_ite
    | with_reducible apply keep_ite1
    | with_reducible apply keep_ite2
    | with_reducible apply Dev.releaseKey_inv
    | with_reducible apply Dev.dropKeys_inv
    | with_reducible apply Dev.setBytes_inv
    | with_reducible apply Dev.setCx_inv
    | with_reducible apply Dev.cxTouch_inv
    | with_reducible apply Dev.setRte_inv
    | with_reducible apply Dev.insertKeys_inv
    | with_reducible apply Dev.rebuilt_inv
    | with_reducible apply Dev.refusedUpdate_inv
    | (intro x; refine keep_have x ?_ ?_ <;> first | (show x.inv; unfold x) | (intro _; clear_value x))
    | (intro x; refine keep_have1 x ?_ ?_ <;> first | (show x.1.inv; unfold x) | (intro _; clear_value x))
    | (intro x; refine keep_have2 x ?_ ?_ <;> first | (show x.2.inv; unfold x) | (intro _; clear_value x))
    | (intro x; clear_value x)
    | intro _
    | lift_lets
    | split
    | dsimp only

theorem Dev.restoreRecord_inv (d : Dev) (type : Nat) (r : List Byte) (h1 : d.inv) :
    (Dev.restoreRecord d type r).1.inv := by
  unfold Dev.restoreRecord
  repeat' first
    | with_reducible assumption
    | with_reducible apply keep_ite
    | with_reducible apply keep_ite1
    | with_reducible apply keep_ite2
    | with_reducible apply Dev.restoreCtx_inv
    | with_reducible apply Dev.setCx_inv
    | with_reducible apply Dev.cxTouch_inv
    | with_reducible apply Dev.routeSet_inv
    | (intro x; refine keep_have x ?_ ?_ <;> first | (show x.inv; unfold x) | (intro _; clear_value x))
    | (intro x; refine keep_have1 x ?_ ?_ <;> first | (show x.1.inv; unfold x) | (intro _; clear_value x))
    | (intro x; refine keep_have2 x ?_ ?_ <;> first | (show x.2.inv; unfold x) | (intro _; clear_value x))
    | (intro x; clear_value x)
    | intro _
    | lift_lets
    | simp only [keep_mk]
    | split
    | dsimp only

theorem Dev.restoreLoop_inv (d : Dev) (y0 : Nat) (y1 : List Byte) (y2 : Restored) (h1 : d.inv) :
    (Dev.restoreLoop d y0 y1 y2).1.inv := by
  induction y0 generalizing d y1 y2 with
  | zero =>
    (first | rw [Dev.restoreLoop] | unfold Dev.restoreLoop)
    repeat' first
      | with_reducible assumption
      | with_reducible apply keep_ite
      | with_reducible apply keep_ite1
      | with_reducible apply keep_ite2
      | with_reducible apply Dev.mismatch_inv
      | with_reducible apply Dev.restoreRecord_inv
      | (intro x; refine keep_have x ?_ ?_ <;> first | (show x.inv; unfold x) | (intro _; clear_value x))
      | (intro x; refine keep_have1 x ?_ ?_ <;> first | (show x.1.inv; unfold x) | (intro _; clear_value x))
      | (intro x; refine keep_have2 x ?_ ?_ <;> first | (show x.2.inv; unfold x) | (intro _; clear_value x))
      | (intro x; clear_value x)
      | intro _
      | lift_lets
      | simp only [keep_mk]
      | split
      | dsimp only
  | succ _ ih =>
    (first | rw [Dev.restoreLoop] | unfold Dev.restoreLoop)
    repeat' first
      | with_reducible assumption
      | with_reducible apply ih
      | with_reducible apply keep_ite
      | with_reducible apply keep_ite1
      | with_reducible apply keep_ite2
      | with_reducible apply Dev.mismatch_inv
      | with_reducible apply Dev.restoreRecord_inv
      | (intro x; refine keep_have x ?_ ?_ <;> first | (show x.inv; unfold x) | (intro _; clear_value x))
      | (intro x; refine keep_have1 x ?_ ?_ <;> first | (show x.1.inv; unfold x) | (intro _; clear_value x))
      | (intro x; refine keep_have2 x ?_ ?_ <;> first | (show x.2.inv; unfold x) | (intro _; clear_value x))
      | (intro x; clear_value x)
      | intro _
      | lift_lets
      | simp only [keep_mk]
      | split
      | dsimp only

theorem Dev.restoreStream_inv (d : Dev) (bs : List Byte) (h1 : d.inv) :
    (Dev.restoreStream d bs).1.inv := by
  unfold Dev.restoreStream
  repeat' first
    | with_reducible assumption
    | with_reducible apply Dev.restoreLoop_inv
    | intro _
    | simp only [keep_mk]
    | dsimp only

theorem Dev.ndtStart_inv (d : Dev) (who : Initiator) (op : NdtOp) (h1 : d.inv) :
    (Dev.ndtStart d who op).inv := by
  unfold Dev.ndtStart
  repeat' first
    | with_reducible assumption
    | with_reducible apply keep_ite
    | with_reducible apply Dev.refuseWrite_inv
    | intro _
    | simp only [keep_mk]
    | split
    | dsimp only

theorem adopt_inv (who : Initiator) (d : Dev) (h1 : d.inv) :
    (adopt who d).inv := by
  unfold adopt
  repeat' first
    | with_reducible assumption
    | with_reducible apply Dev.ndtStart_inv
    | intro _
    | dsimp only

theorem clear_inv (who : Initiator) (d : Dev) (h1 : d.inv) :
    (clear who d).inv := by
  unfold clear
  repeat' first
    | with_reducible assumption
    | with_reducible apply Dev.ndtStart_inv
    | intro _
    | dsimp only

theorem adoptDone_inv (d : Dev) (h1 : d.inv) :
    (adoptDone d).inv := by
  unfold adoptDone
  repeat' first
    | with_reducible assumption
    | with_reducible apply adopt_inv
    | with_reducible apply Dev.failedWords_inv
    | with_reducible apply Dev.fetch_inv
    | with_reducible refine keep_foldl (fun d x hd => ?_) ?_
    | with_reducible refine keep_foldl1 (fun d x hd => ?_) ?_
    | (intro x; refine keep_have x ?_ ?_ <;> first | (show x.inv; unfold x) | (intro _; clear_value x))
    | (intro x; refine keep_have1 x ?_ ?_ <;> first | (show x.1.inv; unfold x) | (intro _; clear_value x))
    | (intro x; refine keep_have2 x ?_ ?_ <;> first | (show x.2.inv; unfold x) | (intro _; clear_value x))
    | (intro x; clear_value x)
    | intro _
    | lift_lets
    | simp only [keep_mk]
    | split
    | dsimp only

theorem clearDone_inv (d : Dev) (h1 : d.inv) :
    (clearDone d).inv := by
  unfold clearDone
  repeat' first
    | with_reducible assumption
    | with_reducible apply clear_inv
    | with_reducible apply Dev.clearMem_inv
    | (intro x; refine keep_have x ?_ ?_ <;> first | (show x.inv; unfold x) | (intro _; clear_value x))
    | (intro x; refine keep_have1 x ?_ ?_ <;> first | (show x.1.inv; unfold x) | (intro _; clear_value x))
    | (intro x; clear_value x)
    | intro _
    | lift_lets
    | simp only [keep_mk]
    | split
    | dsimp only

theorem Dev.rebuildSlots_inv (d : Dev) (y0 : List Nat) (h1 : d.inv) :
    (Dev.rebuildSlots d y0).inv := by
  induction y0 generalizing d with
  | nil =>
    (first | rw [Dev.rebuildSlots] | unfold Dev.rebuildSlots)
    repeat' first
      | with_reducible assumption
      | with_reducible apply keep_ite
      | with_reducible apply keep_ite1
      | with_reducible apply Dev.setRte_inv
      | with_reducible apply Dev.insertKeys_inv
      | (intro x; refine keep_have x ?_ ?_ <;> first | (show x.inv; unfold x) | (intro _; clear_value x))
      | (intro x; refine keep_have1 x ?_ ?_ <;> first | (show x.1.inv; unfold x) | (intro _; clear_value x))
      | (intro x; clear_value x)
      | intro _
      | lift_lets
      | split
      | dsimp only
  | cons _ _ ih =>
    (first | rw [Dev.rebuildSlots] | unfold Dev.rebuildSlots)
    repeat' first
      | with_reducible assumption
      | with_reducible apply ih
      | with_reducible apply keep_ite
      | with_reducible apply keep_ite1
      | with_reducible apply Dev.setRte_inv
      | with_reducible apply Dev.insertKeys_inv
      | (intro x; refine keep_have x ?_ ?_ <;> first | (show x.inv; unfold x) | (intro _; clear_value x))
      | (intro x; refine keep_have1 x ?_ ?_ <;> first | (show x.1.inv; unfold x) | (intro _; clear_value x))
      | (intro x; clear_value x)
      | intro _
      | lift_lets
      | split
      | dsimp only

theorem rteIdxRebuildDone_inv (d : Dev) (h1 : d.inv) :
    (rteIdxRebuildDone d).inv := by
  unfold rteIdxRebuildDone
  repeat' first
    | with_reducible assumption
    | with_reducible apply keep_ite
    | with_reducible apply keep_ite1
    | with_reducible apply Dev.rebuildSlots_inv
    | (intro x; refine keep_have x ?_ ?_ <;> first | (show x.inv; unfold x) | (intro _; clear_value x))
    | (intro x; refine keep_have1 x ?_ ?_ <;> first | (show x.1.inv; unfold x) | (intro _; clear_value x))
    | (intro x; clear_value x)
    | intro _
    | lift_lets
    | simp only [keep_mk]
    | split
    | dsimp only

end Sys2Proof.Machine
end

