-- ==== Sys2Proof/Laws/KeepCspm.lean ====
section
/-! SUPPORT. Every operation of Machine/Cspm.lean keeps the invariant. -/

namespace Sys2Proof.Machine

open Sys2Proof

theorem start_inv (who : Initiator) (w : Word) (rdy : Bool) (d : Dev) (h1 : d.inv) :
    (start who w rdy d).inv := by
  unfold start
  repeat' first
    | with_reducible assumption
    | with_reducible apply keep_ite
    | with_reducible apply keep_ite1
    | with_reducible apply Dev.refuseWrite_inv
    | with_reducible apply Dev.plainWrite_inv
    | with_reducible apply Dev.wr_inv
    | with_reducible apply Dev.raise_inv
    | (intro x; refine keep_have x ?_ ?_ <;> first | (show x.inv; unfold x) | (intro _; clear_value x))
    | (intro x; refine keep_have1 x ?_ ?_ <;> first | (show x.1.inv; unfold x) | (intro _; clear_value x))
    | (intro x; clear_value x)
    | intro _
    | lift_lets
    | simp only [keep_mk]
    | split
    | dsimp only

theorem cspmAbort_inv (who : Initiator) (d : Dev) (h1 : d.inv) :
    (cspmAbort who d).inv := by
  unfold cspmAbort
  repeat' first
    | with_reducible assumption
    | with_reducible apply keep_ite
    | with_reducible apply Dev.refuseWrite_inv
    | intro _
    | simp only [keep_mk]
    | split
    | dsimp only

theorem cspmRdyRise_inv (d : Dev) (h1 : d.inv) :
    (cspmRdyRise d).inv := by
  unfold cspmRdyRise
  repeat' first
    | with_reducible assumption
    | intro _
    | simp only [keep_mk]
    | split
    | dsimp only

theorem Dev.cspmTimeout_inv (d : Dev) (h1 : d.inv) :
    (Dev.cspmTimeout d).inv := by
  unfold Dev.cspmTimeout
  repeat' first
    | with_reducible assumption
    | with_reducible apply keep_ite
    | with_reducible apply Dev.bump_inv
    | intro _
    | simp only [keep_mk]
    | split
    | dsimp only

theorem cspmRequestDone_inv (data : List Byte) (n : Nat) (d : Dev) (h1 : d.inv) :
    (cspmRequestDone data n d).inv := by
  unfold cspmRequestDone
  repeat' first
    | with_reducible assumption
    | with_reducible apply keep_ite
    | with_reducible apply keep_ite1
    | with_reducible apply keep_ite2
    | with_reducible apply Dev.emit_inv
    | with_reducible apply Dev.free_inv
    | with_reducible apply Dev.setBytes_inv
    | with_reducible apply Dev.bump_inv
    | with_reducible apply Dev.wr_inv
    | with_reducible apply Dev.raise_inv
    | (intro x; refine keep_have x ?_ ?_ <;> first | (show x.inv; unfold x) | (intro _; clear_value x))
    | (intro x; refine keep_have1 x ?_ ?_ <;> first | (show x.1.inv; unfold x) | (intro _; clear_value x))
    | (intro x; refine keep_have2 x ?_ ?_ <;> first | (show x.2.inv; unfold x) | (intro _; clear_value x))
    | (intro x; clear_value x)
    | intro _
    | lift_lets
    | simp only [keep_mk]
    | split
    | dsimp only

end Sys2Proof.Machine
end

