-- ==== Sys2Proof/Laws/KeepEvr.lean ====
section
/-! SUPPORT. Every operation of Machine/Evr.lean keeps the invariant. -/

namespace Sys2Proof.Machine

open Sys2Proof

theorem gpioEdge_inv (p : Nat) (level : Bool) (d : Dev) (h1 : d.inv) :
    (gpioEdge p level d).inv := by
  unfold gpioEdge
  repeat' first
    | with_reducible assumption
    | with_reducible apply keep_ite
    | with_reducible apply keep_ite1
    | with_reducible apply Dev.raise_inv
    | (intro x; refine keep_have x ?_ ?_ <;> first | (show x.inv; unfold x) | (intro _; clear_value x))
    | (intro x; refine keep_have1 x ?_ ?_ <;> first | (show x.1.inv; unfold x) | (intro _; clear_value x))
    | (intro x; clear_value x)
    | intro _
    | lift_lets
    | simp only [keep_mk]
    | split
    | dsimp only

theorem tmrCtrlWrite_inv (who : Initiator) (n : Nat) (w : Word) (d : Dev) (h1 : d.inv) :
    (tmrCtrlWrite who n w d).inv := by
  unfold tmrCtrlWrite
  repeat' first
    | with_reducible assumption
    | with_reducible apply keep_ite
    | with_reducible apply keep_ite1
    | with_reducible apply Dev.refuseWrite_inv
    | with_reducible apply Dev.rsvd_inv
    | with_reducible apply Dev.wr_inv
    | with_reducible apply Dev.timerStart_inv
    | with_reducible apply Dev.timerStop_inv
    | with_reducible apply Dev.settle_inv
    | (intro x; refine keep_have x ?_ ?_ <;> first | (show x.inv; unfold x) | (intro _; clear_value x))
    | (intro x; refine keep_have1 x ?_ ?_ <;> first | (show x.1.inv; unfold x) | (intro _; clear_value x))
    | (intro x; clear_value x)
    | intro _
    | lift_lets
    | split
    | dsimp only

theorem eventTimerExpiry_inv (n : Nat) (d : Dev) (h1 : d.inv) :
    (eventTimerExpiry n d).inv := by
  unfold eventTimerExpiry
  repeat' first
    | with_reducible assumption
    | with_reducible apply keep_ite
    | with_reducible apply keep_ite1
    | with_reducible apply Dev.timerStop_inv
    | with_reducible apply Dev.raise_inv
    | with_reducible apply Dev.settle_inv
    | (intro x; refine keep_have x ?_ ?_ <;> first | (show x.inv; unfold x) | (intro _; clear_value x))
    | (intro x; refine keep_have1 x ?_ ?_ <;> first | (show x.1.inv; unfold x) | (intro _; clear_value x))
    | (intro x; clear_value x)
    | intro _
    | lift_lets
    | simp only [keep_mk]
    | split
    | dsimp only

theorem pulseEnd_inv (line : Nat) (d : Dev) (h1 : d.inv) :
    (pulseEnd line d).inv := by
  unfold pulseEnd
  repeat' first
    | with_reducible assumption
    | with_reducible apply Dev.settle_inv
    | intro _
    | simp only [keep_mk]
    | dsimp only

theorem holdoffEnd_inv (k : Nat) (d : Dev) (h1 : d.inv) :
    (holdoffEnd k d).inv := by
  unfold holdoffEnd
  repeat' first
    | with_reducible assumption
    | intro _
    | simp only [keep_mk]
    | dsimp only

theorem taskPendingServe_inv (t : Nat) (d : Dev) (h1 : d.inv) :
    (taskPendingServe t d).inv := by
  unfold taskPendingServe
  repeat' first
    | with_reducible assumption
    | with_reducible apply Dev.serveTask_inv
    | intro _
    | dsimp only

theorem stormRearm_inv (p : Nat) (n : Nat) (d : Dev) (h1 : d.inv) :
    (stormRearm p n d).inv := by
  unfold stormRearm
  repeat' first
    | with_reducible assumption
    | with_reducible apply keep_ite
    | with_reducible apply keep_ite1
    | with_reducible apply Dev.wr_inv
    | with_reducible apply Dev.setChanLog_inv
    | (intro x; refine keep_have x ?_ ?_ <;> first | (show x.inv; unfold x) | (intro _; clear_value x))
    | (intro x; refine keep_have1 x ?_ ?_ <;> first | (show x.1.inv; unfold x) | (intro _; clear_value x))
    | (intro x; clear_value x)
    | intro _
    | lift_lets
    | simp only [keep_mk]
    | split
    | dsimp only

theorem Dev.armRefused_inv (d : Dev) (result : Nat) (channel : Nat) (lu : Nat) (luWrite : Bool) (h1 : d.inv) :
    (Dev.armRefused d result channel lu luWrite).inv := by
  unfold Dev.armRefused
  repeat' first
    | with_reducible assumption
    | with_reducible apply Dev.setReg_inv
    | intro _
    | dsimp only

theorem evrEcnCfgWrite_inv (who : Initiator) (n : Nat) (w : Word) (d : Dev) (h1 : d.inv) :
    (evrEcnCfgWrite who n w d).inv := by
  unfold evrEcnCfgWrite
  repeat' first
    | with_reducible assumption
    | with_reducible apply keep_ite
    | with_reducible apply keep_ite1
    | with_reducible apply keep_ite2
    | with_reducible apply Dev.refuseWrite_inv
    | with_reducible apply Dev.armRefused_inv
    | with_reducible apply Dev.rejectWrite_inv
    | with_reducible apply Dev.plainWrite_inv
    | with_reducible apply Dev.setChanLog_inv
    | (intro x; refine keep_have x ?_ ?_ <;> first | (show x.inv; unfold x) | (intro _; clear_value x))
    | (intro x; refine keep_have1 x ?_ ?_ <;> first | (show x.1.inv; unfold x) | (intro _; clear_value x))
    | (intro x; refine keep_have2 x ?_ ?_ <;> first | (show x.2.inv; unfold x) | (intro _; clear_value x))
    | (intro x; clear_value x)
    | intro _
    | lift_lets
    | simp only [keep_mk]
    | split
    | dsimp only

theorem evrLunCfgWrite_inv (who : Initiator) (k : Nat) (w : Word) (d : Dev) (h1 : d.inv) :
    (evrLunCfgWrite who k w d).inv := by
  unfold evrLunCfgWrite
  repeat' first
    | with_reducible assumption
    | with_reducible apply keep_ite
    | with_reducible apply keep_ite1
    | with_reducible apply keep_ite2
    | with_reducible apply Dev.refuseWrite_inv
    | with_reducible apply Dev.rejectWrite_inv
    | with_reducible apply Dev.armRefused_inv
    | with_reducible apply Dev.plainWrite_inv
    | with_reducible apply Dev.setCell_inv
    | (intro x; refine keep_have x ?_ ?_ <;> first | (show x.inv; unfold x) | (intro _; clear_value x))
    | (intro x; refine keep_have1 x ?_ ?_ <;> first | (show x.1.inv; unfold x) | (intro _; clear_value x))
    | (intro x; refine keep_have2 x ?_ ?_ <;> first | (show x.2.inv; unfold x) | (intro _; clear_value x))
    | (intro x; clear_value x)
    | intro _
    | lift_lets
    | simp only [keep_mk]
    | split
    | dsimp only

theorem irqCfgWrite_inv (who : Initiator) (n : Nat) (w : Word) (d : Dev) (h1 : d.inv) :
    (irqCfgWrite who n w d).inv := by
  unfold irqCfgWrite
  repeat' first
    | with_reducible assumption
    | with_reducible apply keep_ite
    | with_reducible apply keep_ite1
    | with_reducible apply Dev.refuseWrite_inv
    | with_reducible apply Dev.rejectWrite_inv
    | with_reducible apply Dev.plainWrite_inv
    | (intro x; refine keep_have x ?_ ?_ <;> first | (show x.inv; unfold x) | (intro _; clear_value x))
    | (intro x; refine keep_have1 x ?_ ?_ <;> first | (show x.1.inv; unfold x) | (intro _; clear_value x))
    | (intro x; clear_value x)
    | intro _
    | lift_lets
    | split
    | dsimp only

theorem Dev.clearIrq_inv (d : Dev) (n : Nat) (h1 : d.inv) :
    (Dev.clearIrq d n).inv := by
  unfold Dev.clearIrq
  repeat' first
    | with_reducible assumption
    | with_reducible apply Dev.putIrqPend_inv
    | (intro x; refine keep_have x ?_ ?_ <;> first | (show x.inv; unfold x) | (intro _; clear_value x))
    | (intro x; refine keep_have1 x ?_ ?_ <;> first | (show x.1.inv; unfold x) | (intro _; clear_value x))
    | (intro x; clear_value x)
    | intro _
    | lift_lets
    | simp only [keep_mk]
    | dsimp only

theorem irqPendWrite_inv (who : Initiator) (i : Nat) (w : Word) (d : Dev) (h1 : d.inv) :
    (irqPendWrite who i w d).inv := by
  unfold irqPendWrite
  repeat' first
    | with_reducible assumption
    | with_reducible apply keep_ite
    | with_reducible apply Dev.clearIrq_inv
    | with_reducible refine keep_foldl (fun d x hd => ?_) ?_
    | with_reducible refine keep_foldl1 (fun d x hd => ?_) ?_
    | intro _
    | split
    | dsimp only

theorem Dev.irqClaim_inv (d : Dev) (who : Initiator) (n : Nat) (h1 : d.inv) :
    (Dev.irqClaim d who n).1.inv := by
  unfold Dev.irqClaim
  repeat' first
    | with_reducible assumption
    | with_reducible apply keep_ite
    | with_reducible apply keep_ite1
    | with_reducible apply Dev.clearIrq_inv
    | with_reducible apply Dev.errDecode_inv
    | intro _
    | simp only [keep_mk]
    | split
    | dsimp only

theorem irqClaim_inv (who : Initiator) (n : Nat) (d : Dev) (h1 : d.inv) :
    (irqClaim who n d).inv := by
  unfold irqClaim
  repeat' first
    | with_reducible assumption
    | with_reducible apply keep_ite
    | with_reducible apply keep_ite1
    | with_reducible apply keep_ite2
    | with_reducible apply Dev.irqClaim_inv
    | with_reducible apply Dev.emit_inv
    | (intro x; refine keep_have x ?_ ?_ <;> first | (show x.inv; unfold x) | (intro _; clear_value x))
    | (intro x; refine keep_have1 x ?_ ?_ <;> first | (show x.1.inv; unfold x) | (intro _; clear_value x))
    | (intro x; refine keep_have2 x ?_ ?_ <;> first | (show x.2.inv; unfold x) | (intro _; clear_value x))
    | (intro x; clear_value x)
    | intro _
    | lift_lets
    | split
    | dsimp only

theorem irqSgi_inv (who : Initiator) (w : Word) (d : Dev) (h1 : d.inv) :
    (irqSgi who w d).inv := by
  unfold irqSgi
  repeat' first
    | with_reducible assumption
    | with_reducible apply keep_ite
    | with_reducible apply keep_ite1
    | with_reducible apply Dev.refuseWrite_inv
    | with_reducible apply Dev.setIrq_inv
    | with_reducible refine keep_foldl (fun d x hd => ?_) ?_
    | with_reducible refine keep_foldl1 (fun d x hd => ?_) ?_
    | (intro x; refine keep_have x ?_ ?_ <;> first | (show x.inv; unfold x) | (intro _; clear_value x))
    | (intro x; refine keep_have1 x ?_ ?_ <;> first | (show x.1.inv; unfold x) | (intro _; clear_value x))
    | (intro x; clear_value x)
    | intro _
    | lift_lets
    | simp only [keep_mk]
    | split
    | dsimp only

end Sys2Proof.Machine
end

