-- ==== Sys2Proof/Laws/KeepRfs.lean ====
section
/-! SUPPORT. Every operation of Machine/Rfs.lean keeps the invariant. -/

namespace Sys2Proof.Machine

open Sys2Proof

theorem Dev.setLo_inv (d : Dev) (lo : Nat) (l : Lo) (h1 : d.inv) :
    (Dev.setLo d lo l).inv := by
  unfold Dev.setLo
  repeat' first
    | with_reducible assumption
    | with_reducible apply Dev.wr_inv
    | (intro x; refine keep_have x ?_ ?_ <;> first | (show x.inv; unfold x) | (intro _; clear_value x))
    | (intro x; refine keep_have1 x ?_ ?_ <;> first | (show x.1.inv; unfold x) | (intro _; clear_value x))
    | (intro x; clear_value x)
    | intro _
    | lift_lets
    | simp only [keep_mk]
    | dsimp only

theorem Dev.loLock_inv (d : Dev) (lo : Nat) (c : Nat) (h1 : d.inv) :
    (Dev.loLock d lo c).inv := by
  unfold Dev.loLock
  repeat' first
    | with_reducible assumption
    | with_reducible apply keep_ite
    | with_reducible apply keep_ite1
    | with_reducible apply Dev.setLo_inv
    | with_reducible apply Dev.raise_inv
    | (intro x; refine keep_have x ?_ ?_ <;> first | (show x.inv; unfold x) | (intro _; clear_value x))
    | (intro x; refine keep_have1 x ?_ ?_ <;> first | (show x.1.inv; unfold x) | (intro _; clear_value x))
    | (intro x; clear_value x)
    | intro _
    | lift_lets
    | simp only [keep_mk]
    | split
    | dsimp only

theorem Dev.loUnlock_inv (d : Dev) (lo : Nat) (h1 : d.inv) :
    (Dev.loUnlock d lo).inv := by
  unfold Dev.loUnlock
  repeat' first
    | with_reducible assumption
    | with_reducible apply Dev.setLo_inv
    | intro _
    | simp only [keep_mk]
    | dsimp only

theorem Dev.loFailed_inv (d : Dev) (lo : Nat) (h1 : d.inv) :
    (Dev.loFailed d lo).inv := by
  unfold Dev.loFailed
  repeat' first
    | with_reducible assumption
    | with_reducible apply Dev.wr_inv
    | intro _
    | dsimp only

theorem Dev.entryTouch_inv (d : Dev) (lo : Nat) (c : Nat) (h1 : d.inv) :
    (Dev.entryTouch d lo c).inv := by
  unfold Dev.entryTouch
  repeat' first
    | with_reducible assumption
    | intro _
    | simp only [keep_mk]
    | split
    | dsimp only

theorem Dev.entryWrite_inv (d : Dev) (lo : Nat) (c : Nat) (band : Nat) (trim : Nat) (h1 : d.inv) :
    (Dev.entryWrite d lo c band trim).inv := by
  unfold Dev.entryWrite
  repeat' first
    | with_reducible assumption
    | with_reducible apply keep_ite
    | with_reducible apply keep_ite1
    | with_reducible apply Dev.setReg_inv
    | with_reducible apply Dev.loFailed_inv
    | with_reducible apply Dev.entryTouch_inv
    | (intro x; refine keep_have x ?_ ?_ <;> first | (show x.inv; unfold x) | (intro _; clear_value x))
    | (intro x; refine keep_have1 x ?_ ?_ <;> first | (show x.1.inv; unfold x) | (intro _; clear_value x))
    | (intro x; clear_value x)
    | intro _
    | lift_lets
    | simp only [keep_mk]
    | split
    | dsimp only

theorem Dev.lockFailure_inv (d : Dev) (lo : Nat) (c : Nat) (h1 : d.inv) :
    (Dev.lockFailure d lo c).1.inv := by
  unfold Dev.lockFailure
  repeat' first
    | with_reducible assumption
    | with_reducible apply keep_ite
    | with_reducible apply keep_ite1
    | with_reducible apply Dev.wr_inv
    | with_reducible apply Dev.setReg_inv
    | with_reducible apply Dev.loFailed_inv
    | (intro x; refine keep_have x ?_ ?_ <;> first | (show x.inv; unfold x) | (intro _; clear_value x))
    | (intro x; refine keep_have1 x ?_ ?_ <;> first | (show x.1.inv; unfold x) | (intro _; clear_value x))
    | (intro x; clear_value x)
    | intro _
    | lift_lets
    | simp only [keep_mk]
    | split
    | dsimp only

theorem Dev.bandReceive_inv (d : Dev) (lo : Nat) (h1 : d.inv) :
    (Dev.bandReceive d lo).inv := by
  unfold Dev.bandReceive
  repeat' first
    | with_reducible assumption
    | with_reducible apply keep_ite
    | with_reducible apply Dev.enterReceive_inv
    | with_reducible refine keep_foldl (fun d x hd => ?_) ?_
    | with_reducible refine keep_foldl1 (fun d x hd => ?_) ?_
    | intro _
    | split
    | dsimp only

theorem Dev.calStatus_inv (d : Dev) (h1 : d.inv) :
    (Dev.calStatus d).inv := by
  unfold Dev.calStatus
  repeat' first
    | with_reducible assumption
    | with_reducible apply Dev.wr_inv
    | (intro x; refine keep_have x ?_ ?_ <;> first | (show x.inv; unfold x) | (intro _; clear_value x))
    | (intro x; refine keep_have1 x ?_ ?_ <;> first | (show x.1.inv; unfold x) | (intro _; clear_value x))
    | (intro x; clear_value x)
    | intro _
    | lift_lets
    | simp only [keep_mk]
    | split
    | dsimp only

theorem Dev.calBegin_inv (d : Dev) (lo : Nat) (c : LoCal) (h1 : d.inv) :
    (Dev.calBegin d lo c).inv := by
  unfold Dev.calBegin
  repeat' first
    | with_reducible assumption
    | with_reducible apply keep_ite
    | with_reducible apply keep_ite1
    | with_reducible apply Dev.setLo_inv
    | with_reducible apply Dev.setChainState_inv
    | with_reducible apply Dev.abandonBand_inv
    | with_reducible apply Dev.calStatus_inv
    | with_reducible refine keep_foldl (fun d x hd => ?_) ?_
    | with_reducible refine keep_foldl1 (fun d x hd => ?_) ?_
    | (intro x; refine keep_have x ?_ ?_ <;> first | (show x.inv; unfold x) | (intro _; clear_value x))
    | (intro x; refine keep_have1 x ?_ ?_ <;> first | (show x.1.inv; unfold x) | (intro _; clear_value x))
    | (intro x; clear_value x)
    | intro _
    | lift_lets
    | simp only [keep_mk]
    | split
    | dsimp only

theorem Dev.calNext_inv (d : Dev) (lo : Nat) (h1 : d.inv) :
    (Dev.calNext d lo).inv := by
  unfold Dev.calNext
  repeat' first
    | with_reducible assumption
    | with_reducible apply keep_ite
    | with_reducible apply keep_ite1
    | with_reducible apply Dev.setLo_inv
    | with_reducible apply Dev.calBegin_inv
    | (intro x; refine keep_have x ?_ ?_ <;> first | (show x.inv; unfold x) | (intro _; clear_value x))
    | (intro x; refine keep_have1 x ?_ ?_ <;> first | (show x.1.inv; unfold x) | (intro _; clear_value x))
    | (intro x; clear_value x)
    | intro _
    | lift_lets
    | simp only [keep_mk]
    | split
    | dsimp only

theorem Dev.calAdvance_inv (d : Dev) (h1 : d.inv) :
    (Dev.calAdvance d).inv := by
  unfold Dev.calAdvance
  repeat' first
    | with_reducible assumption
    | with_reducible apply Dev.calNext_inv
    | with_reducible refine keep_foldl (fun d x hd => ?_) ?_
    | with_reducible refine keep_foldl1 (fun d x hd => ?_) ?_
    | intro _
    | dsimp only

theorem Dev.calRestart_inv (d : Dev) (n : Nat) (h1 : d.inv) :
    (Dev.calRestart d n).inv := by
  unfold Dev.calRestart
  repeat' first
    | with_reducible assumption
    | with_reducible apply keep_ite
    | with_reducible apply Dev.calNext_inv
    | with_reducible apply Dev.setLo_inv
    | with_reducible apply Dev.calBegin_inv
    | with_reducible apply Dev.bump_inv
    | intro _
    | simp only [keep_mk]
    | split
    | dsimp only

theorem Dev.calAbort_inv (d : Dev) (n : Nat) (h1 : d.inv) :
    (Dev.calAbort d n).inv := by
  unfold Dev.calAbort
  repeat' first
    | with_reducible assumption
    | with_reducible apply Dev.setLo_inv
    | with_reducible apply Dev.setChainState_inv
    | with_reducible apply Dev.calStatus_inv
    | (intro x; refine keep_have x ?_ ?_ <;> first | (show x.inv; unfold x) | (intro _; clear_value x))
    | (intro x; refine keep_have1 x ?_ ?_ <;> first | (show x.1.inv; unfold x) | (intro _; clear_value x))
    | (intro x; clear_value x)
    | intro _
    | lift_lets
    | simp only [keep_mk]
    | split
    | dsimp only

theorem Dev.calLeft_inv (d : Dev) (lo : Nat) (h1 : d.inv) :
    (Dev.calLeft d lo).inv := by
  unfold Dev.calLeft
  repeat' first
    | with_reducible assumption
    | with_reducible apply keep_ite
    | with_reducible apply keep_ite1
    | with_reducible apply Dev.calStatus_inv
    | with_reducible apply Dev.setChainState_inv
    | with_reducible apply Dev.calRestart_inv
    | with_reducible apply Dev.calNext_inv
    | with_reducible refine keep_foldl (fun d x hd => ?_) ?_
    | with_reducible refine keep_foldl1 (fun d x hd => ?_) ?_
    | (intro x; refine keep_have x ?_ ?_ <;> first | (show x.inv; unfold x) | (intro _; clear_value x))
    | (intro x; refine keep_have1 x ?_ ?_ <;> first | (show x.1.inv; unfold x) | (intro _; clear_value x))
    | (intro x; clear_value x)
    | intro _
    | lift_lets
    | simp only [keep_mk]
    | split
    | dsimp only

theorem fullCalibrationLock_inv (lo : Nat) (band : Nat) (trim : Nat) (d : Dev) (h1 : d.inv) :
    (fullCalibrationLock lo band trim d).inv := by
  unfold fullCalibrationLock
  repeat' first
    | with_reducible assumption
    | with_reducible apply keep_ite
    | with_reducible apply keep_ite1
    | with_reducible apply Dev.setLo_inv
    | with_reducible apply Dev.entryWrite_inv
    | with_reducible apply Dev.loLock_inv
    | with_reducible apply Dev.bandReceive_inv
    | with_reducible apply Dev.calLeft_inv
    | (intro x; refine keep_have x ?_ ?_ <;> first | (show x.inv; unfold x) | (intro _; clear_value x))
    | (intro x; refine keep_have1 x ?_ ?_ <;> first | (show x.1.inv; unfold x) | (intro _; clear_value x))
    | (intro x; clear_value x)
    | intro _
    | lift_lets
    | simp only [keep_mk]
    | split
    | dsimp only

theorem Dev.stageBegin_inv (d : Dev) (cmd : Bool) (stage : Nat) (skip : Bool) (h1 : d.inv) :
    (Dev.stageBegin d cmd stage skip).inv := by
  unfold Dev.stageBegin
  repeat' first
    | with_reducible assumption
    | with_reducible apply keep_ite
    | with_reducible apply keep_ite1
    | with_reducible apply Dev.setLo_inv
    | with_reducible apply Dev.calAdvance_inv
    | with_reducible refine keep_foldl (fun d x hd => ?_) ?_
    | with_reducible refine keep_foldl1 (fun d x hd => ?_) ?_
    | (intro x; refine keep_have x ?_ ?_ <;> first | (show x.inv; unfold x) | (intro _; clear_value x))
    | (intro x; refine keep_have1 x ?_ ?_ <;> first | (show x.1.inv; unfold x) | (intro _; clear_value x))
    | (intro x; refine keep_haveD x ?_ ?_ <;> first | (show ∀ d : Dev, d.inv → (x d).inv; unfold x; intro _ _) | (intro hfD; clear_value x))
    | (intro x; refine keep_haveG x ?_ ?_ <;> first | (show ∀ (d : Dev) a, d.inv → (x d a).inv; unfold x; intro _ _ _) | (intro hfG; clear_value x))
    | (intro x; refine keep_haveG1 x ?_ ?_ <;> first | (show ∀ (d : Dev) a, d.inv → (x d a).1.inv; unfold x; intro _ _ _) | (intro hfP; clear_value x))
    | (intro x; refine keep_haveF x ?_ ?_ <;> first | (show ∀ a, (x a).inv; unfold x; intro _) | (intro hfF; clear_value x))
    | with_reducible apply hfD
    | with_reducible apply hfG
    | with_reducible apply hfP
    | with_reducible apply hfF
    | (intro x; clear_value x)
    | intro _
    | lift_lets
    | simp only [keep_mk]
    | split
    | dsimp only

theorem Dev.stage6Write_inv (d : Dev) (n : Nat) (g14 : List Nat) (h1 : d.inv) :
    (Dev.stage6Write d n g14).inv := by
  unfold Dev.stage6Write
  repeat' first
    | with_reducible assumption
    | with_reducible apply Dev.setReg_inv
    | with_reducible refine keep_foldl (fun d x hd => ?_) ?_
    | with_reducible refine keep_foldl1 (fun d x hd => ?_) ?_
    | intro _
    | dsimp only

theorem Dev.calEnd_inv (d : Dev) (result : Nat) (h1 : d.inv) :
    (Dev.calEnd d result).inv := by
  unfold Dev.calEnd
  repeat' first
    | with_reducible assumption
    | with_reducible apply Dev.wr_inv
    | with_reducible apply Dev.calStatus_inv
    | with_reducible apply Dev.raise_inv
    | with_reducible apply Dev.settle_inv
    | (intro x; refine keep_have x ?_ ?_ <;> first | (show x.inv; unfold x) | (intro _; clear_value x))
    | (intro x; refine keep_have1 x ?_ ?_ <;> first | (show x.1.inv; unfold x) | (intro _; clear_value x))
    | (intro x; clear_value x)
    | intro _
    | lift_lets
    | simp only [keep_mk]
    | dsimp only

theorem Dev.calRun_inv (d : Dev) (op : Nat) (lo : Nat) (c : Nat) (h1 : d.inv) :
    (Dev.calRun d op lo c).inv := by
  unfold Dev.calRun
  repeat' first
    | with_reducible assumption
    | with_reducible apply keep_ite
    | with_reducible apply keep_ite1
    | with_reducible apply Dev.calEnd_inv
    | with_reducible apply railGood_inv
    | with_reducible apply Dev.calStatus_inv
    | with_reducible apply Dev.settle_inv
    | with_reducible apply Dev.stageBegin_inv
    | with_reducible apply Dev.setLo_inv
    | with_reducible apply Dev.calAdvance_inv
    | (intro x; refine keep_have x ?_ ?_ <;> first | (show x.inv; unfold x) | (intro _; clear_value x))
    | (intro x; refine keep_have1 x ?_ ?_ <;> first | (show x.1.inv; unfold x) | (intro _; clear_value x))
    | (intro x; clear_value x)
    | intro _
    | lift_lets
    | simp only [keep_mk]
    | split
    | dsimp only

theorem Dev.calInvalidate_inv (d : Dev) (ns : List Nat) (h1 : d.inv) :
    (Dev.calInvalidate d ns).inv := by
  unfold Dev.calInvalidate
  repeat' first
    | with_reducible assumption
    | with_reducible apply Dev.wr_inv
    | with_reducible apply Dev.raise_inv
    | with_reducible refine keep_foldl (fun d x hd => ?_) ?_
    | with_reducible refine keep_foldl1 (fun d x hd => ?_) ?_
    | (intro x; refine keep_have x ?_ ?_ <;> first | (show x.inv; unfold x) | (intro _; clear_value x))
    | (intro x; refine keep_have1 x ?_ ?_ <;> first | (show x.1.inv; unfold x) | (intro _; clear_value x))
    | (intro x; clear_value x)
    | intro _
    | lift_lets
    | dsimp only

theorem Dev.rfsCalCmd_inv (d : Dev) (who : Initiator) (w : Word) (h1 : d.inv) :
    (Dev.rfsCalCmd d who w).inv := by
  unfold Dev.rfsCalCmd
  repeat' first
    | with_reducible assumption
    | with_reducible apply keep_ite
    | with_reducible apply keep_ite1
    | with_reducible apply Dev.refuseWrite_inv
    | with_reducible apply Dev.rejectWrite_inv
    | with_reducible apply Dev.rsvd_inv
    | with_reducible apply Dev.wr_inv
    | with_reducible apply Dev.raise_inv
    | with_reducible apply Dev.calInvalidate_inv
    | with_reducible apply Dev.calRun_inv
    | with_reducible apply Dev.calStatus_inv
    | with_reducible apply Dev.bump_inv
    | (intro x; refine keep_have x ?_ ?_ <;> first | (show x.inv; unfold x) | (intro _; clear_value x))
    | (intro x; refine keep_have1 x ?_ ?_ <;> first | (show x.1.inv; unfold x) | (intro _; clear_value x))
    | (intro x; clear_value x)
    | intro _
    | lift_lets
    | simp only [keep_mk]
    | split
    | dsimp only

theorem calCommandEnd_inv (d : Dev) (h1 : d.inv) :
    (calCommandEnd d).inv := by
  unfold calCommandEnd
  repeat' first
    | with_reducible assumption
    | with_reducible apply keep_ite
    | with_reducible apply keep_ite1
    | with_reducible apply Dev.calEnd_inv
    | with_reducible apply Dev.wr_inv
    | with_reducible apply Dev.raise_inv
    | with_reducible apply Dev.calRun_inv
    | (intro x; refine keep_have x ?_ ?_ <;> first | (show x.inv; unfold x) | (intro _; clear_value x))
    | (intro x; refine keep_have1 x ?_ ?_ <;> first | (show x.1.inv; unfold x) | (intro _; clear_value x))
    | (intro x; clear_value x)
    | intro _
    | lift_lets
    | simp only [keep_mk]
    | split
    | dsimp only

theorem startupCalibrationStageDone_inv (g14 : List Nat) (d : Dev) (h1 : d.inv) :
    (startupCalibrationStageDone g14 d).inv := by
  unfold startupCalibrationStageDone
  repeat' first
    | with_reducible assumption
    | with_reducible apply keep_ite
    | with_reducible apply keep_ite1
    | with_reducible apply Dev.stage6Write_inv
    | with_reducible apply Dev.stageBegin_inv
    | with_reducible apply Dev.settle_inv
    | with_reducible refine keep_foldl (fun d x hd => ?_) ?_
    | with_reducible refine keep_foldl1 (fun d x hd => ?_) ?_
    | (intro x; refine keep_have x ?_ ?_ <;> first | (show x.inv; unfold x) | (intro _; clear_value x))
    | (intro x; refine keep_have1 x ?_ ?_ <;> first | (show x.1.inv; unfold x) | (intro _; clear_value x))
    | (intro x; refine keep_haveD x ?_ ?_ <;> first | (show ∀ d : Dev, d.inv → (x d).inv; unfold x; intro _ _) | (intro hfD; clear_value x))
    | (intro x; refine keep_haveG x ?_ ?_ <;> first | (show ∀ (d : Dev) a, d.inv → (x d a).inv; unfold x; intro _ _ _) | (intro hfG; clear_value x))
    | (intro x; refine keep_haveG1 x ?_ ?_ <;> first | (show ∀ (d : Dev) a, d.inv → (x d a).1.inv; unfold x; intro _ _ _) | (intro hfP; clear_value x))
    | (intro x; refine keep_haveF x ?_ ?_ <;> first | (show ∀ a, (x a).inv; unfold x; intro _) | (intro hfF; clear_value x))
    | with_reducible apply hfD
    | with_reducible apply hfG
    | with_reducible apply hfP
    | with_reducible apply hfF
    | (intro x; clear_value x)
    | intro _
    | lift_lets
    | simp only [keep_mk]
    | split
    | dsimp only

theorem txStage6Done_inv (n : Nat) (g14 : List Nat) (d : Dev) (h1 : d.inv) :
    (txStage6Done n g14 d).inv := by
  unfold txStage6Done
  repeat' first
    | with_reducible assumption
    | with_reducible apply keep_ite
    | with_reducible apply keep_ite1
    | with_reducible apply Dev.stage6Write_inv
    | with_reducible apply Dev.settle_inv
    | (intro x; refine keep_have x ?_ ?_ <;> first | (show x.inv; unfold x) | (intro _; clear_value x))
    | (intro x; refine keep_have1 x ?_ ?_ <;> first | (show x.1.inv; unfold x) | (intro _; clear_value x))
    | (intro x; clear_value x)
    | intro _
    | lift_lets
    | simp only [keep_mk]
    | split
    | dsimp only

theorem backgroundRecalibrationStart_inv (n : Nat) (d : Dev) (h1 : d.inv) :
    (backgroundRecalibrationStart n d).inv := by
  unfold backgroundRecalibrationStart
  repeat' first
    | with_reducible assumption
    | with_reducible apply keep_ite
    | with_reducible apply keep_ite1
    | with_reducible apply Dev.calBegin_inv
    | (intro x; refine keep_have x ?_ ?_ <;> first | (show x.inv; unfold x) | (intro _; clear_value x))
    | (intro x; refine keep_have1 x ?_ ?_ <;> first | (show x.1.inv; unfold x) | (intro _; clear_value x))
    | (intro x; clear_value x)
    | intro _
    | lift_lets
    | simp only [keep_mk]
    | split
    | dsimp only

theorem retune_inv (lo : Nat) (d : Dev) (h1 : d.inv) :
    (retune lo d).inv := by
  unfold retune
  repeat' first
    | with_reducible assumption
    | with_reducible apply keep_ite
    | with_reducible apply Dev.wr_inv
    | with_reducible apply Dev.raise_inv
    | intro _
    | split
    | dsimp only

theorem Dev.bandStart_inv (d : Dev) (lo : Nat) (h1 : d.inv) :
    (Dev.bandStart d lo).inv := by
  unfold Dev.bandStart
  repeat' first
    | with_reducible assumption
    | with_reducible apply keep_ite
    | with_reducible apply Dev.calBegin_inv
    | intro _
    | split
    | dsimp only

theorem bandLoLock_inv (lo : Nat) (d : Dev) (h1 : d.inv) :
    (bandLoLock lo d).inv := by
  unfold bandLoLock
  repeat' first
    | with_reducible assumption
    | with_reducible apply keep_ite
    | with_reducible apply keep_ite1
    | with_reducible apply Dev.loLock_inv
    | with_reducible apply Dev.bandReceive_inv
    | (intro x; refine keep_have x ?_ ?_ <;> first | (show x.inv; unfold x) | (intro _; clear_value x))
    | (intro x; refine keep_have1 x ?_ ?_ <;> first | (show x.1.inv; unfold x) | (intro _; clear_value x))
    | (intro x; clear_value x)
    | intro _
    | lift_lets
    | split
    | dsimp only

theorem tempSensorUpdate_inv (t : Int) (d : Dev) (h1 : d.inv) :
    (tempSensorUpdate t d).inv := by
  unfold tempSensorUpdate
  repeat' first
    | with_reducible assumption
    | with_reducible apply keep_ite
    | with_reducible apply Dev.wr_inv
    | intro _
    | split
    | dsimp only

theorem Dev.trimStep_inv (d : Dev) (n : Nat) (err : Int) (h1 : d.inv) :
    (Dev.trimStep d n err).inv := by
  unfold Dev.trimStep
  repeat' first
    | with_reducible assumption
    | with_reducible apply keep_ite
    | with_reducible apply keep_ite1
    | with_reducible apply Dev.wr_inv
    | (intro x; refine keep_have x ?_ ?_ <;> first | (show x.inv; unfold x) | (intro _; clear_value x))
    | (intro x; refine keep_have1 x ?_ ?_ <;> first | (show x.1.inv; unfold x) | (intro _; clear_value x))
    | (intro x; clear_value x)
    | intro _
    | lift_lets
    | split
    | dsimp only

end Sys2Proof.Machine
end

