-- ==== Sys2Proof/Laws/KeepFedCore.lean ====
section
/-! SUPPORT. Every operation of Machine/FedCore.lean keeps the invariant. -/

namespace Sys2Proof.Machine

open Sys2Proof

theorem Dev.setMember_inv (d : Dev) (m : Nat) (lo : Nat) (n : Nat) (v : Nat) (h1 : d.inv) :
    (Dev.setMember d m lo n v).inv := by
  unfold Dev.setMember
  repeat' first
    | with_reducible assumption
    | with_reducible apply Dev.setLe_inv
    | intro _
    | dsimp only

theorem Dev.setMemberState_inv (d : Dev) (m : Nat) (st : Nat) (h1 : d.inv) :
    (Dev.setMemberState d m st).inv := by
  unfold Dev.setMemberState
  repeat' first
    | with_reducible assumption
    | with_reducible apply Dev.setMember_inv
    | intro _
    | dsimp only

theorem Dev.setPeer_inv (d : Dev) (m : Nat) (p : Peer) (h1 : d.inv) :
    (Dev.setPeer d m p).inv := by
  unfold Dev.setPeer
  repeat' first
    | with_reducible assumption
    | intro _
    | simp only [keep_mk]
    | dsimp only

theorem Dev.setFedState_inv (d : Dev) (s : Nat) (h1 : d.inv) :
    (Dev.setFedState d s).inv := by
  unfold Dev.setFedState
  repeat' first
    | with_reducible assumption
    | with_reducible apply Dev.wr_inv
    | intro _
    | dsimp only

theorem Dev.fedRequest_inv (d : Dev) (verify : Bool) (m : List Byte) (tag : List Byte) (h1 : d.inv) :
    (Dev.fedRequest d verify m tag).inv := by
  unfold Dev.fedRequest
  repeat' first
    | with_reducible assumption
    | with_reducible apply Dev.cphRequest_inv
    | intro _
    | simp only [keep_mk]
    | dsimp only

theorem Dev.fedSendOn_inv (d : Dev) (ports : List Nat) (mac : Nat) (version : Nat) (dst : Option Nat) (p : BmPayload) (h1 : d.inv) :
    (Dev.fedSendOn d ports mac version dst p).inv := by
  unfold Dev.fedSendOn
  repeat' first
    | with_reducible assumption
    | with_reducible apply keep_ite
    | with_reducible apply keep_ite1
    | with_reducible apply Dev.fedRequest_inv
    | with_reducible apply Dev.emit_inv
    | with_reducible refine keep_foldl (fun d x hd => ?_) ?_
    | with_reducible refine keep_foldl1 (fun d x hd => ?_) ?_
    | (intro x; refine keep_have x ?_ ?_ <;> first | (show x.inv; unfold x) | (intro _; clear_value x))
    | (intro x; refine keep_have1 x ?_ ?_ <;> first | (show x.1.inv; unfold x) | (intro _; clear_value x))
    | (intro x; refine keep_haveD x ?_ ?_ <;> first | (show ∀ d : Dev, d.inv → (x d).inv; unfold x; intro _ _) | (intro hfD; clear_value x))
    | (intro x; refine keep_haveG x ?_ ?_ <;> first | (show ∀ (d : Dev) a, d.inv → (x d a).inv; unfold x; intro _ _ _) | (intro hfG; clear_value x))
    | (intro x; refine keep_haveG1 x ?_ ?_ <;> first | (show ∀ (d : Dev) a, d.inv → (x d a).1.inv; unfold x; intro _ _ _) | (intro hfP; clear_value x))
    | (intro x; refine keep_haveF x ?_ ?_ <;> first | (show ∀ a, (x a).inv; unfold x; intro _) | (intro hfF; clear_value x))
    | with_reducible apply hfD
    | with_reducible apply hfG
    | with_reducible apply hfP
    | with_reducible apply hfF
    | (intro x; clear_value x)
    | intro _
    | lift_lets
    | simp only [keep_mk]
    | split
    | dsimp only

theorem Dev.fedSend_inv (d : Dev) (dst : Option Nat) (p : BmPayload) (h1 : d.inv) :
    (Dev.fedSend d dst p).inv := by
  unfold Dev.fedSend
  repeat' first
    | with_reducible assumption
    | with_reducible apply keep_ite
    | with_reducible apply Dev.fedSendOn_inv
    | intro _
    | simp only [keep_mk]
    | split
    | dsimp only

theorem Dev.fedForward_inv (d : Dev) (m : Nat) (p : BmPayload) (h1 : d.inv) :
    (Dev.fedForward d m p).inv := by
  unfold Dev.fedForward
  repeat' first
    | with_reducible assumption
    | with_reducible apply keep_ite
    | with_reducible apply Dev.bump_inv
    | with_reducible apply Dev.fedSend_inv
    | intro _
    | split
    | dsimp only

theorem Dev.quarantine_inv (d : Dev) (st : Nat) (h1 : d.inv) :
    (Dev.quarantine d st).inv := by
  unfold Dev.quarantine
  repeat' first
    | with_reducible assumption
    | with_reducible apply Dev.setFedState_inv
    | intro _
    | simp only [keep_mk]
    | dsimp only

theorem Dev.gateByEpoch_inv (d : Dev) (h1 : d.inv) :
    (Dev.gateByEpoch d).inv := by
  unfold Dev.gateByEpoch
  repeat' first
    | with_reducible assumption
    | intro _
    | simp only [keep_mk]
    | dsimp only

theorem Dev.gateStandalone_inv (d : Dev) (b : Bool) (h1 : d.inv) :
    (Dev.gateStandalone d b).inv := by
  unfold Dev.gateStandalone
  repeat' first
    | with_reducible assumption
    | with_reducible apply keep_ite
    | intro _
    | simp only [keep_mk]
    | split
    | dsimp only

end Sys2Proof.Machine
end

