-- ==== Sys2Proof/Laws/KeepTxCore.lean ====
section
/-! SUPPORT. Every operation of Machine/TxCore.lean keeps the invariant. -/

namespace Sys2Proof.Machine

open Sys2Proof

theorem Dev.setFrames_inv (d : Dev) (fs : List TxFrame) (h1 : d.inv) :
    (Dev.setFrames d fs).inv := by
  unfold Dev.setFrames
  repeat' first
    | with_reducible assumption
    | intro _
    | simp only [keep_mk]
    | dsimp only

theorem Dev.setFrame_inv (d : Dev) (f : TxFrame) (h1 : d.inv) :
    (Dev.setFrame d f).inv := by
  unfold Dev.setFrame
  repeat' first
    | with_reducible assumption
    | with_reducible apply keep_ite
    | with_reducible apply Dev.setFrames_inv
    | intro _
    | split
    | dsimp only

theorem Dev.dropFrame_inv (d : Dev) (id : Nat) (h1 : d.inv) :
    (Dev.dropFrame d id).inv := by
  unfold Dev.dropFrame
  repeat' first
    | with_reducible assumption
    | with_reducible apply Dev.setFrames_inv
    | intro _
    | dsimp only

theorem Dev.addFrame_inv (d : Dev) (f : TxFrame) (h1 : d.inv) :
    (Dev.addFrame d f).inv := by
  unfold Dev.addFrame
  repeat' first
    | with_reducible assumption
    | with_reducible apply Dev.setFrames_inv
    | intro _
    | simp only [keep_mk]
    | split
    | dsimp only

theorem Dev.takeInput_inv (d : Dev) (id : Nat) (h1 : d.inv) :
    (Dev.takeInput d id).inv := by
  unfold Dev.takeInput
  repeat' first
    | with_reducible assumption
    | with_reducible apply keep_ite
    | intro _
    | simp only [keep_mk]
    | split
    | dsimp only

theorem Dev.setTxChain_inv (d : Dev) (n : Nat) (c : TxChain) (h1 : d.inv) :
    (Dev.setTxChain d n c).inv := by
  unfold Dev.setTxChain
  repeat' first
    | with_reducible assumption
    | intro _
    | simp only [keep_mk]
    | dsimp only

theorem Dev.setGnt_inv (d : Dev) (g : Bool) (h1 : d.inv) :
    (Dev.setGnt d g).inv := by
  unfold Dev.setGnt
  repeat' first
    | with_reducible assumption
    | with_reducible apply keep_ite
    | with_reducible apply keep_ite1
    | with_reducible apply Dev.wr_inv
    | with_reducible apply Dev.bump_inv
    | with_reducible apply Dev.raise_inv
    | (intro x; refine keep_have x ?_ ?_ <;> first | (show x.inv; unfold x) | (intro _; clear_value x))
    | (intro x; refine keep_have1 x ?_ ?_ <;> first | (show x.1.inv; unfold x) | (intro _; clear_value x))
    | (intro x; clear_value x)
    | intro _
    | lift_lets
    | split
    | dsimp only

theorem Dev.setReq_inv (d : Dev) (req : Bool) (pri : Bool) (act : Bool) (h1 : d.inv) :
    (Dev.setReq d req pri act).inv := by
  unfold Dev.setReq
  repeat' first
    | with_reducible assumption
    | with_reducible apply keep_ite
    | with_reducible apply keep_ite1
    | with_reducible apply Dev.wr_inv
    | with_reducible apply Dev.raise_inv
    | (intro x; refine keep_have x ?_ ?_ <;> first | (show x.inv; unfold x) | (intro _; clear_value x))
    | (intro x; refine keep_have1 x ?_ ?_ <;> first | (show x.1.inv; unfold x) | (intro _; clear_value x))
    | (intro x; clear_value x)
    | intro _
    | lift_lets
    | simp only [keep_mk]
    | split
    | dsimp only

theorem Dev.coexLevel_inv (d : Dev) (i : Nat) (b : Bool) (h1 : d.inv) :
    (Dev.coexLevel d i b).inv := by
  unfold Dev.coexLevel
  repeat' first
    | with_reducible assumption
    | intro _
    | simp only [keep_mk]
    | dsimp only

theorem Dev.reqIn_inv (d : Dev) (h1 : d.inv) :
    (Dev.reqIn d).inv := by
  unfold Dev.reqIn
  repeat' first
    | with_reducible assumption
    | with_reducible apply Dev.setReq_inv
    | intro _
    | dsimp only

theorem Dev.coexUpdate_inv (d : Dev) (h1 : d.inv) :
    (Dev.coexUpdate d).inv := by
  unfold Dev.coexUpdate
  repeat' first
    | with_reducible assumption
    | with_reducible apply keep_ite
    | with_reducible apply keep_ite1
    | with_reducible apply keep_ite2
    | with_reducible apply Dev.setReq_inv
    | with_reducible apply Dev.wr_inv
    | with_reducible apply Dev.setGnt_inv
    | with_reducible apply Dev.reqIn_inv
    | (intro x; refine keep_have x ?_ ?_ <;> first | (show x.inv; unfold x) | (intro _; clear_value x))
    | (intro x; refine keep_have1 x ?_ ?_ <;> first | (show x.1.inv; unfold x) | (intro _; clear_value x))
    | (intro x; refine keep_have2 x ?_ ?_ <;> first | (show x.2.inv; unfold x) | (intro _; clear_value x))
    | (intro x; clear_value x)
    | intro _
    | lift_lets
    | simp only [keep_mk]
    | split
    | dsimp only

theorem Dev.coexAdd_inv (d : Dev) (r : Nat) (pri : Bool) (h1 : d.inv) :
    (Dev.coexAdd d r pri).inv := by
  unfold Dev.coexAdd
  repeat' first
    | with_reducible assumption
    | with_reducible apply Dev.coexUpdate_inv
    | intro _
    | simp only [keep_mk]
    | dsimp only

theorem Dev.coexDrop_inv (d : Dev) (r : Nat) (h1 : d.inv) :
    (Dev.coexDrop d r).inv := by
  unfold Dev.coexDrop
  repeat' first
    | with_reducible assumption
    | with_reducible apply Dev.coexUpdate_inv
    | intro _
    | simp only [keep_mk]
    | dsimp only

theorem Dev.nodeTxFailOf_inv (d : Dev) (f : TxFrame) (h1 : d.inv) :
    (Dev.nodeTxFailOf d f).inv := by
  unfold Dev.nodeTxFailOf
  repeat' first
    | with_reducible assumption
    | with_reducible apply keep_ite
    | with_reducible apply Dev.cxBump_inv
    | with_reducible apply Dev.cxTouch_inv
    | intro _
    | simp only [keep_mk]
    | split
    | dsimp only

theorem Dev.ackCounter_inv (d : Dev) (s : Nat) (a : Nat) (h1 : d.inv) :
    (Dev.ackCounter d s a).inv := by
  unfold Dev.ackCounter
  repeat' first
    | with_reducible assumption
    | with_reducible apply keep_ite
    | with_reducible apply Dev.setCx_inv
    | with_reducible apply Dev.cxTouch_inv
    | intro _
    | split
    | dsimp only

theorem Dev.checkDone_inv (d : Dev) (s : Nat) (sent : Bool) (last : Nat) (h1 : d.inv) :
    (Dev.checkDone d s sent last).inv := by
  unfold Dev.checkDone
  repeat' first
    | with_reducible assumption
    | with_reducible apply keep_ite
    | with_reducible apply keep_ite1
    | with_reducible apply Dev.bump_inv
    | with_reducible apply Dev.setCx_inv
    | with_reducible apply Dev.cxTouch_inv
    | (intro x; refine keep_have x ?_ ?_ <;> first | (show x.inv; unfold x) | (intro _; clear_value x))
    | (intro x; refine keep_have1 x ?_ ?_ <;> first | (show x.1.inv; unfold x) | (intro _; clear_value x))
    | (intro x; clear_value x)
    | intro _
    | lift_lets
    | simp only [keep_mk]
    | split
    | dsimp only

theorem Dev.txEnd_inv (d : Dev) (f : TxFrame) (status : Nat) (acked : Bool) (h1 : d.inv) :
    (Dev.txEnd d f status acked).inv := by
  unfold Dev.txEnd
  repeat' first
    | with_reducible assumption
    | with_reducible apply keep_ite
    | with_reducible apply keep_ite1
    | with_reducible apply Dev.dropFrame_inv
    | with_reducible apply Dev.nodeTxFailOf_inv
    | with_reducible apply Dev.finishId_inv
    | with_reducible apply Dev.bump_inv
    | with_reducible apply Dev.checkDone_inv
    | with_reducible apply Dev.maskViolation_inv
    | with_reducible apply Dev.fedForward_inv
    | with_reducible apply Dev.wake_inv
    | with_reducible apply start_inv
    | (intro x; refine keep_have x ?_ ?_ <;> first | (show x.inv; unfold x) | (intro _; clear_value x))
    | (intro x; refine keep_have1 x ?_ ?_ <;> first | (show x.1.inv; unfold x) | (intro _; clear_value x))
    | (intro x; clear_value x)
    | intro _
    | lift_lets
    | simp only [keep_mk]
    | split
    | dsimp only

theorem Dev.txRelease_inv (d : Dev) (f : TxFrame) (h1 : d.inv) :
    (Dev.txRelease d f).inv := by
  unfold Dev.txRelease
  repeat' first
    | with_reducible assumption
    | with_reducible apply Dev.dutyRelease_inv
    | intro _
    | simp only [keep_mk]
    | split
    | dsimp only

theorem Dev.txLeave_inv (d : Dev) (f : TxFrame) (h1 : d.inv) :
    (Dev.txLeave d f).inv := by
  unfold Dev.txLeave
  repeat' first
    | with_reducible assumption
    | with_reducible apply keep_ite
    | with_reducible apply keep_ite1
    | with_reducible apply Dev.txRelease_inv
    | with_reducible apply Dev.setChainState_inv
    | (intro x; refine keep_have x ?_ ?_ <;> first | (show x.inv; unfold x) | (intro _; clear_value x))
    | (intro x; refine keep_have1 x ?_ ?_ <;> first | (show x.1.inv; unfold x) | (intro _; clear_value x))
    | (intro x; clear_value x)
    | intro _
    | lift_lets
    | simp only [keep_mk]
    | split
    | dsimp only

theorem Dev.chainFreed_inv (d : Dev) (f : TxFrame) (h1 : d.inv) :
    (Dev.chainFreed d f).inv := by
  unfold Dev.chainFreed
  repeat' first
    | with_reducible assumption
    | with_reducible apply Dev.coexUpdate_inv
    | with_reducible apply Dev.calRestart_inv
    | with_reducible apply Dev.settle_inv
    | intro _
    | simp only [keep_mk]
    | split
    | dsimp only

theorem Dev.sleepyFail_inv (d : Dev) (f : TxFrame) (status : Nat) (h1 : d.inv) :
    (Dev.sleepyFail d f status).inv := by
  unfold Dev.sleepyFail
  repeat' first
    | with_reducible assumption
    | with_reducible apply keep_ite
    | with_reducible apply keep_ite1
    | with_reducible apply Dev.setFrame_inv
    | with_reducible apply start_inv
    | with_reducible apply Dev.txEnd_inv
    | (intro x; refine keep_have x ?_ ?_ <;> first | (show x.inv; unfold x) | (intro _; clear_value x))
    | (intro x; refine keep_have1 x ?_ ?_ <;> first | (show x.1.inv; unfold x) | (intro _; clear_value x))
    | (intro x; clear_value x)
    | intro _
    | lift_lets
    | simp only [keep_mk]
    | split
    | dsimp only

theorem Dev.pendNext_inv (d : Dev) (s : Nat) (at' : Nat) (h1 : d.inv) :
    (Dev.pendNext d s at').inv := by
  unfold Dev.pendNext
  repeat' first
    | with_reducible assumption
    | with_reducible apply keep_ite
    | with_reducible apply keep_ite1
    | (intro x; refine keep_have x ?_ ?_ <;> first | (show x.inv; unfold x) | (intro _; clear_value x))
    | (intro x; refine keep_have1 x ?_ ?_ <;> first | (show x.1.inv; unfold x) | (intro _; clear_value x))
    | (intro x; refine keep_haveD x ?_ ?_ <;> first | (show ∀ d : Dev, d.inv → (x d).inv; unfold x; intro _ _) | (intro hfD; clear_value x))
    | (intro x; refine keep_haveG x ?_ ?_ <;> first | (show ∀ (d : Dev) a, d.inv → (x d a).inv; unfold x; intro _ _ _) | (intro hfG; clear_value x))
    | (intro x; refine keep_haveG1 x ?_ ?_ <;> first | (show ∀ (d : Dev) a, d.inv → (x d a).1.inv; unfold x; intro _ _ _) | (intro hfP; clear_value x))
    | (intro x; refine keep_haveF x ?_ ?_ <;> first | (show ∀ a, (x a).inv; unfold x; intro _) | (intro hfF; clear_value x))
    | with_reducible apply hfD
    | with_reducible apply hfG
    | with_reducible apply hfP
    | with_reducible apply hfF
    | (intro x; clear_value x)
    | intro _
    | lift_lets
    | simp only [keep_mk]
    | split
    | dsimp only

theorem Dev.txRefuse_inv (d : Dev) (f : TxFrame) (status : Nat) (keep : Bool) (h1 : d.inv) :
    (Dev.txRefuse d f status keep).inv := by
  unfold Dev.txRefuse
  repeat' first
    | with_reducible assumption
    | with_reducible apply keep_ite
    | with_reducible apply keep_ite1
    | with_reducible apply Dev.txLeave_inv
    | with_reducible apply Dev.sleepyFail_inv
    | with_reducible apply Dev.txEnd_inv
    | with_reducible apply Dev.chainFreed_inv
    | (intro x; refine keep_have x ?_ ?_ <;> first | (show x.inv; unfold x) | (intro _; clear_value x))
    | (intro x; refine keep_have1 x ?_ ?_ <;> first | (show x.1.inv; unfold x) | (intro _; clear_value x))
    | (intro x; clear_value x)
    | intro _
    | lift_lets
    | split
    | dsimp only

theorem Dev.txLate_inv (d : Dev) (f : TxFrame) (h1 : d.inv) :
    (Dev.txLate d f).inv := by
  unfold Dev.txLate
  repeat' first
    | with_reducible assumption
    | with_reducible apply keep_ite
    | with_reducible apply keep_ite1
    | with_reducible apply Dev.bump_inv
    | with_reducible apply Dev.txRefuse_inv
    | (intro x; refine keep_have x ?_ ?_ <;> first | (show x.inv; unfold x) | (intro _; clear_value x))
    | (intro x; refine keep_have1 x ?_ ?_ <;> first | (show x.1.inv; unfold x) | (intro _; clear_value x))
    | (intro x; clear_value x)
    | intro _
    | lift_lets
    | split
    | dsimp only

theorem Dev.ackNoChain_inv (d : Dev) (f : TxFrame) (h1 : d.inv) :
    (Dev.ackNoChain d f).inv := by
  unfold Dev.ackNoChain
  repeat' first
    | with_reducible assumption
    | with_reducible apply Dev.bump_inv
    | with_reducible apply Dev.txRefuse_inv
    | intro _
    | dsimp only

theorem Dev.coexDeny_inv (d : Dev) (f : TxFrame) (h1 : d.inv) :
    (Dev.coexDeny d f).inv := by
  unfold Dev.coexDeny
  repeat' first
    | with_reducible assumption
    | with_reducible apply keep_ite
    | with_reducible apply keep_ite1
    | with_reducible apply Dev.bump_inv
    | with_reducible apply Dev.txRefuse_inv
    | (intro x; refine keep_have x ?_ ?_ <;> first | (show x.inv; unfold x) | (intro _; clear_value x))
    | (intro x; refine keep_have1 x ?_ ?_ <;> first | (show x.1.inv; unfold x) | (intro _; clear_value x))
    | (intro x; clear_value x)
    | intro _
    | lift_lets
    | split
    | dsimp only

theorem Dev.coexYield_inv (d : Dev) (h1 : d.inv) :
    (Dev.coexYield d).inv := by
  unfold Dev.coexYield
  repeat' first
    | with_reducible assumption
    | with_reducible apply keep_ite
    | with_reducible apply keep_ite1
    | with_reducible apply keep_ite2
    | with_reducible apply Dev.coexDeny_inv
    | with_reducible refine keep_foldl (fun d x hd => ?_) ?_
    | with_reducible refine keep_foldl1 (fun d x hd => ?_) ?_
    | intro _
    | split
    | dsimp only

theorem Dev.drawListen_inv (d : Dev) (sub : Bool) (h1 : d.inv) :
    (Dev.drawListen d sub).2.inv := by
  unfold Dev.drawListen
  repeat' first
    | with_reducible assumption
    | with_reducible apply Dev.free_inv
    | (intro x; refine keep_have x ?_ ?_ <;> first | (show x.inv; unfold x) | (intro _; clear_value x))
    | (intro x; refine keep_have1 x ?_ ?_ <;> first | (show x.1.inv; unfold x) | (intro _; clear_value x))
    | (intro x; refine keep_have2 x ?_ ?_ <;> first | (show x.2.inv; unfold x) | (intro _; clear_value x))
    | (intro x; clear_value x)
    | intro _
    | lift_lets
    | dsimp only

theorem Dev.secureFrame_inv (d : Dev) (f : TxFrame) (h1 : d.inv) :
    (Dev.secureFrame d f).inv := by
  unfold Dev.secureFrame
  repeat' first
    | with_reducible assumption
    | with_reducible apply keep_ite
    | with_reducible apply keep_ite1
    | with_reducible apply keep_ite2
    | with_reducible apply Dev.freeOf_inv
    | with_reducible apply Dev.txEnd_inv
    | with_reducible apply Dev.setCx_inv
    | with_reducible apply Dev.cxTouch_inv
    | with_reducible apply Dev.setFrame_inv
    | with_reducible apply Dev.cphRequest_inv
    | with_reducible apply Dev.settle_inv
    | (intro x; refine keep_have x ?_ ?_ <;> first | (show x.inv; unfold x) | (intro _; clear_value x))
    | (intro x; refine keep_have1 x ?_ ?_ <;> first | (show x.1.inv; unfold x) | (intro _; clear_value x))
    | (intro x; refine keep_have2 x ?_ ?_ <;> first | (show x.2.inv; unfold x) | (intro _; clear_value x))
    | (intro x; clear_value x)
    | intro _
    | lift_lets
    | simp only [keep_mk]
    | split
    | dsimp only

theorem Dev.cipherEnd_inv (d : Dev) (f : TxFrame) (req : Nat) (status : Nat) (out : List Byte) (h1 : d.inv) :
    (Dev.cipherEnd d f req status out).inv := by
  unfold Dev.cipherEnd
  repeat' first
    | with_reducible assumption
    | with_reducible apply keep_ite
    | with_reducible apply keep_ite1
    | with_reducible apply Dev.dropResult_inv
    | with_reducible apply Dev.setFrame_inv
    | with_reducible apply Dev.txEnd_inv
    | (intro x; refine keep_have x ?_ ?_ <;> first | (show x.inv; unfold x) | (intro _; clear_value x))
    | (intro x; refine keep_have1 x ?_ ?_ <;> first | (show x.1.inv; unfold x) | (intro _; clear_value x))
    | (intro x; clear_value x)
    | intro _
    | lift_lets
    | simp only [keep_mk]
    | split
    | dsimp only

end Sys2Proof.Machine
end

