-- ==== Sys2Proof/Laws/KeepTx.lean ====
section
/-! SUPPORT. Every operation of Machine/Tx.lean keeps the invariant. -/

namespace Sys2Proof.Machine

open Sys2Proof

theorem Dev.holdBack_inv (d : Dev) (f : TxFrame) (h1 : d.inv) :
    (Dev.holdBack d f).inv := by
  unfold Dev.holdBack
  repeat' first
    | with_reducible assumption
    | with_reducible apply keep_ite
    | with_reducible apply keep_ite1
    | with_reducible apply Dev.setFrame_inv
    | with_reducible apply Dev.bump_inv
    | (intro x; refine keep_have x ?_ ?_ <;> first | (show x.inv; unfold x) | (intro _; clear_value x))
    | (intro x; refine keep_have1 x ?_ ?_ <;> first | (show x.1.inv; unfold x) | (intro _; clear_value x))
    | (intro x; clear_value x)
    | intro _
    | lift_lets
    | simp only [keep_mk]
    | split
    | dsimp only

theorem Dev.txDefer_inv (d : Dev) (n : Nat) (h1 : d.inv) :
    (Dev.txDefer d n).inv := by
  unfold Dev.txDefer
  repeat' first
    | with_reducible assumption
    | with_reducible apply Dev.txLeave_inv
    | with_reducible apply Dev.setFrame_inv
    | with_reducible apply Dev.bump_inv
    | (intro x; refine keep_have x ?_ ?_ <;> first | (show x.inv; unfold x) | (intro _; clear_value x))
    | (intro x; refine keep_have1 x ?_ ?_ <;> first | (show x.1.inv; unfold x) | (intro _; clear_value x))
    | (intro x; clear_value x)
    | intro _
    | lift_lets
    | simp only [keep_mk]
    | split
    | dsimp only

theorem Dev.commitTo_inv (d : Dev) (f : TxFrame) (n : Nat) (a : Nat) (h1 : d.inv) :
    (Dev.commitTo d f n a).inv := by
  unfold Dev.commitTo
  repeat' first
    | with_reducible assumption
    | with_reducible apply keep_ite
    | with_reducible apply keep_ite1
    | with_reducible apply keep_ite2
    | with_reducible apply Dev.drawListen_inv
    | with_reducible apply Dev.txLate_inv
    | with_reducible apply Dev.dutyReserve_inv
    | with_reducible apply Dev.calAbort_inv
    | with_reducible apply Dev.setFrame_inv
    | with_reducible apply Dev.ackCounter_inv
    | with_reducible apply Dev.coexUpdate_inv
    | with_reducible apply Dev.coexYield_inv
    | with_reducible apply Dev.settle_inv
    | (intro x; refine keep_have x ?_ ?_ <;> first | (show x.inv; unfold x) | (intro _; clear_value x))
    | (intro x; refine keep_have1 x ?_ ?_ <;> first | (show x.1.inv; unfold x) | (intro _; clear_value x))
    | (intro x; refine keep_have2 x ?_ ?_ <;> first | (show x.2.inv; unfold x) | (intro _; clear_value x))
    | (intro x; clear_value x)
    | intro _
    | lift_lets
    | simp only [keep_mk]
    | split
    | dsimp only

theorem Dev.commitChecks_inv (d : Dev) (f : TxFrame) (n : Nat) (h1 : d.inv) :
    (Dev.commitChecks d f n).inv := by
  unfold Dev.commitChecks
  repeat' first
    | with_reducible assumption
    | with_reducible apply keep_ite
    | with_reducible apply keep_ite1
    | with_reducible apply keep_ite2
    | with_reducible apply Dev.freeOf_inv
    | with_reducible apply Dev.txRefuse_inv
    | with_reducible apply Dev.bump_inv
    | with_reducible apply Dev.commitTo_inv
    | (intro x; refine keep_have x ?_ ?_ <;> first | (show x.inv; unfold x) | (intro _; clear_value x))
    | (intro x; refine keep_have1 x ?_ ?_ <;> first | (show x.1.inv; unfold x) | (intro _; clear_value x))
    | (intro x; refine keep_have2 x ?_ ?_ <;> first | (show x.2.inv; unfold x) | (intro _; clear_value x))
    | (intro x; clear_value x)
    | intro _
    | lift_lets
    | simp only [keep_mk]
    | split
    | dsimp only

theorem Dev.commitTaking_inv (d : Dev) (f : TxFrame) (n : Nat) (h1 : d.inv) :
    (Dev.commitTaking d f n).inv := by
  unfold Dev.commitTaking
  repeat' first
    | with_reducible assumption
    | with_reducible apply keep_ite
    | with_reducible apply keep_ite1
    | with_reducible apply Dev.txDefer_inv
    | with_reducible apply Dev.commitChecks_inv
    | with_reducible apply Dev.calRestart_inv
    | (intro x; refine keep_have x ?_ ?_ <;> first | (show x.inv; unfold x) | (intro _; clear_value x))
    | (intro x; refine keep_have1 x ?_ ?_ <;> first | (show x.1.inv; unfold x) | (intro _; clear_value x))
    | (intro x; clear_value x)
    | intro _
    | lift_lets
    | split
    | dsimp only

theorem Dev.sendRemote_inv (d : Dev) (f : TxFrame) (m : Nat) (h1 : d.inv) :
    (Dev.sendRemote d f m).inv := by
  unfold Dev.sendRemote
  repeat' first
    | with_reducible assumption
    | with_reducible apply keep_ite
    | with_reducible apply keep_ite1
    | with_reducible apply keep_ite2
    | with_reducible apply Dev.bump_inv
    | with_reducible apply Dev.txEnd_inv
    | with_reducible apply Dev.domainOff_inv
    | with_reducible apply start_inv
    | with_reducible apply Dev.free_inv
    | with_reducible apply Dev.setFrame_inv
    | with_reducible apply Dev.fedForward_inv
    | (intro x; refine keep_have x ?_ ?_ <;> first | (show x.inv; unfold x) | (intro _; clear_value x))
    | (intro x; refine keep_have1 x ?_ ?_ <;> first | (show x.1.inv; unfold x) | (intro _; clear_value x))
    | (intro x; refine keep_have2 x ?_ ?_ <;> first | (show x.2.inv; unfold x) | (intro _; clear_value x))
    | (intro x; clear_value x)
    | intro _
    | lift_lets
    | simp only [keep_mk]
    | split
    | dsimp only

theorem Dev.commitFrame_inv (d : Dev) (f : TxFrame) (h1 : d.inv) :
    (Dev.commitFrame d f).inv := by
  unfold Dev.commitFrame
  repeat' first
    | with_reducible assumption
    | with_reducible apply keep_ite
    | with_reducible apply keep_ite1
    | with_reducible apply Dev.sendRemote_inv
    | with_reducible apply Dev.ackNoChain_inv
    | with_reducible apply Dev.txRefuse_inv
    | with_reducible apply Dev.bump_inv
    | with_reducible apply Dev.startReload_inv
    | with_reducible apply Dev.txLate_inv
    | with_reducible apply Dev.commitChecks_inv
    | with_reducible apply Dev.setFrame_inv
    | with_reducible apply Dev.settle_inv
    | with_reducible apply Dev.free_inv
    | with_reducible apply Dev.holdBack_inv
    | with_reducible apply Dev.commitTaking_inv
    | (intro x; refine keep_have x ?_ ?_ <;> first | (show x.inv; unfold x) | (intro _; clear_value x))
    | (intro x; refine keep_have1 x ?_ ?_ <;> first | (show x.1.inv; unfold x) | (intro _; clear_value x))
    | (intro x; clear_value x)
    | intro _
    | lift_lets
    | simp only [keep_mk]
    | split
    | dsimp only

theorem tp3Commit_inv (id : Nat) (d : Dev) (h1 : d.inv) :
    (tp3Commit id d).inv := by
  unfold tp3Commit
  repeat' first
    | with_reducible assumption
    | with_reducible apply Dev.takeInput_inv
    | with_reducible apply Dev.cipherEnd_inv
    | with_reducible apply Dev.commitFrame_inv
    | (intro x; refine keep_have x ?_ ?_ <;> first | (show x.inv; unfold x) | (intro _; clear_value x))
    | (intro x; refine keep_have1 x ?_ ?_ <;> first | (show x.1.inv; unfold x) | (intro _; clear_value x))
    | (intro x; clear_value x)
    | intro _
    | lift_lets
    | simp only [keep_mk]
    | split
    | dsimp only

theorem Dev.blankOn_inv (d : Dev) (n : Nat) (f : TxFrame) (h1 : d.inv) :
    (Dev.blankOn d n f).inv := by
  unfold Dev.blankOn
  repeat' first
    | with_reducible assumption
    | with_reducible apply keep_ite
    | with_reducible apply keep_ite1
    | (intro x; refine keep_have x ?_ ?_ <;> first | (show x.inv; unfold x) | (intro _; clear_value x))
    | (intro x; refine keep_have1 x ?_ ?_ <;> first | (show x.1.inv; unfold x) | (intro _; clear_value x))
    | (intro x; clear_value x)
    | intro _
    | lift_lets
    | simp only [keep_mk]
    | split
    | dsimp only

theorem txHopStart_inv (n : Nat) (mv : Nat) (d : Dev) (h1 : d.inv) :
    (txHopStart n mv d).inv := by
  unfold txHopStart
  repeat' first
    | with_reducible assumption
    | with_reducible apply keep_ite
    | with_reducible apply keep_ite1
    | with_reducible apply Dev.setFrame_inv
    | with_reducible apply Dev.blankOn_inv
    | with_reducible apply Dev.loUnlock_inv
    | with_reducible apply Dev.setChainState_inv
    | with_reducible apply Dev.entryTouch_inv
    | with_reducible apply Dev.calBegin_inv
    | (intro x; refine keep_have x ?_ ?_ <;> first | (show x.inv; unfold x) | (intro _; clear_value x))
    | (intro x; refine keep_have1 x ?_ ?_ <;> first | (show x.1.inv; unfold x) | (intro _; clear_value x))
    | (intro x; clear_value x)
    | intro _
    | lift_lets
    | simp only [keep_mk]
    | split
    | dsimp only

theorem txLock_inv (n : Nat) (d : Dev) (h1 : d.inv) :
    (txLock n d).inv := by
  unfold txLock
  repeat' first
    | with_reducible assumption
    | with_reducible apply keep_ite
    | with_reducible apply Dev.loLock_inv
    | intro _
    | simp only [keep_mk]
    | split
    | dsimp only

theorem hopLockFailure_inv (n : Nat) (d : Dev) (h1 : d.inv) :
    (hopLockFailure n d).inv := by
  unfold hopLockFailure
  repeat' first
    | with_reducible assumption
    | with_reducible apply keep_ite
    | with_reducible apply keep_ite1
    | with_reducible apply Dev.lockFailure_inv
    | with_reducible apply Dev.calBegin_inv
    | intro _
    | simp only [keep_mk]
    | split
    | dsimp only

theorem fullCalibrationFail_inv (lo : Nat) (d : Dev) (h1 : d.inv) :
    (fullCalibrationFail lo d).inv := by
  unfold fullCalibrationFail
  repeat' first
    | with_reducible assumption
    | with_reducible apply keep_ite
    | with_reducible apply keep_ite1
    | with_reducible apply keep_ite2
    | with_reducible apply Dev.lockFailure_inv
    | with_reducible apply Dev.setLo_inv
    | with_reducible apply Dev.calLeft_inv
    | with_reducible apply Dev.bump_inv
    | with_reducible apply Dev.txRefuse_inv
    | (intro x; refine keep_have x ?_ ?_ <;> first | (show x.inv; unfold x) | (intro _; clear_value x))
    | (intro x; refine keep_have1 x ?_ ?_ <;> first | (show x.1.inv; unfold x) | (intro _; clear_value x))
    | (intro x; refine keep_have2 x ?_ ?_ <;> first | (show x.2.inv; unfold x) | (intro _; clear_value x))
    | (intro x; clear_value x)
    | intro _
    | lift_lets
    | simp only [keep_mk]
    | split
    | dsimp only

theorem txLockDeadline_inv (id : Nat) (d : Dev) (h1 : d.inv) :
    (txLockDeadline id d).inv := by
  unfold txLockDeadline
  repeat' first
    | with_reducible assumption
    | with_reducible apply keep_ite
    | with_reducible apply Dev.txLate_inv
    | with_reducible apply start_inv
    | with_reducible apply Dev.ackNoChain_inv
    | intro _
    | simp only [keep_mk]
    | split
    | dsimp only

theorem Dev.enterLead_inv (d : Dev) (f : TxFrame) (n : Nat) (h1 : d.inv) :
    (Dev.enterLead d f n).inv := by
  unfold Dev.enterLead
  repeat' first
    | with_reducible assumption
    | with_reducible apply Dev.setTxChain_inv
    | with_reducible apply Dev.setChainState_inv
    | with_reducible apply Dev.entryTouch_inv
    | with_reducible apply Dev.coexUpdate_inv
    | with_reducible apply Dev.raise_inv
    | (intro x; refine keep_have x ?_ ?_ <;> first | (show x.inv; unfold x) | (intro _; clear_value x))
    | (intro x; refine keep_have1 x ?_ ?_ <;> first | (show x.1.inv; unfold x) | (intro _; clear_value x))
    | (intro x; clear_value x)
    | intro _
    | lift_lets
    | simp only [keep_mk]
    | dsimp only

theorem txLeadStart_inv (n : Nat) (gnt : Bool) (mv : Nat) (d : Dev) (h1 : d.inv) :
    (txLeadStart n gnt mv d).inv := by
  unfold txLeadStart
  repeat' first
    | with_reducible assumption
    | with_reducible apply keep_ite
    | with_reducible apply keep_ite1
    | with_reducible apply Dev.setFrame_inv
    | with_reducible apply Dev.blankOn_inv
    | with_reducible apply Dev.coexLevel_inv
    | with_reducible apply Dev.coexUpdate_inv
    | with_reducible apply Dev.enterLead_inv
    | with_reducible apply Dev.coexDeny_inv
    | (intro x; refine keep_have x ?_ ?_ <;> first | (show x.inv; unfold x) | (intro _; clear_value x))
    | (intro x; refine keep_have1 x ?_ ?_ <;> first | (show x.1.inv; unfold x) | (intro _; clear_value x))
    | (intro x; clear_value x)
    | intro _
    | lift_lets
    | simp only [keep_mk]
    | split
    | dsimp only

theorem txFirstChip_inv (n : Nat) (d : Dev) (h1 : d.inv) :
    (txFirstChip n d).inv := by
  unfold txFirstChip
  repeat' first
    | with_reducible assumption
    | with_reducible apply keep_ite
    | with_reducible apply keep_ite1
    | with_reducible apply Dev.setFrame_inv
    | with_reducible apply Dev.setChainState_inv
    | with_reducible apply Dev.emit_inv
    | with_reducible apply Dev.raise_inv
    | (intro x; refine keep_have x ?_ ?_ <;> first | (show x.inv; unfold x) | (intro _; clear_value x))
    | (intro x; refine keep_have1 x ?_ ?_ <;> first | (show x.1.inv; unfold x) | (intro _; clear_value x))
    | (intro x; clear_value x)
    | intro _
    | lift_lets
    | simp only [keep_mk]
    | split
    | dsimp only

theorem txLastChip_inv (n : Nat) (d : Dev) (h1 : d.inv) :
    (txLastChip n d).inv := by
  unfold txLastChip
  repeat' first
    | with_reducible assumption
    | with_reducible apply keep_ite
    | with_reducible apply Dev.setChainState_inv
    | intro _
    | split
    | dsimp only

theorem Dev.txSent_inv (d : Dev) (f : TxFrame) (last : Nat) (h1 : d.inv) :
    (Dev.txSent d f last).inv := by
  unfold Dev.txSent
  repeat' first
    | with_reducible assumption
    | with_reducible apply keep_ite
    | with_reducible apply keep_ite1
    | with_reducible apply Dev.dropFrame_inv
    | with_reducible apply Dev.setFrame_inv
    | with_reducible apply Dev.ackFrom_inv
    | with_reducible apply Dev.txEnd_inv
    | with_reducible apply Dev.pendNext_inv
    | (intro x; refine keep_have x ?_ ?_ <;> first | (show x.inv; unfold x) | (intro _; clear_value x))
    | (intro x; refine keep_have1 x ?_ ?_ <;> first | (show x.1.inv; unfold x) | (intro _; clear_value x))
    | (intro x; clear_value x)
    | intro _
    | lift_lets
    | simp only [keep_mk]
    | split
    | dsimp only

theorem Dev.txCut_inv (d : Dev) (f : TxFrame) (st : Nat) (h1 : d.inv) :
    (Dev.txCut d f st).inv := by
  unfold Dev.txCut
  repeat' first
    | with_reducible assumption
    | with_reducible apply keep_ite
    | with_reducible apply keep_ite1
    | with_reducible apply Dev.bump_inv
    | with_reducible apply Dev.txEnd_inv
    | (intro x; refine keep_have x ?_ ?_ <;> first | (show x.inv; unfold x) | (intro _; clear_value x))
    | (intro x; refine keep_have1 x ?_ ?_ <;> first | (show x.1.inv; unfold x) | (intro _; clear_value x))
    | (intro x; clear_value x)
    | intro _
    | lift_lets
    | simp only [keep_mk]
    | split
    | dsimp only

theorem txRampDownEnd_inv (n : Nat) (used : Nat) (err : Int) (d : Dev) (h1 : d.inv) :
    (txRampDownEnd n used err d).inv := by
  unfold txRampDownEnd
  repeat' first
    | with_reducible assumption
    | with_reducible apply keep_ite
    | with_reducible apply keep_ite1
    | with_reducible apply Dev.setChainState_inv
    | with_reducible apply Dev.setTxChain_inv
    | with_reducible apply Dev.dutyChargeFrame_inv
    | with_reducible apply Dev.dutyRelease_inv
    | with_reducible apply Dev.trimStep_inv
    | with_reducible apply Dev.txCut_inv
    | with_reducible apply Dev.txSent_inv
    | with_reducible apply Dev.coexDrop_inv
    | with_reducible apply Dev.raise_inv
    | with_reducible apply Dev.shapeFlush_inv
    | with_reducible apply Dev.calRestart_inv
    | with_reducible apply Dev.coexUpdate_inv
    | with_reducible apply Dev.settle_inv
    | (intro x; refine keep_have x ?_ ?_ <;> first | (show x.inv; unfold x) | (intro _; clear_value x))
    | (intro x; refine keep_have1 x ?_ ?_ <;> first | (show x.1.inv; unfold x) | (intro _; clear_value x))
    | (intro x; clear_value x)
    | intro _
    | lift_lets
    | simp only [keep_mk]
    | split
    | dsimp only

theorem Dev.txStop_inv (d : Dev) (n : Nat) (st : Nat) (h1 : d.inv) :
    (Dev.txStop d n st).inv := by
  unfold Dev.txStop
  repeat' first
    | with_reducible assumption
    | with_reducible apply Dev.setFrame_inv
    | with_reducible apply Dev.setChainState_inv
    | intro _
    | simp only [keep_mk]
    | split
    | dsimp only

theorem loLockLoss_inv (lo : Nat) (d : Dev) (h1 : d.inv) :
    (loLockLoss lo d).inv := by
  unfold loLockLoss
  repeat' first
    | with_reducible assumption
    | with_reducible apply keep_ite
    | with_reducible apply keep_ite1
    | with_reducible apply Dev.loUnlock_inv
    | with_reducible apply Dev.abandonBand_inv
    | with_reducible apply Dev.setChainState_inv
    | with_reducible apply Dev.txStop_inv
    | with_reducible refine keep_foldl (fun d x hd => ?_) ?_
    | with_reducible refine keep_foldl1 (fun d x hd => ?_) ?_
    | (intro x; refine keep_have x ?_ ?_ <;> first | (show x.inv; unfold x) | (intro _; clear_value x))
    | (intro x; refine keep_have1 x ?_ ?_ <;> first | (show x.1.inv; unfold x) | (intro _; clear_value x))
    | (intro x; clear_value x)
    | intro _
    | lift_lets
    | split
    | dsimp only

theorem detectorBlankingEnd_inv (n : Nat) (d : Dev) (h1 : d.inv) :
    (detectorBlankingEnd n d).inv := by
  unfold detectorBlankingEnd
  repeat' first
    | with_reducible assumption
    | with_reducible apply keep_ite
    | with_reducible apply keep_ite1
    | with_reducible apply keep_ite2
    | with_reducible refine keep_foldl (fun d x hd => ?_) ?_
    | with_reducible refine keep_foldl1 (fun d x hd => ?_) ?_
    | (intro x; refine keep_have x ?_ ?_ <;> first | (show x.inv; unfold x) | (intro _; clear_value x))
    | (intro x; refine keep_have1 x ?_ ?_ <;> first | (show x.1.inv; unfold x) | (intro _; clear_value x))
    | (intro x; refine keep_have2 x ?_ ?_ <;> first | (show x.2.inv; unfold x) | (intro _; clear_value x))
    | (intro x; clear_value x)
    | intro _
    | lift_lets
    | simp only [keep_mk]
    | split
    | dsimp only

theorem Dev.maskViolation_inv (d : Dev) (n : Nat) (seg : Nat) (excess : Nat) (h1 : d.inv) :
    (Dev.maskViolation d n seg excess).inv := by
  unfold Dev.maskViolation
  repeat' first
    | with_reducible assumption
    | with_reducible apply keep_ite
    | with_reducible apply keep_ite1
    | with_reducible apply Dev.setTxChain_inv
    | with_reducible apply Dev.bump_inv
    | with_reducible apply Dev.wr_inv
    | with_reducible apply Dev.txStop_inv
    | with_reducible apply Dev.raise_inv
    | (intro x; refine keep_have x ?_ ?_ <;> first | (show x.inv; unfold x) | (intro _; clear_value x))
    | (intro x; refine keep_have1 x ?_ ?_ <;> first | (show x.1.inv; unfold x) | (intro _; clear_value x))
    | (intro x; clear_value x)
    | intro _
    | lift_lets
    | simp only [keep_mk]
    | split
    | dsimp only

theorem maskWindowEnd_inv (n : Nat) (lower : MaskPowers) (upper : MaskPowers) (d : Dev) (h1 : d.inv) :
    (maskWindowEnd n lower upper d).inv := by
  unfold maskWindowEnd
  repeat' first
    | with_reducible assumption
    | with_reducible apply keep_ite
    | with_reducible apply keep_ite1
    | with_reducible apply Dev.setTxChain_inv
    | with_reducible apply Dev.bump_inv
    | with_reducible apply Dev.maskViolation_inv
    | (intro x; refine keep_have x ?_ ?_ <;> first | (show x.inv; unfold x) | (intro _; clear_value x))
    | (intro x; refine keep_have1 x ?_ ?_ <;> first | (show x.1.inv; unfold x) | (intro _; clear_value x))
    | (intro x; clear_value x)
    | intro _
    | lift_lets
    | simp only [keep_mk]
    | split
    | dsimp only

theorem lbtListenEnd_inv (n : Nat) (p : Int) (d : Dev) (h1 : d.inv) :
    (lbtListenEnd n p d).inv := by
  unfold lbtListenEnd
  repeat' first
    | with_reducible assumption
    | with_reducible apply keep_ite
    | with_reducible apply keep_ite1
    | with_reducible apply keep_ite2
    | with_reducible apply Dev.setFrame_inv
    | with_reducible apply Dev.settle_inv
    | with_reducible apply Dev.bump_inv
    | with_reducible apply Dev.txRefuse_inv
    | with_reducible apply Dev.drawListen_inv
    | (intro x; refine keep_have x ?_ ?_ <;> first | (show x.inv; unfold x) | (intro _; clear_value x))
    | (intro x; refine keep_have1 x ?_ ?_ <;> first | (show x.1.inv; unfold x) | (intro _; clear_value x))
    | (intro x; refine keep_have2 x ?_ ?_ <;> first | (show x.2.inv; unfold x) | (intro _; clear_value x))
    | (intro x; clear_value x)
    | intro _
    | lift_lets
    | simp only [keep_mk]
    | split
    | dsimp only

theorem Dev.cellDone_inv (d : Dev) (s : Nat) (shared : Bool) (h1 : d.inv) :
    (Dev.cellDone d s shared).inv := by
  unfold Dev.cellDone
  repeat' first
    | with_reducible assumption
    | with_reducible apply keep_ite
    | intro _
    | simp only [keep_mk]
    | split
    | dsimp only

theorem Dev.txAcked_inv (d : Dev) (f : TxFrame) (ackEnd : Nat) (h1 : d.inv) :
    (Dev.txAcked d f ackEnd).inv := by
  unfold Dev.txAcked
  repeat' first
    | with_reducible assumption
    | with_reducible apply keep_ite
    | with_reducible apply keep_ite1
    | with_reducible apply Dev.txEnd_inv
    | with_reducible apply Dev.cellDone_inv
    | with_reducible apply Dev.pendNext_inv
    | (intro x; refine keep_have x ?_ ?_ <;> first | (show x.inv; unfold x) | (intro _; clear_value x))
    | (intro x; refine keep_have1 x ?_ ?_ <;> first | (show x.1.inv; unfold x) | (intro _; clear_value x))
    | (intro x; clear_value x)
    | intro _
    | lift_lets
    | simp only [keep_mk]
    | split
    | dsimp only

theorem Dev.cellFail_inv (d : Dev) (f : TxFrame) (h1 : d.inv) :
    (Dev.cellFail d f).inv := by
  unfold Dev.cellFail
  repeat' first
    | with_reducible assumption
    | with_reducible apply Dev.free_inv
    | (intro x; refine keep_have x ?_ ?_ <;> first | (show x.inv; unfold x) | (intro _; clear_value x))
    | (intro x; refine keep_have1 x ?_ ?_ <;> first | (show x.1.inv; unfold x) | (intro _; clear_value x))
    | (intro x; refine keep_have2 x ?_ ?_ <;> first | (show x.2.inv; unfold x) | (intro _; clear_value x))
    | (intro x; clear_value x)
    | intro _
    | lift_lets
    | simp only [keep_mk]
    | split
    | dsimp only

theorem ackWaitEnd_inv (id : Nat) (d : Dev) (h1 : d.inv) :
    (ackWaitEnd id d).inv := by
  unfold ackWaitEnd
  repeat' first
    | with_reducible assumption
    | with_reducible apply keep_ite
    | with_reducible apply keep_ite1
    | with_reducible apply Dev.sleepyFail_inv
    | with_reducible apply Dev.cellFail_inv
    | with_reducible apply Dev.txEnd_inv
    | with_reducible apply start_inv
    | with_reducible apply Dev.setFrame_inv
    | with_reducible apply Dev.ackFrom_inv
    | (intro x; refine keep_have x ?_ ?_ <;> first | (show x.inv; unfold x) | (intro _; clear_value x))
    | (intro x; refine keep_have1 x ?_ ?_ <;> first | (show x.1.inv; unfold x) | (intro _; clear_value x))
    | (intro x; clear_value x)
    | intro _
    | lift_lets
    | simp only [keep_mk]
    | split
    | dsimp only

theorem retryAttempt_inv (id : Nat) (d : Dev) (h1 : d.inv) :
    (retryAttempt id d).inv := by
  unfold retryAttempt
  repeat' first
    | with_reducible assumption
    | with_reducible apply Dev.setFrame_inv
    | with_reducible apply Dev.commitFrame_inv
    | (intro x; refine keep_have x ?_ ?_ <;> first | (show x.inv; unfold x) | (intro _; clear_value x))
    | (intro x; refine keep_have1 x ?_ ?_ <;> first | (show x.1.inv; unfold x) | (intro _; clear_value x))
    | (intro x; clear_value x)
    | intro _
    | lift_lets
    | simp only [keep_mk]
    | split
    | dsimp only

theorem coexCfgWrite_inv (who : Initiator) (w : Word) (d : Dev) (h1 : d.inv) :
    (coexCfgWrite who w d).inv := by
  unfold coexCfgWrite
  repeat' first
    | with_reducible assumption
    | with_reducible apply keep_ite
    | with_reducible apply Dev.refuseWrite_inv
    | with_reducible apply Dev.rejectWrite_inv
    | with_reducible apply Dev.plainWrite_inv
    | intro _
    | split
    | dsimp only

theorem coexRoleChange_inv (d : Dev) (h1 : d.inv) :
    (coexRoleChange d).inv := by
  unfold coexRoleChange
  repeat' first
    | with_reducible assumption
    | with_reducible apply keep_ite
    | with_reducible apply keep_ite1
    | with_reducible apply Dev.coexUpdate_inv
    | (intro x; refine keep_have x ?_ ?_ <;> first | (show x.inv; unfold x) | (intro _; clear_value x))
    | (intro x; refine keep_have1 x ?_ ?_ <;> first | (show x.1.inv; unfold x) | (intro _; clear_value x))
    | (intro x; clear_value x)
    | intro _
    | lift_lets
    | simp only [keep_mk]
    | split
    | dsimp only

theorem Dev.coexWindow_inv (d : Dev) (s : Nat) (h1 : d.inv) :
    (Dev.coexWindow d s).inv := by
  unfold Dev.coexWindow
  repeat' first
    | with_reducible assumption
    | with_reducible apply keep_ite
    | with_reducible apply keep_ite1
    | with_reducible apply Dev.coexAdd_inv
    | intro _
    | split
    | dsimp only

theorem coexRequestAssert_inv (c : CoexClient) (d : Dev) (h1 : d.inv) :
    (coexRequestAssert c d).inv := by
  unfold coexRequestAssert
  repeat' first
    | with_reducible assumption
    | with_reducible apply keep_ite
    | with_reducible apply keep_ite1
    | with_reducible apply Dev.coexWindow_inv
    | with_reducible apply Dev.coexAdd_inv
    | intro _
    | simp only [keep_mk]
    | split
    | dsimp only

theorem coexGntFall_inv (d : Dev) (h1 : d.inv) :
    (coexGntFall d).inv := by
  unfold coexGntFall
  repeat' first
    | with_reducible assumption
    | with_reducible apply keep_ite
    | with_reducible apply keep_ite1
    | with_reducible apply Dev.coexLevel_inv
    | with_reducible apply Dev.coexUpdate_inv
    | with_reducible apply Dev.bump_inv
    | with_reducible apply Dev.txStop_inv
    | with_reducible refine keep_foldl (fun d x hd => ?_) ?_
    | with_reducible refine keep_foldl1 (fun d x hd => ?_) ?_
    | (intro x; refine keep_have x ?_ ?_ <;> first | (show x.inv; unfold x) | (intro _; clear_value x))
    | (intro x; refine keep_have1 x ?_ ?_ <;> first | (show x.1.inv; unfold x) | (intro _; clear_value x))
    | (intro x; clear_value x)
    | intro _
    | lift_lets
    | split
    | dsimp only

theorem coexReqEdge_inv (req : Bool) (pri : Bool) (act : Bool) (d : Dev) (h1 : d.inv) :
    (coexReqEdge req pri act d).inv := by
  unfold coexReqEdge
  repeat' first
    | with_reducible assumption
    | with_reducible apply Dev.coexLevel_inv
    | with_reducible apply Dev.coexUpdate_inv
    | with_reducible apply Dev.coexYield_inv
    | intro _
    | dsimp only

theorem Dev.rxwBand_inv (d : Dev) (h1 : d.inv) :
    (Dev.rxwBand d).inv := by
  unfold Dev.rxwBand
  repeat' first
    | with_reducible assumption
    | with_reducible apply keep_ite
    | with_reducible apply keep_ite1
    | with_reducible apply Dev.wr_inv
    | with_reducible apply Dev.noiseRestart_inv
    | with_reducible refine keep_foldl (fun d x hd => ?_) ?_
    | with_reducible refine keep_foldl1 (fun d x hd => ?_) ?_
    | (intro x; refine keep_have x ?_ ?_ <;> first | (show x.inv; unfold x) | (intro _; clear_value x))
    | (intro x; refine keep_have1 x ?_ ?_ <;> first | (show x.1.inv; unfold x) | (intro _; clear_value x))
    | (intro x; clear_value x)
    | intro _
    | lift_lets
    | simp only [keep_mk]
    | split
    | dsimp only

theorem regStageW1Effect_inv (d : Dev) (h1 : d.inv) :
    (regStageW1Effect d).inv := by
  unfold regStageW1Effect
  repeat' first
    | with_reducible assumption
    | with_reducible apply keep_ite
    | with_reducible apply keep_ite1
    | with_reducible apply keep_ite2
    | with_reducible apply Dev.wr_inv
    | with_reducible apply Dev.rxwBand_inv
    | with_reducible apply Dev.calBegin_inv
    | with_reducible refine keep_foldl (fun d x hd => ?_) ?_
    | with_reducible refine keep_foldl1 (fun d x hd => ?_) ?_
    | (intro x; refine keep_have x ?_ ?_ <;> first | (show x.inv; unfold x) | (intro _; clear_value x))
    | (intro x; refine keep_have1 x ?_ ?_ <;> first | (show x.1.inv; unfold x) | (intro _; clear_value x))
    | (intro x; refine keep_have2 x ?_ ?_ <;> first | (show x.2.inv; unfold x) | (intro _; clear_value x))
    | (intro x; clear_value x)
    | intro _
    | lift_lets
    | simp only [keep_mk]
    | split
    | dsimp only

end Sys2Proof.Machine
end

