-- ==== Sys2Proof/Laws/KeepSleepy.lean ====
section
/-! SUPPORT. Every operation of Machine/Sleepy.lean keeps the invariant. -/

namespace Sys2Proof.Machine

open Sys2Proof

theorem Dev.setPhase_inv (d : Dev) (s : Nat) (phase : Nat) (count : Nat) (h1 : d.inv) :
    (Dev.setPhase d s phase count).inv := by
  unfold Dev.setPhase
  repeat' first
    | with_reducible assumption
    | with_reducible apply Dev.setCx_inv
    | with_reducible apply Dev.cxTouch_inv
    | intro _
    | dsimp only

theorem Dev.setWins_inv (d : Dev) (l : List NodeWin) (h1 : d.inv) :
    (Dev.setWins d l).inv := by
  unfold Dev.setWins
  repeat' first
    | with_reducible assumption
    | intro _
    | simp only [keep_mk]
    | dsimp only

theorem Dev.dropPlanned_inv (d : Dev) (s : Nat) (h1 : d.inv) :
    (Dev.dropPlanned d s).inv := by
  unfold Dev.dropPlanned
  repeat' first
    | with_reducible assumption
    | with_reducible apply keep_ite
    | with_reducible apply keep_ite1
    | with_reducible apply Dev.setWins_inv
    | with_reducible apply Dev.coexDrop_inv
    | (intro x; refine keep_have x ?_ ?_ <;> first | (show x.inv; unfold x) | (intro _; clear_value x))
    | (intro x; refine keep_have1 x ?_ ?_ <;> first | (show x.1.inv; unfold x) | (intro _; clear_value x))
    | (intro x; clear_value x)
    | intro _
    | lift_lets
    | split
    | dsimp only

theorem Dev.addWin_inv (d : Dev) (w : NodeWin) (h1 : d.inv) :
    (Dev.addWin d w).inv := by
  unfold Dev.addWin
  repeat' first
    | with_reducible assumption
    | with_reducible apply Dev.setWins_inv
    | intro _
    | dsimp only

theorem Dev.enterCheck_inv (d : Dev) (s : Nat) (due : Nat) (h1 : d.inv) :
    (Dev.enterCheck d s due).inv := by
  unfold Dev.enterCheck
  repeat' first
    | with_reducible assumption
    | (intro x; refine keep_have x ?_ ?_ <;> first | (show x.inv; unfold x) | (intro _; clear_value x))
    | (intro x; refine keep_have1 x ?_ ?_ <;> first | (show x.1.inv; unfold x) | (intro _; clear_value x))
    | (intro x; clear_value x)
    | intro _
    | lift_lets
    | simp only [keep_mk]
    | dsimp only

theorem Dev.dropCheck_inv (d : Dev) (s : Nat) (h1 : d.inv) :
    (Dev.dropCheck d s).inv := by
  unfold Dev.dropCheck
  repeat' first
    | with_reducible assumption
    | with_reducible apply Dev.setFrames_inv
    | (intro x; refine keep_have x ?_ ?_ <;> first | (show x.inv; unfold x) | (intro _; clear_value x))
    | (intro x; refine keep_have1 x ?_ ?_ <;> first | (show x.1.inv; unfold x) | (intro _; clear_value x))
    | (intro x; refine keep_haveD x ?_ ?_ <;> first | (show ∀ d : Dev, d.inv → (x d).inv; unfold x; intro _ _) | (intro hfD; clear_value x))
    | (intro x; refine keep_haveG x ?_ ?_ <;> first | (show ∀ (d : Dev) a, d.inv → (x d a).inv; unfold x; intro _ _ _) | (intro hfG; clear_value x))
    | (intro x; refine keep_haveG1 x ?_ ?_ <;> first | (show ∀ (d : Dev) a, d.inv → (x d a).1.inv; unfold x; intro _ _ _) | (intro hfP; clear_value x))
    | (intro x; refine keep_haveF x ?_ ?_ <;> first | (show ∀ a, (x a).inv; unfold x; intro _) | (intro hfF; clear_value x))
    | with_reducible apply hfD
    | with_reducible apply hfG
    | with_reducible apply hfP
    | with_reducible apply hfF
    | (intro x; clear_value x)
    | intro _
    | lift_lets
    | simp only [keep_mk]
    | dsimp only

theorem Dev.planWindow_inv (d : Dev) (s : Nat) (k : Nat) (h1 : d.inv) :
    (Dev.planWindow d s k).inv := by
  unfold Dev.planWindow
  repeat' first
    | with_reducible assumption
    | with_reducible apply keep_ite
    | with_reducible apply keep_ite1
    | with_reducible apply keep_ite2
    | with_reducible apply Dev.dropPlanned_inv
    | with_reducible apply Dev.addWin_inv
    | with_reducible apply Dev.bumpBy_inv
    | with_reducible apply Dev.setPhase_inv
    | with_reducible apply Dev.bump_inv
    | with_reducible apply Dev.raise_inv
    | with_reducible apply Dev.enterCheck_inv
    | (intro x; refine keep_have x ?_ ?_ <;> first | (show x.inv; unfold x) | (intro _; clear_value x))
    | (intro x; refine keep_have1 x ?_ ?_ <;> first | (show x.1.inv; unfold x) | (intro _; clear_value x))
    | (intro x; refine keep_have2 x ?_ ?_ <;> first | (show x.2.inv; unfold x) | (intro _; clear_value x))
    | (intro x; refine keep_haveD x ?_ ?_ <;> first | (show ∀ d : Dev, d.inv → (x d).inv; unfold x; intro _ _) | (intro hfD; clear_value x))
    | (intro x; refine keep_haveG x ?_ ?_ <;> first | (show ∀ (d : Dev) a, d.inv → (x d a).inv; unfold x; intro _ _ _) | (intro hfG; clear_value x))
    | (intro x; refine keep_haveG1 x ?_ ?_ <;> first | (show ∀ (d : Dev) a, d.inv → (x d a).1.inv; unfold x; intro _ _ _) | (intro hfP; clear_value x))
    | (intro x; refine keep_haveF x ?_ ?_ <;> first | (show ∀ a, (x a).inv; unfold x; intro _) | (intro hfF; clear_value x))
    | with_reducible apply hfD
    | with_reducible apply hfG
    | with_reducible apply hfP
    | with_reducible apply hfF
    | (intro x; clear_value x)
    | intro _
    | lift_lets
    | simp only [keep_mk]
    | split
    | dsimp only

theorem Dev.driftObserve_inv (d : Dev) (s : Nat) (delta : Nat) (h1 : d.inv) :
    (Dev.driftObserve d s delta).inv := by
  unfold Dev.driftObserve
  repeat' first
    | with_reducible assumption
    | with_reducible apply keep_ite
    | with_reducible apply keep_ite1
    | with_reducible apply Dev.setCx_inv
    | with_reducible apply Dev.bump_inv
    | (intro x; refine keep_have x ?_ ?_ <;> first | (show x.inv; unfold x) | (intro _; clear_value x))
    | (intro x; refine keep_have1 x ?_ ?_ <;> first | (show x.1.inv; unfold x) | (intro _; clear_value x))
    | (intro x; clear_value x)
    | intro _
    | lift_lets
    | split
    | dsimp only

theorem Dev.markContact_inv (d : Dev) (s : Nat) (h1 : d.inv) :
    (Dev.markContact d s).inv := by
  unfold Dev.markContact
  repeat' first
    | with_reducible assumption
    | with_reducible apply keep_ite
    | with_reducible apply Dev.setWins_inv
    | intro _
    | simp only [keep_mk]
    | split
    | dsimp only

theorem Dev.contactAct_inv (d : Dev) (s : Nat) (ts : Nat) (isNew : Bool) (h1 : d.inv) :
    (Dev.contactAct d s ts isNew).inv := by
  unfold Dev.contactAct
  repeat' first
    | with_reducible assumption
    | with_reducible apply keep_ite
    | with_reducible apply keep_ite1
    | with_reducible apply Dev.bump_inv
    | with_reducible apply Dev.setCx_inv
    | with_reducible apply Dev.cxTouch_inv
    | with_reducible apply Dev.setPhase_inv
    | with_reducible apply Dev.driftObserve_inv
    | with_reducible apply Dev.dropCheck_inv
    | with_reducible apply Dev.markContact_inv
    | with_reducible apply Dev.planWindow_inv
    | (intro x; refine keep_have x ?_ ?_ <;> first | (show x.inv; unfold x) | (intro _; clear_value x))
    | (intro x; refine keep_have1 x ?_ ?_ <;> first | (show x.1.inv; unfold x) | (intro _; clear_value x))
    | (intro x; clear_value x)
    | intro _
    | lift_lets
    | simp only [keep_mk]
    | split
    | dsimp only

theorem Dev.contact_inv (d : Dev) (s : Nat) (ts : Nat) (sub : Bool) (isNew : Bool) (h1 : d.inv) :
    (Dev.contact d s ts sub isNew).1.inv := by
  unfold Dev.contact
  repeat' first
    | with_reducible assumption
    | with_reducible apply keep_ite
    | with_reducible apply keep_ite1
    | with_reducible apply keep_ite2
    | with_reducible apply Dev.contactAct_inv
    | with_reducible apply Dev.bump_inv
    | (intro x; refine keep_have x ?_ ?_ <;> first | (show x.inv; unfold x) | (intro _; clear_value x))
    | (intro x; refine keep_have1 x ?_ ?_ <;> first | (show x.1.inv; unfold x) | (intro _; clear_value x))
    | (intro x; refine keep_have2 x ?_ ?_ <;> first | (show x.2.inv; unfold x) | (intro _; clear_value x))
    | (intro x; clear_value x)
    | intro _
    | lift_lets
    | simp only [keep_mk]
    | split
    | dsimp only

theorem Dev.enterReported_inv (d : Dev) (s : Nat) (h1 : d.inv) :
    (Dev.enterReported d s).inv := by
  unfold Dev.enterReported
  repeat' first
    | with_reducible assumption
    | with_reducible apply Dev.setPhase_inv
    | with_reducible apply Dev.dropCheck_inv
    | with_reducible apply Dev.dropPlanned_inv
    | with_reducible apply Dev.nodeNotice_inv
    | with_reducible apply Dev.bump_inv
    | intro _
    | dsimp only

theorem Dev.searchMiss_inv (d : Dev) (s : Nat) (cfg : List Word) (k : Nat) (close : Nat) (h1 : d.inv) :
    (Dev.searchMiss d s cfg k close).inv := by
  unfold Dev.searchMiss
  repeat' first
    | with_reducible assumption
    | with_reducible apply keep_ite
    | with_reducible apply keep_ite1
    | with_reducible apply Dev.setPhase_inv
    | with_reducible apply Dev.planWindow_inv
    | with_reducible apply Dev.enterCheck_inv
    | with_reducible apply Dev.enterReported_inv
    | (intro x; refine keep_have x ?_ ?_ <;> first | (show x.inv; unfold x) | (intro _; clear_value x))
    | (intro x; refine keep_have1 x ?_ ?_ <;> first | (show x.1.inv; unfold x) | (intro _; clear_value x))
    | (intro x; clear_value x)
    | intro _
    | lift_lets
    | split
    | dsimp only

theorem Dev.schedRestart_inv (d : Dev) (s : Nat) (h1 : d.inv) :
    (Dev.schedRestart d s).inv := by
  unfold Dev.schedRestart
  repeat' first
    | with_reducible assumption
    | with_reducible apply Dev.setCx_inv
    | with_reducible apply Dev.setPhase_inv
    | with_reducible apply Dev.dropCheck_inv
    | with_reducible apply Dev.planWindow_inv
    | intro _
    | dsimp only

theorem Dev.schedChanged_inv (d : Dev) (s : Nat) (h1 : d.inv) :
    (Dev.schedChanged d s).inv := by
  unfold Dev.schedChanged
  repeat' first
    | with_reducible assumption
    | with_reducible apply keep_ite
    | with_reducible apply Dev.dropPlanned_inv
    | with_reducible apply Dev.setWins_inv
    | with_reducible apply Dev.schedRestart_inv
    | intro _
    | simp only [keep_mk]
    | split
    | dsimp only

theorem Dev.slpForget_inv (d : Dev) (s : Nat) (h1 : d.inv) :
    (Dev.slpForget d s).inv := by
  unfold Dev.slpForget
  repeat' first
    | with_reducible assumption
    | with_reducible apply Dev.dropCheck_inv
    | with_reducible apply Dev.setWins_inv
    | with_reducible apply Dev.coexDrop_inv
    | (intro x; refine keep_have x ?_ ?_ <;> first | (show x.inv; unfold x) | (intro _; clear_value x))
    | (intro x; refine keep_have1 x ?_ ?_ <;> first | (show x.1.inv; unfold x) | (intro _; clear_value x))
    | (intro x; clear_value x)
    | intro _
    | lift_lets
    | simp only [keep_mk]
    | dsimp only

theorem Dev.slpRestored_inv (d : Dev) (s : Nat) (h1 : d.inv) :
    (Dev.slpRestored d s).inv := by
  unfold Dev.slpRestored
  repeat' first
    | with_reducible assumption
    | with_reducible apply Dev.slpForget_inv
    | with_reducible apply Dev.planWindow_inv
    | with_reducible apply Dev.settle_inv
    | intro _
    | dsimp only

theorem Dev.serviceUpdate_inv (d : Dev) (h1 : d.inv) :
    (Dev.serviceUpdate d).inv := by
  unfold Dev.serviceUpdate
  repeat' first
    | with_reducible assumption
    | with_reducible apply keep_ite
    | with_reducible apply keep_ite1
    | with_reducible apply Dev.planWindow_inv
    | with_reducible apply Dev.settle_inv
    | with_reducible apply Dev.dropCheck_inv
    | with_reducible apply Dev.coexUpdate_inv
    | with_reducible refine keep_foldl (fun d x hd => ?_) ?_
    | with_reducible refine keep_foldl1 (fun d x hd => ?_) ?_
    | (intro x; refine keep_have x ?_ ?_ <;> first | (show x.inv; unfold x) | (intro _; clear_value x))
    | (intro x; refine keep_have1 x ?_ ?_ <;> first | (show x.1.inv; unfold x) | (intro _; clear_value x))
    | (intro x; clear_value x)
    | intro _
    | lift_lets
    | simp only [keep_mk]
    | split
    | dsimp only

theorem Dev.releaseRemote_inv (d : Dev) (s : Nat) (t : Nat) (sub : Bool) (chan : Nat) (h1 : d.inv) :
    (Dev.releaseRemote d s t sub chan).inv := by
  unfold Dev.releaseRemote
  repeat' first
    | with_reducible assumption
    | with_reducible apply keep_ite
    | with_reducible apply keep_ite1
    | (intro x; refine keep_have x ?_ ?_ <;> first | (show x.inv; unfold x) | (intro _; clear_value x))
    | (intro x; refine keep_have1 x ?_ ?_ <;> first | (show x.1.inv; unfold x) | (intro _; clear_value x))
    | (intro x; clear_value x)
    | intro _
    | lift_lets
    | simp only [keep_mk]
    | split
    | dsimp only

theorem Dev.nodeLead_inv (d : Dev) (s : Nat) (h1 : d.inv) :
    (Dev.nodeLead d s).inv := by
  unfold Dev.nodeLead
  repeat' first
    | with_reducible assumption
    | with_reducible apply keep_ite
    | with_reducible apply keep_ite1
    | with_reducible apply Dev.setWins_inv
    | with_reducible apply Dev.releaseRemote_inv
    | (intro x; refine keep_have x ?_ ?_ <;> first | (show x.inv; unfold x) | (intro _; clear_value x))
    | (intro x; refine keep_have1 x ?_ ?_ <;> first | (show x.1.inv; unfold x) | (intro _; clear_value x))
    | (intro x; refine keep_haveD x ?_ ?_ <;> first | (show ∀ d : Dev, d.inv → (x d).inv; unfold x; intro _ _) | (intro hfD; clear_value x))
    | (intro x; refine keep_haveG x ?_ ?_ <;> first | (show ∀ (d : Dev) a, d.inv → (x d a).inv; unfold x; intro _ _ _) | (intro hfG; clear_value x))
    | (intro x; refine keep_haveG1 x ?_ ?_ <;> first | (show ∀ (d : Dev) a, d.inv → (x d a).1.inv; unfold x; intro _ _ _) | (intro hfP; clear_value x))
    | (intro x; refine keep_haveF x ?_ ?_ <;> first | (show ∀ a, (x a).inv; unfold x; intro _) | (intro hfF; clear_value x))
    | with_reducible apply hfD
    | with_reducible apply hfG
    | with_reducible apply hfP
    | with_reducible apply hfF
    | (intro x; clear_value x)
    | intro _
    | lift_lets
    | simp only [keep_mk]
    | split
    | dsimp only

theorem Dev.setSlotRun_inv (d : Dev) (r : SlotRun) (h1 : d.inv) :
    (Dev.setSlotRun d r).inv := by
  unfold Dev.setSlotRun
  repeat' first
    | with_reducible assumption
    | intro _
    | simp only [keep_mk]
    | dsimp only

theorem Dev.entryLead_inv (d : Dev) (m : Nat) (h1 : d.inv) :
    (Dev.entryLead d m).inv := by
  unfold Dev.entryLead
  repeat' first
    | with_reducible assumption
    | with_reducible apply keep_ite
    | with_reducible apply Dev.setSlotRun_inv
    | intro _
    | simp only [keep_mk]
    | split
    | dsimp only

theorem windowVoteLead_inv (w : WinRef) (d : Dev) (h1 : d.inv) :
    (windowVoteLead w d).inv := by
  unfold windowVoteLead
  repeat' first
    | with_reducible assumption
    | with_reducible apply Dev.nodeLead_inv
    | with_reducible apply Dev.settle_inv
    | with_reducible apply Dev.entryLead_inv
    | intro _
    | simp only [keep_mk]
    | split
    | dsimp only

theorem windowOpen_inv (s : Nat) (d : Dev) (h1 : d.inv) :
    (windowOpen s d).inv := by
  unfold windowOpen
  repeat' first
    | with_reducible assumption
    | with_reducible apply keep_ite
    | with_reducible apply keep_ite1
    | with_reducible apply Dev.setWins_inv
    | with_reducible apply Dev.coexWindow_inv
    | with_reducible apply Dev.raise_inv
    | with_reducible apply Dev.settle_inv
    | (intro x; refine keep_have x ?_ ?_ <;> first | (show x.inv; unfold x) | (intro _; clear_value x))
    | (intro x; refine keep_have1 x ?_ ?_ <;> first | (show x.1.inv; unfold x) | (intro _; clear_value x))
    | (intro x; clear_value x)
    | intro _
    | lift_lets
    | simp only [keep_mk]
    | split
    | dsimp only

theorem Dev.winSweep_inv (d : Dev) (h1 : d.inv) :
    (Dev.winSweep d).inv := by
  unfold Dev.winSweep
  repeat' first
    | with_reducible assumption
    | with_reducible apply keep_ite
    | with_reducible apply keep_ite1
    | with_reducible apply Dev.setWins_inv
    | with_reducible apply Dev.settle_inv
    | (intro x; refine keep_have x ?_ ?_ <;> first | (show x.inv; unfold x) | (intro _; clear_value x))
    | (intro x; refine keep_have1 x ?_ ?_ <;> first | (show x.1.inv; unfold x) | (intro _; clear_value x))
    | (intro x; clear_value x)
    | intro _
    | lift_lets
    | split
    | dsimp only

theorem windowClose_inv (s : Nat) (d : Dev) (h1 : d.inv) :
    (windowClose s d).inv := by
  unfold windowClose
  repeat' first
    | with_reducible assumption
    | with_reducible apply keep_ite
    | with_reducible apply keep_ite1
    | with_reducible apply Dev.setWins_inv
    | with_reducible apply Dev.coexDrop_inv
    | with_reducible apply Dev.raise_inv
    | with_reducible apply Dev.bump_inv
    | with_reducible apply Dev.schedRestart_inv
    | with_reducible apply Dev.searchMiss_inv
    | with_reducible apply Dev.planWindow_inv
    | with_reducible apply Dev.winSweep_inv
    | with_reducible apply Dev.settle_inv
    | (intro x; refine keep_have x ?_ ?_ <;> first | (show x.inv; unfold x) | (intro _; clear_value x))
    | (intro x; refine keep_have1 x ?_ ?_ <;> first | (show x.1.inv; unfold x) | (intro _; clear_value x))
    | (intro x; clear_value x)
    | intro _
    | lift_lets
    | simp only [keep_mk]
    | split
    | dsimp only

theorem heldFrameSend_inv (s : Nat) (d : Dev) (h1 : d.inv) :
    (heldFrameSend s d).inv := by
  unfold heldFrameSend
  repeat' first
    | with_reducible assumption
    | with_reducible apply keep_ite
    | with_reducible apply keep_ite1
    | with_reducible apply Dev.winSweep_inv
    | with_reducible apply start_inv
    | with_reducible apply Dev.takeInput_inv
    | with_reducible apply Dev.setFrame_inv
    | with_reducible apply Dev.secureFrame_inv
    | (intro x; refine keep_have x ?_ ?_ <;> first | (show x.inv; unfold x) | (intro _; clear_value x))
    | (intro x; refine keep_have1 x ?_ ?_ <;> first | (show x.1.inv; unfold x) | (intro _; clear_value x))
    | (intro x; clear_value x)
    | intro _
    | lift_lets
    | simp only [keep_mk]
    | split
    | dsimp only

theorem checkTelegramSend_inv (s : Nat) (d : Dev) (h1 : d.inv) :
    (checkTelegramSend s d).inv := by
  unfold checkTelegramSend
  repeat' first
    | with_reducible assumption
    | with_reducible apply keep_ite
    | with_reducible apply keep_ite1
    | with_reducible apply Dev.wake_inv
    | with_reducible apply Dev.addFrame_inv
    | (intro x; refine keep_have x ?_ ?_ <;> first | (show x.inv; unfold x) | (intro _; clear_value x))
    | (intro x; refine keep_have1 x ?_ ?_ <;> first | (show x.1.inv; unfold x) | (intro _; clear_value x))
    | (intro x; refine keep_haveD x ?_ ?_ <;> first | (show ∀ d : Dev, d.inv → (x d).inv; unfold x; intro _ _) | (intro hfD; clear_value x))
    | (intro x; refine keep_haveG x ?_ ?_ <;> first | (show ∀ (d : Dev) a, d.inv → (x d a).inv; unfold x; intro _ _ _) | (intro hfG; clear_value x))
    | (intro x; refine keep_haveG1 x ?_ ?_ <;> first | (show ∀ (d : Dev) a, d.inv → (x d a).1.inv; unfold x; intro _ _ _) | (intro hfP; clear_value x))
    | (intro x; refine keep_haveF x ?_ ?_ <;> first | (show ∀ a, (x a).inv; unfold x; intro _) | (intro hfF; clear_value x))
    | with_reducible apply hfD
    | with_reducible apply hfG
    | with_reducible apply hfP
    | with_reducible apply hfF
    | (intro x; clear_value x)
    | intro _
    | lift_lets
    | simp only [keep_mk]
    | split
    | dsimp only

theorem checkWaitEnd_inv (s : Nat) (d : Dev) (h1 : d.inv) :
    (checkWaitEnd s d).inv := by
  unfold checkWaitEnd
  repeat' first
    | with_reducible assumption
    | with_reducible apply keep_ite
    | with_reducible apply keep_ite1
    | with_reducible apply Dev.enterReported_inv
    | with_reducible apply Dev.settle_inv
    | (intro x; refine keep_have x ?_ ?_ <;> first | (show x.inv; unfold x) | (intro _; clear_value x))
    | (intro x; refine keep_have1 x ?_ ?_ <;> first | (show x.1.inv; unfold x) | (intro _; clear_value x))
    | (intro x; refine keep_haveD x ?_ ?_ <;> first | (show ∀ d : Dev, d.inv → (x d).inv; unfold x; intro _ _) | (intro hfD; clear_value x))
    | (intro x; refine keep_haveG x ?_ ?_ <;> first | (show ∀ (d : Dev) a, d.inv → (x d a).inv; unfold x; intro _ _ _) | (intro hfG; clear_value x))
    | (intro x; refine keep_haveG1 x ?_ ?_ <;> first | (show ∀ (d : Dev) a, d.inv → (x d a).1.inv; unfold x; intro _ _ _) | (intro hfP; clear_value x))
    | (intro x; refine keep_haveF x ?_ ?_ <;> first | (show ∀ a, (x a).inv; unfold x; intro _) | (intro hfF; clear_value x))
    | with_reducible apply hfD
    | with_reducible apply hfG
    | with_reducible apply hfP
    | with_reducible apply hfF
    | (intro x; clear_value x)
    | intro _
    | lift_lets
    | simp only [keep_mk]
    | split
    | dsimp only

end Sys2Proof.Machine
end

