-- ==== Sys2Proof/Laws/KeepTempo.lean ====
section
/-! SUPPORT. Every operation of Machine/Tempo.lean keeps the invariant. -/

namespace Sys2Proof.Machine

open Sys2Proof

theorem Dev.newWriteBack_inv (d : Dev) (s : Nat) (h : Mhr) (x : RxFrame) (h1 : d.inv) :
    (Dev.newWriteBack d s h x).inv := by
  unfold Dev.newWriteBack
  repeat' first
    | with_reducible assumption
    | with_reducible apply keep_ite
    | with_reducible apply keep_ite1
    | with_reducible apply Dev.setCx_inv
    | with_reducible apply Dev.cxBump_inv
    | with_reducible apply Dev.cxTouch_inv
    | (intro x; refine keep_have x ?_ ?_ <;> first | (show x.inv; unfold x) | (intro _; clear_value x))
    | (intro x; refine keep_have1 x ?_ ?_ <;> first | (show x.1.inv; unfold x) | (intro _; clear_value x))
    | (intro x; clear_value x)
    | intro _
    | lift_lets
    | split
    | dsimp only

theorem Dev.keepWindow_inv (d : Dev) (x : RxFrame) (h1 : d.inv) :
    (Dev.keepWindow d x).inv := by
  unfold Dev.keepWindow
  repeat' first
    | with_reducible assumption
    | intro _
    | simp only [keep_mk]
    | split
    | dsimp only

theorem Dev.ackLockstep_inv (d : Dev) (p : Nat) (h1 : d.inv) :
    (Dev.ackLockstep d p).inv := by
  unfold Dev.ackLockstep
  repeat' first
    | with_reducible assumption
    | with_reducible apply Dev.bump_inv
    | with_reducible apply Dev.raise_inv
    | intro _
    | dsimp only

theorem Dev.ackSend_inv (d : Dev) (p : Nat) (x : RxFrame) (h : Mhr) (slot : Option Nat) (cell : Option Int) (contact : Bool) (late : Bool) (h1 : d.inv) :
    (Dev.ackSend d p x h slot cell contact late).inv := by
  unfold Dev.ackSend
  repeat' first
    | with_reducible assumption
    | with_reducible apply keep_ite
    | with_reducible apply keep_ite1
    | with_reducible apply keep_ite2
    | with_reducible apply Dev.ackLockstep_inv
    | with_reducible apply Dev.bump_inv
    | with_reducible apply Dev.raise_inv
    | with_reducible apply Dev.contact_inv
    | with_reducible apply Dev.cphRequest_inv
    | with_reducible apply Dev.addFrame_inv
    | with_reducible apply Dev.settle_inv
    | (intro x; refine keep_have x ?_ ?_ <;> first | (show x.inv; unfold x) | (intro _; clear_value x))
    | (intro x; refine keep_have1 x ?_ ?_ <;> first | (show x.1.inv; unfold x) | (intro _; clear_value x))
    | (intro x; refine keep_have2 x ?_ ?_ <;> first | (show x.2.inv; unfold x) | (intro _; clear_value x))
    | (intro x; clear_value x)
    | intro _
    | lift_lets
    | simp only [keep_mk]
    | split
    | dsimp only

theorem Dev.toHost_inv (d : Dev) (s : Nat) (x : RxFrame) (reason : Nat) (status : Nat) (h1 : d.inv) :
    (Dev.toHost d s x reason status).inv := by
  unfold Dev.toHost
  repeat' first
    | with_reducible assumption
    | with_reducible apply keep_ite
    | with_reducible apply keep_ite1
    | with_reducible apply Dev.bump_inv
    | with_reducible apply Dev.receivePost_inv
    | (intro x; refine keep_have x ?_ ?_ <;> first | (show x.inv; unfold x) | (intro _; clear_value x))
    | (intro x; refine keep_have1 x ?_ ?_ <;> first | (show x.1.inv; unfold x) | (intro _; clear_value x))
    | (intro x; clear_value x)
    | intro _
    | lift_lets
    | split
    | dsimp only

theorem Dev.relaySend_inv (d : Dev) (s : Nat) (n : Nat) (queue : Nat) (x : RxFrame) (h : Mhr) (h1 : d.inv) :
    (Dev.relaySend d s n queue x h).inv := by
  unfold Dev.relaySend
  repeat' first
    | with_reducible assumption
    | with_reducible apply keep_ite
    | with_reducible apply keep_ite1
    | with_reducible apply Dev.addFrame_inv
    | with_reducible apply Dev.txRefuse_inv
    | with_reducible apply Dev.secureFrame_inv
    | (intro x; refine keep_have x ?_ ?_ <;> first | (show x.inv; unfold x) | (intro _; clear_value x))
    | (intro x; refine keep_have1 x ?_ ?_ <;> first | (show x.1.inv; unfold x) | (intro _; clear_value x))
    | (intro x; clear_value x)
    | intro _
    | lift_lets
    | simp only [keep_mk]
    | split
    | dsimp only

theorem Dev.forwardFrame_inv (d : Dev) (s : Nat) (x : RxFrame) (h : Mhr) (h1 : d.inv) :
    (Dev.forwardFrame d s x h).inv := by
  unfold Dev.forwardFrame
  repeat' first
    | with_reducible assumption
    | with_reducible apply keep_ite
    | with_reducible apply keep_ite1
    | with_reducible apply Dev.toHost_inv
    | with_reducible apply Dev.bump_inv
    | with_reducible apply Dev.relaySend_inv
    | (intro x; refine keep_have x ?_ ?_ <;> first | (show x.inv; unfold x) | (intro _; clear_value x))
    | (intro x; refine keep_have1 x ?_ ?_ <;> first | (show x.1.inv; unfold x) | (intro _; clear_value x))
    | (intro x; clear_value x)
    | intro _
    | lift_lets
    | simp only [keep_mk]
    | split
    | dsimp only

theorem Dev.learn_inv (d : Dev) (s : Nat) (h1 : d.inv) :
    (Dev.learn d s).inv := by
  unfold Dev.learn
  repeat' first
    | with_reducible assumption
    | with_reducible apply keep_ite
    | with_reducible apply keep_ite1
    | with_reducible apply Dev.setCx_inv
    | with_reducible apply Dev.cxTouch_inv
    | with_reducible apply Dev.setRteMember_inv
    | (intro x; refine keep_have x ?_ ?_ <;> first | (show x.inv; unfold x) | (intro _; clear_value x))
    | (intro x; refine keep_have1 x ?_ ?_ <;> first | (show x.1.inv; unfold x) | (intro _; clear_value x))
    | (intro x; clear_value x)
    | intro _
    | lift_lets
    | split
    | dsimp only

theorem Dev.visitNote_inv (d : Dev) (s : Nat) (by' : Option Nat) (x : RxFrame) (h1 : d.inv) :
    (Dev.visitNote d s by' x).inv := by
  unfold Dev.visitNote
  repeat' first
    | with_reducible assumption
    | (intro x; refine keep_have x ?_ ?_ <;> first | (show x.inv; unfold x) | (intro _; clear_value x))
    | (intro x; refine keep_have1 x ?_ ?_ <;> first | (show x.1.inv; unfold x) | (intro _; clear_value x))
    | (intro x; clear_value x)
    | intro _
    | lift_lets
    | simp only [keep_mk]
    | split
    | dsimp only

theorem Dev.acceptNew_inv (d : Dev) (p : Nat) (s : Nat) (x : RxFrame) (h : Mhr) (by' : Option Nat) (ack : Bool) (late : Bool) (cell : Option Int) (h1 : d.inv) :
    (Dev.acceptNew d p s x h by' ack late cell).inv := by
  unfold Dev.acceptNew
  repeat' first
    | with_reducible assumption
    | with_reducible apply keep_ite
    | with_reducible apply keep_ite1
    | with_reducible apply keep_ite2
    | with_reducible apply Dev.visitNote_inv
    | with_reducible apply Dev.newWriteBack_inv
    | with_reducible apply Dev.contact_inv
    | with_reducible apply Dev.learn_inv
    | with_reducible apply Dev.releaseRemote_inv
    | with_reducible apply Dev.ackSend_inv
    | with_reducible apply Dev.toHost_inv
    | with_reducible apply Dev.forwardFrame_inv
    | (intro x; refine keep_have x ?_ ?_ <;> first | (show x.inv; unfold x) | (intro _; clear_value x))
    | (intro x; refine keep_have1 x ?_ ?_ <;> first | (show x.1.inv; unfold x) | (intro _; clear_value x))
    | (intro x; refine keep_have2 x ?_ ?_ <;> first | (show x.2.inv; unfold x) | (intro _; clear_value x))
    | (intro x; clear_value x)
    | intro _
    | lift_lets
    | split
    | dsimp only

theorem Dev.counterNotice_inv (d : Dev) (s : Nat) (h1 : d.inv) :
    (Dev.counterNotice d s).inv := by
  unfold Dev.counterNotice
  repeat' first
    | with_reducible assumption
    | with_reducible apply keep_ite
    | with_reducible apply keep_ite1
    | with_reducible apply Dev.nodeNotice_inv
    | (intro x; refine keep_have x ?_ ?_ <;> first | (show x.inv; unfold x) | (intro _; clear_value x))
    | (intro x; refine keep_have1 x ?_ ?_ <;> first | (show x.1.inv; unfold x) | (intro _; clear_value x))
    | (intro x; clear_value x)
    | intro _
    | lift_lets
    | simp only [keep_mk]
    | split
    | dsimp only

theorem Dev.submitVerify_inv (d : Dev) (i : WorkItem) (x : RxFrame) (h : Mhr) (cls : Nat) (h1 : d.inv) :
    (Dev.submitVerify d i x h cls).inv := by
  unfold Dev.submitVerify
  repeat' first
    | with_reducible assumption
    | with_reducible apply keep_ite
    | with_reducible apply keep_ite1
    | with_reducible apply keep_ite2
    | with_reducible apply Dev.cphRequest_inv
    | with_reducible apply Dev.settle_inv
    | (intro x; refine keep_have x ?_ ?_ <;> first | (show x.inv; unfold x) | (intro _; clear_value x))
    | (intro x; refine keep_have1 x ?_ ?_ <;> first | (show x.1.inv; unfold x) | (intro _; clear_value x))
    | (intro x; refine keep_have2 x ?_ ?_ <;> first | (show x.2.inv; unfold x) | (intro _; clear_value x))
    | (intro x; clear_value x)
    | intro _
    | lift_lets
    | simp only [keep_mk]
    | split
    | dsimp only

theorem Dev.verified_inv (d : Dev) (i : WorkItem) (x : RxFrame) (h : Mhr) (status : Nat) (plain : List Byte) (h1 : d.inv) :
    (Dev.verified d i x h status plain).inv := by
  unfold Dev.verified
  repeat' first
    | with_reducible assumption
    | with_reducible apply keep_ite
    | with_reducible apply keep_ite1
    | with_reducible apply Dev.acceptNew_inv
    | with_reducible apply Dev.bump_inv
    | (intro x; refine keep_have x ?_ ?_ <;> first | (show x.inv; unfold x) | (intro _; clear_value x))
    | (intro x; refine keep_have1 x ?_ ?_ <;> first | (show x.1.inv; unfold x) | (intro _; clear_value x))
    | (intro x; clear_value x)
    | intro _
    | lift_lets
    | split
    | dsimp only

theorem Dev.residentFrame_inv (d : Dev) (i : WorkItem) (x : RxFrame) (h : Mhr) (h1 : d.inv) :
    (Dev.residentFrame d i x h).inv := by
  unfold Dev.residentFrame
  repeat' first
    | with_reducible assumption
    | with_reducible apply keep_ite
    | with_reducible apply keep_ite1
    | with_reducible apply keep_ite2
    | with_reducible apply Dev.bump_inv
    | with_reducible apply Dev.raise_inv
    | with_reducible apply Dev.counterNotice_inv
    | with_reducible apply Dev.acceptNew_inv
    | with_reducible apply Dev.contact_inv
    | with_reducible apply Dev.ackSend_inv
    | with_reducible apply Dev.free_inv
    | with_reducible apply Dev.verified_inv
    | with_reducible apply Dev.submitVerify_inv
    | (intro x; refine keep_have x ?_ ?_ <;> first | (show x.inv; unfold x) | (intro _; clear_value x))
    | (intro x; refine keep_have1 x ?_ ?_ <;> first | (show x.1.inv; unfold x) | (intro _; clear_value x))
    | (intro x; refine keep_have2 x ?_ ?_ <;> first | (show x.2.inv; unfold x) | (intro _; clear_value x))
    | (intro x; refine keep_haveD x ?_ ?_ <;> first | (show ∀ d : Dev, d.inv → (x d).inv; unfold x; intro _ _) | (intro hfD; clear_value x))
    | (intro x; refine keep_haveG x ?_ ?_ <;> first | (show ∀ (d : Dev) a, d.inv → (x d a).inv; unfold x; intro _ _ _) | (intro hfG; clear_value x))
    | (intro x; refine keep_haveG1 x ?_ ?_ <;> first | (show ∀ (d : Dev) a, d.inv → (x d a).1.inv; unfold x; intro _ _ _) | (intro hfP; clear_value x))
    | (intro x; refine keep_haveF x ?_ ?_ <;> first | (show ∀ a, (x a).inv; unfold x; intro _) | (intro hfF; clear_value x))
    | with_reducible apply hfD
    | with_reducible apply hfG
    | with_reducible apply hfP
    | with_reducible apply hfF
    | (intro x; clear_value x)
    | intro _
    | lift_lets
    | simp only [keep_mk]
    | split
    | dsimp only

theorem Dev.unknownFrame_inv (d : Dev) (p : Nat) (x : RxFrame) (h : Mhr) (late : Bool) (h1 : d.inv) :
    (Dev.unknownFrame d p x h late).inv := by
  unfold Dev.unknownFrame
  repeat' first
    | with_reducible assumption
    | with_reducible apply keep_ite
    | with_reducible apply keep_ite1
    | with_reducible apply Dev.bump_inv
    | with_reducible apply Dev.raise_inv
    | with_reducible apply Dev.ackSend_inv
    | with_reducible apply Dev.receivePost_inv
    | (intro x; refine keep_have x ?_ ?_ <;> first | (show x.inv; unfold x) | (intro _; clear_value x))
    | (intro x; refine keep_have1 x ?_ ?_ <;> first | (show x.1.inv; unfold x) | (intro _; clear_value x))
    | (intro x; clear_value x)
    | intro _
    | lift_lets
    | split
    | dsimp only

theorem Dev.visitorFrame_inv (d : Dev) (p : Nat) (r : Nat) (x : RxFrame) (h : Mhr) (late : Bool) (h1 : d.inv) :
    (Dev.visitorFrame d p r x h late).inv := by
  unfold Dev.visitorFrame
  repeat' first
    | with_reducible assumption
    | with_reducible apply keep_ite
    | with_reducible apply keep_ite1
    | with_reducible apply Dev.bump_inv
    | with_reducible apply Dev.raise_inv
    | with_reducible apply Dev.ackSend_inv
    | with_reducible apply Dev.fedForward_inv
    | (intro x; refine keep_have x ?_ ?_ <;> first | (show x.inv; unfold x) | (intro _; clear_value x))
    | (intro x; refine keep_have1 x ?_ ?_ <;> first | (show x.1.inv; unfold x) | (intro _; clear_value x))
    | (intro x; clear_value x)
    | intro _
    | lift_lets
    | split
    | dsimp only

theorem Dev.ackReceived_inv (d : Dev) (x : RxFrame) (h : Mhr) (h1 : d.inv) :
    (Dev.ackReceived d x h).inv := by
  unfold Dev.ackReceived
  repeat' first
    | with_reducible assumption
    | with_reducible apply keep_ite
    | with_reducible apply keep_ite1
    | with_reducible apply Dev.ackFrom_inv
    | with_reducible apply Dev.txAcked_inv
    | (intro x; refine keep_have x ?_ ?_ <;> first | (show x.inv; unfold x) | (intro _; clear_value x))
    | (intro x; refine keep_have1 x ?_ ?_ <;> first | (show x.1.inv; unfold x) | (intro _; clear_value x))
    | (intro x; clear_value x)
    | intro _
    | lift_lets
    | simp only [keep_mk]
    | split
    | dsimp only

theorem Dev.processFrame_inv (d : Dev) (p : Nat) (c : Completion) (x : RxFrame) (late : Bool) (h1 : d.inv) :
    (Dev.processFrame d p c x late).inv := by
  unfold Dev.processFrame
  repeat' first
    | with_reducible assumption
    | with_reducible apply keep_ite
    | with_reducible apply Dev.receivePost_inv
    | with_reducible apply Dev.bump_inv
    | with_reducible apply Dev.ackReceived_inv
    | with_reducible apply Dev.unknownFrame_inv
    | with_reducible apply Dev.visitorFrame_inv
    | with_reducible apply Dev.residentFrame_inv
    | intro _
    | simp only [keep_mk]
    | split
    | dsimp only

theorem Dev.popFifo_inv (d : Dev) (p : Nat) (c : Completion) (h1 : d.inv) :
    (Dev.popFifo d p c).inv := by
  unfold Dev.popFifo
  repeat' first
    | with_reducible assumption
    | with_reducible apply Dev.keepWindow_inv
    | with_reducible apply Dev.setFifo_inv
    | with_reducible apply Dev.freeStaging_inv
    | intro _
    | dsimp only

theorem Dev.checkpoint_inv (d : Dev) (p : Nat) (h1 : d.inv) :
    (Dev.checkpoint d p).inv := by
  unfold Dev.checkpoint
  repeat' first
    | with_reducible assumption
    | with_reducible apply keep_ite
    | with_reducible apply keep_ite1
    | (intro x; refine keep_have x ?_ ?_ <;> first | (show x.inv; unfold x) | (intro _; clear_value x))
    | (intro x; refine keep_have1 x ?_ ?_ <;> first | (show x.1.inv; unfold x) | (intro _; clear_value x))
    | (intro x; refine keep_haveD x ?_ ?_ <;> first | (show ∀ d : Dev, d.inv → (x d).inv; unfold x; intro _ _) | (intro hfD; clear_value x))
    | (intro x; refine keep_haveG x ?_ ?_ <;> first | (show ∀ (d : Dev) a, d.inv → (x d a).inv; unfold x; intro _ _ _) | (intro hfG; clear_value x))
    | (intro x; refine keep_haveG1 x ?_ ?_ <;> first | (show ∀ (d : Dev) a, d.inv → (x d a).1.inv; unfold x; intro _ _ _) | (intro hfP; clear_value x))
    | (intro x; refine keep_haveF x ?_ ?_ <;> first | (show ∀ a, (x a).inv; unfold x; intro _) | (intro hfF; clear_value x))
    | with_reducible apply hfD
    | with_reducible apply hfG
    | with_reducible apply hfP
    | with_reducible apply hfF
    | (intro x; clear_value x)
    | intro _
    | lift_lets
    | simp only [keep_mk]
    | split
    | dsimp only

theorem Dev.workItem_inv (d : Dev) (p : Nat) (c : Completion) (fault : PairFault) (h1 : d.inv) :
    (Dev.workItem d p c fault).inv := by
  unfold Dev.workItem
  repeat' first
    | with_reducible assumption
    | with_reducible apply keep_ite
    | with_reducible apply keep_ite1
    | with_reducible apply keep_ite2
    | with_reducible apply clear_inv
    | with_reducible apply Dev.popFifo_inv
    | with_reducible apply Dev.processFrame_inv
    | with_reducible apply Dev.fetch_inv
    | with_reducible apply Dev.bump_inv
    | (intro x; refine keep_have x ?_ ?_ <;> first | (show x.inv; unfold x) | (intro _; clear_value x))
    | (intro x; refine keep_have1 x ?_ ?_ <;> first | (show x.1.inv; unfold x) | (intro _; clear_value x))
    | (intro x; refine keep_have2 x ?_ ?_ <;> first | (show x.2.inv; unfold x) | (intro _; clear_value x))
    | (intro x; refine keep_haveD x ?_ ?_ <;> first | (show ∀ d : Dev, d.inv → (x d).inv; unfold x; intro _ _) | (intro hfD; clear_value x))
    | (intro x; refine keep_haveG x ?_ ?_ <;> first | (show ∀ (d : Dev) a, d.inv → (x d a).inv; unfold x; intro _ _ _) | (intro hfG; clear_value x))
    | (intro x; refine keep_haveG1 x ?_ ?_ <;> first | (show ∀ (d : Dev) a, d.inv → (x d a).1.inv; unfold x; intro _ _ _) | (intro hfP; clear_value x))
    | (intro x; refine keep_haveF x ?_ ?_ <;> first | (show ∀ a, (x a).inv; unfold x; intro _) | (intro hfF; clear_value x))
    | with_reducible apply hfD
    | with_reducible apply hfG
    | with_reducible apply hfP
    | with_reducible apply hfF
    | (intro x; clear_value x)
    | intro _
    | lift_lets
    | simp only [keep_mk]
    | split
    | dsimp only

theorem tempoWorkItem_inv (p : Nat) (fault : PairFault) (d : Dev) (h1 : d.inv) :
    (tempoWorkItem p fault d).inv := by
  unfold tempoWorkItem
  repeat' first
    | with_reducible assumption
    | with_reducible apply keep_ite
    | with_reducible apply keep_ite1
    | with_reducible apply Dev.popFifo_inv
    | with_reducible apply Dev.bump_inv
    | with_reducible apply Dev.workItem_inv
    | with_reducible apply Dev.checkpoint_inv
    | with_reducible apply Dev.settle_inv
    | (intro x; refine keep_have x ?_ ?_ <;> first | (show x.inv; unfold x) | (intro _; clear_value x))
    | (intro x; refine keep_have1 x ?_ ?_ <;> first | (show x.1.inv; unfold x) | (intro _; clear_value x))
    | (intro x; clear_value x)
    | intro _
    | lift_lets
    | simp only [keep_mk]
    | split
    | dsimp only

theorem Dev.visitorAt_inv (d : Dev) (s : Nat) (m : Nat) (bs : List Byte) (h1 : d.inv) :
    (Dev.visitorAt d s m bs).inv := by
  unfold Dev.visitorAt
  repeat' first
    | with_reducible assumption
    | with_reducible apply keep_ite
    | with_reducible apply keep_ite1
    | with_reducible apply Dev.bump_inv
    | with_reducible apply Dev.residentFrame_inv
    | (intro x; refine keep_have x ?_ ?_ <;> first | (show x.inv; unfold x) | (intro _; clear_value x))
    | (intro x; refine keep_have1 x ?_ ?_ <;> first | (show x.1.inv; unfold x) | (intro _; clear_value x))
    | (intro x; clear_value x)
    | intro _
    | lift_lets
    | simp only [keep_mk]
    | split
    | dsimp only

theorem Dev.inboxNext_inv (d : Dev) (s : Nat) (y0 : Nat) (h1 : d.inv) :
    (Dev.inboxNext d s y0).inv := by
  induction y0 generalizing d s with
  | zero =>
    (first | rw [Dev.inboxNext] | unfold Dev.inboxNext)
    repeat' first
      | with_reducible assumption
      | with_reducible apply keep_ite
      | with_reducible apply Dev.visitorAt_inv
      | intro _
      | simp only [keep_mk]
      | split
      | dsimp only
  | succ _ ih =>
    (first | rw [Dev.inboxNext] | unfold Dev.inboxNext)
    repeat' first
      | with_reducible assumption
      | with_reducible apply ih
      | with_reducible apply keep_ite
      | with_reducible apply Dev.visitorAt_inv
      | intro _
      | simp only [keep_mk]
      | split
      | dsimp only

theorem verifyResult_inv (req : Nat) (d : Dev) (h1 : d.inv) :
    (verifyResult req d).inv := by
  unfold verifyResult
  repeat' first
    | with_reducible assumption
    | with_reducible apply Dev.dropResult_inv
    | with_reducible apply Dev.verified_inv
    | with_reducible apply Dev.inboxNext_inv
    | with_reducible apply Dev.checkpoint_inv
    | with_reducible apply Dev.settle_inv
    | (intro x; refine keep_have x ?_ ?_ <;> first | (show x.inv; unfold x) | (intro _; clear_value x))
    | (intro x; refine keep_have1 x ?_ ?_ <;> first | (show x.1.inv; unfold x) | (intro _; clear_value x))
    | (intro x; clear_value x)
    | intro _
    | lift_lets
    | simp only [keep_mk]
    | split
    | dsimp only

theorem ackDeadlineMissed_inv (req : Nat) (d : Dev) (h1 : d.inv) :
    (ackDeadlineMissed req d).inv := by
  unfold ackDeadlineMissed
  repeat' first
    | with_reducible assumption
    | with_reducible apply keep_ite
    | with_reducible apply keep_ite1
    | with_reducible apply Dev.bump_inv
    | with_reducible apply Dev.txLate_inv
    | (intro x; refine keep_have x ?_ ?_ <;> first | (show x.inv; unfold x) | (intro _; clear_value x))
    | (intro x; refine keep_have1 x ?_ ?_ <;> first | (show x.1.inv; unfold x) | (intro _; clear_value x))
    | (intro x; refine keep_haveD x ?_ ?_ <;> first | (show ∀ d : Dev, d.inv → (x d).inv; unfold x; intro _ _) | (intro hfD; clear_value x))
    | (intro x; refine keep_haveG x ?_ ?_ <;> first | (show ∀ (d : Dev) a, d.inv → (x d a).inv; unfold x; intro _ _ _) | (intro hfG; clear_value x))
    | (intro x; refine keep_haveG1 x ?_ ?_ <;> first | (show ∀ (d : Dev) a, d.inv → (x d a).1.inv; unfold x; intro _ _ _) | (intro hfP; clear_value x))
    | (intro x; refine keep_haveF x ?_ ?_ <;> first | (show ∀ a, (x a).inv; unfold x; intro _) | (intro hfF; clear_value x))
    | with_reducible apply hfD
    | with_reducible apply hfG
    | with_reducible apply hfP
    | with_reducible apply hfF
    | (intro x; clear_value x)
    | intro _
    | lift_lets
    | simp only [keep_mk]
    | split
    | dsimp only

theorem Dev.pairStatus_inv (d : Dev) (h1 : d.inv) :
    (Dev.pairStatus d).inv := by
  unfold Dev.pairStatus
  repeat' first
    | with_reducible assumption
    | with_reducible apply keep_ite
    | with_reducible apply keep_ite1
    | with_reducible apply Dev.wr_inv
    | with_reducible refine keep_foldl (fun d x hd => ?_) ?_
    | with_reducible refine keep_foldl1 (fun d x hd => ?_) ?_
    | (intro x; refine keep_have x ?_ ?_ <;> first | (show x.inv; unfold x) | (intro _; clear_value x))
    | (intro x; refine keep_have1 x ?_ ?_ <;> first | (show x.1.inv; unfold x) | (intro _; clear_value x))
    | (intro x; refine keep_haveD x ?_ ?_ <;> first | (show ∀ d : Dev, d.inv → (x d).inv; unfold x; intro _ _) | (intro hfD; clear_value x))
    | (intro x; refine keep_haveG x ?_ ?_ <;> first | (show ∀ (d : Dev) a, d.inv → (x d a).inv; unfold x; intro _ _ _) | (intro hfG; clear_value x))
    | (intro x; refine keep_haveG1 x ?_ ?_ <;> first | (show ∀ (d : Dev) a, d.inv → (x d a).1.inv; unfold x; intro _ _ _) | (intro hfP; clear_value x))
    | (intro x; refine keep_haveF x ?_ ?_ <;> first | (show ∀ a, (x a).inv; unfold x; intro _) | (intro hfF; clear_value x))
    | with_reducible apply hfD
    | with_reducible apply hfG
    | with_reducible apply hfP
    | with_reducible apply hfF
    | (intro x; clear_value x)
    | intro _
    | lift_lets
    | split
    | dsimp only

theorem Dev.takeOver_inv (d : Dev) (p : Nat) (h1 : d.inv) :
    (Dev.takeOver d p).inv := by
  unfold Dev.takeOver
  repeat' first
    | with_reducible assumption
    | with_reducible apply Dev.setReg_inv
    | (intro x; refine keep_have x ?_ ?_ <;> first | (show x.inv; unfold x) | (intro _; clear_value x))
    | (intro x; refine keep_have1 x ?_ ?_ <;> first | (show x.1.inv; unfold x) | (intro _; clear_value x))
    | (intro x; refine keep_haveD x ?_ ?_ <;> first | (show ∀ d : Dev, d.inv → (x d).inv; unfold x; intro _ _) | (intro hfD; clear_value x))
    | (intro x; refine keep_haveG x ?_ ?_ <;> first | (show ∀ (d : Dev) a, d.inv → (x d a).inv; unfold x; intro _ _ _) | (intro hfG; clear_value x))
    | (intro x; refine keep_haveG1 x ?_ ?_ <;> first | (show ∀ (d : Dev) a, d.inv → (x d a).1.inv; unfold x; intro _ _ _) | (intro hfP; clear_value x))
    | (intro x; refine keep_haveF x ?_ ?_ <;> first | (show ∀ a, (x a).inv; unfold x; intro _) | (intro hfF; clear_value x))
    | with_reducible apply hfD
    | with_reducible apply hfG
    | with_reducible apply hfP
    | with_reducible apply hfF
    | (intro x; clear_value x)
    | intro _
    | lift_lets
    | simp only [keep_mk]
    | dsimp only

theorem Dev.handBack_inv (d : Dev) (h1 : d.inv) :
    (Dev.handBack d).inv := by
  unfold Dev.handBack
  repeat' first
    | with_reducible assumption
    | intro _
    | simp only [keep_mk]
    | dsimp only

theorem Dev.transmitEnds_inv (d : Dev) (h1 : d.inv) :
    (Dev.transmitEnds d).inv := by
  unfold Dev.transmitEnds
  repeat' first
    | with_reducible assumption
    | with_reducible apply keep_ite
    | with_reducible apply Dev.ackNoChain_inv
    | with_reducible apply Dev.txRefuse_inv
    | with_reducible refine keep_foldl (fun d x hd => ?_) ?_
    | with_reducible refine keep_foldl1 (fun d x hd => ?_) ?_
    | intro _
    | simp only [keep_mk]
    | split
    | dsimp only

theorem Dev.retirePair_inv (d : Dev) (p : Nat) (h1 : d.inv) :
    (Dev.retirePair d p).inv := by
  unfold Dev.retirePair
  repeat' first
    | with_reducible assumption
    | with_reducible apply keep_ite
    | with_reducible apply keep_ite1
    | with_reducible apply Dev.done_inv
    | with_reducible apply Dev.takeOver_inv
    | with_reducible apply Dev.handBack_inv
    | with_reducible apply Dev.permanent_inv
    | with_reducible apply Dev.pairStatus_inv
    | with_reducible apply Dev.raise_inv
    | with_reducible apply Dev.transmitEnds_inv
    | with_reducible apply Dev.settle_inv
    | (intro x; refine keep_have x ?_ ?_ <;> first | (show x.inv; unfold x) | (intro _; clear_value x))
    | (intro x; refine keep_have1 x ?_ ?_ <;> first | (show x.1.inv; unfold x) | (intro _; clear_value x))
    | (intro x; clear_value x)
    | intro _
    | lift_lets
    | simp only [keep_mk]
    | split
    | dsimp only

theorem Dev.mismatch_inv (d : Dev) (p : Nat) (h1 : d.inv) :
    (Dev.mismatch d p).inv := by
  unfold Dev.mismatch
  repeat' first
    | with_reducible assumption
    | with_reducible apply keep_ite
    | with_reducible apply keep_ite1
    | with_reducible apply Dev.bump_inv
    | with_reducible apply Dev.wr_inv
    | with_reducible apply Dev.raise_inv
    | with_reducible apply Dev.retirePair_inv
    | (intro x; refine keep_have x ?_ ?_ <;> first | (show x.inv; unfold x) | (intro _; clear_value x))
    | (intro x; refine keep_have1 x ?_ ?_ <;> first | (show x.1.inv; unfold x) | (intro _; clear_value x))
    | (intro x; refine keep_haveD x ?_ ?_ <;> first | (show ∀ d : Dev, d.inv → (x d).inv; unfold x; intro _ _) | (intro hfD; clear_value x))
    | (intro x; refine keep_haveG x ?_ ?_ <;> first | (show ∀ (d : Dev) a, d.inv → (x d a).inv; unfold x; intro _ _ _) | (intro hfG; clear_value x))
    | (intro x; refine keep_haveG1 x ?_ ?_ <;> first | (show ∀ (d : Dev) a, d.inv → (x d a).1.inv; unfold x; intro _ _ _) | (intro hfP; clear_value x))
    | (intro x; refine keep_haveF x ?_ ?_ <;> first | (show ∀ a, (x a).inv; unfold x; intro _) | (intro hfF; clear_value x))
    | with_reducible apply hfD
    | with_reducible apply hfG
    | with_reducible apply hfP
    | with_reducible apply hfF
    | (intro x; clear_value x)
    | intro _
    | lift_lets
    | simp only [keep_mk]
    | split
    | dsimp only

theorem lockstepMismatch_inv (p : Nat) (item : LockItem) (d : Dev) (h1 : d.inv) :
    (lockstepMismatch p item d).inv := by
  unfold lockstepMismatch
  repeat' first
    | with_reducible assumption
    | with_reducible apply keep_ite
    | with_reducible apply keep_ite1
    | with_reducible apply Dev.dropFrame_inv
    | with_reducible apply Dev.ackLockstep_inv
    | with_reducible apply Dev.mismatch_inv
    | (intro x; refine keep_have x ?_ ?_ <;> first | (show x.inv; unfold x) | (intro _; clear_value x))
    | (intro x; refine keep_have1 x ?_ ?_ <;> first | (show x.1.inv; unfold x) | (intro _; clear_value x))
    | (intro x; refine keep_haveD x ?_ ?_ <;> first | (show ∀ d : Dev, d.inv → (x d).inv; unfold x; intro _ _) | (intro hfD; clear_value x))
    | (intro x; refine keep_haveG x ?_ ?_ <;> first | (show ∀ (d : Dev) a, d.inv → (x d a).inv; unfold x; intro _ _ _) | (intro hfG; clear_value x))
    | (intro x; refine keep_haveG1 x ?_ ?_ <;> first | (show ∀ (d : Dev) a, d.inv → (x d a).1.inv; unfold x; intro _ _ _) | (intro hfP; clear_value x))
    | (intro x; refine keep_haveF x ?_ ?_ <;> first | (show ∀ a, (x a).inv; unfold x; intro _) | (intro hfF; clear_value x))
    | with_reducible apply hfD
    | with_reducible apply hfG
    | with_reducible apply hfP
    | with_reducible apply hfF
    | (intro x; clear_value x)
    | intro _
    | lift_lets
    | simp only [keep_mk]
    | split
    | dsimp only

theorem tp4SelfTest_inv (good : Bool) (d : Dev) (h1 : d.inv) :
    (tp4SelfTest good d).inv := by
  unfold tp4SelfTest
  repeat' first
    | with_reducible assumption
    | with_reducible apply keep_ite
    | with_reducible apply Dev.mismatch_inv
    | with_reducible apply Dev.retirePair_inv
    | intro _
    | split
    | dsimp only

theorem Dev.slotSend_inv (d : Dev) (f : TxFrame) (h1 : d.inv) :
    (Dev.slotSend d f).inv := by
  unfold Dev.slotSend
  repeat' first
    | with_reducible assumption
    | with_reducible apply keep_ite
    | with_reducible apply keep_ite1
    | with_reducible apply Dev.takeInput_inv
    | with_reducible apply Dev.setFrame_inv
    | with_reducible apply Dev.secureFrame_inv
    | (intro x; refine keep_have x ?_ ?_ <;> first | (show x.inv; unfold x) | (intro _; clear_value x))
    | (intro x; refine keep_have1 x ?_ ?_ <;> first | (show x.1.inv; unfold x) | (intro _; clear_value x))
    | (intro x; clear_value x)
    | intro _
    | lift_lets
    | simp only [keep_mk]
    | split
    | dsimp only

theorem slotOccurrence_inv (m : Nat) (d : Dev) (h1 : d.inv) :
    (slotOccurrence m d).inv := by
  unfold slotOccurrence
  repeat' first
    | with_reducible assumption
    | with_reducible apply keep_ite
    | with_reducible apply keep_ite1
    | with_reducible apply Dev.raise_inv
    | with_reducible apply Dev.setSlotRun_inv
    | with_reducible apply Dev.bump_inv
    | with_reducible apply Dev.settle_inv
    | with_reducible apply start_inv
    | with_reducible apply Dev.slotSend_inv
    | (intro x; refine keep_have x ?_ ?_ <;> first | (show x.inv; unfold x) | (intro _; clear_value x))
    | (intro x; refine keep_have1 x ?_ ?_ <;> first | (show x.1.inv; unfold x) | (intro _; clear_value x))
    | (intro x; clear_value x)
    | intro _
    | lift_lets
    | simp only [keep_mk]
    | split
    | dsimp only

theorem slotWindowClose_inv (m : Nat) (d : Dev) (h1 : d.inv) :
    (slotWindowClose m d).inv := by
  unfold slotWindowClose
  repeat' first
    | with_reducible assumption
    | with_reducible apply Dev.setSlotRun_inv
    | with_reducible apply Dev.raise_inv
    | with_reducible apply Dev.settle_inv
    | intro _
    | simp only [keep_mk]
    | split
    | dsimp only

theorem Dev.tschApply_inv (d : Dev) (x : Nat × Nat) (h1 : d.inv) :
    (Dev.tschApply d x).inv := by
  unfold Dev.tschApply
  repeat' first
    | with_reducible assumption
    | intro _
    | simp only [keep_mk]
    | dsimp only

theorem Dev.cellSkip_inv (d : Dev) (c : Nat) (h1 : d.inv) :
    (Dev.cellSkip d c).inv := by
  unfold Dev.cellSkip
  repeat' first
    | with_reducible assumption
    | with_reducible apply keep_ite
    | with_reducible apply keep_ite1
    | (intro x; refine keep_have x ?_ ?_ <;> first | (show x.inv; unfold x) | (intro _; clear_value x))
    | (intro x; refine keep_have1 x ?_ ?_ <;> first | (show x.1.inv; unfold x) | (intro _; clear_value x))
    | (intro x; clear_value x)
    | intro _
    | lift_lets
    | simp only [keep_mk]
    | split
    | dsimp only

theorem Dev.cellServe_inv (d : Dev) (c : Nat) (a : Nat) (f : TxFrame) (h1 : d.inv) :
    (Dev.cellServe d c a f).inv := by
  unfold Dev.cellServe
  repeat' first
    | with_reducible assumption
    | with_reducible apply keep_ite
    | with_reducible apply keep_ite1
    | with_reducible apply start_inv
    | with_reducible apply Dev.slotSend_inv
    | (intro x; refine keep_have x ?_ ?_ <;> first | (show x.inv; unfold x) | (intro _; clear_value x))
    | (intro x; refine keep_have1 x ?_ ?_ <;> first | (show x.1.inv; unfold x) | (intro _; clear_value x))
    | (intro x; clear_value x)
    | intro _
    | lift_lets
    | simp only [keep_mk]
    | split
    | dsimp only

theorem Dev.cellsServe_inv (d : Dev) (a : Nat) (y0 : List Nat) (y1 : Nat) (y2 : List Nat) (h1 : d.inv) :
    (Dev.cellsServe d a y0 y1 y2).inv := by
  induction y0 generalizing d y1 y2 with
  | nil => cases y1 <;> (rw [Dev.cellsServe]; exact h1)
  | cons c cs ih =>
    cases y1 with
    | zero => rw [Dev.cellsServe]; exact h1
    | succ k =>
      rw [Dev.cellsServe]
      split
      · exact ih _ _ _ h1
      · split
        · exact ih _ _ _ (Dev.cellServe_inv _ _ _ _ h1)
        · exact ih _ _ _ (Dev.cellSkip_inv _ _ h1)

theorem tschTimeslot_inv (d : Dev) (h1 : d.inv) :
    (tschTimeslot d).inv := by
  unfold tschTimeslot
  repeat' first
    | with_reducible assumption
    | with_reducible apply keep_ite
    | with_reducible apply keep_ite1
    | with_reducible apply Dev.tschApply_inv
    | with_reducible apply Dev.wr_inv
    | with_reducible apply Dev.raise_inv
    | with_reducible apply Dev.cellsServe_inv
    | with_reducible apply Dev.settle_inv
    | (intro x; refine keep_have x ?_ ?_ <;> first | (show x.inv; unfold x) | (intro _; clear_value x))
    | (intro x; refine keep_have1 x ?_ ?_ <;> first | (show x.1.inv; unfold x) | (intro _; clear_value x))
    | (intro x; clear_value x)
    | intro _
    | lift_lets
    | simp only [keep_mk]
    | split
    | dsimp only

theorem lnkTschT0HiWrite_inv (who : Initiator) (w : Word) (d : Dev) (h1 : d.inv) :
    (lnkTschT0HiWrite who w d).inv := by
  unfold lnkTschT0HiWrite
  repeat' first
    | with_reducible assumption
    | with_reducible apply keep_ite
    | with_reducible apply keep_ite1
    | with_reducible apply Dev.plainWrite_inv
    | with_reducible apply Dev.tschApply_inv
    | (intro x; refine keep_have x ?_ ?_ <;> first | (show x.inv; unfold x) | (intro _; clear_value x))
    | (intro x; refine keep_have1 x ?_ ?_ <;> first | (show x.1.inv; unfold x) | (intro _; clear_value x))
    | (intro x; clear_value x)
    | intro _
    | lift_lets
    | simp only [keep_mk]
    | split
    | dsimp only

theorem lnkTschCtrlWrite_inv (who : Initiator) (w : Word) (d : Dev) (h1 : d.inv) :
    (lnkTschCtrlWrite who w d).inv := by
  unfold lnkTschCtrlWrite
  repeat' first
    | with_reducible assumption
    | with_reducible apply keep_ite
    | with_reducible apply keep_ite1
    | with_reducible apply Dev.rejectWrite_inv
    | with_reducible apply Dev.plainWrite_inv
    | (intro x; refine keep_have x ?_ ?_ <;> first | (show x.inv; unfold x) | (intro _; clear_value x))
    | (intro x; refine keep_have1 x ?_ ?_ <;> first | (show x.1.inv; unfold x) | (intro _; clear_value x))
    | (intro x; clear_value x)
    | intro _
    | lift_lets
    | split
    | dsimp only

theorem relayRetry_inv (id : Nat) (d : Dev) (h1 : d.inv) :
    (relayRetry id d).inv := by
  unfold relayRetry
  repeat' first
    | with_reducible assumption
    | with_reducible apply keep_ite
    | with_reducible apply retryAttempt_inv
    | intro _
    | simp only [keep_mk]
    | split
    | dsimp only

end Sys2Proof.Machine
end

