-- ==== Sys2Proof/Laws/KeepFedRun.lean ====
section
/-! SUPPORT. Every operation of Machine/FedRun.lean keeps the invariant. -/

namespace Sys2Proof.Machine

open Sys2Proof

theorem Dev.setFed_inv (d : Dev) (f : Fed) (h1 : d.inv) :
    (Dev.setFed d f).inv := by
  unfold Dev.setFed
  repeat' first
    | with_reducible assumption
    | intro _
    | simp only [keep_mk]
    | dsimp only

theorem Dev.ownEntry_inv (d : Dev) (st : Nat) (h1 : d.inv) :
    (Dev.ownEntry d st).inv := by
  unfold Dev.ownEntry
  repeat' first
    | with_reducible assumption
    | with_reducible apply Dev.setMember_inv
    | with_reducible apply Dev.setLe_inv
    | (intro x; refine keep_have x ?_ ?_ <;> first | (show x.inv; unfold x) | (intro _; clear_value x))
    | (intro x; refine keep_have1 x ?_ ?_ <;> first | (show x.1.inv; unfold x) | (intro _; clear_value x))
    | (intro x; clear_value x)
    | intro _
    | lift_lets
    | dsimp only

theorem Dev.setDigestRegs_inv (d : Dev) (g : List Byte) (h1 : d.inv) :
    (Dev.setDigestRegs d g).inv := by
  unfold Dev.setDigestRegs
  repeat' first
    | with_reducible assumption
    | with_reducible apply Dev.setReg_inv
    | with_reducible refine keep_foldl (fun d x hd => ?_) ?_
    | with_reducible refine keep_foldl1 (fun d x hd => ?_) ?_
    | intro _
    | dsimp only

theorem Dev.challenge_inv (d : Dev) (m : Nat) (h1 : d.inv) :
    (Dev.challenge d m).inv := by
  unfold Dev.challenge
  repeat' first
    | with_reducible assumption
    | with_reducible apply keep_ite
    | with_reducible apply keep_ite1
    | with_reducible apply keep_ite2
    | with_reducible apply Dev.free_inv
    | with_reducible apply Dev.setPeer_inv
    | with_reducible apply Dev.fedSend_inv
    | (intro x; refine keep_have x ?_ ?_ <;> first | (show x.inv; unfold x) | (intro _; clear_value x))
    | (intro x; refine keep_have1 x ?_ ?_ <;> first | (show x.1.inv; unfold x) | (intro _; clear_value x))
    | (intro x; refine keep_have2 x ?_ ?_ <;> first | (show x.2.inv; unfold x) | (intro _; clear_value x))
    | (intro x; clear_value x)
    | intro _
    | lift_lets
    | simp only [keep_mk]
    | split
    | dsimp only

theorem Dev.challengeDue_inv (d : Dev) (m : Nat) (h1 : d.inv) :
    (Dev.challengeDue d m).inv := by
  unfold Dev.challengeDue
  repeat' first
    | with_reducible assumption
    | with_reducible apply keep_ite
    | with_reducible apply Dev.challenge_inv
    | intro _
    | split
    | dsimp only

theorem Dev.sendReport_inv (d : Dev) (h1 : d.inv) :
    (Dev.sendReport d).inv := by
  unfold Dev.sendReport
  repeat' first
    | with_reducible assumption
    | with_reducible apply keep_ite
    | with_reducible apply keep_ite1
    | with_reducible apply keep_ite2
    | with_reducible apply Dev.free_inv
    | with_reducible apply Dev.fedSend_inv
    | (intro x; refine keep_have x ?_ ?_ <;> first | (show x.inv; unfold x) | (intro _; clear_value x))
    | (intro x; refine keep_have1 x ?_ ?_ <;> first | (show x.1.inv; unfold x) | (intro _; clear_value x))
    | (intro x; refine keep_have2 x ?_ ?_ <;> first | (show x.2.inv; unfold x) | (intro _; clear_value x))
    | (intro x; clear_value x)
    | intro _
    | lift_lets
    | split
    | dsimp only

theorem Dev.fedAdvance_inv (d : Dev) (h1 : d.inv) :
    (Dev.fedAdvance d).inv := by
  unfold Dev.fedAdvance
  repeat' first
    | with_reducible assumption
    | with_reducible apply keep_ite
    | with_reducible apply keep_ite1
    | with_reducible apply Dev.setFedState_inv
    | with_reducible apply Dev.challenge_inv
    | with_reducible refine keep_foldl (fun d x hd => ?_) ?_
    | with_reducible refine keep_foldl1 (fun d x hd => ?_) ?_
    | (intro x; refine keep_have x ?_ ?_ <;> first | (show x.inv; unfold x) | (intro _; clear_value x))
    | (intro x; refine keep_have1 x ?_ ?_ <;> first | (show x.1.inv; unfold x) | (intro _; clear_value x))
    | (intro x; clear_value x)
    | intro _
    | lift_lets
    | split
    | dsimp only

theorem Dev.bmNote_inv (d : Dev) (h : BmHdr) (h1 : d.inv) :
    (Dev.bmNote d h).inv := by
  unfold Dev.bmNote
  repeat' first
    | with_reducible assumption
    | with_reducible apply keep_ite
    | with_reducible apply keep_ite1
    | with_reducible apply Dev.setPeer_inv
    | with_reducible apply Dev.setLe_inv
    | with_reducible apply Dev.setMember_inv
    | (intro x; refine keep_have x ?_ ?_ <;> first | (show x.inv; unfold x) | (intro _; clear_value x))
    | (intro x; refine keep_have1 x ?_ ?_ <;> first | (show x.1.inv; unfold x) | (intro _; clear_value x))
    | (intro x; clear_value x)
    | intro _
    | lift_lets
    | simp only [keep_mk]
    | split
    | dsimp only

theorem Dev.bmAccept_inv (d : Dev) (h : BmHdr) (k : BmKind) (format : Bool) (h1 : d.inv) :
    (Dev.bmAccept d h k format).1.inv := by
  unfold Dev.bmAccept
  repeat' first
    | with_reducible assumption
    | with_reducible apply keep_ite
    | with_reducible apply keep_ite1
    | with_reducible apply Dev.bump_inv
    | with_reducible apply Dev.fedRequest_inv
    | with_reducible apply Dev.raise_inv
    | with_reducible apply Dev.fedSend_inv
    | with_reducible apply Dev.bmNote_inv
    | with_reducible apply Dev.setMember_inv
    | with_reducible apply Dev.challengeDue_inv
    | (intro x; refine keep_have x ?_ ?_ <;> first | (show x.inv; unfold x) | (intro _; clear_value x))
    | (intro x; refine keep_have1 x ?_ ?_ <;> first | (show x.1.inv; unfold x) | (intro _; clear_value x))
    | (intro x; clear_value x)
    | intro _
    | lift_lets
    | split
    | dsimp only

theorem Dev.bmRun_inv (d : Dev) (h : BmHdr) (k : BmKind) (format : Bool) (f : Dev → Dev) (h1 : d.inv) (h2 : ∀ e : Dev, e.inv → (f e).inv) :
    (Dev.bmRun d h k format f).inv := by
  unfold Dev.bmRun
  repeat' first
    | with_reducible assumption
    | with_reducible apply h2
    | with_reducible apply keep_ite
    | with_reducible apply keep_ite1
    | with_reducible apply keep_ite2
    | with_reducible apply Dev.bmAccept_inv
    | with_reducible apply Dev.settle_inv
    | (intro x; refine keep_have x ?_ ?_ <;> first | (show x.inv; unfold x) | (intro _; clear_value x))
    | (intro x; refine keep_have1 x ?_ ?_ <;> first | (show x.1.inv; unfold x) | (intro _; clear_value x))
    | (intro x; refine keep_have2 x ?_ ?_ <;> first | (show x.2.inv; unfold x) | (intro _; clear_value x))
    | (intro x; clear_value x)
    | intro _
    | lift_lets
    | split
    | dsimp only

theorem fedCtrlStart_inv (who : Initiator) (w : Word) (d : Dev) (h1 : d.inv) :
    (fedCtrlStart who w d).inv := by
  unfold fedCtrlStart
  repeat' first
    | with_reducible assumption
    | with_reducible apply keep_ite
    | with_reducible apply keep_ite1
    | with_reducible apply keep_ite2
    | with_reducible apply Dev.rsvd_inv
    | with_reducible apply Dev.free_inv
    | with_reducible apply Dev.setFed_inv
    | with_reducible apply Dev.wr_inv
    | with_reducible apply Dev.ownEntry_inv
    | with_reducible apply Dev.setFedState_inv
    | (intro x; refine keep_have x ?_ ?_ <;> first | (show x.inv; unfold x) | (intro _; clear_value x))
    | (intro x; refine keep_have1 x ?_ ?_ <;> first | (show x.1.inv; unfold x) | (intro _; clear_value x))
    | (intro x; refine keep_have2 x ?_ ?_ <;> first | (show x.2.inv; unfold x) | (intro _; clear_value x))
    | (intro x; clear_value x)
    | intro _
    | lift_lets
    | simp only [keep_mk]
    | split
    | dsimp only

theorem fedCfgWrite_inv (who : Initiator) (w : Word) (d : Dev) (h1 : d.inv) :
    (fedCfgWrite who w d).inv := by
  unfold fedCfgWrite
  repeat' first
    | with_reducible assumption
    | with_reducible apply keep_ite
    | with_reducible apply Dev.refuseWrite_inv
    | with_reducible apply Dev.plainWrite_inv
    | with_reducible apply Dev.gateStandalone_inv
    | intro _
    | split
    | dsimp only

theorem portLink_inv (p : Nat) (up : Bool) (d : Dev) (h1 : d.inv) :
    (portLink p up d).inv := by
  unfold portLink
  repeat' first
    | with_reducible assumption
    | intro _
    | simp only [keep_mk]
    | dsimp only

theorem helloTimer_inv (d : Dev) (h1 : d.inv) :
    (helloTimer d).inv := by
  unfold helloTimer
  repeat' first
    | with_reducible assumption
    | with_reducible apply keep_ite
    | with_reducible apply keep_ite1
    | with_reducible apply Dev.setFedState_inv
    | with_reducible apply Dev.fedSend_inv
    | with_reducible apply Dev.sendReport_inv
    | (intro x; refine keep_have x ?_ ?_ <;> first | (show x.inv; unfold x) | (intro _; clear_value x))
    | (intro x; refine keep_have1 x ?_ ?_ <;> first | (show x.1.inv; unfold x) | (intro _; clear_value x))
    | (intro x; clear_value x)
    | intro _
    | lift_lets
    | split
    | dsimp only

theorem Dev.sendCandidate_inv (d : Dev) (h1 : d.inv) :
    (Dev.sendCandidate d).inv := by
  unfold Dev.sendCandidate
  repeat' first
    | with_reducible assumption
    | with_reducible apply Dev.fedSend_inv
    | (intro x; refine keep_have x ?_ ?_ <;> first | (show x.inv; unfold x) | (intro _; clear_value x))
    | (intro x; refine keep_have1 x ?_ ?_ <;> first | (show x.1.inv; unfold x) | (intro _; clear_value x))
    | (intro x; clear_value x)
    | intro _
    | lift_lets
    | dsimp only

theorem Dev.startElection_inv (d : Dev) (h1 : d.inv) :
    (Dev.startElection d).inv := by
  unfold Dev.startElection
  repeat' first
    | with_reducible assumption
    | with_reducible apply Dev.setFed_inv
    | with_reducible apply Dev.sendCandidate_inv
    | (intro x; refine keep_have x ?_ ?_ <;> first | (show x.inv; unfold x) | (intro _; clear_value x))
    | (intro x; refine keep_have1 x ?_ ?_ <;> first | (show x.1.inv; unfold x) | (intro _; clear_value x))
    | (intro x; refine keep_have2 x ?_ ?_ <;> first | (show x.2.inv; unfold x) | (intro _; clear_value x))
    | (intro x; clear_value x)
    | intro _
    | lift_lets
    | simp only [keep_mk]
    | dsimp only

theorem discoveryClose_inv (d : Dev) (h1 : d.inv) :
    (discoveryClose d).inv := by
  unfold discoveryClose
  repeat' first
    | with_reducible assumption
    | with_reducible apply keep_ite
    | with_reducible apply Dev.setFedState_inv
    | with_reducible apply Dev.startElection_inv
    | intro _
    | split
    | dsimp only

theorem Dev.enterQuarantine_inv (d : Dev) (st : Nat) (h1 : d.inv) :
    (Dev.enterQuarantine d st).inv := by
  unfold Dev.enterQuarantine
  repeat' first
    | with_reducible assumption
    | with_reducible apply keep_ite
    | with_reducible apply Dev.quarantine_inv
    | with_reducible apply Dev.setMemberState_inv
    | intro _
    | split
    | dsimp only

theorem Dev.conflict_inv (d : Dev) (m : Nat) (h1 : d.inv) :
    (Dev.conflict d m).inv := by
  unfold Dev.conflict
  repeat' first
    | with_reducible assumption
    | with_reducible apply keep_ite
    | with_reducible apply keep_ite1
    | with_reducible apply Dev.setMemberState_inv
    | with_reducible apply Dev.enterQuarantine_inv
    | (intro x; refine keep_have x ?_ ?_ <;> first | (show x.inv; unfold x) | (intro _; clear_value x))
    | (intro x; refine keep_have1 x ?_ ?_ <;> first | (show x.1.inv; unfold x) | (intro _; clear_value x))
    | (intro x; clear_value x)
    | intro _
    | lift_lets
    | split
    | dsimp only

theorem Dev.helloEntry_inv (d : Dev) (m : Nat) (eui : Nat) (version : Nat) (prio : Nat) (ports : Nat) (mac : Nat) (digest : Nat) (bytes : List Byte) (h1 : d.inv) :
    (Dev.helloEntry d m eui version prio ports mac digest bytes).inv := by
  unfold Dev.helloEntry
  repeat' first
    | with_reducible assumption
    | with_reducible apply keep_ite
    | with_reducible apply keep_ite1
    | with_reducible apply Dev.setMember_inv
    | with_reducible apply Dev.setLe_inv
    | with_reducible apply Dev.setPeer_inv
    | (intro x; refine keep_have x ?_ ?_ <;> first | (show x.inv; unfold x) | (intro _; clear_value x))
    | (intro x; refine keep_have1 x ?_ ?_ <;> first | (show x.1.inv; unfold x) | (intro _; clear_value x))
    | (intro x; clear_value x)
    | intro _
    | lift_lets
    | simp only [keep_mk]
    | split
    | dsimp only

theorem Dev.reportJoining_inv (d : Dev) (m : Nat) (h1 : d.inv) :
    (Dev.reportJoining d m).inv := by
  unfold Dev.reportJoining
  repeat' first
    | with_reducible assumption
    | with_reducible apply keep_ite
    | with_reducible apply keep_ite1
    | with_reducible apply keep_ite2
    | with_reducible apply Dev.freeOf_inv
    | with_reducible apply Dev.notice_inv
    | (intro x; refine keep_have x ?_ ?_ <;> first | (show x.inv; unfold x) | (intro _; clear_value x))
    | (intro x; refine keep_have1 x ?_ ?_ <;> first | (show x.1.inv; unfold x) | (intro _; clear_value x))
    | (intro x; refine keep_have2 x ?_ ?_ <;> first | (show x.2.inv; unfold x) | (intro _; clear_value x))
    | (intro x; clear_value x)
    | intro _
    | lift_lets
    | split
    | dsimp only

theorem Dev.helloFrom_inv (d : Dev) (h : BmHdr) (eui : Nat) (version : Nat) (prio : Nat) (digest : List Byte) (h1 : d.inv) :
    (Dev.helloFrom d h eui version prio digest).inv := by
  unfold Dev.helloFrom
  repeat' first
    | with_reducible assumption
    | with_reducible apply keep_ite
    | with_reducible apply keep_ite1
    | with_reducible apply Dev.setPeer_inv
    | with_reducible apply Dev.conflict_inv
    | with_reducible apply Dev.helloEntry_inv
    | with_reducible apply Dev.setMemberState_inv
    | with_reducible apply Dev.setMember_inv
    | with_reducible apply Dev.challengeDue_inv
    | with_reducible apply Dev.reportJoining_inv
    | (intro x; refine keep_have x ?_ ?_ <;> first | (show x.inv; unfold x) | (intro _; clear_value x))
    | (intro x; refine keep_have1 x ?_ ?_ <;> first | (show x.1.inv; unfold x) | (intro _; clear_value x))
    | (intro x; clear_value x)
    | intro _
    | lift_lets
    | simp only [keep_mk]
    | split
    | dsimp only

theorem Dev.candidateFrom_inv (d : Dev) (h : BmHdr) (group : Nat) (best : Nat) (bitmap : Nat) (h1 : d.inv) :
    (Dev.candidateFrom d h group best bitmap).inv := by
  unfold Dev.candidateFrom
  repeat' first
    | with_reducible assumption
    | with_reducible apply keep_ite
    | with_reducible apply keep_ite1
    | with_reducible apply Dev.setPeer_inv
    | with_reducible apply Dev.setFed_inv
    | with_reducible apply Dev.sendCandidate_inv
    | (intro x; refine keep_have x ?_ ?_ <;> first | (show x.inv; unfold x) | (intro _; clear_value x))
    | (intro x; refine keep_have1 x ?_ ?_ <;> first | (show x.1.inv; unfold x) | (intro _; clear_value x))
    | (intro x; clear_value x)
    | intro _
    | lift_lets
    | simp only [keep_mk]
    | split
    | dsimp only

theorem Dev.showRoles_inv (d : Dev) (h1 : d.inv) :
    (Dev.showRoles d).inv := by
  unfold Dev.showRoles
  repeat' first
    | with_reducible assumption
    | with_reducible apply keep_ite
    | with_reducible apply keep_ite1
    | with_reducible apply Dev.wr_inv
    | (intro x; refine keep_have x ?_ ?_ <;> first | (show x.inv; unfold x) | (intro _; clear_value x))
    | (intro x; refine keep_have1 x ?_ ?_ <;> first | (show x.1.inv; unfold x) | (intro _; clear_value x))
    | (intro x; clear_value x)
    | intro _
    | lift_lets
    | simp only [keep_mk]
    | split
    | dsimp only

theorem Dev.setCoord_inv (d : Dev) (g : Nat) (c : Nat) (h1 : d.inv) :
    (Dev.setCoord d g c).inv := by
  unfold Dev.setCoord
  repeat' first
    | with_reducible assumption
    | with_reducible apply keep_ite
    | with_reducible apply keep_ite1
    | with_reducible apply Dev.setMember_inv
    | with_reducible apply Dev.setFed_inv
    | with_reducible apply Dev.showRoles_inv
    | with_reducible refine keep_foldl (fun d x hd => ?_) ?_
    | with_reducible refine keep_foldl1 (fun d x hd => ?_) ?_
    | (intro x; refine keep_have x ?_ ?_ <;> first | (show x.inv; unfold x) | (intro _; clear_value x))
    | (intro x; refine keep_have1 x ?_ ?_ <;> first | (show x.1.inv; unfold x) | (intro _; clear_value x))
    | (intro x; clear_value x)
    | intro _
    | lift_lets
    | simp only [keep_mk]
    | split
    | dsimp only

theorem Dev.setLeader_inv (d : Dev) (l : Nat) (h1 : d.inv) :
    (Dev.setLeader d l).inv := by
  unfold Dev.setLeader
  repeat' first
    | with_reducible assumption
    | with_reducible apply keep_ite
    | with_reducible apply keep_ite1
    | with_reducible apply keep_ite2
    | with_reducible apply Dev.setFed_inv
    | with_reducible apply Dev.showRoles_inv
    | with_reducible apply Dev.setFedState_inv
    | with_reducible apply Dev.fedSend_inv
    | (intro x; refine keep_have x ?_ ?_ <;> first | (show x.inv; unfold x) | (intro _; clear_value x))
    | (intro x; refine keep_have1 x ?_ ?_ <;> first | (show x.1.inv; unfold x) | (intro _; clear_value x))
    | (intro x; refine keep_have2 x ?_ ?_ <;> first | (show x.2.inv; unfold x) | (intro _; clear_value x))
    | (intro x; clear_value x)
    | intro _
    | lift_lets
    | simp only [keep_mk]
    | split
    | dsimp only

theorem Dev.sendLeader_inv (d : Dev) (h1 : d.inv) :
    (Dev.sendLeader d).inv := by
  unfold Dev.sendLeader
  repeat' first
    | with_reducible assumption
    | with_reducible apply Dev.fedSend_inv
    | intro _
    | dsimp only

theorem Dev.becomeLeader_inv (d : Dev) (h1 : d.inv) :
    (Dev.becomeLeader d).inv := by
  unfold Dev.becomeLeader
  repeat' first
    | with_reducible assumption
    | with_reducible apply Dev.setLeader_inv
    | with_reducible apply Dev.wr_inv
    | with_reducible apply Dev.setFed_inv
    | with_reducible apply Dev.reportJoining_inv
    | with_reducible apply Dev.sendLeader_inv
    | with_reducible apply Dev.fedAdvance_inv
    | with_reducible refine keep_foldl (fun d x hd => ?_) ?_
    | with_reducible refine keep_foldl1 (fun d x hd => ?_) ?_
    | (intro x; refine keep_have x ?_ ?_ <;> first | (show x.inv; unfold x) | (intro _; clear_value x))
    | (intro x; refine keep_have1 x ?_ ?_ <;> first | (show x.1.inv; unfold x) | (intro _; clear_value x))
    | (intro x; clear_value x)
    | intro _
    | lift_lets
    | simp only [keep_mk]
    | dsimp only

theorem Dev.groupRound_inv (d : Dev) (h1 : d.inv) :
    (Dev.groupRound d).inv := by
  unfold Dev.groupRound
  repeat' first
    | with_reducible assumption
    | with_reducible apply keep_ite
    | with_reducible apply keep_ite1
    | with_reducible apply keep_ite2
    | with_reducible apply Dev.setCoord_inv
    | with_reducible apply Dev.sendReport_inv
    | with_reducible apply Dev.setFed_inv
    | with_reducible apply Dev.sendCandidate_inv
    | (intro x; refine keep_have x ?_ ?_ <;> first | (show x.inv; unfold x) | (intro _; clear_value x))
    | (intro x; refine keep_have1 x ?_ ?_ <;> first | (show x.1.inv; unfold x) | (intro _; clear_value x))
    | (intro x; refine keep_have2 x ?_ ?_ <;> first | (show x.2.inv; unfold x) | (intro _; clear_value x))
    | (intro x; clear_value x)
    | intro _
    | lift_lets
    | simp only [keep_mk]
    | split
    | dsimp only

theorem Dev.proposalEnd_inv (d : Dev) (status : Nat) (res : List Nat) (h1 : d.inv) :
    (Dev.proposalEnd d status res).inv := by
  unfold Dev.proposalEnd
  repeat' first
    | with_reducible assumption
    | with_reducible apply keep_ite
    | with_reducible apply keep_ite1
    | with_reducible apply Dev.setFed_inv
    | with_reducible apply Dev.setFedState_inv
    | with_reducible apply Dev.finishId_inv
    | (intro x; refine keep_have x ?_ ?_ <;> first | (show x.inv; unfold x) | (intro _; clear_value x))
    | (intro x; refine keep_have1 x ?_ ?_ <;> first | (show x.1.inv; unfold x) | (intro _; clear_value x))
    | (intro x; clear_value x)
    | intro _
    | lift_lets
    | simp only [keep_mk]
    | split
    | dsimp only

theorem Dev.abortAll_inv (d : Dev) (status : Nat) (h1 : d.inv) :
    (Dev.abortAll d status).inv := by
  unfold Dev.abortAll
  repeat' first
    | with_reducible assumption
    | with_reducible apply Dev.fedSend_inv
    | with_reducible apply Dev.proposalEnd_inv
    | intro _
    | simp only [keep_mk]
    | split
    | dsimp only

theorem Dev.setBuddies_inv (d : Dev) (b : Nat) (h1 : d.inv) :
    (Dev.setBuddies d b).inv := by
  unfold Dev.setBuddies
  repeat' first
    | with_reducible assumption
    | with_reducible apply Dev.nextStamp_inv
    | with_reducible apply Dev.setCx_inv
    | with_reducible apply Dev.putStamp_inv
    | with_reducible apply Dev.cxTouch_inv
    | with_reducible refine keep_foldl (fun d x hd => ?_) ?_
    | with_reducible refine keep_foldl1 (fun d x hd => ?_) ?_
    | (intro x; refine keep_have x ?_ ?_ <;> first | (show x.inv; unfold x) | (intro _; clear_value x))
    | (intro x; refine keep_have1 x ?_ ?_ <;> first | (show x.1.inv; unfold x) | (intro _; clear_value x))
    | (intro x; refine keep_have2 x ?_ ?_ <;> first | (show x.2.inv; unfold x) | (intro _; clear_value x))
    | (intro x; clear_value x)
    | intro _
    | lift_lets
    | dsimp only

theorem Dev.rebuddy_inv (d : Dev) (oldBuddy : Option Nat) (oldWard : Option Nat) (admitted : Bool) (h1 : d.inv) :
    (Dev.rebuddy d oldBuddy oldWard admitted).inv := by
  unfold Dev.rebuddy
  repeat' first
    | with_reducible assumption
    | with_reducible apply keep_ite
    | with_reducible apply keep_ite1
    | with_reducible apply Dev.clearMem_inv
    | with_reducible apply Dev.setBuddies_inv
    | with_reducible apply Dev.setFed_inv
    | with_reducible apply Dev.fetch_inv
    | with_reducible apply Dev.fedSend_inv
    | (intro x; refine keep_have x ?_ ?_ <;> first | (show x.inv; unfold x) | (intro _; clear_value x))
    | (intro x; refine keep_have1 x ?_ ?_ <;> first | (show x.1.inv; unfold x) | (intro _; clear_value x))
    | (intro x; clear_value x)
    | intro _
    | lift_lets
    | simp only [keep_mk]
    | split
    | dsimp only

theorem Dev.admitMember_inv (d : Dev) (old : List Record) (m : Nat) (h1 : d.inv) :
    (Dev.admitMember d old m).inv := by
  unfold Dev.admitMember
  repeat' first
    | with_reducible assumption
    | with_reducible apply keep_ite
    | with_reducible apply keep_ite1
    | with_reducible apply Dev.setMemberState_inv
    | with_reducible apply Dev.setMember_inv
    | with_reducible apply Dev.challengeDue_inv
    | (intro x; refine keep_have x ?_ ?_ <;> first | (show x.inv; unfold x) | (intro _; clear_value x))
    | (intro x; refine keep_have1 x ?_ ?_ <;> first | (show x.1.inv; unfold x) | (intro _; clear_value x))
    | (intro x; clear_value x)
    | intro _
    | lift_lets
    | simp only [keep_mk]
    | split
    | dsimp only

theorem Dev.applyEpoch_inv (d : Dev) (p : Proposal) (h1 : d.inv) :
    (Dev.applyEpoch d p).inv := by
  unfold Dev.applyEpoch
  extract_lets old oldBuddy oldWard admitted r a b c e f g q k
  have ha : a.inv := Dev.setFed_inv _ _ h1
  have hb : b.inv := Dev.setDigestRegs_inv _ _ (Dev.setReg_inv _ _ _ ha)
  have hc : c.inv := Dev.raise_inv _ _ hb
  have he : e.inv := keep_foldl (fun d x hd => Dev.admitMember_inv _ _ _ hd) hc
  have hf : f.inv := keep_ite (Dev.gateByEpoch_inv _ (Dev.setMemberState_inv _ _ _ (Dev.setFedState_inv _ _ he))) he
  have hg : g.inv := Dev.rebuddy_inv _ _ _ _ hf
  have hk : k.inv := by
    unfold k
    split
    · exact Dev.setFed_inv _ _ hg
    · exact hg
  exact Dev.proposalEnd_inv _ _ _ hk

theorem Dev.decideEpoch_inv (d : Dev) (h1 : d.inv) :
    (Dev.decideEpoch d).inv := by
  unfold Dev.decideEpoch
  repeat' first
    | with_reducible assumption
    | with_reducible apply keep_ite
    | with_reducible apply keep_ite1
    | with_reducible apply Dev.setFed_inv
    | with_reducible apply Dev.fedSend_inv
    | (intro x; refine keep_have x ?_ ?_ <;> first | (show x.inv; unfold x) | (intro _; clear_value x))
    | (intro x; refine keep_have1 x ?_ ?_ <;> first | (show x.1.inv; unfold x) | (intro _; clear_value x))
    | (intro x; clear_value x)
    | intro _
    | lift_lets
    | simp only [keep_mk]
    | split
    | dsimp only

theorem Dev.aggregate_inv (d : Dev) (h1 : d.inv) :
    (Dev.aggregate d).inv := by
  unfold Dev.aggregate
  repeat' first
    | with_reducible assumption
    | with_reducible apply keep_ite
    | with_reducible apply keep_ite1
    | with_reducible apply Dev.fedSend_inv
    | (intro x; refine keep_have x ?_ ?_ <;> first | (show x.inv; unfold x) | (intro _; clear_value x))
    | (intro x; refine keep_have1 x ?_ ?_ <;> first | (show x.1.inv; unfold x) | (intro _; clear_value x))
    | (intro x; refine keep_haveD x ?_ ?_ <;> first | (show ∀ d : Dev, d.inv → (x d).inv; unfold x; intro _ _) | (intro hfD; clear_value x))
    | (intro x; refine keep_haveG x ?_ ?_ <;> first | (show ∀ (d : Dev) a, d.inv → (x d a).inv; unfold x; intro _ _ _) | (intro hfG; clear_value x))
    | (intro x; refine keep_haveG1 x ?_ ?_ <;> first | (show ∀ (d : Dev) a, d.inv → (x d a).1.inv; unfold x; intro _ _ _) | (intro hfP; clear_value x))
    | (intro x; refine keep_haveF x ?_ ?_ <;> first | (show ∀ a, (x a).inv; unfold x; intro _) | (intro hfF; clear_value x))
    | with_reducible apply hfD
    | with_reducible apply hfG
    | with_reducible apply hfP
    | with_reducible apply hfF
    | (intro x; clear_value x)
    | intro _
    | lift_lets
    | simp only [keep_mk]
    | split
    | dsimp only

theorem Dev.answerPrepare_inv (d : Dev) (p : Proposal) (status : Nat) (h1 : d.inv) :
    (Dev.answerPrepare d p status).inv := by
  unfold Dev.answerPrepare
  repeat' first
    | with_reducible assumption
    | with_reducible apply keep_ite
    | with_reducible apply keep_ite1
    | with_reducible apply Dev.setFed_inv
    | with_reducible apply Dev.decideEpoch_inv
    | with_reducible apply Dev.abortAll_inv
    | with_reducible apply Dev.aggregate_inv
    | with_reducible apply Dev.fedSend_inv
    | (intro x; refine keep_have x ?_ ?_ <;> first | (show x.inv; unfold x) | (intro _; clear_value x))
    | (intro x; refine keep_have1 x ?_ ?_ <;> first | (show x.1.inv; unfold x) | (intro _; clear_value x))
    | (intro x; clear_value x)
    | intro _
    | lift_lets
    | simp only [keep_mk]
    | split
    | dsimp only

theorem Dev.checkProposal_inv (d : Dev) (ask : Bool) (h1 : d.inv) :
    (Dev.checkProposal d ask).inv := by
  unfold Dev.checkProposal
  repeat' first
    | with_reducible assumption
    | with_reducible apply keep_ite
    | with_reducible apply Dev.answerPrepare_inv
    | with_reducible apply Dev.setFed_inv
    | with_reducible apply Dev.manifestFrom_inv
    | with_reducible apply Dev.fedSend_inv
    | intro _
    | simp only [keep_mk]
    | split
    | dsimp only

theorem Dev.takeProposal_inv (d : Dev) (p : Proposal) (h1 : d.inv) :
    (Dev.takeProposal d p).inv := by
  unfold Dev.takeProposal
  repeat' first
    | with_reducible assumption
    | with_reducible apply keep_ite
    | with_reducible apply keep_ite1
    | with_reducible apply keep_ite2
    | with_reducible apply Dev.setFed_inv
    | with_reducible apply Dev.setFedState_inv
    | with_reducible apply Dev.checkProposal_inv
    | (intro x; refine keep_have x ?_ ?_ <;> first | (show x.inv; unfold x) | (intro _; clear_value x))
    | (intro x; refine keep_have1 x ?_ ?_ <;> first | (show x.1.inv; unfold x) | (intro _; clear_value x))
    | (intro x; refine keep_have2 x ?_ ?_ <;> first | (show x.2.inv; unfold x) | (intro _; clear_value x))
    | (intro x; clear_value x)
    | intro _
    | lift_lets
    | simp only [keep_mk]
    | split
    | dsimp only

theorem Dev.accept_inv (d : Dev) (digest : List Byte) (roster : List Nat) (proposer : Nat) (h1 : d.inv) :
    (Dev.accept d digest roster proposer).inv := by
  unfold Dev.accept
  repeat' first
    | with_reducible assumption
    | with_reducible apply Dev.fedSend_inv
    | with_reducible apply Dev.takeProposal_inv
    | (intro x; refine keep_have x ?_ ?_ <;> first | (show x.inv; unfold x) | (intro _; clear_value x))
    | (intro x; refine keep_have1 x ?_ ?_ <;> first | (show x.1.inv; unfold x) | (intro _; clear_value x))
    | (intro x; clear_value x)
    | intro _
    | lift_lets
    | simp only [keep_mk]
    | dsimp only

theorem Dev.leaderPropose_inv (d : Dev) (h1 : d.inv) :
    (Dev.leaderPropose d).inv := by
  unfold Dev.leaderPropose
  repeat' first
    | with_reducible assumption
    | with_reducible apply keep_ite
    | with_reducible apply keep_ite1
    | with_reducible apply Dev.accept_inv
    | (intro x; refine keep_have x ?_ ?_ <;> first | (show x.inv; unfold x) | (intro _; clear_value x))
    | (intro x; refine keep_have1 x ?_ ?_ <;> first | (show x.1.inv; unfold x) | (intro _; clear_value x))
    | (intro x; clear_value x)
    | intro _
    | lift_lets
    | split
    | dsimp only

theorem Dev.resolveProposal_inv (d : Dev) (h1 : d.inv) :
    (Dev.resolveProposal d).inv := by
  unfold Dev.resolveProposal
  repeat' first
    | with_reducible assumption
    | with_reducible apply keep_ite
    | with_reducible apply keep_ite1
    | with_reducible apply keep_ite2
    | with_reducible apply Dev.setFed_inv
    | with_reducible apply Dev.abortAll_inv
    | with_reducible apply Dev.fedSend_inv
    | (intro x; refine keep_have x ?_ ?_ <;> first | (show x.inv; unfold x) | (intro _; clear_value x))
    | (intro x; refine keep_have1 x ?_ ?_ <;> first | (show x.1.inv; unfold x) | (intro _; clear_value x))
    | (intro x; refine keep_have2 x ?_ ?_ <;> first | (show x.2.inv; unfold x) | (intro _; clear_value x))
    | (intro x; clear_value x)
    | intro _
    | lift_lets
    | simp only [keep_mk]
    | split
    | dsimp only

theorem electionRound_inv (d : Dev) (h1 : d.inv) :
    (electionRound d).inv := by
  unfold electionRound
  repeat' first
    | with_reducible assumption
    | with_reducible apply keep_ite
    | with_reducible apply Dev.groupRound_inv
    | with_reducible apply Dev.becomeLeader_inv
    | with_reducible apply Dev.sendReport_inv
    | with_reducible apply Dev.resolveProposal_inv
    | intro _
    | simp only [keep_mk]
    | split
    | dsimp only

theorem Dev.stepDown_inv (d : Dev) (h1 : d.inv) :
    (Dev.stepDown d).inv := by
  unfold Dev.stepDown
  repeat' first
    | with_reducible assumption
    | with_reducible apply Dev.setFed_inv
    | with_reducible apply Dev.showRoles_inv
    | intro _
    | simp only [keep_mk]
    | dsimp only

theorem Dev.reportFrom_inv (d : Dev) (h : BmHdr) (group : Nat) (coord : Nat) (present : Nat) (aligned : Nat) (attested : Nat) (h1 : d.inv) :
    (Dev.reportFrom d h group coord present aligned attested).inv := by
  unfold Dev.reportFrom
  repeat' first
    | with_reducible assumption
    | with_reducible apply keep_ite
    | with_reducible apply keep_ite1
    | with_reducible apply Dev.setPeer_inv
    | with_reducible apply Dev.setCoord_inv
    | with_reducible apply Dev.setMember_inv
    | with_reducible apply Dev.stepDown_inv
    | with_reducible apply Dev.fedAdvance_inv
    | with_reducible refine keep_foldl (fun d x hd => ?_) ?_
    | with_reducible refine keep_foldl1 (fun d x hd => ?_) ?_
    | (intro x; refine keep_have x ?_ ?_ <;> first | (show x.inv; unfold x) | (intro _; clear_value x))
    | (intro x; refine keep_have1 x ?_ ?_ <;> first | (show x.1.inv; unfold x) | (intro _; clear_value x))
    | (intro x; clear_value x)
    | intro _
    | lift_lets
    | simp only [keep_mk]
    | split
    | dsimp only

theorem Dev.leaderFrom_inv (d : Dev) (h : BmHdr) (leader : Nat) (groups : Nat) (h1 : d.inv) :
    (Dev.leaderFrom d h leader groups).inv := by
  unfold Dev.leaderFrom
  repeat' first
    | with_reducible assumption
    | with_reducible apply keep_ite
    | with_reducible apply keep_ite1
    | with_reducible apply Dev.sendLeader_inv
    | with_reducible apply Dev.stepDown_inv
    | with_reducible apply Dev.sendReport_inv
    | with_reducible apply Dev.setLeader_inv
    | with_reducible apply Dev.fedAdvance_inv
    | (intro x; refine keep_have x ?_ ?_ <;> first | (show x.inv; unfold x) | (intro _; clear_value x))
    | (intro x; refine keep_have1 x ?_ ?_ <;> first | (show x.1.inv; unfold x) | (intro _; clear_value x))
    | (intro x; clear_value x)
    | intro _
    | lift_lets
    | split
    | dsimp only

theorem leaderHeartbeat_inv (d : Dev) (h1 : d.inv) :
    (leaderHeartbeat d).inv := by
  unfold leaderHeartbeat
  repeat' first
    | with_reducible assumption
    | with_reducible apply keep_ite
    | with_reducible apply Dev.sendLeader_inv
    | intro _
    | split
    | dsimp only

theorem coordinatorLoss_inv (d : Dev) (h1 : d.inv) :
    (coordinatorLoss d).inv := by
  unfold coordinatorLoss
  repeat' first
    | with_reducible assumption
    | with_reducible apply keep_ite
    | with_reducible apply Dev.setMember_inv
    | with_reducible apply Dev.startElection_inv
    | with_reducible apply Dev.showRoles_inv
    | intro _
    | simp only [keep_mk]
    | split
    | dsimp only

theorem leaderLoss_inv (d : Dev) (h1 : d.inv) :
    (leaderLoss d).inv := by
  unfold leaderLoss
  repeat' first
    | with_reducible assumption
    | with_reducible apply keep_ite
    | with_reducible apply keep_ite1
    | with_reducible apply Dev.setMember_inv
    | with_reducible apply Dev.stepDown_inv
    | with_reducible apply Dev.sendReport_inv
    | (intro x; refine keep_have x ?_ ?_ <;> first | (show x.inv; unfold x) | (intro _; clear_value x))
    | (intro x; refine keep_have1 x ?_ ?_ <;> first | (show x.1.inv; unfold x) | (intro _; clear_value x))
    | (intro x; clear_value x)
    | intro _
    | lift_lets
    | simp only [keep_mk]
    | split
    | dsimp only

theorem memberAbsent_inv (m : Nat) (d : Dev) (h1 : d.inv) :
    (memberAbsent m d).inv := by
  unfold memberAbsent
  repeat' first
    | with_reducible assumption
    | with_reducible apply keep_ite
    | with_reducible apply keep_ite1
    | with_reducible apply Dev.setFedState_inv
    | with_reducible apply Dev.setMemberState_inv
    | with_reducible apply Dev.setPeer_inv
    | with_reducible apply Dev.setLe_inv
    | with_reducible apply Dev.setMember_inv
    | with_reducible apply Dev.challengeDue_inv
    | with_reducible apply Dev.txEnd_inv
    | with_reducible apply Dev.settle_inv
    | with_reducible refine keep_foldl (fun d x hd => ?_) ?_
    | with_reducible refine keep_foldl1 (fun d x hd => ?_) ?_
    | (intro x; refine keep_have x ?_ ?_ <;> first | (show x.inv; unfold x) | (intro _; clear_value x))
    | (intro x; refine keep_have1 x ?_ ?_ <;> first | (show x.1.inv; unfold x) | (intro _; clear_value x))
    | (intro x; clear_value x)
    | intro _
    | lift_lets
    | simp only [keep_mk]
    | split
    | dsimp only

theorem syncBurst_inv (d : Dev) (h1 : d.inv) :
    (syncBurst d).inv := by
  unfold syncBurst
  repeat' first
    | with_reducible assumption
    | with_reducible apply keep_ite
    | with_reducible apply Dev.setFed_inv
    | with_reducible apply Dev.fedSend_inv
    | intro _
    | simp only [keep_mk]
    | split
    | dsimp only

theorem Dev.timeStep_inv (d : Dev) (theta : Int) (h1 : d.inv) :
    (Dev.timeStep d theta).inv := by
  unfold Dev.timeStep
  repeat' first
    | with_reducible assumption
    | (intro x; refine keep_have x ?_ ?_ <;> first | (show x.inv; unfold x) | (intro _; clear_value x))
    | (intro x; refine keep_have1 x ?_ ?_ <;> first | (show x.1.inv; unfold x) | (intro _; clear_value x))
    | (intro x; clear_value x)
    | intro _
    | lift_lets
    | simp only [keep_mk]
    | dsimp only

theorem Dev.slewTick_inv (d : Dev) (h1 : d.inv) :
    (Dev.slewTick d).inv := by
  unfold Dev.slewTick
  repeat' first
    | with_reducible assumption
    | with_reducible apply keep_ite
    | with_reducible apply keep_ite1
    | with_reducible apply Dev.setFed_inv
    | with_reducible apply Dev.timeStep_inv
    | (intro x; refine keep_have x ?_ ?_ <;> first | (show x.inv; unfold x) | (intro _; clear_value x))
    | (intro x; refine keep_have1 x ?_ ?_ <;> first | (show x.1.inv; unfold x) | (intro _; clear_value x))
    | (intro x; clear_value x)
    | intro _
    | lift_lets
    | simp only [keep_mk]
    | split
    | dsimp only

theorem Dev.burstEnd_inv (d : Dev) (p : Nat) (theta : Int) (h1 : d.inv) :
    (Dev.burstEnd d p theta).inv := by
  unfold Dev.burstEnd
  repeat' first
    | with_reducible assumption
    | with_reducible apply keep_ite
    | with_reducible apply keep_ite1
    | with_reducible apply keep_ite2
    | with_reducible apply Dev.free_inv
    | with_reducible apply Dev.wr_inv
    | with_reducible apply Dev.setFed_inv
    | with_reducible apply Dev.timeStep_inv
    | with_reducible apply Dev.bump_inv
    | with_reducible apply Dev.raise_inv
    | with_reducible apply Dev.sendReport_inv
    | with_reducible apply Dev.fedAdvance_inv
    | (intro x; refine keep_have x ?_ ?_ <;> first | (show x.inv; unfold x) | (intro _; clear_value x))
    | (intro x; refine keep_have1 x ?_ ?_ <;> first | (show x.1.inv; unfold x) | (intro _; clear_value x))
    | (intro x; refine keep_have2 x ?_ ?_ <;> first | (show x.2.inv; unfold x) | (intro _; clear_value x))
    | (intro x; clear_value x)
    | intro _
    | lift_lets
    | simp only [keep_mk]
    | split
    | dsimp only

theorem Dev.exchange_inv (d : Dev) (h : BmHdr) (t1 : Nat) (t2 : Nat) (t3 : Nat) (t4 : Nat) (h1 : d.inv) :
    (Dev.exchange d h t1 t2 t3 t4).inv := by
  unfold Dev.exchange
  repeat' first
    | with_reducible assumption
    | with_reducible apply keep_ite
    | with_reducible apply keep_ite1
    | with_reducible apply keep_ite2
    | with_reducible apply Dev.setFed_inv
    | with_reducible apply Dev.fedSend_inv
    | with_reducible apply Dev.burstEnd_inv
    | (intro x; refine keep_have x ?_ ?_ <;> first | (show x.inv; unfold x) | (intro _; clear_value x))
    | (intro x; refine keep_have1 x ?_ ?_ <;> first | (show x.1.inv; unfold x) | (intro _; clear_value x))
    | (intro x; refine keep_have2 x ?_ ?_ <;> first | (show x.2.inv; unfold x) | (intro _; clear_value x))
    | (intro x; clear_value x)
    | intro _
    | lift_lets
    | simp only [keep_mk]
    | split
    | dsimp only

theorem parentHoldoverTimeout_inv (d : Dev) (h1 : d.inv) :
    (parentHoldoverTimeout d).inv := by
  unfold parentHoldoverTimeout
  repeat' first
    | with_reducible assumption
    | with_reducible apply keep_ite
    | with_reducible apply keep_ite1
    | with_reducible apply Dev.wr_inv
    | with_reducible apply Dev.setFed_inv
    | with_reducible apply Dev.raise_inv
    | (intro x; refine keep_have x ?_ ?_ <;> first | (show x.inv; unfold x) | (intro _; clear_value x))
    | (intro x; refine keep_have1 x ?_ ?_ <;> first | (show x.1.inv; unfold x) | (intro _; clear_value x))
    | (intro x; clear_value x)
    | intro _
    | lift_lets
    | simp only [keep_mk]
    | split
    | dsimp only

theorem digestTimer_inv (other : Nat) (d : Dev) (h1 : d.inv) :
    (digestTimer other d).inv := by
  unfold digestTimer
  repeat' first
    | with_reducible assumption
    | with_reducible apply keep_ite
    | with_reducible apply keep_ite1
    | with_reducible apply Dev.fedSend_inv
    | with_reducible apply Dev.fedAdvance_inv
    | with_reducible apply Dev.leaderPropose_inv
    | with_reducible apply Dev.settle_inv
    | (intro x; refine keep_have x ?_ ?_ <;> first | (show x.inv; unfold x) | (intro _; clear_value x))
    | (intro x; refine keep_have1 x ?_ ?_ <;> first | (show x.1.inv; unfold x) | (intro _; clear_value x))
    | (intro x; clear_value x)
    | intro _
    | lift_lets
    | simp only [keep_mk]
    | split
    | dsimp only

theorem Dev.recordsFor_inv (d : Dev) (m : Nat) (epoch : Nat) (ids : List (Nat × Nat)) (h1 : d.inv) :
    (Dev.recordsFor d m epoch ids).inv := by
  unfold Dev.recordsFor
  repeat' first
    | with_reducible assumption
    | with_reducible apply keep_ite
    | with_reducible apply keep_ite1
    | with_reducible apply keep_ite2
    | with_reducible apply Dev.fedSend_inv
    | with_reducible refine keep_foldl (fun d x hd => ?_) ?_
    | with_reducible refine keep_foldl1 (fun d x hd => ?_) ?_
    | (intro x; refine keep_have x ?_ ?_ <;> first | (show x.inv; unfold x) | (intro _; clear_value x))
    | (intro x; refine keep_have1 x ?_ ?_ <;> first | (show x.1.inv; unfold x) | (intro _; clear_value x))
    | (intro x; refine keep_have2 x ?_ ?_ <;> first | (show x.2.inv; unfold x) | (intro _; clear_value x))
    | (intro x; clear_value x)
    | intro _
    | lift_lets
    | split
    | dsimp only

theorem Dev.askRecords_inv (d : Dev) (p : Proposal) (y0 : Nat) (y1 : List (Nat × Nat)) (h1 : d.inv) :
    (Dev.askRecords d p y0 y1).inv := by
  induction y0 generalizing d y1 with
  | zero => cases y1 <;> (rw [Dev.askRecords] <;> first | exact h1 | simp)
  | succ _ ih =>
    cases y1
    · rw [Dev.askRecords]; exact h1
    · rw [Dev.askRecords]
      · exact ih _ _ (Dev.fedSend_inv _ _ _ h1)
      · simp

theorem Dev.manifestFrom_inv (d : Dev) (m : Nat) (entries : List (Nat × Nat × List Byte)) (h1 : d.inv) :
    (Dev.manifestFrom d m entries).inv := by
  unfold Dev.manifestFrom
  repeat' first
    | with_reducible assumption
    | with_reducible apply keep_ite
    | with_reducible apply keep_ite1
    | with_reducible apply keep_ite2
    | with_reducible apply Dev.setFed_inv
    | with_reducible apply Dev.askRecords_inv
    | with_reducible apply Dev.checkProposal_inv
    | (intro x; refine keep_have x ?_ ?_ <;> first | (show x.inv; unfold x) | (intro _; clear_value x))
    | (intro x; refine keep_have1 x ?_ ?_ <;> first | (show x.1.inv; unfold x) | (intro _; clear_value x))
    | (intro x; refine keep_have2 x ?_ ?_ <;> first | (show x.2.inv; unfold x) | (intro _; clear_value x))
    | (intro x; refine keep_haveD x ?_ ?_ <;> first | (show ∀ d : Dev, d.inv → (x d).inv; unfold x; intro _ _) | (intro hfD; clear_value x))
    | (intro x; refine keep_haveG x ?_ ?_ <;> first | (show ∀ (d : Dev) a, d.inv → (x d a).inv; unfold x; intro _ _ _) | (intro hfG; clear_value x))
    | (intro x; refine keep_haveG1 x ?_ ?_ <;> first | (show ∀ (d : Dev) a, d.inv → (x d a).1.inv; unfold x; intro _ _ _) | (intro hfP; clear_value x))
    | (intro x; refine keep_haveF x ?_ ?_ <;> first | (show ∀ a, (x a).inv; unfold x; intro _) | (intro hfF; clear_value x))
    | with_reducible apply hfD
    | with_reducible apply hfG
    | with_reducible apply hfP
    | with_reducible apply hfF
    | (intro x; clear_value x)
    | intro _
    | lift_lets
    | simp only [keep_mk]
    | split
    | dsimp only

theorem Dev.recordFrom_inv (d : Dev) (type : Nat) (id : Nat) (total : Nat) (offset : Nat) (data : List Byte) (h1 : d.inv) :
    (Dev.recordFrom d type id total offset data).inv := by
  unfold Dev.recordFrom
  repeat' first
    | with_reducible assumption
    | with_reducible apply keep_ite
    | with_reducible apply keep_ite1
    | with_reducible apply keep_ite2
    | with_reducible apply Dev.setFed_inv
    | with_reducible apply Dev.checkProposal_inv
    | (intro x; refine keep_have x ?_ ?_ <;> first | (show x.inv; unfold x) | (intro _; clear_value x))
    | (intro x; refine keep_have1 x ?_ ?_ <;> first | (show x.1.inv; unfold x) | (intro _; clear_value x))
    | (intro x; refine keep_have2 x ?_ ?_ <;> first | (show x.2.inv; unfold x) | (intro _; clear_value x))
    | (intro x; clear_value x)
    | intro _
    | lift_lets
    | simp only [keep_mk]
    | split
    | dsimp only

theorem recordReassemblyTimeout_inv (type : Nat) (id : Nat) (d : Dev) (h1 : d.inv) :
    (recordReassemblyTimeout type id d).inv := by
  unfold recordReassemblyTimeout
  repeat' first
    | with_reducible assumption
    | with_reducible apply keep_ite
    | with_reducible apply Dev.setFed_inv
    | with_reducible apply Dev.fedSend_inv
    | intro _
    | simp only [keep_mk]
    | split
    | dsimp only

theorem Dev.proposeFrom_inv (d : Dev) (m : Nat) (base : Nat) (digest : List Byte) (proposer : Nat) (h1 : d.inv) :
    (Dev.proposeFrom d m base digest proposer).inv := by
  unfold Dev.proposeFrom
  repeat' first
    | with_reducible assumption
    | with_reducible apply keep_ite
    | with_reducible apply Dev.fedSend_inv
    | with_reducible apply Dev.accept_inv
    | intro _
    | split
    | dsimp only

theorem Dev.prepareFrom_inv (d : Dev) (m : Nat) (epoch : Nat) (digest : List Byte) (roster : Nat) (proposer : Nat) (h1 : d.inv) :
    (Dev.prepareFrom d m epoch digest roster proposer).inv := by
  unfold Dev.prepareFrom
  repeat' first
    | with_reducible assumption
    | with_reducible apply keep_ite
    | with_reducible apply Dev.takeProposal_inv
    | intro _
    | simp only [keep_mk]
    | split
    | dsimp only

theorem Dev.preparedFrom_inv (d : Dev) (m : Nat) (epoch : Nat) (status : Nat) (bitmap : Nat) (h1 : d.inv) :
    (Dev.preparedFrom d m epoch status bitmap).inv := by
  unfold Dev.preparedFrom
  repeat' first
    | with_reducible assumption
    | with_reducible apply keep_ite
    | with_reducible apply keep_ite1
    | with_reducible apply Dev.abortAll_inv
    | with_reducible apply Dev.fedSend_inv
    | with_reducible apply Dev.setPeer_inv
    | with_reducible apply Dev.decideEpoch_inv
    | with_reducible apply Dev.aggregate_inv
    | with_reducible refine keep_foldl (fun d x hd => ?_) ?_
    | with_reducible refine keep_foldl1 (fun d x hd => ?_) ?_
    | (intro x; refine keep_have x ?_ ?_ <;> first | (show x.inv; unfold x) | (intro _; clear_value x))
    | (intro x; refine keep_have1 x ?_ ?_ <;> first | (show x.1.inv; unfold x) | (intro _; clear_value x))
    | (intro x; clear_value x)
    | intro _
    | lift_lets
    | simp only [keep_mk]
    | split
    | dsimp only

theorem prepareTimeout_inv (d : Dev) (h1 : d.inv) :
    (prepareTimeout d).inv := by
  unfold prepareTimeout
  repeat' first
    | with_reducible assumption
    | with_reducible apply keep_ite
    | with_reducible apply Dev.abortAll_inv
    | with_reducible apply Dev.answerPrepare_inv
    | intro _
    | simp only [keep_mk]
    | split
    | dsimp only

theorem Dev.commitFrom_inv (d : Dev) (epoch : Nat) (digest : List Byte) (t : Nat) (h1 : d.inv) :
    (Dev.commitFrom d epoch digest t).inv := by
  unfold Dev.commitFrom
  repeat' first
    | with_reducible assumption
    | with_reducible apply keep_ite
    | with_reducible apply Dev.bump_inv
    | with_reducible apply Dev.applyEpoch_inv
    | with_reducible apply Dev.setFed_inv
    | intro _
    | simp only [keep_mk]
    | split
    | dsimp only

theorem commitTime_inv (d : Dev) (h1 : d.inv) :
    (commitTime d).inv := by
  unfold commitTime
  repeat' first
    | with_reducible assumption
    | with_reducible apply keep_ite
    | with_reducible apply Dev.applyEpoch_inv
    | with_reducible apply Dev.settle_inv
    | intro _
    | simp only [keep_mk]
    | split
    | dsimp only

theorem Dev.abortFrom_inv (d : Dev) (m : Nat) (epoch : Nat) (status : Nat) (h1 : d.inv) :
    (Dev.abortFrom d m epoch status).inv := by
  unfold Dev.abortFrom
  repeat' first
    | with_reducible assumption
    | with_reducible apply keep_ite
    | with_reducible apply Dev.enterQuarantine_inv
    | with_reducible apply Dev.notice_inv
    | with_reducible apply Dev.proposalEnd_inv
    | intro _
    | simp only [keep_mk]
    | split
    | dsimp only

theorem joinTimeout_inv (d : Dev) (h1 : d.inv) :
    (joinTimeout d).inv := by
  unfold joinTimeout
  repeat' first
    | with_reducible assumption
    | with_reducible apply keep_ite
    | with_reducible apply Dev.wr_inv
    | with_reducible apply Dev.raise_inv
    | intro _
    | split
    | dsimp only

end Sys2Proof.Machine
end

