-- ==== Sys2Proof/Laws/KeepFedData.lean ====
section
/-! SUPPORT. Every operation of Machine/FedData.lean keeps the invariant. -/

namespace Sys2Proof.Machine

open Sys2Proof

theorem Dev.attest_inv (d : Dev) (m : Nat) (h1 : d.inv) :
    (Dev.attest d m).inv := by
  unfold Dev.attest
  repeat' first
    | with_reducible assumption
    | with_reducible apply Dev.free_inv
    | with_reducible apply Dev.fedSend_inv
    | (intro x; refine keep_have x ?_ ?_ <;> first | (show x.inv; unfold x) | (intro _; clear_value x))
    | (intro x; refine keep_have1 x ?_ ?_ <;> first | (show x.1.inv; unfold x) | (intro _; clear_value x))
    | (intro x; refine keep_have2 x ?_ ?_ <;> first | (show x.2.inv; unfold x) | (intro _; clear_value x))
    | (intro x; clear_value x)
    | intro _
    | lift_lets
    | dsimp only

theorem Dev.attestFailed_inv (d : Dev) (m : Nat) (h1 : d.inv) :
    (Dev.attestFailed d m).inv := by
  unfold Dev.attestFailed
  repeat' first
    | with_reducible assumption
    | with_reducible apply keep_ite
    | with_reducible apply keep_ite1
    | with_reducible apply Dev.setPeer_inv
    | with_reducible apply Dev.setMember_inv
    | with_reducible apply Dev.setMemberState_inv
    | with_reducible apply Dev.bump_inv
    | with_reducible apply Dev.fedSend_inv
    | with_reducible apply Dev.notice_inv
    | with_reducible apply Dev.fedAdvance_inv
    | (intro x; refine keep_have x ?_ ?_ <;> first | (show x.inv; unfold x) | (intro _; clear_value x))
    | (intro x; refine keep_have1 x ?_ ?_ <;> first | (show x.1.inv; unfold x) | (intro _; clear_value x))
    | (intro x; clear_value x)
    | intro _
    | lift_lets
    | simp only [keep_mk]
    | split
    | dsimp only

theorem Dev.judge_inv (d : Dev) (m : Nat) (eui : Nat) (key : List Byte) (good : Bool) (h1 : d.inv) :
    (Dev.judge d m eui key good).inv := by
  unfold Dev.judge
  repeat' first
    | with_reducible assumption
    | with_reducible apply keep_ite
    | with_reducible apply keep_ite1
    | with_reducible apply Dev.setPeer_inv
    | with_reducible apply Dev.setMember_inv
    | with_reducible apply Dev.sendReport_inv
    | with_reducible apply Dev.fedAdvance_inv
    | with_reducible apply Dev.attestFailed_inv
    | (intro x; refine keep_have x ?_ ?_ <;> first | (show x.inv; unfold x) | (intro _; clear_value x))
    | (intro x; refine keep_have1 x ?_ ?_ <;> first | (show x.1.inv; unfold x) | (intro _; clear_value x))
    | (intro x; clear_value x)
    | intro _
    | lift_lets
    | simp only [keep_mk]
    | split
    | dsimp only

theorem attestTimeout_inv (m : Nat) (d : Dev) (h1 : d.inv) :
    (attestTimeout m d).inv := by
  unfold attestTimeout
  repeat' first
    | with_reducible assumption
    | with_reducible apply keep_ite
    | with_reducible apply Dev.attestFailed_inv
    | with_reducible apply Dev.settle_inv
    | intro _
    | split
    | dsimp only

theorem Dev.sendReplicas_inv (d : Dev) (b : Nat) (y0 : Nat) (y1 : List Nat) (h1 : d.inv) :
    (Dev.sendReplicas d b y0 y1).inv := by
  induction y0 generalizing d y1 with
  | zero => cases y1 <;> (rw [Dev.sendReplicas] <;> first | exact h1 | simp)
  | succ _ ih =>
    cases y1
    · rw [Dev.sendReplicas]; exact h1
    · rw [Dev.sendReplicas]
      · exact ih _ _ (Dev.setFed_inv _ _ (Dev.fedSend_inv _ _ _ h1))
      · simp

theorem replicationSend_inv (d : Dev) (h1 : d.inv) :
    (replicationSend d).inv := by
  unfold replicationSend
  repeat' first
    | with_reducible assumption
    | with_reducible apply keep_ite
    | with_reducible apply keep_ite1
    | with_reducible apply Dev.sendReplicas_inv
    | (intro x; refine keep_have x ?_ ?_ <;> first | (show x.inv; unfold x) | (intro _; clear_value x))
    | (intro x; refine keep_have1 x ?_ ?_ <;> first | (show x.1.inv; unfold x) | (intro _; clear_value x))
    | (intro x; clear_value x)
    | intro _
    | lift_lets
    | simp only [keep_mk]
    | split
    | dsimp only

theorem replicationRetx_inv (d : Dev) (h1 : d.inv) :
    (replicationRetx d).inv := by
  unfold replicationRetx
  repeat' first
    | with_reducible assumption
    | with_reducible apply keep_ite
    | with_reducible apply keep_ite1
    | with_reducible apply Dev.bumpBy_inv
    | with_reducible apply Dev.sendReplicas_inv
    | (intro x; refine keep_have x ?_ ?_ <;> first | (show x.inv; unfold x) | (intro _; clear_value x))
    | (intro x; refine keep_have1 x ?_ ?_ <;> first | (show x.1.inv; unfold x) | (intro _; clear_value x))
    | (intro x; clear_value x)
    | intro _
    | lift_lets
    | simp only [keep_mk]
    | split
    | dsimp only

theorem Dev.applyReplica_inv (d : Dev) (s : Nat) (img : List Byte) (h1 : d.inv) :
    (Dev.applyReplica d s img).inv := by
  unfold Dev.applyReplica
  repeat' first
    | with_reducible assumption
    | with_reducible apply keep_ite
    | with_reducible apply keep_ite1
    | with_reducible apply Dev.setBytes_inv
    | (intro x; refine keep_have x ?_ ?_ <;> first | (show x.inv; unfold x) | (intro _; clear_value x))
    | (intro x; refine keep_have1 x ?_ ?_ <;> first | (show x.1.inv; unfold x) | (intro _; clear_value x))
    | (intro x; clear_value x)
    | intro _
    | lift_lets
    | split
    | dsimp only

theorem Dev.takeReplica_inv (d : Dev) (s : Nat) (img : List Byte) (h1 : d.inv) :
    (Dev.takeReplica d s img).inv := by
  unfold Dev.takeReplica
  repeat' first
    | with_reducible assumption
    | with_reducible apply keep_ite
    | with_reducible apply keep_ite1
    | with_reducible apply keep_ite2
    | with_reducible apply Dev.setFed_inv
    | with_reducible apply Dev.finishId_inv
    | with_reducible apply Dev.restoreCtx_inv
    | with_reducible apply Dev.slpRestored_inv
    | (intro x; refine keep_have x ?_ ?_ <;> first | (show x.inv; unfold x) | (intro _; clear_value x))
    | (intro x; refine keep_have1 x ?_ ?_ <;> first | (show x.1.inv; unfold x) | (intro _; clear_value x))
    | (intro x; refine keep_have2 x ?_ ?_ <;> first | (show x.2.inv; unfold x) | (intro _; clear_value x))
    | (intro x; clear_value x)
    | intro _
    | lift_lets
    | simp only [keep_mk]
    | split
    | dsimp only

theorem Dev.replicaFrom_inv (d : Dev) (m : Nat) (entries : List (Nat × List Byte)) (h1 : d.inv) :
    (Dev.replicaFrom d m entries).inv := by
  unfold Dev.replicaFrom
  repeat' first
    | with_reducible assumption
    | with_reducible apply keep_ite
    | with_reducible apply keep_ite1
    | with_reducible apply keep_ite2
    | with_reducible apply Dev.takeReplica_inv
    | with_reducible apply Dev.applyReplica_inv
    | with_reducible apply Dev.fedSend_inv
    | with_reducible refine keep_foldl (fun d x hd => ?_) ?_
    | with_reducible refine keep_foldl1 (fun d x hd => ?_) ?_
    | (intro x; refine keep_have x ?_ ?_ <;> first | (show x.inv; unfold x) | (intro _; clear_value x))
    | (intro x; refine keep_have1 x ?_ ?_ <;> first | (show x.1.inv; unfold x) | (intro _; clear_value x))
    | (intro x; refine keep_have2 x ?_ ?_ <;> first | (show x.2.inv; unfold x) | (intro _; clear_value x))
    | (intro x; clear_value x)
    | intro _
    | lift_lets
    | split
    | dsimp only

theorem Dev.ackFrom_inv (d : Dev) (m : Nat) (applied : List (Nat × Nat)) (h1 : d.inv) :
    (Dev.ackFrom d m applied).inv := by
  unfold Dev.ackFrom
  repeat' first
    | with_reducible assumption
    | with_reducible apply keep_ite
    | with_reducible apply keep_ite1
    | with_reducible apply keep_ite2
    | with_reducible apply Dev.done_inv
    | with_reducible apply Dev.setFed_inv
    | (intro x; refine keep_have x ?_ ?_ <;> first | (show x.inv; unfold x) | (intro _; clear_value x))
    | (intro x; refine keep_have1 x ?_ ?_ <;> first | (show x.1.inv; unfold x) | (intro _; clear_value x))
    | (intro x; refine keep_have2 x ?_ ?_ <;> first | (show x.2.inv; unfold x) | (intro _; clear_value x))
    | (intro x; refine keep_haveD x ?_ ?_ <;> first | (show ∀ d : Dev, d.inv → (x d).inv; unfold x; intro _ _) | (intro hfD; clear_value x))
    | (intro x; refine keep_haveG x ?_ ?_ <;> first | (show ∀ (d : Dev) a, d.inv → (x d a).inv; unfold x; intro _ _ _) | (intro hfG; clear_value x))
    | (intro x; refine keep_haveG1 x ?_ ?_ <;> first | (show ∀ (d : Dev) a, d.inv → (x d a).1.inv; unfold x; intro _ _ _) | (intro hfP; clear_value x))
    | (intro x; refine keep_haveF x ?_ ?_ <;> first | (show ∀ a, (x a).inv; unfold x; intro _) | (intro hfF; clear_value x))
    | with_reducible apply hfD
    | with_reducible apply hfG
    | with_reducible apply hfP
    | with_reducible apply hfF
    | (intro x; clear_value x)
    | intro _
    | lift_lets
    | simp only [keep_mk]
    | split
    | dsimp only

theorem Dev.answerReplicas_inv (d : Dev) (m : Nat) (y0 : Nat) (y1 : List Nat) (h1 : d.inv) :
    (Dev.answerReplicas d m y0 y1).inv := by
  induction y0 generalizing d y1 with
  | zero => cases y1 <;> (rw [Dev.answerReplicas] <;> first | exact h1 | simp)
  | succ _ ih =>
    cases y1
    · rw [Dev.answerReplicas]; exact h1
    · rw [Dev.answerReplicas]
      · exact ih _ _ (Dev.fedSend_inv _ _ _ h1)
      · simp

theorem Dev.replicasFor_inv (d : Dev) (m : Nat) (first : Nat) (count : Nat) (h1 : d.inv) :
    (Dev.replicasFor d m first count).inv := by
  unfold Dev.replicasFor
  repeat' first
    | with_reducible assumption
    | with_reducible apply Dev.answerReplicas_inv
    | (intro x; refine keep_have x ?_ ?_ <;> first | (show x.inv; unfold x) | (intro _; clear_value x))
    | (intro x; refine keep_have1 x ?_ ?_ <;> first | (show x.1.inv; unfold x) | (intro _; clear_value x))
    | (intro x; clear_value x)
    | intro _
    | lift_lets
    | dsimp only

theorem Dev.rebuildSlot_inv (d : Dev) (s : Nat) (h1 : d.inv) :
    (Dev.rebuildSlot d s).inv := by
  unfold Dev.rebuildSlot
  repeat' first
    | with_reducible assumption
    | with_reducible apply keep_ite
    | with_reducible apply keep_ite1
    | with_reducible apply Dev.fedSend_inv
    | with_reducible apply Dev.notice_inv
    | (intro x; refine keep_have x ?_ ?_ <;> first | (show x.inv; unfold x) | (intro _; clear_value x))
    | (intro x; refine keep_have1 x ?_ ?_ <;> first | (show x.1.inv; unfold x) | (intro _; clear_value x))
    | (intro x; clear_value x)
    | intro _
    | lift_lets
    | simp only [keep_mk]
    | split
    | dsimp only

theorem buddyReplicaTimeout_inv (node : Nat) (d : Dev) (h1 : d.inv) :
    (buddyReplicaTimeout node d).inv := by
  unfold buddyReplicaTimeout
  repeat' first
    | with_reducible assumption
    | with_reducible apply keep_ite
    | with_reducible apply keep_ite1
    | with_reducible apply Dev.setFed_inv
    | with_reducible apply Dev.finishId_inv
    | with_reducible apply Dev.notice_inv
    | intro _
    | simp only [keep_mk]
    | split
    | dsimp only

theorem Dev.setMigrations_inv (d : Dev) (l : List Migration) (h1 : d.inv) :
    (Dev.setMigrations d l).inv := by
  unfold Dev.setMigrations
  repeat' first
    | with_reducible assumption
    | with_reducible apply Dev.setFed_inv
    | intro _
    | simp only [keep_mk]
    | dsimp only

theorem Dev.putMigration_inv (d : Dev) (m : Migration) (h1 : d.inv) :
    (Dev.putMigration d m).inv := by
  unfold Dev.putMigration
  repeat' first
    | with_reducible assumption
    | with_reducible apply keep_ite
    | with_reducible apply Dev.setMigrations_inv
    | intro _
    | split
    | dsimp only

theorem Dev.dropMigration_inv (d : Dev) (m : Migration) (h1 : d.inv) :
    (Dev.dropMigration d m).inv := by
  unfold Dev.dropMigration
  repeat' first
    | with_reducible assumption
    | with_reducible apply Dev.setMigrations_inv
    | intro _
    | dsimp only

theorem Dev.migrationCmd_inv (d : Dev) (m : Migration) (status : Nat) (h1 : d.inv) :
    (Dev.migrationCmd d m status).inv := by
  unfold Dev.migrationCmd
  repeat' first
    | with_reducible assumption
    | with_reducible apply Dev.finishId_inv
    | intro _
    | simp only [keep_mk]
    | split
    | dsimp only

theorem Dev.migrate_inv (d : Dev) (s : Nat) (x : Nat) (cmd : Option Nat) (h1 : d.inv) :
    (Dev.migrate d s x cmd).inv := by
  unfold Dev.migrate
  repeat' first
    | with_reducible assumption
    | with_reducible apply Dev.setFed_inv
    | with_reducible apply Dev.fedSend_inv
    | (intro x; refine keep_have x ?_ ?_ <;> first | (show x.inv; unfold x) | (intro _; clear_value x))
    | (intro x; refine keep_have1 x ?_ ?_ <;> first | (show x.1.inv; unfold x) | (intro _; clear_value x))
    | (intro x; clear_value x)
    | intro _
    | lift_lets
    | simp only [keep_mk]
    | dsimp only

theorem migrationStart_inv (node : Nat) (d : Dev) (h1 : d.inv) :
    (migrationStart node d).inv := by
  unfold migrationStart
  repeat' first
    | with_reducible assumption
    | with_reducible apply keep_ite
    | with_reducible apply Dev.migrate_inv
    | intro _
    | simp only [keep_mk]
    | split
    | dsimp only

theorem Dev.offerFrom_inv (d : Dev) (y : Nat) (node : Nat) (offer : Nat) (ctx : List Byte) (h1 : d.inv) :
    (Dev.offerFrom d y node offer ctx).inv := by
  unfold Dev.offerFrom
  repeat' first
    | with_reducible assumption
    | with_reducible apply keep_ite
    | with_reducible apply keep_ite1
    | with_reducible apply Dev.fedSend_inv
    | with_reducible apply Dev.setMigrations_inv
    | (intro x; refine keep_have x ?_ ?_ <;> first | (show x.inv; unfold x) | (intro _; clear_value x))
    | (intro x; refine keep_have1 x ?_ ?_ <;> first | (show x.1.inv; unfold x) | (intro _; clear_value x))
    | (intro x; clear_value x)
    | intro _
    | lift_lets
    | simp only [keep_mk]
    | split
    | dsimp only

theorem Dev.answerFrom_inv (d : Dev) (x : Nat) (offer : Nat) (status : Nat) (h1 : d.inv) :
    (Dev.answerFrom d x offer status).inv := by
  unfold Dev.answerFrom
  repeat' first
    | with_reducible assumption
    | with_reducible apply keep_ite
    | with_reducible apply keep_ite1
    | with_reducible apply Dev.putMigration_inv
    | with_reducible apply Dev.fedSend_inv
    | with_reducible apply Dev.dropMigration_inv
    | with_reducible apply Dev.setFed_inv
    | with_reducible apply Dev.migrationCmd_inv
    | (intro x; refine keep_have x ?_ ?_ <;> first | (show x.inv; unfold x) | (intro _; clear_value x))
    | (intro x; refine keep_have1 x ?_ ?_ <;> first | (show x.1.inv; unfold x) | (intro _; clear_value x))
    | (intro x; clear_value x)
    | intro _
    | lift_lets
    | simp only [keep_mk]
    | split
    | dsimp only

theorem offerRetry_inv (offer : Nat) (d : Dev) (h1 : d.inv) :
    (offerRetry offer d).inv := by
  unfold offerRetry
  repeat' first
    | with_reducible assumption
    | with_reducible apply keep_ite
    | with_reducible apply keep_ite1
    | with_reducible apply keep_ite2
    | with_reducible apply Dev.putMigration_inv
    | with_reducible apply Dev.fedSend_inv
    | with_reducible apply Dev.freeOf_inv
    | with_reducible apply Dev.dropMigration_inv
    | with_reducible apply Dev.migrationCmd_inv
    | (intro x; refine keep_have x ?_ ?_ <;> first | (show x.inv; unfold x) | (intro _; clear_value x))
    | (intro x; refine keep_have1 x ?_ ?_ <;> first | (show x.1.inv; unfold x) | (intro _; clear_value x))
    | (intro x; refine keep_have2 x ?_ ?_ <;> first | (show x.2.inv; unfold x) | (intro _; clear_value x))
    | (intro x; clear_value x)
    | intro _
    | lift_lets
    | simp only [keep_mk]
    | split
    | dsimp only

theorem Dev.install_inv (d : Dev) (s : Nat) (img : List Byte) (h1 : d.inv) :
    (Dev.install d s img).1.inv := by
  unfold Dev.install
  repeat' first
    | with_reducible assumption
    | with_reducible apply keep_ite
    | with_reducible apply keep_ite1
    | with_reducible apply keep_ite2
    | with_reducible apply Dev.dropKeys_inv
    | with_reducible apply Dev.clearRte_inv
    | with_reducible apply Dev.setBytes_inv
    | with_reducible apply Dev.firstUse_inv
    | with_reducible apply Dev.nextStamp_inv
    | with_reducible apply Dev.setCx_inv
    | with_reducible apply Dev.putStamp_inv
    | with_reducible apply Dev.cxTouch_inv
    | with_reducible apply Dev.setRte_inv
    | with_reducible apply Dev.insertKeys_inv
    | with_reducible apply Dev.refusedUpdate_inv
    | (intro x; refine keep_have x ?_ ?_ <;> first | (show x.inv; unfold x) | (intro _; clear_value x))
    | (intro x; refine keep_have1 x ?_ ?_ <;> first | (show x.1.inv; unfold x) | (intro _; clear_value x))
    | (intro x; refine keep_have2 x ?_ ?_ <;> first | (show x.2.inv; unfold x) | (intro _; clear_value x))
    | (intro x; clear_value x)
    | intro _
    | lift_lets
    | simp only [keep_mk]
    | split
    | dsimp only

theorem Dev.doneFrom_inv (d : Dev) (y : Nat) (node : Nat) (offer : Nat) (owner : Nat) (h1 : d.inv) :
    (Dev.doneFrom d y node offer owner).inv := by
  unfold Dev.doneFrom
  repeat' first
    | with_reducible assumption
    | with_reducible apply keep_ite
    | with_reducible apply keep_ite1
    | with_reducible apply keep_ite2
    | with_reducible apply Dev.fedSend_inv
    | with_reducible apply Dev.install_inv
    | with_reducible apply Dev.putMigration_inv
    | with_reducible apply Dev.bump_inv
    | with_reducible apply Dev.slpRestored_inv
    | with_reducible apply Dev.setRteMember_inv
    | (intro x; refine keep_have x ?_ ?_ <;> first | (show x.inv; unfold x) | (intro _; clear_value x))
    | (intro x; refine keep_have1 x ?_ ?_ <;> first | (show x.1.inv; unfold x) | (intro _; clear_value x))
    | (intro x; refine keep_have2 x ?_ ?_ <;> first | (show x.2.inv; unfold x) | (intro _; clear_value x))
    | (intro x; clear_value x)
    | intro _
    | lift_lets
    | simp only [keep_mk]
    | split
    | dsimp only

theorem doneRepeat_inv (offer : Nat) (d : Dev) (h1 : d.inv) :
    (doneRepeat offer d).inv := by
  unfold doneRepeat
  repeat' first
    | with_reducible assumption
    | with_reducible apply keep_ite
    | with_reducible apply Dev.putMigration_inv
    | with_reducible apply Dev.fedSend_inv
    | intro _
    | simp only [keep_mk]
    | split
    | dsimp only

theorem Dev.handOver_inv (d : Dev) (m : Migration) (h1 : d.inv) :
    (Dev.handOver d m).inv := by
  unfold Dev.handOver
  repeat' first
    | with_reducible assumption
    | with_reducible apply keep_ite
    | with_reducible apply keep_ite1
    | with_reducible apply keep_ite2
    | with_reducible apply Dev.slpForget_inv
    | with_reducible apply Dev.dropNode_inv
    | with_reducible apply Dev.routeSet_inv
    | with_reducible apply Dev.freeOf_inv
    | with_reducible apply Dev.fedSend_inv
    | with_reducible apply Dev.txEnd_inv
    | with_reducible apply Dev.dropMigration_inv
    | with_reducible apply Dev.bump_inv
    | with_reducible apply Dev.migrationCmd_inv
    | with_reducible refine keep_foldl (fun d x hd => ?_) ?_
    | with_reducible refine keep_foldl1 (fun d x hd => ?_) ?_
    | (intro x; refine keep_have x ?_ ?_ <;> first | (show x.inv; unfold x) | (intro _; clear_value x))
    | (intro x; refine keep_have1 x ?_ ?_ <;> first | (show x.1.inv; unfold x) | (intro _; clear_value x))
    | (intro x; refine keep_have2 x ?_ ?_ <;> first | (show x.2.inv; unfold x) | (intro _; clear_value x))
    | (intro x; refine keep_haveD x ?_ ?_ <;> first | (show ∀ d : Dev, d.inv → (x d).inv; unfold x; intro _ _) | (intro hfD; clear_value x))
    | (intro x; refine keep_haveG x ?_ ?_ <;> first | (show ∀ (d : Dev) a, d.inv → (x d a).inv; unfold x; intro _ _ _) | (intro hfG; clear_value x))
    | (intro x; refine keep_haveG1 x ?_ ?_ <;> first | (show ∀ (d : Dev) a, d.inv → (x d a).1.inv; unfold x; intro _ _ _) | (intro hfP; clear_value x))
    | (intro x; refine keep_haveF x ?_ ?_ <;> first | (show ∀ a, (x a).inv; unfold x; intro _) | (intro hfF; clear_value x))
    | with_reducible apply hfD
    | with_reducible apply hfG
    | with_reducible apply hfP
    | with_reducible apply hfF
    | (intro x; clear_value x)
    | intro _
    | lift_lets
    | simp only [keep_mk]
    | split
    | dsimp only

theorem activeTimeout_inv (offer : Nat) (d : Dev) (h1 : d.inv) :
    (activeTimeout offer d).inv := by
  unfold activeTimeout
  repeat' first
    | with_reducible assumption
    | with_reducible apply keep_ite
    | with_reducible apply Dev.putMigration_inv
    | with_reducible apply Dev.notice_inv
    | with_reducible apply Dev.migrationCmd_inv
    | intro _
    | simp only [keep_mk]
    | split
    | dsimp only

theorem pendingDiscard_inv (m : Nat) (offer : Nat) (d : Dev) (h1 : d.inv) :
    (pendingDiscard m offer d).inv := by
  unfold pendingDiscard
  repeat' first
    | with_reducible assumption
    | with_reducible apply keep_ite
    | with_reducible apply Dev.setMigrations_inv
    | intro _
    | split
    | dsimp only

theorem Dev.dataRun_inv (d : Dev) (m : Nat) (f : Dev → Dev) (h1 : d.inv) (h2 : ∀ e : Dev, e.inv → (f e).inv) :
    (Dev.dataRun d m f).inv := by
  unfold Dev.dataRun
  repeat' first
    | with_reducible assumption
    | with_reducible apply h2
    | with_reducible apply keep_ite
    | with_reducible apply Dev.bump_inv
    | intro _
    | split
    | dsimp only

theorem Dev.visitorIn_inv (d : Dev) (m : Nat) (node : Nat) (octets : List Byte) (onward : Bool) (h1 : d.inv) :
    (Dev.visitorIn d m node octets onward).inv := by
  unfold Dev.visitorIn
  repeat' first
    | with_reducible assumption
    | with_reducible apply keep_ite
    | with_reducible apply Dev.setFed_inv
    | with_reducible apply Dev.visitorAt_inv
    | with_reducible apply Dev.fedForward_inv
    | with_reducible apply Dev.bump_inv
    | intro _
    | simp only [keep_mk]
    | split
    | dsimp only

theorem Dev.transmitFrom_inv (d : Dev) (m : Nat) (node : Nat) (start : Nat) (q : Int) (profile : Nat) (phy : Nat) (sub : Bool) (chan : Nat) (mode : Nat) (psdu : List Byte) (h1 : d.inv) :
    (Dev.transmitFrom d m node start q profile phy sub chan mode psdu).inv := by
  unfold Dev.transmitFrom
  repeat' first
    | with_reducible assumption
    | with_reducible apply keep_ite
    | with_reducible apply keep_ite1
    | with_reducible apply start_inv
    | with_reducible apply Dev.bump_inv
    | with_reducible apply Dev.fedForward_inv
    | with_reducible apply Dev.domainOff_inv
    | with_reducible apply Dev.addFrame_inv
    | with_reducible apply Dev.wake_inv
    | (intro x; refine keep_have x ?_ ?_ <;> first | (show x.inv; unfold x) | (intro _; clear_value x))
    | (intro x; refine keep_have1 x ?_ ?_ <;> first | (show x.1.inv; unfold x) | (intro _; clear_value x))
    | (intro x; clear_value x)
    | intro _
    | lift_lets
    | simp only [keep_mk]
    | split
    | dsimp only

theorem Dev.resultFrom_inv (d : Dev) (node : Nat) (start : Nat) (status : Nat) (h1 : d.inv) :
    (Dev.resultFrom d node start status).inv := by
  unfold Dev.resultFrom
  repeat' first
    | with_reducible assumption
    | with_reducible apply keep_ite
    | with_reducible apply keep_ite1
    | with_reducible apply start_inv
    | with_reducible apply Dev.sleepyFail_inv
    | with_reducible apply Dev.txEnd_inv
    | (intro x; refine keep_have x ?_ ?_ <;> first | (show x.inv; unfold x) | (intro _; clear_value x))
    | (intro x; refine keep_have1 x ?_ ?_ <;> first | (show x.1.inv; unfold x) | (intro _; clear_value x))
    | (intro x; refine keep_haveD x ?_ ?_ <;> first | (show ∀ d : Dev, d.inv → (x d).inv; unfold x; intro _ _) | (intro hfD; clear_value x))
    | (intro x; refine keep_haveG x ?_ ?_ <;> first | (show ∀ (d : Dev) a, d.inv → (x d a).inv; unfold x; intro _ _ _) | (intro hfG; clear_value x))
    | (intro x; refine keep_haveG1 x ?_ ?_ <;> first | (show ∀ (d : Dev) a, d.inv → (x d a).1.inv; unfold x; intro _ _ _) | (intro hfP; clear_value x))
    | (intro x; refine keep_haveF x ?_ ?_ <;> first | (show ∀ a, (x a).inv; unfold x; intro _) | (intro hfF; clear_value x))
    | with_reducible apply hfD
    | with_reducible apply hfG
    | with_reducible apply hfP
    | with_reducible apply hfF
    | (intro x; clear_value x)
    | intro _
    | lift_lets
    | simp only [keep_mk]
    | split
    | dsimp only

theorem bootReq_inv (h : BmHdr) (offset : Nat) (image : List Byte) (d : Dev) (h1 : d.inv) :
    (bootReq h offset image d).inv := by
  unfold bootReq
  repeat' first
    | with_reducible assumption
    | with_reducible apply keep_ite
    | with_reducible apply Dev.bump_inv
    | with_reducible apply Dev.fedSendOn_inv
    | with_reducible apply bootData_inv
    | intro _
    | split
    | dsimp only

theorem Dev.recordPut_inv (d : Dev) (type : Nat) (id : Nat) (data : List Byte) (h1 : d.inv) :
    (Dev.recordPut d type id data).1.inv := by
  unfold Dev.recordPut
  repeat' first
    | with_reducible assumption
    | with_reducible apply keep_ite
    | with_reducible apply keep_ite1
    | with_reducible apply keep_ite2
    | with_reducible apply Dev.freeOf_inv
    | with_reducible apply Dev.setFed_inv
    | (intro x; refine keep_have x ?_ ?_ <;> first | (show x.inv; unfold x) | (intro _; clear_value x))
    | (intro x; refine keep_have1 x ?_ ?_ <;> first | (show x.1.inv; unfold x) | (intro _; clear_value x))
    | (intro x; refine keep_have2 x ?_ ?_ <;> first | (show x.2.inv; unfold x) | (intro _; clear_value x))
    | (intro x; clear_value x)
    | intro _
    | lift_lets
    | simp only [keep_mk]
    | split
    | dsimp only

theorem Dev.recordDel_inv (d : Dev) (type : Nat) (id : Nat) (h1 : d.inv) :
    (Dev.recordDel d type id).1.inv := by
  unfold Dev.recordDel
  repeat' first
    | with_reducible assumption
    | with_reducible apply keep_ite
    | with_reducible apply keep_ite1
    | with_reducible apply keep_ite2
    | with_reducible apply Dev.freeOf_inv
    | with_reducible apply Dev.setFed_inv
    | (intro x; refine keep_have x ?_ ?_ <;> first | (show x.inv; unfold x) | (intro _; clear_value x))
    | (intro x; refine keep_have1 x ?_ ?_ <;> first | (show x.1.inv; unfold x) | (intro _; clear_value x))
    | (intro x; refine keep_have2 x ?_ ?_ <;> first | (show x.2.inv; unfold x) | (intro _; clear_value x))
    | (intro x; clear_value x)
    | intro _
    | lift_lets
    | simp only [keep_mk]
    | split
    | dsimp only

theorem Dev.hostPropose_inv (d : Dev) (c : Nat) (h1 : d.inv) :
    (Dev.hostPropose d c).inv := by
  unfold Dev.hostPropose
  repeat' first
    | with_reducible assumption
    | with_reducible apply keep_ite
    | with_reducible apply keep_ite1
    | with_reducible apply Dev.finishId_inv
    | with_reducible apply Dev.setFed_inv
    | with_reducible apply Dev.accept_inv
    | with_reducible apply Dev.fedSend_inv
    | (intro x; refine keep_have x ?_ ?_ <;> first | (show x.inv; unfold x) | (intro _; clear_value x))
    | (intro x; refine keep_have1 x ?_ ?_ <;> first | (show x.1.inv; unfold x) | (intro _; clear_value x))
    | (intro x; clear_value x)
    | intro _
    | lift_lets
    | simp only [keep_mk]
    | split
    | dsimp only

theorem Dev.hostMigrate_inv (d : Dev) (c : Nat) (node : Nat) (op : Nat) (target : Nat) (h1 : d.inv) :
    (Dev.hostMigrate d c node op target).inv := by
  unfold Dev.hostMigrate
  repeat' first
    | with_reducible assumption
    | with_reducible apply keep_ite
    | with_reducible apply keep_ite1
    | with_reducible apply keep_ite2
    | with_reducible apply Dev.finishId_inv
    | with_reducible apply Dev.migrate_inv
    | with_reducible apply Dev.setFed_inv
    | with_reducible apply Dev.takeReplica_inv
    | with_reducible apply Dev.fedSend_inv
    | with_reducible apply Dev.dropMigration_inv
    | with_reducible apply Dev.handOver_inv
    | with_reducible apply Dev.freeOf_inv
    | (intro x; refine keep_have x ?_ ?_ <;> first | (show x.inv; unfold x) | (intro _; clear_value x))
    | (intro x; refine keep_have1 x ?_ ?_ <;> first | (show x.1.inv; unfold x) | (intro _; clear_value x))
    | (intro x; refine keep_have2 x ?_ ?_ <;> first | (show x.2.inv; unfold x) | (intro _; clear_value x))
    | (intro x; clear_value x)
    | intro _
    | lift_lets
    | simp only [keep_mk]
    | split
    | dsimp only

end Sys2Proof.Machine
end

