-- ==== Sys2Proof/Laws/KeepDomains.lean ====
section
/-! SUPPORT. Every operation of Machine/Domains.lean keeps the invariant. -/

namespace Sys2Proof.Machine

open Sys2Proof

theorem Dev.latchBanks_inv (d : Dev) (n : Nat) (h1 : d.inv) :
    (Dev.latchBanks d n).inv := by
  unfold Dev.latchBanks
  repeat' first
    | with_reducible assumption
    | with_reducible apply Dev.setDom_inv
    | with_reducible refine keep_foldl (fun d x hd => ?_) ?_
    | with_reducible refine keep_foldl1 (fun d x hd => ?_) ?_
    | (intro x; refine keep_have x ?_ ?_ <;> first | (show x.inv; unfold x) | (intro _; clear_value x))
    | (intro x; refine keep_have1 x ?_ ?_ <;> first | (show x.1.inv; unfold x) | (intro _; clear_value x))
    | (intro x; clear_value x)
    | intro _
    | lift_lets
    | simp only [keep_mk]
    | dsimp only

theorem Dev.releaseBanks_inv (d : Dev) (bs : List Nat) (h1 : d.inv) :
    (Dev.releaseBanks d bs).inv := by
  unfold Dev.releaseBanks
  repeat' first
    | with_reducible assumption
    | with_reducible refine keep_foldl (fun d x hd => ?_) ?_
    | with_reducible refine keep_foldl1 (fun d x hd => ?_) ?_
    | intro _
    | simp only [keep_mk]
    | dsimp only

theorem Dev.tempoDrain_inv (d : Dev) (h1 : d.inv) :
    (Dev.tempoDrain d).inv := by
  unfold Dev.tempoDrain
  repeat' first
    | with_reducible assumption
    | with_reducible apply keep_ite
    | with_reducible apply keep_ite1
    | with_reducible apply Dev.dropFrame_inv
    | with_reducible apply Dev.txEnd_inv
    | with_reducible apply Dev.domainOff_inv
    | with_reducible apply Dev.settle_inv
    | with_reducible refine keep_foldl (fun d x hd => ?_) ?_
    | with_reducible refine keep_foldl1 (fun d x hd => ?_) ?_
    | (intro x; refine keep_have x ?_ ?_ <;> first | (show x.inv; unfold x) | (intro _; clear_value x))
    | (intro x; refine keep_have1 x ?_ ?_ <;> first | (show x.1.inv; unfold x) | (intro _; clear_value x))
    | (intro x; clear_value x)
    | intro _
    | lift_lets
    | simp only [keep_mk]
    | split
    | dsimp only

theorem Dev.catchUp_inv (d : Dev) (h1 : d.inv) :
    (Dev.catchUp d).inv := by
  unfold Dev.catchUp
  repeat' first
    | with_reducible assumption
    | with_reducible apply Dev.tempoDrain_inv
    | with_reducible apply Dev.serviceUpdate_inv
    | with_reducible apply Dev.coexUpdate_inv
    | intro _
    | dsimp only

theorem Dev.settleAll_inv (d : Dev) (h1 : d.inv) :
    (Dev.settleAll d).inv := by
  unfold Dev.settleAll
  repeat' first
    | with_reducible assumption
    | with_reducible apply Dev.settle_inv
    | with_reducible apply Dev.catchUp_inv
    | intro _
    | dsimp only

theorem Dev.watchPause_inv (d : Dev) (h1 : d.inv) :
    (Dev.watchPause d).inv := by
  unfold Dev.watchPause
  repeat' first
    | with_reducible assumption
    | with_reducible apply keep_ite
    | with_reducible apply keep_ite1
    | with_reducible apply Dev.wr_inv
    | (intro x; refine keep_have x ?_ ?_ <;> first | (show x.inv; unfold x) | (intro _; clear_value x))
    | (intro x; refine keep_have1 x ?_ ?_ <;> first | (show x.1.inv; unfold x) | (intro _; clear_value x))
    | (intro x; clear_value x)
    | intro _
    | lift_lets
    | simp only [keep_mk]
    | split
    | dsimp only

theorem Dev.watchResume_inv (d : Dev) (h1 : d.inv) :
    (Dev.watchResume d).inv := by
  unfold Dev.watchResume
  repeat' first
    | with_reducible assumption
    | with_reducible apply keep_ite
    | with_reducible apply Dev.wr_inv
    | intro _
    | split
    | dsimp only

theorem Dev.romStart_inv (d : Dev) (h1 : d.inv) :
    (Dev.romStart d).inv := by
  unfold Dev.romStart
  repeat' first
    | with_reducible assumption
    | with_reducible apply Dev.setCore_inv
    | (intro _; exact coreReset_ok _)
    | (intro hn; exact Dev.inv_core (by assumption) hn)
    | (intro _; exact Core.pc_ok (coreReset_ok 0) _ (by omega) (by omega))
    | intro _
    | simp only [keep_mk]
    | dsimp only

theorem Dev.clusterUp_inv (d : Dev) (h1 : d.inv) :
    (Dev.clusterUp d).inv := by
  unfold Dev.clusterUp
  repeat' first
    | with_reducible assumption
    | with_reducible apply keep_ite
    | with_reducible apply keep_ite1
    | with_reducible apply Dev.wr_inv
    | (intro x; refine keep_have x ?_ ?_ <;> first | (show x.inv; unfold x) | (intro _; clear_value x))
    | (intro x; refine keep_have1 x ?_ ?_ <;> first | (show x.1.inv; unfold x) | (intro _; clear_value x))
    | (intro x; clear_value x)
    | intro _
    | lift_lets
    | simp only [keep_mk]
    | split
    | dsimp only

theorem Dev.coreDomainOn_inv (d : Dev) (n : Nat) (h1 : d.inv) :
    (Dev.coreDomainOn d n).inv := by
  unfold Dev.coreDomainOn
  repeat' first
    | with_reducible assumption
    | with_reducible apply keep_ite
    | with_reducible apply keep_ite1
    | with_reducible apply Dev.clusterUp_inv
    | with_reducible apply Dev.romStart_inv
    | with_reducible apply Dev.wake_inv
    | with_reducible apply Dev.setReg_inv
    | with_reducible apply Dev.setCore_inv
    | with_reducible apply Dev.wr_inv
    | (intro x; refine keep_have x ?_ ?_ <;> first | (show x.inv; unfold x) | (intro _; clear_value x))
    | (intro x; refine keep_have1 x ?_ ?_ <;> first | (show x.1.inv; unfold x) | (intro _; clear_value x))
    | (intro (x : Core))
    | (intro x; clear_value x)
    | (intro _; exact coreReset_ok _)
    | (intro hn; exact Dev.inv_core (by assumption) hn)
    | (intro _; exact Core.pc_ok (coreReset_ok 0) _ (by omega) (by omega))
    | intro _
    | lift_lets
    | simp only [keep_mk]
    | split
    | dsimp only

theorem Dev.retiredLanes_inv (d : Dev) (h1 : d.inv) :
    (Dev.retiredLanes d).inv := by
  unfold Dev.retiredLanes
  repeat' first
    | with_reducible assumption
    | with_reducible apply keep_ite
    | with_reducible apply keep_ite1
    | with_reducible apply Dev.wr_inv
    | with_reducible refine keep_foldl (fun d x hd => ?_) ?_
    | with_reducible refine keep_foldl1 (fun d x hd => ?_) ?_
    | (intro x; refine keep_have x ?_ ?_ <;> first | (show x.inv; unfold x) | (intro _; clear_value x))
    | (intro x; refine keep_have1 x ?_ ?_ <;> first | (show x.1.inv; unfold x) | (intro _; clear_value x))
    | (intro x; clear_value x)
    | intro _
    | lift_lets
    | split
    | dsimp only

theorem Dev.receiveDomainOn_inv (d : Dev) (n : Nat) (h1 : d.inv) :
    (Dev.receiveDomainOn d n).inv := by
  unfold Dev.receiveDomainOn
  repeat' first
    | with_reducible assumption
    | with_reducible apply keep_ite
    | with_reducible apply keep_ite1
    | with_reducible apply Dev.setChainState_inv
    | with_reducible apply Dev.bandStart_inv
    | with_reducible apply Dev.bandReceive_inv
    | (intro x; refine keep_have x ?_ ?_ <;> first | (show x.inv; unfold x) | (intro _; clear_value x))
    | (intro x; refine keep_have1 x ?_ ?_ <;> first | (show x.1.inv; unfold x) | (intro _; clear_value x))
    | (intro x; clear_value x)
    | intro _
    | lift_lets
    | split
    | dsimp only

theorem Dev.transmitDomainOn_inv (d : Dev) (n : Nat) (h1 : d.inv) :
    (Dev.transmitDomainOn d n).inv := by
  unfold Dev.transmitDomainOn
  repeat' first
    | with_reducible assumption
    | with_reducible apply keep_ite
    | with_reducible apply keep_ite1
    | with_reducible apply Dev.setChainState_inv
    | (intro x; refine keep_have x ?_ ?_ <;> first | (show x.inv; unfold x) | (intro _; clear_value x))
    | (intro x; refine keep_have1 x ?_ ?_ <;> first | (show x.1.inv; unfold x) | (intro _; clear_value x))
    | (intro x; clear_value x)
    | intro _
    | lift_lets
    | simp only [keep_mk]
    | split
    | dsimp only

theorem Dev.sysDomainOn_inv (d : Dev) (h1 : d.inv) :
    (Dev.sysDomainOn d).inv := by
  unfold Dev.sysDomainOn
  repeat' first
    | with_reducible assumption
    | with_reducible apply Dev.lcStatusLoad_inv
    | with_reducible apply Dev.mirrorLoad_inv
    | with_reducible apply Dev.versionDefault_inv
    | intro _
    | dsimp only

theorem Dev.tempoDomainOn_inv (d : Dev) (h1 : d.inv) :
    (Dev.tempoDomainOn d).inv := by
  unfold Dev.tempoDomainOn
  repeat' first
    | with_reducible assumption
    | with_reducible apply Dev.pairStatus_inv
    | with_reducible apply Dev.setReg_inv
    | (intro x; refine keep_have x ?_ ?_ <;> first | (show x.inv; unfold x) | (intro _; clear_value x))
    | (intro x; refine keep_have1 x ?_ ?_ <;> first | (show x.1.inv; unfold x) | (intro _; clear_value x))
    | (intro x; clear_value x)
    | intro _
    | lift_lets
    | dsimp only

theorem Dev.channelizerOn_inv (d : Dev) (h1 : d.inv) :
    (Dev.channelizerOn d).inv := by
  unfold Dev.channelizerOn
  repeat' first
    | with_reducible assumption
    | with_reducible apply keep_ite
    | with_reducible apply keep_ite1
    | with_reducible apply Dev.retiredLanes_inv
    | with_reducible apply Dev.watchPause_inv
    | with_reducible apply Dev.rxwBand_inv
    | with_reducible apply Dev.setChainState_inv
    | with_reducible apply Dev.bandReceive_inv
    | with_reducible refine keep_foldl (fun d x hd => ?_) ?_
    | with_reducible refine keep_foldl1 (fun d x hd => ?_) ?_
    | (intro x; refine keep_have x ?_ ?_ <;> first | (show x.inv; unfold x) | (intro _; clear_value x))
    | (intro x; refine keep_have1 x ?_ ?_ <;> first | (show x.1.inv; unfold x) | (intro _; clear_value x))
    | (intro x; clear_value x)
    | intro _
    | lift_lets
    | split
    | dsimp only

theorem Dev.startupCal_inv (d : Dev) (h1 : d.inv) :
    (Dev.startupCal d).inv := by
  unfold Dev.startupCal
  repeat' first
    | with_reducible assumption
    | with_reducible apply keep_ite
    | with_reducible apply Dev.settle_inv
    | with_reducible apply Dev.stageBegin_inv
    | intro _
    | simp only [keep_mk]
    | split
    | dsimp only

theorem Dev.bootRequest_inv (d : Dev) (h1 : d.inv) :
    (Dev.bootRequest d).inv := by
  unfold Dev.bootRequest
  repeat' first
    | with_reducible assumption
    | with_reducible apply keep_ite
    | with_reducible apply keep_ite1
    | with_reducible apply keep_ite2
    | with_reducible apply Dev.free_inv
    | with_reducible apply bootReq_inv
    | with_reducible apply Dev.emit_inv
    | with_reducible refine keep_foldl (fun d x hd => ?_) ?_
    | with_reducible refine keep_foldl1 (fun d x hd => ?_) ?_
    | (intro x; refine keep_have x ?_ ?_ <;> first | (show x.inv; unfold x) | (intro _; clear_value x))
    | (intro x; refine keep_have1 x ?_ ?_ <;> first | (show x.1.inv; unfold x) | (intro _; clear_value x))
    | (intro x; refine keep_have2 x ?_ ?_ <;> first | (show x.2.inv; unfold x) | (intro _; clear_value x))
    | (intro x; clear_value x)
    | intro _
    | lift_lets
    | simp only [keep_mk]
    | split
    | dsimp only

theorem Dev.domainOn_inv (d : Dev) (n : Nat) (fromRet : Bool) (h1 : d.inv) :
    (Dev.domainOn d n fromRet).inv := by
  unfold Dev.domainOn
  repeat' first
    | with_reducible assumption
    | with_reducible apply keep_ite
    | with_reducible apply keep_ite1
    | with_reducible apply Dev.sysDomainOn_inv
    | with_reducible apply Dev.coreDomainOn_inv
    | with_reducible apply Dev.tempoDomainOn_inv
    | with_reducible apply Dev.receiveDomainOn_inv
    | with_reducible apply Dev.channelizerOn_inv
    | with_reducible apply Dev.transmitDomainOn_inv
    | with_reducible apply Dev.calAdvance_inv
    | with_reducible apply Dev.startupCal_inv
    | with_reducible apply Dev.bootRequest_inv
    | with_reducible apply Dev.cphRefillAll_inv
    | with_reducible apply Dev.bootProgress_inv
    | (intro x; refine keep_have x ?_ ?_ <;> first | (show x.inv; unfold x) | (intro _; clear_value x))
    | (intro x; refine keep_have1 x ?_ ?_ <;> first | (show x.1.inv; unfold x) | (intro _; clear_value x))
    | (intro x; clear_value x)
    | intro _
    | lift_lets
    | simp only [keep_mk]
    | split
    | dsimp only

theorem Dev.domainIsolate_inv (d : Dev) (n : Nat) (h1 : d.inv) :
    (Dev.domainIsolate d n).inv := by
  unfold Dev.domainIsolate
  repeat' first
    | with_reducible assumption
    | with_reducible apply keep_ite
    | with_reducible apply keep_ite1
    | with_reducible apply Dev.latchBanks_inv
    | with_reducible apply Dev.abandonBand_inv
    | with_reducible apply Dev.setChainState_inv
    | with_reducible refine keep_foldl (fun d x hd => ?_) ?_
    | with_reducible refine keep_foldl1 (fun d x hd => ?_) ?_
    | (intro x; refine keep_have x ?_ ?_ <;> first | (show x.inv; unfold x) | (intro _; clear_value x))
    | (intro x; refine keep_have1 x ?_ ?_ <;> first | (show x.1.inv; unfold x) | (intro _; clear_value x))
    | (intro x; clear_value x)
    | intro _
    | lift_lets
    | split
    | dsimp only

theorem Dev.radioOff_inv (d : Dev) (n : Nat) (h1 : d.inv) :
    (Dev.radioOff d n).inv := by
  unfold Dev.radioOff
  repeat' first
    | with_reducible assumption
    | with_reducible apply keep_ite
    | with_reducible apply keep_ite1
    | with_reducible apply Dev.antennaLost_inv
    | with_reducible apply Dev.setLo_inv
    | with_reducible apply Dev.calStatus_inv
    | with_reducible apply Dev.setChainState_inv
    | (intro x; refine keep_have x ?_ ?_ <;> first | (show x.inv; unfold x) | (intro _; clear_value x))
    | (intro x; refine keep_have1 x ?_ ?_ <;> first | (show x.1.inv; unfold x) | (intro _; clear_value x))
    | (intro x; clear_value x)
    | intro _
    | lift_lets
    | simp only [keep_mk]
    | split
    | dsimp only

theorem Dev.clearDomain_inv (d : Dev) (n : Nat) (h1 : d.inv) :
    (Dev.clearDomain d n).inv := by
  unfold Dev.clearDomain
  repeat' first
    | with_reducible assumption
    | with_reducible apply Dev.clearRegs_inv
    | with_reducible apply Dev.clearMem_inv
    | (intro x; refine keep_have x ?_ ?_ <;> first | (show x.inv; unfold x) | (intro _; clear_value x))
    | (intro x; refine keep_have1 x ?_ ?_ <;> first | (show x.1.inv; unfold x) | (intro _; clear_value x))
    | (intro x; refine keep_haveD x ?_ ?_ <;> first | (show ∀ d : Dev, d.inv → (x d).inv; unfold x; intro _ _) | (intro hfD; clear_value x))
    | (intro x; refine keep_haveG x ?_ ?_ <;> first | (show ∀ (d : Dev) a, d.inv → (x d a).inv; unfold x; intro _ _ _) | (intro hfG; clear_value x))
    | (intro x; refine keep_haveG1 x ?_ ?_ <;> first | (show ∀ (d : Dev) a, d.inv → (x d a).1.inv; unfold x; intro _ _ _) | (intro hfP; clear_value x))
    | (intro x; refine keep_haveF x ?_ ?_ <;> first | (show ∀ a, (x a).inv; unfold x; intro _) | (intro hfF; clear_value x))
    | with_reducible apply hfD
    | with_reducible apply hfG
    | with_reducible apply hfP
    | with_reducible apply hfF
    | (intro x; clear_value x)
    | intro _
    | lift_lets
    | simp only [keep_mk]
    | split
    | dsimp only

theorem Dev.clearBlock_inv (d : Dev) (n : Nat) (h1 : d.inv) :
    (Dev.clearBlock d n).inv := by
  unfold Dev.clearBlock
  repeat' first
    | with_reducible assumption
    | with_reducible apply keep_ite
    | with_reducible apply keep_ite1
    | with_reducible apply Dev.setCore_inv
    | with_reducible apply Dev.wr_inv
    | with_reducible apply Dev.zeroAllSlots_inv
    | with_reducible apply pcieLinkUp_inv
    | (intro x; refine keep_have x ?_ ?_ <;> first | (show x.inv; unfold x) | (intro _; clear_value x))
    | (intro x; refine keep_have1 x ?_ ?_ <;> first | (show x.1.inv; unfold x) | (intro _; clear_value x))
    | (intro (x : Core))
    | (intro x; clear_value x)
    | (intro _; exact coreReset_ok _)
    | (intro hn; exact Dev.inv_core (by assumption) hn)
    | (intro _; exact Core.pc_ok (coreReset_ok 0) _ (by omega) (by omega))
    | intro _
    | lift_lets
    | simp only [keep_mk]
    | split
    | dsimp only

theorem Dev.domainOff_inv (d : Dev) (n : Nat) (h1 : d.inv) :
    (Dev.domainOff d n).inv := by
  unfold Dev.domainOff
  repeat' first
    | with_reducible assumption
    | with_reducible apply keep_ite
    | with_reducible apply keep_ite1
    | with_reducible apply Dev.clearBlock_inv
    | with_reducible apply Dev.clearDomain_inv
    | with_reducible apply Dev.setVotes_inv
    | with_reducible apply Dev.watchResume_inv
    | with_reducible refine keep_foldl (fun d x hd => ?_) ?_
    | with_reducible refine keep_foldl1 (fun d x hd => ?_) ?_
    | (intro x; refine keep_have x ?_ ?_ <;> first | (show x.inv; unfold x) | (intro _; clear_value x))
    | (intro x; refine keep_have1 x ?_ ?_ <;> first | (show x.1.inv; unfold x) | (intro _; clear_value x))
    | (intro x; clear_value x)
    | intro _
    | lift_lets
    | split
    | dsimp only

end Sys2Proof.Machine
end

