-- ==== Sys2Proof/Laws/KeepPower.lean ====
section
/-! SUPPORT. Every operation of Machine/Power.lean keeps the invariant. -/

namespace Sys2Proof.Machine

open Sys2Proof

theorem pwrVoteSet_inv (who : Initiator) (w : Word) (d : Dev) (h1 : d.inv) :
    (pwrVoteSet who w d).inv := by
  unfold pwrVoteSet
  repeat' first
    | with_reducible assumption
    | with_reducible apply Dev.refuseWrite_inv
    | with_reducible apply Dev.catchUp_inv
    | with_reducible apply Dev.rsvd_inv
    | with_reducible apply Dev.setVotes_inv
    | with_reducible apply Dev.settleAll_inv
    | intro _
    | simp only [keep_mk]
    | split
    | dsimp only

theorem pwrVoteClr_inv (who : Initiator) (w : Word) (d : Dev) (h1 : d.inv) :
    (pwrVoteClr who w d).inv := by
  unfold pwrVoteClr
  repeat' first
    | with_reducible assumption
    | with_reducible apply Dev.refuseWrite_inv
    | with_reducible apply Dev.catchUp_inv
    | with_reducible apply Dev.rsvd_inv
    | with_reducible apply Dev.setVotes_inv
    | with_reducible apply Dev.settleAll_inv
    | intro _
    | simp only [keep_mk]
    | split
    | dsimp only

theorem pwrVoteVnWrite_inv (who : Initiator) (n : Nat) (w : Word) (d : Dev) (h1 : d.inv) :
    (pwrVoteVnWrite who n w d).inv := by
  unfold pwrVoteVnWrite
  repeat' first
    | with_reducible assumption
    | with_reducible apply keep_ite
    | with_reducible apply keep_ite1
    | with_reducible apply Dev.refuseWrite_inv
    | with_reducible apply Dev.rsvd_inv
    | with_reducible apply Dev.catchUp_inv
    | with_reducible apply Dev.setVotes_inv
    | with_reducible apply Dev.settleAll_inv
    | (intro x; refine keep_have x ?_ ?_ <;> first | (show x.inv; unfold x) | (intro _; clear_value x))
    | (intro x; refine keep_have1 x ?_ ?_ <;> first | (show x.1.inv; unfold x) | (intro _; clear_value x))
    | (intro x; clear_value x)
    | intro _
    | lift_lets
    | simp only [keep_mk]
    | split
    | dsimp only

theorem domainSwitchOnStart_inv (n : Nat) (d : Dev) (h1 : d.inv) :
    (domainSwitchOnStart n d).inv := by
  unfold domainSwitchOnStart
  repeat' first
    | with_reducible assumption
    | with_reducible apply keep_ite
    | with_reducible apply keep_ite1
    | with_reducible apply clear_inv
    | with_reducible apply Dev.setDom_inv
    | (intro x; refine keep_have x ?_ ?_ <;> first | (show x.inv; unfold x) | (intro _; clear_value x))
    | (intro x; refine keep_have1 x ?_ ?_ <;> first | (show x.1.inv; unfold x) | (intro _; clear_value x))
    | (intro x; clear_value x)
    | intro _
    | lift_lets
    | simp only [keep_mk]
    | split
    | dsimp only

theorem domainPowerUpDone_inv (n : Nat) (d : Dev) (h1 : d.inv) :
    (domainPowerUpDone n d).inv := by
  unfold domainPowerUpDone
  repeat' first
    | with_reducible assumption
    | with_reducible apply keep_ite
    | with_reducible apply keep_ite1
    | with_reducible apply Dev.setDom_inv
    | with_reducible apply Dev.domainOn_inv
    | with_reducible apply Dev.drainStart_inv
    | with_reducible apply Dev.settleAll_inv
    | (intro x; refine keep_have x ?_ ?_ <;> first | (show x.inv; unfold x) | (intro _; clear_value x))
    | (intro x; refine keep_have1 x ?_ ?_ <;> first | (show x.1.inv; unfold x) | (intro _; clear_value x))
    | (intro x; clear_value x)
    | intro _
    | lift_lets
    | simp only [keep_mk]
    | split
    | dsimp only

theorem domainDrainDone_inv (n : Nat) (d : Dev) (h1 : d.inv) :
    (domainDrainDone n d).inv := by
  unfold domainDrainDone
  repeat' first
    | with_reducible assumption
    | with_reducible apply keep_ite
    | with_reducible apply keep_ite1
    | with_reducible apply Dev.catchUp_inv
    | with_reducible apply Dev.setDom_inv
    | with_reducible apply Dev.domainIsolate_inv
    | with_reducible apply Dev.settleAll_inv
    | (intro x; refine keep_have x ?_ ?_ <;> first | (show x.inv; unfold x) | (intro _; clear_value x))
    | (intro x; refine keep_have1 x ?_ ?_ <;> first | (show x.1.inv; unfold x) | (intro _; clear_value x))
    | (intro x; clear_value x)
    | intro _
    | lift_lets
    | simp only [keep_mk]
    | split
    | dsimp only

theorem domainDrainTimeout_inv (n : Nat) (d : Dev) (h1 : d.inv) :
    (domainDrainTimeout n d).inv := by
  unfold domainDrainTimeout
  repeat' first
    | with_reducible assumption
    | with_reducible apply keep_ite
    | with_reducible apply keep_ite1
    | with_reducible apply Dev.catchUp_inv
    | with_reducible apply Dev.setDom_inv
    | with_reducible apply Dev.refusal_inv
    | with_reducible apply Dev.settleAll_inv
    | (intro x; refine keep_have x ?_ ?_ <;> first | (show x.inv; unfold x) | (intro _; clear_value x))
    | (intro x; refine keep_have1 x ?_ ?_ <;> first | (show x.1.inv; unfold x) | (intro _; clear_value x))
    | (intro x; clear_value x)
    | intro _
    | lift_lets
    | simp only [keep_mk]
    | split
    | dsimp only

theorem domainDrainRetry_inv (n : Nat) (d : Dev) (h1 : d.inv) :
    (domainDrainRetry n d).inv := by
  unfold domainDrainRetry
  repeat' first
    | with_reducible assumption
    | with_reducible apply keep_ite
    | with_reducible apply keep_ite1
    | with_reducible apply Dev.setDom_inv
    | with_reducible apply Dev.drainStart_inv
    | with_reducible apply Dev.settleAll_inv
    | (intro x; refine keep_have x ?_ ?_ <;> first | (show x.inv; unfold x) | (intro _; clear_value x))
    | (intro x; refine keep_have1 x ?_ ?_ <;> first | (show x.1.inv; unfold x) | (intro _; clear_value x))
    | (intro x; clear_value x)
    | intro _
    | lift_lets
    | simp only [keep_mk]
    | split
    | dsimp only

theorem domainIsolationDone_inv (n : Nat) (d : Dev) (h1 : d.inv) :
    (domainIsolationDone n d).inv := by
  unfold domainIsolationDone
  repeat' first
    | with_reducible assumption
    | with_reducible apply keep_ite
    | with_reducible apply keep_ite1
    | with_reducible apply Dev.setDom_inv
    | with_reducible apply Dev.releaseBanks_inv
    | with_reducible apply Dev.abortEntry_inv
    | with_reducible apply Dev.bandReceive_inv
    | with_reducible apply Dev.settleAll_inv
    | with_reducible apply Dev.radioOff_inv
    | with_reducible refine keep_foldl (fun d x hd => ?_) ?_
    | with_reducible refine keep_foldl1 (fun d x hd => ?_) ?_
    | (intro x; refine keep_have x ?_ ?_ <;> first | (show x.inv; unfold x) | (intro _; clear_value x))
    | (intro x; refine keep_have1 x ?_ ?_ <;> first | (show x.1.inv; unfold x) | (intro _; clear_value x))
    | (intro x; clear_value x)
    | intro _
    | lift_lets
    | simp only [keep_mk]
    | split
    | dsimp only

theorem domainSwitchOffDone_inv (n : Nat) (d : Dev) (h1 : d.inv) :
    (domainSwitchOffDone n d).inv := by
  unfold domainSwitchOffDone
  repeat' first
    | with_reducible assumption
    | with_reducible apply keep_ite
    | with_reducible apply keep_ite1
    | with_reducible apply Dev.setDom_inv
    | with_reducible apply Dev.domainOff_inv
    | with_reducible apply Dev.abortEntry_inv
    | with_reducible apply Dev.settleAll_inv
    | (intro x; refine keep_have x ?_ ?_ <;> first | (show x.inv; unfold x) | (intro _; clear_value x))
    | (intro x; refine keep_have1 x ?_ ?_ <;> first | (show x.1.inv; unfold x) | (intro _; clear_value x))
    | (intro x; clear_value x)
    | intro _
    | lift_lets
    | simp only [keep_mk]
    | split
    | dsimp only

theorem pwrPadRelease_inv (who : Initiator) (w : Word) (d : Dev) (h1 : d.inv) :
    (pwrPadRelease who w d).inv := by
  unfold pwrPadRelease
  repeat' first
    | with_reducible assumption
    | with_reducible apply Dev.rsvd_inv
    | with_reducible apply Dev.releaseBanks_inv
    | (intro x; refine keep_have x ?_ ?_ <;> first | (show x.inv; unfold x) | (intro _; clear_value x))
    | (intro x; refine keep_have1 x ?_ ?_ <;> first | (show x.1.inv; unfold x) | (intro _; clear_value x))
    | (intro x; clear_value x)
    | intro _
    | lift_lets
    | dsimp only

theorem Dev.supplyStart_inv (d : Dev) (n : Nat) (h1 : d.inv) :
    (Dev.supplyStart d n).inv := by
  unfold Dev.supplyStart
  repeat' first
    | with_reducible assumption
    | with_reducible apply keep_ite
    | with_reducible apply keep_ite1
    | with_reducible apply railGood_inv
    | with_reducible apply Dev.setDom_inv
    | (intro x; refine keep_have x ?_ ?_ <;> first | (show x.inv; unfold x) | (intro _; clear_value x))
    | (intro x; refine keep_have1 x ?_ ?_ <;> first | (show x.1.inv; unfold x) | (intro _; clear_value x))
    | (intro x; clear_value x)
    | intro _
    | lift_lets
    | simp only [keep_mk]
    | split
    | dsimp only

theorem railGood_inv (r : Nat) (d : Dev) (h1 : d.inv) :
    (railGood r d).inv := by
  unfold railGood
  repeat' first
    | with_reducible assumption
    | with_reducible apply keep_ite
    | with_reducible apply keep_ite1
    | with_reducible apply Dev.wr_inv
    | with_reducible apply Dev.supplyStart_inv
    | with_reducible apply Dev.bootProgress_inv
    | with_reducible apply Dev.settleAll_inv
    | with_reducible refine keep_foldl (fun d x hd => ?_) ?_
    | with_reducible refine keep_foldl1 (fun d x hd => ?_) ?_
    | (intro x; refine keep_have x ?_ ?_ <;> first | (show x.inv; unfold x) | (intro _; clear_value x))
    | (intro x; refine keep_have1 x ?_ ?_ <;> first | (show x.1.inv; unfold x) | (intro _; clear_value x))
    | (intro x; clear_value x)
    | intro _
    | lift_lets
    | split
    | dsimp only

theorem nvOkFall_inv (d : Dev) (h1 : d.inv) :
    (nvOkFall d).inv := by
  unfold nvOkFall
  repeat' first
    | with_reducible assumption
    | with_reducible apply keep_ite
    | with_reducible apply Dev.wr_inv
    | with_reducible apply Dev.bump_inv
    | intro _
    | split
    | dsimp only

theorem nvOkRise_inv (d : Dev) (h1 : d.inv) :
    (nvOkRise d).inv := by
  unfold nvOkRise
  repeat' first
    | with_reducible assumption
    | with_reducible apply Dev.wr_inv
    | intro _
    | dsimp only

theorem Dev.opPlan_inv (d : Dev) (h1 : d.inv) :
    (Dev.opPlan d).inv := by
  unfold Dev.opPlan
  repeat' first
    | with_reducible assumption
    | with_reducible apply keep_ite
    | with_reducible apply keep_ite1
    | with_reducible apply Dev.wr_inv
    | (intro x; refine keep_have x ?_ ?_ <;> first | (show x.inv; unfold x) | (intro _; clear_value x))
    | (intro x; refine keep_have1 x ?_ ?_ <;> first | (show x.1.inv; unfold x) | (intro _; clear_value x))
    | (intro x; refine keep_haveD x ?_ ?_ <;> first | (show ∀ d : Dev, d.inv → (x d).inv; unfold x; intro _ _) | (intro hfD; clear_value x))
    | (intro x; refine keep_haveG x ?_ ?_ <;> first | (show ∀ (d : Dev) a, d.inv → (x d a).inv; unfold x; intro _ _ _) | (intro hfG; clear_value x))
    | (intro x; refine keep_haveG1 x ?_ ?_ <;> first | (show ∀ (d : Dev) a, d.inv → (x d a).1.inv; unfold x; intro _ _ _) | (intro hfP; clear_value x))
    | (intro x; refine keep_haveF x ?_ ?_ <;> first | (show ∀ a, (x a).inv; unfold x; intro _) | (intro hfF; clear_value x))
    | with_reducible apply hfD
    | with_reducible apply hfG
    | with_reducible apply hfP
    | with_reducible apply hfF
    | (intro x; clear_value x)
    | intro _
    | lift_lets
    | simp only [keep_mk]
    | split
    | dsimp only

theorem clkOpCtrlWrite_inv (who : Initiator) (w : Word) (d : Dev) (h1 : d.inv) :
    (clkOpCtrlWrite who w d).inv := by
  unfold clkOpCtrlWrite
  repeat' first
    | with_reducible assumption
    | with_reducible apply keep_ite
    | with_reducible apply keep_ite1
    | with_reducible apply Dev.refuseWrite_inv
    | with_reducible apply Dev.plainWrite_inv
    | with_reducible apply Dev.opPlan_inv
    | with_reducible apply Dev.bump_inv
    | (intro x; refine keep_have x ?_ ?_ <;> first | (show x.inv; unfold x) | (intro _; clear_value x))
    | (intro x; refine keep_have1 x ?_ ?_ <;> first | (show x.1.inv; unfold x) | (intro _; clear_value x))
    | (intro x; clear_value x)
    | intro _
    | lift_lets
    | split
    | dsimp only

theorem opVoltageRampDone_inv (d : Dev) (h1 : d.inv) :
    (opVoltageRampDone d).inv := by
  unfold opVoltageRampDone
  repeat' first
    | with_reducible assumption
    | with_reducible apply Dev.opPlan_inv
    | intro _
    | simp only [keep_mk]
    | split
    | dsimp only

theorem opPllRelockDone_inv (d : Dev) (h1 : d.inv) :
    (opPllRelockDone d).inv := by
  unfold opPllRelockDone
  repeat' first
    | with_reducible assumption
    | with_reducible apply Dev.opPlan_inv
    | intro _
    | simp only [keep_mk]
    | split
    | dsimp only

theorem coreRailDrop_inv (d : Dev) (h1 : d.inv) :
    (coreRailDrop d).inv := by
  unfold coreRailDrop
  repeat' first
    | with_reducible assumption
    | with_reducible apply keep_ite
    | with_reducible apply Dev.bump_inv
    | intro _
    | simp only [keep_mk]
    | split
    | dsimp only

theorem Dev.wake_inv (d : Dev) (causes : Nat) (h1 : d.inv) :
    (Dev.wake d causes).inv := by
  unfold Dev.wake
  repeat' first
    | with_reducible assumption
    | with_reducible apply keep_ite
    | with_reducible apply keep_ite1
    | with_reducible apply Dev.setReg_inv
    | with_reducible apply start_inv
    | with_reducible apply Dev.setVotes_inv
    | with_reducible apply Dev.settleAll_inv
    | with_reducible apply Dev.raise_inv
    | with_reducible refine keep_foldl (fun d x hd => ?_) ?_
    | with_reducible refine keep_foldl1 (fun d x hd => ?_) ?_
    | (intro x; refine keep_have x ?_ ?_ <;> first | (show x.inv; unfold x) | (intro _; clear_value x))
    | (intro x; refine keep_have1 x ?_ ?_ <;> first | (show x.1.inv; unfold x) | (intro _; clear_value x))
    | (intro x; clear_value x)
    | intro _
    | lift_lets
    | simp only [keep_mk]
    | split
    | dsimp only

theorem Dev.levelWakes_inv (d : Dev) (h1 : d.inv) :
    (Dev.levelWakes d).inv := by
  unfold Dev.levelWakes
  repeat' first
    | with_reducible assumption
    | with_reducible apply keep_ite
    | with_reducible apply keep_ite1
    | with_reducible apply Dev.wake_inv
    | with_reducible refine keep_foldl (fun d x hd => ?_) ?_
    | with_reducible refine keep_foldl1 (fun d x hd => ?_) ?_
    | (intro x; refine keep_have x ?_ ?_ <;> first | (show x.inv; unfold x) | (intro _; clear_value x))
    | (intro x; refine keep_have1 x ?_ ?_ <;> first | (show x.1.inv; unfold x) | (intro _; clear_value x))
    | (intro x; clear_value x)
    | intro _
    | lift_lets
    | split
    | dsimp only

theorem wakePin_inv (n : Nat) (level : Bool) (d : Dev) (h1 : d.inv) :
    (wakePin n level d).inv := by
  unfold wakePin
  repeat' first
    | with_reducible assumption
    | with_reducible apply keep_ite
    | with_reducible apply keep_ite1
    | with_reducible apply Dev.wake_inv
    | (intro x; refine keep_have x ?_ ?_ <;> first | (show x.inv; unfold x) | (intro _; clear_value x))
    | (intro x; refine keep_have1 x ?_ ?_ <;> first | (show x.1.inv; unfold x) | (intro _; clear_value x))
    | (intro x; clear_value x)
    | intro _
    | lift_lets
    | simp only [keep_mk]
    | split
    | dsimp only

theorem wakeTimerCompare_inv (d : Dev) (h1 : d.inv) :
    (wakeTimerCompare d).inv := by
  unfold wakeTimerCompare
  repeat' first
    | with_reducible assumption
    | with_reducible apply keep_ite
    | with_reducible apply Dev.wake_inv
    | intro _
    | simp only [keep_mk]
    | split
    | dsimp only

theorem pwrWakeTimeHiWrite_inv (w : Word) (d : Dev) (h1 : d.inv) :
    (pwrWakeTimeHiWrite w d).inv := by
  unfold pwrWakeTimeHiWrite
  repeat' first
    | with_reducible assumption
    | with_reducible apply Dev.setReg_inv
    | with_reducible apply wakeTimerCompare_inv
    | (intro x; refine keep_have x ?_ ?_ <;> first | (show x.inv; unfold x) | (intro _; clear_value x))
    | (intro x; refine keep_have1 x ?_ ?_ <;> first | (show x.1.inv; unfold x) | (intro _; clear_value x))
    | (intro x; clear_value x)
    | intro _
    | lift_lets
    | simp only [keep_mk]
    | dsimp only

theorem wurxTelegramMatch_inv (chips : List Bool) (d : Dev) (h1 : d.inv) :
    (wurxTelegramMatch chips d).inv := by
  unfold wurxTelegramMatch
  repeat' first
    | with_reducible assumption
    | with_reducible apply keep_ite
    | with_reducible apply keep_ite1
    | with_reducible apply Dev.txEnd_inv
    | with_reducible apply Dev.wake_inv
    | (intro x; refine keep_have x ?_ ?_ <;> first | (show x.inv; unfold x) | (intro _; clear_value x))
    | (intro x; refine keep_have1 x ?_ ?_ <;> first | (show x.1.inv; unfold x) | (intro _; clear_value x))
    | (intro x; clear_value x)
    | intro _
    | lift_lets
    | simp only [keep_mk]
    | split
    | dsimp only

theorem pwrWatchCtrlWrite_inv (who : Initiator) (w : Word) (d : Dev) (h1 : d.inv) :
    (pwrWatchCtrlWrite who w d).inv := by
  unfold pwrWatchCtrlWrite
  repeat' first
    | with_reducible assumption
    | with_reducible apply keep_ite
    | with_reducible apply keep_ite1
    | with_reducible apply Dev.rejectWrite_inv
    | with_reducible apply Dev.plainWrite_inv
    | with_reducible apply Dev.wr_inv
    | with_reducible apply Dev.settleAll_inv
    | (intro x; refine keep_have x ?_ ?_ <;> first | (show x.inv; unfold x) | (intro _; clear_value x))
    | (intro x; refine keep_have1 x ?_ ?_ <;> first | (show x.1.inv; unfold x) | (intro _; clear_value x))
    | (intro x; clear_value x)
    | intro _
    | lift_lets
    | simp only [keep_mk]
    | split
    | dsimp only

theorem Dev.watchSleep_inv (d : Dev) (h1 : d.inv) :
    (Dev.watchSleep d).inv := by
  unfold Dev.watchSleep
  repeat' first
    | with_reducible assumption
    | with_reducible apply keep_ite
    | with_reducible apply keep_ite1
    | with_reducible apply Dev.setChainState_inv
    | with_reducible apply Dev.wr_inv
    | with_reducible apply Dev.settleAll_inv
    | (intro x; refine keep_have x ?_ ?_ <;> first | (show x.inv; unfold x) | (intro _; clear_value x))
    | (intro x; refine keep_have1 x ?_ ?_ <;> first | (show x.1.inv; unfold x) | (intro _; clear_value x))
    | (intro x; clear_value x)
    | intro _
    | lift_lets
    | simp only [keep_mk]
    | split
    | dsimp only

theorem watchPeriodTick_inv (d : Dev) (h1 : d.inv) :
    (watchPeriodTick d).inv := by
  unfold watchPeriodTick
  split
  · exact h1
  · extract_lets _ e st f good _ g
    have he : e.inv := by
      unfold e
      simp only [keep_mk]
      exact h1
    have hf : f.inv := by
      unfold f
      exact keep_ite (Dev.wr_inv _ _ _ _ he) he
    have hg : g.inv := by
      unfold g
      refine Dev.settleAll_inv _ ?_
      simp only [keep_mk]
      exact hf
    clear_value g
    refine keep_ite (Dev.wr_inv _ _ _ _ (Dev.wr_inv _ _ _ _ hg)) (Dev.watchSleep_inv _ ?_)
    simp only [keep_mk]
    exact hg

theorem watchGainSettled_inv (d : Dev) (h1 : d.inv) :
    (watchGainSettled d).inv := by
  unfold watchGainSettled
  repeat' first
    | with_reducible assumption
    | with_reducible apply keep_ite
    | with_reducible apply keep_ite1
    | with_reducible apply Dev.setChainState_inv
    | with_reducible apply Dev.wr_inv
    | (intro x; refine keep_have x ?_ ?_ <;> first | (show x.inv; unfold x) | (intro _; clear_value x))
    | (intro x; refine keep_have1 x ?_ ?_ <;> first | (show x.1.inv; unfold x) | (intro _; clear_value x))
    | (intro x; clear_value x)
    | intro _
    | lift_lets
    | split
    | dsimp only

theorem watchDwellEnd_inv (energy : List Nat) (corr : List Nat) (d : Dev) (h1 : d.inv) :
    (watchDwellEnd energy corr d).inv := by
  unfold watchDwellEnd
  repeat' first
    | with_reducible assumption
    | with_reducible apply keep_ite
    | with_reducible apply keep_ite1
    | with_reducible apply keep_ite2
    | with_reducible apply Dev.watchSleep_inv
    | with_reducible apply Dev.free_inv
    | with_reducible apply Dev.wr_inv
    | with_reducible apply Dev.raise_inv
    | with_reducible apply Dev.wake_inv
    | (intro x; refine keep_have x ?_ ?_ <;> first | (show x.inv; unfold x) | (intro _; clear_value x))
    | (intro x; refine keep_have1 x ?_ ?_ <;> first | (show x.1.inv; unfold x) | (intro _; clear_value x))
    | (intro x; refine keep_have2 x ?_ ?_ <;> first | (show x.2.inv; unfold x) | (intro _; clear_value x))
    | (intro x; clear_value x)
    | intro _
    | lift_lets
    | simp only [keep_mk]
    | split
    | dsimp only

theorem watchVoteRelease_inv (d : Dev) (h1 : d.inv) :
    (watchVoteRelease d).inv := by
  unfold watchVoteRelease
  repeat' first
    | with_reducible assumption
    | with_reducible apply keep_ite
    | with_reducible apply keep_ite1
    | with_reducible apply Dev.setChainState_inv
    | with_reducible apply Dev.settleAll_inv
    | (intro x; refine keep_have x ?_ ?_ <;> first | (show x.inv; unfold x) | (intro _; clear_value x))
    | (intro x; refine keep_have1 x ?_ ?_ <;> first | (show x.1.inv; unfold x) | (intro _; clear_value x))
    | (intro x; clear_value x)
    | intro _
    | lift_lets
    | simp only [keep_mk]
    | split
    | dsimp only

end Sys2Proof.Machine
end

