-- ==== Sys2Proof/Laws/KeepErr.lean ====
section
/-! SUPPORT. Every operation of Machine/Err.lean keeps the invariant. -/

namespace Sys2Proof.Machine

open Sys2Proof

theorem Dev.spareCounted_inv (d : Dev) (mem : Nat) (h1 : d.inv) :
    (Dev.spareCounted d mem).inv := by
  unfold Dev.spareCounted
  repeat' first
    | with_reducible assumption
    | with_reducible apply keep_ite
    | with_reducible apply Dev.bump_inv
    | intro _
    | split
    | dsimp only

theorem Dev.remapRow_inv (d : Dev) (res : Nat) (h1 : d.inv) :
    (Dev.remapRow d res).1.inv := by
  unfold Dev.remapRow
  repeat' first
    | with_reducible assumption
    | with_reducible apply keep_ite
    | with_reducible apply keep_ite1
    | with_reducible apply Dev.done_inv
    | with_reducible apply Dev.spareCounted_inv
    | (intro x; refine keep_have x ?_ ?_ <;> first | (show x.inv; unfold x) | (intro _; clear_value x))
    | (intro x; refine keep_have1 x ?_ ?_ <;> first | (show x.1.inv; unfold x) | (intro _; clear_value x))
    | (intro x; clear_value x)
    | intro _
    | lift_lets
    | simp only [keep_mk]
    | split
    | dsimp only

theorem Dev.nodeRow_inv (d : Dev) (res : Nat) (h1 : d.inv) :
    (Dev.nodeRow d res).inv := by
  unfold Dev.nodeRow
  repeat' first
    | with_reducible assumption
    | with_reducible apply keep_ite
    | with_reducible apply keep_ite1
    | with_reducible apply Dev.clearMem_inv
    | with_reducible apply Dev.raise_inv
    | with_reducible apply Dev.bumpBy_inv
    | with_reducible apply Dev.slpForget_inv
    | with_reducible apply Dev.rebuildSlot_inv
    | with_reducible refine keep_foldl (fun d x hd => ?_) ?_
    | with_reducible refine keep_foldl1 (fun d x hd => ?_) ?_
    | (intro x; refine keep_have x ?_ ?_ <;> first | (show x.inv; unfold x) | (intro _; clear_value x))
    | (intro x; refine keep_have1 x ?_ ?_ <;> first | (show x.1.inv; unfold x) | (intro _; clear_value x))
    | (intro x; clear_value x)
    | intro _
    | lift_lets
    | simp only [keep_mk]
    | split
    | dsimp only

theorem Dev.packetRow_inv (d : Dev) (res : Nat) (h1 : d.inv) :
    (Dev.packetRow d res).inv := by
  unfold Dev.packetRow
  repeat' first
    | with_reducible assumption
    | with_reducible apply keep_ite
    | with_reducible apply keep_ite1
    | with_reducible apply Dev.clearMem_inv
    | with_reducible apply Dev.laneFree_inv
    | with_reducible apply Dev.bump_inv
    | with_reducible apply Dev.finish_inv
    | with_reducible refine keep_foldl (fun d x hd => ?_) ?_
    | with_reducible refine keep_foldl1 (fun d x hd => ?_) ?_
    | (intro x; refine keep_have x ?_ ?_ <;> first | (show x.inv; unfold x) | (intro _; clear_value x))
    | (intro x; refine keep_have1 x ?_ ?_ <;> first | (show x.1.inv; unfold x) | (intro _; clear_value x))
    | (intro x; refine keep_haveD x ?_ ?_ <;> first | (show ∀ d : Dev, d.inv → (x d).inv; unfold x; intro _ _) | (intro hfD; clear_value x))
    | (intro x; refine keep_haveG x ?_ ?_ <;> first | (show ∀ (d : Dev) a, d.inv → (x d a).inv; unfold x; intro _ _ _) | (intro hfG; clear_value x))
    | (intro x; refine keep_haveG1 x ?_ ?_ <;> first | (show ∀ (d : Dev) a, d.inv → (x d a).1.inv; unfold x; intro _ _ _) | (intro hfP; clear_value x))
    | (intro x; refine keep_haveF x ?_ ?_ <;> first | (show ∀ a, (x a).inv; unfold x; intro _) | (intro hfF; clear_value x))
    | with_reducible apply hfD
    | with_reducible apply hfG
    | with_reducible apply hfP
    | with_reducible apply hfF
    | (intro x; clear_value x)
    | intro _
    | lift_lets
    | simp only [keep_mk]
    | split
    | dsimp only

theorem Dev.keyRow_inv (d : Dev) (res : Nat) (h1 : d.inv) :
    (Dev.keyRow d res).inv := by
  unfold Dev.keyRow
  repeat' first
    | with_reducible assumption
    | with_reducible apply keep_ite
    | with_reducible apply Dev.zeroSlot_inv
    | with_reducible refine keep_foldl (fun d x hd => ?_) ?_
    | with_reducible refine keep_foldl1 (fun d x hd => ?_) ?_
    | intro _
    | split
    | dsimp only

theorem Dev.rowRetire_inv (d : Dev) (res : Nat) (h1 : d.inv) :
    (Dev.rowRetire d res).inv := by
  unfold Dev.rowRetire
  repeat' first
    | with_reducible assumption
    | with_reducible apply keep_ite
    | with_reducible apply keep_ite1
    | with_reducible apply keep_ite2
    | with_reducible apply Dev.remapRow_inv
    | with_reducible apply Dev.bump_inv
    | with_reducible apply Dev.nodeRow_inv
    | with_reducible apply Dev.packetRow_inv
    | with_reducible apply Dev.keyRow_inv
    | with_reducible apply Dev.clearMem_inv
    | (intro x; refine keep_have x ?_ ?_ <;> first | (show x.inv; unfold x) | (intro _; clear_value x))
    | (intro x; refine keep_have1 x ?_ ?_ <;> first | (show x.1.inv; unfold x) | (intro _; clear_value x))
    | (intro x; refine keep_have2 x ?_ ?_ <;> first | (show x.2.inv; unfold x) | (intro _; clear_value x))
    | (intro x; clear_value x)
    | intro _
    | lift_lets
    | split
    | dsimp only

theorem rowRemapDone_inv (res : Nat) (entry : Option Nat) (bucket : Option (Nat × Nat)) (d : Dev) (h1 : d.inv) :
    (rowRemapDone res entry bucket d).inv := by
  unfold rowRemapDone
  repeat' first
    | with_reducible assumption
    | with_reducible apply keep_ite
    | with_reducible apply keep_ite1
    | with_reducible apply Dev.permanent_inv
    | with_reducible apply Dev.wr_inv
    | with_reducible apply Dev.setDutyHist_inv
    | with_reducible apply Dev.dutyRegs_inv
    | with_reducible apply Dev.mismatch_inv
    | with_reducible apply Dev.bufferLost_inv
    | with_reducible apply Dev.bump_inv
    | with_reducible apply Dev.rowRetire_inv
    | (intro x; refine keep_have x ?_ ?_ <;> first | (show x.inv; unfold x) | (intro _; clear_value x))
    | (intro x; refine keep_have1 x ?_ ?_ <;> first | (show x.1.inv; unfold x) | (intro _; clear_value x))
    | (intro x; clear_value x)
    | intro _
    | lift_lets
    | simp only [keep_mk]
    | split
    | dsimp only

theorem Dev.queueMove_inv (d : Dev) (q : Nat) (h1 : d.inv) :
    (Dev.queueMove d q).inv := by
  unfold Dev.queueMove
  repeat' first
    | with_reducible assumption
    | with_reducible apply keep_ite
    | with_reducible apply keep_ite1
    | with_reducible apply Dev.done_inv
    | with_reducible apply Dev.wr_inv
    | with_reducible apply Dev.notice_inv
    | (intro x; refine keep_have x ?_ ?_ <;> first | (show x.inv; unfold x) | (intro _; clear_value x))
    | (intro x; refine keep_have1 x ?_ ?_ <;> first | (show x.1.inv; unfold x) | (intro _; clear_value x))
    | (intro x; refine keep_haveD x ?_ ?_ <;> first | (show ∀ d : Dev, d.inv → (x d).inv; unfold x; intro _ _) | (intro hfD; clear_value x))
    | (intro x; refine keep_haveG x ?_ ?_ <;> first | (show ∀ (d : Dev) a, d.inv → (x d a).inv; unfold x; intro _ _ _) | (intro hfG; clear_value x))
    | (intro x; refine keep_haveG1 x ?_ ?_ <;> first | (show ∀ (d : Dev) a, d.inv → (x d a).1.inv; unfold x; intro _ _ _) | (intro hfP; clear_value x))
    | (intro x; refine keep_haveF x ?_ ?_ <;> first | (show ∀ a, (x a).inv; unfold x; intro _) | (intro hfF; clear_value x))
    | with_reducible apply hfD
    | with_reducible apply hfG
    | with_reducible apply hfP
    | with_reducible apply hfF
    | (intro x; clear_value x)
    | intro _
    | lift_lets
    | simp only [keep_mk]
    | split
    | dsimp only

theorem queueRetireMove_inv (q : Nat) (d : Dev) (h1 : d.inv) :
    (queueRetireMove q d).inv := by
  unfold queueRetireMove
  repeat' first
    | with_reducible assumption
    | with_reducible apply keep_ite
    | with_reducible apply keep_ite1
    | with_reducible apply Dev.permanent_inv
    | with_reducible apply Dev.queueMove_inv
    | (intro x; refine keep_have x ?_ ?_ <;> first | (show x.inv; unfold x) | (intro _; clear_value x))
    | (intro x; refine keep_have1 x ?_ ?_ <;> first | (show x.1.inv; unfold x) | (intro _; clear_value x))
    | (intro x; clear_value x)
    | intro _
    | lift_lets
    | simp only [keep_mk]
    | split
    | dsimp only

theorem Dev.laneRetire_inv (d : Dev) (i : Nat) (h1 : d.inv) :
    (Dev.laneRetire d i).inv := by
  unfold Dev.laneRetire
  repeat' first
    | with_reducible assumption
    | with_reducible apply keep_ite
    | with_reducible apply keep_ite1
    | with_reducible apply Dev.done_inv
    | with_reducible apply Dev.laneFree_inv
    | with_reducible apply Dev.bump_inv
    | with_reducible apply Dev.wr_inv
    | (intro x; refine keep_have x ?_ ?_ <;> first | (show x.inv; unfold x) | (intro _; clear_value x))
    | (intro x; refine keep_have1 x ?_ ?_ <;> first | (show x.1.inv; unfold x) | (intro _; clear_value x))
    | (intro x; clear_value x)
    | intro _
    | lift_lets
    | simp only [keep_mk]
    | split
    | dsimp only

theorem Dev.mapMismatch_inv (d : Dev) (res : Nat) (h1 : d.inv) :
    (Dev.mapMismatch d res).inv := by
  unfold Dev.mapMismatch
  repeat' first
    | with_reducible assumption
    | with_reducible apply keep_ite
    | with_reducible apply keep_ite1
    | with_reducible apply Dev.permanent_inv
    | with_reducible apply Dev.laneRetire_inv
    | with_reducible apply Dev.retirePair_inv
    | with_reducible apply Dev.engineRetire_inv
    | (intro x; refine keep_have x ?_ ?_ <;> first | (show x.inv; unfold x) | (intro _; clear_value x))
    | (intro x; refine keep_have1 x ?_ ?_ <;> first | (show x.1.inv; unfold x) | (intro _; clear_value x))
    | (intro x; clear_value x)
    | intro _
    | lift_lets
    | simp only [keep_mk]
    | split
    | dsimp only

theorem sparingMapCheck_inv (bad : List Nat) (d : Dev) (h1 : d.inv) :
    (sparingMapCheck bad d).inv := by
  unfold sparingMapCheck
  repeat' first
    | with_reducible assumption
    | with_reducible apply Dev.mapMismatch_inv
    | with_reducible apply Dev.settleAll_inv
    | with_reducible refine keep_foldl (fun d x hd => ?_) ?_
    | with_reducible refine keep_foldl1 (fun d x hd => ?_) ?_
    | intro _
    | dsimp only

end Sys2Proof.Machine
end

