-- ==== Sys2Proof/Laws/KeepHciCtl.lean ====
section
/-! SUPPORT. Every operation of Machine/HciCtl.lean keeps the invariant. -/

namespace Sys2Proof.Machine

open Sys2Proof

theorem Dev.doorbellError_inv (d : Dev) (cause : Nat) (q : Nat) (h1 : d.inv) :
    (Dev.doorbellError d cause q).inv := by
  unfold Dev.doorbellError
  repeat' first
    | with_reducible assumption
    | with_reducible apply Dev.bump_inv
    | with_reducible apply Dev.qerr_inv
    | intro _
    | dsimp only

theorem Dev.doorbellAct_inv (d : Dev) (q : Nat) (w : Nat) (h1 : d.inv) :
    (Dev.doorbellAct d q w).inv := by
  unfold Dev.doorbellAct
  repeat' first
    | with_reducible assumption
    | with_reducible apply keep_ite
    | with_reducible apply keep_ite1
    | with_reducible apply Dev.doorbellError_inv
    | with_reducible apply Dev.wr_inv
    | with_reducible apply Dev.sendMsix_inv
    | (intro x; refine keep_have x ?_ ?_ <;> first | (show x.inv; unfold x) | (intro _; clear_value x))
    | (intro x; refine keep_have1 x ?_ ?_ <;> first | (show x.1.inv; unfold x) | (intro _; clear_value x))
    | (intro x; clear_value x)
    | intro _
    | lift_lets
    | split
    | dsimp only

theorem Dev.doorbellWrite_inv (d : Dev) (q : Nat) (w : Nat) (h1 : d.inv) :
    (Dev.doorbellWrite d q w).inv := by
  unfold Dev.doorbellWrite
  repeat' first
    | with_reducible assumption
    | with_reducible apply keep_ite
    | with_reducible apply Dev.errGhost_inv
    | with_reducible apply Dev.doorbellAct_inv
    | intro _
    | simp only [keep_mk]
    | split
    | dsimp only

theorem Dev.qReset_inv (d : Dev) (q : Nat) (h1 : d.inv) :
    (Dev.qReset d q).inv := by
  unfold Dev.qReset
  repeat' first
    | with_reducible assumption
    | with_reducible apply Dev.clearRegs_inv
    | (intro x; refine keep_have x ?_ ?_ <;> first | (show x.inv; unfold x) | (intro _; clear_value x))
    | (intro x; refine keep_have1 x ?_ ?_ <;> first | (show x.1.inv; unfold x) | (intro _; clear_value x))
    | (intro x; clear_value x)
    | intro _
    | lift_lets
    | simp only [keep_mk]
    | dsimp only

theorem Dev.hciReset_inv (d : Dev) (h1 : d.inv) :
    (Dev.hciReset d).inv := by
  unfold Dev.hciReset
  repeat' first
    | with_reducible assumption
    | with_reducible apply Dev.txRelease_inv
    | with_reducible apply Dev.dropFrame_inv
    | with_reducible apply Dev.clearRegs_inv
    | with_reducible apply Dev.wr_inv
    | with_reducible apply Dev.versionDefault_inv
    | with_reducible apply Dev.settleAll_inv
    | with_reducible refine keep_foldl (fun d x hd => ?_) ?_
    | with_reducible refine keep_foldl1 (fun d x hd => ?_) ?_
    | (intro x; refine keep_have x ?_ ?_ <;> first | (show x.inv; unfold x) | (intro _; clear_value x))
    | (intro x; refine keep_have1 x ?_ ?_ <;> first | (show x.1.inv; unfold x) | (intro _; clear_value x))
    | (intro x; clear_value x)
    | intro _
    | lift_lets
    | simp only [keep_mk]
    | dsimp only

theorem Dev.adminQueue_inv (d : Dev) (q : Nat) (size : Nat) (base : Nat) (cfg : Nat) (h1 : d.inv) :
    (Dev.adminQueue d q size base cfg).inv := by
  unfold Dev.adminQueue
  repeat' first
    | with_reducible assumption
    | with_reducible apply Dev.qReset_inv
    | with_reducible apply Dev.wr_inv
    | (intro x; refine keep_have x ?_ ?_ <;> first | (show x.inv; unfold x) | (intro _; clear_value x))
    | (intro x; refine keep_have1 x ?_ ?_ <;> first | (show x.1.inv; unfold x) | (intro _; clear_value x))
    | (intro x; clear_value x)
    | intro _
    | lift_lets
    | dsimp only

theorem Dev.hciEnable_inv (d : Dev) (h1 : d.inv) :
    (Dev.hciEnable d).inv := by
  unfold Dev.hciEnable
  repeat' first
    | with_reducible assumption
    | with_reducible apply keep_ite
    | with_reducible apply keep_ite1
    | with_reducible apply Dev.adminQueue_inv
    | with_reducible apply Dev.wr_inv
    | with_reducible apply Dev.qerr_inv
    | (intro x; refine keep_have x ?_ ?_ <;> first | (show x.inv; unfold x) | (intro _; clear_value x))
    | (intro x; refine keep_have1 x ?_ ?_ <;> first | (show x.1.inv; unfold x) | (intro _; clear_value x))
    | (intro x; clear_value x)
    | intro _
    | lift_lets
    | split
    | dsimp only

theorem hciCtrlWrite_inv (who : Initiator) (w : Word) (d : Dev) (h1 : d.inv) :
    (hciCtrlWrite who w d).inv := by
  unfold hciCtrlWrite
  repeat' first
    | with_reducible assumption
    | with_reducible apply keep_ite
    | with_reducible apply keep_ite1
    | with_reducible apply Dev.rsvd_inv
    | with_reducible apply Dev.wr_inv
    | with_reducible apply Dev.refuseWrite_inv
    | with_reducible apply Dev.hciReset_inv
    | with_reducible apply Dev.hciEnable_inv
    | (intro x; refine keep_have x ?_ ?_ <;> first | (show x.inv; unfold x) | (intro _; clear_value x))
    | (intro x; refine keep_have1 x ?_ ?_ <;> first | (show x.1.inv; unfold x) | (intro _; clear_value x))
    | (intro x; clear_value x)
    | intro _
    | lift_lets
    | split
    | dsimp only

theorem hciAdminWrite_inv (who : Initiator) (a : Nat) (w : Word) (d : Dev) (h1 : d.inv) :
    (hciAdminWrite who a w d).inv := by
  unfold hciAdminWrite
  repeat' first
    | with_reducible assumption
    | with_reducible apply keep_ite
    | with_reducible apply Dev.refuseWrite_inv
    | with_reducible apply Dev.plainWrite_inv
    | intro _
    | split
    | dsimp only

theorem Dev.pcieReset_inv (d : Dev) (h1 : d.inv) :
    (Dev.pcieReset d).inv := by
  unfold Dev.pcieReset
  repeat' first
    | with_reducible assumption
    | with_reducible apply keep_ite
    | with_reducible apply keep_ite1
    | with_reducible apply Dev.setReg_inv
    | with_reducible apply pcieLinkUp_inv
    | with_reducible apply Dev.hciReset_inv
    | with_reducible apply Dev.emit_inv
    | (intro x; refine keep_have x ?_ ?_ <;> first | (show x.inv; unfold x) | (intro _; clear_value x))
    | (intro x; refine keep_have1 x ?_ ?_ <;> first | (show x.1.inv; unfold x) | (intro _; clear_value x))
    | (intro x; clear_value x)
    | intro _
    | lift_lets
    | simp only [keep_mk]
    | split
    | dsimp only

end Sys2Proof.Machine
end

