-- ==== Sys2Proof/Laws/KeepBoot.lean ====
section
/-! SUPPORT. Every operation of Machine/Boot.lean keeps the invariant. -/

namespace Sys2Proof.Machine

open Sys2Proof

theorem Dev.cutBit_inv (d : Dev) (b : Option (Nat × Nat)) (h1 : d.inv) :
    (Dev.cutBit d b).inv := by
  unfold Dev.cutBit
  repeat' first
    | with_reducible assumption
    | with_reducible apply keep_ite
    | with_reducible apply keep_ite1
    | with_reducible apply keep_ite2
    | with_reducible apply Dev.free_inv
    | with_reducible apply Dev.blow_inv
    | (intro x; refine keep_have x ?_ ?_ <;> first | (show x.inv; unfold x) | (intro _; clear_value x))
    | (intro x; refine keep_have1 x ?_ ?_ <;> first | (show x.1.inv; unfold x) | (intro _; clear_value x))
    | (intro x; refine keep_have2 x ?_ ?_ <;> first | (show x.2.inv; unfold x) | (intro _; clear_value x))
    | (intro x; clear_value x)
    | intro _
    | lift_lets
    | simp only [keep_mk]
    | split
    | dsimp only

theorem Dev.cutBits_inv (d : Dev) (h1 : d.inv) :
    (Dev.cutBits d).inv := by
  unfold Dev.cutBits
  repeat' first
    | with_reducible assumption
    | with_reducible apply keep_ite
    | with_reducible apply keep_ite1
    | with_reducible apply keep_ite2
    | with_reducible apply Dev.cutBit_inv
    | with_reducible apply Dev.free_inv
    | with_reducible apply Dev.regionBit_inv
    | (intro x; refine keep_have x ?_ ?_ <;> first | (show x.inv; unfold x) | (intro _; clear_value x))
    | (intro x; refine keep_have1 x ?_ ?_ <;> first | (show x.1.inv; unfold x) | (intro _; clear_value x))
    | (intro x; refine keep_have2 x ?_ ?_ <;> first | (show x.2.inv; unfold x) | (intro _; clear_value x))
    | (intro x; clear_value x)
    | intro _
    | lift_lets
    | simp only [keep_mk]
    | split
    | dsimp only

theorem Dev.reset'_inv (d : Dev) (cause : Nat) (h1 : d.inv) :
    (Dev.reset' d cause).inv := by
  unfold Dev.reset'
  repeat' first
    | with_reducible assumption
    | with_reducible apply Dev.cutBits_inv
    | with_reducible apply Dev.systemReset_inv
    | intro _
    | dsimp only

theorem vddAonGood_inv (d : Dev) (h1 : d.inv) :
    (vddAonGood d).inv := by
  unfold vddAonGood
  repeat' first
    | with_reducible assumption
    | with_reducible apply Dev.wr_inv
    | (intro x; refine keep_have x ?_ ?_ <;> first | (show x.inv; unfold x) | (intro _; clear_value x))
    | (intro x; refine keep_have1 x ?_ ?_ <;> first | (show x.1.inv; unfold x) | (intro _; clear_value x))
    | (intro x; clear_value x)
    | intro _
    | lift_lets
    | simp only [keep_mk]
    | dsimp only

theorem Dev.coldReset_inv (d : Dev) (h1 : d.inv) :
    (Dev.coldReset d).inv := by
  unfold Dev.coldReset
  repeat' first
    | with_reducible assumption
    | with_reducible apply Dev.cutBits_inv
    | with_reducible apply Dev.powerOnReset_inv
    | intro _
    | dsimp only

theorem porstNRise_inv (straps : Nat) (d : Dev) (h1 : d.inv) :
    (porstNRise straps d).inv := by
  unfold porstNRise
  repeat' first
    | with_reducible assumption
    | with_reducible apply keep_ite
    | with_reducible apply keep_ite1
    | with_reducible apply Dev.setReg_inv
    | with_reducible apply Dev.bootStart_inv
    | (intro x; refine keep_have x ?_ ?_ <;> first | (show x.inv; unfold x) | (intro _; clear_value x))
    | (intro x; refine keep_have1 x ?_ ?_ <;> first | (show x.1.inv; unfold x) | (intro _; clear_value x))
    | (intro x; clear_value x)
    | intro _
    | lift_lets
    | simp only [keep_mk]
    | split
    | dsimp only

theorem sysrstNAssert_inv (d : Dev) (h1 : d.inv) :
    (sysrstNAssert d).inv := by
  unfold sysrstNAssert
  repeat' first
    | with_reducible assumption
    | with_reducible apply keep_ite
    | with_reducible apply keep_ite1
    | with_reducible apply Dev.resetCause_inv
    | with_reducible apply Dev.reset'_inv
    | (intro x; refine keep_have x ?_ ?_ <;> first | (show x.inv; unfold x) | (intro _; clear_value x))
    | (intro x; refine keep_have1 x ?_ ?_ <;> first | (show x.1.inv; unfold x) | (intro _; clear_value x))
    | (intro x; clear_value x)
    | intro _
    | lift_lets
    | simp only [keep_mk]
    | split
    | dsimp only

theorem sysrstNRelease_inv (d : Dev) (h1 : d.inv) :
    (sysrstNRelease d).inv := by
  unfold sysrstNRelease
  repeat' first
    | with_reducible assumption
    | with_reducible apply keep_ite
    | with_reducible apply keep_ite1
    | with_reducible apply Dev.bootStart_inv
    | (intro x; refine keep_have x ?_ ?_ <;> first | (show x.inv; unfold x) | (intro _; clear_value x))
    | (intro x; refine keep_have1 x ?_ ?_ <;> first | (show x.1.inv; unfold x) | (intro _; clear_value x))
    | (intro x; clear_value x)
    | intro _
    | lift_lets
    | simp only [keep_mk]
    | split
    | dsimp only

theorem Dev.coreHold_inv (d : Dev) (b : Bool) (n : Nat) (h1 : d.inv) :
    (Dev.coreHold d b n).inv := by
  unfold Dev.coreHold
  repeat' first
    | with_reducible assumption
    | with_reducible apply keep_ite
    | with_reducible apply keep_ite1
    | with_reducible apply Dev.wr_inv
    | with_reducible apply Dev.setCore_inv
    | (intro x; refine keep_have x ?_ ?_ <;> first | (show x.inv; unfold x) | (intro _; clear_value x))
    | (intro x; refine keep_have1 x ?_ ?_ <;> first | (show x.1.inv; unfold x) | (intro _; clear_value x))
    | (intro (x : Core))
    | (intro x; clear_value x)
    | (intro _; exact coreReset_ok _)
    | (intro hn; exact Dev.inv_core (by assumption) hn)
    | (intro _; exact Core.pc_ok (coreReset_ok 0) _ (by omega) (by omega))
    | intro _
    | lift_lets
    | simp only [keep_mk]
    | split
    | dsimp only

theorem sysResetCtrlWrite_inv (who : Initiator) (w : Word) (d : Dev) (h1 : d.inv) :
    (sysResetCtrlWrite who w d).inv := by
  unfold sysResetCtrlWrite
  repeat' first
    | with_reducible assumption
    | with_reducible apply keep_ite
    | with_reducible apply keep_ite1
    | with_reducible apply Dev.refuseWrite_inv
    | with_reducible apply Dev.rsvd_inv
    | with_reducible apply Dev.coreHold_inv
    | with_reducible apply Dev.reset'_inv
    | with_reducible refine keep_foldl (fun d x hd => ?_) ?_
    | with_reducible refine keep_foldl1 (fun d x hd => ?_) ?_
    | (intro x; refine keep_have x ?_ ?_ <;> first | (show x.inv; unfold x) | (intro _; clear_value x))
    | (intro x; refine keep_have1 x ?_ ?_ <;> first | (show x.1.inv; unfold x) | (intro _; clear_value x))
    | (intro x; clear_value x)
    | intro _
    | lift_lets
    | split
    | dsimp only

theorem pcieLinkUp_inv (msix : Bool) (master : Bool) (d : Dev) (h1 : d.inv) :
    (pcieLinkUp msix master d).inv := by
  unfold pcieLinkUp
  repeat' first
    | with_reducible assumption
    | with_reducible apply keep_ite
    | intro _
    | simp only [keep_mk]
    | split
    | dsimp only

theorem railBrownOut_inv (r : Nat) (d : Dev) (h1 : d.inv) :
    (railBrownOut r d).inv := by
  unfold railBrownOut
  repeat' first
    | with_reducible assumption
    | with_reducible apply keep_ite
    | with_reducible apply keep_ite1
    | with_reducible apply Dev.wr_inv
    | with_reducible apply Dev.cutBits_inv
    | with_reducible apply Dev.powerOnReset_inv
    | with_reducible apply Dev.reset'_inv
    | (intro x; refine keep_have x ?_ ?_ <;> first | (show x.inv; unfold x) | (intro _; clear_value x))
    | (intro x; refine keep_have1 x ?_ ?_ <;> first | (show x.1.inv; unfold x) | (intro _; clear_value x))
    | (intro x; clear_value x)
    | intro _
    | lift_lets
    | simp only [keep_mk]
    | split
    | dsimp only

theorem Dev.keyCode_inv (d : Dev) (h : List Byte) (h1 : d.inv) :
    (Dev.keyCode d h).1.inv := by
  unfold Dev.keyCode
  repeat' first
    | with_reducible assumption
    | with_reducible apply keep_ite
    | with_reducible apply keep_ite1
    | with_reducible apply keep_ite2
    | with_reducible apply Dev.free_inv
    | (intro x; refine keep_have x ?_ ?_ <;> first | (show x.inv; unfold x) | (intro _; clear_value x))
    | (intro x; refine keep_have1 x ?_ ?_ <;> first | (show x.1.inv; unfold x) | (intro _; clear_value x))
    | (intro x; refine keep_have2 x ?_ ?_ <;> first | (show x.2.inv; unfold x) | (intro _; clear_value x))
    | (intro x; clear_value x)
    | intro _
    | lift_lets
    | split
    | dsimp only

theorem Dev.checkImage_inv (d : Dev) (img : List Byte) (h1 : d.inv) :
    (Dev.checkImage d img).1.inv := by
  unfold Dev.checkImage
  repeat' first
    | with_reducible assumption
    | with_reducible apply keep_ite
    | with_reducible apply keep_ite1
    | with_reducible apply keep_ite2
    | with_reducible apply Dev.keyCode_inv
    | (intro x; refine keep_have x ?_ ?_ <;> first | (show x.inv; unfold x) | (intro _; clear_value x))
    | (intro x; refine keep_have1 x ?_ ?_ <;> first | (show x.1.inv; unfold x) | (intro _; clear_value x))
    | (intro x; refine keep_have2 x ?_ ?_ <;> first | (show x.2.inv; unfold x) | (intro _; clear_value x))
    | (intro x; clear_value x)
    | intro _
    | lift_lets
    | split
    | dsimp only

theorem Dev.acceptImage_inv (d : Dev) (img : List Byte) (h1 : d.inv) :
    (Dev.acceptImage d img).inv := by
  unfold Dev.acceptImage
  repeat' first
    | with_reducible assumption
    | with_reducible apply Dev.bootCode_inv
    | with_reducible apply Dev.setVotes_inv
    | with_reducible apply Dev.settle_inv
    | with_reducible refine keep_foldl (fun d x hd => ?_) ?_
    | with_reducible refine keep_foldl1 (fun d x hd => ?_) ?_
    | (intro x; refine keep_have x ?_ ?_ <;> first | (show x.inv; unfold x) | (intro _; clear_value x))
    | (intro x; refine keep_have1 x ?_ ?_ <;> first | (show x.1.inv; unfold x) | (intro _; clear_value x))
    | (intro x; clear_value x)
    | intro _
    | lift_lets
    | simp only [keep_mk]
    | dsimp only

theorem Dev.bootAttempt_inv (d : Dev) (slot : Nat) (h1 : d.inv) :
    (Dev.bootAttempt d slot).inv := by
  unfold Dev.bootAttempt
  repeat' first
    | with_reducible assumption
    | with_reducible apply Dev.bump_inv
    | with_reducible apply Dev.wr_inv
    | intro _
    | dsimp only

theorem Dev.romFlash_inv (d : Dev) (mode : Option Nat) (h1 : d.inv) :
    (Dev.romFlash d mode).inv := by
  unfold Dev.romFlash
  repeat' first
    | with_reducible assumption
    | with_reducible apply keep_ite
    | with_reducible apply keep_ite1
    | with_reducible apply keep_ite2
    | with_reducible apply Dev.wr_inv
    | with_reducible apply Dev.setReg_inv
    | (intro x; refine keep_have x ?_ ?_ <;> first | (show x.inv; unfold x) | (intro _; clear_value x))
    | (intro x; refine keep_have1 x ?_ ?_ <;> first | (show x.1.inv; unfold x) | (intro _; clear_value x))
    | (intro x; refine keep_have2 x ?_ ?_ <;> first | (show x.2.inv; unfold x) | (intro _; clear_value x))
    | (intro x; clear_value x)
    | intro _
    | lift_lets
    | simp only [keep_mk]
    | split
    | dsimp only

theorem Dev.slotFail_inv (d : Dev) (slot : Nat) (c : Nat) (h1 : d.inv) :
    (Dev.slotFail d slot c).inv := by
  unfold Dev.slotFail
  repeat' first
    | with_reducible assumption
    | with_reducible apply keep_ite
    | with_reducible apply Dev.wr_inv
    | with_reducible apply Dev.romFlash_inv
    | with_reducible apply Dev.bootHalt_inv
    | intro _
    | simp only [keep_mk]
    | split
    | dsimp only

theorem Dev.imageFail_inv (d : Dev) (c : Nat) (h1 : d.inv) :
    (Dev.imageFail d c).inv := by
  unfold Dev.imageFail
  repeat' first
    | with_reducible assumption
    | with_reducible apply keep_ite
    | with_reducible apply keep_ite1
    | with_reducible apply Dev.bootHalt_inv
    | with_reducible apply Dev.bootCode_inv
    | with_reducible apply Dev.bootRequest_inv
    | (intro x; refine keep_have x ?_ ?_ <;> first | (show x.inv; unfold x) | (intro _; clear_value x))
    | (intro x; refine keep_have1 x ?_ ?_ <;> first | (show x.1.inv; unfold x) | (intro _; clear_value x))
    | (intro x; clear_value x)
    | intro _
    | lift_lets
    | simp only [keep_mk]
    | split
    | dsimp only

theorem Dev.checkBuffer_inv (d : Dev) (l : Nat) (h1 : d.inv) :
    (Dev.checkBuffer d l).inv := by
  unfold Dev.checkBuffer
  repeat' first
    | with_reducible assumption
    | with_reducible apply keep_ite
    | with_reducible apply keep_ite1
    | with_reducible apply keep_ite2
    | with_reducible apply Dev.bootAttempt_inv
    | with_reducible apply Dev.imageFail_inv
    | with_reducible apply Dev.checkImage_inv
    | with_reducible apply Dev.acceptImage_inv
    | (intro x; refine keep_have x ?_ ?_ <;> first | (show x.inv; unfold x) | (intro _; clear_value x))
    | (intro x; refine keep_have1 x ?_ ?_ <;> first | (show x.1.inv; unfold x) | (intro _; clear_value x))
    | (intro x; refine keep_have2 x ?_ ?_ <;> first | (show x.2.inv; unfold x) | (intro _; clear_value x))
    | (intro x; clear_value x)
    | intro _
    | lift_lets
    | split
    | dsimp only

theorem bootSupplyTimeout_inv (d : Dev) (h1 : d.inv) :
    (bootSupplyTimeout d).inv := by
  unfold bootSupplyTimeout
  repeat' first
    | with_reducible assumption
    | with_reducible apply keep_ite
    | with_reducible apply Dev.bootHalt_inv
    | intro _
    | split
    | dsimp only

theorem Dev.remapRows_inv (d : Dev) (y0 : List Nat) (h1 : d.inv) :
    (Dev.remapRows d y0).1.inv := by
  induction y0 generalizing d with
  | nil =>
    (first | rw [Dev.remapRows] | unfold Dev.remapRows)
    repeat' first
      | with_reducible assumption
      | with_reducible apply keep_ite
      | with_reducible apply keep_ite1
      | with_reducible apply keep_ite2
      | with_reducible apply Dev.remapRow_inv
      | (intro x; refine keep_have x ?_ ?_ <;> first | (show x.inv; unfold x) | (intro _; clear_value x))
      | (intro x; refine keep_have1 x ?_ ?_ <;> first | (show x.1.inv; unfold x) | (intro _; clear_value x))
      | (intro x; refine keep_have2 x ?_ ?_ <;> first | (show x.2.inv; unfold x) | (intro _; clear_value x))
      | (intro x; clear_value x)
      | intro _
      | lift_lets
      | split
      | dsimp only
  | cons _ _ ih =>
    (first | rw [Dev.remapRows] | unfold Dev.remapRows)
    repeat' first
      | with_reducible assumption
      | with_reducible apply ih
      | with_reducible apply keep_ite
      | with_reducible apply keep_ite1
      | with_reducible apply keep_ite2
      | with_reducible apply Dev.remapRow_inv
      | (intro x; refine keep_have x ?_ ?_ <;> first | (show x.inv; unfold x) | (intro _; clear_value x))
      | (intro x; refine keep_have1 x ?_ ?_ <;> first | (show x.1.inv; unfold x) | (intro _; clear_value x))
      | (intro x; refine keep_have2 x ?_ ?_ <;> first | (show x.2.inv; unfold x) | (intro _; clear_value x))
      | (intro x; clear_value x)
      | intro _
      | lift_lets
      | split
      | dsimp only

theorem packetBufferSelfTestDone_inv (failing : List Nat) (d : Dev) (h1 : d.inv) :
    (packetBufferSelfTestDone failing d).inv := by
  unfold packetBufferSelfTestDone
  repeat' first
    | with_reducible assumption
    | with_reducible apply keep_ite
    | with_reducible apply keep_ite1
    | with_reducible apply keep_ite2
    | with_reducible apply Dev.remapRows_inv
    | with_reducible apply Dev.bootHalt_inv
    | with_reducible apply Dev.wake_inv
    | with_reducible apply Dev.clearMem_inv
    | with_reducible apply Dev.romFlash_inv
    | with_reducible apply Dev.bootCode_inv
    | with_reducible apply Dev.bootRequest_inv
    | (intro x; refine keep_have x ?_ ?_ <;> first | (show x.inv; unfold x) | (intro _; clear_value x))
    | (intro x; refine keep_have1 x ?_ ?_ <;> first | (show x.1.inv; unfold x) | (intro _; clear_value x))
    | (intro x; refine keep_have2 x ?_ ?_ <;> first | (show x.2.inv; unfold x) | (intro _; clear_value x))
    | (intro x; clear_value x)
    | intro _
    | lift_lets
    | simp only [keep_mk]
    | split
    | dsimp only

theorem bootHeaderReadDone_inv (hdr : List Byte) (d : Dev) (h1 : d.inv) :
    (bootHeaderReadDone hdr d).inv := by
  unfold bootHeaderReadDone
  repeat' first
    | with_reducible assumption
    | with_reducible apply keep_ite
    | with_reducible apply keep_ite1
    | with_reducible apply Dev.bootAttempt_inv
    | with_reducible apply Dev.romFlash_inv
    | with_reducible apply Dev.slotFail_inv
    | (intro x; refine keep_have x ?_ ?_ <;> first | (show x.inv; unfold x) | (intro _; clear_value x))
    | (intro x; refine keep_have1 x ?_ ?_ <;> first | (show x.1.inv; unfold x) | (intro _; clear_value x))
    | (intro x; clear_value x)
    | intro _
    | lift_lets
    | simp only [keep_mk]
    | split
    | dsimp only

theorem bootImageReadDone_inv (image : List Byte) (d : Dev) (h1 : d.inv) :
    (bootImageReadDone image d).inv := by
  unfold bootImageReadDone
  repeat' first
    | with_reducible assumption
    | with_reducible apply keep_ite
    | with_reducible apply keep_ite1
    | with_reducible apply keep_ite2
    | with_reducible apply Dev.setBytes_inv
    | with_reducible apply Dev.checkImage_inv
    | with_reducible apply Dev.acceptImage_inv
    | with_reducible apply Dev.slotFail_inv
    | (intro x; refine keep_have x ?_ ?_ <;> first | (show x.inv; unfold x) | (intro _; clear_value x))
    | (intro x; refine keep_have1 x ?_ ?_ <;> first | (show x.1.inv; unfold x) | (intro _; clear_value x))
    | (intro x; refine keep_have2 x ?_ ?_ <;> first | (show x.2.inv; unfold x) | (intro _; clear_value x))
    | (intro x; clear_value x)
    | intro _
    | lift_lets
    | simp only [keep_mk]
    | split
    | dsimp only

theorem cspmRdyTimeout_inv (d : Dev) (h1 : d.inv) :
    (cspmRdyTimeout d).inv := by
  unfold cspmRdyTimeout
  repeat' first
    | with_reducible assumption
    | with_reducible apply Dev.slotFail_inv
    | with_reducible apply Dev.cspmTimeout_inv
    | intro _
    | simp only [keep_mk]
    | split
    | dsimp only

theorem sysBootDoorbell_inv (who : Initiator) (w : Word) (d : Dev) (h1 : d.inv) :
    (sysBootDoorbell who w d).inv := by
  unfold sysBootDoorbell
  repeat' first
    | with_reducible assumption
    | with_reducible apply keep_ite
    | with_reducible apply Dev.checkBuffer_inv
    | intro _
    | split
    | dsimp only

theorem intNPulseEnd_inv (d : Dev) (h1 : d.inv) :
    (intNPulseEnd d).inv := by
  unfold intNPulseEnd
  repeat' first
    | with_reducible assumption
    | with_reducible apply keep_ite
    | with_reducible apply keep_ite1
    | with_reducible apply Dev.bootCode_inv
    | (intro x; refine keep_have x ?_ ?_ <;> first | (show x.inv; unfold x) | (intro _; clear_value x))
    | (intro x; refine keep_have1 x ?_ ?_ <;> first | (show x.1.inv; unfold x) | (intro _; clear_value x))
    | (intro x; clear_value x)
    | intro _
    | lift_lets
    | simp only [keep_mk]
    | split
    | dsimp only

theorem bootData_inv (h : BmHdr) (offset : Nat) (data : List Byte) (d : Dev) (h1 : d.inv) :
    (bootData h offset data d).inv := by
  unfold bootData
  repeat' first
    | with_reducible assumption
    | with_reducible apply keep_ite
    | with_reducible apply keep_ite1
    | with_reducible apply Dev.setBytes_inv
    | with_reducible apply Dev.bootCode_inv
    | with_reducible apply Dev.bootRequest_inv
    | with_reducible apply Dev.checkBuffer_inv
    | (intro x; refine keep_have x ?_ ?_ <;> first | (show x.inv; unfold x) | (intro _; clear_value x))
    | (intro x; refine keep_have1 x ?_ ?_ <;> first | (show x.1.inv; unfold x) | (intro _; clear_value x))
    | (intro x; clear_value x)
    | intro _
    | lift_lets
    | simp only [keep_mk]
    | split
    | dsimp only

theorem bootPeerTimeout_inv (d : Dev) (h1 : d.inv) :
    (bootPeerTimeout d).inv := by
  unfold bootPeerTimeout
  repeat' first
    | with_reducible assumption
    | with_reducible apply keep_ite
    | with_reducible apply Dev.bootCode_inv
    | with_reducible apply Dev.bootRequest_inv
    | intro _
    | simp only [keep_mk]
    | split
    | dsimp only

theorem Dev.copySection_inv (d : Dev) (e : Nat × Nat × Nat × Nat) (h1 : d.inv) :
    (Dev.copySection d e).inv := by
  unfold Dev.copySection
  repeat' first
    | with_reducible assumption
    | with_reducible apply keep_ite
    | with_reducible apply keep_ite1
    | with_reducible apply Dev.setBytes_inv
    | (intro x; refine keep_have x ?_ ?_ <;> first | (show x.inv; unfold x) | (intro _; clear_value x))
    | (intro x; refine keep_have1 x ?_ ?_ <;> first | (show x.1.inv; unfold x) | (intro _; clear_value x))
    | (intro x; clear_value x)
    | intro _
    | lift_lets
    | split
    | dsimp only

theorem bootSectionsCopied_inv (d : Dev) (h1 : d.inv) :
    (bootSectionsCopied d).inv := by
  unfold bootSectionsCopied
  repeat' first
    | with_reducible assumption
    | with_reducible apply keep_ite
    | with_reducible apply keep_ite1
    | with_reducible apply Dev.copySection_inv
    | with_reducible refine keep_foldl (fun d x hd => ?_) ?_
    | with_reducible refine keep_foldl1 (fun d x hd => ?_) ?_
    | (intro x; refine keep_have x ?_ ?_ <;> first | (show x.inv; unfold x) | (intro _; clear_value x))
    | (intro x; refine keep_have1 x ?_ ?_ <;> first | (show x.1.inv; unfold x) | (intro _; clear_value x))
    | (intro x; clear_value x)
    | intro _
    | lift_lets
    | simp only [keep_mk]
    | split
    | dsimp only

theorem bootSelfTestDone_inv (failing : List Nat) (d : Dev) (h1 : d.inv) :
    (bootSelfTestDone failing d).inv := by
  unfold bootSelfTestDone
  repeat' first
    | with_reducible assumption
    | with_reducible apply keep_ite
    | with_reducible apply keep_ite1
    | with_reducible apply keep_ite2
    | with_reducible apply Dev.remapRows_inv
    | with_reducible apply Dev.bootHalt_inv
    | with_reducible apply Dev.wr_inv
    | (intro x; refine keep_have x ?_ ?_ <;> first | (show x.inv; unfold x) | (intro _; clear_value x))
    | (intro x; refine keep_have1 x ?_ ?_ <;> first | (show x.1.inv; unfold x) | (intro _; clear_value x))
    | (intro x; refine keep_have2 x ?_ ?_ <;> first | (show x.2.inv; unfold x) | (intro _; clear_value x))
    | (intro x; clear_value x)
    | intro _
    | lift_lets
    | simp only [keep_mk]
    | split
    | dsimp only

theorem bootFirmwareEntry_inv (d : Dev) (h1 : d.inv) :
    (bootFirmwareEntry d).inv := by
  unfold bootFirmwareEntry
  repeat' first
    | with_reducible assumption
    | with_reducible apply keep_ite
    | with_reducible apply keep_ite1
    | with_reducible apply Dev.bootCode_inv
    | with_reducible apply Dev.setCore_inv
    | with_reducible apply Dev.startupCal_inv
    | (intro x; refine keep_have x ?_ ?_ <;> first | (show x.inv; unfold x) | (intro _; clear_value x))
    | (intro x; refine keep_have1 x ?_ ?_ <;> first | (show x.1.inv; unfold x) | (intro _; clear_value x))
    | (intro (x : Core))
    | (intro x; clear_value x)
    | (intro _; exact coreReset_ok _)
    | (intro hn; exact Dev.inv_core (by assumption) hn)
    | (intro _; exact Core.pc_ok (coreReset_ok 0) _ (by omega) (by omega))
    | intro _
    | lift_lets
    | simp only [keep_mk]
    | split
    | dsimp only

end Sys2Proof.Machine
end

