-- ==== Sys2Proof/Laws/KeepRegWrite.lean ====
section
/-! SUPPORT. Every operation of Machine/RegWrite.lean keeps the invariant. -/

namespace Sys2Proof.Machine

open Sys2Proof

theorem Dev.plainBy_inv (d : Dev) (ok : Bool) (who : Initiator) (a : Nat) (w : Word) (h1 : d.inv) :
    (Dev.plainBy d ok who a w).inv := by
  unfold Dev.plainBy
  repeat' first
    | with_reducible assumption
    | with_reducible apply keep_ite
    | with_reducible apply Dev.plainWrite_inv
    | with_reducible apply Dev.refuseWrite_inv
    | intro _
    | split
    | dsimp only

theorem Dev.checkedBy_inv (d : Dev) (ok : Bool) (reserved : Bool) (who : Initiator) (a : Nat) (w : Word) (h1 : d.inv) :
    (Dev.checkedBy d ok reserved who a w).inv := by
  unfold Dev.checkedBy
  repeat' first
    | with_reducible assumption
    | with_reducible apply keep_ite
    | with_reducible apply Dev.refuseWrite_inv
    | with_reducible apply Dev.rejectWrite_inv
    | with_reducible apply Dev.plainWrite_inv
    | intro _
    | split
    | dsimp only

theorem Dev.sysWrite_inv (d : Dev) (who : Initiator) (a : Nat) (w : Word) (h1 : d.inv) :
    (Dev.sysWrite d who a w).inv := by
  unfold Dev.sysWrite
  repeat' first
    | with_reducible assumption
    | with_reducible apply keep_ite
    | with_reducible apply sysResetCtrlWrite_inv
    | with_reducible apply sysBootDoorbell_inv
    | with_reducible apply Dev.plainBy_inv
    | with_reducible apply Dev.plainWrite_inv
    | intro _
    | split
    | dsimp only

theorem Dev.pwrWrite_inv (d : Dev) (who : Initiator) (a : Nat) (w : Word) (h1 : d.inv) :
    (Dev.pwrWrite d who a w).inv := by
  unfold Dev.pwrWrite
  repeat' first
    | with_reducible assumption
    | with_reducible apply keep_ite
    | with_reducible apply pwrVoteSet_inv
    | with_reducible apply pwrVoteClr_inv
    | with_reducible apply Dev.checkedBy_inv
    | with_reducible apply pwrPadRelease_inv
    | with_reducible apply wakeTimerCompare_inv
    | with_reducible apply Dev.catchUp_inv
    | with_reducible apply Dev.plainWrite_inv
    | with_reducible apply Dev.levelWakes_inv
    | with_reducible apply Dev.settleAll_inv
    | with_reducible apply pwrWakeTimeHiWrite_inv
    | with_reducible apply pwrWatchCtrlWrite_inv
    | with_reducible apply pwrVoteVnWrite_inv
    | intro _
    | simp only [keep_mk]
    | split
    | dsimp only

theorem Dev.rfsWrite_inv (d : Dev) (who : Initiator) (a : Nat) (w : Word) (h1 : d.inv) :
    (Dev.rfsWrite d who a w).inv := by
  unfold Dev.rfsWrite
  repeat' first
    | with_reducible assumption
    | with_reducible apply keep_ite
    | with_reducible apply keep_ite1
    | with_reducible apply Dev.rfsCalCmd_inv
    | with_reducible apply Dev.checkedBy_inv
    | with_reducible apply Dev.plainBy_inv
    | with_reducible apply Dev.refuseWrite_inv
    | with_reducible apply Dev.rejectWrite_inv
    | with_reducible apply Dev.plainWrite_inv
    | with_reducible apply Dev.loFailed_inv
    | with_reducible apply Dev.wr_inv
    | (intro x; refine keep_have x ?_ ?_ <;> first | (show x.inv; unfold x) | (intro _; clear_value x))
    | (intro x; refine keep_have1 x ?_ ?_ <;> first | (show x.1.inv; unfold x) | (intro _; clear_value x))
    | (intro x; clear_value x)
    | intro _
    | lift_lets
    | simp only [keep_mk]
    | split
    | dsimp only

theorem Dev.chanWrite_inv (d : Dev) (who : Initiator) (a : Nat) (w : Word) (h1 : d.inv) :
    (Dev.chanWrite d who a w).inv := by
  unfold Dev.chanWrite
  repeat' first
    | with_reducible assumption
    | with_reducible apply keep_ite
    | with_reducible apply keep_ite1
    | with_reducible apply Dev.plainWrite_inv
    | (intro x; refine keep_have x ?_ ?_ <;> first | (show x.inv; unfold x) | (intro _; clear_value x))
    | (intro x; refine keep_have1 x ?_ ?_ <;> first | (show x.1.inv; unfold x) | (intro _; clear_value x))
    | (intro x; clear_value x)
    | intro _
    | lift_lets
    | simp only [keep_mk]
    | split
    | dsimp only

theorem Dev.rxwWrite_inv (d : Dev) (who : Initiator) (a : Nat) (w : Word) (h1 : d.inv) :
    (Dev.rxwWrite d who a w).inv := by
  unfold Dev.rxwWrite
  repeat' first
    | with_reducible assumption
    | with_reducible apply keep_ite
    | with_reducible apply keep_ite1
    | with_reducible apply Dev.checkedBy_inv
    | with_reducible apply Dev.rejectWrite_inv
    | with_reducible apply subModeEffect_inv
    | with_reducible apply Dev.plainWrite_inv
    | with_reducible apply rxwGainCfgWrite_inv
    | with_reducible apply Dev.chanWrite_inv
    | (intro x; refine keep_have x ?_ ?_ <;> first | (show x.inv; unfold x) | (intro _; clear_value x))
    | (intro x; refine keep_have1 x ?_ ?_ <;> first | (show x.1.inv; unfold x) | (intro _; clear_value x))
    | (intro x; clear_value x)
    | intro _
    | lift_lets
    | simp only [keep_mk]
    | split
    | dsimp only

theorem Dev.txpWrite_inv (d : Dev) (who : Initiator) (a : Nat) (w : Word) (h1 : d.inv) :
    (Dev.txpWrite d who a w).inv := by
  unfold Dev.txpWrite
  repeat' first
    | with_reducible assumption
    | with_reducible apply keep_ite
    | with_reducible apply keep_ite1
    | with_reducible apply Dev.checkedBy_inv
    | with_reducible apply Dev.plainBy_inv
    | with_reducible apply Dev.rsvd_inv
    | with_reducible apply Dev.shapeCtrlWrite_inv
    | with_reducible apply Dev.refuseWrite_inv
    | with_reducible apply Dev.plainWrite_inv
    | (intro x; refine keep_have x ?_ ?_ <;> first | (show x.inv; unfold x) | (intro _; clear_value x))
    | (intro x; refine keep_have1 x ?_ ?_ <;> first | (show x.1.inv; unfold x) | (intro _; clear_value x))
    | (intro x; clear_value x)
    | intro _
    | lift_lets
    | simp only [keep_mk]
    | split
    | dsimp only

theorem Dev.regionWrite_inv (d : Dev) (who : Initiator) (a : Nat) (w : Word) (h1 : d.inv) :
    (Dev.regionWrite d who a w).inv := by
  unfold Dev.regionWrite
  repeat' first
    | with_reducible assumption
    | with_reducible apply keep_ite
    | with_reducible apply Dev.regProgCmd_inv
    | with_reducible apply Dev.plainWrite_inv
    | with_reducible apply Dev.regStatusUpdate_inv
    | intro _
    | split
    | dsimp only

theorem Dev.lnkWrite_inv (d : Dev) (who : Initiator) (a : Nat) (w : Word) (h1 : d.inv) :
    (Dev.lnkWrite d who a w).inv := by
  unfold Dev.lnkWrite
  repeat' first
    | with_reducible assumption
    | with_reducible apply keep_ite
    | with_reducible apply keep_ite1
    | with_reducible apply Dev.plainBy_inv
    | with_reducible apply Dev.catchUp_inv
    | with_reducible apply Dev.plainWrite_inv
    | with_reducible apply Dev.serviceUpdate_inv
    | with_reducible apply Dev.settleAll_inv
    | with_reducible apply Dev.checkedBy_inv
    | with_reducible apply lnkTschCtrlWrite_inv
    | with_reducible apply lnkTschT0HiWrite_inv
    | (intro x; refine keep_have x ?_ ?_ <;> first | (show x.inv; unfold x) | (intro _; clear_value x))
    | (intro x; refine keep_have1 x ?_ ?_ <;> first | (show x.1.inv; unfold x) | (intro _; clear_value x))
    | (intro x; clear_value x)
    | intro _
    | lift_lets
    | simp only [keep_mk]
    | split
    | dsimp only

theorem Dev.ndtWrite_inv (d : Dev) (who : Initiator) (a : Nat) (w : Word) (h1 : d.inv) :
    (Dev.ndtWrite d who a w).inv := by
  unfold Dev.ndtWrite
  repeat' first
    | with_reducible assumption
    | with_reducible apply keep_ite
    | with_reducible apply Dev.checkedBy_inv
    | with_reducible apply Dev.refuseWrite_inv
    | with_reducible apply Dev.rsvd_inv
    | with_reducible apply Dev.ndtStart_inv
    | with_reducible apply adopt_inv
    | with_reducible apply clear_inv
    | with_reducible apply Dev.rejectWrite_inv
    | with_reducible apply Dev.plainWrite_inv
    | intro _
    | simp only [keep_mk]
    | split
    | dsimp only

theorem Dev.fedWrite_inv (d : Dev) (who : Initiator) (a : Nat) (w : Word) (h1 : d.inv) :
    (Dev.fedWrite d who a w).inv := by
  unfold Dev.fedWrite
  repeat' first
    | with_reducible assumption
    | with_reducible apply keep_ite
    | with_reducible apply keep_ite1
    | with_reducible apply fedCfgWrite_inv
    | with_reducible apply fedCtrlStart_inv
    | with_reducible apply Dev.checkedBy_inv
    | with_reducible apply Dev.plainBy_inv
    | with_reducible apply Dev.plainWrite_inv
    | (intro x; refine keep_have x ?_ ?_ <;> first | (show x.inv; unfold x) | (intro _; clear_value x))
    | (intro x; refine keep_have1 x ?_ ?_ <;> first | (show x.1.inv; unfold x) | (intro _; clear_value x))
    | (intro x; clear_value x)
    | intro _
    | lift_lets
    | split
    | dsimp only

theorem Dev.hciWrite_inv (d : Dev) (who : Initiator) (a : Nat) (w : Word) (h1 : d.inv) :
    (Dev.hciWrite d who a w).inv := by
  unfold Dev.hciWrite
  repeat' first
    | with_reducible assumption
    | with_reducible apply keep_ite
    | with_reducible apply hciCtrlWrite_inv
    | with_reducible apply hciAdminWrite_inv
    | with_reducible apply Dev.refuseWrite_inv
    | with_reducible apply Dev.plainWrite_inv
    | intro _
    | split
    | dsimp only

theorem Dev.cspWrite_inv (d : Dev) (who : Initiator) (a : Nat) (w : Word) (h1 : d.inv) :
    (Dev.cspWrite d who a w).inv := by
  unfold Dev.cspWrite
  repeat' first
    | with_reducible assumption
    | with_reducible apply keep_ite
    | with_reducible apply keep_ite1
    | with_reducible apply keep_ite2
    | with_reducible apply Dev.refuseWrite_inv
    | with_reducible apply Dev.free_inv
    | with_reducible apply start_inv
    | with_reducible apply cspmAbort_inv
    | with_reducible apply Dev.plainWrite_inv
    | with_reducible apply Dev.checkedBy_inv
    | with_reducible apply Dev.plainBy_inv
    | (intro x; refine keep_have x ?_ ?_ <;> first | (show x.inv; unfold x) | (intro _; clear_value x))
    | (intro x; refine keep_have1 x ?_ ?_ <;> first | (show x.1.inv; unfold x) | (intro _; clear_value x))
    | (intro x; refine keep_have2 x ?_ ?_ <;> first | (show x.2.inv; unfold x) | (intro _; clear_value x))
    | (intro x; clear_value x)
    | intro _
    | lift_lets
    | split
    | dsimp only

theorem Dev.evrWrite_inv (d : Dev) (who : Initiator) (a : Nat) (w : Word) (h1 : d.inv) :
    (Dev.evrWrite d who a w).inv := by
  unfold Dev.evrWrite
  repeat' first
    | with_reducible assumption
    | with_reducible apply keep_ite
    | with_reducible apply keep_ite1
    | with_reducible apply Dev.checkedBy_inv
    | with_reducible apply Dev.plainBy_inv
    | with_reducible apply evrEcnCfgWrite_inv
    | with_reducible apply evrLunCfgWrite_inv
    | with_reducible apply tmrCtrlWrite_inv
    | with_reducible apply Dev.plainWrite_inv
    | (intro x; refine keep_have x ?_ ?_ <;> first | (show x.inv; unfold x) | (intro _; clear_value x))
    | (intro x; refine keep_have1 x ?_ ?_ <;> first | (show x.1.inv; unfold x) | (intro _; clear_value x))
    | (intro x; clear_value x)
    | intro _
    | lift_lets
    | simp only [keep_mk]
    | split
    | dsimp only

theorem Dev.irqWrite_inv (d : Dev) (who : Initiator) (a : Nat) (w : Word) (h1 : d.inv) :
    (Dev.irqWrite d who a w).inv := by
  unfold Dev.irqWrite
  repeat' first
    | with_reducible assumption
    | with_reducible apply keep_ite
    | with_reducible apply irqSgi_inv
    | with_reducible apply irqCfgWrite_inv
    | with_reducible apply irqPendWrite_inv
    | with_reducible apply Dev.plainBy_inv
    | with_reducible apply Dev.plainWrite_inv
    | intro _
    | simp only [keep_mk]
    | split
    | dsimp only

theorem Dev.keyWrite_inv (d : Dev) (who : Initiator) (a : Nat) (w : Word) (h1 : d.inv) :
    (Dev.keyWrite d who a w).inv := by
  unfold Dev.keyWrite
  repeat' first
    | with_reducible assumption
    | with_reducible apply keep_ite
    | with_reducible apply keyCmd_inv
    | with_reducible apply Dev.keyCmdWrite_inv
    | with_reducible apply Dev.checkedBy_inv
    | with_reducible apply keyPoolWrite_inv
    | with_reducible apply keyBlobCfgWrite_inv
    | with_reducible apply keySlotAttrWrite_inv
    | with_reducible apply Dev.plainBy_inv
    | intro _
    | simp only [keep_mk]
    | split
    | dsimp only

theorem Dev.cphWrite_inv (d : Dev) (who : Initiator) (a : Nat) (w : Word) (h1 : d.inv) :
    (Dev.cphWrite d who a w).inv := by
  unfold Dev.cphWrite
  repeat' first
    | with_reducible assumption
    | with_reducible apply keep_ite
    | with_reducible apply Dev.checkedBy_inv
    | with_reducible apply Dev.plainWrite_inv
    | with_reducible apply Dev.rsvd_inv
    | with_reducible apply Dev.refuseWrite_inv
    | with_reducible apply cphSubmit_inv
    | intro _
    | simp only [keep_mk]
    | split
    | dsimp only

theorem Dev.errWrite_inv (d : Dev) (who : Initiator) (a : Nat) (w : Word) (h1 : d.inv) :
    (Dev.errWrite d who a w).inv := by
  unfold Dev.errWrite
  repeat' first
    | with_reducible assumption
    | with_reducible apply keep_ite
    | with_reducible apply Dev.checkedBy_inv
    | with_reducible apply Dev.errGhost_inv
    | with_reducible apply Dev.errDecode_inv
    | with_reducible apply Dev.plainBy_inv
    | with_reducible apply Dev.plainWrite_inv
    | intro _
    | split
    | dsimp only

theorem Dev.regWrite_inv (d : Dev) (who : Initiator) (a : Nat) (w : Word) (h1 : d.inv) :
    (Dev.regWrite d who a w).inv := by
  unfold Dev.regWrite
  repeat' first
    | with_reducible assumption
    | with_reducible apply keep_ite
    | with_reducible apply Dev.sysWrite_inv
    | with_reducible apply Dev.pwrWrite_inv
    | with_reducible apply clkOpCtrlWrite_inv
    | with_reducible apply Dev.plainWrite_inv
    | with_reducible apply Dev.rfsWrite_inv
    | with_reducible apply Dev.rxwWrite_inv
    | with_reducible apply Dev.txpWrite_inv
    | with_reducible apply Dev.regionWrite_inv
    | with_reducible apply Dev.lnkWrite_inv
    | with_reducible apply Dev.ndtWrite_inv
    | with_reducible apply Dev.fedWrite_inv
    | with_reducible apply Dev.hciWrite_inv
    | with_reducible apply Dev.cspWrite_inv
    | with_reducible apply Dev.evrWrite_inv
    | with_reducible apply Dev.irqWrite_inv
    | with_reducible apply Dev.keyWrite_inv
    | with_reducible apply Dev.cphWrite_inv
    | with_reducible apply Dev.errWrite_inv
    | with_reducible apply otpLcCmdStart_inv
    | with_reducible apply coexCfgWrite_inv
    | intro _
    | simp only [keep_mk]
    | split
    | dsimp only

end Sys2Proof.Machine
end

