-- ==== Sys2Proof/Laws/KeepRegIf.lean ====
section
/-! SUPPORT. Every operation of Machine/RegIf.lean keeps the invariant. -/

namespace Sys2Proof.Machine

open Sys2Proof

theorem Dev.ctlRead_inv (d : Dev) (who : Initiator) (a : Nat) (h1 : d.inv) :
    (Dev.ctlRead d who a).1.inv := by
  unfold Dev.ctlRead
  repeat' first
    | with_reducible assumption
    | with_reducible apply keep_ite
    | with_reducible apply keep_ite1
    | with_reducible apply Dev.regRead_inv
    | intro _
    | split
    | dsimp only

theorem Dev.ctlWrite_inv (d : Dev) (who : Initiator) (a : Nat) (w : Word) (h1 : d.inv) :
    (Dev.ctlWrite d who a w).inv := by
  unfold Dev.ctlWrite
  repeat' first
    | with_reducible assumption
    | with_reducible apply keep_ite
    | with_reducible apply Dev.regWrite_inv
    | intro _
    | split
    | dsimp only

theorem Dev.msixFlush_inv (d : Dev) (h1 : d.inv) :
    (Dev.msixFlush d).inv := by
  unfold Dev.msixFlush
  repeat' first
    | with_reducible assumption
    | with_reducible apply keep_ite
    | with_reducible apply keep_ite1
    | with_reducible apply Dev.emit_inv
    | with_reducible apply Dev.sendMsix_inv
    | with_reducible refine keep_foldl (fun d x hd => ?_) ?_
    | with_reducible refine keep_foldl1 (fun d x hd => ?_) ?_
    | (intro x; refine keep_have x ?_ ?_ <;> first | (show x.inv; unfold x) | (intro _; clear_value x))
    | (intro x; refine keep_have1 x ?_ ?_ <;> first | (show x.1.inv; unfold x) | (intro _; clear_value x))
    | (intro x; clear_value x)
    | intro _
    | lift_lets
    | simp only [keep_mk]
    | split
    | dsimp only

theorem Dev.msixWrite_inv (d : Dev) (k : Nat) (w : Word) (h1 : d.inv) :
    (Dev.msixWrite d k w).inv := by
  unfold Dev.msixWrite
  repeat' first
    | with_reducible assumption
    | with_reducible apply keep_ite
    | with_reducible apply keep_ite1
    | with_reducible apply Dev.msixFlush_inv
    | (intro x; refine keep_have x ?_ ?_ <;> first | (show x.inv; unfold x) | (intro _; clear_value x))
    | (intro x; refine keep_have1 x ?_ ?_ <;> first | (show x.1.inv; unfold x) | (intro _; clear_value x))
    | (intro x; clear_value x)
    | intro _
    | lift_lets
    | simp only [keep_mk]
    | split
    | dsimp only

theorem Dev.pathFetch_inv (d : Dev) (addr : Nat) (fails : Nat) (h1 : d.inv) :
    (Dev.pathFetch d addr fails).1.inv := by
  unfold Dev.pathFetch
  repeat' first
    | with_reducible assumption
    | with_reducible apply keep_ite
    | with_reducible apply keep_ite1
    | with_reducible apply keep_ite2
    | with_reducible apply Dev.freeOf_inv
    | with_reducible apply Dev.fetch_inv
    | (intro x; refine keep_have x ?_ ?_ <;> first | (show x.inv; unfold x) | (intro _; clear_value x))
    | (intro x; refine keep_have1 x ?_ ?_ <;> first | (show x.1.inv; unfold x) | (intro _; clear_value x))
    | (intro x; refine keep_have2 x ?_ ?_ <;> first | (show x.2.inv; unfold x) | (intro _; clear_value x))
    | (intro x; clear_value x)
    | intro _
    | lift_lets
    | split
    | dsimp only

theorem Dev.bar0Read_inv (d : Dev) (who : Initiator) (off : Nat) (h1 : d.inv) :
    (Dev.bar0Read d who off).1.inv := by
  unfold Dev.bar0Read
  repeat' first
    | with_reducible assumption
    | with_reducible apply keep_ite
    | with_reducible apply keep_ite1
    | with_reducible apply Dev.regRead_inv
    | with_reducible apply Dev.errDecode_inv
    | with_reducible apply Dev.errGhost_inv
    | (intro x; refine keep_have x ?_ ?_ <;> first | (show x.inv; unfold x) | (intro _; clear_value x))
    | (intro x; refine keep_have1 x ?_ ?_ <;> first | (show x.1.inv; unfold x) | (intro _; clear_value x))
    | (intro x; clear_value x)
    | intro _
    | lift_lets
    | simp only [keep_mk]
    | split
    | dsimp only

theorem Dev.bar0Write_inv (d : Dev) (who : Initiator) (off : Nat) (w : Word) (h1 : d.inv) :
    (Dev.bar0Write d who off w).inv := by
  unfold Dev.bar0Write
  repeat' first
    | with_reducible assumption
    | with_reducible apply keep_ite
    | with_reducible apply keep_ite1
    | with_reducible apply Dev.regWrite_inv
    | with_reducible apply Dev.errDecode_inv
    | with_reducible apply Dev.errGhost_inv
    | with_reducible apply Dev.doorbellWrite_inv
    | with_reducible apply Dev.msixWrite_inv
    | (intro x; refine keep_have x ?_ ?_ <;> first | (show x.inv; unfold x) | (intro _; clear_value x))
    | (intro x; refine keep_have1 x ?_ ?_ <;> first | (show x.1.inv; unfold x) | (intro _; clear_value x))
    | (intro x; clear_value x)
    | intro _
    | lift_lets
    | simp only [keep_mk]
    | split
    | dsimp only

theorem Dev.bar0ReadVia_inv (d : Dev) (who : Initiator) (off : Nat) (fails : Nat) (h1 : d.inv) :
    (Dev.bar0ReadVia d who off fails).1.inv := by
  unfold Dev.bar0ReadVia
  repeat' first
    | with_reducible assumption
    | with_reducible apply keep_ite
    | with_reducible apply keep_ite1
    | with_reducible apply keep_ite2
    | with_reducible apply Dev.pathFetch_inv
    | with_reducible apply Dev.bar0Read_inv
    | (intro x; refine keep_have x ?_ ?_ <;> first | (show x.inv; unfold x) | (intro _; clear_value x))
    | (intro x; refine keep_have1 x ?_ ?_ <;> first | (show x.1.inv; unfold x) | (intro _; clear_value x))
    | (intro x; refine keep_have2 x ?_ ?_ <;> first | (show x.2.inv; unfold x) | (intro _; clear_value x))
    | (intro x; clear_value x)
    | intro _
    | lift_lets
    | split
    | dsimp only

theorem Dev.bar0WriteVia_inv (d : Dev) (who : Initiator) (off : Nat) (w : Word) (fails : Nat) (h1 : d.inv) :
    (Dev.bar0WriteVia d who off w fails).inv := by
  unfold Dev.bar0WriteVia
  repeat' first
    | with_reducible assumption
    | with_reducible apply keep_ite
    | with_reducible apply keep_ite1
    | with_reducible apply keep_ite2
    | with_reducible apply Dev.pathFetch_inv
    | with_reducible apply Dev.bar0Write_inv
    | (intro x; refine keep_have x ?_ ?_ <;> first | (show x.inv; unfold x) | (intro _; clear_value x))
    | (intro x; refine keep_have1 x ?_ ?_ <;> first | (show x.1.inv; unfold x) | (intro _; clear_value x))
    | (intro x; refine keep_have2 x ?_ ?_ <;> first | (show x.2.inv; unfold x) | (intro _; clear_value x))
    | (intro x; clear_value x)
    | intro _
    | lift_lets
    | split
    | dsimp only

theorem Dev.bar2Read_inv (d : Dev) (_who : Initiator) (off : Nat) (fails : Nat) (h1 : d.inv) :
    (Dev.bar2Read d _who off fails).1.inv := by
  unfold Dev.bar2Read
  repeat' first
    | with_reducible assumption
    | with_reducible apply keep_ite
    | with_reducible apply keep_ite1
    | with_reducible apply keep_ite2
    | with_reducible apply Dev.errGhost_inv
    | with_reducible apply Dev.fetch_inv
    | (intro x; refine keep_have x ?_ ?_ <;> first | (show x.inv; unfold x) | (intro _; clear_value x))
    | (intro x; refine keep_have1 x ?_ ?_ <;> first | (show x.1.inv; unfold x) | (intro _; clear_value x))
    | (intro x; refine keep_have2 x ?_ ?_ <;> first | (show x.2.inv; unfold x) | (intro _; clear_value x))
    | (intro x; clear_value x)
    | intro _
    | lift_lets
    | split
    | dsimp only

theorem Dev.bar2Write_inv (d : Dev) (who : Initiator) (off : Nat) (w : Word) (fails : Nat) (h1 : d.inv) :
    (Dev.bar2Write d who off w fails).inv := by
  unfold Dev.bar2Write
  repeat' first
    | with_reducible assumption
    | with_reducible apply keep_ite
    | with_reducible apply keep_ite1
    | with_reducible apply keep_ite2
    | with_reducible apply Dev.errGhost_inv
    | with_reducible apply Dev.errDecode_inv
    | with_reducible apply Dev.fetch_inv
    | with_reducible apply Dev.setLe_inv
    | (intro x; refine keep_have x ?_ ?_ <;> first | (show x.inv; unfold x) | (intro _; clear_value x))
    | (intro x; refine keep_have1 x ?_ ?_ <;> first | (show x.1.inv; unfold x) | (intro _; clear_value x))
    | (intro x; refine keep_have2 x ?_ ?_ <;> first | (show x.2.inv; unfold x) | (intro _; clear_value x))
    | (intro x; clear_value x)
    | intro _
    | lift_lets
    | split
    | dsimp only

end Sys2Proof.Machine
end

