-- ==== Sys2Proof/Laws/KeepHciCheck.lean ====
section
/-! SUPPORT. Every operation of Machine/HciCheck.lean keeps the invariant. -/

namespace Sys2Proof.Machine

open Sys2Proof

theorem Dev.cmdReturn_inv (d : Dev) (c : HciCmd) (bs : List Byte) (h1 : d.inv) :
    (Dev.cmdReturn d c bs).inv := by
  unfold Dev.cmdReturn
  repeat' first
    | with_reducible assumption
    | with_reducible apply keep_ite
    | with_reducible apply Dev.dmaFail_inv
    | with_reducible apply Dev.emit_inv
    | with_reducible apply Dev.setBytes_inv
    | intro _
    | split
    | dsimp only

end Sys2Proof.Machine
end

