-- ==== Sys2Proof/Laws/KeepHciRun.lean ====
section
/-! SUPPORT. Every operation of Machine/HciRun.lean keeps the invariant. -/

namespace Sys2Proof.Machine

open Sys2Proof

theorem Dev.done_inv (d : Dev) (c : HciCmd) (status : Nat) (h1 : d.inv) :
    (Dev.done d c status).inv := by
  unfold Dev.done
  repeat' first
    | with_reducible assumption
    | with_reducible apply Dev.finish_inv
    | intro _
    | dsimp only

theorem Dev.runTxFrame_inv (d : Dev) (c : HciCmd) (h1 : d.inv) :
    (Dev.runTxFrame d c).inv := by
  unfold Dev.runTxFrame
  repeat' first
    | with_reducible assumption
    | with_reducible apply keep_ite
    | with_reducible apply keep_ite1
    | with_reducible apply Dev.finish_inv
    | with_reducible apply Dev.runCmd_inv
    | with_reducible apply Dev.addFrame_inv
    | with_reducible apply Dev.secureFrame_inv
    | (intro x; refine keep_have x ?_ ?_ <;> first | (show x.inv; unfold x) | (intro _; clear_value x))
    | (intro x; refine keep_have1 x ?_ ?_ <;> first | (show x.1.inv; unfold x) | (intro _; clear_value x))
    | (intro x; clear_value x)
    | intro _
    | lift_lets
    | simp only [keep_mk]
    | split
    | dsimp only

theorem Dev.runTxCancel_inv (d : Dev) (c : HciCmd) (h1 : d.inv) :
    (Dev.runTxCancel d c).inv := by
  unfold Dev.runTxCancel
  repeat' first
    | with_reducible assumption
    | with_reducible apply Dev.finish_inv
    | with_reducible apply Dev.txRelease_inv
    | with_reducible apply Dev.dropFrame_inv
    | with_reducible apply Dev.done_inv
    | (intro x; refine keep_have x ?_ ?_ <;> first | (show x.inv; unfold x) | (intro _; clear_value x))
    | (intro x; refine keep_have1 x ?_ ?_ <;> first | (show x.1.inv; unfold x) | (intro _; clear_value x))
    | (intro x; refine keep_haveD x ?_ ?_ <;> first | (show ∀ d : Dev, d.inv → (x d).inv; unfold x; intro _ _) | (intro hfD; clear_value x))
    | (intro x; refine keep_haveG x ?_ ?_ <;> first | (show ∀ (d : Dev) a, d.inv → (x d a).inv; unfold x; intro _ _ _) | (intro hfG; clear_value x))
    | (intro x; refine keep_haveG1 x ?_ ?_ <;> first | (show ∀ (d : Dev) a, d.inv → (x d a).1.inv; unfold x; intro _ _ _) | (intro hfP; clear_value x))
    | (intro x; refine keep_haveF x ?_ ?_ <;> first | (show ∀ a, (x a).inv; unfold x; intro _) | (intro hfF; clear_value x))
    | with_reducible apply hfD
    | with_reducible apply hfG
    | with_reducible apply hfP
    | with_reducible apply hfF
    | (intro x; clear_value x)
    | intro _
    | lift_lets
    | simp only [keep_mk]
    | split
    | dsimp only

theorem Dev.hostReads_inv (d : Dev) (y0 : List Nat) (h1 : d.inv) :
    (Dev.hostReads d y0).1.inv := by
  induction y0 generalizing d with
  | nil =>
    (first | rw [Dev.hostReads] | unfold Dev.hostReads)
    repeat' first
      | with_reducible assumption
      | with_reducible apply Dev.regRead_inv
      | (intro x; refine keep_have x ?_ ?_ <;> first | (show x.inv; unfold x) | (intro _; clear_value x))
      | (intro x; refine keep_have1 x ?_ ?_ <;> first | (show x.1.inv; unfold x) | (intro _; clear_value x))
      | (intro x; refine keep_have2 x ?_ ?_ <;> first | (show x.2.inv; unfold x) | (intro _; clear_value x))
      | (intro x; clear_value x)
      | intro _
      | lift_lets
      | dsimp only
  | cons _ _ ih =>
    (first | rw [Dev.hostReads] | unfold Dev.hostReads)
    repeat' first
      | with_reducible assumption
      | with_reducible apply ih
      | with_reducible apply Dev.regRead_inv
      | (intro x; refine keep_have x ?_ ?_ <;> first | (show x.inv; unfold x) | (intro _; clear_value x))
      | (intro x; refine keep_have1 x ?_ ?_ <;> first | (show x.1.inv; unfold x) | (intro _; clear_value x))
      | (intro x; refine keep_have2 x ?_ ?_ <;> first | (show x.2.inv; unfold x) | (intro _; clear_value x))
      | (intro x; clear_value x)
      | intro _
      | lift_lets
      | dsimp only

theorem Dev.runRegRead_inv (d : Dev) (c : HciCmd) (h1 : d.inv) :
    (Dev.runRegRead d c).inv := by
  unfold Dev.runRegRead
  repeat' first
    | with_reducible assumption
    | with_reducible apply Dev.hostReads_inv
    | with_reducible apply Dev.finish_inv
    | (intro x; refine keep_have x ?_ ?_ <;> first | (show x.inv; unfold x) | (intro _; clear_value x))
    | (intro x; refine keep_have1 x ?_ ?_ <;> first | (show x.1.inv; unfold x) | (intro _; clear_value x))
    | (intro x; refine keep_have2 x ?_ ?_ <;> first | (show x.2.inv; unfold x) | (intro _; clear_value x))
    | (intro x; clear_value x)
    | intro _
    | lift_lets
    | dsimp only

theorem Dev.hostRegWrite_inv (d : Dev) (a : Nat) (w : Word) (h1 : d.inv) :
    (Dev.hostRegWrite d a w).1.inv := by
  unfold Dev.hostRegWrite
  repeat' first
    | with_reducible assumption
    | with_reducible apply keep_ite
    | with_reducible apply keep_ite1
    | with_reducible apply keep_ite2
    | with_reducible apply Dev.setReg_inv
    | with_reducible apply Dev.regWrite_inv
    | (intro x; refine keep_have x ?_ ?_ <;> first | (show x.inv; unfold x) | (intro _; clear_value x))
    | (intro x; refine keep_have1 x ?_ ?_ <;> first | (show x.1.inv; unfold x) | (intro _; clear_value x))
    | (intro x; refine keep_have2 x ?_ ?_ <;> first | (show x.2.inv; unfold x) | (intro _; clear_value x))
    | (intro x; clear_value x)
    | intro _
    | lift_lets
    | split
    | dsimp only

theorem Dev.runRegWrite_inv (d : Dev) (c : HciCmd) (h1 : d.inv) :
    (Dev.runRegWrite d c).inv := by
  unfold Dev.runRegWrite
  repeat' first
    | with_reducible assumption
    | with_reducible apply keep_ite
    | with_reducible apply keep_ite1
    | with_reducible apply keep_ite2
    | with_reducible apply Dev.regWrite_inv
    | with_reducible apply Dev.finish_inv
    | with_reducible apply Dev.hostRegWrite_inv
    | (intro x; refine keep_have x ?_ ?_ <;> first | (show x.inv; unfold x) | (intro _; clear_value x))
    | (intro x; refine keep_have1 x ?_ ?_ <;> first | (show x.1.inv; unfold x) | (intro _; clear_value x))
    | (intro x; refine keep_have2 x ?_ ?_ <;> first | (show x.2.inv; unfold x) | (intro _; clear_value x))
    | (intro x; clear_value x)
    | intro _
    | lift_lets
    | simp only [keep_mk]
    | split
    | dsimp only

theorem Dev.runPowerVote_inv (d : Dev) (c : HciCmd) (h1 : d.inv) :
    (Dev.runPowerVote d c).inv := by
  unfold Dev.runPowerVote
  repeat' first
    | with_reducible assumption
    | with_reducible apply keep_ite
    | with_reducible apply keep_ite1
    | with_reducible apply Dev.catchUp_inv
    | with_reducible apply Dev.setVotes_inv
    | with_reducible apply Dev.settleAll_inv
    | with_reducible apply Dev.runCmd_inv
    | with_reducible apply Dev.finish_inv
    | (intro x; refine keep_have x ?_ ?_ <;> first | (show x.inv; unfold x) | (intro _; clear_value x))
    | (intro x; refine keep_have1 x ?_ ?_ <;> first | (show x.1.inv; unfold x) | (intro _; clear_value x))
    | (intro x; clear_value x)
    | intro _
    | lift_lets
    | simp only [keep_mk]
    | split
    | dsimp only

theorem Dev.runHello_inv (d : Dev) (c : HciCmd) (h1 : d.inv) :
    (Dev.runHello d c).inv := by
  unfold Dev.runHello
  repeat' first
    | with_reducible assumption
    | with_reducible apply keep_ite
    | with_reducible apply keep_ite1
    | with_reducible apply Dev.done_inv
    | with_reducible apply Dev.finish_inv
    | with_reducible apply Dev.wr_inv
    | (intro x; refine keep_have x ?_ ?_ <;> first | (show x.inv; unfold x) | (intro _; clear_value x))
    | (intro x; refine keep_have1 x ?_ ?_ <;> first | (show x.1.inv; unfold x) | (intro _; clear_value x))
    | (intro x; clear_value x)
    | intro _
    | lift_lets
    | simp only [keep_mk]
    | split
    | dsimp only

theorem Dev.runIdentify_inv (d : Dev) (c : HciCmd) (h1 : d.inv) :
    (Dev.runIdentify d c).inv := by
  unfold Dev.runIdentify
  repeat' first
    | with_reducible assumption
    | with_reducible apply Dev.finish_inv
    | intro _
    | dsimp only

theorem Dev.runQueueCreate_inv (d : Dev) (c : HciCmd) (h1 : d.inv) :
    (Dev.runQueueCreate d c).inv := by
  unfold Dev.runQueueCreate
  repeat' first
    | with_reducible assumption
    | with_reducible apply keep_ite
    | with_reducible apply keep_ite1
    | with_reducible apply Dev.done_inv
    | with_reducible apply Dev.qReset_inv
    | with_reducible apply Dev.wr_inv
    | (intro x; refine keep_have x ?_ ?_ <;> first | (show x.inv; unfold x) | (intro _; clear_value x))
    | (intro x; refine keep_have1 x ?_ ?_ <;> first | (show x.1.inv; unfold x) | (intro _; clear_value x))
    | (intro x; clear_value x)
    | intro _
    | lift_lets
    | simp only [keep_mk]
    | split
    | dsimp only

theorem Dev.dropPartners_inv (d : Dev) (q : Nat) (h1 : d.inv) :
    (Dev.dropPartners d q).inv := by
  unfold Dev.dropPartners
  repeat' first
    | with_reducible assumption
    | with_reducible apply keep_ite
    | with_reducible apply keep_ite1
    | with_reducible apply Dev.wr_inv
    | with_reducible apply Dev.done_inv
    | with_reducible refine keep_foldl (fun d x hd => ?_) ?_
    | with_reducible refine keep_foldl1 (fun d x hd => ?_) ?_
    | (intro x; refine keep_have x ?_ ?_ <;> first | (show x.inv; unfold x) | (intro _; clear_value x))
    | (intro x; refine keep_have1 x ?_ ?_ <;> first | (show x.1.inv; unfold x) | (intro _; clear_value x))
    | (intro x; refine keep_haveD x ?_ ?_ <;> first | (show ∀ d : Dev, d.inv → (x d).inv; unfold x; intro _ _) | (intro hfD; clear_value x))
    | (intro x; refine keep_haveG x ?_ ?_ <;> first | (show ∀ (d : Dev) a, d.inv → (x d a).inv; unfold x; intro _ _ _) | (intro hfG; clear_value x))
    | (intro x; refine keep_haveG1 x ?_ ?_ <;> first | (show ∀ (d : Dev) a, d.inv → (x d a).1.inv; unfold x; intro _ _ _) | (intro hfP; clear_value x))
    | (intro x; refine keep_haveF x ?_ ?_ <;> first | (show ∀ a, (x a).inv; unfold x; intro _) | (intro hfF; clear_value x))
    | with_reducible apply hfD
    | with_reducible apply hfG
    | with_reducible apply hfP
    | with_reducible apply hfF
    | (intro x; clear_value x)
    | intro _
    | lift_lets
    | simp only [keep_mk]
    | split
    | dsimp only

theorem Dev.runQueueDelete_inv (d : Dev) (c : HciCmd) (h1 : d.inv) :
    (Dev.runQueueDelete d c).inv := by
  unfold Dev.runQueueDelete
  repeat' first
    | with_reducible assumption
    | with_reducible apply keep_ite
    | with_reducible apply keep_ite1
    | with_reducible apply Dev.done_inv
    | with_reducible apply Dev.runCmd_inv
    | with_reducible apply Dev.qReset_inv
    | with_reducible apply Dev.dropPartners_inv
    | (intro x; refine keep_have x ?_ ?_ <;> first | (show x.inv; unfold x) | (intro _; clear_value x))
    | (intro x; refine keep_have1 x ?_ ?_ <;> first | (show x.1.inv; unfold x) | (intro _; clear_value x))
    | (intro x; clear_value x)
    | intro _
    | lift_lets
    | simp only [keep_mk]
    | split
    | dsimp only

theorem Dev.dropNodeFrames_inv (d : Dev) (s : Nat) (h1 : d.inv) :
    (Dev.dropNodeFrames d s).inv := by
  unfold Dev.dropNodeFrames
  repeat' first
    | with_reducible assumption
    | with_reducible apply keep_ite
    | with_reducible apply keep_ite1
    | with_reducible apply Dev.dropFrame_inv
    | with_reducible apply Dev.txRelease_inv
    | with_reducible apply Dev.txEnd_inv
    | with_reducible refine keep_foldl (fun d x hd => ?_) ?_
    | with_reducible refine keep_foldl1 (fun d x hd => ?_) ?_
    | (intro x; refine keep_have x ?_ ?_ <;> first | (show x.inv; unfold x) | (intro _; clear_value x))
    | (intro x; refine keep_have1 x ?_ ?_ <;> first | (show x.1.inv; unfold x) | (intro _; clear_value x))
    | (intro x; clear_value x)
    | intro _
    | lift_lets
    | split
    | dsimp only

theorem Dev.runNodeAdd_inv (d : Dev) (c : HciCmd) (h1 : d.inv) :
    (Dev.runNodeAdd d c).inv := by
  unfold Dev.runNodeAdd
  repeat' first
    | with_reducible assumption
    | with_reducible apply keep_ite
    | with_reducible apply keep_ite1
    | with_reducible apply keep_ite2
    | with_reducible apply Dev.nodeAdd_inv
    | with_reducible apply Dev.schedChanged_inv
    | with_reducible apply Dev.done_inv
    | (intro x; refine keep_have x ?_ ?_ <;> first | (show x.inv; unfold x) | (intro _; clear_value x))
    | (intro x; refine keep_have1 x ?_ ?_ <;> first | (show x.1.inv; unfold x) | (intro _; clear_value x))
    | (intro x; refine keep_have2 x ?_ ?_ <;> first | (show x.2.inv; unfold x) | (intro _; clear_value x))
    | (intro x; clear_value x)
    | intro _
    | lift_lets
    | split
    | dsimp only

theorem Dev.runNodeUpdate_inv (d : Dev) (c : HciCmd) (h1 : d.inv) :
    (Dev.runNodeUpdate d c).inv := by
  unfold Dev.runNodeUpdate
  repeat' first
    | with_reducible assumption
    | with_reducible apply keep_ite
    | with_reducible apply keep_ite1
    | with_reducible apply keep_ite2
    | with_reducible apply Dev.nodeUpdate_inv
    | with_reducible apply Dev.schedChanged_inv
    | with_reducible apply Dev.done_inv
    | (intro x; refine keep_have x ?_ ?_ <;> first | (show x.inv; unfold x) | (intro _; clear_value x))
    | (intro x; refine keep_have1 x ?_ ?_ <;> first | (show x.1.inv; unfold x) | (intro _; clear_value x))
    | (intro x; refine keep_have2 x ?_ ?_ <;> first | (show x.2.inv; unfold x) | (intro _; clear_value x))
    | (intro x; refine keep_haveD x ?_ ?_ <;> first | (show ∀ d : Dev, d.inv → (x d).inv; unfold x; intro _ _) | (intro hfD; clear_value x))
    | (intro x; refine keep_haveG x ?_ ?_ <;> first | (show ∀ (d : Dev) a, d.inv → (x d a).inv; unfold x; intro _ _ _) | (intro hfG; clear_value x))
    | (intro x; refine keep_haveG1 x ?_ ?_ <;> first | (show ∀ (d : Dev) a, d.inv → (x d a).1.inv; unfold x; intro _ _ _) | (intro hfP; clear_value x))
    | (intro x; refine keep_haveF x ?_ ?_ <;> first | (show ∀ a, (x a).inv; unfold x; intro _) | (intro hfF; clear_value x))
    | with_reducible apply hfD
    | with_reducible apply hfG
    | with_reducible apply hfP
    | with_reducible apply hfF
    | (intro x; clear_value x)
    | intro _
    | lift_lets
    | simp only [keep_mk]
    | split
    | dsimp only

theorem Dev.runNodeRemove_inv (d : Dev) (c : HciCmd) (h1 : d.inv) :
    (Dev.runNodeRemove d c).inv := by
  unfold Dev.runNodeRemove
  repeat' first
    | with_reducible assumption
    | with_reducible apply Dev.nodeRemove_inv
    | with_reducible apply Dev.slpForget_inv
    | with_reducible apply Dev.dropNodeFrames_inv
    | with_reducible apply Dev.settle_inv
    | with_reducible apply Dev.done_inv
    | (intro x; refine keep_have x ?_ ?_ <;> first | (show x.inv; unfold x) | (intro _; clear_value x))
    | (intro x; refine keep_have1 x ?_ ?_ <;> first | (show x.1.inv; unfold x) | (intro _; clear_value x))
    | (intro x; refine keep_have2 x ?_ ?_ <;> first | (show x.2.inv; unfold x) | (intro _; clear_value x))
    | (intro x; clear_value x)
    | intro _
    | lift_lets
    | simp only [keep_mk]
    | split
    | dsimp only

theorem Dev.runNodeRead_inv (d : Dev) (c : HciCmd) (h1 : d.inv) :
    (Dev.runNodeRead d c).inv := by
  unfold Dev.runNodeRead
  repeat' first
    | with_reducible assumption
    | with_reducible apply keep_ite
    | with_reducible apply keep_ite1
    | with_reducible apply keep_ite2
    | with_reducible apply Dev.cmdReturn_inv
    | with_reducible apply Dev.done_inv
    | (intro x; refine keep_have x ?_ ?_ <;> first | (show x.inv; unfold x) | (intro _; clear_value x))
    | (intro x; refine keep_have1 x ?_ ?_ <;> first | (show x.1.inv; unfold x) | (intro _; clear_value x))
    | (intro x; refine keep_have2 x ?_ ?_ <;> first | (show x.2.inv; unfold x) | (intro _; clear_value x))
    | (intro x; clear_value x)
    | intro _
    | lift_lets
    | split
    | dsimp only

theorem Dev.runRouteSet_inv (d : Dev) (c : HciCmd) (h1 : d.inv) :
    (Dev.runRouteSet d c).inv := by
  unfold Dev.runRouteSet
  repeat' first
    | with_reducible assumption
    | with_reducible apply keep_ite
    | with_reducible apply keep_ite1
    | with_reducible apply keep_ite2
    | with_reducible apply Dev.routeSet_inv
    | with_reducible apply Dev.finish_inv
    | (intro x; refine keep_have x ?_ ?_ <;> first | (show x.inv; unfold x) | (intro _; clear_value x))
    | (intro x; refine keep_have1 x ?_ ?_ <;> first | (show x.1.inv; unfold x) | (intro _; clear_value x))
    | (intro x; refine keep_have2 x ?_ ?_ <;> first | (show x.2.inv; unfold x) | (intro _; clear_value x))
    | (intro x; clear_value x)
    | intro _
    | lift_lets
    | split
    | dsimp only

theorem Dev.runRouteDel_inv (d : Dev) (c : HciCmd) (h1 : d.inv) :
    (Dev.runRouteDel d c).inv := by
  unfold Dev.runRouteDel
  repeat' first
    | with_reducible assumption
    | with_reducible apply keep_ite
    | with_reducible apply keep_ite1
    | with_reducible apply keep_ite2
    | with_reducible apply Dev.routeDel_inv
    | with_reducible apply Dev.runCmd_inv
    | with_reducible apply Dev.done_inv
    | (intro x; refine keep_have x ?_ ?_ <;> first | (show x.inv; unfold x) | (intro _; clear_value x))
    | (intro x; refine keep_have1 x ?_ ?_ <;> first | (show x.1.inv; unfold x) | (intro _; clear_value x))
    | (intro x; refine keep_have2 x ?_ ?_ <;> first | (show x.2.inv; unfold x) | (intro _; clear_value x))
    | (intro x; clear_value x)
    | intro _
    | lift_lets
    | split
    | dsimp only

theorem Dev.runSnapshot_inv (d : Dev) (c : HciCmd) (h1 : d.inv) :
    (Dev.runSnapshot d c).inv := by
  unfold Dev.runSnapshot
  repeat' first
    | with_reducible assumption
    | with_reducible apply Dev.cmdReturn_inv
    | with_reducible apply Dev.finish_inv
    | (intro x; refine keep_have x ?_ ?_ <;> first | (show x.inv; unfold x) | (intro _; clear_value x))
    | (intro x; refine keep_have1 x ?_ ?_ <;> first | (show x.1.inv; unfold x) | (intro _; clear_value x))
    | (intro x; refine keep_have2 x ?_ ?_ <;> first | (show x.2.inv; unfold x) | (intro _; clear_value x))
    | (intro x; clear_value x)
    | intro _
    | lift_lets
    | dsimp only

theorem Dev.runRestore_inv (d : Dev) (c : HciCmd) (h1 : d.inv) :
    (Dev.runRestore d c).inv := by
  unfold Dev.runRestore
  repeat' first
    | with_reducible assumption
    | with_reducible apply keep_ite
    | with_reducible apply keep_ite1
    | with_reducible apply keep_ite2
    | with_reducible apply Dev.done_inv
    | with_reducible apply Dev.restoreStream_inv
    | with_reducible apply Dev.slpRestored_inv
    | with_reducible apply Dev.finish_inv
    | with_reducible apply Dev.mismatch_inv
    | with_reducible refine keep_foldl (fun d x hd => ?_) ?_
    | with_reducible refine keep_foldl1 (fun d x hd => ?_) ?_
    | (intro x; refine keep_have x ?_ ?_ <;> first | (show x.inv; unfold x) | (intro _; clear_value x))
    | (intro x; refine keep_have1 x ?_ ?_ <;> first | (show x.1.inv; unfold x) | (intro _; clear_value x))
    | (intro x; refine keep_have2 x ?_ ?_ <;> first | (show x.2.inv; unfold x) | (intro _; clear_value x))
    | (intro x; clear_value x)
    | intro _
    | lift_lets
    | split
    | dsimp only

theorem Dev.runRecordPut_inv (d : Dev) (c : HciCmd) (h1 : d.inv) :
    (Dev.runRecordPut d c).inv := by
  unfold Dev.runRecordPut
  repeat' first
    | with_reducible assumption
    | with_reducible apply Dev.recordPut_inv
    | with_reducible apply Dev.done_inv
    | (intro x; refine keep_have x ?_ ?_ <;> first | (show x.inv; unfold x) | (intro _; clear_value x))
    | (intro x; refine keep_have1 x ?_ ?_ <;> first | (show x.1.inv; unfold x) | (intro _; clear_value x))
    | (intro x; refine keep_have2 x ?_ ?_ <;> first | (show x.2.inv; unfold x) | (intro _; clear_value x))
    | (intro x; clear_value x)
    | intro _
    | lift_lets
    | dsimp only

theorem Dev.runRecordDel_inv (d : Dev) (c : HciCmd) (h1 : d.inv) :
    (Dev.runRecordDel d c).inv := by
  unfold Dev.runRecordDel
  repeat' first
    | with_reducible assumption
    | with_reducible apply Dev.recordDel_inv
    | with_reducible apply Dev.done_inv
    | (intro x; refine keep_have x ?_ ?_ <;> first | (show x.inv; unfold x) | (intro _; clear_value x))
    | (intro x; refine keep_have1 x ?_ ?_ <;> first | (show x.1.inv; unfold x) | (intro _; clear_value x))
    | (intro x; refine keep_have2 x ?_ ?_ <;> first | (show x.2.inv; unfold x) | (intro _; clear_value x))
    | (intro x; clear_value x)
    | intro _
    | lift_lets
    | dsimp only

theorem Dev.runPropose_inv (d : Dev) (c : HciCmd) (h1 : d.inv) :
    (Dev.runPropose d c).inv := by
  unfold Dev.runPropose
  repeat' first
    | with_reducible assumption
    | with_reducible apply Dev.runCmd_inv
    | with_reducible apply Dev.hostPropose_inv
    | intro _
    | dsimp only

theorem Dev.runMemberRead_inv (d : Dev) (c : HciCmd) (h1 : d.inv) :
    (Dev.runMemberRead d c).inv := by
  unfold Dev.runMemberRead
  repeat' first
    | with_reducible assumption
    | with_reducible apply Dev.cmdReturn_inv
    | with_reducible apply Dev.done_inv
    | intro _
    | dsimp only

theorem Dev.runMigrate_inv (d : Dev) (c : HciCmd) (h1 : d.inv) :
    (Dev.runMigrate d c).inv := by
  unfold Dev.runMigrate
  repeat' first
    | with_reducible assumption
    | with_reducible apply Dev.runCmd_inv
    | with_reducible apply Dev.hostMigrate_inv
    | intro _
    | dsimp only

theorem Dev.endRegProg_inv (d : Dev) (c : HciCmd) (h1 : d.inv) :
    (Dev.endRegProg d c).inv := by
  unfold Dev.endRegProg
  repeat' first
    | with_reducible assumption
    | with_reducible apply Dev.done_inv
    | intro _
    | dsimp only

theorem Dev.runRegProg_inv (d : Dev) (c : HciCmd) (h1 : d.inv) :
    (Dev.runRegProg d c).inv := by
  unfold Dev.runRegProg
  repeat' first
    | with_reducible assumption
    | with_reducible apply keep_ite
    | with_reducible apply keep_ite1
    | with_reducible apply Dev.setReg_inv
    | with_reducible apply Dev.regStatusUpdate_inv
    | with_reducible apply Dev.regProgCmd_inv
    | with_reducible apply Dev.done_inv
    | with_reducible apply Dev.runCmd_inv
    | with_reducible apply Dev.endRegProg_inv
    | (intro x; refine keep_have x ?_ ?_ <;> first | (show x.inv; unfold x) | (intro _; clear_value x))
    | (intro x; refine keep_have1 x ?_ ?_ <;> first | (show x.1.inv; unfold x) | (intro _; clear_value x))
    | (intro x; clear_value x)
    | intro _
    | lift_lets
    | split
    | dsimp only

theorem Dev.runSecureRead_inv (d : Dev) (c : HciCmd) (h1 : d.inv) :
    (Dev.runSecureRead d c).inv := by
  unfold Dev.runSecureRead
  repeat' first
    | with_reducible assumption
    | with_reducible apply Dev.regRead_inv
    | with_reducible apply Dev.finish_inv
    | (intro x; refine keep_have x ?_ ?_ <;> first | (show x.inv; unfold x) | (intro _; clear_value x))
    | (intro x; refine keep_have1 x ?_ ?_ <;> first | (show x.1.inv; unfold x) | (intro _; clear_value x))
    | (intro x; refine keep_have2 x ?_ ?_ <;> first | (show x.2.inv; unfold x) | (intro _; clear_value x))
    | (intro x; clear_value x)
    | intro _
    | lift_lets
    | dsimp only

theorem Dev.runKeyOp_inv (d : Dev) (c : HciCmd) (op : Nat) (h1 : d.inv) :
    (Dev.runKeyOp d c op).inv := by
  unfold Dev.runKeyOp
  repeat' first
    | with_reducible assumption
    | with_reducible apply keep_ite
    | with_reducible apply keep_ite1
    | with_reducible apply Dev.done_inv
    | with_reducible apply Dev.wr_inv
    | with_reducible apply Dev.setKeyData_inv
    | with_reducible apply Dev.keyStart_inv
    | with_reducible apply Dev.runCmd_inv
    | (intro x; refine keep_have x ?_ ?_ <;> first | (show x.inv; unfold x) | (intro _; clear_value x))
    | (intro x; refine keep_have1 x ?_ ?_ <;> first | (show x.1.inv; unfold x) | (intro _; clear_value x))
    | (intro x; clear_value x)
    | intro _
    | lift_lets
    | split
    | dsimp only

theorem Dev.endKeyOp_inv (d : Dev) (c : HciCmd) (h1 : d.inv) :
    (Dev.endKeyOp d c).inv := by
  unfold Dev.endKeyOp
  repeat' first
    | with_reducible assumption
    | with_reducible apply keep_ite
    | with_reducible apply keep_ite1
    | with_reducible apply Dev.cmdReturn_inv
    | with_reducible apply Dev.done_inv
    | (intro x; refine keep_have x ?_ ?_ <;> first | (show x.inv; unfold x) | (intro _; clear_value x))
    | (intro x; refine keep_have1 x ?_ ?_ <;> first | (show x.1.inv; unfold x) | (intro _; clear_value x))
    | (intro x; clear_value x)
    | intro _
    | lift_lets
    | split
    | dsimp only

theorem Dev.runBlobPut_inv (d : Dev) (c : HciCmd) (h1 : d.inv) :
    (Dev.runBlobPut d c).inv := by
  unfold Dev.runBlobPut
  repeat' first
    | with_reducible assumption
    | with_reducible apply Dev.setBytes_inv
    | with_reducible apply Dev.done_inv
    | intro _
    | dsimp only

theorem Dev.runAttrRead_inv (d : Dev) (c : HciCmd) (h1 : d.inv) :
    (Dev.runAttrRead d c).inv := by
  unfold Dev.runAttrRead
  repeat' first
    | with_reducible assumption
    | with_reducible apply Dev.finish_inv
    | intro _
    | dsimp only

theorem Dev.runLcStatus_inv (d : Dev) (c : HciCmd) (h1 : d.inv) :
    (Dev.runLcStatus d c).inv := by
  unfold Dev.runLcStatus
  repeat' first
    | with_reducible assumption
    | with_reducible apply Dev.cmdReturn_inv
    | with_reducible apply Dev.finish_inv
    | intro _
    | dsimp only

theorem Dev.runLcTransition_inv (d : Dev) (c : HciCmd) (h1 : d.inv) :
    (Dev.runLcTransition d c).inv := by
  unfold Dev.runLcTransition
  repeat' first
    | with_reducible assumption
    | with_reducible apply keep_ite
    | with_reducible apply keep_ite1
    | with_reducible apply keep_ite2
    | with_reducible apply Dev.done_inv
    | with_reducible apply Dev.wr_inv
    | with_reducible apply Dev.lcRequest_inv
    | with_reducible apply Dev.freeOf_inv
    | with_reducible apply Dev.runCmd_inv
    | (intro x; refine keep_have x ?_ ?_ <;> first | (show x.inv; unfold x) | (intro _; clear_value x))
    | (intro x; refine keep_have1 x ?_ ?_ <;> first | (show x.1.inv; unfold x) | (intro _; clear_value x))
    | (intro x; refine keep_have2 x ?_ ?_ <;> first | (show x.2.inv; unfold x) | (intro _; clear_value x))
    | (intro x; clear_value x)
    | intro _
    | lift_lets
    | split
    | dsimp only

theorem Dev.runApplication_inv (d : Dev) (c : HciCmd) (h1 : d.inv) :
    (Dev.runApplication d c).inv := by
  unfold Dev.runApplication
  repeat' first
    | with_reducible assumption
    | with_reducible apply Dev.emit_inv
    | with_reducible apply Dev.freeOf_inv
    | with_reducible apply Dev.free_inv
    | with_reducible apply Dev.finish_inv
    | (intro x; refine keep_have x ?_ ?_ <;> first | (show x.inv; unfold x) | (intro _; clear_value x))
    | (intro x; refine keep_have1 x ?_ ?_ <;> first | (show x.1.inv; unfold x) | (intro _; clear_value x))
    | (intro x; refine keep_have2 x ?_ ?_ <;> first | (show x.2.inv; unfold x) | (intro _; clear_value x))
    | (intro x; clear_value x)
    | intro _
    | lift_lets
    | dsimp only

theorem Dev.runOpcode_inv (d : Dev) (c : HciCmd) (h1 : d.inv) :
    (Dev.runOpcode d c).inv := by
  unfold Dev.runOpcode
  repeat' first
    | with_reducible assumption
    | with_reducible apply Dev.runTxFrame_inv
    | with_reducible apply Dev.runRegRead_inv
    | with_reducible apply Dev.runRegWrite_inv
    | with_reducible apply Dev.runPowerVote_inv
    | with_reducible apply Dev.runHello_inv
    | with_reducible apply Dev.runIdentify_inv
    | with_reducible apply Dev.runQueueCreate_inv
    | with_reducible apply Dev.runQueueDelete_inv
    | with_reducible apply Dev.runTxCancel_inv
    | with_reducible apply Dev.runNodeAdd_inv
    | with_reducible apply Dev.runNodeUpdate_inv
    | with_reducible apply Dev.runNodeRemove_inv
    | with_reducible apply Dev.runNodeRead_inv
    | with_reducible apply Dev.runRouteSet_inv
    | with_reducible apply Dev.runRouteDel_inv
    | with_reducible apply Dev.runSnapshot_inv
    | with_reducible apply Dev.runRestore_inv
    | with_reducible apply Dev.runRecordPut_inv
    | with_reducible apply Dev.runRecordDel_inv
    | with_reducible apply Dev.runPropose_inv
    | with_reducible apply Dev.runMemberRead_inv
    | with_reducible apply Dev.runMigrate_inv
    | with_reducible apply Dev.runRegProg_inv
    | with_reducible apply Dev.runSecureRead_inv
    | with_reducible apply Dev.runKeyOp_inv
    | with_reducible apply Dev.runBlobPut_inv
    | with_reducible apply Dev.runAttrRead_inv
    | with_reducible apply Dev.runLcStatus_inv
    | with_reducible apply Dev.runLcTransition_inv
    | with_reducible apply Dev.runApplication_inv
    | intro _
    | simp only [keep_mk]
    | split
    | dsimp only

theorem Dev.serveCmd_inv (d : Dev) (c : HciCmd) (h1 : d.inv) :
    (Dev.serveCmd d c).inv := by
  unfold Dev.serveCmd
  repeat' first
    | with_reducible assumption
    | with_reducible apply keep_ite
    | with_reducible apply keep_ite1
    | with_reducible apply keep_ite2
    | with_reducible apply Dev.runOpcode_inv
    | with_reducible apply Dev.fetch_inv
    | with_reducible apply Dev.done_inv
    | (intro x; refine keep_have x ?_ ?_ <;> first | (show x.inv; unfold x) | (intro _; clear_value x))
    | (intro x; refine keep_have1 x ?_ ?_ <;> first | (show x.1.inv; unfold x) | (intro _; clear_value x))
    | (intro x; refine keep_have2 x ?_ ?_ <;> first | (show x.2.inv; unfold x) | (intro _; clear_value x))
    | (intro x; clear_value x)
    | intro _
    | lift_lets
    | simp only [keep_mk]
    | split
    | dsimp only

theorem Dev.startCmd_inv (d : Dev) (c : HciCmd) (h1 : d.inv) :
    (Dev.startCmd d c).inv := by
  unfold Dev.startCmd
  repeat' first
    | with_reducible assumption
    | with_reducible apply keep_ite
    | with_reducible apply keep_ite1
    | with_reducible apply Dev.done_inv
    | with_reducible apply Dev.domainOff_inv
    | with_reducible apply Dev.setCmd_inv
    | with_reducible apply Dev.settle_inv
    | with_reducible apply Dev.serveCmd_inv
    | (intro x; refine keep_have x ?_ ?_ <;> first | (show x.inv; unfold x) | (intro _; clear_value x))
    | (intro x; refine keep_have1 x ?_ ?_ <;> first | (show x.1.inv; unfold x) | (intro _; clear_value x))
    | (intro x; clear_value x)
    | intro _
    | lift_lets
    | simp only [keep_mk]
    | split
    | dsimp only

theorem Dev.pollCmd_inv (d : Dev) (c : HciCmd) (h1 : d.inv) :
    (Dev.pollCmd d c).inv := by
  unfold Dev.pollCmd
  repeat' first
    | with_reducible assumption
    | with_reducible apply keep_ite
    | with_reducible apply keep_ite1
    | with_reducible apply Dev.finish_inv
    | with_reducible apply Dev.qReset_inv
    | with_reducible apply Dev.done_inv
    | with_reducible apply Dev.endRegProg_inv
    | with_reducible apply Dev.endKeyOp_inv
    | (intro x; refine keep_have x ?_ ?_ <;> first | (show x.inv; unfold x) | (intro _; clear_value x))
    | (intro x; refine keep_have1 x ?_ ?_ <;> first | (show x.1.inv; unfold x) | (intro _; clear_value x))
    | (intro x; clear_value x)
    | intro _
    | lift_lets
    | simp only [keep_mk]
    | split
    | dsimp only

end Sys2Proof.Machine
end

