-- ==== Sys2Proof/Laws/KeepHci.lean ====
section
/-! SUPPORT. Every operation of Machine/Hci.lean keeps the invariant. -/

namespace Sys2Proof.Machine

open Sys2Proof

theorem Dev.freeWords_inv (d : Dev) (y0 : Nat) (h1 : d.inv) :
    (Dev.freeWords d y0).1.inv := by
  induction y0 generalizing d with
  | zero =>
    (first | rw [Dev.freeWords] | unfold Dev.freeWords)
    repeat' first
      | with_reducible assumption
      | with_reducible apply Dev.free_inv
      | (intro x; refine keep_have x ?_ ?_ <;> first | (show x.inv; unfold x) | (intro _; clear_value x))
      | (intro x; refine keep_have1 x ?_ ?_ <;> first | (show x.1.inv; unfold x) | (intro _; clear_value x))
      | (intro x; refine keep_have2 x ?_ ?_ <;> first | (show x.2.inv; unfold x) | (intro _; clear_value x))
      | (intro x; clear_value x)
      | intro _
      | lift_lets
      | dsimp only
  | succ _ ih =>
    (first | rw [Dev.freeWords] | unfold Dev.freeWords)
    repeat' first
      | with_reducible assumption
      | with_reducible apply ih
      | with_reducible apply Dev.free_inv
      | (intro x; refine keep_have x ?_ ?_ <;> first | (show x.inv; unfold x) | (intro _; clear_value x))
      | (intro x; refine keep_have1 x ?_ ?_ <;> first | (show x.1.inv; unfold x) | (intro _; clear_value x))
      | (intro x; refine keep_have2 x ?_ ?_ <;> first | (show x.2.inv; unfold x) | (intro _; clear_value x))
      | (intro x; clear_value x)
      | intro _
      | lift_lets
      | dsimp only

theorem Dev.headEntry_inv (d : Dev) (q : Nat) (h1 : d.inv) :
    (Dev.headEntry d q).1.inv := by
  unfold Dev.headEntry
  repeat' first
    | with_reducible assumption
    | with_reducible apply keep_ite
    | with_reducible apply keep_ite1
    | with_reducible apply keep_ite2
    | with_reducible apply Dev.freeWords_inv
    | (intro x; refine keep_have x ?_ ?_ <;> first | (show x.inv; unfold x) | (intro _; clear_value x))
    | (intro x; refine keep_have1 x ?_ ?_ <;> first | (show x.1.inv; unfold x) | (intro _; clear_value x))
    | (intro x; refine keep_have2 x ?_ ?_ <;> first | (show x.2.inv; unfold x) | (intro _; clear_value x))
    | (intro x; clear_value x)
    | intro _
    | lift_lets
    | simp only [keep_mk]
    | split
    | dsimp only

theorem Dev.entryFault_inv (d : Dev) (q : Nat) (i : Nat) (f : Option (Nat × Nat)) (h1 : d.inv) :
    (Dev.entryFault d q i f).inv := by
  unfold Dev.entryFault
  repeat' first
    | with_reducible assumption
    | (intro x; refine keep_have x ?_ ?_ <;> first | (show x.inv; unfold x) | (intro _; clear_value x))
    | (intro x; refine keep_have1 x ?_ ?_ <;> first | (show x.1.inv; unfold x) | (intro _; clear_value x))
    | (intro x; refine keep_have2 x ?_ ?_ <;> first | (show x.2.inv; unfold x) | (intro _; clear_value x))
    | (intro x; clear_value x)
    | intro _
    | lift_lets
    | simp only [keep_mk]
    | dsimp only

theorem Dev.fetchFrom_inv (d : Dev) (q : Nat) (h1 : d.inv) :
    (Dev.fetchFrom d q).inv := by
  unfold Dev.fetchFrom
  repeat' first
    | with_reducible assumption
    | with_reducible apply keep_ite
    | with_reducible apply keep_ite1
    | with_reducible apply keep_ite2
    | with_reducible apply Dev.headEntry_inv
    | with_reducible apply Dev.wr_inv
    | with_reducible apply Dev.entryFault_inv
    | (intro x; refine keep_have x ?_ ?_ <;> first | (show x.inv; unfold x) | (intro _; clear_value x))
    | (intro x; refine keep_have1 x ?_ ?_ <;> first | (show x.1.inv; unfold x) | (intro _; clear_value x))
    | (intro x; refine keep_have2 x ?_ ?_ <;> first | (show x.2.inv; unfold x) | (intro _; clear_value x))
    | (intro x; clear_value x)
    | intro _
    | lift_lets
    | simp only [keep_mk]
    | split
    | dsimp only

theorem Dev.startCmds_inv (d : Dev) (y0 : List Nat) (h1 : d.inv) :
    (Dev.startCmds d y0).inv := by
  induction y0 generalizing d with
  | nil =>
    (first | rw [Dev.startCmds] | unfold Dev.startCmds)
    repeat' first
      | with_reducible assumption
      | with_reducible apply keep_ite
      | with_reducible apply Dev.startCmd_inv
      | intro _
      | simp only [keep_mk]
      | split
      | dsimp only
  | cons _ _ ih =>
    (first | rw [Dev.startCmds] | unfold Dev.startCmds)
    repeat' first
      | with_reducible assumption
      | with_reducible apply ih
      | with_reducible apply keep_ite
      | with_reducible apply Dev.startCmd_inv
      | intro _
      | simp only [keep_mk]
      | split
      | dsimp only

theorem Dev.endCmds_inv (d : Dev) (y0 : List Nat) (h1 : d.inv) :
    (Dev.endCmds d y0).inv := by
  induction y0 generalizing d with
  | nil =>
    (first | rw [Dev.endCmds] | unfold Dev.endCmds)
    repeat' first
      | with_reducible assumption
      | with_reducible apply Dev.done_inv
      | with_reducible apply Dev.finish_inv
      | with_reducible apply Dev.pollCmd_inv
      | intro _
      | simp only [keep_mk]
      | split
      | dsimp only
  | cons _ _ ih =>
    (first | rw [Dev.endCmds] | unfold Dev.endCmds)
    repeat' first
      | with_reducible assumption
      | with_reducible apply ih
      | with_reducible apply Dev.done_inv
      | with_reducible apply Dev.finish_inv
      | with_reducible apply Dev.pollCmd_inv
      | intro _
      | simp only [keep_mk]
      | split
      | dsimp only

theorem Dev.workCmds_inv (d : Dev) (h1 : d.inv) :
    (Dev.workCmds d).inv := by
  unfold Dev.workCmds
  repeat' first
    | with_reducible assumption
    | with_reducible apply Dev.endCmds_inv
    | with_reducible apply Dev.startCmds_inv
    | (intro x; refine keep_have x ?_ ?_ <;> first | (show x.inv; unfold x) | (intro _; clear_value x))
    | (intro x; refine keep_have1 x ?_ ?_ <;> first | (show x.1.inv; unfold x) | (intro _; clear_value x))
    | (intro x; clear_value x)
    | intro _
    | lift_lets
    | dsimp only

theorem Dev.fetchCmds_inv (d : Dev) (y0 : Nat) (h1 : d.inv) :
    (Dev.fetchCmds d y0).inv := by
  induction y0 generalizing d with
  | zero =>
    (first | rw [Dev.fetchCmds] | unfold Dev.fetchCmds)
    repeat' first
      | with_reducible assumption
      | with_reducible apply Dev.fetchFrom_inv
      | with_reducible apply Dev.workCmds_inv
      | intro _
      | simp only [keep_mk]
      | split
      | dsimp only
  | succ _ ih =>
    (first | rw [Dev.fetchCmds] | unfold Dev.fetchCmds)
    repeat' first
      | with_reducible assumption
      | with_reducible apply ih
      | with_reducible apply Dev.fetchFrom_inv
      | with_reducible apply Dev.workCmds_inv
      | intro _
      | simp only [keep_mk]
      | split
      | dsimp only

theorem Dev.storedDoorbells_inv (d : Dev) (h1 : d.inv) :
    (Dev.storedDoorbells d).inv := by
  unfold Dev.storedDoorbells
  repeat' first
    | with_reducible assumption
    | with_reducible apply keep_ite
    | with_reducible apply keep_ite1
    | with_reducible apply keep_ite2
    | with_reducible apply Dev.doorbellAct_inv
    | with_reducible refine keep_foldl (fun d x hd => ?_) ?_
    | with_reducible refine keep_foldl1 (fun d x hd => ?_) ?_
    | (intro x; refine keep_have x ?_ ?_ <;> first | (show x.inv; unfold x) | (intro _; clear_value x))
    | (intro x; refine keep_have1 x ?_ ?_ <;> first | (show x.1.inv; unfold x) | (intro _; clear_value x))
    | (intro x; refine keep_have2 x ?_ ?_ <;> first | (show x.2.inv; unfold x) | (intro _; clear_value x))
    | (intro x; clear_value x)
    | intro _
    | lift_lets
    | simp only [keep_mk]
    | split
    | dsimp only

theorem Dev.stopBarred_inv (d : Dev) (h1 : d.inv) :
    (Dev.stopBarred d).inv := by
  unfold Dev.stopBarred
  repeat' first
    | with_reducible assumption
    | with_reducible apply Dev.dmaFail_inv
    | with_reducible refine keep_foldl (fun d x hd => ?_) ?_
    | with_reducible refine keep_foldl1 (fun d x hd => ?_) ?_
    | intro _
    | dsimp only

theorem Dev.pump_inv (d : Dev) (h1 : d.inv) :
    (Dev.pump d).inv := by
  unfold Dev.pump
  repeat' first
    | with_reducible assumption
    | with_reducible apply keep_ite
    | with_reducible apply Dev.storedDoorbells_inv
    | with_reducible apply Dev.stopBarred_inv
    | with_reducible apply Dev.workCmds_inv
    | with_reducible apply Dev.fetchCmds_inv
    | intro _
    | split
    | dsimp only

theorem Dev.hostEntry_inv (d : Dev) (q : Nat) (k : Nat) (c : HostCmd) (h1 : d.inv) :
    (Dev.hostEntry d q k c).inv := by
  unfold Dev.hostEntry
  repeat' first
    | with_reducible assumption
    | with_reducible apply keep_ite
    | with_reducible apply keep_ite1
    | with_reducible apply Dev.entryFault_inv
    | with_reducible apply Dev.setBytes_inv
    | (intro x; refine keep_have x ?_ ?_ <;> first | (show x.inv; unfold x) | (intro _; clear_value x))
    | (intro x; refine keep_have1 x ?_ ?_ <;> first | (show x.1.inv; unfold x) | (intro _; clear_value x))
    | (intro x; clear_value x)
    | intro _
    | lift_lets
    | simp only [keep_mk]
    | split
    | dsimp only

theorem Dev.hostEntriesAt_inv (d : Dev) (q : Nat) (y0 : Nat) (y1 : List HostCmd) (h1 : d.inv) :
    (Dev.hostEntriesAt d q y0 y1).inv := by
  induction y1 generalizing d q y0 with
  | nil =>
    (first | rw [Dev.hostEntriesAt] | unfold Dev.hostEntriesAt)
    repeat' first
      | with_reducible assumption
      | with_reducible apply Dev.hostEntry_inv
      | intro _
      | dsimp only
  | cons _ _ ih =>
    (first | rw [Dev.hostEntriesAt] | unfold Dev.hostEntriesAt)
    repeat' first
      | with_reducible assumption
      | with_reducible apply ih
      | with_reducible apply Dev.hostEntry_inv
      | intro _
      | dsimp only

theorem Dev.hostSubmit_inv (d : Dev) (op : Nat) (c : HostCmd) (h1 : d.inv) :
    (Dev.hostSubmit d op c).inv := by
  unfold Dev.hostSubmit
  repeat' first
    | with_reducible assumption
    | with_reducible apply Dev.hostEntry_inv
    | with_reducible apply Dev.doorbellWrite_inv
    | with_reducible apply Dev.pump_inv
    | (intro x; refine keep_have x ?_ ?_ <;> first | (show x.inv; unfold x) | (intro _; clear_value x))
    | (intro x; refine keep_have1 x ?_ ?_ <;> first | (show x.1.inv; unfold x) | (intro _; clear_value x))
    | (intro x; clear_value x)
    | intro _
    | lift_lets
    | simp only [keep_mk]
    | dsimp only

theorem Dev.dmaFault_inv (d : Dev) (q : Nat) (h1 : d.inv) :
    (Dev.dmaFault d q).inv := by
  unfold Dev.dmaFault
  repeat' first
    | with_reducible assumption
    | with_reducible apply keep_ite
    | with_reducible apply Dev.dmaFail_inv
    | intro _
    | split
    | dsimp only

end Sys2Proof.Machine
end

