-- ==== Sys2Proof/Laws/KeepAccess.lean ====
section
/-! SUPPORT. Every operation of Machine/Access.lean keeps the invariant. -/

namespace Sys2Proof.Machine

open Sys2Proof

theorem Dev.accessRead_inv (d : Dev) (who : Initiator) (a : Nat) (h1 : d.inv) :
    (Dev.accessRead d who a).inv := by
  unfold Dev.accessRead
  repeat' first
    | with_reducible assumption
    | with_reducible apply keep_ite
    | with_reducible apply keep_ite1
    | with_reducible apply keep_ite2
    | with_reducible apply Dev.bar0Read_inv
    | with_reducible apply Dev.ctlRead_inv
    | with_reducible apply Dev.emit_inv
    | (intro x; refine keep_have x ?_ ?_ <;> first | (show x.inv; unfold x) | (intro _; clear_value x))
    | (intro x; refine keep_have1 x ?_ ?_ <;> first | (show x.1.inv; unfold x) | (intro _; clear_value x))
    | (intro x; refine keep_have2 x ?_ ?_ <;> first | (show x.2.inv; unfold x) | (intro _; clear_value x))
    | (intro x; clear_value x)
    | intro _
    | lift_lets
    | split
    | dsimp only

theorem Dev.accessWrite_inv (d : Dev) (who : Initiator) (a : Nat) (w : Word) (h1 : d.inv) :
    (Dev.accessWrite d who a w).inv := by
  unfold Dev.accessWrite
  repeat' first
    | with_reducible assumption
    | with_reducible apply keep_ite
    | with_reducible apply Dev.bar0Write_inv
    | with_reducible apply Dev.ctlWrite_inv
    | with_reducible apply Dev.pump_inv
    | intro _
    | split
    | dsimp only

end Sys2Proof.Machine
end

