-- ==== Sys2Proof/Laws/KeepCsps.lean ====
section
/-! SUPPORT. Every operation of Machine/Csps.lean keeps the invariant. -/

namespace Sys2Proof.Machine

open Sys2Proof

theorem Dev.cspsReads_inv (d : Dev) (a : Nat) (fails : Nat) (y0 : Nat) (h1 : d.inv) :
    (Dev.cspsReads d a fails y0).1.inv := by
  induction y0 generalizing d a fails with
  | zero =>
    (first | rw [Dev.cspsReads] | unfold Dev.cspsReads)
    repeat' first
      | with_reducible assumption
      | with_reducible apply keep_ite
      | with_reducible apply keep_ite1
      | with_reducible apply keep_ite2
      | with_reducible apply Dev.bar2Read_inv
      | with_reducible apply Dev.bar0ReadVia_inv
      | (intro x; refine keep_have x ?_ ?_ <;> first | (show x.inv; unfold x) | (intro _; clear_value x))
      | (intro x; refine keep_have1 x ?_ ?_ <;> first | (show x.1.inv; unfold x) | (intro _; clear_value x))
      | (intro x; refine keep_have2 x ?_ ?_ <;> first | (show x.2.inv; unfold x) | (intro _; clear_value x))
      | (intro x; clear_value x)
      | intro _
      | lift_lets
      | split
      | dsimp only
  | succ _ ih =>
    (first | rw [Dev.cspsReads] | unfold Dev.cspsReads)
    repeat' first
      | with_reducible assumption
      | with_reducible apply ih
      | with_reducible apply keep_ite
      | with_reducible apply keep_ite1
      | with_reducible apply keep_ite2
      | with_reducible apply Dev.bar2Read_inv
      | with_reducible apply Dev.bar0ReadVia_inv
      | (intro x; refine keep_have x ?_ ?_ <;> first | (show x.inv; unfold x) | (intro _; clear_value x))
      | (intro x; refine keep_have1 x ?_ ?_ <;> first | (show x.1.inv; unfold x) | (intro _; clear_value x))
      | (intro x; refine keep_have2 x ?_ ?_ <;> first | (show x.2.inv; unfold x) | (intro _; clear_value x))
      | (intro x; clear_value x)
      | intro _
      | lift_lets
      | split
      | dsimp only

theorem Dev.cspsWrites_inv (d : Dev) (a : Nat) (fails : Nat) (y0 : List Nat) (h1 : d.inv) :
    (Dev.cspsWrites d a fails y0).inv := by
  induction y0 generalizing d a fails with
  | nil =>
    (first | rw [Dev.cspsWrites] | unfold Dev.cspsWrites)
    repeat' first
      | with_reducible assumption
      | with_reducible apply keep_ite
      | with_reducible apply Dev.bar2Write_inv
      | with_reducible apply Dev.bar0WriteVia_inv
      | intro _
      | split
      | dsimp only
  | cons _ _ ih =>
    (first | rw [Dev.cspsWrites] | unfold Dev.cspsWrites)
    repeat' first
      | with_reducible assumption
      | with_reducible apply ih
      | with_reducible apply keep_ite
      | with_reducible apply Dev.bar2Write_inv
      | with_reducible apply Dev.bar0WriteVia_inv
      | intro _
      | split
      | dsimp only

theorem Dev.cspsCommit_inv (d : Dev) (h1 : d.inv) :
    (Dev.cspsCommit d).inv := by
  unfold Dev.cspsCommit
  repeat' first
    | with_reducible assumption
    | with_reducible apply Dev.cspsWrites_inv
    | intro _
    | simp only [keep_mk]
    | split
    | dsimp only

theorem Dev.cspsDiscard_inv (d : Dev) (f : CspsFrame) (cause : Nat) (status : Nat) (out : List Byte) (h1 : d.inv) :
    (Dev.cspsDiscard d f cause status out).inv := by
  unfold Dev.cspsDiscard
  repeat' first
    | with_reducible assumption
    | with_reducible apply Dev.setReg_inv
    | with_reducible apply Dev.bump_inv
    | with_reducible apply Dev.emit_inv
    | with_reducible apply Dev.raise_inv
    | (intro x; refine keep_have x ?_ ?_ <;> first | (show x.inv; unfold x) | (intro _; clear_value x))
    | (intro x; refine keep_have1 x ?_ ?_ <;> first | (show x.1.inv; unfold x) | (intro _; clear_value x))
    | (intro x; clear_value x)
    | intro _
    | lift_lets
    | simp only [keep_mk]
    | dsimp only

theorem Dev.cspsGood_inv (d : Dev) (f : CspsFrame) (status : Nat) (out : List Byte) (h1 : d.inv) :
    (Dev.cspsGood d f status out).inv := by
  unfold Dev.cspsGood
  repeat' first
    | with_reducible assumption
    | with_reducible apply Dev.bump_inv
    | with_reducible apply Dev.bumpBy_inv
    | with_reducible apply Dev.emit_inv
    | (intro x; refine keep_have x ?_ ?_ <;> first | (show x.inv; unfold x) | (intro _; clear_value x))
    | (intro x; refine keep_have1 x ?_ ?_ <;> first | (show x.1.inv; unfold x) | (intro _; clear_value x))
    | (intro x; clear_value x)
    | intro _
    | lift_lets
    | simp only [keep_mk]
    | dsimp only

theorem Dev.cspsFrame_inv (d : Dev) (f : CspsFrame) (h1 : d.inv) :
    (Dev.cspsFrame d f).inv := by
  unfold Dev.cspsFrame
  repeat' first
    | with_reducible assumption
    | with_reducible apply keep_ite
    | with_reducible apply keep_ite1
    | with_reducible apply keep_ite2
    | with_reducible apply Dev.cspsCommit_inv
    | with_reducible apply Dev.cspsReads_inv
    | with_reducible apply Dev.cspsDiscard_inv
    | with_reducible apply Dev.cspsGood_inv
    | (intro x; refine keep_have x ?_ ?_ <;> first | (show x.inv; unfold x) | (intro _; clear_value x))
    | (intro x; refine keep_have1 x ?_ ?_ <;> first | (show x.1.inv; unfold x) | (intro _; clear_value x))
    | (intro x; refine keep_have2 x ?_ ?_ <;> first | (show x.2.inv; unfold x) | (intro _; clear_value x))
    | (intro x; clear_value x)
    | intro _
    | lift_lets
    | simp only [keep_mk]
    | split
    | dsimp only

end Sys2Proof.Machine
end

