-- ==== Sys2Proof/Laws/KeepDoldonCore.lean ====
section
/-! SUPPORT. Every operation of Machine/DoldonCore.lean keeps the invariant. -/

namespace Sys2Proof.Machine

open Sys2Proof

theorem Dev.syncTrap_inv (d : Dev) (n : Nat) (t : CoreTrap) (h1 : d.inv) : (Dev.syncTrap d n t).inv := by
  unfold Dev.syncTrap
  extract_lets c
  refine keep_ite (Dev.setIrq_inv _ _ (Dev.setCore_inv _ _ _ h1 fun hn => Dev.inv_core h1 hn))
    (Dev.setCore_inv _ _ _ h1 fun hn => Core.trapEntry_ok (Dev.inv_core h1 hn) _ _ fun h4 => ?_)
  simp [Nat.not_lt.mpr h4]

theorem Dev.interruptTrap_inv (d : Dev) (n i : Nat) (h1 : d.inv) : (Dev.interruptTrap d n i).inv := by
  unfold Dev.interruptTrap
  extract_lets r c
  have hr : r.2.inv := Dev.free_inv _ _ h1
  refine Dev.setCore_inv _ _ _ hr fun hn => Core.trapEntry_ok (Dev.inv_core hr hn) _ _ fun h4 => ?_
  simp [Nat.not_lt.mpr h4]

theorem Dev.jumpTo_inv (d : Dev) (a : Nat) (h1 : d.inv) :
    (Dev.jumpTo d a).2.inv := by
  unfold Dev.jumpTo
  repeat' first
    | with_reducible assumption
    | with_reducible apply keep_ite
    | with_reducible apply keep_ite1
    | with_reducible apply keep_ite2
    | with_reducible apply Dev.free_inv
    | (intro x; refine keep_have x ?_ ?_ <;> first | (show x.inv; unfold x) | (intro _; clear_value x))
    | (intro x; refine keep_have1 x ?_ ?_ <;> first | (show x.1.inv; unfold x) | (intro _; clear_value x))
    | (intro x; refine keep_have2 x ?_ ?_ <;> first | (show x.2.inv; unfold x) | (intro _; clear_value x))
    | (intro x; clear_value x)
    | intro _
    | lift_lets
    | split
    | dsimp only

end Sys2Proof.Machine
end

