-- ==== Sys2Proof/Laws/KeepDoldon.lean ====
section
/-! SUPPORT. Every operation of Machine/Doldon.lean keeps the invariant. -/

namespace Sys2Proof.Machine

open Sys2Proof

theorem Issue.load_inv (u : Issue) (n : Nat) (s : Syllable) (len : Nat) (it : Bool) (a size : Nat) (sg : Bool)
    (fails : Nat) (h : u.dev.inv) : (u.load n s len it a size sg fails).dev.inv := by
  unfold Issue.load
  extract_lets t r f
  have hr : r.1.inv := Dev.fetch_inv _ _ _ _ h
  have hf : f.2.inv := Dev.free_inv _ _ hr
  clear_value t r f
  split
  · exact h
  · exact h
  · split
    · exact hr
    · split <;> assumption

theorem Issue.storeAt_inv (u : Issue) (n : Nat) (s : Syllable) (len : Nat) (it : Bool) (a size : Nat) (w : Word)
    (fails : Nat) (h : u.dev.inv) : (u.storeAt n s len it a size w fails).dev.inv := by
  unfold Issue.storeAt
  extract_lets t r
  have hr : r.1.inv := Dev.fetch_inv _ _ _ _ h
  clear_value t r
  split
  · exact h
  · exact h
  · split <;> exact hr

theorem Issue.fmac_inv (u : Issue) (n : Nat) (c : Core) (s : Syllable) (len : Nat) (it : Bool) (px py : Nat)
    (r : BundleRun) (h : u.dev.inv) : (u.fmac n c s len it px py r).dev.inv := by
  unfold Issue.fmac
  extract_lets ax ay fx fy
  have hx : fx.1.inv := Dev.fetch_inv _ _ _ _ h
  have hy : fy.1.inv := Dev.fetch_inv _ _ _ _ hx
  clear_value fx fy
  repeat' split
  all_goals assumption

theorem Issue.syllable_inv (n : Nat) (c : Core) (r : BundleRun) (len : Nat) (it : Bool) (u : Issue) (s : Syllable)
    (h : u.dev.inv) : (Issue.syllable n c r len it u s).dev.inv := by
  unfold Issue.syllable
  extract_lets trap
  split
  · exact h
  · split
    all_goals first
      | exact h
      | exact Issue.fmac_inv _ _ _ _ _ _ _ _ _ h
      | exact Issue.load_inv _ _ _ _ _ _ _ _ _ h
      | exact Issue.storeAt_inv _ _ _ _ _ _ _ _ _ h
      | (split <;> exact h)

theorem Issue.syllables_inv (n : Nat) (c : Core) (r : BundleRun) (len : Nat) (it : Bool) (l : List Syllable)
    (u : Issue) (h : u.dev.inv) : (l.foldl (Issue.syllable n c r len it) u).dev.inv := by
  induction l generalizing u with
  | nil => exact h
  | cons s l ih => exact ih _ (Issue.syllable_inv _ _ _ _ _ _ _ h)

theorem Issue.take_inv (u : Issue) (a size : Nat) (sg : Bool) (r : Dev × Word) (h : r.1.inv) :
    (u.take a size sg r).dev.inv := h

theorem Issue.ctlValue_inv (u : Issue) (n : Nat) (h : u.dev.inv) : (u.ctlValue n).dev.inv := by
  unfold Issue.ctlValue
  split
  · exact h
  · exact Issue.take_inv _ _ _ _ _ (Dev.ctlRead_inv _ _ _ h)

theorem Dev.commitStore_inv (d : Dev) (n : Nat) (pc : Nat) (t : DataTarget) (size : Nat) (w : Word) (h1 : d.inv) :
    (Dev.commitStore d n pc t size w).inv := by
  unfold Dev.commitStore
  repeat' first
    | with_reducible assumption
    | with_reducible apply keep_ite
    | with_reducible apply keep_ite1
    | with_reducible apply keep_ite2
    | with_reducible apply Dev.setCore_inv
    | with_reducible apply Dev.setLe_inv
    | with_reducible apply Dev.ctlWrite_inv
    | with_reducible apply Dev.free_inv
    | (intro x; refine keep_have x ?_ ?_ <;> first | (show x.inv; unfold x) | (intro _; clear_value x))
    | (intro x; refine keep_have1 x ?_ ?_ <;> first | (show x.1.inv; unfold x) | (intro _; clear_value x))
    | (intro x; refine keep_have2 x ?_ ?_ <;> first | (show x.2.inv; unfold x) | (intro _; clear_value x))
    | (intro (x : Core))
    | (intro x; clear_value x)
    | (intro _; exact coreReset_ok _)
    | (intro hn; exact Dev.inv_core (by assumption) hn)
    | (intro _; exact Core.pc_ok (coreReset_ok 0) _ (by omega) (by omega))
    | intro _
    | lift_lets
    | simp only [keep_mk]
    | split
    | dsimp only

theorem Issue.commitAll_inv (u : Issue) (n : Nat) (b : Bundle) (next : Nat) (h1 : u.dev.inv)
    (hx : next % 4 = 0 ∧ next < 2 ^ 16) : (Issue.commitAll u n b next).inv := by
  unfold Issue.commitAll
  extract_lets v c k go j k2 k3 held
  have hu : v.dev.inv := Issue.ctlValue_inv _ _ h1
  have hc : n < 8 → Core.ok n c := fun hn => Dev.inv_core hu hn
  have hk : n < 8 → Core.ok n k := fun hn => Core.commits_ok v _ (hc hn) (hc hn)
  have hj : j.2.inv ∧ j.1 % 4 = 0 ∧ j.1 < 2 ^ 16 := by
    unfold j
    clear_value go
    cases go with
    | none => exact ⟨hu, hx⟩
    | some p => exact ⟨Dev.jumpTo_inv _ _ hu, Dev.jumpTo_ok _ _⟩
  have h2 : n < 8 → Core.ok n k2 := fun hn => by
    unfold k2
    clear_value go
    rcases go with _ | ⟨a, _ | _⟩
    · exact hk hn
    · exact hk hn
    · exact Core.push_ok (hk hn) _
  have h3 : n < 8 → Core.ok n k3 := fun hn => Core.pc_ok (h2 hn) _ hj.2.1 hj.2.2
  have hh : n < 8 → Core.ok n held := fun hn => Core.status_ok (h3 hn) _ (hc hn).2.2.2.2
  split
  · exact Dev.setCore_inv _ _ _ hj.1 h3
  · extract_lets d after
    have hd : d.inv := Dev.commitStore_inv _ _ _ _ _ _ (Dev.setCore_inv _ _ _ hj.1 hh)
    refine keep_ite (Dev.setCore_inv _ _ _ hd fun hn => Core.status_ok (Dev.inv_core hd hn) _ (h3 hn).2.2.2.2) hd

theorem Dev.issue_inv (d : Dev) (n : Nat) (b : Bundle) (r : BundleRun) (it : Bool) (next : Nat) (h1 : d.inv)
    (hx : next % 4 = 0 ∧ next < 2 ^ 16) : (Dev.issue d n b r it next).1.inv := by
  unfold Dev.issue
  extract_lets c u g
  have hu : u.dev.inv := Issue.syllables_inv _ _ _ _ _ _ _ h1
  have hc : n < 8 → Core.ok n c := fun hn => Dev.inv_core h1 hn
  clear_value u
  split
  · exact Dev.syncTrap_inv _ _ _ hu
  · extract_lets e refused _ f
    have he : e.inv := Dev.settleAll_inv _ (Dev.setCore_inv _ _ _ hu hc)
    have hf : f.inv := Dev.setCore_inv _ _ _ he fun hn =>
      (Core.ok_mk n _ _ _ _ _ _ _ _ _ _ _ _ _ _ _ _).mpr (Dev.inv_core he hn)
    clear_value e f
    clear_value refused
    cases refused
    · exact he
    · simp only [if_true]
      apply Dev.settleAll_inv
      apply Dev.syncTrap_inv
      exact hf
  · have hg : g.inv := Issue.commitAll_inv _ _ _ _ hu hx
    clear_value g
    exact hg

theorem Dev.repeats_inv (n : Nat) (b : Bundle) (lc next : Nat) (y0 : Nat) (y1 : BundleRun) (y2 : Dev) (h1 : y2.inv)
    (hx : next % 4 = 0 ∧ next < 2 ^ 16) (hn : n < 8) : (Dev.repeats n b lc next y0 y1 y2).inv := by
  induction y0 generalizing y1 y2 with
  | zero =>
    unfold Dev.repeats
    extract_lets c
    exact keep_ite (Dev.setCore_inv _ _ _ h1 fun hn => Core.pc_ok (Dev.inv_core h1 hn) _ hx.1 hx.2)
      (Dev.setCore_inv _ _ _ h1 fun hn => Dev.inv_core h1 hn)
  | succ _ ih =>
    unfold Dev.repeats
    extract_lets c e k
    have hc : Core.ok n c := Dev.inv_core h1 hn
    have he : e.1.inv := Dev.issue_inv _ _ _ _ _ _ h1 ⟨hc.2.2.2.1.1, hc.2.2.2.1.2.1⟩
    clear_value e
    exact keep_ite (Dev.setCore_inv _ _ _ h1 fun hn => Core.pc_ok (Dev.inv_core h1 hn) _ hx.1 hx.2)
      (keep_ite (keep_ite he (ih _ _ (Dev.setCore_inv _ _ _ he fun hn => Core.setLc_ok (Dev.inv_core he hn) _ _))) he)

theorem Dev.bundleRun_inv (d : Dev) (n : Nat) (r : BundleRun) (h1 : d.inv) (hn : n < 8) : (Dev.bundleRun d n r).inv := by
  unfold Dev.bundleRun
  extract_lets c d1 at0 f d2 c2 x
  have hd : d1.inv := Dev.setCore_inv _ _ _ h1 fun hn => Dev.inv_core h1 hn
  have hf : d2.inv := Dev.fetch_inv _ _ _ _ hd
  have hx : x.2.inv := Dev.free_inv _ _ hf
  refine keep_ite (Dev.syncTrap_inv _ _ _ hx) ?_
  split
  · exact Dev.syncTrap_inv _ _ _ hf
  · next b _ =>
    extract_lets nx
    have hc : Core.ok n c2 := Dev.inv_core hf hn
    have h4 : nx % 4 = 0 ∧ nx < 2 ^ 16 := by
      have := hc.2.2.2.1.1
      unfold nx
      omega
    split
    · exact Dev.issue_inv _ _ _ _ _ _ hf h4
    · exact Dev.repeats_inv _ _ _ _ _ _ _ hf h4 hn

theorem bundle_inv (n : Nat) (r : BundleRun) (d : Dev) (h1 : d.inv) : (bundle n r d).inv := by
  unfold bundle
  split
  · next h =>
    simp only [Dev.executes, Bool.and_eq_true, decide_eq_true_eq] at h
    exact Dev.pump_inv _ (Dev.bundleRun_inv _ _ _ h1 h.1.1.1.1)
  · exact h1

theorem interruptTaken_inv (n : Nat) (d : Dev) (h1 : d.inv) :
    (interruptTaken n d).inv := by
  unfold interruptTaken
  repeat' first
    | with_reducible assumption
    | with_reducible apply keep_ite
    | with_reducible apply Dev.interruptTrap_inv
    | intro _
    | simp only [keep_mk]
    | split
    | dsimp only

theorem waitEnd_inv (n : Nat) (d : Dev) (h1 : d.inv) :
    (waitEnd n d).inv := by
  unfold waitEnd
  repeat' first
    | with_reducible assumption
    | with_reducible apply keep_ite
    | with_reducible apply keep_ite1
    | with_reducible apply Dev.setCore_inv
    | with_reducible apply Dev.interruptTrap_inv
    | (intro x; refine keep_have x ?_ ?_ <;> first | (show x.inv; unfold x) | (intro _; clear_value x))
    | (intro x; refine keep_have1 x ?_ ?_ <;> first | (show x.1.inv; unfold x) | (intro _; clear_value x))
    | (intro (x : Core))
    | (intro x; clear_value x)
    | (intro _; exact coreReset_ok _)
    | (intro hn; exact Dev.inv_core (by assumption) hn)
    | (intro _; exact Core.pc_ok (coreReset_ok 0) _ (by omega) (by omega))
    | intro _
    | lift_lets
    | simp only [keep_mk]
    | split
    | dsimp only

theorem aliasAccessComplete_inv (n : Nat) (r : BundleRun) (d : Dev) (h1 : d.inv) : (aliasAccessComplete n r d).inv := by
  unfold aliasAccessComplete
  extract_lets c
  split
  · exact h1
  · split
    · exact h1
    · next h =>
      simp only [Bool.not_eq_true', Bool.not_eq_false, Bool.and_eq_true, decide_eq_true_eq] at h
      refine keep_ite (Dev.settleAll_inv _ (Dev.pump_inv _ (Dev.bundleRun_inv _ _ _ ?_ h.1))) h1
      exact Dev.setCore_inv _ _ _ h1 fun hn => Dev.inv_core h1 hn

end Sys2Proof.Machine
end

