-- ==== Sys2Proof/Laws/KeepIdle.lean ====
section
/-! SUPPORT. Every operation of Machine/Idle.lean keeps the invariant. -/

namespace Sys2Proof.Machine

open Sys2Proof

theorem Dev.tick_inv (d : Dev) (h1 : d.inv) :
    (Dev.tick d).inv := by
  unfold Dev.tick
  repeat' first
    | with_reducible assumption
    | with_reducible apply keep_ite
    | with_reducible apply Dev.slewTick_inv
    | with_reducible apply Dev.raiseEvs_inv
    | with_reducible apply Dev.winSweep_inv
    | with_reducible apply Dev.pump_inv
    | with_reducible apply Dev.settleAll_inv
    | intro _
    | simp only [keep_mk]
    | split
    | dsimp only

end Sys2Proof.Machine
end

