-- ==== Sys2Proof/Laws/KeepExec.lean ====
section
/-! SUPPORT. The meaning of every command keeps the invariant. -/

namespace Sys2Proof.Machine

open Sys2Proof

/-- A meaning as one step keeps the invariant where its effect on the device does. -/
theorem State.run_inv {f : Dev → Dev} {s t : State} (hf : ∀ d : Dev, d.inv → (f d).inv) (h : s.inv)
    (e : s.run f = .next t) : t.inv := by
  unfold State.run at e
  cases e
  exact hf _ h

theorem execLoad_inv (who : Initiator) (slot : Nat) (s0 s1 : State) (h0 : s0.inv)
    (e0 : execLoad who slot s0 = .next s1) : s1.inv := by
  unfold execLoad at e0
  refine State.run_inv (fun d hd => ?_) h0 e0
  repeat' first
    | with_reducible assumption
    | with_reducible apply keyCmd_inv
    | intro _
    | dsimp only

theorem execKeyCmdClear_inv (who : Initiator) (slot : Nat) (s0 s1 : State) (h0 : s0.inv)
    (e0 : execKeyCmdClear who slot s0 = .next s1) : s1.inv := by
  unfold execKeyCmdClear at e0
  refine State.run_inv (fun d hd => ?_) h0 e0
  repeat' first
    | with_reducible assumption
    | with_reducible apply keyCmd_inv
    | intro _
    | dsimp only

theorem execUnwrap_inv (who : Initiator) (slot : Nat) (kek : Bool) (s0 s1 : State) (h0 : s0.inv)
    (e0 : execUnwrap who slot kek s0 = .next s1) : s1.inv := by
  unfold execUnwrap at e0
  refine State.run_inv (fun d hd => ?_) h0 e0
  repeat' first
    | with_reducible assumption
    | with_reducible apply keyCmd_inv
    | intro _
    | dsimp only

theorem execWrap_inv (who : Initiator) (slot : Nat) (kek : Bool) (s0 s1 : State) (h0 : s0.inv)
    (e0 : execWrap who slot kek s0 = .next s1) : s1.inv := by
  unfold execWrap at e0
  refine State.run_inv (fun d hd => ?_) h0 e0
  repeat' first
    | with_reducible assumption
    | with_reducible apply keyCmd_inv
    | intro _
    | dsimp only

theorem execDerive_inv (who : Initiator) (slot : Nat) (s0 s1 : State) (h0 : s0.inv)
    (e0 : execDerive who slot s0 = .next s1) : s1.inv := by
  unfold execDerive at e0
  refine State.run_inv (fun d hd => ?_) h0 e0
  repeat' first
    | with_reducible assumption
    | with_reducible apply keyCmd_inv
    | intro _
    | dsimp only

theorem execLock_inv (who : Initiator) (slot : Nat) (s0 s1 : State) (h0 : s0.inv)
    (e0 : execLock who slot s0 = .next s1) : s1.inv := by
  unfold execLock at e0
  refine State.run_inv (fun d hd => ?_) h0 e0
  repeat' first
    | with_reducible assumption
    | with_reducible apply keyCmd_inv
    | intro _
    | dsimp only

theorem execLoadKr_inv (who : Initiator) (slot : Nat) (s0 s1 : State) (h0 : s0.inv)
    (e0 : execLoadKr who slot s0 = .next s1) : s1.inv := by
  unfold execLoadKr at e0
  refine State.run_inv (fun d hd => ?_) h0 e0
  repeat' first
    | with_reducible assumption
    | with_reducible apply keyCmd_inv
    | intro _
    | dsimp only

theorem execProgKr_inv (who : Initiator) (slot : Nat) (s0 s1 : State) (h0 : s0.inv)
    (e0 : execProgKr who slot s0 = .next s1) : s1.inv := by
  unfold execProgKr at e0
  refine State.run_inv (fun d hd => ?_) h0 e0
  repeat' first
    | with_reducible assumption
    | with_reducible apply keyCmd_inv
    | intro _
    | dsimp only

theorem execKeySlotAttrWrite_inv (who : Initiator) (n : Nat) (w : Word) (s0 s1 : State) (h0 : s0.inv)
    (e0 : execKeySlotAttrWrite who n w s0 = .next s1) : s1.inv := by
  unfold execKeySlotAttrWrite at e0
  refine State.run_inv (fun d hd => ?_) h0 e0
  repeat' first
    | with_reducible assumption
    | with_reducible apply keySlotAttrWrite_inv
    | intro _
    | dsimp only

theorem execKeyBlobCfgWrite_inv (who : Initiator) (w : Word) (s0 s1 : State) (h0 : s0.inv)
    (e0 : execKeyBlobCfgWrite who w s0 = .next s1) : s1.inv := by
  unfold execKeyBlobCfgWrite at e0
  refine State.run_inv (fun d hd => ?_) h0 e0
  repeat' first
    | with_reducible assumption
    | with_reducible apply keyBlobCfgWrite_inv
    | intro _
    | dsimp only

theorem execKeyPoolWrite_inv (who : Initiator) (w : Word) (s0 s1 : State) (h0 : s0.inv)
    (e0 : execKeyPoolWrite who w s0 = .next s1) : s1.inv := by
  unfold execKeyPoolWrite at e0
  refine State.run_inv (fun d hd => ?_) h0 e0
  repeat' first
    | with_reducible assumption
    | with_reducible apply keyPoolWrite_inv
    | intro _
    | dsimp only

theorem execRemaskSweep_inv  (s0 s1 : State) (h0 : s0.inv)
    (e0 : execRemaskSweep s0 = .next s1) : s1.inv := by
  unfold execRemaskSweep at e0
  refine State.run_inv (fun d hd => ?_) h0 e0
  repeat' first
    | with_reducible assumption
    | with_reducible apply remaskSweep_inv
    | intro _
    | dsimp only

theorem execRegMirrorCheck_inv (flips : List (Nat × Nat)) (s0 s1 : State) (h0 : s0.inv)
    (e0 : execRegMirrorCheck flips s0 = .next s1) : s1.inv := by
  unfold execRegMirrorCheck at e0
  refine State.run_inv (fun d hd => ?_) h0 e0
  repeat' first
    | with_reducible assumption
    | with_reducible apply regMirrorCheck_inv
    | intro _
    | dsimp only

theorem execRegMirrorReloadDone_inv (w : Nat) (s0 s1 : State) (h0 : s0.inv)
    (e0 : execRegMirrorReloadDone w s0 = .next s1) : s1.inv := by
  unfold execRegMirrorReloadDone at e0
  refine State.run_inv (fun d hd => ?_) h0 e0
  repeat' first
    | with_reducible assumption
    | with_reducible apply regMirrorReloadDone_inv
    | intro _
    | dsimp only

theorem execDutyBucketAdvance_inv  (s0 s1 : State) (h0 : s0.inv)
    (e0 : execDutyBucketAdvance s0 = .next s1) : s1.inv := by
  unfold execDutyBucketAdvance at e0
  refine State.run_inv (fun d hd => ?_) h0 e0
  repeat' first
    | with_reducible assumption
    | with_reducible apply dutyBucketAdvance_inv
    | intro _
    | dsimp only

theorem execRestore_inv (who : Initiator) (n t : Nat) (s0 s1 : State) (h0 : s0.inv)
    (e0 : execRestore who n t s0 = .next s1) : s1.inv := by
  unfold execRestore at e0
  refine State.run_inv (fun d hd => ?_) h0 e0
  repeat' first
    | with_reducible assumption
    | with_reducible apply keep_ite
    | with_reducible apply Dev.shapeRestore_inv
    | intro _
    | split
    | dsimp only

theorem execCommitPulseTable_inv (who : Initiator) (n t : Nat) (s0 s1 : State) (h0 : s0.inv)
    (e0 : execCommitPulseTable who n t s0 = .next s1) : s1.inv := by
  unfold execCommitPulseTable at e0
  refine State.run_inv (fun d hd => ?_) h0 e0
  repeat' first
    | with_reducible assumption
    | with_reducible apply keep_ite
    | with_reducible apply Dev.shapeCommit_inv
    | intro _
    | split
    | dsimp only

theorem execPulseTableActivate_inv (n t : Nat) (s0 s1 : State) (h0 : s0.inv)
    (e0 : execPulseTableActivate n t s0 = .next s1) : s1.inv := by
  unfold execPulseTableActivate at e0
  refine State.run_inv (fun d hd => ?_) h0 e0
  repeat' first
    | with_reducible assumption
    | with_reducible apply keep_ite
    | with_reducible apply Dev.shapeActivate_inv
    | intro _
    | split
    | dsimp only

theorem execGainWindowEnd_inv (m full : Nat) (peak : Int) (s0 s1 : State) (h0 : s0.inv)
    (e0 : execGainWindowEnd m full peak s0 = .next s1) : s1.inv := by
  unfold execGainWindowEnd at e0
  refine State.run_inv (fun d hd => ?_) h0 e0
  repeat' first
    | with_reducible assumption
    | with_reducible apply gainWindowEnd_inv
    | intro _
    | dsimp only

theorem execGainQuietIntervalEnd_inv (m : Nat) (peak : Int) (s0 s1 : State) (h0 : s0.inv)
    (e0 : execGainQuietIntervalEnd m peak s0 = .next s1) : s1.inv := by
  unfold execGainQuietIntervalEnd at e0
  refine State.run_inv (fun d hd => ?_) h0 e0
  repeat' first
    | with_reducible assumption
    | with_reducible apply gainQuietIntervalEnd_inv
    | intro _
    | dsimp only

theorem execCastling_inv (m frac : Nat) (s0 s1 : State) (h0 : s0.inv)
    (e0 : execCastling m frac s0 = .next s1) : s1.inv := by
  unfold execCastling at e0
  refine State.run_inv (fun d hd => ?_) h0 e0
  repeat' first
    | with_reducible assumption
    | with_reducible apply castling_inv
    | intro _
    | dsimp only

theorem execRxwGainCfgWrite_inv (who : Initiator) (b : Nat) (w : Word) (s0 s1 : State) (h0 : s0.inv)
    (e0 : execRxwGainCfgWrite who b w s0 = .next s1) : s1.inv := by
  unfold execRxwGainCfgWrite at e0
  refine State.run_inv (fun d hd => ?_) h0 e0
  repeat' first
    | with_reducible assumption
    | with_reducible apply rxwGainCfgWrite_inv
    | intro _
    | dsimp only

theorem execPreambleDetection_inv (xs : List Detection) (s0 s1 : State) (h0 : s0.inv)
    (e0 : execPreambleDetection xs s0 = .next s1) : s1.inv := by
  unfold execPreambleDetection at e0
  refine State.run_inv (fun d hd => ?_) h0 e0
  repeat' first
    | with_reducible assumption
    | with_reducible apply preambleDetection_inv
    | intro _
    | dsimp only

theorem execLaneSyncTimeout_inv (i : Nat) (s0 s1 : State) (h0 : s0.inv)
    (e0 : execLaneSyncTimeout i s0 = .next s1) : s1.inv := by
  unfold execLaneSyncTimeout at e0
  refine State.run_inv (fun d hd => ?_) h0 e0
  repeat' first
    | with_reducible assumption
    | with_reducible apply laneSyncTimeout_inv
    | intro _
    | dsimp only

theorem execFreezePoint_inv (i : Nat) (f : FreezeInfo) (s0 s1 : State) (h0 : s0.inv)
    (e0 : execFreezePoint i f s0 = .next s1) : s1.inv := by
  unfold execFreezePoint at e0
  refine State.run_inv (fun d hd => ?_) h0 e0
  repeat' first
    | with_reducible assumption
    | with_reducible apply freezePoint_inv
    | intro _
    | dsimp only

theorem execPhrCheck_inv (i phr : Nat) (coded : Bool) (s0 s1 : State) (h0 : s0.inv)
    (e0 : execPhrCheck i phr coded s0 = .next s1) : s1.inv := by
  unfold execPhrCheck at e0
  refine State.run_inv (fun d hd => ?_) h0 e0
  repeat' first
    | with_reducible assumption
    | with_reducible apply phrCheck_inv
    | intro _
    | dsimp only

theorem execLaneFrameEnd_inv (i : Nat) (psdu : List Byte) (snr : Int) (fails : Nat) (s0 s1 : State) (h0 : s0.inv)
    (e0 : execLaneFrameEnd i psdu snr fails s0 = .next s1) : s1.inv := by
  unfold execLaneFrameEnd at e0
  refine State.run_inv (fun d hd => ?_) h0 e0
  repeat' first
    | with_reducible assumption
    | with_reducible apply laneFrameEnd_inv
    | intro _
    | dsimp only

theorem execLanePostResume_inv (i : Nat) (s0 s1 : State) (h0 : s0.inv)
    (e0 : execLanePostResume i s0 = .next s1) : s1.inv := by
  unfold execLanePostResume at e0
  refine State.run_inv (fun d hd => ?_) h0 e0
  repeat' first
    | with_reducible assumption
    | with_reducible apply lanePostResume_inv
    | intro _
    | dsimp only

theorem execForkChannelEstimate_inv (i : Nat) (x : ForkEstimate) (s0 s1 : State) (h0 : s0.inv)
    (e0 : execForkChannelEstimate i x s0 = .next s1) : s1.inv := by
  unfold execForkChannelEstimate at e0
  refine State.run_inv (fun d hd => ?_) h0 e0
  repeat' first
    | with_reducible assumption
    | with_reducible apply forkChannelEstimate_inv
    | intro _
    | dsimp only

theorem execIdleSample_inv (sub : Bool) (c ant : Nat) (p : Rat) (s0 s1 : State) (h0 : s0.inv)
    (e0 : execIdleSample sub c ant p s0 = .next s1) : s1.inv := by
  unfold execIdleSample at e0
  refine State.run_inv (fun d hd => ?_) h0 e0
  repeat' first
    | with_reducible assumption
    | with_reducible apply idleSample_inv
    | intro _
    | dsimp only

theorem execChannelConfigEffect_inv (a : Nat) (s0 s1 : State) (h0 : s0.inv)
    (e0 : execChannelConfigEffect a s0 = .next s1) : s1.inv := by
  unfold execChannelConfigEffect at e0
  refine State.run_inv (fun d hd => ?_) h0 e0
  repeat' first
    | with_reducible assumption
    | with_reducible apply channelConfigEffect_inv
    | intro _
    | dsimp only

theorem execSubModeEffect_inv  (s0 s1 : State) (h0 : s0.inv)
    (e0 : execSubModeEffect s0 = .next s1) : s1.inv := by
  unfold execSubModeEffect at e0
  refine State.run_inv (fun d hd => ?_) h0 e0
  repeat' first
    | with_reducible assumption
    | with_reducible apply subModeEffect_inv
    | intro _
    | dsimp only

theorem execOtpLcCmdStart_inv (who : Initiator) (w : Word) (s0 s1 : State) (h0 : s0.inv)
    (e0 : execOtpLcCmdStart who w s0 = .next s1) : s1.inv := by
  unfold execOtpLcCmdStart at e0
  refine State.run_inv (fun d hd => ?_) h0 e0
  repeat' first
    | with_reducible assumption
    | with_reducible apply otpLcCmdStart_inv
    | intro _
    | dsimp only

theorem execBootLowSupplyRecheck_inv  (s0 s1 : State) (h0 : s0.inv)
    (e0 : execBootLowSupplyRecheck s0 = .next s1) : s1.inv := by
  unfold execBootLowSupplyRecheck at e0
  refine State.run_inv (fun d hd => ?_) h0 e0
  repeat' first
    | with_reducible assumption
    | with_reducible apply bootLowSupplyRecheck_inv
    | intro _
    | dsimp only

theorem execCphSubmit_inv (who : Initiator) (a : Nat) (s0 s1 : State) (h0 : s0.inv)
    (e0 : execCphSubmit who a s0 = .next s1) : s1.inv := by
  unfold execCphSubmit at e0
  refine State.run_inv (fun d hd => ?_) h0 e0
  repeat' first
    | with_reducible assumption
    | with_reducible apply cphSubmit_inv
    | intro _
    | dsimp only

theorem execCipherDispatch_inv  (s0 s1 : State) (h0 : s0.inv)
    (e0 : execCipherDispatch s0 = .next s1) : s1.inv := by
  unfold execCipherDispatch at e0
  refine State.run_inv (fun d hd => ?_) h0 e0
  repeat' first
    | with_reducible assumption
    | with_reducible apply cipherDispatch_inv
    | intro _
    | dsimp only

theorem execCipherSuspend_inv (x : BlockBoundary) (s0 s1 : State) (h0 : s0.inv)
    (e0 : execCipherSuspend x s0 = .next s1) : s1.inv := by
  unfold execCipherSuspend at e0
  refine State.run_inv (fun d hd => ?_) h0 e0
  repeat' first
    | with_reducible assumption
    | with_reducible apply cipherSuspend_inv
    | intro _
    | dsimp only

theorem execCipherRequestDone_inv (n : Nat) (fault : CipherFault) (s0 s1 : State) (h0 : s0.inv)
    (e0 : execCipherRequestDone n fault s0 = .next s1) : s1.inv := by
  unfold execCipherRequestDone at e0
  refine State.run_inv (fun d hd => ?_) h0 e0
  repeat' first
    | with_reducible assumption
    | with_reducible apply cipherRequestDone_inv
    | intro _
    | dsimp only

theorem execBulkAge_inv (id : Nat) (s0 s1 : State) (h0 : s0.inv)
    (e0 : execBulkAge id s0 = .next s1) : s1.inv := by
  unfold execBulkAge at e0
  refine State.run_inv (fun d hd => ?_) h0 e0
  repeat' first
    | with_reducible assumption
    | with_reducible apply bulkAge_inv
    | intro _
    | dsimp only

theorem execCipherDomainTimeout_inv (id : Nat) (s0 s1 : State) (h0 : s0.inv)
    (e0 : execCipherDomainTimeout id s0 = .next s1) : s1.inv := by
  unfold execCipherDomainTimeout at e0
  refine State.run_inv (fun d hd => ?_) h0 e0
  repeat' first
    | with_reducible assumption
    | with_reducible apply cipherDomainTimeout_inv
    | intro _
    | dsimp only

theorem execNodeUnwrapDone_inv (slot : Nat) (s0 s1 : State) (h0 : s0.inv)
    (e0 : execNodeUnwrapDone slot s0 = .next s1) : s1.inv := by
  unfold execNodeUnwrapDone at e0
  refine State.run_inv (fun d hd => ?_) h0 e0
  repeat' first
    | with_reducible assumption
    | with_reducible apply nodeUnwrapDone_inv
    | intro _
    | dsimp only

theorem execAdopt_inv (who : Initiator) (s0 s1 : State) (h0 : s0.inv)
    (e0 : execAdopt who s0 = .next s1) : s1.inv := by
  unfold execAdopt at e0
  refine State.run_inv (fun d hd => ?_) h0 e0
  repeat' first
    | with_reducible assumption
    | with_reducible apply adopt_inv
    | intro _
    | dsimp only

theorem execClear_inv (who : Initiator) (s0 s1 : State) (h0 : s0.inv)
    (e0 : execClear who s0 = .next s1) : s1.inv := by
  unfold execClear at e0
  refine State.run_inv (fun d hd => ?_) h0 e0
  repeat' first
    | with_reducible assumption
    | with_reducible apply clear_inv
    | intro _
    | dsimp only

theorem execAdoptDone_inv  (s0 s1 : State) (h0 : s0.inv)
    (e0 : execAdoptDone s0 = .next s1) : s1.inv := by
  unfold execAdoptDone at e0
  refine State.run_inv (fun d hd => ?_) h0 e0
  repeat' first
    | with_reducible assumption
    | with_reducible apply adoptDone_inv
    | intro _
    | dsimp only

theorem execClearDone_inv  (s0 s1 : State) (h0 : s0.inv)
    (e0 : execClearDone s0 = .next s1) : s1.inv := by
  unfold execClearDone at e0
  refine State.run_inv (fun d hd => ?_) h0 e0
  repeat' first
    | with_reducible assumption
    | with_reducible apply clearDone_inv
    | intro _
    | dsimp only

theorem execRteIdxRebuildDone_inv  (s0 s1 : State) (h0 : s0.inv)
    (e0 : execRteIdxRebuildDone s0 = .next s1) : s1.inv := by
  unfold execRteIdxRebuildDone at e0
  refine State.run_inv (fun d hd => ?_) h0 e0
  repeat' first
    | with_reducible assumption
    | with_reducible apply rteIdxRebuildDone_inv
    | intro _
    | dsimp only

theorem execStart_inv (who : Initiator) (w : Word) (rdy : Bool) (s0 s1 : State) (h0 : s0.inv)
    (e0 : execStart who w rdy s0 = .next s1) : s1.inv := by
  unfold execStart at e0
  refine State.run_inv (fun d hd => ?_) h0 e0
  repeat' first
    | with_reducible assumption
    | with_reducible apply start_inv
    | intro _
    | dsimp only

theorem execCspmAbort_inv (who : Initiator) (s0 s1 : State) (h0 : s0.inv)
    (e0 : execCspmAbort who s0 = .next s1) : s1.inv := by
  unfold execCspmAbort at e0
  refine State.run_inv (fun d hd => ?_) h0 e0
  repeat' first
    | with_reducible assumption
    | with_reducible apply cspmAbort_inv
    | intro _
    | dsimp only

theorem execCspmRdyRise_inv  (s0 s1 : State) (h0 : s0.inv)
    (e0 : execCspmRdyRise s0 = .next s1) : s1.inv := by
  unfold execCspmRdyRise at e0
  refine State.run_inv (fun d hd => ?_) h0 e0
  repeat' first
    | with_reducible assumption
    | with_reducible apply cspmRdyRise_inv
    | intro _
    | dsimp only

theorem execCspmRequestDone_inv (data : List Byte) (n : Nat) (s0 s1 : State) (h0 : s0.inv)
    (e0 : execCspmRequestDone data n s0 = .next s1) : s1.inv := by
  unfold execCspmRequestDone at e0
  refine State.run_inv (fun d hd => ?_) h0 e0
  repeat' first
    | with_reducible assumption
    | with_reducible apply cspmRequestDone_inv
    | intro _
    | dsimp only

theorem execGpioEdge_inv (p : Nat) (level : Bool) (s0 s1 : State) (h0 : s0.inv)
    (e0 : execGpioEdge p level s0 = .next s1) : s1.inv := by
  unfold execGpioEdge at e0
  refine State.run_inv (fun d hd => ?_) h0 e0
  repeat' first
    | with_reducible assumption
    | with_reducible apply gpioEdge_inv
    | intro _
    | dsimp only

theorem execTmrCtrlStart_inv (who : Initiator) (n : Nat) (w : Word) (s0 s1 : State) (h0 : s0.inv)
    (e0 : execTmrCtrlStart who n w s0 = .next s1) : s1.inv := by
  unfold execTmrCtrlStart at e0
  refine State.run_inv (fun d hd => ?_) h0 e0
  repeat' first
    | with_reducible assumption
    | with_reducible apply tmrCtrlWrite_inv
    | intro _
    | dsimp only

theorem execTmrCtrlStop_inv (who : Initiator) (n : Nat) (w : Word) (s0 s1 : State) (h0 : s0.inv)
    (e0 : execTmrCtrlStop who n w s0 = .next s1) : s1.inv := by
  unfold execTmrCtrlStop at e0
  refine State.run_inv (fun d hd => ?_) h0 e0
  repeat' first
    | with_reducible assumption
    | with_reducible apply tmrCtrlWrite_inv
    | intro _
    | dsimp only

theorem execEventTimerExpiry_inv (n : Nat) (s0 s1 : State) (h0 : s0.inv)
    (e0 : execEventTimerExpiry n s0 = .next s1) : s1.inv := by
  unfold execEventTimerExpiry at e0
  refine State.run_inv (fun d hd => ?_) h0 e0
  repeat' first
    | with_reducible assumption
    | with_reducible apply eventTimerExpiry_inv
    | intro _
    | dsimp only

theorem execPulseEnd_inv (line : Nat) (s0 s1 : State) (h0 : s0.inv)
    (e0 : execPulseEnd line s0 = .next s1) : s1.inv := by
  unfold execPulseEnd at e0
  refine State.run_inv (fun d hd => ?_) h0 e0
  repeat' first
    | with_reducible assumption
    | with_reducible apply pulseEnd_inv
    | intro _
    | dsimp only

theorem execHoldoffEnd_inv (k : Nat) (s0 s1 : State) (h0 : s0.inv)
    (e0 : execHoldoffEnd k s0 = .next s1) : s1.inv := by
  unfold execHoldoffEnd at e0
  refine State.run_inv (fun d hd => ?_) h0 e0
  repeat' first
    | with_reducible assumption
    | with_reducible apply holdoffEnd_inv
    | intro _
    | dsimp only

theorem execTaskPendingServe_inv (t : Nat) (s0 s1 : State) (h0 : s0.inv)
    (e0 : execTaskPendingServe t s0 = .next s1) : s1.inv := by
  unfold execTaskPendingServe at e0
  refine State.run_inv (fun d hd => ?_) h0 e0
  repeat' first
    | with_reducible assumption
    | with_reducible apply taskPendingServe_inv
    | intro _
    | dsimp only

theorem execStormRearm_inv (p n : Nat) (s0 s1 : State) (h0 : s0.inv)
    (e0 : execStormRearm p n s0 = .next s1) : s1.inv := by
  unfold execStormRearm at e0
  refine State.run_inv (fun d hd => ?_) h0 e0
  repeat' first
    | with_reducible assumption
    | with_reducible apply stormRearm_inv
    | intro _
    | dsimp only

theorem execEvrEcnCfgWrite_inv (who : Initiator) (n : Nat) (w : Word) (s0 s1 : State) (h0 : s0.inv)
    (e0 : execEvrEcnCfgWrite who n w s0 = .next s1) : s1.inv := by
  unfold execEvrEcnCfgWrite at e0
  refine State.run_inv (fun d hd => ?_) h0 e0
  repeat' first
    | with_reducible assumption
    | with_reducible apply evrEcnCfgWrite_inv
    | intro _
    | dsimp only

theorem execEvrLunCfgWrite_inv (who : Initiator) (k : Nat) (w : Word) (s0 s1 : State) (h0 : s0.inv)
    (e0 : execEvrLunCfgWrite who k w s0 = .next s1) : s1.inv := by
  unfold execEvrLunCfgWrite at e0
  refine State.run_inv (fun d hd => ?_) h0 e0
  repeat' first
    | with_reducible assumption
    | with_reducible apply evrLunCfgWrite_inv
    | intro _
    | dsimp only

theorem execIrqCfgWrite_inv (who : Initiator) (n : Nat) (w : Word) (s0 s1 : State) (h0 : s0.inv)
    (e0 : execIrqCfgWrite who n w s0 = .next s1) : s1.inv := by
  unfold execIrqCfgWrite at e0
  refine State.run_inv (fun d hd => ?_) h0 e0
  repeat' first
    | with_reducible assumption
    | with_reducible apply irqCfgWrite_inv
    | intro _
    | dsimp only

theorem execIrqPendWrite_inv (who : Initiator) (i : Nat) (w : Word) (s0 s1 : State) (h0 : s0.inv)
    (e0 : execIrqPendWrite who i w s0 = .next s1) : s1.inv := by
  unfold execIrqPendWrite at e0
  refine State.run_inv (fun d hd => ?_) h0 e0
  repeat' first
    | with_reducible assumption
    | with_reducible apply irqPendWrite_inv
    | intro _
    | dsimp only

theorem execIrqClaim_inv (who : Initiator) (n : Nat) (s0 s1 : State) (h0 : s0.inv)
    (e0 : execIrqClaim who n s0 = .next s1) : s1.inv := by
  unfold execIrqClaim at e0
  refine State.run_inv (fun d hd => ?_) h0 e0
  repeat' first
    | with_reducible assumption
    | with_reducible apply irqClaim_inv
    | intro _
    | dsimp only

theorem execIrqSgi_inv (who : Initiator) (w : Word) (s0 s1 : State) (h0 : s0.inv)
    (e0 : execIrqSgi who w s0 = .next s1) : s1.inv := by
  unfold execIrqSgi at e0
  refine State.run_inv (fun d hd => ?_) h0 e0
  repeat' first
    | with_reducible assumption
    | with_reducible apply irqSgi_inv
    | intro _
    | dsimp only

theorem execFullCalibrationLock_inv (lo band trim : Nat) (s0 s1 : State) (h0 : s0.inv)
    (e0 : execFullCalibrationLock lo band trim s0 = .next s1) : s1.inv := by
  unfold execFullCalibrationLock at e0
  refine State.run_inv (fun d hd => ?_) h0 e0
  repeat' first
    | with_reducible assumption
    | with_reducible apply fullCalibrationLock_inv
    | intro _
    | dsimp only

theorem execCalibrateOneEntry_inv (who : Initiator) (lo c : Nat) (s0 s1 : State) (h0 : s0.inv)
    (e0 : execCalibrateOneEntry who lo c s0 = .next s1) : s1.inv := by
  unfold execCalibrateOneEntry at e0
  refine State.run_inv (fun d hd => ?_) h0 e0
  repeat' first
    | with_reducible assumption
    | with_reducible apply Dev.rfsCalCmd_inv
    | intro _
    | dsimp only

theorem execCalibrateEveryAllowedChannel_inv (who : Initiator) (lo : Nat) (s0 s1 : State) (h0 : s0.inv)
    (e0 : execCalibrateEveryAllowedChannel who lo s0 = .next s1) : s1.inv := by
  unfold execCalibrateEveryAllowedChannel at e0
  refine State.run_inv (fun d hd => ?_) h0 e0
  repeat' first
    | with_reducible assumption
    | with_reducible apply Dev.rfsCalCmd_inv
    | intro _
    | dsimp only

theorem execInvalidateOneEntry_inv (who : Initiator) (lo c : Nat) (s0 s1 : State) (h0 : s0.inv)
    (e0 : execInvalidateOneEntry who lo c s0 = .next s1) : s1.inv := by
  unfold execInvalidateOneEntry at e0
  refine State.run_inv (fun d hd => ?_) h0 e0
  repeat' first
    | with_reducible assumption
    | with_reducible apply Dev.rfsCalCmd_inv
    | intro _
    | dsimp only

theorem execInvalidateEveryEntry_inv (who : Initiator) (s0 s1 : State) (h0 : s0.inv)
    (e0 : execInvalidateEveryEntry who s0 = .next s1) : s1.inv := by
  unfold execInvalidateEveryEntry at e0
  refine State.run_inv (fun d hd => ?_) h0 e0
  repeat' first
    | with_reducible assumption
    | with_reducible apply Dev.rfsCalCmd_inv
    | intro _
    | dsimp only

theorem execRunStages2To6_inv (who : Initiator) (s0 s1 : State) (h0 : s0.inv)
    (e0 : execRunStages2To6 who s0 = .next s1) : s1.inv := by
  unfold execRunStages2To6 at e0
  refine State.run_inv (fun d hd => ?_) h0 e0
  repeat' first
    | with_reducible assumption
    | with_reducible apply Dev.rfsCalCmd_inv
    | intro _
    | dsimp only

theorem execCalCommandEnd_inv  (s0 s1 : State) (h0 : s0.inv)
    (e0 : execCalCommandEnd s0 = .next s1) : s1.inv := by
  unfold execCalCommandEnd at e0
  refine State.run_inv (fun d hd => ?_) h0 e0
  repeat' first
    | with_reducible assumption
    | with_reducible apply calCommandEnd_inv
    | intro _
    | dsimp only

theorem execStartupCalibrationStageDone_inv (g14 : List Nat) (s0 s1 : State) (h0 : s0.inv)
    (e0 : execStartupCalibrationStageDone g14 s0 = .next s1) : s1.inv := by
  unfold execStartupCalibrationStageDone at e0
  refine State.run_inv (fun d hd => ?_) h0 e0
  repeat' first
    | with_reducible assumption
    | with_reducible apply startupCalibrationStageDone_inv
    | intro _
    | dsimp only

theorem execTxStage6Done_inv (n : Nat) (g14 : List Nat) (s0 s1 : State) (h0 : s0.inv)
    (e0 : execTxStage6Done n g14 s0 = .next s1) : s1.inv := by
  unfold execTxStage6Done at e0
  refine State.run_inv (fun d hd => ?_) h0 e0
  repeat' first
    | with_reducible assumption
    | with_reducible apply txStage6Done_inv
    | intro _
    | dsimp only

theorem execBackgroundRecalibrationStart_inv (n : Nat) (s0 s1 : State) (h0 : s0.inv)
    (e0 : execBackgroundRecalibrationStart n s0 = .next s1) : s1.inv := by
  unfold execBackgroundRecalibrationStart at e0
  refine State.run_inv (fun d hd => ?_) h0 e0
  repeat' first
    | with_reducible assumption
    | with_reducible apply backgroundRecalibrationStart_inv
    | intro _
    | dsimp only

theorem execRetune_inv (lo : Nat) (s0 s1 : State) (h0 : s0.inv)
    (e0 : execRetune lo s0 = .next s1) : s1.inv := by
  unfold execRetune at e0
  refine State.run_inv (fun d hd => ?_) h0 e0
  repeat' first
    | with_reducible assumption
    | with_reducible apply retune_inv
    | intro _
    | dsimp only

theorem execBandLoLock_inv (lo : Nat) (s0 s1 : State) (h0 : s0.inv)
    (e0 : execBandLoLock lo s0 = .next s1) : s1.inv := by
  unfold execBandLoLock at e0
  refine State.run_inv (fun d hd => ?_) h0 e0
  repeat' first
    | with_reducible assumption
    | with_reducible apply bandLoLock_inv
    | intro _
    | dsimp only

theorem execTempSensorUpdate_inv (t : Int) (s0 s1 : State) (h0 : s0.inv)
    (e0 : execTempSensorUpdate t s0 = .next s1) : s1.inv := by
  unfold execTempSensorUpdate at e0
  refine State.run_inv (fun d hd => ?_) h0 e0
  repeat' first
    | with_reducible assumption
    | with_reducible apply tempSensorUpdate_inv
    | intro _
    | dsimp only

theorem execTp3Commit_inv (id : Nat) (s0 s1 : State) (h0 : s0.inv)
    (e0 : execTp3Commit id s0 = .next s1) : s1.inv := by
  unfold execTp3Commit at e0
  refine State.run_inv (fun d hd => ?_) h0 e0
  repeat' first
    | with_reducible assumption
    | with_reducible apply tp3Commit_inv
    | intro _
    | dsimp only

theorem execTxHopStart_inv (n mv : Nat) (s0 s1 : State) (h0 : s0.inv)
    (e0 : execTxHopStart n mv s0 = .next s1) : s1.inv := by
  unfold execTxHopStart at e0
  refine State.run_inv (fun d hd => ?_) h0 e0
  repeat' first
    | with_reducible assumption
    | with_reducible apply txHopStart_inv
    | intro _
    | dsimp only

theorem execTxLock_inv (n : Nat) (s0 s1 : State) (h0 : s0.inv)
    (e0 : execTxLock n s0 = .next s1) : s1.inv := by
  unfold execTxLock at e0
  refine State.run_inv (fun d hd => ?_) h0 e0
  repeat' first
    | with_reducible assumption
    | with_reducible apply txLock_inv
    | intro _
    | dsimp only

theorem execHopLockFailure_inv (n : Nat) (s0 s1 : State) (h0 : s0.inv)
    (e0 : execHopLockFailure n s0 = .next s1) : s1.inv := by
  unfold execHopLockFailure at e0
  refine State.run_inv (fun d hd => ?_) h0 e0
  repeat' first
    | with_reducible assumption
    | with_reducible apply hopLockFailure_inv
    | intro _
    | dsimp only

theorem execFullCalibrationFail_inv (lo : Nat) (s0 s1 : State) (h0 : s0.inv)
    (e0 : execFullCalibrationFail lo s0 = .next s1) : s1.inv := by
  unfold execFullCalibrationFail at e0
  refine State.run_inv (fun d hd => ?_) h0 e0
  repeat' first
    | with_reducible assumption
    | with_reducible apply fullCalibrationFail_inv
    | intro _
    | dsimp only

theorem execTxLockDeadline_inv (id : Nat) (s0 s1 : State) (h0 : s0.inv)
    (e0 : execTxLockDeadline id s0 = .next s1) : s1.inv := by
  unfold execTxLockDeadline at e0
  refine State.run_inv (fun d hd => ?_) h0 e0
  repeat' first
    | with_reducible assumption
    | with_reducible apply txLockDeadline_inv
    | intro _
    | dsimp only

theorem execTxLeadStart_inv (n : Nat) (gnt : Bool) (mv : Nat) (s0 s1 : State) (h0 : s0.inv)
    (e0 : execTxLeadStart n gnt mv s0 = .next s1) : s1.inv := by
  unfold execTxLeadStart at e0
  refine State.run_inv (fun d hd => ?_) h0 e0
  repeat' first
    | with_reducible assumption
    | with_reducible apply txLeadStart_inv
    | intro _
    | dsimp only

theorem execTxFirstChip_inv (n : Nat) (s0 s1 : State) (h0 : s0.inv)
    (e0 : execTxFirstChip n s0 = .next s1) : s1.inv := by
  unfold execTxFirstChip at e0
  refine State.run_inv (fun d hd => ?_) h0 e0
  repeat' first
    | with_reducible assumption
    | with_reducible apply txFirstChip_inv
    | intro _
    | dsimp only

theorem execTxLastChip_inv (n : Nat) (s0 s1 : State) (h0 : s0.inv)
    (e0 : execTxLastChip n s0 = .next s1) : s1.inv := by
  unfold execTxLastChip at e0
  refine State.run_inv (fun d hd => ?_) h0 e0
  repeat' first
    | with_reducible assumption
    | with_reducible apply txLastChip_inv
    | intro _
    | dsimp only

theorem execTxRampDownEnd_inv (n used : Nat) (err : Int) (s0 s1 : State) (h0 : s0.inv)
    (e0 : execTxRampDownEnd n used err s0 = .next s1) : s1.inv := by
  unfold execTxRampDownEnd at e0
  refine State.run_inv (fun d hd => ?_) h0 e0
  repeat' first
    | with_reducible assumption
    | with_reducible apply txRampDownEnd_inv
    | intro _
    | dsimp only

theorem execLoLockLoss_inv (lo : Nat) (s0 s1 : State) (h0 : s0.inv)
    (e0 : execLoLockLoss lo s0 = .next s1) : s1.inv := by
  unfold execLoLockLoss at e0
  refine State.run_inv (fun d hd => ?_) h0 e0
  repeat' first
    | with_reducible assumption
    | with_reducible apply loLockLoss_inv
    | intro _
    | dsimp only

theorem execDetectorBlankingEnd_inv (n : Nat) (s0 s1 : State) (h0 : s0.inv)
    (e0 : execDetectorBlankingEnd n s0 = .next s1) : s1.inv := by
  unfold execDetectorBlankingEnd at e0
  refine State.run_inv (fun d hd => ?_) h0 e0
  repeat' first
    | with_reducible assumption
    | with_reducible apply detectorBlankingEnd_inv
    | intro _
    | dsimp only

theorem execMaskWindowEnd_inv (n : Nat) (lower upper : MaskPowers) (s0 s1 : State) (h0 : s0.inv)
    (e0 : execMaskWindowEnd n lower upper s0 = .next s1) : s1.inv := by
  unfold execMaskWindowEnd at e0
  refine State.run_inv (fun d hd => ?_) h0 e0
  repeat' first
    | with_reducible assumption
    | with_reducible apply maskWindowEnd_inv
    | intro _
    | dsimp only

theorem execLbtListenEnd_inv (n : Nat) (p : Int) (s0 s1 : State) (h0 : s0.inv)
    (e0 : execLbtListenEnd n p s0 = .next s1) : s1.inv := by
  unfold execLbtListenEnd at e0
  refine State.run_inv (fun d hd => ?_) h0 e0
  repeat' first
    | with_reducible assumption
    | with_reducible apply lbtListenEnd_inv
    | intro _
    | dsimp only

theorem execAckWaitEnd_inv (id : Nat) (s0 s1 : State) (h0 : s0.inv)
    (e0 : execAckWaitEnd id s0 = .next s1) : s1.inv := by
  unfold execAckWaitEnd at e0
  refine State.run_inv (fun d hd => ?_) h0 e0
  repeat' first
    | with_reducible assumption
    | with_reducible apply ackWaitEnd_inv
    | intro _
    | dsimp only

theorem execRetryAttempt_inv (id : Nat) (s0 s1 : State) (h0 : s0.inv)
    (e0 : execRetryAttempt id s0 = .next s1) : s1.inv := by
  unfold execRetryAttempt at e0
  refine State.run_inv (fun d hd => ?_) h0 e0
  repeat' first
    | with_reducible assumption
    | with_reducible apply retryAttempt_inv
    | intro _
    | dsimp only

theorem execCoexCfgWrite_inv (who : Initiator) (w : Word) (s0 s1 : State) (h0 : s0.inv)
    (e0 : execCoexCfgWrite who w s0 = .next s1) : s1.inv := by
  unfold execCoexCfgWrite at e0
  refine State.run_inv (fun d hd => ?_) h0 e0
  repeat' first
    | with_reducible assumption
    | with_reducible apply coexCfgWrite_inv
    | intro _
    | dsimp only

theorem execCoexRoleChange_inv  (s0 s1 : State) (h0 : s0.inv)
    (e0 : execCoexRoleChange s0 = .next s1) : s1.inv := by
  unfold execCoexRoleChange at e0
  refine State.run_inv (fun d hd => ?_) h0 e0
  repeat' first
    | with_reducible assumption
    | with_reducible apply coexRoleChange_inv
    | intro _
    | dsimp only

theorem execCoexRequestAssert_inv (c : CoexClient) (s0 s1 : State) (h0 : s0.inv)
    (e0 : execCoexRequestAssert c s0 = .next s1) : s1.inv := by
  unfold execCoexRequestAssert at e0
  refine State.run_inv (fun d hd => ?_) h0 e0
  repeat' first
    | with_reducible assumption
    | with_reducible apply coexRequestAssert_inv
    | intro _
    | dsimp only

theorem execCoexGntFall_inv  (s0 s1 : State) (h0 : s0.inv)
    (e0 : execCoexGntFall s0 = .next s1) : s1.inv := by
  unfold execCoexGntFall at e0
  refine State.run_inv (fun d hd => ?_) h0 e0
  repeat' first
    | with_reducible assumption
    | with_reducible apply coexGntFall_inv
    | intro _
    | dsimp only

theorem execCoexReqEdge_inv (req pri act : Bool) (s0 s1 : State) (h0 : s0.inv)
    (e0 : execCoexReqEdge req pri act s0 = .next s1) : s1.inv := by
  unfold execCoexReqEdge at e0
  refine State.run_inv (fun d hd => ?_) h0 e0
  repeat' first
    | with_reducible assumption
    | with_reducible apply coexReqEdge_inv
    | intro _
    | dsimp only

theorem execProg_inv (who : Initiator) (w : Nat) (s0 s1 : State) (h0 : s0.inv)
    (e0 : execProg who w s0 = .next s1) : s1.inv := by
  unfold execProg at e0
  refine State.run_inv (fun d hd => ?_) h0 e0
  repeat' first
    | with_reducible assumption
    | with_reducible apply keep_ite
    | with_reducible apply Dev.regProgCmd_inv
    | intro _
    | split
    | dsimp only

theorem execSealRegion_inv (who : Initiator) (s0 s1 : State) (h0 : s0.inv)
    (e0 : execSealRegion who s0 = .next s1) : s1.inv := by
  unfold execSealRegion at e0
  refine State.run_inv (fun d hd => ?_) h0 e0
  repeat' first
    | with_reducible assumption
    | with_reducible apply keep_ite
    | with_reducible apply Dev.regProgCmd_inv
    | intro _
    | split
    | dsimp only

theorem execRegStageW1Effect_inv  (s0 s1 : State) (h0 : s0.inv)
    (e0 : execRegStageW1Effect s0 = .next s1) : s1.inv := by
  unfold execRegStageW1Effect at e0
  refine State.run_inv (fun d hd => ?_) h0 e0
  repeat' first
    | with_reducible assumption
    | with_reducible apply regStageW1Effect_inv
    | intro _
    | dsimp only

theorem execWindowVoteLead_inv (w : WinRef) (s0 s1 : State) (h0 : s0.inv)
    (e0 : execWindowVoteLead w s0 = .next s1) : s1.inv := by
  unfold execWindowVoteLead at e0
  refine State.run_inv (fun d hd => ?_) h0 e0
  repeat' first
    | with_reducible assumption
    | with_reducible apply windowVoteLead_inv
    | intro _
    | dsimp only

theorem execWindowOpen_inv (slot : Nat) (s0 s1 : State) (h0 : s0.inv)
    (e0 : execWindowOpen slot s0 = .next s1) : s1.inv := by
  unfold execWindowOpen at e0
  refine State.run_inv (fun d hd => ?_) h0 e0
  repeat' first
    | with_reducible assumption
    | with_reducible apply windowOpen_inv
    | intro _
    | dsimp only

theorem execWindowClose_inv (slot : Nat) (s0 s1 : State) (h0 : s0.inv)
    (e0 : execWindowClose slot s0 = .next s1) : s1.inv := by
  unfold execWindowClose at e0
  refine State.run_inv (fun d hd => ?_) h0 e0
  repeat' first
    | with_reducible assumption
    | with_reducible apply windowClose_inv
    | intro _
    | dsimp only

theorem execHeldFrameSend_inv (slot : Nat) (s0 s1 : State) (h0 : s0.inv)
    (e0 : execHeldFrameSend slot s0 = .next s1) : s1.inv := by
  unfold execHeldFrameSend at e0
  refine State.run_inv (fun d hd => ?_) h0 e0
  repeat' first
    | with_reducible assumption
    | with_reducible apply heldFrameSend_inv
    | intro _
    | dsimp only

theorem execCheckTelegramSend_inv (slot : Nat) (s0 s1 : State) (h0 : s0.inv)
    (e0 : execCheckTelegramSend slot s0 = .next s1) : s1.inv := by
  unfold execCheckTelegramSend at e0
  refine State.run_inv (fun d hd => ?_) h0 e0
  repeat' first
    | with_reducible assumption
    | with_reducible apply checkTelegramSend_inv
    | intro _
    | dsimp only

theorem execCheckWaitEnd_inv (slot : Nat) (s0 s1 : State) (h0 : s0.inv)
    (e0 : execCheckWaitEnd slot s0 = .next s1) : s1.inv := by
  unfold execCheckWaitEnd at e0
  refine State.run_inv (fun d hd => ?_) h0 e0
  repeat' first
    | with_reducible assumption
    | with_reducible apply checkWaitEnd_inv
    | intro _
    | dsimp only

theorem execTempoWorkItem_inv (p : Nat) (fault : PairFault) (s0 s1 : State) (h0 : s0.inv)
    (e0 : execTempoWorkItem p fault s0 = .next s1) : s1.inv := by
  unfold execTempoWorkItem at e0
  refine State.run_inv (fun d hd => ?_) h0 e0
  repeat' first
    | with_reducible assumption
    | with_reducible apply tempoWorkItem_inv
    | intro _
    | dsimp only

theorem execVerifyResult_inv (req : Nat) (s0 s1 : State) (h0 : s0.inv)
    (e0 : execVerifyResult req s0 = .next s1) : s1.inv := by
  unfold execVerifyResult at e0
  refine State.run_inv (fun d hd => ?_) h0 e0
  repeat' first
    | with_reducible assumption
    | with_reducible apply verifyResult_inv
    | intro _
    | dsimp only

theorem execAckDeadlineMissed_inv (req : Nat) (s0 s1 : State) (h0 : s0.inv)
    (e0 : execAckDeadlineMissed req s0 = .next s1) : s1.inv := by
  unfold execAckDeadlineMissed at e0
  refine State.run_inv (fun d hd => ?_) h0 e0
  repeat' first
    | with_reducible assumption
    | with_reducible apply ackDeadlineMissed_inv
    | intro _
    | dsimp only

theorem execLockstepMismatch_inv (p : Nat) (item : LockItem) (s0 s1 : State) (h0 : s0.inv)
    (e0 : execLockstepMismatch p item s0 = .next s1) : s1.inv := by
  unfold execLockstepMismatch at e0
  refine State.run_inv (fun d hd => ?_) h0 e0
  repeat' first
    | with_reducible assumption
    | with_reducible apply lockstepMismatch_inv
    | intro _
    | dsimp only

theorem execTp4SelfTest_inv (good : Bool) (s0 s1 : State) (h0 : s0.inv)
    (e0 : execTp4SelfTest good s0 = .next s1) : s1.inv := by
  unfold execTp4SelfTest at e0
  refine State.run_inv (fun d hd => ?_) h0 e0
  repeat' first
    | with_reducible assumption
    | with_reducible apply tp4SelfTest_inv
    | intro _
    | dsimp only

theorem execSlotOccurrence_inv (m : Nat) (s0 s1 : State) (h0 : s0.inv)
    (e0 : execSlotOccurrence m s0 = .next s1) : s1.inv := by
  unfold execSlotOccurrence at e0
  refine State.run_inv (fun d hd => ?_) h0 e0
  repeat' first
    | with_reducible assumption
    | with_reducible apply slotOccurrence_inv
    | intro _
    | dsimp only

theorem execSlotWindowClose_inv (m : Nat) (s0 s1 : State) (h0 : s0.inv)
    (e0 : execSlotWindowClose m s0 = .next s1) : s1.inv := by
  unfold execSlotWindowClose at e0
  refine State.run_inv (fun d hd => ?_) h0 e0
  repeat' first
    | with_reducible assumption
    | with_reducible apply slotWindowClose_inv
    | intro _
    | dsimp only

theorem execTschTimeslot_inv  (s0 s1 : State) (h0 : s0.inv)
    (e0 : execTschTimeslot s0 = .next s1) : s1.inv := by
  unfold execTschTimeslot at e0
  refine State.run_inv (fun d hd => ?_) h0 e0
  repeat' first
    | with_reducible assumption
    | with_reducible apply tschTimeslot_inv
    | intro _
    | dsimp only

theorem execLnkTschT0HiWrite_inv (who : Initiator) (w : Word) (s0 s1 : State) (h0 : s0.inv)
    (e0 : execLnkTschT0HiWrite who w s0 = .next s1) : s1.inv := by
  unfold execLnkTschT0HiWrite at e0
  refine State.run_inv (fun d hd => ?_) h0 e0
  repeat' first
    | with_reducible assumption
    | with_reducible apply lnkTschT0HiWrite_inv
    | intro _
    | dsimp only

theorem execLnkTschCtrlWrite_inv (who : Initiator) (w : Word) (s0 s1 : State) (h0 : s0.inv)
    (e0 : execLnkTschCtrlWrite who w s0 = .next s1) : s1.inv := by
  unfold execLnkTschCtrlWrite at e0
  refine State.run_inv (fun d hd => ?_) h0 e0
  repeat' first
    | with_reducible assumption
    | with_reducible apply lnkTschCtrlWrite_inv
    | intro _
    | dsimp only

theorem execRelayRetry_inv (id : Nat) (s0 s1 : State) (h0 : s0.inv)
    (e0 : execRelayRetry id s0 = .next s1) : s1.inv := by
  unfold execRelayRetry at e0
  refine State.run_inv (fun d hd => ?_) h0 e0
  repeat' first
    | with_reducible assumption
    | with_reducible apply relayRetry_inv
    | intro _
    | dsimp only

theorem execFedCtrlStart_inv (who : Initiator) (w : Word) (s0 s1 : State) (h0 : s0.inv)
    (e0 : execFedCtrlStart who w s0 = .next s1) : s1.inv := by
  unfold execFedCtrlStart at e0
  refine State.run_inv (fun d hd => ?_) h0 e0
  repeat' first
    | with_reducible assumption
    | with_reducible apply fedCtrlStart_inv
    | intro _
    | dsimp only

theorem execFedCfgWrite_inv (who : Initiator) (w : Word) (s0 s1 : State) (h0 : s0.inv)
    (e0 : execFedCfgWrite who w s0 = .next s1) : s1.inv := by
  unfold execFedCfgWrite at e0
  refine State.run_inv (fun d hd => ?_) h0 e0
  repeat' first
    | with_reducible assumption
    | with_reducible apply fedCfgWrite_inv
    | intro _
    | dsimp only

theorem execPortLinkUp_inv (p : Nat) (s0 s1 : State) (h0 : s0.inv)
    (e0 : execPortLinkUp p s0 = .next s1) : s1.inv := by
  unfold execPortLinkUp at e0
  refine State.run_inv (fun d hd => ?_) h0 e0
  repeat' first
    | with_reducible assumption
    | with_reducible apply portLink_inv
    | intro _
    | dsimp only

theorem execPortLinkDown_inv (p : Nat) (s0 s1 : State) (h0 : s0.inv)
    (e0 : execPortLinkDown p s0 = .next s1) : s1.inv := by
  unfold execPortLinkDown at e0
  refine State.run_inv (fun d hd => ?_) h0 e0
  repeat' first
    | with_reducible assumption
    | with_reducible apply portLink_inv
    | intro _
    | dsimp only

theorem execHelloTimer_inv  (s0 s1 : State) (h0 : s0.inv)
    (e0 : execHelloTimer s0 = .next s1) : s1.inv := by
  unfold execHelloTimer at e0
  refine State.run_inv (fun d hd => ?_) h0 e0
  repeat' first
    | with_reducible assumption
    | with_reducible apply helloTimer_inv
    | intro _
    | dsimp only

theorem execDiscoveryClose_inv  (s0 s1 : State) (h0 : s0.inv)
    (e0 : execDiscoveryClose s0 = .next s1) : s1.inv := by
  unfold execDiscoveryClose at e0
  refine State.run_inv (fun d hd => ?_) h0 e0
  repeat' first
    | with_reducible assumption
    | with_reducible apply discoveryClose_inv
    | intro _
    | dsimp only

theorem execHello_inv (h : BmHdr) (eui version prio ports : Nat) (digest : List Byte) (s0 s1 : State) (h0 : s0.inv)
    (e0 : execHello h eui version prio ports digest s0 = .next s1) : s1.inv := by
  unfold execHello at e0
  refine State.run_inv (fun d hd => ?_) h0 e0
  repeat' first
    | with_reducible assumption
    | with_reducible apply Dev.bmRun_inv
    | with_reducible apply Dev.helloFrom_inv
    | intro _
    | simp only [keep_mk]
    | dsimp only

theorem execCandidate_inv (h : BmHdr) (group best bitmap : Nat) (s0 s1 : State) (h0 : s0.inv)
    (e0 : execCandidate h group best bitmap s0 = .next s1) : s1.inv := by
  unfold execCandidate at e0
  refine State.run_inv (fun d hd => ?_) h0 e0
  repeat' first
    | with_reducible assumption
    | with_reducible apply Dev.bmRun_inv
    | with_reducible apply Dev.candidateFrom_inv
    | intro _
    | simp only [keep_mk]
    | dsimp only

theorem execElectionRound_inv  (s0 s1 : State) (h0 : s0.inv)
    (e0 : execElectionRound s0 = .next s1) : s1.inv := by
  unfold execElectionRound at e0
  refine State.run_inv (fun d hd => ?_) h0 e0
  repeat' first
    | with_reducible assumption
    | with_reducible apply electionRound_inv
    | intro _
    | dsimp only

theorem execGroupReport_inv (h : BmHdr) (group coord present aligned attested : Nat) (s0 s1 : State) (h0 : s0.inv)
    (e0 : execGroupReport h group coord present aligned attested s0 = .next s1) : s1.inv := by
  unfold execGroupReport at e0
  refine State.run_inv (fun d hd => ?_) h0 e0
  repeat' first
    | with_reducible assumption
    | with_reducible apply Dev.bmRun_inv
    | with_reducible apply Dev.reportFrom_inv
    | intro _
    | simp only [keep_mk]
    | dsimp only

theorem execLeader_inv (h : BmHdr) (leader groups : Nat) (s0 s1 : State) (h0 : s0.inv)
    (e0 : execLeader h leader groups s0 = .next s1) : s1.inv := by
  unfold execLeader at e0
  refine State.run_inv (fun d hd => ?_) h0 e0
  repeat' first
    | with_reducible assumption
    | with_reducible apply Dev.bmRun_inv
    | with_reducible apply Dev.leaderFrom_inv
    | intro _
    | simp only [keep_mk]
    | dsimp only

theorem execLeaderHeartbeat_inv  (s0 s1 : State) (h0 : s0.inv)
    (e0 : execLeaderHeartbeat s0 = .next s1) : s1.inv := by
  unfold execLeaderHeartbeat at e0
  refine State.run_inv (fun d hd => ?_) h0 e0
  repeat' first
    | with_reducible assumption
    | with_reducible apply leaderHeartbeat_inv
    | intro _
    | dsimp only

theorem execCoordinatorLoss_inv  (s0 s1 : State) (h0 : s0.inv)
    (e0 : execCoordinatorLoss s0 = .next s1) : s1.inv := by
  unfold execCoordinatorLoss at e0
  refine State.run_inv (fun d hd => ?_) h0 e0
  repeat' first
    | with_reducible assumption
    | with_reducible apply coordinatorLoss_inv
    | intro _
    | dsimp only

theorem execLeaderLoss_inv  (s0 s1 : State) (h0 : s0.inv)
    (e0 : execLeaderLoss s0 = .next s1) : s1.inv := by
  unfold execLeaderLoss at e0
  refine State.run_inv (fun d hd => ?_) h0 e0
  repeat' first
    | with_reducible assumption
    | with_reducible apply leaderLoss_inv
    | intro _
    | dsimp only

theorem execMemberAbsent_inv (m : Nat) (s0 s1 : State) (h0 : s0.inv)
    (e0 : execMemberAbsent m s0 = .next s1) : s1.inv := by
  unfold execMemberAbsent at e0
  refine State.run_inv (fun d hd => ?_) h0 e0
  repeat' first
    | with_reducible assumption
    | with_reducible apply memberAbsent_inv
    | intro _
    | dsimp only

theorem execSyncBurst_inv  (s0 s1 : State) (h0 : s0.inv)
    (e0 : execSyncBurst s0 = .next s1) : s1.inv := by
  unfold execSyncBurst at e0
  refine State.run_inv (fun d hd => ?_) h0 e0
  repeat' first
    | with_reducible assumption
    | with_reducible apply syncBurst_inv
    | intro _
    | dsimp only

theorem execSyncReq_inv (h : BmHdr) (index t2 : Nat) (s0 s1 : State) (h0 : s0.inv)
    (e0 : execSyncReq h index t2 s0 = .next s1) : s1.inv := by
  unfold execSyncReq at e0
  refine State.run_inv (fun d hd => ?_) h0 e0
  repeat' first
    | with_reducible assumption
    | with_reducible apply Dev.bmRun_inv
    | with_reducible apply Dev.fedSend_inv
    | intro _
    | simp only [keep_mk]
    | dsimp only

theorem execSyncResp_inv (h : BmHdr) (t1 t2 t3 t4 : Nat) (s0 s1 : State) (h0 : s0.inv)
    (e0 : execSyncResp h t1 t2 t3 t4 s0 = .next s1) : s1.inv := by
  unfold execSyncResp at e0
  refine State.run_inv (fun d hd => ?_) h0 e0
  repeat' first
    | with_reducible assumption
    | with_reducible apply Dev.bmRun_inv
    | with_reducible apply Dev.exchange_inv
    | intro _
    | simp only [keep_mk]
    | dsimp only

theorem execParentHoldoverTimeout_inv  (s0 s1 : State) (h0 : s0.inv)
    (e0 : execParentHoldoverTimeout s0 = .next s1) : s1.inv := by
  unfold execParentHoldoverTimeout at e0
  refine State.run_inv (fun d hd => ?_) h0 e0
  repeat' first
    | with_reducible assumption
    | with_reducible apply parentHoldoverTimeout_inv
    | intro _
    | dsimp only

theorem execDigestTimer_inv (other : Nat) (s0 s1 : State) (h0 : s0.inv)
    (e0 : execDigestTimer other s0 = .next s1) : s1.inv := by
  unfold execDigestTimer at e0
  refine State.run_inv (fun d hd => ?_) h0 e0
  repeat' first
    | with_reducible assumption
    | with_reducible apply digestTimer_inv
    | intro _
    | dsimp only

theorem execDigest_inv (h : BmHdr) (epoch : Nat) (digest : List Byte) (nextEpoch : Nat) (nextDigest : List Byte) (s0 s1 : State) (h0 : s0.inv)
    (e0 : execDigest h epoch digest nextEpoch nextDigest s0 = .next s1) : s1.inv := by
  unfold execDigest at e0
  refine State.run_inv (fun d hd => ?_) h0 e0
  repeat' first
    | with_reducible assumption
    | with_reducible apply Dev.bmRun_inv
    | with_reducible apply Dev.checkProposal_inv
    | intro _
    | simp only [keep_mk]
    | dsimp only

theorem execRecordReq_inv (h : BmHdr) (epoch : Nat) (ids : List (Nat × Nat)) (s0 s1 : State) (h0 : s0.inv)
    (e0 : execRecordReq h epoch ids s0 = .next s1) : s1.inv := by
  unfold execRecordReq at e0
  refine State.run_inv (fun d hd => ?_) h0 e0
  repeat' first
    | with_reducible assumption
    | with_reducible apply Dev.bmRun_inv
    | with_reducible apply Dev.recordsFor_inv
    | intro _
    | simp only [keep_mk]
    | dsimp only

theorem execManifest_inv (h : BmHdr) (entries : List (Nat × Nat × List Byte)) (s0 s1 : State) (h0 : s0.inv)
    (e0 : execManifest h entries s0 = .next s1) : s1.inv := by
  unfold execManifest at e0
  refine State.run_inv (fun d hd => ?_) h0 e0
  repeat' first
    | with_reducible assumption
    | with_reducible apply Dev.bmRun_inv
    | with_reducible apply Dev.manifestFrom_inv
    | intro _
    | simp only [keep_mk]
    | dsimp only

theorem execRecord_inv (h : BmHdr) (type id total offset : Nat) (data : List Byte) (s0 s1 : State) (h0 : s0.inv)
    (e0 : execRecord h type id total offset data s0 = .next s1) : s1.inv := by
  unfold execRecord at e0
  refine State.run_inv (fun d hd => ?_) h0 e0
  repeat' first
    | with_reducible assumption
    | with_reducible apply Dev.bmRun_inv
    | with_reducible apply Dev.recordFrom_inv
    | intro _
    | simp only [keep_mk]
    | dsimp only

theorem execRecordReassemblyTimeout_inv (type id : Nat) (s0 s1 : State) (h0 : s0.inv)
    (e0 : execRecordReassemblyTimeout type id s0 = .next s1) : s1.inv := by
  unfold execRecordReassemblyTimeout at e0
  refine State.run_inv (fun d hd => ?_) h0 e0
  repeat' first
    | with_reducible assumption
    | with_reducible apply recordReassemblyTimeout_inv
    | intro _
    | dsimp only

theorem execPropose_inv (h : BmHdr) (base : Nat) (digest : List Byte) (proposer : Nat) (s0 s1 : State) (h0 : s0.inv)
    (e0 : execPropose h base digest proposer s0 = .next s1) : s1.inv := by
  unfold execPropose at e0
  refine State.run_inv (fun d hd => ?_) h0 e0
  repeat' first
    | with_reducible assumption
    | with_reducible apply Dev.bmRun_inv
    | with_reducible apply Dev.proposeFrom_inv
    | intro _
    | simp only [keep_mk]
    | dsimp only

theorem execPrepare_inv (h : BmHdr) (epoch : Nat) (digest : List Byte) (roster proposer : Nat) (s0 s1 : State) (h0 : s0.inv)
    (e0 : execPrepare h epoch digest roster proposer s0 = .next s1) : s1.inv := by
  unfold execPrepare at e0
  refine State.run_inv (fun d hd => ?_) h0 e0
  repeat' first
    | with_reducible assumption
    | with_reducible apply Dev.bmRun_inv
    | with_reducible apply Dev.prepareFrom_inv
    | intro _
    | simp only [keep_mk]
    | dsimp only

theorem execPrepared_inv (h : BmHdr) (epoch status bitmap : Nat) (s0 s1 : State) (h0 : s0.inv)
    (e0 : execPrepared h epoch status bitmap s0 = .next s1) : s1.inv := by
  unfold execPrepared at e0
  refine State.run_inv (fun d hd => ?_) h0 e0
  repeat' first
    | with_reducible assumption
    | with_reducible apply Dev.bmRun_inv
    | with_reducible apply Dev.preparedFrom_inv
    | intro _
    | simp only [keep_mk]
    | dsimp only

theorem execPrepareTimeout_inv  (s0 s1 : State) (h0 : s0.inv)
    (e0 : execPrepareTimeout s0 = .next s1) : s1.inv := by
  unfold execPrepareTimeout at e0
  refine State.run_inv (fun d hd => ?_) h0 e0
  repeat' first
    | with_reducible assumption
    | with_reducible apply prepareTimeout_inv
    | with_reducible apply Dev.settle_inv
    | intro _
    | dsimp only

theorem execCommit_inv (h : BmHdr) (epoch : Nat) (digest : List Byte) (t : Nat) (s0 s1 : State) (h0 : s0.inv)
    (e0 : execCommit h epoch digest t s0 = .next s1) : s1.inv := by
  unfold execCommit at e0
  refine State.run_inv (fun d hd => ?_) h0 e0
  repeat' first
    | with_reducible assumption
    | with_reducible apply Dev.bmRun_inv
    | with_reducible apply Dev.commitFrom_inv
    | intro _
    | simp only [keep_mk]
    | dsimp only

theorem execCommitTime_inv  (s0 s1 : State) (h0 : s0.inv)
    (e0 : execCommitTime s0 = .next s1) : s1.inv := by
  unfold execCommitTime at e0
  refine State.run_inv (fun d hd => ?_) h0 e0
  repeat' first
    | with_reducible assumption
    | with_reducible apply commitTime_inv
    | intro _
    | dsimp only

theorem execAbort_inv (h : BmHdr) (epoch status : Nat) (s0 s1 : State) (h0 : s0.inv)
    (e0 : execAbort h epoch status s0 = .next s1) : s1.inv := by
  unfold execAbort at e0
  refine State.run_inv (fun d hd => ?_) h0 e0
  repeat' first
    | with_reducible assumption
    | with_reducible apply Dev.bmRun_inv
    | with_reducible apply Dev.abortFrom_inv
    | intro _
    | simp only [keep_mk]
    | dsimp only

theorem execJoinTimeout_inv  (s0 s1 : State) (h0 : s0.inv)
    (e0 : execJoinTimeout s0 = .next s1) : s1.inv := by
  unfold execJoinTimeout at e0
  refine State.run_inv (fun d hd => ?_) h0 e0
  repeat' first
    | with_reducible assumption
    | with_reducible apply joinTimeout_inv
    | intro _
    | dsimp only

theorem execAttestChallenge_inv (h : BmHdr) (nonce : List Byte) (s0 s1 : State) (h0 : s0.inv)
    (e0 : execAttestChallenge h nonce s0 = .next s1) : s1.inv := by
  unfold execAttestChallenge at e0
  refine State.run_inv (fun d hd => ?_) h0 e0
  repeat' first
    | with_reducible assumption
    | with_reducible apply Dev.bmRun_inv
    | with_reducible apply Dev.attest_inv
    | intro _
    | simp only [keep_mk]
    | dsimp only

theorem execAttestResponse_inv (h : BmHdr) (eui member svn : Nat) (key : List Byte) (good : Bool) (s0 s1 : State) (h0 : s0.inv)
    (e0 : execAttestResponse h eui member svn key good s0 = .next s1) : s1.inv := by
  unfold execAttestResponse at e0
  refine State.run_inv (fun d hd => ?_) h0 e0
  repeat' first
    | with_reducible assumption
    | with_reducible apply Dev.bmRun_inv
    | with_reducible apply Dev.judge_inv
    | intro _
    | simp only [keep_mk]
    | dsimp only

theorem execAttestTimeout_inv (m : Nat) (s0 s1 : State) (h0 : s0.inv)
    (e0 : execAttestTimeout m s0 = .next s1) : s1.inv := by
  unfold execAttestTimeout at e0
  refine State.run_inv (fun d hd => ?_) h0 e0
  repeat' first
    | with_reducible assumption
    | with_reducible apply attestTimeout_inv
    | intro _
    | dsimp only

theorem execReplicationSend_inv  (s0 s1 : State) (h0 : s0.inv)
    (e0 : execReplicationSend s0 = .next s1) : s1.inv := by
  unfold execReplicationSend at e0
  refine State.run_inv (fun d hd => ?_) h0 e0
  repeat' first
    | with_reducible assumption
    | with_reducible apply replicationSend_inv
    | intro _
    | dsimp only

theorem execReplicationRetx_inv  (s0 s1 : State) (h0 : s0.inv)
    (e0 : execReplicationRetx s0 = .next s1) : s1.inv := by
  unfold execReplicationRetx at e0
  refine State.run_inv (fun d hd => ?_) h0 e0
  repeat' first
    | with_reducible assumption
    | with_reducible apply replicationRetx_inv
    | intro _
    | dsimp only

theorem execReplica_inv (h : BmHdr) (entries : List (Nat × List Byte)) (s0 s1 : State) (h0 : s0.inv)
    (e0 : execReplica h entries s0 = .next s1) : s1.inv := by
  unfold execReplica at e0
  refine State.run_inv (fun d hd => ?_) h0 e0
  repeat' first
    | with_reducible assumption
    | with_reducible apply Dev.bmRun_inv
    | with_reducible apply Dev.replicaFrom_inv
    | intro _
    | simp only [keep_mk]
    | dsimp only

theorem execReplicaAck_inv (h : BmHdr) (applied : List (Nat × Nat)) (s0 s1 : State) (h0 : s0.inv)
    (e0 : execReplicaAck h applied s0 = .next s1) : s1.inv := by
  unfold execReplicaAck at e0
  refine State.run_inv (fun d hd => ?_) h0 e0
  repeat' first
    | with_reducible assumption
    | with_reducible apply Dev.bmRun_inv
    | with_reducible apply Dev.ackFrom_inv
    | intro _
    | simp only [keep_mk]
    | dsimp only

theorem execReplicaReq_inv (h : BmHdr) (first count : Nat) (s0 s1 : State) (h0 : s0.inv)
    (e0 : execReplicaReq h first count s0 = .next s1) : s1.inv := by
  unfold execReplicaReq at e0
  refine State.run_inv (fun d hd => ?_) h0 e0
  repeat' first
    | with_reducible assumption
    | with_reducible apply Dev.bmRun_inv
    | with_reducible apply Dev.replicasFor_inv
    | intro _
    | simp only [keep_mk]
    | dsimp only

theorem execBuddyReplicaTimeout_inv (node : Nat) (s0 s1 : State) (h0 : s0.inv)
    (e0 : execBuddyReplicaTimeout node s0 = .next s1) : s1.inv := by
  unfold execBuddyReplicaTimeout at e0
  refine State.run_inv (fun d hd => ?_) h0 e0
  repeat' first
    | with_reducible assumption
    | with_reducible apply buddyReplicaTimeout_inv
    | intro _
    | dsimp only

theorem execMigrationStart_inv (node : Nat) (s0 s1 : State) (h0 : s0.inv)
    (e0 : execMigrationStart node s0 = .next s1) : s1.inv := by
  unfold execMigrationStart at e0
  refine State.run_inv (fun d hd => ?_) h0 e0
  repeat' first
    | with_reducible assumption
    | with_reducible apply migrationStart_inv
    | intro _
    | dsimp only

theorem execMigrateOffer_inv (h : BmHdr) (node offer : Nat) (ctx : List Byte) (s0 s1 : State) (h0 : s0.inv)
    (e0 : execMigrateOffer h node offer ctx s0 = .next s1) : s1.inv := by
  unfold execMigrateOffer at e0
  refine State.run_inv (fun d hd => ?_) h0 e0
  repeat' first
    | with_reducible assumption
    | with_reducible apply Dev.bmRun_inv
    | with_reducible apply Dev.offerFrom_inv
    | intro _
    | simp only [keep_mk]
    | dsimp only

theorem execMigrateAnswer_inv (h : BmHdr) (offer status : Nat) (s0 s1 : State) (h0 : s0.inv)
    (e0 : execMigrateAnswer h offer status s0 = .next s1) : s1.inv := by
  unfold execMigrateAnswer at e0
  refine State.run_inv (fun d hd => ?_) h0 e0
  repeat' first
    | with_reducible assumption
    | with_reducible apply Dev.bmRun_inv
    | with_reducible apply Dev.answerFrom_inv
    | intro _
    | simp only [keep_mk]
    | dsimp only

theorem execOfferRetry_inv (offer : Nat) (s0 s1 : State) (h0 : s0.inv)
    (e0 : execOfferRetry offer s0 = .next s1) : s1.inv := by
  unfold execOfferRetry at e0
  refine State.run_inv (fun d hd => ?_) h0 e0
  repeat' first
    | with_reducible assumption
    | with_reducible apply offerRetry_inv
    | intro _
    | dsimp only

theorem execMigrateDone_inv (h : BmHdr) (node offer owner : Nat) (s0 s1 : State) (h0 : s0.inv)
    (e0 : execMigrateDone h node offer owner s0 = .next s1) : s1.inv := by
  unfold execMigrateDone at e0
  refine State.run_inv (fun d hd => ?_) h0 e0
  repeat' first
    | with_reducible assumption
    | with_reducible apply Dev.bmRun_inv
    | with_reducible apply Dev.doneFrom_inv
    | intro _
    | simp only [keep_mk]
    | dsimp only

theorem execDoneRepeat_inv (offer : Nat) (s0 s1 : State) (h0 : s0.inv)
    (e0 : execDoneRepeat offer s0 = .next s1) : s1.inv := by
  unfold execDoneRepeat at e0
  refine State.run_inv (fun d hd => ?_) h0 e0
  repeat' first
    | with_reducible assumption
    | with_reducible apply doneRepeat_inv
    | intro _
    | dsimp only

theorem execMigrateActive_inv (h : BmHdr) (offer : Nat) (s0 s1 : State) (h0 : s0.inv)
    (e0 : execMigrateActive h offer s0 = .next s1) : s1.inv := by
  unfold execMigrateActive at e0
  refine State.run_inv (fun d hd => ?_) h0 e0
  repeat' first
    | with_reducible assumption
    | with_reducible apply keep_ite
    | with_reducible apply Dev.bmRun_inv
    | with_reducible apply Dev.handOver_inv
    | intro _
    | simp only [keep_mk]
    | split
    | dsimp only

theorem execActiveTimeout_inv (offer : Nat) (s0 s1 : State) (h0 : s0.inv)
    (e0 : execActiveTimeout offer s0 = .next s1) : s1.inv := by
  unfold execActiveTimeout at e0
  refine State.run_inv (fun d hd => ?_) h0 e0
  repeat' first
    | with_reducible assumption
    | with_reducible apply activeTimeout_inv
    | intro _
    | dsimp only

theorem execPendingDiscard_inv (m offer : Nat) (s0 s1 : State) (h0 : s0.inv)
    (e0 : execPendingDiscard m offer s0 = .next s1) : s1.inv := by
  unfold execPendingDiscard at e0
  refine State.run_inv (fun d hd => ?_) h0 e0
  repeat' first
    | with_reducible assumption
    | with_reducible apply pendingDiscard_inv
    | intro _
    | dsimp only

theorem execVisitor_inv (h : BmHdr) (node : Nat) (octets : List Byte) (s0 s1 : State) (h0 : s0.inv)
    (e0 : execVisitor h node octets s0 = .next s1) : s1.inv := by
  unfold execVisitor at e0
  refine State.run_inv (fun d hd => ?_) h0 e0
  repeat' first
    | with_reducible assumption
    | with_reducible apply Dev.bmRun_inv
    | with_reducible apply Dev.dataRun_inv
    | with_reducible apply Dev.visitorIn_inv
    | intro _
    | dsimp only

theorem execRedirect_inv (h : BmHdr) (node : Nat) (octets : List Byte) (s0 s1 : State) (h0 : s0.inv)
    (e0 : execRedirect h node octets s0 = .next s1) : s1.inv := by
  unfold execRedirect at e0
  refine State.run_inv (fun d hd => ?_) h0 e0
  repeat' first
    | with_reducible assumption
    | with_reducible apply Dev.bmRun_inv
    | with_reducible apply Dev.dataRun_inv
    | with_reducible apply Dev.visitorIn_inv
    | intro _
    | dsimp only

theorem execTransmit_inv (h : BmHdr) (node start : Nat) (q : Int) (profile phy : Nat) (sub : Bool) (chan mode : Nat) (psdu : List Byte) (s0 s1 : State) (h0 : s0.inv)
    (e0 : execTransmit h node start q profile phy sub chan mode psdu s0 = .next s1) : s1.inv := by
  unfold execTransmit at e0
  refine State.run_inv (fun d hd => ?_) h0 e0
  repeat' first
    | with_reducible assumption
    | with_reducible apply Dev.bmRun_inv
    | with_reducible apply start_inv
    | with_reducible apply Dev.dataRun_inv
    | with_reducible apply Dev.transmitFrom_inv
    | intro _
    | dsimp only

theorem execResult_inv (h : BmHdr) (node start status : Nat) (s0 s1 : State) (h0 : s0.inv)
    (e0 : execResult h node start status s0 = .next s1) : s1.inv := by
  unfold execResult at e0
  refine State.run_inv (fun d hd => ?_) h0 e0
  repeat' first
    | with_reducible assumption
    | with_reducible apply Dev.bmRun_inv
    | with_reducible apply start_inv
    | with_reducible apply Dev.dataRun_inv
    | with_reducible apply Dev.resultFrom_inv
    | intro _
    | dsimp only

theorem execBootReq_inv (h : BmHdr) (eui offset : Nat) (image : List Byte) (s0 s1 : State) (h0 : s0.inv)
    (e0 : execBootReq h eui offset image s0 = .next s1) : s1.inv := by
  unfold execBootReq at e0
  refine State.run_inv (fun d hd => ?_) h0 e0
  repeat' first
    | with_reducible assumption
    | with_reducible apply bootReq_inv
    | intro _
    | simp only [keep_mk]
    | dsimp only

theorem execPwrVoteSet_inv (who : Initiator) (w : Word) (s0 s1 : State) (h0 : s0.inv)
    (e0 : execPwrVoteSet who w s0 = .next s1) : s1.inv := by
  unfold execPwrVoteSet at e0
  refine State.run_inv (fun d hd => ?_) h0 e0
  repeat' first
    | with_reducible assumption
    | with_reducible apply pwrVoteSet_inv
    | intro _
    | dsimp only

theorem execPwrVoteClr_inv (who : Initiator) (w : Word) (s0 s1 : State) (h0 : s0.inv)
    (e0 : execPwrVoteClr who w s0 = .next s1) : s1.inv := by
  unfold execPwrVoteClr at e0
  refine State.run_inv (fun d hd => ?_) h0 e0
  repeat' first
    | with_reducible assumption
    | with_reducible apply pwrVoteClr_inv
    | intro _
    | dsimp only

theorem execPwrVoteVnWrite_inv (who : Initiator) (n : Nat) (w : Word) (s0 s1 : State) (h0 : s0.inv)
    (e0 : execPwrVoteVnWrite who n w s0 = .next s1) : s1.inv := by
  unfold execPwrVoteVnWrite at e0
  refine State.run_inv (fun d hd => ?_) h0 e0
  repeat' first
    | with_reducible assumption
    | with_reducible apply pwrVoteVnWrite_inv
    | intro _
    | dsimp only

theorem execDomainSwitchOnStart_inv (n : Nat) (s0 s1 : State) (h0 : s0.inv)
    (e0 : execDomainSwitchOnStart n s0 = .next s1) : s1.inv := by
  unfold execDomainSwitchOnStart at e0
  refine State.run_inv (fun d hd => ?_) h0 e0
  repeat' first
    | with_reducible assumption
    | with_reducible apply domainSwitchOnStart_inv
    | intro _
    | dsimp only

theorem execDomainPowerUpDone_inv (n : Nat) (s0 s1 : State) (h0 : s0.inv)
    (e0 : execDomainPowerUpDone n s0 = .next s1) : s1.inv := by
  unfold execDomainPowerUpDone at e0
  refine State.run_inv (fun d hd => ?_) h0 e0
  repeat' first
    | with_reducible assumption
    | with_reducible apply domainPowerUpDone_inv
    | intro _
    | dsimp only

theorem execDomainDrainDone_inv (n : Nat) (s0 s1 : State) (h0 : s0.inv)
    (e0 : execDomainDrainDone n s0 = .next s1) : s1.inv := by
  unfold execDomainDrainDone at e0
  refine State.run_inv (fun d hd => ?_) h0 e0
  repeat' first
    | with_reducible assumption
    | with_reducible apply domainDrainDone_inv
    | intro _
    | dsimp only

theorem execDomainDrainTimeout_inv (n : Nat) (s0 s1 : State) (h0 : s0.inv)
    (e0 : execDomainDrainTimeout n s0 = .next s1) : s1.inv := by
  unfold execDomainDrainTimeout at e0
  refine State.run_inv (fun d hd => ?_) h0 e0
  repeat' first
    | with_reducible assumption
    | with_reducible apply domainDrainTimeout_inv
    | intro _
    | dsimp only

theorem execDomainDrainRetry_inv (n : Nat) (s0 s1 : State) (h0 : s0.inv)
    (e0 : execDomainDrainRetry n s0 = .next s1) : s1.inv := by
  unfold execDomainDrainRetry at e0
  refine State.run_inv (fun d hd => ?_) h0 e0
  repeat' first
    | with_reducible assumption
    | with_reducible apply domainDrainRetry_inv
    | intro _
    | dsimp only

theorem execDomainIsolationDone_inv (n : Nat) (s0 s1 : State) (h0 : s0.inv)
    (e0 : execDomainIsolationDone n s0 = .next s1) : s1.inv := by
  unfold execDomainIsolationDone at e0
  refine State.run_inv (fun d hd => ?_) h0 e0
  repeat' first
    | with_reducible assumption
    | with_reducible apply domainIsolationDone_inv
    | intro _
    | dsimp only

theorem execDomainSwitchOffDone_inv (n : Nat) (s0 s1 : State) (h0 : s0.inv)
    (e0 : execDomainSwitchOffDone n s0 = .next s1) : s1.inv := by
  unfold execDomainSwitchOffDone at e0
  refine State.run_inv (fun d hd => ?_) h0 e0
  repeat' first
    | with_reducible assumption
    | with_reducible apply domainSwitchOffDone_inv
    | intro _
    | dsimp only

theorem execPwrPadRelease_inv (who : Initiator) (w : Word) (s0 s1 : State) (h0 : s0.inv)
    (e0 : execPwrPadRelease who w s0 = .next s1) : s1.inv := by
  unfold execPwrPadRelease at e0
  refine State.run_inv (fun d hd => ?_) h0 e0
  repeat' first
    | with_reducible assumption
    | with_reducible apply pwrPadRelease_inv
    | intro _
    | dsimp only

theorem execRailGood_inv (r : Nat) (s0 s1 : State) (h0 : s0.inv)
    (e0 : execRailGood r s0 = .next s1) : s1.inv := by
  unfold execRailGood at e0
  refine State.run_inv (fun d hd => ?_) h0 e0
  repeat' first
    | with_reducible assumption
    | with_reducible apply railGood_inv
    | intro _
    | dsimp only

theorem execNvOkFall_inv  (s0 s1 : State) (h0 : s0.inv)
    (e0 : execNvOkFall s0 = .next s1) : s1.inv := by
  unfold execNvOkFall at e0
  refine State.run_inv (fun d hd => ?_) h0 e0
  repeat' first
    | with_reducible assumption
    | with_reducible apply nvOkFall_inv
    | intro _
    | dsimp only

theorem execNvOkRise_inv  (s0 s1 : State) (h0 : s0.inv)
    (e0 : execNvOkRise s0 = .next s1) : s1.inv := by
  unfold execNvOkRise at e0
  refine State.run_inv (fun d hd => ?_) h0 e0
  repeat' first
    | with_reducible assumption
    | with_reducible apply nvOkRise_inv
    | intro _
    | dsimp only

theorem execClkOpCtrlWrite_inv (who : Initiator) (w : Word) (s0 s1 : State) (h0 : s0.inv)
    (e0 : execClkOpCtrlWrite who w s0 = .next s1) : s1.inv := by
  unfold execClkOpCtrlWrite at e0
  refine State.run_inv (fun d hd => ?_) h0 e0
  repeat' first
    | with_reducible assumption
    | with_reducible apply clkOpCtrlWrite_inv
    | intro _
    | dsimp only

theorem execOpVoltageRampDone_inv  (s0 s1 : State) (h0 : s0.inv)
    (e0 : execOpVoltageRampDone s0 = .next s1) : s1.inv := by
  unfold execOpVoltageRampDone at e0
  refine State.run_inv (fun d hd => ?_) h0 e0
  repeat' first
    | with_reducible assumption
    | with_reducible apply opVoltageRampDone_inv
    | intro _
    | dsimp only

theorem execOpPllRelockDone_inv  (s0 s1 : State) (h0 : s0.inv)
    (e0 : execOpPllRelockDone s0 = .next s1) : s1.inv := by
  unfold execOpPllRelockDone at e0
  refine State.run_inv (fun d hd => ?_) h0 e0
  repeat' first
    | with_reducible assumption
    | with_reducible apply opPllRelockDone_inv
    | intro _
    | dsimp only

theorem execCoreRailDrop_inv  (s0 s1 : State) (h0 : s0.inv)
    (e0 : execCoreRailDrop s0 = .next s1) : s1.inv := by
  unfold execCoreRailDrop at e0
  refine State.run_inv (fun d hd => ?_) h0 e0
  repeat' first
    | with_reducible assumption
    | with_reducible apply coreRailDrop_inv
    | intro _
    | dsimp only

theorem execWakePin_inv (n : Nat) (level : Bool) (s0 s1 : State) (h0 : s0.inv)
    (e0 : execWakePin n level s0 = .next s1) : s1.inv := by
  unfold execWakePin at e0
  refine State.run_inv (fun d hd => ?_) h0 e0
  repeat' first
    | with_reducible assumption
    | with_reducible apply wakePin_inv
    | intro _
    | dsimp only

theorem execWakeTimerCompare_inv  (s0 s1 : State) (h0 : s0.inv)
    (e0 : execWakeTimerCompare s0 = .next s1) : s1.inv := by
  unfold execWakeTimerCompare at e0
  refine State.run_inv (fun d hd => ?_) h0 e0
  repeat' first
    | with_reducible assumption
    | with_reducible apply wakeTimerCompare_inv
    | intro _
    | dsimp only

theorem execPwrWakeTimeHiWrite_inv (w : Word) (s0 s1 : State) (h0 : s0.inv)
    (e0 : execPwrWakeTimeHiWrite w s0 = .next s1) : s1.inv := by
  unfold execPwrWakeTimeHiWrite at e0
  refine State.run_inv (fun d hd => ?_) h0 e0
  repeat' first
    | with_reducible assumption
    | with_reducible apply pwrWakeTimeHiWrite_inv
    | intro _
    | dsimp only

theorem execWurxTelegramMatch_inv (chips : List Bool) (s0 s1 : State) (h0 : s0.inv)
    (e0 : execWurxTelegramMatch chips s0 = .next s1) : s1.inv := by
  unfold execWurxTelegramMatch at e0
  refine State.run_inv (fun d hd => ?_) h0 e0
  repeat' first
    | with_reducible assumption
    | with_reducible apply wurxTelegramMatch_inv
    | intro _
    | dsimp only

theorem execPwrWatchCtrlWrite_inv (who : Initiator) (w : Word) (s0 s1 : State) (h0 : s0.inv)
    (e0 : execPwrWatchCtrlWrite who w s0 = .next s1) : s1.inv := by
  unfold execPwrWatchCtrlWrite at e0
  refine State.run_inv (fun d hd => ?_) h0 e0
  repeat' first
    | with_reducible assumption
    | with_reducible apply pwrWatchCtrlWrite_inv
    | intro _
    | dsimp only

theorem execWatchPeriodTick_inv  (s0 s1 : State) (h0 : s0.inv)
    (e0 : execWatchPeriodTick s0 = .next s1) : s1.inv := by
  unfold execWatchPeriodTick at e0
  refine State.run_inv (fun d hd => ?_) h0 e0
  repeat' first
    | with_reducible assumption
    | with_reducible apply watchPeriodTick_inv
    | intro _
    | dsimp only

theorem execWatchGainSettled_inv  (s0 s1 : State) (h0 : s0.inv)
    (e0 : execWatchGainSettled s0 = .next s1) : s1.inv := by
  unfold execWatchGainSettled at e0
  refine State.run_inv (fun d hd => ?_) h0 e0
  repeat' first
    | with_reducible assumption
    | with_reducible apply watchGainSettled_inv
    | intro _
    | dsimp only

theorem execWatchDwellEnd_inv (energy corr : List Nat) (s0 s1 : State) (h0 : s0.inv)
    (e0 : execWatchDwellEnd energy corr s0 = .next s1) : s1.inv := by
  unfold execWatchDwellEnd at e0
  refine State.run_inv (fun d hd => ?_) h0 e0
  repeat' first
    | with_reducible assumption
    | with_reducible apply watchDwellEnd_inv
    | intro _
    | dsimp only

theorem execWatchVoteRelease_inv  (s0 s1 : State) (h0 : s0.inv)
    (e0 : execWatchVoteRelease s0 = .next s1) : s1.inv := by
  unfold execWatchVoteRelease at e0
  refine State.run_inv (fun d hd => ?_) h0 e0
  repeat' first
    | with_reducible assumption
    | with_reducible apply watchVoteRelease_inv
    | intro _
    | dsimp only

theorem execRowRemapDone_inv (res : Nat) (entry : Option Nat) (bucket : Option (Nat × Nat)) (s0 s1 : State) (h0 : s0.inv)
    (e0 : execRowRemapDone res entry bucket s0 = .next s1) : s1.inv := by
  unfold execRowRemapDone at e0
  refine State.run_inv (fun d hd => ?_) h0 e0
  repeat' first
    | with_reducible assumption
    | with_reducible apply rowRemapDone_inv
    | intro _
    | dsimp only

theorem execQueueRetireMove_inv (q : Nat) (s0 s1 : State) (h0 : s0.inv)
    (e0 : execQueueRetireMove q s0 = .next s1) : s1.inv := by
  unfold execQueueRetireMove at e0
  refine State.run_inv (fun d hd => ?_) h0 e0
  repeat' first
    | with_reducible assumption
    | with_reducible apply queueRetireMove_inv
    | intro _
    | dsimp only

theorem execSparingMapCheck_inv (bad : List Nat) (s0 s1 : State) (h0 : s0.inv)
    (e0 : execSparingMapCheck bad s0 = .next s1) : s1.inv := by
  unfold execSparingMapCheck at e0
  refine State.run_inv (fun d hd => ?_) h0 e0
  repeat' first
    | with_reducible assumption
    | with_reducible apply sparingMapCheck_inv
    | intro _
    | dsimp only

theorem execVddAonGood_inv  (s0 s1 : State) (h0 : s0.inv)
    (e0 : execVddAonGood s0 = .next s1) : s1.inv := by
  unfold execVddAonGood at e0
  refine State.run_inv (fun d hd => ?_) h0 e0
  repeat' first
    | with_reducible assumption
    | with_reducible apply vddAonGood_inv
    | intro _
    | dsimp only

theorem execPowerOnReset_inv  (s0 s1 : State) (h0 : s0.inv)
    (e0 : execPowerOnReset s0 = .next s1) : s1.inv := by
  unfold execPowerOnReset at e0
  refine State.run_inv (fun d hd => ?_) h0 e0
  repeat' first
    | with_reducible assumption
    | with_reducible apply Dev.coldReset_inv
    | intro _
    | dsimp only

theorem execPorstNRise_inv (straps : Nat) (s0 s1 : State) (h0 : s0.inv)
    (e0 : execPorstNRise straps s0 = .next s1) : s1.inv := by
  unfold execPorstNRise at e0
  refine State.run_inv (fun d hd => ?_) h0 e0
  repeat' first
    | with_reducible assumption
    | with_reducible apply porstNRise_inv
    | intro _
    | dsimp only

theorem execSysrstNAssert_inv  (s0 s1 : State) (h0 : s0.inv)
    (e0 : execSysrstNAssert s0 = .next s1) : s1.inv := by
  unfold execSysrstNAssert at e0
  refine State.run_inv (fun d hd => ?_) h0 e0
  repeat' first
    | with_reducible assumption
    | with_reducible apply sysrstNAssert_inv
    | intro _
    | dsimp only

theorem execSysrstNRelease_inv  (s0 s1 : State) (h0 : s0.inv)
    (e0 : execSysrstNRelease s0 = .next s1) : s1.inv := by
  unfold execSysrstNRelease at e0
  refine State.run_inv (fun d hd => ?_) h0 e0
  repeat' first
    | with_reducible assumption
    | with_reducible apply sysrstNRelease_inv
    | intro _
    | dsimp only

theorem execSysResetCtrlSys_inv (who : Initiator) (w : Word) (s0 s1 : State) (h0 : s0.inv)
    (e0 : execSysResetCtrlSys who w s0 = .next s1) : s1.inv := by
  unfold execSysResetCtrlSys at e0
  refine State.run_inv (fun d hd => ?_) h0 e0
  repeat' first
    | with_reducible assumption
    | with_reducible apply sysResetCtrlWrite_inv
    | intro _
    | dsimp only

theorem execSysResetCtrlCoreHold_inv (who : Initiator) (w : Word) (s0 s1 : State) (h0 : s0.inv)
    (e0 : execSysResetCtrlCoreHold who w s0 = .next s1) : s1.inv := by
  unfold execSysResetCtrlCoreHold at e0
  refine State.run_inv (fun d hd => ?_) h0 e0
  repeat' first
    | with_reducible assumption
    | with_reducible apply sysResetCtrlWrite_inv
    | intro _
    | dsimp only

theorem execPciExpressReset_inv  (s0 s1 : State) (h0 : s0.inv)
    (e0 : execPciExpressReset s0 = .next s1) : s1.inv := by
  unfold execPciExpressReset at e0
  refine State.run_inv (fun d hd => ?_) h0 e0
  repeat' first
    | with_reducible assumption
    | with_reducible apply Dev.pcieReset_inv
    | intro _
    | dsimp only

theorem execPcieLinkUp_inv (msix master : Bool) (s0 s1 : State) (h0 : s0.inv)
    (e0 : execPcieLinkUp msix master s0 = .next s1) : s1.inv := by
  unfold execPcieLinkUp at e0
  refine State.run_inv (fun d hd => ?_) h0 e0
  repeat' first
    | with_reducible assumption
    | with_reducible apply pcieLinkUp_inv
    | intro _
    | dsimp only

theorem execRailBrownOut_inv (r : Nat) (s0 s1 : State) (h0 : s0.inv)
    (e0 : execRailBrownOut r s0 = .next s1) : s1.inv := by
  unfold execRailBrownOut at e0
  refine State.run_inv (fun d hd => ?_) h0 e0
  repeat' first
    | with_reducible assumption
    | with_reducible apply railBrownOut_inv
    | intro _
    | dsimp only

theorem execBootSupplyTimeout_inv  (s0 s1 : State) (h0 : s0.inv)
    (e0 : execBootSupplyTimeout s0 = .next s1) : s1.inv := by
  unfold execBootSupplyTimeout at e0
  refine State.run_inv (fun d hd => ?_) h0 e0
  repeat' first
    | with_reducible assumption
    | with_reducible apply bootSupplyTimeout_inv
    | intro _
    | dsimp only

theorem execPacketBufferSelfTestDone_inv (failing : List Nat) (s0 s1 : State) (h0 : s0.inv)
    (e0 : execPacketBufferSelfTestDone failing s0 = .next s1) : s1.inv := by
  unfold execPacketBufferSelfTestDone at e0
  refine State.run_inv (fun d hd => ?_) h0 e0
  repeat' first
    | with_reducible assumption
    | with_reducible apply packetBufferSelfTestDone_inv
    | intro _
    | dsimp only

theorem execBootHeaderReadDone_inv (hdr : List Byte) (s0 s1 : State) (h0 : s0.inv)
    (e0 : execBootHeaderReadDone hdr s0 = .next s1) : s1.inv := by
  unfold execBootHeaderReadDone at e0
  refine State.run_inv (fun d hd => ?_) h0 e0
  repeat' first
    | with_reducible assumption
    | with_reducible apply bootHeaderReadDone_inv
    | intro _
    | dsimp only

theorem execBootImageReadDone_inv (image : List Byte) (s0 s1 : State) (h0 : s0.inv)
    (e0 : execBootImageReadDone image s0 = .next s1) : s1.inv := by
  unfold execBootImageReadDone at e0
  refine State.run_inv (fun d hd => ?_) h0 e0
  repeat' first
    | with_reducible assumption
    | with_reducible apply bootImageReadDone_inv
    | intro _
    | dsimp only

theorem execCspmRdyTimeout_inv  (s0 s1 : State) (h0 : s0.inv)
    (e0 : execCspmRdyTimeout s0 = .next s1) : s1.inv := by
  unfold execCspmRdyTimeout at e0
  refine State.run_inv (fun d hd => ?_) h0 e0
  repeat' first
    | with_reducible assumption
    | with_reducible apply cspmRdyTimeout_inv
    | intro _
    | dsimp only

theorem execSysBootDoorbell_inv (who : Initiator) (w : Word) (s0 s1 : State) (h0 : s0.inv)
    (e0 : execSysBootDoorbell who w s0 = .next s1) : s1.inv := by
  unfold execSysBootDoorbell at e0
  refine State.run_inv (fun d hd => ?_) h0 e0
  repeat' first
    | with_reducible assumption
    | with_reducible apply sysBootDoorbell_inv
    | intro _
    | dsimp only

theorem execIntNPulseEnd_inv  (s0 s1 : State) (h0 : s0.inv)
    (e0 : execIntNPulseEnd s0 = .next s1) : s1.inv := by
  unfold execIntNPulseEnd at e0
  refine State.run_inv (fun d hd => ?_) h0 e0
  repeat' first
    | with_reducible assumption
    | with_reducible apply intNPulseEnd_inv
    | intro _
    | dsimp only

theorem execBootData_inv (h : BmHdr) (offset : Nat) (data : List Byte) (s0 s1 : State) (h0 : s0.inv)
    (e0 : execBootData h offset data s0 = .next s1) : s1.inv := by
  unfold execBootData at e0
  refine State.run_inv (fun d hd => ?_) h0 e0
  repeat' first
    | with_reducible assumption
    | with_reducible apply bootData_inv
    | intro _
    | dsimp only

theorem execBootPeerTimeout_inv  (s0 s1 : State) (h0 : s0.inv)
    (e0 : execBootPeerTimeout s0 = .next s1) : s1.inv := by
  unfold execBootPeerTimeout at e0
  refine State.run_inv (fun d hd => ?_) h0 e0
  repeat' first
    | with_reducible assumption
    | with_reducible apply bootPeerTimeout_inv
    | intro _
    | dsimp only

theorem execBootSectionsCopied_inv  (s0 s1 : State) (h0 : s0.inv)
    (e0 : execBootSectionsCopied s0 = .next s1) : s1.inv := by
  unfold execBootSectionsCopied at e0
  refine State.run_inv (fun d hd => ?_) h0 e0
  repeat' first
    | with_reducible assumption
    | with_reducible apply bootSectionsCopied_inv
    | intro _
    | dsimp only

theorem execBootSelfTestDone_inv (failing : List Nat) (s0 s1 : State) (h0 : s0.inv)
    (e0 : execBootSelfTestDone failing s0 = .next s1) : s1.inv := by
  unfold execBootSelfTestDone at e0
  refine State.run_inv (fun d hd => ?_) h0 e0
  repeat' first
    | with_reducible assumption
    | with_reducible apply bootSelfTestDone_inv
    | intro _
    | dsimp only

theorem execBootFirmwareEntry_inv  (s0 s1 : State) (h0 : s0.inv)
    (e0 : execBootFirmwareEntry s0 = .next s1) : s1.inv := by
  unfold execBootFirmwareEntry at e0
  refine State.run_inv (fun d hd => ?_) h0 e0
  repeat' first
    | with_reducible assumption
    | with_reducible apply bootFirmwareEntry_inv
    | intro _
    | dsimp only

theorem execHciEnable_inv (who : Initiator) (w : Word) (s0 s1 : State) (h0 : s0.inv)
    (e0 : execHciEnable who w s0 = .next s1) : s1.inv := by
  unfold execHciEnable at e0
  refine State.run_inv (fun d hd => ?_) h0 e0
  repeat' first
    | with_reducible assumption
    | with_reducible apply hciCtrlWrite_inv
    | with_reducible apply Dev.pump_inv
    | intro _
    | dsimp only

theorem execHciReset_inv (who : Initiator) (w : Word) (s0 s1 : State) (h0 : s0.inv)
    (e0 : execHciReset who w s0 = .next s1) : s1.inv := by
  unfold execHciReset at e0
  refine State.run_inv (fun d hd => ?_) h0 e0
  repeat' first
    | with_reducible assumption
    | with_reducible apply hciCtrlWrite_inv
    | with_reducible apply Dev.pump_inv
    | intro _
    | dsimp only

theorem execFwReadyWrite_inv (who : Initiator) (w : Word) (s0 s1 : State) (h0 : s0.inv)
    (e0 : execFwReadyWrite who w s0 = .next s1) : s1.inv := by
  unfold execFwReadyWrite at e0
  refine State.run_inv (fun d hd => ?_) h0 e0
  repeat' first
    | with_reducible assumption
    | with_reducible apply hciCtrlWrite_inv
    | with_reducible apply Dev.pump_inv
    | intro _
    | dsimp only

theorem execFwReadyTimeout_inv (id : Nat) (s0 s1 : State) (h0 : s0.inv)
    (e0 : execFwReadyTimeout id s0 = .next s1) : s1.inv := by
  unfold execFwReadyTimeout at e0
  refine State.run_inv (fun d hd => ?_) h0 e0
  repeat' first
    | with_reducible assumption
    | with_reducible apply keep_ite
    | with_reducible apply Dev.done_inv
    | with_reducible apply Dev.pump_inv
    | intro _
    | simp only [keep_mk]
    | split
    | dsimp only

theorem execDoorbell_inv (q w : Nat) (entries : List HostCmd) (s0 s1 : State) (h0 : s0.inv)
    (e0 : execDoorbell q w entries s0 = .next s1) : s1.inv := by
  unfold execDoorbell at e0
  refine State.run_inv (fun d hd => ?_) h0 e0
  repeat' first
    | with_reducible assumption
    | with_reducible apply keep_ite
    | with_reducible apply Dev.hostEntriesAt_inv
    | with_reducible apply Dev.doorbellWrite_inv
    | with_reducible apply Dev.pump_inv
    | intro _
    | split
    | dsimp only

theorem execTxFrame_inv (c : HostCmd) (s0 s1 : State) (h0 : s0.inv)
    (e0 : execTxFrame c s0 = .next s1) : s1.inv := by
  unfold execTxFrame at e0
  refine State.run_inv (fun d hd => ?_) h0 e0
  repeat' first
    | with_reducible assumption
    | with_reducible apply Dev.hostSubmit_inv
    | intro _
    | dsimp only

theorem execRegRead_inv (c : HostCmd) (s0 s1 : State) (h0 : s0.inv)
    (e0 : execRegRead c s0 = .next s1) : s1.inv := by
  unfold execRegRead at e0
  refine State.run_inv (fun d hd => ?_) h0 e0
  repeat' first
    | with_reducible assumption
    | with_reducible apply Dev.hostSubmit_inv
    | intro _
    | dsimp only

theorem execRegWrite_inv (c : HostCmd) (s0 s1 : State) (h0 : s0.inv)
    (e0 : execRegWrite c s0 = .next s1) : s1.inv := by
  unfold execRegWrite at e0
  refine State.run_inv (fun d hd => ?_) h0 e0
  repeat' first
    | with_reducible assumption
    | with_reducible apply Dev.hostSubmit_inv
    | intro _
    | dsimp only

theorem execPowerVote_inv (c : HostCmd) (s0 s1 : State) (h0 : s0.inv)
    (e0 : execPowerVote c s0 = .next s1) : s1.inv := by
  unfold execPowerVote at e0
  refine State.run_inv (fun d hd => ?_) h0 e0
  repeat' first
    | with_reducible assumption
    | with_reducible apply Dev.hostSubmit_inv
    | intro _
    | dsimp only

theorem execHelloCommand_inv (c : HostCmd) (s0 s1 : State) (h0 : s0.inv)
    (e0 : execHelloCommand c s0 = .next s1) : s1.inv := by
  unfold execHelloCommand at e0
  refine State.run_inv (fun d hd => ?_) h0 e0
  repeat' first
    | with_reducible assumption
    | with_reducible apply Dev.hostSubmit_inv
    | intro _
    | dsimp only

theorem execIdentify_inv (c : HostCmd) (s0 s1 : State) (h0 : s0.inv)
    (e0 : execIdentify c s0 = .next s1) : s1.inv := by
  unfold execIdentify at e0
  refine State.run_inv (fun d hd => ?_) h0 e0
  repeat' first
    | with_reducible assumption
    | with_reducible apply Dev.hostSubmit_inv
    | intro _
    | dsimp only

theorem execQueueCreate_inv (c : HostCmd) (s0 s1 : State) (h0 : s0.inv)
    (e0 : execQueueCreate c s0 = .next s1) : s1.inv := by
  unfold execQueueCreate at e0
  refine State.run_inv (fun d hd => ?_) h0 e0
  repeat' first
    | with_reducible assumption
    | with_reducible apply Dev.hostSubmit_inv
    | intro _
    | dsimp only

theorem execQueueDelete_inv (c : HostCmd) (s0 s1 : State) (h0 : s0.inv)
    (e0 : execQueueDelete c s0 = .next s1) : s1.inv := by
  unfold execQueueDelete at e0
  refine State.run_inv (fun d hd => ?_) h0 e0
  repeat' first
    | with_reducible assumption
    | with_reducible apply Dev.hostSubmit_inv
    | intro _
    | dsimp only

theorem execTxCancel_inv (c : HostCmd) (s0 s1 : State) (h0 : s0.inv)
    (e0 : execTxCancel c s0 = .next s1) : s1.inv := by
  unfold execTxCancel at e0
  refine State.run_inv (fun d hd => ?_) h0 e0
  repeat' first
    | with_reducible assumption
    | with_reducible apply Dev.hostSubmit_inv
    | intro _
    | dsimp only

theorem execNodeAdd_inv (c : HostCmd) (s0 s1 : State) (h0 : s0.inv)
    (e0 : execNodeAdd c s0 = .next s1) : s1.inv := by
  unfold execNodeAdd at e0
  refine State.run_inv (fun d hd => ?_) h0 e0
  repeat' first
    | with_reducible assumption
    | with_reducible apply Dev.hostSubmit_inv
    | intro _
    | dsimp only

theorem execNodeUpdate_inv (c : HostCmd) (s0 s1 : State) (h0 : s0.inv)
    (e0 : execNodeUpdate c s0 = .next s1) : s1.inv := by
  unfold execNodeUpdate at e0
  refine State.run_inv (fun d hd => ?_) h0 e0
  repeat' first
    | with_reducible assumption
    | with_reducible apply Dev.hostSubmit_inv
    | intro _
    | dsimp only

theorem execNodeRemove_inv (c : HostCmd) (s0 s1 : State) (h0 : s0.inv)
    (e0 : execNodeRemove c s0 = .next s1) : s1.inv := by
  unfold execNodeRemove at e0
  refine State.run_inv (fun d hd => ?_) h0 e0
  repeat' first
    | with_reducible assumption
    | with_reducible apply Dev.hostSubmit_inv
    | intro _
    | dsimp only

theorem execNodeRead_inv (c : HostCmd) (s0 s1 : State) (h0 : s0.inv)
    (e0 : execNodeRead c s0 = .next s1) : s1.inv := by
  unfold execNodeRead at e0
  refine State.run_inv (fun d hd => ?_) h0 e0
  repeat' first
    | with_reducible assumption
    | with_reducible apply Dev.hostSubmit_inv
    | intro _
    | dsimp only

theorem execRouteSet_inv (c : HostCmd) (s0 s1 : State) (h0 : s0.inv)
    (e0 : execRouteSet c s0 = .next s1) : s1.inv := by
  unfold execRouteSet at e0
  refine State.run_inv (fun d hd => ?_) h0 e0
  repeat' first
    | with_reducible assumption
    | with_reducible apply Dev.hostSubmit_inv
    | intro _
    | dsimp only

theorem execRouteDel_inv (c : HostCmd) (s0 s1 : State) (h0 : s0.inv)
    (e0 : execRouteDel c s0 = .next s1) : s1.inv := by
  unfold execRouteDel at e0
  refine State.run_inv (fun d hd => ?_) h0 e0
  repeat' first
    | with_reducible assumption
    | with_reducible apply Dev.hostSubmit_inv
    | intro _
    | dsimp only

theorem execSnapshot_inv (c : HostCmd) (s0 s1 : State) (h0 : s0.inv)
    (e0 : execSnapshot c s0 = .next s1) : s1.inv := by
  unfold execSnapshot at e0
  refine State.run_inv (fun d hd => ?_) h0 e0
  repeat' first
    | with_reducible assumption
    | with_reducible apply Dev.hostSubmit_inv
    | intro _
    | dsimp only

theorem execRestoreStream_inv (c : HostCmd) (s0 s1 : State) (h0 : s0.inv)
    (e0 : execRestoreStream c s0 = .next s1) : s1.inv := by
  unfold execRestoreStream at e0
  refine State.run_inv (fun d hd => ?_) h0 e0
  repeat' first
    | with_reducible assumption
    | with_reducible apply Dev.hostSubmit_inv
    | intro _
    | dsimp only

theorem execFedRecordPut_inv (c : HostCmd) (s0 s1 : State) (h0 : s0.inv)
    (e0 : execFedRecordPut c s0 = .next s1) : s1.inv := by
  unfold execFedRecordPut at e0
  refine State.run_inv (fun d hd => ?_) h0 e0
  repeat' first
    | with_reducible assumption
    | with_reducible apply Dev.hostSubmit_inv
    | intro _
    | dsimp only

theorem execFedRecordDel_inv (c : HostCmd) (s0 s1 : State) (h0 : s0.inv)
    (e0 : execFedRecordDel c s0 = .next s1) : s1.inv := by
  unfold execFedRecordDel at e0
  refine State.run_inv (fun d hd => ?_) h0 e0
  repeat' first
    | with_reducible assumption
    | with_reducible apply Dev.hostSubmit_inv
    | intro _
    | dsimp only

theorem execFedPropose_inv (c : HostCmd) (s0 s1 : State) (h0 : s0.inv)
    (e0 : execFedPropose c s0 = .next s1) : s1.inv := by
  unfold execFedPropose at e0
  refine State.run_inv (fun d hd => ?_) h0 e0
  repeat' first
    | with_reducible assumption
    | with_reducible apply Dev.hostSubmit_inv
    | intro _
    | dsimp only

theorem execFedMemberRead_inv (c : HostCmd) (s0 s1 : State) (h0 : s0.inv)
    (e0 : execFedMemberRead c s0 = .next s1) : s1.inv := by
  unfold execFedMemberRead at e0
  refine State.run_inv (fun d hd => ?_) h0 e0
  repeat' first
    | with_reducible assumption
    | with_reducible apply Dev.hostSubmit_inv
    | intro _
    | dsimp only

theorem execFedMigrate_inv (c : HostCmd) (s0 s1 : State) (h0 : s0.inv)
    (e0 : execFedMigrate c s0 = .next s1) : s1.inv := by
  unfold execFedMigrate at e0
  refine State.run_inv (fun d hd => ?_) h0 e0
  repeat' first
    | with_reducible assumption
    | with_reducible apply Dev.hostSubmit_inv
    | intro _
    | dsimp only

theorem execRegProg_inv (c : HostCmd) (s0 s1 : State) (h0 : s0.inv)
    (e0 : execRegProg c s0 = .next s1) : s1.inv := by
  unfold execRegProg at e0
  refine State.run_inv (fun d hd => ?_) h0 e0
  repeat' first
    | with_reducible assumption
    | with_reducible apply Dev.hostSubmit_inv
    | intro _
    | dsimp only

theorem execSecureRead_inv (c : HostCmd) (s0 s1 : State) (h0 : s0.inv)
    (e0 : execSecureRead c s0 = .next s1) : s1.inv := by
  unfold execSecureRead at e0
  refine State.run_inv (fun d hd => ?_) h0 e0
  repeat' first
    | with_reducible assumption
    | with_reducible apply Dev.hostSubmit_inv
    | intro _
    | dsimp only

theorem execKeyLoad_inv (c : HostCmd) (s0 s1 : State) (h0 : s0.inv)
    (e0 : execKeyLoad c s0 = .next s1) : s1.inv := by
  unfold execKeyLoad at e0
  refine State.run_inv (fun d hd => ?_) h0 e0
  repeat' first
    | with_reducible assumption
    | with_reducible apply Dev.hostSubmit_inv
    | intro _
    | dsimp only

theorem execKeyClear_inv (c : HostCmd) (s0 s1 : State) (h0 : s0.inv)
    (e0 : execKeyClear c s0 = .next s1) : s1.inv := by
  unfold execKeyClear at e0
  refine State.run_inv (fun d hd => ?_) h0 e0
  repeat' first
    | with_reducible assumption
    | with_reducible apply Dev.hostSubmit_inv
    | intro _
    | dsimp only

theorem execKeyWrap_inv (c : HostCmd) (s0 s1 : State) (h0 : s0.inv)
    (e0 : execKeyWrap c s0 = .next s1) : s1.inv := by
  unfold execKeyWrap at e0
  refine State.run_inv (fun d hd => ?_) h0 e0
  repeat' first
    | with_reducible assumption
    | with_reducible apply Dev.hostSubmit_inv
    | intro _
    | dsimp only

theorem execBlobPut_inv (c : HostCmd) (s0 s1 : State) (h0 : s0.inv)
    (e0 : execBlobPut c s0 = .next s1) : s1.inv := by
  unfold execBlobPut at e0
  refine State.run_inv (fun d hd => ?_) h0 e0
  repeat' first
    | with_reducible assumption
    | with_reducible apply Dev.hostSubmit_inv
    | intro _
    | dsimp only

theorem execKeyAttrRead_inv (c : HostCmd) (s0 s1 : State) (h0 : s0.inv)
    (e0 : execKeyAttrRead c s0 = .next s1) : s1.inv := by
  unfold execKeyAttrRead at e0
  refine State.run_inv (fun d hd => ?_) h0 e0
  repeat' first
    | with_reducible assumption
    | with_reducible apply Dev.hostSubmit_inv
    | intro _
    | dsimp only

theorem execLcStatus_inv (c : HostCmd) (s0 s1 : State) (h0 : s0.inv)
    (e0 : execLcStatus c s0 = .next s1) : s1.inv := by
  unfold execLcStatus at e0
  refine State.run_inv (fun d hd => ?_) h0 e0
  repeat' first
    | with_reducible assumption
    | with_reducible apply Dev.hostSubmit_inv
    | intro _
    | dsimp only

theorem execLcTransition_inv (c : HostCmd) (s0 s1 : State) (h0 : s0.inv)
    (e0 : execLcTransition c s0 = .next s1) : s1.inv := by
  unfold execLcTransition at e0
  refine State.run_inv (fun d hd => ?_) h0 e0
  repeat' first
    | with_reducible assumption
    | with_reducible apply Dev.hostSubmit_inv
    | intro _
    | dsimp only

theorem execApplicationCommand_inv (op : Nat) (opened : Bool) (c : HostCmd) (s0 s1 : State) (h0 : s0.inv)
    (e0 : execApplicationCommand op opened c s0 = .next s1) : s1.inv := by
  unfold execApplicationCommand at e0
  refine State.run_inv (fun d hd => ?_) h0 e0
  repeat' first
    | with_reducible assumption
    | with_reducible apply Dev.hostSubmit_inv
    | intro _
    | simp only [keep_mk]
    | dsimp only

theorem execCommandWakeDone_inv (id : Nat) (s0 s1 : State) (h0 : s0.inv)
    (e0 : execCommandWakeDone id s0 = .next s1) : s1.inv := by
  unfold execCommandWakeDone at e0
  refine State.run_inv (fun d hd => ?_) h0 e0
  repeat' first
    | with_reducible assumption
    | with_reducible apply keep_ite
    | with_reducible apply keep_ite1
    | with_reducible apply Dev.setCmd_inv
    | with_reducible apply Dev.pump_inv
    | (intro x; refine keep_have x ?_ ?_ <;> first | (show x.inv; unfold x) | (intro _; clear_value x))
    | (intro x; refine keep_have1 x ?_ ?_ <;> first | (show x.1.inv; unfold x) | (intro _; clear_value x))
    | (intro x; clear_value x)
    | intro _
    | lift_lets
    | simp only [keep_mk]
    | split
    | dsimp only

theorem execCommandWakeTimeout_inv (id : Nat) (s0 s1 : State) (h0 : s0.inv)
    (e0 : execCommandWakeTimeout id s0 = .next s1) : s1.inv := by
  unfold execCommandWakeTimeout at e0
  refine State.run_inv (fun d hd => ?_) h0 e0
  repeat' first
    | with_reducible assumption
    | with_reducible apply keep_ite
    | with_reducible apply keep_ite1
    | with_reducible apply Dev.done_inv
    | with_reducible apply Dev.domainOff_inv
    | with_reducible apply Dev.pump_inv
    | (intro x; refine keep_have x ?_ ?_ <;> first | (show x.inv; unfold x) | (intro _; clear_value x))
    | (intro x; refine keep_have1 x ?_ ?_ <;> first | (show x.1.inv; unfold x) | (intro _; clear_value x))
    | (intro x; clear_value x)
    | intro _
    | lift_lets
    | simp only [keep_mk]
    | split
    | dsimp only

theorem execFirmwareInterimCompletion_inv (id : Nat) (s0 s1 : State) (h0 : s0.inv)
    (e0 : execFirmwareInterimCompletion id s0 = .next s1) : s1.inv := by
  unfold execFirmwareInterimCompletion at e0
  refine State.run_inv (fun d hd => ?_) h0 e0
  repeat' first
    | with_reducible assumption
    | with_reducible apply keep_ite
    | with_reducible apply keep_ite1
    | with_reducible apply Dev.setCmd_inv
    | with_reducible apply Dev.cqPost_inv
    | (intro x; refine keep_have x ?_ ?_ <;> first | (show x.inv; unfold x) | (intro _; clear_value x))
    | (intro x; refine keep_have1 x ?_ ?_ <;> first | (show x.1.inv; unfold x) | (intro _; clear_value x))
    | (intro x; clear_value x)
    | intro _
    | lift_lets
    | simp only [keep_mk]
    | split
    | dsimp only

theorem execMsiXPendingSend_inv  (s0 s1 : State) (h0 : s0.inv)
    (e0 : execMsiXPendingSend s0 = .next s1) : s1.inv := by
  unfold execMsiXPendingSend at e0
  refine State.run_inv (fun d hd => ?_) h0 e0
  repeat' first
    | with_reducible assumption
    | with_reducible apply Dev.msixFlush_inv
    | intro _
    | dsimp only

theorem execDmaFault_inv (q : Nat) (s0 s1 : State) (h0 : s0.inv)
    (e0 : execDmaFault q s0 = .next s1) : s1.inv := by
  unfold execDmaFault at e0
  refine State.run_inv (fun d hd => ?_) h0 e0
  repeat' first
    | with_reducible assumption
    | with_reducible apply Dev.dmaFault_inv
    | intro _
    | dsimp only

theorem execRouteDelIndexCleared_inv (r : Nat) (s0 s1 : State) (h0 : s0.inv)
    (e0 : execRouteDelIndexCleared r s0 = .next s1) : s1.inv := by
  unfold execRouteDelIndexCleared at e0
  refine State.run_inv (fun d hd => ?_) h0 e0
  repeat' first
    | with_reducible assumption
    | with_reducible apply Dev.dropKeys_inv
    | with_reducible apply Dev.finishId_inv
    | with_reducible apply Dev.pump_inv
    | (intro x; refine keep_have x ?_ ?_ <;> first | (show x.inv; unfold x) | (intro _; clear_value x))
    | (intro x; refine keep_have1 x ?_ ?_ <;> first | (show x.1.inv; unfold x) | (intro _; clear_value x))
    | (intro x; clear_value x)
    | intro _
    | lift_lets
    | simp only [keep_mk]
    | split
    | dsimp only

theorem execKeyOperationDone_inv  (s0 s1 : State) (h0 : s0.inv)
    (e0 : execKeyOperationDone s0 = .next s1) : s1.inv := by
  unfold execKeyOperationDone at e0
  refine State.run_inv (fun d hd => ?_) h0 e0
  repeat' first
    | with_reducible assumption
    | with_reducible apply keyOperationDone_inv
    | with_reducible apply Dev.pump_inv
    | intro _
    | dsimp only

theorem execLcTransitionStep_inv  (s0 s1 : State) (h0 : s0.inv)
    (e0 : execLcTransitionStep s0 = .next s1) : s1.inv := by
  unfold execLcTransitionStep at e0
  refine State.run_inv (fun d hd => ?_) h0 e0
  repeat' first
    | with_reducible assumption
    | with_reducible apply lcTransitionStep_inv
    | with_reducible apply Dev.pump_inv
    | intro _
    | dsimp only

theorem execOtpBitProgrammed_inv (u : OtpUser) (s0 s1 : State) (h0 : s0.inv)
    (e0 : execOtpBitProgrammed u s0 = .next s1) : s1.inv := by
  unfold execOtpBitProgrammed at e0
  refine State.run_inv (fun d hd => ?_) h0 e0
  repeat' first
    | with_reducible assumption
    | with_reducible apply otpBitProgrammed_inv
    | with_reducible apply Dev.pump_inv
    | intro _
    | dsimp only

theorem execRegisterWrite_inv (who : Initiator) (a : Nat) (w : Word) (s0 s1 : State) (h0 : s0.inv)
    (e0 : execRegisterWrite who a w s0 = .next s1) : s1.inv := by
  unfold execRegisterWrite at e0
  refine State.run_inv (fun d hd => ?_) h0 e0
  repeat' first
    | with_reducible assumption
    | with_reducible apply keep_ite
    | with_reducible apply Dev.accessWrite_inv
    | intro _
    | split
    | dsimp only

theorem execRcFieldRead_inv (who : Initiator) (a : Nat) (s0 s1 : State) (h0 : s0.inv)
    (e0 : execRcFieldRead who a s0 = .next s1) : s1.inv := by
  unfold execRcFieldRead at e0
  refine State.run_inv (fun d hd => ?_) h0 e0
  repeat' first
    | with_reducible assumption
    | with_reducible apply keep_ite
    | with_reducible apply Dev.accessRead_inv
    | intro _
    | split
    | dsimp only

theorem execLoWordRead_inv (who : Initiator) (a : Nat) (s0 s1 : State) (h0 : s0.inv)
    (e0 : execLoWordRead who a s0 = .next s1) : s1.inv := by
  unfold execLoWordRead at e0
  refine State.run_inv (fun d hd => ?_) h0 e0
  repeat' first
    | with_reducible assumption
    | with_reducible apply keep_ite
    | with_reducible apply Dev.accessRead_inv
    | intro _
    | split
    | dsimp only

theorem execHostBarAccess_inv (bar2 : Bool) (off : Nat) (data : Option Word) (fails : Nat) (s0 s1 : State) (h0 : s0.inv)
    (e0 : execHostBarAccess bar2 off data fails s0 = .next s1) : s1.inv := by
  unfold execHostBarAccess at e0
  refine State.run_inv (fun d hd => ?_) h0 e0
  repeat' first
    | with_reducible assumption
    | with_reducible apply keep_ite
    | with_reducible apply keep_ite1
    | with_reducible apply keep_ite2
    | with_reducible apply Dev.bar2Write_inv
    | with_reducible apply Dev.bar0WriteVia_inv
    | with_reducible apply Dev.pump_inv
    | with_reducible apply Dev.bar2Read_inv
    | with_reducible apply Dev.bar0ReadVia_inv
    | with_reducible apply Dev.emit_inv
    | (intro x; refine keep_have x ?_ ?_ <;> first | (show x.inv; unfold x) | (intro _; clear_value x))
    | (intro x; refine keep_have1 x ?_ ?_ <;> first | (show x.1.inv; unfold x) | (intro _; clear_value x))
    | (intro x; refine keep_have2 x ?_ ?_ <;> first | (show x.2.inv; unfold x) | (intro _; clear_value x))
    | (intro x; clear_value x)
    | intro _
    | lift_lets
    | simp only [keep_mk]
    | split
    | dsimp only

theorem execCspsWrite_inv (f : CspsFrame) (s0 s1 : State) (h0 : s0.inv)
    (e0 : execCspsWrite f s0 = .next s1) : s1.inv := by
  unfold execCspsWrite at e0
  refine State.run_inv (fun d hd => ?_) h0 e0
  repeat' first
    | with_reducible assumption
    | with_reducible apply Dev.cspsFrame_inv
    | with_reducible apply Dev.pump_inv
    | intro _
    | dsimp only

theorem execCspsRead_inv (f : CspsFrame) (s0 s1 : State) (h0 : s0.inv)
    (e0 : execCspsRead f s0 = .next s1) : s1.inv := by
  unfold execCspsRead at e0
  refine State.run_inv (fun d hd => ?_) h0 e0
  repeat' first
    | with_reducible assumption
    | with_reducible apply Dev.cspsFrame_inv
    | with_reducible apply Dev.pump_inv
    | intro _
    | dsimp only

theorem execFstat_inv (f : CspsFrame) (s0 s1 : State) (h0 : s0.inv)
    (e0 : execFstat f s0 = .next s1) : s1.inv := by
  unfold execFstat at e0
  refine State.run_inv (fun d hd => ?_) h0 e0
  repeat' first
    | with_reducible assumption
    | with_reducible apply Dev.cspsFrame_inv
    | with_reducible apply Dev.pump_inv
    | intro _
    | dsimp only

theorem execCspsCommitDone_inv  (s0 s1 : State) (h0 : s0.inv)
    (e0 : execCspsCommitDone s0 = .next s1) : s1.inv := by
  unfold execCspsCommitDone at e0
  refine State.run_inv (fun d hd => ?_) h0 e0
  repeat' first
    | with_reducible assumption
    | with_reducible apply Dev.cspsCommit_inv
    | with_reducible apply Dev.pump_inv
    | intro _
    | dsimp only

theorem execBundle_inv (n : Nat) (r : BundleRun) (s0 s1 : State) (h0 : s0.inv)
    (e0 : execBundle n r s0 = .next s1) : s1.inv := by
  unfold execBundle at e0
  refine State.run_inv (fun d hd => ?_) h0 e0
  repeat' first
    | with_reducible assumption
    | with_reducible apply bundle_inv
    | intro _
    | dsimp only

theorem execInterruptTaken_inv (n : Nat) (s0 s1 : State) (h0 : s0.inv)
    (e0 : execInterruptTaken n s0 = .next s1) : s1.inv := by
  unfold execInterruptTaken at e0
  refine State.run_inv (fun d hd => ?_) h0 e0
  repeat' first
    | with_reducible assumption
    | with_reducible apply interruptTaken_inv
    | intro _
    | dsimp only

theorem execWaitEnd_inv (n : Nat) (s0 s1 : State) (h0 : s0.inv)
    (e0 : execWaitEnd n s0 = .next s1) : s1.inv := by
  unfold execWaitEnd at e0
  refine State.run_inv (fun d hd => ?_) h0 e0
  repeat' first
    | with_reducible assumption
    | with_reducible apply waitEnd_inv
    | intro _
    | dsimp only

theorem execAliasAccessComplete_inv (n : Nat) (r : BundleRun) (s0 s1 : State) (h0 : s0.inv)
    (e0 : execAliasAccessComplete n r s0 = .next s1) : s1.inv := by
  unfold execAliasAccessComplete at e0
  refine State.run_inv (fun d hd => ?_) h0 e0
  repeat' first
    | with_reducible assumption
    | with_reducible apply aliasAccessComplete_inv
    | intro _
    | dsimp only

end Sys2Proof.Machine
end

