-- ==== Sys2Proof/Laws/Memory.lean ====
section
/-! SUPPORT. The laws of memory: what a store of bytes, of a little-endian number and of a context field leaves in each
byte and in each bit. -/

namespace Sys2Proof.Machine

open Sys2Proof

theorem Dev.setByte_memWf (d : Dev) (a : Nat) (b : Byte) (h : Memory.wf d.mem = true) :
    Memory.wf (d.setByte a b).mem = true := by
  unfold Memory.wf Dev.setByte spWrite at *
  dsimp only
  split
  · exact spWf_del h
  · exact spWf_put (Nat.zero_le _) (by assumption) h

theorem Dev.setBytes_memWf (d : Dev) (a : Nat) (bs : List Byte) (h : Memory.wf d.mem = true) :
    Memory.wf (d.setBytes a bs).mem = true := by
  induction bs generalizing d a with
  | nil => exact h
  | cons b bs ih => exact ih _ _ (d.setByte_memWf a b h)

theorem Dev.byte_setBytes (d : Dev) (a : Nat) (bs : List Byte) (b : Nat) (h : Memory.wf d.mem = true) :
    (d.setBytes a bs).byte b = if a ≤ b ∧ b < a + bs.length then bs.getD (b - a) 0 else d.byte b := by
  induction bs generalizing d a with
  | nil => simp [Dev.setBytes] <;> omega
  | cons x bs ih =>
    simp only [Dev.setBytes]
    rw [ih _ _ (d.setByte_memWf a x h), Dev.byte_setByte _ _ _ _ h]
    by_cases h1 : a + 1 ≤ b ∧ b < a + 1 + bs.length
    · rw [if_pos h1, if_pos (by simp only [List.length_cons]; omega), show b - a = (b - (a + 1)) + 1 by omega]; rfl
    · rw [if_neg h1]
      by_cases h2 : b = a
      · subst h2; simp
      · rw [if_neg h2, if_neg (by simp only [List.length_cons]; omega)]

theorem natLe_length (n v : Nat) : (natLe n v).length = n := by
  induction n generalizing v with
  | zero => rfl
  | succ n ih => simp [natLe, ih]

theorem natLe_bit (n v j i : Nat) (hj : j < n) (hi : i < 8) :
    ((natLe n v).getD j 0).toNat.testBit i = v.testBit (8 * j + i) := by
  induction n generalizing v j with
  | zero => omega
  | succ n ih =>
    cases j with
    | zero =>
      simp only [natLe, List.getD_cons_zero, BitVec.toNat_ofNat, Nat.testBit_mod_two_pow]
      simp [hi]
    | succ j =>
      simp only [natLe, List.getD_cons_succ]
      rw [ih _ _ (by omega), show (256 : Nat) = 2 ^ 8 from rfl, Nat.testBit_div_two_pow]
      congr 1; omega

theorem leNat_bit (bs : List Byte) (k : Nat) :
    (leNat bs).testBit k = (bs.getD (k / 8) 0).toNat.testBit (k % 8) := by
  induction bs generalizing k with
  | nil => simp [leNat]
  | cons b bs ih =>
    have hb : b.toNat < 2 ^ 8 := b.isLt
    rw [leNat, show b.toNat + 256 * leNat bs = 2 ^ 8 * leNat bs + b.toNat by omega, Nat.testBit_two_pow_mul_add _ hb]
    by_cases h : k < 8
    · rw [if_pos h, Nat.div_eq_of_lt h, Nat.mod_eq_of_lt h]; rfl
    · rw [if_neg h, ih, show k / 8 = (k - 8) / 8 + 1 by omega, show (k - 8) % 8 = k % 8 by omega]; rfl

theorem Dev.bytes_getD (d : Dev) (a n j : Nat) (h : j < n) : (d.bytes a n).getD j 0 = d.byte (a + j) := by
  induction n generalizing a j with
  | zero => omega
  | succ n ih =>
    cases j with
    | zero => rfl
    | succ j =>
      simp only [Dev.bytes, List.getD_cons_succ]
      rw [ih _ _ (by omega)]; congr 1; omega

theorem Dev.bytes_length (d : Dev) (a n : Nat) : (d.bytes a n).length = n := by
  induction n generalizing a with
  | zero => rfl
  | succ n ih => simp [Dev.bytes, ih]

/-- Bit `k` of a little-endian number in memory. -/
theorem Dev.le_bit (d : Dev) (a n k : Nat) :
    (d.le a n).testBit k = (decide (k < 8 * n) && (d.byte (a + k / 8)).toNat.testBit (k % 8)) := by
  unfold Dev.le
  rw [leNat_bit]
  by_cases h : k < 8 * n
  · rw [Dev.bytes_getD _ _ _ _ (by omega)]; simp [h]
  · have : (d.bytes a n)[k / 8]? = none := List.getElem?_eq_none (by rw [Dev.bytes_length]; omega)
    simp [h, List.getD_eq_getElem?_getD, this]

/-- Bit `k` of the byte at `b` after a store of a little-endian number. -/
theorem Dev.byte_setLe_bit (d : Dev) (a n v b k : Nat) (h : Memory.wf d.mem = true) (hk : k < 8) :
    ((d.setLe a n v).byte b).toNat.testBit k =
      if a ≤ b ∧ b < a + n then v.testBit (8 * (b - a) + k) else (d.byte b).toNat.testBit k := by
  unfold Dev.setLe
  rw [Dev.byte_setBytes _ _ _ _ h, natLe_length]
  split
  · exact natLe_bit _ _ _ _ (by omega) hk
  · rfl

/-- A number stored is the number read. -/
theorem Dev.le_setLe (d : Dev) (a n v : Nat) (h : Memory.wf d.mem = true) : (d.setLe a n v).le a n = v % 2 ^ (8 * n) := by
  apply Nat.eq_of_testBit_eq
  intro i
  rw [Dev.le_bit, Dev.byte_setLe_bit _ _ _ _ _ _ h (by omega), Nat.testBit_mod_two_pow]
  by_cases hi : i < 8 * n
  · rw [if_pos (by omega), show 8 * (a + i / 8 - a) + i % 8 = i by omega]
  · simp [hi]

/-- A store of a number leaves the bytes outside it alone. -/
theorem Dev.byte_setLe_other (d : Dev) (a n v b : Nat) (h : Memory.wf d.mem = true) (hb : b < a ∨ a + n ≤ b) :
    (d.setLe a n v).byte b = d.byte b := by
  unfold Dev.setLe
  rw [Dev.byte_setBytes _ _ _ _ h, natLe_length, if_neg (by omega)]

theorem Dev.setLe_memWf (d : Dev) (a n v : Nat) (h : Memory.wf d.mem = true) : Memory.wf (d.setLe a n v).mem = true :=
  d.setBytes_memWf a _ h

theorem bitsOf_bit (x hi lo i : Nat) : (bitsOf x hi lo).testBit i = (decide (i < hi + 1 - lo) && x.testBit (lo + i)) := by
  unfold bitsOf
  rw [Nat.testBit_mod_two_pow, Nat.testBit_shiftRight]

theorem putField_bit (old lo n v i : Nat) (hn : 0 < n) :
    (putField old lo n v).testBit i = if lo ≤ i ∧ i < lo + n then v.testBit (i - lo) else old.testBit i := by
  have hm : bitsOf old (lo + n - 1) lo = old / 2 ^ lo % 2 ^ n := by
    unfold bitsOf; rw [Nat.shiftRight_eq_div_pow, show lo + n - 1 + 1 - lo = n by omega]
  have e1 : old / 2 ^ lo = 2 ^ n * (old / 2 ^ lo / 2 ^ n) + old / 2 ^ lo % 2 ^ n := (Nat.div_add_mod _ _).symm
  have e2 : old = 2 ^ lo * (old / 2 ^ lo) + old % 2 ^ lo := (Nat.div_add_mod _ _).symm
  have e3 : old % 2 ^ lo < 2 ^ lo := Nat.mod_lt _ (Nat.two_pow_pos _)
  have e4 : v % 2 ^ n < 2 ^ n := Nat.mod_lt _ (Nat.two_pow_pos _)
  have e5 : putField old lo n v = 2 ^ lo * (2 ^ n * (old / 2 ^ lo / 2 ^ n) + v % 2 ^ n) + old % 2 ^ lo := by
    unfold putField
    rw [hm, Nat.shiftLeft_eq, Nat.shiftLeft_eq]
    conv => lhs; lhs; lhs; rw [e2, e1]
    simp only [Nat.mul_add, Nat.mul_comm _ (2 ^ lo)]
    omega
  rw [e5, Nat.testBit_two_pow_mul_add _ e3]
  by_cases h1 : i < lo
  · rw [if_pos h1, if_neg (by omega), Nat.testBit_mod_two_pow]; simp [h1]
  · rw [if_neg h1, Nat.testBit_two_pow_mul_add _ e4]
    by_cases h2 : i - lo < n
    · rw [if_pos h2, if_pos (by omega), Nat.testBit_mod_two_pow]; simp [h2]
    · rw [if_neg h2, if_neg (by omega), Nat.testBit_div_two_pow, Nat.testBit_div_two_pow]; congr 1; omega

/-- A byte of memory by address and bit. -/
theorem Dev.byte_setCx_bit (d : Dev) (s : Nat) (f : CtxField) (v b k : Nat) (h : Memory.wf d.mem = true) (hk : k < 8) (hn : 0 < f.n) :
    ((d.setCx s f v).byte b).toNat.testBit k =
      if 8 * (ctxAddr s + f.off) + f.lo ≤ 8 * b + k ∧ 8 * b + k < 8 * (ctxAddr s + f.off) + f.lo + f.n then
        v.testBit (8 * b + k - (8 * (ctxAddr s + f.off) + f.lo)) else (d.byte b).toNat.testBit k := by
  unfold Dev.setCx
  rw [Dev.byte_setLe_bit _ _ _ _ _ _ h hk, putField_bit _ _ _ _ _ hn]
  generalize hA : ctxAddr s + f.off = A
  have hl : f.len = (f.lo + f.n + 7) / 8 := rfl
  by_cases h1 : A ≤ b ∧ b < A + f.len
  · rw [if_pos h1]
    by_cases h2 : 8 * A + f.lo ≤ 8 * b + k ∧ 8 * b + k < 8 * A + f.lo + f.n
    · rw [if_pos h2, if_pos (by omega)]; congr 1; omega
    · rw [if_neg h2, if_neg (by omega), Dev.le_bit, show A + (8 * (b - A) + k) / 8 = b by omega,
        show (8 * (b - A) + k) % 8 = k by omega]
      simp; omega
  · rw [if_neg h1, if_neg (by omega)]

/-- Bit `i` of a context field. -/
theorem Dev.cx_bit (d : Dev) (s : Nat) (f : CtxField) (i : Nat) (hn : 0 < f.n) :
    (d.cx s f).testBit i = (decide (i < f.n) &&
      (d.byte ((8 * (ctxAddr s + f.off) + f.lo + i) / 8)).toNat.testBit ((f.lo + i) % 8)) := by
  unfold Dev.cx
  rw [bitsOf_bit, Dev.le_bit, show f.lo + f.n - 1 + 1 - f.lo = f.n by omega]
  by_cases h : i < f.n
  · have hl : f.len = (f.lo + f.n + 7) / 8 := rfl
    rw [show (8 * (ctxAddr s + f.off) + f.lo + i) / 8 = ctxAddr s + f.off + (f.lo + i) / 8 by omega]
    simp [h]; intro _; omega
  · simp [h]

theorem Dev.cx_setCx (d : Dev) (s : Nat) (f : CtxField) (v : Nat) (h : Memory.wf d.mem = true) (hn : 0 < f.n) :
    (d.setCx s f v).cx s f = v % 2 ^ f.n := by
  apply Nat.eq_of_testBit_eq
  intro i
  rw [Dev.cx_bit _ _ _ _ hn, Dev.byte_setCx_bit _ _ _ _ _ _ h (by omega) hn, Nat.testBit_mod_two_pow]
  by_cases hi : i < f.n
  · rw [if_pos (by omega)]; simp only [hi, decide_true, Bool.true_and]; congr 1; omega
  · simp [hi]

/-- A context field keeps its value when a field in other bits is written. -/
theorem Dev.cx_setCx_other (d : Dev) (s r : Nat) (f g : CtxField) (v : Nat) (h : Memory.wf d.mem = true) (hf : 0 < f.n) (hn : 0 < g.n)
    (hd : 8 * (ctxAddr s + f.off) + f.lo + f.n ≤ 8 * (ctxAddr r + g.off) + g.lo ∨
      8 * (ctxAddr r + g.off) + g.lo + g.n ≤ 8 * (ctxAddr s + f.off) + f.lo) : (d.setCx s f v).cx r g = d.cx r g := by
  apply Nat.eq_of_testBit_eq
  intro i
  rw [Dev.cx_bit _ _ _ _ hn, Dev.cx_bit _ _ _ _ hn]
  by_cases hi : i < g.n
  · rw [Dev.byte_setCx_bit _ _ _ _ _ _ h (by omega) hf, if_neg (by omega)]
  · simp [hi]

theorem Dev.setCx_memWf (d : Dev) (s : Nat) (f : CtxField) (v : Nat) (h : Memory.wf d.mem = true) :
    Memory.wf (d.setCx s f v).mem = true := d.setLe_memWf _ _ _ h

/-- Two canonical stores that read alike everywhere are one. -/
theorem spWf_ext {α : Type} [DecidableEq α] {x : α} {lo lo' : Nat} {l m : List (Nat × α)} (hl : spWf (fun _ => x) lo l = true)
    (hm : spWf (fun _ => x) lo' m = true) (h : ∀ a, (spGet a l).getD x = (spGet a m).getD x) : l = m := by
  induction l generalizing lo lo' m with
  | nil =>
    cases m with
    | nil => rfl
    | cons e m =>
      obtain ⟨j, v⟩ := e
      simp only [spWf, Bool.and_eq_true, decide_eq_true_eq] at hm
      have := h j
      simp [spGet] at this
      exact absurd this.symm hm.1.2
  | cons e l ih =>
    obtain ⟨i, u⟩ := e
    simp only [spWf, Bool.and_eq_true, decide_eq_true_eq] at hl
    cases m with
    | nil =>
      have := h i
      simp [spGet] at this
      exact absurd this hl.1.2
    | cons e m =>
      obtain ⟨j, v⟩ := e
      simp only [spWf, Bool.and_eq_true, decide_eq_true_eq] at hm
      have hij : i = j := by
        rcases Nat.lt_trichotomy i j with k | k | k
        · have := h i
          simp only [spGet, if_true, Option.getD_some] at this
          rw [if_neg (by omega), if_pos k] at this
          exact absurd this hl.1.2
        · exact k
        · have := h j
          simp only [spGet, if_true, Option.getD_some] at this
          rw [if_neg (by omega), if_pos k] at this
          exact absurd this.symm hm.1.2
      subst hij
      have huv : u = v := by have := h i; simpa [spGet] using this
      subst huv
      congr 1
      refine ih hl.2 hm.2 fun a => ?_
      have := h a
      simp only [spGet] at this
      by_cases k : i = a
      · subst k; rw [spGet_lt hl.2 (by omega), spGet_lt hm.2 (by omega)]
      · simp only [if_neg k] at this
        by_cases k2 : a < i
        · rw [spGet_lt hl.2 (by omega), spGet_lt hm.2 (by omega)]
        · simpa only [if_neg k2] using this

end Sys2Proof.Machine
end

