-- ==== Sys2Proof/Laws/Resets.lean ====
section
/-! SUPPORT. What ending the frames in transmit and cutting OTP writes short leaves as it was. -/

namespace Sys2Proof.Machine

open Sys2Proof

/-- An entry that the filter keeps reads as before; any other is gone. -/
theorem spGet_filter {α : Type} [DecidableEq α] {dflt : Nat → α} (p : Nat → Bool) {lo a : Nat} {l : List (Nat × α)}
    (h : spWf dflt lo l = true) : spGet a (l.filter fun x => p x.1) = if p a then spGet a l else none := by
  induction l generalizing lo with
  | nil => simp [spGet]
  | cons x l ih =>
    obtain ⟨j, v⟩ := x
    simp only [spWf, Bool.and_eq_true, decide_eq_true_eq] at h
    have hr := ih h.2
    simp only [List.filter]
    split
    · next hj =>
      unfold spGet
      split
      · next e => subst e; rw [if_pos hj]
      · split
        · simp
        · exact hr
    · next hj =>
      rw [hr]
      by_cases hp : p a = true
      · rw [if_pos hp, if_pos hp]
        rw [spGet]
        split
        · next e => subst e; exact absurd hp (by simpa using hj)
        · split
          · next hlt => exact spGet_lt h.2 (by omega)
          · rfl
      · rw [if_neg hp, if_neg hp]

/-- `e` differs from `d` in registers and the duty accounts only. -/
def DutyOnly (d e : Dev) : Prop := ∃ r u, e = { d with regs := r, duty := u }

theorem DutyOnly.refl (d : Dev) : DutyOnly d d := ⟨_, _, rfl⟩

theorem DutyOnly.trans {d e f : Dev} (h : DutyOnly d e) (k : DutyOnly e f) : DutyOnly d f := by
  obtain ⟨r, u, rfl⟩ := h
  obtain ⟨r2, u2, rfl⟩ := k
  exact ⟨r2, u2, rfl⟩

theorem dutyRelease_dutyOnly (d : Dev) (e : Option Nat) (sub : Bool) (c a : Nat) : DutyOnly d (d.dutyRelease e sub c a) := by
  unfold Dev.dutyRelease
  cases e with
  | none => exact ⟨_, _, rfl⟩
  | some e => exact ⟨_, _, rfl⟩

theorem dutyRegs_dutyOnly (d : Dev) (e : Nat) : DutyOnly d (d.dutyRegs e) := by
  unfold Dev.dutyRegs
  exact ⟨_, _, rfl⟩

theorem setDutyHist_dutyOnly (d : Dev) (e : Nat) (h : DutyEntry) : DutyOnly d (d.setDutyHist e h) := by
  unfold Dev.setDutyHist
  exact ⟨_, _, rfl⟩

theorem bucketCharge_dutyOnly (d : Dev) (e : Option Nat) (units : Nat) : DutyOnly d (d.bucketCharge e units) := by
  unfold Dev.bucketCharge
  cases e with
  | none => exact DutyOnly.refl d
  | some e => exact (setDutyHist_dutyOnly _ _ _).trans (dutyRegs_dutyOnly _ _)

theorem dwellCharge_dutyOnly (d : Dev) (sub : Bool) (c units : Nat) : DutyOnly d (d.dwellCharge sub c units) := by
  unfold Dev.dwellCharge
  split
  · exact DutyOnly.refl d
  · exact ⟨_, _, rfl⟩

theorem dutyChargeFrame_dutyOnly (d : Dev) (e : Option Nat) (sub : Bool) (c a us : Nat) :
    DutyOnly d (d.dutyChargeFrame e sub c a us) :=
  ((dutyRelease_dutyOnly _ _ _ _ _).trans (bucketCharge_dutyOnly _ _ _)).trans (dwellCharge_dutyOnly _ _ _ _)

theorem stopFrame_dutyOnly (d : Dev) (f : TxFrame) : DutyOnly d (d.stopFrame f) := by
  unfold Dev.stopFrame
  split
  · split
    · exact dutyChargeFrame_dutyOnly _ _ _ _ _ _
    · exact dutyRelease_dutyOnly _ _ _ _ _
  · exact DutyOnly.refl d

/-- The end of the frames in transmit touches the duty registers and accounts alone (R180, R182). -/
theorem stopFrames_dutyOnly (d : Dev) : DutyOnly d d.stopFrames := by
  unfold Dev.stopFrames
  generalize d.tx.frames = l
  induction l generalizing d with
  | nil => exact DutyOnly.refl d
  | cons f l ih => exact (stopFrame_dutyOnly d f).trans (ih _)

end Sys2Proof.Machine
end

