-- ==== Sys2Proof/Laws/Runs.lean ====
section
/-! SUPPORT. The meaning of every command is the run of one function of the device: it answers a next state, leaves the
queue as it is, and does not depend on it. -/

namespace Sys2Proof.Machine

open Sys2Proof

theorem exec_vddAonGood_run : ∃ f : Dev → Dev, ∀ s, execVddAonGood s = s.run f := by
  unfold execVddAonGood; exact ⟨_, fun _ => rfl⟩

theorem exec_powerOnReset_run : ∃ f : Dev → Dev, ∀ s, execPowerOnReset s = s.run f := by
  unfold execPowerOnReset; exact ⟨_, fun _ => rfl⟩

theorem exec_porstNRise_run {x0} : ∃ f : Dev → Dev, ∀ s, execPorstNRise x0 s = s.run f := by
  unfold execPorstNRise; exact ⟨_, fun _ => rfl⟩

theorem exec_sysrstNAssert_run : ∃ f : Dev → Dev, ∀ s, execSysrstNAssert s = s.run f := by
  unfold execSysrstNAssert; exact ⟨_, fun _ => rfl⟩

theorem exec_sysResetCtrlSys_run {x0} {x1} : ∃ f : Dev → Dev, ∀ s, execSysResetCtrlSys x0 x1 s = s.run f := by
  unfold execSysResetCtrlSys; exact ⟨_, fun _ => rfl⟩

theorem exec_sysResetCtrlCoreHold_run {x0} {x1} : ∃ f : Dev → Dev, ∀ s, execSysResetCtrlCoreHold x0 x1 s = s.run f := by
  unfold execSysResetCtrlCoreHold; exact ⟨_, fun _ => rfl⟩

theorem exec_pciExpressReset_run : ∃ f : Dev → Dev, ∀ s, execPciExpressReset s = s.run f := by
  unfold execPciExpressReset; exact ⟨_, fun _ => rfl⟩

theorem exec_railBrownOut_run {x0} : ∃ f : Dev → Dev, ∀ s, execRailBrownOut x0 s = s.run f := by
  unfold execRailBrownOut; exact ⟨_, fun _ => rfl⟩

theorem exec_nvOkFall_run : ∃ f : Dev → Dev, ∀ s, execNvOkFall s = s.run f := by
  unfold execNvOkFall; exact ⟨_, fun _ => rfl⟩

theorem exec_nvOkRise_run : ∃ f : Dev → Dev, ∀ s, execNvOkRise s = s.run f := by
  unfold execNvOkRise; exact ⟨_, fun _ => rfl⟩

theorem exec_railGood_run {x0} : ∃ f : Dev → Dev, ∀ s, execRailGood x0 s = s.run f := by
  unfold execRailGood; exact ⟨_, fun _ => rfl⟩

theorem exec_bootSupplyTimeout_run : ∃ f : Dev → Dev, ∀ s, execBootSupplyTimeout s = s.run f := by
  unfold execBootSupplyTimeout; exact ⟨_, fun _ => rfl⟩

theorem exec_bootLowSupplyRecheck_run : ∃ f : Dev → Dev, ∀ s, execBootLowSupplyRecheck s = s.run f := by
  unfold execBootLowSupplyRecheck; exact ⟨_, fun _ => rfl⟩

theorem exec_packetBufferSelfTestDone_run {x0} : ∃ f : Dev → Dev, ∀ s, execPacketBufferSelfTestDone x0 s = s.run f := by
  unfold execPacketBufferSelfTestDone; exact ⟨_, fun _ => rfl⟩

theorem exec_bootHeaderReadDone_run {x0} : ∃ f : Dev → Dev, ∀ s, execBootHeaderReadDone x0 s = s.run f := by
  unfold execBootHeaderReadDone; exact ⟨_, fun _ => rfl⟩

theorem exec_bootImageReadDone_run {x0} : ∃ f : Dev → Dev, ∀ s, execBootImageReadDone x0 s = s.run f := by
  unfold execBootImageReadDone; exact ⟨_, fun _ => rfl⟩

theorem exec_bootSectionsCopied_run : ∃ f : Dev → Dev, ∀ s, execBootSectionsCopied s = s.run f := by
  unfold execBootSectionsCopied; exact ⟨_, fun _ => rfl⟩

theorem exec_bootSelfTestDone_run {x0} : ∃ f : Dev → Dev, ∀ s, execBootSelfTestDone x0 s = s.run f := by
  unfold execBootSelfTestDone; exact ⟨_, fun _ => rfl⟩

theorem exec_bootFirmwareEntry_run : ∃ f : Dev → Dev, ∀ s, execBootFirmwareEntry s = s.run f := by
  unfold execBootFirmwareEntry; exact ⟨_, fun _ => rfl⟩

theorem exec_sysBootDoorbell_run {x0} {x1} : ∃ f : Dev → Dev, ∀ s, execSysBootDoorbell x0 x1 s = s.run f := by
  unfold execSysBootDoorbell; exact ⟨_, fun _ => rfl⟩

theorem exec_bootPeerTimeout_run : ∃ f : Dev → Dev, ∀ s, execBootPeerTimeout s = s.run f := by
  unfold execBootPeerTimeout; exact ⟨_, fun _ => rfl⟩

theorem exec_intNPulseEnd_run : ∃ f : Dev → Dev, ∀ s, execIntNPulseEnd s = s.run f := by
  unfold execIntNPulseEnd; exact ⟨_, fun _ => rfl⟩

theorem exec_startupCalibrationStageDone_run {x0} : ∃ f : Dev → Dev, ∀ s, execStartupCalibrationStageDone x0 s = s.run f := by
  unfold execStartupCalibrationStageDone; exact ⟨_, fun _ => rfl⟩

theorem exec_pwrVoteSet_run {x0} {x1} : ∃ f : Dev → Dev, ∀ s, execPwrVoteSet x0 x1 s = s.run f := by
  unfold execPwrVoteSet; exact ⟨_, fun _ => rfl⟩

theorem exec_pwrVoteClr_run {x0} {x1} : ∃ f : Dev → Dev, ∀ s, execPwrVoteClr x0 x1 s = s.run f := by
  unfold execPwrVoteClr; exact ⟨_, fun _ => rfl⟩

theorem exec_pwrVoteVnWrite_run {x0} {x1} {x2} : ∃ f : Dev → Dev, ∀ s, execPwrVoteVnWrite x0 x1 x2 s = s.run f := by
  unfold execPwrVoteVnWrite; exact ⟨_, fun _ => rfl⟩

theorem exec_domainSwitchOnStart_run {x0} : ∃ f : Dev → Dev, ∀ s, execDomainSwitchOnStart x0 s = s.run f := by
  unfold execDomainSwitchOnStart; exact ⟨_, fun _ => rfl⟩

theorem exec_domainPowerUpDone_run {x0} : ∃ f : Dev → Dev, ∀ s, execDomainPowerUpDone x0 s = s.run f := by
  unfold execDomainPowerUpDone; exact ⟨_, fun _ => rfl⟩

theorem exec_domainDrainDone_run {x0} : ∃ f : Dev → Dev, ∀ s, execDomainDrainDone x0 s = s.run f := by
  unfold execDomainDrainDone; exact ⟨_, fun _ => rfl⟩

theorem exec_domainDrainTimeout_run {x0} : ∃ f : Dev → Dev, ∀ s, execDomainDrainTimeout x0 s = s.run f := by
  unfold execDomainDrainTimeout; exact ⟨_, fun _ => rfl⟩

theorem exec_domainDrainRetry_run {x0} : ∃ f : Dev → Dev, ∀ s, execDomainDrainRetry x0 s = s.run f := by
  unfold execDomainDrainRetry; exact ⟨_, fun _ => rfl⟩

theorem exec_domainIsolationDone_run {x0} : ∃ f : Dev → Dev, ∀ s, execDomainIsolationDone x0 s = s.run f := by
  unfold execDomainIsolationDone; exact ⟨_, fun _ => rfl⟩

theorem exec_domainSwitchOffDone_run {x0} : ∃ f : Dev → Dev, ∀ s, execDomainSwitchOffDone x0 s = s.run f := by
  unfold execDomainSwitchOffDone; exact ⟨_, fun _ => rfl⟩

theorem exec_pwrPadRelease_run {x0} {x1} : ∃ f : Dev → Dev, ∀ s, execPwrPadRelease x0 x1 s = s.run f := by
  unfold execPwrPadRelease; exact ⟨_, fun _ => rfl⟩

theorem exec_clkOpCtrlWrite_run {x0} {x1} : ∃ f : Dev → Dev, ∀ s, execClkOpCtrlWrite x0 x1 s = s.run f := by
  unfold execClkOpCtrlWrite; exact ⟨_, fun _ => rfl⟩

theorem exec_opVoltageRampDone_run : ∃ f : Dev → Dev, ∀ s, execOpVoltageRampDone s = s.run f := by
  unfold execOpVoltageRampDone; exact ⟨_, fun _ => rfl⟩

theorem exec_opPllRelockDone_run : ∃ f : Dev → Dev, ∀ s, execOpPllRelockDone s = s.run f := by
  unfold execOpPllRelockDone; exact ⟨_, fun _ => rfl⟩

theorem exec_coreRailDrop_run : ∃ f : Dev → Dev, ∀ s, execCoreRailDrop s = s.run f := by
  unfold execCoreRailDrop; exact ⟨_, fun _ => rfl⟩

theorem exec_wakePin_run {x0} {x1} : ∃ f : Dev → Dev, ∀ s, execWakePin x0 x1 s = s.run f := by
  unfold execWakePin; exact ⟨_, fun _ => rfl⟩

theorem exec_pwrWakeTimeHiWrite_run {x0} : ∃ f : Dev → Dev, ∀ s, execPwrWakeTimeHiWrite x0 s = s.run f := by
  unfold execPwrWakeTimeHiWrite; exact ⟨_, fun _ => rfl⟩

theorem exec_wakeTimerCompare_run : ∃ f : Dev → Dev, ∀ s, execWakeTimerCompare s = s.run f := by
  unfold execWakeTimerCompare; exact ⟨_, fun _ => rfl⟩

theorem exec_pwrWatchCtrlWrite_run {x0} {x1} : ∃ f : Dev → Dev, ∀ s, execPwrWatchCtrlWrite x0 x1 s = s.run f := by
  unfold execPwrWatchCtrlWrite; exact ⟨_, fun _ => rfl⟩

theorem exec_watchPeriodTick_run : ∃ f : Dev → Dev, ∀ s, execWatchPeriodTick s = s.run f := by
  unfold execWatchPeriodTick; exact ⟨_, fun _ => rfl⟩

theorem exec_watchGainSettled_run : ∃ f : Dev → Dev, ∀ s, execWatchGainSettled s = s.run f := by
  unfold execWatchGainSettled; exact ⟨_, fun _ => rfl⟩

theorem exec_watchDwellEnd_run {x0} {x1} : ∃ f : Dev → Dev, ∀ s, execWatchDwellEnd x0 x1 s = s.run f := by
  unfold execWatchDwellEnd; exact ⟨_, fun _ => rfl⟩

theorem exec_watchVoteRelease_run : ∃ f : Dev → Dev, ∀ s, execWatchVoteRelease s = s.run f := by
  unfold execWatchVoteRelease; exact ⟨_, fun _ => rfl⟩

theorem exec_calibrateOneEntry_run {x0} {x1} {x2} : ∃ f : Dev → Dev, ∀ s, execCalibrateOneEntry x0 x1 x2 s = s.run f := by
  unfold execCalibrateOneEntry; exact ⟨_, fun _ => rfl⟩

theorem exec_calibrateEveryAllowedChannel_run {x0} {x1} : ∃ f : Dev → Dev, ∀ s, execCalibrateEveryAllowedChannel x0 x1 s = s.run f := by
  unfold execCalibrateEveryAllowedChannel; exact ⟨_, fun _ => rfl⟩

theorem exec_invalidateOneEntry_run {x0} {x1} {x2} : ∃ f : Dev → Dev, ∀ s, execInvalidateOneEntry x0 x1 x2 s = s.run f := by
  unfold execInvalidateOneEntry; exact ⟨_, fun _ => rfl⟩

theorem exec_invalidateEveryEntry_run {x0} : ∃ f : Dev → Dev, ∀ s, execInvalidateEveryEntry x0 s = s.run f := by
  unfold execInvalidateEveryEntry; exact ⟨_, fun _ => rfl⟩

theorem exec_runStages2To6_run {x0} : ∃ f : Dev → Dev, ∀ s, execRunStages2To6 x0 s = s.run f := by
  unfold execRunStages2To6; exact ⟨_, fun _ => rfl⟩

theorem exec_calCommandEnd_run : ∃ f : Dev → Dev, ∀ s, execCalCommandEnd s = s.run f := by
  unfold execCalCommandEnd; exact ⟨_, fun _ => rfl⟩

theorem exec_fullCalibrationLock_run {x0} {x1} {x2} : ∃ f : Dev → Dev, ∀ s, execFullCalibrationLock x0 x1 x2 s = s.run f := by
  unfold execFullCalibrationLock; exact ⟨_, fun _ => rfl⟩

theorem exec_fullCalibrationFail_run {x0} : ∃ f : Dev → Dev, ∀ s, execFullCalibrationFail x0 s = s.run f := by
  unfold execFullCalibrationFail; exact ⟨_, fun _ => rfl⟩

theorem exec_backgroundRecalibrationStart_run {x0} : ∃ f : Dev → Dev, ∀ s, execBackgroundRecalibrationStart x0 s = s.run f := by
  unfold execBackgroundRecalibrationStart; exact ⟨_, fun _ => rfl⟩

theorem exec_retune_run {x0} : ∃ f : Dev → Dev, ∀ s, execRetune x0 s = s.run f := by
  unfold execRetune; exact ⟨_, fun _ => rfl⟩

theorem exec_loLockLoss_run {x0} : ∃ f : Dev → Dev, ∀ s, execLoLockLoss x0 s = s.run f := by
  unfold execLoLockLoss; exact ⟨_, fun _ => rfl⟩

theorem exec_tempSensorUpdate_run {x0} : ∃ f : Dev → Dev, ∀ s, execTempSensorUpdate x0 s = s.run f := by
  unfold execTempSensorUpdate; exact ⟨_, fun _ => rfl⟩

theorem exec_tp3Commit_run {x0} : ∃ f : Dev → Dev, ∀ s, execTp3Commit x0 s = s.run f := by
  unfold execTp3Commit; exact ⟨_, fun _ => rfl⟩

theorem exec_txHopStart_run {x0} {x1} : ∃ f : Dev → Dev, ∀ s, execTxHopStart x0 x1 s = s.run f := by
  unfold execTxHopStart; exact ⟨_, fun _ => rfl⟩

theorem exec_txLock_run {x0} : ∃ f : Dev → Dev, ∀ s, execTxLock x0 s = s.run f := by
  unfold execTxLock; exact ⟨_, fun _ => rfl⟩

theorem exec_txLockDeadline_run {x0} : ∃ f : Dev → Dev, ∀ s, execTxLockDeadline x0 s = s.run f := by
  unfold execTxLockDeadline; exact ⟨_, fun _ => rfl⟩

theorem exec_txLeadStart_run {x0} {x1} {x2} : ∃ f : Dev → Dev, ∀ s, execTxLeadStart x0 x1 x2 s = s.run f := by
  unfold execTxLeadStart; exact ⟨_, fun _ => rfl⟩

theorem exec_txFirstChip_run {x0} : ∃ f : Dev → Dev, ∀ s, execTxFirstChip x0 s = s.run f := by
  unfold execTxFirstChip; exact ⟨_, fun _ => rfl⟩

theorem exec_txLastChip_run {x0} : ∃ f : Dev → Dev, ∀ s, execTxLastChip x0 s = s.run f := by
  unfold execTxLastChip; exact ⟨_, fun _ => rfl⟩

theorem exec_txRampDownEnd_run {x0} {x1} {x2} : ∃ f : Dev → Dev, ∀ s, execTxRampDownEnd x0 x1 x2 s = s.run f := by
  unfold execTxRampDownEnd; exact ⟨_, fun _ => rfl⟩

theorem exec_txStage6Done_run {x0} {x1} : ∃ f : Dev → Dev, ∀ s, execTxStage6Done x0 x1 s = s.run f := by
  unfold execTxStage6Done; exact ⟨_, fun _ => rfl⟩

theorem exec_coexCfgWrite_run {x0} {x1} : ∃ f : Dev → Dev, ∀ s, execCoexCfgWrite x0 x1 s = s.run f := by
  unfold execCoexCfgWrite; exact ⟨_, fun _ => rfl⟩

theorem exec_coexRoleChange_run : ∃ f : Dev → Dev, ∀ s, execCoexRoleChange s = s.run f := by
  unfold execCoexRoleChange; exact ⟨_, fun _ => rfl⟩

theorem exec_coexRequestAssert_run {x0} : ∃ f : Dev → Dev, ∀ s, execCoexRequestAssert x0 s = s.run f := by
  unfold execCoexRequestAssert; exact ⟨_, fun _ => rfl⟩

theorem exec_coexGntFall_run : ∃ f : Dev → Dev, ∀ s, execCoexGntFall s = s.run f := by
  unfold execCoexGntFall; exact ⟨_, fun _ => rfl⟩

theorem exec_coexReqEdge_run {x0} {x1} {x2} : ∃ f : Dev → Dev, ∀ s, execCoexReqEdge x0 x1 x2 s = s.run f := by
  unfold execCoexReqEdge; exact ⟨_, fun _ => rfl⟩

theorem exec_gainWindowEnd_run {x0} {x1} {x2} : ∃ f : Dev → Dev, ∀ s, execGainWindowEnd x0 x1 x2 s = s.run f := by
  unfold execGainWindowEnd; exact ⟨_, fun _ => rfl⟩

theorem exec_gainQuietIntervalEnd_run {x0} {x1} : ∃ f : Dev → Dev, ∀ s, execGainQuietIntervalEnd x0 x1 s = s.run f := by
  unfold execGainQuietIntervalEnd; exact ⟨_, fun _ => rfl⟩

theorem exec_castling_run {x0} {x1} : ∃ f : Dev → Dev, ∀ s, execCastling x0 x1 s = s.run f := by
  unfold execCastling; exact ⟨_, fun _ => rfl⟩

theorem exec_rxwGainCfgWrite_run {x0} {x1} {x2} : ∃ f : Dev → Dev, ∀ s, execRxwGainCfgWrite x0 x1 x2 s = s.run f := by
  unfold execRxwGainCfgWrite; exact ⟨_, fun _ => rfl⟩

theorem exec_preambleDetection_run {x0} : ∃ f : Dev → Dev, ∀ s, execPreambleDetection x0 s = s.run f := by
  unfold execPreambleDetection; exact ⟨_, fun _ => rfl⟩

theorem exec_laneSyncTimeout_run {x0} : ∃ f : Dev → Dev, ∀ s, execLaneSyncTimeout x0 s = s.run f := by
  unfold execLaneSyncTimeout; exact ⟨_, fun _ => rfl⟩

theorem exec_freezePoint_run {x0} {x1} : ∃ f : Dev → Dev, ∀ s, execFreezePoint x0 x1 s = s.run f := by
  unfold execFreezePoint; exact ⟨_, fun _ => rfl⟩

theorem exec_phrCheck_run {x0} {x1} {x2} : ∃ f : Dev → Dev, ∀ s, execPhrCheck x0 x1 x2 s = s.run f := by
  unfold execPhrCheck; exact ⟨_, fun _ => rfl⟩

theorem exec_laneFrameEnd_run {x0} {x1} {x2} {x3} : ∃ f : Dev → Dev, ∀ s, execLaneFrameEnd x0 x1 x2 x3 s = s.run f := by
  unfold execLaneFrameEnd; exact ⟨_, fun _ => rfl⟩

theorem exec_lanePostResume_run {x0} : ∃ f : Dev → Dev, ∀ s, execLanePostResume x0 s = s.run f := by
  unfold execLanePostResume; exact ⟨_, fun _ => rfl⟩

theorem exec_forkChannelEstimate_run {x0} {x1} : ∃ f : Dev → Dev, ∀ s, execForkChannelEstimate x0 x1 s = s.run f := by
  unfold execForkChannelEstimate; exact ⟨_, fun _ => rfl⟩

theorem exec_idleSample_run {x0} {x1} {x2} {x3} : ∃ f : Dev → Dev, ∀ s, execIdleSample x0 x1 x2 x3 s = s.run f := by
  unfold execIdleSample; exact ⟨_, fun _ => rfl⟩

theorem exec_channelConfigEffect_run {x0} : ∃ f : Dev → Dev, ∀ s, execChannelConfigEffect x0 s = s.run f := by
  unfold execChannelConfigEffect; exact ⟨_, fun _ => rfl⟩

theorem exec_subModeEffect_run : ∃ f : Dev → Dev, ∀ s, execSubModeEffect s = s.run f := by
  unfold execSubModeEffect; exact ⟨_, fun _ => rfl⟩

theorem exec_wurxTelegramMatch_run {x0} : ∃ f : Dev → Dev, ∀ s, execWurxTelegramMatch x0 s = s.run f := by
  unfold execWurxTelegramMatch; exact ⟨_, fun _ => rfl⟩

theorem exec_restore_run {x0} {x1} {x2} : ∃ f : Dev → Dev, ∀ s, execRestore x0 x1 x2 s = s.run f := by
  unfold execRestore; exact ⟨_, fun _ => rfl⟩

theorem exec_commitPulseTable_run {x0} {x1} {x2} : ∃ f : Dev → Dev, ∀ s, execCommitPulseTable x0 x1 x2 s = s.run f := by
  unfold execCommitPulseTable; exact ⟨_, fun _ => rfl⟩

theorem exec_pulseTableActivate_run {x0} {x1} : ∃ f : Dev → Dev, ∀ s, execPulseTableActivate x0 x1 s = s.run f := by
  unfold execPulseTableActivate; exact ⟨_, fun _ => rfl⟩

theorem exec_maskWindowEnd_run {x0} {x1} {x2} : ∃ f : Dev → Dev, ∀ s, execMaskWindowEnd x0 x1 x2 s = s.run f := by
  unfold execMaskWindowEnd; exact ⟨_, fun _ => rfl⟩

theorem exec_regMirrorCheck_run {x0} : ∃ f : Dev → Dev, ∀ s, execRegMirrorCheck x0 s = s.run f := by
  unfold execRegMirrorCheck; exact ⟨_, fun _ => rfl⟩

theorem exec_regMirrorReloadDone_run {x0} : ∃ f : Dev → Dev, ∀ s, execRegMirrorReloadDone x0 s = s.run f := by
  unfold execRegMirrorReloadDone; exact ⟨_, fun _ => rfl⟩

theorem exec_prog_run {x0} {x1} : ∃ f : Dev → Dev, ∀ s, execProg x0 x1 s = s.run f := by
  unfold execProg; exact ⟨_, fun _ => rfl⟩

theorem exec_sealRegion_run {x0} : ∃ f : Dev → Dev, ∀ s, execSealRegion x0 s = s.run f := by
  unfold execSealRegion; exact ⟨_, fun _ => rfl⟩

theorem exec_otpBitProgrammed_run {x0} : ∃ f : Dev → Dev, ∀ s, execOtpBitProgrammed x0 s = s.run f := by
  unfold execOtpBitProgrammed; exact ⟨_, fun _ => rfl⟩

theorem exec_regStageW1Effect_run : ∃ f : Dev → Dev, ∀ s, execRegStageW1Effect s = s.run f := by
  unfold execRegStageW1Effect; exact ⟨_, fun _ => rfl⟩

theorem exec_dutyBucketAdvance_run : ∃ f : Dev → Dev, ∀ s, execDutyBucketAdvance s = s.run f := by
  unfold execDutyBucketAdvance; exact ⟨_, fun _ => rfl⟩

theorem exec_lbtListenEnd_run {x0} {x1} : ∃ f : Dev → Dev, ∀ s, execLbtListenEnd x0 x1 s = s.run f := by
  unfold execLbtListenEnd; exact ⟨_, fun _ => rfl⟩

theorem exec_tempoWorkItem_run {x0} {x1} : ∃ f : Dev → Dev, ∀ s, execTempoWorkItem x0 x1 s = s.run f := by
  unfold execTempoWorkItem; exact ⟨_, fun _ => rfl⟩

theorem exec_verifyResult_run {x0} : ∃ f : Dev → Dev, ∀ s, execVerifyResult x0 s = s.run f := by
  unfold execVerifyResult; exact ⟨_, fun _ => rfl⟩

theorem exec_ackDeadlineMissed_run {x0} : ∃ f : Dev → Dev, ∀ s, execAckDeadlineMissed x0 s = s.run f := by
  unfold execAckDeadlineMissed; exact ⟨_, fun _ => rfl⟩

theorem exec_lockstepMismatch_run {x0} {x1} : ∃ f : Dev → Dev, ∀ s, execLockstepMismatch x0 x1 s = s.run f := by
  unfold execLockstepMismatch; exact ⟨_, fun _ => rfl⟩

theorem exec_tp4SelfTest_run {x0} : ∃ f : Dev → Dev, ∀ s, execTp4SelfTest x0 s = s.run f := by
  unfold execTp4SelfTest; exact ⟨_, fun _ => rfl⟩

theorem exec_slotOccurrence_run {x0} : ∃ f : Dev → Dev, ∀ s, execSlotOccurrence x0 s = s.run f := by
  unfold execSlotOccurrence; exact ⟨_, fun _ => rfl⟩

theorem exec_slotWindowClose_run {x0} : ∃ f : Dev → Dev, ∀ s, execSlotWindowClose x0 s = s.run f := by
  unfold execSlotWindowClose; exact ⟨_, fun _ => rfl⟩

theorem exec_tschTimeslot_run : ∃ f : Dev → Dev, ∀ s, execTschTimeslot s = s.run f := by
  unfold execTschTimeslot; exact ⟨_, fun _ => rfl⟩

theorem exec_lnkTschT0HiWrite_run {x0} {x1} : ∃ f : Dev → Dev, ∀ s, execLnkTschT0HiWrite x0 x1 s = s.run f := by
  unfold execLnkTschT0HiWrite; exact ⟨_, fun _ => rfl⟩

theorem exec_lnkTschCtrlWrite_run {x0} {x1} : ∃ f : Dev → Dev, ∀ s, execLnkTschCtrlWrite x0 x1 s = s.run f := by
  unfold execLnkTschCtrlWrite; exact ⟨_, fun _ => rfl⟩

theorem exec_ackWaitEnd_run {x0} : ∃ f : Dev → Dev, ∀ s, execAckWaitEnd x0 s = s.run f := by
  unfold execAckWaitEnd; exact ⟨_, fun _ => rfl⟩

theorem exec_retryAttempt_run {x0} : ∃ f : Dev → Dev, ∀ s, execRetryAttempt x0 s = s.run f := by
  unfold execRetryAttempt; exact ⟨_, fun _ => rfl⟩

theorem exec_windowVoteLead_run {x0} : ∃ f : Dev → Dev, ∀ s, execWindowVoteLead x0 s = s.run f := by
  unfold execWindowVoteLead; exact ⟨_, fun _ => rfl⟩

theorem exec_windowClose_run {x0} : ∃ f : Dev → Dev, ∀ s, execWindowClose x0 s = s.run f := by
  unfold execWindowClose; exact ⟨_, fun _ => rfl⟩

theorem exec_heldFrameSend_run {x0} : ∃ f : Dev → Dev, ∀ s, execHeldFrameSend x0 s = s.run f := by
  unfold execHeldFrameSend; exact ⟨_, fun _ => rfl⟩

theorem exec_checkTelegramSend_run {x0} : ∃ f : Dev → Dev, ∀ s, execCheckTelegramSend x0 s = s.run f := by
  unfold execCheckTelegramSend; exact ⟨_, fun _ => rfl⟩

theorem exec_checkWaitEnd_run {x0} : ∃ f : Dev → Dev, ∀ s, execCheckWaitEnd x0 s = s.run f := by
  unfold execCheckWaitEnd; exact ⟨_, fun _ => rfl⟩

theorem exec_nodeAdd_run {x0} : ∃ f : Dev → Dev, ∀ s, execNodeAdd x0 s = s.run f := by
  unfold execNodeAdd; exact ⟨_, fun _ => rfl⟩

theorem exec_nodeUpdate_run {x0} : ∃ f : Dev → Dev, ∀ s, execNodeUpdate x0 s = s.run f := by
  unfold execNodeUpdate; exact ⟨_, fun _ => rfl⟩

theorem exec_nodeRemove_run {x0} : ∃ f : Dev → Dev, ∀ s, execNodeRemove x0 s = s.run f := by
  unfold execNodeRemove; exact ⟨_, fun _ => rfl⟩

theorem exec_nodeRead_run {x0} : ∃ f : Dev → Dev, ∀ s, execNodeRead x0 s = s.run f := by
  unfold execNodeRead; exact ⟨_, fun _ => rfl⟩

theorem exec_routeSet_run {x0} : ∃ f : Dev → Dev, ∀ s, execRouteSet x0 s = s.run f := by
  unfold execRouteSet; exact ⟨_, fun _ => rfl⟩

theorem exec_routeDel_run {x0} : ∃ f : Dev → Dev, ∀ s, execRouteDel x0 s = s.run f := by
  unfold execRouteDel; exact ⟨_, fun _ => rfl⟩

theorem exec_routeDelIndexCleared_run {x0} : ∃ f : Dev → Dev, ∀ s, execRouteDelIndexCleared x0 s = s.run f := by
  unfold execRouteDelIndexCleared; exact ⟨_, fun _ => rfl⟩

theorem exec_snapshot_run {x0} : ∃ f : Dev → Dev, ∀ s, execSnapshot x0 s = s.run f := by
  unfold execSnapshot; exact ⟨_, fun _ => rfl⟩

theorem exec_restoreStream_run {x0} : ∃ f : Dev → Dev, ∀ s, execRestoreStream x0 s = s.run f := by
  unfold execRestoreStream; exact ⟨_, fun _ => rfl⟩

theorem exec_relayRetry_run {x0} : ∃ f : Dev → Dev, ∀ s, execRelayRetry x0 s = s.run f := by
  unfold execRelayRetry; exact ⟨_, fun _ => rfl⟩

theorem exec_adopt_run {x0} : ∃ f : Dev → Dev, ∀ s, execAdopt x0 s = s.run f := by
  unfold execAdopt; exact ⟨_, fun _ => rfl⟩

theorem exec_clear_run {x0} : ∃ f : Dev → Dev, ∀ s, execClear x0 s = s.run f := by
  unfold execClear; exact ⟨_, fun _ => rfl⟩

theorem exec_adoptDone_run : ∃ f : Dev → Dev, ∀ s, execAdoptDone s = s.run f := by
  unfold execAdoptDone; exact ⟨_, fun _ => rfl⟩

theorem exec_clearDone_run : ∃ f : Dev → Dev, ∀ s, execClearDone s = s.run f := by
  unfold execClearDone; exact ⟨_, fun _ => rfl⟩

theorem exec_buddyReplicaTimeout_run {x0} : ∃ f : Dev → Dev, ∀ s, execBuddyReplicaTimeout x0 s = s.run f := by
  unfold execBuddyReplicaTimeout; exact ⟨_, fun _ => rfl⟩

theorem exec_fedCtrlStart_run {x0} {x1} : ∃ f : Dev → Dev, ∀ s, execFedCtrlStart x0 x1 s = s.run f := by
  unfold execFedCtrlStart; exact ⟨_, fun _ => rfl⟩

theorem exec_fedCfgWrite_run {x0} {x1} : ∃ f : Dev → Dev, ∀ s, execFedCfgWrite x0 x1 s = s.run f := by
  unfold execFedCfgWrite; exact ⟨_, fun _ => rfl⟩

theorem exec_portLinkUp_run {x0} : ∃ f : Dev → Dev, ∀ s, execPortLinkUp x0 s = s.run f := by
  unfold execPortLinkUp; exact ⟨_, fun _ => rfl⟩

theorem exec_portLinkDown_run {x0} : ∃ f : Dev → Dev, ∀ s, execPortLinkDown x0 s = s.run f := by
  unfold execPortLinkDown; exact ⟨_, fun _ => rfl⟩

theorem exec_helloTimer_run : ∃ f : Dev → Dev, ∀ s, execHelloTimer s = s.run f := by
  unfold execHelloTimer; exact ⟨_, fun _ => rfl⟩

theorem exec_discoveryClose_run : ∃ f : Dev → Dev, ∀ s, execDiscoveryClose s = s.run f := by
  unfold execDiscoveryClose; exact ⟨_, fun _ => rfl⟩

theorem exec_hello_run {x0} {x1} {x2} {x3} {x4} {x5} : ∃ f : Dev → Dev, ∀ s, execHello x0 x1 x2 x3 x4 x5 s = s.run f := by
  unfold execHello; exact ⟨_, fun _ => rfl⟩

theorem exec_candidate_run {x0} {x1} {x2} {x3} : ∃ f : Dev → Dev, ∀ s, execCandidate x0 x1 x2 x3 s = s.run f := by
  unfold execCandidate; exact ⟨_, fun _ => rfl⟩

theorem exec_electionRound_run : ∃ f : Dev → Dev, ∀ s, execElectionRound s = s.run f := by
  unfold execElectionRound; exact ⟨_, fun _ => rfl⟩

theorem exec_groupReport_run {x0} {x1} {x2} {x3} {x4} {x5} : ∃ f : Dev → Dev, ∀ s, execGroupReport x0 x1 x2 x3 x4 x5 s = s.run f := by
  unfold execGroupReport; exact ⟨_, fun _ => rfl⟩

theorem exec_leader_run {x0} {x1} {x2} : ∃ f : Dev → Dev, ∀ s, execLeader x0 x1 x2 s = s.run f := by
  unfold execLeader; exact ⟨_, fun _ => rfl⟩

theorem exec_coordinatorLoss_run : ∃ f : Dev → Dev, ∀ s, execCoordinatorLoss s = s.run f := by
  unfold execCoordinatorLoss; exact ⟨_, fun _ => rfl⟩

theorem exec_leaderLoss_run : ∃ f : Dev → Dev, ∀ s, execLeaderLoss s = s.run f := by
  unfold execLeaderLoss; exact ⟨_, fun _ => rfl⟩

theorem exec_memberAbsent_run {x0} : ∃ f : Dev → Dev, ∀ s, execMemberAbsent x0 s = s.run f := by
  unfold execMemberAbsent; exact ⟨_, fun _ => rfl⟩

theorem exec_syncBurst_run : ∃ f : Dev → Dev, ∀ s, execSyncBurst s = s.run f := by
  unfold execSyncBurst; exact ⟨_, fun _ => rfl⟩

theorem exec_syncReq_run {x0} {x1} {x2} : ∃ f : Dev → Dev, ∀ s, execSyncReq x0 x1 x2 s = s.run f := by
  unfold execSyncReq; exact ⟨_, fun _ => rfl⟩

theorem exec_syncResp_run {x0} {x1} {x2} {x3} {x4} : ∃ f : Dev → Dev, ∀ s, execSyncResp x0 x1 x2 x3 x4 s = s.run f := by
  unfold execSyncResp; exact ⟨_, fun _ => rfl⟩

theorem exec_parentHoldoverTimeout_run : ∃ f : Dev → Dev, ∀ s, execParentHoldoverTimeout s = s.run f := by
  unfold execParentHoldoverTimeout; exact ⟨_, fun _ => rfl⟩

theorem exec_digestTimer_run {x0} : ∃ f : Dev → Dev, ∀ s, execDigestTimer x0 s = s.run f := by
  unfold execDigestTimer; exact ⟨_, fun _ => rfl⟩

theorem exec_digest_run {x0} {x1} {x2} {x3} {x4} : ∃ f : Dev → Dev, ∀ s, execDigest x0 x1 x2 x3 x4 s = s.run f := by
  unfold execDigest; exact ⟨_, fun _ => rfl⟩

theorem exec_recordReq_run {x0} {x1} {x2} : ∃ f : Dev → Dev, ∀ s, execRecordReq x0 x1 x2 s = s.run f := by
  unfold execRecordReq; exact ⟨_, fun _ => rfl⟩

theorem exec_manifest_run {x0} {x1} : ∃ f : Dev → Dev, ∀ s, execManifest x0 x1 s = s.run f := by
  unfold execManifest; exact ⟨_, fun _ => rfl⟩

theorem exec_record_run {x0} {x1} {x2} {x3} {x4} {x5} : ∃ f : Dev → Dev, ∀ s, execRecord x0 x1 x2 x3 x4 x5 s = s.run f := by
  unfold execRecord; exact ⟨_, fun _ => rfl⟩

theorem exec_recordReassemblyTimeout_run {x0} {x1} : ∃ f : Dev → Dev, ∀ s, execRecordReassemblyTimeout x0 x1 s = s.run f := by
  unfold execRecordReassemblyTimeout; exact ⟨_, fun _ => rfl⟩

theorem exec_propose_run {x0} {x1} {x2} {x3} : ∃ f : Dev → Dev, ∀ s, execPropose x0 x1 x2 x3 s = s.run f := by
  unfold execPropose; exact ⟨_, fun _ => rfl⟩

theorem exec_prepare_run {x0} {x1} {x2} {x3} {x4} : ∃ f : Dev → Dev, ∀ s, execPrepare x0 x1 x2 x3 x4 s = s.run f := by
  unfold execPrepare; exact ⟨_, fun _ => rfl⟩

theorem exec_prepared_run {x0} {x1} {x2} {x3} : ∃ f : Dev → Dev, ∀ s, execPrepared x0 x1 x2 x3 s = s.run f := by
  unfold execPrepared; exact ⟨_, fun _ => rfl⟩

theorem exec_prepareTimeout_run : ∃ f : Dev → Dev, ∀ s, execPrepareTimeout s = s.run f := by
  unfold execPrepareTimeout; exact ⟨_, fun _ => rfl⟩

theorem exec_commit_run {x0} {x1} {x2} {x3} : ∃ f : Dev → Dev, ∀ s, execCommit x0 x1 x2 x3 s = s.run f := by
  unfold execCommit; exact ⟨_, fun _ => rfl⟩

theorem exec_commitTime_run : ∃ f : Dev → Dev, ∀ s, execCommitTime s = s.run f := by
  unfold execCommitTime; exact ⟨_, fun _ => rfl⟩

theorem exec_abort_run {x0} {x1} {x2} : ∃ f : Dev → Dev, ∀ s, execAbort x0 x1 x2 s = s.run f := by
  unfold execAbort; exact ⟨_, fun _ => rfl⟩

theorem exec_joinTimeout_run : ∃ f : Dev → Dev, ∀ s, execJoinTimeout s = s.run f := by
  unfold execJoinTimeout; exact ⟨_, fun _ => rfl⟩

theorem exec_replicationSend_run : ∃ f : Dev → Dev, ∀ s, execReplicationSend s = s.run f := by
  unfold execReplicationSend; exact ⟨_, fun _ => rfl⟩

theorem exec_replica_run {x0} {x1} : ∃ f : Dev → Dev, ∀ s, execReplica x0 x1 s = s.run f := by
  unfold execReplica; exact ⟨_, fun _ => rfl⟩

theorem exec_replicaAck_run {x0} {x1} : ∃ f : Dev → Dev, ∀ s, execReplicaAck x0 x1 s = s.run f := by
  unfold execReplicaAck; exact ⟨_, fun _ => rfl⟩

theorem exec_replicationRetx_run : ∃ f : Dev → Dev, ∀ s, execReplicationRetx s = s.run f := by
  unfold execReplicationRetx; exact ⟨_, fun _ => rfl⟩

theorem exec_replicaReq_run {x0} {x1} {x2} : ∃ f : Dev → Dev, ∀ s, execReplicaReq x0 x1 x2 s = s.run f := by
  unfold execReplicaReq; exact ⟨_, fun _ => rfl⟩

theorem exec_migrationStart_run {x0} : ∃ f : Dev → Dev, ∀ s, execMigrationStart x0 s = s.run f := by
  unfold execMigrationStart; exact ⟨_, fun _ => rfl⟩

theorem exec_migrateOffer_run {x0} {x1} {x2} {x3} : ∃ f : Dev → Dev, ∀ s, execMigrateOffer x0 x1 x2 x3 s = s.run f := by
  unfold execMigrateOffer; exact ⟨_, fun _ => rfl⟩

theorem exec_migrateAnswer_run {x0} {x1} {x2} : ∃ f : Dev → Dev, ∀ s, execMigrateAnswer x0 x1 x2 s = s.run f := by
  unfold execMigrateAnswer; exact ⟨_, fun _ => rfl⟩

theorem exec_offerRetry_run {x0} : ∃ f : Dev → Dev, ∀ s, execOfferRetry x0 s = s.run f := by
  unfold execOfferRetry; exact ⟨_, fun _ => rfl⟩

theorem exec_migrateDone_run {x0} {x1} {x2} {x3} : ∃ f : Dev → Dev, ∀ s, execMigrateDone x0 x1 x2 x3 s = s.run f := by
  unfold execMigrateDone; exact ⟨_, fun _ => rfl⟩

theorem exec_doneRepeat_run {x0} : ∃ f : Dev → Dev, ∀ s, execDoneRepeat x0 s = s.run f := by
  unfold execDoneRepeat; exact ⟨_, fun _ => rfl⟩

theorem exec_migrateActive_run {x0} {x1} : ∃ f : Dev → Dev, ∀ s, execMigrateActive x0 x1 s = s.run f := by
  unfold execMigrateActive; exact ⟨_, fun _ => rfl⟩

theorem exec_activeTimeout_run {x0} : ∃ f : Dev → Dev, ∀ s, execActiveTimeout x0 s = s.run f := by
  unfold execActiveTimeout; exact ⟨_, fun _ => rfl⟩

theorem exec_pendingDiscard_run {x0} {x1} : ∃ f : Dev → Dev, ∀ s, execPendingDiscard x0 x1 s = s.run f := by
  unfold execPendingDiscard; exact ⟨_, fun _ => rfl⟩

theorem exec_attestChallenge_run {x0} {x1} : ∃ f : Dev → Dev, ∀ s, execAttestChallenge x0 x1 s = s.run f := by
  unfold execAttestChallenge; exact ⟨_, fun _ => rfl⟩

theorem exec_attestResponse_run {x0} {x1} {x2} {x3} {x4} {x5} : ∃ f : Dev → Dev, ∀ s, execAttestResponse x0 x1 x2 x3 x4 x5 s = s.run f := by
  unfold execAttestResponse; exact ⟨_, fun _ => rfl⟩

theorem exec_attestTimeout_run {x0} : ∃ f : Dev → Dev, ∀ s, execAttestTimeout x0 s = s.run f := by
  unfold execAttestTimeout; exact ⟨_, fun _ => rfl⟩

theorem exec_visitor_run {x0} {x1} {x2} : ∃ f : Dev → Dev, ∀ s, execVisitor x0 x1 x2 s = s.run f := by
  unfold execVisitor; exact ⟨_, fun _ => rfl⟩

theorem exec_transmit_run {x0} {x1} {x2} {x3} {x4} {x5} {x6} {x7} {x8} {x9} : ∃ f : Dev → Dev, ∀ s, execTransmit x0 x1 x2 x3 x4 x5 x6 x7 x8 x9 s = s.run f := by
  unfold execTransmit; exact ⟨_, fun _ => rfl⟩

theorem exec_redirect_run {x0} {x1} {x2} : ∃ f : Dev → Dev, ∀ s, execRedirect x0 x1 x2 s = s.run f := by
  unfold execRedirect; exact ⟨_, fun _ => rfl⟩

theorem exec_result_run {x0} {x1} {x2} {x3} : ∃ f : Dev → Dev, ∀ s, execResult x0 x1 x2 x3 s = s.run f := by
  unfold execResult; exact ⟨_, fun _ => rfl⟩

theorem exec_bootReq_run {x0} {x1} {x2} {x3} : ∃ f : Dev → Dev, ∀ s, execBootReq x0 x1 x2 x3 s = s.run f := by
  unfold execBootReq; exact ⟨_, fun _ => rfl⟩

theorem exec_bootData_run {x0} {x1} {x2} : ∃ f : Dev → Dev, ∀ s, execBootData x0 x1 x2 s = s.run f := by
  unfold execBootData; exact ⟨_, fun _ => rfl⟩

theorem exec_hciEnable_run {x0} {x1} : ∃ f : Dev → Dev, ∀ s, execHciEnable x0 x1 s = s.run f := by
  unfold execHciEnable; exact ⟨_, fun _ => rfl⟩

theorem exec_hciReset_run {x0} {x1} : ∃ f : Dev → Dev, ∀ s, execHciReset x0 x1 s = s.run f := by
  unfold execHciReset; exact ⟨_, fun _ => rfl⟩

theorem exec_fwReadyWrite_run {x0} {x1} : ∃ f : Dev → Dev, ∀ s, execFwReadyWrite x0 x1 s = s.run f := by
  unfold execFwReadyWrite; exact ⟨_, fun _ => rfl⟩

theorem exec_fwReadyTimeout_run {x0} : ∃ f : Dev → Dev, ∀ s, execFwReadyTimeout x0 s = s.run f := by
  unfold execFwReadyTimeout; exact ⟨_, fun _ => rfl⟩

theorem exec_doorbell_run {x0} {x1} {x2} : ∃ f : Dev → Dev, ∀ s, execDoorbell x0 x1 x2 s = s.run f := by
  unfold execDoorbell; exact ⟨_, fun _ => rfl⟩

theorem exec_commandWakeDone_run {x0} : ∃ f : Dev → Dev, ∀ s, execCommandWakeDone x0 s = s.run f := by
  unfold execCommandWakeDone; exact ⟨_, fun _ => rfl⟩

theorem exec_commandWakeTimeout_run {x0} : ∃ f : Dev → Dev, ∀ s, execCommandWakeTimeout x0 s = s.run f := by
  unfold execCommandWakeTimeout; exact ⟨_, fun _ => rfl⟩

theorem exec_firmwareInterimCompletion_run {x0} : ∃ f : Dev → Dev, ∀ s, execFirmwareInterimCompletion x0 s = s.run f := by
  unfold execFirmwareInterimCompletion; exact ⟨_, fun _ => rfl⟩

theorem exec_msiXPendingSend_run : ∃ f : Dev → Dev, ∀ s, execMsiXPendingSend s = s.run f := by
  unfold execMsiXPendingSend; exact ⟨_, fun _ => rfl⟩

theorem exec_dmaFault_run {x0} : ∃ f : Dev → Dev, ∀ s, execDmaFault x0 s = s.run f := by
  unfold execDmaFault; exact ⟨_, fun _ => rfl⟩

theorem exec_txFrame_run {x0} : ∃ f : Dev → Dev, ∀ s, execTxFrame x0 s = s.run f := by
  unfold execTxFrame; exact ⟨_, fun _ => rfl⟩

theorem exec_regRead_run {x0} : ∃ f : Dev → Dev, ∀ s, execRegRead x0 s = s.run f := by
  unfold execRegRead; exact ⟨_, fun _ => rfl⟩

theorem exec_regWrite_run {x0} : ∃ f : Dev → Dev, ∀ s, execRegWrite x0 s = s.run f := by
  unfold execRegWrite; exact ⟨_, fun _ => rfl⟩

theorem exec_powerVote_run {x0} : ∃ f : Dev → Dev, ∀ s, execPowerVote x0 s = s.run f := by
  unfold execPowerVote; exact ⟨_, fun _ => rfl⟩

theorem exec_helloCommand_run {x0} : ∃ f : Dev → Dev, ∀ s, execHelloCommand x0 s = s.run f := by
  unfold execHelloCommand; exact ⟨_, fun _ => rfl⟩

theorem exec_identify_run {x0} : ∃ f : Dev → Dev, ∀ s, execIdentify x0 s = s.run f := by
  unfold execIdentify; exact ⟨_, fun _ => rfl⟩

theorem exec_queueCreate_run {x0} : ∃ f : Dev → Dev, ∀ s, execQueueCreate x0 s = s.run f := by
  unfold execQueueCreate; exact ⟨_, fun _ => rfl⟩

theorem exec_queueDelete_run {x0} : ∃ f : Dev → Dev, ∀ s, execQueueDelete x0 s = s.run f := by
  unfold execQueueDelete; exact ⟨_, fun _ => rfl⟩

theorem exec_txCancel_run {x0} : ∃ f : Dev → Dev, ∀ s, execTxCancel x0 s = s.run f := by
  unfold execTxCancel; exact ⟨_, fun _ => rfl⟩

theorem exec_fedRecordPut_run {x0} : ∃ f : Dev → Dev, ∀ s, execFedRecordPut x0 s = s.run f := by
  unfold execFedRecordPut; exact ⟨_, fun _ => rfl⟩

theorem exec_fedRecordDel_run {x0} : ∃ f : Dev → Dev, ∀ s, execFedRecordDel x0 s = s.run f := by
  unfold execFedRecordDel; exact ⟨_, fun _ => rfl⟩

theorem exec_fedPropose_run {x0} : ∃ f : Dev → Dev, ∀ s, execFedPropose x0 s = s.run f := by
  unfold execFedPropose; exact ⟨_, fun _ => rfl⟩

theorem exec_fedMemberRead_run {x0} : ∃ f : Dev → Dev, ∀ s, execFedMemberRead x0 s = s.run f := by
  unfold execFedMemberRead; exact ⟨_, fun _ => rfl⟩

theorem exec_fedMigrate_run {x0} : ∃ f : Dev → Dev, ∀ s, execFedMigrate x0 s = s.run f := by
  unfold execFedMigrate; exact ⟨_, fun _ => rfl⟩

theorem exec_regProg_run {x0} : ∃ f : Dev → Dev, ∀ s, execRegProg x0 s = s.run f := by
  unfold execRegProg; exact ⟨_, fun _ => rfl⟩

theorem exec_secureRead_run {x0} : ∃ f : Dev → Dev, ∀ s, execSecureRead x0 s = s.run f := by
  unfold execSecureRead; exact ⟨_, fun _ => rfl⟩

theorem exec_keyLoad_run {x0} : ∃ f : Dev → Dev, ∀ s, execKeyLoad x0 s = s.run f := by
  unfold execKeyLoad; exact ⟨_, fun _ => rfl⟩

theorem exec_keyClear_run {x0} : ∃ f : Dev → Dev, ∀ s, execKeyClear x0 s = s.run f := by
  unfold execKeyClear; exact ⟨_, fun _ => rfl⟩

theorem exec_keyWrap_run {x0} : ∃ f : Dev → Dev, ∀ s, execKeyWrap x0 s = s.run f := by
  unfold execKeyWrap; exact ⟨_, fun _ => rfl⟩

theorem exec_blobPut_run {x0} : ∃ f : Dev → Dev, ∀ s, execBlobPut x0 s = s.run f := by
  unfold execBlobPut; exact ⟨_, fun _ => rfl⟩

theorem exec_keyAttrRead_run {x0} : ∃ f : Dev → Dev, ∀ s, execKeyAttrRead x0 s = s.run f := by
  unfold execKeyAttrRead; exact ⟨_, fun _ => rfl⟩

theorem exec_lcStatus_run {x0} : ∃ f : Dev → Dev, ∀ s, execLcStatus x0 s = s.run f := by
  unfold execLcStatus; exact ⟨_, fun _ => rfl⟩

theorem exec_lcTransition_run {x0} : ∃ f : Dev → Dev, ∀ s, execLcTransition x0 s = s.run f := by
  unfold execLcTransition; exact ⟨_, fun _ => rfl⟩

theorem exec_applicationCommand_run {x0} {x1} {x2} : ∃ f : Dev → Dev, ∀ s, execApplicationCommand x0 x1 x2 s = s.run f := by
  unfold execApplicationCommand; exact ⟨_, fun _ => rfl⟩

theorem exec_start_run {x0} {x1} {x2} : ∃ f : Dev → Dev, ∀ s, execStart x0 x1 x2 s = s.run f := by
  unfold execStart; exact ⟨_, fun _ => rfl⟩

theorem exec_cspmAbort_run {x0} : ∃ f : Dev → Dev, ∀ s, execCspmAbort x0 s = s.run f := by
  unfold execCspmAbort; exact ⟨_, fun _ => rfl⟩

theorem exec_cspmRdyTimeout_run : ∃ f : Dev → Dev, ∀ s, execCspmRdyTimeout s = s.run f := by
  unfold execCspmRdyTimeout; exact ⟨_, fun _ => rfl⟩

theorem exec_cspmRequestDone_run {x0} {x1} : ∃ f : Dev → Dev, ∀ s, execCspmRequestDone x0 x1 s = s.run f := by
  unfold execCspmRequestDone; exact ⟨_, fun _ => rfl⟩

theorem exec_cspsWrite_run {x0} : ∃ f : Dev → Dev, ∀ s, execCspsWrite x0 s = s.run f := by
  unfold execCspsWrite; exact ⟨_, fun _ => rfl⟩

theorem exec_cspsRead_run {x0} : ∃ f : Dev → Dev, ∀ s, execCspsRead x0 s = s.run f := by
  unfold execCspsRead; exact ⟨_, fun _ => rfl⟩

theorem exec_fstat_run {x0} : ∃ f : Dev → Dev, ∀ s, execFstat x0 s = s.run f := by
  unfold execFstat; exact ⟨_, fun _ => rfl⟩

theorem exec_cspsCommitDone_run : ∃ f : Dev → Dev, ∀ s, execCspsCommitDone s = s.run f := by
  unfold execCspsCommitDone; exact ⟨_, fun _ => rfl⟩

theorem exec_bundle_run {x0} {x1} : ∃ f : Dev → Dev, ∀ s, execBundle x0 x1 s = s.run f := by
  unfold execBundle; exact ⟨_, fun _ => rfl⟩

theorem exec_interruptTaken_run {x0} : ∃ f : Dev → Dev, ∀ s, execInterruptTaken x0 s = s.run f := by
  unfold execInterruptTaken; exact ⟨_, fun _ => rfl⟩

theorem exec_waitEnd_run {x0} : ∃ f : Dev → Dev, ∀ s, execWaitEnd x0 s = s.run f := by
  unfold execWaitEnd; exact ⟨_, fun _ => rfl⟩

theorem exec_gpioEdge_run {x0} {x1} : ∃ f : Dev → Dev, ∀ s, execGpioEdge x0 x1 s = s.run f := by
  unfold execGpioEdge; exact ⟨_, fun _ => rfl⟩

theorem exec_tmrCtrlStart_run {x0} {x1} {x2} : ∃ f : Dev → Dev, ∀ s, execTmrCtrlStart x0 x1 x2 s = s.run f := by
  unfold execTmrCtrlStart; exact ⟨_, fun _ => rfl⟩

theorem exec_tmrCtrlStop_run {x0} {x1} {x2} : ∃ f : Dev → Dev, ∀ s, execTmrCtrlStop x0 x1 x2 s = s.run f := by
  unfold execTmrCtrlStop; exact ⟨_, fun _ => rfl⟩

theorem exec_eventTimerExpiry_run {x0} : ∃ f : Dev → Dev, ∀ s, execEventTimerExpiry x0 s = s.run f := by
  unfold execEventTimerExpiry; exact ⟨_, fun _ => rfl⟩

theorem exec_pulseEnd_run {x0} : ∃ f : Dev → Dev, ∀ s, execPulseEnd x0 s = s.run f := by
  unfold execPulseEnd; exact ⟨_, fun _ => rfl⟩

theorem exec_holdoffEnd_run {x0} : ∃ f : Dev → Dev, ∀ s, execHoldoffEnd x0 s = s.run f := by
  unfold execHoldoffEnd; exact ⟨_, fun _ => rfl⟩

theorem exec_taskPendingServe_run {x0} : ∃ f : Dev → Dev, ∀ s, execTaskPendingServe x0 s = s.run f := by
  unfold execTaskPendingServe; exact ⟨_, fun _ => rfl⟩

theorem exec_stormRearm_run {x0} {x1} : ∃ f : Dev → Dev, ∀ s, execStormRearm x0 x1 s = s.run f := by
  unfold execStormRearm; exact ⟨_, fun _ => rfl⟩

theorem exec_evrEcnCfgWrite_run {x0} {x1} {x2} : ∃ f : Dev → Dev, ∀ s, execEvrEcnCfgWrite x0 x1 x2 s = s.run f := by
  unfold execEvrEcnCfgWrite; exact ⟨_, fun _ => rfl⟩

theorem exec_evrLunCfgWrite_run {x0} {x1} {x2} : ∃ f : Dev → Dev, ∀ s, execEvrLunCfgWrite x0 x1 x2 s = s.run f := by
  unfold execEvrLunCfgWrite; exact ⟨_, fun _ => rfl⟩

theorem exec_irqCfgWrite_run {x0} {x1} {x2} : ∃ f : Dev → Dev, ∀ s, execIrqCfgWrite x0 x1 x2 s = s.run f := by
  unfold execIrqCfgWrite; exact ⟨_, fun _ => rfl⟩

theorem exec_irqPendWrite_run {x0} {x1} {x2} : ∃ f : Dev → Dev, ∀ s, execIrqPendWrite x0 x1 x2 s = s.run f := by
  unfold execIrqPendWrite; exact ⟨_, fun _ => rfl⟩

theorem exec_irqClaim_run {x0} {x1} : ∃ f : Dev → Dev, ∀ s, execIrqClaim x0 x1 s = s.run f := by
  unfold execIrqClaim; exact ⟨_, fun _ => rfl⟩

theorem exec_irqSgi_run {x0} {x1} : ∃ f : Dev → Dev, ∀ s, execIrqSgi x0 x1 s = s.run f := by
  unfold execIrqSgi; exact ⟨_, fun _ => rfl⟩

theorem exec_load_run {x0} {x1} : ∃ f : Dev → Dev, ∀ s, execLoad x0 x1 s = s.run f := by
  unfold execLoad; exact ⟨_, fun _ => rfl⟩

theorem exec_keyCmdClear_run {x0} {x1} : ∃ f : Dev → Dev, ∀ s, execKeyCmdClear x0 x1 s = s.run f := by
  unfold execKeyCmdClear; exact ⟨_, fun _ => rfl⟩

theorem exec_unwrap_run {x0} {x1} {x2} : ∃ f : Dev → Dev, ∀ s, execUnwrap x0 x1 x2 s = s.run f := by
  unfold execUnwrap; exact ⟨_, fun _ => rfl⟩

theorem exec_wrap_run {x0} {x1} {x2} : ∃ f : Dev → Dev, ∀ s, execWrap x0 x1 x2 s = s.run f := by
  unfold execWrap; exact ⟨_, fun _ => rfl⟩

theorem exec_derive_run {x0} {x1} : ∃ f : Dev → Dev, ∀ s, execDerive x0 x1 s = s.run f := by
  unfold execDerive; exact ⟨_, fun _ => rfl⟩

theorem exec_lock_run {x0} {x1} : ∃ f : Dev → Dev, ∀ s, execLock x0 x1 s = s.run f := by
  unfold execLock; exact ⟨_, fun _ => rfl⟩

theorem exec_loadKr_run {x0} {x1} : ∃ f : Dev → Dev, ∀ s, execLoadKr x0 x1 s = s.run f := by
  unfold execLoadKr; exact ⟨_, fun _ => rfl⟩

theorem exec_progKr_run {x0} {x1} : ∃ f : Dev → Dev, ∀ s, execProgKr x0 x1 s = s.run f := by
  unfold execProgKr; exact ⟨_, fun _ => rfl⟩

theorem exec_keyOperationDone_run : ∃ f : Dev → Dev, ∀ s, execKeyOperationDone s = s.run f := by
  unfold execKeyOperationDone; exact ⟨_, fun _ => rfl⟩

theorem exec_keySlotAttrWrite_run {x0} {x1} {x2} : ∃ f : Dev → Dev, ∀ s, execKeySlotAttrWrite x0 x1 x2 s = s.run f := by
  unfold execKeySlotAttrWrite; exact ⟨_, fun _ => rfl⟩

theorem exec_keyBlobCfgWrite_run {x0} {x1} : ∃ f : Dev → Dev, ∀ s, execKeyBlobCfgWrite x0 x1 s = s.run f := by
  unfold execKeyBlobCfgWrite; exact ⟨_, fun _ => rfl⟩

theorem exec_keyPoolWrite_run {x0} {x1} : ∃ f : Dev → Dev, ∀ s, execKeyPoolWrite x0 x1 s = s.run f := by
  unfold execKeyPoolWrite; exact ⟨_, fun _ => rfl⟩

theorem exec_remaskSweep_run : ∃ f : Dev → Dev, ∀ s, execRemaskSweep s = s.run f := by
  unfold execRemaskSweep; exact ⟨_, fun _ => rfl⟩

theorem exec_nodeUnwrapDone_run {x0} : ∃ f : Dev → Dev, ∀ s, execNodeUnwrapDone x0 s = s.run f := by
  unfold execNodeUnwrapDone; exact ⟨_, fun _ => rfl⟩

theorem exec_otpLcCmdStart_run {x0} {x1} : ∃ f : Dev → Dev, ∀ s, execOtpLcCmdStart x0 x1 s = s.run f := by
  unfold execOtpLcCmdStart; exact ⟨_, fun _ => rfl⟩

theorem exec_lcTransitionStep_run : ∃ f : Dev → Dev, ∀ s, execLcTransitionStep s = s.run f := by
  unfold execLcTransitionStep; exact ⟨_, fun _ => rfl⟩

theorem exec_cphSubmit_run {x0} {x1} : ∃ f : Dev → Dev, ∀ s, execCphSubmit x0 x1 s = s.run f := by
  unfold execCphSubmit; exact ⟨_, fun _ => rfl⟩

theorem exec_cipherDispatch_run : ∃ f : Dev → Dev, ∀ s, execCipherDispatch s = s.run f := by
  unfold execCipherDispatch; exact ⟨_, fun _ => rfl⟩

theorem exec_cipherSuspend_run {x0} : ∃ f : Dev → Dev, ∀ s, execCipherSuspend x0 s = s.run f := by
  unfold execCipherSuspend; exact ⟨_, fun _ => rfl⟩

theorem exec_cipherRequestDone_run {x0} {x1} : ∃ f : Dev → Dev, ∀ s, execCipherRequestDone x0 x1 s = s.run f := by
  unfold execCipherRequestDone; exact ⟨_, fun _ => rfl⟩

theorem exec_bulkAge_run {x0} : ∃ f : Dev → Dev, ∀ s, execBulkAge x0 s = s.run f := by
  unfold execBulkAge; exact ⟨_, fun _ => rfl⟩

theorem exec_cipherDomainTimeout_run {x0} : ∃ f : Dev → Dev, ∀ s, execCipherDomainTimeout x0 s = s.run f := by
  unfold execCipherDomainTimeout; exact ⟨_, fun _ => rfl⟩

theorem exec_rowRemapDone_run {x0} {x1} {x2} : ∃ f : Dev → Dev, ∀ s, execRowRemapDone x0 x1 x2 s = s.run f := by
  unfold execRowRemapDone; exact ⟨_, fun _ => rfl⟩

theorem exec_queueRetireMove_run {x0} : ∃ f : Dev → Dev, ∀ s, execQueueRetireMove x0 s = s.run f := by
  unfold execQueueRetireMove; exact ⟨_, fun _ => rfl⟩

theorem exec_sparingMapCheck_run {x0} : ∃ f : Dev → Dev, ∀ s, execSparingMapCheck x0 s = s.run f := by
  unfold execSparingMapCheck; exact ⟨_, fun _ => rfl⟩

theorem exec_hostBarAccess_run {x0} {x1} {x2} {x3} : ∃ f : Dev → Dev, ∀ s, execHostBarAccess x0 x1 x2 x3 s = s.run f := by
  unfold execHostBarAccess; exact ⟨_, fun _ => rfl⟩

theorem exec_aliasAccessComplete_run {x0} {x1} : ∃ f : Dev → Dev, ∀ s, execAliasAccessComplete x0 x1 s = s.run f := by
  unfold execAliasAccessComplete; exact ⟨_, fun _ => rfl⟩

theorem exec_rcFieldRead_run {x0} {x1} : ∃ f : Dev → Dev, ∀ s, execRcFieldRead x0 x1 s = s.run f := by
  unfold execRcFieldRead; exact ⟨_, fun _ => rfl⟩

theorem exec_loWordRead_run {x0} {x1} : ∃ f : Dev → Dev, ∀ s, execLoWordRead x0 x1 s = s.run f := by
  unfold execLoWordRead; exact ⟨_, fun _ => rfl⟩

theorem exec_registerWrite_run {x0} {x1} {x2} : ∃ f : Dev → Dev, ∀ s, execRegisterWrite x0 x1 x2 s = s.run f := by
  unfold execRegisterWrite; exact ⟨_, fun _ => rfl⟩

theorem exec_bandLoLock_run {x0} : ∃ f : Dev → Dev, ∀ s, execBandLoLock x0 s = s.run f := by
  unfold execBandLoLock; exact ⟨_, fun _ => rfl⟩

theorem exec_hopLockFailure_run {x0} : ∃ f : Dev → Dev, ∀ s, execHopLockFailure x0 s = s.run f := by
  unfold execHopLockFailure; exact ⟨_, fun _ => rfl⟩

theorem exec_detectorBlankingEnd_run {x0} : ∃ f : Dev → Dev, ∀ s, execDetectorBlankingEnd x0 s = s.run f := by
  unfold execDetectorBlankingEnd; exact ⟨_, fun _ => rfl⟩

theorem exec_windowOpen_run {x0} : ∃ f : Dev → Dev, ∀ s, execWindowOpen x0 s = s.run f := by
  unfold execWindowOpen; exact ⟨_, fun _ => rfl⟩

theorem exec_leaderHeartbeat_run : ∃ f : Dev → Dev, ∀ s, execLeaderHeartbeat s = s.run f := by
  unfold execLeaderHeartbeat; exact ⟨_, fun _ => rfl⟩

theorem exec_pcieLinkUp_run {x0} {x1} : ∃ f : Dev → Dev, ∀ s, execPcieLinkUp x0 x1 s = s.run f := by
  unfold execPcieLinkUp; exact ⟨_, fun _ => rfl⟩

theorem exec_cspmRdyRise_run : ∃ f : Dev → Dev, ∀ s, execCspmRdyRise s = s.run f := by
  unfold execCspmRdyRise; exact ⟨_, fun _ => rfl⟩

theorem exec_sysrstNRelease_run : ∃ f : Dev → Dev, ∀ s, execSysrstNRelease s = s.run f := by
  unfold execSysrstNRelease; exact ⟨_, fun _ => rfl⟩

theorem exec_rteIdxRebuildDone_run : ∃ f : Dev → Dev, ∀ s, execRteIdxRebuildDone s = s.run f := by
  unfold execRteIdxRebuildDone; exact ⟨_, fun _ => rfl⟩

/-- Every command is the run of one function of the device. -/
theorem exec_run (c : Instr) : ∃ f : Dev → Dev, ∀ s, exec c s = s.run f := by
  cases c
  case vddAonGood => exact exec_vddAonGood_run
  case powerOnReset => exact exec_powerOnReset_run
  case porstNRise => exact exec_porstNRise_run
  case sysrstNAssert => exact exec_sysrstNAssert_run
  case sysResetCtrlSys => exact exec_sysResetCtrlSys_run
  case sysResetCtrlCoreHold => exact exec_sysResetCtrlCoreHold_run
  case pciExpressReset => exact exec_pciExpressReset_run
  case railBrownOut => exact exec_railBrownOut_run
  case nvOkFall => exact exec_nvOkFall_run
  case nvOkRise => exact exec_nvOkRise_run
  case railGood => exact exec_railGood_run
  case bootSupplyTimeout => exact exec_bootSupplyTimeout_run
  case bootLowSupplyRecheck => exact exec_bootLowSupplyRecheck_run
  case packetBufferSelfTestDone => exact exec_packetBufferSelfTestDone_run
  case bootHeaderReadDone => exact exec_bootHeaderReadDone_run
  case bootImageReadDone => exact exec_bootImageReadDone_run
  case bootSectionsCopied => exact exec_bootSectionsCopied_run
  case bootSelfTestDone => exact exec_bootSelfTestDone_run
  case bootFirmwareEntry => exact exec_bootFirmwareEntry_run
  case sysBootDoorbell => exact exec_sysBootDoorbell_run
  case bootPeerTimeout => exact exec_bootPeerTimeout_run
  case intNPulseEnd => exact exec_intNPulseEnd_run
  case startupCalibrationStageDone => exact exec_startupCalibrationStageDone_run
  case pwrVoteSet => exact exec_pwrVoteSet_run
  case pwrVoteClr => exact exec_pwrVoteClr_run
  case pwrVoteVnWrite => exact exec_pwrVoteVnWrite_run
  case domainSwitchOnStart => exact exec_domainSwitchOnStart_run
  case domainPowerUpDone => exact exec_domainPowerUpDone_run
  case domainDrainDone => exact exec_domainDrainDone_run
  case domainDrainTimeout => exact exec_domainDrainTimeout_run
  case domainDrainRetry => exact exec_domainDrainRetry_run
  case domainIsolationDone => exact exec_domainIsolationDone_run
  case domainSwitchOffDone => exact exec_domainSwitchOffDone_run
  case pwrPadRelease => exact exec_pwrPadRelease_run
  case clkOpCtrlWrite => exact exec_clkOpCtrlWrite_run
  case opVoltageRampDone => exact exec_opVoltageRampDone_run
  case opPllRelockDone => exact exec_opPllRelockDone_run
  case coreRailDrop => exact exec_coreRailDrop_run
  case wakePin => exact exec_wakePin_run
  case pwrWakeTimeHiWrite => exact exec_pwrWakeTimeHiWrite_run
  case wakeTimerCompare => exact exec_wakeTimerCompare_run
  case pwrWatchCtrlWrite => exact exec_pwrWatchCtrlWrite_run
  case watchPeriodTick => exact exec_watchPeriodTick_run
  case watchGainSettled => exact exec_watchGainSettled_run
  case watchDwellEnd => exact exec_watchDwellEnd_run
  case watchVoteRelease => exact exec_watchVoteRelease_run
  case calibrateOneEntry => exact exec_calibrateOneEntry_run
  case calibrateEveryAllowedChannel => exact exec_calibrateEveryAllowedChannel_run
  case invalidateOneEntry => exact exec_invalidateOneEntry_run
  case invalidateEveryEntry => exact exec_invalidateEveryEntry_run
  case runStages2To6 => exact exec_runStages2To6_run
  case calCommandEnd => exact exec_calCommandEnd_run
  case fullCalibrationLock => exact exec_fullCalibrationLock_run
  case fullCalibrationFail => exact exec_fullCalibrationFail_run
  case backgroundRecalibrationStart => exact exec_backgroundRecalibrationStart_run
  case retune => exact exec_retune_run
  case loLockLoss => exact exec_loLockLoss_run
  case tempSensorUpdate => exact exec_tempSensorUpdate_run
  case tp3Commit => exact exec_tp3Commit_run
  case txHopStart => exact exec_txHopStart_run
  case txLock => exact exec_txLock_run
  case txLockDeadline => exact exec_txLockDeadline_run
  case txLeadStart => exact exec_txLeadStart_run
  case txFirstChip => exact exec_txFirstChip_run
  case txLastChip => exact exec_txLastChip_run
  case txRampDownEnd => exact exec_txRampDownEnd_run
  case txStage6Done => exact exec_txStage6Done_run
  case coexCfgWrite => exact exec_coexCfgWrite_run
  case coexRoleChange => exact exec_coexRoleChange_run
  case coexRequestAssert => exact exec_coexRequestAssert_run
  case coexGntFall => exact exec_coexGntFall_run
  case coexReqEdge => exact exec_coexReqEdge_run
  case gainWindowEnd => exact exec_gainWindowEnd_run
  case gainQuietIntervalEnd => exact exec_gainQuietIntervalEnd_run
  case castling => exact exec_castling_run
  case rxwGainCfgWrite => exact exec_rxwGainCfgWrite_run
  case preambleDetection => exact exec_preambleDetection_run
  case laneSyncTimeout => exact exec_laneSyncTimeout_run
  case freezePoint => exact exec_freezePoint_run
  case phrCheck => exact exec_phrCheck_run
  case laneFrameEnd => exact exec_laneFrameEnd_run
  case lanePostResume => exact exec_lanePostResume_run
  case forkChannelEstimate => exact exec_forkChannelEstimate_run
  case idleSample => exact exec_idleSample_run
  case channelConfigEffect => exact exec_channelConfigEffect_run
  case subModeEffect => exact exec_subModeEffect_run
  case wurxTelegramMatch => exact exec_wurxTelegramMatch_run
  case restore => exact exec_restore_run
  case commitPulseTable => exact exec_commitPulseTable_run
  case pulseTableActivate => exact exec_pulseTableActivate_run
  case maskWindowEnd => exact exec_maskWindowEnd_run
  case regMirrorCheck => exact exec_regMirrorCheck_run
  case regMirrorReloadDone => exact exec_regMirrorReloadDone_run
  case prog => exact exec_prog_run
  case sealRegion => exact exec_sealRegion_run
  case otpBitProgrammed => exact exec_otpBitProgrammed_run
  case regStageW1Effect => exact exec_regStageW1Effect_run
  case dutyBucketAdvance => exact exec_dutyBucketAdvance_run
  case lbtListenEnd => exact exec_lbtListenEnd_run
  case tempoWorkItem => exact exec_tempoWorkItem_run
  case verifyResult => exact exec_verifyResult_run
  case ackDeadlineMissed => exact exec_ackDeadlineMissed_run
  case lockstepMismatch => exact exec_lockstepMismatch_run
  case tp4SelfTest => exact exec_tp4SelfTest_run
  case slotOccurrence => exact exec_slotOccurrence_run
  case slotWindowClose => exact exec_slotWindowClose_run
  case tschTimeslot => exact exec_tschTimeslot_run
  case lnkTschT0HiWrite => exact exec_lnkTschT0HiWrite_run
  case lnkTschCtrlWrite => exact exec_lnkTschCtrlWrite_run
  case ackWaitEnd => exact exec_ackWaitEnd_run
  case retryAttempt => exact exec_retryAttempt_run
  case windowVoteLead => exact exec_windowVoteLead_run
  case windowClose => exact exec_windowClose_run
  case heldFrameSend => exact exec_heldFrameSend_run
  case checkTelegramSend => exact exec_checkTelegramSend_run
  case checkWaitEnd => exact exec_checkWaitEnd_run
  case nodeAdd => exact exec_nodeAdd_run
  case nodeUpdate => exact exec_nodeUpdate_run
  case nodeRemove => exact exec_nodeRemove_run
  case nodeRead => exact exec_nodeRead_run
  case routeSet => exact exec_routeSet_run
  case routeDel => exact exec_routeDel_run
  case routeDelIndexCleared => exact exec_routeDelIndexCleared_run
  case snapshot => exact exec_snapshot_run
  case restoreStream => exact exec_restoreStream_run
  case relayRetry => exact exec_relayRetry_run
  case adopt => exact exec_adopt_run
  case clear => exact exec_clear_run
  case adoptDone => exact exec_adoptDone_run
  case clearDone => exact exec_clearDone_run
  case buddyReplicaTimeout => exact exec_buddyReplicaTimeout_run
  case fedCtrlStart => exact exec_fedCtrlStart_run
  case fedCfgWrite => exact exec_fedCfgWrite_run
  case portLinkUp => exact exec_portLinkUp_run
  case portLinkDown => exact exec_portLinkDown_run
  case helloTimer => exact exec_helloTimer_run
  case discoveryClose => exact exec_discoveryClose_run
  case hello => exact exec_hello_run
  case candidate => exact exec_candidate_run
  case electionRound => exact exec_electionRound_run
  case groupReport => exact exec_groupReport_run
  case leader => exact exec_leader_run
  case coordinatorLoss => exact exec_coordinatorLoss_run
  case leaderLoss => exact exec_leaderLoss_run
  case memberAbsent => exact exec_memberAbsent_run
  case syncBurst => exact exec_syncBurst_run
  case syncReq => exact exec_syncReq_run
  case syncResp => exact exec_syncResp_run
  case parentHoldoverTimeout => exact exec_parentHoldoverTimeout_run
  case digestTimer => exact exec_digestTimer_run
  case digest => exact exec_digest_run
  case recordReq => exact exec_recordReq_run
  case manifest => exact exec_manifest_run
  case record => exact exec_record_run
  case recordReassemblyTimeout => exact exec_recordReassemblyTimeout_run
  case propose => exact exec_propose_run
  case prepare => exact exec_prepare_run
  case prepared => exact exec_prepared_run
  case prepareTimeout => exact exec_prepareTimeout_run
  case commit => exact exec_commit_run
  case commitTime => exact exec_commitTime_run
  case abort => exact exec_abort_run
  case joinTimeout => exact exec_joinTimeout_run
  case replicationSend => exact exec_replicationSend_run
  case replica => exact exec_replica_run
  case replicaAck => exact exec_replicaAck_run
  case replicationRetx => exact exec_replicationRetx_run
  case replicaReq => exact exec_replicaReq_run
  case migrationStart => exact exec_migrationStart_run
  case migrateOffer => exact exec_migrateOffer_run
  case migrateAnswer => exact exec_migrateAnswer_run
  case offerRetry => exact exec_offerRetry_run
  case migrateDone => exact exec_migrateDone_run
  case doneRepeat => exact exec_doneRepeat_run
  case migrateActive => exact exec_migrateActive_run
  case activeTimeout => exact exec_activeTimeout_run
  case pendingDiscard => exact exec_pendingDiscard_run
  case attestChallenge => exact exec_attestChallenge_run
  case attestResponse => exact exec_attestResponse_run
  case attestTimeout => exact exec_attestTimeout_run
  case visitor => exact exec_visitor_run
  case transmit => exact exec_transmit_run
  case redirect => exact exec_redirect_run
  case result => exact exec_result_run
  case bootReq => exact exec_bootReq_run
  case bootData => exact exec_bootData_run
  case hciEnable => exact exec_hciEnable_run
  case hciReset => exact exec_hciReset_run
  case fwReadyWrite => exact exec_fwReadyWrite_run
  case fwReadyTimeout => exact exec_fwReadyTimeout_run
  case doorbell => exact exec_doorbell_run
  case commandWakeDone => exact exec_commandWakeDone_run
  case commandWakeTimeout => exact exec_commandWakeTimeout_run
  case firmwareInterimCompletion => exact exec_firmwareInterimCompletion_run
  case msiXPendingSend => exact exec_msiXPendingSend_run
  case dmaFault => exact exec_dmaFault_run
  case txFrame => exact exec_txFrame_run
  case regRead => exact exec_regRead_run
  case regWrite => exact exec_regWrite_run
  case powerVote => exact exec_powerVote_run
  case helloCommand => exact exec_helloCommand_run
  case identify => exact exec_identify_run
  case queueCreate => exact exec_queueCreate_run
  case queueDelete => exact exec_queueDelete_run
  case txCancel => exact exec_txCancel_run
  case fedRecordPut => exact exec_fedRecordPut_run
  case fedRecordDel => exact exec_fedRecordDel_run
  case fedPropose => exact exec_fedPropose_run
  case fedMemberRead => exact exec_fedMemberRead_run
  case fedMigrate => exact exec_fedMigrate_run
  case regProg => exact exec_regProg_run
  case secureRead => exact exec_secureRead_run
  case keyLoad => exact exec_keyLoad_run
  case keyClear => exact exec_keyClear_run
  case keyWrap => exact exec_keyWrap_run
  case blobPut => exact exec_blobPut_run
  case keyAttrRead => exact exec_keyAttrRead_run
  case lcStatus => exact exec_lcStatus_run
  case lcTransition => exact exec_lcTransition_run
  case applicationCommand => exact exec_applicationCommand_run
  case start => exact exec_start_run
  case cspmAbort => exact exec_cspmAbort_run
  case cspmRdyTimeout => exact exec_cspmRdyTimeout_run
  case cspmRequestDone => exact exec_cspmRequestDone_run
  case cspsWrite => exact exec_cspsWrite_run
  case cspsRead => exact exec_cspsRead_run
  case fstat => exact exec_fstat_run
  case cspsCommitDone => exact exec_cspsCommitDone_run
  case bundle => exact exec_bundle_run
  case interruptTaken => exact exec_interruptTaken_run
  case waitEnd => exact exec_waitEnd_run
  case gpioEdge => exact exec_gpioEdge_run
  case tmrCtrlStart => exact exec_tmrCtrlStart_run
  case tmrCtrlStop => exact exec_tmrCtrlStop_run
  case eventTimerExpiry => exact exec_eventTimerExpiry_run
  case pulseEnd => exact exec_pulseEnd_run
  case holdoffEnd => exact exec_holdoffEnd_run
  case taskPendingServe => exact exec_taskPendingServe_run
  case stormRearm => exact exec_stormRearm_run
  case evrEcnCfgWrite => exact exec_evrEcnCfgWrite_run
  case evrLunCfgWrite => exact exec_evrLunCfgWrite_run
  case irqCfgWrite => exact exec_irqCfgWrite_run
  case irqPendWrite => exact exec_irqPendWrite_run
  case irqClaim => exact exec_irqClaim_run
  case irqSgi => exact exec_irqSgi_run
  case load => exact exec_load_run
  case keyCmdClear => exact exec_keyCmdClear_run
  case unwrap => exact exec_unwrap_run
  case wrap => exact exec_wrap_run
  case derive => exact exec_derive_run
  case lock => exact exec_lock_run
  case loadKr => exact exec_loadKr_run
  case progKr => exact exec_progKr_run
  case keyOperationDone => exact exec_keyOperationDone_run
  case keySlotAttrWrite => exact exec_keySlotAttrWrite_run
  case keyBlobCfgWrite => exact exec_keyBlobCfgWrite_run
  case keyPoolWrite => exact exec_keyPoolWrite_run
  case remaskSweep => exact exec_remaskSweep_run
  case nodeUnwrapDone => exact exec_nodeUnwrapDone_run
  case otpLcCmdStart => exact exec_otpLcCmdStart_run
  case lcTransitionStep => exact exec_lcTransitionStep_run
  case cphSubmit => exact exec_cphSubmit_run
  case cipherDispatch => exact exec_cipherDispatch_run
  case cipherSuspend => exact exec_cipherSuspend_run
  case cipherRequestDone => exact exec_cipherRequestDone_run
  case bulkAge => exact exec_bulkAge_run
  case cipherDomainTimeout => exact exec_cipherDomainTimeout_run
  case rowRemapDone => exact exec_rowRemapDone_run
  case queueRetireMove => exact exec_queueRetireMove_run
  case sparingMapCheck => exact exec_sparingMapCheck_run
  case hostBarAccess => exact exec_hostBarAccess_run
  case aliasAccessComplete => exact exec_aliasAccessComplete_run
  case rcFieldRead => exact exec_rcFieldRead_run
  case loWordRead => exact exec_loWordRead_run
  case registerWrite => exact exec_registerWrite_run
  case bandLoLock => exact exec_bandLoLock_run
  case hopLockFailure => exact exec_hopLockFailure_run
  case detectorBlankingEnd => exact exec_detectorBlankingEnd_run
  case windowOpen => exact exec_windowOpen_run
  case leaderHeartbeat => exact exec_leaderHeartbeat_run
  case pcieLinkUp => exact exec_pcieLinkUp_run
  case cspmRdyRise => exact exec_cspmRdyRise_run
  case sysrstNRelease => exact exec_sysrstNRelease_run
  case rteIdxRebuildDone => exact exec_rteIdxRebuildDone_run

end Sys2Proof.Machine
end

