-- ==== Sys2Proof/Tests/Slice0.lean ====
section
/-! SUPPORT. Tests: a state and operands that meet the hypotheses of each statement (one conjunct for each of its
clauses), the spec's worked examples, and ill-formed commands that WellFormed refuses. -/

namespace Sys2Proof.Machine

open Sys2Proof

section

set_option Elab.async false
set_option linter.unusedVariables false

/-! Small devices and operands. -/

/-- The device after reset with the domains `ns` ON. -/
def up (ns : List Nat) : Dev :=
  { Dev.reset with pwr := { Dev.reset.pwr with doms := (List.range 32).map (fun n => if n ∈ ns then Domain.onNow else Dev.reset.dom n) } }

/-- A Bamium header that the checks pass. -/
def hdr : BmHdr :=
  { ports := 1, etherType := 0x88B5, vlan := none, version := 2, len := 0, src := 2, dst := 0x8000, bootId := 1, seq := 1
    epoch := 0, rsvd := 0, txTime := 0, mac := 0, body := [], tag := [], formatOk := true }

/-- The header with the TAG that a message of type `t` has under the key of the device after reset. -/
def signed (t : Nat) (h : BmHdr) : BmHdr := { h with tag := Dev.reset.fedTag (hdrOctets h t) }

/-- A sparing list in which every spare row of the packet buffer is used. -/
def packetRowsSpared : Err :=
  { sparing := (List.range 32).map (fun i => { res := rowRes 32 i, spare := i, done := true }) }

/-- An oscillator that is locked. -/
def lockedLo : Lo := { lock := some 0 }

/-- A frame of a relay, in a stage. -/
def fr (st : TxStage) : TxFrame := { id := 7, origin := .relay, cls := 5, sub := false, chan := 26, phy := 0, stage := st }

/-- An open transmit gate. -/
def openGate : TxGate := { isOpen := true, byEpoch := true }

/-- A device whose lane `n` is in a phase. -/
def laneIn (n : Nat) (p : LanePhase) (len : Nat := 0) : Dev :=
  { up [17, 23] with rxw := { (up [17, 23]).rxw with lanes := putAt n { phase := p, len := len } (up [17, 23]).rxw.lanes } }

/-- A device whose key store takes commands of core C0 in the secure monitor. -/
def keyDev : Dev := { up [25] with cores := List.replicate 8 { status := 2 } }

/-- A key-store device in MANUFACTURE, with a root blob key and a valid key in slot 63. -/
def keyDevM : Dev :=
  ({ keyDev with fuses := [(1, 0x4D460001), (9, 0xB2B9FFFE)], keys := { keyDev.keys with rootBlob := some [] } } : Dev).setReg (Reg.keySlotAttr + 252) 0x80080000#32

/-- A cipher request of core C0: ECB over one block. -/
def creq (cls : Nat) : CipherReq :=
  { id := 1, origin := .core 0, mode := 0, dec := false, cls := cls, mLen := 16, src := 0x04020040, dst := 0x04020040 }

/-- A device with the cipher array's domains up and requests in its queue. -/
def cphDev (q : List CipherReq) : Dev := { up [2, 24, 25] with cph := { (up []).cph with queue := q } }

/-- A device whose engine CE23 runs a request. -/
def ceDev (q : List CipherReq) (marked : Bool) : Dev :=
  (cphDev q).setEngine 23 { run := some { req := creq 2, key := [] }, marked := marked }

/-- A device whose Q0 and Q1 are in service in the packet buffer, under protocol 3, with every domain ON. -/
def hciDev : Dev :=
  ((((((((up (List.range 30)).wr Fld.hciQCfg_en 1 0).wr Fld.hciQCfg_size 4 0).wr Fld.hciQCfg_en 1 1).wr Fld.hciQCfg_size 4 1).setReg
    Reg.hciQBaseLo 0x100000#32).setReg (Reg.hciQBaseLo + 32) 0x110000#32).wr Fld.hciStatus_version 3).wr Fld.hciCtrl_fwReady 1

/-- A host command on Q0 with its data length, arguments and data. -/
def hcmd (len : Nat) (args : List Nat) (data : List Byte := []) : HostCmd :=
  { sq := 0, w := [0x00010300, len, 0x180000, 0] ++ args, data := data }

/-- The device after the fetch of a submitted command. -/
def startDev (op : Nat) (c : HostCmd) (d : Dev) : Dev :=
  ((d.hostEntry (c.sq % 128) 0 { c with w := (c.w.getD 0 0 / 256 * 256 + op) :: c.w.drop 1 }).doorbellWrite
    (c.sq % 128) ((d.qTail (c.sq % 128) + 1) % d.qLen (c.sq % 128))).fetchFrom (c.sq % 128)

/-- The first command in the sequencer. -/
def cmdOf (e : Dev) : HciCmd := e.hci.cmds.getD 0 { id := 0, sq := 0, w := [], data := [], head := 0, fetched := 0 }

/-- Whether a submitted command starts at once. -/
def startsNow (fault : Option (Nat × Nat)) (op : Nat) (c : HostCmd) (d : Dev) : Bool :=
  let g := (d.hostEntry (c.sq % 128) 0 { c with w := (c.w.getD 0 0 / 256 * 256 + op) :: c.w.drop 1 }).doorbellWrite
      (c.sq % 128) ((d.qTail (c.sq % 128) + 1) % d.qLen (c.sq % 128))
  let e := g.fetchFrom (c.sq % 128)
  let x := cmdOf e
  decide (g.domUp 1 = true ∧ g.hci.stored = [] ∧ g.barredRings = [] ∧ g.hci.cmds = [] ∧ g.nextQueue = some (c.sq % 128) ∧
    e.hci.cmds = [x] ∧ x.fault = fault ∧ x.opcode = op ∧ e.cmdCheck x = Code.ok ∧
    (x.isFw = true → op < 192 → e.fwServed = true) ∧ e.cmdAsleep x = [] ∧ e.unitTaken x = false)

theorem startsNow_spec {f : Option (Nat × Nat)} {op : Nat} {c : HostCmd} {d : Dev} (h : startsNow f op c d = true) :
    StartsWith f op c d (startDev op c d) (cmdOf (startDev op c d)) := by
  obtain ⟨h1, h2, hb, h3, h4, h5⟩ := of_decide_eq_true h
  exact ⟨_, rfl, h1, h2, hb, h3, h4, rfl, h5⟩

/-- A completion of pair TP0. -/
def comp : Completion := { buf := 0, lane := 0, rxseq := 0, sub := false, chan := 11, phy := 0, len := 0, endAt := 0, peer := none }

/-- A data frame between short addresses behind an empty record, with its FCS. -/
def dataFrame : List Byte := List.replicate 32 0#8 ++ [0x41, 0x88, 1, 0xCD, 0xAB, 1, 0, 2, 0].map (BitVec.ofNat 8) ++ List.replicate 4 0#8

/-- A device with a resident node in slot 5, found by its node address. -/
def nodeDev (d : Dev) : Dev :=
  ((((d.setCx 5 Cx.nodeAddr 5).setCx 5 Cx.valid 1).setRte 5 5 true 5 0).insertKeys 5 [keyNode 5]).1

/-- A device with a remote route entry for node 9. -/
def remoteDev (d : Dev) : Dev := ((d.setRte 32768 9 false 0 3).insertKeys 32768 [keyNode 9]).1

/-- A device whose federation agent runs in a state, with both ports up and a key that serves the authenticator. -/
def fedDev (st : Nat) (f : Fed) : Dev :=
  (({ up [22, 24, 25, 27] with pins := { Dev.reset.pins with ethUp := [true, true] }, fed := f } : Dev).setFedState st).setReg
    (Reg.keySlotAttr + 4 * Dev.reset.rd Fld.fedCfg_kslot) 0x80040000#32

/-- A proposal of member 2 for epoch 1 with roster 0. -/
def prop1 : Proposal := { epoch := 1, digest := digestOf 1 [0] [], roster := [0], proposer := 2 }

/-- A pair whose flag is set. -/
theorem accepted {x : Dev × Bool} (h : x.2 = true) : x = (x.1, true) := by
  obtain ⟨a, b⟩ := x; subst h; rfl

/-- A Bamium header of version 3. -/
def hdr3 : BmHdr := { hdr with version := 3 }

/-- A member of epoch 1 in RUN with member 2, a Bm3 member and its buddy, in its roster. -/
def bmDev (f : Fed := {}) : Dev := (fedDev 8 { f with roster := [0, 2] }).setMember 2 0 5 10

/-- The image of a context of node 9. -/
def ctx9 : List Byte := setImg (setImg (List.replicate 128 0#8) Cx.nodeAddr 9) Cx.valid 1

/-- A migration of node 5 from slot 5 to member 2. -/
def mig5 (step : Nat) : Migration := { offer := 1, node := 5, slot := 5, peer := 2, source := true, step := step }

/-- A frame that member 2 is to send for the node in slot 5. -/
def remoteFrame : TxFrame := { fr .remote with node := some 5, start := 100 }

/-- A command of the sequencer with an opcode, in a stage. -/
def hc (op : Nat) (st : CmdStage) (args : List Nat := []) : HciCmd :=
  { id := 0, sq := 0, w := [0x00010300 + op, 0, 0, 0] ++ args, data := [], head := 0, fetched := 0, stage := st }

/-- A device whose sequencer holds a command. -/
def hciRuns (c : HciCmd) (d : Dev := hciDev) : Dev := { d with hci := { d.hci with cmds := [c] } }

/-- A device whose federation agent is in RUN, with member 2, a Bm3 member of state 2. -/
def fedOver (d : Dev) : Dev := (d.setFedState 8).setMember 2 0 5 10

/-- A CSPS frame of a length's edges. -/
def cspsf (cmd edges : Nat) (body : List Nat) : CspsFrame := { cmd := cmd, edges := edges, body := body.map (BitVec.ofNat 8), viol := none }

/-- A flash read of four octets into core memory. -/
def flashRun : CspmRun := { send := false, mem := 0x04020040, len := 4, rdyEn := false, clkHeld := false }

/-- A device whose core C0 runs firmware, with IRQ 7 pending at its input. -/
def irqDev (r : CoreRun) : Dev :=
  ((({ up [1, 2] with cores := List.replicate 8 { status := 3, run := r } } : Dev).putIrqPend 7 true).wr Fld.irqCfg_en 1 7
    |>.wr Fld.irqCfg_target 1 7).wr Fld.irqCfg_prio 3 7

/-- A planned window of the node in slot 5. -/
def win5 : NodeWin := { slot := 5, sub := false, chan := 11, e := 0, h := 100, k := 1, period := 32000000, cfg := [] }

/-- A received frame with the greatest LQI. -/
def rxf : RxFrame := { rxFrame comp dataFrame with lqi := 255 }

/-- A syllable that always acts. -/
def syl (op : CoreOp) : Syllable := { op := op, inst := 0, index := 0, slot := 0, pr := 0, pn := false }

/-- The seat sensor of the worked example of chapter 10 in slot 5, after contacts that left DRIFT and an anchor. -/
def sensor (contacts drift anchor : Nat) : Dev :=
  ((((((nodeDev (up [10, 22])).setCx 5 Cx.schedPeriod 937500).setCx 5 Cx.sleepy 1).setCx 5 Cx.gPhase 1).setCx 5 Cx.gContacts contacts).setCx 5
    Cx.drift drift).setCx 5 Cx.lastContact anchor

/-- The device after a command. -/
def after (c : Instr) (d : Dev) : Dev :=
  match exec c { pending := [], dev := d } with
  | .next t => t.dev
  | _ => Dev.reset

/-- A device whose cores run, C0 as the secure monitor and C4–C7 in the normal state. -/
def monDev : Dev :=
  { up [1, 2, 6, 24, 25] with cores := List.replicate 4 { status := 2, run := .run } ++ List.replicate 4 { status := 4, run := .run } }

/-- A device whose core C0 has the state `c`. -/
def coreDev (c : Core) : Dev := { up [1, 2] with cores := c :: List.replicate 7 {} }

/-- The bundles B1–B4 of the worked example of chapter 15 at 0x0400, and its samples and coefficients, in core C0. -/
def worked (d : Dev) : Dev :=
  let code := [0x005C6020, 0x90640000, 0x80C00300, 0x50000000, 0x90440500, 0x90602840]
  let d := d.setBytes (coreBase 0 + 0x400) (code.flatMap (natLe 4))
  (d.setBytes (coreBase 0 + 0x20100) ((List.replicate 4 0x00020003).flatMap (natLe 4))).setBytes (coreBase 0 + 0x40200)
    ((List.replicate 4 0x0004FFFF).flatMap (natLe 4))

/-- A device in MANUFACTURE with a sealed region and NV_OK, whose core C0 is the secure monitor. -/
def lcDev : Dev := { (monDev.wr Fld.regStatus_sealed 1).wr Fld.sysSupplyStatus_nvOk 1 with fuses := keyDevM.fuses }

/-! Witnesses of the hypotheses of the statements. -/

theorem witness_ResetPinsAct :
    (∃ (d : Dev), d.inv) ∧
    (∃ (d : Dev) (straps : Nat), d.inv ∧ (d.pins.porstLow = true) ∧ (d.pins.aonGood = true)) ∧
    (∃ (d : Dev), (d.pins.porstLow = false)) ∧
    (∃ (d : Dev), (d.pins.porstLow = true)) ∧
    (∃ (d : Dev), (d.pins.porstLow = false) ∧ (d.pins.sysrstLow = true)) ∧
    (∃ (d : Dev) (e f : Dev), (e = d.setReg Reg.sysResetCause (d.reg Reg.sysResetCause ||| 0x20#32)) ∧ (f = ({ e with msix := {}, pins := { e.pins with pcieLinkUp := false } } : Dev).hciReset)) ∧
    (∃ (d : Dev) (r : Nat), d.inv ∧ r < 7 ∧ (d.pins.porstLow = false)) :=
  ⟨by exact ⟨Dev.reset, by unfold Dev.inv Core.ok; decide +kernel⟩,
    by exact ⟨Dev.reset, 63, by unfold Dev.inv Core.ok; decide +kernel, by decide +kernel⟩,
    by exact ⟨{ Dev.reset with pins := { Dev.reset.pins with porstLow := false } }, by decide +kernel⟩,
    by exact ⟨Dev.reset, by decide +kernel⟩,
    by exact ⟨{ Dev.reset with pins := { Dev.reset.pins with porstLow := false, sysrstLow := true } }, by decide +kernel⟩,
    by exact ⟨Dev.reset, _, _, rfl, rfl⟩,
    by exact ⟨{ Dev.reset with pins := { Dev.reset.pins with porstLow := false } }, 6, by unfold Dev.inv Core.ok; decide +kernel, by decide +kernel⟩⟩

theorem witness_BootStepsAdvance :
    (∃ (d : Dev), (d.boot.phase = .supplies) ∧ (d.allRailsGood = false)) ∧
    (∃ (d : Dev) (n : Nat), (d.boot.phase = .lowSupply n)) ∧
    (∃ (d : Dev) (failing : List Nat) (e f : Dev), (f = if d.boot.wake then e else e.clearMem isPacketBuffer) ∧ (d.boot.phase = .packetTest) ∧ (d.domUp 23 = true) ∧ (d.remapRows (failing.map (rowRes 32)) = (e, []))) ∧
    (∃ (d : Dev) (failing : List Nat), (d.boot.phase = .packetTest) ∧ (d.domUp 23 = true) ∧ (d.remapRows (failing.map (rowRes 32))).2 ≠ []) ∧
    (∃ (d : Dev) (hdr : List Byte) (slot : Nat), (d.boot.phase = .header slot)) ∧
    (∃ (d : Dev) (image : List Byte) (slot : Nat), (d.boot.phase = .image slot)) ∧
    (∃ (d : Dev) (e : Dev), (e = (List.range (hdrSections (d.bytes pktBase 352))).foldl (fun e i => e.copySection (imgSection (d.bytes pktBase 352) i)) d) ∧ (d.boot.phase = .copying) ∧ (∀ n ∈ sectionDomains (d.bytes pktBase 352), d.domUp n = true)) ∧
    (∃ (d : Dev) (failing : List Nat), (d.boot.phase.selfTests = true) ∧ (d.boot.selfTested = false)) ∧
    (∃ (d : Dev), (d.boot.phase = .copied) ∧ (d.boot.selfTested = true) ∧ (d.domUp 2 = true)) :=
  ⟨by exact ⟨({ Dev.reset with boot := { phase := .supplies } } : Dev).wr Fld.sysSupplyStatus_good 1, by decide +kernel⟩,
    by exact ⟨{ Dev.reset with boot := { phase := .lowSupply 99 } }, 99, by decide +kernel⟩,
    by exact ⟨{ up [23] with boot := { phase := .packetTest } }, [], { up [23] with boot := { phase := .packetTest } }, _, rfl, by decide +kernel⟩,
    by exact ⟨{ up [23] with boot := { phase := .packetTest }, err := packetRowsSpared }, [40], by decide +kernel⟩,
    by exact ⟨{ Dev.reset with boot := { phase := .header 2 } }, [], 2, by decide +kernel⟩,
    by exact ⟨{ Dev.reset with boot := { phase := .image 1 } }, [], 1, by decide +kernel⟩,
    by exact ⟨{ Dev.reset with boot := { phase := .copying } }, _, rfl, by decide +kernel⟩,
    by exact ⟨{ Dev.reset with boot := { phase := .copied } }, [], by decide +kernel⟩,
    by exact ⟨{ up [2] with boot := { phase := .copied, selfTested := true } }, by decide +kernel⟩⟩

theorem witness_BootSourcesAct :
    (∃ (d : Dev) (who : Initiator) (w : Word) (e : Dev), (e = (if d.secure who then (List.range 7).foldl (fun e k => e.coreHold ((w ||| 0x100#32).toNat.testBit (k + 1)) (k + 1)) (d.rsvd who Reg.sysResetCtrl (w ||| 0x100#32)) else d.rsvd who Reg.sysResetCtrl (w ||| 0x100#32))) ∧ (d.domUp 1 = true) ∧ (wBits (w ||| 0x100#32) 31 16 = 0xA5C3) ∧ (d.secureOrHost who = true)) ∧
    (∃ (d : Dev) (who : Initiator) (w : Word), (d.domUp 1 = true) ∧ (wBits (w &&& 0xFFFFFEFF#32) 31 16 = 0xA5C3) ∧ (d.secure who = true)) ∧
    (∃ (d : Dev) (who : Initiator) (w : Word), (who = .host) ∧ (d.boot.phase = .waitHost) ∧ (d.domUp 1 = true) ∧ (d.domUp 23 = true)) ∧
    (∃ (d : Dev), (d.boot.phase = .waitPeer)) ∧
    (∃ (d : Dev), (d.pins.intPulse = true)) ∧
    (∃ (d : Dev) (h : BmHdr) (offset : Nat) (bytes img : List Byte) (e : Dev), (offset = d.boot.peerImage.length) ∧ (img = d.boot.peerImage ++ bytes) ∧ (e = ({ (d.setBytes (pktBase + offset) bytes).bootCode 0x02 with boot := { d.boot with peerImage := img, peerFrom := some (bmFrom h) } } : Dev)) ∧ (d.boot.phase = .waitPeer) ∧ (d.domUp 27 = true) ∧ (h.formatOk = true) ∧ (d.boot.peerFrom = none ∨ d.boot.peerFrom = some (bmFrom h)) ∧ bytes ≠ [] ∧ bytes.length ≤ 2048) :=
  ⟨by exact ⟨up [1], .host, 0xA5C30000#32, _, rfl, by decide +kernel⟩,
    by exact ⟨up [1], .core 0, 0xA5C300FE#32, by decide +kernel⟩,
    by exact ⟨{ up [1, 23] with boot := { phase := .waitHost } }, _, 0xFFFFFFFF#32, rfl, by decide +kernel⟩,
    by exact ⟨{ Dev.reset with boot := { phase := .waitPeer } }, by decide +kernel⟩,
    by exact ⟨{ Dev.reset with pins := { Dev.reset.pins with intPulse := true } }, by decide +kernel⟩,
    by exact ⟨{ up [27] with boot := { phase := .waitPeer } }, hdr, _, [0#8], _, _, rfl, rfl, rfl, by decide +kernel⟩⟩

theorem witness_VotesAndPadsFollowTheirRegisters :
    (∃ (d : Dev) (who : Initiator) (w : Word) (v : Nat), (voteClient who = some v)) ∧
    (∃ (d : Dev) (who : Initiator) (w : Word) (v : Nat), (voteClient who = some v)) ∧
    (∃ (d : Dev) (who : Initiator) (n : Nat) (w : Word) (e f : Dev) (asked off : Nat), (e = d.catchUp.rsvd who (Reg.pwrVoteV + 4 * n) w) ∧ (asked = (if 9 ≤ n then e.derivedVotes n else 0)) ∧ (off = asked &&& (0xFFFFFFFF ^^^ w.toNat)) ∧ (f = e.setVotes n (if n = 14 then w.toNat else w.toNat &&& (0xFFFFFFFF ^^^ asked))) ∧ n < 20 ∧ (d.secure who = true)) ∧
    (∃ (d : Dev) (who : Initiator) (n : Nat) (w : Word), 20 ≤ n ∧ n < 32 ∧ (d.secure who = true)) :=
  ⟨by exact ⟨Dev.reset, .host, 0xFFFFFFFF#32, 8, by decide +kernel⟩,
    by exact ⟨Dev.reset, .core 7, 0#32, 7, by decide +kernel⟩,
    by exact ⟨{ Dev.reset with cores := List.replicate 8 { status := 0 } }, .core 0, 19, 2#32, _, _, _, _, rfl, rfl, rfl, rfl, by decide +kernel⟩,
    by exact ⟨{ Dev.reset with cores := List.replicate 8 { status := 0 } }, .core 0, 20, 0#32, by decide +kernel⟩⟩

theorem witness_DomainsFollowTheirTable :
    (∃ (d : Dev) (n : Nat), (d.waitsInrush n = true) ∧ (∀ k, k < n → d.waitsInrush k = false) ∧ (∀ u, d.pwr.inrush = some u → u + usTicks 10 ≤ d.tmb)) ∧
    (∃ (d : Dev) (n : Nat) (e : Dev), (e = (d.setDom n { d.dom n with st := .on, pend := .none }).domainOn n (d.dom n).fromRet) ∧ 1 ≤ n ∧ n < 30 ∧ ((d.dom n).st = .poweringUp) ∧ ((d.dom n).started = true)) ∧
    (∃ (d : Dev) (n : Nat) (e : Dev), (e = d.catchUp) ∧ (e.domSt n = .draining) ∧ (e.drained n = true)) ∧
    (∃ (d : Dev) (n : Nat) (e : Dev), (e = d.catchUp) ∧ (e.domSt n = .draining)) ∧
    (∃ (d : Dev) (n : Nat) (e : Dev), (e = d.setDom n { d.dom n with st := .draining, pend := .none }) ∧ ((d.dom n).st = .on) ∧ ((d.dom n).pend = .down) ∧ (d.tally n = false)) ∧
    (∃ (d : Dev) (n : Nat) (e : Dev), ((d.dom n).st = .isolating)) ∧
    (∃ (d : Dev) (n : Nat), ((d.dom n).st = .switchingOff)) :=
  ⟨by exact ⟨{ Dev.reset with pwr := { Dev.reset.pwr with doms := putAt 27 { st := .poweringUp } Dev.reset.pwr.doms } }, 27, by decide +kernel⟩,
    by exact ⟨{ Dev.reset with pwr := { Dev.reset.pwr with doms := putAt 29 { st := .poweringUp, started := true } Dev.reset.pwr.doms } }, 29, _, rfl, by decide +kernel⟩,
    by exact ⟨{ Dev.reset with pwr := { Dev.reset.pwr with doms := putAt 29 { st := .draining } Dev.reset.pwr.doms } }, 29, _, rfl, by decide +kernel⟩,
    by exact ⟨{ Dev.reset with pwr := { Dev.reset.pwr with doms := putAt 2 { st := .draining } Dev.reset.pwr.doms } }, 2, _, rfl, by decide +kernel⟩,
    by exact ⟨{ Dev.reset with pwr := { Dev.reset.pwr with doms := putAt 2 { st := .on, pend := .down } Dev.reset.pwr.doms } }, 2, _, rfl, by decide +kernel⟩,
    by exact ⟨{ Dev.reset with pwr := { Dev.reset.pwr with doms := putAt 17 { st := .isolating, pend := .up } Dev.reset.pwr.doms } }, 17, Dev.reset, by decide +kernel⟩,
    by exact ⟨{ Dev.reset with pwr := { Dev.reset.pwr with doms := putAt 22 { st := .switchingOff } Dev.reset.pwr.doms } }, 22, by decide +kernel⟩⟩

theorem witness_RailsAndOperatingPointsFollowTheirRules :
    (∃ (d : Dev), (d.nvOk = true)) ∧
    (∃ (d : Dev), d.inv) ∧
    (∃ (d : Dev) (r : Nat), r < 7) ∧
    (∃ (d : Dev) (who : Initiator) (w : Word) (e : Dev), (e = d.plainWrite who Reg.clkOpCtrl w) ∧ (d.domUp 1 = true) ∧ (d.secureOrHost who = true)) ∧
    (∃ (d : Dev) (v : Nat), (d.cluster.step = .ramp v)) ∧
    (∃ (d : Dev) (op : Nat), (d.cluster.step = .relock op)) ∧
    (∃ (d : Dev), d.inv ∧ d.cluster.mv ≠ 0 ∧ (d.cluster.bypass = false)) :=
  ⟨by exact ⟨Dev.reset.wr Fld.sysSupplyStatus_nvOk 1, by decide +kernel⟩,
    by exact ⟨Dev.reset, by unfold Dev.inv Core.ok; decide +kernel⟩,
    by exact ⟨Dev.reset, 6, by decide +kernel⟩,
    by exact ⟨up [1], .host, 0#32, _, rfl, by decide +kernel⟩,
    by exact ⟨{ Dev.reset with cluster := { Dev.reset.cluster with step := .ramp 800 } }, 800, by decide +kernel⟩,
    by exact ⟨{ Dev.reset with cluster := { Dev.reset.cluster with step := .relock 3 } }, 3, by decide +kernel⟩,
    by exact ⟨{ Dev.reset with cluster := { Dev.reset.cluster with mv := 600 } }, by unfold Dev.inv Core.ok; decide +kernel, by decide +kernel⟩⟩

theorem witness_WakeSourcesWake :
    (∃ (d : Dev) (n : Nat) (level : Bool) (e : Dev), (e = { d with pwr := { d.pwr with wakeLevels := putAt n level d.pwr.wakeLevels } }) ∧ n < 4) ∧
    (∃ (d : Dev) (w : Word) (e : Dev), (e = { d.setReg Reg.pwrWakeTimeHi w with pwr := { d.pwr with compareArmed := true } })) ∧
    (∃ (d : Dev), (d.pwr.compareArmed = true) ∧ (d.is Fld.pwrWakeCfg_timerEn = true) ∧ d.wakeTime ≤ d.tmb) ∧
    (∃ (d : Dev) (chips : List Bool) (a : Nat), (d.domSt 29 = .on) ∧ (∀ n ∈ (if d.is Fld.pwrWurxCfg_band then [2, 3] else [0, 1]), d.txActive n = false ∧ ∀ u, alGet n d.pwr.txEnd = some u → u + usTicks 12000 ≤ d.tmb) ∧ (telegramAddr chips = some a) ∧ a ≠ 0) :=
  ⟨by exact ⟨Dev.reset, 3, true, _, rfl, by decide +kernel⟩,
    by exact ⟨Dev.reset, 0#32, _, rfl⟩,
    by exact ⟨({ Dev.reset with pwr := { Dev.reset.pwr with compareArmed := true } } : Dev).wr Fld.pwrWakeCfg_timerEn 1, by decide +kernel⟩,
    by exact ⟨up [29], telegram 1, 1, by decide +kernel⟩⟩

theorem witness_WatchSequencerFollowsItsSteps :
    (∃ (d : Dev) (who : Initiator) (w : Word) (e : Dev), (e = d.plainWrite who Reg.pwrWatchCtrl w) ∧ (∀ n, n < 4 → w.toNat.testBit 0 = true → watchChInvalid (wBits w 1 1) (d.reg (Reg.pwrWatchCh + 4 * n)) = false)) ∧
    (∃ (d : Dev) (e f : Dev), (e = { d with pwr := { d.pwr with watchCfg := [Reg.pwrWatchCtrl, Reg.pwrWatchCh, Reg.pwrWatchCh + 4, Reg.pwrWatchCh + 8, Reg.pwrWatchCh + 12].map d.reg } }) ∧ (f = (if e.rd Fld.pwrWatchPeriod_periodUs < 50 + e.rd Fld.pwrWatchDwell_dwellUs then e.wr Fld.pwrWatchStatus_periodStretched 1 else e)) ∧ (d.is Fld.pwrWatchCtrl_en = true) ∧ (d.domSt 17 = .off) ∧ (d.rd Fld.pwrWatchStatus_state = 1)) ∧
    (∃ (d : Dev), (d.rd Fld.pwrWatchStatus_state = 2) ∧ (d.domSt d.watchDomain = .on) ∧ (((d.lo (if d.watchDomain = 15 then 1 else 0)).lock.isSome) = true)) ∧
    (∃ (d : Dev) (energy corr : List Nat) (hits : List Nat), (hits = (List.range 4).filter fun n => watchHit (d.pwr.watchCfg.getD (n + 1) 0) (energy.getD n 0) (corr.getD n 0)) ∧ (d.rd Fld.pwrWatchStatus_state = 3)) ∧
    (∃ (d : Dev) (e : Dev), (e = (if d.chainState (d.watchDomain - 11) = 5 then d.setChainState (d.watchDomain - 11) 2 else d)) ∧ (d.pwr.watchVote.isSome = true) ∧ d.rd Fld.pwrWatchStatus_state ≠ 2 ∧ d.rd Fld.pwrWatchStatus_state ≠ 3) :=
  ⟨by exact ⟨Dev.reset, .host, 1#32, _, rfl, by decide +kernel⟩,
    by exact ⟨(Dev.reset.wr Fld.pwrWatchCtrl_en 1).wr Fld.pwrWatchStatus_state 1, _, _, rfl, rfl, by decide +kernel⟩,
    by exact ⟨{ (up [11]).wr Fld.pwrWatchStatus_state 2 with rfs := { Dev.reset.rfs with los := [lockedLo, lockedLo] } }, by decide +kernel⟩,
    by exact ⟨Dev.reset.wr Fld.pwrWatchStatus_state 3, [], [], _, rfl, by decide +kernel⟩,
    by exact ⟨{ Dev.reset with pwr := { Dev.reset.pwr with watchVote := some 11 } }, _, rfl, by decide +kernel⟩⟩

theorem witness_CalibrationCommandsRun :
    (∃ (d : Dev) (who : Initiator) (lo c : Nat) (e : Dev), (e = d.rsvd who Reg.rfsCalCmd (calWord 1 lo c)) ∧ (d.secureOrHost who = true) ∧ lo < 6 ∧ c < 256) ∧
    (∃ (d : Dev) (who : Initiator) (lo : Nat) (e : Dev), (e = d.rsvd who Reg.rfsCalCmd (calWord 2 lo 0)) ∧ (d.secureOrHost who = true) ∧ lo < 6) ∧
    (∃ (d : Dev) (who : Initiator) (lo c : Nat) (e : Dev), (e = d.rsvd who Reg.rfsCalCmd (calWord 3 lo c)) ∧ (d.secureOrHost who = true) ∧ lo < 6 ∧ c < 256) ∧
    (∃ (d : Dev) (who : Initiator), (d.secureOrHost who = true)) ∧
    (∃ (d : Dev) (who : Initiator) (e : Dev), (e = d.rsvd who Reg.rfsCalCmd (calWord 5 0 0)) ∧ (d.secureOrHost who = true)) ∧
    (∃ (d : Dev) (c : CalCmd), (d.rfs.cmd = some c) ∧ (d.calDone = true) ∧ (c.op ≠ 5 ∨ c.stage = 0)) :=
  ⟨by exact ⟨Dev.reset, .host, 5, 255, _, rfl, by decide +kernel⟩,
    by exact ⟨Dev.reset, .host, 5, _, rfl, by decide +kernel⟩,
    by exact ⟨Dev.reset, .host, 1, 0, _, rfl, by decide +kernel⟩,
    by exact ⟨Dev.reset, .host, by decide +kernel⟩,
    by exact ⟨Dev.reset, .host, _, rfl, by decide +kernel⟩,
    by exact ⟨{ Dev.reset with rfs := { Dev.reset.rfs with cmd := some { op := 5, lo := 0, chan := 0, doms := [], stage := 0 } } }, { op := 5, lo := 0, chan := 0, doms := [], stage := 0 }, by decide +kernel⟩⟩

theorem witness_OscillatorsCalibrateAndLock :
    (∃ (d : Dev) (lo band trim : Nat) (c : LoCal) (e : Dev), (e = ((d.setLo lo { d.lo lo with cal := none }).entryWrite lo c.chan band trim).loLock lo c.chan) ∧ ((d.lo lo).cal = some c)) ∧
    (∃ (d : Dev) (lo : Nat), lo < 2 ∧ (d.domSt (loDomain lo) = .on) ∧ ((d.lo lo).lock = none) ∧ ((d.lo lo).cal = none) ∧ (d.is Fld.rfsCalEntry_valid lo = true) ∧ (d.is Fld.rfsCalEntry_failed lo = false)) ∧
    (∃ (d : Dev) (n k : Nat), (d.drifted (n + 2) = some k) ∧ n < 4 ∧ (d.is Fld.rfsCalCtrl_bgEn = true) ∧ (d.chainState (6 + n) = 2) ∧ ((d.lo (n + 2)).cal = none) ∧ (∀ c, d.rfs.cmd = some c → c.doms.contains (loDomain (n + 2)) = false) ∧ (d.domSt (18 + n) = .on) ∧ (d.votedByOther (18 + n) = true) ∧ (d.plannedNear n = false)) ∧
    (∃ (d : Dev) (g14 : List Nat), (∀ c, d.rfs.cmd = some c → c.stage = 0 ∨ d.calDone = false) ∧ (d.stageDone = true) ∧ 1 ≤ d.boot.calStage) ∧
    (∃ (d : Dev) (g14 : List Nat) (c : CalCmd) (e : Dev), (e = d.rfs.measured.foldl (fun e n => e.stage6Write n g14) d) ∧ (d.rfs.cmd = some c) ∧ c.stage ≠ 0 ∧ (d.calDone = true)) ∧
    (∃ (d : Dev) (n : Nat) (g14 : List Nat) (e : Dev), (e = d.stage6Write n g14) ∧ n ∈ d.rfs.stage6) ∧
    (∃ (d : Dev) (lo : Nat), lo < 2 ∧ ((d.lo lo).lock.isSome = true)) ∧
    (∃ (d : Dev) (x : Int) (k : Nat), d.inv ∧ k < 11 ∧ (d.domSt (11 + k) = .on)) :=
  ⟨by exact ⟨{ Dev.reset with rfs := { Dev.reset.rfs with los := [{ cal := some ⟨0, .band⟩ }] } }, 0, 63, 63, ⟨0, .band⟩, _, rfl, by decide +kernel⟩,
    by exact ⟨(up [15]).wr Fld.rfsCalEntry_valid 1 1, 1, by decide +kernel⟩,
    by exact ⟨((((up [18]).wr Fld.rfsCalCtrl_bgEn 1).setChainState 6 2).setReg Reg.pwrVoteV 0x40000#32).setReg (Reg.rfsCalEntry + 8) 0x86400000#32, 0, _, rfl, by decide +kernel⟩,
    by exact ⟨{ Dev.reset with boot := { calStage := 6 } }, [0, 255], fun c h => absurd (h.symm.trans (rfl : _ = (none : Option CalCmd))) (by simp), by decide +kernel⟩,
    by exact ⟨{ Dev.reset with rfs := { Dev.reset.rfs with cmd := some { op := 5, lo := 0, chan := 0, doms := [], stage := 2 } } }, [], { op := 5, lo := 0, chan := 0, doms := [], stage := 2 }, _, rfl, by decide +kernel⟩,
    by exact ⟨{ Dev.reset with rfs := { Dev.reset.rfs with stage6 := [3] } }, 3, [], _, rfl, by decide +kernel⟩,
    by exact ⟨{ Dev.reset with rfs := { Dev.reset.rfs with los := [lockedLo, lockedLo] } }, 1, by decide +kernel⟩,
    by exact ⟨up [21], -640, 10, by unfold Dev.inv Core.ok; decide +kernel, by decide +kernel⟩⟩

theorem witness_FramesGoThroughTheChain :
    (∃ (d : Dev) (id : Nat) (e : Dev) (f : TxFrame), (e = d.takeInput id) ∧ (e.frame id = some f) ∧ (f.stage = .scheduled)) ∧
    (∃ (d : Dev) (id req st : Nat) (out : List Byte) (e g : Dev) (f : TxFrame), (e = d.takeInput id) ∧ (g = e.cipherEnd f req st out) ∧ (e.frame id = some f) ∧ (f.stage = .cipher req) ∧ (e.cphResult req = some (st, out))) ∧
    (∃ (d : Dev) (id n a : Nat) (e : Dev) (f : TxFrame) (rest : List Nat), (e = d.takeInput id) ∧ (a = dutyCharge (ticksUs (e.frameTicks f (e.sunPreamble n)))) ∧ (e.frame id = some f) ∧ (f.stage = .scheduled) ∧ (e.nodeHeld f = false) ∧ (e.gate.isOpen = true) ∧ (e.remoteFor f = none) ∧ (e.tp3Ok = true) ∧ (e.commitWaits f.sub = false) ∧ (f.isAck = true → e.ackInTime f = true) ∧ (f.chains.all e.chainBlocked = false) ∧ (f.chains.any (fun n => e.chainOn n && !e.chainBlocked n) = true) ∧ (f.chains.filter e.chainFree = n :: rest) ∧ (e.rivals f).length < rest.length + 1 ∧ (f.badBeacon = false) ∧ (f.phy = 1 → e.domUp 17 = true ∧ e.rd Fld.rxwBlitzSync_sync ≠ 0)) ∧
    (∃ (d : Dev) (n mv : Nat) (f : TxFrame) (e : Dev), (e = (d.setFrame (d.powerSample f n mv)).blankOn n f) ∧ (d.txOn n = some f) ∧ (f.listen = none) ∧ (d.txActive n = false) ∧ d.chainState (6 + n) ≠ 4 ∧ (d.lo (n + 2)).lock ≠ some f.chan ∧ ((d.lo (n + 2)).cal = none)) ∧
    (∃ (d : Dev) (n mv : Nat) (f : TxFrame) (c : LoCal), (d.txOn n = some f) ∧ (f.listen = none) ∧ (d.txActive n = false) ∧ d.chainState (6 + n) ≠ 4 ∧ (d.lo (n + 2)).lock ≠ some f.chan ∧ ((d.lo (n + 2)).cal = some c)) ∧
    (∃ (d : Dev) (n : Nat) (f : TxFrame), (d.txOn n = some f) ∧ (d.chainState (6 + n) = 4)) ∧
    (∃ (d : Dev) (n : Nat) (f : TxFrame), (d.txOn n = some f) ∧ (d.chainState (6 + n) = 4) ∧ ((d.lo (n + 2)).lock = none)) ∧
    (∃ (d : Dev) (id : Nat) (f : TxFrame), (d.frame id = some f)) ∧
    (∃ (d : Dev) (n : Nat) (gnt : Bool) (mv : Nat) (f g : TxFrame) (e : Dev), (g = (if f.g.isNone then d.powerSample f n mv else f)) ∧ (e = (((d.setFrame g).blankOn n g).coexLevel 2 gnt).coexUpdate) ∧ (d.txOn n = some f) ∧ (d.txActive n = false) ∧ (d.txReady f n = true)) ∧
    (∃ (d : Dev) (n : Nat) (f : TxFrame) (e g : Dev), (e = d.setFrame { f with onAir := true, firstChip := f.plan, attempts := f.attempts + 1 }) ∧ (g = ((e.setChainState (6 + n) 6).emit (e.output f n)).raise (0x24 + n)) ∧ (d.txOn n = some f) ∧ (d.chainState (6 + n) = 5)) ∧
    (∃ (d : Dev) (n : Nat), (d.chainState (6 + n) = 6)) ∧
    (∃ (d : Dev) (n used us : Nat) (err : Int) (f : TxFrame) (d1 d2 d3 : Dev), (us = (if f.cut.isSome then used else ticksUs (d.frameTicks f (d.txChain n).preamble))) ∧ (d1 = (d.setChainState (6 + n) 2).setTxChain n { (d.setChainState (6 + n) 2).txChain n with latch := none, near := false }) ∧ (d2 = (match f.duty with | some (e, a) => if f.onAir then d1.dutyChargeFrame e f.sub f.chan a us else d1.dutyRelease e f.sub f.chan a | none => d1)) ∧ (d3 = (if f.onAir ∧ 260 ≤ us then d2.trimStep n err else d2)) ∧ (d.txOn n = some f) ∧ (d.chainState (6 + n) = 7)) :=
  ⟨by exact ⟨{ up [10, 18, 19] with tx := { frames := [fr .scheduled] }, gate := openGate }, 7, _, fr .scheduled, rfl, by decide +kernel⟩,
    by exact ⟨{ up [10, 18, 19] with tx := { frames := [fr (.cipher 3)] }, gate := openGate, cph := { Dev.reset.cph with results := [(3, 0, [])] } }, 7, 3, 0, [], _, _, fr (.cipher 3), rfl, rfl, by decide +kernel⟩,
    by exact ⟨{ up [10, 18, 19] with tx := { frames := [fr .scheduled] }, gate := openGate }, 7, 0, _, _, fr .scheduled, [1], rfl, rfl, by decide +kernel⟩,
    by exact ⟨{ up [10, 21] with tx := { frames := [fr (.committed 3)] } }, 3, 1800, fr (.committed 3), _, rfl, by decide +kernel⟩,
    by exact ⟨{ up [10, 21] with tx := { frames := [fr (.committed 3)] }, rfs := { Dev.reset.rfs with los := [{}, {}, {}, {}, {}, { cal := some ⟨26, .background⟩ }] } }, 3, 1800, fr (.committed 3), ⟨26, .background⟩, by decide +kernel⟩,
    by exact ⟨({ up [10, 21] with tx := { frames := [fr (.committed 3)] } } : Dev).setChainState 9 4, 3, fr (.committed 3), by decide +kernel⟩,
    by exact ⟨({ up [10, 21] with tx := { frames := [fr (.committed 3)] } } : Dev).setChainState 9 4, 3, fr (.committed 3), by decide +kernel⟩,
    by exact ⟨{ up [10, 21] with tx := { frames := [fr (.committed 3)] } }, 7, fr (.committed 3), by decide +kernel⟩,
    by exact ⟨{ up [10, 21] with tx := { frames := [{ fr (.committed 3) with g := some 0 }] }, rfs := { Dev.reset.rfs with los := [{}, {}, {}, {}, {}, { lock := some 26 }] } }, 3, true, 1800, { fr (.committed 3) with g := some 0 }, _, _, rfl, rfl, by decide +kernel⟩,
    by exact ⟨({ up [10, 21] with tx := { frames := [fr (.committed 3)] } } : Dev).setChainState 9 5, 3, fr (.committed 3), _, _, rfl, rfl, by decide +kernel⟩,
    by exact ⟨Dev.reset.setChainState 9 6, 3, by decide +kernel⟩,
    by exact ⟨({ up [10, 21] with tx := { frames := [fr (.committed 3)] } } : Dev).setChainState 9 7, 3, 0, _, 0, fr (.committed 3), _, _, _, rfl, rfl, rfl, rfl, by decide +kernel⟩⟩

theorem witness_RadioFailuresAndWaitsEnd :
    (∃ (d : Dev) (lo : Nat) (c : LoCal) (x : Dev × Bool) (e k : Dev), (x = d.lockFailure lo c.chan) ∧ (e = x.1.setLo lo { x.1.lo lo with cal := none }) ∧ (k = (match e.rfs.cmd with | some q => if c.kind = CalKind.command then { e with rfs := { e.rfs with cmd := some { q with result := 1 } } } else e | none => e)) ∧ ((d.lo lo).cal = some c)) ∧
    (∃ (d : Dev) (lo : Nat), (d.lo lo).lock ≠ none) ∧
    (∃ (d : Dev) (n : Nat) (keep : Option Nat) (ends : List (Nat × Nat)), ((∃ f, d.txOn n = some f ∧ keep = (if d.chainState (6 + n) = 4 ∨ d.chainState (6 + n) = 5 ∨ d.chainState (6 + n) = 6 ∨ (d.chainState (6 + n) = 3 ∧ f.g.isSome = true) then some (chanKey f.sub f.chan) else none)) ∨ (d.txOn n = none ∧ keep = none)) ∧ (ends = d.rxw.txBlank.filter fun b => b.1 = n && some b.2 != keep)) ∧
    (∃ (d : Dev) (n : Nat) (lower upper : MaskPowers) (f : TxFrame) (e : Dev), (e = d.bump Fld.txpMaskStatus_near n) ∧ n < 4 ∧ (d.chainState (6 + n) = 6 ∨ d.chainState (6 + n) = 7) ∧ (d.txOn n = some f)) ∧
    (∃ (d : Dev) (n : Nat) (p : Int) (f : TxFrame), (d.txOn n = some f) ∧ (f.listen.isSome = true)) ∧
    (∃ (d : Dev) (id : Nat) (f : TxFrame) (till : Nat) (e : Dev), (e = d.cellFail f) ∧ (d.frame id = some f) ∧ (f.stage = .ackWait till)) ∧
    (∃ (d : Dev) (id : Nat) (f : TxFrame) (till : Nat), (d.frame id = some f) ∧ (f.stage = .retryWait till)) :=
  ⟨by exact ⟨{ Dev.reset with rfs := { Dev.reset.rfs with los := [{ cal := some ⟨0, .band⟩ }] } }, 0, ⟨0, .band⟩, _, _, _, rfl, rfl, rfl, by decide +kernel⟩,
    by exact ⟨{ Dev.reset with rfs := { Dev.reset.rfs with los := [lockedLo, lockedLo] } }, 1, by decide +kernel⟩,
    by exact ⟨Dev.reset, 3, none, _, Or.inr ⟨by decide +kernel, rfl⟩, rfl⟩,
    by exact ⟨({ up [10, 21] with tx := { frames := [fr (.committed 3)] } } : Dev).setChainState 9 6, 3, ⟨0, 0, 0⟩, ⟨0, 0, 0⟩, fr (.committed 3), _, rfl, by decide +kernel⟩,
    by exact ⟨{ up [10, 21] with tx := { frames := [{ fr (.committed 3) with listen := some 128 }] } }, 3, 0, { fr (.committed 3) with listen := some 128 }, by decide +kernel⟩,
    by exact ⟨{ up [10, 21] with tx := { frames := [fr (.ackWait 0)] } }, 7, fr (.ackWait 0), 0, _, rfl, by decide +kernel⟩,
    by exact ⟨{ up [10, 21] with tx := { frames := [fr (.retryWait 0)] } }, 7, fr (.retryWait 0), 0, by decide +kernel⟩⟩

theorem witness_CoexistenceFollowsItsRoles :
    (∃ (d : Dev) (who : Initiator) (w : Word), (d.domUp 1 = true) ∧ (d.secureOrHost who = true) ∧ wBits w 1 0 ≠ 3) ∧
    (∃ (d : Dev), (d.domUp 1 = true) ∧ (∀ n ∈ d.coexChains, d.chainShown (6 + n) = 0 ∨ d.chainShown (6 + n) = 2) ∧ d.coex.role ≠ d.rd Fld.coexCfg_role) ∧
    (∃ (d : Dev) (n : Nat) (f : TxFrame), (d.txOn n = some f) ∧ (d.coex.role = 1) ∧ (d.coexPart n = true) ∧ (d.domUp 1 = true) ∧ (∀ r ∈ d.coex.reqs, r.1 ≠ f.id)) ∧
    (∃ (d : Dev) (s : Nat) (w : NodeWin), (d.coex.role = 1) ∧ (d.domUp 1 = true) ∧ (d.is Fld.coexCfg_rxReq = true) ∧ (∀ r ∈ d.coex.reqs, r.1 ≠ 2 ^ 32 + s) ∧ w ∈ d.tempo.wins ∧ (w.slot = s) ∧ w.phase ≠ .releasing ∧ (w.sub = true → d.is Fld.coexCfg_subghz = true)) ∧
    (∃ (d : Dev) (e : Dev), (e = (d.coexLevel 2 false).coexUpdate)) ∧
    (∃ (d : Dev) (req pri act : Bool) (e g : Dev), (e = (((d.coexLevel 0 req).coexLevel 1 pri).coexLevel 3 act)) ∧ (g = ({ e with coex := { e.coex with reqs := e.coex.reqs.filter e.reqLive } } : Dev).reqIn) ∧ (d.domSt 1 = .on) ∧ (d.coex.role = 2)) ∧
    (∃ (d : Dev) (req pri act : Bool), d.coex.role ≠ 2) :=
  ⟨by exact ⟨up [1], .host, 2#32, by decide +kernel⟩,
    by exact ⟨(up [1]).wr Fld.coexCfg_role 2, by decide +kernel⟩,
    by exact ⟨{ up [1, 10, 18] with tx := { frames := [fr (.committed 0)] }, coex := { role := 1 } }, 0, fr (.committed 0), by decide +kernel⟩,
    by exact ⟨{ (up [1, 22]).wr Fld.coexCfg_rxReq 1 with coex := { role := 1 }, tempo := { Dev.reset.tempo with wins := [win5] } }, 5, win5, by decide +kernel⟩,
    by exact ⟨Dev.reset, _, rfl⟩,
    by exact ⟨{ up [1] with coex := { role := 2 } }, true, true, true, _, _, rfl, rfl, by decide +kernel⟩,
    by exact ⟨{ up [1] with coex := { role := 1 } }, true, true, true, by decide +kernel⟩⟩

theorem witness_EventSourcesAct :
    (∃ (d : Dev) (p : Nat) (level : Bool) (e : Dev), (e = { d with pins := { d.pins with gpioIn := putBitN d.pins.gpioIn p level } }) ∧ p < 32 ∧ d.pins.gpioIn.testBit p ≠ level) ∧
    (∃ (d : Dev) (who : Initiator) (n : Nat) (w : Word) (e : Dev), (e = ((d.rsvd who (Reg.evrTmrCtrl + 8 * n) (w ||| 4#32)).wr Fld.evrTmrCtrl_periodic (wBits (w ||| 4#32) 1 1) n).timerStart n) ∧ (d.domUp 1 = true) ∧ n < 8 ∧ (d.secureOrHost who = true)) ∧
    (∃ (d : Dev) (who : Initiator) (n : Nat) (w : Word) (e f : Dev), (e = (d.rsvd who (Reg.evrTmrCtrl + 8 * n) (w ||| 8#32)).wr Fld.evrTmrCtrl_periodic (wBits (w ||| 8#32) 1 1) n) ∧ (f = (if wBits (w ||| 8#32) 2 2 = 1 then e.timerStart n else e)) ∧ (d.domUp 1 = true) ∧ n < 8 ∧ (d.secureOrHost who = true)) ∧
    (∃ (d : Dev) (n x : Nat), (alGet n d.evr.expiry = some x)) ∧
    (∃ (d : Dev) (p n u : Nat), ((d.chanLog n).trippedAt = some u) ∧ (d.domUp 1 = true) ∧ (d.domUp 10 = true) ∧ (d.is Fld.evrEcCfg_arm n = false) ∧ (d.pairOwns p n = true) ∧ (d.pairs.retired.contains p = false) ∧ ((d.chanLog n).barred = false) ∧ u + usTicks 1000 ≤ d.tmb) :=
  ⟨by exact ⟨Dev.reset, 31, true, _, rfl, by decide +kernel⟩,
    by exact ⟨up [1], .host, 7, 0#32, _, rfl, by decide +kernel⟩,
    by exact ⟨up [1], .host, 7, 0#32, _, _, rfl, rfl, by decide +kernel⟩,
    by exact ⟨{ Dev.reset with evr := { Dev.reset.evr with expiry := [(7, 5)] } }, 7, 5, by decide +kernel⟩,
    by exact ⟨{ (up [1, 10]).wr Fld.evrEcCfg_owner 10 63 with tmb := 32000, evr := { Dev.reset.evr with logs := [(63, { trippedAt := some 0 })] } }, 0, 63, 0, by decide +kernel⟩⟩

theorem witness_ChannelsAndInterruptsFollowTheirRules :
    (∃ (d : Dev) (who : Initiator) (n : Nat) (w : Word), (d.domUp 1 = true) ∧ n < 64 ∧ (d.monitor who = true ∨ (d.ownsChannel who n = true ∧ wBits w 30 26 = wBits (d.reg (Reg.evrEcCfg + 8 * n)) 30 26)) ∧ (srcListed (wBits w 7 0) = true) ∧ (taskListed (wBits w 15 8) = true) ∧ wBits w 29 26 ≠ 15 ∧ (wBits w 31 31 = 1 → (wBits w 30 30 = 1 → secureOnlyChannel (wBits w 7 0) (wBits w 15 8) = false) ∧ (0x80 ≤ wBits w 15 8 → wBits w 15 8 < 0x90 → d.femcOwned (wBits w 15 8 - 0x80) = false) ∧ armCycle d.cellComb (w.toNat :: (d.armed.filter fun c => c.1 != n).map fun c => c.2.toNat) = false)) ∧
    (∃ (d : Dev) (who : Initiator) (k : Nat) (w : Word), (d.domUp 1 = true) ∧ k < 32 ∧ (d.secureOrHost who = true) ∧ (luValid w = true) ∧ (armCycle (fun j => if j = k then wBits w 2 0 = 1 && wBits w 3 3 = 0 else d.cellComb j) (d.armed.map fun c => c.2.toNat) = false)) ∧
    (∃ (d : Dev) (who : Initiator) (n : Nat) (w : Word), (d.domUp 1 = true) ∧ (irqListed n = true) ∧ (d.mayCfgIrq who n w = true)) ∧
    (∃ (d : Dev) (who : Initiator) (j : Nat) (w : Word), (d.domUp 1 = true) ∧ j < 8) ∧
    (∃ (d : Dev) (who : Initiator) (n : Nat), (who = .core n) ∧ (d.domUp 1 = true) ∧ n < 8) ∧
    (∃ (d : Dev) (who : Initiator) (w : Word), (who = .host ∨ ∃ n, who = .core n) ∧ (d.domUp 1 = true)) :=
  ⟨by exact ⟨{ up [1] with cores := List.replicate 8 { status := 2 } }, .core 0, 63, 0#32, by decide +kernel⟩,
    by exact ⟨up [1], .host, 31, 0#32, by decide +kernel⟩,
    by exact ⟨{ up [1] with cores := List.replicate 8 { status := 2 } }, .core 0, 231, 0#32, by decide +kernel⟩,
    by exact ⟨up [1], .host, 7, 0xFFFFFFFF#32, by decide +kernel⟩,
    by exact ⟨up [1], _, 7, rfl, by decide +kernel⟩,
    by exact ⟨up [1], .host, 0xFFFFFFFF#32, Or.inl rfl, by decide +kernel⟩⟩

theorem witness_GainControlFollowsItsRules :
    (∃ (d : Dev) (m full : Nat) (peak : Int), m < 6 ∧ (d.domUp 17 = true) ∧ (d.receiving m = true) ∧ (d.rd Fld.rxwGainCfg_mode (bandOfChain m) = 0) ∧ (d.castlingOf m = none)) ∧
    (∃ (d : Dev) (m n : Nat) (peak hi lo : Int), (hi = -50 * (d.rd Fld.rxwGainCfg_hi (bandOfChain m) : Int)) ∧ (lo = -50 * (d.rd Fld.rxwGainCfg_lo (bandOfChain m) : Int)) ∧ (n = min (10 - d.gainStep m) ((hi - peak) / 602 - 1).toNat) ∧ m < 6 ∧ (d.domUp 17 = true) ∧ (d.receiving m = true) ∧ (d.rd Fld.rxwGainCfg_mode (bandOfChain m) = 0) ∧ (d.castlingOf m = none)) ∧
    (∃ (d : Dev) (m frac n : Nat) (dir : Bool) (e f : Dev), (e = ((((((d.setGain m { d.rxw.gains.getD m {} with castling := none, manual := none, lastN := some d.tmb }).wr Fld.rxwGainStatus_step (if dir then d.gainStep m + n else d.gainStep m - n) m).wr Fld.rxwGainStatus_lastN n m).wr Fld.rxwGainStatus_lastUp (b2n dir) m).wr Fld.rxwGainStatus_lastFrac frac m).bump Fld.rxwGainStatus_castlings m).wr Fld.rxwGainLast_last d.tmb m) ∧ (f = { e with rxw := { e.rxw with lanes := e.rxw.lanes.mapIdx (laneCastled m) } }) ∧ m < 6 ∧ (d.domUp 17 = true) ∧ (d.castlingOf m = some (dir, n))) ∧
    (∃ (d : Dev) (who : Initiator) (b : Nat) (w : Word) (e : Dev), (e = (if getBits w 26 2 ≠ 0 then d.errRsvd who false (Reg.rxwGainCfg + 4 * b) else d).setReg (Reg.rxwGainCfg + 4 * b) (w &&& ~~~ fieldMask 26 2)) ∧ b < 2 ∧ (d.domUp 17 = true) ∧ getBits w 28 4 ≤ 10 ∧ getBits w 24 2 ≠ 3 ∧ getBits w 16 8 ≠ 0 ∧ getBits w 0 8 + 25 ≤ getBits w 8 8) ∧
    (∃ (d : Dev) (sub : Bool) (c ant : Nat) (p : Rat) (n : Noise) (e : Dev), (n = noiseUpdate ((alGet (noiseKey sub c ant) d.rxw.noise).getD ⟨0, 0, 0⟩) p) ∧ (e = { d with rxw := { d.rxw with noise := alSet (noiseKey sub c ant) n d.rxw.noise } }) ∧ (d.idleWindowOk sub c ant = true)) :=
  ⟨by exact ⟨((up [16, 17]).setChainState 5 3).wr Fld.rxwGainCfg_mode 0 1, 5, 64, 0, by decide +kernel⟩,
    by exact ⟨((up [16, 17]).setChainState 5 3).wr Fld.rxwGainCfg_mode 0 1, 5, _, 0, _, _, rfl, rfl, rfl, by decide +kernel⟩,
    by exact ⟨(up [17]).setCastling 5 (some (true, 1)), 5, 7, 1, true, _, _, rfl, rfl, by decide +kernel⟩,
    by exact ⟨up [17], .host, 1, 0xA2011900#32, _, rfl, by decide +kernel⟩,
    by exact ⟨(up [17]).setChainState 3 3, false, 26, 3, 0, _, _, rfl, rfl, by decide +kernel⟩⟩

theorem witness_LanesReceiveFrames :
    (∃ (d : Dev) (x : Detection) (e : Dev), (e = d.chanBusy x.sub x.chan) ∧ (d.domUp 17 = true) ∧ (d.chanDefined x.sub x.chan = true) ∧ (x.ant < (if x.sub then 2 else 4)) ∧ (d.receiving (if x.sub then 4 + x.ant else x.ant) = true) ∧ (d.blanked x.sub x.chan = false) ∧ (d.lanesOn x.sub x.chan = []) ∧ (d.criterion x (d.chanCfg x.sub x.chan) false = true)) ∧
    (∃ (d : Dev) (x : Detection) (a : Nat) (rest : List Nat) (e : Dev), (e = d.chanBusy x.sub x.chan) ∧ (d.domUp 17 = true) ∧ (d.chanDefined x.sub x.chan = true) ∧ (x.ant < (if x.sub then 2 else 4)) ∧ (d.receiving (if x.sub then 4 + x.ant else x.ant) = true) ∧ (d.blanked x.sub x.chan = false) ∧ (d.lanesOn x.sub x.chan = a :: rest) ∧ (d.criterion x (d.chanCfg x.sub x.chan) true = true) ∧ (e.merged x = false) ∧ (x.selfTiming = false ∨ x.phaseCorr < 900)) ∧
    (∃ (d : Dev) (j : Nat), ((d.lane j).phase = .sync)) ∧
    (∃ (d : Dev) (j m : Nat) (f : FreezeInfo) (n : List Rat × Bool) (x : List Cplx × Dev), (m = (d.lane j).antMask - ((d.lane j).antMask &&& (d.lane j).lost)) ∧ (n = d.noisePowers (decide (64 ≤ j)) (d.lane j).chan m) ∧ (x = d.weightsOr (mrcWeights (antsOf m) n.1 f.h)) ∧ ((d.lane j).phase = .sync)) ∧
    (∃ (d : Dev) (j phr : Nat) (coded : Bool), ((d.lane j).phase = .decode)) ∧
    (∃ (d : Dev) (j : Nat) (psdu : List Byte) (snr : Int) (fails : Nat), ((d.lane j).phase = .decode) ∧ (d.lane j).len ≠ 0 ∧ (psdu.length = (d.lane j).len)) ∧
    (∃ (d : Dev) (j : Nat), ((d.lane j).phase = .stalled)) ∧
    (∃ (d : Dev) (j : Nat) (x : ForkEstimate) (ants : List Nat), (ants = antsOf ((d.lane j).antMask - ((d.lane j).antMask &&& (d.lane j).lost))) ∧ ((d.lane j).phase = .decode) ∧ ((d.lane j).forkOrigin = true) ∧ (innerOver ants (d.lane j).s2 x.h x.h).re ≠ 0 ∧ (separable ants (d.lane j).s2 (d.lane j).h x.h = true)) ∧
    (∃ (d : Dev), (d.subBusy = false) ∧ d.rd Fld.rxwSubCfg_mode ≠ d.rxw.mode) :=
  ⟨by exact ⟨(up [17]).setChainState 3 3, ⟨false, 26, 0, 3, 255, 255, 255, 2, 0, false, 0⟩, _, rfl, by decide +kernel⟩,
    by exact ⟨({ up [17] with rxw := { (up [17]).rxw with lanes := putAt 3 { phase := .decode, chan := 26, antMask := 1 } (up [17]).rxw.lanes } } : Dev).setChainState 3 3, ⟨false, 26, 0, 3, 255, 255, 255, 4, 0, false, 0⟩, 3, [], _, rfl, by decide +kernel⟩,
    by exact ⟨laneIn 95 .sync, 95, by decide +kernel⟩,
    by exact ⟨laneIn 95 .sync, 95, _, { agcGain := 0, h := [], rssi := [], phase := [], freqOff := 0, tsFrac := 0 }, _, _, rfl, rfl, rfl, by decide +kernel⟩,
    by exact ⟨laneIn 95 .decode, 95, 0, false, by decide +kernel⟩,
    by exact ⟨laneIn 95 .decode 3, 95, [0#8, 0#8, 0#8], 53, 0, by decide +kernel⟩,
    by exact ⟨laneIn 95 .stalled, 95, by decide +kernel⟩,
    by exact ⟨{ up [17] with rxw := { (up [17]).rxw with lanes := putAt 95 { phase := .decode, forkOrigin := true, ts := 100000, antMask := 1, s2 := [1] } (up [17]).rxw.lanes } }, 95, ⟨[⟨1, 0⟩], 5⟩, _, rfl, by decide +kernel⟩,
    by exact ⟨Dev.reset.wr Fld.rxwSubCfg_mode 1, by decide +kernel⟩⟩

theorem witness_PulseTablesAndRegionFollowTheirRules :
    (∃ (d : Dev) (who : Initiator) (n x : Nat), n < 4 ∧ x < 3 ∧ (d.domUp (18 + n) = true)) ∧
    (∃ (d : Dev) (who : Initiator) (n x : Nat), n < 4 ∧ x < 3 ∧ (d.domUp (18 + n) = true)) ∧
    (∃ (d : Dev) (n x : Nat), n < 4 ∧ x < 3 ∧ (d.shapePending n x = true) ∧ (d.txActive n = false)) ∧
    (∃ (d : Dev) (who : Initiator) (w : Nat), (d.domUp 1 = true) ∧ (d.secure who = true) ∧ (d.is Fld.regProgStatus_busy = false)) ∧
    (∃ (d : Dev) (who : Initiator), (d.domUp 1 = true) ∧ (d.secure who = true) ∧ (d.is Fld.regProgStatus_busy = false)) ∧
    (∃ (d : Dev) (flips : List (Nat × Nat)) (e : Dev), (e = flips.foldl (fun d f => if f.1 < 32 then d.setReg (Reg.regMirrorW + 4 * f.1) (d.reg (Reg.regMirrorW + 4 * f.1) ^^^ BitVec.ofNat 32 f.2) else d) d) ∧ (d.domUp 1 = true)) ∧
    (∃ (d : Dev) (w : Nat) (e f g : Dev), (e = { d.mirrorLoadWord w with region := { (d.mirrorLoadWord w).region with reloading := (d.mirrorLoadWord w).region.reloading.filter (· != w) } }) ∧ (f = { e with region := { e.region with bad := e.region.bad.filter (· != w) } }) ∧ (g = (f.free 32).2) ∧ (d.domUp 1 = true) ∧ w ∈ d.region.reloading ∧ ((e.mirrorWord w).isSome = true)) ∧
    (∃ (d : Dev) (e : Dev), (e = ((1 :: (List.range 128).map (· + 34)).foldl (fun d n => d.wr Fld.rfsCalEntry_valid 0 n) ({ d with region := { d.region with band := d.w1Band.1, grid := d.w1Band.2 } } : Dev)).rxwBand) ∧ (d.domUp 1 = true) ∧ (d.subBusy = false) ∧ (d.chainState 8 = 0 ∨ d.chainState 8 = 2) ∧ (d.chainState 9 = 0 ∨ d.chainState 9 = 2) ∧ d.w1Band ≠ (d.region.band, d.region.grid)) ∧
    (∃ (d : Dev) (e f g : Dev), (e = { d with duty := { d.duty with second := d.duty.second + 1 } }) ∧ (f = { e with duty := { e.duty with dwell := e.duty.dwell.filter fun b => decide (e.duty.second < b.2.1 + 60) } }) ∧ (g = (List.range 8).foldl Dev.bucketEntry f)) :=
  ⟨by exact ⟨up [21], .host, 3, 2, by decide +kernel⟩,
    by exact ⟨up [21], .host, 3, 2, by decide +kernel⟩,
    by exact ⟨(up [21]).wr (shapeCtrl 3 4) 4, 3, 2, by decide +kernel⟩,
    by exact ⟨{ up [1] with cores := List.replicate 8 { status := 2 } }, .core 0, 31, by decide +kernel⟩,
    by exact ⟨{ up [1] with cores := List.replicate 8 { status := 2 } }, .core 0, by decide +kernel⟩,
    by exact ⟨up [1], [], _, rfl, by decide +kernel⟩,
    by exact ⟨{ up [1] with region := { reloading := [31] }, otpRegion := [(63, ⟨1, 0xFFFFFFFE⟩)] }, 31, _, _, _, rfl, rfl, rfl, by decide +kernel⟩,
    by exact ⟨{ up [1] with region := { band := 1 } }, _, rfl, by decide +kernel⟩,
    by exact ⟨Dev.reset, _, _, _, rfl, rfl, rfl⟩⟩

theorem witness_KeyCommandsAct :
    (∃ (d : Dev) (who : Initiator) (slot : Nat) (e f : Dev), (e = d.wr Fld.keyStatus_busy 1) ∧ (f = e.putKey slot (e.keyData.take (if e.is Fld.keyArg_keylen then 32 else 16)) (e.is Fld.keyArg_keylen) (e.rd Fld.keyArg_engines) 0 0 0) ∧ (d.domUp 25 = true) ∧ (d.secure who = true) ∧ (d.is Fld.keyStatus_busy = false) ∧ slot < 512 ∧ (e.keyRefusal 1 slot false = none)) ∧
    (∃ (d : Dev) (who : Initiator) (slot : Nat) (e f : Dev), (e = d.wr Fld.keyStatus_busy 1) ∧ (f = e.zeroSlot slot) ∧ (d.domUp 25 = true) ∧ (d.secure who = true) ∧ (d.is Fld.keyStatus_busy = false) ∧ slot < 512 ∧ (e.keyRefusal 2 slot false = none)) ∧
    (∃ (d : Dev) (who : Initiator) (slot : Nat) (kek : Bool) (e f : Dev) (k : List Byte), (e = d.wr Fld.keyStatus_busy 1) ∧ (e.blobKey kek = .ok k) ∧ (d.domUp 25 = true) ∧ (d.secure who = true) ∧ (d.is Fld.keyStatus_busy = false) ∧ slot < 512 ∧ (e.keyRefusal 3 slot kek = none)) ∧
    (∃ (d : Dev) (who : Initiator) (slot : Nat) (kek : Bool) (e f : Dev) (k : List Byte), (e = d.wr Fld.keyStatus_busy 1) ∧ (e.blobKey kek = .ok k) ∧ (f = e) ∧ (d.domUp 25 = true) ∧ (d.secure who = true) ∧ (d.is Fld.keyStatus_busy = false) ∧ slot < 512 ∧ (e.keyRefusal 4 slot kek = none)) ∧
    (∃ (d : Dev) (who : Initiator) (slot : Nat) (e f : Dev), (e = d.wr Fld.keyStatus_busy 1) ∧ (f = e.putKey slot (kdfRaw (e.keyBytes (e.rd Fld.keyArg_src)) (e.keyData.take (e.rd Fld.keyArg_len)) (if e.is Fld.keyArg_keylen then 256 else 128)) (e.is Fld.keyArg_keylen) (e.rd Fld.keyArg_engines) 2 0 0) ∧ (d.domUp 25 = true) ∧ (d.secure who = true) ∧ (d.is Fld.keyStatus_busy = false) ∧ slot < 512 ∧ (e.keyRefusal 5 slot false = none)) ∧
    (∃ (d : Dev) (who : Initiator) (slot : Nat) (e f : Dev), (e = d.wr Fld.keyStatus_busy 1) ∧ (f = e.wr Fld.keySlotAttr_lock 1 slot) ∧ (d.domUp 25 = true) ∧ (d.secure who = true) ∧ (d.is Fld.keyStatus_busy = false) ∧ slot < 512 ∧ (e.keyRefusal 6 slot false = none)) ∧
    (∃ (d : Dev) (who : Initiator) (slot : Nat) (e f : Dev), (e = d.wr Fld.keyStatus_busy 1) ∧ (f = e.putKey slot ((List.range (if e.is Fld.keyArg_keylen then 8 else 4)).flatMap fun j => natLe 4 (e.fuse (Fuse.kr (e.keyRows.getD 0) (e.rd Fld.keyArg_src % 64 + j)))) (e.is Fld.keyArg_keylen) (e.rd Fld.keyArg_engines) 3 0 0) ∧ (d.domUp 25 = true) ∧ (d.secure who = true) ∧ (d.is Fld.keyStatus_busy = false) ∧ slot < 512 ∧ (e.keyRefusal 7 slot false = none)) ∧
    (∃ (d : Dev) (who : Initiator) (slot : Nat) (e f : Dev), (e = d.wr Fld.keyStatus_busy 1) ∧ (f = e) ∧ (d.domUp 25 = true) ∧ (d.secure who = true) ∧ (d.is Fld.keyStatus_busy = false) ∧ slot < 512 ∧ (e.keyRefusal 8 slot false = none)) :=
  ⟨by exact ⟨keyDev, .core 0, 63, _, _, rfl, rfl, by decide +kernel⟩,
    by exact ⟨keyDev, .core 0, 63, _, _, rfl, rfl, by decide +kernel⟩,
    by exact ⟨keyDevM, .core 0, 0, false, _, Dev.reset, [], rfl, rfl, by decide +kernel⟩,
    by exact ⟨keyDevM, .core 0, 63, true, _, _, [], rfl, rfl, rfl, by decide +kernel⟩,
    by exact ⟨(keyDevM.wr Fld.keyArg_src 63).wr Fld.keyArg_engines 1, .core 0, 0, _, _, rfl, rfl, by decide +kernel⟩,
    by exact ⟨keyDev, .core 0, 63, _, _, rfl, rfl, by decide +kernel⟩,
    by exact ⟨keyDevM, .core 0, 0, _, _, rfl, rfl, by decide +kernel⟩,
    by exact ⟨keyDevM.wr Fld.sysSupplyStatus_nvOk 1, .core 0, 0, _, _, rfl, rfl, by decide +kernel⟩⟩

theorem witness_KeyRegistersAndOtpAct :
    (∃ (d : Dev) (o : KeyOp), (d.keys.op = some o) ∧ (o.bits = [])) ∧
    (∃ (d : Dev) (who : Initiator) (n : Nat) (w : Word) (e f : Dev), (e = (d.rsvd who (Reg.keySlotAttr + 4 * n) w).wr Fld.keySlotAttr_engines (d.attrEngines n &&& wBits w 21 16) n) ∧ (f = (if w.toNat.testBit 30 then e.wr Fld.keySlotAttr_lock 1 n else e)) ∧ (d.domUp 25 = true) ∧ n < 512 ∧ (d.secure who = true) ∧ (d.is Fld.keySlotAttr_lock n = false) ∧ (d.inPool n = false)) ∧
    (∃ (d : Dev) (who : Initiator) (w : Word), (d.domUp 25 = true) ∧ (d.secure who = true) ∧ (d.is Fld.keyBlobCfg_lock = true ∨ w.toNat.testBit 0 = false ∨ (d.is Fld.keySlotAttr_lock (wBits w 24 16) = true ∧ (d.attrEngines (wBits w 24 16)).testBit 4 = true))) ∧
    (∃ (d : Dev) (who : Initiator) (w : Word), (d.domUp 25 = true) ∧ (d.secure who = true) ∧ wBits w 8 0 + wBits w 25 16 ≤ 512 ∧ wBits w 25 16 ≠ 0 ∧ (d.poolSlots.any d.attrValid = false) ∧ (∀ j, j < wBits w 25 16 → d.attrValid (wBits w 8 0 + j) = false)) ∧
    (∃ (d : Dev) (e : Dev), (e = d.remask (d.keys.slots.map (·.1))) ∧ (d.domUp 25 = true)) ∧
    (∃ (d : Dev) (who : Initiator) (w : Word), (d.domUp 1 = true) ∧ (d.secure who = true) ∧ (wBits w 31 16 = 0x1C5E) ∧ (((d.rsvd who Reg.otpLcCmd w).lcRequest (w.toNat.testBit 8) (wBits w 2 0)).2 = true)) ∧
    (∃ (d : Dev) (r : LcRun), (d.lc = some r) ∧ (r.bits = []) ∧ (d.lcPaused = false)) :=
  ⟨by exact ⟨{ Dev.reset with keys := { Dev.reset.keys with op := some ⟨1, 511, 0, [], []⟩ } }, ⟨1, 511, 0, [], []⟩, by decide +kernel⟩,
    by exact ⟨keyDev, .core 0, 63, 0xFFFFFFFF#32, _, _, rfl, rfl, by decide +kernel⟩,
    by exact ⟨keyDev, .core 0, 0#32, by decide +kernel⟩,
    by exact ⟨keyDev, .core 0, 0x000101FF#32, by decide +kernel⟩,
    by exact ⟨up [25], _, rfl, by decide +kernel⟩,
    by exact ⟨{ keyDev with pwr := (up [1]).pwr }, .core 0, 0x1C5E0001#32, by decide +kernel⟩,
    by exact ⟨{ Dev.reset with lc := some { target := 1, source := 0, step := 6, entry := 0 } }, { target := 1, source := 0, step := 6, entry := 0 }, by decide +kernel⟩⟩

theorem witness_CipherArrayServesRequests :
    (∃ (d : Dev) (slot : Nat) (r : Dev × UnwrapEnd), (r = d.nodeUnwrap slot) ∧ (d.domUp 25 = true) ∧ (d.domUp 22 = true)) ∧
    (∃ (d : Dev) (who : Initiator) (n a : Nat) (e : Dev) (r : CipherReq), (who = .core n) ∧ (e = d.descResult a Code.pending 0) ∧ (r = { descReq n a (d.bytes a 32) with id := e.cph.nextId, admitted := e.tmb }) ∧ (d.domUp 24 = true) ∧ (a % 32 = 0) ∧ ((0x04000000 + n * 0x100000 + 0x20000 ≤ a ∧ a + 32 ≤ 0x04000000 + n * 0x100000 + 0x60000) ∨ (0x10000000 ≤ a ∧ a + 32 ≤ 0x10C00000) ∨ (0x11000000 ≤ a ∧ a + 32 ≤ 0x11200000)) ∧ (d.normalCore who = true → secureOnlyMem a = false) ∧ (d.memUp a 32 = true)) ∧
    (∃ (d : Dev) (n : Nat) (ns : List Nat) (r : CipherReq), (d.startUnwraps.freeEngines = n :: ns) ∧ (d.startUnwraps.nextRequest = some r)) ∧
    (∃ (d : Dev) (k : BlockBoundary) (n : Nat) (r : CipherReq) (x : Running) (b : Dev × Running) (e : Dev), (n = k.engine) ∧ ((d.engine n).run = some x) ∧ (d.nextOfRank 0 = some r) ∧ (b = d.atBoundary x k.copied) ∧ (e = (b.1.setEngine n { d.engine n with susp := some b.2, run := none, marked := false }).engineTake n r) ∧ ((d.engine n).marked = true) ∧ ((d.engine n).susp = none)) ∧
    (∃ (d : Dev) (n : Nat) (fault : CipherFault) (x : Running) (e : Dev) (ends : Dev → Dev), ((d.engine n).run = some x) ∧ (e = d.setEngine n { d.engine n with run := none, marked := false }) ∧ (ends = fun f => (((f.engineNext n).cphRefillAll).sweepDoomed).settle)) ∧
    (∃ (d : Dev) (id : Nat) (r : CipherReq), r ∈ d.cph.queue ∧ (r.id = id) ∧ (r.cls = 2) ∧ (r.aged = false)) ∧
    (∃ (d : Dev) (id : Nat) (r : CipherReq), ((d.cph.queue.find? fun r => r.id = id && !d.cphReady r) = some r)) ∧
    (∃ (d : Dev) (id : Nat) (r : CipherReq), ((d.cph.queue.find? fun r => r.id = id && !d.cphReady r) = none) ∧ ((d.cph.waiting.find? fun r => r.id = id && d.domSt 24 ≠ .on) = some r)) ∧
    (∃ (d : Dev) (res : Nat) (entry : Option Nat) (bucket : Option (Nat × Nat)) (e : Dev), (e = (let f := if d.err.waiting.contains res then d else d.permanent res; ({ f with err := { f.err with waiting := f.err.waiting.filter (· != res) } } : Dev))) ∧ res < 2 ^ 28) ∧
    (∃ (d : Dev) (q : Nat) (e : Dev), (e = (if d.err.waiting.contains (unitRes 2 q) then d else d.permanent (unitRes 2 q))) ∧ q < 128) :=
  ⟨by exact ⟨up [22, 25], 0, _, rfl, by decide +kernel⟩,
    by exact ⟨((((up [2, 24]).setLe 0x04020000 4 0x20).setLe 0x04020004 4 0x100000).setLe 0x0402000C 4 0x04020040).setLe 0x04020010 4 0x04020040, _, 0, 0x04020000, _, _, rfl, rfl, rfl, by decide +kernel⟩,
    by exact ⟨cphDev [creq 0], _, _, _, rfl, rfl⟩,
    by exact ⟨ceDev [creq 0] true, ⟨23, 0⟩, _, _, _, _, _, rfl, rfl, rfl, rfl, rfl, by decide +kernel⟩,
    by exact ⟨ceDev [] false, 23, .none, _, _, _, rfl, rfl, rfl⟩,
    by exact ⟨cphDev [creq 2], 1, creq 2, by decide +kernel⟩,
    by exact ⟨{ Dev.reset with cph := (cphDev [creq 0]).cph }, 1, _, rfl⟩,
    by exact ⟨{ Dev.reset with cph := { (cphDev []).cph with waiting := [creq 0] } }, 1, _, rfl, rfl⟩,
    by exact ⟨Dev.reset, 0, none, none, _, rfl, by decide +kernel⟩,
    by exact ⟨Dev.reset, 127, _, rfl, by decide +kernel⟩⟩

theorem witness_PairsServeTheirFrames :
    (∃ (d : Dev) (p : Nat) (fault : PairFault) (own : Nat) (c : Completion) (x : RxFrame) (late : Bool) (e : Dev), (own = (if p = 4 then d.pairs.replaces else p)) ∧ (x = d.staged c) ∧ (late = (d.tempo.pairs.getD own {}).late) ∧ (e = { d with tempo := { d.tempo with pairs := modifyAt (fun q => { q with late := false }) own d.tempo.pairs } }) ∧ (d.nextCompletion own = some c) ∧ (d.tempoUp = true)) ∧
    (∃ (d : Dev) (req : Nat) (i : WorkItem) (r : Nat × List Byte) (h : Mhr) (e : Dev), ((d.tempo.items.find? fun i => i.req = req) = some i) ∧ (d.cphResult req = some r) ∧ (readMhr (rxFrame i.comp i.octets).mac = some h) ∧ (e = { d.dropResult req with tempo := { (d.dropResult req).tempo with items := (d.dropResult req).tempo.items.filter fun j => j.req != req } })) ∧
    (∃ (d : Dev) (p : Nat) (item : LockItem) (own : Nat), (d.tempoUp = true) ∧ (d.pairs.retired.contains p = false) ∧ ((p < 4 ∧ own = p) ∨ (p = 4 ∧ own = d.pairs.replaces ∧ own < 4))) ∧
    (∃ (d : Dev) (good : Bool), (d.tempoUp = true) ∧ (d.pairs.replaces = 7) ∧ (d.pairs.retired.contains 4 = false)) ∧
    (∃ (d : Dev) (id : Nat) (f : TxFrame), (d.frame id = some f) ∧ (f.origin = .relay)) :=
  ⟨by exact ⟨{ up [10] with fifos := [[comp], [], []] }, 0, .none, _, comp, _, _, _, rfl, rfl, rfl, rfl, by decide +kernel⟩,
    by exact ⟨{ up [10] with tempo := { Dev.reset.tempo with items := [{ pair := 0, comp := comp, octets := dataFrame, slot := 5, node := 5, req := 3, ackPlanned := false }] }, cph := { Dev.reset.cph with results := [(3, 0, [])] } }, 3, _, _, _, _, rfl, rfl, rfl, rfl⟩,
    by exact ⟨{ up [10] with pairs := { (up [10]).pairs with replaces := 3 } }, 4, .boundary, 3, by decide +kernel⟩,
    by exact ⟨{ up [10] with pairs := { (up [10]).pairs with replaces := 7, retired := [] } }, false, by decide +kernel⟩,
    by exact ⟨{ Dev.reset with tx := { Dev.reset.tx with frames := [fr .scheduled] } }, 7, fr .scheduled, by decide +kernel⟩⟩

theorem witness_SlotsAndTimeslotsFollowTheirRules :
    (∃ (d : Dev) (m : Nat) (r : SlotRun) (k : Nat) (e : Dev) (busy served : Bool), (r = { d.slotRun m with cfg := d.slotCfg m, lead := none }) ∧ (k = slotNext (d.slotCfg m) d.tmb) ∧ (e = d.raise 0x48) ∧ (busy = (r.openTill.isSome || r.frame.any fun id => (e.frame id).isSome)) ∧ (served = (e.pairClient (if e.is Fld.lnkSlotW0_kind m then 3 else pairOf r.sub r.chan)).isSome) ∧ m < 512 ∧ (d.tempoUp = true) ∧ (d.is Fld.lnkSlotW0_en m = true)) ∧
    (∃ (d : Dev) (m : Nat) (r : SlotRun), ((d.tempo.slots.find? fun r => r.entry = m && r.openTill.isSome) = some r)) ∧
    (∃ (d : Dev) (e : Dev) (a : Nat) (f : Dev), (e = (d.tempo.tsch.next.map d.tschApply).getD d) ∧ (a = (e.tempo.tsch.asn0 + (e.tmb - e.tempo.tsch.t0) / e.slotTicks) % 2 ^ 40) ∧ (f = (((({ e with tempo := { e.tempo with tsch := { e.tempo.tsch with asn := a } } } : Dev).wr Fld.lnkTschAsnLo_asn a).wr Fld.lnkTschAsnHi_asn (a / 2 ^ 32)).raise 0x49)) ∧ (d.tempoUp = true) ∧ (d.is Fld.lnkTschCtrl_en = true) ∧ d.slotTicks ≠ 0 ∧ e.tempo.tsch.t0 ≤ e.tmb ∧ ((f.pairClient 3).isSome = true)) ∧
    (∃ (d : Dev) (who : Initiator) (w : Word) (e : Dev), (e = d.plainWrite who Reg.lnkTschT0Hi w) ∧ (d.domUp 10 = true)) ∧
    (∃ (d : Dev) (who : Initiator) (w : Word) (good : Bool), (d.domUp 10 = true) ∧ (good = true ↔ (1 ≤ wBits w 8 2 ∧ wBits w 8 2 ≤ 64 ∧ (wBits w 0 0 = 1 → d.templateOk = true ∧ wBits w 19 16 ≤ wBits w 23 20 ∧ ((List.range (wBits w 8 2)).all fun j => d.chanDefined (wBits w 1 1 = 1) (d.hopEntry j)) = true)))) :=
  ⟨by exact ⟨(up [10]).wr Fld.lnkSlotW0_en 1 511, 511, _, _, _, _, _, rfl, rfl, rfl, rfl, rfl, by decide +kernel⟩,
    by exact ⟨{ Dev.reset with tempo := { Dev.reset.tempo with slots := [{ entry := 511, cfg := [], k := 0, openTill := some 9 }] } }, 511, { entry := 511, cfg := [], k := 0, openTill := some 9 }, by decide +kernel⟩,
    by exact ⟨((up [10]).wr Fld.lnkTschCtrl_en 1).wr Fld.lnkTschTmpl_hi 10000 3, _, _, _, rfl, rfl, rfl, by decide +kernel⟩,
    by exact ⟨up [10], .host, 0#32, _, rfl, by decide +kernel⟩,
    by exact ⟨up [10], .host, 4#32, true, by decide +kernel⟩⟩

theorem witness_SleepyNodesAreServed :
    (∃ (d : Dev) (s : Nat) (w : NodeWin), ((d.tempo.wins.find? fun w => w.slot = s && (w.phase = .planned || w.phase = .lead)) = some w) ∧ (d.tempo.service = true)) ∧
    (∃ (d : Dev) (s : Nat) (w : NodeWin) (e f : Dev), (e = (((d.setWins (d.tempo.wins.map fun x => if x = w then { x with phase := .releasing } else x)).coexDrop (2 ^ 32 + s)).raise 0x47)) ∧ (f = (if w.contacted then e else e.bump Fld.lnkSlpStat0_windowMiss)) ∧ (d.openWin s = some w) ∧ (d.winBusy w = false)) ∧
    (∃ (d : Dev) (s : Nat) (p : PendSend) (ended : Dev), (ended = { d with tempo := { d.tempo with sends := d.tempo.sends.filter fun x => x.slot != s } }) ∧ ((d.tempo.sends.find? fun x => x.slot = s) = some p) ∧ (d.heldInFlight s = false)) ∧
    (∃ (d : Dev) (s x : Nat) (c : CheckRun) (q : Nat), (q = (slpOf c.cfg (if c.sub then Fld.lnkSlpWake_qsub else Fld.lnkSlpWake_q24))) ∧ ((d.tempo.checks.find? fun c => c.slot = s) = some c) ∧ (c.due = some x) ∧ (d.cx s Cx.gPhase = 3)) ∧
    (∃ (d : Dev) (s : Nat) (c : CheckRun), ((d.tempo.checks.find? fun c => c.slot = s && c.wait.isSome) = some c)) :=
  ⟨by exact ⟨{ up [10] with tempo := { Dev.reset.tempo with service := true, wins := [win5] } }, 5, win5, by decide +kernel⟩,
    by exact ⟨{ up [10] with tempo := { Dev.reset.tempo with wins := [{ win5 with phase := .opened }] } }, 5, { win5 with phase := .opened }, _, _, rfl, rfl, by decide +kernel⟩,
    by exact ⟨({ up [10, 22] with tempo := { Dev.reset.tempo with sends := [⟨5, 0, 0, false, 11, 0, 0⟩] }, tx := { frames := [{ fr .held with node := some 5 }] } } : Dev).setCx 5 Cx.gPhase 1, 5, ⟨5, 0, 0, false, 11, 0, 0⟩, _, rfl, by decide +kernel⟩,
    by exact ⟨({ up [10, 22] with tempo := { Dev.reset.tempo with checks := [{ slot := 5, sub := true, chan := 0, due := some 0, cfg := [] }] } } : Dev).setCx 5 Cx.gPhase 3, 5, 0, { slot := 5, sub := true, chan := 0, due := some 0, cfg := [] }, _, rfl, by decide +kernel⟩,
    by exact ⟨{ up [10, 22] with tempo := { Dev.reset.tempo with checks := [{ slot := 5, sub := true, chan := 0, due := none, wait := some 1, cfg := [] }] } }, 5, { slot := 5, sub := true, chan := 0, due := none, wait := some 1, cfg := [] }, by decide +kernel⟩⟩

theorem witness_NodeTableCommandsAct :
    (∃ (d : Dev) (c : HostCmd) (e f g h : Dev) (x : HciCmd) (s : Nat) (img : List Byte) (ins : Dev × Nat), Starts 0x20 c d e x ∧ (s = x.a 0 % 32768) ∧ (img = e.cmdData x) ∧ (f = ((e.nextStamp.1.setBytes (ctxAddr s) (List.replicate 128 0#8)).setCx s Cx.nodeAddr (x.a 0)).setCx s Cx.valid 1) ∧ (g = [0, 1, 2, 3].foldl (fun b k => (b.putGroup s k img).putStamp s k e.nextStamp.2) f) ∧ (h = ((g.firstUse s ((x.a 1).testBit 0) ((x.a 1).testBit 1)).cxTouch s).setRte s (x.a 0) true s g.member) ∧ (ins = h.insertKeys s (h.residentKeys s))) ∧
    (∃ (d : Dev) (c : HostCmd) (e : Dev) (x : HciCmd) (gs : List Nat), Starts 0x21 c d e x ∧ (gs = (List.range 4).filter fun g => (x.a 1).testBit g)) ∧
    (∃ (d : Dev) (c : HostCmd) (e : Dev) (x : HciCmd), Starts 0x22 c d e x) ∧
    (∃ (d : Dev) (c : HostCmd) (e : Dev) (x : HciCmd), Starts 0x23 c d e x) ∧
    (∃ (d : Dev) (c : HostCmd) (e f : Dev) (x : HciCmd) (r : Nat) (keys : List IdxKey) (eui short : List IdxKey), Starts 0x24 c d e x ∧ (r = (e.remoteOf (x.a 0)).getD (lowestFree 32768 e.remoteUsed)) ∧ (eui = (if (x.a 5).testBit 0 then [keyEui (x.a 2 + x.a 3 * 2 ^ 32)] else [])) ∧ (short = (if (x.a 5).testBit 1 then [keyShort (bitsOf (x.a 4) 15 0) (bitsOf (x.a 4) 31 16)] else [])) ∧ (keys = keyNode (x.a 0) :: eui ++ short) ∧ (f = ((e.dropKeys r fun _ => true).setRte r (x.a 0) false 0 (x.a 1)))) ∧
    (∃ (d : Dev) (c : HostCmd) (e : Dev) (x : HciCmd), Starts 0x25 c d e x) ∧
    (∃ (d : Dev) (r : Nat) (x : RouteDel) (e : Dev), (e = d.dropKeys r fun _ => true) ∧ ((d.ndt.dels.find? fun x => x.route = r) = some x)) ∧
    (∃ (d : Dev) (c : HostCmd) (e : Dev) (x : HciCmd) (r : List Byte × Nat), Starts 0x26 c d e x ∧ (r = e.snapshot (x.a 0) (x.a 1) ((x.a 2).testBit 0) ((x.a 2).testBit 1) x.dataLen)) ∧
    (∃ (d : Dev) (c : HostCmd) (e : Dev) (x : HciCmd) (r : Dev × Restored), Starts 0x27 c d e x ∧ (r = e.restoreStream (e.cmdData x))) ∧
    (∃ (d : Dev) (who : Initiator), (d.domUp 22 = true)) ∧
    (∃ (d : Dev) (who : Initiator), (d.domUp 22 = true)) ∧
    (∃ (d : Dev) (faults : List (Nat × Nat)) (e f : Dev), (d.failedWords = (faults, f)) ∧ (e = (faults.filter fun x => isTable x.1).foldl (fun b x => (b.fetch (memRes x.1) x.1 x.2).1) f) ∧ (d.ndt.op = some .adopt)) ∧
    (∃ (d : Dev) (e : Dev), (e = d.clearMem isTable) ∧ (d.ndt.op = some .clear)) ∧
    (∃ (d : Dev) (e : Dev), (e = d.rebuildSlots d.residentSlots) ∧ d.ndt.rebuild ≠ []) :=
  ⟨by exact ⟨hciDev, hcmd 128 [5, 0], startDev 0x20 (hcmd 128 [5, 0]) (hciDev), _, _, _, cmdOf (startDev 0x20 (hcmd 128 [5, 0]) (hciDev)), _, _, _, startsNow_spec (by decide +kernel), rfl, rfl, rfl, rfl, rfl, rfl⟩,
    by exact ⟨nodeDev hciDev, hcmd 128 [5, 0], startDev 0x21 (hcmd 128 [5, 0]) (nodeDev hciDev), cmdOf (startDev 0x21 (hcmd 128 [5, 0]) (nodeDev hciDev)), _, startsNow_spec (by decide +kernel), rfl⟩,
    by exact ⟨nodeDev hciDev, hcmd 0 [5], startDev 0x22 (hcmd 0 [5]) (nodeDev hciDev), cmdOf (startDev 0x22 (hcmd 0 [5]) (nodeDev hciDev)), startsNow_spec (by decide +kernel)⟩,
    by exact ⟨nodeDev hciDev, hcmd 128 [5], startDev 0x23 (hcmd 128 [5]) (nodeDev hciDev), cmdOf (startDev 0x23 (hcmd 128 [5]) (nodeDev hciDev)), startsNow_spec (by decide +kernel)⟩,
    by exact ⟨hciDev, hcmd 0 [9, 3], startDev 0x24 (hcmd 0 [9, 3]) (hciDev), _, cmdOf (startDev 0x24 (hcmd 0 [9, 3]) (hciDev)), _, _, _, _, startsNow_spec (by decide +kernel), rfl, rfl, rfl, rfl, rfl⟩,
    by exact ⟨remoteDev hciDev, hcmd 0 [9], startDev 0x25 (hcmd 0 [9]) (remoteDev hciDev), cmdOf (startDev 0x25 (hcmd 0 [9]) (remoteDev hciDev)), startsNow_spec (by decide +kernel)⟩,
    by exact ⟨{ Dev.reset with ndt := { Dev.reset.ndt with dels := [⟨9, 0, 0⟩] } }, 9, ⟨9, 0, 0⟩, _, rfl, by decide +kernel⟩,
    by exact ⟨hciDev, hcmd 16 [0, 1, 0], startDev 0x26 (hcmd 16 [0, 1, 0]) (hciDev), cmdOf (startDev 0x26 (hcmd 16 [0, 1, 0]) (hciDev)), _, startsNow_spec (by decide +kernel), rfl⟩,
    by exact ⟨hciDev, hcmd 0 [], startDev 0x27 (hcmd 0 []) (hciDev), cmdOf (startDev 0x27 (hcmd 0 []) (hciDev)), _, startsNow_spec (by decide +kernel), rfl⟩,
    by exact ⟨up [22], .core 0, by decide +kernel⟩,
    by exact ⟨up [22], .core 0, by decide +kernel⟩,
    by exact ⟨{ Dev.reset with ndt := { Dev.reset.ndt with op := some .adopt } }, _, _, _, rfl, rfl, by decide +kernel⟩,
    by exact ⟨{ Dev.reset with ndt := { Dev.reset.ndt with op := some .clear } }, _, rfl, by decide +kernel⟩,
    by exact ⟨{ Dev.reset with ndt := { Dev.reset.ndt with rebuild := [5] } }, _, rfl, by decide +kernel⟩⟩

theorem witness_FederationFormsAsItsRulesGive :
    (∃ (d : Dev) (who : Initiator) (w : Word) (r : Dev), (r = d.rsvd who Reg.fedCtrl w) ∧ (d.domUp 27 = true)) ∧
    (∃ (d : Dev) (who : Initiator) (w : Word), (d.domUp 27 = true)) ∧
    (∃ (d : Dev) (e f : Dev), (e = (if d.fedState = 1 then d.setFedState 2 else d)) ∧ (f = e.fedSend none (.hello e.eui 3 (e.rd Fld.fedCfg_prio) e.portsUp e.digestRegs)) ∧ (d.fedOn = true) ∧ d.portsUp ≠ 0) ∧
    (∃ (d : Dev), (d.fedOn = true) ∧ (d.fedState = 2)) ∧
    (∃ (d : Dev) (h : BmHdr) (eui version prio ports : Nat) (digest : List Byte) (e f g : Dev) (m : Nat) (claims others : List (Nat × Nat)), (d.bmAccept h { type := 0x01, fromQuarantine := true } (decide (2 ≤ version ∧ prio < 16 ∧ ports < 4 ∧ digest.length = 32)) = (e, true)) ∧ (m = bmFrom h) ∧ (claims = alSet eui e.tmb (e.peer m).claims) ∧ (others = claims.filter fun c => c.1 != eui) ∧ (f = (e.setPeer m { e.peer m with claims := claims.filter fun c => !others.contains c }).helloEntry m eui version prio h.ports h.mac 1 digest) ∧ (g = ((f.setMemberState m 1).setMember m 6 1 0).challengeDue m)) ∧
    (∃ (d : Dev) (h : BmHdr) (group best bitmap : Nat) (e f : Dev), (d.bmAccept h { type := 0x02 } (decide (group < 32 ∧ best < 1024 ∧ bitmap < 2 ^ 32)) = (e, true)) ∧ (f = e.setPeer (bmFrom h) { e.peer (bmFrom h) with bitmap := bitmap, candidate := best, voted := true })) ∧
    (∃ (d : Dev), (d.fedOn = true) ∧ 3 ≤ d.fedState ∧ (d.fedQuarantined = false)) ∧
    (∃ (d : Dev) (h : BmHdr) (group coord present aligned attested m : Nat) (e f g k l : Dev), (d.bmAccept h { type := 0x03 } (decide (group < 32 ∧ coord < 1024 ∧ present < 2 ^ 32 ∧ aligned < 2 ^ 32 ∧ attested < 2 ^ 32)) = (e, true)) ∧ (m = bmFrom h) ∧ (f = e.setPeer m { e.peer m with report := some (present, aligned, attested) }) ∧ (g = (if group = groupOf f.fedMe ∧ f.iCoord = true ∧ f.memberRank m < f.memberRank f.fedMe then f else f.setCoord group m)) ∧ (k = (if group = groupOf f.fedMe ∧ g.iCoord = true then g else (membersIn (32 * group) 32 (2 ^ 32 - 1)).foldl (fun b j => if j != b.fedMe && !b.attests j then b.setMember j 6 1 (b2n (attested.testBit (j % 32))) else b) g)) ∧ (l = (if k.iLead = true ∧ k.memberRank k.fedMe < k.memberRank m then k.stepDown else k))) ∧
    (∃ (d : Dev) (h : BmHdr) (l groups : Nat) (e f g : Dev) (differs : Bool), (d.bmAccept h { type := 0x04 } (decide (l < 1024 ∧ groups < 2 ^ 32)) = (e, true)) ∧ (f = (if e.iLead then e.stepDown else e)) ∧ (differs = (f.iCoord && (f.coordGroups != groups || f.bestOf (bmFrom h :: f.coords) != bmFrom h))) ∧ (g = (if differs then f.sendReport else f))) ∧
    (∃ (d : Dev), (d.fedOn = true) ∧ (d.fed.leader = some d.fedMe)) ∧
    (∃ (d : Dev) (c : Nat), (d.fedOn = true) ∧ (d.fed.coord = some c) ∧ c ≠ d.fedMe) ∧
    (∃ (d : Dev) (l : Nat) (e : Dev), (e = (d.setMember l 7 1 0).stepDown) ∧ (d.fedOn = true) ∧ (d.fed.leader = some l) ∧ l ≠ d.fedMe) ∧
    (∃ (d : Dev) (m : Nat) (e : Dev), (e = (d.setMemberState m 0).setMember m 7 1 0) ∧ (d.fedOn = true) ∧ m < 1024) :=
  ⟨by exact ⟨up [27], .host, 1#32, _, rfl, by decide +kernel⟩,
    by exact ⟨up [27], .host, 0x1000#32, by decide +kernel⟩,
    by exact ⟨fedDev 1 {}, _, _, rfl, rfl, by decide +kernel⟩,
    by exact ⟨fedDev 2 {}, by decide +kernel⟩,
    by exact ⟨fedDev 8 {}, signed 0x01 hdr, 7, 3, 0, 1, List.replicate 32 0#8, _, _, _, _, _, _, accepted (by decide +kernel), rfl, rfl, rfl, rfl, rfl⟩,
    by exact ⟨fedDev 8 {}, signed 0x02 hdr, 0, 2, 4, _, _, accepted (by decide +kernel), rfl⟩,
    by exact ⟨fedDev 3 {}, by decide +kernel⟩,
    by exact ⟨fedDev 8 {}, signed 0x03 hdr, 0, 2, 4, 4, 4, _, _, _, _, _, _, accepted (by decide +kernel), rfl, rfl, rfl, rfl, rfl⟩,
    by exact ⟨fedDev 8 {}, signed 0x04 hdr, 2, 1, _, _, _, _, accepted (by decide +kernel), rfl, rfl, rfl⟩,
    by exact ⟨fedDev 8 { leader := some 0 }, by decide +kernel⟩,
    by exact ⟨fedDev 8 { coord := some 2 }, 2, by decide +kernel⟩,
    by exact ⟨fedDev 8 { leader := some 2 }, 2, _, rfl, by decide +kernel⟩,
    by exact ⟨(fedDev 8 {}).setMemberState 2 1, 2, _, rfl, by decide +kernel⟩⟩

theorem witness_TimeIsAlignedWithTheParent :
    (∃ (d : Dev) (p : Nat), (d.fedOn = true) ∧ (d.parent = some p) ∧ p ≠ d.fedMe) ∧
    (∃ (d : Dev) (h : BmHdr) (index t2 : Nat) (e : Dev), (d.bmAccept h { type := 0x05 } (decide (index < 8)) = (e, true))) ∧
    (∃ (d : Dev) (h : BmHdr) (t1 t2 t3 t4 : Nat) (e f : Dev) (u delay theta : Int) (best : Int × Int), (d.bmAccept h { type := 0x06 } true = (e, true)) ∧ (u = (if h.version = 3 then h.txTime else t3 : Nat)) ∧ (delay = ((t4 - t1 : Int) - (u - t2)) / 2) ∧ (theta = ((t2 - t1 : Int) - (t4 - u) - signedOf (e.rd Fld.fedAsym_asym (if h.ports = 2 then 1 else 0)) 16) / 2) ∧ (best = (if (e.fed.burst.any fun b => b.1 ≤ delay) then e.fed.burst.getD (delay, theta) else (delay, theta))) ∧ (f = e.setFed { e.fed with burst := some best, exchanges := e.fed.exchanges + 1 })) ∧
    (∃ (d : Dev), (d.fedOn = true)) :=
  ⟨by exact ⟨fedDev 4 { coord := some 2 }, 2, by decide +kernel⟩,
    by exact ⟨fedDev 4 {}, signed 0x05 hdr, 7, 5, _, accepted (by decide +kernel)⟩,
    by exact ⟨fedDev 4 { coord := some 2 }, signed 0x06 hdr, 0, 5, 6, 9, _, _, _, _, _, _, accepted (by decide +kernel), rfl, rfl, rfl, rfl, rfl⟩,
    by exact ⟨fedDev 8 {}, by decide +kernel⟩⟩

theorem witness_RecordsAndEpochsFollowTheirRules :
    (∃ (d : Dev) (other : Nat) (e f : Dev) (p : BmPayload), (p = .digest d.epoch d.digestRegs (d.epoch + 1) d.nextDigest) ∧ ((d.fed.coord = none ∧ e = d) ∨ ∃ c, d.fed.coord = some c ∧ e = if c = d.fedMe then d else d.fedSend (some c) p) ∧ (f = (if other ≠ e.fedMe ∧ other < 1024 ∧ e.memberHere other ∧ e.fed.coord ≠ some other then e.fedSend (some other) p else e)) ∧ (d.fedOn = true) ∧ 3 ≤ d.fedState) ∧
    (∃ (d : Dev) (h : BmHdr) (epoch : Nat) (dig : List Byte) (nextEpoch : Nat) (nextDigest : List Byte) (e : Dev), (d.bmAccept h { type := 0x07 } (decide (dig.length = 32 ∧ nextDigest.length = 32 ∧ epoch < 2 ^ 32 ∧ nextEpoch < 2 ^ 32)) = (e, true))) ∧
    (∃ (d : Dev) (h : BmHdr) (epoch : Nat) (ids : List (Nat × Nat)) (e : Dev) (recs : List Record), (d.bmAccept h { type := 0x08 } (decide (ids.length ≤ 180 ∧ epoch < 2 ^ 32)) = (e, true)) ∧ (recs = (if epoch = e.epoch then e.fed.current else e.fed.proposed))) ∧
    (∃ (d : Dev) (h : BmHdr) (entries : List (Nat × Nat × List Byte)) (e : Dev), (d.bmAccept h { type := 0x09 } (decide (entries.length ≤ 90)) = (e, true))) ∧
    (∃ (d : Dev) (h : BmHdr) (type id total offset : Nat) (data : List Byte) (e : Dev) (r : Reassembly) (rest : List Reassembly), (d.bmAccept h { type := 0x0A } (fragmentOk total offset data) = (e, true)) ∧ (r = (e.fed.parts.find? fun r => r.type = type && r.id = id && r.total = total).getD { type := type, id := id, total := total, parts := [] }) ∧ (rest = e.fed.parts.filter fun y => !(y.type = type && y.id = id && y.total = total))) ∧
    (∃ (d : Dev) (type id : Nat), (d.fedOn = true)) ∧
    (∃ (d : Dev) (h : BmHdr) (base : Nat) (dig : List Byte) (proposer : Nat) (e : Dev), (d.bmAccept h { type := 0x0B } (decide (dig.length = 32 ∧ proposer < 1024)) = (e, true))) ∧
    (∃ (d : Dev) (h : BmHdr) (epoch : Nat) (dig : List Byte) (roster proposer : Nat) (e : Dev), (d.bmAccept h { type := 0x0C, epoch := true } (decide (dig.length = 32 ∧ proposer < 1024 ∧ roster < 2 ^ 1024)) = (e, true))) ∧
    (∃ (d : Dev) (h : BmHdr) (epoch status bitmap : Nat) (e : Dev), (d.bmAccept h { type := 0x0D, epoch := true } (decide (bitmap < 2 ^ 32 ∧ status < 2 ^ 16)) = (e, true))) ∧
    (∃ (d : Dev), (d.fedOn = true)) ∧
    (∃ (d : Dev) (h : BmHdr) (epoch : Nat) (dig : List Byte) (x : Nat) (e : Dev), (d.bmAccept h { type := 0x0E, epoch := true } (decide (dig.length = 32 ∧ x < 2 ^ 64)) = (e, true))) ∧
    (∃ (d : Dev) (p : Proposal) (x : Nat), (d.fedOn = true) ∧ (d.fed.proposal = some p) ∧ (p.commitAt = some x) ∧ x ≤ d.tmb) ∧
    (∃ (d : Dev) (h : BmHdr) (epoch status : Nat) (e : Dev), (d.bmAccept h { type := 0x0F } (decide (status < 2 ^ 16)) = (e, true))) ∧
    (∃ (d : Dev), (d.fedOn = true)) :=
  ⟨by exact ⟨fedDev 3 {}, 2, _, _, _, rfl, Or.inl ⟨rfl, rfl⟩, rfl, by decide +kernel⟩,
    by exact ⟨fedDev 8 {}, signed 0x07 hdr, 0, List.replicate 32 0#8, 0, List.replicate 32 0#8, _, accepted (by decide +kernel)⟩,
    by exact ⟨fedDev 8 {}, signed 0x08 hdr, 0, [(1, 2)], _, _, accepted (by decide +kernel), rfl⟩,
    by exact ⟨fedDev 8 { proposal := some prop1 }, signed 0x09 hdr, [(1, 5, List.replicate 8 0#8)], _, accepted (by decide +kernel)⟩,
    by exact ⟨fedDev 8 { wanted := [(1, 5, (sha256 []).take 8)] }, signed 0x0A hdr, 1, 5, 0, 0, [], _, _, _, accepted (by decide +kernel), rfl, rfl⟩,
    by exact ⟨fedDev 8 { proposal := some prop1, parts := [⟨1, 5, 8, []⟩] }, 1, 5, by decide +kernel⟩,
    by exact ⟨fedDev 6 { leader := some 0 }, signed 0x0B hdr, 0, List.replicate 32 0#8, 2, _, accepted (by decide +kernel)⟩,
    by exact ⟨fedDev 6 { leader := some 2 }, signed 0x0C hdr, 1, List.replicate 32 0#8, 1, 2, _, accepted (by decide +kernel)⟩,
    by exact ⟨fedDev 6 { leader := some 0, proposal := some prop1 }, signed 0x0D { hdr with epoch := 1 }, 1, 0, 4, _, accepted (by decide +kernel)⟩,
    by exact ⟨fedDev 6 { proposal := some prop1 }, by decide +kernel⟩,
    by exact ⟨fedDev 6 { proposal := some prop1 }, signed 0x0E { hdr with epoch := 1 }, 1, digestOf 1 [0] [], 100, _, accepted (by decide +kernel)⟩,
    by exact ⟨fedDev 6 { proposal := some { prop1 with commitAt := some 0 } }, { prop1 with commitAt := some 0 }, 0, by decide +kernel⟩,
    by exact ⟨fedDev 6 { proposal := some prop1 }, signed 0x0F hdr, 1, 0, _, accepted (by decide +kernel)⟩,
    by exact ⟨fedDev 7 {}, by decide +kernel⟩⟩

theorem witness_AttestationAndReplicationFollowTheirRules :
    (∃ (d : Dev) (h : BmHdr) (nonce : List Byte) (e f : Dev) (sig : Nat), (d.bmAccept h { type := 0x17, bm3 := true } (decide (nonce.length = 16)) = (e, true)) ∧ ((sig, f) = e.free 512)) ∧
    (∃ (d : Dev) (h : BmHdr) (eui member svn : Nat) (key : List Byte) (good named : Bool) (e f : Dev), (d.bmAccept h { type := 0x18, bm3 := true, fromQuarantine := true } (decide (key.length = 64 ∧ member = bmFrom h ∧ svn < 2 ^ 32)) = (e, true)) ∧ (named = ((e.rosterRecord (bmFrom h)).all fun r => decide ((sha256 key).take 16 = slice r.data 8 16) && decide (eui = leAt r.data 0 8))) ∧ (f = (e.setPeer (bmFrom h) { e.peer (bmFrom h) with nonce := none }).setMember (bmFrom h) 6 1 1)) ∧
    (∃ (d : Dev) (m : Nat), (d.fedOn = true)) ∧
    (∃ (d : Dev) (b : Nat) (l : List Nat), (l = (d.fed.repl.filter fun e => e.sent.isNone).map (·.slot)) ∧ (d.fedOn = true) ∧ (d.fedState = 8) ∧ (d.buddy d.fedMe = some b)) ∧
    (∃ (d : Dev) (b : Nat) (l : List Nat), (l = (d.fed.repl.filter fun e => e.sent.isSome && decide (e.sentAt + usTicks 50000 ≤ d.tmb)).map (·.slot)) ∧ (d.fedOn = true) ∧ (d.fedState = 8) ∧ (d.buddy d.fedMe = some b)) ∧
    (∃ (d : Dev) (h : BmHdr) (entries mine rest : List (Nat × List Byte)) (e f g : Dev), (d.bmAccept h { type := 0x10, bm3 := true } (replicaFormat entries) = (e, true)) ∧ (mine = entries.filter fun x => e.asked x.1 x.2) ∧ (rest = entries.filter fun x => !mine.contains x) ∧ (f = mine.foldl (fun b x => b.takeReplica x.1 x.2) e) ∧ (g = rest.foldl (fun b x => b.applyReplica x.1 x.2) f)) ∧
    (∃ (d : Dev) (h : BmHdr) (applied : List (Nat × Nat)) (e : Dev), (d.bmAccept h { type := 0x11, bm3 := true } (decide (applied.length ≤ 10)) = (e, true))) ∧
    (∃ (d : Dev) (h : BmHdr) (first count : Nat) (e : Dev), (d.bmAccept h { type := 0x12, bm3 := true } (decide (1 ≤ count ∧ first + count ≤ 32768)) = (e, true))) :=
  ⟨by exact ⟨bmDev, signed 0x17 hdr3, List.replicate 16 0#8, _, _, _, accepted (by decide +kernel), rfl⟩,
    by exact ⟨bmDev { peers := [(2, { nonce := some [] })] }, signed 0x18 hdr3, 7, 2, 0, List.replicate 64 0#8, true, _, _, _, accepted (by decide +kernel), rfl, rfl⟩,
    by exact ⟨bmDev { peers := [(2, { nonce := some [] })] }, 2, by decide +kernel⟩,
    by exact ⟨bmDev { repl := [{ slot := 5 }] }, 2, _, rfl, by decide +kernel⟩,
    by exact ⟨bmDev { repl := [{ slot := 5 }] }, 2, _, rfl, by decide +kernel⟩,
    by exact ⟨bmDev, signed 0x10 hdr3, [(5, ctx9)], _, _, _, _, _, accepted (by decide +kernel), rfl, rfl, rfl, rfl⟩,
    by exact ⟨bmDev, signed 0x11 hdr3, [(5, 1)], _, accepted (by decide +kernel)⟩,
    by exact ⟨bmDev, signed 0x12 hdr3, 5, 1, _, accepted (by decide +kernel)⟩⟩

theorem witness_MigrationsAndDataFramesFollowTheirRules :
    (∃ (d : Dev) (h : BmHdr) (node offer : Nat) (ctx : List Byte) (e : Dev) (known : Bool), (d.bmAccept h { type := 0x13, bm3 := true, epoch := true } (decide (node < 2 ^ 25 ∧ ctx.length = 128) && ctxReserved.all fun f => imgField ctx f = 0) = (e, true)) ∧ (known = (e.fed.migrations.any fun m => !m.source && m.offer = offer && m.peer = bmFrom h))) ∧
    (∃ (d : Dev) (h : BmHdr) (offer status : Nat) (e : Dev), (d.bmAccept h { type := 0x14, bm3 := true } (decide (status = Code.ok ∨ status = Code.migrateRefused)) = (e, true))) ∧
    (∃ (d : Dev) (offer : Nat) (m : Migration), (d.fedOn = true) ∧ (d.outgoing offer = some m) ∧ (m.step = 0)) ∧
    (∃ (d : Dev) (h : BmHdr) (node offer owner : Nat) (e : Dev), (d.bmAccept h { type := 0x15, bm3 := true } (decide (node < 2 ^ 25 ∧ owner < 1024)) = (e, true))) ∧
    (∃ (d : Dev) (offer : Nat) (m : Migration), (d.fedOn = true) ∧ (d.outgoing offer = some m) ∧ (m.step = 1)) ∧
    (∃ (d : Dev) (h : BmHdr) (offer : Nat) (e : Dev), (d.bmAccept h { type := 0x16, bm3 := true } true = (e, true))) ∧
    (∃ (d : Dev) (offer : Nat) (m : Migration), (d.fedOn = true) ∧ (d.outgoing offer = some m) ∧ (m.step = 1)) ∧
    (∃ (d : Dev) (m offer : Nat), (d.fedOn = true)) ∧
    (∃ (d : Dev) (h : BmHdr) (node : Nat) (octets : List Byte) (e : Dev), (d.bmAccept h dataKind (decide (node < 2 ^ 25 ∧ 32 ≤ octets.length)) = (e, true))) ∧
    (∃ (d : Dev) (h : BmHdr) (node : Nat) (octets : List Byte) (e : Dev), (d.bmAccept h dataKind (decide (node < 2 ^ 25 ∧ 32 ≤ octets.length)) = (e, true))) ∧
    (∃ (d : Dev) (h : BmHdr) (node start : Nat) (q : Int) (profile phy : Nat) (sub : Bool) (chan mode : Nat) (psdu : List Byte) (e : Dev) (short : Bool), (d.bmAccept h dataKind (decide (node < 2 ^ 25 ∧ start < 2 ^ 64 ∧ -256 ≤ q ∧ q < 256 ∧ profile < 4 ∧ phy < 3 ∧ mode < 8)) = (e, true)) ∧ (short = (phy = 0 || fcsOk true psdu))) ∧
    (∃ (d : Dev) (h : BmHdr) (node start status : Nat) (e : Dev) (w : Option TxFrame), (d.bmAccept h dataKind (decide (node < 2 ^ 25 ∧ start < 2 ^ 64 ∧ status < 2 ^ 16)) = (e, true)) ∧ (w = e.tx.frames.find? fun f => f.stage = .remote && f.start = start && (f.node.any fun s => e.cx s Cx.nodeAddr = node))) ∧
    (∃ (d : Dev) (h h2 : BmHdr) (eui offset : Nat) (image : List Byte), (h2 = { h with formatOk := h.formatOk && decide (eui < 2 ^ 64) })) :=
  ⟨by exact ⟨bmDev, signed 0x13 hdr3, 9, 1, ctx9, _, _, accepted (by decide +kernel), rfl⟩,
    by exact ⟨bmDev { migrations := [mig5 0] }, signed 0x14 hdr3, 1, Code.ok, _, accepted (by decide +kernel)⟩,
    by exact ⟨bmDev { migrations := [mig5 0] }, 1, mig5 0, by decide +kernel⟩,
    by exact ⟨bmDev, signed 0x15 hdr3, 9, 1, 2, _, accepted (by decide +kernel)⟩,
    by exact ⟨bmDev { migrations := [mig5 1] }, 1, mig5 1, by decide +kernel⟩,
    by exact ⟨bmDev { migrations := [mig5 1] }, signed 0x16 hdr3, 1, _, accepted (by decide +kernel)⟩,
    by exact ⟨bmDev { migrations := [mig5 1] }, 1, mig5 1, by decide +kernel⟩,
    by exact ⟨bmDev, 2, 1, by decide +kernel⟩,
    by exact ⟨bmDev, hdr, 9, dataFrame, _, accepted (by decide +kernel)⟩,
    by exact ⟨bmDev, hdr, 9, dataFrame, _, accepted (by decide +kernel)⟩,
    by exact ⟨bmDev, hdr, 9, 100, 0, 0, 0, false, 11, 0, dataFrame, _, _, accepted (by decide +kernel), rfl⟩,
    by exact ⟨{ nodeDev bmDev with tx := { bmDev.tx with frames := [remoteFrame] } }, hdr, 5, 100, Code.ok, _, _, accepted (by decide +kernel), rfl⟩,
    by exact ⟨bmDev.wr Fld.fedCfg_bootServe 1, hdr, _, 7, 0, [0#8], rfl⟩⟩

theorem witness_RefusedMessagesHaveNoEffectOfTheirOwn :
    (∃ (d : Dev) (h : BmHdr) (eui version prio ports : Nat) (digest : List Byte) (e : Dev), (d.bmAccept h { type := 0x01, fromQuarantine := true } (decide (2 ≤ version ∧ prio < 16 ∧ ports < 4 ∧ digest.length = 32)) = (e, false))) ∧
    (∃ (d : Dev) (h : BmHdr) (group best bitmap : Nat) (e : Dev), (d.bmAccept h { type := 0x02 } (decide (group < 32 ∧ best < 1024 ∧ bitmap < 2 ^ 32)) = (e, false))) ∧
    (∃ (d : Dev) (h : BmHdr) (group coord present aligned attested : Nat) (e : Dev), (d.bmAccept h { type := 0x03 } (decide (group < 32 ∧ coord < 1024 ∧ present < 2 ^ 32 ∧ aligned < 2 ^ 32 ∧ attested < 2 ^ 32)) = (e, false))) ∧
    (∃ (d : Dev) (h : BmHdr) (l groups : Nat) (e : Dev), (d.bmAccept h { type := 0x04 } (decide (l < 1024 ∧ groups < 2 ^ 32)) = (e, false))) ∧
    (∃ (d : Dev) (h : BmHdr) (index t2 : Nat) (e : Dev), (d.bmAccept h { type := 0x05 } (decide (index < 8)) = (e, false))) ∧
    (∃ (d : Dev) (h : BmHdr) (t1 t2 t3 t4 : Nat) (e : Dev), (d.bmAccept h { type := 0x06 } true = (e, false))) ∧
    (∃ (d : Dev) (h : BmHdr) (epoch : Nat) (dig : List Byte) (nextEpoch : Nat) (nextDigest : List Byte) (e : Dev), (d.bmAccept h { type := 0x07 } (decide (dig.length = 32 ∧ nextDigest.length = 32 ∧ epoch < 2 ^ 32 ∧ nextEpoch < 2 ^ 32)) = (e, false))) ∧
    (∃ (d : Dev) (h : BmHdr) (epoch : Nat) (ids : List (Nat × Nat)) (e : Dev), (d.bmAccept h { type := 0x08 } (decide (ids.length ≤ 180 ∧ epoch < 2 ^ 32)) = (e, false))) ∧
    (∃ (d : Dev) (h : BmHdr) (entries : List (Nat × Nat × List Byte)) (e : Dev), (d.bmAccept h { type := 0x09 } (decide (entries.length ≤ 90)) = (e, false))) ∧
    (∃ (d : Dev) (h : BmHdr) (type id total offset : Nat) (data : List Byte) (e : Dev), (d.bmAccept h { type := 0x0A } (fragmentOk total offset data) = (e, false))) ∧
    (∃ (d : Dev) (h : BmHdr) (base : Nat) (dig : List Byte) (proposer : Nat) (e : Dev), (d.bmAccept h { type := 0x0B } (decide (dig.length = 32 ∧ proposer < 1024)) = (e, false))) ∧
    (∃ (d : Dev) (h : BmHdr) (epoch : Nat) (dig : List Byte) (roster proposer : Nat) (e : Dev), (d.bmAccept h { type := 0x0C, epoch := true } (decide (dig.length = 32 ∧ proposer < 1024 ∧ roster < 2 ^ 1024)) = (e, false))) ∧
    (∃ (d : Dev) (h : BmHdr) (epoch status bitmap : Nat) (e : Dev), (d.bmAccept h { type := 0x0D, epoch := true } (decide (bitmap < 2 ^ 32 ∧ status < 2 ^ 16)) = (e, false))) ∧
    (∃ (d : Dev) (h : BmHdr) (epoch : Nat) (dig : List Byte) (x : Nat) (e : Dev), (d.bmAccept h { type := 0x0E, epoch := true } (decide (dig.length = 32 ∧ x < 2 ^ 64)) = (e, false))) ∧
    (∃ (d : Dev) (h : BmHdr) (epoch status : Nat) (e : Dev), (d.bmAccept h { type := 0x0F } (decide (status < 2 ^ 16)) = (e, false))) ∧
    (∃ (d : Dev) (h : BmHdr) (nonce : List Byte) (e : Dev), (d.bmAccept h { type := 0x17, bm3 := true } (decide (nonce.length = 16)) = (e, false))) ∧
    (∃ (d : Dev) (h : BmHdr) (eui member svn : Nat) (key : List Byte) (good : Bool) (e : Dev), (d.bmAccept h { type := 0x18, bm3 := true, fromQuarantine := true } (decide (key.length = 64 ∧ member = bmFrom h ∧ svn < 2 ^ 32)) = (e, false))) ∧
    (∃ (d : Dev) (h : BmHdr) (entries : List (Nat × List Byte)) (e : Dev), (d.bmAccept h { type := 0x10, bm3 := true } (replicaFormat entries) = (e, false))) ∧
    (∃ (d : Dev) (h : BmHdr) (applied : List (Nat × Nat)) (e : Dev), (d.bmAccept h { type := 0x11, bm3 := true } (decide (applied.length ≤ 10)) = (e, false))) ∧
    (∃ (d : Dev) (h : BmHdr) (first count : Nat) (e : Dev), (d.bmAccept h { type := 0x12, bm3 := true } (decide (1 ≤ count ∧ first + count ≤ 32768)) = (e, false))) ∧
    (∃ (d : Dev) (h : BmHdr) (node offer : Nat) (ctx : List Byte) (e : Dev), (d.bmAccept h { type := 0x13, bm3 := true, epoch := true } (decide (node < 2 ^ 25 ∧ ctx.length = 128) && ctxReserved.all fun f => imgField ctx f = 0) = (e, false))) ∧
    (∃ (d : Dev) (h : BmHdr) (offer status : Nat) (e : Dev), (d.bmAccept h { type := 0x14, bm3 := true } (decide (status = Code.ok ∨ status = Code.migrateRefused)) = (e, false))) ∧
    (∃ (d : Dev) (h : BmHdr) (node offer owner : Nat) (e : Dev), (d.bmAccept h { type := 0x15, bm3 := true } (decide (node < 2 ^ 25 ∧ owner < 1024)) = (e, false))) ∧
    (∃ (d : Dev) (h : BmHdr) (offer : Nat) (e : Dev), (d.bmAccept h { type := 0x16, bm3 := true } true = (e, false))) ∧
    (∃ (d : Dev) (h : BmHdr) (node : Nat) (octets : List Byte) (e : Dev), (d.bmAccept h dataKind (decide (node < 2 ^ 25 ∧ 32 ≤ octets.length)) = (e, false))) ∧
    (∃ (d : Dev) (h : BmHdr) (node : Nat) (octets : List Byte) (e : Dev), (d.bmAccept h dataKind (decide (node < 2 ^ 25 ∧ 32 ≤ octets.length)) = (e, false))) ∧
    (∃ (d : Dev) (h : BmHdr) (node start : Nat) (q : Int) (profile phy : Nat) (sub : Bool) (chan mode : Nat) (psdu : List Byte) (e : Dev), (d.bmAccept h dataKind (decide (node < 2 ^ 25 ∧ start < 2 ^ 64 ∧ -256 ≤ q ∧ q < 256 ∧ profile < 4 ∧ phy < 3 ∧ mode < 8)) = (e, false))) ∧
    (∃ (d : Dev) (h : BmHdr) (node start status : Nat) (e : Dev), (d.bmAccept h dataKind (decide (node < 2 ^ 25 ∧ start < 2 ^ 64 ∧ status < 2 ^ 16)) = (e, false))) :=
  ⟨by exact ⟨Dev.reset, hdr, 7, 3, 0, 1, List.replicate 32 0#8, _, rfl⟩,
    by exact ⟨Dev.reset, hdr, 0, 2, 4, _, rfl⟩,
    by exact ⟨Dev.reset, hdr, 0, 2, 4, 4, 4, _, rfl⟩,
    by exact ⟨Dev.reset, hdr, 2, 1, _, rfl⟩,
    by exact ⟨Dev.reset, hdr, 7, 5, _, rfl⟩,
    by exact ⟨Dev.reset, hdr, 0, 5, 6, 9, _, rfl⟩,
    by exact ⟨Dev.reset, hdr, 0, List.replicate 32 0#8, 0, List.replicate 32 0#8, _, rfl⟩,
    by exact ⟨Dev.reset, hdr, 0, [(1, 2)], _, rfl⟩,
    by exact ⟨Dev.reset, hdr, [(1, 5, List.replicate 8 0#8)], _, rfl⟩,
    by exact ⟨Dev.reset, hdr, 1, 5, 0, 0, [], _, rfl⟩,
    by exact ⟨Dev.reset, hdr, 0, List.replicate 32 0#8, 2, _, rfl⟩,
    by exact ⟨Dev.reset, hdr, 1, List.replicate 32 0#8, 1, 2, _, rfl⟩,
    by exact ⟨Dev.reset, hdr, 1, 0, 4, _, rfl⟩,
    by exact ⟨Dev.reset, hdr, 1, digestOf 1 [0] [], 100, _, rfl⟩,
    by exact ⟨Dev.reset, hdr, 1, 0, _, rfl⟩,
    by exact ⟨Dev.reset, hdr, List.replicate 16 0#8, _, rfl⟩,
    by exact ⟨Dev.reset, hdr, 7, 2, 0, List.replicate 64 0#8, true, _, rfl⟩,
    by exact ⟨Dev.reset, hdr, [(5, ctx9)], _, rfl⟩,
    by exact ⟨Dev.reset, hdr, [(5, 1)], _, rfl⟩,
    by exact ⟨Dev.reset, hdr, 5, 1, _, rfl⟩,
    by exact ⟨Dev.reset, hdr, 9, 1, ctx9, _, rfl⟩,
    by exact ⟨Dev.reset, hdr, 1, Code.ok, _, rfl⟩,
    by exact ⟨Dev.reset, hdr, 9, 1, 2, _, rfl⟩,
    by exact ⟨Dev.reset, hdr, 1, _, rfl⟩,
    by exact ⟨Dev.reset, hdr, 9, dataFrame, _, rfl⟩,
    by exact ⟨Dev.reset, hdr, 9, dataFrame, _, rfl⟩,
    by exact ⟨Dev.reset, hdr, 9, 100, 0, 0, 0, false, 11, 0, dataFrame, _, rfl⟩,
    by exact ⟨Dev.reset, hdr, 5, 100, Code.ok, _, rfl⟩⟩

theorem witness_TheHostInterfaceFollowsItsControl :
    (∃ (d : Dev) (who : Initiator) (w : Word) (e f : Dev), (e = d.rsvd who Reg.hciCtrl w) ∧ (f = (if e.secure who then e.wr Fld.hciCtrl_fwReady (b2n (w.toNat.testBit 2)) else if w.toNat.testBit 2 = e.is Fld.hciCtrl_fwReady then e else e.refuseWrite who Reg.hciCtrl)) ∧ (d.domUp 1 = true)) ∧
    (∃ (d : Dev) (who : Initiator) (w : Word) (e f : Dev), (e = d.rsvd who Reg.hciCtrl (w ||| 2#32)) ∧ (f = (if e.secure who then e.wr Fld.hciCtrl_fwReady (b2n ((w ||| 2#32).toNat.testBit 2)) else if (w ||| 2#32).toNat.testBit 2 = e.is Fld.hciCtrl_fwReady then e else e.refuseWrite who Reg.hciCtrl)) ∧ (d.domUp 1 = true)) ∧
    (∃ (d : Dev) (who : Initiator) (w : Word) (e f : Dev), (e = d.rsvd who Reg.hciCtrl (w ||| 4#32)) ∧ (f = (if e.secure who then e.wr Fld.hciCtrl_fwReady (b2n ((w ||| 4#32).toNat.testBit 2)) else if (w ||| 4#32).toNat.testBit 2 = e.is Fld.hciCtrl_fwReady then e else e.refuseWrite who Reg.hciCtrl)) ∧ (d.domUp 1 = true)) ∧
    (∃ (d : Dev) (q : Nat) (e : Dev), (e = ((d.wr Fld.hciQCfg_stopped 1 (q % 128)).qerr 3 (q % 128)).bump Fld.hciStat1_dmaErr)) :=
  ⟨by exact ⟨up [1], .host, 1#32, _, _, rfl, rfl, by decide +kernel⟩,
    by exact ⟨up [1], .host, 0#32, _, _, rfl, rfl, by decide +kernel⟩,
    by exact ⟨hciDev.wr Fld.hciCtrl_enable 1, .host, 1#32, _, _, rfl, rfl, by decide +kernel⟩,
    by exact ⟨hciDev.wr Fld.hciQCfg_loc 1 0, 0, _, rfl⟩⟩

theorem witness_InterfaceCommandsAct :
    (∃ (d : Dev) (c : HostCmd) (e f : Dev) (x : HciCmd) (slot : Option Nat) (fr : TxFrame), Starts 0x01 c d e x ∧ (slot = (if (x.a 0).testBit 25 then e.findSlot (x.a 0 % 2 ^ 25) else none)) ∧ (fr = e.txCmdFrame x slot) ∧ (f = (e.runCmd x).addFrame fr)) ∧
    (∃ (d : Dev) (c : HostCmd) (e f : Dev) (x : HciCmd) (vs : List Nat), Starts 0x02 c d e x ∧ (e.hostReads ((List.range (x.a 1)).map fun i => x.a 0 + 4 * i) = (f, vs))) ∧
    (∃ (d : Dev) (c : HostCmd) (e : Dev) (x : HciCmd) (w : Word), Starts 0x03 c d e x ∧ (w = (BitVec.ofNat 32 (x.a 1) &&& BitVec.ofNat 32 (x.a 2)) ||| (e.peek (x.a 0) &&& ~~~ BitVec.ofNat 32 (x.a 2)))) ∧
    (∃ (d : Dev) (c : HostCmd) (e f : Dev) (x : HciCmd), Starts 0x04 c d e x ∧ (f = (e.catchUp.setVotes 8 ((e.votesOf 8 &&& (0xFFFFFFFF ^^^ x.a 1)) ||| x.a 0)).settleAll)) ∧
    (∃ (d : Dev) (c : HostCmd) (e f : Dev) (x : HciCmd) (busy : Bool) (pick : Option Nat), Starts 0x10 c d e x ∧ (busy = ((List.range 128).any fun q => 2 ≤ q && e.qEn q && e.qRole q != 4)) ∧ (f = { e with hci := { e.hci with hostTag := x.a 1 } }) ∧ (pick = (([3, 2] ++ (if e.is Fld.hciStatus_v1Offered then [1] else [])).find? fun v => decide (bitsOf (x.a 0) 3 0 ≤ v) && decide (v ≤ bitsOf (x.a 0) 7 4)))) ∧
    (∃ (d : Dev) (c : HostCmd) (e : Dev) (x : HciCmd), Starts 0x11 c d e x) ∧
    (∃ (d : Dev) (c : HostCmd) (e f g : Dev) (x : HciCmd) (a q role : Nat) (internal good : Bool), Starts 0x12 c d e x ∧ (a = x.a 0) ∧ (q = bitsOf a 6 0) ∧ (role = bitsOf a 11 8) ∧ (internal = (decide (96 ≤ q) && decide (q < 120))) ∧ (f = ((e.qReset q).wr Fld.hciQBaseLo_base (x.a 1) q).wr Fld.hciQBaseHi_base (x.a 2) q) ∧ (g = (if role = 3 then (f.wr Fld.hciQBufLo_buf (x.a 3) q).wr Fld.hciQBufHi_buf (x.a 4) q else f)) ∧ (good = true ↔ (e.qEn q = true → internal = true ∧ e.hci.reclaimed.contains q = false) ∧ ringOk e.version role (bitsOf a 17 14) (a.testBit 12) (a.testBit 13) (x.a 1 + x.a 2 * 2 ^ 32) (x.a 3 + x.a 4 * 2 ^ 32) = true ∧ (role = 1 → e.qEn (bitsOf a 24 18) = true ∧ e.qRole (bitsOf a 24 18) = 2) ∧ (a.testBit 12 = true → e.version ≠ 1))) ∧
    (∃ (d : Dev) (c : HostCmd) (e : Dev) (x : HciCmd) (q : Nat), Starts 0x13 c d e x ∧ (q = x.a 0)) ∧
    (∃ (d : Dev) (c : HostCmd) (e : Dev) (x : HciCmd) (hit : Option HciCmd), Starts 0x14 c d e x ∧ (hit = e.hci.cmds.find? fun z => z.sq = x.a 0 && z.cid = x.a 1 && z.opcode = 1)) :=
  ⟨by exact ⟨hciDev, hcmd 3 [0, 0x40B0, 0, 0, 0, 200, 0] [1#8, 2#8, 3#8], startDev 0x01 (hcmd 3 [0, 0x40B0, 0, 0, 0, 200, 0] [1#8, 2#8, 3#8]) (hciDev), _, cmdOf (startDev 0x01 (hcmd 3 [0, 0x40B0, 0, 0, 0, 200, 0] [1#8, 2#8, 3#8]) (hciDev)), _, _, startsNow_spec (by decide +kernel), rfl, rfl, rfl⟩,
    by exact ⟨hciDev, hcmd 0 [Reg.hciCtrl, 1], startDev 0x02 (hcmd 0 [Reg.hciCtrl, 1]) (hciDev), _, cmdOf (startDev 0x02 (hcmd 0 [Reg.hciCtrl, 1]) (hciDev)), _, startsNow_spec (by decide +kernel), rfl⟩,
    by exact ⟨hciDev, hcmd 0 [Reg.hciCtrl, 1, 0], startDev 0x03 (hcmd 0 [Reg.hciCtrl, 1, 0]) (hciDev), cmdOf (startDev 0x03 (hcmd 0 [Reg.hciCtrl, 1, 0]) (hciDev)), _, startsNow_spec (by decide +kernel), rfl⟩,
    by exact ⟨hciDev, hcmd 0 [0x40, 0, 1], startDev 0x04 (hcmd 0 [0x40, 0, 1]) (hciDev), _, cmdOf (startDev 0x04 (hcmd 0 [0x40, 0, 1]) (hciDev)), startsNow_spec (by decide +kernel), rfl⟩,
    by exact ⟨hciDev, hcmd 0 [0x31, 7], startDev 0x10 (hcmd 0 [0x31, 7]) (hciDev), _, cmdOf (startDev 0x10 (hcmd 0 [0x31, 7]) (hciDev)), _, _, startsNow_spec (by decide +kernel), rfl, rfl, rfl⟩,
    by exact ⟨hciDev, hcmd 0 [], startDev 0x11 (hcmd 0 []) (hciDev), cmdOf (startDev 0x11 (hcmd 0 []) (hciDev)), startsNow_spec (by decide +kernel)⟩,
    by exact ⟨hciDev, hcmd 0 [0x10202, 0x120000, 0, 0, 0], startDev 0x12 (hcmd 0 [0x10202, 0x120000, 0, 0, 0]) (hciDev), _, _, cmdOf (startDev 0x12 (hcmd 0 [0x10202, 0x120000, 0, 0, 0]) (hciDev)), _, _, _, _, true, startsNow_spec (by decide +kernel), rfl, rfl, rfl, rfl, rfl, rfl, by decide +kernel⟩,
    by exact ⟨(hciDev.wr Fld.hciQCfg_en 1 2).wr Fld.hciQCfg_size 4 2, hcmd 0 [2], startDev 0x13 (hcmd 0 [2]) ((hciDev.wr Fld.hciQCfg_en 1 2).wr Fld.hciQCfg_size 4 2), cmdOf (startDev 0x13 (hcmd 0 [2]) ((hciDev.wr Fld.hciQCfg_en 1 2).wr Fld.hciQCfg_size 4 2)), _, startsNow_spec (by decide +kernel), rfl⟩,
    by exact ⟨hciDev, hcmd 0 [0, 7], startDev 0x14 (hcmd 0 [0, 7]) (hciDev), cmdOf (startDev 0x14 (hcmd 0 [0, 7]) (hciDev)), _, startsNow_spec (by decide +kernel), rfl⟩⟩

theorem witness_CommandsMeetParityFaults :
    (∃ (d : Dev) (c : HostCmd) (f : Nat × Nat) (e r : Dev) (x : HciCmd) (o : FetchOutcome), StartsWith (some f) 0x01 c d e x ∧ (e.fetch (memRes f.1) f.1 f.2 = (r, o))) ∧
    (∃ (d : Dev) (c : HostCmd) (f : Nat × Nat) (e r : Dev) (x : HciCmd) (o : FetchOutcome), StartsWith (some f) 0x20 c d e x ∧ (e.fetch (memRes f.1) f.1 f.2 = (r, o))) ∧
    (∃ (d : Dev) (c : HostCmd) (f : Nat × Nat) (e r : Dev) (x : HciCmd) (o : FetchOutcome), StartsWith (some f) 0x21 c d e x ∧ (e.fetch (memRes f.1) f.1 f.2 = (r, o))) ∧
    (∃ (d : Dev) (c : HostCmd) (f : Nat × Nat) (e r : Dev) (x : HciCmd) (o : FetchOutcome), StartsWith (some f) 0x22 c d e x ∧ (e.fetch (memRes f.1) f.1 f.2 = (r, o))) ∧
    (∃ (d : Dev) (c : HostCmd) (f : Nat × Nat) (e r : Dev) (x : HciCmd) (o : FetchOutcome), StartsWith (some f) 0x23 c d e x ∧ (e.fetch (memRes f.1) f.1 f.2 = (r, o))) ∧
    (∃ (d : Dev) (c : HostCmd) (f : Nat × Nat) (e r : Dev) (x : HciCmd) (o : FetchOutcome), StartsWith (some f) 0x24 c d e x ∧ (e.fetch (memRes f.1) f.1 f.2 = (r, o))) ∧
    (∃ (d : Dev) (c : HostCmd) (f : Nat × Nat) (e r : Dev) (x : HciCmd) (o : FetchOutcome), StartsWith (some f) 0x25 c d e x ∧ (e.fetch (memRes f.1) f.1 f.2 = (r, o))) ∧
    (∃ (d : Dev) (c : HostCmd) (f : Nat × Nat) (e r : Dev) (x : HciCmd) (o : FetchOutcome), StartsWith (some f) 0x26 c d e x ∧ (e.fetch (memRes f.1) f.1 f.2 = (r, o))) ∧
    (∃ (d : Dev) (c : HostCmd) (f : Nat × Nat) (e r : Dev) (x : HciCmd) (o : FetchOutcome), StartsWith (some f) 0x27 c d e x ∧ (e.fetch (memRes f.1) f.1 f.2 = (r, o))) ∧
    (∃ (d : Dev) (c : HostCmd) (f : Nat × Nat) (e r : Dev) (x : HciCmd) (o : FetchOutcome), StartsWith (some f) 0x30 c d e x ∧ (e.fetch (memRes f.1) f.1 f.2 = (r, o))) ∧
    (∃ (d : Dev) (c : HostCmd) (f : Nat × Nat) (e r : Dev) (x : HciCmd) (o : FetchOutcome), StartsWith (some f) 0x40 c d e x ∧ (e.fetch (memRes f.1) f.1 f.2 = (r, o))) :=
  ⟨by exact ⟨hciDev, { hcmd 3 [0, 0x40B0, 0, 0, 0, 200, 0] [1#8, 2#8, 3#8] with fault := some (0x10000000, 4) }, (0x10000000, 4), startDev 0x01 ({ hcmd 3 [0, 0x40B0, 0, 0, 0, 200, 0] [1#8, 2#8, 3#8] with fault := some (0x10000000, 4) }) (hciDev), _, cmdOf (startDev 0x01 ({ hcmd 3 [0, 0x40B0, 0, 0, 0, 200, 0] [1#8, 2#8, 3#8] with fault := some (0x10000000, 4) }) (hciDev)), _, startsNow_spec (by decide +kernel), rfl⟩,
    by exact ⟨hciDev, { hcmd 128 [5, 0] with fault := some (0x10000000, 4) }, (0x10000000, 4), startDev 0x20 ({ hcmd 128 [5, 0] with fault := some (0x10000000, 4) }) (hciDev), _, cmdOf (startDev 0x20 ({ hcmd 128 [5, 0] with fault := some (0x10000000, 4) }) (hciDev)), _, startsNow_spec (by decide +kernel), rfl⟩,
    by exact ⟨nodeDev hciDev, { hcmd 128 [5, 0] with fault := some (0x10000000, 4) }, (0x10000000, 4), startDev 0x21 ({ hcmd 128 [5, 0] with fault := some (0x10000000, 4) }) (nodeDev hciDev), _, cmdOf (startDev 0x21 ({ hcmd 128 [5, 0] with fault := some (0x10000000, 4) }) (nodeDev hciDev)), _, startsNow_spec (by decide +kernel), rfl⟩,
    by exact ⟨nodeDev hciDev, { hcmd 0 [5] with fault := some (0x10000000, 4) }, (0x10000000, 4), startDev 0x22 ({ hcmd 0 [5] with fault := some (0x10000000, 4) }) (nodeDev hciDev), _, cmdOf (startDev 0x22 ({ hcmd 0 [5] with fault := some (0x10000000, 4) }) (nodeDev hciDev)), _, startsNow_spec (by decide +kernel), rfl⟩,
    by exact ⟨nodeDev hciDev, { hcmd 128 [5] with fault := some (0x10000000, 4) }, (0x10000000, 4), startDev 0x23 ({ hcmd 128 [5] with fault := some (0x10000000, 4) }) (nodeDev hciDev), _, cmdOf (startDev 0x23 ({ hcmd 128 [5] with fault := some (0x10000000, 4) }) (nodeDev hciDev)), _, startsNow_spec (by decide +kernel), rfl⟩,
    by exact ⟨hciDev, { hcmd 0 [9, 3] with fault := some (0x10000000, 4) }, (0x10000000, 4), startDev 0x24 ({ hcmd 0 [9, 3] with fault := some (0x10000000, 4) }) (hciDev), _, cmdOf (startDev 0x24 ({ hcmd 0 [9, 3] with fault := some (0x10000000, 4) }) (hciDev)), _, startsNow_spec (by decide +kernel), rfl⟩,
    by exact ⟨remoteDev hciDev, { hcmd 0 [9] with fault := some (0x10000000, 4) }, (0x10000000, 4), startDev 0x25 ({ hcmd 0 [9] with fault := some (0x10000000, 4) }) (remoteDev hciDev), _, cmdOf (startDev 0x25 ({ hcmd 0 [9] with fault := some (0x10000000, 4) }) (remoteDev hciDev)), _, startsNow_spec (by decide +kernel), rfl⟩,
    by exact ⟨hciDev, { hcmd 16 [0, 1, 0] with fault := some (0x10000000, 4) }, (0x10000000, 4), startDev 0x26 ({ hcmd 16 [0, 1, 0] with fault := some (0x10000000, 4) }) (hciDev), _, cmdOf (startDev 0x26 ({ hcmd 16 [0, 1, 0] with fault := some (0x10000000, 4) }) (hciDev)), _, startsNow_spec (by decide +kernel), rfl⟩,
    by exact ⟨hciDev, { hcmd 0 [] with fault := some (0x10000000, 4) }, (0x10000000, 4), startDev 0x27 ({ hcmd 0 [] with fault := some (0x10000000, 4) }) (hciDev), _, cmdOf (startDev 0x27 ({ hcmd 0 [] with fault := some (0x10000000, 4) }) (hciDev)), _, startsNow_spec (by decide +kernel), rfl⟩,
    by exact ⟨hciDev, { hcmd 4 [1, 2] with fault := some (0x10000000, 4) }, (0x10000000, 4), startDev 0x30 ({ hcmd 4 [1, 2] with fault := some (0x10000000, 4) }) (hciDev), _, cmdOf (startDev 0x30 ({ hcmd 4 [1, 2] with fault := some (0x10000000, 4) }) (hciDev)), _, startsNow_spec (by decide +kernel), rfl⟩,
    by exact ⟨hciDev, { hcmd 4 [1] with fault := some (0x10000000, 4) }, (0x10000000, 4), startDev 0x40 ({ hcmd 4 [1] with fault := some (0x10000000, 4) }) (hciDev), _, cmdOf (startDev 0x40 ({ hcmd 4 [1] with fault := some (0x10000000, 4) }) (hciDev)), _, startsNow_spec (by decide +kernel), rfl⟩⟩

theorem witness_FirmwareCommandsAct :
    (∃ (d : Dev) (c : HostCmd) (e : Dev) (x : HciCmd) (l : List Record) (bad held : Bool), Starts 0x30 c d e x ∧ (bad = (!recordTypeOk (x.a 0) || (x.a 0 = 1 && decide (1024 ≤ x.a 1)) || (x.a 0 = 2 && x.a 1 != 0))) ∧ (l = putRecord { type := x.a 0, id := x.a 1, data := e.cmdData x } e.fed.proposed) ∧ (held = e.fed.proposal.any fun p => p.preparedOk)) ∧
    (∃ (d : Dev) (c : HostCmd) (e : Dev) (x : HciCmd) (held : Bool), Starts 0x31 c d e x ∧ (held = e.fed.proposal.any fun p => p.preparedOk)) ∧
    (∃ (d : Dev) (c : HostCmd) (e f g : Dev) (x : HciCmd), Starts 0x32 c d e x ∧ (f = e.runCmd x) ∧ (g = f.setFed { f.fed with proposeCmd := some x.id })) ∧
    (∃ (d : Dev) (c : HostCmd) (e : Dev) (x : HciCmd), Starts 0x33 c d e x) ∧
    (∃ (d : Dev) (c : HostCmd) (e f : Dev) (x : HciCmd), Starts 0x34 c d e x ∧ (f = e.runCmd x)) ∧
    (∃ (d : Dev) (c : HostCmd) (e f g : Dev) (x : HciCmd) (op word : Nat), Starts 0x40 c d e x ∧ (op = x.a 0 % 4) ∧ (word = bitsOf (x.a 0) 12 8) ∧ (f = (if op = 1 then (e.setReg (Reg.regStageW + 4 * word) (BitVec.ofNat 32 (leAt (e.cmdData x) 0 4))).regStatusUpdate else e)) ∧ (g = f.regProgCmd (.core 0) true (BitVec.ofNat 32 (0x6B1D0000 + op * 256 + word)))) ∧
    (∃ (d : Dev) (c : HostCmd) (e f : Dev) (x : HciCmd) (v : Word), Starts 0x41 c d e x ∧ (e.regRead (.core 0) (x.a 0) = (f, v))) ∧
    (∃ (d : Dev) (c : HostCmd) (e f : Dev) (x : HciCmd), Starts 0x50 c d e x ∧ (f = (e.wr Fld.keyArg_engines (x.a 1 % 64)).wr Fld.keyArg_keylen (b2n ((x.a 1).testBit 6)))) ∧
    (∃ (d : Dev) (c : HostCmd) (e : Dev) (x : HciCmd), Starts 0x51 c d e x) ∧
    (∃ (d : Dev) (c : HostCmd) (e : Dev) (x : HciCmd), Starts 0x52 c d e x) ∧
    (∃ (d : Dev) (c : HostCmd) (e : Dev) (x : HciCmd), Starts 0x53 c d e x) ∧
    (∃ (d : Dev) (c : HostCmd) (e : Dev) (x : HciCmd), Starts 0x54 c d e x) ∧
    (∃ (d : Dev) (c : HostCmd) (e f : Dev) (x : HciCmd), Starts 0x55 c d e x ∧ (f = e.cmdReturn x (padTo 16 e.keys.nonce))) ∧
    (∃ (d : Dev) (c : HostCmd) (e : Dev) (x : HciCmd) (r : Dev × Bool), Starts 0x56 c d e x ∧ (r = (e.wr Fld.keyStatus_result 0).lcRequest true (x.a 0))) ∧
    (∃ (d : Dev) (op : Nat) (opened : Bool) (c : HostCmd) (e f g h : Dev) (x : HciCmd) (st v : Nat), (Starts (192 + op) c { d with hci := { d.hci with appOpen := opened } } e x) ∧ (f = e.emit (.mailbox x.w (e.cmdData x))) ∧ ((st, g) = f.freeOf assignedCodes) ∧ ((v, h) = g.free 128) ∧ op < 64) :=
  ⟨by exact ⟨hciDev, hcmd 4 [1, 2], startDev 0x30 (hcmd 4 [1, 2]) (hciDev), cmdOf (startDev 0x30 (hcmd 4 [1, 2]) (hciDev)), _, _, _, startsNow_spec (by decide +kernel), rfl, rfl, rfl⟩,
    by exact ⟨hciDev, hcmd 0 [1, 2], startDev 0x31 (hcmd 0 [1, 2]) (hciDev), cmdOf (startDev 0x31 (hcmd 0 [1, 2]) (hciDev)), _, startsNow_spec (by decide +kernel), rfl⟩,
    by exact ⟨(fedOver hciDev).setFed { leader := some 0 }, hcmd 0 [], startDev 0x32 (hcmd 0 []) ((fedOver hciDev).setFed { leader := some 0 }), _, _, cmdOf (startDev 0x32 (hcmd 0 []) ((fedOver hciDev).setFed { leader := some 0 })), startsNow_spec (by decide +kernel), rfl, rfl⟩,
    by exact ⟨fedOver hciDev, hcmd 32 [0], startDev 0x33 (hcmd 32 [0]) (fedOver hciDev), cmdOf (startDev 0x33 (hcmd 32 [0]) (fedOver hciDev)), startsNow_spec (by decide +kernel)⟩,
    by exact ⟨nodeDev (fedOver hciDev), hcmd 0 [5, 0, 2], startDev 0x34 (hcmd 0 [5, 0, 2]) (nodeDev (fedOver hciDev)), _, cmdOf (startDev 0x34 (hcmd 0 [5, 0, 2]) (nodeDev (fedOver hciDev))), startsNow_spec (by decide +kernel), rfl⟩,
    by exact ⟨hciDev, hcmd 4 [1], startDev 0x40 (hcmd 4 [1]) (hciDev), _, _, cmdOf (startDev 0x40 (hcmd 4 [1]) (hciDev)), _, _, startsNow_spec (by decide +kernel), rfl, rfl, rfl, rfl⟩,
    by exact ⟨hciDev, hcmd 0 [Reg.otpLcStatus], startDev 0x41 (hcmd 0 [Reg.otpLcStatus]) (hciDev), _, cmdOf (startDev 0x41 (hcmd 0 [Reg.otpLcStatus]) (hciDev)), _, startsNow_spec (by decide +kernel), rfl⟩,
    by exact ⟨{ hciDev with fuses := [(1, 0x4D460001), (9, 0xB2B9FFFE)] }, hcmd 16 [1, 4], startDev 0x50 (hcmd 16 [1, 4]) ({ hciDev with fuses := [(1, 0x4D460001), (9, 0xB2B9FFFE)] }), _, cmdOf (startDev 0x50 (hcmd 16 [1, 4]) ({ hciDev with fuses := [(1, 0x4D460001), (9, 0xB2B9FFFE)] })), startsNow_spec (by decide +kernel), rfl⟩,
    by exact ⟨hciDev, hcmd 0 [1], startDev 0x51 (hcmd 0 [1]) (hciDev), cmdOf (startDev 0x51 (hcmd 0 [1]) (hciDev)), startsNow_spec (by decide +kernel)⟩,
    by exact ⟨hciDev, hcmd 48 [1], startDev 0x52 (hcmd 48 [1]) (hciDev), cmdOf (startDev 0x52 (hcmd 48 [1]) (hciDev)), startsNow_spec (by decide +kernel)⟩,
    by exact ⟨hciDev, hcmd 48 [1], startDev 0x53 (hcmd 48 [1]) (hciDev), cmdOf (startDev 0x53 (hcmd 48 [1]) (hciDev)), startsNow_spec (by decide +kernel)⟩,
    by exact ⟨hciDev, hcmd 0 [1], startDev 0x54 (hcmd 0 [1]) (hciDev), cmdOf (startDev 0x54 (hcmd 0 [1]) (hciDev)), startsNow_spec (by decide +kernel)⟩,
    by exact ⟨hciDev, hcmd 16 [], startDev 0x55 (hcmd 16 []) (hciDev), _, cmdOf (startDev 0x55 (hcmd 16 []) (hciDev)), startsNow_spec (by decide +kernel), rfl⟩,
    by exact ⟨{ hciDev with fuses := [(1, 0x4D460001), (9, 0xB2B9FFFE)] }, hcmd 0 [1], startDev 0x56 (hcmd 0 [1]) ({ hciDev with fuses := [(1, 0x4D460001), (9, 0xB2B9FFFE)] }), cmdOf (startDev 0x56 (hcmd 0 [1]) ({ hciDev with fuses := [(1, 0x4D460001), (9, 0xB2B9FFFE)] })), _, startsNow_spec (by decide +kernel), rfl⟩,
    by exact ⟨hciDev, 0, true, hcmd 0 [], _, _, _, _, _, _, _, startsNow_spec (by decide +kernel), rfl, rfl, rfl, by decide +kernel⟩⟩

theorem witness_SerialPortsFollowTheirRules :
    (∃ (d : Dev) (who : Initiator) (w : Word) (rdy : Bool) (e : Dev) (f : Word) (bad : Bool), (e = d.plainWrite who Reg.cspMCmd w) ∧ (f = e.reg (Reg.cspMFmt + 4 * wBits w 2 0)) ∧ (bad = ((ddrPhase f (e.rd Fld.cspMLen_len) && decide (e.rd Fld.cspMClk_div < 4)) || !cspmRangeOk (e.reg Reg.cspMMem).toNat (e.rd Fld.cspMLen_len) (w.toNat.testBit 4))) ∧ (d.domUp 28 = true)) ∧
    (∃ (d : Dev) (who : Initiator), (d.domUp 28 = true)) ∧
    (∃ (d : Dev) (f : CspsFrame) (reads : Bool) (r : Dev × List Byte), (reads = (cspsCmdOk f.cmd && f.cmd % 16 = 2 && decide (cspsHeadEdges f.cmd ≤ f.edges) && cspsRangeOk (beAt f.body 0 4) (beAt f.body 4 2) && !(f.viol.any fun k => k ≤ cspsHeadEdges f.cmd))) ∧ (r = d.cspsCommit.cspsReads (beAt f.body 0 4) f.fails (beAt f.body 4 2 / 4))) ∧
    (∃ (d : Dev) (f : CspsFrame) (reads : Bool) (r : Dev × List Byte), (reads = (cspsCmdOk f.cmd && f.cmd % 16 = 2 && decide (cspsHeadEdges f.cmd ≤ f.edges) && cspsRangeOk (beAt f.body 0 4) (beAt f.body 4 2) && !(f.viol.any fun k => k ≤ cspsHeadEdges f.cmd))) ∧ (r = d.cspsCommit.cspsReads (beAt f.body 0 4) f.fails (beAt f.body 4 2 / 4))) ∧
    (∃ (d : Dev) (f : CspsFrame) (reads : Bool) (r : Dev × List Byte), (reads = (cspsCmdOk f.cmd && f.cmd % 16 = 2 && decide (cspsHeadEdges f.cmd ≤ f.edges) && cspsRangeOk (beAt f.body 0 4) (beAt f.body 4 2) && !(f.viol.any fun k => k ≤ cspsHeadEdges f.cmd))) ∧ (r = d.cspsCommit.cspsReads (beAt f.body 0 4) f.fails (beAt f.body 4 2 / 4))) :=
  ⟨by exact ⟨{ up [2, 28] with cores := List.replicate 8 { status := 2 } }, .core 0, 0#32, true, _, _, _, rfl, rfl, rfl, by decide +kernel⟩,
    by exact ⟨{ up [2, 28] with cores := List.replicate 8 { status := 2 }, csp := { run := some flashRun } }, .core 0, by decide +kernel⟩,
    by exact ⟨up [1, 23, 28], cspsf 1 88 [0, 0, 0, 0, 0, 4, 0, 0, 0, 0], _, _, rfl, rfl⟩,
    by exact ⟨up [1, 23, 28], cspsf 2 88 [0, 0, 0, 0, 0, 4], _, _, rfl, rfl⟩,
    by exact ⟨up [28], cspsf 5 72 [], _, _, rfl, rfl⟩⟩

theorem witness_AccessesReachTheirRegisters :
    (∃ (d : Dev) (who : Initiator) (a : Nat) (w : Word), (a % 4 = 0)) ∧
    (∃ (d : Dev) (who : Initiator) (a : Nat), (a % 4 = 0)) ∧
    (∃ (d : Dev) (who : Initiator) (a : Nat), (a % 4 = 0)) ∧
    (∃ (d : Dev) (bar2 : Bool) (off : Nat) (data : Option Word) (fails : Nat) (o a : Nat) (x : Dev × FetchOutcome), (o = off % 2 ^ 25) ∧ (a = 0x20000000 + o) ∧ (x = d.pathFetch a fails) ∧ (off % 4 = 0)) :=
  ⟨by exact ⟨up [1], .host, 0x200C0000, 1#32, by decide +kernel⟩,
    by exact ⟨up [17], .host, Reg.rxwStatDet, by decide +kernel⟩,
    by exact ⟨up [1], .host, Reg.tmbLo, by decide +kernel⟩,
    by exact ⟨Dev.reset, true, 2097148, none, 0, _, _, _, rfl, rfl, rfl, by decide +kernel⟩⟩

theorem witness_CoresRunTheirBundles :
    (∃ (d : Dev) (n : Nat) (r : BundleRun) (e f : Dev) (out : FetchOutcome) (c : Core), (c = d.core n) ∧ (f = d.setCore n { c with cycle := c.cycle + r.cycles, unseen := c.unseenAt }) ∧ (f.fetch (memRes (coreBase n + c.pc)) (coreBase n + c.pc) r.fetchFails = (e, out))) ∧
    (∃ (d : Dev) (n : Nat) (e : Dev), (e = d.setCore n { d.core n with run := .run })) :=
  ⟨by exact ⟨irqDev .run, 0, {}, _, _, .good, _, rfl, rfl, rfl⟩,
    by exact ⟨irqDev .wait, 0, _, rfl⟩⟩

theorem witness_SystemResetKeepsTheAlwaysOnDomain :
    (∃ (d : Dev) (cause : Nat), d.inv ∧ d.pins.sysrstLow = true ∧ cause < 32 ∧ d.tx.frames ≠ []) :=
  ⟨{ Dev.reset with pins := { Dev.reset.pins with sysrstLow := true }, tx := { frames := [fr (.committed 3)] } }, 3, by unfold Dev.inv Core.ok; decide +kernel, by decide +kernel⟩

theorem witness_EveryStepKeepsTheInvariant :
    (∃ s : State, s.inv ∧ s.pending ≠ []) :=
  ⟨{ State.reset with pending := [.porstNRise 0] }, by unfold State.inv Dev.inv Core.ok; decide +kernel, by decide⟩

theorem witness_RegisterStoresAreExact :
    (∃ (d : Dev) (f g : Field), d.inv ∧ f.lo + f.n ≤ 32 ∧ g.lo + g.n ≤ 32 ∧ (f.lo + f.n ≤ g.lo ∨ g.lo + g.n ≤ f.lo) ∧ d.rd f 0 ≤ 2 ^ f.n - 1) :=
  ⟨Dev.reset, Fld.hciQCfg_en, Fld.hciQCfg_size, by unfold Dev.inv Core.ok; decide +kernel, by decide +kernel⟩

theorem witness_MemoryStoresAreExact :
    (∃ d : Dev, d.inv ∧ d.mem ≠ []) :=
  ⟨Dev.reset.setBytes 0 [1], by unfold Dev.inv Core.ok; decide +kernel, by decide +kernel⟩

theorem witness_AccessCodesRuleEachBit :
    (∃ (r : RegRow) (old i : Nat), old < 2 ^ 32 ∧ i < 32 ∧ r.rw.testBit i = true ∧ r.w1c.testBit i = false ∧ r.w1s.testBit i = false) ∧ (∃ (r : RegRow) (old i : Nat), old < 2 ^ 32 ∧ i < 32 ∧ r.rw.testBit i = false ∧ r.rwl.testBit i = true ∧ r.w1c.testBit i = false ∧ r.w1s.testBit i = false) ∧ (∃ (r : RegRow) (old i : Nat), old < 2 ^ 32 ∧ i < 32 ∧ r.rw.testBit i = false ∧ r.rwl.testBit i = false ∧ r.w1c.testBit i = true ∧ r.w1s.testBit i = false) ∧ (∃ (r : RegRow) (old i : Nat), old < 2 ^ 32 ∧ i < 32 ∧ r.rw.testBit i = false ∧ r.rwl.testBit i = false ∧ r.w1c.testBit i = false ∧ r.w1s.testBit i = true) ∧ (∃ (r : RegRow) (old i : Nat), old < 2 ^ 32 ∧ i < 32 ∧ r.rw.testBit i = false ∧ r.rwl.testBit i = false ∧ r.w1c.testBit i = false ∧ r.w1s.testBit i = false) :=
  ⟨⟨{ base := 0, count := 1, stride := 4, dom := 0, reset := 0, rw := 0x80000000 }, 0, 31, by decide +kernel⟩, ⟨{ base := 0, count := 1, stride := 4, dom := 0, reset := 0, rwl := 0x80000000 }, 0, 31, by decide +kernel⟩, ⟨{ base := 0, count := 1, stride := 4, dom := 0, reset := 0, w1c := 0x80000000 }, 0, 31, by decide +kernel⟩, ⟨{ base := 0, count := 1, stride := 4, dom := 0, reset := 0, w1s := 0x80000000 }, 0, 31, by decide +kernel⟩, ⟨{ base := 0, count := 1, stride := 4, dom := 0, reset := 0 }, 0, 31, by decide +kernel⟩⟩

theorem witness_DrainLimitTakesItsRange :
    (∃ (d : Dev) (w : Word), d.inv ∧ w.toNat % 65536 = 0) ∧ (∃ (d : Dev) (w : Word), d.inv ∧ w.toNat % 65536 ≠ 0 ∧ w.toNat < 65536) ∧
      (∃ (d : Dev) (w : Word), d.inv ∧ w.toNat % 65536 ≠ 0 ∧ 65536 ≤ w.toNat) :=
  have h : Dev.reset.inv := by unfold Dev.inv Core.ok; decide +kernel
  ⟨⟨_, 0x10000#32, h, by decide⟩, ⟨_, 0xFFFF#32, h, by decide⟩, _, 0x10001#32, h, by decide⟩

theorem witness_MessagesAreCheckedInTheirOrder :
    (∃ (d : Dev) (h : BmHdr), d.bmForMe h = false) ∧
    (∃ (d : Dev) (h : BmHdr) (k : BmKind), d.bmForMe h = true ∧ hdrOk h k.bm3 k.most = false) ∧
    (∃ (d : Dev) (h : BmHdr) (k : BmKind), d.bmForMe h = true ∧ hdrOk h k.bm3 k.most = true ∧ k.tagged = true ∧ d.fedKeyOk = true ∧
      h.tag = d.fedTag (hdrOctets h k.type)) :=
  ⟨⟨Dev.reset, hdr, by decide +kernel⟩, ⟨bmDev, { hdr with rsvd := 1 }, { type := 2 }, by decide +kernel⟩,
    bmDev, signed 2 hdr, { type := 2 }, by decide +kernel⟩

theorem witness_OutgoingSkipTakesItsRange :
    (∃ (d : Dev) (who : Initiator) (w : Word), d.inv ∧ d.secureOrHost who = true ∧ w ≠ 0#32) ∧ (∃ (d : Dev) (who : Initiator), d.inv ∧ d.secureOrHost who = false) :=
  ⟨⟨Dev.reset, .host, 1#32, by unfold Dev.inv Core.ok; decide +kernel, by decide +kernel⟩, Dev.reset, .other, by unfold Dev.inv Core.ok; decide +kernel, by decide +kernel⟩

theorem witness_LinkQualityFollowsItsRule :
    (∃ (d : Dev) (x : RxFrame), d.inv ∧ x.lqi ≤ 255 ∧ d.cx 0 Cx.lqKnown = 0) ∧ (∃ (d : Dev) (x : RxFrame), d.inv ∧ x.lqi ≤ 255 ∧ d.cx 0 Cx.lqKnown = 1) :=
  ⟨⟨Dev.reset, rxf, by unfold Dev.inv Core.ok; decide +kernel, by decide +kernel⟩, Dev.reset.setCx 0 Cx.lqKnown 1, rxf, by unfold Dev.inv Core.ok; decide +kernel, by decide +kernel⟩

theorem witness_TheHostReachesTheBufferWindow :
    (∃ (d : Dev) (off : Nat), d.inv ∧ off % 4 = 0 ∧ off < 2 ^ 21 ∧ d.domUp 23 = true ∧ 0x100000 ≤ off) ∧ (∃ (d : Dev) (off : Nat), d.inv ∧ off % 4 = 0 ∧ off < 2 ^ 21 ∧ d.domUp 23 = true ∧ off < 0x100000 ∧ d.rd Fld.sysBootStatus_code ≠ 2) ∧ (∃ (d : Dev) (off : Nat), d.inv ∧ off % 4 = 0 ∧ off < 2 ^ 21 ∧ d.domUp 23 = false) :=
  ⟨⟨up [1, 23], 0x100000, by unfold Dev.inv Core.ok; decide +kernel, by decide +kernel⟩, ⟨up [1, 23], 0xFFFFC, by unfold Dev.inv Core.ok; decide +kernel, by decide +kernel⟩, up [1], 0x1FFFFC, by unfold Dev.inv Core.ok; decide +kernel, by decide +kernel⟩

theorem witness_AmovExtractsAsItsRuleGives :
    (∃ (c k : Core) (s : Syllable) (v : Int), s.op = .amov 0 31 0 ∧ c.pq s.pr ≠ s.pn ∧ 31 < k.d.length ∧ v = (c.ac 0).toInt ∧ v < -2 ^ 31) ∧
    (∃ (c k : Core) (s : Syllable) (v : Int), s.op = .amov 3 0 40 ∧ c.pq s.pr ≠ s.pn ∧ 0 < k.d.length ∧ v = ((c.ac 3).toInt + 2 ^ 39) / 2 ^ 40) ∧
    (∃ w, sylOp w = 0x18 ∧ 41 ≤ bitsOf w 10 5) ∧ (∃ w, sylOp w = 0x18 ∧ bitsOf w 10 5 ≤ 40 ∧ bitsOf w 4 0 = 0) :=
  ⟨⟨{ acc := [0x800000000000000000#72, 0, 0, 0] }, {}, syl (.amov 0 31 0), _, rfl, by decide, by decide, rfl, by decide +kernel⟩,
    ⟨{}, {}, syl (.amov 3 0 40), _, rfl, by decide, by decide, rfl⟩,
    ⟨0x18 * 2 ^ 18 + 41 * 32, by decide +kernel⟩, 0x18 * 2 ^ 18 + 40 * 32, by decide +kernel⟩

theorem witness_RettReturnsAsItsRuleGives :
    (∃ (c : Core) (s : Syllable), s.op = .rett ∧ c.pq s.pr ≠ s.pn) ∧ (∃ c : Core, c.ns = true) ∧
    (∃ w : Word, w.toNat.testBit 4 = false) :=
  ⟨⟨{}, syl .rett, rfl, by decide⟩, ⟨{ status := 4 }, by decide +kernel⟩, 0, by decide +kernel⟩

theorem witness_MultiplyAccumulateFollowsItsRules :
    (∃ (c k : Core) (s : Syllable) (p e : Int), s.op = .mac true 3 true false 0 31 ∧ c.pq s.pr ≠ s.pn ∧ 3 < k.acc.length ∧
      p = loHalf (c.dr 0) * loHalf (c.dr 31) + hiHalf (c.dr 0) * hiHalf (c.dr 31) ∧ e = (c.ac 3).toInt + -p ∧ e < -2 ^ 71) ∧
    (∃ (c k : Core) (s : Syllable) (e : Int), s.op = .mac false 0 false true 1 2 ∧ c.pq s.pr ≠ s.pn ∧ 0 < k.acc.length ∧
      e = 0 + (c.dr 1).toInt * (c.dr 2).toInt) ∧
    (∃ (c k : Core) (s : Syllable), s.op = .fmac .h2 3 3 3 1 0 false false ∧ c.pq s.pr ≠ s.pn ∧ k.px.length = 4 ∧ k.py.length = 4 ∧ 3 < k.acc.length) ∧
    (∃ (c k : Core) (s : Syllable), s.op = .fmac .hc 2 0 0 0 1 true true ∧ c.pq s.pr ≠ s.pn ∧ k.px.length = 4 ∧ k.py.length = 4 ∧ 2 + 1 < k.acc.length) :=
  ⟨⟨{ acc := List.replicate 4 0x800000000000000000#72, d := List.replicate 32 1#32 }, {}, syl (.mac true 3 true false 0 31), _, _, rfl,
      by decide, by decide, rfl, rfl, by decide +kernel⟩,
    ⟨{}, {}, syl (.mac false 0 false true 1 2), _, rfl, by decide, by decide, rfl⟩,
    ⟨{}, {}, syl (.fmac .h2 3 3 3 1 0 false false), rfl, by decide⟩, {}, {}, syl (.fmac .hc 2 0 0 0 1 true true), rfl, by decide⟩

theorem witness_TrapsEnterAsTheirRuleGives :
    (∃ (d : Dev) (x : CoreTrap), d.cores.length = 8 ∧ x.cause < 16 ∧ (d.core 7).intrap = false) ∧
    (∃ (d : Dev) (x : CoreTrap), d.cores.length = 8 ∧ x.cause < 16 ∧ (d.core 0).intrap = true) :=
  ⟨⟨Dev.reset, { cause := 15 }, by decide +kernel⟩,
    { Dev.reset with cores := List.replicate 8 { status := 0x12 } }, { cause := 0 }, by decide +kernel⟩

/-! Worked examples of the spec: the expected values are the ones it prints. -/

/-- Chapter 05, power control: G is 187 on channel 17 at q = 40, 85 °C and 1.750 V. -/
theorem test_power_law :
    ((((((up [1, 11, 18]).wr Fld.rfsTemp_temp (85 * 16)).wr Fld.rfsPwrCal_g14 200 1).wr Fld.rfsPwrCal_tcal 35 1).wr Fld.rfsPwrComp_kt
      (2 ^ 16 - 12)).wr Fld.rfsPwrComp_kv 200).gainIndex 0 false 17 40 1750 = 187 := by decide +kernel

/-- Chapter 06, castling: RXA2 at step 7 with a peak of −3.86 dBFS steps down by 1. -/
theorem test_castling_down :
    (after (.gainWindowEnd 2 0 (-386)) (((up [17]).setChainState 2 3).wr Fld.rxwGainStatus_step 7 2)).castlingOf 2 = some (false, 1) := by
  decide +kernel

/-- Chapter 06, castling: RXA2 at step 6 with quiet peaks of −30 dBFS steps up by 2. -/
theorem test_castling_up :
    (after (.gainQuietIntervalEnd 2 (-3000)) (((up [17]).setChainState 2 3).wr Fld.rxwGainStatus_step 6 2)).castlingOf 2 = some (true, 2) := by
  decide +kernel

/-- Chapter 07: a coded Blitz PSDU of 100 octets ends 860 µs after the frame starts, its Imm-Ack lasts 116 µs. -/
theorem test_blitz_air_time : Dev.reset.airTicks 1 0 100 8 true = 860 * 32 ∧ Dev.reset.airTicks 1 0 7 8 true = 116 * 32 := by decide +kernel

/-- Chapter 07: the Check pattern of wake address 0x00023A41 has CRC 0x6D, 104 chips, and chips 52–55 equal to 1, 0, 0, 1. -/
theorem test_check_pattern :
    checkCrc 0x23A41 = 0x6D ∧ (telegram 0x23A41).length = 104 ∧ ((telegram 0x23A41).drop 52).take 4 = [true, false, false, true] := by
  decide +kernel

/-- Chapter 08: 8,324 µs on air are charged as 8,352 µs. -/
theorem test_duty_charge : dutyCharge 8324 = 8352 := by decide

/-- Chapter 09: an Enh-Ack of 17 octets lasts 122 µs. Chapter 13: an O-QPSK frame of 20 octets lasts 832 µs. -/
theorem test_frame_air_time : Dev.reset.airTicks 1 0 17 8 false = 122 * 32 ∧ Dev.reset.airTicks 0 0 20 8 false = 832 * 32 := by decide +kernel

/-- Chapter 10, step 1: after the first contact E is 30 s ahead and g is 1,350 µs. -/
theorem test_first_window : (sensor 1 0 0).winAt 5 1 = (30000000 * 32, 1350) := by decide +kernel

/-- Chapter 10, step 2: the second contact makes DRIFT 1,178 and CONTACTS 2. -/
theorem test_first_drift :
    ((sensor 1 0 0).driftObserve 5 959982336).cx 5 Cx.drift = 1178 ∧ ((sensor 1 0 0).driftObserve 5 959982336).cx 5 Cx.gContacts = 2 := by
  decide +kernel

/-- Chapter 10, step 3: E is 59,998,895.8125 µs and g is 438 µs. -/
theorem test_next_window : (sensor 2 1178 (29999448 * 32)).winAt 5 1 = (59998895 * 32 + 26, 438) := by decide +kernel

/-- Chapter 10, step 4: an interval 630 µs short makes DRIFT 1,198. -/
theorem test_drift_filter : ((sensor 2 1178 0).driftObserve 5 (960000000 - 630 * 32)).cx 5 Cx.drift = 1198 := by decide +kernel

/-- Chapter 10, steps 5 and 6: g is 7,985 µs at k = 27 and 8,275 µs at k = 28, and the search half-width is 32,000 µs. -/
theorem test_silent_windows :
    ((sensor 2 1198 (59998818 * 32)).winAt 5 27).2 = 7985 ∧ ((sensor 2 1198 (59998818 * 32)).winAt 5 28).2 = 8275 ∧
      (sensor 2 1198 0).searchWidth 5 = 32000 := by decide +kernel

/-- Chapter 11, steps 2 and 3: the context record leaves FC_OUT 0x19F10 and COUNTER_UNKNOWN 1. -/
theorem test_restore_context :
    (((nodeDev (up [22])).setCx 5 Cx.secureClass 1).restoreCtx 5
      (setImg (setImg (((nodeDev (up [22])).setCx 5 Cx.secureClass 1).bytes (ctxAddr 5) 128) Cx.fcIn 0x9E02) Cx.fcOut 0x9F10) false).1.cx 5 Cx.fcOut
      = 0x19F10 := by decide +kernel

/-- Chapter 11, step 3: the counter record leaves FC_IN 0x9E40, FC_OUT 0x1A200 and COUNTER_UNKNOWN 0. -/
theorem test_restore_counters :
    let d := (((nodeDev (up [22])).setCx 5 Cx.fcOut 0x19F10).restoreRecord 2
      ([2, 0, 0, 0, 5, 0, 0, 0, 0x40, 0x9E, 0, 0, 0, 0xA2, 0, 0].map (BitVec.ofNat 8) ++ List.replicate 16 0#8)).1
    d.cx 5 Cx.fcIn = 0x9E40 ∧ d.cx 5 Cx.fcOut = 0x1A200 ∧ d.cx 5 Cx.counterUnknown = 0 := by decide +kernel

/-- Chapter 11: the stamp (7, 517, 15) is above (7, 3, 120). -/
theorem test_stamp_order : Stamp.gt ⟨7, 517, 15⟩ ⟨7, 3, 120⟩ = true := by decide

/-- Chapter 14, step 2: a write cut after 51 edges leaves CSP_S_ERR 0x80338101 and writes nothing. -/
theorem test_csps_cut :
    let d := (up [1, 23, 28]).wr Fld.sysBootStatus_code 2
    let e := after (.cspsWrite (cspsf 0x81 51 ([0x80, 0, 0, 0, 0, 0x10] ++ List.replicate 15 0xFF))) d
    e.reg Reg.cspSErr = 0x80338101#32 ∧ e.mem = d.mem := by decide +kernel

/-- Chapter 14, step 3: FSTAT shows the status byte 0x20 and the window 02 00 00 00 01 81 33 80. -/
theorem test_csps_fstat :
    let d := ((up [1, 23, 28]).wr Fld.sysBootStatus_code 2).setReg Reg.cspSErr 0x80338101#32
    (after (.fstat (cspsf 5 72 [])) { d with csp := { lastErr := 1 } }).out =
      [.csps 0x20 ([2, 0, 0, 0, 1, 0x81, 0x33, 0x80].map (BitVec.ofNat 8))] := by decide +kernel

/-- Chapter 15, step 1: B1 sets d3 to 32 and goes on at 0x0408. -/
theorem test_bundle_b1 :
    let d := coreDev { status := 2, run := .run, pc := 0x400 }
    let e := after (.bundle 0 {}) (worked d)
    (e.core 0).dr 3 = 32#32 ∧ (e.core 0).pc = 0x408 := by decide +kernel

/-- Chapter 15, step 2: B2 sets LCNT0 to d3. -/
theorem test_bundle_b2 :
    let d := coreDev { status := 2, run := .run, pc := 0x408, d := List.replicate 32 32#32 }
    let e := after (.bundle 0 {}) (worked d)
    (e.core 0).lcnt = [32, 0] ∧ (e.core 0).pc = 0x40C := by decide +kernel

/-- Chapter 15, steps 3 and 4: B3 runs the two iterations that LCNT0 gives; each adds 5 to a0 and 4 to px0 and py0. -/
theorem test_bundle_b3 :
    let d := coreDev { status := 2, run := .run, pc := 0x40C, lcnt := [2, 0], px := [0x100, 0, 0, 0], py := [0x200, 0, 0, 0] }
    let e := after (.bundle 0 { more := 31 }) (worked d)
    (e.core 0).ac 0 = 10#72 ∧ (e.core 0).ptr 0 = 0x108 ∧ (e.core 0).ptr 4 = 0x208 ∧ (e.core 0).lcnt = [0, 0] ∧ (e.core 0).pc = 0x414 := by
  decide +kernel

/-- Chapter 15, step 5: B4 sets d5 to 40 from 160, and SAT stays 0. -/
theorem test_bundle_b4 :
    let d := coreDev { status := 2, run := .run, pc := 0x414, acc := [160#72, 0, 0, 0] }
    let e := after (.bundle 0 {}) (worked d)
    (e.core 0).dr 5 = 40#32 ∧ (e.core 0).status = 2#32 := by decide +kernel

/-- Chapter 16, step 6: LU2 as XOR with REG 0 and EC5 from LU2 to LU_B2 is a cycle: EVR_ARM_RESULT reads 0x80000501. -/
theorem test_router_cycle :
    (after (.evrEcnCfgWrite (.core 0) 5 0x800062A2#32) (after (.evrLunCfgWrite (.core 0) 2 0x61#32) monDev)).reg Reg.evrArmResult = 0x80000501#32 := by
  decide +kernel

/-- Chapter 16, step 6: with REG 1 the same write arms. -/
theorem test_router_arms :
    (after (.evrEcnCfgWrite (.core 0) 5 0x800062A2#32) (after (.evrLunCfgWrite (.core 0) 2 0x69#32) monDev)).reg (Reg.evrEcCfg + 40) = 0x800062A2#32 := by
  decide +kernel

/-- Chapter 17, step 2: MANUFACTURE to FIELD opens a journal entry: 32 one bits of its words and 2 of STARTED. -/
theorem test_life_cycle_opens :
    ((after (.otpLcCmdStart (.core 0) 0x1C5E0102#32) lcDev).lc.map fun r => (r.target, r.source, r.bits.length)) = some (2, 1, 34) := by
  decide +kernel

/-- Chapter 18: the nonce of extended address 11 22 33 44 55 66 77 88, counter 0x00001C40, level 5. -/
theorem test_nonce :
    ccmNonce ([0x11, 0x22, 0x33, 0x44, 0x55, 0x66, 0x77, 0x88].map (BitVec.ofNat 8)) 0x1C40 5 =
      [0x11, 0x22, 0x33, 0x44, 0x55, 0x66, 0x77, 0x88, 0, 0, 0x1C, 0x40, 5].map (BitVec.ofNat 8) := by decide

/-- Chapter 19: slot 12,000 lies in row 46 of bank 0. -/
theorem test_node_row : memRes (0x10000000 + 128 * 12000) = 0x2E := by decide

/-- FIPS 197, appendix C.1: AES-128. -/
theorem test_aes :
    aesEncrypt ((List.range 16).map (BitVec.ofNat 8)) ((List.range 16).map fun i => BitVec.ofNat 8 (17 * i)) =
      natBe 16 0x69C4E0D86A7B0430D8CDB78070B4C55A := by decide +kernel

/-- FIPS 180-4: SHA-256 of "abc". -/
theorem test_sha256 :
    sha256 ([0x61, 0x62, 0x63].map (BitVec.ofNat 8)) = natBe 32 0xBA7816BF8F01CFEA414140DE5DAE2223B00361A396177A9CB410FF61F20015AD := by
  decide +kernel

/-! Well-formedness: one command for each check that breaks that check and no other, and commands that pass. -/

/-- A detection on channel 11. -/
def det : Detection :=
  { sub := false, chan := 11, phy := 0, ant := 0, level := 0, own := 0, corr := 0, run := 0, errors := 0, selfTiming := false, phaseCorr := 0 }

/-- Measurements of a frame. -/
def frz : FreezeInfo := { agcGain := 0, h := [], rssi := [], phase := [], freqOff := 0, tsFrac := 0 }

/-- Each command breaks one check. -/
theorem test_wf_refuses_1 :
    ([
      .porstNRise (2 ^ 32), .sysResetCtrlSys (.core 8) 0, .sysResetCtrlCoreHold (.core 8) 0, .railBrownOut 32, .railGood 32, .bootHeaderReadDone [],
      .sysBootDoorbell (.core 8) 0, .startupCalibrationStageDone [256], .pwrVoteSet (.core 8) 0, .pwrVoteClr (.core 8) 0,
      .pwrVoteVnWrite (.core 8) 0 0, .pwrVoteVnWrite .host 20 0, .domainSwitchOnStart 32, .domainPowerUpDone 32, .domainDrainDone 32,
      .domainDrainTimeout 32, .domainDrainRetry 32, .domainIsolationDone 32, .domainSwitchOffDone 32, .pwrPadRelease (.core 8) 0,
      .clkOpCtrlWrite (.core 8) 0, .wakePin 4 false, .pwrWatchCtrlWrite (.core 8) 0, .calibrateOneEntry (.core 8) 0 0, .calibrateOneEntry .host 6 0,
      .calibrateOneEntry .host 0 256, .calibrateEveryAllowedChannel (.core 8) 0, .calibrateEveryAllowedChannel .host 6,
      .invalidateOneEntry (.core 8) 0 0, .invalidateOneEntry .host 6 0, .invalidateOneEntry .host 0 256, .invalidateEveryEntry (.core 8),
      .runStages2To6 (.core 8), .fullCalibrationLock 6 0 0, .fullCalibrationLock 0 (2 ^ 16) 0, .fullCalibrationLock 0 0 (2 ^ 16),
      .fullCalibrationFail 6, .backgroundRecalibrationStart 162, .retune 2, .loLockLoss 6] : List Instr).all (fun c => c.wf == false) = true := by decide +kernel

/-- Each command breaks one check. -/
theorem test_wf_refuses_2 :
    ([
      .txHopStart 4 0, .txLock 4, .txLeadStart 4 false 0, .txFirstChip 4, .txLastChip 4, .txRampDownEnd 4 0 0, .txStage6Done 4 [],
      .txStage6Done 0 [256], .coexCfgWrite (.core 8) 0, .coexRequestAssert (.chain 4), .gainWindowEnd 6 0 0, .gainQuietIntervalEnd 6 0,
      .castling 6 0, .castling 0 8, .rxwGainCfgWrite (.core 8) 0 0, .rxwGainCfgWrite .host 2 0, .preambleDetection [{ det with chan := 27 }],
      .laneSyncTimeout 96, .freezePoint 96 frz, .freezePoint 0 { frz with tsFrac := 8 }, .phrCheck 96 0 false, .phrCheck 0 (2 ^ 16) false,
      .laneFrameEnd 96 [] 0 0, .laneFrameEnd 0 (List.replicate 2048 0#8) 0 0, .laneFrameEnd 0 [] 0 5, .lanePostResume 96,
      .forkChannelEstimate 96 ⟨[], 0⟩, .forkChannelEstimate 0 ⟨[], 2 ^ 64⟩, .idleSample false 0 4 0, .channelConfigEffect (2 ^ 32),
      .restore (.core 8) 0 0, .restore .host 4 0, .restore .host 0 3, .commitPulseTable (.core 8) 0 0, .commitPulseTable .host 4 0,
      .commitPulseTable .host 0 3, .pulseTableActivate 4 0, .pulseTableActivate 0 3, .maskWindowEnd 4 ⟨0, 0, 0⟩ ⟨0, 0, 0⟩,
      .regMirrorCheck [(65536, 0)]] : List Instr).all (fun c => c.wf == false) = true := by decide +kernel

/-- Each command breaks one check. -/
theorem test_wf_refuses_3 :
    ([
      .regMirrorReloadDone (2 ^ 16), .prog (.core 8) 0, .prog .host (2 ^ 32), .sealRegion (.core 8), .lbtListenEnd 4 0, .tempoWorkItem 5 .none,
      .tempoWorkItem 0 (.context 5), .lockstepMismatch 5 .boundary, .slotOccurrence 512, .slotWindowClose 512, .lnkTschT0HiWrite (.core 8) 0,
      .lnkTschCtrlWrite (.core 8) 0, .windowVoteLead (.entry 512), .windowClose 32768, .heldFrameSend 32768, .checkTelegramSend 32768,
      .checkWaitEnd 32768, .nodeAdd { hcmd 0 [] with sq := 128 }, .nodeUpdate { hcmd 0 [] with sq := 128 }, .nodeRemove { hcmd 0 [] with sq := 128 },
      .nodeRead { hcmd 0 [] with sq := 128 }, .routeSet { hcmd 0 [] with sq := 128 }, .routeDel { hcmd 0 [] with sq := 128 },
      .routeDelIndexCleared 65536, .snapshot { hcmd 0 [] with sq := 128 }, .restoreStream { hcmd 0 [] with sq := 128 }, .adopt (.core 8),
      .clear (.core 8), .buddyReplicaTimeout (2 ^ 25), .fedCtrlStart (.core 8) 0, .fedCfgWrite (.core 8) 0, .portLinkUp 2, .portLinkDown 2,
      .hello { hdr with ports := 4 } 0 0 0 0 (List.replicate 32 0#8), .hello hdr (2 ^ 64) 0 0 0 (List.replicate 32 0#8),
      .hello hdr 0 256 0 0 (List.replicate 32 0#8), .hello hdr 0 0 256 0 (List.replicate 32 0#8), .hello hdr 0 0 0 4 (List.replicate 32 0#8),
      .hello hdr 0 0 0 0 [], .candidate { hdr with ports := 4 } 0 0 0] : List Instr).all (fun c => c.wf == false) = true := by decide +kernel

/-- Each command breaks one check. -/
theorem test_wf_refuses_4 :
    ([
      .candidate hdr 32 0 0, .candidate hdr 0 (2 ^ 16) 0, .candidate hdr 0 0 (2 ^ 32), .groupReport { hdr with ports := 4 } 0 0 0 0 0,
      .groupReport hdr 32 0 0 0 0, .groupReport hdr 0 1024 0 0 0, .groupReport hdr 0 0 (2 ^ 32) 0 0, .groupReport hdr 0 0 0 (2 ^ 32) 0,
      .groupReport hdr 0 0 0 0 (2 ^ 32), .leader { hdr with ports := 4 } 0 0, .leader hdr 1024 0, .leader hdr 0 (2 ^ 32), .memberAbsent 1024,
      .syncReq { hdr with ports := 4 } 0 0, .syncReq hdr 256 0, .syncReq hdr 0 (2 ^ 67), .syncResp { hdr with ports := 4 } 0 0 0 0,
      .syncResp hdr (2 ^ 67) 0 0 0, .syncResp hdr 0 (2 ^ 67) 0 0, .syncResp hdr 0 0 (2 ^ 67) 0, .syncResp hdr 0 0 0 (2 ^ 67), .digestTimer 1024,
      .digest { hdr with ports := 4 } 0 (List.replicate 32 0#8) 0 (List.replicate 32 0#8),
      .digest hdr (2 ^ 32) (List.replicate 32 0#8) 0 (List.replicate 32 0#8), .digest hdr 0 [] 0 (List.replicate 32 0#8),
      .digest hdr 0 (List.replicate 32 0#8) (2 ^ 32) (List.replicate 32 0#8), .digest hdr 0 (List.replicate 32 0#8) 0 [],
      .recordReq { hdr with ports := 4 } 0 [], .recordReq hdr (2 ^ 32) [], .manifest { hdr with ports := 4 } [],
      .record { hdr with ports := 4 } 0 0 0 0 [], .record hdr (2 ^ 16) 0 0 0 [], .record hdr 0 (2 ^ 32) 0 0 [], .record hdr 0 0 (2 ^ 32) 0 [],
      .record hdr 0 0 0 (2 ^ 32) [], .record hdr 0 0 0 0 (List.replicate 1409 0#8), .recordReassemblyTimeout (2 ^ 16) 0,
      .recordReassemblyTimeout 0 (2 ^ 32), .propose { hdr with ports := 4 } 0 (List.replicate 32 0#8) 0,
      .propose hdr (2 ^ 32) (List.replicate 32 0#8) 0] : List Instr).all (fun c => c.wf == false) = true := by decide +kernel

/-- Each command breaks one check. -/
theorem test_wf_refuses_5 :
    ([
      .propose hdr 0 [] 0, .propose hdr 0 (List.replicate 32 0#8) 1024, .prepare { hdr with ports := 4 } 0 (List.replicate 32 0#8) 0 0,
      .prepare hdr (2 ^ 32) (List.replicate 32 0#8) 0 0, .prepare hdr 0 [] 0 0, .prepare hdr 0 (List.replicate 32 0#8) (2 ^ 1024) 0,
      .prepare hdr 0 (List.replicate 32 0#8) 0 1024, .prepared { hdr with ports := 4 } 0 0 0, .prepared hdr (2 ^ 32) 0 0, .prepared hdr 0 (2 ^ 16) 0,
      .prepared hdr 0 0 (2 ^ 32), .commit { hdr with ports := 4 } 0 (List.replicate 32 0#8) 0, .commit hdr (2 ^ 32) (List.replicate 32 0#8) 0,
      .commit hdr 0 [] 0, .commit hdr 0 (List.replicate 32 0#8) (2 ^ 64), .abort { hdr with ports := 4 } 0 0, .abort hdr (2 ^ 32) 0,
      .abort hdr 0 (2 ^ 16), .replica { hdr with ports := 4 } [], .replica hdr [(32768, List.replicate 128 0#8)],
      .replicaAck { hdr with ports := 4 } [], .replicaReq { hdr with ports := 4 } 0 0, .replicaReq hdr 32768 0, .replicaReq hdr 0 (2 ^ 16),
      .migrationStart (2 ^ 25), .migrateOffer { hdr with ports := 4 } 0 0 (List.replicate 128 0#8),
      .migrateOffer hdr (2 ^ 25) 0 (List.replicate 128 0#8), .migrateOffer hdr 0 (2 ^ 32) (List.replicate 128 0#8), .migrateOffer hdr 0 0 [],
      .migrateAnswer { hdr with ports := 4 } 0 0, .migrateAnswer hdr (2 ^ 32) 0, .migrateAnswer hdr 0 (2 ^ 16), .offerRetry (2 ^ 32),
      .migrateDone { hdr with ports := 4 } 0 0 0, .migrateDone hdr (2 ^ 25) 0 0, .migrateDone hdr 0 (2 ^ 32) 0, .migrateDone hdr 0 0 1024,
      .doneRepeat (2 ^ 32), .migrateActive { hdr with ports := 4 } 0, .migrateActive hdr (2 ^ 32)] : List Instr).all (fun c => c.wf == false) = true := by decide +kernel

/-- Each command breaks one check. -/
theorem test_wf_refuses_6 :
    ([
      .activeTimeout (2 ^ 32), .pendingDiscard 1024 0, .pendingDiscard 0 (2 ^ 32), .attestChallenge { hdr with ports := 4 } (List.replicate 16 0#8),
      .attestChallenge hdr [], .attestResponse { hdr with ports := 4 } 0 0 0 (List.replicate 64 0#8) false,
      .attestResponse hdr (2 ^ 64) 0 0 (List.replicate 64 0#8) false, .attestResponse hdr 0 1024 0 (List.replicate 64 0#8) false,
      .attestResponse hdr 0 0 (2 ^ 32) (List.replicate 64 0#8) false, .attestResponse hdr 0 0 0 [] false, .attestTimeout 1024,
      .visitor { hdr with ports := 4 } 0 [], .visitor hdr (2 ^ 25) [], .visitor hdr 0 (List.replicate 2305 0#8),
      .transmit { hdr with ports := 4 } 0 0 0 0 0 false 0 0 [], .transmit hdr (2 ^ 25) 0 0 0 0 false 0 0 [],
      .transmit hdr 0 (2 ^ 64) 0 0 0 false 0 0 [], .transmit hdr 0 0 0 0 8 false 0 0 [], .transmit hdr 0 0 0 0 0 false 0 0 (List.replicate 2048 0#8),
      .redirect { hdr with ports := 4 } 0 [], .redirect hdr (2 ^ 25) [], .redirect hdr 0 (List.replicate 2305 0#8),
      .result { hdr with ports := 4 } 0 0 0, .result hdr (2 ^ 25) 0 0, .result hdr 0 (2 ^ 64) 0, .result hdr 0 0 (2 ^ 16),
      .bootReq { hdr with ports := 4 } 0 0 [], .bootReq hdr (2 ^ 64) 0 [], .bootReq hdr 0 (2 ^ 32) [], .bootReq hdr 0 0 (List.replicate 2049 0#8),
      .bootData { hdr with ports := 4 } 0 [], .bootData hdr (2 ^ 32) [], .bootData hdr 0 (List.replicate 2049 0#8), .hciEnable (.core 8) 0,
      .hciReset (.core 8) 0, .fwReadyWrite (.core 8) 0, .doorbell 128 0 [], .doorbell 0 (2 ^ 32) [], .doorbell 0 0 [{ hcmd 0 [] with sq := 128 }],
      .dmaFault 128] : List Instr).all (fun c => c.wf == false) = true := by decide +kernel

/-- Each command breaks one check. -/
theorem test_wf_refuses_7 :
    ([
      .txFrame { hcmd 0 [] with sq := 128 }, .regRead { hcmd 0 [] with sq := 128 }, .regWrite { hcmd 0 [] with sq := 128 },
      .powerVote { hcmd 0 [] with sq := 128 }, .helloCommand { hcmd 0 [] with sq := 128 }, .identify { hcmd 0 [] with sq := 128 },
      .queueCreate { hcmd 0 [] with sq := 128 }, .queueDelete { hcmd 0 [] with sq := 128 }, .txCancel { hcmd 0 [] with sq := 128 },
      .fedRecordPut { hcmd 0 [] with sq := 128 }, .fedRecordDel { hcmd 0 [] with sq := 128 }, .fedPropose { hcmd 0 [] with sq := 128 },
      .fedMemberRead { hcmd 0 [] with sq := 128 }, .fedMigrate { hcmd 0 [] with sq := 128 }, .regProg { hcmd 0 [] with sq := 128 },
      .secureRead { hcmd 0 [] with sq := 128 }, .keyLoad { hcmd 0 [] with sq := 128 }, .keyClear { hcmd 0 [] with sq := 128 },
      .keyWrap { hcmd 0 [] with sq := 128 }, .blobPut { hcmd 0 [] with sq := 128 }, .keyAttrRead { hcmd 0 [] with sq := 128 },
      .lcStatus { hcmd 0 [] with sq := 128 }, .lcTransition { hcmd 0 [] with sq := 128 }, .applicationCommand 64 false (hcmd 0 []),
      .applicationCommand 0 false { hcmd 0 [] with sq := 128 }, .start (.core 8) 0 false, .cspmAbort (.core 8),
      .cspsWrite { cspsf 1 8 [] with cmd := 256 }, .cspsRead { cspsf 1 8 [] with cmd := 256 }, .fstat { cspsf 1 8 [] with cmd := 256 }, .bundle 8 {},
      .bundle 0 { cycles := 0 }, .interruptTaken 8, .waitEnd 8, .gpioEdge 32 false, .tmrCtrlStart (.core 8) 0 0, .tmrCtrlStart .host 8 0,
      .tmrCtrlStop (.core 8) 0 0, .tmrCtrlStop .host 8 0, .eventTimerExpiry 8] : List Instr).all (fun c => c.wf == false) = true := by decide +kernel

/-- Each command breaks one check. -/
theorem test_wf_refuses_8 :
    ([
      .pulseEnd 48, .holdoffEnd 32, .taskPendingServe 256, .stormRearm 5 0, .stormRearm 0 64, .evrEcnCfgWrite (.core 8) 0 0,
      .evrEcnCfgWrite .host 64 0, .evrLunCfgWrite (.core 8) 0 0, .evrLunCfgWrite .host 32 0, .irqCfgWrite (.core 8) 0 0, .irqCfgWrite .host 256 0,
      .irqPendWrite (.core 8) 0 0, .irqPendWrite .host 8 0, .irqClaim (.core 8) 0, .irqClaim .host 8, .irqSgi (.core 8) 0, .load (.core 8) 0,
      .load .host 512, .keyCmdClear (.core 8) 0, .keyCmdClear .host 512, .unwrap (.core 8) 0 false, .unwrap .host 512 false, .wrap (.core 8) 0 false,
      .wrap .host 512 false, .derive (.core 8) 0, .derive .host 512, .lock (.core 8) 0, .lock .host 512, .loadKr (.core 8) 0, .loadKr .host 512,
      .progKr (.core 8) 0, .progKr .host 512, .keySlotAttrWrite (.core 8) 0 0, .keySlotAttrWrite .host 512 0, .keyBlobCfgWrite (.core 8) 0,
      .keyPoolWrite (.core 8) 0, .nodeUnwrapDone 32768, .otpLcCmdStart (.core 8) 0, .cphSubmit (.core 8) 0, .cphSubmit .host (2 ^ 32)] : List Instr).all (fun c => c.wf == false) = true := by decide +kernel

/-- Each command breaks one check. -/
theorem test_wf_refuses_9 :
    ([
      .cipherSuspend ⟨24, 0⟩, .cipherRequestDone 24 .none, .cipherRequestDone 0 (.hold 0 5), .rowRemapDone (2 ^ 32) none none, .queueRetireMove 128,
      .hostBarAccess false (2 ^ 25) none 0, .hostBarAccess false 0 none 5, .aliasAccessComplete 8 {}, .aliasAccessComplete 0 { cycles := 0 },
      .rcFieldRead (.core 8) 0, .rcFieldRead .host (2 ^ 32), .loWordRead (.core 8) 0, .loWordRead .host (2 ^ 32), .registerWrite (.core 8) 0 0,
      .registerWrite .host (2 ^ 32) 0, .bandLoLock 2, .hopLockFailure 4, .detectorBlankingEnd 4, .windowOpen 32768] : List Instr).all (fun c => c.wf == false) = true := by decide +kernel

/-- The same commands with that operand in its range. -/
theorem test_wf_accepts_1 :
    ([
      .porstNRise 0, .sysResetCtrlSys .host 0, .sysResetCtrlCoreHold .host 0, .railBrownOut 0, .railGood 0, .packetBufferSelfTestDone [],
      .bootHeaderReadDone (List.replicate 352 0#8), .bootImageReadDone [], .bootSelfTestDone [], .sysBootDoorbell .host 0,
      .startupCalibrationStageDone [], .pwrVoteSet .host 0, .pwrVoteClr .host 0, .pwrVoteVnWrite .host 0 0, .domainSwitchOnStart 0,
      .domainPowerUpDone 0, .domainDrainDone 0, .domainDrainTimeout 0, .domainDrainRetry 0, .domainIsolationDone 0, .domainSwitchOffDone 0,
      .pwrPadRelease .host 0, .clkOpCtrlWrite .host 0, .wakePin 0 false, .pwrWakeTimeHiWrite 0, .pwrWatchCtrlWrite .host 0, .watchDwellEnd [] [],
      .calibrateOneEntry .host 0 0, .calibrateEveryAllowedChannel .host 0, .invalidateOneEntry .host 0 0, .invalidateEveryEntry .host,
      .runStages2To6 .host, .fullCalibrationLock 0 0 0, .fullCalibrationFail 0, .backgroundRecalibrationStart 0, .retune 0, .loLockLoss 0,
      .tempSensorUpdate 0, .tp3Commit 0, .txHopStart 0 0] : List Instr).all (fun c => c.wf == true) = true := by decide +kernel

/-- The same commands with that operand in its range. -/
theorem test_wf_accepts_2 :
    ([
      .txLock 0, .txLockDeadline 0, .txLeadStart 0 false 0, .txFirstChip 0, .txLastChip 0, .txRampDownEnd 0 0 0, .txStage6Done 0 [],
      .coexCfgWrite .host 0, .coexRequestAssert (.chain 0), .coexReqEdge false false false, .gainWindowEnd 0 0 0, .gainQuietIntervalEnd 0 0,
      .castling 0 0, .rxwGainCfgWrite .host 0 0, .preambleDetection [], .laneSyncTimeout 0, .freezePoint 0 frz, .phrCheck 0 0 false,
      .laneFrameEnd 0 [] 0 0, .lanePostResume 0, .forkChannelEstimate 0 ⟨[], 0⟩, .idleSample false 0 0 0, .channelConfigEffect 0,
      .wurxTelegramMatch [], .restore .host 0 0, .commitPulseTable .host 0 0, .pulseTableActivate 0 0, .maskWindowEnd 0 ⟨0, 0, 0⟩ ⟨0, 0, 0⟩,
      .regMirrorCheck [], .regMirrorReloadDone 0, .prog .host 0, .sealRegion .host, .otpBitProgrammed .keyRows, .lbtListenEnd 0 0,
      .tempoWorkItem 0 .none, .verifyResult 0, .ackDeadlineMissed 0, .lockstepMismatch 0 .boundary, .tp4SelfTest false, .slotOccurrence 0] : List Instr).all (fun c => c.wf == true) = true := by decide +kernel

/-- The same commands with that operand in its range. -/
theorem test_wf_accepts_3 :
    ([
      .slotWindowClose 0, .lnkTschT0HiWrite .host 0, .lnkTschCtrlWrite .host 0, .ackWaitEnd 0, .retryAttempt 0, .windowVoteLead (.node 0),
      .windowClose 0, .heldFrameSend 0, .checkTelegramSend 0, .checkWaitEnd 0, .nodeAdd (hcmd 0 []), .nodeUpdate (hcmd 0 []),
      .nodeRemove (hcmd 0 []), .nodeRead (hcmd 0 []), .routeSet (hcmd 0 []), .routeDel (hcmd 0 []), .routeDelIndexCleared 0, .snapshot (hcmd 0 []),
      .restoreStream (hcmd 0 []), .relayRetry 0, .adopt .host, .clear .host, .buddyReplicaTimeout 0, .fedCtrlStart .host 0, .fedCfgWrite .host 0,
      .portLinkUp 0, .portLinkDown 0, .hello hdr 0 0 0 0 (List.replicate 32 0#8), .candidate hdr 0 0 0, .groupReport hdr 0 0 0 0 0, .leader hdr 0 0,
      .memberAbsent 0, .syncReq hdr 0 0, .syncResp hdr 0 0 0 0, .digestTimer 0, .digest hdr 0 (List.replicate 32 0#8) 0 (List.replicate 32 0#8),
      .recordReq hdr 0 [], .manifest hdr [], .record hdr 0 0 0 0 [], .recordReassemblyTimeout 0 0] : List Instr).all (fun c => c.wf == true) = true := by decide +kernel

/-- The same commands with that operand in its range. -/
theorem test_wf_accepts_4 :
    ([
      .propose hdr 0 (List.replicate 32 0#8) 0, .prepare hdr 0 (List.replicate 32 0#8) 0 0, .prepared hdr 0 0 0,
      .commit hdr 0 (List.replicate 32 0#8) 0, .abort hdr 0 0, .replica hdr [], .replicaAck hdr [], .replicaReq hdr 0 0, .migrationStart 0,
      .migrateOffer hdr 0 0 (List.replicate 128 0#8), .migrateAnswer hdr 0 0, .offerRetry 0, .migrateDone hdr 0 0 0, .doneRepeat 0,
      .migrateActive hdr 0, .activeTimeout 0, .pendingDiscard 0 0, .attestChallenge hdr (List.replicate 16 0#8),
      .attestResponse hdr 0 0 0 (List.replicate 64 0#8) false, .attestTimeout 0, .visitor hdr 0 [], .transmit hdr 0 0 0 0 0 false 0 0 [],
      .redirect hdr 0 [], .result hdr 0 0 0, .bootReq hdr 0 0 [], .bootData hdr 0 [], .hciEnable .host 0, .hciReset .host 0, .fwReadyWrite .host 0,
      .fwReadyTimeout 0, .doorbell 0 0 [], .commandWakeDone 0, .commandWakeTimeout 0, .firmwareInterimCompletion 0, .dmaFault 0,
      .txFrame (hcmd 0 []), .regRead (hcmd 0 []), .regWrite (hcmd 0 []), .powerVote (hcmd 0 []), .helloCommand (hcmd 0 [])] : List Instr).all (fun c => c.wf == true) = true := by decide +kernel

/-- The same commands with that operand in its range. -/
theorem test_wf_accepts_5 :
    ([
      .identify (hcmd 0 []), .queueCreate (hcmd 0 []), .queueDelete (hcmd 0 []), .txCancel (hcmd 0 []), .fedRecordPut (hcmd 0 []),
      .fedRecordDel (hcmd 0 []), .fedPropose (hcmd 0 []), .fedMemberRead (hcmd 0 []), .fedMigrate (hcmd 0 []), .regProg (hcmd 0 []),
      .secureRead (hcmd 0 []), .keyLoad (hcmd 0 []), .keyClear (hcmd 0 []), .keyWrap (hcmd 0 []), .blobPut (hcmd 0 []), .keyAttrRead (hcmd 0 []),
      .lcStatus (hcmd 0 []), .lcTransition (hcmd 0 []), .applicationCommand 0 false (hcmd 0 []), .start .host 0 false, .cspmAbort .host,
      .cspmRequestDone [] 0, .cspsWrite (cspsf 1 8 []), .cspsRead (cspsf 1 8 []), .fstat (cspsf 1 8 []), .bundle 0 {}, .interruptTaken 0, .waitEnd 0,
      .gpioEdge 0 false, .tmrCtrlStart .host 0 0, .tmrCtrlStop .host 0 0, .eventTimerExpiry 0, .pulseEnd 0, .holdoffEnd 0, .taskPendingServe 0,
      .stormRearm 0 0, .evrEcnCfgWrite .host 0 0, .evrLunCfgWrite .host 0 0, .irqCfgWrite .host 0 0, .irqPendWrite .host 0 0] : List Instr).all (fun c => c.wf == true) = true := by decide +kernel

/-- The same commands with that operand in its range. -/
theorem test_wf_accepts_6 :
    ([
      .irqClaim .host 0, .irqSgi .host 0, .load .host 0, .keyCmdClear .host 0, .unwrap .host 0 false, .wrap .host 0 false, .derive .host 0,
      .lock .host 0, .loadKr .host 0, .progKr .host 0, .keySlotAttrWrite .host 0 0, .keyBlobCfgWrite .host 0, .keyPoolWrite .host 0,
      .nodeUnwrapDone 0, .otpLcCmdStart .host 0, .cphSubmit .host 0, .cipherSuspend ⟨0, 0⟩, .cipherRequestDone 0 .none, .bulkAge 0,
      .cipherDomainTimeout 0, .rowRemapDone 0 none none, .queueRetireMove 0, .sparingMapCheck [], .hostBarAccess false 0 none 0,
      .aliasAccessComplete 0 {}, .rcFieldRead .host 0, .loWordRead .host 0, .registerWrite .host 0 0, .bandLoLock 0, .hopLockFailure 0,
      .detectorBlankingEnd 0, .windowOpen 0, .pcieLinkUp false false] : List Instr).all (fun c => c.wf == true) = true := by decide +kernel

/-- Each operand breaks one check of its type. -/
theorem test_wf_operands :
    ([{ det with chan := 10 }, { det with sub := true, chan := 64 }, { det with phy := 3 }, { det with ant := 4 }, { det with level := 256 }, { det with own := 1 },
      { det with corr := 257 }, { det with phaseCorr := 1001 }] : List Detection).all (fun x => !x.wf) = true ∧
    ([{ frz with agcGain := 256 }, { frz with h := List.replicate 5 ⟨0, 0⟩ }, { frz with rssi := List.replicate 5 0 }, { frz with rssi := [256] }, { frz with phase := List.replicate 5 0 },
      { frz with freqOff := 2 ^ 16 }] : List FreezeInfo).all (fun x => !x.wf) = true ∧
    ([{ hdr with etherType := 2 ^ 16 }, { hdr with version := 256 }, { hdr with len := 2 ^ 16 }, { hdr with src := 2 ^ 16 }, { hdr with dst := 2 ^ 16 },
      { hdr with bootId := 2 ^ 32 }, { hdr with seq := 2 ^ 32 }, { hdr with epoch := 2 ^ 32 }, { hdr with rsvd := 2 ^ 32 },
      { hdr with txTime := 2 ^ 64 }, { hdr with mac := 2 ^ 48 }, { hdr with vlan := some 4096 }, { hdr with body := [0] }] : List BmHdr).all (fun x => !x.wf) = true ∧
    ([{ fetchFails := 5 }, { dataFails := 5 }, { xFails := 5 }, { yFails := 5 }] : List BundleRun).all (fun x => !x.wf) = true ∧
    ([{ hcmd 0 [] with w := List.replicate 17 0 }, { hcmd 0 [] with w := [2 ^ 32] },
      { hcmd 0 [] with data := List.replicate 65536 0#8 }, { hcmd 0 [] with fault := some (0, 5) }] : List HostCmd).all (fun x => !x.wf) = true ∧
    ([.source (2 ^ 32) 0, .source 0 5] : List CipherFault).all (fun x => !x.wf) = true ∧
    ([.other (2 ^ 32) 0, .other 0 5] : List PairFault).all (fun x => !x.wf) = true ∧
    ForkEstimate.wf ⟨List.replicate 5 ⟨0, 0⟩, 0⟩ = false ∧ BlockBoundary.wf ⟨0, 2 ^ 16⟩ = false ∧
    CoexClient.wf (.window 32768) = false ∧ WinRef.wf (.node 32768) = false := by decide +kernel

end

end Sys2Proof.Machine
end

section
/-! SUPPORT. The control space as each initiator meets it: what a step on an empty queue, a field, a store in memory, a
plain write and an access come to, and the statements of 00_scope.md settled with these facts. -/

namespace Sys2Proof.Machine

open Sys2Proof

/-! The empty queue. -/

/-- A device held in power-on reset does not tick (R32). -/
theorem Dev.tick_of_porstLow {d : Dev} (h : d.pins.porstLow = true) : d.tick = d := by
  rw [Dev.tick, if_pos h]

/-! Plain writes, bit by bit. -/

/-- A mask taken out of 32 bits keeps just the bits outside it. -/
theorem testBit_complement32 (m i : Nat) (hi : i < 32) : (0xFFFFFFFF ^^^ m).testBit i = !m.testBit i := by
  have ones : (0xFFFFFFFF : Nat).testBit i = true := by
    rw [show (0xFFFFFFFF : Nat) = 2 ^ 32 - 1 from rfl, Nat.testBit_two_pow_sub_one]
    exact decide_eq_true hi
  rw [Nat.testBit_xor, ones, Bool.true_xor]

/-- The bits that a plain write replaces: RW, and RWL while the lock is open. -/
def RegRow.takes (r : RegRow) (locked : Bool) (i : Nat) : Bool := r.rw.testBit i || (!locked && r.rwl.testBit i)

/-- A bit of the word that a plain write stores: replaced where open, then cleared by W1C and set by W1S (R6). -/
theorem RegRow.merge_bit (r : RegRow) (locked : Bool) (old w i : Nat) (hi : i < 32) :
    (r.merge locked old w).testBit i =
      (((bif r.takes locked i then w.testBit i else old.testBit i) && !(w.testBit i && r.w1c.testBit i)) ||
        (w.testBit i && r.w1s.testBit i)) := by
  have mask : (if locked then r.rw else r.rw ||| r.rwl).testBit i = r.takes locked i := by
    cases locked <;> simp [RegRow.takes, Nat.testBit_or]
  simp only [RegRow.merge, Nat.testBit_or, Nat.testBit_and, testBit_complement32 _ _ hi, mask]
  cases r.takes locked i <;> simp

/-! Fields. -/

/-- A counter counts one up and stays at its greatest value (R139). -/
theorem Dev.rd_bump (d : Dev) (f : Field) (i : Nat) (h : regsWf d.regs = true) (hf : f.lo + f.n ≤ 32)
    (hmax : d.rd f i ≤ 2 ^ f.n - 1) : (d.bump f i).rd f i = min (d.rd f i + 1) (2 ^ f.n - 1) := by
  have hpos : 0 < 2 ^ f.n := Nat.two_pow_pos f.n
  have hsat : satAdd (d.rd f i) 1 (2 ^ f.n - 1) = min (d.rd f i + 1) (2 ^ f.n - 1) := by
    unfold satAdd
    split <;> omega
  unfold Dev.bump Dev.bumpBy
  rw [Dev.rd_wr _ _ _ _ h hf, hsat]
  exact Nat.mod_eq_of_lt (by omega)

/-! Numbers in memory. -/

/-- Byte `j` of a number in little-endian order. -/
theorem natLe_getD (n v j : Nat) (hj : j < n) : (natLe n v).getD j 0 = BitVec.ofNat 8 (v / 2 ^ (8 * j)) := by
  induction n generalizing v j with
  | zero => omega
  | succ n ih =>
    cases j with
    | zero => simp [natLe]
    | succ j =>
      rw [natLe, List.getD_cons_succ, ih _ _ (by omega), Nat.div_div_eq_div_mul, Nat.mul_succ, Nat.add_comm, Nat.pow_add]

theorem Dev.byte_setLe_same (d : Dev) (a n v j : Nat) (h : Memory.wf d.mem = true) (hj : j < n) :
    (d.setLe a n v).byte (a + j) = BitVec.ofNat 8 (v / 2 ^ (8 * j)) := by
  unfold Dev.setLe
  rw [Dev.byte_setBytes _ _ _ _ h, natLe_length, if_pos (by omega), Nat.add_sub_cancel_left, natLe_getD _ _ _ hj]

theorem Dev.setBytes_frame (d : Dev) (a : Nat) (bs : List Byte) :
    d.setBytes a bs = { d with mem := (d.setBytes a bs).mem } := by
  induction bs generalizing d a with
  | nil => rfl
  | cons b bs ih => exact ih (d.setByte a b) (a + 1)

theorem Dev.setLe_frame (d : Dev) (a n v : Nat) : d.setLe a n v = { d with mem := (d.setLe a n v).mem } :=
  d.setBytes_frame a (natLe n v)

/-- Canonical memories that read alike are one. -/
theorem Dev.mem_ext {d e : Dev} (hd : Memory.wf d.mem = true) (he : Memory.wf e.mem = true)
    (h : ∀ a, d.byte a = e.byte a) : d.mem = e.mem :=
  spWf_ext hd he h

/-! Reads of a register. -/

theorem Dev.regRead_rc {d : Dev} {who : Initiator} {a k : Nat} {r : RegRow} (hclaim : elemOf a Reg.irqClaimR 4 8 = none)
    (hlatch : alGet a d.latch = none) (hhi : hiOf a = none) (hrow : regAt a = some (r, k)) (hrc : r.rc ≠ 0) :
    d.regRead who a = (d.setReg a (BitVec.ofNat 32 ((d.reg a).toNat &&& (0xFFFFFFFF ^^^ r.rc))), d.peek a) := by
  simp only [Dev.regRead, hclaim, hlatch, hhi, hrow, if_neg hrc]

theorem Dev.regRead_lo {d : Dev} {who : Initiator} {a h k : Nat} {r : RegRow} (hclaim : elemOf a Reg.irqClaimR 4 8 = none)
    (hlatch : alGet a d.latch = none) (hhi : hiOf a = some h) (hrow : regAt a = some (r, k)) (hrc : r.rc = 0) :
    d.regRead who a = ({ d with latch := alSet h (d.peek h) d.latch }, d.peek a) := by
  simp only [Dev.regRead, hclaim, hlatch, hhi, hrow, if_pos hrc]

/-! Accesses of a core: one that is not open has no effect. -/

theorem RegTarget.isOpen_iff (t : RegTarget) : t.isOpen = true ↔ t = .open := by
  cases t <;> simp [RegTarget.isOpen]

theorem Dev.ctlRead_open {d : Dev} {who : Initiator} {a : Nat} (h : d.regTarget who a = .open) :
    d.ctlRead who a = d.regRead who a := if_pos ((RegTarget.isOpen_iff _).2 h)

theorem Dev.ctlRead_refused {d : Dev} {who : Initiator} {a : Nat} (h : d.regTarget who a ≠ .open) :
    d.ctlRead who a = (d, 0) := if_neg (mt (RegTarget.isOpen_iff _).1 h)

theorem Dev.ctlWrite_open {d : Dev} {who : Initiator} {a : Nat} {w : Word} (h : d.regTarget who a = .open) :
    d.ctlWrite who a w = d.regWrite who a w := if_pos ((RegTarget.isOpen_iff _).2 h)

theorem Dev.ctlWrite_refused {d : Dev} {who : Initiator} {a : Nat} {w : Word} (h : d.regTarget who a ≠ .open) :
    d.ctlWrite who a w = d := if_neg (mt (RegTarget.isOpen_iff _).1 h)

/-! Accesses through BAR0, at word offsets. -/

/-- The condition on which BAR0 takes the path to a register. -/
theorem reaches_iff {t : RegTarget} {o : Nat} : (decide (o < 0x140000) && t.isOpen) = true ↔ o < 0x140000 ∧ t = .open := by
  rw [Bool.and_eq_true, decide_eq_true_eq, RegTarget.isOpen_iff]

/-- A word offset is the offset of its own word. -/
theorem wordOff_self {o : Nat} (h : o % 4 = 0) : o / 4 * 4 = o := by omega

section
variable {d : Dev} {who : Initiator} {o : Nat} (h4 : o % 4 = 0)
include h4

section
variable (ho : o < 0x140000)
include ho

theorem Dev.bar0Read_open (ht : d.regTarget who (0x20000000 + o) = .open) :
    d.bar0Read who o = d.regRead who (0x20000000 + o) := by
  simp only [Dev.bar0Read, wordOff_self h4, if_pos ho, ht]

theorem Dev.bar0Read_denied (ht : d.regTarget who (0x20000000 + o) = .denied) : d.bar0Read who o = (d, 0) := by
  simp only [Dev.bar0Read, wordOff_self h4, if_pos ho, ht]

theorem Dev.bar0Read_reserved (ht : d.regTarget who (0x20000000 + o) = .reserved) :
    d.bar0Read who o = (d.errDecode who 0 false o, 0) := by
  simp only [Dev.bar0Read, wordOff_self h4, if_pos ho, ht]

theorem Dev.bar0Read_off {n : Nat} (ht : d.regTarget who (0x20000000 + o) = .off n) :
    d.bar0Read who o = (d.errGhost 0 false o n, 0xFFFFFFFF#32) := by
  simp only [Dev.bar0Read, wordOff_self h4, if_pos ho, ht]

theorem Dev.bar0Write_open {w : Word} (ht : d.regTarget who (0x20000000 + o) = .open) :
    d.bar0Write who o w = d.regWrite who (0x20000000 + o) w := by
  simp only [Dev.bar0Write, wordOff_self h4, if_pos ho, ht]

theorem Dev.bar0Write_refused {w : Word}
    (ht : d.regTarget who (0x20000000 + o) = .denied ∨ d.regTarget who (0x20000000 + o) = .reserved) :
    d.bar0Write who o w = d.errDecode who 0 true o := by
  rcases ht with ht | ht <;> simp only [Dev.bar0Write, wordOff_self h4, if_pos ho, ht]

theorem Dev.bar0Write_off {w : Word} {n : Nat} (ht : d.regTarget who (0x20000000 + o) = .off n) :
    d.bar0Write who o w = d.errGhost 0 true o n := by
  simp only [Dev.bar0Write, wordOff_self h4, if_pos ho, ht]

/-- An open register is reached only with its word read well on the path (R12). -/
theorem Dev.bar0ReadVia_open (fails : Nat) (ht : d.regTarget who (0x20000000 + o) = .open) :
    d.bar0ReadVia who o fails =
      if (d.pathFetch (0x20000000 + o) fails).2 = FetchOutcome.exhausted then
        ((d.pathFetch (0x20000000 + o) fails).1, 0xFFFFFFFF#32)
      else (d.pathFetch (0x20000000 + o) fails).1.bar0Read who o := by
  simp only [Dev.bar0ReadVia, wordOff_self h4]
  exact if_pos (reaches_iff.2 ⟨ho, ht⟩)

theorem Dev.bar0WriteVia_open (w : Word) (fails : Nat) (ht : d.regTarget who (0x20000000 + o) = .open) :
    d.bar0WriteVia who o w fails =
      if (d.pathFetch (0x20000000 + o) fails).2 = FetchOutcome.exhausted then (d.pathFetch (0x20000000 + o) fails).1
      else (d.pathFetch (0x20000000 + o) fails).1.bar0Write who o w := by
  simp only [Dev.bar0WriteVia, wordOff_self h4]
  exact if_pos (reaches_iff.2 ⟨ho, ht⟩)

end

/-- An access that reaches no open register takes no path through the interconnect. -/
theorem Dev.bar0ReadVia_refused (fails : Nat) (ht : o < 0x140000 → d.regTarget who (0x20000000 + o) ≠ .open) :
    d.bar0ReadVia who o fails = d.bar0Read who o := by
  simp only [Dev.bar0ReadVia, wordOff_self h4]
  exact if_neg fun h => ht (reaches_iff.1 h).1 (reaches_iff.1 h).2

theorem Dev.bar0WriteVia_refused (w : Word) (fails : Nat) (ht : o < 0x140000 → d.regTarget who (0x20000000 + o) ≠ .open) :
    d.bar0WriteVia who o w fails = d.bar0Write who o w := by
  simp only [Dev.bar0WriteVia, wordOff_self h4]
  exact if_neg fun h => ht (reaches_iff.1 h).1 (reaches_iff.1 h).2

theorem Dev.bar0Write_doorbell {w : Word} (hlo : 0x1000000 ≤ o) (hhi : o < 0x1000200) :
    d.bar0Write who o w = d.doorbellWrite ((o - 0x1000000) / 4) w.toNat := by
  have hctl : ¬ o < 0x140000 := by omega
  simp only [Dev.bar0Write, wordOff_self h4, hctl, hlo, hhi, decide_true, Bool.and_self, if_true, if_false]

theorem Dev.bar0Write_msix {w : Word} (hlo : 0x1001000 ≤ o) (hhi : o < 0x1001400) :
    d.bar0Write who o w =
      if d.domUp 26 then d.msixWrite ((o - 0x1001000) / 4) w else d.errGhost 0 true o 26 := by
  have hctl : ¬ o < 0x140000 := by omega
  have hbell : ¬ o < 0x1000200 := by omega
  have hpba : o < 0x1002000 := by omega
  cases hd : d.domUp 26 <;> simp [Dev.bar0Write, wordOff_self h4, hctl, hbell, hlo, hhi, hpba, hd]

theorem Dev.bar0Write_unmapped {w : Word} (hlo : 0x140000 ≤ o) (hhi : o < 0x1000000) :
    d.bar0Write who o w = d.errDecode who 0 true o := by
  have hctl : ¬ o < 0x140000 := by omega
  have hbell : ¬ 0x1000000 ≤ o := by omega
  have htable : ¬ 0x1001000 ≤ o := by omega
  have hpba : ¬ 0x1002000 ≤ o := by omega
  simp [Dev.bar0Write, wordOff_self h4, hctl, hbell, htable, hpba]

end

/-! Accesses of any initiator, at word addresses of the control space. -/

/-- What a read returns leaves the device as an output. -/
theorem Dev.accessRead_eq {d e : Dev} {who : Initiator} {a : Nat} {v : Word}
    (h : (if who = .host then d.bar0Read who (a - 0x20000000) else d.ctlRead who a) = (e, v)) :
    d.accessRead who a = e.emit (.readData who a v.toNat) := by
  simp only [Dev.accessRead, h]

section
variable {d : Dev} {who : Initiator} {a : Nat} (h4 : a % 4 = 0) (hc : isControl a = true)
include h4 hc

/-- A word address of the control space lies at a word offset of BAR0's first window (R26). -/
theorem exists_controlOffset : ∃ o, a = 0x20000000 + o ∧ o % 4 = 0 ∧ o < 0x140000 ∧ a - 0x20000000 = o := by
  simp only [isControl, Bool.and_eq_true, decide_eq_true_eq] at hc
  exact ⟨a - 0x20000000, by omega, by omega, by omega, rfl⟩

theorem Dev.accessWrite_open {w : Word} (ht : d.regTarget who a = .open) :
    d.accessWrite who a w = (d.regWrite who a w).pump := by
  obtain ⟨o, rfl, ho4, ho, hoff⟩ := exists_controlOffset h4 hc
  unfold Dev.accessWrite
  split
  · rw [hoff, Dev.bar0Write_open ho4 ho ht]
  · rw [Dev.ctlWrite_open ht]

theorem Dev.accessWrite_hostRefused {w : Word} (hw : who = .host)
    (ht : d.regTarget who a = .denied ∨ d.regTarget who a = .reserved) :
    d.accessWrite who a w = (d.errDecode who 0 true (a - 0x20000000)).pump := by
  obtain ⟨o, rfl, ho4, ho, hoff⟩ := exists_controlOffset h4 hc
  rw [Dev.accessWrite, if_pos hw, hoff, Dev.bar0Write_refused ho4 ho ht]

theorem Dev.accessWrite_hostOff {w : Word} {n : Nat} (hw : who = .host) (ht : d.regTarget who a = .off n) :
    d.accessWrite who a w = (d.errGhost 0 true (a - 0x20000000) n).pump := by
  obtain ⟨o, rfl, ho4, ho, hoff⟩ := exists_controlOffset h4 hc
  rw [Dev.accessWrite, if_pos hw, hoff, Dev.bar0Write_off ho4 ho ht]

theorem Dev.accessRead_open {e : Dev} {v : Word} (ht : d.regTarget who a = .open) (hr : d.regRead who a = (e, v)) :
    d.accessRead who a = e.emit (.readData who a v.toNat) := by
  obtain ⟨o, rfl, ho4, ho, hoff⟩ := exists_controlOffset h4 hc
  apply Dev.accessRead_eq
  split
  · rw [hoff, Dev.bar0Read_open ho4 ho ht, hr]
  · rw [Dev.ctlRead_open ht, hr]

theorem Dev.accessRead_hostDenied (hw : who = .host) (ht : d.regTarget who a = .denied) :
    d.accessRead who a = d.emit (.readData who a 0) := by
  obtain ⟨o, rfl, ho4, ho, hoff⟩ := exists_controlOffset h4 hc
  refine Dev.accessRead_eq (v := 0) ?_
  rw [if_pos hw, hoff, Dev.bar0Read_denied ho4 ho ht]

theorem Dev.accessRead_hostReserved (hw : who = .host) (ht : d.regTarget who a = .reserved) :
    d.accessRead who a = (d.errDecode who 0 false (a - 0x20000000)).emit (.readData who a 0) := by
  obtain ⟨o, rfl, ho4, ho, hoff⟩ := exists_controlOffset h4 hc
  refine Dev.accessRead_eq (v := 0) ?_
  rw [if_pos hw, hoff, Dev.bar0Read_reserved ho4 ho ht]

theorem Dev.accessRead_hostOff {n : Nat} (hw : who = .host) (ht : d.regTarget who a = .off n) :
    d.accessRead who a = (d.errGhost 0 false (a - 0x20000000) n).emit (.readData who a 0xFFFFFFFF) := by
  obtain ⟨o, rfl, ho4, ho, hoff⟩ := exists_controlOffset h4 hc
  refine Dev.accessRead_eq (v := 0xFFFFFFFF#32) ?_
  rw [if_pos hw, hoff, Dev.bar0Read_off ho4 ho ht]

end

theorem Dev.accessWrite_coreRefused {d : Dev} {who : Initiator} {a : Nat} {w : Word} (hw : who ≠ .host)
    (ht : d.regTarget who a ≠ .open) : d.accessWrite who a w = d.pump := by
  rw [Dev.accessWrite, if_neg hw, Dev.ctlWrite_refused ht]

theorem Dev.accessRead_coreRefused {d : Dev} {who : Initiator} {a : Nat} (hw : who ≠ .host)
    (ht : d.regTarget who a ≠ .open) : d.accessRead who a = d.emit (.readData who a 0) := by
  refine Dev.accessRead_eq (v := 0) ?_
  rw [if_neg hw, Dev.ctlRead_refused ht]

/-! The commands that access registers. -/

theorem answers_registerWrite {who : Initiator} {a : Nat} {w : Word} {d : Dev} {P : Dev → Prop}
    (h : P (if isControl a then d.accessWrite who a w else d)) : Answers (.registerWrite who a w) d P :=
  Answers.intro (f := fun d => if isControl a then d.accessWrite who a w else d) (fun _ => rfl) h

theorem answers_rcFieldRead {who : Initiator} {a : Nat} {d : Dev} {P : Dev → Prop}
    (h : P (if isControl a then d.accessRead who a else d)) : Answers (.rcFieldRead who a) d P :=
  Answers.intro (f := fun d => if isControl a then d.accessRead who a else d) (fun _ => rfl) h

theorem answers_loWordRead {who : Initiator} {a : Nat} {d : Dev} {P : Dev → Prop}
    (h : P (if isControl a then d.accessRead who a else d)) : Answers (.loWordRead who a) d P :=
  Answers.intro (f := fun d => if isControl a then d.accessRead who a else d) (fun _ => rfl) h

/-- What a read at `a` may come to, by its target (R6, R24, R26, R27): the clauses that both read commands share. -/
def ReadGives (d : Dev) (who : Initiator) (a : Nat) (t : Dev) : Prop :=
  (∀ e v, isControl a = true → d.regTarget who a = .open → d.regRead who a = (e, v) → t = e.emit (.readData who a v.toNat)) ∧
  (isControl a = true → who ≠ .host → d.regTarget who a ≠ .open → t = d.emit (.readData who a 0)) ∧
  (isControl a = true → who = .host → d.regTarget who a = .denied → t = d.emit (.readData who a 0)) ∧
  (isControl a = true → who = .host → d.regTarget who a = .reserved →
    t = (d.errDecode who 0 false (a - 0x20000000)).emit (.readData who a 0)) ∧
  (∀ n, isControl a = true → who = .host → d.regTarget who a = .off n →
    t = (d.errGhost 0 false (a - 0x20000000) n).emit (.readData who a 0xFFFFFFFF))

theorem readGives_accessRead (d : Dev) (who : Initiator) (a : Nat) (h4 : a % 4 = 0) :
    ReadGives d who a (if isControl a then d.accessRead who a else d) := by
  refine ⟨fun e v hc ht hr => ?_, fun hc hw ht => ?_, fun hc hw ht => ?_, fun hc hw ht => ?_, fun n hc hw ht => ?_⟩ <;>
    rw [if_pos hc]
  · exact Dev.accessRead_open h4 hc ht hr
  · exact Dev.accessRead_coreRefused hw ht
  · exact Dev.accessRead_hostDenied h4 hc hw ht
  · exact Dev.accessRead_hostReserved h4 hc hw ht
  · exact Dev.accessRead_hostOff h4 hc hw ht

/-! Accesses of the host through its BARs. -/

/-- The device after an access of the host through BAR0 or BAR2: `exec_hostBarAccess` ties it to the command. -/
def Dev.barAccess (d : Dev) (bar2 : Bool) (off : Nat) (data : Option Word) (fails : Nat) : Dev :=
  match data with
  | some w => (if bar2 then d.bar2Write .host (off % 2 ^ 21) w fails else d.bar0WriteVia .host (off % 2 ^ 25) w fails).pump
  | none =>
    let r := if bar2 then d.bar2Read .host (off % 2 ^ 21) fails else d.bar0ReadVia .host (off % 2 ^ 25) fails
    r.1.emit (.readData .host off r.2.toNat)

theorem exec_hostBarAccess (bar2 : Bool) (off : Nat) (data : Option Word) (fails : Nat) (s : State) :
    exec (.hostBarAccess bar2 off data fails) s = s.run fun d => d.barAccess bar2 off data fails := by
  cases data <;> rfl

theorem Dev.barAccess_bar2Write (d : Dev) (off : Nat) (w : Word) (fails : Nat) :
    d.barAccess true off (some w) fails = (d.bar2Write .host (off % 2 ^ 21) w fails).pump := by
  simp only [Dev.barAccess, if_true]

theorem Dev.barAccess_bar0Write (d : Dev) (off : Nat) (w : Word) (fails : Nat) :
    d.barAccess false off (some w) fails = (d.bar0WriteVia .host (off % 2 ^ 25) w fails).pump := by
  simp only [Dev.barAccess, Bool.false_eq_true, if_false]

theorem Dev.barAccess_bar2Read {d e : Dev} {off fails : Nat} {v : Word}
    (h : d.bar2Read .host (off % 2 ^ 21) fails = (e, v)) :
    d.barAccess true off none fails = e.emit (.readData .host off v.toNat) := by
  simp only [Dev.barAccess, if_true, h]

theorem Dev.barAccess_bar0Read {d e : Dev} {off fails : Nat} {v : Word}
    (h : d.bar0ReadVia .host (off % 2 ^ 25) fails = (e, v)) :
    d.barAccess false off none fails = e.emit (.readData .host off v.toNat) := by
  simp only [Dev.barAccess, Bool.false_eq_true, if_false, h]

theorem answers_pcieLinkUp {msix master : Bool} {d : Dev} {P : Dev → Prop} (h : P (pcieLinkUp msix master d)) :
    Answers (.pcieLinkUp msix master) d P :=
  Answers.intro (f := pcieLinkUp msix master) (fun _ => rfl) h

/-! The statements. -/

/-- Settles O47: the step on an empty queue is the tick by definition, and reset holds the tick. -/
theorem anEmptyQueuePassesATick : Obligations.AnEmptyQueuePassesATick :=
  fun d => ⟨d.tick, rfl, rfl, Dev.tick_of_porstLow⟩

/-- Settles O55, from the formula for one bit of the stored word. -/
theorem accessCodesRuleEachBit : Obligations.AccessCodesRuleEachBit := by
  intro r locked old w i _ hi
  refine ⟨fun hrw h1c h1s => ?_, fun hrw hrwl h1c h1s => ?_, fun hrw hrwl h1c h1s => ?_, fun hrw hrwl h1c h1s => ?_,
    fun hrw hrwl h1c h1s => ?_⟩ <;> rw [r.merge_bit locked old w i hi, h1c, h1s]
  · simp [RegRow.takes, hrw]
  · cases locked <;> simp [RegRow.takes, hrw, hrwl]
  · simp [RegRow.takes, hrw, hrwl]
  · simp [RegRow.takes, hrw, hrwl]
  · simp [RegRow.takes, hrw, hrwl]

/-- Settles O53, from the laws of register and field writes. -/
theorem registerStoresAreExact : Obligations.RegisterStoresAreExact := by
  intro d f g v i j hinv hf hg
  have hwf := Dev.inv_regs hinv
  refine ⟨Dev.rd_wr d f v i hwf hf, fun a ha => ?_, fun hbits => ?_, Dev.rd_bump d f i hwf hf, Dev.wr_inv d f v i hinv, rfl⟩
  · rw [Dev.reg_wr _ _ _ _ _ hwf, if_neg ha]
  · exact Dev.rd_wr_bits d f g v i j hwf hbits hf (by omega)

/-- Settles O54, from the laws of little-endian stores and the uniqueness of the canonical form. -/
theorem memoryStoresAreExact : Obligations.MemoryStoresAreExact := by
  refine ⟨fun d a n v hinv => ?_, fun d e hd he => Dev.mem_ext (Dev.inv_mem hd) (Dev.inv_mem he)⟩
  have hwf := Dev.inv_mem hinv
  refine ⟨Dev.le_setLe d a n v hwf, fun b hb => Dev.byte_setLe_other d a n v b hwf hb, fun j hj => ?_,
    Dev.setLe_memWf d a n v hwf, Dev.setLe_frame d a n v⟩
  rw [Dev.byte_setLe_same d a n v j hwf hj, BitVec.toNat_ofNat]

/-- Settles O39: each access goes to its target, and what each target answers is a lemma above. -/
theorem accessesReachTheirRegisters : Obligations.AccessesReachTheirRegisters := by
  refine ⟨fun d who a w h4 => answers_registerWrite ?_, fun d who a h4 => answers_rcFieldRead ?_,
    fun d who a h4 => answers_loWordRead ?_,
    fun d bar2 off data fails o a x h4 ho ha hx => Answers.intro (exec_hostBarAccess bar2 off data fails) ?_,
    fun d msix master => answers_pcieLinkUp ⟨fun hup => if_pos hup, fun hdown => if_neg (by simp [hdown])⟩⟩
  case refine_1 =>
    refine ⟨fun hc => if_neg (by simp [hc]), fun hc ht => ?_, fun hc hw ht => ?_, fun hc hw ht => ?_, fun n hc hw ht => ?_⟩ <;>
      rw [if_pos hc]
    · exact Dev.accessWrite_open h4 hc ht
    · exact Dev.accessWrite_coreRefused hw ht
    · exact Dev.accessWrite_hostRefused h4 hc hw ht
    · exact Dev.accessWrite_hostOff h4 hc hw ht
  case refine_2 =>
    have hgives := readGives_accessRead d who a h4
    refine ⟨fun hc => if_neg (by simp [hc]), fun r k e hc ht hclaim hlatch hhi hrow hrc he => ?_, hgives⟩
    exact hgives.1 e _ hc ht (he ▸ Dev.regRead_rc hclaim hlatch hhi hrow hrc)
  case refine_3 =>
    have hgives := readGives_accessRead d who a h4
    refine ⟨fun hc => if_neg (by simp [hc]), fun h r k e hc ht hclaim hlatch hhi hrow hrc he => ?_, hgives⟩
    exact hgives.1 e _ hc ht (he ▸ Dev.regRead_lo hclaim hlatch hhi hrow hrc)
  case refine_4 =>
    have ho4 : o % 4 = 0 := by omega
    subst ha hx
    have hplain : ∀ w, (o < 0x140000 → d.regTarget .host (0x20000000 + o) ≠ .open) →
        d.barAccess false off (some w) fails = (d.bar0Write .host o w).pump := fun w hclosed => by
      rw [Dev.barAccess_bar0Write, ← ho, Dev.bar0WriteVia_refused ho4 w fails hclosed]
    refine ⟨?_, ?_, ?_, ?_, ?_, ?_, ?_, ?_, ?_, ?_, ?_, ?_⟩
    case refine_1 =>
      rintro w rfl rfl
      exact Dev.barAccess_bar2Write d off w fails
    case refine_2 =>
      rintro e v rfl rfl hr
      exact Dev.barAccess_bar2Read hr
    case refine_3 =>
      rintro w rfl rfl hctl ht hbad
      rw [Dev.barAccess_bar0Write, ← ho, Dev.bar0WriteVia_open ho4 hctl w fails ht, if_pos hbad]
    case refine_4 =>
      rintro w rfl rfl hctl ht hgood ht'
      rw [Dev.barAccess_bar0Write, ← ho, Dev.bar0WriteVia_open ho4 hctl w fails ht, if_neg hgood,
        Dev.bar0Write_open ho4 hctl ht']
    case refine_5 =>
      rintro w rfl rfl hctl ht
      have hclosed : d.regTarget .host (0x20000000 + o) ≠ .open := by rcases ht with ht | ht <;> simp [ht]
      rw [hplain w fun _ => hclosed, Dev.bar0Write_refused ho4 hctl ht]
    case refine_6 =>
      rintro w n rfl rfl hctl ht
      have hclosed : d.regTarget .host (0x20000000 + o) ≠ .open := by simp [ht]
      rw [hplain w fun _ => hclosed, Dev.bar0Write_off ho4 hctl ht]
    case refine_7 =>
      rintro w rfl rfl hlo hhi
      rw [hplain w (by omega), Dev.bar0Write_doorbell ho4 hlo hhi]
    case refine_8 =>
      rintro w rfl rfl hlo hhi
      rw [hplain w (by omega), Dev.bar0Write_msix ho4 hlo hhi]
    case refine_9 =>
      rintro w rfl rfl hlo hhi
      rw [hplain w (by omega), Dev.bar0Write_unmapped ho4 hlo hhi]
    case refine_10 =>
      rintro rfl rfl hctl ht hbad
      refine Dev.barAccess_bar0Read (v := 0xFFFFFFFF#32) ?_
      rw [← ho, Dev.bar0ReadVia_open ho4 hctl fails ht, if_pos hbad]
    case refine_11 =>
      rintro e v rfl rfl hctl ht hgood hr
      refine Dev.barAccess_bar0Read ?_
      rw [← ho, Dev.bar0ReadVia_open ho4 hctl fails ht, if_neg hgood, hr]
    case refine_12 =>
      rintro e v rfl rfl ht hr
      refine Dev.barAccess_bar0Read ?_
      rw [← ho, Dev.bar0ReadVia_refused ho4 fails ht, hr]

end Sys2Proof.Machine
end

section
/-! SUPPORT. What every step keeps: each command and the tick keep the invariant, a step always answers, and the commands of a
queue are served in their order; the statements of 01_architecture.md on steps settled with these facts. -/

namespace Sys2Proof.Machine

open Sys2Proof

/-- A command that answers a next state keeps the invariant: one lemma of Laws/KeepExec.lean for each constructor. -/
theorem exec_inv (c : Instr) {s t : State} (h : s.inv) (e : exec c s = .next t) : t.inv := by
  cases c
  case vddAonGood => exact execVddAonGood_inv (h0 := h) (e0 := e)
  case powerOnReset => exact execPowerOnReset_inv (h0 := h) (e0 := e)
  case porstNRise => exact execPorstNRise_inv (h0 := h) (e0 := e)
  case sysrstNAssert => exact execSysrstNAssert_inv (h0 := h) (e0 := e)
  case sysResetCtrlSys => exact execSysResetCtrlSys_inv (h0 := h) (e0 := e)
  case sysResetCtrlCoreHold => exact execSysResetCtrlCoreHold_inv (h0 := h) (e0 := e)
  case pciExpressReset => exact execPciExpressReset_inv (h0 := h) (e0 := e)
  case railBrownOut => exact execRailBrownOut_inv (h0 := h) (e0 := e)
  case nvOkFall => exact execNvOkFall_inv (h0 := h) (e0 := e)
  case nvOkRise => exact execNvOkRise_inv (h0 := h) (e0 := e)
  case railGood => exact execRailGood_inv (h0 := h) (e0 := e)
  case bootSupplyTimeout => exact execBootSupplyTimeout_inv (h0 := h) (e0 := e)
  case bootLowSupplyRecheck => exact execBootLowSupplyRecheck_inv (h0 := h) (e0 := e)
  case packetBufferSelfTestDone => exact execPacketBufferSelfTestDone_inv (h0 := h) (e0 := e)
  case bootHeaderReadDone => exact execBootHeaderReadDone_inv (h0 := h) (e0 := e)
  case bootImageReadDone => exact execBootImageReadDone_inv (h0 := h) (e0 := e)
  case bootSectionsCopied => exact execBootSectionsCopied_inv (h0 := h) (e0 := e)
  case bootSelfTestDone => exact execBootSelfTestDone_inv (h0 := h) (e0 := e)
  case bootFirmwareEntry => exact execBootFirmwareEntry_inv (h0 := h) (e0 := e)
  case sysBootDoorbell => exact execSysBootDoorbell_inv (h0 := h) (e0 := e)
  case bootPeerTimeout => exact execBootPeerTimeout_inv (h0 := h) (e0 := e)
  case intNPulseEnd => exact execIntNPulseEnd_inv (h0 := h) (e0 := e)
  case startupCalibrationStageDone => exact execStartupCalibrationStageDone_inv (h0 := h) (e0 := e)
  case pwrVoteSet => exact execPwrVoteSet_inv (h0 := h) (e0 := e)
  case pwrVoteClr => exact execPwrVoteClr_inv (h0 := h) (e0 := e)
  case pwrVoteVnWrite => exact execPwrVoteVnWrite_inv (h0 := h) (e0 := e)
  case domainSwitchOnStart => exact execDomainSwitchOnStart_inv (h0 := h) (e0 := e)
  case domainPowerUpDone => exact execDomainPowerUpDone_inv (h0 := h) (e0 := e)
  case domainDrainDone => exact execDomainDrainDone_inv (h0 := h) (e0 := e)
  case domainDrainTimeout => exact execDomainDrainTimeout_inv (h0 := h) (e0 := e)
  case domainDrainRetry => exact execDomainDrainRetry_inv (h0 := h) (e0 := e)
  case domainIsolationDone => exact execDomainIsolationDone_inv (h0 := h) (e0 := e)
  case domainSwitchOffDone => exact execDomainSwitchOffDone_inv (h0 := h) (e0 := e)
  case pwrPadRelease => exact execPwrPadRelease_inv (h0 := h) (e0 := e)
  case clkOpCtrlWrite => exact execClkOpCtrlWrite_inv (h0 := h) (e0 := e)
  case opVoltageRampDone => exact execOpVoltageRampDone_inv (h0 := h) (e0 := e)
  case opPllRelockDone => exact execOpPllRelockDone_inv (h0 := h) (e0 := e)
  case coreRailDrop => exact execCoreRailDrop_inv (h0 := h) (e0 := e)
  case wakePin => exact execWakePin_inv (h0 := h) (e0 := e)
  case pwrWakeTimeHiWrite => exact execPwrWakeTimeHiWrite_inv (h0 := h) (e0 := e)
  case wakeTimerCompare => exact execWakeTimerCompare_inv (h0 := h) (e0 := e)
  case pwrWatchCtrlWrite => exact execPwrWatchCtrlWrite_inv (h0 := h) (e0 := e)
  case watchPeriodTick => exact execWatchPeriodTick_inv (h0 := h) (e0 := e)
  case watchGainSettled => exact execWatchGainSettled_inv (h0 := h) (e0 := e)
  case watchDwellEnd => exact execWatchDwellEnd_inv (h0 := h) (e0 := e)
  case watchVoteRelease => exact execWatchVoteRelease_inv (h0 := h) (e0 := e)
  case calibrateOneEntry => exact execCalibrateOneEntry_inv (h0 := h) (e0 := e)
  case calibrateEveryAllowedChannel => exact execCalibrateEveryAllowedChannel_inv (h0 := h) (e0 := e)
  case invalidateOneEntry => exact execInvalidateOneEntry_inv (h0 := h) (e0 := e)
  case invalidateEveryEntry => exact execInvalidateEveryEntry_inv (h0 := h) (e0 := e)
  case runStages2To6 => exact execRunStages2To6_inv (h0 := h) (e0 := e)
  case calCommandEnd => exact execCalCommandEnd_inv (h0 := h) (e0 := e)
  case fullCalibrationLock => exact execFullCalibrationLock_inv (h0 := h) (e0 := e)
  case fullCalibrationFail => exact execFullCalibrationFail_inv (h0 := h) (e0 := e)
  case backgroundRecalibrationStart => exact execBackgroundRecalibrationStart_inv (h0 := h) (e0 := e)
  case retune => exact execRetune_inv (h0 := h) (e0 := e)
  case loLockLoss => exact execLoLockLoss_inv (h0 := h) (e0 := e)
  case tempSensorUpdate => exact execTempSensorUpdate_inv (h0 := h) (e0 := e)
  case tp3Commit => exact execTp3Commit_inv (h0 := h) (e0 := e)
  case txHopStart => exact execTxHopStart_inv (h0 := h) (e0 := e)
  case txLock => exact execTxLock_inv (h0 := h) (e0 := e)
  case txLockDeadline => exact execTxLockDeadline_inv (h0 := h) (e0 := e)
  case txLeadStart => exact execTxLeadStart_inv (h0 := h) (e0 := e)
  case txFirstChip => exact execTxFirstChip_inv (h0 := h) (e0 := e)
  case txLastChip => exact execTxLastChip_inv (h0 := h) (e0 := e)
  case txRampDownEnd => exact execTxRampDownEnd_inv (h0 := h) (e0 := e)
  case txStage6Done => exact execTxStage6Done_inv (h0 := h) (e0 := e)
  case coexCfgWrite => exact execCoexCfgWrite_inv (h0 := h) (e0 := e)
  case coexRoleChange => exact execCoexRoleChange_inv (h0 := h) (e0 := e)
  case coexRequestAssert => exact execCoexRequestAssert_inv (h0 := h) (e0 := e)
  case coexGntFall => exact execCoexGntFall_inv (h0 := h) (e0 := e)
  case coexReqEdge => exact execCoexReqEdge_inv (h0 := h) (e0 := e)
  case gainWindowEnd => exact execGainWindowEnd_inv (h0 := h) (e0 := e)
  case gainQuietIntervalEnd => exact execGainQuietIntervalEnd_inv (h0 := h) (e0 := e)
  case castling => exact execCastling_inv (h0 := h) (e0 := e)
  case rxwGainCfgWrite => exact execRxwGainCfgWrite_inv (h0 := h) (e0 := e)
  case preambleDetection => exact execPreambleDetection_inv (h0 := h) (e0 := e)
  case laneSyncTimeout => exact execLaneSyncTimeout_inv (h0 := h) (e0 := e)
  case freezePoint => exact execFreezePoint_inv (h0 := h) (e0 := e)
  case phrCheck => exact execPhrCheck_inv (h0 := h) (e0 := e)
  case laneFrameEnd => exact execLaneFrameEnd_inv (h0 := h) (e0 := e)
  case lanePostResume => exact execLanePostResume_inv (h0 := h) (e0 := e)
  case forkChannelEstimate => exact execForkChannelEstimate_inv (h0 := h) (e0 := e)
  case idleSample => exact execIdleSample_inv (h0 := h) (e0 := e)
  case channelConfigEffect => exact execChannelConfigEffect_inv (h0 := h) (e0 := e)
  case subModeEffect => exact execSubModeEffect_inv (h0 := h) (e0 := e)
  case wurxTelegramMatch => exact execWurxTelegramMatch_inv (h0 := h) (e0 := e)
  case restore => exact execRestore_inv (h0 := h) (e0 := e)
  case commitPulseTable => exact execCommitPulseTable_inv (h0 := h) (e0 := e)
  case pulseTableActivate => exact execPulseTableActivate_inv (h0 := h) (e0 := e)
  case maskWindowEnd => exact execMaskWindowEnd_inv (h0 := h) (e0 := e)
  case regMirrorCheck => exact execRegMirrorCheck_inv (h0 := h) (e0 := e)
  case regMirrorReloadDone => exact execRegMirrorReloadDone_inv (h0 := h) (e0 := e)
  case prog => exact execProg_inv (h0 := h) (e0 := e)
  case sealRegion => exact execSealRegion_inv (h0 := h) (e0 := e)
  case otpBitProgrammed => exact execOtpBitProgrammed_inv (h0 := h) (e0 := e)
  case regStageW1Effect => exact execRegStageW1Effect_inv (h0 := h) (e0 := e)
  case dutyBucketAdvance => exact execDutyBucketAdvance_inv (h0 := h) (e0 := e)
  case lbtListenEnd => exact execLbtListenEnd_inv (h0 := h) (e0 := e)
  case tempoWorkItem => exact execTempoWorkItem_inv (h0 := h) (e0 := e)
  case verifyResult => exact execVerifyResult_inv (h0 := h) (e0 := e)
  case ackDeadlineMissed => exact execAckDeadlineMissed_inv (h0 := h) (e0 := e)
  case lockstepMismatch => exact execLockstepMismatch_inv (h0 := h) (e0 := e)
  case tp4SelfTest => exact execTp4SelfTest_inv (h0 := h) (e0 := e)
  case slotOccurrence => exact execSlotOccurrence_inv (h0 := h) (e0 := e)
  case slotWindowClose => exact execSlotWindowClose_inv (h0 := h) (e0 := e)
  case tschTimeslot => exact execTschTimeslot_inv (h0 := h) (e0 := e)
  case lnkTschT0HiWrite => exact execLnkTschT0HiWrite_inv (h0 := h) (e0 := e)
  case lnkTschCtrlWrite => exact execLnkTschCtrlWrite_inv (h0 := h) (e0 := e)
  case ackWaitEnd => exact execAckWaitEnd_inv (h0 := h) (e0 := e)
  case retryAttempt => exact execRetryAttempt_inv (h0 := h) (e0 := e)
  case windowVoteLead => exact execWindowVoteLead_inv (h0 := h) (e0 := e)
  case windowClose => exact execWindowClose_inv (h0 := h) (e0 := e)
  case heldFrameSend => exact execHeldFrameSend_inv (h0 := h) (e0 := e)
  case checkTelegramSend => exact execCheckTelegramSend_inv (h0 := h) (e0 := e)
  case checkWaitEnd => exact execCheckWaitEnd_inv (h0 := h) (e0 := e)
  case nodeAdd => exact execNodeAdd_inv (h0 := h) (e0 := e)
  case nodeUpdate => exact execNodeUpdate_inv (h0 := h) (e0 := e)
  case nodeRemove => exact execNodeRemove_inv (h0 := h) (e0 := e)
  case nodeRead => exact execNodeRead_inv (h0 := h) (e0 := e)
  case routeSet => exact execRouteSet_inv (h0 := h) (e0 := e)
  case routeDel => exact execRouteDel_inv (h0 := h) (e0 := e)
  case routeDelIndexCleared => exact execRouteDelIndexCleared_inv (h0 := h) (e0 := e)
  case snapshot => exact execSnapshot_inv (h0 := h) (e0 := e)
  case restoreStream => exact execRestoreStream_inv (h0 := h) (e0 := e)
  case relayRetry => exact execRelayRetry_inv (h0 := h) (e0 := e)
  case adopt => exact execAdopt_inv (h0 := h) (e0 := e)
  case clear => exact execClear_inv (h0 := h) (e0 := e)
  case adoptDone => exact execAdoptDone_inv (h0 := h) (e0 := e)
  case clearDone => exact execClearDone_inv (h0 := h) (e0 := e)
  case buddyReplicaTimeout => exact execBuddyReplicaTimeout_inv (h0 := h) (e0 := e)
  case fedCtrlStart => exact execFedCtrlStart_inv (h0 := h) (e0 := e)
  case fedCfgWrite => exact execFedCfgWrite_inv (h0 := h) (e0 := e)
  case portLinkUp => exact execPortLinkUp_inv (h0 := h) (e0 := e)
  case portLinkDown => exact execPortLinkDown_inv (h0 := h) (e0 := e)
  case helloTimer => exact execHelloTimer_inv (h0 := h) (e0 := e)
  case discoveryClose => exact execDiscoveryClose_inv (h0 := h) (e0 := e)
  case hello => exact execHello_inv (h0 := h) (e0 := e)
  case candidate => exact execCandidate_inv (h0 := h) (e0 := e)
  case electionRound => exact execElectionRound_inv (h0 := h) (e0 := e)
  case groupReport => exact execGroupReport_inv (h0 := h) (e0 := e)
  case leader => exact execLeader_inv (h0 := h) (e0 := e)
  case coordinatorLoss => exact execCoordinatorLoss_inv (h0 := h) (e0 := e)
  case leaderLoss => exact execLeaderLoss_inv (h0 := h) (e0 := e)
  case memberAbsent => exact execMemberAbsent_inv (h0 := h) (e0 := e)
  case syncBurst => exact execSyncBurst_inv (h0 := h) (e0 := e)
  case syncReq => exact execSyncReq_inv (h0 := h) (e0 := e)
  case syncResp => exact execSyncResp_inv (h0 := h) (e0 := e)
  case parentHoldoverTimeout => exact execParentHoldoverTimeout_inv (h0 := h) (e0 := e)
  case digestTimer => exact execDigestTimer_inv (h0 := h) (e0 := e)
  case digest => exact execDigest_inv (h0 := h) (e0 := e)
  case recordReq => exact execRecordReq_inv (h0 := h) (e0 := e)
  case manifest => exact execManifest_inv (h0 := h) (e0 := e)
  case record => exact execRecord_inv (h0 := h) (e0 := e)
  case recordReassemblyTimeout => exact execRecordReassemblyTimeout_inv (h0 := h) (e0 := e)
  case propose => exact execPropose_inv (h0 := h) (e0 := e)
  case prepare => exact execPrepare_inv (h0 := h) (e0 := e)
  case prepared => exact execPrepared_inv (h0 := h) (e0 := e)
  case prepareTimeout => exact execPrepareTimeout_inv (h0 := h) (e0 := e)
  case commit => exact execCommit_inv (h0 := h) (e0 := e)
  case commitTime => exact execCommitTime_inv (h0 := h) (e0 := e)
  case abort => exact execAbort_inv (h0 := h) (e0 := e)
  case joinTimeout => exact execJoinTimeout_inv (h0 := h) (e0 := e)
  case replicationSend => exact execReplicationSend_inv (h0 := h) (e0 := e)
  case replica => exact execReplica_inv (h0 := h) (e0 := e)
  case replicaAck => exact execReplicaAck_inv (h0 := h) (e0 := e)
  case replicationRetx => exact execReplicationRetx_inv (h0 := h) (e0 := e)
  case replicaReq => exact execReplicaReq_inv (h0 := h) (e0 := e)
  case migrationStart => exact execMigrationStart_inv (h0 := h) (e0 := e)
  case migrateOffer => exact execMigrateOffer_inv (h0 := h) (e0 := e)
  case migrateAnswer => exact execMigrateAnswer_inv (h0 := h) (e0 := e)
  case offerRetry => exact execOfferRetry_inv (h0 := h) (e0 := e)
  case migrateDone => exact execMigrateDone_inv (h0 := h) (e0 := e)
  case doneRepeat => exact execDoneRepeat_inv (h0 := h) (e0 := e)
  case migrateActive => exact execMigrateActive_inv (h0 := h) (e0 := e)
  case activeTimeout => exact execActiveTimeout_inv (h0 := h) (e0 := e)
  case pendingDiscard => exact execPendingDiscard_inv (h0 := h) (e0 := e)
  case attestChallenge => exact execAttestChallenge_inv (h0 := h) (e0 := e)
  case attestResponse => exact execAttestResponse_inv (h0 := h) (e0 := e)
  case attestTimeout => exact execAttestTimeout_inv (h0 := h) (e0 := e)
  case visitor => exact execVisitor_inv (h0 := h) (e0 := e)
  case transmit => exact execTransmit_inv (h0 := h) (e0 := e)
  case redirect => exact execRedirect_inv (h0 := h) (e0 := e)
  case result => exact execResult_inv (h0 := h) (e0 := e)
  case bootReq => exact execBootReq_inv (h0 := h) (e0 := e)
  case bootData => exact execBootData_inv (h0 := h) (e0 := e)
  case hciEnable => exact execHciEnable_inv (h0 := h) (e0 := e)
  case hciReset => exact execHciReset_inv (h0 := h) (e0 := e)
  case fwReadyWrite => exact execFwReadyWrite_inv (h0 := h) (e0 := e)
  case fwReadyTimeout => exact execFwReadyTimeout_inv (h0 := h) (e0 := e)
  case doorbell => exact execDoorbell_inv (h0 := h) (e0 := e)
  case commandWakeDone => exact execCommandWakeDone_inv (h0 := h) (e0 := e)
  case commandWakeTimeout => exact execCommandWakeTimeout_inv (h0 := h) (e0 := e)
  case firmwareInterimCompletion => exact execFirmwareInterimCompletion_inv (h0 := h) (e0 := e)
  case msiXPendingSend => exact execMsiXPendingSend_inv (h0 := h) (e0 := e)
  case dmaFault => exact execDmaFault_inv (h0 := h) (e0 := e)
  case txFrame => exact execTxFrame_inv (h0 := h) (e0 := e)
  case regRead => exact execRegRead_inv (h0 := h) (e0 := e)
  case regWrite => exact execRegWrite_inv (h0 := h) (e0 := e)
  case powerVote => exact execPowerVote_inv (h0 := h) (e0 := e)
  case helloCommand => exact execHelloCommand_inv (h0 := h) (e0 := e)
  case identify => exact execIdentify_inv (h0 := h) (e0 := e)
  case queueCreate => exact execQueueCreate_inv (h0 := h) (e0 := e)
  case queueDelete => exact execQueueDelete_inv (h0 := h) (e0 := e)
  case txCancel => exact execTxCancel_inv (h0 := h) (e0 := e)
  case fedRecordPut => exact execFedRecordPut_inv (h0 := h) (e0 := e)
  case fedRecordDel => exact execFedRecordDel_inv (h0 := h) (e0 := e)
  case fedPropose => exact execFedPropose_inv (h0 := h) (e0 := e)
  case fedMemberRead => exact execFedMemberRead_inv (h0 := h) (e0 := e)
  case fedMigrate => exact execFedMigrate_inv (h0 := h) (e0 := e)
  case regProg => exact execRegProg_inv (h0 := h) (e0 := e)
  case secureRead => exact execSecureRead_inv (h0 := h) (e0 := e)
  case keyLoad => exact execKeyLoad_inv (h0 := h) (e0 := e)
  case keyClear => exact execKeyClear_inv (h0 := h) (e0 := e)
  case keyWrap => exact execKeyWrap_inv (h0 := h) (e0 := e)
  case blobPut => exact execBlobPut_inv (h0 := h) (e0 := e)
  case keyAttrRead => exact execKeyAttrRead_inv (h0 := h) (e0 := e)
  case lcStatus => exact execLcStatus_inv (h0 := h) (e0 := e)
  case lcTransition => exact execLcTransition_inv (h0 := h) (e0 := e)
  case applicationCommand => exact execApplicationCommand_inv (h0 := h) (e0 := e)
  case start => exact execStart_inv (h0 := h) (e0 := e)
  case cspmAbort => exact execCspmAbort_inv (h0 := h) (e0 := e)
  case cspmRdyTimeout => exact execCspmRdyTimeout_inv (h0 := h) (e0 := e)
  case cspmRequestDone => exact execCspmRequestDone_inv (h0 := h) (e0 := e)
  case cspsWrite => exact execCspsWrite_inv (h0 := h) (e0 := e)
  case cspsRead => exact execCspsRead_inv (h0 := h) (e0 := e)
  case fstat => exact execFstat_inv (h0 := h) (e0 := e)
  case cspsCommitDone => exact execCspsCommitDone_inv (h0 := h) (e0 := e)
  case bundle => exact execBundle_inv (h0 := h) (e0 := e)
  case interruptTaken => exact execInterruptTaken_inv (h0 := h) (e0 := e)
  case waitEnd => exact execWaitEnd_inv (h0 := h) (e0 := e)
  case gpioEdge => exact execGpioEdge_inv (h0 := h) (e0 := e)
  case tmrCtrlStart => exact execTmrCtrlStart_inv (h0 := h) (e0 := e)
  case tmrCtrlStop => exact execTmrCtrlStop_inv (h0 := h) (e0 := e)
  case eventTimerExpiry => exact execEventTimerExpiry_inv (h0 := h) (e0 := e)
  case pulseEnd => exact execPulseEnd_inv (h0 := h) (e0 := e)
  case holdoffEnd => exact execHoldoffEnd_inv (h0 := h) (e0 := e)
  case taskPendingServe => exact execTaskPendingServe_inv (h0 := h) (e0 := e)
  case stormRearm => exact execStormRearm_inv (h0 := h) (e0 := e)
  case evrEcnCfgWrite => exact execEvrEcnCfgWrite_inv (h0 := h) (e0 := e)
  case evrLunCfgWrite => exact execEvrLunCfgWrite_inv (h0 := h) (e0 := e)
  case irqCfgWrite => exact execIrqCfgWrite_inv (h0 := h) (e0 := e)
  case irqPendWrite => exact execIrqPendWrite_inv (h0 := h) (e0 := e)
  case irqClaim => exact execIrqClaim_inv (h0 := h) (e0 := e)
  case irqSgi => exact execIrqSgi_inv (h0 := h) (e0 := e)
  case load => exact execLoad_inv (h0 := h) (e0 := e)
  case keyCmdClear => exact execKeyCmdClear_inv (h0 := h) (e0 := e)
  case unwrap => exact execUnwrap_inv (h0 := h) (e0 := e)
  case wrap => exact execWrap_inv (h0 := h) (e0 := e)
  case derive => exact execDerive_inv (h0 := h) (e0 := e)
  case lock => exact execLock_inv (h0 := h) (e0 := e)
  case loadKr => exact execLoadKr_inv (h0 := h) (e0 := e)
  case progKr => exact execProgKr_inv (h0 := h) (e0 := e)
  case keyOperationDone => exact execKeyOperationDone_inv (h0 := h) (e0 := e)
  case keySlotAttrWrite => exact execKeySlotAttrWrite_inv (h0 := h) (e0 := e)
  case keyBlobCfgWrite => exact execKeyBlobCfgWrite_inv (h0 := h) (e0 := e)
  case keyPoolWrite => exact execKeyPoolWrite_inv (h0 := h) (e0 := e)
  case remaskSweep => exact execRemaskSweep_inv (h0 := h) (e0 := e)
  case nodeUnwrapDone => exact execNodeUnwrapDone_inv (h0 := h) (e0 := e)
  case otpLcCmdStart => exact execOtpLcCmdStart_inv (h0 := h) (e0 := e)
  case lcTransitionStep => exact execLcTransitionStep_inv (h0 := h) (e0 := e)
  case cphSubmit => exact execCphSubmit_inv (h0 := h) (e0 := e)
  case cipherDispatch => exact execCipherDispatch_inv (h0 := h) (e0 := e)
  case cipherSuspend => exact execCipherSuspend_inv (h0 := h) (e0 := e)
  case cipherRequestDone => exact execCipherRequestDone_inv (h0 := h) (e0 := e)
  case bulkAge => exact execBulkAge_inv (h0 := h) (e0 := e)
  case cipherDomainTimeout => exact execCipherDomainTimeout_inv (h0 := h) (e0 := e)
  case rowRemapDone => exact execRowRemapDone_inv (h0 := h) (e0 := e)
  case queueRetireMove => exact execQueueRetireMove_inv (h0 := h) (e0 := e)
  case sparingMapCheck => exact execSparingMapCheck_inv (h0 := h) (e0 := e)
  case hostBarAccess => exact execHostBarAccess_inv (h0 := h) (e0 := e)
  case aliasAccessComplete => exact execAliasAccessComplete_inv (h0 := h) (e0 := e)
  case rcFieldRead => exact execRcFieldRead_inv (h0 := h) (e0 := e)
  case loWordRead => exact execLoWordRead_inv (h0 := h) (e0 := e)
  case registerWrite => exact execRegisterWrite_inv (h0 := h) (e0 := e)
  case bandLoLock => exact execBandLoLock_inv (h0 := h) (e0 := e)
  case hopLockFailure => exact execHopLockFailure_inv (h0 := h) (e0 := e)
  case detectorBlankingEnd => exact execDetectorBlankingEnd_inv (h0 := h) (e0 := e)
  case windowOpen => exact execWindowOpen_inv (h0 := h) (e0 := e)
  case leaderHeartbeat => exact execLeaderHeartbeat_inv (h0 := h) (e0 := e)
  case pcieLinkUp => exact execPcieLinkUp_inv (h0 := h) (e0 := e)
  case cspmRdyRise => exact execCspmRdyRise_inv (h0 := h) (e0 := e)
  case sysrstNRelease => exact execSysrstNRelease_inv (h0 := h) (e0 := e)
  case rteIdxRebuildDone => exact execRteIdxRebuildDone_inv (h0 := h) (e0 := e)

/-- One function gives the effect of every command on the device: `exec_run`, chosen for all commands at once. -/
theorem exists_effect : ∃ f : Instr → Dev → Dev, ∀ c s, exec c s = s.run (f c) :=
  ⟨fun c => Classical.choose (exec_run c), fun c => Classical.choose_spec (exec_run c)⟩

/-- Every step ends in a next state: the tick on an empty queue, else the run of the command in front. -/
theorem State.runs_always (s : State) : s.runs := by
  obtain ⟨pending, dev⟩ := s
  cases pending with
  | nil => exact ⟨_, rfl⟩
  | cons c rest =>
    obtain ⟨f, hf⟩ := exec_run c
    exact ⟨_, hf _⟩

/-- A step keeps the invariant, whether it passes a tick or runs the command in front of the queue. -/
theorem step_inv {s t : State} (h : s.inv) (e : step s = .next t) : t.inv := by
  obtain ⟨pending, dev⟩ := s
  cases pending with
  | nil =>
    cases e
    exact Dev.tick_inv dev h
  | cons c rest => exact exec_inv c (s := { pending := rest, dev := dev }) h e

/-- Commands ahead of a queue are served in as many steps, each by its effect. -/
theorem steps_commands {f : Instr → Dev → Dev} (hf : ∀ c s, exec c s = s.run (f c)) (cs q : List Instr) (d : Dev) :
    Steps cs.length { pending := cs ++ q, dev := d } { pending := q, dev := cs.foldl (fun e c => f c e) d } := by
  induction cs generalizing d with
  | nil => rfl
  | cons c cs ih => exact ⟨{ pending := cs ++ q, dev := f c d }, hf c _, ih (f c d)⟩

/-- Settles O52: every step answers, and what it answers meets the invariant again. -/
theorem everyStepKeepsTheInvariant : Obligations.EveryStepKeepsTheInvariant := by
  intro s h
  obtain ⟨t, e⟩ := s.runs_always
  exact ⟨t, e, step_inv h e⟩

/-- Settles O48: a command is the run of one function of the device. -/
theorem everyCommandCompletesAndKeepsTheQueue : Obligations.EveryCommandCompletesAndKeepsTheQueue := by
  intro c
  obtain ⟨f, hf⟩ := exec_run c
  exact ⟨f, fun _ _ => hf _⟩

/-- Settles O49, by induction on the commands ahead. -/
theorem queuedCommandsRunInTheirOrder : Obligations.QueuedCommandsRunInTheirOrder := by
  obtain ⟨f, hf⟩ := exists_effect
  exact ⟨f, fun c _ _ => hf c _, steps_commands hf⟩

end Sys2Proof.Machine
end

section
/-! SUPPORT. The host's accesses to the packet buffer through BAR2 (R27, R292): the open part, the device areas and the buffer
with its domain down; the statement of 01_architecture.md on the window settled with these facts. -/

namespace Sys2Proof.Machine

open Sys2Proof

/-- A word that meets no parity failure is fetched with no effect (R420). -/
@[simp] theorem Dev.fetch_good (d : Dev) (res addr : Nat) : d.fetch res addr 0 = (d, .good) := rfl

/-- The device areas of the packet buffer lie below 1 MB (R292). -/
@[simp] theorem bar2Closed_iff (off : Nat) : bar2Closed off = true ↔ off < 0x100000 := decide_eq_true_iff

section

variable {d : Dev} {who : Initiator} {off : Nat} {w : Word} (h4 : off % 4 = 0)

include h4

theorem Dev.bar2Read_open (hup : d.domUp 23 = true) (ho : 0x100000 ≤ off) :
    d.bar2Read who off = (d, BitVec.ofNat 32 (d.le (0x11000000 + off) 4)) := by
  simp [Dev.bar2Read, wordOff_self h4, hup, Nat.not_lt.mpr ho]

theorem Dev.bar2Write_open (hup : d.domUp 23 = true) (ho : 0x100000 ≤ off) :
    d.bar2Write who off w = d.setLe (0x11000000 + off) 4 w.toNat := by
  simp [Dev.bar2Write, wordOff_self h4, hup, Nat.not_lt.mpr ho]

theorem Dev.bar2Read_closed (hup : d.domUp 23 = true) (ho : off < 0x100000) : d.bar2Read who off = (d, 0#32) := by
  simp [Dev.bar2Read, wordOff_self h4, hup, ho]

theorem Dev.bar2Write_closed (hup : d.domUp 23 = true) (ho : off < 0x100000) (hcode : d.rd Fld.sysBootStatus_code ≠ 2) :
    d.bar2Write who off w = d.errDecode who 1 true off := by
  simp [Dev.bar2Write, wordOff_self h4, hup, ho, hcode]

theorem Dev.bar2Read_off (hdown : d.domUp 23 = false) : d.bar2Read who off = (d.errGhost 1 false off 23, 0xFFFFFFFF#32) := by
  simp [Dev.bar2Read, wordOff_self h4, hdown]

theorem Dev.bar2Write_off (hdown : d.domUp 23 = false) : d.bar2Write who off w = d.errGhost 1 true off 23 := by
  simp [Dev.bar2Write, wordOff_self h4, hdown]

end

/-- Settles O59: in the open part a write is a little-endian store, whose laws are those of memory. -/
theorem theHostReachesTheBufferWindow : Obligations.TheHostReachesTheBufferWindow := by
  intro d off w hinv h4 _
  have hwf := Dev.inv_mem hinv
  refine ⟨fun hup ho => ?_, fun hup ho => ⟨Dev.bar2Read_closed h4 hup ho, Dev.bar2Write_closed h4 hup ho⟩,
    fun hdown => ⟨Dev.bar2Read_off h4 hdown, Dev.bar2Write_off h4 hdown⟩⟩
  rw [Dev.bar2Write_open h4 hup ho, Dev.le_setLe d _ 4 _ hwf]
  exact ⟨Nat.mod_eq_of_lt w.isLt, fun b hb => Dev.byte_setLe_other d _ 4 _ b hwf hb, Dev.setLe_frame d _ 4 _,
    Dev.bar2Read_open h4 hup ho⟩

end Sys2Proof.Machine
end

section
/-! SUPPORT. A core's bundle, interrupts and waits (R25, R341, R348, R351, R353, R355): what each of their branches comes to;
the statement of 01_architecture.md on the cores settled with these facts. -/

namespace Sys2Proof.Machine

open Sys2Proof

/-! One bundle. -/

/-- What the decode checks make of the words at the PC of core `n`: the bundle, or its trap. The lemmas on `Dev.bundleRun`
below tie it to the model. -/
def Dev.decoded (e : Dev) (n : Nat) (r : BundleRun) : Except CoreTrap Bundle :=
  decodeCheck n (e.core n) (e.fetchWords n (e.core n).pc (if r.old then (e.core n).unseen else []))

section

variable {d e : Dev} {n : Nat} {r : BundleRun} {out : FetchOutcome}
  (hf : (d.setCore n { d.core n with cycle := (d.core n).cycle + r.cycles, unseen := (d.core n).unseenAt }).fetch
    (memRes (coreBase n + (d.core n).pc)) (coreBase n + (d.core n).pc) r.fetchFails = (e, out))

include hf

theorem Dev.bundleRun_exhausted {x : Nat} {g : Dev} (ho : out = .exhausted) (hx : e.free 7 = (x, g)) :
    d.bundleRun n r = g.syncTrap n { cause := 7, len := x / 8, slot := x % 8, iter := (e.core n).iter } := by
  simp only [Dev.bundleRun, hf, if_pos ho, hx]

theorem Dev.bundleRun_refused {x : CoreTrap} (ho : out ≠ .exhausted) (hd : e.decoded n r = .error x) :
    d.bundleRun n r = e.syncTrap n x := by
  unfold Dev.decoded at hd
  simp only [Dev.bundleRun, hf, if_neg ho, hd]

theorem Dev.bundleRun_once {b : Bundle} (ho : out ≠ .exhausted) (hd : e.decoded n r = .ok b) (hb : b.rep = none) :
    d.bundleRun n r = (e.issue n b r false (((e.core n).pc + 4 * b.len) % 65536)).1 := by
  unfold Dev.decoded at hd
  simp only [Dev.bundleRun, hf, if_neg ho, hd, hb]

theorem Dev.bundleRun_repeated {b : Bundle} {lc : Nat} (ho : out ≠ .exhausted) (hd : e.decoded n r = .ok b)
    (hb : b.rep = some lc) :
    d.bundleRun n r = Dev.repeats n b lc (((e.core n).pc + 4 * b.len) % 65536) (r.more + 1) r e := by
  unfold Dev.decoded at hd
  simp only [Dev.bundleRun, hf, if_neg ho, hd, hb]

end

/-! One execution of its syllables: `u` is what they have read and asked for. -/

section

variable {e : Dev} {n : Nat} {b : Bundle} {r : BundleRun} {it : Bool} {next : Nat} {u : Issue}
  (hu : u = b.syls.foldl (Issue.syllable n (e.core n) r b.len it) { dev := e })

include hu

theorem Dev.issue_commit (ht : u.trap = none) (hs : u.stall = none) :
    (e.issue n b r it next).1 = u.commitAll n b next := by
  simp only [Dev.issue, ← hu, ht, hs]

theorem Dev.issue_trap {x : CoreTrap} (ht : u.trap = some x) : (e.issue n b r it next).1 = u.dev.syncTrap n x := by
  simp only [Dev.issue, ← hu, ht]

section

variable {w : AliasWait} {g : Dev} (ht : u.trap = none) (hs : u.stall = some w)
  (hg : g = (u.dev.setCore n { e.core n with stalled := some w, iter := it }).settleAll)

include ht hs hg

theorem Dev.issue_stall (hoff : (!(g.domUp w.dom) && ((g.dom w.dom).supplyWait || decide (30 ≤ w.dom))) = false) :
    (e.issue n b r it next).1 = g := by
  simp only [Dev.issue, ← hu, ht, hs, ← hg, hoff, Bool.false_eq_true, if_false]

theorem Dev.issue_domainOff (hoff : (!(g.domUp w.dom) && ((g.dom w.dom).supplyWait || decide (30 ≤ w.dom))) = true) :
    (e.issue n b r it next).1 = ((g.setCore n { g.core n with stalled := none }).syncTrap n
      ((b.syls.find? fun s => s.slot = 2).elim { cause := 5 } fun s =>
        s.trap b.len it 5 (w.addr + 0x08000000))).settleAll := by
  simp only [Dev.issue, ← hu, ht, hs, ← hg, hoff, if_true]

end

end

/-! The commands of a core. -/

section

variable {d : Dev} {n : Nat}

theorem bundle_executes {r : BundleRun} (hx : d.executes n = true) : bundle n r d = (d.bundleRun n r).pump := if_pos hx

theorem bundle_idle {r : BundleRun} (hx : d.executes n = false) : bundle n r d = d := if_neg (by simp [hx])

theorem interruptTaken_takes {i : Nat} (hx : d.executes n = true) (hie : (d.core n).ie = true) (hi : d.irqInput n = some i) :
    interruptTaken n d = d.interruptTrap n i := by
  simp [interruptTaken, hi, hx, hie]

theorem interruptTaken_leaves (h : d.executes n = false ∨ (d.core n).ie = false ∨ d.irqInput n = none) :
    interruptTaken n d = d := by
  rcases h with hx | hie | hi
  · cases hi : d.irqInput n <;> simp [interruptTaken, hi, hx]
  · cases hi : d.irqInput n <;> simp [interruptTaken, hi, hie]
  · simp [interruptTaken, hi]

theorem waitEnd_runs {i : Nat} (hn : n < 8) (hup : d.domUp (2 + n) = true) (hw : (d.core n).run = .wait)
    (hi : d.irqInput n = some i) :
    waitEnd n d = if (d.core n).ie then (d.setCore n { d.core n with run := .run }).interruptTrap n i
      else d.setCore n { d.core n with run := .run } := by
  simp [waitEnd, hi, hn, hup, hw]

theorem waitEnd_leaves (h : 8 ≤ n ∨ d.domUp (2 + n) = false ∨ (d.core n).run ≠ .wait ∨ d.irqInput n = none) :
    waitEnd n d = d := by
  rcases h with hn | hup | hw | hi
  · cases hi : d.irqInput n <;> simp [waitEnd, hi, Nat.not_lt.mpr hn]
  · cases hi : d.irqInput n <;> simp [waitEnd, hi, hup]
  · cases hi : d.irqInput n <;> simp [waitEnd, hi, hw]
  · simp [waitEnd, hi]

theorem aliasAccessComplete_runs {r : BundleRun} {w : AliasWait} (hn : n < 8) (hup : d.domUp (2 + n) = true)
    (hw : (d.core n).stalled = some w) (hd : d.domUp w.dom = true ∨ (d.dom w.dom).supplyWait = true) :
    aliasAccessComplete n r d = ((d.setCore n { d.core n with stalled := none }).bundleRun n r).pump.settleAll := by
  have hd : (d.domUp w.dom || (d.dom w.dom).supplyWait) = true := by simpa using hd
  simp [aliasAccessComplete, hw, hn, hup, hd]

theorem aliasAccessComplete_stays {r : BundleRun} (h : 8 ≤ n ∨ d.domUp (2 + n) = false ∨
      ∀ w, (d.core n).stalled = some w → d.domUp w.dom = false ∧ (d.dom w.dom).supplyWait = false) :
    aliasAccessComplete n r d = d := by
  cases hs : (d.core n).stalled with
  | none => simp [aliasAccessComplete, hs]
  | some w =>
    rcases h with hn | hup | hw
    · simp [aliasAccessComplete, hs, Nat.not_lt.mpr hn]
    · simp [aliasAccessComplete, hs, hup]
    · simp [aliasAccessComplete, hs, hw w hs]

end

/-- Settles O40: each branch of a bundle's run, and of the commands on interrupts and waits, is a lemma above. -/
theorem coresRunTheirBundles : Obligations.CoresRunTheirBundles := by
  refine ⟨?_, fun d n => Answers.intro (f := interruptTaken n) (fun _ => rfl)
      ⟨fun _ => interruptTaken_takes, interruptTaken_leaves⟩,
    ?_,
    fun d n r => Answers.intro (f := aliasAccessComplete n r) (fun _ => rfl)
      ⟨fun _ => aliasAccessComplete_runs, aliasAccessComplete_stays⟩⟩
  case refine_1 =>
    rintro d n r e _ out _ rfl rfl hf
    refine Answers.intro (f := bundle n r) (fun _ => rfl)
      ⟨bundle_idle, fun x g hx ho hfree => ?_, fun x hx ho hd => ?_, fun b u hx ho hd hb hu => ⟨fun ht hs => ?_, fun x ht => ?_,
        fun w g off ht hs hg hoff => ⟨fun hon => ?_, fun hoff' => ?_⟩⟩, fun b lc hx ho hd hb => ?_⟩ <;>
      rw [bundle_executes hx]
    · rw [Dev.bundleRun_exhausted hf ho hfree]
    · rw [Dev.bundleRun_refused hf ho hd]
    · rw [Dev.bundleRun_once hf ho hd hb, Dev.issue_commit hu ht hs]
    · rw [Dev.bundleRun_once hf ho hd hb, Dev.issue_trap hu ht]
    · rw [Dev.bundleRun_once hf ho hd hb, Dev.issue_stall hu ht hs hg (hoff ▸ hon)]
    · rw [Dev.bundleRun_once hf ho hd hb, Dev.issue_domainOff hu ht hs hg (hoff ▸ hoff')]
    · rw [Dev.bundleRun_repeated hf ho hd hb]
  case refine_2 =>
    rintro d n _ rfl
    exact Answers.intro (f := waitEnd n) (fun _ => rfl) ⟨fun _ => waitEnd_runs, waitEnd_leaves⟩

end Sys2Proof.Machine
end

section
/-! SUPPORT. Migrations, DATA frames and boot requests (R20, R264, R280, R283): what each message, retry and timeout comes to;
the statement of 01_architecture.md on them settled with these facts. -/

namespace Sys2Proof.Machine

open Sys2Proof

/-! Messages that the checks of R262 accept. -/

theorem Dev.bmRun_accepted {d e : Dev} {h : BmHdr} {k : BmKind} {format : Bool} (f : Dev → Dev)
    (ha : d.bmAccept h k format = (e, true)) : d.bmRun h k format f = (f e).settle := by
  simp only [Dev.bmRun, ha, if_true]

/-- An accepted message answers what its effect `f` leaves on the device of the checks. -/
theorem answers_message {c : Instr} {d e : Dev} {h : BmHdr} {k : BmKind} {format : Bool} {f : Dev → Dev} {P : Dev → Prop}
    (hc : ∀ s, exec c s = s.run fun d => d.bmRun h k format f) (ha : d.bmAccept h k format = (e, true))
    (hp : P (f e).settle) : Answers c d P :=
  Answers.intro hc (Dev.bmRun_accepted f ha ▸ hp)

section

variable {d : Dev} {node offer : Nat}

/-! The owner of a node (R280, steps 1, 2, 4 and 6). -/

theorem migrationStart_visited {s : Nat} {v : Visits} (hs : d.findSlot node = some s)
    (hv : (d.fed.visits.find? fun v => v.node = node && decide (migCount ≤ v.count)) = some v) :
    migrationStart node d = if d.fedOn && d.fedState = 8 && !d.damagedSlot s && d.migrationBar s v.member = Code.ok then
      d.migrate s v.member none else d := by
  simp only [migrationStart, hs, hv]

theorem migrationStart_leaves (h : d.findSlot node = none ∨
      (d.fed.visits.find? fun v => v.node = node && decide (migCount ≤ v.count)) = none) : migrationStart node d = d := by
  rcases h with h | h
  · simp only [migrationStart, h]
  · cases hs : d.findSlot node <;> simp only [migrationStart, hs, h]

theorem Dev.answerFrom_unknown {x status : Nat} (ho : d.outgoing offer = none) : d.answerFrom x offer status = d := by
  simp only [Dev.answerFrom, ho]

section

variable {m : Migration} {x status : Nat} (ho : d.outgoing offer = some m)

include ho

theorem Dev.answerFrom_late (h : m.peer ≠ x ∨ m.step ≠ 0) : d.answerFrom x offer status = d := by
  simp only [Dev.answerFrom, ho, if_pos h]

theorem Dev.answerFrom_ok (hx : m.peer = x) (h0 : m.step = 0) (hok : status = Code.ok) :
    d.answerFrom x offer status =
      (d.putMigration { m with step := 1, tries := 1, started := d.tmb }).fedSend none (.migrateDone m.node offer x) := by
  simp only [Dev.answerFrom, ho, hx, h0, hok, ne_eq, not_true_eq_false, or_self, if_false, if_true]

theorem Dev.answerFrom_refused {f : Dev} (hx : m.peer = x) (h0 : m.step = 0) (hno : status ≠ Code.ok)
    (hf : f = d.dropMigration m) : d.answerFrom x offer status =
      (f.setFed { f.fed with refused := alSet m.node f.tmb f.fed.refused }).migrationCmd m Code.migrateRefused := by
  simp only [Dev.answerFrom, ho, hx, h0, hno, hf, ne_eq, not_true_eq_false, or_self, if_false]

theorem offerRetry_again (hon : d.fedOn = true) (h0 : m.step = 0) (ht : m.tries < 4) :
    offerRetry offer d = (d.putMigration { m with tries := m.tries + 1 }).fedSend (some m.peer)
      (.migrateOffer m.node offer (d.bytes (ctxAddr m.slot) 128)) := by
  simp [offerRetry, ho, hon, h0, ht]

theorem offerRetry_last (hon : d.fedOn = true) (h0 : m.step = 0) (ht : 4 ≤ m.tries) :
    offerRetry offer d = ((d.freeOf failureCodes).2.dropMigration m).migrationCmd m (d.freeOf failureCodes).1 := by
  simp [offerRetry, ho, hon, h0, Nat.not_lt.mpr ht]

theorem doneRepeat_waiting (hon : d.fedOn = true) (h1 : m.step = 1) :
    doneRepeat offer d =
      (d.putMigration { m with tries := m.tries + 1 }).fedSend none (.migrateDone m.node offer m.peer) := by
  simp [doneRepeat, ho, hon, h1]

theorem activeTimeout_waiting (hon : d.fedOn = true) (h1 : m.step = 1) :
    activeTimeout offer d = ((d.putMigration { m with step := 2, cmd := none }).notice Code.migrateUnresolved
      m.node).migrationCmd m Code.migrateUnresolved := by
  simp [activeTimeout, ho, hon, h1]

end

/-- The effect of an accepted MIGRATE_ACTIVE of member `x`: `exec_migrateActive` ties it to the command. -/
def Dev.activeFrom (d : Dev) (x offer : Nat) : Dev :=
  match d.outgoing offer with
  | some m => if m.peer = x && m.step = 1 then d.handOver m else d
  | none => d

theorem exec_migrateActive (h : BmHdr) (s : State) :
    exec (.migrateActive h offer) s =
      s.run fun d => d.bmRun h { type := 0x16, bm3 := true } true (·.activeFrom (bmFrom h) offer) := rfl

theorem Dev.activeFrom_waiting {m : Migration} {x : Nat} (ho : d.outgoing offer = some m) (hx : m.peer = x) (h1 : m.step = 1) :
    d.activeFrom x offer = d.handOver m := by
  simp [Dev.activeFrom, ho, hx, h1]

theorem Dev.activeFrom_other {m : Migration} {x : Nat} (ho : d.outgoing offer = some m) (h : m.peer ≠ x ∨ m.step ≠ 1) :
    d.activeFrom x offer = d := by
  rcases h with h | h <;> simp [Dev.activeFrom, ho, h]

theorem Dev.activeFrom_unknown {x : Nat} (ho : d.outgoing offer = none) : d.activeFrom x offer = d := by
  simp only [Dev.activeFrom, ho]

/-! The target and the other members (R280, steps 2, 3 and 5). -/

section

variable {y : Nat} {ctx : List Byte} {known : Bool}
  (hk : known = d.fed.migrations.any fun m => !m.source && m.offer = offer && m.peer = y)

include hk

theorem Dev.offerFrom_known (h : known = true) :
    d.offerFrom y node offer ctx = d.fedSend (some y) (.migrateAnswer offer none) := by
  simp only [Dev.offerFrom, ← hk, h, if_true]

theorem Dev.offerFrom_refused {c : MigrateCause} (h : known = false) (hb : d.offerBar y node ctx = some c) :
    d.offerFrom y node offer ctx = d.fedSend (some y) (.migrateAnswer offer (some c)) := by
  simp only [Dev.offerFrom, ← hk, h, hb, Bool.false_eq_true, if_false]

theorem Dev.offerFrom_taken (h : known = false) (hb : d.offerBar y node ctx = none) :
    d.offerFrom y node offer ctx =
      (d.setMigrations (d.fed.migrations ++ [{
        offer := offer, node := node, slot := d.freeSlot.getD 0, peer := y, source := false, started := d.tmb
        ctx := ctx }])).fedSend (some y) (.migrateAnswer offer none) := by
  simp only [Dev.offerFrom, ← hk, h, hb, Bool.false_eq_true, if_false]

end

/-- An offer can be taken where its sender speaks Bm3, its node is not here, a slot is free and its context is sound. -/
theorem Dev.offerBar_eq_none_iff (y : Nat) (ctx : List Byte) :
    d.offerBar y node ctx = none ↔ d.memberBm3 y = true ∧ d.findSlot node = none ∧ d.freeSlot ≠ none ∧ d.fedState = 8 ∧
      imgField ctx Cx.valid = 1 ∧ imgField ctx Cx.nodeAddr = node ∧ ctxImageOk ctx = true ∧ d.domUp 22 = true ∧
      d.ndt.held = false := by
  unfold Dev.offerBar
  split
  case isTrue hbm => exact iff_of_false nofun fun ⟨h, _⟩ => by rw [h] at hbm; exact Bool.false_ne_true hbm
  case isFalse hbm =>
    split
    case isTrue hhere => exact iff_of_false nofun fun ⟨_, h, _⟩ => Option.isSome_iff_ne_none.mp hhere h
    case isFalse hhere =>
      split
      case isTrue hslot => exact iff_of_false nofun fun ⟨_, _, h, _⟩ => h hslot
      case isFalse hslot =>
        split
        case isTrue hnow =>
          exact iff_of_false nofun fun ⟨_, _, _, h8, hv, hn, hi, hup, hheld⟩ => by
            simp only [h8, hv, hn, hi, hup, hheld, ne_eq, not_true_eq_false, Bool.false_eq_true, or_self] at hnow
        case isFalse hnow =>
          simp only [not_or, ne_eq, Decidable.not_not] at hnow
          obtain ⟨h8, hv, hn, hi, hup, hheld⟩ := hnow
          rw [Bool.not_eq_true', Bool.not_eq_false] at hbm
          rw [Option.not_isSome_iff_eq_none] at hhere
          exact iff_of_true rfl ⟨hbm, hhere, hslot, h8, hv, hn, hi, hup, eq_false_of_ne_true hheld⟩

section

variable {y owner : Nat} {m : Migration}

theorem Dev.doneFrom_unknown (hme : owner = d.fedMe)
    (hm : (d.fed.migrations.find? fun m => !m.source && m.offer = offer && m.peer = y) = none) :
    d.doneFrom y node offer owner = d := by
  simp only [Dev.doneFrom, if_pos hme, hm]

theorem Dev.doneFrom_served (hme : owner = d.fedMe)
    (hm : (d.fed.migrations.find? fun m => !m.source && m.offer = offer && m.peer = y) = some m) (h1 : m.step = 1) :
    d.doneFrom y node offer owner = d.fedSend (some y) (.migrateActive offer) := by
  simp only [Dev.doneFrom, if_pos hme, hm, if_pos h1]

theorem Dev.doneFrom_pending {s : Nat} {x : Dev × Bool} (hme : owner = d.fedMe)
    (hm : (d.fed.migrations.find? fun m => !m.source && m.offer = offer && m.peer = y) = some m) (h1 : m.step ≠ 1)
    (hs : s = if d.slotValid m.slot then d.freeSlot.getD m.slot else m.slot) (hx : x = d.install s m.ctx) :
    d.doneFrom y node offer owner = if x.2 then
      (((x.1.putMigration { m with step := 1, slot := s }).bump Fld.fedStat5_migratedIn).slpRestored s).fedSend (some y)
        (.migrateActive offer) else x.1 := by
  simp only [Dev.doneFrom, if_pos hme, hm, if_neg h1, ← hs, ← hx]

theorem Dev.doneFrom_remote {r : Nat} (hme : owner ≠ d.fedMe) (hr : d.remoteOf node = some r) (hs : d.findSlot node = none) :
    d.doneFrom y node offer owner = d.setRteMember r owner := by
  simp [Dev.doneFrom, hme, hr, hs]

theorem Dev.doneFrom_elsewhere (hme : owner ≠ d.fedMe) (h : d.remoteOf node = none ∨ (d.findSlot node).isSome = true) :
    d.doneFrom y node offer owner = d := by
  rcases h with h | h
  · simp only [Dev.doneFrom, if_neg hme, h]
  · cases hr : d.remoteOf node <;> simp [Dev.doneFrom, hme, hr, Option.isSome_iff_ne_none.mp h]

end

/-! DATA (R20, R264). -/

theorem Dev.dataRun_absent {m : Nat} (f : Dev → Dev) (h : d.memberState m = 0) : d.dataRun m f = d.bump Fld.fedStat2_fwdDrop :=
  if_pos h

theorem Dev.dataRun_member {m : Nat} (f : Dev → Dev) (h : d.memberState m ≠ 0) : d.dataRun m f = f d := if_neg h

section

variable {m : Nat} {octets : List Byte} {onward : Bool}

theorem Dev.visitorIn_idle {s : Nat} (hs : d.findSlot node = some s)
    (hi : (d.tempo.items.any fun i => i.slot = s) = false) :
    d.visitorIn m node octets onward = d.visitorAt s m octets := by
  simp only [Dev.visitorIn, hs, hi, Bool.false_eq_true, if_false]

theorem Dev.visitorIn_busy {s : Nat} (hs : d.findSlot node = some s)
    (hi : (d.tempo.items.any fun i => i.slot = s) = true) :
    d.visitorIn m node octets onward =
      d.setFed { d.fed with inbox := d.fed.inbox ++ [{ node := node, member := m, octets := octets }] } := by
  simp only [Dev.visitorIn, hs, hi, if_true]

theorem Dev.visitorIn_moved {r : Nat} (hs : d.findSlot node = none) (hr : d.findNode node = some r)
    (hm : d.rteMember r ≠ d.fedMe) :
    d.visitorIn m node octets true = d.fedForward (d.rteMember r) (.redirect node octets) := by
  simp [Dev.visitorIn, hs, hr, hm]

theorem Dev.visitorIn_own {r : Nat} (hs : d.findSlot node = none) (hr : d.findNode node = some r)
    (hm : d.rteMember r = d.fedMe) : d.visitorIn m node octets onward = d.bump Fld.fedStat2_fwdDrop := by
  simp [Dev.visitorIn, hs, hr, hm]

theorem Dev.visitorIn_unknown (hs : d.findSlot node = none) (hr : d.findNode node = none) :
    d.visitorIn m node octets onward = d.bump Fld.fedStat2_fwdDrop := by
  simp only [Dev.visitorIn, hs, hr]

/-- A REDIRECT goes no further (R264). -/
theorem Dev.visitorIn_redirected (hs : d.findSlot node = none) :
    d.visitorIn m node octets false = d.bump Fld.fedStat2_fwdDrop := by
  cases hr : d.findNode node <;> simp [Dev.visitorIn, hs, hr]

end

section

variable {m start profile phy chan mode : Nat} {q : Int} {sub : Bool} {psdu : List Byte}

theorem Dev.transmitFrom_late (h : start ≤ d.tmb ∨ d.tmb + usTicks 10000000 < start) :
    d.transmitFrom m node start q profile phy sub chan mode psdu =
      (d.bump Fld.fedStat3_dataLate).fedForward m (.result node start Code.txLateLock) := by
  simp only [Dev.transmitFrom, if_pos h]

theorem Dev.transmitFrom_off (h : d.tmb < start) (h' : start ≤ d.tmb + usTicks 10000000) (hup : d.tempoUp = false) :
    d.transmitFrom m node start q profile phy sub chan mode psdu =
      d.fedForward m (.result node start Code.domainOff) := by
  rw [Dev.transmitFrom, if_neg (by omega), hup, Bool.not_false, if_pos rfl]

theorem Dev.transmitFrom_scheduled {short : Bool} (h : d.tmb < start) (h' : start ≤ d.tmb + usTicks 10000000)
    (hup : d.tempoUp = true) (hshort : short = (phy = 0 || fcsOk true psdu)) :
    d.transmitFrom m node start q profile phy sub chan mode psdu = d.addFrame {
      id := 0, origin := .transmit m, cls := 2, sub := sub, chan := chan, phy := phy, mode := mode, fcs16 := short
      whiten := true, mac := psdu.take (psdu.length - fcsLen short), raw := some psdu, wake := node, start := start
      profile := profile, power := q, stage := .scheduled } := by
  rw [Dev.transmitFrom, if_neg (by omega), hup, Bool.not_true, if_neg Bool.false_ne_true, hshort]

end

/-- Frame `f` waits for the RESULT of node `node` at `start`: `Dev.resultFrom_eq` ties it to the model. -/
def Dev.awaitsResult (d : Dev) (node start : Nat) (f : TxFrame) : Bool :=
  f.stage = .remote && f.start = start && f.node.any fun s => d.cx s Cx.nodeAddr = node

/-- A frame that waited gets a RESULT with a status: `Dev.resultFrom_eq` ties it to the model. -/
def Dev.resultOf (d : Dev) (start status : Nat) (f : TxFrame) : Dev :=
  let g := { f with firstChip := if status = Code.ok then start else f.firstChip }
  if g.sleepy && status != Code.ok then d.sleepyFail g status else d.txEnd g status false

theorem Dev.resultFrom_eq (d : Dev) (node start status : Nat) :
    d.resultFrom node start status =
      match d.tx.frames.find? (d.awaitsResult node start) with
      | some f => d.resultOf start status f
      | none => d := by
  have hp : (fun f : TxFrame => (f.stage = .remote && f.start = start &&
      (match f.node with | some s => d.cx s Cx.nodeAddr = node | none => false) : Bool)) = d.awaitsResult node start := by
    funext f
    unfold Dev.awaitsResult
    cases f.node <;> rfl
  exact congrArg (fun p => match d.tx.frames.find? p with
    | some f => d.resultOf start status f
    | none => d) hp

/-! Boot from a peer (R283). -/

section

variable {h : BmHdr} {offset : Nat} {image : List Byte}

theorem bootReq_notForMe (hme : d.bmForMe h = false) : bootReq h offset image d = d := by
  simp [bootReq, hme]

variable (hme : d.bmForMe h = true)

include hme

theorem bootReq_badHeader (hh : hdrOk h false 1440 = false) : bootReq h offset image d = d.bump Fld.fedStat0_reservedDrop := by
  simp [bootReq, hme, hh]

theorem bootReq_notServed (hh : hdrOk h false 1440 = true) (hs : d.is Fld.fedCfg_bootServe = false ∨ image = []) :
    bootReq h offset image d = d := by
  rcases hs with hs | hs <;> simp [bootReq, hme, hh, hs]

theorem bootReq_served (hh : hdrOk h false 1440 = true) (hs : d.is Fld.fedCfg_bootServe = true) (hi : image ≠ []) :
    bootReq h offset image d = d.fedSendOn ((d.upPorts.filter h.ports.testBit).take 1) h.mac h.version (some (bmFrom h))
      (.bootData offset (image.take 2048)) := by
  simp [bootReq, hme, hh, hs, hi]

end

end

/-- Settles O31: the clauses are the branches of each message, retry and timeout, one lemma above for each. -/
theorem migrationsAndDataFramesFollowTheirRules : Obligations.MigrationsAndDataFramesFollowTheirRules := by
  refine ⟨?start, ?offer, ?answer, ?retry, ?done, ?repeated, ?active, ?timeout, ?discard, ?visitor, ?redirect, ?transmit,
    ?result, ?boot⟩
  case start =>
    exact fun d node => Answers.intro (f := migrationStart node) (fun _ => rfl)
      ⟨fun _ _ => migrationStart_visited, migrationStart_leaves⟩
  case offer =>
    intro d h node offer ctx e known ha hk
    refine answers_message (fun _ => rfl) ha ⟨fun hy => ?_, fun c hn hb => ?_, fun hn hb => ?_, Dev.offerBar_eq_none_iff _ _⟩
    · rw [Dev.offerFrom_known hk hy]
    · rw [Dev.offerFrom_refused hk hn hb]
    · rw [Dev.offerFrom_taken hk hn hb]
  case answer =>
    intro d h offer status e ha
    refine answers_message (fun _ => rfl) ha ⟨fun ho => ?_, fun m ho hl => ?_, fun m ho hx h0 hok => ?_,
      fun m f ho hx h0 hno hf => ?_⟩
    · rw [Dev.answerFrom_unknown ho]
    · rw [Dev.answerFrom_late ho hl]
    · rw [Dev.answerFrom_ok ho hx h0 hok]
    · rw [Dev.answerFrom_refused ho hx h0 hno hf]
  case retry =>
    exact fun d offer m hon ho h0 => Answers.intro (f := offerRetry offer) (fun _ => rfl)
      ⟨offerRetry_again ho hon h0, offerRetry_last ho hon h0⟩
  case done =>
    intro d h node offer owner e ha
    refine answers_message (fun _ => rfl) ha ⟨fun hme hm => ?_, fun m hme hm h1 => ?_, fun m s x hme hm h1 hs hx => ?_,
      fun r hme hr hs => ?_, fun hme hl => ?_⟩
    · rw [Dev.doneFrom_unknown hme hm]
    · rw [Dev.doneFrom_served hme hm h1]
    · rw [Dev.doneFrom_pending hme hm h1 hs hx]
    · rw [Dev.doneFrom_remote hme hr hs]
    · rw [Dev.doneFrom_elsewhere hme hl]
  case repeated =>
    exact fun d offer m hon ho h1 => Answers.intro (f := doneRepeat offer) (fun _ => rfl) (doneRepeat_waiting ho hon h1)
  case active =>
    intro d h offer e ha
    refine answers_message (exec_migrateActive h) ha ⟨fun m ho hx h1 => ?_, fun m ho hl => ?_, fun ho => ?_⟩
    · rw [Dev.activeFrom_waiting ho hx h1]
    · rw [Dev.activeFrom_other ho hl]
    · rw [Dev.activeFrom_unknown ho]
  case timeout =>
    exact fun d offer m hon ho h1 => Answers.intro (f := activeTimeout offer) (fun _ => rfl)
      (activeTimeout_waiting ho hon h1)
  case discard =>
    exact fun d m offer hon => Answers.intro (f := pendingDiscard m offer) (fun _ => rfl) (if_neg (by simp [hon]))
  case visitor =>
    intro d h node octets e ha
    refine answers_message (fun _ => rfl) ha ⟨fun h0 => ?_, fun s h0 hs hi => ?_, fun s h0 hs hi => ?_,
      fun r h0 hs hr hm => ?_, fun r h0 hs hr hm => ?_, fun h0 hs hr => ?_⟩
    · rw [Dev.dataRun_absent _ h0]
    · rw [Dev.dataRun_member _ h0, Dev.visitorIn_idle hs hi]
    · rw [Dev.dataRun_member _ h0, Dev.visitorIn_busy hs hi]
    · rw [Dev.dataRun_member _ h0, Dev.visitorIn_moved hs hr hm]
    · rw [Dev.dataRun_member _ h0, Dev.visitorIn_own hs hr hm]
    · rw [Dev.dataRun_member _ h0, Dev.visitorIn_unknown hs hr]
  case redirect =>
    intro d h node octets e ha
    refine answers_message (fun _ => rfl) ha ⟨fun h0 => ?_, fun s h0 hs hi => ?_, fun s h0 hs hi => ?_, fun h0 hs => ?_⟩
    · rw [Dev.dataRun_absent _ h0]
    · rw [Dev.dataRun_member _ h0, Dev.visitorIn_idle hs hi]
    · rw [Dev.dataRun_member _ h0, Dev.visitorIn_busy hs hi]
    · rw [Dev.dataRun_member _ h0, Dev.visitorIn_redirected hs]
  case transmit =>
    intro d h node start q profile phy sub chan mode psdu e short ha hshort
    refine answers_message (fun _ => rfl) ha ⟨fun h0 => ?_, fun h0 hl => ?_, fun h0 hlo hhi hup => ?_,
      fun h0 hlo hhi hup => ?_⟩
    · rw [Dev.dataRun_absent _ h0]
    · rw [Dev.dataRun_member _ h0, Dev.transmitFrom_late hl]
    · rw [Dev.dataRun_member _ h0, Dev.transmitFrom_off hlo hhi hup]
    · rw [Dev.dataRun_member _ h0, Dev.transmitFrom_scheduled hlo hhi hup hshort]
  case result =>
    rintro d h node start status e _ ha rfl
    refine answers_message (fun _ => rfl) ha ⟨fun h0 => ?_, fun h0 hw => ?_, fun f g h0 hw hg => ?_⟩
    · rw [Dev.dataRun_absent _ h0]
    · rw [Dev.dataRun_member _ h0, Dev.resultFrom_eq, show e.tx.frames.find? (e.awaitsResult node start) = none from hw]
    · rw [Dev.dataRun_member _ h0, Dev.resultFrom_eq, show e.tx.frames.find? (e.awaitsResult node start) = some f from hw, hg]
      rfl
  case boot =>
    rintro d h _ eui offset image rfl
    exact Answers.intro (fun _ => rfl) ⟨bootReq_notForMe, bootReq_badHeader, bootReq_notServed, bootReq_served⟩

end Sys2Proof.Machine
end

section
/-! SUPPORT. A frame's way through its chain (R16, R90, R101, R103, R105, R109, R110, R165, R186, R448) and the failures and waits
of the radio (R17, R91, R97, R169, R170, R183, R218, R306, R307): what each command comes to in the states that it acts in; the
statements of 01_architecture.md on them settled with these facts. -/

namespace Sys2Proof.Machine

open Sys2Proof

section

variable {d e : Dev} {f : TxFrame} {id n mv : Nat}

/-! Commit (R16, R448). -/

theorem tp3Commit_scheduled (he : e = d.takeInput id) (hf : e.frame id = some f) (hs : f.stage = .scheduled) :
    tp3Commit id d = e.commitFrame f := by
  simp only [tp3Commit, ← he, hf, hs]

section

variable {g : Dev} {req st : Nat} {out : List Byte} (he : e = d.takeInput id) (hf : e.frame id = some f)
  (hs : f.stage = .cipher req) (hr : e.cphResult req = some (st, out)) (hg : g = e.cipherEnd f req st out)

include he hf hs hr hg

theorem tp3Commit_secured {h : TxFrame} (hh : g.frame id = some h) : tp3Commit id d = g.commitFrame h := by
  simp only [tp3Commit, ← he, hf, hs, hr, ← hg, hh]

theorem tp3Commit_ended (hh : g.frame id = none) : tp3Commit id d = g := by
  simp only [tp3Commit, ← he, hf, hs, hr, ← hg, hh]

end

/-- A frame that nothing holds back goes to the checks on the first free chain, where more chains are free than frames come
before it. -/
theorem Dev.commitFrame_free {rest : List Nat} (hheld : d.nodeHeld f = false) (hgate : d.gate.isOpen = true)
    (hremote : d.remoteFor f = none) (hok : d.tp3Ok = true) (hwait : d.commitWaits f.sub = false)
    (hack : f.isAck = true → d.ackInTime f = true) (hall : f.chains.all d.chainBlocked = false)
    (hany : (f.chains.any fun n => d.chainOn n && !d.chainBlocked n) = true) (hfree : f.chains.filter d.chainFree = n :: rest)
    (hlen : (d.rivals f).length < rest.length + 1) : d.commitFrame f = d.commitChecks f n := by
  have htime : (f.isAck && !d.ackInTime f) = false := by
    cases hisAck : f.isAck
    · rfl
    · simp [hack hisAck]
  have hmore : ¬ (n :: rest).length ≤ (d.rivals f).length := Nat.not_le.mpr hlen
  simp only [Dev.commitFrame, hheld, hgate, hremote, hok, hwait, htime, hall, hany, hfree, hmore, Option.isSome_none,
    Bool.and_false, Bool.false_and, Bool.not_true, Bool.false_eq_true, if_false]

/-- A frame that is not of the Blitz PHY, or whose PHY is up with a sync word, passes the Blitz rule (R155). -/
theorem blitz_served (h : f.phy = 1 → d.domUp 17 = true ∧ d.rd Fld.rxwBlitzSync_sync ≠ 0) :
    ¬ (f.phy = 1 ∧ (¬ d.domUp 17 ∨ d.rd Fld.rxwBlitzSync_sync = 0)) := by
  rintro ⟨h1, hno⟩
  simp [h h1] at hno

section

variable {a : Nat} (hbeacon : f.badBeacon = false)
  (hblitz : f.phy = 1 → d.domUp 17 = true ∧ d.rd Fld.rxwBlitzSync_sync ≠ 0)
  (ha : a = dutyCharge (ticksUs (d.frameTicks f (d.sunPreamble n))))

include hbeacon hblitz ha

theorem Dev.commitChecks_passed (hc : d.commitCheck f n a = none) : d.commitChecks f n = d.commitTo f n a := by
  simp only [Dev.commitChecks, hbeacon, if_neg (blitz_served hblitz), ← ha, hc, Bool.false_eq_true, if_false]

theorem Dev.commitChecks_failed {c : Nat} {counter : Field} (hc : d.commitCheck f n a = some (c, counter)) :
    d.commitChecks f n = (d.bump counter).txRefuse f c true := by
  simp only [Dev.commitChecks, hbeacon, if_neg (blitz_served hblitz), ← ha, hc, Bool.false_eq_true, if_false]

end

/-! Hop and lock (R90, R101, R103, R105). -/

section

variable (hf : d.txOn n = some f)

include hf

section

variable (hl : f.listen = none) (ha : d.txActive n = false) (h4 : d.chainState (6 + n) ≠ 4)
  (hlock : (d.lo (n + 2)).lock ≠ some f.chan)

include hl ha h4 hlock

theorem txHopStart_hop (hc : (d.lo (n + 2)).cal = none) (he : e = (d.setFrame (d.powerSample f n mv)).blankOn n f) :
    txHopStart n mv d = if e.hopUsable (n + 2) f.chan then
      ((e.loUnlock (n + 2)).setChainState (6 + n) 4).entryTouch (n + 2) f.chan
    else e.calBegin (n + 2) ⟨f.chan, .hop⟩ := by
  simp [txHopStart, hf, hl, ha, h4, hlock, hc, ← he]

theorem txHopStart_calibrating {c : LoCal} (hc : (d.lo (n + 2)).cal = some c) :
    txHopStart n mv d = if c.chan = f.chan then (d.setFrame (d.powerSample f n mv)).blankOn n f else d := by
  simp [txHopStart, hf, hl, ha, h4, hlock, hc]

end

theorem txLock_hop (h4 : d.chainState (6 + n) = 4) : txLock n d = d.loLock (n + 2) f.chan := by
  simp only [txLock, hf, if_pos h4]

theorem hopLockFailure_hop (h4 : d.chainState (6 + n) = 4) (hlock : (d.lo (n + 2)).lock = none) :
    hopLockFailure n d = (d.lockFailure (n + 2) f.chan).1.calBegin (n + 2) ⟨f.chan, .hop⟩ := by
  simp [hopLockFailure, hf, h4, hlock]

/-! LEAD and air (R101, R109, R110, R165). -/

theorem txLeadStart_ready {gnt : Bool} {g : TxFrame} (ha : d.txActive n = false) (hr : d.txReady f n = true)
    (hg : g = if f.g.isNone then d.powerSample f n mv else f)
    (he : e = (((d.setFrame g).blankOn n g).coexLevel 2 gnt).coexUpdate) :
    txLeadStart n gnt mv d = if e.coexMay g n gnt then e.enterLead g n else e.coexDeny g := by
  simp only [txLeadStart, hf, ha, hr, ← hg, ← he, Bool.not_true, Bool.or_self, Bool.false_eq_true, if_false]

theorem txFirstChip_lead (h5 : d.chainState (6 + n) = 5)
    (he : e = d.setFrame { f with onAir := true, firstChip := f.plan, attempts := f.attempts + 1 }) {g : Dev}
    (hg : g = ((e.setChainState (6 + n) 6).emit (e.output f n)).raise (0x24 + n)) :
    txFirstChip n d = if f.isAck then g.raise 0x40 else g := by
  simp only [txFirstChip, hf, h5, ← he, ← hg, ne_eq, not_true_eq_false, if_false]

theorem txRampDownEnd_ramped {used us : Nat} {err : Int} {d1 d2 d3 : Dev} (h7 : d.chainState (6 + n) = 7)
    (hus : us = if f.cut.isSome then used else ticksUs (d.frameTicks f (d.txChain n).preamble))
    (h1 : d1 = (d.setChainState (6 + n) 2).setTxChain n
      { (d.setChainState (6 + n) 2).txChain n with latch := none, near := false })
    (h2 : d2 = match f.duty with
      | some (e, a) => if f.onAir then d1.dutyChargeFrame e f.sub f.chan a us else d1.dutyRelease e f.sub f.chan a
      | none => d1)
    (h3 : d3 = if f.onAir ∧ 260 ≤ us then d2.trimStep n err else d2)
    (he : e = match f.cut with
      | some st => d3.txCut f st
      | none => d3.txSent f (f.firstChip + d.frameTicks f (d.txChain n).preamble)) :
    txRampDownEnd n used err d =
      (((((e.coexDrop f.id).raise (0x28 + n)).shapeFlush n).calRestart n).coexUpdate).settle := by
  subst hus h1 h2 h3 he
  simp only [txRampDownEnd, hf]
  exact if_neg (fun h => h h7)

end

theorem txLastChip_onAir (h6 : d.chainState (6 + n) = 6) : txLastChip n d = d.setChainState (6 + n) 7 := if_pos h6

/-! The lock deadline (R103, R105, R448). -/

section

variable (hf : d.frame id = some f)

include hf

theorem txLockDeadline_committed (hs : f.stage = .committed n) (ha : d.txActive n = false) (hr : d.txReady f n = false) :
    txLockDeadline id d = d.txLate f := by
  simp only [txLockDeadline, hf, hs, ha, hr, Bool.or_self, Bool.false_eq_true, if_false]

theorem txLockDeadline_scheduled (hs : f.stage = .scheduled) (h0 : f.start ≠ 0) :
    txLockDeadline id d = if f.isAck && f.dom.isSome then d.ackNoChain f else d.txLate f := by
  simp only [txLockDeadline, hf, hs, if_neg h0]

/-! Acknowledgement waits and retries (R218, R306, R307). -/

section

variable {till : Nat} (hs : f.stage = .ackWait till)

include hs

theorem ackWaitEnd_sleepy (hsl : f.sleepy = true) : ackWaitEnd id d = d.sleepyFail f Code.noAck := by
  simp only [ackWaitEnd, hf, hs, hsl, if_true]

variable (he : e = d.cellFail f) (hsl : f.sleepy = false)

include he hsl

theorem ackWaitEnd_last (ht : f.retries ≤ f.tries) : ackWaitEnd id d = e.txEnd f Code.noAck false := by
  simp only [ackWaitEnd, hf, hs, hsl, ← he, if_pos ht, Bool.false_eq_true, if_false]

theorem ackWaitEnd_again (ht : f.tries < f.retries) (hc : f.cellWait = none) :
    ackWaitEnd id d = e.setFrame { f with
      tries := f.tries + 1, start := 0, stage := .retryWait (e.tmb + usTicks f.gap), earliest := e.tmb + usTicks f.gap } := by
  simp only [ackWaitEnd, hf, hs, hsl, ← he, if_neg (Nat.not_le.mpr ht), hc, Option.isSome_none, Bool.false_eq_true, if_false]

theorem ackWaitEnd_slotted (ht : f.tries < f.retries) (hc : f.cellWait ≠ none) :
    ackWaitEnd id d = e.setFrame { f with
      tries := f.tries + 1, start := 0, stage := .slotted, cellWait := none, cellShared := false, ackFrom := 0 } := by
  simp only [ackWaitEnd, hf, hs, hsl, ← he, if_neg (Nat.not_le.mpr ht), Option.isSome_iff_ne_none.mpr hc,
    Bool.false_eq_true, if_false, if_true]

end

theorem retryAttempt_waiting {till : Nat} (hs : f.stage = .retryWait till) :
    retryAttempt id d =
      (d.setFrame { f with stage := .scheduled }).commitFrame { f with stage := .scheduled } := by
  simp only [retryAttempt, hf, hs]

end

/-! The mask monitor (R169, R170). -/

section

variable {lower upper : MaskPowers} (hn : n < 4) (hst : d.chainState (6 + n) = 6 ∨ d.chainState (6 + n) = 7)
  (hf : d.txOn n = some f)

include hn hst hf

theorem maskWindowEnd_below (hv : maskVerdict f.phy (d.rd Fld.txpMaskCtrl_tighten n) lower upper = none) :
    maskWindowEnd n lower upper d = d.setTxChain n { d.txChain n with near := false } := by
  simp only [maskWindowEnd, hf, hv, if_neg (show ¬ (4 ≤ n ∨ d.chainState (6 + n) ≠ 6 ∧ d.chainState (6 + n) ≠ 7) by omega)]

theorem maskWindowEnd_above {seg excess : Nat} (he : e = d.bump Fld.txpMaskStatus_near n)
    (hv : maskVerdict f.phy (d.rd Fld.txpMaskCtrl_tighten n) lower upper = some (seg, excess)) :
    maskWindowEnd n lower upper d =
      if (d.txChain n).near then e.maskViolation n seg excess else e.setTxChain n { d.txChain n with near := true } := by
  simp only [maskWindowEnd, hf, hv, ← he,
    if_neg (show ¬ (4 ≤ n ∨ d.chainState (6 + n) ≠ 6 ∧ d.chainState (6 + n) ≠ 7) by omega)]

end

/-! Listens (R183). -/

section

variable {p : Int} (hf : d.txOn n = some f) (hl : f.listen.isSome = true)

include hf hl

theorem lbtListenEnd_quiet (hp : p < -12800 + 50 * (d.regField (10 + b2n f.sub) 7 0 : Int)) :
    lbtListenEnd n p d = (d.setFrame { f with listen := none }).settle := by
  simp [lbtListenEnd, hf, Option.isSome_iff_ne_none.mp hl, hp]

variable (hp : -12800 + 50 * (d.regField (10 + b2n f.sub) 7 0 : Int) ≤ p)

include hp

theorem lbtListenEnd_ack (ha : f.isAck = true) :
    lbtListenEnd n p d = (d.bump Fld.regStat1_ackLbt).txRefuse f Code.lbtBusy false := by
  simp [lbtListenEnd, hf, Option.isSome_iff_ne_none.mp hl, Int.not_lt.mpr hp, ha]

theorem lbtListenEnd_last (ha : f.isAck = false) (h0 : f.listens = 0) :
    lbtListenEnd n p d = (d.bump Fld.regStat1_lbtRefused).txRefuse f Code.lbtBusy false := by
  simp [lbtListenEnd, hf, Option.isSome_iff_ne_none.mp hl, Int.not_lt.mpr hp, ha, h0]

theorem lbtListenEnd_again (ha : f.isAck = false) (h0 : f.listens ≠ 0) :
    lbtListenEnd n p d = (d.drawListen f.sub).2.setFrame { f with
      listen := some (d.drawListen f.sub).1, listens := f.listens - 1, plan := f.plan + usTicks (d.drawListen f.sub).1 } := by
  simp [lbtListenEnd, hf, Option.isSome_iff_ne_none.mp hl, Int.not_lt.mpr hp, ha, h0]

end

/-! Blanking (R17). -/

/-- The channel that chain `n` still blanks for its next frame: `detectorBlankingEnd_eq` ties it to the model. -/
def Dev.blankKept (d : Dev) (n : Nat) : Option Nat :=
  (d.txOn n).bind fun f =>
    if d.chainState (6 + n) = 4 ∨ d.chainState (6 + n) = 5 ∨ d.chainState (6 + n) = 6 ∨ (d.chainState (6 + n) = 3 ∧ f.g.isSome)
    then some (chanKey f.sub f.chan) else none

theorem detectorBlankingEnd_eq {keep : Option Nat} {ends : List (Nat × Nat)} (hk : keep = d.blankKept n)
    (he : ends = d.rxw.txBlank.filter fun b => b.1 = n && some b.2 != keep) :
    detectorBlankingEnd n d = { d with rxw := { d.rxw with
      txBlank := d.rxw.txBlank.filter (fun b => b.1 != n || some b.2 = keep)
      busyAt := ends.foldl (fun l b => alSet b.2 d.tmb l) d.rxw.busyAt } } := by
  subst he hk
  unfold Dev.blankKept
  cases hf : d.txOn n <;> simp only [detectorBlankingEnd, hf, Option.bind_none, Option.bind_some]

end

/-! Lock losses and calibrations that fail (R91, R97, R103). -/

section

variable {d : Dev} {lo : Nat}

theorem loLockLoss_tx (hlock : (d.lo lo).lock ≠ none) (hlo : 2 ≤ lo) :
    loLockLoss lo d = if (d.loUnlock lo).chainState (4 + lo) = 5 ∨ (d.loUnlock lo).chainState (4 + lo) = 6 then
      (d.loUnlock lo).txStop (lo - 2) Code.synthFail else d.loUnlock lo := by
  simp [loLockLoss, hlock, Nat.not_lt.mpr hlo, show 6 + (lo - 2) = 4 + lo by omega]

theorem loLockLoss_band (hlock : (d.lo lo).lock ≠ none) (hlo : lo < 2) :
    loLockLoss lo d = (bandChains (lo = 1)).foldl (fun e m => if e.receiving m then e.setChainState m 2 else e)
      (if (bandChains (lo = 1)).any (d.loUnlock lo).receiving then (d.loUnlock lo).abandonBand (lo = 1) false
        else d.loUnlock lo) := by
  simp [loLockLoss, hlock, hlo]

/-- A calibration command that runs notes that calibration `c` failed: `fullCalibrationFail_failed` ties it to the model. -/
def Dev.noteLockFail (d : Dev) (c : LoCal) : Dev :=
  match d.rfs.cmd with
  | some k => if c.kind = CalKind.command then { d with rfs := { d.rfs with cmd := some { k with result := 1 } } } else d
  | none => d

/-- The frame that hopped with the calibration `c` of an LO ends with SYNTH_FAIL: `fullCalibrationFail_failed` ties it to the
model. -/
def Dev.hopFailed (d : Dev) (lo : Nat) (c : LoCal) : Dev :=
  if 2 ≤ lo then
    match d.txOn (lo - 2) with
    | some f =>
      if c.chan = f.chan && !d.txActive (lo - 2) then
        (if f.isAck then d.bump Fld.lnkStat3_ackLate else d).txRefuse f Code.synthFail false
      else d
    | none => d
  else d

section

variable {c : LoCal} {x : Dev × Bool} (hc : (d.lo lo).cal = some c) (hx : x = d.lockFailure lo c.chan)

include hc hx

theorem fullCalibrationFail_retried (h : x.2 = false) : fullCalibrationFail lo d = x.1 := by
  simp only [fullCalibrationFail, hc, ← hx, h, Bool.not_false, if_true]

theorem fullCalibrationFail_failed (h : x.2 = true) :
    fullCalibrationFail lo d =
      (((x.1.setLo lo { x.1.lo lo with cal := none }).noteLockFail c).calLeft lo).hopFailed lo c := by
  simp only [fullCalibrationFail, hc, ← hx]
  exact if_neg (by simp [h])

end

theorem Dev.hopFailed_band (c : LoCal) (hlo : lo < 2) : d.hopFailed lo c = d := if_neg (Nat.not_le.mpr hlo)

theorem Dev.hopFailed_noFrame (c : LoCal) (hf : d.txOn (lo - 2) = none) : d.hopFailed lo c = d := by
  simp [Dev.hopFailed, hf]

theorem Dev.hopFailed_frame {c : LoCal} {f : TxFrame} (hlo : 2 ≤ lo) (hf : d.txOn (lo - 2) = some f) (hc : c.chan = f.chan)
    (ha : d.txActive (lo - 2) = false) :
    d.hopFailed lo c = (if f.isAck then d.bump Fld.lnkStat3_ackLate else d).txRefuse f Code.synthFail false := by
  simp [Dev.hopFailed, hlo, hf, hc, ha]

end

/-- Settles O12: the clauses follow a frame from its commit to RAMP_DOWN, one lemma above for each. -/
theorem framesGoThroughTheChain : Obligations.FramesGoThroughTheChain := by
  refine ⟨?scheduled, ?secured, ?committed, ?hop, ?calibrating, ?lock, ?noLock, ?deadline, ?lead, ?firstChip, ?lastChip,
    ?rampDown⟩
  case scheduled =>
    exact fun d id e f he hf hs => Answers.intro (f := tp3Commit id) (fun _ => rfl) (tp3Commit_scheduled he hf hs)
  case secured =>
    exact fun d id req st out e g f he hf hs hr hg => Answers.intro (f := tp3Commit id) (fun _ => rfl)
      ⟨fun _ => tp3Commit_secured he hf hs hr hg, tp3Commit_ended he hf hs hr hg⟩
  case committed =>
    intro d id n a e f rest he hf hs hheld hgate hremote hok hwait hack hall hany hfree hlen hbeacon hblitz ha
    refine Answers.intro (f := tp3Commit id) (fun _ => rfl) ?_
    rw [tp3Commit_scheduled he hf hs,
      Dev.commitFrame_free hheld hgate hremote hok hwait hack hall hany hfree hlen]
    exact ⟨Dev.commitChecks_passed hbeacon hblitz ha, fun _ _ => Dev.commitChecks_failed hbeacon hblitz ha⟩
  case hop =>
    exact fun d n mv f e hf hl ha h4 hlock hc he => Answers.intro (f := txHopStart n mv) (fun _ => rfl)
      (txHopStart_hop hf hl ha h4 hlock hc he)
  case calibrating =>
    intro d n mv f c hf hl ha h4 hlock hc
    refine Answers.intro (f := txHopStart n mv) (fun _ => rfl) ?_
    rw [txHopStart_calibrating hf hl ha h4 hlock hc]
    exact ⟨fun h => if_pos h, fun h => if_neg h⟩
  case lock =>
    exact fun d n f hf h4 => Answers.intro (f := txLock n) (fun _ => rfl) (txLock_hop hf h4)
  case noLock =>
    exact fun d n f hf h4 hlock => Answers.intro (f := hopLockFailure n) (fun _ => rfl) (hopLockFailure_hop hf h4 hlock)
  case deadline =>
    intro d id f hf
    refine Answers.intro (f := txLockDeadline id) (fun _ => rfl)
      ⟨fun n => txLockDeadline_committed hf, fun hs h0 h => ?_, fun hs h0 ha hd => ?_⟩ <;>
      rw [txLockDeadline_scheduled hf hs h0]
    · rcases h with h | h <;> simp [h]
    · simp [ha, Option.isSome_iff_ne_none.mpr hd]
  case lead =>
    intro d n gnt mv f g e hf ha hr hg he
    refine Answers.intro (f := txLeadStart n gnt mv) (fun _ => rfl) ?_
    rw [txLeadStart_ready hf ha hr hg he]
    exact ⟨fun h => if_pos h, fun h => if_neg (by simp [h])⟩
  case firstChip =>
    exact fun d n f e g hf h5 he hg => Answers.intro (f := txFirstChip n) (fun _ => rfl) (txFirstChip_lead hf h5 he hg)
  case lastChip =>
    exact fun d n h6 => Answers.intro (f := txLastChip n) (fun _ => rfl) (txLastChip_onAir h6)
  case rampDown =>
    exact fun d n used us err f d1 d2 d3 hf h7 hus h1 h2 h3 => Answers.intro (f := txRampDownEnd n used err) (fun _ => rfl)
      ⟨_, rfl, txRampDownEnd_ramped hf h7 hus h1 h2 h3 rfl⟩

/-- Settles O13: the clauses are the ends of calibrations, blankings, mask windows, listens and waits, one lemma above for
each. -/
theorem radioFailuresAndWaitsEnd : Obligations.RadioFailuresAndWaitsEnd := by
  refine ⟨?calibration, ?lockLoss, ?blanking, ?mask, ?listen, ?ackWait, ?retry⟩
  case calibration =>
    rintro d lo c x _ k hc hx rfl hk
    replace hk : k = (x.1.setLo lo { x.1.lo lo with cal := none }).noteLockFail c := hk
    refine Answers.intro (f := fullCalibrationFail lo) (fun _ => rfl)
      ⟨fullCalibrationFail_retried hc hx, fun h hlo => ?_, fun h hlo hf => ?_, fun h hlo f hf hchan ha => ?_⟩ <;>
      rw [fullCalibrationFail_failed hc hx h, ← hk]
    · rw [Dev.hopFailed_band c hlo]
    · rw [Dev.hopFailed_noFrame c hf]
    · rw [Dev.hopFailed_frame hlo hf hchan ha]
  case lockLoss =>
    intro d lo hlock
    refine Answers.intro (f := loLockLoss lo) (fun _ => rfl)
      ⟨fun hlo h => ?_, fun hlo h5 h6 => ?_, fun hlo h => ?_, fun hlo h => ?_⟩
    · rw [loLockLoss_tx hlock hlo, if_pos h]
    · rw [loLockLoss_tx hlock hlo, if_neg (not_or.mpr ⟨h5, h6⟩)]
    · rw [loLockLoss_band hlock hlo, if_neg (by simp [h])]
    · rw [loLockLoss_band hlock hlo, if_pos h]
  case blanking =>
    intro d n keep ends hk he
    refine Answers.intro (f := detectorBlankingEnd n) (fun _ => rfl) (detectorBlankingEnd_eq ?_ he)
    rcases hk with ⟨f, hf, hk⟩ | ⟨hf, hk⟩ <;> simp [Dev.blankKept, hf, hk]
  case mask =>
    intro d n lower upper f e hn hst hf he
    refine Answers.intro (f := maskWindowEnd n lower upper) (fun _ => rfl)
      ⟨maskWindowEnd_below hn hst hf, fun seg excess hv h => ?_, fun seg excess hv h => ?_⟩ <;>
      rw [maskWindowEnd_above hn hst hf he hv, h]
    · rfl
    · rfl
  case listen =>
    exact fun d n p f hf hl => Answers.intro (f := lbtListenEnd n p) (fun _ => rfl)
      ⟨lbtListenEnd_quiet hf hl, lbtListenEnd_ack hf hl, lbtListenEnd_last hf hl, lbtListenEnd_again hf hl⟩
  case ackWait =>
    exact fun d id f till e hf hs he => Answers.intro (f := ackWaitEnd id) (fun _ => rfl)
      ⟨ackWaitEnd_sleepy hf hs, ackWaitEnd_last hf hs he, ackWaitEnd_again hf hs he, ackWaitEnd_slotted hf hs he⟩
  case retry =>
    exact fun d id f till hf hs => Answers.intro (f := retryAttempt id) (fun _ => rfl) (retryAttempt_waiting hf hs)

end Sys2Proof.Machine
end

section
/-! SUPPORT. The supply and reset pins (R31, R32, R35, R42, R44–R46, R427, R428) and the registers of votes and pads (R33, R58–R61,
R69): what each event or write comes to; the statements of 02_package_pins.md settled with these facts. -/

namespace Sys2Proof.Machine

open Sys2Proof

/-! Registers that the resets set. -/

/-- Bit 5 of a word, set by its number as R46 has it, is the bit of 0x20. -/
theorem ofNat_setBitN_pcie (w : Word) : BitVec.ofNat 32 (setBitN w.toNat 5) = w ||| 0x20#32 := by
  apply BitVec.eq_of_toNat_eq
  have hlt : w.toNat ||| 0x20 < 2 ^ 32 := Nat.or_lt_two_pow w.isLt (by decide)
  rw [BitVec.toNat_ofNat, BitVec.toNat_or]
  exact Nat.mod_eq_of_lt hlt

/-- A register is read from the register store alone. -/
theorem Dev.reg_of_regs_eq {d e : Dev} {a : Nat} (h : d.regs = e.regs) : d.reg a = e.reg a := by
  rw [Dev.reg, Dev.reg, h]

theorem Dev.reg_resetCause (d : Dev) (cause a : Nat) (h : regsWf d.regs = true) :
    (d.resetCause cause).reg a =
      if a = Reg.sysResetCause then BitVec.ofNat 32 (setBitN (d.reg a).toNat cause) else d.reg a := by
  rw [Dev.resetCause, Dev.reg_setReg _ _ _ _ h]
  split
  · next ha => rw [ha]
  · rfl

/-- A write of SYS_SUPPLY_STATUS.GOOD touches that register alone and leaves its seven bits (R43). -/
theorem Dev.wr_supplyGood (d : Dev) (v : Nat) (h : regsWf d.regs = true) :
    OnlyRegs d (d.wr Fld.sysSupplyStatus_good v) [Reg.sysSupplyStatus] ∧
      (d.wr Fld.sysSupplyStatus_good v).rd Fld.sysSupplyStatus_good = v % 2 ^ 7 :=
  ⟨OnlyRegs.wr _ _ _ _ _ h (by decide), Dev.rd_wr _ _ _ _ h (by decide)⟩

/-! The power-on reset (R44–R46). -/

/-- What a power-on reset leaves outside the registers: the record of outputs, the count of free values, the levels of the
supply and the pins, and the OTP. -/
theorem Dev.powerOnReset_eq (d : Dev) :
    d.powerOnReset = { Dev.reset with
      out := d.out
      freeCount := d.freeCount
      pins := { aonGood := d.pins.aonGood, porstLow := true, sysrstLow := d.pins.sysrstLow, gpioIn := d.pins.gpioIn }
      otpRegion := d.otpRegion
      fuses := d.fuses
      regs := d.powerOnReset.regs } := by
  unfold Dev.powerOnReset
  split <;> rfl

theorem Dev.powerOnReset_regs (d : Dev) :
    d.powerOnReset.regs =
      (if d.pins.sysrstLow then (Dev.reset.setReg Reg.sysSupplyStatus (d.reg Reg.sysSupplyStatus)).resetCause 1
        else Dev.reset.setReg Reg.sysSupplyStatus (d.reg Reg.sysSupplyStatus)).regs := by
  unfold Dev.powerOnReset
  split <;> rfl

/-- A register of the reset device that keeps SYS_SUPPLY_STATUS as it was. -/
theorem Dev.reg_reset_supplyKept (d : Dev) (a : Nat) :
    (Dev.reset.setReg Reg.sysSupplyStatus (d.reg Reg.sysSupplyStatus)).reg a =
      if a = Reg.sysSupplyStatus then d.reg Reg.sysSupplyStatus else regReset a :=
  Dev.reg_setReg Dev.reset Reg.sysSupplyStatus a _ rfl

/-- SYS_RESET_CAUSE after a power-on reset shows POR, with SYSRST_PIN where SYSRST_N is low; SYS_SUPPLY_STATUS is kept and
every other register is reset (R44, R45; the pin beside POR is the choice of log 158). -/
theorem Dev.reg_powerOnReset (d : Dev) (a : Nat) :
    d.powerOnReset.reg a =
      if a = Reg.sysResetCause then (if d.pins.sysrstLow then 3#32 else 1#32)
      else if a = Reg.sysSupplyStatus then d.reg Reg.sysSupplyStatus else regReset a := by
  have hpor : regReset Reg.sysResetCause = 1#32 := by decide +kernel
  have hne : Reg.sysResetCause ≠ Reg.sysSupplyStatus := by decide
  have hwf : regsWf (Dev.reset.setReg Reg.sysSupplyStatus (d.reg Reg.sysSupplyStatus)).regs = true :=
    Dev.setReg_regsWf _ _ _ rfl
  rw [Dev.reg_of_regs_eq (Dev.powerOnReset_regs d)]
  cases d.pins.sysrstLow
  case true =>
    rw [if_pos rfl, Dev.reg_resetCause _ _ _ hwf, Dev.reg_reset_supplyKept]
    by_cases ha : a = Reg.sysResetCause
    · rw [if_pos ha, if_pos ha, ha, if_neg hne, hpor]
      rfl
    · rw [if_neg ha, if_neg ha]
  case false =>
    rw [if_neg Bool.false_ne_true, Dev.reg_reset_supplyKept]
    by_cases ha : a = Reg.sysResetCause
    · rw [if_pos ha, ha, if_neg hne, hpor]
      rfl
    · rw [if_neg ha]

/-! The events on supplies, pins and the link. -/

section

variable {d : Dev}

/-- The rising edge of PORST_N with VDD_AON good captures the straps; the boot starts unless SYSRST_N is low (R35, R45). -/
theorem porstNRise_captures {straps : Nat} (hp : d.pins.porstLow = true) (ha : d.pins.aonGood = true) :
    ∃ e : Dev, e = ({ d with pins := { d.pins with porstLow := false, strapBuffers := false } } : Dev).setReg Reg.sysStrap
        (BitVec.ofNat 32 (straps % 64)) ∧
      porstNRise straps d = if d.pins.sysrstLow then e else e.bootStart := by
  refine ⟨_, rfl, ?_⟩
  rw [porstNRise, if_pos (by rw [hp, ha]; rfl)]
  rfl

theorem sysrstNAssert_porstHigh (hp : d.pins.porstLow = false) :
    sysrstNAssert d = ({ d with pins := { d.pins with sysrstLow := true } } : Dev).cutBits.systemReset 1 :=
  if_neg (by simp [hp])

theorem sysrstNAssert_porstLow (hp : d.pins.porstLow = true) :
    sysrstNAssert d = ({ d with pins := { d.pins with sysrstLow := true } } : Dev).resetCause 1 :=
  if_pos hp

theorem sysrstNRelease_boots (hp : d.pins.porstLow = false) (hs : d.pins.sysrstLow = true) :
    sysrstNRelease d = ({ d with pins := { d.pins with sysrstLow := false } } : Dev).bootStart := by
  rw [sysrstNRelease, if_neg (by simp [hs])]
  exact if_neg (by simp [hp])

theorem Dev.pcieReset_eq {e f : Dev} (he : e = d.setReg Reg.sysResetCause (d.reg Reg.sysResetCause ||| 0x20#32))
    (hf : f = ({ e with msix := {}, pins := { e.pins with pcieLinkUp := false } } : Dev).hciReset) :
    d.pcieReset = if f.firmwareRuns then f.emit .linkDown else f := by
  rw [← ofNat_setBitN_pcie] at he
  subst he hf
  rfl

/-- A rail below its good level clears its GOOD bit; VDD_AON's is a power-on reset, any other a system reset with cause bit 4
(R44, R46, R427). -/
theorem railBrownOut_resets {r : Nat} {e : Dev} (hr : r < 7) (hp : d.pins.porstLow = false)
    (he : e = d.wr Fld.sysSupplyStatus_good (clrBitN (d.rd Fld.sysSupplyStatus_good) r)) :
    railBrownOut r d =
      if r = 0 then ({ e with pins := { e.pins with aonGood := false } } : Dev).cutBits.powerOnReset
      else e.cutBits.systemReset 4 := by
  have hporst : ¬ e.pins.porstLow = true := by simp [he, hp]
  rw [railBrownOut, if_neg (Nat.not_le.mpr hr), ← he]
  by_cases h0 : r = 0
  · exact (if_pos h0).trans (if_pos h0).symm
  · exact (if_neg h0).trans ((if_neg hporst).trans (if_neg h0).symm)

end

/-- Settles O1: each clause is what one event on a supply, a pin or the link comes to, as the lemmas above give it. -/
theorem resetPinsAct : Obligations.ResetPinsAct := by
  refine ⟨?supply, ?powerOn, ?strapEdge, ?assert, ?assertInPor, ?release, ?link, ?brownOut⟩
  case supply =>
    intro d hinv
    have hwf := Dev.inv_regs hinv
    exact Answers.intro (f := vddAonGood) (fun _ => rfl)
      (Dev.wr_supplyGood { d with pins := { d.pins with aonGood := true } } _ hwf)
  case powerOn =>
    refine fun d => Answers.intro (f := Dev.coldReset) (fun _ => rfl) ?_
    rw [Dev.coldReset]
    refine ⟨fun a hs hc => ?_, ?_, ?_, ?_⟩
    · rw [Dev.reg_powerOnReset, if_neg hc, if_neg hs]
    · rw [Dev.reg_powerOnReset, if_neg (by decide), if_pos rfl]
    · rw [Dev.reg_powerOnReset, if_pos rfl]
    · rw [Dev.powerOnReset_eq]
      exact ⟨rfl, rfl, rfl, rfl, rfl, rfl, rfl⟩
  case strapEdge =>
    intro d straps hinv hp ha
    have hwf := Dev.inv_regs hinv
    obtain ⟨e, he, ht⟩ := porstNRise_captures (straps := straps) hp ha
    refine Answers.intro (f := porstNRise straps) (fun _ => rfl) ⟨e, ht, ?_, ?_⟩ <;> rw [he]
    · exact (Dev.reg_setReg _ _ _ _ hwf).trans (if_pos rfl)
    · exact OnlyRegs.setReg _ _ _ _ hwf (List.mem_singleton.mpr rfl)
  case assert =>
    exact fun d hp => Answers.intro (f := sysrstNAssert) (fun _ => rfl) (sysrstNAssert_porstHigh hp)
  case assertInPor =>
    exact fun d hp => Answers.intro (f := sysrstNAssert) (fun _ => rfl) (sysrstNAssert_porstLow hp)
  case release =>
    exact fun d hp hs => Answers.intro (f := sysrstNRelease) (fun _ => rfl) (sysrstNRelease_boots hp hs)
  case link =>
    exact fun d e f he hf => Answers.intro (f := Dev.pcieReset) (fun _ => rfl) (Dev.pcieReset_eq he hf)
  case brownOut =>
    exact fun d r hinv hr hp => Answers.intro (f := railBrownOut r) (fun _ => rfl)
      ⟨_, railBrownOut_resets hr hp rfl, Dev.wr_supplyGood d _ (Dev.inv_regs hinv)⟩

/-! Writes of votes (R58–R61). -/

/-- The bits `off` of what the block of client Vn asks for are withdrawn (R61). -/
def Dev.withdrawVotes (d : Dev) (n off : Nat) : Dev :=
  { d with pwr := { d.pwr with muted := if off = 0 then alDel n d.pwr.muted else alSet n off d.pwr.muted } }

/-- What holds V14's chain and fallback votes ends where the word `w` clears them (R61). -/
def Dev.endHeldVotes (d : Dev) (w : Word) : Dev :=
  { d with pwr := { d.pwr with
      watchVote := match d.pwr.watchVote with | some c => if w.toNat.testBit c then some c else none | none => none
      fallback := d.pwr.fallback && w.toNat.testBit 29 } }

section

variable {d : Dev} {who : Initiator} {n v : Nat} {w : Word}

theorem pwrVoteSet_client (hv : voteClient who = some v) :
    pwrVoteSet who w d = ((d.catchUp.rsvd who Reg.pwrVoteSet w).setVotes v (d.votesOf v ||| w.toNat)).settleAll := by
  rw [pwrVoteSet, hv]

theorem pwrVoteClr_client (hv : voteClient who = some v) :
    pwrVoteClr who w d =
      ((d.catchUp.rsvd who Reg.pwrVoteClr w).setVotes v (d.votesOf v &&& (0xFFFFFFFF ^^^ w.toNat))).settleAll := by
  rw [pwrVoteClr, hv]

theorem pwrVoteVnWrite_noClient (hlo : 20 ≤ n) (hhi : n < 32) (hs : d.secure who = true) :
    pwrVoteVnWrite who n w d = d.rsvd who (Reg.pwrVoteV + 4 * n) w := by
  rw [pwrVoteVnWrite, if_neg (Nat.not_le.mpr hhi), if_neg (by simp [hs]), if_pos hlo]

/-- A secure core's write of PWR_VOTE_Vn replaces the stored votes and withdraws those that the block asks for and the word
clears; on V14 it also ends what holds the cleared votes. -/
theorem pwrVoteVnWrite_client {e f : Dev} {asked off : Nat} (hn : n < 20) (hs : d.secure who = true)
    (he : e = d.catchUp.rsvd who (Reg.pwrVoteV + 4 * n) w) (hasked : asked = if 9 ≤ n then e.derivedVotes n else 0)
    (hoff : off = asked &&& (0xFFFFFFFF ^^^ w.toNat))
    (hf : f = e.setVotes n (if n = 14 then w.toNat else w.toNat &&& (0xFFFFFFFF ^^^ asked))) :
    pwrVoteVnWrite who n w d =
      (if n = 14 then (f.withdrawVotes n off).endHeldVotes w else f.withdrawVotes n off).settleAll := by
  have hrange : ¬ 32 ≤ n := by omega
  subst he hasked hoff hf
  rw [pwrVoteVnWrite, if_neg hrange, if_neg (by simp [hs]), if_neg (Nat.not_le.mpr hn)]
  rfl

end

/-- Settles O5: the vote registers by the lemmas above; the release of pads is the meaning of its command. -/
theorem votesAndPadsFollowTheirRegisters : Obligations.VotesAndPadsFollowTheirRegisters := by
  refine ⟨?set, ?clear, ?replace, ?noClient, ?pads⟩
  case set =>
    exact fun d who w v hv => Answers.intro (f := pwrVoteSet who w) (fun _ => rfl) (pwrVoteSet_client hv)
  case clear =>
    exact fun d who w v hv => Answers.intro (f := pwrVoteClr who w) (fun _ => rfl) (pwrVoteClr_client hv)
  case replace =>
    intro d who n w e f asked off hn hs he hasked hoff hf
    have hwrite := pwrVoteVnWrite_client hn hs he hasked hoff hf
    refine Answers.intro (f := pwrVoteVnWrite who n w) (fun _ => rfl) ⟨fun h14 => ?_, fun h14 => ?_⟩
    · rw [hwrite, if_neg h14]
      rfl
    · rw [hwrite, if_pos h14]
      rfl
  case noClient =>
    exact fun d who n w hlo hhi hs => Answers.intro (f := pwrVoteVnWrite who n w) (fun _ => rfl)
      (pwrVoteVnWrite_noClient hlo hhi hs)
  case pads =>
    exact fun d who w => Answers.intro (f := pwrPadRelease who w) (fun _ => rfl) rfl

end Sys2Proof.Machine
end

section
/-! SUPPORT. The system reset that SYSRST_N holds (R36, R44–R46, R58), the steps and sources of the boot (R47–R55, R283), rails and
operating points (R43, R62, R70, R71, R427, R428), and the calibrations and oscillators (R54, R90–R105): what each event comes to;
the statements of 03_supplies_reset_boot.md settled with these facts. -/

namespace Sys2Proof.Machine

open Sys2Proof

/-! The state after reset (R46, R56). -/

/-- Settles O50: the reset state by its definition, and its device by the law that reset meets the invariant. -/
theorem resetMeetsTheInvariant : Obligations.ResetMeetsTheInvariant :=
  ⟨Dev.reset_inv, rfl, rfl, rfl, fun _ => rfl, fun _ => rfl⟩

/-! Chains of register writes. -/

theorem OnlyRegs.mono {d t : Dev} {ex ex' : List Nat} (h : OnlyRegs d t ex) (hsub : ex ⊆ ex') : OnlyRegs d t ex' :=
  ⟨h.1, fun a ha => h.2 a fun hin => ha (hsub hin)⟩

/-- The step from `d` to `t` writes no register outside `ex` and nothing else, and keeps the store's canonical form. -/
def WritesRegs (ex : List Nat) (d t : Dev) : Prop :=
  regsWf d.regs = true → regsWf t.regs = true ∧ OnlyRegs d t ex

namespace WritesRegs

variable {ex : List Nat} {d e t : Dev}

theorem refl (ex : List Nat) (d : Dev) : WritesRegs ex d d := fun h => ⟨h, OnlyRegs.refl d ex⟩

theorem trans (h : WritesRegs ex d e) (k : WritesRegs ex e t) : WritesRegs ex d t := fun hwf =>
  have ⟨hmid, hfirst⟩ := h hwf
  have ⟨hend, hsecond⟩ := k hmid
  ⟨hend, hfirst.trans hsecond⟩

theorem setReg {a : Nat} (d : Dev) (w : Word) (ha : a ∈ ex) : WritesRegs ex d (d.setReg a w) := fun h =>
  ⟨Dev.setReg_regsWf d a w h, OnlyRegs.setReg d a w ex h ha⟩

theorem wr {f : Field} {i : Nat} (d : Dev) (v : Nat) (ha : f.at i ∈ ex) : WritesRegs ex d (d.wr f v i) :=
  setReg d _ ha

theorem foldl {α : Type} {f : Dev → α → Dev} {l : List α} (h : ∀ x ∈ l, ∀ d, WritesRegs ex d (f d x)) (d : Dev) :
    WritesRegs ex d (l.foldl f d) := by
  induction l generalizing d with
  | nil => exact refl ex d
  | cons x l ih =>
    exact (h x List.mem_cons_self d).trans (ih (fun y hy => h y (List.mem_cons_of_mem x hy)) _)

/-- A write that is made only under a condition. -/
theorem ite {p : Prop} [Decidable p] (h : WritesRegs ex d t) : WritesRegs ex d (if p then t else d) := by
  split
  · exact h
  · exact refl ex d

end WritesRegs

/-! The system reset while SYSRST_N stays low (R44–R46, R58). -/

/-- RFS registers of D0 that show what a reset has ended. -/
def rfsShown : List Nat :=
  [Fld.rfsCalStatus_busy.at 0, Fld.rfsChainState_chains.at 0, Fld.rfsLoStatus_locked.at 0, Fld.rfsPwrTrim_trim.at 0,
    Fld.rfsPwrTrim_trim.at 1, Fld.rfsPwrTrim_trim.at 2, Fld.rfsPwrTrim_trim.at 3]

/-- Registers of D0 that a reset writes once its cause is recorded: the watch state, the aborts of D22 and V0's votes. -/
def restartShown : List Nat := [Fld.pwrWatchStatus_state.at 0, Fld.pwrDomAbort_aborts.at 22, Reg.pwrVoteV]

/-- The registers of D0 that a reset writes are among those that it keeps. -/
theorem keptRegister_of_written : ∀ a ∈ Reg.sysResetCause :: (rfsShown ++ restartShown), keptRegister a = true := by
  decide +kernel

/-- Whether the filter of a reset keeps the entry of register `a`: a kept register other than a vote word. -/
def survivesReset (a : Nat) : Bool :=
  keptRegister a && !(decide (Reg.pwrVoteV ≤ a) && decide (a < Reg.pwrVoteV + 128))

/-- `e` is device `d` as a system reset leaves it before it writes any register of D0. -/
structure RestartedFrom (d e : Dev) : Prop where
  always : e.tmb = d.tmb ∧ e.duty = d.duty ∧ e.fuses = d.fuses ∧ e.otpRegion = d.otpRegion
  blocks : e.keys = Dev.reset.keys ∧ e.cores = Dev.reset.cores ∧ e.hci = Dev.reset.hci ∧ e.tempo = Dev.reset.tempo ∧
    e.cph = Dev.reset.cph ∧ e.evr = Dev.reset.evr
  regs : e.regs = d.regs.filter fun x => survivesReset x.1
  mem : e.mem = if keepsNodeMemory (d.dom 22) then d.mem.filter fun c => isNodeMemory c.1 else []

namespace RestartedFrom

variable {d e : Dev}

theorem regsWf_keeps (h : RestartedFrom d e) (hwf : regsWf d.regs = true) : regsWf e.regs = true := by
  rw [h.regs]
  exact spWf_filter _ hwf

theorem reg (h : RestartedFrom d e) (hwf : regsWf d.regs = true) (a : Nat) :
    e.reg a = if survivesReset a then d.reg a else regReset a := by
  rw [Dev.reg, h.regs, spGet_filter survivesReset hwf]
  split
  · rfl
  · rfl

theorem byte (h : RestartedFrom d e) (hwf : Memory.wf d.mem = true) {a : Nat} (ha : isNodeMemory a = false) :
    e.byte a = memDefault := by
  rw [Dev.byte, h.mem]
  split
  · rw [spGet_filter isNodeMemory hwf, if_neg (by simp [ha])]
    rfl
  · rfl

end RestartedFrom

theorem Dev.rfsRestart_writes (d : Dev) : WritesRegs rfsShown d d.rfsRestart := by
  refine WritesRegs.trans (e := ((d.wr Fld.rfsCalStatus_busy 0).wr Fld.rfsCalStatus_pending 0).wr Fld.rfsChainState_chains 0)
    ?status ?trims
  case status =>
    exact ((WritesRegs.wr _ _ (by decide)).trans (WritesRegs.wr _ _ (by decide))).trans (WritesRegs.wr _ _ (by decide))
  case trims =>
    exact (WritesRegs.wr _ _ (by decide)).trans (WritesRegs.foldl (fun n hn d => WritesRegs.wr _ _ (by revert n; decide)) _)

theorem Dev.abortEntry_writes (d : Dev) (voter : Nat) : WritesRegs restartShown d (d.abortEntry 22 voter) :=
  (WritesRegs.wr (f := Fld.pwrDomAbort_aborts) (i := 22) _ _ (by decide)).trans (WritesRegs.wr _ _ (by decide))

/-- With SYSRST_N low the device restarts, shows in RFS what has ended, records the cause and then writes the watch state,
D22's vote and its aborted entry. -/
theorem Dev.restart_held {d : Dev} (hp : d.pins.sysrstLow = true) (cause : Nat) :
    ∃ e : Dev, RestartedFrom d e ∧
      WritesRegs restartShown
        (e.rfsRestart.setReg Reg.sysResetCause (BitVec.ofNat 32 (setBitN (d.reg Reg.sysResetCause).toNat cause)))
        (d.restart cause) := by
  unfold Dev.restart
  extract_lets m22 kept fresh aborted st pins pwr region e shown recorded watched voted ended
  refine ⟨e, ⟨⟨rfl, rfl, rfl, rfl⟩, ⟨rfl, rfl, rfl, rfl, rfl, rfl⟩, rfl, rfl⟩, ?_⟩
  rw [if_pos hp]
  clear_value e
  have hwatch : WritesRegs restartShown recorded watched := WritesRegs.ite (WritesRegs.wr _ _ (by decide))
  have hvote : WritesRegs restartShown watched voted := WritesRegs.ite (WritesRegs.setReg _ _ (by decide))
  have habort : WritesRegs restartShown voted ended := WritesRegs.ite (Dev.abortEntry_writes _ _)
  exact (hwatch.trans hvote).trans habort

theorem testBit_setBitN (w cause : Nat) : (setBitN w cause).testBit cause = true := by
  simp [setBitN]

/-- A system reset with SYSRST_N low keeps what a reset keeps of the device whose frames have ended, but for the registers of
D0 that it writes, and records its cause. -/
theorem Dev.systemReset_held {d : Dev} (hinv : d.inv) (hp : d.pins.sysrstLow = true) (cause : Nat) :
    ∃ e : Dev, RestartedFrom d.stopFrames e ∧
      OnlyRegs e (d.systemReset cause) (Reg.sysResetCause :: (rfsShown ++ restartShown)) ∧
      (d.systemReset cause).reg Reg.sysResetCause =
        BitVec.ofNat 32 (setBitN (d.stopFrames.reg Reg.sysResetCause).toNat cause) := by
  obtain ⟨_, _, hstop⟩ := stopFrames_dutyOnly d
  have hpins : d.stopFrames.pins.sysrstLow = true := by rw [hstop]; exact hp
  obtain ⟨e, he, hrest⟩ := Dev.restart_held hpins cause
  have hwf : regsWf e.regs = true := he.regsWf_keeps (Dev.inv_regs (Dev.stopFrames_inv d hinv))
  obtain ⟨hshown, hrfs⟩ := e.rfsRestart_writes hwf
  obtain ⟨hrecorded, hset⟩ := WritesRegs.setReg (ex := [Reg.sysResetCause]) e.rfsRestart
    (BitVec.ofNat 32 (setBitN (d.stopFrames.reg Reg.sysResetCause).toNat cause)) List.mem_cons_self hshown
  obtain ⟨_, hended⟩ := hrest hrecorded
  refine ⟨e, he, ((hrfs.mono ?_).trans (hset.mono ?_)).trans (hended.mono ?_), ?_⟩
  · exact List.subset_cons_of_subset _ (List.subset_append_left _ _)
  · exact List.cons_subset_cons _ (List.nil_subset _)
  · exact List.subset_cons_of_subset _ (List.subset_append_right _ _)
  · obtain ⟨_, hkeeps⟩ := hended
    rw [Dev.systemReset, hkeeps _ (by decide), Dev.reg_setReg _ _ _ _ hshown, if_pos rfl]

/-- Settles O2: the device that the restart builds, and the few registers of D0 that it then writes. -/
theorem systemResetKeepsTheAlwaysOnDomain : Obligations.SystemResetKeepsTheAlwaysOnDomain := by
  intro d cause hinv hp hcause
  have hstopped := Dev.stopFrames_inv d hinv
  obtain ⟨_, _, hstop⟩ := stopFrames_dutyOnly d
  obtain ⟨e, he, ⟨hrest, hregs⟩, hrecorded⟩ := Dev.systemReset_held hinv hp cause
  have hread (a : Nat) := he.reg (Dev.inv_regs hstopped) a
  dsimp only
  refine ⟨?always, ?blocks, ?cause, ?reset, ?kept, ?memory⟩
  case always =>
    obtain ⟨htmb, hduty, hfuses, hotp⟩ := he.always
    rw [hrest]
    refine ⟨htmb.trans ?_, hduty, hfuses.trans ?_, hotp.trans ?_⟩ <;> rw [hstop]
  case blocks =>
    rw [hrest]
    exact he.blocks
  case cause =>
    rw [hrecorded, BitVec.getLsbD_ofNat, testBit_setBitN]
    simp [hcause]
  case reset =>
    intro a ha
    have hout : a ∉ Reg.sysResetCause :: (rfsShown ++ restartShown) := fun hin => by
      simp [keptRegister_of_written a hin] at ha
    rw [hregs a hout, hread, if_neg (by simp [survivesReset, ha])]
  case kept =>
    intro a ha hvote hout
    have hsurvives : survivesReset a = true := by simpa [survivesReset, ha] using hvote
    have hnotV0 : a ≠ Reg.pwrVoteV := by omega
    have hwritten := List.not_mem_append hout (mt List.mem_singleton.mp hnotV0)
    rw [hregs a hwritten, hread, if_pos hsurvives]
  case memory =>
    intro a ha
    rw [hrest]
    exact he.byte (Dev.inv_mem hstopped) ha

/-! The steps of the boot (R48–R55). -/

section

variable {d : Dev}

theorem bootSupplyTimeout_halts (hp : d.boot.phase = .supplies) (hr : d.allRailsGood = false) :
    bootSupplyTimeout d = d.bootHalt 0x11 :=
  if_pos (by simp [hp, hr])

theorem bootLowSupplyRecheck_eq {n : Nat} (hp : d.boot.phase = .lowSupply n) :
    bootLowSupplyRecheck d =
      if d.nvOk then { d.bootCode 0x03 with boot := { d.boot with phase := .lcResume } }
      else if 99 ≤ n then d.bootHalt 0x12
      else { d with boot := { d.boot with phase := .lowSupply (n + 1) } } := by
  simp only [bootLowSupplyRecheck, hp, Nat.succ_le_succ_iff]

theorem packetBufferSelfTestDone_spared {failing : List Nat} {e f : Dev} (hp : d.boot.phase = .packetTest)
    (hup : d.domUp 23 = true) (he : d.remapRows (failing.map (rowRes 32)) = (e, []))
    (hf : f = if d.boot.wake then e else e.clearMem isPacketBuffer) :
    packetBufferSelfTestDone failing d =
      if f.rd Fld.sysStrap_bootSel = 0 then { f.romFlash none with boot := { f.boot with phase := .header 1 } }
      else if f.rd Fld.sysStrap_bootSel = 3 then
        ({ f.bootCode 0x02 with boot := { f.boot with phase := .waitPeer } } : Dev).bootRequest
      else { f.bootCode 0x02 with boot := { f.boot with phase := .waitHost } } := by
  rw [packetBufferSelfTestDone, if_pos (by simp [hp, hup]), he]
  refine (if_neg (by simp)).trans ?_
  dsimp only
  rw [← hf]
  split
  · next h => rw [if_pos h]
  · next h => rw [if_neg (by simp [h]), if_pos h]
  · next h0 h3 => rw [if_neg h0, if_neg h3]

theorem packetBufferSelfTestDone_unspared {failing : List Nat} (hp : d.boot.phase = .packetTest)
    (hup : d.domUp 23 = true) (hleft : (d.remapRows (failing.map (rowRes 32))).2 ≠ []) :
    packetBufferSelfTestDone failing d = (d.remapRows (failing.map (rowRes 32))).1.bootHalt 0x15 := by
  rw [packetBufferSelfTestDone, if_pos (by simp [hp, hup])]
  exact if_pos (by simp [hleft])

theorem bootHeaderReadDone_eq {hdr : List Byte} {slot : Nat} (hp : d.boot.phase = .header slot) :
    bootHeaderReadDone hdr d =
      if headerCode (padTo 352 hdr) = 0 then
        { (d.bootAttempt slot).romFlash (some (leAt hdr 0x011 1)) with
          boot := { (d.bootAttempt slot).boot with phase := .image slot } }
      else (d.bootAttempt slot).slotFail slot (headerCode (padTo 352 hdr)) := by
  simp only [bootHeaderReadDone, hp]

theorem bootImageReadDone_eq {image : List Byte} {slot : Nat} {r : Dev × Nat} (hp : d.boot.phase = .image slot)
    (hr : r = (d.setBytes pktBase (image.take 0x1C0000)).checkImage image) :
    bootImageReadDone image d = if r.2 = 0 then r.1.acceptImage image else r.1.slotFail slot r.2 := by
  simp only [bootImageReadDone, hp, hr]

theorem bootSectionsCopied_copies {e : Dev} (hp : d.boot.phase = .copying)
    (hup : ∀ n ∈ sectionDomains (d.bytes pktBase 352), d.domUp n = true)
    (he : e = (List.range (hdrSections (d.bytes pktBase 352))).foldl
      (fun e i => e.copySection (imgSection (d.bytes pktBase 352) i)) d) :
    bootSectionsCopied d = { e with boot := { e.boot with phase := .copied } } := by
  subst he
  exact if_pos (by rw [hp, List.all_eq_true.mpr hup]; rfl)

theorem bootSelfTestDone_eq {failing : List Nat} {r : Dev × List Nat} (hp : d.boot.phase.selfTests = true)
    (hs : d.boot.selfTested = false) (hr : r = d.remapRows failing) :
    bootSelfTestDone failing d =
      if ∃ x ∈ r.2, 33 ≤ resMem x ∧ resMem x ≤ 35 then r.1.bootHalt 0x15
      else
        let e := if r.2 = [] then r.1 else r.1.wr Fld.sysBootStatus_degraded 1
        { e with boot := { e.boot with selfTested := true } } := by
  subst hr
  rw [bootSelfTestDone, if_pos (by rw [hp, hs]; rfl)]
  simp only [List.any_eq_true, Bool.and_eq_true, decide_eq_true_eq, List.isEmpty_iff]

theorem bootFirmwareEntry_enters (hp : d.boot.phase = .copied) (hs : d.boot.selfTested = true) (hup : d.domUp 2 = true) :
    bootFirmwareEntry d = (({ d.bootCode 0x00 with boot := { d.boot with phase := .entered } } : Dev).setCore 0
      { coreReset 0 with pc := d.boot.entry % 65536 / 4 * 4, run := .run }).startupCal :=
  if_pos (by rw [hp, hs, hup]; rfl)

end

/-- Settles O3: each event of the boot by its lemma above; the cases of a clause are the branches of that lemma. -/
theorem bootStepsAdvance : Obligations.BootStepsAdvance := by
  refine ⟨?supplies, ?recheck, ?packetTest, ?packetTestFailed, ?header, ?image, ?sections, ?selfTest, ?entry⟩
  case supplies =>
    exact fun d hp hr => Answers.intro (f := bootSupplyTimeout) (fun _ => rfl) (bootSupplyTimeout_halts hp hr)
  case recheck =>
    intro d n hp
    refine Answers.intro (f := bootLowSupplyRecheck) (fun _ => rfl) ?_
    rw [bootLowSupplyRecheck_eq hp]
    refine ⟨fun hok => ?_, fun hlow hn => ?_, fun hlow hn => ?_⟩
    · rw [if_pos hok]
    · rw [if_neg (by simp [hlow]), if_pos hn]
    · rw [if_neg (by simp [hlow]), if_neg (Nat.not_le.mpr hn)]
  case packetTest =>
    intro d failing e f hp hup he hf
    refine Answers.intro (f := packetBufferSelfTestDone failing) (fun _ => rfl) ?_
    rw [packetBufferSelfTestDone_spared hp hup he hf]
    refine ⟨fun h => ?_, fun h => ?_, fun h0 h3 => ?_⟩
    · rw [if_pos h]
    · rw [if_neg (by simp [h]), if_pos h]
    · rw [if_neg h0, if_neg h3]
  case packetTestFailed =>
    exact fun d failing hp hup hleft => Answers.intro (f := packetBufferSelfTestDone failing) (fun _ => rfl)
      (packetBufferSelfTestDone_unspared hp hup hleft)
  case header =>
    intro d hdr slot hp
    refine Answers.intro (f := bootHeaderReadDone hdr) (fun _ => rfl) ?_
    rw [bootHeaderReadDone_eq hp]
    exact ⟨fun h => if_pos h, fun h => if_neg h⟩
  case image =>
    intro d image slot hp
    refine Answers.intro (f := bootImageReadDone image) (fun _ => rfl) ?_
    rw [bootImageReadDone_eq hp rfl]
    exact ⟨fun h => if_pos h, fun h => if_neg h⟩
  case sections =>
    exact fun d e hp hup he => Answers.intro (f := bootSectionsCopied) (fun _ => rfl) (bootSectionsCopied_copies hp hup he)
  case selfTest =>
    intro d failing hp hs
    refine Answers.intro (f := bootSelfTestDone failing) (fun _ => rfl) ?_
    rw [bootSelfTestDone_eq hp hs rfl]
    intro r
    refine ⟨fun hnone => ?_, fun hleft hother => ?_, fun ⟨x, hx, hlo, hhi⟩ => ?_⟩
    · rw [if_neg fun ⟨x, hx, _⟩ => List.not_mem_nil (hnone ▸ hx)]
      dsimp only
      rw [if_pos hnone]
    · rw [if_neg fun ⟨x, hx, hlo, hhi⟩ => by have := hother x hx; omega]
      dsimp only
      rw [if_neg hleft]
    · exact if_pos ⟨x, hx, hlo, hhi⟩
  case entry =>
    exact fun d hp hs hup => Answers.intro (f := bootFirmwareEntry) (fun _ => rfl) (bootFirmwareEntry_enters hp hs hup)

/-! The reset register and the boot sources (R47, R48, R50, R52, R283). -/

section

variable {d : Dev} {who : Initiator} {w : Word}

theorem testBit_sys_set (w : Word) : (w ||| 0x100#32).toNat.testBit 8 = true := by
  rw [BitVec.toNat_or, Nat.testBit_or]
  exact Bool.or_true _

theorem testBit_sys_clear (w : Word) : (w &&& 0xFFFFFEFF#32).toNat.testBit 8 = false := by
  rw [BitVec.toNat_and, Nat.testBit_and]
  exact Bool.and_false _

/-- A write of SYS_RESET_CTRL with its key by who may write it: a secure core's CORE_HOLD bits act, then SYS (R47). -/
theorem sysResetCtrlWrite_keyed (hup : d.domUp 1 = true) (hkey : wBits w 31 16 = 0xA5C3) (hwho : d.secureOrHost who = true)
    {e : Dev} (he : e = if d.secure who then (List.range 7).foldl
      (fun e k => e.coreHold (w.toNat.testBit (k + 1)) (k + 1)) (d.rsvd who Reg.sysResetCtrl w)
      else d.rsvd who Reg.sysResetCtrl w) :
    sysResetCtrlWrite who w d =
      if w.toNat.testBit 8 then e.cutBits.systemReset (if who = .host then 3 else 2) else e := by
  subst he
  rw [sysResetCtrlWrite, if_neg (by simp [hup]), if_neg (by simp [hkey, hwho])]
  rfl

theorem sysBootDoorbell_checks (hp : d.boot.phase = .waitHost) (hwho : who = .host) (h1 : d.domUp 1 = true)
    (h23 : d.domUp 23 = true) : sysBootDoorbell who w d = d.checkBuffer w.toNat :=
  if_pos (by rw [hp, h1, h23, hwho]; rfl)

theorem bootPeerTimeout_waiting (hp : d.boot.phase = .waitPeer) :
    bootPeerTimeout d =
      ({ d.bootCode 0x26 with boot := { d.boot with peerImage := [], peerFrom := none } } : Dev).bootRequest :=
  if_pos hp

theorem intNPulseEnd_waiting (hpulse : d.pins.intPulse = true) (hp : d.boot.phase = .waitHost ∨ d.boot.phase = .waitPeer) :
    intNPulseEnd d = ({ d with pins := { d.pins with intPulse := false } } : Dev).bootCode 0x02 := by
  rw [intNPulseEnd, if_neg (by simp [hpulse])]
  rcases hp with hp | hp <;> simp only [hp]

theorem intNPulseEnd_other (hpulse : d.pins.intPulse = true) (hhost : d.boot.phase ≠ .waitHost)
    (hpeer : d.boot.phase ≠ .waitPeer) : intNPulseEnd d = { d with pins := { d.pins with intPulse := false } } := by
  rw [intNPulseEnd, if_neg (by simp [hpulse])]
  dsimp only
  split
  · contradiction
  · contradiction
  · rfl

theorem bootData_continues {h : BmHdr} {offset : Nat} {bytes img : List Byte} {e : Dev} (hp : d.boot.phase = .waitPeer)
    (hup : d.domUp 27 = true) (hok : h.formatOk = true)
    (hfrom : d.boot.peerFrom = none ∨ d.boot.peerFrom = some (bmFrom h)) (hsome : bytes ≠ [])
    (hlen : bytes.length ≤ 2048) (hoff : offset = d.boot.peerImage.length) (himg : img = d.boot.peerImage ++ bytes)
    (he : e = { (d.setBytes (pktBase + offset) bytes).bootCode 0x02 with
      boot := { d.boot with peerImage := img, peerFrom := some (bmFrom h) } }) :
    bootData h offset bytes d =
      if img.length < 352 ∨ (headerCode img = 0 ∧ img.length < hdrLength img) then e.bootRequest
      else e.checkBuffer (hdrLength img) := by
  have hknown : (d.boot.peerFrom.isNone || decide (d.boot.peerFrom = some (bmFrom h))) = true := by
    rcases hfrom with hfrom | hfrom <;> simp [hfrom]
  rw [bootData, if_pos (by simp [hp, hup, hok, hknown, hsome, hlen, hoff])]
  simp only [Dev.setBytes_boot, ← himg, ← he, Bool.and_eq_true, decide_eq_true_eq]
  by_cases hshort : img.length < 352
  · rw [if_pos hshort, if_pos (Or.inl hshort)]
  · rw [if_neg hshort]
    simp only [hshort, false_or]

end

/-- Settles O4: the write of the reset register without and with SYS is one lemma; each boot source has its own. -/
theorem bootSourcesAct : Obligations.BootSourcesAct := by
  refine ⟨?reset, ?hold, ?doorbell, ?peerTimeout, ?pulse, ?data⟩
  case reset =>
    intro d who w e hup hkey hwho he
    refine Answers.intro (f := sysResetCtrlWrite who (w ||| 0x100#32)) (fun _ => rfl) ?_
    rw [sysResetCtrlWrite_keyed hup hkey hwho he, if_pos (testBit_sys_set w)]
  case hold =>
    intro d who w hup hkey hsec
    have hwho : d.secureOrHost who = true := by rw [Dev.secureOrHost, hsec, Bool.true_or]
    refine Answers.intro (f := sysResetCtrlWrite who (w &&& 0xFFFFFEFF#32)) (fun _ => rfl) ?_
    rw [sysResetCtrlWrite_keyed hup hkey hwho rfl, testBit_sys_clear, if_neg Bool.false_ne_true, if_pos hsec]
  case doorbell =>
    exact fun d who w hp hwho h1 h23 => Answers.intro (f := sysBootDoorbell who w) (fun _ => rfl)
      (sysBootDoorbell_checks hp hwho h1 h23)
  case peerTimeout =>
    exact fun d hp => Answers.intro (f := bootPeerTimeout) (fun _ => rfl) (bootPeerTimeout_waiting hp)
  case pulse =>
    intro d hpulse
    refine Answers.intro (f := intNPulseEnd) (fun _ => rfl)
      ⟨?_, intNPulseEnd_waiting hpulse, intNPulseEnd_other hpulse⟩
    by_cases hp : d.boot.phase = .waitHost ∨ d.boot.phase = .waitPeer
    · rw [intNPulseEnd_waiting hpulse hp]
      rfl
    · rw [intNPulseEnd_other hpulse (fun h => hp (.inl h)) (fun h => hp (.inr h))]
  case data =>
    exact fun d h offset bytes img e hp hup hok hfrom hsome hlen hoff himg he =>
      Answers.intro (f := bootData h offset bytes) (fun _ => rfl)
        (bootData_continues hp hup hok hfrom hsome hlen hoff himg he)

/-! Rails and core operating points (R43, R62, R70, R71, R427, R428). -/

section

variable {d : Dev}

theorem nvOkFall_warns (h : d.nvOk = true) :
    nvOkFall d = (d.wr Fld.sysSupplyStatus_nvOk 0).bump Fld.errStat3_brownoutWarn :=
  if_pos h

/-- NV_OK and the GOOD bits share a register, in bits of their own (R427). -/
theorem nvOkRise_sets (hwf : regsWf d.regs = true) :
    OnlyRegs d (nvOkRise d) [Reg.sysSupplyStatus] ∧ (nvOkRise d).rd Fld.sysSupplyStatus_nvOk = 1 ∧
      (nvOkRise d).rd Fld.sysSupplyStatus_good = d.rd Fld.sysSupplyStatus_good :=
  ⟨OnlyRegs.wr _ _ _ _ _ hwf (by decide), Dev.rd_wr _ _ _ _ hwf (by decide),
    Dev.rd_wr_bits _ _ _ _ _ _ hwf (by decide) (by decide) (by decide)⟩

theorem railGood_starts {r : Nat} (hr : r < 7) :
    railGood r d = ((List.range 32).foldl Dev.supplyStart
      (d.wr Fld.sysSupplyStatus_good (setBitN (d.rd Fld.sysSupplyStatus_good) r))).bootProgress.settleAll :=
  if_neg (Nat.not_le.mpr hr)

theorem clkOpCtrlWrite_allowed {who : Initiator} {w : Word} {e : Dev} (hup : d.domUp 1 = true)
    (hwho : d.secureOrHost who = true) (he : e = d.plainWrite who Reg.clkOpCtrl w) :
    clkOpCtrlWrite who w d = if e.cluster.step = .idle then e.opPlan else e.bump Fld.clkOpStatus_replaced := by
  subst he
  rw [clkOpCtrlWrite, if_neg (by simp [hup]), if_neg (by simp [hwho])]

theorem opVoltageRampDone_reached {v : Nat} (h : d.cluster.step = .ramp v) :
    opVoltageRampDone d = ({ d with cluster := { d.cluster with mv := v, step := .idle } } : Dev).opPlan := by
  simp only [opVoltageRampDone, h]

theorem opPllRelockDone_reached {op : Nat} (h : d.cluster.step = .relock op) :
    opPllRelockDone d =
      ({ d with cluster := { d.cluster with freq := op, bypass := false, step := .idle } } : Dev).opPlan := by
  simp only [opPllRelockDone, h]

theorem coreRailDrop_bypasses (hmv : d.cluster.mv ≠ 0) (hb : d.cluster.bypass = false) :
    coreRailDrop d = ({ d with cluster := { d.cluster with bypass := true } } : Dev).bump Fld.errStat2_clockBypass :=
  if_neg (by simp [hmv, hb])

end

/-- A counter that rises by one keeps every other register and stops at its greatest value (R139). -/
theorem Dev.bump_counts {d : Dev} {f : Field} {i : Nat} (hwf : regsWf d.regs = true) (hf : f.lo + f.n ≤ 32) :
    OnlyRegs d (d.bump f i) [f.at i] ∧
      (d.bump f i).rd f i = satAdd (d.rd f i) 1 (2 ^ f.n - 1) % 2 ^ f.n :=
  ⟨OnlyRegs.wr _ _ _ _ _ hwf List.mem_cons_self, Dev.rd_wr _ _ _ _ hwf hf⟩

/-- Settles O7: the events of rails and of the operating-point sequencer, one lemma above for each. -/
theorem railsAndOperatingPointsFollowTheirRules : Obligations.RailsAndOperatingPointsFollowTheirRules := by
  refine ⟨?fall, ?rise, ?good, ?request, ?ramp, ?relock, ?dip⟩
  case fall =>
    exact fun d h => Answers.intro (f := nvOkFall) (fun _ => rfl) (nvOkFall_warns h)
  case rise =>
    exact fun d hinv => Answers.intro (f := nvOkRise) (fun _ => rfl) (nvOkRise_sets (Dev.inv_regs hinv))
  case good =>
    exact fun d r hr => Answers.intro (f := railGood r) (fun _ => rfl) (railGood_starts hr)
  case request =>
    exact fun d who w e hup hwho he => Answers.intro (f := clkOpCtrlWrite who w) (fun _ => rfl)
      (clkOpCtrlWrite_allowed hup hwho he)
  case ramp =>
    exact fun d v h => Answers.intro (f := opVoltageRampDone) (fun _ => rfl) (opVoltageRampDone_reached h)
  case relock =>
    exact fun d op h => Answers.intro (f := opPllRelockDone) (fun _ => rfl) (opPllRelockDone_reached h)
  case dip =>
    intro d hinv hmv hb
    refine Answers.intro (f := coreRailDrop) (fun _ => rfl) ?_
    rw [coreRailDrop_bypasses hmv hb]
    have hwf := Dev.inv_regs hinv
    exact Dev.bump_counts (d := { d with cluster := { d.cluster with bypass := true } }) hwf (by decide)

/-! Calibrations, oscillators and the temperature sensor (R54, R90–R105). -/

section

variable {d : Dev}

theorem fullCalibrationLock_locks {lo band trim : Nat} {c : LoCal} {e : Dev} (hc : (d.lo lo).cal = some c)
    (he : e = ((d.setLo lo { d.lo lo with cal := none }).entryWrite lo c.chan band trim).loLock lo c.chan) :
    fullCalibrationLock lo band trim d = (if lo < 2 then e.bandReceive lo else e).calLeft lo := by
  subst he
  simp only [fullCalibrationLock, hc]

theorem bandLoLock_locks {lo : Nat} (hlo : lo < 2) (hon : d.domSt (loDomain lo) = .on) (hlock : (d.lo lo).lock = none)
    (hcal : (d.lo lo).cal = none) (hv : d.is Fld.rfsCalEntry_valid lo = true)
    (hf : d.is Fld.rfsCalEntry_failed lo = false) : bandLoLock lo d = (d.loLock lo 0).bandReceive lo :=
  if_neg (by simp [hlo, hon, hlock, hcal, hv, hf])

theorem backgroundRecalibrationStart_begins {n k : Nat} (hn : n < 4) (hbg : d.is Fld.rfsCalCtrl_bgEn = true)
    (hidle : d.chainState (6 + n) = 2) (hcal : (d.lo (n + 2)).cal = none)
    (hcmd : ∀ c, d.rfs.cmd = some c → c.doms.contains (loDomain (n + 2)) = false) (hon : d.domSt (18 + n) = .on)
    (hvote : d.votedByOther (18 + n) = true) (hplan : d.plannedNear n = false) (hk : d.drifted (n + 2) = some k) :
    backgroundRecalibrationStart n d = d.calBegin (n + 2) ⟨d.entryChan k, .background⟩ := by
  simp only [backgroundRecalibrationStart, hk]
  refine if_neg ?_
  rcases hc : d.rfs.cmd with _ | c
  · simp [hn, hbg, hidle, hcal, hon, hvote, hplan]
  · have hother : loDomain (n + 2) ∉ c.doms := by simpa using hcmd c hc
    simp [hn, hbg, hidle, hcal, hon, hvote, hplan, hother]

/-- No command is at a stage whose last calibration has ended, so the start-up calibration's stage ends (R54). -/
theorem startupCalibrationStageDone_startup {g14 : List Nat} {k : Nat}
    (hcmd : ∀ c, d.rfs.cmd = some c → c.stage = 0 ∨ d.calDone = false) (hdone : d.stageDone = true)
    (hk : k = d.boot.calStage) (h1 : 1 ≤ k) (h6 : k ≤ 6) :
    startupCalibrationStageDone g14 d =
      if k = 6 then
        ({ d.rfs.measured.foldl (fun e n => e.stage6Write n g14) d with boot := { d.boot with calStage := 7 } } : Dev).settle
      else ({ d with boot := { d.boot with calStage := k + 1 } } : Dev).stageBegin false (k + 1) (!d.boot.cold) := by
  have hnone : d.rfs.cmd.filter (fun c => c.stage != 0 && d.calDone) = none := by
    rw [Option.filter_eq_none_iff]
    intro c hc
    rcases hcmd c hc with h | h <;> simp [h]
  have hruns : ¬ (k = 0 ∨ 7 ≤ k ∨ (!d.stageDone) = true) := by
    simp only [hdone, Bool.not_true, Bool.false_eq_true, or_false]
    omega
  subst hk
  simp only [startupCalibrationStageDone, hnone]
  rw [if_neg hruns]

/-- A stage of the running command OP 5 ends (R93, R105). -/
theorem startupCalibrationStageDone_command {g14 : List Nat} {c : CalCmd} {e : Dev} (hc : d.rfs.cmd = some c)
    (hs : c.stage ≠ 0) (hdone : d.calDone = true) (he : e = d.rfs.measured.foldl (fun e n => e.stage6Write n g14) d) :
    startupCalibrationStageDone g14 d =
      if c.stage = 6 then { e with rfs := { e.rfs with cmd := some { c with stage := 0 } } }
      else ({ d with rfs := { d.rfs with cmd := some { c with stage := c.stage + 1 } } } : Dev).stageBegin true
        (c.stage + 1) false := by
  have hsome : d.rfs.cmd.filter (fun c => c.stage != 0 && d.calDone) = some c := by
    simp [hc, hs, hdone]
  subst he
  simp only [startupCalibrationStageDone, hsome]

theorem txStage6Done_writes {n : Nat} {g14 : List Nat} {e : Dev} (hn : n ∈ d.rfs.stage6) (he : e = d.stage6Write n g14) :
    txStage6Done n g14 d =
      ({ e with rfs := { e.rfs with stage6 := e.rfs.stage6.filter (· != n) } } : Dev).settle := by
  subst he
  exact if_pos (List.contains_iff_mem.mpr hn)

theorem retune_raises {lo : Nat} (hlo : lo < 2) (hlock : (d.lo lo).lock.isSome = true) :
    retune lo d = (d.wr Fld.rfsLoStatus_retune (setBitN (d.rd Fld.rfsLoStatus_retune) lo)).raise 0x36 :=
  if_pos (by simp [hlo, hlock])

/-- A sample is stored while one of D11–D21 is ON (R99). -/
theorem tempSensorUpdate_stores {x : Int} {k : Nat} (hk : k < 11) (hon : d.domSt (11 + k) = .on) :
    tempSensorUpdate x d = (d.wr Fld.rfsTemp_temp (unsignedOf x 16)).wr Fld.rfsTemp_valid 1 :=
  if_pos (List.any_eq_true.mpr ⟨k, List.mem_range.mpr hk, by simp [hon]⟩)

theorem Dev.wr_tempSample (v : Nat) (hwf : regsWf d.regs = true) {t : Dev}
    (ht : t = (d.wr Fld.rfsTemp_temp v).wr Fld.rfsTemp_valid 1) :
    OnlyRegs d t [Fld.rfsTemp_temp.at 0] ∧ t.rd Fld.rfsTemp_temp = v % 2 ^ 16 ∧ t.rd Fld.rfsTemp_valid = 1 := by
  have hwf' := Dev.wr_regsWf d Fld.rfsTemp_temp v 0 hwf
  subst ht
  refine ⟨(OnlyRegs.wr _ _ _ _ _ hwf (by decide)).trans (OnlyRegs.wr _ _ _ _ _ hwf' (by decide)), ?_,
    Dev.rd_wr _ _ _ _ hwf' (by decide)⟩
  rw [Dev.rd_wr_bits _ _ _ _ _ _ hwf' (by decide) (by decide) (by decide)]
  exact Dev.rd_wr _ _ _ _ hwf (by decide)

end

/-- Settles O11: the ends of calibrations and stages, the band LOs and the sensor, one lemma above for each. -/
theorem oscillatorsCalibrateAndLock : Obligations.OscillatorsCalibrateAndLock := by
  refine ⟨?fullLock, ?bandLock, ?background, ?startup, ?command, ?oneChain, ?retune, ?sample⟩
  case fullLock =>
    intro d lo band trim c e hc he
    refine Answers.intro (f := fullCalibrationLock lo band trim) (fun _ => rfl) ?_
    rw [fullCalibrationLock_locks hc he]
    exact ⟨fun hlo => by rw [if_pos hlo], fun hlo => by rw [if_neg (Nat.not_lt.mpr hlo)]⟩
  case bandLock =>
    exact fun d lo hlo hon hlock hcal hv hf => Answers.intro (f := bandLoLock lo) (fun _ => rfl)
      (bandLoLock_locks hlo hon hlock hcal hv hf)
  case background =>
    exact fun d n k hn hbg hidle hcal hcmd hon hvote hplan hk =>
      Answers.intro (f := backgroundRecalibrationStart n) (fun _ => rfl)
        (backgroundRecalibrationStart_begins hn hbg hidle hcal hcmd hon hvote hplan hk)
  case startup =>
    intro d g14 hcmd hdone h1
    refine Answers.intro (f := startupCalibrationStageDone g14) (fun _ => rfl) ⟨fun h6 => ?_, fun e he h6 => ?_⟩
    · rw [startupCalibrationStageDone_startup hcmd hdone rfl h1 (Nat.le_of_lt h6), if_neg (Nat.ne_of_lt h6)]
    · rw [startupCalibrationStageDone_startup hcmd hdone rfl h1 (Nat.le_of_eq h6), if_pos h6, he]
  case command =>
    intro d g14 c e hc hs hdone he
    refine Answers.intro (f := startupCalibrationStageDone g14) (fun _ => rfl) ?_
    rw [startupCalibrationStageDone_command hc hs hdone he]
    exact ⟨fun h => if_pos h, fun h => if_neg h⟩
  case oneChain =>
    exact fun d n g14 e hn he => Answers.intro (f := txStage6Done n g14) (fun _ => rfl) (txStage6Done_writes hn he)
  case retune =>
    exact fun d lo hlo hlock => Answers.intro (f := retune lo) (fun _ => rfl) (retune_raises hlo hlock)
  case sample =>
    exact fun d x k hinv hk hon => Answers.intro (f := tempSensorUpdate x) (fun _ => rfl)
      (Dev.wr_tempSample _ (Dev.inv_regs hinv) (tempSensorUpdate_stores hk hon))

end Sys2Proof.Machine
end

section
/-! SUPPORT. The domain state table and its drain limit (R57, R62–R69), the wake sources (R73–R77, R159, R160) and the watch
sequencer (R78–R84): what each event or write comes to; the statements of 04_power_domains.md settled with these facts. -/

namespace Sys2Proof.Machine

open Sys2Proof

/-! The rows of the domain state table (Table 04.4). -/

section

variable {d : Dev} {n : Nat}

/-- The lowest waiting domain starts once 10 µs have passed since the last one (R57). -/
theorem domainSwitchOnStart_starts (hw : d.waitsInrush n = true) (hlow : ∀ k, k < n → d.waitsInrush k = false)
    (hgap : ∀ u, d.pwr.inrush = some u → u + usTicks 10 ≤ d.tmb) :
    domainSwitchOnStart n d =
      { d with pwr := { (d.setDom n { d.dom n with started := true }).pwr with inrush := some d.tmb } } := by
  have hlowest : ((List.range n).all fun k => !d.waitsInrush k) = true :=
    List.all_eq_true.mpr fun k hk => by simp [hlow k (List.mem_range.mp hk)]
  unfold domainSwitchOnStart
  cases hi : d.pwr.inrush with
  | none => exact if_pos (by simp only [hw, hlowest, Bool.and_self])
  | some u => exact if_pos (by simp only [hw, hlowest, hgap u hi, decide_true, Bool.and_self])

theorem domainPowerUpDone_ends {e : Dev} (h1 : 1 ≤ n) (h30 : n < 30) (hst : (d.dom n).st = .poweringUp)
    (hs : (d.dom n).started = true)
    (he : e = (d.setDom n { d.dom n with st := .on, pend := .none }).domainOn n (d.dom n).fromRet) :
    domainPowerUpDone n d =
      (if (d.dom n).pend = .down then (e.setDom n { e.dom n with st := .draining }).drainStart n else e).settleAll := by
  have hrow : ¬ (n = 0 ∨ 30 ≤ n ∨ (d.dom n).st ≠ .poweringUp ∨ (!(d.dom n).started) = true) := by
    simp only [hst, hs, ne_eq, not_true_eq_false, Bool.not_true, Bool.false_eq_true, or_false]
    omega
  subst he
  exact if_neg hrow

theorem domainDrainDone_isolates {e : Dev} (he : e = d.catchUp) (hst : e.domSt n = .draining) (hdr : e.drained n = true) :
    domainDrainDone n d = ((e.setDom n { e.dom n with st := .isolating, pend := .none }).domainIsolate n).settleAll := by
  subst he
  exact if_pos (by simp only [hst, hdr, decide_true, Bool.and_self])

theorem domainDrainTimeout_refuses {e : Dev} (he : e = d.catchUp) (hst : e.domSt n = .draining) :
    domainDrainTimeout n d = ((e.setDom n { e.dom n with st := .on, pend := .down }).refusal n 0x20).settleAll := by
  subst he
  exact if_pos hst

theorem domainDrainRetry_drains (hst : (d.dom n).st = .on) (hp : (d.dom n).pend = .down) (ht : d.tally n = false) :
    domainDrainRetry n d =
      ((d.setDom n { d.dom n with st := .draining, pend := .none }).drainStart n).settleAll :=
  if_pos (by simp only [hst, hp, ht, decide_true, Bool.not_false, Bool.and_self])

theorem domainIsolationDone_off (hst : (d.dom n).st = .isolating) (hp : (d.dom n).pend ≠ .up) :
    domainIsolationDone n d =
      ((d.setDom n { d.dom n with st := .switchingOff, latched := [] }).radioOff n).settleAll :=
  (if_neg (not_not_intro hst)).trans (if_neg hp)

/-- An entry that is aborted while it isolates: back to ON with its banks released, and with D17 the band receives again
(R69, the choices of log 29 and 30). -/
theorem domainIsolationDone_aborts {e : Dev} (hst : (d.dom n).st = .isolating) (hp : (d.dom n).pend = .up)
    (he : e = ((d.setDom n { d.dom n with st := .on, pend := .none, latched := [] }).releaseBanks
      (d.dom n).latched).abortEntry n (d.dom n).upBy) :
    domainIsolationDone n d =
      (if n = 17 then [0, 1].foldl (fun e lo => if (e.lo lo).lock.isSome then e.bandReceive lo else e) e
        else e).settleAll := by
  subst he
  exact (if_neg (not_not_intro hst)).trans (if_pos hp)

theorem domainSwitchOffDone_aborts (hst : (d.dom n).st = .switchingOff) (hp : (d.dom n).pend = .up) :
    domainSwitchOffDone n d = (((d.setDom n {}).domainOff n).abortEntry n (d.dom n).upBy).settleAll :=
  (if_neg (not_not_intro hst)).trans (if_pos hp)

/-- A switch-off that is done ends in RET where the retention bit is set, and in OFF otherwise (R67). -/
theorem domainSwitchOffDone_ends (hst : (d.dom n).st = .switchingOff) (hp : (d.dom n).pend ≠ .up) :
    domainSwitchOffDone n d =
      if d.retains n then (d.setDom n { st := .ret }).settleAll else ((d.setDom n {}).domainOff n).settleAll :=
  (if_neg (not_not_intro hst)).trans (if_neg hp)

end

/-- Settles O6: one row of the domain state table for each event, by the lemmas above. -/
theorem domainsFollowTheirTable : Obligations.DomainsFollowTheirTable := by
  refine ⟨?switchOn, ?powerUp, ?drained, ?drainTimeout, ?drainRetry, ?isolated, ?switchedOff⟩
  case switchOn =>
    intro d n hw hlow hgap
    refine Answers.intro (f := domainSwitchOnStart n) (fun _ => rfl) ?_
    rw [domainSwitchOnStart_starts hw hlow hgap]
    exact ⟨rfl, rfl⟩
  case powerUp =>
    intro d n e h1 h30 hst hs he
    refine Answers.intro (f := domainPowerUpDone n) (fun _ => rfl) ?_
    rw [domainPowerUpDone_ends h1 h30 hst hs he]
    exact ⟨fun hp => by rw [if_neg hp], fun hp => by rw [if_pos hp]⟩
  case drained =>
    exact fun d n e he hst hdr => Answers.intro (f := domainDrainDone n) (fun _ => rfl)
      (domainDrainDone_isolates he hst hdr)
  case drainTimeout =>
    exact fun d n e he hst => Answers.intro (f := domainDrainTimeout n) (fun _ => rfl)
      (domainDrainTimeout_refuses he hst)
  case drainRetry =>
    rintro d n e hst hp ht rfl
    exact Answers.intro (f := domainDrainRetry n) (fun _ => rfl) (domainDrainRetry_drains hst hp ht)
  case isolated =>
    intro d n e hst
    refine Answers.intro (f := domainIsolationDone n) (fun _ => rfl)
      ⟨domainIsolationDone_off hst, fun hp h17 => ?_, fun hp h17 he => ?_⟩
    · rw [domainIsolationDone_aborts hst hp rfl, if_neg h17]
    · rw [domainIsolationDone_aborts hst hp he, if_pos h17]
  case switchedOff =>
    intro d n hst
    refine Answers.intro (f := domainSwitchOffDone n) (fun _ => rfl)
      ⟨fun hp hr => ?_, fun hp hr => ?_, domainSwitchOffDone_aborts hst⟩
    · rw [domainSwitchOffDone_ends hst hp, if_neg (by simp [hr])]
    · rw [domainSwitchOffDone_ends hst hp, if_pos hr]

/-! The drain limit PWR_DRAIN_MAX (R6, R7, R64). -/

/-- The row of PWR_DRAIN_MAX in the register map: LIMIT in bits 15:0, the rest reserved. -/
def drainMaxRow : RegRow := { base := Reg.pwrDrainMax, count := 1, stride := 4, dom := 0, reset := 0x64, rw := 0xFFFF }

theorem regAt_pwrDrainMax : regAt Reg.pwrDrainMax = some (drainMaxRow, 0) := by decide +kernel

/-- LIMIT is the lower half of the word. -/
theorem testBit_limitMask (i : Nat) : (0xFFFF : Nat).testBit i = decide (i < 16) :=
  Nat.testBit_two_pow_sub_one 16 i

/-- The reserved bits of a written word are its upper half, so just the words of 65,536 and more hit them. -/
theorem drainMaxRow_hitsReserved (w : Word) : drainMaxRow.hitsReserved w.toNat = decide (65536 ≤ w.toNat) := by
  have hupper : w.toNat &&& (0xFFFFFFFF ^^^ 0xFFFF) = w.toNat / 2 ^ 16 * 2 ^ 16 := by
    apply Nat.eq_of_testBit_eq
    intro i
    rw [Nat.testBit_and, Nat.testBit_mul_two_pow, Nat.testBit_div_two_pow]
    by_cases hi : i < 32
    · rw [testBit_complement32 _ _ hi, testBit_limitMask]
      by_cases h16 : 16 ≤ i
      · simp [h16, Nat.not_lt.mpr h16]
      · simp [h16, Nat.not_le.mp h16]
    · have hw : w.toNat.testBit i = false := BitVec.getLsbD_of_ge w i (Nat.not_lt.mp hi)
      have h16 : 16 ≤ i := by omega
      simp [hw, h16]
  have hknown : drainMaxRow.known = 0xFFFF := rfl
  rw [RegRow.hitsReserved, hknown, hupper, Bool.eq_iff_iff, bne_iff_ne, decide_eq_true_eq]
  omega

/-- A plain write over `old` takes LIMIT from the written word and keeps the upper half. -/
theorem drainMaxRow_stored (before old w : Word) :
    drainMaxRow.stored false Reg.pwrDrainMax before old w = putBits old 0 16 w.toNat := by
  have htakes (i : Nat) : drainMaxRow.takes false i = decide (i < 16) := by
    simp [RegRow.takes, drainMaxRow, testBit_limitMask]
  apply BitVec.eq_of_getLsbD_eq
  intro i hi
  have hold : old.toNat.testBit i = old.getLsbD i := rfl
  have hother : Reg.pwrDrainMax ≠ Reg.errRsvdWrite := by decide
  have hmerge : (drainMaxRow.merge false old.toNat w.toNat).testBit i =
      bif decide (i < 16) then w.toNat.testBit i else old.getLsbD i := by
    rw [RegRow.merge_bit _ _ _ _ _ hi, htakes, hold]
    simp [drainMaxRow]
  have hplain : ¬ (decide (Reg.pwrDrainMax = Reg.errRsvdWrite) && drainMaxRow.hitsReserved w.toNat) = true := by
    rw [decide_eq_false hother, Bool.false_and]
    exact Bool.false_ne_true
  rw [RegRow.stored, if_neg hplain, BitVec.getLsbD_ofNat, Nat.testBit_or, hmerge, getLsbD_putBits _ _ _ _ _ (by decide)]
  by_cases h16 : i < 16 <;> simp [h16, hi, drainMaxRow]

/-- LIMIT replaced, written out in masks. -/
theorem putBits_limit (old w : Word) :
    putBits old 0 16 w.toNat = (old &&& 0xFFFF0000#32) ||| (w &&& 0xFFFF#32) := by
  rw [putBits, BitVec.ofNat_toNat, BitVec.setWidth_eq, BitVec.shiftLeft_zero]
  rfl

/-- Replacing LIMIT keeps the upper half. -/
theorem putBits_limit_upper (old : Word) (v : Nat) : putBits old 0 16 v >>> 16 = old >>> 16 := by
  apply BitVec.eq_of_getLsbD_eq
  intro i _
  rw [BitVec.getLsbD_ushiftRight, BitVec.getLsbD_ushiftRight, getLsbD_putBits _ _ _ _ _ (by decide), if_neg (by omega)]

section

variable {d : Dev} {who : Initiator} {w : Word}

theorem Dev.regWrite_drainMax :
    d.regWrite who Reg.pwrDrainMax w =
      if w.toNat % 65536 = 0 then d.errRsvd who true Reg.pwrDrainMax else d.plainWrite who Reg.pwrDrainMax w := by
  have hlimit : (decide (wBits w 15 0 = 0) = true) = (w.toNat % 65536 = 0) := by
    rw [decide_eq_true_eq]
    rfl
  calc d.regWrite who Reg.pwrDrainMax w = d.checkedBy true (wBits w 15 0 = 0) who Reg.pwrDrainMax w := rfl
    _ = _ := by simp only [Dev.checkedBy, Dev.rejectWrite, hlimit, Bool.not_true, Bool.false_eq_true, if_false]

/-- Only a word that hits the reserved upper half leaves a record (R7). -/
theorem Dev.plainWrite_drainMax {e : Dev}
    (he : e = if w.toNat < 65536 then d else d.errRsvd who false Reg.pwrDrainMax) :
    d.plainWrite who Reg.pwrDrainMax w = e.wr Fld.pwrDrainMax_limit w.toNat := by
  have hrecord : d.rsvd who Reg.pwrDrainMax w = e := by
    simp only [Dev.rsvd, regAt_pwrDrainMax, drainMaxRow_hitsReserved, decide_eq_true_eq, he]
    by_cases hw : w.toNat < 65536
    · rw [if_pos hw, if_neg (Nat.not_le.mpr hw)]
    · rw [if_neg hw, if_pos (Nat.not_lt.mp hw)]
  simp only [Dev.plainWrite, regAt_pwrDrainMax, hrecord, drainMaxRow_stored]
  rfl

end

/-- Settles O56: a write with LIMIT 0 is rejected, any other writes the field LIMIT. -/
theorem drainLimitTakesItsRange : Obligations.DrainLimitTakesItsRange := by
  refine ⟨by decide +kernel, by rw [regAt_pwrDrainMax]; rfl, fun d e who w hinv he => ⟨fun h0 => ?_, fun h0 => ?_⟩⟩
  · rw [Dev.regWrite_drainMax, if_pos h0]
  · have hwf : regsWf e.regs = true := by
      apply Dev.inv_regs
      rw [he]
      split
      · exact hinv
      · exact Dev.errRsvd_inv _ _ _ _ hinv
    rw [Dev.regWrite_drainMax, if_neg h0, Dev.plainWrite_drainMax he]
    refine ⟨?_, Dev.rd_wr _ _ _ _ hwf (by decide), ?_, fun a ha => ?_⟩
    · rw [← putBits_limit]
      rfl
    · rw [Dev.reg_wr _ _ _ _ _ hwf]
      exact putBits_limit_upper _ _
    · rw [Dev.reg_wr _ _ _ _ _ hwf]
      exact if_neg ha

/-! Wake sources (R73–R77, R159, R160). -/

section

variable {d : Dev}

/-- WAKEn takes its level, and wakes on the edge or the level that its configuration gives (R73). -/
theorem wakePin_takes {n : Nat} {level : Bool} {e : Dev} (hn : n < 4)
    (he : e = { d with pwr := { d.pwr with wakeLevels := putAt n level d.pwr.wakeLevels } }) :
    wakePin n level d =
      if ((e.pinCfg n).testBit 3 && ((bitsOf (e.pinCfg n) 2 1 = 2 && !(d.pwr.wakeLevels.getD n false) && level) ||
        (bitsOf (e.pinCfg n) 2 1 = 3 && d.pwr.wakeLevels.getD n false && !level))) || e.levelWake n
      then e.wake (voteBit n) else e := by
  subst he
  exact if_neg (Nat.not_le.mpr hn)

/-- The compare that fires is disarmed until PWR_WAKE_TIME_HI is written again (R77, the choice of log 154). -/
theorem wakeTimerCompare_fires (ha : d.pwr.compareArmed = true) (hen : d.is Fld.pwrWakeCfg_timerEn = true)
    (ht : d.wakeTime ≤ d.tmb) :
    wakeTimerCompare d = ({ d with pwr := { d.pwr with compareArmed := false } } : Dev).wake (voteBit 5) :=
  if_pos (by simp only [ha, hen, ht, decide_true, Bool.and_self])

theorem wakeTimerCompare_waits (h : d.is Fld.pwrWakeCfg_timerEn = false ∨ d.tmb < d.wakeTime) :
    wakeTimerCompare d = d := by
  refine if_neg fun hfires => ?_
  simp only [Bool.and_eq_true, decide_eq_true_eq] at hfires
  obtain ⟨⟨-, hen⟩, ht⟩ := hfires
  rcases h with hoff | hlate
  · exact Bool.false_ne_true (hoff.symm.trans hen)
  · exact Nat.not_le.mpr hlate ht

/-- Address `a` is the one that PWR_WURX_ADDR gives the enabled receiver (R76). -/
def Dev.wakesOwn (d : Dev) (a : Nat) : Bool :=
  a ≠ 0 && d.is Fld.pwrWakeCfg_wurxEn && (d.reg Reg.pwrWurxAddr).toNat = a

/-- Address `a` is the fallback address of the fuses, and the fallback is active (R76). -/
def Dev.wakesFallback (d : Dev) (a : Nat) : Bool := a ≠ 0 && d.pwr.fallback && d.fuse Fuse.wurx = a

theorem Dev.wakesOwn_false {a : Nat} (h : d.is Fld.pwrWakeCfg_wurxEn = false ∨ (d.reg Reg.pwrWurxAddr).toNat ≠ a) :
    d.wakesOwn a = false := by
  rcases h with h | h <;> simp [Dev.wakesOwn, h]

theorem Dev.wakesFallback_false {a : Nat} (h : d.pwr.fallback = false ∨ d.fuse Fuse.wurx ≠ a) :
    d.wakesFallback a = false := by
  rcases h with h | h <;> simp [Dev.wakesFallback, h]

/-- A telegram with address `a`, heard while no chain of the band has sent for 12,000 µs, wakes with cause 4 for the
configured address and with cause 7 for the fallback address (R76, R159, R160; the interval is that of log 172). -/
theorem wurxTelegramMatch_heard {chips : List Bool} {a : Nat} (hon : d.domSt 29 = .on)
    (hquiet : ∀ n ∈ (if d.is Fld.pwrWurxCfg_band then [2, 3] else [0, 1]),
      d.txActive n = false ∧ ∀ u, alGet n d.pwr.txEnd = some u → u + usTicks 12000 ≤ d.tmb)
    (hc : telegramAddr chips = some a) :
    wurxTelegramMatch chips d =
      if d.wakesOwn a || d.wakesFallback a then
        d.wake (b2n (d.wakesOwn a) * voteBit 4 + b2n (d.wakesFallback a) * voteBit 7)
      else d := by
  unfold wurxTelegramMatch
  extract_lets sub sending
  have hsilent : sending = false := by
    refine List.any_eq_false.mpr fun n hn => ?_
    obtain ⟨hidle, hgap⟩ := hquiet n hn
    cases hu : alGet n d.pwr.txEnd with
    | none => simp [hidle]
    | some u => simp [hidle, hgap u hu]
  rw [if_neg (by simp [hon, hsilent]), hc]
  rfl

end

/-- Settles O8: each wake source, by the lemmas above. -/
theorem wakeSourcesWake : Obligations.WakeSourcesWake := by
  refine ⟨?pin, ?arm, ?compare, ?telegram⟩
  case pin =>
    exact fun d n level e hn he => Answers.intro (f := wakePin n level) (fun _ => rfl) (wakePin_takes hn he)
  case arm =>
    rintro d w e rfl
    exact Answers.intro (f := pwrWakeTimeHiWrite w) (fun _ => rfl)
      ⟨fun hen ht => wakeTimerCompare_fires rfl hen ht, wakeTimerCompare_waits⟩
  case compare =>
    exact fun d ha hen ht => Answers.intro (f := wakeTimerCompare) (fun _ => rfl) (wakeTimerCompare_fires ha hen ht)
  case telegram =>
    intro d chips a hon hquiet hc ha
    refine Answers.intro (f := wurxTelegramMatch chips) (fun _ => rfl) ?_
    rw [wurxTelegramMatch_heard hon hquiet hc]
    refine ⟨fun hen haddr hnofall => ?_, fun hnoown hfb hfuse => ?_, fun hnoown hnofall => ?_⟩
    · have hown : d.wakesOwn a = true := by simp [Dev.wakesOwn, ha, hen, haddr]
      rw [hown, Dev.wakesFallback_false hnofall]
      rfl
    · have hfall : d.wakesFallback a = true := by simp [Dev.wakesFallback, ha, hfb, hfuse]
      rw [hfall, Dev.wakesOwn_false hnoown]
      rfl
    · rw [Dev.wakesOwn_false hnoown, Dev.wakesFallback_false hnofall]
      rfl

/-! The watch sequencer (R78–R84). -/

section

variable {d : Dev}

/-- With channel entries that the band allows, a write of PWR_WATCH_CTRL is stored, and EN restarts or stops the sequencer
(R78, R80). -/
theorem pwrWatchCtrlWrite_valid {who : Initiator} {w : Word} {e : Dev}
    (hv : ∀ n, n < 4 → w.toNat.testBit 0 = true → watchChInvalid (wBits w 1 1) (d.reg (Reg.pwrWatchCh + 4 * n)) = false)
    (he : e = d.plainWrite who Reg.pwrWatchCtrl w) :
    pwrWatchCtrlWrite who w d =
      if w.toNat.testBit 0 then
        (({ e with pwr := { e.pwr with watchVote := none, hits := 0 } } : Dev).wr Fld.pwrWatchStatus_state
          (if e.domSt 17 = .off then 1 else 4)).settleAll
      else if e.rd Fld.pwrWatchStatus_state = 2 ∨ e.rd Fld.pwrWatchStatus_state = 3 then e
      else e.wr Fld.pwrWatchStatus_state 0 := by
  have hstored : ¬ (w.toNat.testBit 0 && (List.range 4).any fun n =>
      watchChInvalid (wBits w 1 1) (d.reg (Reg.pwrWatchCh + 4 * n))) = true := by
    simp only [Bool.and_eq_true, List.any_eq_true, List.mem_range]
    rintro ⟨hen, n, hn, hbad⟩
    exact Bool.false_ne_true ((hv n hn hen).symm.trans hbad)
  subst he
  exact if_neg hstored

/-- A tick of the sleeping sequencer takes the watch registers and votes for the chain; a rail that is not good skips the
wake, which then does not count (R78, the choice of log 154). -/
theorem watchPeriodTick_wakes {e f g : Dev} (hen : d.is Fld.pwrWatchCtrl_en = true) (h17 : d.domSt 17 = .off)
    (hst : d.rd Fld.pwrWatchStatus_state = 1)
    (he : e = { d with pwr := { d.pwr with watchCfg := [Reg.pwrWatchCtrl, Reg.pwrWatchCh, Reg.pwrWatchCh + 4,
      Reg.pwrWatchCh + 8, Reg.pwrWatchCh + 12].map d.reg } })
    (hf : f = if e.rd Fld.pwrWatchPeriod_periodUs < 50 + e.rd Fld.pwrWatchDwell_dwellUs
      then e.wr Fld.pwrWatchStatus_periodStretched 1 else e)
    (hg : g = ({ f with pwr := { f.pwr with watchVote := some f.watchDomain } } : Dev).settleAll) :
    watchPeriodTick d =
      if f.railGood f.watchDomain then
        (g.wr Fld.pwrWatchCount_count (g.rd Fld.pwrWatchCount_count + 1)).wr Fld.pwrWatchStatus_state 2
      else ({ g with pwr := { g.pwr with hits := 0 } } : Dev).watchSleep := by
  unfold watchPeriodTick
  rw [if_neg (by simp [hen, h17, hst]), ← he]
  simp only [decide_eq_true_eq]
  rw [← hf, ← hg]

theorem watchGainSettled_dwells (hst : d.rd Fld.pwrWatchStatus_state = 2) (hon : d.domSt d.watchDomain = .on)
    (hlock : (d.lo (if d.watchDomain = 15 then 1 else 0)).lock.isSome = true) :
    watchGainSettled d = (d.setChainState (d.watchDomain - 11) 5).wr Fld.pwrWatchStatus_state 3 :=
  if_pos (by simp only [hst, hon, hlock, decide_true, Bool.and_self])

section

variable {energy corr hits : List Nat} (hst : d.rd Fld.pwrWatchStatus_state = 3)
  (hh : hits = (List.range 4).filter fun n =>
    watchHit (d.pwr.watchCfg.getD (n + 1) 0) (energy.getD n 0) (corr.getD n 0))
include hst hh

theorem watchDwellEnd_quiet (h : hits = []) :
    watchDwellEnd energy corr d = ({ d with pwr := { d.pwr with hits := 0 } } : Dev).watchSleep := by
  subst hh
  exact (if_neg (not_not_intro hst)).trans (if_pos (List.isEmpty_iff.mpr h))

/-- A dwell with a hit records one of its hits, and triggers at the CONFIRM count (R83; which of several hits is the free
choice of log 35). -/
theorem watchDwellEnd_hit (h : hits ≠ []) :
    ∃ n ∈ hits, ∃ e : Dev, e = ((({ (d.free 2).2 with pwr := { d.pwr with hits := d.pwr.hits + 1 } } : Dev).wr
        Fld.pwrWatchStatus_hitCh n).wr Fld.pwrWatchStatus_hitEnergy (energy.getD n 0)).wr
        Fld.pwrWatchStatus_hitCorr (corr.getD n 0) ∧
      watchDwellEnd energy corr d =
        if d.pwr.hits + 1 < bitsOf (d.pwr.watchCfg.getD 0 0).toNat 3 2 + 1 then e.watchSleep
        else ((e.wr Fld.pwrWatchStatus_state 5).raise 0x5B).wake (voteBit 6) := by
  have hchoice : (d.free 2).1 % hits.length < hits.length := Nat.mod_lt _ (List.length_pos_iff.mpr h)
  have hsome : ¬ hits.isEmpty = true := mt List.isEmpty_iff.mp h
  have hmem : hits.getD ((d.free 2).1 % hits.length) 0 ∈ hits := by
    rw [List.getD_eq_getElem?_getD, List.getElem?_eq_getElem hchoice, Option.getD_some]
    exact List.getElem_mem hchoice
  refine ⟨_, hmem, _, rfl, ?_⟩
  subst hh
  exact (if_neg (not_not_intro hst)).trans (if_neg hsome)

end

/-- 10 ms after a trigger the watched chain is given back and its vote goes (R83). -/
theorem watchVoteRelease_releases {e : Dev} (hv : d.pwr.watchVote.isSome = true)
    (h2 : d.rd Fld.pwrWatchStatus_state ≠ 2) (h3 : d.rd Fld.pwrWatchStatus_state ≠ 3)
    (he : e = if d.chainState (d.watchDomain - 11) = 5 then d.setChainState (d.watchDomain - 11) 2 else d) :
    watchVoteRelease d = ({ e with pwr := { e.pwr with watchVote := none } } : Dev).settleAll := by
  subst he
  exact if_pos (by simp [hv, h2, h3])

end

/-- Settles O9: the steps of the watch sequencer, one lemma above for each. -/
theorem watchSequencerFollowsItsSteps : Obligations.WatchSequencerFollowsItsSteps := by
  refine ⟨?control, ?tick, ?settled, ?dwell, ?release⟩
  case control =>
    intro d who w e hv he
    refine Answers.intro (f := pwrWatchCtrlWrite who w) (fun _ => rfl) ?_
    rw [pwrWatchCtrlWrite_valid hv he]
    refine ⟨fun hen => if_pos hen, fun hen hwake => ?_, fun hen h2 h3 => ?_⟩ <;> rw [if_neg (by simp [hen])]
    · exact if_pos hwake
    · exact if_neg (not_or.mpr ⟨h2, h3⟩)
  case tick =>
    intro d e f hen h17 hst he hf
    refine Answers.intro (f := watchPeriodTick) (fun _ => rfl) ?_
    rw [watchPeriodTick_wakes hen h17 hst he hf rfl]
    exact ⟨fun hgood => ⟨_, rfl, if_pos hgood⟩, fun hbad => ⟨_, rfl, if_neg (by simp [hbad])⟩⟩
  case settled =>
    exact fun d hst hon hlock => Answers.intro (f := watchGainSettled) (fun _ => rfl)
      (watchGainSettled_dwells hst hon hlock)
  case dwell =>
    exact fun d energy corr hits hst hh => Answers.intro (f := watchDwellEnd energy corr) (fun _ => rfl)
      ⟨watchDwellEnd_quiet hst hh, watchDwellEnd_hit hst hh⟩
  case release =>
    exact fun d e hv h2 h3 he => Answers.intro (f := watchVoteRelease) (fun _ => rfl)
      (watchVoteRelease_releases hv h2 h3 he)

/-- Settles O51: reset lists no register, so each reads the reset value of its row. -/
theorem resetGivesTheRegistersTheirValues : Obligations.ResetGivesTheRegistersTheirValues := by
  have hreset (a : Nat) : State.reset.dev.reg a = regReset a := rfl
  rw [Obligations.ResetGivesTheRegistersTheirValues]
  simp only [hreset]
  decide +kernel

end Sys2Proof.Machine
end

section
/-! SUPPORT. The commands of RFS_CAL_CMD (R93, R94) and the coexistence unit (R108–R110, R113): what each command, write
or edge comes to; the statements of 05_synthesizers_radio_states.md settled with these facts. -/

namespace Sys2Proof.Machine

open Sys2Proof

/-! The word of RFS_CAL_CMD (R93). -/

section

variable {op lo c : Nat} (hop : op < 8) (hlo : lo < 8) (hc : c < 256)

include hop hlo hc

theorem calWord_toNat : (calWord op lo c).toNat = c * 256 + lo * 16 + op := by
  rw [calWord, BitVec.toNat_ofNat]
  omega

theorem wBits_calWord_op : wBits (calWord op lo c) 2 0 = op := by
  rw [wBits, bitsOf, calWord_toNat hop hlo hc, Nat.shiftRight_eq_div_pow]
  omega

theorem wBits_calWord_lo : wBits (calWord op lo c) 6 4 = lo := by
  rw [wBits, bitsOf, calWord_toNat hop hlo hc, Nat.shiftRight_eq_div_pow]
  omega

theorem wBits_calWord_chan : wBits (calWord op lo c) 15 8 = c := by
  rw [wBits, bitsOf, calWord_toNat hop hlo hc, Nat.shiftRight_eq_div_pow]
  omega

end

/-! Commands of RFS_CAL_CMD (R93, R94). -/

/-- What an operation that runs comes to: it starts when no command runs, waits when one runs and none is pending, and
counts as dropped otherwise (R94). -/
def CalTaken (op lo c : Nat) (e t : Dev) : Prop :=
  (e.rfs.cmd = none → t = e.calRun op lo c) ∧
  (e.rfs.cmd.isSome = true → e.rfs.pend = none →
    t = ({ e with rfs := { e.rfs with pend := some (op, lo, c) } } : Dev).calStatus) ∧
  (e.rfs.cmd.isSome = true → e.rfs.pend.isSome = true → t = e.bump Fld.rfsCalStatus_dropped)

theorem CalTaken.intro (op lo c : Nat) (e : Dev) :
    CalTaken op lo c e
      (if e.rfs.cmd.isNone then e.calRun op lo c
       else if e.rfs.pend.isNone then ({ e with rfs := { e.rfs with pend := some (op, lo, c) } } : Dev).calStatus
       else e.bump Fld.rfsCalStatus_dropped) := by
  have hsome {α : Type} {o : Option α} (h : o.isSome = true) : ¬ o.isNone = true := by
    simpa using Option.isSome_iff_ne_none.mp h
  refine ⟨fun hidle => ?_, fun hruns hfree => ?_, fun hruns hfull => ?_⟩
  · rw [if_pos (Option.isNone_iff_eq_none.mpr hidle)]
  · rw [if_neg (hsome hruns), if_pos (Option.isNone_iff_eq_none.mpr hfree)]
  · rw [if_neg (hsome hruns), if_neg (hsome hfull)]

section

variable {d e : Dev} {who : Initiator} {op lo c : Nat} (hwho : d.secureOrHost who = true) (hlo : lo < 6) (hc : c < 256)

include hwho hlo hc

/-- OP 1, 2 and 5 (R93, R94). -/
theorem Dev.rfsCalCmd_runs (hop : op = 1 ∨ op = 2 ∨ op = 5) (he : e = d.rsvd who Reg.rfsCalCmd (calWord op lo c)) :
    CalTaken op lo c e (d.rfsCalCmd who (calWord op lo c)) := by
  have hvalid : ¬ (6 ≤ op ∨ 6 ≤ lo) := by omega
  simp (disch := omega) only [Dev.rfsCalCmd, wBits_calWord_op, wBits_calWord_lo, wBits_calWord_chan, hwho, ← he,
    if_neg hvalid, Bool.not_true, Bool.false_eq_true, if_false]
  rcases hop with rfl | rfl | rfl <;> exact CalTaken.intro _ _ _ _

/-- OP 3 (R93). -/
theorem Dev.rfsCalCmd_invalidatesOne (he : e = d.rsvd who Reg.rfsCalCmd (calWord 3 lo c)) :
    d.rfsCalCmd who (calWord 3 lo c) =
      if 2 ≤ lo && !e.allowed (decide (4 ≤ lo)) c then (e.wr Fld.rfsCalStatus_result 4).raise 0x37
      else e.calInvalidate (e.calEntry lo c).toList := by
  have hvalid : ¬ (6 ≤ 3 ∨ 6 ≤ lo) := by omega
  simp (disch := omega) only [Dev.rfsCalCmd, wBits_calWord_op, wBits_calWord_lo, wBits_calWord_chan, hwho, ← he,
    if_neg hvalid, Bool.not_true, Bool.false_eq_true, if_false]
  cases e.calEntry lo c <;> rfl

/-- OP 4 (R93). -/
theorem Dev.rfsCalCmd_invalidatesAll :
    d.rfsCalCmd who (calWord 4 lo c) = (d.rsvd who Reg.rfsCalCmd (calWord 4 lo c)).calInvalidate (List.range 162) := by
  have hvalid : ¬ (6 ≤ 4 ∨ 6 ≤ lo) := by omega
  simp (disch := omega) only [Dev.rfsCalCmd, wBits_calWord_op, wBits_calWord_lo, hwho, if_neg hvalid, Bool.not_true,
    Bool.false_eq_true, if_false]

end

/-- A command with nothing left ends, and the pending one starts before the votes of the old one go (R93, R94). -/
theorem calCommandEnd_ends {d : Dev} {c : CalCmd} (hcmd : d.rfs.cmd = some c) (hdone : d.calDone = true)
    (hstage : c.op ≠ 5 ∨ c.stage = 0) :
    (d.rfs.pend = none → calCommandEnd d = d.calEnd c.result) ∧
    (∀ op lo ch, d.rfs.pend = some (op, lo, ch) →
      calCommandEnd d = ((({ d with rfs := { d.rfs with cmd := none, pend := none } } : Dev).wr
        Fld.rfsCalStatus_result c.result).raise 0x37).calRun op lo ch) := by
  have hover : ¬ (!d.calDone || (c.op = 5 && c.stage != 0)) = true := by
    rcases hstage with h | h <;> simp [hdone, h]
  unfold calCommandEnd
  simp only [hcmd]
  rw [if_neg hover]
  exact ⟨fun hp => by rw [hp], fun op lo ch hp => by rw [hp]⟩

/-- Settles O10: the operations of RFS_CAL_CMD and the end of a command, by the lemmas above. -/
theorem calibrationCommandsRun : Obligations.CalibrationCommandsRun := by
  refine ⟨?one, ?every, ?invalidateOne, ?invalidateAll, ?stages, ?ends⟩
  case one =>
    exact fun d who lo c e hwho hlo hc he =>
      Answers.intro (f := fun d => d.rfsCalCmd who (calWord 1 lo c)) (fun _ => rfl)
        (Dev.rfsCalCmd_runs hwho hlo hc (.inl rfl) he)
  case every =>
    exact fun d who lo e hwho hlo he => Answers.intro (f := fun d => d.rfsCalCmd who (calWord 2 lo 0)) (fun _ => rfl)
      (Dev.rfsCalCmd_runs hwho hlo (by decide) (.inr (.inl rfl)) he)
  case invalidateOne =>
    intro d who lo c e hwho hlo hc he
    refine Answers.intro (f := fun d => d.rfsCalCmd who (calWord 3 lo c)) (fun _ => rfl) ?_
    rw [Dev.rfsCalCmd_invalidatesOne hwho hlo hc he]
    refine ⟨fun hallowed => ?_, fun h2 hbarred => if_pos (by simp [h2, hbarred])⟩
    have hgoes : ¬ (2 ≤ lo && !e.allowed (decide (4 ≤ lo)) c) = true := by
      simp only [Bool.and_eq_true, decide_eq_true_eq, Bool.not_eq_true']
      rintro ⟨h2, hbarred⟩
      rcases hallowed with hband | hmay
      · exact Nat.not_le.mpr hband h2
      · exact Bool.false_ne_true (hbarred.symm.trans hmay)
    rw [if_neg hgoes]
    cases e.calEntry lo c <;> rfl
  case invalidateAll =>
    exact fun d who hwho => Answers.intro (f := fun d => d.rfsCalCmd who (calWord 4 0 0)) (fun _ => rfl)
      (Dev.rfsCalCmd_invalidatesAll hwho (by decide) (by decide))
  case stages =>
    exact fun d who e hwho he => Answers.intro (f := fun d => d.rfsCalCmd who (calWord 5 0 0)) (fun _ => rfl)
      (Dev.rfsCalCmd_runs hwho (by decide) (by decide) (.inr (.inr rfl)) he)
  case ends =>
    exact fun d c hcmd hdone hstage => Answers.intro (f := calCommandEnd) (fun _ => rfl)
      (calCommandEnd_ends hcmd hdone hstage)

/-! The coexistence unit (R108–R110, R113). -/

section

variable {d : Dev}

theorem coexCfgWrite_stores {who : Initiator} {w : Word} (hup : d.domUp 1 = true) (hwho : d.secureOrHost who = true)
    (hrole : wBits w 1 0 ≠ 3) : coexCfgWrite who w d = d.plainWrite who Reg.coexCfg w := by
  simp only [coexCfgWrite, hup, hwho, if_neg hrole, Bool.not_true, Bool.false_eq_true, if_false]

/-- A ROLE that differs takes effect once the chains taking part are quiet (R108). -/
theorem coexRoleChange_takes (hup : d.domUp 1 = true)
    (hquiet : ∀ n ∈ d.coexChains, d.chainShown (6 + n) = 0 ∨ d.chainShown (6 + n) = 2)
    (hrole : d.coex.role ≠ d.rd Fld.coexCfg_role) :
    coexRoleChange d = ({ d with coex := { d.coex with role := d.rd Fld.coexCfg_role } } : Dev).coexUpdate := by
  have hall : (d.coexChains.all fun n => d.chainShown (6 + n) = 0 || d.chainShown (6 + n) = 2) = true :=
    List.all_eq_true.mpr fun n hn => by simpa using hquiet n hn
  exact if_neg (by simp [hup, hall, hrole])

theorem coexRequestAssert_chain {n : Nat} {f : TxFrame} (hf : d.txOn n = some f) (hrole : d.coex.role = 1)
    (hpart : d.coexPart n = true) (hup : d.domUp 1 = true) (hnew : ∀ r ∈ d.coex.reqs, r.1 ≠ f.id) :
    coexRequestAssert (.chain n) d = d.coexAdd f.id f.urgent := by
  have hnone : (d.coex.reqs.any fun r => r.1 = f.id) = false :=
    List.any_eq_false.mpr fun r hr => by simpa using hnew r hr
  simp only [coexRequestAssert, hf]
  exact if_neg (by simp only [hrole, hpart, hup, hnone]; decide)

theorem coexRequestAssert_window {s : Nat} {w : NodeWin} (hrole : d.coex.role = 1) (hup : d.domUp 1 = true)
    (hrx : d.is Fld.coexCfg_rxReq = true) (hnew : ∀ r ∈ d.coex.reqs, r.1 ≠ 2 ^ 32 + s) (hw : w ∈ d.tempo.wins)
    (hslot : w.slot = s) (hphase : w.phase ≠ .releasing) (hsub : w.sub = true → d.is Fld.coexCfg_subghz = true) :
    coexRequestAssert (.window s) d = d.coexAdd (2 ^ 32 + s) true := by
  have hnone : (d.coex.reqs.any fun r => r.1 = 2 ^ 32 + s) = false :=
    List.any_eq_false.mpr fun r hr => by simpa using hnew r hr
  have htakesPart : (!w.sub || d.is Fld.coexCfg_subghz) = true := by
    cases hs : w.sub with
    | false => rfl
    | true => simp [hsub hs]
  have hopen : (d.tempo.wins.any fun w => w.slot = s && w.phase != .releasing && (!w.sub || d.is Fld.coexCfg_subghz)) =
      true := by
    refine List.any_eq_true.mpr ⟨w, hw, ?_⟩
    rw [htakesPart]
    simpa [hslot] using hphase
  exact if_pos (by simp only [hrole, hup, hrx, hnone, hopen]; decide)

/-- In the client role a falling grant counts, and may stop, each frame on air; in the other roles the level is only
taken (R109; the latter is the choice of log 54). -/
theorem coexGntFall_falls {e : Dev} (he : e = (d.coexLevel 2 false).coexUpdate) :
    (e.coex.role = 1 → e.domUp 1 = true → coexGntFall d = e.coexChains.foldl (fun e n =>
      if e.chainState (6 + n) = 6 then
        (if (e.bump Fld.coexStat1_revoked).is Fld.coexCfg_abortOnRevoke
          then (e.bump Fld.coexStat1_revoked).txStop n Code.coexDenied
          else e.bump Fld.coexStat1_revoked)
      else e) e) ∧
    (e.coex.role ≠ 1 → coexGntFall d = e) := by
  unfold coexGntFall
  simp only [← he]
  exact ⟨fun hrole hup => if_neg (by simp [hrole, hup]), fun hrole => if_pos (by simp [hrole])⟩

/-- As arbiter the unit shows the balls of the external radio, and grants as Table 05.12 decides (R110, R113; INT_REQ
follows the committed frames by the choice of log 54). -/
theorem Dev.coexUpdate_arbiter {g : Dev} (hon : d.domSt 1 = .on) (hrole : d.coex.role = 2)
    (hg : g = ({ d with coex := { d.coex with reqs := d.coex.reqs.filter d.reqLive } } : Dev).reqIn) :
    d.coexUpdate = (g.wr Fld.coexStatus_intReq (b2n !g.coexFrames.isEmpty)).setGnt g.coexDecide := by
  subst hg
  unfold Dev.coexUpdate
  rw [if_neg (by simp [hon])]
  simp only [hrole]

theorem coexReqEdge_arbiter {req pri act : Bool} {e g : Dev} (hon : d.domSt 1 = .on) (hrole : d.coex.role = 2)
    (he : e = ((d.coexLevel 0 req).coexLevel 1 pri).coexLevel 3 act)
    (hg : g = ({ e with coex := { e.coex with reqs := e.coex.reqs.filter e.reqLive } } : Dev).reqIn) :
    coexReqEdge req pri act d =
      ((g.wr Fld.coexStatus_intReq (b2n !g.coexFrames.isEmpty)).setGnt g.coexDecide).coexYield := by
  have honE : e.domSt 1 = .on := he ▸ hon
  have hroleE : e.coex.role = 2 := he ▸ hrole
  rw [coexReqEdge, ← he, Dev.coexUpdate_arbiter honE hroleE hg]

end

/-- Settles O14: the write of COEX_CFG, the change of role, the requests and the edges, one lemma above for each. -/
theorem coexistenceFollowsItsRoles : Obligations.CoexistenceFollowsItsRoles := by
  refine ⟨?config, ?role, ?chain, ?window, ?grant, ?arbiter, ?edge⟩
  case config =>
    exact fun d who w hup hwho hrole => Answers.intro (f := coexCfgWrite who w) (fun _ => rfl)
      (coexCfgWrite_stores hup hwho hrole)
  case role =>
    exact fun d hup hquiet hrole => Answers.intro (f := coexRoleChange) (fun _ => rfl)
      (coexRoleChange_takes hup hquiet hrole)
  case chain =>
    exact fun d n f hf hrole hpart hup hnew => Answers.intro (f := coexRequestAssert (.chain n)) (fun _ => rfl)
      (coexRequestAssert_chain hf hrole hpart hup hnew)
  case window =>
    exact fun d s w hrole hup hrx hnew hw hslot hphase hsub =>
      Answers.intro (f := coexRequestAssert (.window s)) (fun _ => rfl)
        (coexRequestAssert_window hrole hup hrx hnew hw hslot hphase hsub)
  case grant =>
    exact fun d e he => Answers.intro (f := coexGntFall) (fun _ => rfl) (coexGntFall_falls he)
  case arbiter =>
    exact fun d req pri act e g hon hrole he hg => Answers.intro (f := coexReqEdge req pri act) (fun _ => rfl)
      (coexReqEdge_arbiter hon hrole he hg)
  case edge =>
    exact fun d req pri act _ => Answers.intro (f := coexReqEdge req pri act) (fun _ => rfl) rfl

end Sys2Proof.Machine
end

section
/-! SUPPORT. The wideband receiver: gain control and castling (R117–R121), the noise estimates (R136, R137), detections (R122,
R123, R126, R132) and lanes (R125, R127, R130, R134): what each command comes to where it acts; the statements of
06_wideband_receive.md settled with these facts. -/

namespace Sys2Proof.Machine

open Sys2Proof

/-! Decisions of AUTO gain control (R117, R118). -/

section

variable {d : Dev} {m : Nat} {peak : Int}

/-- Gain control decides for chain `m`: its band is in AUTO mode, it receives, and no castling of it is announced. -/
structure Dev.GainDecides (d : Dev) (m : Nat) : Prop where
  isChain : m < 6
  up : d.domUp 17 = true
  receives : d.receiving m = true
  auto : d.rd Fld.rxwGainCfg_mode (bandOfChain m) = 0
  unannounced : d.castlingOf m = none

/-- The guard that the window and the quiet interval share. -/
theorem Dev.GainDecides.passes (h : d.GainDecides m) :
    ¬ (decide (6 ≤ m) || !d.domUp 17 || !d.receiving m || decide (d.rd Fld.rxwGainCfg_mode (bandOfChain m) ≠ 0) ||
      (d.castlingOf m).isSome) = true := by
  obtain ⟨hm, hup, hrx, hauto, hnone⟩ := h
  simp [hm, hup, hrx, hauto, hnone]

theorem gainWindowEnd_decides (full : Nat) (h : d.GainDecides m) :
    gainWindowEnd m full peak d =
      if d.gainStep m = 0 then d.bumpBy full Fld.rxwStatAbandon_adcClip
      else if 0 < full then d.setCastling m (some (false, min 2 (d.gainStep m)))
      else if -50 * (d.rd Fld.rxwGainCfg_hi (bandOfChain m) : Int) ≤ peak then d.setCastling m (some (false, 1))
      else d :=
  if_neg h.passes

theorem gainQuietIntervalEnd_decides {n : Nat} {hi lo : Int} (h : d.GainDecides m)
    (hhi : hi = -50 * (d.rd Fld.rxwGainCfg_hi (bandOfChain m) : Int))
    (hlo : lo = -50 * (d.rd Fld.rxwGainCfg_lo (bandOfChain m) : Int))
    (hn : n = min (10 - d.gainStep m) ((hi - peak) / 602 - 1).toNat) :
    gainQuietIntervalEnd m peak d = if lo ≤ peak ∨ n = 0 then d else d.setCastling m (some (true, n)) := by
  subst hhi hlo hn
  simp only [← Bool.decide_or, decide_eq_true_eq, gainQuietIntervalEnd, if_neg h.passes]

end

/-! Castlings (R119–R121). -/

section

variable {d : Dev} {m : Nat}

/-- Chain `m` after the sample N of a castling by `n` steps: the announcement is gone, the step changed, the status registers
and the lanes on the chain record it (R119). -/
def Dev.castled (d : Dev) (m frac n : Nat) (up : Bool) : Dev :=
  let e := ((((((d.setGain m { d.rxw.gains.getD m {} with castling := none, manual := none, lastN := some d.tmb }).wr
    Fld.rxwGainStatus_step (if up then d.gainStep m + n else d.gainStep m - n) m).wr Fld.rxwGainStatus_lastN n m).wr
    Fld.rxwGainStatus_lastUp (b2n up) m).wr Fld.rxwGainStatus_lastFrac frac m).bump Fld.rxwGainStatus_castlings m).wr
    Fld.rxwGainLast_last d.tmb m
  { e with rxw := { e.rxw with lanes := e.rxw.lanes.mapIdx (laneCastled m) } }

/-- A MANUAL castling that waited is decided after the one that was announced (the choice of log 166). -/
theorem castling_castles {n : Nat} {up : Bool} (frac : Nat) (hm : m < 6) (hup : d.domUp 17 = true)
    (hc : d.castlingOf m = some (up, n)) :
    castling m frac d = ((d.rxw.gains.getD m {}).manual.elim (d.castled m frac n up)
      ((d.castled m frac n up).castleTo · m)).raise (0x16 + m) := by
  have hgoes : ¬ (decide (6 ≤ m) || !d.domUp 17) = true := by simp [hm, hup]
  simp only [castling, hc, if_neg hgoes]
  cases (d.rxw.gains.getD m {}).manual <;> rfl

theorem rxwGainCfgWrite_stores {who : Initiator} {b : Nat} {w : Word} {e : Dev} (hb : b < 2) (hup : d.domUp 17 = true)
    (hstep : getBits w 28 4 ≤ 10) (hmode : getBits w 24 2 ≠ 3) (hquiet : getBits w 16 8 ≠ 0)
    (hgap : getBits w 0 8 + 25 ≤ getBits w 8 8)
    (he : e = (if getBits w 26 2 ≠ 0 then d.errRsvd who false (Reg.rxwGainCfg + 4 * b) else d).setReg
      (Reg.rxwGainCfg + 4 * b) (w &&& ~~~ fieldMask 26 2)) :
    rxwGainCfgWrite who b w d =
      if getBits w 24 2 = 2 then
        (if b = 0 then [0, 1, 2, 3] else [4, 5]).foldl (fun e m => e.castleTo (getBits w 28 4) m) e
      else
        (if b = 0 then [0, 1, 2, 3] else [4, 5]).foldl
          (fun e m => e.setGain m { e.rxw.gains.getD m {} with manual := none }) e := by
  have hbank : ¬ (decide (2 ≤ b) || !d.domUp 17) = true := by simp [hb, hup]
  have hdefined : ¬ (decide (10 < getBits w 28 4) || decide (getBits w 24 2 = 3) || decide (getBits w 16 8 = 0) ||
      decide (getBits w 8 8 < getBits w 0 8 + 25)) = true := by
    simpa [hmode, hquiet] using And.intro hstep hgap
  subst he
  exact (if_neg hbank).trans (if_neg hdefined)

end

/-! Idle samples (R136, R137). -/

/-- The level of a power of 0 is free (the choice of log 64). -/
theorem idleSample_samples {d e : Dev} {sub : Bool} {c ant : Nat} {p : Rat} {n : Noise}
    (hok : d.idleWindowOk sub c ant = true)
    (hn : n = noiseUpdate ((alGet (noiseKey sub c ant) d.rxw.noise).getD ⟨0, 0, 0⟩) p)
    (he : e = { d with rxw := { d.rxw with noise := alSet (noiseKey sub c ant) n d.rxw.noise } }) :
    idleSample sub c ant p d =
      let lv := if 0 < n.e then (unsignedOf (noiseLevel n.e) 12, e) else e.free 12
      lv.2.setReg (noiseReg (noiseKey sub c ant))
        (BitVec.ofNat 32 (b2n (decide (n.count < 16)) * 2 ^ 31 + n.count * 65536 + lv.1)) := by
  subst hn he
  exact if_neg (by simp [hok])

/-- Settles O17: what the gain control of a chain decides, its castlings, and idle samples, one lemma above for each. -/
theorem gainControlFollowsItsRules : Obligations.GainControlFollowsItsRules := by
  refine ⟨?window, ?quiet, ?castling, ?config, ?idle⟩
  case window =>
    intro d m full peak hm hup hrx hauto hnone
    refine Answers.intro (f := gainWindowEnd m full peak) (fun _ => rfl) ?_
    rw [gainWindowEnd_decides full ⟨hm, hup, hrx, hauto, hnone⟩]
    refine ⟨fun h0 => if_pos h0, fun h0 hfull => ?_, fun h0 hfull hpeak => ?_, fun h0 hfull hpeak => ?_⟩
    · rw [if_neg h0, if_pos hfull]
    · rw [if_neg h0, if_neg (by omega), if_pos hpeak]
    · rw [if_neg h0, if_neg (by omega), if_neg (Int.not_le.mpr hpeak)]
  case quiet =>
    intro d m n peak hi lo hm hup hrx hauto hnone hhi hlo hn
    refine Answers.intro (f := gainQuietIntervalEnd m peak) (fun _ => rfl) ?_
    rw [gainQuietIntervalEnd_decides ⟨hm, hup, hrx, hauto, hnone⟩ hhi hlo hn]
    exact ⟨fun hpeak h0 => if_neg (not_or.mpr ⟨Int.not_le.mpr hpeak, h0⟩), fun h => if_pos h⟩
  case castling =>
    rintro d m frac n up e f hm hup hc rfl rfl
    refine Answers.intro (f := castling m frac) (fun _ => rfl) ?_
    rw [castling_castles frac hm hup hc]
    exact ⟨fun hno => by rw [hno]; rfl, fun s hs => by rw [hs]; rfl⟩
  case config =>
    intro d who b w e hb hup hstep hmode hquiet hgap he
    refine Answers.intro (f := rxwGainCfgWrite who b w) (fun _ => rfl) ?_
    rw [rxwGainCfgWrite_stores hb hup hstep hmode hquiet hgap he]
    exact ⟨fun h => if_neg h, fun h => if_pos h⟩
  case idle =>
    intro d sub c ant p n e hok hn he
    refine Answers.intro (f := idleSample sub c ant p) (fun _ => rfl) ?_
    rw [idleSample_samples hok hn he]
    exact ⟨fun h => by rw [if_pos h], fun h => by rw [if_neg h]⟩

/-! Detections (R122, R123, R126, R132). -/

section

variable {d : Dev} {x : Detection}

/-- A detector that sees `x`: it exists, its chain receives, and its channel is not blanked (R122). -/
structure Dev.Detects (d : Dev) (x : Detection) : Prop where
  up : d.domUp 17 = true
  defined : d.chanDefined x.sub x.chan = true
  isAntenna : x.ant < (if x.sub then 2 else 4)
  receives : d.receiving (if x.sub then 4 + x.ant else x.ant) = true
  unblanked : d.blanked x.sub x.chan = false

theorem Dev.Detects.passes (h : d.Detects x) :
    ¬ (!d.domUp 17 || !d.chanDefined x.sub x.chan || decide ((if x.sub then 2 else 4) ≤ x.ant) ||
      !d.receiving (if x.sub then 4 + x.ant else x.ant) || d.blanked x.sub x.chan) = true := by
  obtain ⟨hup, hdef, hant, hrx, hblank⟩ := h
  simpa [hup, hdef, hrx, hblank] using hant

/-- A detection within 4 µs of the frame that claimed a lane only makes its channel busy (R123). -/
theorem Dev.detect_merges {on : List Nat} (h : d.Detects x) (hon : d.lanesOn x.sub x.chan = on)
    (hc : d.criterion x (d.chanCfg x.sub x.chan) (!on.isEmpty) = true) (hm : (d.chanBusy x.sub x.chan).merged x = true) :
    d.detect x = d.chanBusy x.sub x.chan := by
  subst hon
  exact ((if_neg h.passes).trans (if_neg (by simp [hc]))).trans (if_pos (by simp [hm]))

/-- A detection that is neither merged nor the lane's own frame is taken (R123). -/
theorem Dev.detect_takes {on : List Nat} (h : d.Detects x) (hon : d.lanesOn x.sub x.chan = on)
    (hc : d.criterion x (d.chanCfg x.sub x.chan) (!on.isEmpty) = true) (hm : (d.chanBusy x.sub x.chan).merged x = false)
    (hself : on = [] ∨ x.selfTiming = false ∨ x.phaseCorr < 900) :
    d.detect x = (d.chanBusy x.sub x.chan).detectionTake x (d.chanCfg x.sub x.chan) on := by
  subst hon
  have hother : (!(d.lanesOn x.sub x.chan).isEmpty && x.selfTiming && decide (900 ≤ x.phaseCorr)) = false := by
    rcases hself with hno | htiming | hphase
    · simp [hno]
    · simp [htiming]
    · simp [hphase]
  exact ((if_neg h.passes).trans (if_neg (by simp [hc]))).trans
    (if_neg (by rw [hm, hother]; exact Bool.false_ne_true))

/-- A channel with no lane: the next free lane is allocated, or the frame is lost (R126). -/
theorem Dev.detectionTake_unused (cfg : Word) :
    (∀ k, d.freeLane x.sub = some k → d.detectionTake x cfg [] = d.laneAlloc k x false false 0) ∧
    (d.freeLane x.sub = none → d.detectionTake x cfg [] = (d.bump Fld.rxwStatDet_laneStarved).raise 0x15) :=
  ⟨fun k hk => by simp only [detectionTake, hk], fun hk => by simp only [detectionTake, hk]⟩

/-- A channel with a lane: only a level above that of the lane by the threshold counts, and two lanes are the greatest depth
(R132; of two lanes the lower gives the level, the choice of log 164). -/
theorem Dev.detectionTake_onLane (cfg : Word) (a : Nat) (rest : List Nat) :
    d.detectionTake x cfg (a :: rest) =
      if x.level < (d.lane a).level + getBits cfg 0 5 then d
      else if rest = [] then d.strongerFrame x a cfg
      else d.bump Fld.rxwForkStat2_depthIgnored := by
  cases rest <;> rfl

end

/-! Lanes: from their synchronisation to their completion (R126, R127, R130, R134, R292). -/

section

variable {d : Dev} {j : Nat}

theorem laneSyncTimeout_frees (hs : (d.lane j).phase = .sync) :
    laneSyncTimeout j d = (d.laneFree j).bump Fld.rxwStatDet_falseDetect :=
  if_pos hs

theorem freezePoint_starves (f : FreezeInfo) (hs : (d.lane j).phase = .sync) (hb : d.freeBuffer = none) :
    freezePoint j f d = (d.laneFree j).bump Fld.hciStat0_stagingEmpty := by
  simp only [freezePoint, if_neg (not_not_intro hs), hb]

theorem freezePoint_freezes {b m : Nat} {f : FreezeInfo} {n : List Rat × Bool} {x : List Cplx × Dev}
    (hs : (d.lane j).phase = .sync) (hb : d.freeBuffer = some b)
    (hm : m = (d.lane j).antMask - ((d.lane j).antMask &&& (d.lane j).lost))
    (hn : n = d.noisePowers (decide (64 ≤ j)) (d.lane j).chan m)
    (hx : x = d.weightsOr (mrcWeights (antsOf m) n.1 f.h)) :
    freezePoint j f d = ({ x.2 with staging := b :: x.2.staging } : Dev).setLane j { d.lane j with
      phase := .decode, buf := b, agcGain := f.agcGain, rssi := f.rssi, phase0 := f.phase, freqOff := f.freqOff,
      ts := x.2.tmb, tsFrac := f.tsFrac, nfInvalid := n.2, antMask := m,
      level := ((antsOf m).map fun a => f.rssi.getD a 0).foldl max 0, h := f.h, s2 := n.1, w := x.1 } := by
  subst hx hn hm
  simp only [freezePoint, if_neg (not_not_intro hs), hb]

theorem phrCheck_reads {phr : Nat} {coded : Bool} (hs : (d.lane j).phase = .decode) :
    (phrOf (d.lane j).phy phr coded = none →
      phrCheck j phr coded d = (d.laneFree j).bump Fld.rxwStatFrame_phrInvalid) ∧
    (∀ p, phrOf (d.lane j).phy phr coded = some p → phrCheck j phr coded d =
      d.setLane j { d.lane j with len := p.len, fcs16 := p.fcs16, fec := p.fec, whiten := p.whiten }) := by
  constructor
  · intro hp
    simp only [phrCheck, if_neg (not_not_intro hs), hp]
  · intro p hp
    simp only [phrCheck, if_neg (not_not_intro hs), hp]

theorem lanePostResume_posts (hs : (d.lane j).phase = .stalled) : lanePostResume j d = d.lanePost j :=
  if_pos hs

/-- Lane A of separable frames projects unless its PHR shows that its frame ends less than 40 µs after the detection (R134). -/
theorem forkChannelEstimate_projects {x : ForkEstimate} {ants : List Nat} (hs : (d.lane j).phase = .decode)
    (hf : (d.lane j).forkOrigin = true)
    (ha : ants = antsOf ((d.lane j).antMask - ((d.lane j).antMask &&& (d.lane j).lost)))
    (hb : (innerOver ants (d.lane j).s2 x.h x.h).re ≠ 0)
    (hsep : separable ants (d.lane j).s2 (d.lane j).h x.h = true) :
    forkChannelEstimate j x d =
      if (d.lane j).len = 0 ∨ (d.lane j).forkAt + usTicks 40 ≤ d.laneEnd (d.lane j) then
        d.setLane j { d.lane j with
          w := projectedWeights ants (d.lane j).s2 (d.lane j).h x.h, rewound := some x.start
          len := if x.start < (d.lane j).ts + d.afterFreeze (d.lane j).phy d.rxw.mode 0 false then 0
            else (d.lane j).len }
      else d := by
  subst ha
  simp only [forkChannelEstimate, hs, hf, hsep, decide_eq_true hb, decide_true, Bool.true_and, Bool.or_eq_true,
    decide_eq_true_eq]

end

/-! The end of a lane's frame (R14, R127, R133, R138). -/

section

variable {d : Dev} {j : Nat} {psdu : List Byte} (snr : Int) (fails : Nat)

theorem laneFrameEnd_fcsFails (hs : (d.lane j).phase = .decode) (h0 : (d.lane j).len ≠ 0)
    (hlen : psdu.length = (d.lane j).len) (hf : fcsOk ((d.lane j).phy = 0 || (d.lane j).fcs16) psdu = false) :
    laneFrameEnd j psdu snr fails d = ((d.laneFree j).bump Fld.rxwStatFrame_fcsFail).raise 0x13 :=
  (if_neg (by simp [hs, h0, hlen])).trans (if_pos (by simp [hf]))

/-- A good frame is written with its record and posted, unless a word of its buffer exhausts its replays (R421). -/
theorem laneFrameEnd_fcsHolds {r : Dev × FetchOutcome} (hs : (d.lane j).phase = .decode) (h0 : (d.lane j).len ≠ 0)
    (hlen : psdu.length = (d.lane j).len) (hf : fcsOk ((d.lane j).phy = 0 || (d.lane j).fcs16) psdu = true)
    (hr : r = d.fetch (memRes (stagingAddr (d.lane j).buf)) (stagingAddr (d.lane j).buf) fails) :
    laneFrameEnd j psdu snr fails d =
      if r.2 = .exhausted then (r.1.laneFree j).bump Fld.rxwStatAbandon_abandoned
      else (r.1.setBytes (stagingAddr (d.lane j).buf) (recordBytes j (d.lane j) (lqiOf snr)
        (leNat (psdu.drop (psdu.length - fcsLen ((d.lane j).phy = 0 || (d.lane j).fcs16))) % 65536) ++ psdu)).lanePost j := by
  subst hr
  exact (if_neg (by simp [hs, h0, hlen])).trans (if_neg (by simp [hf]))

end

/-- A pending MODE takes effect once L64–L95 are free; the sub-GHz estimates start afresh (R125). -/
theorem subModeEffect_takes {d : Dev} (hfree : d.subBusy = false) (hnew : d.rd Fld.rxwSubCfg_mode ≠ d.rxw.mode) :
    subModeEffect d = ({ d with rxw := { d.rxw with mode := d.rd Fld.rxwSubCfg_mode } } : Dev).noiseRestart
      (fun k => decide (64 ≤ k)) :=
  if_neg (by simp [hfree, hnew])

/-- Settles O18: detections by the two lemmas on what a channel without and with a lane does, the commands of a lane each by
its own. -/
theorem lanesReceiveFrames : Obligations.LanesReceiveFrames := by
  refine ⟨?order, ?unused, ?onLane, ?timeout, ?freeze, ?phr, ?frameEnd, ?resume, ?fork, ?config, ?mode⟩
  case order => exact fun d xs => Answers.intro (f := preambleDetection xs) (fun _ => rfl) rfl
  case unused =>
    rintro d x e hup hdef hant hrx hblank hon hc rfl
    refine Answers.intro (f := preambleDetection [x]) (fun _ => rfl) ?_
    have hdet : d.Detects x := ⟨hup, hdef, hant, hrx, hblank⟩
    have htake := (d.chanBusy x.sub x.chan).detectionTake_unused (x := x) (d.chanCfg x.sub x.chan)
    exact ⟨fun hm => Dev.detect_merges hdet hon hc hm,
      fun hm k hk => (Dev.detect_takes hdet hon hc hm (.inl rfl)).trans (htake.1 k hk),
      fun hm hk => (Dev.detect_takes hdet hon hc hm (.inl rfl)).trans (htake.2 hk)⟩
  case onLane =>
    rintro d x a rest e hup hdef hant hrx hblank hon hc rfl hm hself
    refine Answers.intro (f := preambleDetection [x]) (fun _ => rfl) ?_
    have htake : preambleDetection [x] d = _ :=
      (Dev.detect_takes ⟨hup, hdef, hant, hrx, hblank⟩ hon hc hm (.inr hself)).trans (Dev.detectionTake_onLane _ a rest)
    rw [htake]
    refine ⟨fun hbelow => if_pos hbelow, fun habove hone => ?_, fun habove htwo => ?_⟩
    · rw [if_neg (Nat.not_lt.mpr habove), if_pos hone]
    · rw [if_neg (Nat.not_lt.mpr habove), if_neg htwo]
  case timeout =>
    exact fun d j hs => Answers.intro (f := laneSyncTimeout j) (fun _ => rfl) (laneSyncTimeout_frees hs)
  case freeze =>
    exact fun d j m f n x hs hm hn hx => Answers.intro (f := freezePoint j f) (fun _ => rfl)
      ⟨freezePoint_starves f hs, fun b hb => freezePoint_freezes hs hb hm hn hx⟩
  case phr =>
    exact fun d j phr coded hs => Answers.intro (f := phrCheck j phr coded) (fun _ => rfl) (phrCheck_reads hs)
  case frameEnd =>
    intro d j psdu snr fails hs h0 hlen
    refine Answers.intro (f := laneFrameEnd j psdu snr fails) (fun _ => rfl)
      ⟨laneFrameEnd_fcsFails snr fails hs h0 hlen, fun hf r hr hx => ?_, fun hf r hr hx => ?_⟩
    · exact (laneFrameEnd_fcsHolds snr fails hs h0 hlen hf hr).trans (if_pos hx)
    · exact (laneFrameEnd_fcsHolds snr fails hs h0 hlen hf hr).trans (if_neg hx)
  case resume =>
    exact fun d j hs => Answers.intro (f := lanePostResume j) (fun _ => rfl) (lanePostResume_posts hs)
  case fork =>
    intro d j x ants hs hf ha hb hsep
    refine Answers.intro (f := forkChannelEstimate j x) (fun _ => rfl) ?_
    rw [forkChannelEstimate_projects hs hf ha hb hsep]
    exact ⟨fun h => if_pos h, fun h0 hend => if_neg (not_or.mpr ⟨h0, Nat.not_le.mpr hend⟩)⟩
  case config => exact fun d a => Answers.intro (f := channelConfigEffect a) (fun _ => rfl) rfl
  case mode =>
    exact fun d hfree hnew => Answers.intro (f := subModeEffect) (fun _ => rfl) (subModeEffect_takes hfree hnew)

end Sys2Proof.Machine
end

section
/-! SUPPORT. The end of a key operation and the guarded key registers (R378–R383), and the life cycle of the OTP (R389,
R391): what each command comes to in a case of its rule; the statement of 17_keys_lifecycle.md about registers and the OTP
settled with these facts. -/

namespace Sys2Proof.Machine

open Sys2Proof

/-! Key operations and registers (R378–R383). -/

section

variable {d : Dev} {who : Initiator}

theorem keyOperationDone_ends {o : KeyOp} (ho : d.keys.op = some o) (hbits : o.bits = []) :
    keyOperationDone d =
      (((({ d with keys := { d.keys with op := none } } : Dev).wr Fld.keyStatus_busy 0).wr
        Fld.keyStatus_result o.result).setKeyData o.out).raise 0x68 := by
  simp only [keyOperationDone, ho]
  exact if_pos (List.isEmpty_iff.mpr hbits)

/-- The rights left are those asked for that were set; the write is recorded where it asked for more (R379). -/
theorem keySlotAttrWrite_narrows {n : Nat} {w : Word} {e f : Dev} (hup : d.domUp 25 = true) (hn : n < 512)
    (hwho : d.secure who = true) (hlock : d.is Fld.keySlotAttr_lock n = false) (hpool : d.inPool n = false)
    (he : e = (d.rsvd who (Reg.keySlotAttr + 4 * n) w).wr Fld.keySlotAttr_engines (d.attrEngines n &&& wBits w 21 16) n)
    (hf : f = if w.toNat.testBit 30 then e.wr Fld.keySlotAttr_lock 1 n else e) :
    keySlotAttrWrite who n w d =
      if wBits w 21 16 &&& d.attrEngines n = wBits w 21 16 then f
      else f.refuseWrite who (Reg.keySlotAttr + 4 * n) := by
  have hopen : ¬ (!d.domUp 25 || decide (512 ≤ n)) = true := by simp [hup, hn]
  have hfree : ¬ (d.is Fld.keySlotAttr_lock n || d.inPool n) = true := by simp [hlock, hpool]
  rw [keySlotAttrWrite, if_neg hopen, if_neg (by simp [hwho]), hf, he]
  exact if_neg hfree

/-- What R382 asks of a write that may be stored: the register is locked, or MODE stays 0, or the KEK slot serves. -/
theorem keyBlobCfgWrite_stores {w : Word} (hup : d.domUp 25 = true) (hwho : d.secure who = true)
    (hmay : d.is Fld.keyBlobCfg_lock = true ∨ w.toNat.testBit 0 = false ∨
      (d.is Fld.keySlotAttr_lock (wBits w 24 16) = true ∧ (d.attrEngines (wBits w 24 16)).testBit 4 = true)) :
    keyBlobCfgWrite who w d = d.plainWrite who Reg.keyBlobCfg w (d.is Fld.keyBlobCfg_lock) := by
  rw [keyBlobCfgWrite, if_neg (by simp [hup]), if_neg (by simp [hwho])]
  refine if_neg ?_
  rcases hmay with hlocked | hmode | ⟨hslot, hkek⟩
  · simp [hlocked]
  · simp [hmode]
  · simp [hslot, hkek]

/-- The pool moves while neither its slots nor those of the new range hold a key (R383). -/
theorem keyPoolWrite_stores {w : Word} (hup : d.domUp 25 = true) (hwho : d.secure who = true)
    (hrange : wBits w 8 0 + wBits w 25 16 ≤ 512) (hcount : wBits w 25 16 ≠ 0)
    (hold : d.poolSlots.any d.attrValid = false)
    (hnew : ∀ j, j < wBits w 25 16 → d.attrValid (wBits w 8 0 + j) = false) :
    keyPoolWrite who w d = d.plainWrite who Reg.keyPool w := by
  have hfits : ¬ (decide (512 < wBits w 8 0 + wBits w 25 16) || decide (wBits w 25 16 = 0)) = true := by
    simp [hrange, hcount]
  have hempty : ((List.range (wBits w 25 16)).any fun i => d.attrValid (wBits w 8 0 + i)) = false :=
    List.any_eq_false.mpr fun j hj => by simp [hnew j (List.mem_range.mp hj)]
  rw [keyPoolWrite, if_neg (by simp [hup]), if_neg (by simp [hwho])]
  exact (if_neg hfits).trans (if_neg (by simp [hold, hempty]))

theorem remaskSweep_up (hup : d.domUp 25 = true) :
    remaskSweep d = { d.remask (d.keys.slots.map (·.1)) with
      keys := { (d.remask (d.keys.slots.map (·.1))).keys with
        period := (d.remask (d.keys.slots.map (·.1))).rd Fld.keyMask_period } } :=
  if_pos hup

end

/-! The life cycle (R389, R391). -/

section

variable {d : Dev}

/-- A request with the right key that the life cycle does not ignore is taken (R389). -/
theorem otpLcCmdStart_takes {who : Initiator} {w : Word} (hup : d.domUp 1 = true) (hwho : d.secure who = true)
    (hkey : wBits w 31 16 = 0x1C5E)
    (htaken : ((d.rsvd who Reg.otpLcCmd w).lcRequest (w.toNat.testBit 8) (wBits w 2 0)).2 = true) :
    otpLcCmdStart who w d = ((d.rsvd who Reg.otpLcCmd w).lcRequest (w.toNat.testBit 8) (wBits w 2 0)).1 := by
  rw [otpLcCmdStart, if_neg (by simp [hup]), if_neg (by simp [hwho, hkey])]
  exact if_pos htaken

/-- A step of the transition with nothing left to program ends: the next one starts, or after the last the device resets,
or its boot goes on (R55, R391). -/
theorem lcTransitionStep_eq {r : LcRun} (hr : d.lc = some r) (hbits : r.bits = []) (hgo : d.lcPaused = false) :
    lcTransitionStep d =
      if r.step < 6 then (d.lcEnter r (r.step + 1)).lcStatusLoad
      else if r.boot then
        (((({ d with lc := none } : Dev).lcStatusLoad).wr Fld.sysBootStatus_lcResumed 1).settle).bootStep4
      else (d.lcEnd Code.ok).systemReset 2 := by
  simp only [lcTransitionStep, hr]
  exact if_neg (by simp [hbits, hgo])

end

/-- Settles O21: each command by its lemma above; a programmed bit is its owner's by the definition. -/
theorem keyRegistersAndOtpAct : Obligations.KeyRegistersAndOtpAct := by
  refine ⟨?done, ?attr, ?blob, ?pool, ?sweep, ?bit, ?request, ?step⟩
  case done =>
    exact fun d o ho hbits => Answers.intro (f := fun d => (keyOperationDone d).pump) (fun _ => rfl)
      (congrArg Dev.pump (keyOperationDone_ends ho hbits))
  case attr =>
    intro d who n w e f hup hn hwho hlock hpool he hf
    refine Answers.intro (f := keySlotAttrWrite who n w) (fun _ => rfl) ?_
    rw [keySlotAttrWrite_narrows hup hn hwho hlock hpool he hf]
    exact ⟨fun hless => if_pos hless, fun hmore => if_neg hmore⟩
  case blob =>
    exact fun d who w hup hwho hmay => Answers.intro (f := keyBlobCfgWrite who w) (fun _ => rfl)
      (keyBlobCfgWrite_stores hup hwho hmay)
  case pool =>
    exact fun d who w hup hwho hrange hcount hold hnew => Answers.intro (f := keyPoolWrite who w) (fun _ => rfl)
      (keyPoolWrite_stores hup hwho hrange hcount hold hnew)
  case sweep =>
    rintro d e hup rfl
    exact Answers.intro (f := remaskSweep) (fun _ => rfl) (remaskSweep_up hup)
  case bit =>
    refine fun d u => Answers.intro (f := fun d => (otpBitProgrammed u d).pump) (fun _ => rfl) ⟨?_, ?_, ?_⟩
    · rintro good rfl; rfl
    · rintro rfl; rfl
    · rintro rfl; rfl
  case request =>
    exact fun d who w hup hwho hkey htaken => Answers.intro (f := otpLcCmdStart who w) (fun _ => rfl)
      (otpLcCmdStart_takes hup hwho hkey htaken)
  case step =>
    intro d r hr hbits hgo
    refine Answers.intro (f := fun d => (lcTransitionStep d).pump) (fun _ => rfl) ?_
    rw [lcTransitionStep_eq hr hbits hgo]
    refine ⟨fun hmore => ?_, fun hlast hrun => ?_, fun hlast hboot => ?_⟩
    · rw [if_pos hmore]
    · rw [if_neg (Nat.not_lt.mpr hlast), if_neg (by simp [hrun])]
    · rw [if_neg (Nat.not_lt.mpr hlast), if_pos hboot]

end Sys2Proof.Machine
end

section
/-! SUPPORT. Commands of the interpreter and of the application (R177, R266, R273, R276, R280, R305, R393): what each opcode
comes to in a case of its rule; the statement of 13_host_commands.md about them settled with these facts. -/

namespace Sys2Proof.Machine

open Sys2Proof

/-! A command that starts runs the meaning of its opcode. -/

/-- A command that starts answers whatever holds once `run`, its opcode's meaning, has acted and the sequencer has gone
on. -/
theorem Starts.answers {i : Instr} {op : Nat} {c : HostCmd} {d e : Dev} {x : HciCmd} {P : Dev → Prop} {run : Dev}
    (hs : Starts op c d e x) (hi : ∀ s, exec i s = s.run fun d => d.hostSubmit op c)
    (hrun : x.opcode = op → e.runOpcode x = run) (h : P (run.fetchCmds 255)) : Answers i d P := by
  refine Answers.intro hi ?_
  rw [hs.submit, hrun hs.op]
  exact h

section

variable {d : Dev} {x : HciCmd}

theorem Dev.runOpcode_recordPut (h : x.opcode = 0x30) : d.runOpcode x = d.runRecordPut x := by simp only [Dev.runOpcode, h]
theorem Dev.runOpcode_recordDel (h : x.opcode = 0x31) : d.runOpcode x = d.runRecordDel x := by simp only [Dev.runOpcode, h]
theorem Dev.runOpcode_propose (h : x.opcode = 0x32) : d.runOpcode x = d.runPropose x := by simp only [Dev.runOpcode, h]
theorem Dev.runOpcode_memberRead (h : x.opcode = 0x33) : d.runOpcode x = d.runMemberRead x := by simp only [Dev.runOpcode, h]
theorem Dev.runOpcode_migrate (h : x.opcode = 0x34) : d.runOpcode x = d.runMigrate x := by simp only [Dev.runOpcode, h]
theorem Dev.runOpcode_regProg (h : x.opcode = 0x40) : d.runOpcode x = d.runRegProg x := by simp only [Dev.runOpcode, h]
theorem Dev.runOpcode_secureRead (h : x.opcode = 0x41) : d.runOpcode x = d.runSecureRead x := by simp only [Dev.runOpcode, h]
theorem Dev.runOpcode_keyLoad (h : x.opcode = 0x50) : d.runOpcode x = d.runKeyOp x 1 := by simp only [Dev.runOpcode, h]
theorem Dev.runOpcode_keyClear (h : x.opcode = 0x51) : d.runOpcode x = d.runKeyOp x 2 := by simp only [Dev.runOpcode, h]
theorem Dev.runOpcode_keyWrap (h : x.opcode = 0x52) : d.runOpcode x = d.runKeyOp x 4 := by simp only [Dev.runOpcode, h]
theorem Dev.runOpcode_blobPut (h : x.opcode = 0x53) : d.runOpcode x = d.runBlobPut x := by simp only [Dev.runOpcode, h]
theorem Dev.runOpcode_attrRead (h : x.opcode = 0x54) : d.runOpcode x = d.runAttrRead x := by simp only [Dev.runOpcode, h]
theorem Dev.runOpcode_lcStatus (h : x.opcode = 0x55) : d.runOpcode x = d.runLcStatus x := by simp only [Dev.runOpcode, h]
theorem Dev.runOpcode_lcTransition (h : x.opcode = 0x56) : d.runOpcode x = d.runLcTransition x := by
  simp only [Dev.runOpcode, h]

/-- Opcodes from 0xC0 on are the application's (R305). -/
theorem Dev.runOpcode_application (h : 192 ≤ x.opcode) : d.runOpcode x = d.runApplication x := by
  unfold Dev.runOpcode
  split
  case h_32 => rfl
  all_goals omega

end

/-! The proposed set (R266, R273). -/

/-- No record has this type and number (R266). -/
def recordMisnamed (type id : Nat) : Bool :=
  !recordTypeOk type || (type = 1 && decide (1024 ≤ id)) || (type = 2 && id != 0)

/-- This member's OK for the open proposal is out, so that its set must stay (R273). -/
def Dev.okOut (d : Dev) : Bool := d.fed.proposal.any fun p => p.preparedOk

section

variable {d : Dev} {type id : Nat} {data : List Byte}

theorem Dev.recordPut_eq :
    d.recordPut type id data =
      if recordMisnamed type id then (d, Code.reservedField)
      else if 16384 < data.length then (d, Code.badLength)
      else if !setFits (putRecord ⟨type, id, data⟩ d.fed.proposed) || d.okOut then
        ((d.freeOf failureCodes).2, (d.freeOf failureCodes).1)
      else (d.setFed { d.fed with proposed := putRecord ⟨type, id, data⟩ d.fed.proposed }, Code.ok) := by
  unfold Dev.recordPut Dev.okOut recordMisnamed
  dsimp only
  cases setFits (putRecord ⟨type, id, data⟩ d.fed.proposed) <;> cases d.fed.proposal <;> rfl

theorem Dev.recordDel_eq :
    d.recordDel type id =
      if !recordTypeOk type then (d, Code.reservedField)
      else if d.okOut then ((d.freeOf failureCodes).2, (d.freeOf failureCodes).1)
      else (d.setFed { d.fed with proposed := delRecord type id d.fed.proposed }, Code.ok) := by
  unfold Dev.recordDel Dev.okOut
  cases d.fed.proposal <;> rfl

end

/-! FED_PROPOSE (R276). -/

section

variable {d : Dev} {c l : Nat}

theorem Dev.hostPropose_quarantined (hq : d.fedQuarantined = true) :
    d.hostPropose c = d.finishId c Code.quarantined [] := if_pos hq

variable (hq : d.fedQuarantined = false)

include hq

theorem Dev.hostPropose_leaderless (hl : d.fed.leader = none) : d.hostPropose c = d.finishId c Code.notLeader [] := by
  simp only [Dev.hostPropose, hq, hl, Bool.false_eq_true, if_false]

variable (hl : d.fed.leader = some l)

include hl

theorem Dev.hostPropose_taken (htaken : d.fed.proposeCmd.isSome = true ∨ (l = d.fedMe ∧ d.fed.proposal.isSome = true)) :
    d.hostPropose c = d.finishId c Code.epochStale [] := by
  simp only [Dev.hostPropose, hq, hl, if_pos htaken, Bool.false_eq_true, if_false]

variable (hfree : d.fed.proposeCmd = none)

include hfree

/-- A member that does not lead sends its proposal to the leader. -/
theorem Dev.hostPropose_sends {g : Dev} (hother : l ≠ d.fedMe)
    (hg : g = d.setFed { d.fed with proposeCmd := some c }) :
    d.hostPropose c =
      g.fedSend (some l) (.propose g.epoch (digestOf (d.epoch + 1) d.wantedRoster g.fed.proposed) g.fedMe) := by
  have hopen : ¬ (d.fed.proposeCmd.isSome = true ∨ (l = d.fedMe ∧ d.fed.proposal.isSome = true)) := by
    simp [hfree, hother]
  subst hg
  simp only [Dev.hostPropose, hq, hl, if_neg hopen, Bool.false_eq_true, if_false]
  exact if_neg hother

/-- The leader takes the proposal up once its state allows (R276). -/
theorem Dev.hostPropose_leads {g : Dev} (hme : l = d.fedMe) (hnone : d.fed.proposal = none)
    (hg : g = d.setFed { d.fed with proposeCmd := some c }) :
    d.hostPropose c =
      if d.fedState < 6 then (g.setFed { g.fed with proposeCmd := none }).finishId c Code.epochStale []
      else g.accept (digestOf (d.epoch + 1) d.wantedRoster g.fed.proposed) d.wantedRoster l := by
  have hopen : ¬ (d.fed.proposeCmd.isSome = true ∨ (l = d.fedMe ∧ d.fed.proposal.isSome = true)) := by
    simp [hfree, hnone]
  subst hg
  simp only [Dev.hostPropose, hq, hl, if_neg hopen, Bool.false_eq_true, if_false]
  exact if_pos hme

end

/-! FED_MIGRATE (R280). -/

/-- The node's migration that is unresolved at its source. -/
def Dev.unresolved (d : Dev) (node : Nat) : Option Migration :=
  d.fed.migrations.find? fun m => m.source && m.node = node && m.step = 2

/-- The slot of the node's replica in this member's buddy memory. -/
def Dev.replicaHere (d : Dev) (node : Nat) : Option Nat :=
  (d.budSlots 0 32768).find? fun s => imgField (d.bytes (budAddr s) 128) Cx.nodeAddr = node

/-- The member that keeps the replicas of the node's home. -/
def Dev.buddyOf (d : Dev) (node : Nat) : Option Nat := (d.remoteOf node).bind fun r => d.buddy (d.rteMember r)

section

variable {d : Dev} {c node op target : Nat}

theorem Dev.hostMigrate_held (hheld : d.ndt.held = true) :
    d.hostMigrate c node op target = d.finishId c Code.tableHeld [] := if_pos hheld

variable (hheld : d.ndt.held = false)

include hheld

theorem Dev.hostMigrate_start_unknown (hslot : d.findSlot node = none) :
    d.hostMigrate c node 0 target = d.finishId c Code.nodeUnknown [] := by
  simp only [Dev.hostMigrate, hheld, hslot, Bool.false_eq_true, if_false]

theorem Dev.hostMigrate_start {s : Nat} (hslot : d.findSlot node = some s) :
    d.hostMigrate c node 0 target =
      if d.damagedSlot s then d.finishId c Code.rebuilding []
      else if d.migrationBar s target = Code.ok then d.migrate s target (some c)
      else d.finishId c (d.migrationBar s target) [] := by
  simp only [Dev.hostMigrate, hheld, hslot, Bool.false_eq_true, if_false]

theorem Dev.hostMigrate_resolve (hstart : op ≠ 0) (hadopt : op ≠ 3) :
    d.hostMigrate c node op target =
      (d.unresolved node).elim ((d.freeOf failureCodes).2.finishId c (d.freeOf failureCodes).1 [])
        fun m => (if op = 1 then d.dropMigration m else d.handOver m).finishId c Code.ok [] := by
  simp only [Dev.hostMigrate, hheld, Bool.false_eq_true, if_false]
  unfold Dev.unresolved
  cases d.fed.migrations.find? _ with
  | none => rfl
  | some m => exact (apply_ite (Dev.finishId · c Code.ok []) (op = 1) _ _).symm

theorem Dev.hostMigrate_adopt_present (hslot : (d.findSlot node).isSome = true) :
    d.hostMigrate c node 3 target = d.finishId c Code.nodeExists [] := by
  simp only [Dev.hostMigrate, hheld, hslot, Bool.false_eq_true, if_false, if_true]

/-- An absent node is adopted from the replica here, or from its buddy, which is asked for it. -/
theorem Dev.hostMigrate_adopt {e : Dev} (hslot : d.findSlot node = none)
    (he : e = d.setFed { d.fed with adopts := d.fed.adopts ++ [(node, c)] }) :
    d.hostMigrate c node 3 target =
      (d.replicaHere node).elim
        ((d.buddyOf node).elim (d.finishId c Code.nodeUnknown []) fun b =>
          if b = d.fedMe then d.finishId c Code.nodeUnknown []
          else e.fedSend (some b) (.replicaReq (node % 32768) 1))
        fun s => e.takeReplica s (d.bytes (budAddr s) 128) := by
  subst he
  simp only [Dev.hostMigrate, hheld, hslot, Option.isSome_none, Bool.false_eq_true, if_false]
  unfold Dev.replicaHere Dev.buddyOf
  cases (d.budSlots 0 32768).find? _ with
  | some s => rfl
  | none => cases (d.remoteOf node).bind _ <;> rfl

end

/-! REG_PROG (R177). -/

/-- The interpreter's write of REG_PROG_CMD: OP 0 ends at once, and so does an operation that is refused or needs no bit. -/
theorem Dev.runRegProg_eq {e f g : Dev} {x : HciCmd} {op word : Nat} (hop : op = x.a 0 % 4) (hword : word = bitsOf (x.a 0) 12 8)
    (hf : f = if op = 1 then
        (e.setReg (Reg.regStageW + 4 * word) (BitVec.ofNat 32 (leAt (e.cmdData x) 0 4))).regStatusUpdate
      else e)
    (hg : g = f.regProgCmd (.core 0) true (BitVec.ofNat 32 (0x6B1D0000 + op * 256 + word))) :
    e.runRegProg x =
      if op = 0 then g.finish x Code.ok []
      else if g.prog.isSome then g.runCmd x
      else g.finish x (progStatus (g.rd Fld.regProgStatus_result)) [] := by
  subst hop hword hf hg
  rfl

/-! KEY_LOAD and LC_TRANSITION (R393). -/

/-- KEY_LOAD runs LOAD in BLANK and in MANUFACTURE only. -/
theorem Dev.runKeyOp_load {e f : Dev} {x : HciCmd}
    (hf : f = (e.wr Fld.keyArg_engines (x.a 1 % 64)).wr Fld.keyArg_keylen (b2n ((x.a 1).testBit 6))) :
    e.runKeyOp x 1 =
      if e.lcOf ≠ some 0 ∧ e.lcOf ≠ some 1 then e.finish x Code.notPermitted []
      else ((f.setKeyData (f.cmdData x)).keyStart 1 (x.a 0) false).runCmd x := by
  subst hf
  simp only [Dev.runKeyOp, true_and, if_true]
  rfl

/-- RETURN without its token goes no further. -/
theorem Dev.runLcTransition_tokenless {e : Dev} {x : HciCmd} (htarget : x.a 0 = 3)
    (htoken : e.returnToken (e.cmdData x) = false) : e.runLcTransition x = e.finish x Code.authFail [] :=
  if_pos (by simp [htarget, htoken])

/-- A request that may be made waits for its transition, ends with the result that refuses it, or is ignored. -/
theorem Dev.runLcTransition_requests {e : Dev} {x : HciCmd} {r : Dev × Bool}
    (hr : r = (e.wr Fld.keyStatus_result 0).lcRequest true (x.a 0))
    (htoken : x.a 0 = 3 → e.returnToken (e.cmdData x) = true) :
    e.runLcTransition x =
      if r.2 = false then (e.freeOf failureCodes).2.finish x (e.freeOf failureCodes).1 []
      else if r.1.lc.isSome then r.1.runCmd x
      else r.1.finish x (r.1.rd Fld.keyStatus_result) [] := by
  subst hr
  have hmay : ¬ (decide (x.a 0 = 3) && !e.returnToken (e.cmdData x)) = true := by
    simpa using htoken
  rw [Dev.runLcTransition, if_neg hmay]
  simp only [Bool.not_eq_true']
  rfl

/-! The statement. -/

/-- Settles O37: each command runs its opcode's meaning, which the lemmas above give case by case. -/
theorem firmwareCommandsAct : Obligations.FirmwareCommandsAct := by
  refine ⟨?recordPut, ?recordDel, ?propose, ?memberRead, ?migrate, ?regProg, ?secureRead, ?keyLoad, ?keyClear, ?keyWrap,
    ?blobPut, ?attrRead, ?lcStatus, ?lcTransition, ?application⟩
  case recordPut =>
    intro d c e x l bad held hs hbad hl hheld
    have hput : e.runRecordPut x = _ := congrArg (fun r : Dev × Nat => r.1.done x r.2) Dev.recordPut_eq
    change bad = recordMisnamed (x.a 0) (x.a 1) at hbad
    change held = e.okOut at hheld
    rw [← hbad, ← hheld, ← hl] at hput
    refine hs.answers (fun _ => rfl) Dev.runOpcode_recordPut ?_
    rw [hput]
    refine ⟨fun h => ?_, fun h hlong => ?_, fun h hshort hstays => ?_, fun h hshort hfits hfree => ?_⟩
    · rw [if_pos h]; rfl
    · rw [if_neg (by simp [h]), if_pos hlong]; rfl
    · rw [if_neg (by simp [h]), if_neg (Nat.not_lt.mpr hshort), if_pos (by simpa using hstays)]; rfl
    · rw [if_neg (by simp [h]), if_neg (Nat.not_lt.mpr hshort), if_neg (by simp [hfits, hfree])]; rfl
  case recordDel =>
    intro d c e x held hs hheld
    have hdel : e.runRecordDel x = _ := congrArg (fun r : Dev × Nat => r.1.done x r.2) Dev.recordDel_eq
    change held = e.okOut at hheld
    rw [← hheld] at hdel
    refine hs.answers (fun _ => rfl) Dev.runOpcode_recordDel ?_
    rw [hdel]
    refine ⟨fun h => ?_, fun h hstays => ?_, fun h hfree => ?_⟩
    · rw [if_pos (by simp [h])]; rfl
    · rw [if_neg (by simp [h]), if_pos hstays]; rfl
    · rw [if_neg (by simp [h]), if_neg (by simp [hfree])]; rfl
  case propose =>
    rintro d c e f g x hs rfl hg
    refine hs.answers (fun _ => rfl) Dev.runOpcode_propose ⟨fun hq => ?_, fun hq hl => ?_, fun l hq hl htaken => ?_,
      fun l hq hl hfree hother => ?_, fun l hq hl hfree hme hnone hearly => ?_,
      fun l hq hl hfree hme hnone hlate => ?_⟩ <;>
      refine congrArg (Dev.fetchCmds · 255) ?_
    · exact Dev.hostPropose_quarantined hq
    · exact Dev.hostPropose_leaderless hq hl
    · exact Dev.hostPropose_taken hq hl htaken
    · exact Dev.hostPropose_sends hq hl hfree hother hg
    · exact (Dev.hostPropose_leads hq hl hfree hme hnone hg).trans (if_pos hearly)
    · exact (Dev.hostPropose_leads hq hl hfree hme hnone hg).trans (if_neg (Nat.not_lt.mpr hlate))
  case memberRead => exact fun d c e x hs => hs.answers (fun _ => rfl) Dev.runOpcode_memberRead rfl
  case migrate =>
    rintro d c e f x hs rfl
    refine hs.answers (fun _ => rfl) Dev.runOpcode_migrate ?_
    unfold Dev.runMigrate
    refine ⟨fun h => ?_, fun h hop hslot => ?_, fun s h hop hslot hdam => ?_, fun s h hop hslot hdam hbar => ?_,
      fun s h hop hslot hdam hmay => ?_, fun m h hstart hadopt hm => ?_, fun h hstart hadopt hm => ?_,
      fun h hop hslot => ?_, fun s h hop hslot hrep => ?_, fun h hop hslot hrep hbud => ?_,
      fun b h hop hslot hrep hbud hother => ?_⟩ <;>
      refine congrArg (Dev.fetchCmds · 255) ?_
    · exact Dev.hostMigrate_held h
    · rw [hop, Dev.hostMigrate_start_unknown h hslot]
    · rw [hop, Dev.hostMigrate_start h hslot, if_pos hdam]
    · rw [hop, Dev.hostMigrate_start h hslot, if_neg (by simp [hdam]), if_neg hbar]
    · rw [hop, Dev.hostMigrate_start h hslot, if_neg (by simp [hdam]), if_pos hmay]
    · rw [Dev.hostMigrate_resolve h hstart hadopt, Dev.unresolved, hm]; rfl
    · rw [Dev.hostMigrate_resolve h hstart hadopt, Dev.unresolved, hm]; rfl
    · rw [hop, Dev.hostMigrate_adopt_present h hslot]
    · rw [hop, Dev.hostMigrate_adopt h hslot rfl, Dev.replicaHere, hrep]; rfl
    · rw [hop, Dev.hostMigrate_adopt h hslot rfl, Dev.replicaHere, hrep]
      cases hb : (e.runCmd x).buddyOf (x.a 0) with
      | none => rfl
      | some b => exact if_pos (hbud b hb)
    · rw [hop, Dev.hostMigrate_adopt h hslot rfl, Dev.replicaHere, hrep, Dev.buddyOf, hbud]
      exact if_neg hother
  case regProg =>
    intro d c e f g x op word hs hop hword hf hg
    refine hs.answers (fun _ => rfl) Dev.runOpcode_regProg ?_
    rw [Dev.runRegProg_eq hop hword hf hg]
    refine ⟨fun h => ?_, fun h hruns => ?_, fun h hended => ?_⟩
    · rw [if_pos h]
    · rw [if_neg h, if_pos hruns]
    · rw [if_neg h, if_neg (by simp [hended])]
  case secureRead =>
    intro d c e f x v hs hread
    refine hs.answers (fun _ => rfl) Dev.runOpcode_secureRead ?_
    rw [Dev.runSecureRead, hread]
  case keyLoad =>
    intro d c e f x hs hf
    refine hs.answers (fun _ => rfl) Dev.runOpcode_keyLoad ?_
    rw [Dev.runKeyOp_load hf]
    refine ⟨fun hopen => ?_, fun hblank hmade => ?_⟩
    · rw [if_neg fun ⟨hblank, hmade⟩ => hopen.elim hblank hmade]
    · rw [if_pos ⟨hblank, hmade⟩]
  case keyClear => exact fun d c e x hs => hs.answers (fun _ => rfl) Dev.runOpcode_keyClear rfl
  case keyWrap => exact fun d c e x hs => hs.answers (fun _ => rfl) Dev.runOpcode_keyWrap rfl
  case blobPut => exact fun d c e x hs => hs.answers (fun _ => rfl) Dev.runOpcode_blobPut rfl
  case attrRead => exact fun d c e x hs => hs.answers (fun _ => rfl) Dev.runOpcode_attrRead rfl
  case lcStatus =>
    rintro d c e f x hs rfl
    exact hs.answers (fun _ => rfl) Dev.runOpcode_lcStatus rfl
  case lcTransition =>
    intro d c e x r hs hr
    refine hs.answers (fun _ => rfl) Dev.runOpcode_lcTransition ⟨fun htarget htoken => ?_, fun htoken hignored => ?_,
      fun htoken htaken hruns => ?_, fun htoken htaken hended => ?_⟩ <;>
      refine congrArg (Dev.fetchCmds · 255) ?_
    · exact Dev.runLcTransition_tokenless htarget htoken
    · rw [Dev.runLcTransition_requests hr htoken, if_pos hignored]
    · rw [Dev.runLcTransition_requests hr htoken, if_neg (by simp [htaken]), if_pos hruns]
    · rw [Dev.runLcTransition_requests hr htoken, if_neg (by simp [htaken]), if_neg (by simp [hended])]
  case application =>
    intro d op opened c e f g h x st v hop hs hf hst hv
    refine Answers.intro (f := fun d => ({ d with hci := { d.hci with appOpen := opened } } : Dev).hostSubmit
      (192 + op % 64) c) (fun _ => rfl) ?_
    have hacts : x.opcode = 192 + op := hs.op
    rw [Nat.mod_eq_of_lt hop, hs.submit, Dev.runOpcode_application (by omega)]
    simp only [Dev.runApplication, ← hf, ← hst, ← hv]

end Sys2Proof.Machine
end

section
/-! SUPPORT. The link-timing engine: the completions of a pair's FIFO and its verify results (R187, R189, R194, R202, R421),
lockstep (R200–R202), slot programs (R206, R207) and TSCH (R208–R210): what each command comes to where it acts; the
statements of 09_tempo_link_timing.md settled with these facts. -/

namespace Sys2Proof.Machine

open Sys2Proof

/-! Work items of a pair (R187, R194, R202, R421). -/

section

variable {d e : Dev} {c : Completion} {own : Nat}

/-- A pair with a completion to take discards it where no engine serves it, and waits for its sender (R187, R194, R202). -/
theorem tempoWorkItem_takes {p : Nat} {fault : PairFault} (hown : own = if p = 4 then d.pairs.replaces else p)
    (hc : d.nextCompletion own = some c) (hup : d.tempoUp = true) :
    tempoWorkItem p fault d =
      if (d.pairClient own).isNone then (d.popFifo own c).bump Fld.lnkStat5_unserved
      else if d.senderBusy (d.staged c) then d
      else ((d.workItem own c fault).checkpoint own).settle := by
  simp only [tempoWorkItem, ← hown, hc]
  exact if_neg (by simp [hup])

variable (he : e = { d with tempo := { d.tempo with
  pairs := modifyAt (fun q => { q with late := false }) own d.tempo.pairs } })

include he

theorem Dev.workItem_unharmed :
    d.workItem own c .none = (e.popFifo own c).processFrame own c (d.staged c) (d.tempo.pairs.getD own {}).late := by
  subst he
  rfl

/-- A read that is no context read and fails to the end drops the frame (R421). -/
theorem Dev.workItem_other (a k : Nat) :
    d.workItem own c (.other a k) =
      if (e.fetch (memRes a) a k).2 = FetchOutcome.exhausted then
        ((e.fetch (memRes a) a k).1.popFifo own c).bump Fld.lnkStat5_unserved
      else ((e.fetch (memRes a) a k).1.popFifo own c).processFrame own c (d.staged c) (d.tempo.pairs.getD own {}).late := by
  subst he
  rfl

/-- A context read that fails to the end damages the node, and the frame goes on (R421; the choice of log 79). -/
theorem Dev.workItem_context {s : Nat} (k : Nat) (hs : (readMhr (d.staged c).mac).bind e.residentOf = some s) :
    d.workItem own c (.context k) =
      let f := (e.fetch (memRes (ctxAddr s)) (ctxAddr s) k).1
      ((if (e.fetch (memRes (ctxAddr s)) (ctxAddr s) k).2 = FetchOutcome.exhausted then
          ({ f with ndt := { f.ndt with damaged := s :: f.ndt.damaged.filter (· != s) } } : Dev) else f).popFifo own c).processFrame
        own c (d.staged c) (d.tempo.pairs.getD own {}).late := by
  subst he
  simp only [Dev.workItem, hs]

theorem Dev.workItem_stranger (k : Nat) (hs : (readMhr (d.staged c).mac).bind e.residentOf = none) :
    d.workItem own c (.context k) = (e.popFifo own c).processFrame own c (d.staged c) (d.tempo.pairs.getD own {}).late := by
  subst he
  simp only [Dev.workItem, hs]

end

/-! Verify results and acknowledgements (R189, R194). -/

section

variable {d : Dev} {req : Nat}

theorem verifyResult_ends {e : Dev} {i : WorkItem} {r : Nat × List Byte} {h : Mhr}
    (hi : (d.tempo.items.find? fun i => i.req = req) = some i) (hr : d.cphResult req = some r)
    (hh : readMhr (rxFrame i.comp i.octets).mac = some h)
    (he : e = { d.dropResult req with tempo := { (d.dropResult req).tempo with
      items := (d.dropResult req).tempo.items.filter fun j => j.req != req } }) :
    verifyResult req d = (((e.verified i (rxFrame i.comp i.octets) h r.1 r.2).inboxNext i.slot
      e.fed.inbox.length).checkpoint i.pair).settle := by
  subst he
  simp only [verifyResult, hi, hr, hh]

theorem ackDeadlineMissed_planned (h : (d.tempo.items.any fun i => i.req = req && i.ackPlanned) = true) :
    ackDeadlineMissed req d =
      ({ d with tempo := { d.tempo with items := d.tempo.items.map fun i =>
        if i.req = req then { i with ackPlanned := false } else i } } : Dev).bump Fld.lnkStat3_ackLate :=
  if_pos h

theorem ackDeadlineMissed_ciphered {f : TxFrame} (h : (d.tempo.items.any fun i => i.req = req && i.ackPlanned) = false)
    (hf : (d.tx.frames.find? fun f => f.isAck && f.stage = .cipher req) = some f) :
    ackDeadlineMissed req d = d.txLate f := by
  rw [ackDeadlineMissed, if_neg (by simp only [h, Bool.false_eq_true, not_false_eq_true]), hf]

end

/-! Lockstep (R200–R202). -/

section

variable {d : Dev} {p own : Nat}

/-- Pair `p` runs in lockstep for the pair `own`: Tempo is up, it is not retired, and `own` is itself or, for TP4, the pair
that it replaces (R199, R200). -/
structure Dev.Compares (d : Dev) (p own : Nat) : Prop where
  up : d.tempoUp = true
  unretired : d.pairs.retired.contains p = false
  works : (p < 4 ∧ own = p) ∨ (p = 4 ∧ own = d.pairs.replaces ∧ own < 4)

theorem Dev.Compares.own_eq (h : d.Compares p own) : (if p = 4 then d.pairs.replaces else p) = own := by
  obtain ⟨hlt, rfl⟩ | ⟨rfl, rfl, -⟩ := h.works
  · exact if_neg (Nat.ne_of_lt hlt)
  · exact if_pos rfl

theorem Dev.Compares.active (h : d.Compares p own) :
    (if p = 4 then decide (d.pairs.replaces < 4) else decide (p < 4)) = true := by
  obtain ⟨hlt, rfl⟩ | ⟨rfl, rfl, hlt⟩ := h.works
  · simp [hlt, Nat.ne_of_lt hlt]
  · simp [hlt]

/-- The guard that every kind of item shares. -/
theorem Dev.Compares.passes (h : d.Compares p own) :
    ¬ (!d.tempoUp || !(if p = 4 then decide (d.pairs.replaces < 4) else decide (p < 4)) ||
      d.pairs.retired.contains p) = true := by
  simp only [h.up, h.active, h.unretired, Bool.not_true, Bool.or_false, Bool.false_eq_true, not_false_eq_true]

theorem lockstepMismatch_boundary (h : d.Compares p own) : lockstepMismatch p .boundary d = d.mismatch p :=
  if_neg h.passes

theorem lockstepMismatch_fifo (h : d.Compares p own) :
    lockstepMismatch p .fifo d = ({ d with tempo := { d.tempo with
      pairs := modifyAt (fun q => { q with late := true }) own d.tempo.pairs } } : Dev).mismatch p := by
  rw [← h.own_eq]
  exact if_neg h.passes

theorem lockstepMismatch_verify (req : Nat) (h : d.Compares p own) :
    lockstepMismatch p (.verify req) d = ({ d with tempo := { d.tempo with items := d.tempo.items.map fun i =>
      if i.req = req && i.pair = own then { i with late := true } else i } } : Dev).mismatch p := by
  rw [← h.own_eq]
  exact if_neg h.passes

/-- An acknowledgement that no chain has yet is dropped (R200). -/
theorem lockstepMismatch_ack {id : Nat} {f : TxFrame} (h : d.Compares p own) (hf : d.frame id = some f)
    (hack : f.isAck = true) (hfree : ∀ c, f.stage ≠ .committed c) :
    lockstepMismatch p (.ack id) d = ((d.dropFrame id).ackLockstep p).mismatch p := by
  refine (if_neg h.passes).trans (congrArg (Dev.mismatch · p) ?_)
  cases hs : f.stage with
  | committed c => exact absurd hs (hfree c)
  | _ => simp only [hf, hack, hs, Bool.true_and, if_true]

theorem tp4SelfTest_standby {good : Bool} (hup : d.tempoUp = true) (hrep : d.pairs.replaces = 7)
    (hret : d.pairs.retired.contains 4 = false) :
    tp4SelfTest good d = if good then d else (d.mismatch 4).retirePair 4 := by
  simp only [tp4SelfTest, hup, hrep, hret, Bool.not_true, Bool.false_or, ne_eq, not_true_eq_false, decide_false]

end

theorem relayRetry_relays {d : Dev} {id : Nat} {f : TxFrame} (hf : d.frame id = some f) (ho : f.origin = .relay) :
    relayRetry id d = retryAttempt id d := by
  simp only [relayRetry, hf, if_pos ho]

/-- Settles O23: the branches of a work item, of a verify result, of a missed deadline and of a mismatch, one lemma above for
each. -/
theorem pairsServeTheirFrames : Obligations.PairsServeTheirFrames := by
  refine ⟨?work, ?verify, ?deadline, ?lockstep, ?selfTest, ?relay⟩
  case work =>
    rintro d p fault own c x late e hown hc hup rfl rfl he
    refine Answers.intro (f := tempoWorkItem p fault) (fun _ => rfl) ?_
    have htakes := tempoWorkItem_takes (fault := fault) hown hc hup
    refine ⟨fun hnone => ?unserved, fun hserved hbusy => ?waits, fun hserved hidle hfault => ?unharmed,
      fun a k hserved hidle hfault hread => ?reread, fun a k hserved hidle hfault hread => ?lost,
      fun k s hserved hidle hfault hs hread => ?known, fun k s f hserved hidle hfault hs hread hf => ?damaged,
      fun k hserved hidle hfault hs => ?stranger⟩
    case unserved => rw [htakes, if_pos (Option.isNone_iff_eq_none.mpr hnone)]
    all_goals rw [htakes, if_neg (by simp [Option.isNone_eq_false_iff.mpr hserved])]
    case waits => rw [if_pos hbusy]
    all_goals rw [if_neg (by simp [hidle]), hfault]
    case unharmed => rw [Dev.workItem_unharmed he]
    case reread => rw [Dev.workItem_other he, if_neg hread]
    case lost => rw [Dev.workItem_other he, if_pos hread]
    case known => simp only [Dev.workItem_context he k hs, if_neg hread]
    case damaged => simp only [Dev.workItem_context he k hs, if_pos hread, hf]
    case stranger => rw [Dev.workItem_stranger he k hs]
  case verify =>
    exact fun d req i r h e hi hr hh he => Answers.intro (f := verifyResult req) (fun _ => rfl)
      (verifyResult_ends hi hr hh he)
  case deadline =>
    exact fun d req => Answers.intro (f := ackDeadlineMissed req) (fun _ => rfl)
      ⟨ackDeadlineMissed_planned, fun _ => ackDeadlineMissed_ciphered⟩
  case lockstep =>
    intro d p item own hup hret hworks
    have h : d.Compares p own := ⟨hup, hret, hworks⟩
    refine Answers.intro (f := lockstepMismatch p item) (fun _ => rfl) ⟨?_, ?_, ?_, ?_⟩
    · rintro rfl
      exact lockstepMismatch_boundary h
    · rintro rfl
      exact lockstepMismatch_fifo h
    · rintro req rfl
      exact lockstepMismatch_verify req h
    · rintro id f rfl hf hack hfree
      exact lockstepMismatch_ack h hf hack hfree
  case selfTest =>
    exact fun d good hup hrep hret => Answers.intro (f := tp4SelfTest good) (fun _ => rfl)
      (tp4SelfTest_standby hup hrep hret)
  case relay =>
    exact fun d id f hf ho => Answers.intro (f := relayRetry id) (fun _ => rfl) (relayRetry_relays hf ho)

/-! Slot programs (R206, R207). -/

/-- The ASN goes into the octets of the frame; its identity stays (R210). -/
@[simp] theorem TxFrame.withAsn_id (f : TxFrame) (asn : Nat) : (f.withAsn asn).id = f.id := by
  unfold TxFrame.withAsn
  cases f.asn <;> rfl

section

variable {d e : Dev} {m : Nat}

/-- The branches of an occurrence: skipped, not served, a receive window, a frame of the queue (R207). -/
theorem slotOccurrence_occurs {r : SlotRun} {k : Nat} {busy served : Bool} (hm : m < 512) (hup : d.tempoUp = true)
    (hen : d.is Fld.lnkSlotW0_en m = true) (hr : r = { d.slotRun m with cfg := d.slotCfg m, lead := none })
    (hk : k = slotNext (d.slotCfg m) d.tmb) (he : e = d.raise 0x48)
    (hbusy : busy = (r.openTill.isSome || r.frame.any fun id => (e.frame id).isSome))
    (hserved : served = (e.pairClient (if e.is Fld.lnkSlotW0_kind m then 3 else pairOf r.sub r.chan)).isSome) :
    slotOccurrence m d =
      if busy then (e.setSlotRun { r with k := k + 1 }).bump Fld.lnkStat5_slotMissed
      else if !served then e.setSlotRun { r with k := k + 1 }
      else if e.rd Fld.lnkSlotW0_kind m = 0 then
        ((e.setSlotRun { r with k := k + 1, openTill := some (e.tmb + usTicks (e.rd Fld.lnkSlotW3_window m)) }).raise 0x46).settle
      else
        let g := e.setSlotRun { r with k := k + 1, frame := none }
        match g.slotted (g.rd Fld.lnkSlotW0_queue m) none with
        | none => g
        | some f => ((g.setSlotRun { r with k := k + 1, frame := some f.id }).slotSend { f.withAsn g.tempo.tsch.asn with
            cls := 4, start := slotStart (d.slotCfg m) + k * slotPeriod (d.slotCfg m), sub := r.sub, chan := r.chan }).settle := by
  have hruns : ¬ (decide (512 ≤ m) || !d.tempoUp || !d.is Fld.lnkSlotW0_en m) = true := by simp [hm, hup, hen]
  have hframe : (match r.frame with | some id => (e.frame id).isSome | none => false) =
      r.frame.any fun id => (e.frame id).isSome := by
    cases r.frame <;> rfl
  rw [hbusy, hserved, ← hframe, Option.not_isSome]
  subst hr hk he
  rw [slotOccurrence, if_neg hruns]
  simp only [TxFrame.withAsn_id] <;> rfl

theorem slotWindowClose_closes {r : SlotRun}
    (hr : (d.tempo.slots.find? fun r => r.entry = m && r.openTill.isSome) = some r) :
    slotWindowClose m d = ((d.setSlotRun { r with openTill := none }).raise 0x47).settle := by
  simp only [slotWindowClose, hr]

end

/-! TSCH (R208–R210). -/

section

variable {d e : Dev}

theorem tschTimeslot_starts {f : Dev} {a : Nat} (hup : d.tempoUp = true) (hen : d.is Fld.lnkTschCtrl_en = true)
    (hticks : d.slotTicks ≠ 0) (he : e = (d.tempo.tsch.next.map d.tschApply).getD d)
    (ht0 : e.tempo.tsch.t0 ≤ e.tmb)
    (ha : a = (e.tempo.tsch.asn0 + (e.tmb - e.tempo.tsch.t0) / e.slotTicks) % 2 ^ 40)
    (hf : f = (((({ e with tempo := { e.tempo with tsch := { e.tempo.tsch with asn := a } } } : Dev).wr
      Fld.lnkTschAsnLo_asn a).wr Fld.lnkTschAsnHi_asn (a / 2 ^ 32)).raise 0x49))
    (hserved : (f.pairClient 3).isSome = true) :
    tschTimeslot d = (f.cellsServe a ((List.range 8).flatMap fun sf =>
      (List.range 1024).filter fun c => f.rd Fld.lnkCellW0_sf c = sf && f.cellOccurs c a && f.is Fld.lnkCellW0_tx c)
      2 []).settle := by
  have hruns : ¬ (!d.tempoUp || !d.is Fld.lnkTschCtrl_en || decide (d.slotTicks = 0)) = true := by
    simp [hup, hen, hticks]
  have hserves : ¬ (f.pairClient 3).isNone = true := by simp [Option.isNone_eq_false_iff.mpr hserved]
  rw [tschTimeslot, if_neg hruns]
  cases hnext : d.tempo.tsch.next <;>
  · rw [hnext] at he
    subst he ha hf
    exact (if_neg (Nat.not_lt.mpr ht0)).trans (if_neg hserves)

/-- The registers wait for the next timeslot while TSCH is on, and apply at once otherwise (R208; the choice of log 78). -/
theorem lnkTschT0HiWrite_applies {who : Initiator} {w : Word} (hup : d.domUp 10 = true)
    (he : e = d.plainWrite who Reg.lnkTschT0Hi w) :
    lnkTschT0HiWrite who w d =
      if e.is Fld.lnkTschCtrl_en then
        { e with tempo := { e.tempo with tsch := { e.tempo.tsch with next := some e.tschRegs } } }
      else e.tschApply e.tschRegs := by
  subst he
  exact if_neg (by simp [hup])

/-- What R208 asks of a word of LNK_TSCH_CTRL: a hopping length of 1 to 64 and, with EN, a legal template, exponents in their
order and hopping entries that name channels. -/
def Dev.TschLegal (d : Dev) (w : Word) : Prop :=
  1 ≤ wBits w 8 2 ∧ wBits w 8 2 ≤ 64 ∧
    (wBits w 0 0 = 1 → d.templateOk = true ∧ wBits w 19 16 ≤ wBits w 23 20 ∧
      ((List.range (wBits w 8 2)).all fun j => d.chanDefined (wBits w 1 1 = 1) (d.hopEntry j)) = true)

theorem lnkTschCtrlWrite_legal {who : Initiator} {w : Word} (hup : d.domUp 10 = true) (h : d.TschLegal w) :
    lnkTschCtrlWrite who w d = d.plainWrite who Reg.lnkTschCtrl w := by
  obtain ⟨hpos, hmax, hen⟩ := h
  have hstays : ¬ (wBits w 0 0 = 1 ∧ (¬ d.templateOk = true ∨
      ((List.range (wBits w 8 2)).any fun j => !d.chanDefined (wBits w 1 1 = 1) (d.hopEntry j)) = true ∨
      wBits w 23 20 < wBits w 19 16)) := by
    rintro ⟨h1, hbad⟩
    obtain ⟨htmpl, hbe, hhops⟩ := hen h1
    rcases hbad with hbad | hbad | hbad
    · exact hbad htmpl
    · rw [← List.not_all_eq_any_not, hhops] at hbad
      cases hbad
    · exact Nat.not_lt.mpr hbe hbad
  rw [lnkTschCtrlWrite, if_neg (by simp [hup]), if_neg (by omega)]
  exact if_neg hstays

theorem lnkTschCtrlWrite_illegal {who : Initiator} {w : Word} (hup : d.domUp 10 = true) (h : ¬ d.TschLegal w) :
    lnkTschCtrlWrite who w d = d.rejectWrite who Reg.lnkTschCtrl := by
  rw [lnkTschCtrlWrite, if_neg (by simp [hup])]
  by_cases hlen : wBits w 8 2 = 0 ∨ 64 < wBits w 8 2
  · exact if_pos hlen
  · rw [if_neg hlen]
    refine if_pos (Classical.byContradiction fun hgood => h ⟨by omega, by omega, fun h1 => ?_⟩)
    obtain ⟨htmpl, hrest⟩ := not_or.mp (not_and.mp hgood h1)
    obtain ⟨hhops, hbe⟩ := not_or.mp hrest
    rw [← List.not_all_eq_any_not, Bool.not_eq_true', Bool.not_eq_false] at hhops
    exact ⟨Decidable.not_not.mp htmpl, Nat.not_lt.mp hbe, hhops⟩

end

/-- Settles O24: the occurrence of a slot program and the writes and timeslots of TSCH, one lemma above for each. -/
theorem slotsAndTimeslotsFollowTheirRules : Obligations.SlotsAndTimeslotsFollowTheirRules := by
  refine ⟨?occurrence, ?close, ?timeslot, ?t0, ?ctrl⟩
  case occurrence =>
    intro d m r k e busy served hm hup hen hr hk he hbusy hserved
    refine Answers.intro (f := slotOccurrence m) (fun _ => rfl) ?_
    rw [slotOccurrence_occurs hm hup hen hr hk he hbusy hserved]
    refine ⟨fun hb => ?_, fun hb hs => ?_, fun hb hs hkind => ?_, fun hb hs hkind hq => ?_, fun f hb hs hkind hq => ?_⟩
    · rw [if_pos hb]
    all_goals rw [hb, hs]
    · rfl
    · exact if_pos hkind
    · refine (if_neg hkind).trans ?_
      simp only [hq]
    · refine (if_neg hkind).trans ?_
      simp only [hq]
  case close =>
    exact fun d m r hr => Answers.intro (f := slotWindowClose m) (fun _ => rfl) (slotWindowClose_closes hr)
  case timeslot =>
    exact fun d e a f hup hen hticks he ht0 ha hf hserved => Answers.intro (f := tschTimeslot) (fun _ => rfl)
      (tschTimeslot_starts hup hen hticks he ht0 ha hf hserved)
  case t0 =>
    intro d who w e hup he
    refine Answers.intro (f := lnkTschT0HiWrite who w) (fun _ => rfl) ?_
    rw [lnkTschT0HiWrite_applies hup he]
    exact ⟨fun hoff => if_neg (by simp [hoff]), fun hon => if_pos hon⟩
  case ctrl =>
    intro d who w good hup hgood
    change good = true ↔ d.TschLegal w at hgood
    refine Answers.intro (f := lnkTschCtrlWrite who w) (fun _ => rfl) ?_
    by_cases h : d.TschLegal w
    · rw [lnkTschCtrlWrite_legal hup h, if_pos (hgood.mpr h)]
    · rw [lnkTschCtrlWrite_illegal hup h, if_neg (mt hgood.mp h)]

end Sys2Proof.Machine
end

section
/-! SUPPORT. Sleepy nodes: vote leads (R207, R217), the open and the close of a window (R216, R217, R219, R222), held frames
(R218) and Check patterns (R220, R221): what each command comes to where it acts; the statement of 10_sleepy_nodes.md
settled with these facts. -/

namespace Sys2Proof.Machine

open Sys2Proof

/-! Windows (R207, R216, R217, R219, R222). -/

theorem windowVoteLead_node (d : Dev) (s : Nat) : windowVoteLead (.node s) d = (d.nodeLead s).settle := rfl

theorem windowVoteLead_entry (d : Dev) (m : Nat) : windowVoteLead (.entry m) d = (d.entryLead m).settle := rfl

section

variable {d : Dev} {s : Nat} {w : NodeWin}

theorem windowOpen_opens
    (hw : (d.tempo.wins.find? fun w => w.slot = s && (w.phase = .planned || w.phase = .lead)) = some w)
    (hserv : d.tempo.service = true) :
    windowOpen s d =
      (((d.setWins (d.tempo.wins.map fun x => if x = w then { x with phase := .opened } else x)).coexWindow s).raise
        0x46).settle := by
  simp only [windowOpen, hw]
  exact if_neg (by simp [hserv])

/-- The close of an idle open window: `f` is the device with the window closed, 0x47 raised and a miss counted; what is
planned then goes by the window's marks and the phase that `f` shows (R216, R219, R222). -/
theorem windowClose_closes {e f : Dev} (hw : d.openWin s = some w) (hidle : d.winBusy w = false)
    (he : e = ((d.setWins (d.tempo.wins.map fun x => if x = w then { x with phase := .releasing } else x)).coexDrop
      (2 ^ 32 + s)).raise 0x47)
    (hf : f = if w.contacted then e else e.bump Fld.lnkSlpStat0_windowMiss) :
    windowClose s d =
      (if w.changed then f.schedRestart s
        else if w.contacted then f
        else if f.cx s Cx.gPhase = 2 then f.searchMiss s w.cfg w.k (w.e + usTicks w.h)
        else f.planWindow s w.k).winSweep.settle := by
  simp only [windowClose, hw, hf, he]
  exact if_neg (by simp [hidle])

end

/-! Held frames (R218). -/

section

variable {d ended : Dev} {s : Nat} {p : PendSend} (hp : (d.tempo.sends.find? fun x => x.slot = s) = some p)
  (hidle : d.heldInFlight s = false)
  (hended : ended = { d with tempo := { d.tempo with sends := d.tempo.sends.filter fun x => x.slot != s } })

include hp hidle hended

theorem heldFrameSend_none (hnone : d.nextHeld s = none) : heldFrameSend s d = ended.winSweep := by
  simp only [heldFrameSend, hp, hnone, hended]
  exact if_neg (by simp [hidle])

variable {f : TxFrame} (hf : d.nextHeld s = some f)

include hf

/-- A node that may not be sent to keeps its held frames. -/
theorem heldFrameSend_barred (hbar : d.releases s = false ∨ d.damagedSlot s = true) :
    heldFrameSend s d = ended.winSweep := by
  simp only [heldFrameSend, hp, hf, hended]
  exact (if_neg (by simp [hidle])).trans (if_pos (by simpa using hbar))

theorem heldFrameSend_sends {e : Dev} {g : TxFrame} (hrel : d.releases s = true) (hsound : d.damagedSlot s = false)
    (he : e = if (d.heardBy s).isSome then ended else d)
    (hg : g = { f with
      stage := .scheduled, cls := 2, sub := p.sub, chan := p.chan, phy := p.phy, mode := p.mode, start := p.at'
      mac := setPending f.mac (e.pendingFor s f.id) }) :
    heldFrameSend s d =
      if f.secure then ((e.takeInput f.id).setFrame g).secureFrame g else (e.takeInput f.id).setFrame g := by
  simp only [heldFrameSend, hp, hf, hg, he, hended]
  exact (if_neg (by simp [hidle])).trans (if_neg (by simp [hrel, hsound]))

end

/-! Check patterns (R220, R221). -/

section

variable {d : Dev} {s : Nat} {c : CheckRun}

theorem checkTelegramSend_queues {x q : Nat} (hc : (d.tempo.checks.find? fun c => c.slot = s) = some c)
    (hdue : c.due = some x) (hphase : d.cx s Cx.gPhase = 3)
    (hq : q = slpOf c.cfg (if c.sub then Fld.lnkSlpWake_qsub else Fld.lnkSlpWake_q24)) :
    checkTelegramSend s d =
      ({ d with tempo := { d.tempo with
        checks := d.tempo.checks.map fun y => if y.slot = s then { y with due := none } else y } } : Dev).addFrame {
          id := 0, origin := .check, cls := 2, sub := c.sub, chan := c.chan, phy := 3, wake := d.wakeAddr s
          earliest := max x d.tmb, node := some s, power := signedOf q 9
          profile := slpOf c.cfg (if c.sub then Fld.lnkSlpWake_psub else Fld.lnkSlpWake_p24)
          stage := .scheduled } := by
  simp only [checkTelegramSend, hc, hdue, hq]
  exact if_neg (not_not.mpr hphase)

/-- The end of a wait: the node is reported where its tries are used up, else its next telegram is due now. -/
theorem checkWaitEnd_ends (hc : (d.tempo.checks.find? fun c => c.slot = s && c.wait.isSome) = some c) :
    checkWaitEnd s d =
      if slpOf c.cfg Fld.lnkSlpLost_checkTries ≤ d.cx s Cx.gCount then (d.enterReported s).settle
      else ({ d with tempo := { d.tempo with checks := d.tempo.checks.map fun x =>
        if x.slot = s then { x with due := some d.tmb, wait := none, lead := none, cfg := d.slpCfg } else x } } : Dev).settle := by
  simp only [checkWaitEnd, hc]

end

/-- Settles O25: the leads, the open and the close of windows, held frames and Check patterns, by the lemmas above. -/
theorem sleepyNodesAreServed : Obligations.SleepyNodesAreServed := by
  refine ⟨?lead, ?opens, ?close, ?held, ?telegram, ?wait⟩
  case lead =>
    refine fun d w => Answers.intro (f := windowVoteLead w) (fun _ => rfl) ⟨?_, ?_⟩
    · rintro s rfl
      exact windowVoteLead_node d s
    · rintro m rfl
      exact windowVoteLead_entry d m
  case opens =>
    exact fun d s w hw hserv => Answers.intro (f := windowOpen s) (fun _ => rfl) (windowOpen_opens hw hserv)
  case close =>
    intro d s w e f hw hidle he hf
    refine Answers.intro (f := windowClose s) (fun _ => rfl) ?_
    rw [windowClose_closes hw hidle he hf]
    refine ⟨fun hch => ?_, fun hch hco => ?_, fun hch hco hph => ?_, fun hch hco hph => ?_⟩
    · rw [if_pos hch]
    all_goals rw [if_neg (by simp [hch])]
    · rw [if_pos hco]
    all_goals rw [if_neg (by simp [hco])]
    · rw [if_pos hph]
    · rw [if_neg hph]
  case held =>
    intro d s p ended hp hidle hended
    exact Answers.intro (f := heldFrameSend s) (fun _ => rfl) ⟨heldFrameSend_none hp hidle hended,
      fun _ => heldFrameSend_barred hp hidle hended,
      fun _ _ _ hf hrel hsound he hg => heldFrameSend_sends hp hidle hended hf hrel hsound he hg⟩
  case telegram =>
    exact fun d s x c q hc hdue hphase hq => Answers.intro (f := checkTelegramSend s) (fun _ => rfl)
      (checkTelegramSend_queues hc hdue hphase hq)
  case wait =>
    intro d s c hc
    refine Answers.intro (f := checkWaitEnd s) (fun _ => rfl) ?_
    rw [checkWaitEnd_ends hc]
    exact ⟨fun hout => if_pos hout, fun hleft => if_neg (Nat.not_le.mpr hleft)⟩

end Sys2Proof.Machine
end

section
/-! SUPPORT. The node table's counter skip and the write-back of a NEW verdict (R235, R255): what a write of NDT_OUT_SKIP
stores, what context fields written one after the other read; the statements of 11_node_table_routing.md on them settled
with these facts. -/

namespace Sys2Proof.Machine

open Sys2Proof

/-! NDT_OUT_SKIP (R7, R255). -/

/-- The row of NDT_OUT_SKIP in the register map: all 32 bits are RW. -/
def outSkipRow : RegRow :=
  { base := Reg.ndtOutSkip, count := 1, stride := 4, dom := 22, reset := 0x10000, rw := 0xFFFFFFFF }

theorem regAt_ndtOutSkip : regAt Reg.ndtOutSkip = some (outSkipRow, 0) := by decide +kernel

/-- The register has no reserved bit. -/
theorem outSkipRow_hitsReserved (w : Word) : outSkipRow.hitsReserved w.toNat = false := by
  have hknown : 0xFFFFFFFF ^^^ outSkipRow.known = 0 := rfl
  rw [RegRow.hitsReserved, hknown, Nat.and_zero]
  rfl

/-- Every bit comes from the written word. -/
theorem outSkipRow_stored (before old w : Word) : outSkipRow.stored false Reg.ndtOutSkip before old w = w := by
  apply BitVec.eq_of_getLsbD_eq
  intro i hi
  have htakes : outSkipRow.takes false i = true := by
    rw [RegRow.takes, show outSkipRow.rw = 2 ^ 32 - 1 from rfl, Nat.testBit_two_pow_sub_one, decide_eq_true hi, Bool.true_or]
  have hmerge : (outSkipRow.merge false old.toNat w.toNat).testBit i = w.getLsbD i := by
    rw [RegRow.merge_bit _ _ _ _ _ hi, htakes]
    simp [outSkipRow, BitVec.getLsbD]
  rw [RegRow.stored, outSkipRow_hitsReserved, Bool.and_false, if_neg Bool.false_ne_true, BitVec.getLsbD_ofNat,
    Nat.testBit_or, hmerge]
  simp [hi, outSkipRow]

section

variable {d : Dev} {who : Initiator} {w : Word}

theorem Dev.regWrite_outSkip :
    d.regWrite who Reg.ndtOutSkip w =
      if d.secureOrHost who = false then d.refuseWrite who Reg.ndtOutSkip
      else if w = 0#32 then d.errRsvd who true Reg.ndtOutSkip
      else d.plainWrite who Reg.ndtOutSkip w := by
  have hchecked : d.regWrite who Reg.ndtOutSkip w =
      d.checkedBy (d.secureOrHost who) (w = 0) who Reg.ndtOutSkip w := rfl
  rw [hchecked, Dev.checkedBy]
  simp only [Bool.not_eq_true', decide_eq_true_eq, Dev.rejectWrite]
  rfl

theorem Dev.plainWrite_outSkip : d.plainWrite who Reg.ndtOutSkip w = d.setReg Reg.ndtOutSkip w := by
  have hrecord : d.rsvd who Reg.ndtOutSkip w = d := by
    simp only [Dev.rsvd, regAt_ndtOutSkip, outSkipRow_hitsReserved, Bool.false_eq_true, if_false]
  simp only [Dev.plainWrite, regAt_ndtOutSkip, hrecord, outSkipRow_stored]

end

/-- Settles O57: the write is refused, rejected, or a plain write that takes the whole word. -/
theorem outgoingSkipTakesItsRange : Obligations.OutgoingSkipTakesItsRange := by
  refine ⟨by decide +kernel, by rw [regAt_ndtOutSkip]; rfl, fun d who w hinv => ⟨fun hwho hw => ?_, fun hwho => ?_,
    fun hwho => ?_⟩⟩
  · have hwrite : d.regWrite who Reg.ndtOutSkip w = d.setReg Reg.ndtOutSkip w := by
      rw [Dev.regWrite_outSkip, if_neg (by simp [hwho]), if_neg hw, Dev.plainWrite_outSkip]
    rw [hwrite]
    refine ⟨rfl, ?_, OnlyRegs.setReg _ _ _ _ (Dev.inv_regs hinv) (List.mem_singleton.mpr rfl)⟩
    rw [Dev.reg_setReg _ _ _ _ (Dev.inv_regs hinv), if_pos rfl]
  · rw [Dev.regWrite_outSkip, if_neg (by simp [hwho]), if_pos rfl]
  · rw [Dev.regWrite_outSkip, if_pos hwho]

/-! Context fields written one after the other (R232). -/

/-- Two fields of a context hold bits, and none in common (Table 11.2). -/
def CtxField.apart (f g : CtxField) : Bool :=
  decide (0 < f.n) && decide (0 < g.n) &&
    (decide (8 * f.off + f.lo + f.n ≤ 8 * g.off + g.lo) || decide (8 * g.off + g.lo + g.n ≤ 8 * f.off + f.lo))

theorem CtxField.apart_comm (f g : CtxField) : f.apart g = g.apart f := by
  rw [CtxField.apart, CtxField.apart, Bool.and_comm (decide (0 < f.n)), Bool.or_comm]

/-- The device with some fields of context `s` replaced, one after the other. -/
def Dev.putCx (d : Dev) (s : Nat) (l : List (CtxField × Nat)) : Dev := l.foldl (fun d x => d.setCx s x.1 x.2) d

section

variable {d : Dev} {s : Nat} {f g : CtxField} {v : Nat} {l : List (CtxField × Nat)}

theorem Dev.putCx_memWf (h : Memory.wf d.mem = true) : Memory.wf (d.putCx s l).mem = true := by
  induction l generalizing d with
  | nil => exact h
  | cons x l ih => exact ih (d.setCx_memWf s x.1 x.2 h)

theorem Dev.cx_setCx_apart (h : Memory.wf d.mem = true) (ha : f.apart g = true) : (d.setCx s f v).cx s g = d.cx s g := by
  simp only [CtxField.apart, Bool.and_eq_true, Bool.or_eq_true, decide_eq_true_eq] at ha
  obtain ⟨⟨hf, hg⟩, hd⟩ := ha
  exact d.cx_setCx_other s s f g v h hf hg (by omega)

theorem Dev.cx_putCx_apart (h : Memory.wf d.mem = true) (ha : ∀ x ∈ l, x.1.apart g = true) :
    (d.putCx s l).cx s g = d.cx s g := by
  induction l generalizing d with
  | nil => rfl
  | cons x l ih =>
    calc (d.putCx s (x :: l)).cx s g = (d.setCx s x.1 x.2).cx s g :=
          ih (d.setCx_memWf s x.1 x.2 h) fun y hy => ha y (List.mem_cons_of_mem _ hy)
      _ = d.cx s g := Dev.cx_setCx_apart h (ha x List.mem_cons_self)

/-- Among fields apart from one another each reads as what was written to it. -/
theorem Dev.cx_putCx_mem (h : Memory.wf d.mem = true) (hf : 0 < f.n) (hl : l.Pairwise fun x y => x.1.apart y.1 = true)
    (hm : (f, v) ∈ l) : (d.putCx s l).cx s f = v % 2 ^ f.n := by
  induction l generalizing d with
  | nil => cases hm
  | cons x l ih =>
    obtain ⟨hx, hl⟩ := List.pairwise_cons.mp hl
    rcases List.mem_cons.mp hm with rfl | hm
    · calc (d.putCx s ((f, v) :: l)).cx s f = (d.setCx s f v).cx s f :=
            Dev.cx_putCx_apart (d.setCx_memWf s f v h) fun y hy => (CtxField.apart_comm _ _).trans (hx y hy)
        _ = v % 2 ^ f.n := d.cx_setCx s f v h hf
    · exact ih (d.setCx_memWf s x.1 x.2 h) hl hm

/-- The mark for replication leaves node memory alone. -/
@[simp] theorem Dev.replMark_mem (d : Dev) (s : Nat) : (d.replMark s).mem = d.mem := by
  rw [Dev.replMark, apply_ite Dev.mem]
  exact ite_self _

theorem Dev.cx_of_mem_eq {e : Dev} (h : d.mem = e.mem) : d.cx s g = e.cx s g := by
  have hbyte (a : Nat) : d.byte a = e.byte a := by rw [Dev.byte, Dev.byte, h]
  have hbytes (a n : Nat) : d.bytes a n = e.bytes a n := by
    induction n generalizing a with
    | zero => rfl
    | succ n ih => rw [Dev.bytes, Dev.bytes, hbyte, ih]
  rw [Dev.cx, Dev.cx, Dev.le, Dev.le, hbytes]

/-- A touch of a context writes its EPOCH and SEQ and no other field. -/
theorem Dev.cx_cxTouch (h : Memory.wf d.mem = true) (he : Cx.epoch.apart g = true) (hs : Cx.seq.apart g = true) :
    (d.cxTouch s).cx s g = d.cx s g := by
  rw [Dev.cxTouch, Dev.cx_of_mem_eq (Dev.replMark_mem _ s), Dev.cx_setCx_apart (d.setCx_memWf _ _ _ h) hs,
    Dev.cx_setCx_apart h he]

end

/-! The write-back of a NEW verdict (R194, R234, R235). -/

/-- LQ after a frame: its LQI while LQ is unknown, else LQ moved by the shifted difference. -/
def Dev.lqMoved (d : Dev) (s lqi : Nat) : Int :=
  if d.cxIs s Cx.lqKnown then (d.cx s Cx.lq : Int) + ((lqi : Int) - d.cx s Cx.lq) / (2 ^ d.rd Fld.ndtCfg_lqAlpha : Nat)
  else lqi

/-- The fields that the write-back replaces by the frame's values. -/
def Dev.newFields (d : Dev) (s : Nat) (h : Mhr) (x : RxFrame) : List (CtxField × Nat) :=
  (if h.secured then [(Cx.fcIn, h.fc + 1)] else []) ++ (if h.noDsn then [] else [(Cx.lastDsn, h.dsn)]) ++
    [(Cx.lastCheck, d.checkOf s h x), (Cx.history, 1), (Cx.lq, (clampInt (d.lqMoved s x.lqi) 0 255).toNat), (Cx.lqKnown, 1),
      (Cx.lastRssi, x.rssi), (Cx.lastCh, x.chan), (Cx.lastBand, b2n x.sub), (Cx.lastPhy, x.phy)]

section

variable {d : Dev} {s : Nat} {h : Mhr} {x : RxFrame}

theorem Dev.newWriteBack_eq :
    d.newWriteBack s h x = ((d.putCx s (d.newFields s h x)).cxBump s Cx.rxFrames).cxTouch s := by
  unfold Dev.newWriteBack Dev.newFields Dev.putCx Dev.lqMoved
  cases h.secured <;> cases h.noDsn <;>
    simp only [Bool.false_eq_true, if_false, if_true, List.nil_append, List.cons_append, List.foldl_cons, List.foldl_nil]

/-- No two of the replaced fields share a bit. -/
theorem Dev.newFields_pairwise : (d.newFields s h x).Pairwise fun x y => x.1.apart y.1 = true := by
  unfold Dev.newFields
  cases h.secured <;> cases h.noDsn <;> simp [CtxField.apart]

/-- None of them lies in RX_FRAMES. -/
theorem Dev.newFields_apart_rxFrames : ∀ y ∈ d.newFields s h x, y.1.apart Cx.rxFrames = true := by
  unfold Dev.newFields
  cases h.secured <;> cases h.noDsn <;> simp [CtxField.apart]

section

variable (hwf : Memory.wf d.mem = true)

include hwf

/-- A replaced field reads as the frame's value, cut to its width. -/
theorem Dev.cx_newWriteBack {f : CtxField} {v : Nat} (hm : (f, v) ∈ d.newFields s h x) (hf : 0 < f.n)
    (hr : Cx.rxFrames.apart f = true) (he : Cx.epoch.apart f = true) (hs : Cx.seq.apart f = true) :
    (d.newWriteBack s h x).cx s f = v % 2 ^ f.n := by
  have hput : Memory.wf (d.putCx s (d.newFields s h x)).mem = true := Dev.putCx_memWf hwf
  have hbump : Memory.wf ((d.putCx s (d.newFields s h x)).cxBump s Cx.rxFrames).mem = true := Dev.setCx_memWf _ _ _ _ hput
  rw [Dev.newWriteBack_eq, Dev.cx_cxTouch hbump he hs, Dev.cxBump, Dev.cx_setCx_apart hput hr,
    Dev.cx_putCx_mem hwf hf Dev.newFields_pairwise hm]

theorem Dev.rxFrames_newWriteBack : (d.newWriteBack s h x).cx s Cx.rxFrames = min (d.cx s Cx.rxFrames + 1) 65535 := by
  have hput : Memory.wf (d.putCx s (d.newFields s h x)).mem = true := Dev.putCx_memWf hwf
  have hbump : Memory.wf ((d.putCx s (d.newFields s h x)).cxBump s Cx.rxFrames).mem = true := Dev.setCx_memWf _ _ _ _ hput
  rw [Dev.newWriteBack_eq, Dev.cx_cxTouch hbump rfl rfl, Dev.cxBump,
    Dev.cx_setCx _ _ _ _ hput (by decide), Dev.cx_putCx_apart hwf Dev.newFields_apart_rxFrames, satAdd,
    show 2 ^ Cx.rxFrames.n = 65536 from rfl]
  split <;> omega

end

/-- A context field fits its width. -/
theorem Dev.cx_lt (d : Dev) (s : Nat) {f : CtxField} (hf : 0 < f.n) : d.cx s f < 2 ^ f.n := by
  have hwidth : f.lo + f.n - 1 + 1 - f.lo = f.n := by omega
  rw [Dev.cx, bitsOf, hwidth]
  exact Nat.mod_lt _ (Nat.two_pow_pos _)

/-- Moving from `a` by a shifted difference towards `b` stays between them. -/
theorem move_between (a b : Int) (k : Nat) : min a b ≤ a + (b - a) / (2 ^ k : Nat) ∧ a + (b - a) / (2 ^ k : Nat) ≤ max a b := by
  have hpos : (1 : Int) ≤ (2 ^ k : Nat) := by exact_mod_cast Nat.two_pow_pos k
  rcases Int.le_total a b with hab | hab
  · have hlo : 0 ≤ (b - a) / (2 ^ k : Nat) := Int.ediv_nonneg (by omega) (by omega)
    have hhi : (b - a) / (2 ^ k : Nat) ≤ b - a := Int.ediv_le_self _ (by omega)
    omega
  · have hlo : b - a ≤ (b - a) / (2 ^ k : Nat) := by
      rw [Int.le_ediv_iff_mul_le (by omega)]
      nlinarith
    have hhi : (b - a) / (2 ^ k : Nat) ≤ 0 := Int.ediv_nonpos_of_nonpos_of_neg (by omega) (by omega)
    omega

/-- LQ stays a byte. -/
theorem Dev.lqMoved_byte (hlqi : x.lqi ≤ 255) : 0 ≤ d.lqMoved s x.lqi ∧ d.lqMoved s x.lqi ≤ 255 := by
  have hlq : d.cx s Cx.lq < 256 := d.cx_lt s (by decide)
  have hmove := move_between (d.cx s Cx.lq) x.lqi (d.rd Fld.ndtCfg_lqAlpha)
  unfold Dev.lqMoved
  split <;> omega

theorem Dev.lq_newWriteBack (hwf : Memory.wf d.mem = true) (hlqi : x.lqi ≤ 255) :
    ((d.newWriteBack s h x).cx s Cx.lq : Int) = d.lqMoved s x.lqi := by
  obtain ⟨h0, h255⟩ := Dev.lqMoved_byte (d := d) (s := s) hlqi
  have hclamp : clampInt (d.lqMoved s x.lqi) 0 255 = d.lqMoved s x.lqi := by
    rw [clampInt, if_neg (by omega), if_neg (by omega)]
  rw [Dev.cx_newWriteBack (f := Cx.lq) (v := (clampInt (d.lqMoved s x.lqi) 0 255).toNat) hwf (by simp [Dev.newFields])
    (by decide) rfl rfl rfl, hclamp, show 2 ^ Cx.lq.n = 256 from rfl]
  omega

end

/-- Settles O58: LQ by `Dev.lqMoved`, the other fields as the write-back replaces them. -/
theorem linkQualityFollowsItsRule : Obligations.LinkQualityFollowsItsRule := by
  intro d s h x hinv hlqi
  have hwf := Dev.inv_mem hinv
  have hlq := Dev.lq_newWriteBack (h := h) (s := s) hwf hlqi
  have hfield {f : CtxField} {v : Nat} := Dev.cx_newWriteBack (h := h) (s := s) (x := x) (f := f) (v := v) hwf
  refine ⟨fun hnew => ?_, fun hknown => ?_, ?_, ?_, ?_, ?_, ?_, Dev.rxFrames_newWriteBack hwf⟩
  · rw [Dev.lqMoved, Dev.cxIs, hnew] at hlq
    simpa using hlq
  · rw [hlq, Dev.lqMoved, Dev.cxIs, hknown]
    simp
  · exact hfield (v := 1) (by simp [Dev.newFields]) (by decide) rfl rfl rfl
  · exact hfield (v := x.rssi) (by simp [Dev.newFields]) (by decide) rfl rfl rfl
  · exact hfield (v := x.chan) (by simp [Dev.newFields]) (by decide) rfl rfl rfl
  · rw [hfield (v := b2n x.sub) (by simp [Dev.newFields]) (by decide) rfl rfl rfl]
    cases x.sub <;> rfl
  · exact hfield (v := x.phy) (by simp [Dev.newFields]) (by decide) rfl rfl rfl

end Sys2Proof.Machine
end

section
/-! SUPPORT. Node and route commands and the operations on a held table (R234, R237, R238, R240, R242, R249–R252): what each
comes to in a case of its rule; the statement of 11_node_table_routing.md on them settled with these facts. -/

namespace Sys2Proof.Machine

open Sys2Proof

section

variable {d : Dev} {x : HciCmd}

theorem Dev.runOpcode_nodeAdd (h : x.opcode = 0x20) : d.runOpcode x = d.runNodeAdd x := by simp only [Dev.runOpcode, h]
theorem Dev.runOpcode_nodeUpdate (h : x.opcode = 0x21) : d.runOpcode x = d.runNodeUpdate x := by simp only [Dev.runOpcode, h]
theorem Dev.runOpcode_nodeRemove (h : x.opcode = 0x22) : d.runOpcode x = d.runNodeRemove x := by simp only [Dev.runOpcode, h]
theorem Dev.runOpcode_nodeRead (h : x.opcode = 0x23) : d.runOpcode x = d.runNodeRead x := by simp only [Dev.runOpcode, h]
theorem Dev.runOpcode_routeSet (h : x.opcode = 0x24) : d.runOpcode x = d.runRouteSet x := by simp only [Dev.runOpcode, h]
theorem Dev.runOpcode_routeDel (h : x.opcode = 0x25) : d.runOpcode x = d.runRouteDel x := by simp only [Dev.runOpcode, h]
theorem Dev.runOpcode_snapshot (h : x.opcode = 0x26) : d.runOpcode x = d.runSnapshot x := by simp only [Dev.runOpcode, h]
theorem Dev.runOpcode_restore (h : x.opcode = 0x27) : d.runOpcode x = d.runRestore x := by simp only [Dev.runOpcode, h]

end

/-! NODE_ADD (R234, R242). -/

section

variable {d : Dev} {addr : Nat} {fresh route : Bool} {img : List Byte}

theorem Dev.nodeAdd_held (hheld : d.ndt.held = true) : d.nodeAdd addr fresh route img = (d, Code.tableHeld) := if_pos hheld

variable (hheld : d.ndt.held = false)

include hheld

theorem Dev.nodeAdd_reserved (hg : groupsOk img [0, 1, 2, 3] = false) :
    d.nodeAdd addr fresh route img = (d, Code.reservedField) := by
  simp only [Dev.nodeAdd, hheld, hg, Bool.not_false, Bool.false_eq_true, if_false, if_true]

variable (hg : groupsOk img [0, 1, 2, 3] = true)

include hg

theorem Dev.nodeAdd_foreign (hm : addr / 32768 ≠ d.member) : d.nodeAdd addr fresh route img = (d, Code.notMember) := by
  simp only [Dev.nodeAdd, hheld, hg, if_pos hm, Bool.not_true, Bool.false_eq_true, if_false]

variable (hm : addr / 32768 = d.member)

include hm

theorem Dev.nodeAdd_damaged (hd : d.damagedNode (addr % 32768) = true) :
    d.nodeAdd addr fresh route img = (d, Code.rebuilding) := by
  simp only [Dev.nodeAdd, hheld, hg, hm, hd, ne_eq, not_true_eq_false, Bool.not_true, Bool.false_eq_true, if_false, if_true]

variable (hd : d.damagedNode (addr % 32768) = false)

include hd

theorem Dev.nodeAdd_exists (ht : d.slotValid (addr % 32768) = true ∨ d.keysTaken img = true) :
    d.nodeAdd addr fresh route img = (d, Code.nodeExists) := by
  have htaken : (d.slotValid (addr % 32768) || d.keysTaken img) = true := by simpa using ht
  simp only [Dev.nodeAdd, hheld, hg, hm, hd, htaken, ne_eq, not_true_eq_false, Bool.not_true, Bool.false_eq_true, if_false,
    if_true]

/-- A free slot takes the node; the table stays as it was where a key finds no place. -/
theorem Dev.nodeAdd_inserts {s : Nat} {f g h : Dev} {ins : Dev × Nat} (hs : s = addr % 32768)
    (hv : d.slotValid s = false) (hk : d.keysTaken img = false)
    (hf : f = ((d.nextStamp.1.setBytes (ctxAddr s) (List.replicate 128 0#8)).setCx s Cx.nodeAddr addr).setCx s Cx.valid 1)
    (hgr : g = [0, 1, 2, 3].foldl (fun b k => (b.putGroup s k img).putStamp s k d.nextStamp.2) f)
    (hh : h = ((g.firstUse s fresh route).cxTouch s).setRte s addr true s g.member)
    (hins : ins = h.insertKeys s (h.residentKeys s)) :
    d.nodeAdd addr fresh route img =
      if ins.2 = Code.ok then (ins.1.rebuilt s, Code.ok) else (d.refusedUpdate ins.1, ins.2) := by
  subst hs hf hgr hh hins
  simp only [Dev.nodeAdd, hheld, hg, hm, hd, hv, hk, ne_eq, not_true_eq_false, Bool.not_true, Bool.or_self,
    Bool.false_eq_true, if_false]

end

section

variable {d e : Dev} {x : HciCmd} {st : Nat}

theorem Dev.runNodeAdd_refused
    (h : d.nodeAdd (x.a 0) ((x.a 1).testBit 0) ((x.a 1).testBit 1) (d.cmdData x) = (e, st)) (hst : st ≠ Code.ok) :
    d.runNodeAdd x = e.finish x st [] := by
  simp only [Dev.runNodeAdd, h, if_neg hst, Dev.done]

theorem Dev.runNodeAdd_added
    (h : d.nodeAdd (x.a 0) ((x.a 1).testBit 0) ((x.a 1).testBit 1) (d.cmdData x) = (e, Code.ok)) :
    d.runNodeAdd x = (e.schedChanged (x.a 0 % 32768)).finish x Code.ok [] := by
  simp only [Dev.runNodeAdd, h, if_true, Dev.done]

end

/-! NODE_UPDATE (R222, R240). -/

section

variable {d : Dev} {addr s : Nat} {gs : List Nat} {setCu clrCu : Bool} {img : List Byte}

theorem Dev.nodeUpdate_held (hheld : d.ndt.held = true) :
    d.nodeUpdate addr gs setCu clrCu img = (d, Code.tableHeld) := if_pos hheld

variable (hheld : d.ndt.held = false)

include hheld

theorem Dev.nodeUpdate_reserved (hr : ((setCu && clrCu) || !groupsOk img gs) = true) :
    d.nodeUpdate addr gs setCu clrCu img = (d, Code.reservedField) := by
  simp only [Dev.nodeUpdate, hheld, if_pos hr, Bool.false_eq_true, if_false]

variable (hr : ((setCu && clrCu) || !groupsOk img gs) = false)

include hr

theorem Dev.nodeUpdate_unknown (hs : d.findSlot addr = none) :
    d.nodeUpdate addr gs setCu clrCu img = (d, Code.nodeUnknown) := by
  simp only [Dev.nodeUpdate, hheld, hr, hs, Bool.false_eq_true, if_false]

variable (hs : d.findSlot addr = some s)

include hs

theorem Dev.nodeUpdate_damaged (hd : d.damagedSlot s = true) :
    d.nodeUpdate addr gs setCu clrCu img = (d, Code.rebuilding) := by
  simp only [Dev.nodeUpdate, hheld, hr, hs, hd, Bool.false_eq_true, if_false, if_true]

variable (hd : d.damagedSlot s = false) {y : Dev × Nat} (hy : y = d.nextStamp.1.groupUpdates s img d.nextStamp.2 gs)

include hd hy

theorem Dev.nodeUpdate_refused (hno : y.2 ≠ Code.ok) :
    d.nodeUpdate addr gs setCu clrCu img = (d.refusedUpdate y.1, y.2) := by
  subst hy
  simp only [Dev.nodeUpdate, hheld, hr, hs, hd, if_neg hno, Bool.false_eq_true, if_false]

theorem Dev.nodeUpdate_applied {f g : Dev} (hok : y.2 = Code.ok)
    (hf : f = if setCu then y.1.setCx s Cx.counterUnknown 1 else if clrCu then y.1.setCx s Cx.counterUnknown 0 else y.1)
    (hg : g = if (gs.any fun k => d.nextStamp.2.gt (d.stampOf s k)) || setCu || clrCu then f.cxTouch s else f) :
    d.nodeUpdate addr gs setCu clrCu img = (g, Code.ok) := by
  subst hy hf hg
  simp only [Dev.nodeUpdate, hheld, hr, hs, hd, if_pos hok, Bool.false_eq_true, if_false]

end

section

variable {d g : Dev} {x : HciCmd} {gs : List Nat} (hgs : gs = (List.range 4).filter fun g => (x.a 1).testBit g)

include hgs

theorem Dev.runNodeUpdate_refused {st : Nat}
    (h : d.nodeUpdate (x.a 0) gs ((x.a 1).testBit 4) ((x.a 1).testBit 5) (d.cmdData x) = (g, st)) (hst : st ≠ Code.ok) :
    d.runNodeUpdate x = g.finish x st [] := by
  subst hgs
  cases hs : d.findSlot (x.a 0) <;>
    simp only [Dev.runNodeUpdate, h, hs, decide_eq_false hst, Bool.false_and, Bool.false_eq_true, if_false, Dev.done]

/-- An update starts a changed schedule anew. -/
theorem Dev.runNodeUpdate_applied {s : Nat} (hs : d.findSlot (x.a 0) = some s)
    (h : d.nodeUpdate (x.a 0) gs ((x.a 1).testBit 4) ((x.a 1).testBit 5) (d.cmdData x) = (g, Code.ok)) :
    d.runNodeUpdate x = (if [d.cx s Cx.schedPeriod, d.cx s Cx.schedOffset, d.cx s Cx.schedBand] =
        [g.cx s Cx.schedPeriod, g.cx s Cx.schedOffset, g.cx s Cx.schedBand] then g else g.schedChanged s).finish x Code.ok [] := by
  subst hgs
  simp only [Dev.runNodeUpdate, h, hs, decide_true, Bool.true_and, bne_iff_ne, Dev.done]
  rw [ite_not]

end

/-! NODE_REMOVE and NODE_READ (R242). -/

section

variable {d : Dev} {x : HciCmd} {s : Nat}

theorem Dev.runNodeRemove_held (hheld : d.ndt.held = true) : d.runNodeRemove x = d.finish x Code.tableHeld [] := by
  simp only [Dev.runNodeRemove, Dev.nodeRemove, hheld, if_true, Dev.done]

theorem Dev.runNodeRead_held (hheld : d.ndt.held = true) : d.runNodeRead x = d.finish x Code.tableHeld [] := by
  rw [Dev.runNodeRead, Dev.nodeRead, if_pos hheld]
  rfl

variable (hheld : d.ndt.held = false)

include hheld

theorem Dev.runNodeRemove_unknown (hs : d.findSlot (x.a 0) = none) : d.runNodeRemove x = d.finish x Code.nodeUnknown [] := by
  simp only [Dev.runNodeRemove, Dev.nodeRemove, hheld, hs, Bool.false_eq_true, if_false, Dev.done]

theorem Dev.runNodeRead_unknown (hs : d.findSlot (x.a 0) = none) : d.runNodeRead x = d.finish x Code.nodeUnknown [] := by
  simp only [Dev.runNodeRead, Dev.nodeRead, hheld, hs, Bool.false_eq_true, if_false]
  rfl

variable (hs : d.findSlot (x.a 0) = some s)

include hs

theorem Dev.runNodeRemove_known :
    d.runNodeRemove x = if d.damagedSlot s then d.finish x Code.rebuilding []
      else ((((d.dropNode s).slpForget s).dropNodeFrames s).settle).finish x Code.ok [] := by
  cases hd : d.damagedSlot s <;>
    simp only [Dev.runNodeRemove, Dev.nodeRemove, hheld, hs, hd, Bool.false_eq_true, if_false, if_true, Dev.done]

theorem Dev.runNodeRead_known :
    d.runNodeRead x = if d.damagedSlot s then d.finish x Code.rebuilding []
      else (d.cmdReturn x (d.bytes (ctxAddr s) 128)).finish x Code.ok [] := by
  simp only [Dev.runNodeRead, Dev.nodeRead, hheld, hs, Bool.false_eq_true, if_false]
  cases d.damagedSlot s <;> rfl

end

/-! ROUTE_SET (R237, R238) and ROUTE_DEL (R242). -/

section

variable {d : Dev} {addr owner r : Nat} {eui : Option Nat} {short : Option (Nat × Nat)}

theorem Dev.routeSet_held (hheld : d.ndt.held = true) : d.routeSet addr owner eui short = (d, Code.tableHeld, 0) :=
  if_pos hheld

variable (hheld : d.ndt.held = false)

include hheld

theorem Dev.routeSet_resident (hs : (d.findSlot addr).isSome = true) :
    d.routeSet addr owner eui short = (d, Code.reservedField, 0) := by
  unfold Dev.routeSet
  simp only [hheld, hs, Bool.false_eq_true, if_false, if_true]

variable (hs : d.findSlot addr = none) (hr : r = (d.remoteOf addr).getD (lowestFree 32768 d.remoteUsed))

include hs hr

theorem Dev.routeSet_full (hfull : 65536 ≤ r) :
    d.routeSet addr owner eui short = (d.bump Fld.ndtStat3_insertFail, Code.tableFull, 0) := by
  subst hr
  unfold Dev.routeSet
  simp only [hheld, hs, if_pos hfull, Option.isSome_none, Bool.false_eq_true, if_false]

/-- The entry takes the route; the table stays as it was where a key finds no place. -/
theorem Dev.routeSet_inserts {f : Dev} {keys : List IdxKey} {y : Dev × Nat} (hroom : r < 65536)
    (hkeys : keys = keyNode addr :: (eui.map keyEui).toList ++ (short.map fun a => keyShort a.1 a.2).toList)
    (hf : f = (d.dropKeys r fun _ => true).setRte r addr false 0 owner) (hy : y = f.insertKeys r keys) :
    d.routeSet addr owner eui short =
      if y.2 = Code.ok then
        ({ y.1 with ndt := { y.1.ndt with lostRoutes := y.1.ndt.lostRoutes.filter (· != r) } }, Code.ok, r)
      else (d.refusedUpdate y.1, y.2, 0) := by
  subst hr hkeys hf hy
  unfold Dev.routeSet
  simp only [hheld, hs, if_neg (Nat.not_le.mpr hroom), Option.isSome_none, Bool.false_eq_true, if_false]
  cases eui <;> cases short <;> rfl

end

/-- The EUI-64 that a ROUTE_SET names. -/
def HciCmd.routeEui (x : HciCmd) : Option Nat := if (x.a 5).testBit 0 then some (x.a 2 + x.a 3 * 2 ^ 32) else none

/-- The short address and PAN that a ROUTE_SET names. -/
def HciCmd.routeShort (x : HciCmd) : Option (Nat × Nat) :=
  if (x.a 5).testBit 1 then some (bitsOf (x.a 4) 15 0, bitsOf (x.a 4) 31 16) else none

section

variable {d e : Dev} {x : HciCmd}

theorem Dev.runRouteSet_eq {st r : Nat} (h : d.routeSet (x.a 0) (x.a 1) x.routeEui x.routeShort = (e, st, r)) :
    d.runRouteSet x = e.finish x st (if st = Code.ok then [r] else []) := by
  unfold HciCmd.routeEui HciCmd.routeShort at h
  simp only [Dev.runRouteSet, h]

theorem Dev.runRouteDel_held (hheld : d.ndt.held = true) : d.runRouteDel x = d.finish x Code.tableHeld [] := by
  rw [Dev.runRouteDel, Dev.routeDel, if_pos hheld]
  rfl

theorem Dev.runRouteDel_unknown (hheld : d.ndt.held = false) (hr : d.remoteOf (x.a 0) = none) :
    d.runRouteDel x = d.finish x Code.nodeUnknown [] := by
  simp only [Dev.runRouteDel, Dev.routeDel, hheld, hr, Bool.false_eq_true, if_false]
  rfl

theorem Dev.runRouteDel_known {r : Nat} (hheld : d.ndt.held = false) (hr : d.remoteOf (x.a 0) = some r) :
    d.runRouteDel x = ({ d.clearRte r with
      ndt := { d.ndt with dels := d.ndt.dels ++ [{ route := r, sq := x.sq, cid := x.id }] } } : Dev).runCmd x := by
  simp only [Dev.runRouteDel, Dev.routeDel, hheld, hr, Bool.false_eq_true, if_false, if_true]

theorem Dev.runRestore_held (hheld : d.ndt.held = true) : d.runRestore x = d.finish x Code.tableHeld [] := if_pos hheld

theorem Dev.runRestore_applies {r : Dev × Restored} (hheld : d.ndt.held = false) (hr : r = d.restoreStream (d.cmdData x)) :
    d.runRestore x = (r.2.slots.foldl (fun b s => b.slpRestored s) r.1).finish x Code.ok
      [r.2.applied, r.2.refused, b2n r.2.mismatch] := by
  subst hr
  exact if_neg (by simp [hheld])

end

/-- What ROUTE_DEL_INDEX_CLEARED does with the ROUTE_DEL of route `r` that waits: `exec_routeDelIndexCleared` ties it to the
command. -/
def Dev.routeDelCleared (d : Dev) (r : Nat) : Dev :=
  match d.ndt.dels.find? fun x => x.route = r with
  | some x =>
    let e := d.dropKeys r fun _ => true
    (({ e with ndt := { e.ndt with dels := e.ndt.dels.filter fun y => y.route != r } } : Dev).finishId x.cid Code.ok []).pump
  | none => d

theorem exec_routeDelIndexCleared (r : Nat) (s : State) :
    exec (.routeDelIndexCleared r) s = s.run fun d => d.routeDelCleared r := rfl

theorem Dev.routeDelCleared_waiting {d e : Dev} {r : Nat} {x : RouteDel}
    (hx : (d.ndt.dels.find? fun x => x.route = r) = some x) (he : e = d.dropKeys r fun _ => true) :
    d.routeDelCleared r =
      (({ e with ndt := { e.ndt with dels := e.ndt.dels.filter fun y => y.route != r } } : Dev).finishId x.cid Code.ok
        []).pump := by
  subst he
  simp only [Dev.routeDelCleared, hx]

/-! ADOPT, CLEAR and the rebuild (R251, R252, R256). -/

section

variable {d : Dev} {who : Initiator} {op : NdtOp}

theorem Dev.ndtStart_starts (hup : d.domUp 22 = true) (hwho : d.secure who = true) (hidle : d.ndtBusy = false) :
    d.ndtStart who op = { d with ndt := { d.ndt with op := some op } } := by
  simp only [Dev.ndtStart, hup, hwho, hidle, Bool.not_true, Bool.or_self, Bool.false_eq_true, if_false]

theorem Dev.ndtStart_refused (hup : d.domUp 22 = true) (hno : d.secure who = false ∨ d.ndtBusy = true) :
    d.ndtStart who op = d.refuseWrite who Reg.ndtCtrl := by
  have hbar : (!d.secure who || d.ndtBusy) = true := by simpa using hno
  simp only [Dev.ndtStart, hup, hbar, Bool.not_true, Bool.false_eq_true, if_false, if_true]

theorem adoptDone_ends {faults : List (Nat × Nat)} {e f : Dev} (hop : d.ndt.op = some .adopt)
    (hw : d.failedWords = (faults, f))
    (he : e = (faults.filter fun x => isTable x.1).foldl (fun b x => (b.fetch (memRes x.1) x.1 x.2).1) f) :
    adoptDone d = { e with ndt := { e.ndt with op := none, held := false } } := by
  subst he
  simp only [adoptDone, hop, hw]

theorem clearDone_ends {e : Dev} (hop : d.ndt.op = some .clear) (he : e = d.clearMem isTable) :
    clearDone d = { e with ndt := { e.ndt with op := none, held := false, damaged := [], lostRoutes := [] } } := by
  subst he
  simp only [clearDone, hop]

theorem rteIdxRebuildDone_ends {e : Dev} (hb : d.ndt.rebuild ≠ []) (he : e = d.rebuildSlots d.residentSlots) :
    rteIdxRebuildDone d = { e with ndt := { e.ndt with rebuild := [] } } := by
  subst he
  exact if_neg (by simpa using hb)

end

/-- Settles O26: each command and each operation on a held table by its lemmas above. -/
theorem nodeTableCommandsAct : Obligations.NodeTableCommandsAct := by
  refine ⟨?add, ?update, ?remove, ?read, ?set, ?del, ?cleared, ?snapshot, ?restore, ?adopt, ?clear, ?adopted, ?zeroed,
    ?rebuilt⟩
  case add =>
    rintro d c e f g h x s img ins hs rfl rfl hf hg hh hins
    refine hs.answers (fun _ => rfl) Dev.runOpcode_nodeAdd ⟨fun hheld => ?_, fun hheld hbad => ?_, fun hheld hok hm => ?_,
      fun hheld hok hm hd => ?_, fun hheld hok hm hd ht => ?_, fun hheld hok hm hd hv hk hin => ?_,
      fun hheld hok hm hd hv hk hout => ?_⟩ <;>
      refine congrArg (Dev.fetchCmds · 255) ?_
    · exact Dev.runNodeAdd_refused (Dev.nodeAdd_held hheld) (by decide)
    · exact Dev.runNodeAdd_refused (Dev.nodeAdd_reserved hheld hbad) (by decide)
    · exact Dev.runNodeAdd_refused (Dev.nodeAdd_foreign hheld hok hm) (by decide)
    · exact Dev.runNodeAdd_refused (Dev.nodeAdd_damaged hheld hok hm hd) (by decide)
    · exact Dev.runNodeAdd_refused (Dev.nodeAdd_exists hheld hok hm hd ht) (by decide)
    · exact Dev.runNodeAdd_added ((Dev.nodeAdd_inserts hheld hok hm hd rfl hv hk hf hg hh hins).trans (if_pos hin))
    · exact Dev.runNodeAdd_refused ((Dev.nodeAdd_inserts hheld hok hm hd rfl hv hk hf hg hh hins).trans (if_neg hout)) hout
  case update =>
    intro d c e x gs hs hgs
    refine hs.answers (fun _ => rfl) Dev.runOpcode_nodeUpdate ⟨fun hheld => ?_, fun hheld hbad => ?_, fun hheld hok hu => ?_,
      fun s hheld hok hk hd => ?_, fun s y hheld hok hk hd hy hno => ?_,
      fun s y f g h hheld hok hk hd hy hyes hf hg hh => ?_⟩ <;>
      refine congrArg (Dev.fetchCmds · 255) ?_
    · exact Dev.runNodeUpdate_refused hgs (Dev.nodeUpdate_held hheld) (by decide)
    · exact Dev.runNodeUpdate_refused hgs (Dev.nodeUpdate_reserved hheld hbad) (by decide)
    · exact Dev.runNodeUpdate_refused hgs (Dev.nodeUpdate_unknown hheld hok hu) (by decide)
    · exact Dev.runNodeUpdate_refused hgs (Dev.nodeUpdate_damaged hheld hok hk hd) (by decide)
    · exact Dev.runNodeUpdate_refused hgs (Dev.nodeUpdate_refused hheld hok hk hd hy hno) hno
    · rw [Dev.runNodeUpdate_applied hgs hk (Dev.nodeUpdate_applied hheld hok hk hd hy hyes hf hg), hh]
  case remove =>
    intro d c e x hs
    refine hs.answers (fun _ => rfl) Dev.runOpcode_nodeRemove ⟨fun hheld => ?_, fun hheld hu => ?_, fun s hheld hk hd => ?_,
      fun s hheld hk hd => ?_⟩ <;>
      refine congrArg (Dev.fetchCmds · 255) ?_
    · exact Dev.runNodeRemove_held hheld
    · exact Dev.runNodeRemove_unknown hheld hu
    · rw [Dev.runNodeRemove_known hheld hk, if_pos hd]
    · rw [Dev.runNodeRemove_known hheld hk, if_neg (by simp [hd])]
  case read =>
    intro d c e x hs
    refine hs.answers (fun _ => rfl) Dev.runOpcode_nodeRead ⟨fun hheld => ?_, fun hheld hu => ?_, fun s hheld hk hd => ?_,
      fun s hheld hk hd => ?_⟩ <;>
      refine congrArg (Dev.fetchCmds · 255) ?_
    · exact Dev.runNodeRead_held hheld
    · exact Dev.runNodeRead_unknown hheld hu
    · rw [Dev.runNodeRead_known hheld hk, if_pos hd]
    · rw [Dev.runNodeRead_known hheld hk, if_neg (by simp [hd])]
  case set =>
    intro d c e f x r keys eui short hs hr heui hshort hkeys hf
    have hnames : keys = keyNode (x.a 0) :: (x.routeEui.map keyEui).toList ++
        (x.routeShort.map fun a => keyShort a.1 a.2).toList := by
      rw [hkeys, heui, hshort, HciCmd.routeEui, HciCmd.routeShort]
      cases (x.a 5).testBit 0 <;> cases (x.a 5).testBit 1 <;> rfl
    refine hs.answers (fun _ => rfl) Dev.runOpcode_routeSet ⟨fun hheld => ?_, fun hheld hres => ?_, fun hheld hrem hfull => ?_,
      fun g hheld hrem hroom hin hg => ?_, fun hheld hrem hroom hout => ?_⟩ <;>
      refine congrArg (Dev.fetchCmds · 255) ?_
    · exact Dev.runRouteSet_eq (Dev.routeSet_held hheld)
    · exact Dev.runRouteSet_eq (Dev.routeSet_resident hheld hres)
    · exact Dev.runRouteSet_eq (Dev.routeSet_full hheld hrem hr hfull)
    · rw [Dev.runRouteSet_eq ((Dev.routeSet_inserts hheld hrem hr hroom hnames hf rfl).trans (if_pos hin)), if_pos rfl, hg]
    · rw [Dev.runRouteSet_eq ((Dev.routeSet_inserts hheld hrem hr hroom hnames hf rfl).trans (if_neg hout)), if_neg hout]
      rfl
  case del =>
    intro d c e x hs
    refine hs.answers (fun _ => rfl) Dev.runOpcode_routeDel ⟨fun hheld => ?_, fun hheld hu => ?_, fun r hheld hk => ?_⟩ <;>
      refine congrArg (Dev.fetchCmds · 255) ?_
    · exact Dev.runRouteDel_held hheld
    · exact Dev.runRouteDel_unknown hheld hu
    · exact Dev.runRouteDel_known hheld hk
  case cleared =>
    exact fun d r x e hx he => Answers.intro (exec_routeDelIndexCleared r) (Dev.routeDelCleared_waiting hx he)
  case snapshot =>
    rintro d c e x r hs rfl
    exact hs.answers (fun _ => rfl) Dev.runOpcode_snapshot rfl
  case restore =>
    intro d c e x r hs hr
    refine hs.answers (fun _ => rfl) Dev.runOpcode_restore ⟨fun hheld => ?_, fun hheld => ?_⟩
    · rw [Dev.runRestore_held hheld]
    · rw [Dev.runRestore_applies hheld hr]
  case adopt =>
    exact fun d who hup => Answers.intro (f := adopt who) (fun _ => rfl) ⟨Dev.ndtStart_starts hup, Dev.ndtStart_refused hup⟩
  case clear =>
    exact fun d who hup => Answers.intro (f := clear who) (fun _ => rfl) ⟨Dev.ndtStart_starts hup, Dev.ndtStart_refused hup⟩
  case adopted =>
    exact fun d faults e f hop hw he => Answers.intro (f := adoptDone) (fun _ => rfl) (adoptDone_ends hop hw he)
  case zeroed => exact fun d e hop he => Answers.intro (f := clearDone) (fun _ => rfl) (clearDone_ends hop he)
  case rebuilt =>
    exact fun d e hb he => Answers.intro (f := rteIdxRebuildDone) (fun _ => rfl) (rteIdxRebuildDone_ends hb he)

end Sys2Proof.Machine
end

section
/-! SUPPORT. Attestation and replication (R252, R279, R281, R282): what each message, send and timeout comes to; the
statement of 11_node_table_routing.md on them settled with these facts. -/

namespace Sys2Proof.Machine

open Sys2Proof

/-! Attestation (R281, R282). -/

section

variable {d : Dev} {m eui : Nat} {key : List Byte} {good : Bool}

theorem Dev.judge_unasked (hn : (d.peer m).nonce = none) : d.judge m eui key good = d := by
  rw [Dev.judge, hn]
  rfl

/-- The answer to an open challenge is judged by its signature and by the ROSTER record, where there is one. -/
theorem Dev.judge_asked {named : Bool} {f : Dev} (hn : (d.peer m).nonce ≠ none)
    (hnamed : named = (d.rosterRecord m).all fun r =>
      decide ((sha256 key).take 16 = slice r.data 8 16) && decide (eui = leAt r.data 0 8))
    (hf : f = (d.setPeer m { d.peer m with nonce := none }).setMember m 6 1 1) :
    d.judge m eui key good =
      if good && named then (if f.iCoord then f.sendReport else f).fedAdvance else d.attestFailed m := by
  have hopen : ¬ (d.peer m).nonce.isNone = true := by simpa using hn
  subst hnamed hf
  rw [Dev.judge, if_neg hopen]
  cases d.rosterRecord m <;> rfl

theorem attestTimeout_open (hon : d.fedOn = true) (hn : (d.peer m).nonce ≠ none) :
    attestTimeout m d = (d.attestFailed m).settle :=
  if_pos (by simp [hon, Option.isSome_iff_ne_none, hn])

theorem attestTimeout_judged (hn : (d.peer m).nonce = none) : attestTimeout m d = d :=
  if_neg (by simp [hn])

end

/-! Replication to the buddy (R279). -/

section

variable {d : Dev}

section

variable {b : Nat} {l : List Nat} (hon : d.fedOn = true) (hrun : d.fedState = 8) (hb : d.buddy d.fedMe = some b)

include hon hrun hb

theorem replicationSend_sends (hl : l = (d.fed.repl.filter fun e => e.sent.isNone).map (·.slot)) :
    replicationSend d = d.sendReplicas b l.length l := by
  subst hl
  simp only [replicationSend, hb, hon, hrun, decide_true, Bool.and_self, if_true]

theorem replicationRetx_sends
    (hl : l = (d.fed.repl.filter fun e => e.sent.isSome && decide (e.sentAt + usTicks 50000 ≤ d.tmb)).map (·.slot)) :
    replicationRetx d = (d.bumpBy l.length Fld.fedStat6_replRetx).sendReplicas b l.length l := by
  subst hl
  simp only [replicationRetx, hb, hon, hrun, decide_true, Bool.and_self, if_true]

end

section

variable {m : Nat} {entries mine rest : List (Nat × List Byte)} {f g : Dev}
  (hmine : mine = entries.filter fun x => d.asked x.1 x.2) (hf : f = mine.foldl (fun b x => b.takeReplica x.1 x.2) d)

include hmine hf

/-- Replicas that are not those of the member whose buddy this one is are left alone. -/
theorem Dev.replicaFrom_noWard (hw : f.buddy m ≠ some f.fedMe) : d.replicaFrom m entries = f := by
  subst hmine hf
  exact if_neg hw

/-- Those of the member whose buddy this one is are applied, and acknowledged where there are any. -/
theorem Dev.replicaFrom_ward (hrest : rest = entries.filter fun x => !mine.contains x)
    (hg : g = rest.foldl (fun b x => b.applyReplica x.1 x.2) f) (hw : f.buddy m = some f.fedMe) :
    d.replicaFrom m entries =
      if rest.isEmpty then g else g.fedSend (some m) (.replicaAck (rest.map fun x => (x.1, g.le (budAddr x.1 + 0x40) 4))) := by
  subst hmine hf hrest hg
  exact if_pos hw

end

section

variable {m : Nat} {applied : List (Nat × Nat)}

theorem Dev.ackFrom_buddy (hb : d.buddy d.fedMe = some m) :
    d.ackFrom m applied = d.setFed { d.fed with repl := d.fed.repl.filter fun x =>
      !(x.sent.any fun q => applied.any fun a => a.1 = x.slot && !seqNewer q a.2) } := by
  rw [Dev.ackFrom, if_neg (not_not.mpr hb)]
  refine congrArg (fun l => d.setFed { d.fed with repl := l }) (List.filter_congr fun x _ => congrArg Bool.not ?_)
  dsimp only
  cases x.sent <;> rfl

theorem Dev.ackFrom_other (hb : d.buddy d.fedMe ≠ some m) : d.ackFrom m applied = d := if_pos hb

end

theorem buddyReplicaTimeout_adoption {node : Nat} {a c : Nat}
    (ha : (d.fed.adopts.find? fun x => x.1 = node) = some (a, c)) :
    buddyReplicaTimeout node d =
      (d.setFed { d.fed with adopts := d.fed.adopts.filter fun x => x.1 != node }).finishId c Code.peerAbsent [] := by
  simp only [buddyReplicaTimeout, ha]

theorem buddyReplicaTimeout_damaged {node : Nat} (ha : (d.fed.adopts.find? fun x => x.1 = node) = none) :
    buddyReplicaTimeout node d = if d.damagedOf node = [] then d else d.notice Code.rebuilding node := by
  simp only [buddyReplicaTimeout, ha, List.isEmpty_iff]

end

/-- Settles O30: challenges, replicas, acknowledgements and timeouts, one lemma above for each. -/
theorem attestationAndReplicationFollowTheirRules : Obligations.AttestationAndReplicationFollowTheirRules := by
  refine ⟨?challenge, ?response, ?unanswered, ?send, ?again, ?replica, ?ack, ?request, ?timeout⟩
  case challenge =>
    intro d h nonce e f sig ha hfree
    refine answers_message (fun _ => rfl) ha ?_
    rw [Dev.attest, ← hfree]
  case response =>
    intro d h eui member svn key good named e f ha hnamed hf
    refine answers_message (fun _ => rfl) ha ⟨fun hn => ?_, fun hn hpass => ?_, fun hn hfail => ?_⟩
    · rw [Dev.judge_unasked hn]
    · rw [Dev.judge_asked hn hnamed hf, if_pos hpass]
    · rw [Dev.judge_asked hn hnamed hf, if_neg (by simp [hfail])]
  case unanswered =>
    exact fun d m hon => Answers.intro (f := attestTimeout m) (fun _ => rfl) ⟨attestTimeout_open hon, attestTimeout_judged⟩
  case send =>
    exact fun d b l hon hrun hb hl => Answers.intro (f := replicationSend) (fun _ => rfl)
      (replicationSend_sends hon hrun hb hl)
  case again =>
    exact fun d b l hon hrun hb hl => Answers.intro (f := replicationRetx) (fun _ => rfl)
      (replicationRetx_sends hon hrun hb hl)
  case replica =>
    intro d h entries mine rest e f g ha hmine hrest hf hg
    refine answers_message (fun _ => rfl) ha ⟨fun hw hsome => ?_, fun hleft => ?_⟩
    · rw [Dev.replicaFrom_ward hmine hf hrest hg hw, if_neg (by simpa using hsome)]
    · by_cases hw : f.buddy (bmFrom h) = some f.fedMe
      · have hnone : rest = [] := hleft.resolve_left (not_not.mpr hw)
        rw [Dev.replicaFrom_ward hmine hf hrest hg hw, hg, hnone]
        rfl
      · rw [Dev.replicaFrom_noWard hmine hf hw]
  case ack =>
    intro d h applied e ha
    refine answers_message (fun _ => rfl) ha ⟨fun hb => ?_, fun hb => ?_⟩
    · rw [Dev.ackFrom_buddy hb]
    · rw [Dev.ackFrom_other hb]
  case request => exact fun d h first count e ha => answers_message (fun _ => rfl) ha rfl
  case timeout =>
    exact fun d node => Answers.intro (f := buddyReplicaTimeout node) (fun _ => rfl)
      ⟨fun _ _ => buddyReplicaTimeout_adoption, buddyReplicaTimeout_damaged⟩

end Sys2Proof.Machine
end

section
/-! SUPPORT. Interface commands (R250, R305–R312, R314): what each comes to in a case of its rule; the statement of
13_host_commands.md about them settled with these facts. -/

namespace Sys2Proof.Machine

open Sys2Proof

section

variable {d : Dev} {x : HciCmd}

theorem Dev.runOpcode_txFrame (h : x.opcode = 0x01) : d.runOpcode x = d.runTxFrame x := by simp only [Dev.runOpcode, h]
theorem Dev.runOpcode_regRead (h : x.opcode = 0x02) : d.runOpcode x = d.runRegRead x := by simp only [Dev.runOpcode, h]
theorem Dev.runOpcode_regWrite (h : x.opcode = 0x03) : d.runOpcode x = d.runRegWrite x := by simp only [Dev.runOpcode, h]
theorem Dev.runOpcode_powerVote (h : x.opcode = 0x04) : d.runOpcode x = d.runPowerVote x := by simp only [Dev.runOpcode, h]
theorem Dev.runOpcode_hello (h : x.opcode = 0x10) : d.runOpcode x = d.runHello x := by simp only [Dev.runOpcode, h]
theorem Dev.runOpcode_identify (h : x.opcode = 0x11) : d.runOpcode x = d.runIdentify x := by simp only [Dev.runOpcode, h]
theorem Dev.runOpcode_queueCreate (h : x.opcode = 0x12) : d.runOpcode x = d.runQueueCreate x := by
  simp only [Dev.runOpcode, h]
theorem Dev.runOpcode_queueDelete (h : x.opcode = 0x13) : d.runOpcode x = d.runQueueDelete x := by
  simp only [Dev.runOpcode, h]
theorem Dev.runOpcode_txCancel (h : x.opcode = 0x14) : d.runOpcode x = d.runTxCancel x := by simp only [Dev.runOpcode, h]

/-! TX_FRAME and TX_CANCEL (R306–R308). -/

/-- The command names a node that the table does not hold. -/
def Dev.txNodeUnknown (d : Dev) (x : HciCmd) (slot : Option Nat) : Prop :=
  ((x.a 0).testBit 26 = true ∧ slot = none) ∨ ((x.a 0).testBit 25 = true ∧ d.findNode (x.a 0 % 2 ^ 25) = none)

section

variable {slot : Option Nat} (hslot : slot = if (x.a 0).testBit 25 then d.findSlot (x.a 0 % 2 ^ 25) else none)

include hslot

theorem Dev.runTxFrame_unknown (hu : d.txNodeUnknown x slot) :
    d.runTxFrame x = d.finish x Code.nodeUnknown [0, 0, 0, 0] := by
  unfold Dev.txNodeUnknown at hu
  subst hslot
  simp only [Dev.runTxFrame, Option.isNone_iff_eq_none, if_pos hu]

variable (hknown : ¬ d.txNodeUnknown x slot)

include hknown

theorem Dev.runTxFrame_retired (hup : d.tp3Ok = false) :
    d.runTxFrame x = d.finish x Code.resourceRetired [0, 0, 0, 0] := by
  unfold Dev.txNodeUnknown at hknown
  subst hslot
  simp only [Dev.runTxFrame, Option.isNone_iff_eq_none, if_neg hknown, hup, Bool.not_false, if_true]

variable {fr : TxFrame} (hup : d.tp3Ok = true) (hfr : fr = d.txCmdFrame x slot)

include hup hfr

theorem Dev.runTxFrame_full (hphy : fr.phy ≠ 3) (hpool : d.poolFits fr.mac.length = false) :
    d.runTxFrame x = d.finish x Code.holdFull [0, 0, 0, 0] := by
  unfold Dev.txNodeUnknown at hknown
  subst hfr hslot
  simp only [Dev.runTxFrame, Option.isNone_iff_eq_none, if_neg hknown, hup, Bool.not_true, Bool.false_eq_true, if_false]
  exact if_pos ⟨hphy, ne_true_of_eq_false hpool⟩

/-- TP3 takes the frame, and secures it where it asks for it and is not held or slotted. -/
theorem Dev.runTxFrame_taken {f : Dev} (hroom : fr.phy = 3 ∨ d.poolFits fr.mac.length = true)
    (hf : f = (d.runCmd x).addFrame fr) :
    d.runTxFrame x =
      if fr.secure && fr.stage = .scheduled then f.secureFrame { fr with nodeAddr := x.a 0 % 2 ^ 25 } else f := by
  have hfits : ¬ (fr.phy ≠ 3 ∧ ¬ d.poolFits fr.mac.length = true) := fun ⟨hphy, hpool⟩ => hroom.elim hphy hpool
  unfold Dev.txNodeUnknown at hknown
  subst hf hfr hslot
  simp only [Dev.runTxFrame, Option.isNone_iff_eq_none, if_neg hknown, hup, Bool.not_true, Bool.false_eq_true, if_false]
  exact if_neg hfits

end

section

variable {hit : Option HciCmd} (hhit : hit = d.hci.cmds.find? fun z => z.sq = x.a 0 && z.cid = x.a 1 && z.opcode = 1)

include hhit

theorem Dev.runTxCancel_nothing (hnone : hit = none) : d.runTxCancel x = d.finish x Code.ok [0] := by
  have hfind := hhit.symm.trans hnone
  simp only [Dev.runTxCancel, hfind]

variable {y : HciCmd} (hsome : hit = some y)

include hsome

theorem Dev.runTxCancel_notStarted (hst : y.stage = .queued ∨ y.stage = .waking) :
    d.runTxCancel x = (d.finish y Code.cancelled [0, 0, 0, 0]).finish x Code.ok [1] := by
  have hfind := hhit.symm.trans hsome
  rcases hst with hst | hst <;> simp only [Dev.runTxCancel, hfind, hst]

theorem Dev.runTxCancel_running {f : TxFrame} (hst : y.stage = .running)
    (hf : (d.tx.frames.find? fun f => f.hostCmd = some y.id && f.cancellable) = some f) :
    d.runTxCancel x = (((d.txRelease f).dropFrame f.id).finish y Code.cancelled (f.results false)).finish x Code.ok [1] := by
  have hfind := hhit.symm.trans hsome
  simp only [Dev.runTxCancel, hfind, hst, hf]

theorem Dev.runTxCancel_committed (hst : y.stage = .running)
    (hf : (d.tx.frames.find? fun f => f.hostCmd = some y.id && f.cancellable) = none) :
    d.runTxCancel x = d.finish x Code.ok [0] := by
  have hfind := hhit.symm.trans hsome
  simp only [Dev.runTxCancel, hfind, hst, hf]

theorem Dev.runTxCancel_done {a : Nat} {b : List Nat} (hst : y.stage = .done a b) : d.runTxCancel x = d.finish x Code.ok [0] := by
  have hfind := hhit.symm.trans hsome
  simp only [Dev.runTxCancel, hfind, hst]

end

/-! Registers and votes (R309, R310). -/

theorem Dev.runRegRead_reads {f : Dev} {vs : List Nat} (hop : x.opcode = 0x02)
    (hr : d.hostReads ((List.range (x.a 1)).map fun i => x.a 0 + 4 * i) = (f, vs)) :
    d.runRegRead x = f.finish x Code.ok vs := by
  have haddrs : x.regAddrs = (List.range (x.a 1)).map fun i => x.a 0 + 4 * i := if_pos hop
  simp only [Dev.runRegRead, haddrs, hr]

section

variable {w : Word}
  (hw : w = (BitVec.ofNat 32 (x.a 1) &&& BitVec.ofNat 32 (x.a 2)) ||| (d.peek (x.a 0) &&& ~~~ BitVec.ofNat 32 (x.a 2)))

include hw

theorem Dev.runRegWrite_writes {f : Dev} {bad : Bool} (ha : x.a 0 ≠ Reg.errRsvdWrite)
    (hf : d.hostRegWrite (x.a 0) w = (f, bad)) :
    d.runRegWrite x = f.finish x (if bad then Code.reservedField else Code.ok) [(f.peek (x.a 0)).toNat] := by
  subst hw
  simp only [Dev.runRegWrite, if_neg ha, hf]

/-- A write of ERR_RSVD_WRITE itself is judged by its reserved bits, not by the record that it replaces. -/
theorem Dev.runRegWrite_record {f : Dev} (ha : x.a 0 = Reg.errRsvdWrite) (hf : f = d.regWrite .host (x.a 0) w) :
    d.runRegWrite x =
      f.finish x (if ((regAt (x.a 0)).any fun r => r.1.hitsReserved w.toNat) then Code.reservedField else Code.ok)
        [(f.peek (x.a 0)).toNat] := by
  subst hw hf
  simp only [Dev.runRegWrite, if_pos ha]
  cases regAt (x.a 0) with
  | none => simp only [Option.any_none]
  | some r => simp only [Option.any_some]

end

theorem Dev.runPowerVote_eq {f : Dev}
    (hf : f = (d.catchUp.setVotes 8 ((d.votesOf 8 &&& (0xFFFFFFFF ^^^ x.a 1)) ||| x.a 0)).settleAll) :
    d.runPowerVote x = if x.a 2 = 1 ∧ f.voteWaits x ≠ [] then f.runCmd { x with wakeUs := some 0 }
      else f.finish x Code.ok [f.tallyWord] := by
  simp only [Dev.runPowerVote, hf]

/-! HELLO (R314). -/

section

variable {f : Dev} {busy : Bool} {pick : Option Nat}
  (hbusy : busy = (List.range 128).any fun q => 2 ≤ q && d.qEn q && d.qRole q != 4)

include hbusy

theorem Dev.runHello_busy (h : busy = true) : d.runHello x = d.finish x Code.notPermitted [] := by
  subst hbusy
  exact if_pos h

variable (hf : f = { d with hci := { d.hci with hostTag := x.a 1 } })
  (hpick : pick = ([3, 2] ++ (if d.is Fld.hciStatus_v1Offered then [1] else [])).find? fun v =>
    decide (bitsOf (x.a 0) 3 0 ≤ v) && decide (v ≤ bitsOf (x.a 0) 7 4)) (hidle : busy = false)

include hf hpick hidle

theorem Dev.runHello_noVersion (h : pick = none) : d.runHello x = f.finish x Code.badVersion [] := by
  have hfree := hbusy.symm.trans hidle
  have hfind := hpick.symm.trans h
  subst hf
  simp only [Dev.runHello, hfree, hfind, Bool.false_eq_true, if_false, Dev.done]

theorem Dev.runHello_version {v : Nat} (h : pick = some v) :
    d.runHello x = (f.finish x Code.ok [v + 16 * (6 + b2n (d.is Fld.hciStatus_v1Offered)), (f.reg Reg.sysId).toNat]).wr
      Fld.hciStatus_version v := by
  have hfree := hbusy.symm.trans hidle
  have hfind := hpick.symm.trans h
  subst hf
  simp only [Dev.runHello, hfree, hfind, Bool.false_eq_true, if_false]

end

/-! QUEUE_CREATE (R311). -/

/-- QUEUE_CREATE may put queue `q` in service as the argument word `a` says: it is not in service yet, or is an internal one
to be reclaimed, and its ring and its partner are legal. -/
def Dev.queueLegal (d : Dev) (x : HciCmd) (a q role : Nat) (internal : Bool) : Prop :=
  (d.qEn q = true → internal = true ∧ d.hci.reclaimed.contains q = false) ∧
    ringOk d.version role (bitsOf a 17 14) (a.testBit 12) (a.testBit 13) (x.a 1 + x.a 2 * 2 ^ 32) (x.a 3 + x.a 4 * 2 ^ 32) = true ∧
    (role = 1 → d.qEn (bitsOf a 24 18) = true ∧ d.qRole (bitsOf a 24 18) = 2) ∧ (a.testBit 12 = true → d.version ≠ 1)

/-- What bars QUEUE_CREATE, case by case. -/
theorem Dev.not_queueLegal_iff {a q role : Nat} {internal : Bool} :
    ¬ d.queueLegal x a q role internal ↔
      (d.qEn q = true ∧ ¬ (internal = true ∧ ¬ d.hci.reclaimed.contains q = true)) ∨
        ¬ ringOk d.version role (bitsOf a 17 14) (a.testBit 12) (a.testBit 13) (x.a 1 + x.a 2 * 2 ^ 32)
          (x.a 3 + x.a 4 * 2 ^ 32) = true ∨
        (role = 1 ∧ ¬ (d.qEn (bitsOf a 24 18) = true ∧ d.qRole (bitsOf a 24 18) = 2)) ∨
        (a.testBit 12 = true ∧ d.version = 1) := by
  unfold Dev.queueLegal
  rw [← Bool.not_eq_true (d.hci.reclaimed.contains q)]
  tauto

section

variable {a q role : Nat} {internal : Bool} (ha : a = x.a 0) (hq : q = bitsOf a 6 0) (hrole : role = bitsOf a 11 8)
  (hint : internal = (decide (96 ≤ q) && decide (q < 120)))

include ha hq

theorem Dev.runQueueCreate_outside (ho : q < 2 ∨ 120 ≤ q) : d.runQueueCreate x = d.finish x Code.badQueue [] := by
  subst hq ha
  exact if_pos ho

variable (hlo : 2 ≤ q) (hhi : q < 120)

include hint hlo hhi

theorem Dev.runQueueCreate_internal (hi : internal = true) (hno : a.testBit 7 = false) :
    d.runQueueCreate x = d.finish x Code.notPermitted [] := by
  have hin : ¬ (q < 2 ∨ 120 ≤ q) := by omega
  have hbar : (internal && !a.testBit 7) = true := by simp [hi, hno]
  subst hint hq ha
  exact (if_neg hin).trans (if_pos hbar)

variable (hmay : internal = true → a.testBit 7 = true)

include hmay hrole

theorem Dev.runQueueCreate_illegal (hbad : ¬ d.queueLegal x a q role internal) :
    d.runQueueCreate x = d.finish x Code.badQueue [] := by
  have hin : ¬ (q < 2 ∨ 120 ≤ q) := by omega
  have hbar : ¬ (internal && !a.testBit 7) = true := by simpa using hmay
  rw [Dev.not_queueLegal_iff] at hbad
  subst hint hrole hq ha
  exact (if_neg hin).trans ((if_neg hbar).trans (if_pos hbad))

/-- A legal queue starts from its reset with the fields of the command, armed and enabled. -/
theorem Dev.runQueueCreate_serves {f g h : Dev} (hgood : d.queueLegal x a q role internal)
    (hf : f = ((d.qReset q).wr Fld.hciQBaseLo_base (x.a 1) q).wr Fld.hciQBaseHi_base (x.a 2) q)
    (hg : g = if role = 3 then (f.wr Fld.hciQBufLo_buf (x.a 3) q).wr Fld.hciQBufHi_buf (x.a 4) q else f)
    (hh : h = ((((((((g.wr Fld.hciQCfg_role role q).wr Fld.hciQCfg_size (bitsOf a 17 14) q).wr Fld.hciQCfg_loc
      (b2n (a.testBit 12)) q).wr Fld.hciQCfg_stride (b2n (a.testBit 13)) q).wr Fld.hciQCfg_partner (bitsOf a 24 18) q).wr
      Fld.hciQCfg_vector (bitsOf a 30 25) q).wr Fld.hciQCfg_irqEn (b2n (a.testBit 31)) q).wr Fld.hciQCfg_armed 1 q).wr
      Fld.hciQCfg_en 1 q) :
    d.runQueueCreate x =
      (if internal then { h with hci := { h.hci with reclaimed := q :: h.hci.reclaimed } } else h).finish x Code.ok [] := by
  have hin : ¬ (q < 2 ∨ 120 ≤ q) := by omega
  have hbar : ¬ (internal && !a.testBit 7) = true := by simpa using hmay
  rw [← not_not (a := d.queueLegal x a q role internal), Dev.not_queueLegal_iff] at hgood
  subst hh hg hf hint hrole hq ha
  exact (if_neg hin).trans ((if_neg hbar).trans (if_neg hgood))

end

/-! QUEUE_DELETE (R298, R312). -/

section

variable {q : Nat} (hq : q = x.a 0)

include hq

theorem Dev.runQueueDelete_nothing
    (hno : q < 2 ∨ 120 ≤ q ∨ d.qEn q = false ∨ d.qRole q = 4 ∨ d.qDeleting q = true) :
    d.runQueueDelete x = d.finish x Code.badQueue [] := by
  rw [← Bool.not_eq_true] at hno
  subst hq
  exact if_pos hno

variable (hlo : 2 ≤ q) (hhi : q < 120) (hen : d.qEn q = true) (hdel : d.qDeleting q = false)

include hlo hhi hen hdel

/-- A queue in service with a role other than 4 is there to be deleted. -/
theorem Dev.queue_deletable (hrole : d.qRole q ≠ 4) :
    ¬ (x.a 0 < 2 ∨ 120 ≤ x.a 0 ∨ ¬ d.qEn (x.a 0) = true ∨ d.qRole (x.a 0) = 4 ∨ d.qDeleting (x.a 0) = true) := by
  rw [← hq]
  simp [hen, hdel, hrole, hhi, Nat.not_lt.mpr hlo]

theorem Dev.runQueueDelete_submission (hrole : d.qRole q = 1) :
    d.runQueueDelete x =
      if d.queueBusy q then ({ d with hci := { d.hci with deleting := alSet q x.id d.hci.deleting } } : Dev).runCmd x
      else (d.qReset q).finish x Code.ok [] := by
  have hthere := Dev.queue_deletable hq hlo hhi hen hdel (by omega)
  subst hq
  simp only [Dev.runQueueDelete, Dev.done]
  rw [if_neg hthere]
  simp only [hrole]

/-- A completion queue with partners must be STOPPED. -/
theorem Dev.runQueueDelete_completion (hrole : d.qRole q = 2) :
    d.runQueueDelete x =
      if ((List.range 128).any fun s => d.qEn s && d.qRole s = 1 && d.partner s = q) = true ∧ ¬ d.qStopped q = true then
        d.finish x Code.notPermitted []
      else ((d.dropPartners q).qReset q).finish x Code.ok [] := by
  have hthere := Dev.queue_deletable hq hlo hhi hen hdel (by omega)
  subst hq
  simp only [Dev.runQueueDelete, Dev.done]
  rw [if_neg hthere]
  simp only [hrole]

theorem Dev.runQueueDelete_other (hrole : d.qRole q ∉ [1, 2, 4]) :
    d.runQueueDelete x = (d.qReset q).finish x Code.ok [] := by
  simp only [List.mem_cons, List.not_mem_nil, or_false, not_or] at hrole
  obtain ⟨h1, h2, h4⟩ := hrole
  have hthere := Dev.queue_deletable hq hlo hhi hen hdel h4
  subst hq
  simp only [Dev.runQueueDelete, if_neg hthere, Dev.done]

end

end

/-- Settles O35: each command runs its opcode's meaning, which the lemmas above give case by case. -/
theorem interfaceCommandsAct : Obligations.InterfaceCommandsAct := by
  refine ⟨?txFrame, ?regRead, ?regWrite, ?powerVote, ?hello, ?identify, ?queueCreate, ?queueDelete, ?txCancel⟩
  case txFrame =>
    intro d c e f x slot fr hs hslot hfr hf
    have hknown (h26 : (x.a 0).testBit 26 = true → slot ≠ none)
        (h25 : (x.a 0).testBit 25 = true → e.findNode (x.a 0 % 2 ^ 25) ≠ none) : ¬ e.txNodeUnknown x slot :=
      fun hu => hu.elim (fun h => h26 h.1 h.2) fun h => h25 h.1 h.2
    refine hs.answers (fun _ => rfl) Dev.runOpcode_txFrame ⟨fun hu => ?_, fun h26 h25 hup => ?_,
      fun h26 h25 hup hphy hpool => ?_, fun h26 h25 hup hroom => ?_⟩ <;>
      refine congrArg (Dev.fetchCmds · 255) ?_
    · exact Dev.runTxFrame_unknown hslot hu
    · exact Dev.runTxFrame_retired hslot (hknown h26 h25) hup
    · exact Dev.runTxFrame_full hslot (hknown h26 h25) hup hfr hphy hpool
    · exact Dev.runTxFrame_taken hslot (hknown h26 h25) hup hfr hroom hf
  case regRead =>
    exact fun d c e f x vs hs hr => hs.answers (fun _ => rfl)
      (fun hop => (Dev.runOpcode_regRead hop).trans (Dev.runRegRead_reads hop hr)) rfl
  case regWrite =>
    exact fun d c e x w hs hw => hs.answers (fun _ => rfl) Dev.runOpcode_regWrite
      ⟨fun f bad ha hf => congrArg (Dev.fetchCmds · 255) (Dev.runRegWrite_writes hw ha hf),
        fun f ha hf => congrArg (Dev.fetchCmds · 255) (Dev.runRegWrite_record hw ha hf)⟩
  case powerVote =>
    exact fun d c e f x hs hf => hs.answers (fun _ => rfl) Dev.runOpcode_powerVote
      (congrArg (Dev.fetchCmds · 255) (Dev.runPowerVote_eq hf))
  case hello =>
    intro d c e f x busy pick hs hbusy hf hpick
    refine hs.answers (fun _ => rfl) Dev.runOpcode_hello ⟨fun h => ?_, fun hidle h => ?_, fun v hidle h => ?_⟩ <;>
      refine congrArg (Dev.fetchCmds · 255) ?_
    · exact Dev.runHello_busy hbusy h
    · exact Dev.runHello_noVersion hbusy hf hpick hidle h
    · exact Dev.runHello_version hbusy hf hpick hidle h
  case identify => exact fun d c e x hs => hs.answers (fun _ => rfl) Dev.runOpcode_identify rfl
  case queueCreate =>
    intro d c e f g x a q role internal good hs ha hq hrole hint hgood hf hg
    change good = true ↔ e.queueLegal x a q role internal at hgood
    refine hs.answers (fun _ => rfl) Dev.runOpcode_queueCreate ⟨fun ho => ?_, fun hlo hhi hi hno => ?_,
      fun hlo hhi hmay hbad => ?_, fun h hlo hhi hmay hok hh => ?_⟩ <;>
      refine congrArg (Dev.fetchCmds · 255) ?_
    · exact Dev.runQueueCreate_outside ha hq ho
    · exact Dev.runQueueCreate_internal ha hq hint hlo hhi hi hno
    · exact Dev.runQueueCreate_illegal ha hq hrole hint hlo hhi hmay fun hlegal => by simp [hgood.mpr hlegal] at hbad
    · exact Dev.runQueueCreate_serves ha hq hrole hint hlo hhi hmay (hgood.mp hok) hf hg hh
  case queueDelete =>
    intro d c e x q hs hq
    refine hs.answers (fun _ => rfl) Dev.runOpcode_queueDelete ⟨fun hno => ?_, fun hlo hhi hen hdel hrole hidle => ?_,
      fun hlo hhi hen hdel hrole hbusy => ?_, fun hlo hhi hen hdel hrole hp hrun => ?_,
      fun hlo hhi hen hdel hrole hmay => ?_, fun hlo hhi hen hdel hrole => ?_⟩ <;>
      refine congrArg (Dev.fetchCmds · 255) ?_
    · exact Dev.runQueueDelete_nothing hq hno
    · rw [Dev.runQueueDelete_submission hq hlo hhi hen hdel hrole, if_neg (by simp [hidle])]
    · rw [Dev.runQueueDelete_submission hq hlo hhi hen hdel hrole, if_pos hbusy]
    · rw [Dev.runQueueDelete_completion hq hlo hhi hen hdel hrole, if_pos ⟨hp, by simp [hrun]⟩]
    · rw [Dev.runQueueDelete_completion hq hlo hhi hen hdel hrole,
        if_neg fun ⟨hp, hrun⟩ => hmay.elim (fun h => by simp [h] at hp) hrun]
    · exact Dev.runQueueDelete_other hq hlo hhi hen hdel hrole
  case txCancel =>
    intro d c e x hit hs hhit
    refine hs.answers (fun _ => rfl) Dev.runOpcode_txCancel ⟨fun hnone => ?_, fun y hy hst => ?_, fun y f hy hst hf => ?_,
      fun y hy hst hf => ?_, fun y a b hy hst => ?_⟩ <;>
      refine congrArg (Dev.fetchCmds · 255) ?_
    · exact Dev.runTxCancel_nothing hhit hnone
    · exact Dev.runTxCancel_notStarted hhit hy hst
    · exact Dev.runTxCancel_running hhit hy hst hf
    · exact Dev.runTxCancel_committed hhit hy hst hf
    · exact Dev.runTxCancel_done hhit hy hst

end Sys2Proof.Machine
end

section
/-! SUPPORT. The federation's start, discovery, elections, losses and absences (R254, R263, R266–R271, R284, R286, R287): what
each command and message comes to; the statement of 12_federation.md on them settled with these facts. -/

namespace Sys2Proof.Machine

open Sys2Proof

/-! FED_CTRL, FED_CFG and discovery (R263, R267, R268, R284, R286). -/

section

variable {d : Dev} {who : Initiator} {w : Word}

section

variable {r : Dev} (hup : d.domUp 27 = true) (hr : r = d.rsvd who Reg.fedCtrl w)

include hup hr

theorem fedCtrlStart_stays (h : wBits w 0 0 = 0 ∨ r.fedState ≠ 0) : fedCtrlStart who w d = r := by
  have hbar : (decide (wBits w 0 0 = 0) || r.fedState != 0) = true := by simpa using h
  subst hr
  simp only [fedCtrlStart, hup, hbar, Bool.not_true, Bool.false_eq_true, if_false, if_true]

/-- START in STATE OFF: a fresh agent with the records and migrations that stand, as JOINING member in LINK. -/
theorem fedCtrlStart_starts {b : Nat} {e f : Dev} (hstart : wBits w 0 0 = 1) (hoff : r.fedState = 0) (hb : (b, e) = r.free 32)
    (hf : f = e.setFed {
      bootId := b, current := e.fed.current, proposed := e.fed.proposed, migrations := e.fed.migrations,
      nextOffer := e.fed.nextOffer }) :
    fedCtrlStart who w d =
      (((if f.domUp 22 then f.wr Fld.ndtMember_member f.fedMe else f).ownEntry 1).setFedState 1).wr Fld.fedStatus_role 0 := by
  have hgo : (decide (wBits w 0 0 = 0) || r.fedState != 0) = false := by simp [hstart, hoff]
  rw [hr] at hgo hb
  rw [hf]
  simp only [fedCtrlStart, hup, hgo, ← hb, Bool.not_true, Bool.false_eq_true, if_false]

end

section

variable (hup : d.domUp 27 = true)

include hup

theorem fedCfgWrite_stores (hwho : d.secureOrHost who = true) :
    fedCfgWrite who w d = (d.plainWrite who Reg.fedCfg w (d.fedState != 0)).gateStandalone (wBits w 12 12 = 1) := by
  simp only [fedCfgWrite, hup, hwho, Bool.not_true, Bool.false_eq_true, if_false]

theorem fedCfgWrite_refused (hwho : d.secureOrHost who = false) : fedCfgWrite who w d = d.refuseWrite who Reg.fedCfg := by
  simp only [fedCfgWrite, hup, hwho, Bool.not_true, Bool.not_false, Bool.false_eq_true, if_false, if_true]

end

theorem helloTimer_sends {e f : Dev} (hon : d.fedOn = true) (hlink : d.portsUp ≠ 0)
    (he : e = if d.fedState = 1 then d.setFedState 2 else d)
    (hf : f = e.fedSend none (.hello e.eui 3 (e.rd Fld.fedCfg_prio) e.portsUp e.digestRegs)) :
    helloTimer d = if f.iCoord then f.sendReport else f := by
  have hgo : ¬ (!d.fedOn || decide (d.portsUp = 0)) = true := by simp [hon, hlink]
  rw [hf, he]
  exact if_neg hgo

theorem discoveryClose_closes (hon : d.fedOn = true) (hst : d.fedState = 2) :
    discoveryClose d = (d.setFedState 3).startElection := if_pos (by simp [hon, hst])

end

/-! HELLO (R263, R265, R266, R271, R281). -/

section

variable {d : Dev} {h : BmHdr} {eui version prio : Nat} {digest : List Byte}

theorem Dev.helloFrom_own (hme : bmFrom h = d.fedMe) (heui : eui = d.eui) : d.helloFrom h eui version prio digest = d :=
  (if_pos hme).trans (if_pos heui)

section

variable {claims : List (Nat × Nat)} (hc : claims = alSet eui d.tmb (d.peer (bmFrom h)).claims)

include hc

theorem Dev.helloFrom_ownConflict (hme : bmFrom h = d.fedMe) (heui : eui ≠ d.eui) :
    d.helloFrom h eui version prio digest =
      (d.setPeer (bmFrom h) { d.peer (bmFrom h) with claims := claims }).conflict (bmFrom h) := by
  rw [hc]
  exact (if_pos hme).trans (if_neg heui)

variable (hother : bmFrom h ≠ d.fedMe)

include hother

theorem Dev.helloFrom_inConflict (hst : d.memberState (bmFrom h) = 4) :
    d.helloFrom h eui version prio digest = d.setPeer (bmFrom h) { d.peer (bmFrom h) with claims := claims } := by
  rw [hc]
  exact (if_neg hother).trans (if_pos hst)

theorem Dev.helloFrom_conflict (hst : d.memberState (bmFrom h) = 1 ∨ d.memberState (bmFrom h) = 2)
    (heui : eui ≠ d.memberEui (bmFrom h)) :
    d.helloFrom h eui version prio digest =
      (d.setPeer (bmFrom h) { d.peer (bmFrom h) with
        claims := alSet (d.memberEui (bmFrom h)) (d.peer (bmFrom h)).heard claims }).conflict (bmFrom h) := by
  have h4 : d.memberState (bmFrom h) ≠ 4 := by omega
  have hclash : ((decide (d.memberState (bmFrom h) = 1) || decide (d.memberState (bmFrom h) = 2)) &&
      eui != d.memberEui (bmFrom h)) = true := by simp [hst, heui]
  rw [hc]
  exact (if_neg hother).trans ((if_neg h4).trans (if_pos hclash))

/-- A HELLO that clashes with nothing is entered; it makes an absent member JOINING. -/
theorem Dev.helloFrom_enters {others : List (Nat × Nat)} {f g : Dev} (hst : d.memberState (bmFrom h) ≠ 4)
    (heui : d.memberState (bmFrom h) = 1 ∨ d.memberState (bmFrom h) = 2 → eui = d.memberEui (bmFrom h))
    (ho : others = claims.filter fun c => c.1 != eui)
    (hf : f = (d.setPeer (bmFrom h) { d.peer (bmFrom h) with
      claims := claims.filter fun c => !others.contains c }).helloEntry (bmFrom h) eui version prio h.ports h.mac 1 digest)
    (hg : g = ((f.setMemberState (bmFrom h) 1).setMember (bmFrom h) 6 1 0).challengeDue (bmFrom h)) :
    d.helloFrom h eui version prio digest =
      if d.memberState (bmFrom h) = 0 then (if g.iLead then g.reportJoining (bmFrom h) else g) else f := by
  have hclear : ¬ ((decide (d.memberState (bmFrom h) = 1) || decide (d.memberState (bmFrom h) = 2)) &&
      eui != d.memberEui (bmFrom h)) = true := by simpa using heui
  rw [hg, hf, ho, hc]
  exact (if_neg hother).trans ((if_neg hst).trans (if_neg hclear))

end

end

/-! Elections (R269). -/

section

variable {d : Dev}

theorem Dev.candidateFrom_elsewhere {h : BmHdr} {group best bitmap : Nat} (hg : group ≠ groupOf d.fedMe) :
    d.candidateFrom h group best bitmap = d := if_pos hg

/-- A CANDIDATE of the own group: a view that changes is sent again. -/
theorem Dev.candidateFrom_own {h : BmHdr} {group best bitmap : Nat} {f : Dev} (hg : group = groupOf d.fedMe)
    (hf : f = d.setPeer (bmFrom h) { d.peer (bmFrom h) with bitmap := bitmap, candidate := best, voted := true }) :
    d.candidateFrom h group best bitmap =
      if f.fed.view ||| bitmap = f.fed.view ∨ f.fed.coord.isSome then f
      else (f.setFed { f.fed with view := f.fed.view ||| bitmap }).sendCandidate := by
  rw [hf]
  exact if_neg (not_not.mpr hg)

section

variable (hon : d.fedOn = true) (hst : 3 ≤ d.fedState) (hq : d.fedQuarantined = false)

include hon hst hq

/-- A round is held by a member that is past discovery and not quarantined. -/
theorem electionRound_held : ¬ (!d.fedOn || decide (d.fedState < 3) || d.fedQuarantined) = true := by
  simpa [hon, hq] using hst

theorem electionRound_group (hc : d.fed.coord = none) : electionRound d = d.groupRound := by
  rw [electionRound, if_neg (electionRound_held hon hst hq), hc]

/-- Only a coordinator without a leader elects one; a leader goes on with the proposal that it has to resolve. -/
theorem electionRound_coordinated {c : Nat} (hc : d.fed.coord = some c) :
    electionRound d =
      if c = d.fedMe && d.fed.leader.isNone then
        if d.bestOf d.coords = d.fedMe then d.becomeLeader else d.sendReport
      else if d.iLead && d.fed.resolve then d.resolveProposal else d := by
  rw [electionRound, if_neg (electionRound_held hon hst hq), hc]

end

theorem Dev.groupRound_agrees {e : Dev} (ha : d.groupAgrees = true)
    (he : e = d.setCoord (groupOf d.fedMe) (d.bestOf (membersIn (32 * groupOf d.fedMe) 32 d.fed.view))) :
    d.groupRound = if e.iCoord then e.sendReport else e := by
  rw [he]
  exact if_pos ha

theorem Dev.groupRound_again (ha : d.groupAgrees = false) :
    d.groupRound =
      (d.setFed { d.fed with peers := d.fed.peers.map fun x => (x.1, { x.2 with voted := false }) }).sendCandidate :=
  if_neg (by simp [ha])

/-! GROUP_REPORT and LEADER (R269, R281). -/

section

variable {h : BmHdr} {group coord present aligned attested : Nat}

theorem Dev.reportFrom_foreign (hm : coord ≠ bmFrom h ∨ groupOf (bmFrom h) ≠ group) :
    d.reportFrom h group coord present aligned attested = d := if_pos hm

theorem Dev.reportFrom_taken {f g k l : Dev} (hcoord : coord = bmFrom h) (hgroup : groupOf (bmFrom h) = group)
    (hf : f = d.setPeer (bmFrom h) { d.peer (bmFrom h) with report := some (present, aligned, attested) })
    (hg : g = if group = groupOf f.fedMe ∧ f.iCoord = true ∧ f.memberRank (bmFrom h) < f.memberRank f.fedMe then f
      else f.setCoord group (bmFrom h))
    (hk : k = if group = groupOf f.fedMe ∧ g.iCoord = true then g
      else (membersIn (32 * group) 32 (2 ^ 32 - 1)).foldl (fun b j => if j != b.fedMe && !b.attests j then
        b.setMember j 6 1 (b2n (attested.testBit (j % 32))) else b) g)
    (hl : l = if k.iLead = true ∧ k.memberRank k.fedMe < k.memberRank (bmFrom h) then k.stepDown else k) :
    d.reportFrom h group coord present aligned attested = l.fedAdvance := by
  have hmine : ¬ (coord ≠ bmFrom h ∨ groupOf (bmFrom h) ≠ group) := by simp [hcoord, hgroup]
  simp only [Dev.reportFrom, if_neg hmine, Bool.and_eq_true, decide_eq_true_eq, and_assoc] at hk ⊢
  rw [← hf, ← hg, ← hk, ← hl]

end

section

variable {h : BmHdr} {l groups : Nat}

theorem Dev.leaderFrom_foreign (hm : l ≠ bmFrom h ∨ bmFrom h = d.fedMe) : d.leaderFrom h l groups = d := if_pos hm

variable (hl : l = bmFrom h) (hother : bmFrom h ≠ d.fedMe)

include hl hother

theorem Dev.leaderFrom_lower (hlead : d.iLead = true) (hrank : d.memberRank l < d.memberRank d.fedMe) :
    d.leaderFrom h l groups = d.sendLeader := by
  have hmine : ¬ (l ≠ bmFrom h ∨ bmFrom h = d.fedMe) := by simp [hl, hother]
  have hlower : (d.iLead && decide (d.memberRank (bmFrom h) < d.memberRank d.fedMe)) = true := by simp [hlead, ← hl, hrank]
  exact (if_neg hmine).trans (if_pos hlower)

/-- A leader that this member does not outrank is taken, unless the view differs and another leader is known. -/
theorem Dev.leaderFrom_taken {f g : Dev} {differs : Bool} (hrank : d.iLead = false ∨ d.memberRank d.fedMe ≤ d.memberRank l)
    (hf : f = if d.iLead then d.stepDown else d)
    (hd : differs = (f.iCoord && (f.coordGroups != groups || f.bestOf (bmFrom h :: f.coords) != bmFrom h)))
    (hg : g = if differs then f.sendReport else f) :
    d.leaderFrom h l groups = if differs && g.fed.leader != some l then g else (g.setLeader l).fedAdvance := by
  have hmine : ¬ (l ≠ bmFrom h ∨ bmFrom h = d.fedMe) := by simp [hl, hother]
  have hnot : ¬ (d.iLead && decide (d.memberRank (bmFrom h) < d.memberRank d.fedMe)) = true := by
    rw [← hl]
    simpa [← Bool.not_eq_true, imp_iff_not_or] using hrank
  rw [hg, hd, hf]
  subst hl
  exact (if_neg hmine).trans (if_neg hnot)

end

/-! Losses and absences (R20, R266, R269). -/

theorem leaderHeartbeat_leads (hon : d.fedOn = true) (hl : d.fed.leader = some d.fedMe) :
    leaderHeartbeat d = d.sendLeader := if_pos (by simp [hon, Dev.iLead, hl])

theorem coordinatorLoss_elects {c : Nat} (hon : d.fedOn = true) (hc : d.fed.coord = some c) (hother : c ≠ d.fedMe) :
    coordinatorLoss d = ((d.setMember c 7 1 0).startElection).showRoles := by
  simp only [coordinatorLoss, hc]
  exact if_neg (by simp [hon, hother])

theorem leaderLoss_reports {l : Nat} {e : Dev} (hon : d.fedOn = true) (hl : d.fed.leader = some l) (hother : l ≠ d.fedMe)
    (he : e = (d.setMember l 7 1 0).stepDown) : leaderLoss d = if e.iCoord then e.sendReport else e := by
  rw [he]
  simp only [leaderLoss, hl]
  exact if_neg (by simp [hon, hother])

section

variable {m : Nat} (hon : d.fedOn = true) (hm : m < 1024)

include hon hm

/-- The agent judges the absence of an index of the table. -/
theorem memberAbsent_judged : ¬ (!d.fedOn || decide (1024 ≤ m)) = true := by simp [hon, hm]

theorem memberAbsent_own (hme : m = d.fedMe) :
    memberAbsent m d = if d.fedState = 10 && (d.liveClaims m).isEmpty && d.recordNames m d.eui then
      (d.setFedState 5).setMemberState m 1 else d := by
  exact (if_neg (memberAbsent_judged hon hm)).trans (if_pos hme)

variable (hother : m ≠ d.fedMe)

include hother

theorem memberAbsent_absent (hst : d.memberState m = 0) : memberAbsent m d = d := by
  rw [memberAbsent, if_neg (memberAbsent_judged hon hm), if_neg hother]
  simp only [hst]

/-- In CONFLICT the one sender left that the ROSTER record names returns to JOINING. -/
theorem memberAbsent_resolved {c : Nat × Nat} (hst : d.memberState m = 4) (hc : d.liveClaims m = [c])
    (hn : d.recordNames m c.1 = true) :
    memberAbsent m d = ((((d.setPeer m { d.peer m with claims := [c] }).setLe (memberAddr m + 8) 8 c.1).setMemberState m
      1).setMember m 6 1 0).challengeDue m := by
  rw [memberAbsent, if_neg (memberAbsent_judged hon hm), if_neg hother]
  simp only [hst, hc]
  exact if_pos hn

theorem memberAbsent_unresolved (hst : d.memberState m = 4) (hn : ∀ c, d.liveClaims m = [c] → d.recordNames m c.1 = false) :
    memberAbsent m d = d := by
  rw [memberAbsent, if_neg (memberAbsent_judged hon hm), if_neg hother]
  simp only [hst]
  split
  · next c hc => exact if_neg (by simp [hn c hc])
  · rfl

/-- A silent member becomes ABSENT, and the frames that wait for it end. -/
theorem memberAbsent_silent {e : Dev} (h0 : d.memberState m ≠ 0) (h4 : d.memberState m ≠ 4)
    (he : e = (d.setMemberState m 0).setMember m 7 1 0) :
    memberAbsent m d = ((e.tx.frames.filter fun f => f.stage = .remote && f.node.any fun s => e.rteMember s = m).foldl
      (fun b f => b.txEnd f Code.peerAbsent false) e).settle := by
  rw [memberAbsent, if_neg (memberAbsent_judged hon hm), if_neg hother]
  split
  · contradiction
  · contradiction
  · rw [he]
    dsimp only
    congr 2
    refine List.filter_congr fun f _ => ?_
    cases f.node <;> rfl

end

end

/-- Settles O27: each command, message and loss by its lemmas above. -/
theorem federationFormsAsItsRulesGive : Obligations.FederationFormsAsItsRulesGive := by
  refine ⟨?start, ?config, ?linkUp, ?linkDown, ?helloTimer, ?discovery, ?hello, ?candidate, ?round, ?report, ?leader,
    ?heartbeat, ?coordLoss, ?leaderLoss, ?absent⟩
  case start =>
    exact fun d who w r hup hr => Answers.intro (f := fedCtrlStart who w) (fun _ => rfl)
      ⟨fedCtrlStart_stays hup hr, fun _ _ _ => fedCtrlStart_starts hup hr⟩
  case config =>
    exact fun d who w hup => Answers.intro (f := fedCfgWrite who w) (fun _ => rfl)
      ⟨fedCfgWrite_stores hup, fedCfgWrite_refused hup⟩
  case linkUp => exact fun d p => Answers.intro (f := portLink p true) (fun _ => rfl) rfl
  case linkDown => exact fun d p => Answers.intro (f := portLink p false) (fun _ => rfl) rfl
  case helloTimer =>
    exact fun d e f hon hlink he hf => Answers.intro (f := helloTimer) (fun _ => rfl) (helloTimer_sends hon hlink he hf)
  case discovery =>
    exact fun d hon hst => Answers.intro (f := discoveryClose) (fun _ => rfl) (discoveryClose_closes hon hst)
  case hello =>
    rintro d h eui version prio ports digest e f g _ claims others ha rfl hc ho hf hg
    refine answers_message (fun _ => rfl) ha ⟨fun hme heui => ?_, fun hme heui => ?_, fun hother h4 => ?_,
      fun hother h12 heui => ?_, fun hother h12 heui => ?_, fun hother hst => ?_, fun hother h0 => ?_⟩
    · rw [Dev.helloFrom_own hme heui]
    · rw [Dev.helloFrom_ownConflict hc hme heui]
    · rw [Dev.helloFrom_inConflict hc hother h4]
    · rw [Dev.helloFrom_conflict hc hother h12 heui]
    · rw [Dev.helloFrom_enters hc hother (by omega) (fun _ => heui) ho hf hg, if_neg (by omega)]
    · simp only [List.mem_cons, List.not_mem_nil, or_false, not_or] at hst
      obtain ⟨h0, h1, h2, h4⟩ := hst
      rw [Dev.helloFrom_enters hc hother h4 (fun h12 => (h12.elim h1 h2).elim) ho hf hg, if_neg h0]
    · rw [Dev.helloFrom_enters hc hother (by omega) (fun h12 => by omega) ho hf hg, if_pos h0]
  case candidate =>
    intro d h group best bitmap e f ha hf
    refine answers_message (fun _ => rfl) ha ⟨fun hg => ?_, fun hg => ?_⟩
    · rw [Dev.candidateFrom_elsewhere hg]
    · rw [Dev.candidateFrom_own hg hf]
  case round =>
    intro d hon hst hq
    refine Answers.intro (f := electionRound) (fun _ => rfl) ⟨fun e hc hag he => ?_, fun hc hag => ?_, fun hc hl hb => ?_,
      fun hc hl hb => ?_, fun c hc hno => ?_⟩
    · rw [electionRound_group hon hst hq hc, Dev.groupRound_agrees hag he]
    · rw [electionRound_group hon hst hq hc, Dev.groupRound_again hag]
    · rw [electionRound_coordinated hon hst hq hc, if_pos (by simp [hl]), if_pos hb]
    · rw [electionRound_coordinated hon hst hq hc, if_pos (by simp [hl]), if_neg hb]
    · rw [electionRound_coordinated hon hst hq hc, if_neg]
      rcases hno with hother | hl
      · simp [hother]
      · simp [Option.isSome_iff_ne_none.mp hl]
  case report =>
    rintro d h group coord present aligned attested _ e f g k l ha rfl hf hg hk hl
    refine answers_message (fun _ => rfl) ha ⟨fun hm => ?_, fun hcoord hgroup => ?_⟩
    · rw [Dev.reportFrom_foreign hm]
    · rw [Dev.reportFrom_taken hcoord hgroup hf hg hk hl]
  case leader =>
    intro d h l groups e f g differs ha hf hd hg
    refine answers_message (fun _ => rfl) ha ⟨fun hm => ?_, fun hl hother hlead hrank => ?_, fun hl hother hrank => ?_⟩
    · rw [Dev.leaderFrom_foreign hm]
    · rw [Dev.leaderFrom_lower hl hother hlead hrank]
    · rw [Dev.leaderFrom_taken hl hother hrank hf hd hg]
  case heartbeat =>
    exact fun d hon hl => Answers.intro (f := leaderHeartbeat) (fun _ => rfl) (leaderHeartbeat_leads hon hl)
  case coordLoss =>
    exact fun d c hon hc hother => Answers.intro (f := coordinatorLoss) (fun _ => rfl) (coordinatorLoss_elects hon hc hother)
  case leaderLoss =>
    exact fun d l e hon hl hother he => Answers.intro (f := leaderLoss) (fun _ => rfl) (leaderLoss_reports hon hl hother he)
  case absent =>
    exact fun d m e hon hm he => Answers.intro (f := memberAbsent m) (fun _ => rfl)
      ⟨memberAbsent_own hon hm, memberAbsent_absent hon hm, fun _ hother => memberAbsent_resolved hon hm hother,
        memberAbsent_unresolved hon hm, fun hother h0 h4 => memberAbsent_silent hon hm hother h0 h4 he⟩

end Sys2Proof.Machine
end

section
/-! SUPPORT. The checks that a federation message meets (R260–R262), time alignment (R272), digests and records (R274, R275) and
the epoch commit (R276–R278, R282): what each check, message and timeout comes to; the statements of 12_federation.md on them
settled with these facts. -/

namespace Sys2Proof.Machine

open Sys2Proof

/-! The checks of R262, in their order. -/

section

variable {d e : Dev} {h : BmHdr} {k : BmKind} {fmt : Bool}

theorem Dev.bmAccept_foreign (hme : d.bmForMe h = false) : d.bmAccept h k fmt = (d, false) := if_pos (by simp [hme])

section

variable (hme : d.bmForMe h = true)

include hme

theorem Dev.bmAccept_malformed (hbad : hdrOk h k.bm3 k.most = false ∨ fmt = false) :
    d.bmAccept h k fmt = (d.bump Fld.fedStat0_reservedDrop, false) :=
  (if_neg (by simp [hme])).trans (if_pos (by simpa using hbad))

variable (he : e = if k.tagged then d.fedRequest true (hdrOctets h k.type) h.tag else d)
  (hok : hdrOk h k.bm3 k.most = true) (hfmt : fmt = true)

include he hok hfmt

theorem Dev.bmAccept_noKey (ht : k.tagged = true) (hkey : d.fedKeyOk = false) :
    d.bmAccept h k fmt = ((e.bump Fld.fedStat0_authDrop).raise 0x50, false) := by
  simp [Dev.bmAccept, hme, hok, hfmt, ht, hkey, he]

theorem Dev.bmAccept_wrongTag (ht : k.tagged = true) (hkey : d.fedKeyOk = true) (htag : h.tag ≠ d.fedTag (hdrOctets h k.type)) :
    d.bmAccept h k fmt = (e.bump Fld.fedStat0_authDrop, false) := by
  simp [Dev.bmAccept, hme, hok, hfmt, ht, hkey, htag, he]

variable (hauth : k.tagged = false ∨ (d.fedKeyOk = true ∧ h.tag = d.fedTag (hdrOctets h k.type)))

include hauth

/-- Past the authentication, SEQ, the sender's state and the EPOCH are judged. -/
theorem Dev.bmAccept_authentic :
    d.bmAccept h k fmt =
      if e.replayed h then (e.bump Fld.fedStat1_replayDrop, false)
      else if !k.fromQuarantine && (e.memberState (bmFrom h) = 3 || e.memberState (bmFrom h) = 4) then
        (e.bump Fld.fedStat1_quarDrop, false)
      else if k.epoch && decide (h.epoch < e.epoch) then
        ((e.bump Fld.fedStat2_staleDrop).fedSend (some (bmFrom h)) (.abort h.epoch Code.epochStale), false)
      else
        (if h.bootId != e.memberBootId (bmFrom h) &&
            ((e.bmNote h).memberState (bmFrom h) = 1 || (e.bmNote h).memberState (bmFrom h) = 2) then
          ((e.bmNote h).setMember (bmFrom h) 6 1 0).challengeDue (bmFrom h) else e.bmNote h, true) := by
  have hknown : (!k.tagged || d.fedKeyOk) = true := by
    rcases hauth with ht | ⟨hkey, -⟩ <;> simp [*]
  have hgood : (!k.tagged || (d.fedKeyOk && decide (h.tag = d.fedTag (hdrOctets h k.type)))) = true := by
    rcases hauth with ht | ⟨hkey, htag⟩
    · simp [ht]
    · simp [hkey, htag]
  simp only [Dev.bmAccept, hme, hok, hfmt, hknown, hgood, ← he, Bool.not_true, Bool.false_eq_true, Bool.or_self, if_false]

theorem Dev.bmAccept_replayed (hseen : e.replayed h = true) :
    d.bmAccept h k fmt = (e.bump Fld.fedStat1_replayDrop, false) :=
  (Dev.bmAccept_authentic hme he hok hfmt hauth).trans (if_pos hseen)

variable (hnew : e.replayed h = false)

include hnew

theorem Dev.bmAccept_quarantined (hq : k.fromQuarantine = false)
    (hst : e.memberState (bmFrom h) = 3 ∨ e.memberState (bmFrom h) = 4) :
    d.bmAccept h k fmt = (e.bump Fld.fedStat1_quarDrop, false) := by
  rw [Dev.bmAccept_authentic hme he hok hfmt hauth, if_neg (by simp [hnew]), if_pos (by simp [hq, hst])]

variable (hfrom : k.fromQuarantine = true ∨ (e.memberState (bmFrom h) ≠ 3 ∧ e.memberState (bmFrom h) ≠ 4))

include hfrom

theorem Dev.bmAccept_stale (hk : k.epoch = true) (hlt : h.epoch < e.epoch) :
    d.bmAccept h k fmt =
      ((e.bump Fld.fedStat2_staleDrop).fedSend (some (bmFrom h)) (.abort h.epoch Code.epochStale), false) := by
  rw [Dev.bmAccept_authentic hme he hok hfmt hauth, if_neg (by simp [hnew]), if_neg (by simpa [or_iff_not_imp_left] using hfrom),
    if_pos (by simp [hk, hlt])]

theorem Dev.bmAccept_noted (hfresh : k.epoch = false ∨ e.epoch ≤ h.epoch) :
    d.bmAccept h k fmt =
      ((if h.bootId ≠ e.memberBootId (bmFrom h) ∧
          ((e.bmNote h).memberState (bmFrom h) = 1 ∨ (e.bmNote h).memberState (bmFrom h) = 2) then
        ((e.bmNote h).setMember (bmFrom h) 6 1 0).challengeDue (bmFrom h) else e.bmNote h), true) := by
  rw [Dev.bmAccept_authentic hme he hok hfmt hauth, if_neg (by simp [hnew]), if_neg (by simpa [or_iff_not_imp_left] using hfrom),
    if_neg (by simpa [or_iff_not_imp_left] using hfresh)]
  simp

end

end

/-- Settles O33: each check of R262 by its lemma above. -/
theorem messagesAreCheckedInTheirOrder : Obligations.MessagesAreCheckedInTheirOrder := fun _ _ _ _ _ he =>
  ⟨Dev.bmAccept_foreign, Dev.bmAccept_malformed, fun hme hok hfmt =>
    ⟨Dev.bmAccept_noKey hme he hok hfmt, Dev.bmAccept_wrongTag hme he hok hfmt, fun hauth =>
      ⟨Dev.bmAccept_replayed hme he hok hfmt hauth, Dev.bmAccept_quarantined hme he hok hfmt hauth, fun hnew hfrom =>
        ⟨Dev.bmAccept_stale hme he hok hfmt hauth hnew hfrom, Dev.bmAccept_noted hme he hok hfmt hauth hnew hfrom⟩⟩⟩⟩

/-! Messages that the checks turn away. -/

theorem Dev.bmRun_refused {d e : Dev} {h : BmHdr} {k : BmKind} {format : Bool} (f : Dev → Dev)
    (ha : d.bmAccept h k format = (e, false)) : d.bmRun h k format f = e := by
  simp [Dev.bmRun, ha]

/-- A refused message leaves the device of the checks, whatever its effect `f` would have been. -/
theorem answers_refused {c : Instr} {d e : Dev} {h : BmHdr} {k : BmKind} {format : Bool} {f : Dev → Dev}
    (hc : ∀ s, exec c s = s.run fun d => d.bmRun h k format f) (ha : d.bmAccept h k format = (e, false)) :
    Answers c d fun t => t = e :=
  Answers.intro hc (Dev.bmRun_refused f ha)

/-- Settles O32: every message runs its effect behind the checks, and `answers_refused` says what they leave. -/
theorem refusedMessagesHaveNoEffectOfTheirOwn : Obligations.RefusedMessagesHaveNoEffectOfTheirOwn := by
  unfold Obligations.RefusedMessagesHaveNoEffectOfTheirOwn
  refine ⟨?hello, ?candidate, ?groupReport, ?leader, ?syncReq, ?syncResp, ?digest, ?recordReq, ?manifest, ?record, ?propose,
    ?prepare, ?prepared, ?commit, ?abort, ?challenge, ?response, ?replica, ?replicaAck, ?replicaReq, ?offer, ?answer, ?done,
    ?active, ?visitor, ?redirect, ?transmit, ?result⟩
  all_goals
    intros
    rename_i ha
    exact answers_refused (fun _ => rfl) ha

/-! Time alignment (R272). -/

section

variable {d : Dev}

theorem syncBurst_starts {p : Nat} (hon : d.fedOn = true) (hp : d.parent = some p) (hother : p ≠ d.fedMe) :
    syncBurst d = (d.setFed { d.fed with burst := none, exchanges := 0 }).fedSend (some p) (.syncReq 0 (d.bm2Time p)) := by
  simp [syncBurst, hp, hon, hother]

section

variable {h : BmHdr} {t1 t2 t3 t4 : Nat}

theorem Dev.exchange_ignored (hi : d.parent ≠ some (bmFrom h) ∨ 8 ≤ d.fed.exchanges) : d.exchange h t1 t2 t3 t4 = d := if_pos hi

/-- An exchange with the parent keeps the one of the least delay; the eighth ends the burst. -/
theorem Dev.exchange_counted {f : Dev} {u delay theta : Int} {best : Int × Int} (hp : d.parent = some (bmFrom h))
    (hn : d.fed.exchanges < 8) (hu : u = (if h.version = 3 then h.txTime else t3 : Nat))
    (hd : delay = ((t4 - t1 : Int) - (u - t2)) / 2)
    (ht : theta = ((t2 - t1 : Int) - (t4 - u) - signedOf (d.rd Fld.fedAsym_asym (if h.ports = 2 then 1 else 0)) 16) / 2)
    (hb : best = if (d.fed.burst.any fun b => b.1 ≤ delay) then d.fed.burst.getD (delay, theta) else (delay, theta))
    (hf : f = d.setFed { d.fed with burst := some best, exchanges := d.fed.exchanges + 1 }) :
    d.exchange h t1 t2 t3 t4 =
      if d.fed.exchanges + 1 < 8 then
        f.fedSend (some (bmFrom h)) (.syncReq (d.fed.exchanges + 1) (f.bm2Time (bmFrom h)))
      else f.burstEnd (bmFrom h) best.2 := by
  have hu' : (if h.version = 3 then (h.txTime : Int) else t3) = u := by rw [hu]; split <;> rfl
  have hbest : (match d.fed.burst with
      | some (y, z) => if delay < y then (delay, theta) else (y, z)
      | none => (delay, theta)) = best := by
    rw [hb]
    cases d.fed.burst with
    | none => rfl
    | some b => by_cases hlt : delay < b.1 <;> simp [hlt, Int.not_le.mpr, Int.not_lt.mp]
  have hgo : ¬ (d.parent ≠ some (bmFrom h) ∨ 8 ≤ d.fed.exchanges) := by simp [hp, hn]
  simp only [Dev.exchange, if_neg hgo, hu', ← hd, ← ht]
  rw [hf, ← hbest] <;> rfl

end

section

variable (hon : d.fedOn = true)

include hon

theorem parentHoldoverTimeout_loses (hl : d.fed.leader ≠ some d.fedMe)
    (hgone : (d.parent.all fun p => d.memberState p = 0) = true) :
    parentHoldoverTimeout d = ((d.wr Fld.fedTime_aligned 0).setFed { d.fed with good := 0 }).raise 0x52 := by
  cases hp : d.parent <;> simp_all [parentHoldoverTimeout, Dev.iLead]

theorem parentHoldoverTimeout_stays
    (h : d.fed.leader = some d.fedMe ∨ (d.parent.all fun p => d.memberState p = 0) = false) : parentHoldoverTimeout d = d := by
  rcases h with hl | hgone
  · simp [parentHoldoverTimeout, Dev.iLead, hl]
  · cases hp : d.parent <;> simp_all [parentHoldoverTimeout]

end

end

/-- Settles O28: the burst, its requests and answers, and the holdover, by their lemmas above. -/
theorem timeIsAlignedWithTheParent : Obligations.TimeIsAlignedWithTheParent := by
  unfold Obligations.TimeIsAlignedWithTheParent
  refine ⟨?burst, ?request, ?response, ?holdover⟩
  case burst => exact fun d p hon hp hother => Answers.intro (f := syncBurst) (fun _ => rfl) (syncBurst_starts hon hp hother)
  case request => exact fun d h index t2 e ha => answers_message (fun _ => rfl) ha rfl
  case response =>
    intro d h t1 t2 t3 t4 e f u delay theta best ha hu hd ht hb hf
    refine answers_message (fun _ => rfl) ha ⟨fun hi => ?_, fun hp hn => ?_, fun hp hn => ?_⟩
    · rw [Dev.exchange_ignored hi]
    · rw [Dev.exchange_counted hp (by omega) hu hd ht hb hf, if_pos (by omega)]
    · rw [Dev.exchange_counted hp (by omega) hu hd ht hb hf, if_neg (by omega)]
  case holdover =>
    exact fun d hon => Answers.intro (f := parentHoldoverTimeout) (fun _ => rfl)
      ⟨parentHoldoverTimeout_loses hon, parentHoldoverTimeout_stays hon⟩

/-! Digests and records (R274, R275). -/

section

variable {d : Dev}

theorem digestTimer_sends {other : Nat} {e f : Dev} {p : BmPayload} (hon : d.fedOn = true) (hst : 3 ≤ d.fedState)
    (hp : p = .digest d.epoch d.digestRegs (d.epoch + 1) d.nextDigest)
    (he : (d.fed.coord = none ∧ e = d) ∨ ∃ c, d.fed.coord = some c ∧ e = if c = d.fedMe then d else d.fedSend (some c) p)
    (hf : f = if other ≠ e.fedMe ∧ other < 1024 ∧ e.memberHere other ∧ e.fed.coord ≠ some other then e.fedSend (some other) p
      else e) : digestTimer other d = f.fedAdvance.leaderPropose.settle := by
  have hgo : ¬ (!d.fedOn || decide (d.fedState < 3)) = true := by simpa [hon] using hst
  rw [digestTimer, if_neg hgo, ← hp]
  rcases he with ⟨hc, he⟩ | ⟨c, hc, he⟩
  · rw [hf, he]
    simp only [hc]
  · rw [hf, he]
    simp only [hc]

theorem Dev.recordsFor_manifest {m epoch : Nat} {ids : List (Nat × Nat)} {recs : List Record}
    (hr : recs = if epoch = d.epoch then d.fed.current else d.fed.proposed) (hi : ids = []) :
    d.recordsFor m epoch ids =
      (manifests (recs.length / 90) recs).foldl
        (fun b l => b.fedSend (some m) (.manifest (l.map fun r => (r.type, r.id, r.hash8)))) d := by
  rw [hr, hi]
  rfl

theorem Dev.recordsFor_records {m epoch : Nat} {ids : List (Nat × Nat)} {recs : List Record}
    (hr : recs = if epoch = d.epoch then d.fed.current else d.fed.proposed) (hi : ids ≠ []) :
    d.recordsFor m epoch ids =
      (ids.filterMap fun i => getRecord i.1 i.2 recs).foldl
        (fun b r => r.fragments.foldl (fun b p => b.fedSend (some m) p) b) d := by
  rw [hr]
  exact if_neg (by simpa using hi)

section

variable {m : Nat} {entries : List (Nat × Nat × List Byte)}

theorem Dev.manifestFrom_idle (hp : d.fed.proposal = none) : d.manifestFrom m entries = d := by
  simp only [Dev.manifestFrom, hp]

variable {p : Proposal} (hp : d.fed.proposal = some p)

include hp

theorem Dev.manifestFrom_unwanted (hu : p.proposer ≠ m ∨ p.preparedOk = true) : d.manifestFrom m entries = d := by
  simp only [Dev.manifestFrom, hp, if_pos hu]

/-- A MANIFEST of the proposer: what its range lacks goes, and what differs is asked for. -/
theorem Dev.manifestFrom_taken {hi : Nat × Nat} {kept : List Record} {need : List (Nat × Nat × List Byte)} {f g : Dev}
    (hm : p.proposer = m) (hok : p.preparedOk = false)
    (hhi : hi = if entries.length < 90 then (0xFFFF, 0xFFFFFFFF) else
      (entries.getLast?.map fun x => (x.1, x.2.1)).getD (0xFFFF, 0xFFFFFFFF))
    (hkept : kept = d.fed.proposed.filter fun r =>
      !(!recBefore r.type r.id d.fed.manifestFrom.1 d.fed.manifestFrom.2 && !recBefore hi.1 hi.2 r.type r.id) ||
        (entries.any fun x => x.1 = r.type && x.2.1 = r.id))
    (hneed : need = entries.filter fun x => recordTypeOk x.1 && ((getRecord x.1 x.2.1 kept).all fun r => r.hash8 != x.2.2))
    (hf : f = d.setFed { d.fed with proposed := kept, wanted := d.fed.wanted ++ need, manifestFrom := (hi.1, hi.2 + 1) })
    (hg : g = f.askRecords p (need.length + 1) (need.map fun x => (x.1, x.2.1))) :
    d.manifestFrom m entries = if g.fed.wanted.isEmpty then g.checkProposal false else g := by
  have hmine : ¬ (p.proposer ≠ m ∨ p.preparedOk = true) := by simp [hm, hok]
  have hhi' : (if entries.length < 90 then (0xFFFF, 0xFFFFFFFF)
      else match entries.getLast? with | some e => (e.1, e.2.1) | none => (0xFFFF, 0xFFFFFFFF)) = hi := by
    rw [hhi]
    cases entries.getLast? <;> rfl
  have hneed' : (entries.filter fun e =>
      recordTypeOk e.1 && (match getRecord e.1 e.2.1 kept with | some r => r.hash8 != e.2.2 | none => true)) = need := by
    rw [hneed]
    refine List.filter_congr fun x _ => ?_
    cases getRecord x.1 x.2.1 kept <;> rfl
  simp only [Dev.manifestFrom, hp, if_neg hmine]
  rw [hg, hf, ← hneed', hkept, ← hhi', ← hp] <;> rfl

end

section

variable {type id total offset : Nat} {data : List Byte}

theorem Dev.recordFrom_unwanted (hw : (d.fed.wanted.find? fun x => x.1 = type && x.2.1 = id) = none) :
    d.recordFrom type id total offset data = d := by
  simp only [Dev.recordFrom, hw]

variable {x : Nat × Nat × List Byte} (hw : (d.fed.wanted.find? fun x => x.1 = type && x.2.1 = id) = some x)
  {r : Reassembly} {rest : List Reassembly}
  (hr : r = (d.fed.parts.find? fun r => r.type = type && r.id = id && r.total = total).getD
    { type := type, id := id, total := total, parts := [] })
  (hrest : rest = d.fed.parts.filter fun y => !(y.type = type && y.id = id && y.total = total))

include hw hr hrest

theorem Dev.recordFrom_partial (hn : ({ r with parts := alSet offset data r.parts } : Reassembly).whole = none) :
    d.recordFrom type id total offset data =
      d.setFed { d.fed with parts := rest ++ [{ r with parts := alSet offset data r.parts }] } := by
  simp only [Dev.recordFrom, hw, ← hr, ← hrest, hn]

/-- A whole record enters the proposed set where its hash, its TYPE and the room allow. -/
theorem Dev.recordFrom_whole {bs : List Byte} {f : Dev} {l : List Record}
    (hb : ({ r with parts := alSet offset data r.parts } : Reassembly).whole = some bs)
    (hf : f = d.setFed { d.fed with parts := rest }) (hl : l = putRecord { type := type, id := id, data := bs } f.fed.proposed) :
    d.recordFrom type id total offset data =
      if (sha256 bs).take 8 = x.2.2 ∧ recordTypeOk type = true ∧ setFits l = true then
        (f.setFed { f.fed with proposed := l, wanted := f.fed.wanted.filter fun y => y != x }).checkProposal false
      else f := by
  simp only [Dev.recordFrom, hw, ← hr, ← hrest, hb, ← hf, ← hl]
  by_cases hgood : (sha256 bs).take 8 = x.2.2 ∧ recordTypeOk type = true ∧ setFits l = true
  · rw [if_pos hgood, if_neg (by simp [hgood])]
  · rw [if_neg hgood, if_pos (by tauto)]

end

theorem recordReassemblyTimeout_asks {type id : Nat} {p : Proposal} (hon : d.fedOn = true) (hp : d.fed.proposal = some p)
    (hr : (d.fed.parts.any fun r => r.type = type && r.id = id) = true) :
    recordReassemblyTimeout type id d =
      (d.setFed { d.fed with parts := d.fed.parts.filter fun r => !(r.type = type && r.id = id) }).fedSend (some p.proposer)
        (.recordReq p.epoch [(type, id)]) := by
  simp only [recordReassemblyTimeout, hp, hon, hr, Bool.and_self, if_true]

theorem recordReassemblyTimeout_stays {type id : Nat}
    (h : d.fed.proposal = none ∨ (d.fed.parts.any fun r => r.type = type && r.id = id) = false) :
    recordReassemblyTimeout type id d = d := by
  cases hp : d.fed.proposal with
  | none => simp only [recordReassemblyTimeout, hp]
  | some p =>
    have hr := h.resolve_left (by simp [hp])
    simp only [recordReassemblyTimeout, hp, hr, Bool.and_false, Bool.false_eq_true, if_false]

end

/-! Epoch messages (R276–R278, R282). -/

section

variable {d : Dev}

section

variable {m base : Nat} {dig : List Byte} {proposer : Nat}

theorem Dev.proposeFrom_elsewhere (hl : d.fed.leader ≠ some d.fedMe) :
    d.proposeFrom m base dig proposer = d.fedSend (some m) (.abort base Code.notLeader) := if_pos (by simp [Dev.iLead, hl])

variable (hl : d.fed.leader = some d.fedMe)

include hl

theorem Dev.proposeFrom_stale (h : base ≠ d.epoch ∨ d.fed.proposal.isSome = true ∨ d.fedState < 6) :
    d.proposeFrom m base dig proposer = d.fedSend (some m) (.abort base Code.epochStale) :=
  (if_neg (by simp [Dev.iLead, hl])).trans (if_pos h)

theorem Dev.proposeFrom_accepted (hb : base = d.epoch) (hp : d.fed.proposal = none) (hst : 6 ≤ d.fedState) :
    d.proposeFrom m base dig proposer = d.accept dig d.wantedRoster proposer :=
  (if_neg (by simp [Dev.iLead, hl])).trans (if_neg (by simp [hb, hp, hst]))

end

section

variable {m epoch : Nat} {dig : List Byte} {roster proposer : Nat}

theorem Dev.prepareFrom_taken (hl : d.fed.leader = some m) (hlater : d.epoch < epoch) :
    d.prepareFrom m epoch dig roster proposer =
      d.takeProposal { epoch := epoch, digest := dig, roster := membersIn 0 1024 roster, proposer := proposer } :=
  if_neg (by simp [hl, hlater])

theorem Dev.prepareFrom_ignored (h : d.fed.leader ≠ some m ∨ epoch ≤ d.epoch) :
    d.prepareFrom m epoch dig roster proposer = d := if_pos h

end

section

variable {m epoch status bitmap : Nat}

theorem Dev.preparedFrom_idle (hp : d.fed.proposal = none) : d.preparedFrom m epoch status bitmap = d := by
  simp only [Dev.preparedFrom, hp]

variable {p : Proposal} (hp : d.fed.proposal = some p)

include hp

theorem Dev.preparedFrom_ignored (h : p.epoch ≠ epoch ∨ (d.iCoord = false ∧ d.iLead = false)) :
    d.preparedFrom m epoch status bitmap = d := by
  simp only [Dev.preparedFrom, hp]
  exact if_pos (by simpa using h)

variable (he : p.epoch = epoch)

include he

/-- A coordinator or the leader keeps the OK of a group's members. -/
theorem Dev.preparedFrom_ok {f : Dev} (hrole : d.iCoord = true ∨ d.iLead = true) (hok : status = Code.ok)
    (hf : f = (membersIn (32 * groupOf m) 32 bitmap).foldl (fun b k => b.setPeer k { b.peer k with prepared := 1 }) d) :
    d.preparedFrom m epoch status bitmap = if f.iLead then f.decideEpoch else f.aggregate := by
  simp only [Dev.preparedFrom, hp, he, hrole, hok, ← hf, ne_eq, not_true_eq_false, or_self, if_false]

variable (hno : status ≠ Code.ok)

include hno

theorem Dev.preparedFrom_aborts (hl : d.iLead = true) : d.preparedFrom m epoch status bitmap = d.abortAll status := by
  simp [Dev.preparedFrom, hp, he, hl, hno]

theorem Dev.preparedFrom_passes {l : Nat} (hc : d.iCoord = true) (hl : d.iLead = false) (hlead : d.fed.leader = some l) :
    d.preparedFrom m epoch status bitmap = d.fedSend (some l) (.prepared epoch status 0) := by
  simp [Dev.preparedFrom, hp, he, hc, hl, hno, hlead]

theorem Dev.preparedFrom_leaderless (hc : d.iCoord = true) (hl : d.iLead = false) (hlead : d.fed.leader = none) :
    d.preparedFrom m epoch status bitmap = d := by
  simp [Dev.preparedFrom, hp, he, hc, hl, hno, hlead]

end

section

theorem prepareTimeout_idle (hp : d.fed.proposal = none) : prepareTimeout d = d := by
  simp only [prepareTimeout, hp]

variable {p : Proposal} (hp : d.fed.proposal = some p)

include hp

theorem prepareTimeout_committed (hc : p.commitAt.isSome = true) : prepareTimeout d = d := by
  simp only [prepareTimeout, hp, hc, Bool.or_true, if_true]

variable (hon : d.fedOn = true) (hc : p.commitAt = none)

include hon hc

theorem prepareTimeout_leads (hl : d.fed.leader = some d.fedMe) : prepareTimeout d = d.abortAll Code.digestMismatch := by
  simp [prepareTimeout, hp, hon, hc, Dev.iLead, hl]

variable (hl : d.fed.leader ≠ some d.fedMe)

include hl

theorem prepareTimeout_answered (h : p.preparedOk = true ∨ p.roster.contains d.fedMe = false) : prepareTimeout d = d := by
  rcases h with h | h <;> simp [prepareTimeout, hp, hon, hc, Dev.iLead, hl] <;> simp_all

theorem prepareTimeout_reports (hok : p.preparedOk = false) (hr : p.roster.contains d.fedMe = true) :
    prepareTimeout d = d.answerPrepare p Code.digestMismatch := by
  simp [prepareTimeout, hp, hon, hc, Dev.iLead, hl, hok] at hr ⊢
  simp [hr]

end

section

variable {epoch : Nat} {dig : List Byte} {x : Nat}

theorem Dev.commitFrom_idle (hp : d.fed.proposal = none) : d.commitFrom epoch dig x = d := by
  simp only [Dev.commitFrom, hp]

variable {p : Proposal} (hp : d.fed.proposal = some p)

include hp

theorem Dev.commitFrom_ignored (h : p.epoch ≠ epoch ∨ p.digest ≠ dig ∨ d.holdsProposal p = false ∨ p.commitAt.isSome = true) :
    d.commitFrom epoch dig x = d := by
  simp only [Dev.commitFrom, hp]
  exact if_pos (by simpa using h)

/-- A COMMIT of the proposal held is applied where T has passed, else kept until T. -/
theorem Dev.commitFrom_taken (he : p.epoch = epoch) (hdig : p.digest = dig) (hh : d.holdsProposal p = true)
    (hc : p.commitAt = none) :
    d.commitFrom epoch dig x =
      if x < d.tmb then (d.bump Fld.fedStat3_lateCommit).applyEpoch { p with commitAt := some x }
      else d.setFed { d.fed with proposal := some { p with commitAt := some x } } := by
  simp only [Dev.commitFrom, hp]
  exact if_neg (by simp [he, hdig, hh, hc])

end

theorem commitTime_reached {p : Proposal} {x : Nat} (hon : d.fedOn = true) (hp : d.fed.proposal = some p)
    (hc : p.commitAt = some x) (hx : x ≤ d.tmb) : commitTime d = (d.applyEpoch p).settle := by
  simp [commitTime, hp, hc, hon, hx]

section

variable {m epoch status : Nat}

theorem Dev.abortFrom_quarantined (hs : status = Code.quarantined) : d.abortFrom m epoch status = d.enterQuarantine 9 := if_pos hs

theorem Dev.abortFrom_attestFail (hs : status = Code.attestFail) :
    d.abortFrom m epoch status = if d.iLead then d.notice Code.attestFail m else d :=
  (if_neg (by rw [hs]; decide)).trans (if_pos hs)

variable (hq : status ≠ Code.quarantined) (ha : status ≠ Code.attestFail)

include hq ha

theorem Dev.abortFrom_ends {p : Proposal} (hp : d.fed.proposal = some p) :
    d.abortFrom m epoch status =
      if (p.epoch = epoch ∧ p.commitAt = none) ∨ (d.fed.proposeCmd.isSome = true ∧ epoch ≤ d.epoch) then d.proposalEnd status []
      else d := by
  simp only [Dev.abortFrom, if_neg hq, if_neg ha, hp, Bool.and_eq_true, decide_eq_true_eq, Option.isNone_iff_eq_none, ite_or]

theorem Dev.abortFrom_idle (hp : d.fed.proposal = none) :
    d.abortFrom m epoch status = if d.fed.proposeCmd.isSome then d.proposalEnd status [] else d := by
  simp only [Dev.abortFrom, if_neg hq, if_neg ha, hp]

end

theorem joinTimeout_late (hon : d.fedOn = true) (hst : d.fedState ≠ 8) :
    joinTimeout d = (d.wr Fld.fedStatus_timeout 1).raise 0x51 := if_pos (by simp [hon, hst])

theorem joinTimeout_joined (hst : d.fedState = 8) : joinTimeout d = d := if_neg (by simp [hst])

end

/-- Settles O29: each message, timer and timeout by its lemmas above. -/
theorem recordsAndEpochsFollowTheirRules : Obligations.RecordsAndEpochsFollowTheirRules := by
  unfold Obligations.RecordsAndEpochsFollowTheirRules
  refine ⟨?digestTimer, ?digest, ?request, ?manifest, ?record, ?reassembly, ?propose, ?prepare, ?prepared, ?prepareTimeout,
    ?commit, ?commitTime, ?abort, ?join⟩
  case digestTimer =>
    exact fun d other e f p hon hst hp he hf =>
      Answers.intro (f := digestTimer other) (fun _ => rfl) (digestTimer_sends hon hst hp he hf)
  case digest => exact fun d h epoch dig nextEpoch nextDigest e ha => answers_message (fun _ => rfl) ha rfl
  case request =>
    intro d h epoch ids e recs ha hr
    refine answers_message (fun _ => rfl) ha ⟨fun hi => ?_, fun hi => ?_⟩
    · rw [Dev.recordsFor_manifest hr hi]
    · rw [Dev.recordsFor_records hr hi]
  case manifest =>
    intro d h entries e ha
    refine answers_message (fun _ => rfl) ha ⟨fun hp => ?_, fun p hp hu => ?_, fun p hi kept need f g hp hm hok hhi hk hn hf hg => ?_⟩
    · rw [Dev.manifestFrom_idle hp]
    · rw [Dev.manifestFrom_unwanted hp hu]
    · rw [Dev.manifestFrom_taken hp hm hok hhi hk hn hf hg]
  case record =>
    intro d h type id total offset data e r rest ha hr hrest
    refine answers_message (fun _ => rfl) ha ⟨fun hw => ?_, fun x hw hn => ?_, fun x bs f l hw hb hf hl => ?_⟩
    · rw [Dev.recordFrom_unwanted hw]
    · rw [Dev.recordFrom_partial hw hr hrest hn]
    · rw [Dev.recordFrom_whole hw hr hrest hb hf hl]
  case reassembly =>
    exact fun d type id hon => Answers.intro (f := recordReassemblyTimeout type id) (fun _ => rfl)
      ⟨fun p hp hr => recordReassemblyTimeout_asks hon hp hr, recordReassemblyTimeout_stays⟩
  case propose =>
    intro d h base dig proposer e ha
    refine answers_message (fun _ => rfl) ha ⟨fun hl => ?_, fun hl hs => ?_, fun hl hb hp hst => ?_⟩
    · rw [Dev.proposeFrom_elsewhere hl]
    · rw [Dev.proposeFrom_stale hl hs]
    · rw [Dev.proposeFrom_accepted hl hb hp hst, Dev.accept]
  case prepare =>
    intro d h epoch dig roster proposer e ha
    refine answers_message (fun _ => rfl) ha ⟨fun hl hlater => ?_, fun hi => ?_⟩
    · rw [Dev.prepareFrom_taken hl hlater]
    · rw [Dev.prepareFrom_ignored hi]
  case prepared =>
    intro d h epoch status bitmap e ha
    refine answers_message (fun _ => rfl) ha ⟨fun hp => ?_, fun p hp hi => ?_, fun p f hp he hrole hok hf => ?_,
      fun p hp he hl hno => ?_, fun p l hp he hc hl hno hlead => ?_, fun p hp he hc hl hno hlead => ?_⟩
    · rw [Dev.preparedFrom_idle hp]
    · rw [Dev.preparedFrom_ignored hp hi]
    · rw [Dev.preparedFrom_ok hp he hrole hok hf]
    · rw [Dev.preparedFrom_aborts hp he hno hl]
    · rw [Dev.preparedFrom_passes hp he hno hc hl hlead]
    · rw [Dev.preparedFrom_leaderless hp he hno hc hl hlead]
  case prepareTimeout =>
    intro d hon
    refine Answers.intro (f := fun d => (prepareTimeout d).settle) (fun _ => rfl)
      ⟨fun hp => ?_, fun p hp hc => ?_, fun p hp hc hl => ?_, fun p hp hc hl ha => ?_, fun p hp hc hl hok hr => ?_⟩
    · rw [prepareTimeout_idle hp]
    · rw [prepareTimeout_committed hp hc]
    · rw [prepareTimeout_leads hp hon hc hl]
    · rw [prepareTimeout_answered hp hon hc hl ha]
    · rw [prepareTimeout_reports hp hon hc hl hok hr]
  case commit =>
    intro d h epoch dig x e ha
    refine answers_message (fun _ => rfl) ha ⟨fun hp => ?_, fun p hp hi => ?_, fun p hp he hdig hh hc hx => ?_,
      fun p hp he hdig hh hc hx => ?_⟩
    · rw [Dev.commitFrom_idle hp]
    · rw [Dev.commitFrom_ignored hp hi]
    · rw [Dev.commitFrom_taken hp he hdig hh hc, if_pos hx]
    · rw [Dev.commitFrom_taken hp he hdig hh hc, if_neg (by omega)]
  case commitTime =>
    exact fun d p x hon hp hc hx => Answers.intro (f := commitTime) (fun _ => rfl) (commitTime_reached hon hp hc hx)
  case abort =>
    intro d h epoch status e ha
    refine answers_message (fun _ => rfl) ha ⟨fun hs => ?_, fun hs => ?_, fun p hq hf hp => ?_, fun hq hf hp => ?_⟩
    · rw [Dev.abortFrom_quarantined hs]
    · rw [Dev.abortFrom_attestFail hs]
    · rw [Dev.abortFrom_ends hq hf hp]
    · rw [Dev.abortFrom_idle hq hf hp]
  case join =>
    exact fun d hon => Answers.intro (f := joinTimeout) (fun _ => rfl) ⟨joinTimeout_late hon, joinTimeout_joined⟩

end Sys2Proof.Machine
end

section
/-! SUPPORT. The control of the host interface (R290–R304, R310, R317, R374): what each command comes
to in a case of its rule; the statement of 13_host_commands.md on it settled with these facts. -/

namespace Sys2Proof.Machine

open Sys2Proof

/-! HCI_CTRL (R293, R317). -/

section

variable {d e f : Dev} {who : Initiator} {w : Word} (hup : d.domUp 1 = true) (he : e = d.rsvd who Reg.hciCtrl w)
  (hf : f = if e.secure who then e.wr Fld.hciCtrl_fwReady (b2n (w.toNat.testBit 2))
    else if w.toNat.testBit 2 = e.is Fld.hciCtrl_fwReady then e else e.refuseWrite who Reg.hciCtrl)

include hup he hf

/-- FW_READY is judged first; then RESET comes before ENABLE. -/
theorem hciCtrlWrite_eq :
    hciCtrlWrite who w d =
      if w.toNat.testBit 1 then f.hciReset
      else if w.toNat.testBit 0 then (if f.is Fld.hciCtrl_enable then f else f.hciEnable)
      else if f.is Fld.hciCtrl_enable then f.hciReset
      else f := by
  rw [hf, he]
  exact if_neg (by simp [hup])

theorem hciCtrlWrite_resets (hr : w.toNat.testBit 1 = true) : hciCtrlWrite who w d = f.hciReset := by
  rw [hciCtrlWrite_eq hup he hf, if_pos hr]

theorem hciCtrlWrite_enables (hr : w.toNat.testBit 1 = false) (hen : w.toNat.testBit 0 = true) :
    hciCtrlWrite who w d = if f.is Fld.hciCtrl_enable then f else f.hciEnable := by
  rw [hciCtrlWrite_eq hup he hf, if_neg (by simp [hr]), if_pos hen]

theorem hciCtrlWrite_disables (hr : w.toNat.testBit 1 = false) (hen : w.toNat.testBit 0 = false) :
    hciCtrlWrite who w d = if f.is Fld.hciCtrl_enable then f.hciReset else f := by
  rw [hciCtrlWrite_eq hup he hf, if_neg (by simp [hr]), if_neg (by simp [hen])]

end

theorem Dev.dmaFault_stops {d e : Dev} {q : Nat} (he : e = ((d.wr Fld.hciQCfg_stopped 1 q).qerr 3 q).bump Fld.hciStat1_dmaErr)
    (hup : d.domUp 1 = true) (hen : d.qEn q = true) (hhost : d.qHost q = true) :
    d.dmaFault q = if q = 1 then (e.wr Fld.hciStatus_fatal 1).raise 0x6B else e.notice Code.internal q := by
  have hgo : ¬ (!d.domUp 1 || !d.qEn q || !d.qHost q) = true := by simp [hup, hen, hhost]
  rw [Dev.dmaFault, if_neg hgo, he]
  by_cases h1 : q = 1
  · rw [if_pos h1, Dev.dmaFail, if_pos h1]
    rw [h1, Dev.dmaStop, if_pos rfl]
  · rw [if_neg h1, Dev.dmaFail, if_neg h1, Dev.dmaStop, if_neg h1]

/-- Settles O34: writes of HCI_CTRL by the lemmas above; the other commands by the branches of their meaning. -/
theorem theHostInterfaceFollowsItsControl : Obligations.TheHostInterfaceFollowsItsControl := by
  unfold Obligations.TheHostInterfaceFollowsItsControl
  refine ⟨?enable, ?reset, ?fwReady, ?fwTimeout, ?doorbell, ?wakeDone, ?wakeTimeout, ?interim, ?msix, ?dma⟩
  case enable =>
    intro d who w e f hup he hf
    refine Answers.intro (f := fun d => (hciCtrlWrite who w d).pump) (fun _ => rfl)
      ⟨fun hr => ?_, fun hr hen => ?_, fun hr hen => ?_⟩
    · rw [hciCtrlWrite_resets hup he hf hr]
    · rw [hciCtrlWrite_enables hup he hf hr hen]
    · rw [hciCtrlWrite_disables hup he hf hr hen]
  case reset =>
    intro d who w e f hup he hf
    have hr : (w ||| 2#32).toNat.testBit 1 = true := by
      simp [Nat.testBit_or, show Nat.testBit 2 1 = true from rfl]
    exact Answers.intro (f := fun d => (hciCtrlWrite who (w ||| 2#32) d).pump) (fun _ => rfl)
      (congrArg Dev.pump (hciCtrlWrite_resets hup he hf hr))
  case fwReady =>
    intro d who w e f hup he hf
    refine Answers.intro (f := fun d => (hciCtrlWrite who (w ||| 4#32) d).pump) (fun _ => rfl)
      ⟨fun hr => ?_, fun hr hen => ?_, fun hr hen => ?_⟩
    · rw [hciCtrlWrite_resets hup he hf hr]
    · rw [hciCtrlWrite_enables hup he hf hr hen]
    · rw [hciCtrlWrite_disables hup he hf hr hen]
  case fwTimeout =>
    intro d id queue
    refine ⟨_, rfl, rfl, fun c hc hq hfw hop hs => ?_, fun c hc hno => ?_, fun hc => ?_⟩
    · simp only [hc]
      exact if_pos (by simp [hq, hfw, hop, hs])
    · simp only [hc]
      refine if_neg ?_
      rcases hno with h | h | h | h <;> simp [h]
    · simp only [hc]
  case doorbell =>
    intro d q w entries queue
    exact ⟨_, rfl, rfl, fun hq => if_neg (Nat.not_le.mpr hq), fun hq => if_pos hq⟩
  case wakeDone =>
    intro d id queue
    refine ⟨_, rfl, rfl,
      fun c hc hw hup => ?_, fun c hc hw hoff => ?_, fun c hc hw => ?_, fun hc => ?_⟩
    · simp only [hc, hw]
      exact if_neg (by simp [hup])
    · simp only [hc, hw]
      exact if_pos hoff
    · simp only [hc]
    · simp only [hc]
  case wakeTimeout =>
    intro d id queue
    refine ⟨_, rfl, rfl, fun c hc hw => ?_, fun c hc hw => ?_, fun hc => ?_⟩
    · simp only [hc]
      exact if_pos (by simpa [and_assoc] using hw)
    · simp only [hc]
      exact if_neg (by simpa [and_assoc] using hw)
    · simp only [hc]
  case interim =>
    intro d id queue
    refine ⟨_, rfl, rfl,
      fun c q hc hq hst hfw hi hm hen hfull hreach hbar => ?_, fun c q hc hq hno => ?_, fun hc => ?_⟩
    · subst hq
      simp only [hc]
      exact if_pos (by simp [hst, hfw, hi, hm, hen, hfull, hreach, hbar])
    · subst hq
      simp only [hc]
      refine if_neg ?_
      rcases hno with h | h | h | h | h | h | h | h <;> simp [h]
    · simp only [hc]
  case msix => exact fun d => Answers.intro (f := Dev.msixFlush) (fun _ => rfl) rfl
  case dma =>
    intro d q e he
    refine Answers.intro (f := fun d => d.dmaFault (q % 128)) (fun _ => rfl) ⟨fun hup hen hhost => ?_, fun hno => ?_⟩
    · rw [Dev.dmaFault_stops he hup hen hhost]
    · exact if_pos (by simpa [or_assoc] using hno)

end Sys2Proof.Machine
end

section
/-! SUPPORT. The clocked serial ports (R319–R333): what each request, abort, end and frame comes to in a case of its rule; the
statement of 14_clocked_serial_ports.md on them settled with these facts. -/

namespace Sys2Proof.Machine

open Sys2Proof

/-! The master port (R319–R325). -/

section

variable {d : Dev} {who : Initiator} (hup : d.domUp 28 = true)

include hup

theorem start_refused {w : Word} {rdy : Bool} (h : d.secure who = false ∨ d.is Fld.cspMStatus_busy = true) :
    start who w rdy d = d.refuseWrite who Reg.cspMCmd :=
  (if_neg (by simp [hup])).trans (if_pos (by simpa using h))

section

variable {e : Dev} {f w : Word} {rdy bad : Bool} (hwho : d.secure who = true) (hidle : d.is Fld.cspMStatus_busy = false)
  (he : e = d.plainWrite who Reg.cspMCmd w) (hf : f = e.reg (Reg.cspMFmt + 4 * wBits w 2 0))
  (hbad : bad = ((ddrPhase f (e.rd Fld.cspMLen_len) && decide (e.rd Fld.cspMClk_div < 4)) ||
    !cspmRangeOk (e.reg Reg.cspMMem).toNat (e.rd Fld.cspMLen_len) (w.toNat.testBit 4)))

include hwho hidle he hf hbad

/-- A START that is taken is judged by its format and its memory range (R321, R323). -/
theorem start_judged :
    start who w rdy d =
      if bad then (((e.wr Fld.cspMStatus_result 2).wr Fld.cspMStatus_bytes 0).wr Fld.cspMStatus_busy 0).raise 0x58
      else ((({ e with csp := { e.csp with run := some {
          frame := e.cspmFrame f w, send := w.toNat.testBit 4, mem := (e.reg Reg.cspMMem).toNat, len := e.rd Fld.cspMLen_len
          rdyEn := f.toNat.testBit 25, clkHeld := f.toNat.testBit 25 && !rdy } } } : Dev).wr
        Fld.cspMStatus_busy 1).wr Fld.cspMStatus_result 0).wr Fld.cspMStatus_bytes 0 := by
  have hgo : ¬ (!d.secure who || d.is Fld.cspMStatus_busy) = true := by simp [hwho, hidle]
  rw [start, if_neg (by simp [hup]), if_neg hgo]
  simp only [← he, ← hf]
  refine if_congr ?_ rfl rfl
  simp [hbad]

end

theorem cspmAbort_refused (hwho : d.secure who = false) : cspmAbort who d = d.refuseWrite who Reg.cspMCmd :=
  (if_neg (by simp [hup])).trans (if_pos (by simp [hwho]))

theorem cspmAbort_secure (hwho : d.secure who = true) :
    cspmAbort who d = match d.csp.run with
      | some r => { d with csp := { d.csp with run := some { r with stop := if r.stop = 0 then 4 else r.stop } } }
      | none => d :=
  (if_neg (by simp [hup])).trans (if_neg (by simp [hwho]))

end

section

variable {d : Dev} {data : List Byte} {n : Nat}

theorem cspmRequestDone_idle (hr : d.csp.run = none) : cspmRequestDone data n d = d := by
  simp only [cspmRequestDone, hr]

variable {r : CspmRun} {off : Bool} {count : Nat} (hr : d.csp.run = some r) (hoff : off = (r.len != 0 && !d.memUp r.mem r.len))
  (hcount : count = if r.send then min n r.len else min data.length r.len)

include hr hoff hcount

theorem cspmRequestDone_goesOn (h : r.clkHeld = true ∨ (r.stop = 0 ∧ off = false ∧ count ≠ r.len)) :
    cspmRequestDone data n d = d := by
  simp only [cspmRequestDone, hr, ← hoff, ← hcount]
  exact if_pos (by simpa [and_assoc] using h)

/-- A request that ends drives its frame, moves its octets and leaves its result and count (R324, R325). -/
theorem cspmRequestDone_ends {held : Bool} {g e f h : Dev} (hclk : r.clkHeld = false)
    (hend : r.stop ≠ 0 ∨ off = true ∨ count = r.len) (hheld : held = (d.pins.held.getD 2 none).isSome)
    (hg : g = { d with csp := { d.csp with run := none } })
    (he : e = if held then g else
      g.emit (.cspm { r.frame with data := { r.frame.data with octets := if r.send then g.bytes r.mem count else [] } }))
    (hf : f = if r.send then e
      else if held then (e.free (8 * count)).2.setBytes r.mem (natLe count (e.free (8 * count)).1)
      else e.setBytes r.mem (data.take count))
    (hh : h = if off then f.bump Fld.cspMStat_memFaults else f) :
    cspmRequestDone data n d =
      (((h.wr Fld.cspMStatus_busy 0).wr Fld.cspMStatus_result (if off then 3 else r.stop)).wr
        Fld.cspMStatus_bytes count).raise 0x58 := by
  have hgo : ¬ (r.clkHeld || (decide (r.stop = 0) && !off && count != r.len)) = true := by
    simp only [hclk, Bool.false_or, Bool.and_eq_true, decide_eq_true_eq, Bool.not_eq_true', bne_iff_ne, ne_eq, not_and,
      not_not, and_imp]
    rintro h0 hon
    rcases hend with hs | ho | hc
    · exact absurd h0 hs
    · simp [ho] at hon
    · exact hc
  simp only [cspmRequestDone, hr, ← hoff, ← hcount, if_neg hgo]
  rw [hh, hf, he, hg, hheld]

end

section

variable {d : Dev}

theorem cspmRdyTimeout_boot {slot : Nat} (h : d.boot.phase = .header slot ∨ d.boot.phase = .image slot) :
    cspmRdyTimeout d = d.slotFail slot 0x26 := by
  rcases h with h | h <;> simp only [cspmRdyTimeout, h]

theorem cspmRdyTimeout_running (h : ∀ slot, d.boot.phase ≠ .header slot ∧ d.boot.phase ≠ .image slot) :
    cspmRdyTimeout d = d.cspmTimeout := by
  unfold cspmRdyTimeout
  split
  · next slot hs => exact absurd hs (h slot).1
  · next slot hs => exact absurd hs (h slot).2
  · rfl

theorem Dev.cspmTimeout_stops {r : CspmRun} (hr : d.csp.run = some r) (hen : r.rdyEn = true) (hs : r.stop = 0) :
    d.cspmTimeout =
      ({ d with csp := { d.csp with run := some { r with stop := 1, clkHeld := false } } } : Dev).bump
        Fld.cspMStat_rdyTimeouts := by
  simp [Dev.cspmTimeout, hr, hen, hs]

theorem Dev.cspmTimeout_stays (h : ∀ r, d.csp.run = some r → r.rdyEn = false ∨ r.stop ≠ 0) : d.cspmTimeout = d := by
  unfold Dev.cspmTimeout
  split
  · next r hr => exact if_neg (by rcases h r hr with h | h <;> simp [h])
  · rfl

end

/-! The slave port (R326–R333). -/

/-- A frame whose READ command, range and lines were good up to the end of its header (R332). -/
def cspsReadsWords (f : CspsFrame) : Bool :=
  cspsCmdOk f.cmd && f.cmd % 16 = 2 && decide (cspsHeadEdges f.cmd ≤ f.edges) && cspsRangeOk (beAt f.body 0 4) (beAt f.body 4 2) &&
    !(f.viol.any fun k => k ≤ cspsHeadEdges f.cmd)

section

variable {d : Dev} {f : CspsFrame}

theorem Dev.cspsFrame_unseen (h : f.edges = 0 ∨ d.cspsReady = false) : d.cspsFrame f = d := if_pos (by simpa using h)

section

variable {r : Dev × List Byte} (hr : r = d.cspsCommit.cspsReads (beAt f.body 0 4) f.fails (beAt f.body 4 2 / 4))
  (hedges : f.edges ≠ 0) (hready : d.cspsReady = true)

include hedges hready

/-- The port judges a frame that has edges while it is ready. -/
theorem Dev.cspsFrame_seen : ¬ (decide (f.edges = 0) || !d.cspsReady) = true := by simp [hedges, hready]

include hr

theorem Dev.cspsFrame_discarded {c : Nat} (hc : cspsCause f = some c) :
    d.cspsFrame f =
      if cspsReadsWords f then r.1.cspsDiscard f c d.cspsStatus (cspsDriven f (cspsHeadEdges f.cmd) r.2)
      else d.cspsDiscard f c d.cspsStatus (if cspsCmdOk f.cmd && f.cmd % 16 = 5 then cspsDriven f 8 d.fastWindow else []) := by
  have hreads : cspsReadsWords f = (cspsCmdOk f.cmd && f.cmd % 16 = 2 && decide (cspsHeadEdges f.cmd ≤ f.edges) &&
      cspsRangeOk (beAt f.body 0 4) (beAt f.body 4 2) &&
      !(match f.viol with | some k => decide (k ≤ cspsHeadEdges f.cmd) | none => false)) := by
    unfold cspsReadsWords
    cases f.viol <;> rfl
  rw [Dev.cspsFrame, if_neg (Dev.cspsFrame_seen hedges hready), hr, hreads]
  simp only [hc] <;> rfl

end

section

variable (hedges : f.edges ≠ 0) (hready : d.cspsReady = true) (hgood : cspsCause f = none)

include hedges hready hgood

theorem Dev.cspsFrame_write {e : Dev} (hfn : f.cmd % 16 = 1) (he : e = d.cspsCommit) :
    d.cspsFrame f =
      ({ e with csp := { e.csp with
        commit := some (beAt f.body 0 4, (List.range (beAt f.body 4 2 / 4)).map fun i => leAt f.body (6 + 4 * i) 4)
        commitFails := f.fails } } : Dev).cspsGood f d.cspsStatus [] := by
  rw [Dev.cspsFrame, if_neg (Dev.cspsFrame_seen hedges hready), he]
  simp only [hgood, hfn]

theorem Dev.cspsFrame_read {r : Dev × List Byte}
    (hr : r = d.cspsCommit.cspsReads (beAt f.body 0 4) f.fails (beAt f.body 4 2 / 4)) (hfn : f.cmd % 16 = 2) :
    d.cspsFrame f = r.1.cspsGood f d.cspsStatus r.2 := by
  rw [Dev.cspsFrame, if_neg (Dev.cspsFrame_seen hedges hready), hr]
  simp only [hgood, hfn]

theorem Dev.cspsFrame_status (h1 : f.cmd % 16 ≠ 1) (h2 : f.cmd % 16 ≠ 2) :
    d.cspsFrame f = d.cspsGood f d.cspsStatus (d.fastWindow.take ((f.edges - 8) * cspsLanes f.cmd / 8)) := by
  rw [Dev.cspsFrame, if_neg (Dev.cspsFrame_seen hedges hready)]
  simp only [hgood]

end

/-- A frame command of any function answers what the port makes of its frame. -/
theorem answers_cspsFrame {i : Instr} (hi : ∀ s, exec i s = s.run fun d => (d.cspsFrame f).pump) {reads : Bool}
    {r : Dev × List Byte} (hreads : reads = cspsReadsWords f)
    (hr : r = d.cspsCommit.cspsReads (beAt f.body 0 4) f.fails (beAt f.body 4 2 / 4)) :
    Answers i d fun t =>
      ((f.edges = 0 ∨ d.cspsReady = false) → t = d.pump) ∧
      (∀ c, f.edges ≠ 0 → d.cspsReady = true → cspsCause f = some c → reads = true →
        t = (r.1.cspsDiscard f c d.cspsStatus (cspsDriven f (cspsHeadEdges f.cmd) r.2)).pump) ∧
      (∀ c, f.edges ≠ 0 → d.cspsReady = true → cspsCause f = some c → reads = false →
        t = (d.cspsDiscard f c d.cspsStatus
          (if cspsCmdOk f.cmd && f.cmd % 16 = 5 then cspsDriven f 8 d.fastWindow else [])).pump) ∧
      (∀ e : Dev, f.edges ≠ 0 → d.cspsReady = true → cspsCause f = none → f.cmd % 16 = 1 → e = d.cspsCommit →
        t = (({ e with csp := { e.csp with
          commit := some (beAt f.body 0 4, (List.range (beAt f.body 4 2 / 4)).map fun i => leAt f.body (6 + 4 * i) 4)
          commitFails := f.fails } } : Dev).cspsGood f d.cspsStatus []).pump) ∧
      (f.edges ≠ 0 → d.cspsReady = true → cspsCause f = none → f.cmd % 16 = 2 →
        t = (r.1.cspsGood f d.cspsStatus r.2).pump) ∧
      (f.edges ≠ 0 → d.cspsReady = true → cspsCause f = none → f.cmd % 16 ≠ 1 → f.cmd % 16 ≠ 2 →
        t = (d.cspsGood f d.cspsStatus ((natLe 4 (d.reg Reg.sysBootStatus).toNat ++
          natLe 4 (d.reg Reg.cspSErr).toNat).take ((f.edges - 8) * cspsLanes f.cmd / 8))).pump) := by
  refine Answers.intro hi ⟨fun h => ?_, fun c h0 hd hc hx => ?_, fun c h0 hd hc hx => ?_, fun e h0 hd hc hfn he => ?_,
    fun h0 hd hc hfn => ?_, fun h0 hd hc h1 h2 => ?_⟩
  · rw [Dev.cspsFrame_unseen h]
  · rw [Dev.cspsFrame_discarded hr h0 hd hc, if_pos (hreads ▸ hx)]
  · rw [Dev.cspsFrame_discarded hr h0 hd hc, if_neg (by simp [← hreads, hx])]
  · rw [Dev.cspsFrame_write h0 hd hc hfn he]
  · rw [Dev.cspsFrame_read h0 hd hc hr hfn]
  · rw [Dev.cspsFrame_status h0 hd hc h1 h2, Dev.fastWindow]

theorem Dev.cspsCommit_pending {a : Nat} {ws : List Nat} (hc : d.csp.commit = some (a, ws)) :
    d.cspsCommit = ({ d with csp := { d.csp with commit := none } } : Dev).cspsWrites a d.csp.commitFails ws := by
  simp only [Dev.cspsCommit, hc]

theorem Dev.cspsCommit_none (hc : d.csp.commit = none) : d.cspsCommit = d := by
  simp only [Dev.cspsCommit, hc]

end

/-- Settles O38: the requests of the master port and the frames of the slave port, by their lemmas above. -/
theorem serialPortsFollowTheirRules : Obligations.SerialPortsFollowTheirRules := by
  unfold Obligations.SerialPortsFollowTheirRules
  refine ⟨?start, ?abort, ?done, ?rise, ?timeout, ?write, ?read, ?fstat, ?commit⟩
  case start =>
    intro d who w rdy e f bad hup he hf hbad
    refine Answers.intro (f := start who w rdy) (fun _ => rfl)
      ⟨start_refused hup, fun hwho hidle hb => ?_, fun hwho hidle hb => ?_⟩
    · rw [start_judged hup hwho hidle he hf hbad, if_pos hb]
    · rw [start_judged hup hwho hidle he hf hbad, if_neg (by simp [hb])]
  case abort =>
    intro d who hup
    refine Answers.intro (f := cspmAbort who) (fun _ => rfl) ⟨cspmAbort_refused hup, fun r hwho hr => ?_, fun hwho hr => ?_⟩
    · rw [cspmAbort_secure hup hwho, hr]
    · rw [cspmAbort_secure hup hwho, hr]
  case done =>
    exact fun d data n => Answers.intro (f := cspmRequestDone data n) (fun _ => rfl)
      ⟨cspmRequestDone_idle, fun r off count hr hoff hc => cspmRequestDone_goesOn hr hoff hc,
        fun r off count held g e f h hr hoff hc hclk hend hheld hg he hf hh =>
          cspmRequestDone_ends hr hoff hc hclk hend hheld hg he hf hh⟩
  case rise =>
    refine fun d => Answers.intro (f := cspmRdyRise) (fun _ => rfl) ⟨fun r hr => ?_, fun hr => ?_⟩
    · simp only [cspmRdyRise, hr]
    · simp only [cspmRdyRise, hr]
  case timeout =>
    refine fun d => Answers.intro (f := cspmRdyTimeout) (fun _ => rfl)
      ⟨fun slot => cspmRdyTimeout_boot, fun r hb hr hen hs => ?_, fun hb hno => ?_⟩
    · rw [cspmRdyTimeout_running hb, Dev.cspmTimeout_stops hr hen hs]
    · rw [cspmRdyTimeout_running hb, Dev.cspmTimeout_stays hno]
  case write => exact fun d f reads r hreads hr => answers_cspsFrame (fun _ => rfl) hreads hr
  case read => exact fun d f reads r hreads hr => answers_cspsFrame (fun _ => rfl) hreads hr
  case fstat => exact fun d f reads r hreads hr => answers_cspsFrame (fun _ => rfl) hreads hr
  case commit =>
    refine fun d => Answers.intro (f := fun d => d.cspsCommit.pump) (fun _ => rfl) ⟨fun a ws hc => ?_, fun hc => ?_⟩
    · rw [Dev.cspsCommit_pending hc]
    · rw [Dev.cspsCommit_none hc]

end Sys2Proof.Machine
end

section
/-! SUPPORT. The registers of a core after a write, its accumulations and extracts (R344–R346), traps and returns (R353–R355), and
the queue's front command: the statements of 15_doldon_cores.md on instructions and the one of 01_architecture.md on steps settled
with these facts. -/

namespace Sys2Proof.Machine

open Sys2Proof

/-! What a register reads after a write. -/

theorem putAt_getD_same {α : Type} {i : Nat} {a e : α} {l : List α} (h : i < l.length) : (putAt i a l).getD i e = a := by
  rw [putAt_getD, if_pos ⟨rfl, h⟩]

theorem putAt_getD_ne {α : Type} {i j : Nat} {a e : α} {l : List α} (h : j ≠ i) : (putAt i a l).getD j e = l.getD j e := by
  rw [putAt_getD, if_neg fun hij => h hij.1.symm]

section

variable (c k : Core) (i j : Nat)

theorem Core.dr_setD_same (w : Word) (h : i < k.d.length) : (k.setD i w).dr i = w := putAt_getD_same h

theorem Core.dr_setD_ne (w : Word) (h : j ≠ i) : (k.setD i w).dr j = k.dr j := putAt_getD_ne h

theorem Core.ac_setAc_same (a : BitVec 72) (h : i < k.acc.length) : (k.setAc i a).ac i = a := putAt_getD_same h

theorem Core.ac_setAc_ne (a : BitVec 72) (h : j ≠ i) : (k.setAc i a).ac j = k.ac j := putAt_getD_ne h

theorem Core.stick_eq (b : Bool) : k.stick i b = { k with status := if b then k.status ||| BitVec.ofNat 32 (2 ^ i) else k.status } := by
  cases b <;> rfl

@[simp] theorem Core.stick_dr (b : Bool) : (k.stick i b).dr j = k.dr j := by rw [Core.stick_eq]; rfl
@[simp] theorem Core.stick_ac (b : Bool) : (k.stick i b).ac j = k.ac j := by rw [Core.stick_eq]; rfl
@[simp] theorem Core.stick_status (b : Bool) :
    (k.stick i b).status = if b then k.status ||| BitVec.ofNat 32 (2 ^ i) else k.status := by rw [Core.stick_eq]

/-! Accumulations (R344). -/

section

variable (sub clr : Bool) (p : Int)

theorem Core.addAc_eq :
    c.addAc k i sub clr p = { k with acc := (c.addAc k i sub clr p).acc, status := (c.addAc k i sub clr p).status } := by
  simp only [Core.addAc, Core.stick_eq, Core.setAc]

@[simp] theorem Core.addAc_d : (c.addAc k i sub clr p).d = k.d := by rw [Core.addAc_eq]
@[simp] theorem Core.addAc_px : (c.addAc k i sub clr p).px = k.px := by rw [Core.addAc_eq]
@[simp] theorem Core.addAc_py : (c.addAc k i sub clr p).py = k.py := by rw [Core.addAc_eq]
@[simp] theorem Core.addAc_ptr : (c.addAc k i sub clr p).ptr j = k.ptr j := by rw [Core.addAc_eq]; rfl

@[simp] theorem Core.addAc_acc_length : (c.addAc k i sub clr p).acc.length = k.acc.length := by
  simp [Core.addAc, Core.stick_eq, Core.setAc]

theorem Core.addAc_ac_ne (h : j ≠ i) : (c.addAc k i sub clr p).ac j = k.ac j := by
  simp only [Core.addAc, Core.stick_ac, Core.ac_setAc_ne _ _ _ _ h]

variable {sub clr p} {e : Int} (he : e = (if clr then 0 else (c.ac i).toInt) + (if sub then -p else p))

include he

theorem Core.addAc_ac_same (h : i < k.acc.length) : (c.addAc k i sub clr p).ac i = BitVec.ofInt 72 e := by
  simp only [Core.addAc, Core.stick_ac, Core.ac_setAc_same _ _ _ h, accumulate, he]

/-- The sticky bit of an accumulator is set where the exact sum does not fit. -/
theorem Core.addAc_status :
    (c.addAc k i sub clr p).status =
      if e < -2 ^ 71 ∨ 2 ^ 71 - 1 < e then k.status ||| BitVec.ofNat 32 (2 ^ (8 + i)) else k.status := by
  simp only [Core.addAc, Core.stick_status, accumulate, he, Bool.or_eq_true, decide_eq_true_eq]
  rfl

end

/-! Post-modification (R338). -/

section

variable (p m : Nat)

theorem Core.setPtr_eq (v : Nat) : k.setPtr p v = { k with px := (k.setPtr p v).px, py := (k.setPtr p v).py } := by
  unfold Core.setPtr
  split <;> rfl

theorem Core.postMod_eq : c.postMod k p m = { k with px := (c.postMod k p m).px, py := (c.postMod k p m).py } := by
  unfold Core.postMod
  split
  · rfl
  · exact Core.setPtr_eq k p _

@[simp] theorem Core.postMod_d : (c.postMod k p m).d = k.d := by rw [Core.postMod_eq]
@[simp] theorem Core.postMod_status : (c.postMod k p m).status = k.status := by rw [Core.postMod_eq]
@[simp] theorem Core.postMod_ac : (c.postMod k p m).ac j = k.ac j := by rw [Core.postMod_eq]; rfl

@[simp] theorem Core.postMod_px_length : (c.postMod k p m).px.length = k.px.length := by
  simp only [Core.postMod, Core.setPtr]
  split_ifs <;> simp

@[simp] theorem Core.postMod_py_length : (c.postMod k p m).py.length = k.py.length := by
  simp only [Core.postMod, Core.setPtr]
  split_ifs <;> simp

theorem Core.ptr_setPtr_same (v : Nat) (hx : k.px.length = 4) (hy : k.py.length = 4) (hp : p < 8) :
    (k.setPtr p v).ptr p = v % 2 ^ 17 := by
  by_cases h : p < 4
  · simp only [Core.ptr, Core.setPtr, if_pos h]
    exact putAt_getD_same (by omega)
  · simp only [Core.ptr, Core.setPtr, if_neg h]
    exact putAt_getD_same (by omega)

theorem Core.ptr_setPtr_ne (v : Nat) (hne : j ≠ p) : (k.setPtr p v).ptr j = k.ptr j := by
  by_cases h : p < 4
  · simp only [Core.ptr, Core.setPtr, if_pos h, putAt_getD_ne hne]
  · simp only [Core.ptr, Core.setPtr, if_neg h]
    split
    · rfl
    · exact putAt_getD_ne (by omega)

theorem Core.postMod_none : c.postMod k p 0 = k := rfl

theorem Core.postMod_ptr_same (hx : k.px.length = 4) (hy : k.py.length = 4) (hp : p < 8) (hm : m ≠ 0) :
    (c.postMod k p m).ptr p = (c.ptr p + modStep m) % 2 ^ 17 := by
  rw [Core.postMod, if_neg hm, Core.ptr_setPtr_same _ _ _ hx hy hp]

theorem Core.postMod_ptr_ne (hne : j ≠ p) : (c.postMod k p m).ptr j = k.ptr j := by
  unfold Core.postMod
  split
  · rfl
  · exact Core.ptr_setPtr_ne k j p _ hne

end

end

/-! AMOV (R346). -/

theorem clampInt_eq {i lo hi : Int} (h : lo ≤ hi) : clampInt i lo hi = max lo (min i hi) := by
  unfold clampInt
  split_ifs <;> omega

theorem clampInt_ne_iff {i lo hi : Int} : clampInt i lo hi ≠ i ↔ i < lo ∨ hi < i := by
  unfold clampInt
  split_ifs <;> omega

theorem amovOf_value {a : BitVec 72} {sh : Nat} {v : Int} (hv : v = if sh = 0 then a.toInt else (a.toInt + 2 ^ (sh - 1)) / 2 ^ sh) :
    (amovOf a sh).1 = BitVec.ofInt 32 (max (-2 ^ 31) (min v (2 ^ 31 - 1))) := by
  rw [hv, amovOf, clampInt_eq (by decide)]

theorem amovOf_clamped {a : BitVec 72} {sh : Nat} {v : Int}
    (hv : v = if sh = 0 then a.toInt else (a.toInt + 2 ^ (sh - 1)) / 2 ^ sh) :
    (amovOf a sh).2 = true ↔ v < -2 ^ 31 ∨ 2 ^ 31 - 1 < v := by
  rw [hv, amovOf, bne_iff_ne, clampInt_ne_iff]

/-- The writes of a syllable that its predicate lets act are those of its operation. -/
theorem Core.commit_amov {n : Nat} {c k : Core} {u : Issue} {s : Syllable} {i dd sh : Nat} (hs : s.op = .amov i dd sh)
    (hq : c.pq s.pr ≠ s.pn) :
    Core.commit n c u s k = (k.setD dd (amovOf (c.ac i) sh).1).stick 6 (amovOf (c.ac i) sh).2 := by
  rw [Core.commit, if_neg (by simpa using hq)]
  simp only [hs]

theorem decodeM_amov {w : Nat} (h : sylOp w = 0x18) :
    decodeM w = onlyIf (decide (bitsOf w 10 5 ≤ 40) && bitsOf w 4 0 = 0)
      (.amov (bitsOf w 17 16) (bitsOf w 15 11) (bitsOf w 10 5)) := by
  simp only [decodeM, h]

/-- Settles O41: the extract, the register rules and the decoder by the lemmas above. -/
theorem amovExtractsAsItsRuleGives : Obligations.AmovExtractsAsItsRuleGives := by
  unfold Obligations.AmovExtractsAsItsRuleGives
  refine ⟨?acts, ?reserved, ?decodes⟩
  case acts =>
    intro n c k u s i dd sh v hs hq hdd hv
    rw [Core.commit_amov hs hq]
    refine ⟨?_, ?_, fun j hj => ?_, ?_⟩
    · rw [Core.stick_dr, Core.dr_setD_same _ _ _ hdd, amovOf_value hv]
    · rw [Core.stick_status]
      exact if_congr (amovOf_clamped hv) rfl rfl
    · rw [Core.stick_dr, Core.dr_setD_ne _ _ _ _ hj]
    · rw [Core.stick_eq]
      rfl
  case reserved =>
    intro w hop hsh
    rw [decodeM_amov hop]
    exact if_neg (by simp [Nat.not_le.mpr (show 40 < bitsOf w 10 5 by omega)])
  case decodes =>
    intro w hop hsh hlow
    rw [decodeM_amov hop]
    exact if_pos (by simp [hsh, hlow])

/-! MAC and FMAC (R344, R345). -/

theorem Core.commit_mac {n : Nat} {c k : Core} {u : Issue} {s : Syllable} {h2 sub clr : Bool} {i a b : Nat}
    (hs : s.op = .mac h2 i sub clr a b) (hq : c.pq s.pr ≠ s.pn) :
    Core.commit n c u s k =
      c.addAc k i sub clr ((if h2 then FmacKind.h2 else FmacKind.w).products (c.dr a) (c.dr b)).1 := by
  rw [Core.commit, if_neg (by simpa using hq)]
  simp only [hs]

/-- The accumulations of an FMAC: `p` into a[i], and in HC `q` into a[i + 1]; `Core.commit_fmac` ties it to the commit. -/
def Core.addAcs (c k : Core) (kind : FmacKind) (i : Nat) (sub clr : Bool) (p q : Int) : Core :=
  if kind = .hc then c.addAc (c.addAc k i sub clr p) (i + 1) sub clr q else c.addAc k i sub clr p

section

variable {c k : Core} {kind : FmacKind} {i j : Nat} {sub clr : Bool} {p q : Int}

@[simp] theorem Core.addAcs_d : (c.addAcs k kind i sub clr p q).d = k.d := by unfold Core.addAcs; split <;> simp
@[simp] theorem Core.addAcs_px : (c.addAcs k kind i sub clr p q).px = k.px := by unfold Core.addAcs; split <;> simp
@[simp] theorem Core.addAcs_py : (c.addAcs k kind i sub clr p q).py = k.py := by unfold Core.addAcs; split <;> simp
@[simp] theorem Core.addAcs_ptr : (c.addAcs k kind i sub clr p q).ptr j = k.ptr j := by unfold Core.addAcs; split <;> simp

theorem Core.addAcs_ac_ne (hj : j ≠ i) (hn : j ≠ i + 1) : (c.addAcs k kind i sub clr p q).ac j = k.ac j := by
  unfold Core.addAcs
  split
  · rw [Core.addAc_ac_ne _ _ _ _ _ _ _ hn, Core.addAc_ac_ne _ _ _ _ _ _ _ hj]
  · rw [Core.addAc_ac_ne _ _ _ _ _ _ _ hj]

theorem Core.addAcs_ac_first {e : Int} (he : e = (if clr then 0 else (c.ac i).toInt) + (if sub then -p else p))
    (hi : i < k.acc.length) : (c.addAcs k kind i sub clr p q).ac i = BitVec.ofInt 72 e := by
  unfold Core.addAcs
  split
  · rw [Core.addAc_ac_ne _ _ _ _ _ _ _ (by omega), Core.addAc_ac_same _ _ _ he hi]
  · rw [Core.addAc_ac_same _ _ _ he hi]

theorem Core.addAcs_ac_second {f : Int} (hf : f = (if clr then 0 else (c.ac (i + 1)).toInt) + (if sub then -q else q))
    (hi : kind = .hc → i + 1 < k.acc.length) :
    (c.addAcs k kind i sub clr p q).ac (i + 1) = if kind = .hc then BitVec.ofInt 72 f else k.ac (i + 1) := by
  unfold Core.addAcs
  split
  · next hc => rw [Core.addAc_ac_same _ _ _ hf (by simpa using hi hc)]
  · rw [Core.addAc_ac_ne _ _ _ _ _ _ _ (by omega)]

theorem Core.addAcs_status {e f : Int} (he : e = (if clr then 0 else (c.ac i).toInt) + (if sub then -p else p))
    (hf : f = (if clr then 0 else (c.ac (i + 1)).toInt) + (if sub then -q else q)) :
    (c.addAcs k kind i sub clr p q).status =
      (let st := if e < -2 ^ 71 ∨ 2 ^ 71 - 1 < e then k.status ||| BitVec.ofNat 32 (2 ^ (8 + i)) else k.status
       if kind = .hc ∧ (f < -2 ^ 71 ∨ 2 ^ 71 - 1 < f) then st ||| BitVec.ofNat 32 (2 ^ (8 + (i + 1))) else st) := by
  unfold Core.addAcs
  split
  · next hc => simp only [Core.addAc_status _ _ _ hf, Core.addAc_status _ _ _ he, hc, true_and]
  · next hc => simp only [Core.addAc_status _ _ _ he, hc, false_and, if_false]

end

theorem Core.commit_fmac {n : Nat} {c k : Core} {u : Issue} {s : Syllable} {kind : FmacKind} {i px py xm ym : Nat}
    {sub clr : Bool} {p q : Int} (hs : s.op = .fmac kind i px py xm ym sub clr) (hq : c.pq s.pr ≠ s.pn)
    (hp : (kind.products u.x u.y).1 = p) (hp2 : kind = .hc → (kind.products u.x u.y).2 = q) :
    Core.commit n c u s k = c.postMod (c.postMod (c.addAcs k kind i sub clr p q) px xm) (4 + py) ym := by
  rw [Core.commit, if_neg (by simpa using hq)]
  simp only [hs, Core.addAcs, hp]
  by_cases hc : kind = .hc
  · simp only [if_pos hc, hp2 hc]
  · simp only [if_neg hc]

/-- The fetches of an FMAC whose words are good: ALIGN_FAULT at X before Y, else both words. -/
theorem Issue.syllable_fmac {n len ax ay : Nat} {it : Bool} {c : Core} {r : BundleRun} {u : Issue} {s : Syllable}
    {kind : FmacKind} {i px py xm ym : Nat} {sub clr : Bool} (hs : s.op = .fmac kind i px py xm ym sub clr)
    (hq : c.pq s.pr ≠ s.pn) (htrap : u.trap = none) (hstall : u.stall = none) (hx : r.xFails = 0) (hy : r.yFails = 0)
    (hax : ax = coreBase n + 0x20000 + c.ptr px) (hay : ay = coreBase n + 0x40000 + c.ptr (4 + py)) :
    u.syllable n c r len it s =
      if ax % 4 ≠ 0 then { u with trap := some (s.trap len it 6 ax) }
      else if ay % 4 ≠ 0 then { u with trap := some (s.trap len it 6 ay) }
      else { u with x := BitVec.ofNat 32 (u.dev.le ax 4), y := BitVec.ofNat 32 (u.dev.le ay 4) } := by
  have hgo : ¬ (u.trap.isSome || u.stall.isSome || (c.pq s.pr == s.pn)) = true := by simp [htrap, hstall, hq]
  rw [Issue.syllable, if_neg hgo]
  simp only [hs, Issue.fmac, Dev.fetch, hx, hy, ← hax, ← hay, if_true, reduceCtorEq, if_false]

/-- Settles O43: the accumulations and the pointers by the register rules, the fetches by their lemma. -/
theorem multiplyAccumulateFollowsItsRules : Obligations.MultiplyAccumulateFollowsItsRules := by
  unfold Obligations.MultiplyAccumulateFollowsItsRules
  refine ⟨?mac, ?fmac, ?fetch⟩
  case mac =>
    intro n c k u s h2 sub clr i a b p e hs hq hi hp he
    have hprod : ((if h2 then FmacKind.h2 else FmacKind.w).products (c.dr a) (c.dr b)).1 = p := by
      rw [hp]
      cases h2 <;> rfl
    rw [Core.commit_mac hs hq, hprod]
    exact ⟨Core.addAc_ac_same c k i he hi, fun j hj => Core.addAc_ac_ne c k i j sub clr p hj, Core.addAc_status c k i he,
      Core.addAc_eq c k i sub clr p⟩
  case fmac =>
    intro n c k u s kind i px py xm ym sub clr p q e f hs hq hpx hpy hlx hly hi hi1 hp hqq he hf
    have hprod : (kind.products u.x u.y).1 = p := by
      rw [hp]
      cases kind <;> rfl
    have hprod2 : kind = .hc → (kind.products u.x u.y).2 = q := by
      rintro rfl
      exact hqq.symm
    rw [Core.commit_fmac hs hq hprod hprod2]
    refine ⟨?_, ?_, fun j hj hn => ?_, fun hm => ?_, fun hm => ?_, fun hm => ?_, fun hm => ?_, ?_, ?_⟩
    · simp only [Core.postMod_ac, Core.addAcs_ac_first he hi]
    · simp only [Core.postMod_ac, Core.addAcs_ac_second hf hi1]
    · simp only [Core.postMod_ac, Core.addAcs_ac_ne hj hn]
    · rw [Core.postMod_ptr_ne _ _ _ _ _ (by omega), Core.postMod_ptr_same _ _ _ _ (by simpa) (by simpa) (by omega) hm]
    · rw [Core.postMod_ptr_ne _ _ _ _ _ (by omega), hm, Core.postMod_none, Core.addAcs_ptr]
    · rw [Core.postMod_ptr_same _ _ _ _ (by simpa) (by simpa) (by omega) hm]
    · rw [hm, Core.postMod_none, Core.postMod_ptr_ne _ _ _ _ _ (by omega), Core.addAcs_ptr]
    · simp only [Core.postMod_d, Core.addAcs_d]
    · simp only [Core.postMod_status, Core.addAcs_status he hf]
  case fetch =>
    exact fun n len ax ay it c r u s kind i px py xm ym sub clr hs hq htrap hstall hx hy hax hay =>
      Issue.syllable_fmac hs hq htrap hstall hx hy hax hay

/-! RETT (R354). -/

theorem Core.commit_rett {n : Nat} {c k : Core} {u : Issue} {s : Syllable} (hs : s.op = .rett) (hq : c.pq s.pr ≠ s.pn) :
    Core.commit n c u s k = { k with status := c.sysRead n 1 } := by
  rw [Core.commit, if_neg (by simpa using hq)]
  simp only [hs]
  rfl

theorem Core.branch_rett {c : Core} {s : Syllable} (hs : s.op = .rett) (hq : c.pq s.pr ≠ s.pn) :
    c.branch s = some (c.trapPc, false) := by
  rw [Core.branch, if_neg (by simpa using hq)]
  simp only [hs]

/-- TRAPSTATUS of an application core always reads NS = 1. -/
theorem Core.trapStatus_ns {n : Nat} (c : Core) (h : 4 ≤ n) : (c.sysRead n 1).toNat.testBit 2 = true := by
  simp [Core.sysRead, Nat.not_lt.mpr h, BitVec.testBit_toNat, show Nat.testBit 4 2 = true from rfl]

theorem CoreOp.rett_privFault {n : Nat} {c : Core} :
    CoreOp.rett.privFault c n = true ↔ c.priv = false ∨ (c.ns = true ∧ (c.sysRead n 1).toNat.testBit 2 = false) := by
  by_cases hn : n < 4
  · simp [CoreOp.privFault, Core.sysRead, hn]
  · simp [CoreOp.privFault, hn, c.trapStatus_ns (Nat.not_lt.mp hn)]

theorem Core.sysWrite_status_intrap (c : Core) {w : Word} (h : w.toNat.testBit 4 = false) :
    (c.sysWrite 0 w).intrap = false := by
  simp only [Core.sysWrite, Core.intrap, BitVec.toNat_or, BitVec.toNat_and, Nat.testBit_or, Nat.testBit_and, h]
  simp [Nat.testBit]

/-- Settles O42. -/
theorem rettReturnsAsItsRuleGives : Obligations.RettReturnsAsItsRuleGives :=
  ⟨fun _ _ _ _ _ hs hq => ⟨Core.commit_rett hs hq, Core.branch_rett hs hq⟩, fun _ _ _ => CoreOp.rett_privFault,
    fun c _ h => c.sysWrite_status_intrap h⟩

/-! Traps (R353, R355). -/

section

variable (c : Core) (x : CoreTrap) (secure : Bool)

theorem Core.trapEntry_ie : (c.trapEntry x secure).ie = false := by
  cases secure <;> simp [Core.trapEntry, Core.ie, BitVec.testBit_toNat]

theorem Core.trapEntry_priv : (c.trapEntry x secure).priv = true := by
  simp [Core.trapEntry, Core.priv, BitVec.testBit_toNat, show Nat.testBit 18 1 = true from rfl]

theorem Core.trapEntry_intrap : (c.trapEntry x secure).intrap = true := by
  simp [Core.trapEntry, Core.intrap, BitVec.testBit_toNat, show Nat.testBit 18 4 = true from rfl]

theorem Core.trapEntry_ns : (c.trapEntry x secure).ns = if secure then false else c.ns := by
  cases secure <;> simp [Core.trapEntry, Core.ns, BitVec.testBit_toNat, show Nat.testBit 18 2 = false from rfl,
    show Nat.testBit 4294967294 2 = true from rfl, show Nat.testBit 4294967290 2 = false from rfl]

end

theorem Dev.core_setCore_same {d : Dev} {n : Nat} (k : Core) (h : n < d.cores.length) : (d.setCore n k).core n = k :=
  putAt_getD_same h

theorem Dev.syncTrap_enters {d : Dev} {n : Nat} {x : CoreTrap} (h : (d.core n).intrap = false) :
    d.syncTrap n x = d.setCore n ((d.core n).trapEntry x (decide (x.cause = 0xB) && decide (n < 4))) :=
  if_neg (by simp [h])

/-- Settles O44: the entry's fields, its STATUS bits by the lemmas above, and the double trap. -/
theorem trapsEnterAsTheirRuleGives : Obligations.TrapsEnterAsTheirRuleGives := by
  intro d n x hn hlen hcause
  refine ⟨fun hin => ?_, fun hin => if_pos hin⟩
  rw [Dev.syncTrap_enters hin]
  refine ⟨_, rfl, Dev.core_setCore_same _ (by omega), rfl, rfl, rfl, rfl, rfl, rfl, Core.trapEntry_ie .., Core.trapEntry_priv ..,
    Core.trapEntry_intrap .., ?_, rfl, rfl, rfl, rfl, rfl, rfl, rfl, rfl, rfl, rfl, fun _ => rfl⟩
  rw [Core.trapEntry_ns]
  exact if_congr (by simp) rfl rfl

/-! The queue's front command. -/

/-- Settles O46: a step takes the front command off the queue by its definition, and no row of the command table gives bits. -/
theorem theFrontCommandRunsFirst : Obligations.TheFrontCommandRunsFirst :=
  ⟨fun _ _ _ => rfl, fun _ _ _ => ⟨rfl, rfl⟩⟩

end Sys2Proof.Machine
end

section
/-! SUPPORT. The event router and the interrupt controller (R357–R376): what each source, write and claim comes to in a case of its
rule; the statements of 16_event_router_interrupts.md on them settled with these facts. -/

namespace Sys2Proof.Machine

open Sys2Proof

/-! Pins, timers, pulses and holdoffs (R357, R359, R360). -/

section

variable {d : Dev}

theorem gpioEdge_taken {p : Nat} {level : Bool} {e : Dev} (hp : p < 32) (hl : d.pins.gpioIn.testBit p ≠ level)
    (he : e = { d with pins := { d.pins with gpioIn := putBitN d.pins.gpioIn p level } }) :
    gpioEdge p level d =
      if (level && (e.pinSelect Fld.evrGpioEvt_evt p = 1 || e.pinSelect Fld.evrGpioEvt_evt p = 3)) ||
        (!level && (e.pinSelect Fld.evrGpioEvt_evt p = 2 || e.pinSelect Fld.evrGpioEvt_evt p = 3)) then e.raise (0x70 + p)
      else e := by
  rw [he]
  exact if_neg (by simp [hp, hl])

theorem tmrCtrlWrite_acts {who : Initiator} {n : Nat} {w : Word} {e f : Dev} (hup : d.domUp 1 = true) (hn : n < 8)
    (hwho : d.secureOrHost who = true)
    (he : e = (d.rsvd who (Reg.evrTmrCtrl + 8 * n) w).wr Fld.evrTmrCtrl_periodic (wBits w 1 1) n)
    (hf : f = if wBits w 2 2 = 1 then e.timerStart n else e) :
    tmrCtrlWrite who n w d = (if wBits w 3 3 = 1 then f.timerStop n else f).settle := by
  rw [tmrCtrlWrite, if_neg (by simp [hup, hn]), if_neg (by simp [hwho]), hf, he]

theorem wBits_of_testBit {w : Word} {k : Nat} (h : w.toNat.testBit k = true) : wBits w k k = 1 := by
  simpa [wBits, bitsOf, Nat.shiftRight_eq_div_pow, Nat.testBit_eq_decide_div_mod_eq] using h

theorem wBits_or_start (w : Word) : wBits (w ||| 4#32) 2 2 = 1 :=
  wBits_of_testBit (by simp [Nat.testBit_or, show Nat.testBit 4 2 = true from rfl])

theorem wBits_or_stop (w : Word) : wBits (w ||| 8#32) 3 3 = 1 :=
  wBits_of_testBit (by simp [Nat.testBit_or, show Nat.testBit 8 3 = true from rfl])

theorem eventTimerExpiry_due {n x : Nat} (hx : alGet n d.evr.expiry = some x) :
    eventTimerExpiry n d =
      ((if d.is Fld.evrTmrCtrl_periodic n then
        { d with evr := { d.evr with expiry := alSet n (x + d.rd Fld.evrTmrDelay_delay n) d.evr.expiry } }
      else d.timerStop n).raise (0x60 + n)).settle := by
  simp only [eventTimerExpiry, hx]

theorem modifyAt_getD {α : Type} (f : α → α) (i j : Nat) (e : α) (l : List α) :
    (modifyAt f i l).getD j e = if j = i ∧ j < l.length then f (l.getD j e) else l.getD j e := by
  induction l generalizing i j with
  | nil => cases i <;> simp [modifyAt]
  | cons x xs ih =>
    cases i with
    | zero => cases j <;> simp [modifyAt]
    | succ i =>
      cases j with
      | zero => simp [modifyAt]
      | succ j => simpa [modifyAt] using ih i j

/-! Consumers that wait, and tripped channels (R367, R369, R370). -/

theorem taskPendingServe_free {x c : Nat} {e : Dev} (hc : alGet x d.evr.taskPend = some (c + 1)) (hb : d.taskBusy x = false)
    (he : e = ({ d with evr := { d.evr with
      taskPend := if c = 0 then alDel x d.evr.taskPend else alSet x c d.evr.taskPend } } : Dev).taskAct x 0) :
    taskPendingServe x d = e.serveTask x 0 14 := by
  rw [taskPendingServe, Dev.serveTask, he]
  simp only [hc, hb, Bool.false_eq_true, if_false]

theorem taskPendingServe_nothing {x : Nat}
    (h : d.taskBusy x = true ∨ alGet x d.evr.taskPend = none ∨ alGet x d.evr.taskPend = some 0) : taskPendingServe x d = d := by
  rw [taskPendingServe, Dev.serveTask]
  split
  · next c hc =>
    have hbusy : d.taskBusy x = true := h.resolve_right (by simp [hc])
    exact if_pos hbusy
  · rfl

theorem stormRearm_rearms {p n u : Nat} (hu : (d.chanLog n).trippedAt = some u) (hup : d.domUp 1 = true)
    (hup10 : d.domUp 10 = true) (harm : d.is Fld.evrEcCfg_arm n = false) (hown : d.pairOwns p n = true)
    (hret : d.pairs.retired.contains p = false) (hbar : (d.chanLog n).barred = false) (ht : u + usTicks 1000 ≤ d.tmb) :
    stormRearm p n d = (d.wr Fld.evrEcCfg_arm 1 n).setChanLog n { rearmedAt := some d.tmb } := by
  simp only [stormRearm, hu]
  exact if_neg (by simp only [hup, hup10, harm, hown, hret, hbar, Nat.not_lt.mpr ht]; decide)

end

/-- Settles O15: each source by its lemma above; a holdoff changes one cell. -/
theorem eventSourcesAct : Obligations.EventSourcesAct := by
  unfold Obligations.EventSourcesAct
  refine ⟨?gpio, ?start, ?stop, ?expiry, ?pulse, ?holdoff, ?serve, ?rearm⟩
  case gpio =>
    exact fun d p level e hp hl he => Answers.intro (f := gpioEdge p level) (fun _ => rfl) (gpioEdge_taken hp hl he)
  case start =>
    intro d who n w e hup hn hwho he
    refine Answers.intro (f := tmrCtrlWrite who n (w ||| 4#32)) (fun _ => rfl) (tmrCtrlWrite_acts hup hn hwho rfl ?_)
    rw [he, if_pos (wBits_or_start w)]
  case stop =>
    intro d who n w e f hup hn hwho he hf
    refine Answers.intro (f := tmrCtrlWrite who n (w ||| 8#32)) (fun _ => rfl) ?_
    rw [tmrCtrlWrite_acts hup hn hwho he hf, if_pos (wBits_or_stop w)]
  case expiry =>
    exact fun d n x hx => Answers.intro (f := eventTimerExpiry n) (fun _ => rfl) (eventTimerExpiry_due hx)
  case pulse => exact fun d line => Answers.intro (f := pulseEnd line) (fun _ => rfl) rfl
  case holdoff =>
    refine fun d k => Answers.intro (f := holdoffEnd k) (fun _ => rfl) ⟨rfl, rfl, fun j => ?_⟩
    exact modifyAt_getD (fun c : LogicCell => { c with hold := false }) k j {} d.evr.cells
  case serve =>
    exact fun d x => Answers.intro (f := taskPendingServe x) (fun _ => rfl)
      ⟨fun c e hc hb he => taskPendingServe_free hc hb he, taskPendingServe_nothing⟩
  case rearm =>
    exact fun d p n u hu hup hup10 harm hown hret hbar ht => Answers.intro (f := stormRearm p n) (fun _ => rfl)
      (stormRearm_rearms hu hup hup10 harm hown hret hbar ht)

/-! Configuration writes of channels, cells and interrupts (R361–R366, R373). -/

section

variable {d : Dev} {who : Initiator} (hup : d.domUp 1 = true)

include hup

/-- A channel write that no rule refuses is stored, and an armed channel starts with an empty history. -/
theorem evrEcnCfgWrite_stores {n : Nat} {w : Word} (hn : n < 64)
    (hwho : d.monitor who = true ∨ (d.ownsChannel who n = true ∧ wBits w 30 26 = wBits (d.reg (Reg.evrEcCfg + 8 * n)) 30 26))
    (hsrc : srcListed (wBits w 7 0) = true) (htask : taskListed (wBits w 15 8) = true) (howner : wBits w 29 26 ≠ 15)
    (harm : wBits w 31 31 = 1 → (wBits w 30 30 = 1 → secureOnlyChannel (wBits w 7 0) (wBits w 15 8) = false) ∧
      (0x80 ≤ wBits w 15 8 → wBits w 15 8 < 0x90 → d.femcOwned (wBits w 15 8 - 0x80) = false) ∧
      armCycle d.cellComb (w.toNat :: (d.armed.filter fun c => c.1 != n).map fun c => c.2.toNat) = false) :
    evrEcnCfgWrite who n w d =
      if wBits w 31 31 = 1 then (d.plainWrite who (Reg.evrEcCfg + 8 * n) w).setChanLog n {}
      else d.plainWrite who (Reg.evrEcCfg + 8 * n) w := by
  have hmay : ¬ (!d.monitor who &&
      !(d.ownsChannel who n && wBits w 30 26 = wBits (d.reg (Reg.evrEcCfg + 8 * n)) 30 26)) = true := by
    rcases hwho with h | ⟨h, hkeep⟩
    · simp [h]
    · simp [h, hkeep]
  have hsecure : ¬ (decide (wBits w 31 31 = 1) && decide (wBits w 30 30 = 1) &&
      secureOnlyChannel (wBits w 7 0) (wBits w 15 8)) = true := by
    simp only [Bool.and_eq_true, decide_eq_true_eq, not_and, Bool.not_eq_true, and_imp]
    exact fun ha => (harm ha).1
  have hfree : ¬ (decide (wBits w 31 31 = 1) && decide (0x80 ≤ wBits w 15 8) && decide (wBits w 15 8 < 0x90) &&
      d.femcOwned (wBits w 15 8 - 0x80)) = true := by
    simp only [Bool.and_eq_true, decide_eq_true_eq, not_and, Bool.not_eq_true, and_imp]
    exact fun ha => (harm ha).2.1
  have hacyclic : ¬ (decide (wBits w 31 31 = 1) &&
      armCycle d.cellComb (w.toNat :: (d.armed.filter fun c => c.1 != n).map fun c => c.2.toNat)) = true := by
    simp only [Bool.and_eq_true, decide_eq_true_eq, not_and, Bool.not_eq_true]
    exact fun ha => (harm ha).2.2
  rw [evrEcnCfgWrite, if_neg (by simp [hup, hn]), if_neg hmay, if_neg (by simp [hsrc, htask, howner]), if_neg hsecure,
    if_neg hfree, if_neg hacyclic]

theorem evrLunCfgWrite_stores {k : Nat} {w : Word} (hk : k < 32) (hwho : d.secureOrHost who = true) (hw : luValid w = true)
    (hc : armCycle (fun j => if j = k then wBits w 2 0 = 1 && wBits w 3 3 = 0 else d.cellComb j)
      (d.armed.map fun c => c.2.toNat) = false) :
    evrLunCfgWrite who k w d = (d.plainWrite who (Reg.evrLuCfg + 4 * k) w).setCell k {} := by
  rw [evrLunCfgWrite, if_neg (by simp [hup, hk]), if_neg (by simp [hwho]), if_neg (by simp [hw]), if_neg (by simp [hc])]

section

variable {n : Nat} {w : Word} (hn : irqListed n = true) (hmay : d.mayCfgIrq who n w = true)

include hn hmay

theorem irqCfgWrite_stores (hs : isStormIrq n = false) (ht : wBits w 3 0 < 10) (hsec : wBits w 30 30 = 1 → wBits w 3 0 < 5) :
    irqCfgWrite who n w d = d.plainWrite who (Reg.irqCfg + 4 * n) w := by
  have hgood : ¬ (decide (10 ≤ wBits w 3 0) || (decide (wBits w 30 30 = 1) && decide (5 ≤ wBits w 3 0))) = true := by
    simp only [Bool.or_eq_true, Bool.and_eq_true, decide_eq_true_eq]
    omega
  rw [irqCfgWrite, if_neg (by simp [hup, hn]), if_neg (by simp [hmay])]
  simp only [hs, Bool.false_eq_true, if_false]
  exact if_neg hgood

/-- A storm interrupt keeps its TARGET and SEC, which are RO there. -/
theorem irqCfgWrite_storm (hs : isStormIrq n = true) (ht : d.irqTarget n < 10) (hsec : d.irqSec n = true → d.irqTarget n < 5) :
    irqCfgWrite who n w d =
      d.plainWrite who (Reg.irqCfg + 4 * n) ((w &&& 0xBFFFFFF0#32) ||| (d.reg (Reg.irqCfg + 4 * n) &&& 0x4000000F#32)) := by
  have hgood : ¬ (decide (10 ≤ d.irqTarget n) || (d.irqSec n && decide (5 ≤ d.irqTarget n))) = true := by
    simp only [Bool.or_eq_true, Bool.and_eq_true, decide_eq_true_eq]
    rintro (h | ⟨hns, h⟩)
    · omega
    · exact absurd (hsec hns) (by omega)
  rw [irqCfgWrite, if_neg (by simp [hup, hn]), if_neg (by simp [hmay])]
  simp only [hs, if_true]
  exact if_neg hgood

end

/-! Pending bits, claims and software interrupts (R374–R376). -/

theorem irqPendWrite_clears {j : Nat} {w : Word} (hj : j < 8) :
    irqPendWrite who j w d = (List.range 32).foldl (fun e b =>
      if w.toNat.testBit b && e.mayClearIrq who (32 * j + b) then e.clearIrq (32 * j + b) else e) d :=
  if_neg (by simp [hup, hj])

section

variable {n : Nat} (hn : n < 8) (hwho : who = .core n)

include hn hwho

theorem irqClaim_asserting {k : Nat} (hk : d.irqInput n = some k) :
    irqClaim who n d = (d.clearIrq k).emit (.readData who (Reg.irqClaimR + 4 * n) (2 ^ 31 + k)) := by
  rw [irqClaim, if_neg (by simp [hup, hn]), Dev.irqClaim, if_pos hwho]
  simp only [hk]

theorem irqClaim_silent (hk : d.irqInput n = none) :
    irqClaim who n d = d.emit (.readData who (Reg.irqClaimR + 4 * n) 0) := by
  rw [irqClaim, if_neg (by simp [hup, hn]), Dev.irqClaim, if_pos hwho]
  simp only [hk]

end

theorem irqSgi_sets {w : Word} (hwho : who = .host ∨ ∃ n, who = .core n) :
    irqSgi who w d = (List.range 32).foldl (fun e k => if !w.toNat.testBit k then e
      else if e.irqSec (200 + k) && !e.secure who then e.refuseWrite who Reg.irqSgi else e.setIrq (200 + k)) d := by
  rcases hwho with rfl | ⟨n, rfl⟩ <;> exact (if_neg (by simp [hup])).trans (if_neg (by simp))

end

/-- Settles O16: each write and claim by its lemma above. -/
theorem channelsAndInterruptsFollowTheirRules : Obligations.ChannelsAndInterruptsFollowTheirRules := by
  unfold Obligations.ChannelsAndInterruptsFollowTheirRules
  refine ⟨?channel, ?cell, ?config, ?pending, ?claim, ?software⟩
  case channel =>
    intro d who n w hup hn hwho hsrc htask howner harm
    refine Answers.intro (f := evrEcnCfgWrite who n w) (fun _ => rfl) ?_
    rw [evrEcnCfgWrite_stores hup hn hwho hsrc htask howner harm]
    exact ⟨fun ha => if_pos ha, fun ha => if_neg ha⟩
  case cell =>
    exact fun d who k w hup hk hwho hw hc => Answers.intro (f := evrLunCfgWrite who k w) (fun _ => rfl)
      (evrLunCfgWrite_stores hup hk hwho hw hc)
  case config =>
    exact fun d who n w hup hn hmay => Answers.intro (f := irqCfgWrite who n w) (fun _ => rfl)
      ⟨irqCfgWrite_stores hup hn hmay, irqCfgWrite_storm hup hn hmay⟩
  case pending =>
    exact fun d who j w hup hj => Answers.intro (f := irqPendWrite who j w) (fun _ => rfl) (irqPendWrite_clears hup hj)
  case claim =>
    exact fun d who n hup hn hwho => Answers.intro (f := irqClaim who n) (fun _ => rfl)
      ⟨fun k hk => irqClaim_asserting hup hn hwho hk, irqClaim_silent hup hn hwho⟩
  case software =>
    exact fun d who w hup hwho => Answers.intro (f := irqSgi who w) (fun _ => rfl) (irqSgi_sets hup hwho)

end Sys2Proof.Machine
end

section
/-! SUPPORT. The operations of KEY_CMD (R377–R390): what one that no rule refuses starts with, and the effect of each; the statement
of 17_keys_lifecycle.md about them settled with these facts. -/

namespace Sys2Proof.Machine

open Sys2Proof

/-! The operations on blobs (Table 17.4). -/

section

variable {d : Dev} {slot : Nat} {kek : Bool} {k : List Byte} (hk : d.blobKey kek = .ok k)

include hk

theorem Dev.keyEffect_unwrap_invalid (hb : (kwUnwrap k d.keyData).bind blobParts = none) :
    d.keyEffect 3 slot kek = (d, Code.blobInvalid, [], []) := by
  simp only [Dev.keyEffect, hk, hb]

theorem Dev.keyEffect_unwrap {w0 w1 : Nat} {key : List Byte} (hb : (kwUnwrap k d.keyData).bind blobParts = some (w0, w1, key)) :
    d.keyEffect 3 slot kek =
      if enginesOk (bitsOf w0 21 16) then
        (d.putKey slot (key.take (if w0.testBit 8 then 32 else 16)) (w0.testBit 8) (bitsOf w0 21 16) 1 w0 0, Code.ok, [], [])
      else (d, Code.reservedField, [], []) := by
  simp only [Dev.keyEffect, hk, hb]

theorem Dev.keyEffect_wrap :
    d.keyEffect 4 slot kek = (d, Code.ok, kwWrap k (d.keyData.take 8 ++ padTo 32 (d.keyBytes slot)), []) := by
  simp only [Dev.keyEffect, hk]

end

/-! A command that starts (R380). -/

section

variable {d e : Dev} {who : Initiator} {slot op : Nat} {kek : Bool} (hup : d.domUp 25 = true) (hwho : d.secure who = true)
  (hidle : d.is Fld.keyStatus_busy = false) (hslot : slot < 512) (he : e = d.wr Fld.keyStatus_busy 1)
  (hmay : e.keyRefusal op slot kek = none)

include hup hwho hidle hslot he hmay

/-- An operation that no rule refuses has its effect at once; BUSY and what it keeps for its end stay until then. -/
theorem keyCmd_starts {f : Dev} {result : Nat} {out : List Byte} {bits : List (Nat × Nat)}
    (hf : e.keyEffect op slot kek = (f, result, out, bits)) :
    keyCmd op who slot kek d =
      { f with keys := { f.keys with op := some { op := op, slot := slot, result := result, out := out, bits := bits } } } := by
  have hgo : ¬ (!d.secure who || d.is Fld.keyStatus_busy) = true := by simp [hwho, hidle]
  rw [keyCmd, if_neg (by simp [hup]), if_neg hgo, Dev.keyStart, Nat.mod_eq_of_lt hslot, ← he]
  simp only [hmay, hf]

theorem answers_keyCmd {i : Instr} (hi : ∀ s, exec i s = s.run (keyCmd op who slot kek)) {f : Dev} {result : Nat} {out : List Byte}
    {bits : List (Nat × Nat)} (hf : e.keyEffect op slot kek = (f, result, out, bits)) :
    Answers i d fun t => t = { f with keys := { f.keys with
      op := some { op := op, slot := slot, result := result, out := out, bits := bits } } } :=
  Answers.intro hi (keyCmd_starts hup hwho hidle hslot he hmay hf)

end

/-- Settles O20: each operation starts as `keyCmd_starts` gives, with the effect of its row: of a blob by the lemmas above, of any
other by the definition. -/
theorem keyCommandsAct : Obligations.KeyCommandsAct := by
  unfold Obligations.KeyCommandsAct
  refine ⟨?load, ?clear, ?unwrap, ?wrap, ?derive, ?lock, ?loadKr, ?progKr⟩
  case load | clear | derive | lock | loadKr | progKr =>
    rintro d who slot e f hup hwho hidle hslot he hmay rfl
    exact answers_keyCmd hup hwho hidle hslot he hmay (fun _ => rfl) rfl
  case unwrap =>
    intro d who slot kek e f k hup hwho hidle hslot he hmay hk
    refine Answers.intro (f := keyCmd 3 who slot kek) (fun _ => rfl)
      ⟨fun hb => ?_, fun w0 w1 key hb hg hf => ?_, fun w0 w1 key hb hg => ?_⟩
    · exact keyCmd_starts hup hwho hidle hslot he hmay (Dev.keyEffect_unwrap_invalid hk hb)
    · rw [hf]
      exact keyCmd_starts hup hwho hidle hslot he hmay ((Dev.keyEffect_unwrap hk hb).trans (if_pos hg))
    · exact keyCmd_starts hup hwho hidle hslot he hmay ((Dev.keyEffect_unwrap hk hb).trans (if_neg (by simp [hg])))
  case wrap =>
    rintro d who slot kek e f k hup hwho hidle hslot he hmay hk rfl
    exact answers_keyCmd hup hwho hidle hslot he hmay (fun _ => rfl) (Dev.keyEffect_wrap hk)

end Sys2Proof.Machine
end

section
/-! SUPPORT. The cipher array's requests (R384, R401–R410) and the memory rows that are retired (R424–R426): what each submission,
end and fault comes to in a case of its rule; the statement of 18_cipher_array.md on them settled with these facts. -/

namespace Sys2Proof.Machine

open Sys2Proof

/-! Node keys and submissions (R384, R401–R404). -/

section

variable {d : Dev}

section

variable {slot : Nat} {r : Dev × UnwrapEnd} (hup : d.domUp 25 = true) (hup22 : d.domUp 22 = true) (hr : r = d.nodeUnwrap slot)

include hup hup22 hr

theorem nodeUnwrapDone_served (h : ∀ c, r.2 ≠ .failed c) : nodeUnwrapDone slot d = r.1 := by
  rw [nodeUnwrapDone, if_neg (by simp [hup, hup22]), ← hr]
  dsimp only
  split
  · next c hc => exact absurd hc (h c)
  · rfl

/-- A key that does not unwrap ends the requests that wait for it. -/
theorem nodeUnwrapDone_failed {c : Nat} {waits : List CipherReq} (hc : r.2 = .failed c)
    (hw : waits = r.1.cph.queue.filter fun q => match r.1.keyCheck q with | .wait n => n = slot | _ => false) :
    nodeUnwrapDone slot d = ((waits.foldl (fun e q => (e.unqueue q.id).keyRefused q c) r.1).cphRefillAll).settle := by
  rw [nodeUnwrapDone, if_neg (by simp [hup, hup22]), ← hr, hw]
  simp only [hc] <;> rfl

end

/-- The two checks of R401 on an address: it is a multiple of 32, and the 32 octets lie in the core's own memory or in the shared
one, outside what is kept to the secure state. -/
theorem descriptor_mayBeNamed {who : Initiator} {n a : Nat} (ha : a % 32 = 0)
    (hrange : (0x04000000 + n * 0x100000 + 0x20000 ≤ a ∧ a + 32 ≤ 0x04000000 + n * 0x100000 + 0x60000) ∨
      (0x10000000 ≤ a ∧ a + 32 ≤ 0x10C00000) ∨ (0x11000000 ≤ a ∧ a + 32 ≤ 0x11200000))
    (hns : d.normalCore who = true → secureOnlyMem a = false) :
    ¬ (a % 32 ≠ 0 ∨
      ¬ ((decide (0x04000000 + n * 0x100000 + 0x20000 ≤ a) && decide (a + 32 ≤ 0x04000000 + n * 0x100000 + 0x60000)) = true ∨
        (decide (0x10000000 ≤ a) && decide (a + 32 ≤ 0x10C00000) ||
          decide (0x11000000 ≤ a) && decide (a + 32 ≤ 0x11200000)) = true) ∨
      d.normalCore who = true ∧ secureOnlyMem a = true) := by
  simp only [Bool.or_eq_true, Bool.and_eq_true, decide_eq_true_eq, ha, hrange, ne_eq, not_true_eq_false, false_or,
    not_and, Bool.not_eq_true]
  exact hns

section Submit

variable {who : Initiator} {n a : Nat} {e : Dev} {r : CipherReq} (hwho : who = .core n) (hup : d.domUp 24 = true)
  (ha : a % 32 = 0)
  (hrange : (0x04000000 + n * 0x100000 + 0x20000 ≤ a ∧ a + 32 ≤ 0x04000000 + n * 0x100000 + 0x60000) ∨
    (0x10000000 ≤ a ∧ a + 32 ≤ 0x10C00000) ∨ (0x11000000 ≤ a ∧ a + 32 ≤ 0x11200000))
  (hns : d.normalCore who = true → secureOnlyMem a = false) (hmem : d.memUp a 32 = true)
  (he : e = d.descResult a Code.pending 0)
  (hr : r = { descReq n a (d.bytes a 32) with id := e.cph.nextId, admitted := e.tmb })
include hwho hup ha hrange hns hmem he hr

theorem cphSubmit_refused {c : Nat}
    (hc : e.descCheck (d.normalCore who) (descReservedOk (d.bytes a 32)) r = some c) :
    cphSubmit who a d = (if c = Code.lengthExceedsHold then e.bump Fld.cphStat1_holdRefused else e).cphComplete r c [] := by
  have hmay := descriptor_mayBeNamed (d := d) ha hrange hns
  subst hwho
  simp only [cphSubmit, hup, if_neg hmay, hmem, Bool.not_true, Bool.false_eq_true, if_false, ← he, ← hr, hc]

theorem cphSubmit_accepted {g : Dev}
    (hc : e.descCheck (d.normalCore who) (descReservedOk (d.bytes a 32)) r = none)
    (hg : g = { e with cph := { e.cph with nextId := e.cph.nextId + 1 } }) :
    cphSubmit who a d =
      (if g.cphRoom r then g.cphAdmit r else { g with cph := { g.cph with held := g.cph.held ++ [r] } }).settle := by
  have hmay := descriptor_mayBeNamed (d := d) ha hrange hns
  subst hwho
  simp only [cphSubmit, hup, if_neg hmay, hmem, Bool.not_true, Bool.false_eq_true, if_false, ← he, ← hr, hc, hg]
  split <;> rfl

end Submit

/-! Engines (R405–R408). -/

theorem cipherDispatch_takes {n : Nat} {ns : List Nat} {r : CipherReq} (hn : d.startUnwraps.freeEngines = n :: ns)
    (hr : d.startUnwraps.nextRequest = some r) :
    cipherDispatch d = (((d.startUnwraps.engineTake n r).cphRefillAll).sweepDoomed).settle := by
  simp only [cipherDispatch, hn, hr]

theorem cipherSuspend_suspends {k : BlockBoundary} {n : Nat} {r : CipherReq} {x : Running} {b : Dev × Running} {e : Dev}
    (hn : n = k.engine) (hm : (d.engine n).marked = true) (hx : (d.engine n).run = some x) (hs : (d.engine n).susp = none)
    (hr : d.nextOfRank 0 = some r) (hb : b = d.atBoundary x k.copied)
    (he : e = (b.1.setEngine n { d.engine n with susp := some b.2, run := none, marked := false }).engineTake n r) :
    cipherSuspend k d =
      if (e.engine n).run = none then e.setEngine n { e.engine n with run := (e.engine n).susp, susp := none } else e := by
  have hgo : ((d.engine k.engine).marked && (d.engine k.engine).susp.isNone) = true := by rw [← hn, hm, hs]; rfl
  subst hn
  simp only [cipherSuspend, hx, hr, if_pos hgo, ← hb, ← he, Option.isNone_iff_eq_none]

section

variable {n : Nat} {fault : CipherFault} {x : Running} {e : Dev}

/-- What an engine's end does with its request: a fault's word is fetched again, and a buffer row that stays faulty retires the
engine (R408, R421); `cipherRequestDone_ends` ties it to the command. -/
def Dev.requestEnds (e : Dev) (n : Nat) (x : Running) : CipherFault → Dev
  | .none => e.runningEnds x
  | .source a k =>
    if (e.fetch (memRes a) a k).2 = FetchOutcome.exhausted then
      (e.fetch (memRes a) a k).1.cphComplete x.req Code.replayExhausted []
    else (e.fetch (memRes a) a k).1.runningEnds x
  | .hold off k =>
    match (e.fetch (bufferRow n off) 0 k).2 with
    | .good => (e.fetch (bufferRow n off) 0 k).1.runningEnds x
    | .permanent => ((e.fetch (bufferRow n off) 0 k).1.runningEnds x).bufferLost n (bufferRow n off)
    | .exhausted => ((e.fetch (bufferRow n off) 0 k).1.copyLost x).bufferLost n (bufferRow n off)

theorem cipherRequestDone_ends (hx : (d.engine n).run = some x)
    (he : e = d.setEngine n { d.engine n with run := none, marked := false }) :
    cipherRequestDone n fault d = ((((e.requestEnds n x fault).engineNext n).cphRefillAll).sweepDoomed).settle := by
  rw [he]
  simp only [cipherRequestDone, hx]
  cases fault <;> rfl

end

/-! Requests that wait (R404, R409). -/

theorem bulkAge_marks {id : Nat} {r : CipherReq} (hr : r ∈ d.cph.queue) (hid : r.id = id) (hcls : r.cls = 2)
    (haged : r.aged = false) :
    bulkAge id d = ({ d with cph := { d.cph with queue := d.cph.queue.map fun (r : CipherReq) =>
      if r.id = id then { r with aged := true } else r } } : Dev).bump Fld.cphStat2_bulkAged :=
  if_pos (List.any_eq_true.mpr ⟨r, hr, by simp [hid, hcls, haged]⟩)

theorem cipherDomainTimeout_queued {id : Nat} {r : CipherReq}
    (hq : (d.cph.queue.find? fun r => r.id = id && !d.cphReady r) = some r) :
    cipherDomainTimeout id d = (((d.unqueue id).cphComplete r Code.domainOff []).cphRefillAll).settle := by
  simp only [cipherDomainTimeout, hq]

theorem cipherDomainTimeout_waiting {id : Nat} {r : CipherReq}
    (hq : (d.cph.queue.find? fun r => r.id = id && !d.cphReady r) = none)
    (hw : (d.cph.waiting.find? fun r => r.id = id && d.domSt 24 ≠ .on) = some r) :
    cipherDomainTimeout id d =
      (({ d with cph := { d.cph with waiting := d.cph.waiting.filter fun x => x.id != id } } : Dev).cphComplete r
        Code.domainOff []).settle := by
  simp only [cipherDomainTimeout, hq, hw]

/-! Rows, queues and sparing pairs that are retired (R424–R426). -/

section

variable {res : Nat} {entry : Option Nat} {bucket : Option (Nat × Nat)} {e : Dev} (hres : res < 2 ^ 28)
  (he : e = (let f := if d.err.waiting.contains res then d else d.permanent res
    ({ f with err := { f.err with waiting := f.err.waiting.filter (· != res) } } : Dev)))

include hres he

/-- The retirement of a row: memories 58 to 61 have their own rule, any other takes a spare where it has spares. -/
theorem rowRemapDone_plain (hm : resMem res < 58 ∨ 61 < resMem res) :
    rowRemapDone res entry bucket d =
      if spareCount (resMem res) = 0 then e.bump Fld.errStat2_retireFail else e.rowRetire res := by
  rw [rowRemapDone, if_neg (Nat.not_le.mpr hres), he]
  simp only [show resMem res ≠ 58 by omega, show resMem res ≠ 59 by omega, show resMem res ≠ 60 by omega,
    show resMem res ≠ 61 by omega, if_false]

theorem rowRemapDone_calibration {n : Nat} (hm : resMem res = 58) (hn : entry = some n) (hlt : n < 162) :
    rowRemapDone res entry bucket d = e.wr Fld.rfsCalEntry_valid 0 n := by
  rw [rowRemapDone, if_neg (Nat.not_le.mpr hres), he]
  simp only [hm, hn, hlt, if_true]

theorem rowRemapDone_duty {n sec : Nat} (hm : resMem res = 59) (hb : bucket = some (n, sec)) :
    rowRemapDone res entry bucket d = (e.setDutyHist n { e.dutyHist n with
      buckets := ((e.dutyHist n).buckets.filter fun b => b.1 != sec) ++ [(sec, 65535)] }).dutyRegs n := by
  rw [rowRemapDone, if_neg (Nat.not_le.mpr hres), he]
  simp only [hm, hb, if_true]
  rfl

theorem rowRemapDone_pair {p : Nat} (hm : resMem res = 60) (hp : entry = some p) (hlt : p < 5) :
    rowRemapDone res entry bucket d = e.mismatch p := by
  rw [rowRemapDone, if_neg (Nat.not_le.mpr hres), he]
  simp only [hm, hp, hlt, if_true]
  rfl

theorem rowRemapDone_buffer (hm : resMem res = 61) (hlt : res % 2 ^ 22 < 96) :
    rowRemapDone res entry bucket d = e.bufferLost (res % 2 ^ 22 / 4) res := by
  rw [rowRemapDone, if_neg (Nat.not_le.mpr hres), he]
  simp only [hm, hlt, if_true]
  rfl

end

theorem queueRetireMove_moves {q : Nat} {e : Dev} (hq : q < 128)
    (he : e = if d.err.waiting.contains (unitRes 2 q) then d else d.permanent (unitRes 2 q)) :
    queueRetireMove q d =
      ({ e with err := { e.err with waiting := e.err.waiting.filter (· != unitRes 2 q) } } : Dev).queueMove q := by
  rw [he]
  exact if_neg (Nat.not_le.mpr hq)

end

/-- Settles O22: each submission, end, timeout and retirement by its lemma above. -/
theorem cipherArrayServesRequests : Obligations.CipherArrayServesRequests := by
  unfold Obligations.CipherArrayServesRequests
  refine ⟨?unwrap, ?submit, ?dispatch, ?suspend, ?done, ?age, ?queued, ?waiting, ?row, ?queue, ?sparing⟩
  case unwrap =>
    exact fun d slot r hup hup22 hr => Answers.intro (f := nodeUnwrapDone slot) (fun _ => rfl)
      ⟨nodeUnwrapDone_served hup hup22 hr, fun c waits hc hw => nodeUnwrapDone_failed hup hup22 hr hc hw⟩
  case submit =>
    intro d who n a e r hwho hup ha hrange hns hmem he hr
    refine Answers.intro (f := cphSubmit who a) (fun _ => rfl) ⟨fun hc g hg => ?_, fun c hc => ?_⟩
    · exact cphSubmit_accepted hwho hup ha hrange hns hmem he hr hc hg
    · exact cphSubmit_refused hwho hup ha hrange hns hmem he hr hc
  case dispatch =>
    exact fun d n ns r hn hr => Answers.intro (f := cipherDispatch) (fun _ => rfl) (cipherDispatch_takes hn hr)
  case suspend =>
    exact fun d k n r x b e hn hm hx hs hr hb he => Answers.intro (f := cipherSuspend k) (fun _ => rfl)
      (cipherSuspend_suspends hn hm hx hs hr hb he)
  case done =>
    intro d n fault x e ends hx he hends
    refine Answers.intro (f := cipherRequestDone n fault) (fun _ => rfl) ?_
    rw [cipherRequestDone_ends hx he, hends]
    refine ⟨?_, ?_, ?_, ?_, ?_, ?_⟩
    · rintro rfl
      rfl
    · rintro a k rfl ho
      rw [Dev.requestEnds, if_neg ho]
    · rintro a k rfl ho
      rw [Dev.requestEnds, if_pos ho]
    all_goals
      rintro off k rfl ho
      simp only [Dev.requestEnds, ho]
  case age =>
    exact fun d id r hr hid hcls haged => Answers.intro (f := bulkAge id) (fun _ => rfl) (bulkAge_marks hr hid hcls haged)
  case queued =>
    exact fun d id r hq => Answers.intro (f := cipherDomainTimeout id) (fun _ => rfl) (cipherDomainTimeout_queued hq)
  case waiting =>
    exact fun d id r hq hw => Answers.intro (f := cipherDomainTimeout id) (fun _ => rfl) (cipherDomainTimeout_waiting hq hw)
  case row =>
    intro d res entry bucket e hres he
    refine Answers.intro (f := rowRemapDone res entry bucket) (fun _ => rfl)
      ⟨fun hm hs => ?_, fun hm hs => ?_, fun hm n hn hlt => rowRemapDone_calibration hres he hm hn hlt,
        fun hm n sec hb => rowRemapDone_duty hres he hm hb, fun hm p hp hlt => rowRemapDone_pair hres he hm hp hlt,
        fun hm hlt => rowRemapDone_buffer hres he hm hlt⟩
    · rw [rowRemapDone_plain hres he hm, if_neg hs]
    · rw [rowRemapDone_plain hres he hm, if_pos hs]
  case queue =>
    exact fun d q e hq he => Answers.intro (f := queueRetireMove q) (fun _ => rfl) (queueRetireMove_moves hq he)
  case sparing => exact fun d bad => Answers.intro (f := sparingMapCheck bad) (fun _ => rfl) rfl

end Sys2Proof.Machine
end

section

/-! SUPPORT. A host command that reads a word failing its parity (R420–R422). `Dev.serveCmd_faulty` is the rule of serving a
command that carries such a fault; `StartsWith.answers_fault` ties it to every command that the host submits, whatever its opcode,
so the eleven commands differ in nothing but the name of their execution. -/
namespace Sys2Proof.Machine

open Sys2Proof

theorem Dev.serveCmd_faulty {e r : Dev} {x : HciCmd} {f : Nat × Nat} {o : FetchOutcome} (hx : x.fault = some f)
    (hr : e.fetch (memRes f.1) f.1 f.2 = (r, o)) :
    e.serveCmd x = if o = .exhausted then r.finish x Code.replayExhausted [] else r.runOpcode { x with fault := none } := by
  simp only [Dev.serveCmd, hx, hr, Dev.done]

/-- A command whose meaning is the host's submission of `op`, started with a fault: the fetch of the faulty word decides whether the
command keeps its own effect. -/
theorem StartsWith.answers_fault {op : Nat} {i : Instr} {c : HostCmd} {d e r : Dev} {x : HciCmd} {f : Nat × Nat} {o : FetchOutcome}
    (h : StartsWith (some f) op c d e x) (hr : e.fetch (memRes f.1) f.1 f.2 = (r, o))
    (hi : ∀ s, exec i s = s.run fun d => d.hostSubmit op c) :
    Answers i d fun t =>
      (o = FetchOutcome.exhausted → t = (r.finish x Code.replayExhausted []).fetchCmds 255) ∧
      (o ≠ FetchOutcome.exhausted → t = (r.runOpcode { x with fault := none }).fetchCmds 255) := by
  refine Answers.intro hi ?_
  rw [h.submit, Dev.serveCmd_faulty h.fault hr]
  exact ⟨fun ho => by rw [if_pos ho], fun ho => by rw [if_neg ho]⟩

/-- Settles O36: the eleven commands that read node memory or a data buffer, each by `StartsWith.answers_fault`. -/
theorem commandsMeetParityFaults : Obligations.CommandsMeetParityFaults := by
  unfold Obligations.CommandsMeetParityFaults
  refine ⟨?txFrame, ?nodeAdd, ?nodeUpdate, ?nodeRemove, ?nodeRead, ?routeSet, ?routeDel, ?snapshot, ?restoreStream, ?fedRecordPut,
    ?regProg⟩
  all_goals exact fun d c f e r x o hs hr => hs.answers_fault hr fun _ => rfl

end Sys2Proof.Machine
end
